-- ==== Sys2Proof/Word.lean ====
section
/-!
DEFINITION. The word types: a register word of 24 bits (R3, R6), a byte, and the 32-bit words of ring entries (R16).
-/

namespace Sys2Proof

/-- A register word (R3). -/
abbrev Word := BitVec 24

/-- A byte of image memory, of a flash or of a message. -/
abbrev Byte := BitVec 8

/-- A word of a ring entry (R16). -/
abbrev Word32 := BitVec 32

end Sys2Proof
end

