-- ==== Sys2Proof/Syntax.lean ====
section
/-!
DEFINITION. The commands of the block, one constructor per row of the command table, with their operands, and the types
of those operands. A time operand `t` is in POS clocks of 4 ns since the first release of RESET_N (R43); that of TCI_CAPTURE,
PPS_IN_EDGE, PTP_MESSAGE and PTP_SEND is in samples of 1 ns, and `t2`, `t3`, `t4`, `tIn`, `tOut` are local time in 2^-16 ns. A sampled input
carries the raw level that has been steady for `k` samples from POS clock `t`.
-/

namespace Sys2Proof

/-- The two host paths (R473): the SPI target and management datagrams. -/
inductive Path where
  | spi | dgm
deriving DecidableEq, Repr

/-- The three PLLs (R46, R519). -/
inductive Pll where
  | core | memory | time
deriving DecidableEq, Repr

/-- What the error correction of image memory reports for an access (R386). -/
inductive MemErr where
  | none | corrected | uncorrectable
deriving DecidableEq, Repr

/-- An IP address (R478). -/
inductive IpAddr where
  | v4 (a : BitVec 32)
  | v6 (a : BitVec 128)
deriving DecidableEq, Repr

/-- The source of a datagram: link-layer address, IP address and UDP port. -/
structure Source where
  mac : BitVec 48
  ip : IpAddr
  udp : Nat
deriving DecidableEq, Repr

/-- A UDP datagram as it reaches the ingest port of an Ethernet port (R115): its source, whether its UDP checksum is valid and, on
IPv4, non-zero, and its payload from the first header byte on. -/
structure Datagram where
  src : Source
  sumOk : Bool
  bytes : List Byte
deriving DecidableEq, Repr

/-- A word of the threshold window, or the size word of the shadow array (R148, R149). -/
inductive ThrWord where
  | win (u : Fin 128) (w : Fin 4)
  | size
deriving DecidableEq, Repr

/-- A NAND block: chip enable 8c + e, LUN, plane and block number. -/
structure NandBlk where
  ce : Nat
  lun : Nat
  plane : Nat
  block : Nat
deriving DecidableEq, Repr

/-- A target that answers READ ID (R397): its chip enable, whether a copy of its parameter page is valid, and what it states: page
data in KiB, spare bytes per page, pages per block, blocks per plane, planes per LUN, LUNs, the fastest rate in MT/s of its
interface, NV-DDR3 (1) or NV-LPDDR4 (2), and its read-retry levels. -/
structure NandTarget where
  ce : Nat
  paramOk : Bool
  kib : Nat
  spare : Nat
  pages : Nat
  blocks : Nat
  planes : Nat
  luns : Nat
  mts : Nat
  mode : Nat
  retries : Nat
deriving DecidableEq, Repr

/-- A copy of the bad-block table (R414). -/
structure BbtCopy where
  magic : Bool
  ok : Bool
  seq : BitVec 24
  bad : List NandBlk
deriving DecidableEq, Repr

/-- A reel as the log holds it (R400 to R402): state 0 OPEN, 1 CLOSED, 2 RETIRED; its codewords as offset, length, band and
band page. -/
structure FoundReel where
  id : BitVec 24
  name : List Byte
  seq : Nat
  st : Nat
  bytes : List Byte
  cws : List (Nat × Nat × Nat × Nat)
deriving DecidableEq, Repr

/-- A band that is in the log or has been erased: its number, sequence, erase count, and whether it is in the log. -/
structure FoundBand where
  n : Nat
  seq : Nat
  erase : Nat
  used : Bool
deriving DecidableEq, Repr

/-- The log as the newest catalogue and the codewords after it give it (R401): the reels, the bands, the newest internal reel sequence, the band
and page of that catalogue, and the store key with the life-cycle count it was wrapped under (R420). -/
structure FoundLog where
  reels : List FoundReel
  bands : List FoundBand
  reelSeq : Nat
  cat : Option (Nat × Nat)
  key : List Byte
  wrapK : Nat
deriving DecidableEq, Repr

/-- What the store finds on opening (R397 to R401, R414, R420): the targets that answer, both copies of the bad-block table, the
log, none where no catalogue can be read, and whether the wrapped store key is whole. -/
structure OpenIn where
  targets : List NandTarget
  copy0 : BbtCopy
  copy1 : BbtCopy
  log : Option FoundLog
  keyOk : Bool
deriving DecidableEq, Repr

/-- What a NAND read would give at each step of the ladder (R412): its tag; for each of the steps 0 to 15 the unsatisfied checks of the hard
decoder, and the bits it corrected where it decodes; and for each level that the soft step may be taken around the bits corrected there, where it
decodes. -/
structure ReadResult where
  tag : Nat
  hard : List (Nat × Option Nat)
  soft : List (Option Nat)
deriving DecidableEq, Repr

/-- A trim a round computes (R463): its kind, the lane, head port, axis or sensor, which of its values (kind 0: 0 data and 1 error
sampler; kind 3: the coil; kind 4: 0 gain and 1 offset), and the value; for kind 1 the sign of the residual. -/
structure TrimVal where
  kind : Fin 6
  idx : Nat
  part : Nat
  val : Int
deriving DecidableEq, Repr

/-- What a trim round computes. -/
structure TrimIn where
  vals : List TrimVal
deriving DecidableEq, Repr

/-- The fuse fields that are programmed from outside the part, as the upsett senses them (R443). -/
structure FuseIn where
  dieId : BitVec 64
  mac : BitVec 48
  mgmtKey : BitVec 256
  keyHash : BitVec 256
  signEn : Bool
  holdEth : Bool
  qspiClk : Fin 4
deriving DecidableEq, Repr

/-- What reading a copy of the skein from its byte 0 gives, and whether every read succeeds (R432, R437). -/
structure SkeinCopy where
  bytes : List Byte
  readOk : Bool
deriving DecidableEq, Repr

/-- What the upsett finds (R429 to R452): the POS clocks of the release of RESET_N, of the entry into step 5, and the POS clocks
that steps 6 and 7 take; the fuses; the activation count at which the DRAM asks for refresh management, as its mode registers give it; the flash's SFDP table, none where invalid, as log2 of its bytes and whether it declares a 1-1-4
fast read; both copies; for each unit whether its self-test passes, and its signature; training failures as set, channel and step; the
level of SENIOR and the accepted level of CLAIM_N; and what the store finds. -/
structure UpsettIn where
  release : Nat
  pair : Nat
  rest : Nat
  fuses : FuseIn
  sfdp : Option (Nat × Bool)
  copy0 : SkeinCopy
  copy1 : SkeinCopy
  bist : List (Bool × BitVec 48)
  train : List (Nat × Nat × Nat)
  raa : Nat
  senior : Bool
  claimN : Bool
  store : OpenIn
deriving DecidableEq, Repr


/-- An Ethernet frame from its destination address to the end of its payload, and whether its FCS is right (R480). -/
structure EthFrame where
  bytes : List Byte
  fcsOk : Bool
deriving DecidableEq, Repr

/-- The commands of the block, one per row of the table. -/
inductive Instr where
  /-- R427: RESET_N goes low: the controller enters reset, stops lanes and FIRE and floats CLAIM_N. -/
  | resetNAssert
  /-- R429: Release of RESET_N starts the start-up sequence that runs steps 0 to 7 in order. -/
  | upsett (x : UpsettIn)
  /-- R520: A monitored rail stays below 92 % for 1 µs and the controller enters reset. -/
  | supplyMonitorReset
  /-- R504: A write of SYS_RESET is checked for KEY and life-cycle state and schedules a reset. -/
  | sysReset (w : Word)
  /-- R504: 100 µs after a valid SYS_RESET write, the controller resets. -/
  | softwareResetExpiry
  /-- R46: The core, memory or time PLL loses lock: FIRE stops, a paired active unit releases the claim and CLOCK_FAULT is raised. -/
  | pllLockLoss (pll : Pll)
  /-- R46: The store PLL loses lock: the store fails with cause INTERFACE and taken ring-8 entries complete with NOT_OPEN. -/
  | storePllLockLoss
  /-- R529: CLK10_IN stops while REF10 is 1: the time PLL holds and switches to REFCLK, clearing LOCKED. -/
  | clk10InLoss
  /-- R37: A write of SYS_COMMIT.HOLD holds RWB values or releases them to their next boundaries. -/
  | sysCommitWrite (w : Word)
  /-- R9: A write to a register field without behaviour of its own, applied under its access code. -/
  | registerWrite (path : Path) (a : BitVec 24) (w : Word)
  /-- R50: A filtered change of the AB state of an encoder steps its count and updates Δ. -/
  | quadratureTransition (n : Fin 8) (t : Nat) (a b : Bool) (k : Nat)
  /-- R54: The index qualifies, the count is captured and checked against the expected position. -/
  | indexCapture (n : Fin 8) (t : Nat) (a b z : Bool) (k : Nat)
  /-- R58: POS_CTRL.CLEAR_FAULT clears the encoder fault and its history. -/
  | posClearFault (n : Fin 8)
  /-- R84: POS_CTRL.PRESET loads POS_PRESET into the count unless the encoder is a running master or fallback. -/
  | posPreset (n : Fin 8)
  /-- R534: POS_CTRL.FORCE_FAULT faults the encoder with cause software. -/
  | posForceFault (n : Fin 8)
  /-- R66: LCK_CTRL.RUN = 1 takes effect at idle: the compare is set, indices and fire number reset to 0. -/
  | lineClockStart
  /-- R68: LCK_CTRL.RUN = 0 takes effect at idle: triggers stop, schedules empty and count-width pulses end. -/
  | lineClockStop
  /-- R64: The master position plus lead reaches the compare: a line trigger is issued and the compare advances by the pitch. -/
  | lineTrigger (t : Nat)
  /-- R78: A ring-11 entry is consumed and inserted into its track's position schedule. -/
  | scheduleInsert
  /-- R76: A PAGE_START entry executes: its page boundary falls and the page's first line begins. -/
  | pageStart (trk : Fin 4) (t : Nat)
  /-- R82: A PEV_PULSE entry drives its output active for its width. -/
  | pevPulse (trk : Fin 4) (t : Nat)
  /-- R82: A PEV_LEVEL entry sets its output level, overriding any pulse. -/
  | pevLevel (trk : Fin 4) (t : Nat)
  /-- R278: An AXIS_RATIO entry applies a held gearing ratio slot to an axis. -/
  | axisRatio (trk : Fin 4) (t : Nat)
  /-- R218: A CAMERA_MARK entry arms distance capture on its camera. -/
  | cameraMark (trk : Fin 4) (t : Nat)
  /-- R81: An EVENT_MARK entry raises POSITION_MARK with its TAG. -/
  | eventMark (trk : Fin 4) (t : Nat)
  /-- R81: A CANCEL entry removes every waiting entry of its track with the same TAG. -/
  | scheduleCancel (trk : Fin 4) (t : Nat)
  /-- R494: A PEV pulse timed in µs reaches the end of its width. -/
  | pevPulseEndUs (n : Fin 8) (t : Nat)
  /-- R494: H reaches the end of a PEV pulse whose width is in counts. -/
  | pevPulseEndCounts (n : Fin 8) (t : Nat)
  /-- R87: PGE_TRK_CTRL.ARM arms an idle track or is refused with CMD_REJ. -/
  | trackArm (trk : Fin 4)
  /-- R90: PGE_TRK_CTRL.STOP lets the current page and gap complete before the track goes IDLE. -/
  | trackStop (trk : Fin 4)
  /-- R87: PGE_TRK_CTRL.ABORT returns a track to IDLE and posts aborted releases. -/
  | trackAbort (trk : Fin 4)
  /-- R89: An ABORT of a printing track takes effect at the next line boundary. -/
  | abortTakesEffect (trk : Fin 4)
  /-- R95: The next page descriptor is consumed and its page started with a PAGE_START entry. -/
  | descriptorConsume (trk : Fin 4)
  /-- R114: The aligned instant of a page's last line passes. -/
  | pageDone (trk : Fin 4) (t : Nat)
  /-- R103: Scan-out issues a 64-byte read after checking the layer's GEN and VALID. -/
  | fetchBurst (trk : Fin 4) (err : MemErr)
  /-- R105: A release entry is posted on ring 4 when the page's last fetch completes or room appears. -/
  | pageRelease (trk : Fin 4)
  /-- R127: A cell's gather of line n decodes and composites its strands into the position store. -/
  | gatherLine (cell : Fin 8)
  /-- R119: An ingest datagram arrives and is dropped, acknowledged as duplicate, or placed in a reorder slot. -/
  | ingestDatagramReceive (port : Fin 2) (d : Datagram)
  /-- R116: A DATA datagram's turn comes and its payload is written to image memory. -/
  | ingestData (st : Fin 4) (err : MemErr)
  /-- R116: A BDSET datagram's turn comes and it writes a buffer descriptor. -/
  | ingestBdset (st : Fin 4)
  /-- R116: A DESC datagram is placed on its track's page ring once the ring has room. -/
  | ingestDesc (st : Fin 4)
  /-- R118: A RESET datagram resets its stream and sets the next expected SEQ. -/
  | ingestReset (port : Fin 2) (d : Datagram)
  /-- R120: An ACK is sent after 16 applied datagrams or when the 100 µs interval expires. -/
  | ingestAck (st : Fin 4) (t : Nat)
  /-- R121: A retransmission request timer expires for a missing sequence number and RETX_REQ is sent. -/
  | retxReq (st : Fin 4) (t : Nat)
  /-- R118: PGE_ING_CTRL.RESET resets an ingest stream and unbinds it. -/
  | streamReset (st : Fin 4)
  /-- R136: A nozzle word is written and held for the next line boundary. -/
  | nozzleWordWrite (h : Fin 32) (i : Fin 4096) (w : Word)
  /-- R147: CMP_HEAD_TONE.SWAP exchanges the active and shadow curves at the positions' page boundaries. -/
  | toneSwap (h : Fin 32)
  /-- R147: A write to a tone shadow window, refused while a swap is pending. -/
  | toneShadowWrite (h : Fin 32) (i : Fin 1024) (w : Word)
  /-- R150: SCR_CTRL.SWAP exchanges the active and shadow threshold arrays at page boundaries. -/
  | thresholdSwap
  /-- R150: A write to the threshold window or SCR_SHADOW_SIZE, refused while a swap is pending. -/
  | thresholdWrite (a : ThrWord) (w : Word)
  /-- R152: A handover completes at the line boundary before line g + 2 after a matching compare. -/
  | stakeHandover (differs : Option (Fin 32))
  /-- R173: In IDENTIFY the 1 ms timer sends IDENT again, restarting the lane after 8. -/
  | identSend (h : Fin 32) (t : Nat)
  /-- R171: A CAPS frame is checked and either accepted toward MEASURE or sends the port to FAILED. -/
  | capsReceived (h : Fin 32) (frame : List Byte)
  /-- R177: An ECHO_REQ is sent on its timer: 100 µs without answer in MEASURE, or every ECHO_INT in READY. -/
  | echoReqSend (h : Fin 32) (t : Nat)
  /-- R177: An ECHO_RSP gives a latency sample that updates L or is discarded. -/
  | echoRspReceived (h : Fin 32) (frame : List Byte) (rttPs : Nat)
  /-- R172: HLK_MBX_CTRL.GO sends a HE_WRITE or HE_READ to a head end. -/
  | heMailboxGo (w : Word) (t : Nat)
  /-- R197: A HE_RESULT completes the mailbox access and HE_ACCESS_DONE is raised. -/
  | heResultReceived (h : Fin 32) (frame : List Byte)
  /-- R196: No HE_RESULT arrives within 1 ms and the access ends with RESULT 2. -/
  | heMailboxTimeout (t : Nat)
  /-- R173: HLK_PORT_CTRL.RETRAIN returns the port to LANE. -/
  | headRetrain (h : Fin 32)
  /-- R196: HLK_PORT_CTRL.CLEAR_COUNTS zeroes the late and error counts. -/
  | headClearCounts (h : Fin 32)
  /-- R175: The LINE frame of a fire number starts once its conditions hold and it can end before its FIRE. -/
  | lineFrameSend (h : Fin 32) (t : Nat) (unread : BitVec 8) (err : MemErr)
  /-- R178: FIRE of a line departs to each READY port at its computed symbol boundary. -/
  | fireSend (h : Fin 32) (t : Nat)
  /-- R184: No frame has started for CLAIM_WIN / 4 and an IDLE frame is sent. -/
  | idleFrameSend (h : Fin 32) (t : Nat)
  /-- R191: A STATUS report in READY updates temperature and health supervision. -/
  | statusReceived (h : Fin 32) (t : Nat) (frame : List Byte)
  /-- R191: No valid STATUS arrives for STATUS_TO and the head enters thermal hold. -/
  | statusTimeout (h : Fin 32) (t : Nat)
  /-- R193: A write of HLK_THERM_WARN; WARN_RUNG = 0 ends a warning at once. -/
  | thermWarnWrite (h : Fin 32) (w : Word)
  /-- R163: An upstream frame fails its checks and is discarded and counted. -/
  | headFrameDiscard (h : Fin 32)
  /-- R200: A camera heartbeat arrives; the first in ACQUIRE brings the camera UP. -/
  | cameraHeartbeat (c : Fin 4) (t : Nat)
  /-- R200: No heartbeat or packet arrives for HB_TO, or the lane loses lock, and the camera is lost. -/
  | cameraLost (c : Fin 4) (t : Nat) (lane : Bool)
  /-- R202: The camera compare is reached and a pulse message triggers a camera line. -/
  | cameraTrigger (c : Fin 4) (t : Nat)
  /-- R203: A camera line arrives and is matched to its trigger, or discarded as stale or wrong width. -/
  | cameraLine (c : Fin 4) (t : Nat) (pixels : List Byte)
  /-- R208: The correlator compares a matched line with the expected store and updates nozzle scores. -/
  | cameraLineScore (c : Fin 4) (err : MemErr)
  /-- R198: A camera packet of an unsupported kind is discarded and counted. -/
  | cameraPacketDiscard (c : Fin 4) (t : Nat)
  /-- R198: A GPIO message from the camera updates INS_CAM_GPIO. -/
  | cameraGpioMessage (c : Fin 4) (t : Nat) (levels : Byte)
  /-- R212: A write to the score window sets a nozzle score and, at 0, clears REPORTED. -/
  | scoreWrite (i : Fin 4096) (w : Word)
  /-- R219: ALN_TP_CTRL.GO requests a test page, merged or refused as applicable. -/
  | testPageGo
  /-- R220: ALN_TP_CTRL.CANCEL removes a pending test page request. -/
  | testPageCancel
  /-- R248: The carriage crosses the arm position of the next pass in its direction. -/
  | passArm (t : Nat)
  /-- R247: The carriage path reaches SPAN and the feed axis reaches its target. -/
  | feedComplete
  /-- R256: AXS_CTRL.ENABLE moves an axis from OFF to HOLD and energises the coils. -/
  | axisEnable (a : Fin 6)
  /-- R256: AXS_CTRL.DISABLE moves an axis to OFF with all bridge outputs low. -/
  | axisDisable (a : Fin 6)
  /-- R256: AXS_CTRL.GO starts or retargets a move, or couples a geared axis. -/
  | axisGo (a : Fin 6)
  /-- R256: AXS_CTRL.STOP decelerates the axis to rest at DMAX. -/
  | axisStop (a : Fin 6)
  /-- R256: AXS_CTRL.ESTOP decelerates the axis to rest at LIM_DEC. -/
  | axisEstop (a : Fin 6)
  /-- R274: AXS_CTRL.HOME starts the homing sequence. -/
  | axisHome (a : Fin 6)
  /-- R256: AXS_CTRL.PRESET loads AXS_TARGET as the position and clears HOMED. -/
  | axisPreset (a : Fin 6)
  /-- R256: AXS_CTRL.CLEAR leaves FAULT for HOLD. -/
  | axisClear (a : Fin 6)
  /-- R268: AXS_CTRL.OFS_RESET clears both offset integrators. -/
  | axisOfsReset (a : Fin 6)
  /-- R258: Once per microsecond the profile generator advances the commanded position. -/
  | profileTick (a : Fin 6) (t : Nat)
  /-- R275: HOME_MAX full steps pass in the approach without a capture and homing fails. -/
  | homingNotFound (a : Fin 6)
  /-- R272: A debounced HOME, LIMP or LIMN level changes. -/
  | switchChange (a : Fin 6) (sw : Fin 3) (level : Bool) (k : Nat)
  /-- R274: The axis rests with the window closed, positions are shifted and HOMED is set. -/
  | homeDone (a : Fin 6)
  /-- R270: Every CHECK_INT the encoder deviation is compared with the window. -/
  | stallCheck (a : Fin 6) (t : Nat)
  /-- R278: A write of AXS_GEAR.SLOT in GEAR makes a ratio change. -/
  | gearSlotWrite (a : Fin 6) (w : Word)
  /-- R278: The source travel reaches the ramp length and the command rebases at the new ratio. -/
  | gearRampEnd (a : Fin 6)
  /-- R266: The blanking time ends and the coil drives. -/
  | chopBlankEnd (a : Fin 6) (coil : Fin 2) (t : Nat)
  /-- R266: The coil current reaches T_HI and the chopper enters decay. -/
  | chopPeak (a : Fin 6) (coil : Fin 2) (t : Nat) (i : BitVec 10)
  /-- R266: In mixed decay FAST_T expires and decay becomes slow. -/
  | chopFastDecayEnd (a : Fin 6) (coil : Fin 2) (t : Nat)
  /-- R266: T_OFF has passed and the current is at or below T_LO: a new cycle starts. -/
  | chopDecayEnd (a : Fin 6) (coil : Fin 2) (t : Nat) (i : BitVec 10)
  /-- R266: A non-zero target returns with low current and a new cycle starts. -/
  | chopZeroExit (a : Fin 6) (coil : Fin 2) (t : Nat) (i : BitVec 10)
  /-- R267: The coil current is sampled mid-ramp and the offset loop updated. -/
  | adcSample (a : Fin 6) (coil : Fin 2) (t : Nat) (v : BitVec 10)
  /-- R283: CLAIM_N stays at a level for `k` samples from `t` on; a new level is accepted after 16 samples. -/
  | claimNChange (t k : Nat) (level : Bool)
  /-- R284: The claim supervisor gets no refresh for 1 µs and releases CLAIM_N. -/
  | supervisorTimeout
  /-- R286: A junior unit in ARBITRATE sees CLAIM_N released for 2 × T_hb and claims. -/
  | arbitrateTimeout (t : Nat)
  /-- R286: TWN_CTRL.FAULT sets the FORCED fault bit. -/
  | twnFault
  /-- R286: TWN_CTRL.RELEASE hands the claim to a synced standby or is refused. -/
  | twnRelease
  /-- R286: TWN_CTRL.FORCE_CLAIM claims from RESYNC or is refused. -/
  | twnForceClaim
  /-- R286: TWN_CTRL.CLEAR clears gone fault bits and moves FAILED to RESYNC. -/
  | twnClear
  /-- R301: PORT_LIM ports stay out of READY for T_hb while the partner has them READY. -/
  | portsFault (t : Nat)
  /-- R292: A heartbeat is sent every 8 µs or on a change of state. -/
  | heartbeatSend (t : Nat)
  /-- R292: A partner heartbeat updates the partner state, epoch, sum and READY mask. -/
  | heartbeatReceived (t : Nat) (m : List Word)
  /-- R293: No valid heartbeat arrives for T_hb. -/
  | partnerSilent (t : Nat)
  /-- R294: The standby receives a mirrored ring entry and consumes its own copy in step. -/
  | mirrorReceived (m : List Word)
  /-- R295: An AGREE message names a change and its fire number F. -/
  | agreeReceived (m : List Word)
  /-- R295: An agreed change applies at the line boundary before the nozzle phase of line F. -/
  | agreedChangeApply
  /-- R297: A write of TWN_PW_DATA writes a word on both units as an agreed change. -/
  | pairedWrite (w : Word)
  /-- R299: The partner's SHADOW CRC of a line is compared with the local one. -/
  | shadowReceived (m : List Word)
  /-- R306: A snapshot item from the active unit is loaded during resynchronisation. -/
  | snapReceived (m : List Word)
  /-- R306: Nozzle words from the active unit are written during resynchronisation. -/
  | nozcopyReceived (m : List Word)
  /-- R313: A receiver gains symbol or block lock, in a stretch of line bits. -/
  | laneLockGain (n : Fin 44) (t : Nat) (bits : List Bool)
  /-- R322: Lock is lost in UP, in a stretch of line bits, and the lane enters RECOVER. -/
  | laneLockLoss (n : Fin 44) (t : Nat) (bits : List Bool)
  /-- R327: The 32-code equaliser sweep completes and the best code is chosen. -/
  | equaliserSweepDone (n : Fin 44) (t : Nat) (ths : List (Int × Int))
  /-- R323: A TS1 or TS2 lane frame advances training, or a TS1 in UP forces a retrain; the frame is in a stretch of line bits. -/
  | laneFrameReceived (n : Fin 44) (t : Nat) (bits : List Bool)
  /-- R323: After electrical idle the transmit PLL relocks at the next rate and training resumes. -/
  | rateStepRelock (n : Fin 44) (t : Nat)
  /-- R323: Step 2 is not reached within 2 ms and the lane falls back or fails. -/
  | trainTimeout (n : Fin 44) (t : Nat)
  /-- R322: 10 ms after failure the lane trains again. -/
  | laneFailedRetry (n : Fin 44) (t : Nat)
  /-- R322: 100 µs in RECOVER without lock sends the lane to TRAIN. -/
  | recoverTimeout (n : Fin 44) (t : Nat)
  /-- R322: LAN_CTRL.RETRAIN sends the lane to TRAIN. -/
  | laneRetrain (n : Fin 44)
  /-- R336: LAN_CTRL.CLEAR_COUNTS zeroes the lane counts. -/
  | laneClearCounts (n : Fin 44)
  /-- R332: LAN_CTRL.TX_SLEEP sends IDLE_REQ and puts the transmitter in electrical idle. -/
  | txSleep (n : Fin 44)
  /-- R333: LAN_CTRL.TX_WAKE sends the wake burst and idle fill. -/
  | txWake (n : Fin 44)
  /-- R332: A valid IDLE_REQ puts the receiver in RX sleep. -/
  | idleReqReceived (n : Fin 44)
  /-- R333: A wake burst is detected on a sleeping receiver, which relocks. -/
  | wakeDetect (n : Fin 44) (t : Nat)
  /-- R333: The receiver is not locked 5 µs after the burst and enters RECOVER. -/
  | laneWakeFail (n : Fin 44) (t : Nat)
  /-- R328: The figure of merit stays below WARN for 1 ms. -/
  | laneMarginLow (n : Fin 44) (t : Nat) (one zero : Int)
  /-- R328: A write of LAN_EQ changes the peaking at the next Skip or ALIGN. -/
  | lanEqWrite (n : Fin 44) (w : Word)
  /-- R330: LAN_EYE_CTRL.GO starts an eye scan or is refused. -/
  | eyeScanGo (w : Word)
  /-- R330: LAN_EYE_CTRL.CANCEL aborts the scan in progress. -/
  | eyeScanCancel
  /-- R330: An eye scan ends, complete or aborted. -/
  | eyeScanDone (t : Nat) (points : List Nat)
  /-- R347: A buffered wale message is checked, delivered, forwarded or discarded. -/
  | waleMessageReceived (l : Fin 3) (t : Nat) (m : List Word) (crc : Nat)
  /-- R350: A SW message for software is placed on ring 14 once there is room. -/
  | swDeliver (l : Fin 3)
  /-- R350: A ring-13 entry is consumed and sent as a SW message when its link has credit. -/
  | swSend
  /-- R348: FREED changed and no message left for 1 µs, so a NOP is sent. -/
  | nopSend (l : Fin 3) (t : Nat)
  /-- R340: Every 1 ms a DISCOVER is broadcast on each up link. -/
  | discoverSend (t : Nat)
  /-- R340: A DISCOVER updates the ring view and checks for chip ID conflicts. -/
  | discoverReceived (l : Fin 3) (t : Nat) (m : List Word)
  /-- R340: A write of WAL_ID sets the chip ID and clears ID_CONFLICT. -/
  | walIdWrite (w : Word)
  /-- R351: Every INT µs a position beacon is sampled and sent. -/
  | beaconSend (t : Nat)
  /-- R355: A beacon from the chosen source is accepted and the position slewed or jumped. -/
  | beaconReceived (l : Fin 3) (t : Nat) (m : List Word)
  /-- R356: Beacons are missing for TO × INT µs and the source changes or the master faults. -/
  | beaconTimeout (t : Nat)
  /-- R363: Every 2^TS_LOG2 µs a TSYNC_REQ is sent to the wale parent. -/
  | tsyncReqSend (t : Nat)
  /-- R363: A TSYNC_REQ is answered with a TSYNC_RSP. -/
  | tsyncReqReceived (l : Fin 3) (t2 t3 : Nat) (m : List Word)
  /-- R363: A TSYNC_RSP gives an offset and delay measurement for the servo. -/
  | tsyncRspReceived (l : Fin 3) (t4 : Nat) (m : List Word)
  /-- R361: 8 measurement intervals pass without a valid measurement. -/
  | parentLost (t : Nat)
  /-- R360: A write of TIM_STEP adds nanoseconds to local time. -/
  | timStepWrite (v : BitVec 48)
  /-- R365: An IEEE 1588 message is received and used for master selection or offset. -/
  | ptpMessage (port : Fin 2) (t : Nat) (m : List Byte)
  /-- R365: An interval expires and a PTP Announce, Sync or request message is sent. -/
  | ptpSend (port : Fin 2) (t : Nat)
  /-- R368: A filtered rising edge of PPS_IN gives a time offset measurement. -/
  | ppsInEdge (t : Nat) (level : Bool) (k : Nat)
  /-- R369: TTO_CTRL.ARM takes the output settings and schedules its instants. -/
  | ttoArm (n : Fin 4)
  /-- R369: TTO_CTRL.DISARM ends the output after any pulse in progress. -/
  | ttoDisarm (n : Fin 4)
  /-- R369: Local time reaches a programmed instant and the output pulses. -/
  | ttoEdge (n : Fin 4) (t : Nat)
  /-- R371: A qualified edge on a TCI input is stamped into its FIFO. -/
  | tciCapture (n : Fin 4) (t : Nat) (level : Bool) (k : Nat)
  /-- R371: A read of TCI_FIFO word 0 snapshots and removes the oldest record. -/
  | tciFifoRead (path : Path) (n : Fin 4)
  /-- R381: A refresh interval expires and the refresh is issued or postponed. -/
  | refreshDue (ch : Fin 8)
  /-- R384: THROT_TIME expires and a port's row-disturb throttle ends. -/
  | throttleEnd (p : Fin 14) (t : Nat)
  /-- R383: Every WINDOW ms the row trackers are cleared. -/
  | trackerWindowClear (t : Nat)
  /-- R385: A channel idle for IDLE_PD MEM clocks enters POWER_DOWN. -/
  | powerDownEntry (ch : Fin 8) (t : Nat)
  /-- R385: All channels idle for IDLE_SR enter SELF_REFRESH. -/
  | selfRefreshEntry (t : Nat)
  /-- R386: A request or a fall of PGE_LAT_TOL takes channels out of a low-power state. -/
  | selfRefreshExit (t : Nat)
  /-- R388: DRM_CTRL.FC_GO requests a memory frequency change, merged or refused. -/
  | fcGo (w : Word)
  /-- R388: When its conditions hold, the memory switches timing sets through self-refresh. -/
  | frequencyChange (fail : Option (Fin 8 × Fin 4))
  /-- R389: Every TRACK_MS ms the WCK-to-DQ oscillator tracking runs. -/
  | wckTracking (t : Nat) (fail : Option (Fin 8))
  /-- R392: Patrol scrub reads bursts once per SCRUB_H hours and corrects errors. -/
  | patrolScrub (burst : Nat) (err : MemErr)
  /-- R395: DRM_CTRL.CLEAR_COUNTS zeroes the ECC and stall counts. -/
  | drmClearCounts
  /-- R407: A ring-8 CREATE opens a new reel. -/
  | create
  /-- R405: A ring-8 APPEND parses and appends bytes to the open reel. -/
  | append (err : MemErr)
  /-- R407: A ring-8 CLOSE writes the trailer and a catalogue. -/
  | close
  /-- R421: A ring-8 PLAY takes a stream and starts replaying a reel. -/
  | play
  /-- R407: A ring-8 STOP_PLAY stops a PLAY at its next record boundary. -/
  | stopPlay
  /-- R407: A ring-8 RETIRE makes a reel RETIRED. -/
  | retire
  /-- R407: A ring-8 STAT returns a reel's length, state and NAME. -/
  | stat
  /-- R407: A ring-8 LIST returns the REEL_ID of the i-th live reel. -/
  | list
  /-- R407: A ring-8 READ copies reel bytes to image memory. -/
  | storeRead
  /-- R416: A ring-8 FORMAT erases the store and writes a new key and tables. -/
  | format (rand : List Byte) (marks : List NandBlk)
  /-- R407: A ring-8 entry with an unknown OP completes with BAD_OP. -/
  | badOp
  /-- R397: STO_CTRL.OPEN discovers the NAND and opens the store from its catalogue. -/
  | storeOpen (x : OpenIn)
  /-- R426: STO_CTRL.QUIESCE stops plays, flushes, writes a catalogue and closes the store. -/
  | quiesce
  /-- R403: FLUSH_US passes and a partly filled band page is padded and programmed. -/
  | flushTimer (t : Nat)
  /-- R403: A band page program completes and APPENDs whose bytes it holds complete. -/
  | bandPageProgrammed
  /-- R415: A NAND program fails and the block is retired. -/
  | programFail (b : NandBlk)
  /-- R415: A NAND erase completes, or fails and retires the block. -/
  | eraseDone (fail : Option NandBlk)
  /-- R412: A NAND read completes and its codewords climb the retry ladder. -/
  | nandReadDone (r : ReadResult)
  /-- R418: The patrol period expires and a live band is read. -/
  | patrolRead (t : Nat)
  /-- R421: A replayed record is applied as ingest with the PLAY offsets. -/
  | playRecord (st : Fin 4)
  /-- R422: A waiting BDSET or DATA record's buffer lease ends and replay continues. -/
  | leaseWaitEnd (st : Fin 4)
  /-- R411: A store completion is posted on ring 9, after waiting while it was full. -/
  | completionPost
  /-- R440: SKN_FLASH_CTRL GO with OP READ reads flash bytes. -/
  | sknFlashRead
  /-- R440: SKN_FLASH_CTRL GO with OP PROGRAM programs a page, refused if it crosses 256 bytes. -/
  | sknFlashProgram
  /-- R440: SKN_FLASH_CTRL GO with OP ERASE of 4 KiB. -/
  | sknFlashErase4k
  /-- R440: SKN_FLASH_CTRL GO with OP ERASE of 64 KiB. -/
  | sknFlashErase64k
  /-- R440: A flash command ends, or its time limit passes and ERR is set. -/
  | flashCommandEnd (t : Nat) (done : Bool) (data : List Byte)
  /-- R445: A write of SEC_LC_CTRL requests a life-cycle change, which runs or is refused. -/
  | lifecycleChange (w : Word) (vfuse : Bool)
  /-- R459: A write of BST_REQ requests tests of units. -/
  | bstReq (w : Word)
  /-- R459: BST_CTRL.CANCEL removes pending test requests. -/
  | bstCancel
  /-- R453: REST_MS after the last rest, the next stake is handed to S8 for test. -/
  | restStart (t : Nat)
  /-- R451: A logic self-test of a unit ends and its signature is compared. -/
  | lbistTestEnd (t : Nat) (sig : BitVec 48) (pass : Bool)
  /-- R457: A write of BST_REPAIR blows the stake-repair fuse or is refused. -/
  | stakeRepair (w : Word) (vfuse : Bool)
  /-- R461: Every 100 µs the die sensors are converted and compared with the limits. -/
  | dieTempConversion (t : Nat) (temps : List (Option Int))
  /-- R463: Every INT_MS a background round computes the trims. -/
  | trimRound (t : Nat) (x : TrimIn)
  /-- R464: A write of TRM_REQ starts a trim round of a kind at once. -/
  | trmReq (w : Word)
  /-- R463: A held trim value is applied at its boundary. -/
  | trimApply
  /-- R467: CNT_CTRL.CLEAR sets a counter to 0. -/
  | cntClear (i : Fin 16)
  /-- R467: CNT_GLOBAL.START_GROUP starts every grouped counter. -/
  | startGroup
  /-- R467: CNT_GLOBAL.STOP_GROUP stops every grouped counter. -/
  | stopGroup
  /-- R473: An SPI WRITE frame writes words from an address. -/
  | spiWrite (a : BitVec 24) (ws : List Word)
  /-- R475: An SPI READ frame returns words from an address. -/
  | spiRead (a : BitVec 24) (n : Nat)
  /-- R474: An SPI STATUS frame returns the status byte and clears FRAME_ERR. -/
  | spiStatus
  /-- R474: An SPI frame ends inside a word or has an unknown opcode. -/
  | frameErr
  /-- R476: RING_MCTRL GO with OP LOAD copies image memory into the path's buffer. -/
  | load (path : Path) (err : MemErr)
  /-- R476: RING_MCTRL GO with OP STORE copies the path's buffer into image memory. -/
  | store (path : Path)
  /-- R483: A management datagram is authenticated, checked and its operations executed. -/
  | mgmtRequest (port : Fin 2) (src : Source) (d : List Byte)
  /-- R481: A write of ETH_MGMT_KEY1 sets or clears management key 1. -/
  | ethMgmtKey1Write (path : Path) (k : BitVec 256)
  /-- R478: An ARP request for the controller's IPv4 address is answered. -/
  | arpRequest (port : Fin 2) (src : Source) (target : BitVec 32)
  /-- R478: A Neighbour Solicitation for a controller address is answered. -/
  | neighbourSolicitation (port : Fin 2) (src : Source) (target : BitVec 128)
  /-- R478: An ICMP or ICMPv6 echo request is answered. -/
  | echoRequest (port : Fin 2) (src : Source) (target : IpAddr) (body : List Byte)
  /-- R480: A frame for another station or a broadcast is forwarded to the other port. -/
  | ethForward (port : Fin 2) (tIn tOut : Nat) (f : EthFrame)
  /-- R487: A ring-10 SELF_TEST entry requests tests as BST_REQ. -/
  | selfTest
  /-- R487: A ring-10 CANCEL_TEST entry acts as BST_CTRL.CANCEL. -/
  | cancelTest
  /-- R487: A ring-10 TEST_PAGE entry writes the test page fields and GO. -/
  | testPage
  /-- R487: A ring-10 TRIM entry requests trim rounds. -/
  | trim
  /-- R487: A ring-10 AXIS entry writes AXS_TARGET and AXS_CTRL. -/
  | axis
  /-- R485: A write of RING_CFG enables a ring, resetting its indices, or sets its size. -/
  | ringCfgWrite (r : Fin 16) (w : Word)
  /-- R484: Software advances a producer index, checked against the ring size. -/
  | ringProdWrite (r : Fin 16) (w : Word)
  /-- R484: Software advances a consumer index, checked against the producer. -/
  | ringConsWrite (r : Fin 16) (w : Word)
  /-- R491: A raised event is recorded on ring 5 and sets its summary bit. -/
  | eventRecordPost
  /-- R492: A W1C write of EVT_SUMMARY clears summary bits and may release IRQ_N. -/
  | evtSummaryClear (w : Word)
  /-- R493: A filtered edge on a GIO input is stamped and may raise GIO_EDGE. -/
  | gioEdge (n : Fin 16) (t : Nat) (level : Bool) (k : Nat)
  /-- R340: A chip ID not heard in a DISCOVER for 4 ms drops out of WAL_RING_SIZE, and RING_CHANGE is raised when the size changes or the ring opens. -/
  | discoverExpiry (t : Nat)
  /-- R348: A received NOP returns FREED, which restores transmit credits and may end a credit stall. -/
  | nopReceived (l : Fin 3) (m : List Word)
  /-- R520: A monitored rail has been back within its range for 10 ms, and the controller leaves the supply-monitor reset and begins the upsett. -/
  | supplyMonitorRelease
  /-- R446: Fuse programming and read-back for a life-cycle change end, and the controller resets itself. -/
  | lifecycleReset (fuseOk : Bool)
  /-- R476: A LOAD or STORE of a path's memory buffer ends, BUSY clears, and ERR is set on an out-of-range address or an uncorrectable error. -/
  | copyEnd (path : Path) (err : Bool)
  /-- R499: An Ethernet port's link goes down or comes up, which updates ETH_STATUS.LINK and sets DOWN. -/
  | ethLinkChange (port : Fin 2) (up : Bool)
  /-- R478: A received IP fragment or an unsupported frame addressed to the controller is dropped and counted in ETH_RX_DROPS. -/
  | ethRxDrop (port : Fin 2)
deriving DecidableEq, Repr

end Sys2Proof
end

