-- ==== Sys2Proof/WellFormed.lean ====
section
/-!
DEFINITION. Which operands a command can carry: the lists whose length the spec fixes have that length. Everything else the types say.
-/

namespace Sys2Proof

/-- A message of the pairing has eight payload words (R285, R308). -/
def pairOk (m : List Word) : Bool := m.length == 8

/-- A wale message has three header words and eight payload words (R341, R343). -/
def waleOk (m : List Word) : Bool := m.length == 11

/-- A NOP has three header words alone (R342). -/
def nopOk (m : List Word) : Bool := m.length == 3

/-- An equaliser sweep gives the two thresholds for each of the 32 codes (R327). -/
def sweepOk (ths : List (Int × Int)) : Bool := ths.length == 32

/-- An eye scan has at most 128 × 64 points (R330). -/
def scanOk (points : List Nat) : Bool := decide (points.length ≤ 8192)

/-- The upsett tests sixteen units (R450, R452). -/
def bistOk (x : UpsettIn) : Bool := x.bist.length == 16

/-- The ladder has the normal read, fifteen retry levels and as many places for the soft step (R412). -/
def ladderOk (r : ReadResult) : Bool := r.hard.length == 16 && r.soft.length == 16

/-- There are eight die sensors (R461). -/
def tempsOk (l : List (Option Int)) : Bool := l.length == 8

/-- Whether a command is one the block can be given. -/
def Instr.wf : Instr → Bool
  | .upsett x => bistOk x
  | .heartbeatReceived _ m => pairOk m
  | .mirrorReceived m => pairOk m
  | .agreeReceived m => pairOk m
  | .shadowReceived m => pairOk m
  | .snapReceived m => pairOk m
  | .nozcopyReceived m => pairOk m
  | .waleMessageReceived _ _ m _ => waleOk m
  | .discoverReceived _ _ m => waleOk m
  | .beaconReceived _ _ m => waleOk m
  | .tsyncReqReceived _ _ _ m => waleOk m
  | .tsyncRspReceived _ _ m => waleOk m
  | .nopReceived _ m => nopOk m
  | .equaliserSweepDone _ _ ths => sweepOk ths
  | .eyeScanDone _ points => scanOk points
  | .nandReadDone r => ladderOk r
  | .dieTempConversion _ temps => tempsOk temps
  | _ => true

end Sys2Proof
end

