-- ==== Sys2Proof/Decode.lean ====
section
/-!
DEFINITION. Words and commands. The command table gives no row any bits: a command is an event at the block's boundary, not a word that
it fetches. No word spells one.
-/

namespace Sys2Proof

/-- The command that a word of `nbits` bits spells by the table's bits: none, since no row has any. -/
def decodeTableWord (_nbits _w : Nat) : Option Instr := none

end Sys2Proof
end

