-- ==== Sys2Proof/Config.lean ====
section
/-!
DEFINITION. What the spec leaves open, as constants without a body, and constants of the part.
-/

namespace Sys2Proof.Config

/-- The sum of R298 over the reset values of the print-path words, modulo 2^24. -/
def resetSum : Int := 8076753

/-- The port that ECC_UNCORRECTED names for an error found by patrol scrub, which uses no requester port (R378, R394). -/
opaque patrolPort : BitVec 4

/-- Where the assignment of REEL_IDs begins for a reel sequence number (R402). -/
opaque reelId : Nat → BitVec 24

/-- The session number drawn at an upsett, less 1 (R483). -/
opaque session : Nat → Fin 4294967295

/-- The detail words of CLOCK_FAULT, word 1 above word 0 (R46). -/
opaque clockDetail : Nat → BitVec 48

/-- Whether the fuse of a life-cycle change that a reset cuts short has been blown (R446). -/
opaque fuseBlown : Nat → Bool

/-- SECRET as the part generates it on entry to PROVISIONED (R443, R446). -/
opaque secret : Nat → BitVec 256

/-- The state of a lane's generator before the first scrambled bit; 0 stands for 1 (R317, R318). -/
opaque laneSeed : Nat → BitVec 31

end Sys2Proof.Config
end

