-- ==== Sys2Proof/Machine/RegTable.lean ====
section
/-!
DEFINITION. The register map: every register of the index of R507 at the address the stride arithmetic of R500
and R502 gives it, its width in words (R12), which bits each access code of R9 governs, and the boundary its RWB
bits wait for (R32). Written from the register and field tables of the chapters. Windows are in `Windows` below.
-/

namespace Sys2Proof.Machine

/-- The kind of boundary an RWB field names (R9, R32; `off`: axis in OFF or FAULT, R281; `cycle`: the coil's next chopper
cycle, R281; `train`: the lane's next training, R336; `skip`: the lane's next Skip or ALIGN, R328). -/
inductive Bnd where
  | none | line | page | idle | off | cycle | train | skip
deriving DecidableEq, Repr

/-- One row of the register index: `count` instances at `stride`, each holding `count2` registers at `stride2`, each of
`words` words. The masks are over the whole value, word 0 lowest: bits of access code RW, RWB, W1C, W1S and WO. -/
structure RegRow where
  base : Nat
  stride : Nat
  count : Nat
  stride2 : Nat
  count2 : Nat
  words : Nat
  bnd : Bnd
  rw : Nat
  rwb : Nat
  w1c : Nat
  w1s : Nat
  wo : Nat
deriving DecidableEq, Repr

/-- A field: the word address of its register and its bits [hi:lo] (R3). -/
structure Fld where
  addr : Nat
  hi : Nat
  lo : Nat
deriving DecidableEq, Repr

/-- R503: Part and stepping -/
abbrev SYS_ID : Nat := 0x000000
abbrev SYS_ID_PART : Fld := ⟨SYS_ID, 23, 8⟩
abbrev SYS_ID_STEP_MAJ : Fld := ⟨SYS_ID, 7, 4⟩
abbrev SYS_ID_STEP_MIN : Fld := ⟨SYS_ID, 3, 0⟩
/-- R503: Family, architecture and register-map version -/
abbrev SYS_FAMILY : Nat := 0x000001
abbrev SYS_FAMILY_FAMILY : Fld := ⟨SYS_FAMILY, 23, 16⟩
abbrev SYS_FAMILY_ARCH : Fld := ⟨SYS_FAMILY, 15, 8⟩
abbrev SYS_FAMILY_MAP_VER : Fld := ⟨SYS_FAMILY, 7, 0⟩
/-- R503: Copy of the life-cycle state -/
abbrev SYS_LC : Nat := 0x000002
abbrev SYS_LC_STATE : Fld := ⟨SYS_LC, 23, 21⟩
abbrev SYS_LC_K : Fld := ⟨SYS_LC, 20, 16⟩
/-- R503: Software reset -/
abbrev SYS_RESET : Nat := 0x000003
abbrev SYS_RESET_KEY : Fld := ⟨SYS_RESET, 23, 8⟩
abbrev SYS_RESET_GO : Fld := ⟨SYS_RESET, 0, 0⟩
/-- R503: Cause of the last reset -/
abbrev SYS_RESET_CAUSE : Nat := 0x000004
abbrev SYS_RESET_CAUSE_LIFECYCLE : Fld := ⟨SYS_RESET_CAUSE, 3, 3⟩
abbrev SYS_RESET_CAUSE_THERMAL : Fld := ⟨SYS_RESET_CAUSE, 2, 2⟩
abbrev SYS_RESET_CAUSE_SOFTWARE : Fld := ⟨SYS_RESET_CAUSE, 1, 1⟩
abbrev SYS_RESET_CAUSE_PIN : Fld := ⟨SYS_RESET_CAUSE, 0, 0⟩
/-- R503: Access errors -/
abbrev SYS_ERR : Nat := 0x000005
abbrev SYS_ERR_RESET_REJ : Fld := ⟨SYS_ERR, 2, 2⟩
abbrev SYS_ERR_RESET_KEY : Fld := ⟨SYS_ERR, 1, 1⟩
abbrev SYS_ERR_NO_BLOCK : Fld := ⟨SYS_ERR, 0, 0⟩
/-- R503: Last address in no block, u24 -/
abbrev SYS_ERR_ADDR : Nat := 0x000006
/-- R503: ms since the last release of reset, u48 -/
abbrev SYS_UPTIME : Nat := 0x000008
/-- R38: -/
abbrev SYS_COMMIT : Nat := 0x000010
abbrev SYS_COMMIT_IDLE_PENDING : Fld := ⟨SYS_COMMIT, 2, 2⟩
abbrev SYS_COMMIT_PENDING : Fld := ⟨SYS_COMMIT, 1, 1⟩
abbrev SYS_COMMIT_HOLD : Fld := ⟨SYS_COMMIT, 0, 0⟩
/-- R503: Free words for host-path checks; reset 0 -/
abbrev SYS_SCRATCH (i : Nat) : Nat := 0x000020 + 1 * i

/-- The rows of block SYS (R507). -/
def rowsSYS : List RegRow := [
  ⟨0x000000, 0x10000, 1, 1, 1, 1, .none, 0, 0, 0, 0, 0⟩,
  ⟨0x000001, 0x10000, 1, 1, 1, 1, .none, 0, 0, 0, 0, 0⟩,
  ⟨0x000002, 0x10000, 1, 1, 1, 1, .none, 0, 0, 0, 0, 0⟩,
  ⟨0x000003, 0x10000, 1, 1, 1, 1, .none, 0, 0, 0, 0, 0xffff01⟩,
  ⟨0x000004, 0x10000, 1, 1, 1, 1, .none, 0, 0, 0, 0, 0⟩,
  ⟨0x000005, 0x10000, 1, 1, 1, 1, .none, 0, 0, 7, 0, 0⟩,
  ⟨0x000006, 0x10000, 1, 1, 1, 1, .none, 0, 0, 0, 0, 0⟩,
  ⟨0x000008, 0x10000, 1, 2, 1, 2, .none, 0, 0, 0, 0, 0⟩,
  ⟨0x000010, 0x10000, 1, 1, 1, 1, .none, 1, 0, 0, 0, 0⟩,
  ⟨0x000020, 0x10000, 1, 1, 4, 1, .none, 0xffffff, 0, 0, 0, 0⟩]

/-- R448: Upsett and loader status -/
abbrev SKN_STATUS : Nat := 0x010000
abbrev SKN_STATUS_STEP : Fld := ⟨SKN_STATUS, 23, 20⟩
abbrev SKN_STATUS_HOLD_CAUSE : Fld := ⟨SKN_STATUS, 19, 18⟩
abbrev SKN_STATUS_COPY : Fld := ⟨SKN_STATUS, 17, 17⟩
abbrev SKN_STATUS_FALLBACK : Fld := ⟨SKN_STATUS, 16, 16⟩
abbrev SKN_STATUS_CAUSE1 : Fld := ⟨SKN_STATUS, 15, 12⟩
abbrev SKN_STATUS_CAUSE0 : Fld := ⟨SKN_STATUS, 11, 8⟩
/-- R448: SEQ of the copy loaded -/
abbrev SKN_SEQ : Nat := 0x010001
/-- R448: IMAGE_TAG, u32 -/
abbrev SKN_IMAGE_TAG : Nat := 0x010002
/-- R448: Words ignored under R436, u24, saturating -/
abbrev SKN_IGNORED : Nat := 0x010004
/-- R448: [15:8] failed section of copy 1, [7:0] of copy 0; 0xFF none -/
abbrev SKN_FAIL_SECT : Nat := 0x010005
abbrev SKN_FAIL_SECT_COPY1 : Fld := ⟨SKN_FAIL_SECT, 15, 8⟩
abbrev SKN_FAIL_SECT_COPY0 : Fld := ⟨SKN_FAIL_SECT, 7, 0⟩
/-- R448: Upsett duration, ms -/
abbrev SKN_UPSETT_MS : Nat := 0x010006
/-- R448: [20:16] log2 of D in bytes; [1:0] read used: 0 single 25 MHz, 1 fast single, 2 1-1-4 -/
abbrev SKN_FLASH_INFO : Nat := 0x010007
abbrev SKN_FLASH_INFO_LOG2D : Fld := ⟨SKN_FLASH_INFO, 20, 16⟩
abbrev SKN_FLASH_INFO_READ : Fld := ⟨SKN_FLASH_INFO, 1, 0⟩
/-- R448: Flash command -/
abbrev SKN_FLASH_CTRL : Nat := 0x010010
abbrev SKN_FLASH_CTRL_BUSY : Fld := ⟨SKN_FLASH_CTRL, 23, 23⟩
abbrev SKN_FLASH_CTRL_ERR : Fld := ⟨SKN_FLASH_CTRL, 22, 22⟩
abbrev SKN_FLASH_CTRL_OP : Fld := ⟨SKN_FLASH_CTRL, 21, 20⟩
abbrev SKN_FLASH_CTRL_GO : Fld := ⟨SKN_FLASH_CTRL, 19, 19⟩
abbrev SKN_FLASH_CTRL_COUNT_M1 : Fld := ⟨SKN_FLASH_CTRL, 7, 0⟩
/-- R448: Byte address, u32; bits 31:24 in word 1 bits 7:0 -/
abbrev SKN_FLASH_ADDR : Nat := 0x010011
/-- R448: Bytes 3i, 3i + 1 and 3i + 2 in bits 7:0, 15:8 and 23:16 of word i -/
abbrev SKN_FLASH_DATA (i : Nat) : Nat := 0x010040 + 1 * i

/-- The rows of block SKN (R507). -/
def rowsSKN : List RegRow := [
  ⟨0x010000, 0x10000, 1, 1, 1, 1, .none, 0, 0, 0, 0, 0⟩,
  ⟨0x010001, 0x10000, 1, 1, 1, 1, .none, 0, 0, 0, 0, 0⟩,
  ⟨0x010002, 0x10000, 1, 2, 1, 2, .none, 0, 0, 0, 0, 0⟩,
  ⟨0x010004, 0x10000, 1, 1, 1, 1, .none, 0, 0, 0, 0, 0⟩,
  ⟨0x010005, 0x10000, 1, 1, 1, 1, .none, 0, 0, 0, 0, 0⟩,
  ⟨0x010006, 0x10000, 1, 1, 1, 1, .none, 0, 0, 0, 0, 0⟩,
  ⟨0x010007, 0x10000, 1, 1, 1, 1, .none, 0, 0, 0, 0, 0⟩,
  ⟨0x010010, 0x10000, 1, 1, 1, 1, .none, 0x3000ff, 0, 0x400000, 0, 0x80000⟩,
  ⟨0x010011, 0x10000, 1, 2, 1, 2, .none, 0xffffffff, 0, 0, 0, 0⟩,
  ⟨0x010040, 0x10000, 1, 1, 86, 1, .none, 0xffffff, 0, 0, 0, 0⟩]

/-- R83: Filter and direction -/
abbrev POS_CFG (n : Nat) : Nat := 0x020000 + 0x20 * n
abbrev POS_CFG_IDX_POL (n : Nat) : Fld := ⟨POS_CFG n, 10, 10⟩
abbrev POS_CFG_INVERT (n : Nat) : Fld := ⟨POS_CFG n, 9, 9⟩
abbrev POS_CFG_EN (n : Nat) : Fld := ⟨POS_CFG n, 8, 8⟩
abbrev POS_CFG_FILT_N (n : Nat) : Fld := ⟨POS_CFG n, 7, 0⟩
/-- R83: Index check -/
abbrev POS_IDX_CFG (n : Nat) : Nat := 0x020001 + 0x20 * n
abbrev POS_IDX_CFG_GATED (n : Nat) : Fld := ⟨POS_IDX_CFG n, 18, 18⟩
abbrev POS_IDX_CFG_GATE_AB (n : Nat) : Fld := ⟨POS_IDX_CFG n, 17, 16⟩
abbrev POS_IDX_CFG_CONSEC (n : Nat) : Fld := ⟨POS_IDX_CFG n, 15, 12⟩
abbrev POS_IDX_CFG_DEADBAND (n : Nat) : Fld := ⟨POS_IDX_CFG n, 11, 10⟩
abbrev POS_IDX_CFG_CORR_EN (n : Nat) : Fld := ⟨POS_IDX_CFG n, 8, 8⟩
abbrev POS_IDX_CFG_CORR_LIMIT (n : Nat) : Fld := ⟨POS_IDX_CFG n, 7, 0⟩
/-- R83: Counts per revolution, u24; 0 disables the check -/
abbrev POS_CPR (n : Nat) : Nat := 0x020002 + 0x20 * n
/-- R83: Illegal-transition window -/
abbrev POS_ILL_CFG (n : Nat) : Nat := 0x020003 + 0x20 * n
abbrev POS_ILL_CFG_WINDOW (n : Nat) : Fld := ⟨POS_ILL_CFG n, 11, 8⟩
abbrev POS_ILL_CFG_LIMIT (n : Nat) : Fld := ⟨POS_ILL_CFG n, 7, 0⟩
/-- R83: Status -/
abbrev POS_STATUS (n : Nat) : Nat := 0x020004 + 0x20 * n
abbrev POS_STATUS_PRESET_REJ (n : Nat) : Fld := ⟨POS_STATUS n, 7, 7⟩
abbrev POS_STATUS_IDX_SEEN (n : Nat) : Fld := ⟨POS_STATUS n, 6, 6⟩
abbrev POS_STATUS_STILL (n : Nat) : Fld := ⟨POS_STATUS n, 5, 5⟩
abbrev POS_STATUS_DIR (n : Nat) : Fld := ⟨POS_STATUS n, 4, 4⟩
abbrev POS_STATUS_UNCERTAIN (n : Nat) : Fld := ⟨POS_STATUS n, 3, 3⟩
abbrev POS_STATUS_FAULT_CAUSE (n : Nat) : Fld := ⟨POS_STATUS n, 2, 1⟩
abbrev POS_STATUS_FAULT (n : Nat) : Fld := ⟨POS_STATUS n, 0, 0⟩
/-- R83: Commands -/
abbrev POS_CTRL (n : Nat) : Nat := 0x020005 + 0x20 * n
abbrev POS_CTRL_FORCE_FAULT (n : Nat) : Fld := ⟨POS_CTRL n, 2, 2⟩
abbrev POS_CTRL_PRESET (n : Nat) : Fld := ⟨POS_CTRL n, 1, 1⟩
abbrev POS_CTRL_CLEAR_FAULT (n : Nat) : Fld := ⟨POS_CTRL n, 0, 0⟩
/-- R83: Last index deviation d, s24 -/
abbrev POS_IDX_DEV (n : Nat) : Nat := 0x020006 + 0x20 * n
/-- R83: Illegal transitions, u24, saturating -/
abbrev POS_ILL_COUNT (n : Nat) : Nat := 0x020007 + 0x20 * n
/-- R83: Count, s48 -/
abbrev POS_COUNT (n : Nat) : Nat := 0x020008 + 0x20 * n
/-- R83: Last index capture, s48 -/
abbrev POS_IDX_CAPTURE (n : Nat) : Nat := 0x02000a + 0x20 * n
/-- R83: Δ in 4 ns samples, u24 -/
abbrev POS_INTERVAL (n : Nat) : Nat := 0x02000c + 0x20 * n
/-- R83: Value loaded by POS_CTRL.PRESET, s48 -/
abbrev POS_PRESET (n : Nat) : Nat := 0x02000e + 0x20 * n

/-- The rows of block POS (R507). -/
def rowsPOS : List RegRow := [
  ⟨0x020000, 0x20, 8, 1, 1, 1, .idle, 0, 0x7ff, 0, 0, 0⟩,
  ⟨0x020001, 0x20, 8, 1, 1, 1, .idle, 0, 0x7fdff, 0, 0, 0⟩,
  ⟨0x020002, 0x20, 8, 1, 1, 1, .idle, 0, 0xffffff, 0, 0, 0⟩,
  ⟨0x020003, 0x20, 8, 1, 1, 1, .idle, 0, 0xfff, 0, 0, 0⟩,
  ⟨0x020004, 0x20, 8, 1, 1, 1, .none, 0, 0, 0x88, 0, 0⟩,
  ⟨0x020005, 0x20, 8, 1, 1, 1, .none, 0, 0, 0, 0, 7⟩,
  ⟨0x020006, 0x20, 8, 1, 1, 1, .none, 0, 0, 0, 0, 0⟩,
  ⟨0x020007, 0x20, 8, 1, 1, 1, .none, 0, 0, 0, 0, 0⟩,
  ⟨0x020008, 0x20, 8, 2, 1, 2, .none, 0, 0, 0, 0, 0⟩,
  ⟨0x02000a, 0x20, 8, 2, 1, 2, .none, 0, 0, 0, 0, 0⟩,
  ⟨0x02000c, 0x20, 8, 1, 1, 1, .none, 0, 0, 0, 0, 0⟩,
  ⟨0x02000e, 0x20, 8, 2, 1, 2, .none, 0xffffffffffff, 0, 0, 0, 0⟩]

/-- R85: Master and fallback selection -/
abbrev LCK_MASTER : Nat := 0x030000
abbrev LCK_MASTER_FB_EN : Fld := ⟨LCK_MASTER, 8, 8⟩
abbrev LCK_MASTER_FB_SRC : Fld := ⟨LCK_MASTER, 6, 4⟩
abbrev LCK_MASTER_SRC : Fld := ⟨LCK_MASTER, 3, 0⟩
/-- R85: [0] RUN: 1 start, 0 stop (R66, R68) -/
abbrev LCK_CTRL : Nat := 0x030001
abbrev LCK_CTRL_RUN : Fld := ⟨LCK_CTRL, 0, 0⟩
/-- R85: Line pitch, u24.24 -/
abbrev LCK_PITCH : Nat := 0x030002
/-- R85: First compare, s48.24 -/
abbrev LCK_ORIGIN : Nat := 0x030004
/-- R85: D_fire, [15:0] ns, 2,000–40,000 -/
abbrev LCK_FIRE_DELAY : Nat := 0x030007
abbrev LCK_FIRE_DELAY_NS : Fld := ⟨LCK_FIRE_DELAY, 15, 0⟩
/-- R85: Ladder control -/
abbrev LCK_LADDER : Nat := 0x030008
abbrev LCK_LADDER_MAX_RUNG : Fld := ⟨LCK_LADDER, 9, 8⟩
abbrev LCK_LADDER_WARN_PCT : Fld := ⟨LCK_LADDER, 6, 0⟩
/-- R85: Per-rung limit, Hz, u24 -/
abbrev LCK_RUNG_LIMIT (i : Nat) : Nat := 0x030009 + 1 * i
/-- R85: Fallback scale, u24 each; DEN 0 is treated as 1 -/
abbrev LCK_FB_NUM : Nat := 0x03000c
/-- R85: Fallback scale, u24 each; DEN 0 is treated as 1 -/
abbrev LCK_FB_DEN : Nat := 0x03000d
/-- R85: Status -/
abbrev LCK_STATUS : Nat := 0x030010
abbrev LCK_STATUS_FLOOR : Fld := ⟨LCK_STATUS, 7, 6⟩
abbrev LCK_STATUS_RUNG : Fld := ⟨LCK_STATUS, 5, 4⟩
abbrev LCK_STATUS_HOLD : Fld := ⟨LCK_STATUS, 3, 3⟩
abbrev LCK_STATUS_FB_ACTIVE : Fld := ⟨LCK_STATUS, 2, 2⟩
abbrev LCK_STATUS_SPEED_ZERO : Fld := ⟨LCK_STATUS, 1, 1⟩
abbrev LCK_STATUS_RUNNING : Fld := ⟨LCK_STATUS, 0, 0⟩
/-- R85: Measured rate, Hz, u24 -/
abbrev LCK_LINE_RATE : Nat := 0x030011
/-- R85: Skipped lines, u24, saturating -/
abbrev LCK_SKIP_COUNT : Nat := 0x030012
/-- R85: Ring-11 stalls, u24, saturating -/
abbrev LCK_SCHED_STALLS : Nat := 0x030013
/-- R85: Master P256, s56: word 0 [23:8] counts 15:0, [7:0] fraction; word 1 counts 39:16; word 2 [ -/
abbrev LCK_POSITION : Nat := 0x030014
/-- R85: Current C, s48.24 -/
abbrev LCK_COMPARE : Nat := 0x030018
/-- R85: P_sw captured under R60, same layout as LCK_POSITION -/
abbrev LCK_FB_OFFSET : Nat := 0x03001c
/-- R85: Line index of track *t*, u48, two words -/
abbrev LCK_LINE_INDEX (i : Nat) : Nat := 0x030020 + 2 * i
/-- R85: Schedule of track *t* -/
abbrev LCK_SCHED_STATUS (i : Nat) : Nat := 0x030028 + 1 * i
abbrev LCK_SCHED_STATUS_OVERFLOW (i : Nat) : Fld := ⟨LCK_SCHED_STATUS i, 12, 12⟩
abbrev LCK_SCHED_STATUS_LATE (i : Nat) : Fld := ⟨LCK_SCHED_STATUS i, 11, 11⟩
abbrev LCK_SCHED_STATUS_COUNT (i : Nat) : Fld := ⟨LCK_SCHED_STATUS i, 10, 0⟩

/-- The rows of block LCK (R507). -/
def rowsLCK : List RegRow := [
  ⟨0x030000, 0x10000, 1, 1, 1, 1, .idle, 0, 0x17f, 0, 0, 0⟩,
  ⟨0x030001, 0x10000, 1, 1, 1, 1, .idle, 0, 1, 0, 0, 0⟩,
  ⟨0x030002, 0x10000, 1, 2, 1, 2, .idle, 0, 0xffffffffffff, 0, 0, 0⟩,
  ⟨0x030004, 0x10000, 1, 3, 1, 3, .idle, 0, 0xffffffffffffffffff, 0, 0, 0⟩,
  ⟨0x030007, 0x10000, 1, 1, 1, 1, .idle, 0, 0xffff, 0, 0, 0⟩,
  ⟨0x030008, 0x10000, 1, 1, 1, 1, .line, 0, 0x37f, 0, 0, 0⟩,
  ⟨0x030009, 0x10000, 1, 1, 3, 1, .idle, 0, 0xffffff, 0, 0, 0⟩,
  ⟨0x03000c, 0x10000, 1, 1, 1, 1, .idle, 0, 0xffffff, 0, 0, 0⟩,
  ⟨0x03000d, 0x10000, 1, 1, 1, 1, .idle, 0, 0xffffff, 0, 0, 0⟩,
  ⟨0x030010, 0x10000, 1, 1, 1, 1, .none, 0, 0, 0, 0, 0⟩,
  ⟨0x030011, 0x10000, 1, 1, 1, 1, .none, 0, 0, 0, 0, 0⟩,
  ⟨0x030012, 0x10000, 1, 1, 1, 1, .none, 0, 0, 0, 0, 0⟩,
  ⟨0x030013, 0x10000, 1, 1, 1, 1, .none, 0, 0, 0, 0, 0⟩,
  ⟨0x030014, 0x10000, 1, 3, 1, 3, .none, 0, 0, 0, 0, 0⟩,
  ⟨0x030018, 0x10000, 1, 3, 1, 3, .none, 0, 0, 0, 0, 0⟩,
  ⟨0x03001c, 0x10000, 1, 3, 1, 3, .none, 0, 0, 0, 0, 0⟩,
  ⟨0x030020, 0x10000, 1, 2, 4, 2, .none, 0, 0, 0, 0, 0⟩,
  ⟨0x030028, 0x10000, 1, 1, 4, 1, .none, 0, 0, 0x1800, 0, 0⟩]

/-- R123: Track configuration -/
abbrev PGE_TRK_CFG (n : Nat) : Nat := 0x040000 + 0x20 * n
abbrev PGE_TRK_CFG_EN (n : Nat) : Fld := ⟨PGE_TRK_CFG n, 23, 23⟩
abbrev PGE_TRK_CFG_START_MODE (n : Nat) : Fld := ⟨PGE_TRK_CFG n, 22, 21⟩
abbrev PGE_TRK_CFG_DESC_SRC (n : Nat) : Fld := ⟨PGE_TRK_CFG n, 20, 20⟩
abbrev PGE_TRK_CFG_CUE_EDGE (n : Nat) : Fld := ⟨PGE_TRK_CFG n, 19, 19⟩
abbrev PGE_TRK_CFG_CUE_GIO (n : Nat) : Fld := ⟨PGE_TRK_CFG n, 18, 15⟩
abbrev PGE_TRK_CFG_LEAD (n : Nat) : Fld := ⟨PGE_TRK_CFG n, 14, 8⟩
abbrev PGE_TRK_CFG_FILL (n : Nat) : Fld := ⟨PGE_TRK_CFG n, 2, 0⟩
/-- R123: Commands -/
abbrev PGE_TRK_CTRL (n : Nat) : Nat := 0x040001 + 0x20 * n
abbrev PGE_TRK_CTRL_ABORT (n : Nat) : Fld := ⟨PGE_TRK_CTRL n, 2, 2⟩
abbrev PGE_TRK_CTRL_STOP (n : Nat) : Fld := ⟨PGE_TRK_CTRL n, 1, 1⟩
abbrev PGE_TRK_CTRL_ARM (n : Nat) : Fld := ⟨PGE_TRK_CTRL n, 0, 0⟩
/-- R123: Status -/
abbrev PGE_TRK_STATUS (n : Nat) : Nat := 0x040002 + 0x20 * n
abbrev PGE_TRK_STATUS_STOP_PENDING (n : Nat) : Fld := ⟨PGE_TRK_STATUS n, 12, 12⟩
abbrev PGE_TRK_STATUS_CMD_REJ (n : Nat) : Fld := ⟨PGE_TRK_STATUS n, 11, 11⟩
abbrev PGE_TRK_STATUS_LATE (n : Nat) : Fld := ⟨PGE_TRK_STATUS n, 10, 10⟩
abbrev PGE_TRK_STATUS_RING_EMPTY (n : Nat) : Fld := ⟨PGE_TRK_STATUS n, 9, 9⟩
abbrev PGE_TRK_STATUS_CODEC (n : Nat) : Fld := ⟨PGE_TRK_STATUS n, 8, 8⟩
abbrev PGE_TRK_STATUS_VIOLATION (n : Nat) : Fld := ⟨PGE_TRK_STATUS n, 7, 7⟩
abbrev PGE_TRK_STATUS_UNDERRUN (n : Nat) : Fld := ⟨PGE_TRK_STATUS n, 6, 6⟩
abbrev PGE_TRK_STATUS_STARTED (n : Nat) : Fld := ⟨PGE_TRK_STATUS n, 5, 2⟩
abbrev PGE_TRK_STATUS_STATE (n : Nat) : Fld := ⟨PGE_TRK_STATUS n, 1, 0⟩
/-- R123: First owned effective position, u24, 0–131,071 -/
abbrev PGE_TRK_RANGE_FIRST (n : Nat) : Nat := 0x040003 + 0x20 * n
/-- R123: Last owned effective position, u24. Below FIRST, the track owns no position (R28) -/
abbrev PGE_TRK_RANGE_LAST (n : Nat) : Nat := 0x040004 + 0x20 * n
/-- R123: Start position or cue offset, s48 counts -/
abbrev PGE_TRK_START_POS (n : Nat) : Nat := 0x040005 + 0x20 * n
/-- R123: Page-relative line for LINE_MATCH; 0xFF_FF_FF off. Resets to 0xFF_FF_FF, so LINE_MATCH is  -/
abbrev PGE_TRK_MATCH (n : Nat) : Nat := 0x040007 + 0x20 * n
/-- R123: Page-relative line last triggered, u24 -/
abbrev PGE_TRK_PAGE_LINE (n : Nat) : Nat := 0x040008 + 0x20 * n
/-- R123: TAG of the current page -/
abbrev PGE_TRK_PAGE_TAG (n : Nat) : Nat := 0x040009 + 0x20 * n
/-- R123: Lines with missing data, u24, saturating -/
abbrev PGE_TRK_UNDERRUNS (n : Nat) : Nat := 0x04000a + 0x20 * n
/-- R123: Line index of the current page's first line, u48 -/
abbrev PGE_TRK_PAGE_FIRST (n : Nat) : Nat := 0x04000b + 0x20 * n
/-- R123: Latency guard -/
abbrev PGE_LAT_CFG : Nat := 0x040100
abbrev PGE_LAT_CFG_GUARD : Fld := ⟨PGE_LAT_CFG, 5, 0⟩
/-- R123: Latency tolerance, µs, u24, saturating -/
abbrev PGE_LAT_TOL : Nat := 0x040101
/-- R123: Release postings delayed by a full ring 4, u24, saturating -/
abbrev PGE_REL_STALLS : Nat := 0x040102
/-- R123: Ingest configuration -/
abbrev PGE_ING_CFG : Nat := 0x040110
abbrev PGE_ING_CFG_EN : Fld := ⟨PGE_ING_CFG, 23, 23⟩
abbrev PGE_ING_CFG_REMOTE_RESET : Fld := ⟨PGE_ING_CFG, 22, 22⟩
abbrev PGE_ING_CFG_UDP_PORT : Fld := ⟨PGE_ING_CFG, 15, 0⟩
/-- R123: Retransmission timing -/
abbrev PGE_ING_RETX : Nat := 0x040111
abbrev PGE_ING_RETX_MAX : Fld := ⟨PGE_ING_RETX, 23, 16⟩
abbrev PGE_ING_RETX_INTERVAL : Fld := ⟨PGE_ING_RETX, 15, 8⟩
abbrev PGE_ING_RETX_DELAY : Fld := ⟨PGE_ING_RETX, 7, 0⟩
/-- R123: Staging base, byte address, 36 bits; bits 15:0 must be 0 -/
abbrev PGE_ING_STAGE : Nat := 0x040112
/-- R123: [0] RESET -/
abbrev PGE_ING_CTRL (n : Nat) : Nat := 0x040120 + 8 * n
abbrev PGE_ING_CTRL_RESET (n : Nat) : Fld := ⟨PGE_ING_CTRL n, 0, 0⟩
/-- R123: Stream status -/
abbrev PGE_ING_STATUS (n : Nat) : Nat := 0x040121 + 8 * n
abbrev PGE_ING_STATUS_GAP (n : Nat) : Fld := ⟨PGE_ING_STATUS n, 9, 9⟩
abbrev PGE_ING_STATUS_REJECT (n : Nat) : Fld := ⟨PGE_ING_STATUS n, 8, 8⟩
abbrev PGE_ING_STATUS_BOUND (n : Nat) : Fld := ⟨PGE_ING_STATUS n, 7, 7⟩
abbrev PGE_ING_STATUS_CREDIT (n : Nat) : Fld := ⟨PGE_ING_STATUS n, 6, 0⟩
/-- R123: Next expected SEQ, u32 -/
abbrev PGE_ING_NEXT_SEQ (n : Nat) : Nat := 0x040122 + 8 * n
/-- R123: Datagrams dropped under R115, R118 and R119, u24, saturating -/
abbrev PGE_ING_DROPS (n : Nat) : Nat := 0x040124 + 8 * n
/-- R123: RETX_REQ datagrams sent, u24, saturating -/
abbrev PGE_ING_RETX_REQS (n : Nat) : Nat := 0x040125 + 8 * n

/-- The rows of block PGE (R507). -/
def rowsPGE : List RegRow := [
  ⟨0x040000, 0x20, 4, 1, 1, 1, .idle, 0, 0xffff07, 0, 0, 0⟩,
  ⟨0x040001, 0x20, 4, 1, 1, 1, .none, 0, 0, 0, 0, 7⟩,
  ⟨0x040002, 0x20, 4, 1, 1, 1, .none, 0, 0, 0xfc0, 0, 0⟩,
  ⟨0x040003, 0x20, 4, 1, 1, 1, .idle, 0, 0xffffff, 0, 0, 0⟩,
  ⟨0x040004, 0x20, 4, 1, 1, 1, .idle, 0, 0xffffff, 0, 0, 0⟩,
  ⟨0x040005, 0x20, 4, 2, 1, 2, .idle, 0, 0xffffffffffff, 0, 0, 0⟩,
  ⟨0x040007, 0x20, 4, 1, 1, 1, .none, 0xffffff, 0, 0, 0, 0⟩,
  ⟨0x040008, 0x20, 4, 1, 1, 1, .none, 0, 0, 0, 0, 0⟩,
  ⟨0x040009, 0x20, 4, 1, 1, 1, .none, 0, 0, 0, 0, 0⟩,
  ⟨0x04000a, 0x20, 4, 1, 1, 1, .none, 0, 0, 0, 0, 0⟩,
  ⟨0x04000b, 0x20, 4, 2, 1, 2, .none, 0, 0, 0, 0, 0⟩,
  ⟨0x040100, 0x10000, 1, 1, 1, 1, .none, 0x3f, 0, 0, 0, 0⟩,
  ⟨0x040101, 0x10000, 1, 1, 1, 1, .none, 0, 0, 0, 0, 0⟩,
  ⟨0x040102, 0x10000, 1, 1, 1, 1, .none, 0, 0, 0, 0, 0⟩,
  ⟨0x040110, 0x10000, 1, 1, 1, 1, .idle, 0, 0xc0ffff, 0, 0, 0⟩,
  ⟨0x040111, 0x10000, 1, 1, 1, 1, .none, 0xffffff, 0, 0, 0, 0⟩,
  ⟨0x040112, 0x10000, 1, 2, 1, 2, .idle, 0, 0xfffff0000, 0, 0, 0⟩,
  ⟨0x040120, 8, 4, 1, 1, 1, .none, 0, 0, 0, 0, 1⟩,
  ⟨0x040121, 8, 4, 1, 1, 1, .none, 0, 0, 0x300, 0, 0⟩,
  ⟨0x040122, 8, 4, 2, 1, 2, .none, 0, 0, 0, 0, 0⟩,
  ⟨0x040124, 8, 4, 1, 1, 1, .none, 0, 0, 0, 0, 0⟩,
  ⟨0x040125, 8, 4, 1, 1, 1, .none, 0, 0, 0, 0, 0⟩]

/-- R155: Neighbour weights -/
abbrev CMP_TAKE_W : Nat := 0x050000
abbrev CMP_TAKE_W_LEFT_W : Fld := ⟨CMP_TAKE_W, 15, 8⟩
abbrev CMP_TAKE_W_RIGHT_W : Fld := ⟨CMP_TAKE_W, 7, 0⟩
/-- R155: Level-to-code map per rung: level j in bits 3j + 2 : 3j -/
abbrev CMP_RUNG_MAP (i : Nat) : Nat := 0x050001 + 1 * i
/-- R155: Stakes -/
abbrev CMP_STAKE_STATUS : Nat := 0x050004
abbrev CMP_STAKE_STATUS_BYE_FOR : Fld := ⟨CMP_STAKE_STATUS, 19, 16⟩
abbrev CMP_STAKE_STATUS_RETIRED : Fld := ⟨CMP_STAKE_STATUS, 15, 8⟩
abbrev CMP_STAKE_STATUS_HANDOVER : Fld := ⟨CMP_STAKE_STATUS, 7, 4⟩
abbrev CMP_STAKE_STATUS_BYE_FAILED : Fld := ⟨CMP_STAKE_STATUS, 0, 0⟩
/-- R155: Flags -/
abbrev CMP_STATUS : Nat := 0x050005
abbrev CMP_STATUS_HEAD_CFG_INV : Fld := ⟨CMP_STATUS, 2, 2⟩
abbrev CMP_STATUS_TBL_REJ : Fld := ⟨CMP_STATUS, 1, 1⟩
abbrev CMP_STATUS_TAKE_LOST : Fld := ⟨CMP_STATUS, 0, 0⟩
/-- R155: Nozzle-lines of lost density, u24, saturating -/
abbrev CMP_TAKE_LOST : Nat := 0x050006
/-- R155: Completed handovers, u24, saturating -/
abbrev CMP_HANDOVERS : Nat := 0x050007
/-- R155: Geometry -/
abbrev CMP_HEAD_CFG (n : Nat) : Nat := 0x050100 + 8 * n
abbrev CMP_HEAD_CFG_EN (n : Nat) : Fld := ⟨CMP_HEAD_CFG n, 23, 23⟩
abbrev CMP_HEAD_CFG_ROWS_M1 (n : Nat) : Fld := ⟨CMP_HEAD_CFG n, 22, 20⟩
abbrev CMP_HEAD_CFG_PAIR_MODE (n : Nat) : Fld := ⟨CMP_HEAD_CFG n, 19, 18⟩
abbrev CMP_HEAD_CFG_STRIDE (n : Nat) : Fld := ⟨CMP_HEAD_CFG n, 17, 16⟩
abbrev CMP_HEAD_CFG_DIR (n : Nat) : Fld := ⟨CMP_HEAD_CFG n, 15, 15⟩
abbrev CMP_HEAD_CFG_NPR_M1 (n : Nat) : Fld := ⟨CMP_HEAD_CFG n, 11, 0⟩
/-- R155: [16:0] base position -/
abbrev CMP_HEAD_X (n : Nat) : Nat := 0x050101 + 8 * n
/-- R155: ROW_OFS of row r in bits 3r + 2 : 3r -/
abbrev CMP_HEAD_ROWOFS (n : Nat) : Nat := 0x050102 + 8 * n
/-- R155: Trim and blend -/
abbrev CMP_HEAD_EDGE (n : Nat) : Nat := 0x050103 + 8 * n
abbrev CMP_HEAD_EDGE_TRIM_L (n : Nat) : Fld := ⟨CMP_HEAD_EDGE n, 23, 18⟩
abbrev CMP_HEAD_EDGE_BLEND_L (n : Nat) : Fld := ⟨CMP_HEAD_EDGE n, 17, 12⟩
abbrev CMP_HEAD_EDGE_TRIM_H (n : Nat) : Fld := ⟨CMP_HEAD_EDGE n, 11, 6⟩
abbrev CMP_HEAD_EDGE_BLEND_H (n : Nat) : Fld := ⟨CMP_HEAD_EDGE n, 5, 0⟩
/-- R155: Curve swap -/
abbrev CMP_HEAD_TONE (n : Nat) : Nat := 0x050104 + 8 * n
abbrev CMP_HEAD_TONE_PENDING (n : Nat) : Fld := ⟨CMP_HEAD_TONE n, 1, 1⟩
abbrev CMP_HEAD_TONE_SWAP (n : Nat) : Fld := ⟨CMP_HEAD_TONE n, 0, 0⟩

/-- The rows of block CMP (R507). -/
def rowsCMP : List RegRow := [
  ⟨0x050000, 0x10000, 1, 1, 1, 1, .page, 0, 0xffff, 0, 0, 0⟩,
  ⟨0x050001, 0x10000, 1, 1, 3, 1, .page, 0, 0xffffff, 0, 0, 0⟩,
  ⟨0x050004, 0x10000, 1, 1, 1, 1, .none, 0, 0, 0, 0, 0⟩,
  ⟨0x050005, 0x10000, 1, 1, 1, 1, .none, 0, 0, 7, 0, 0⟩,
  ⟨0x050006, 0x10000, 1, 1, 1, 1, .none, 0, 0, 0, 0, 0⟩,
  ⟨0x050007, 0x10000, 1, 1, 1, 1, .none, 0, 0, 0, 0, 0⟩,
  ⟨0x050100, 8, 32, 1, 1, 1, .idle, 0, 0xff8fff, 0, 0, 0⟩,
  ⟨0x050101, 8, 32, 1, 1, 1, .page, 0, 0x1ffff, 0, 0, 0⟩,
  ⟨0x050102, 8, 32, 1, 1, 1, .idle, 0, 0xffffff, 0, 0, 0⟩,
  ⟨0x050103, 8, 32, 1, 1, 1, .page, 0, 0xffffff, 0, 0, 0⟩,
  ⟨0x050104, 8, 32, 1, 1, 1, .none, 0, 0, 0, 0, 1⟩]

/-- R156: [13:7] H − 1, [6:0] W − 1 of the shadow array -/
abbrev SCR_SHADOW_SIZE : Nat := 0x060000
abbrev SCR_SHADOW_SIZE_H_M1 : Fld := ⟨SCR_SHADOW_SIZE, 13, 7⟩
abbrev SCR_SHADOW_SIZE_W_M1 : Fld := ⟨SCR_SHADOW_SIZE, 6, 0⟩
/-- R156: Same layout, active array. While a swap is PENDING, it shows the size that was active befo -/
abbrev SCR_ACTIVE_SIZE : Nat := 0x060001
abbrev SCR_ACTIVE_SIZE_H_M1 : Fld := ⟨SCR_ACTIVE_SIZE, 13, 7⟩
abbrev SCR_ACTIVE_SIZE_W_M1 : Fld := ⟨SCR_ACTIVE_SIZE, 6, 0⟩
/-- R156: [0] SWAP (R150) -/
abbrev SCR_CTRL : Nat := 0x060002
abbrev SCR_CTRL_SWAP : Fld := ⟨SCR_CTRL, 0, 0⟩
/-- R156: Flags -/
abbrev SCR_STATUS : Nat := 0x060003
abbrev SCR_STATUS_WR_REJ : Fld := ⟨SCR_STATUS, 1, 1⟩
abbrev SCR_STATUS_PENDING : Fld := ⟨SCR_STATUS, 0, 0⟩
/-- R156: [6:0] ROW shown in the window -/
abbrev SCR_WIN_ROW : Nat := 0x060004
abbrev SCR_WIN_ROW_ROW : Fld := ⟨SCR_WIN_ROW, 6, 0⟩
/-- R156: Origins of track t -/
abbrev SCR_ORG (i : Nat) : Nat := 0x060008 + 1 * i
abbrev SCR_ORG_Y_ORG (i : Nat) : Fld := ⟨SCR_ORG i, 14, 8⟩
abbrev SCR_ORG_X_ORG (i : Nat) : Fld := ⟨SCR_ORG i, 6, 0⟩

/-- The rows of block SCR (R507). -/
def rowsSCR : List RegRow := [
  ⟨0x060000, 0x10000, 1, 1, 1, 1, .none, 0x3fff, 0, 0, 0, 0⟩,
  ⟨0x060001, 0x10000, 1, 1, 1, 1, .none, 0, 0, 0, 0, 0⟩,
  ⟨0x060002, 0x10000, 1, 1, 1, 1, .none, 0, 0, 0, 0, 1⟩,
  ⟨0x060003, 0x10000, 1, 1, 1, 1, .none, 0, 0, 2, 0, 0⟩,
  ⟨0x060004, 0x10000, 1, 1, 1, 1, .none, 0x7f, 0, 0, 0, 0⟩,
  ⟨0x060008, 0x10000, 1, 1, 4, 1, .page, 0, 0x7f7f, 0, 0, 0⟩]

/-- R196: Port configuration -/
abbrev HLK_PORT_CFG (n : Nat) : Nat := 0x0a0000 + 0x100 * n
abbrev HLK_PORT_CFG_EN (n : Nat) : Fld := ⟨HLK_PORT_CFG n, 23, 23⟩
abbrev HLK_PORT_CFG_BLANK_EN (n : Nat) : Fld := ⟨HLK_PORT_CFG n, 22, 22⟩
abbrev HLK_PORT_CFG_MAX_RATE (n : Nat) : Fld := ⟨HLK_PORT_CFG n, 21, 19⟩
/-- R196: Commands -/
abbrev HLK_PORT_CTRL (n : Nat) : Nat := 0x0a0001 + 0x100 * n
abbrev HLK_PORT_CTRL_RETRAIN (n : Nat) : Fld := ⟨HLK_PORT_CTRL n, 1, 1⟩
abbrev HLK_PORT_CTRL_CLEAR_COUNTS (n : Nat) : Fld := ⟨HLK_PORT_CTRL n, 0, 0⟩
/-- R196: Status -/
abbrev HLK_PORT_STATUS (n : Nat) : Nat := 0x0a0002 + 0x100 * n
abbrev HLK_PORT_STATUS_FOLLOWED (n : Nat) : Fld := ⟨HLK_PORT_STATUS n, 19, 19⟩
abbrev HLK_PORT_STATUS_RATE_LOW (n : Nat) : Fld := ⟨HLK_PORT_STATUS n, 18, 18⟩
abbrev HLK_PORT_STATUS_CAPS_MIS (n : Nat) : Fld := ⟨HLK_PORT_STATUS n, 17, 17⟩
abbrev HLK_PORT_STATUS_STATUS_LOST (n : Nat) : Fld := ⟨HLK_PORT_STATUS n, 16, 16⟩
abbrev HLK_PORT_STATUS_LATE (n : Nat) : Fld := ⟨HLK_PORT_STATUS n, 15, 15⟩
abbrev HLK_PORT_STATUS_DOWN (n : Nat) : Fld := ⟨HLK_PORT_STATUS n, 14, 14⟩
abbrev HLK_PORT_STATUS_THERM_WARN (n : Nat) : Fld := ⟨HLK_PORT_STATUS n, 13, 13⟩
abbrev HLK_PORT_STATUS_THERM_HOLD (n : Nat) : Fld := ⟨HLK_PORT_STATUS n, 12, 12⟩
abbrev HLK_PORT_STATUS_HOLD_CAUSE (n : Nat) : Fld := ⟨HLK_PORT_STATUS n, 11, 10⟩
abbrev HLK_PORT_STATUS_STATE (n : Nat) : Fld := ⟨HLK_PORT_STATUS n, 2, 0⟩
/-- R196: L, u24 ps -/
abbrev HLK_PORT_LATENCY (n : Nat) : Nat := 0x0a0003 + 0x100 * n
/-- R196: s24 ps, added to L -/
abbrev HLK_PORT_SKEW (n : Nat) : Nat := 0x0a0004 + 0x100 * n
/-- R196: Limit and hysteresis -/
abbrev HLK_THERM_LIMIT (n : Nat) : Nat := 0x0a0005 + 0x100 * n
abbrev HLK_THERM_LIMIT_LIMIT (n : Nat) : Fld := ⟨HLK_THERM_LIMIT n, 23, 12⟩
abbrev HLK_THERM_LIMIT_HYST (n : Nat) : Fld := ⟨HLK_THERM_LIMIT n, 7, 0⟩
/-- R196: Warning -/
abbrev HLK_THERM_WARN (n : Nat) : Nat := 0x0a0006 + 0x100 * n
abbrev HLK_THERM_WARN_WARN (n : Nat) : Fld := ⟨HLK_THERM_WARN n, 23, 12⟩
abbrev HLK_THERM_WARN_WARN_RUNG (n : Nat) : Fld := ⟨HLK_THERM_WARN n, 9, 8⟩
/-- R196: Last reported temperature -/
abbrev HLK_TEMP (n : Nat) : Nat := 0x0a0007 + 0x100 * n
abbrev HLK_TEMP_VALID (n : Nat) : Fld := ⟨HLK_TEMP n, 23, 23⟩
abbrev HLK_TEMP_TEMP (n : Nat) : Fld := ⟨HLK_TEMP n, 11, 0⟩
/-- R196: LINE_LATE lines, u24, saturating -/
abbrev HLK_LATE_COUNT (n : Nat) : Nat := 0x0a0008 + 0x100 * n
/-- R196: Discarded upstream frames and echo samples, u24, saturating -/
abbrev HLK_ERR_COUNT (n : Nat) : Nat := 0x0a0009 + 0x100 * n
/-- R196: [23:16] SEQ, [15:8] LATE_CNT, [7:0] CRC_CNT of the last STATUS -/
abbrev HLK_HE_COUNTS (n : Nat) : Nat := 0x0a000a + 0x100 * n
abbrev HLK_HE_COUNTS_SEQ (n : Nat) : Fld := ⟨HLK_HE_COUNTS n, 23, 16⟩
abbrev HLK_HE_COUNTS_LATE_CNT (n : Nat) : Fld := ⟨HLK_HE_COUNTS n, 15, 8⟩
abbrev HLK_HE_COUNTS_CRC_CNT (n : Nat) : Fld := ⟨HLK_HE_COUNTS n, 7, 0⟩
/-- R196: [7:0] HEALTH of the last STATUS -/
abbrev HLK_HE_HEALTH (n : Nat) : Nat := 0x0a000b + 0x100 * n
abbrev HLK_HE_HEALTH_HEALTH (n : Nat) : Fld := ⟨HLK_HE_HEALTH n, 7, 0⟩
/-- R196: Row delays -/
abbrev HLK_ROW_DLY (n : Nat) (i : Nat) : Nat := 0x0a0010 + 0x100 * n + 1 * i
abbrev HLK_ROW_DLY_WHOLE (n : Nat) (i : Nat) : Fld := ⟨HLK_ROW_DLY n i, 17, 6⟩
abbrev HLK_ROW_DLY_FRAC (n : Nat) (i : Nat) : Fld := ⟨HLK_ROW_DLY n i, 5, 0⟩
/-- R196: CAPS bytes 3i to 3i + 2 in word i, big-endian -/
abbrev HLK_CAPS (n : Nat) (i : Nat) : Nat := 0x0a0020 + 0x100 * n + 1 * i
/-- R196: Supervision timing -/
abbrev HLK_CFG : Nat := 0x0a2000
abbrev HLK_CFG_STATUS_TO : Fld := ⟨HLK_CFG, 23, 16⟩
abbrev HLK_CFG_ECHO_INT : Fld := ⟨HLK_CFG, 15, 10⟩
abbrev HLK_CFG_CLAIM_MAX : Fld := ⟨HLK_CFG, 9, 0⟩
/-- R196: Delay-store depth -/
abbrev HLK_DLY_CFG : Nat := 0x0a2001
abbrev HLK_DLY_CFG_DEPTH_LOG2 : Fld := ⟨HLK_DLY_CFG, 3, 0⟩
/-- R196: Byte address, 36 bits; bits 8:0 must be 0 -/
abbrev HLK_DLY_BASE : Nat := 0x0a2002
/-- R196: Fire number, u48 -/
abbrev HLK_FIRE_NUM : Nat := 0x0a2004
/-- R196: Bit h: port h in thermal hold; ports 24–31 in word 1 bits 7:0 -/
abbrev HLK_HOLD_MAP : Nat := 0x0a2006
/-- R196: Head-end access -/
abbrev HLK_MBX_CTRL : Nat := 0x0a2010
abbrev HLK_MBX_CTRL_BUSY : Fld := ⟨HLK_MBX_CTRL, 23, 23⟩
abbrev HLK_MBX_CTRL_RESULT : Fld := ⟨HLK_MBX_CTRL, 22, 20⟩
abbrev HLK_MBX_CTRL_GO : Fld := ⟨HLK_MBX_CTRL, 19, 19⟩
abbrev HLK_MBX_CTRL_OP : Fld := ⟨HLK_MBX_CTRL, 18, 18⟩
abbrev HLK_MBX_CTRL_COUNT_M1 : Fld := ⟨HLK_MBX_CTRL, 17, 12⟩
abbrev HLK_MBX_CTRL_PORT : Fld := ⟨HLK_MBX_CTRL, 4, 0⟩
/-- R196: [23:0] head-end word address -/
abbrev HLK_MBX_ADDR : Nat := 0x0a2011
/-- R196: Words to write, or words read -/
abbrev HLK_MBX_DATA (i : Nat) : Nat := 0x0a2040 + 1 * i

/-- The rows of block HLK (R507). -/
def rowsHLK : List RegRow := [
  ⟨0x0a0000, 0x100, 32, 1, 1, 1, .idle, 0, 0xf80000, 0, 0, 0⟩,
  ⟨0x0a0001, 0x100, 32, 1, 1, 1, .none, 0, 0, 0, 0, 3⟩,
  ⟨0x0a0002, 0x100, 32, 1, 1, 1, .none, 0, 0, 0x1c000, 0, 0⟩,
  ⟨0x0a0003, 0x100, 32, 1, 1, 1, .none, 0, 0, 0, 0, 0⟩,
  ⟨0x0a0004, 0x100, 32, 1, 1, 1, .none, 0xffffff, 0, 0, 0, 0⟩,
  ⟨0x0a0005, 0x100, 32, 1, 1, 1, .none, 0xfff0ff, 0, 0, 0, 0⟩,
  ⟨0x0a0006, 0x100, 32, 1, 1, 1, .none, 0xfff300, 0, 0, 0, 0⟩,
  ⟨0x0a0007, 0x100, 32, 1, 1, 1, .none, 0, 0, 0, 0, 0⟩,
  ⟨0x0a0008, 0x100, 32, 1, 1, 1, .none, 0, 0, 0, 0, 0⟩,
  ⟨0x0a0009, 0x100, 32, 1, 1, 1, .none, 0, 0, 0, 0, 0⟩,
  ⟨0x0a000a, 0x100, 32, 1, 1, 1, .none, 0, 0, 0, 0, 0⟩,
  ⟨0x0a000b, 0x100, 32, 1, 1, 1, .none, 0, 0, 0, 0, 0⟩,
  ⟨0x0a0010, 0x100, 32, 1, 8, 1, .page, 0, 0x3ffff, 0, 0, 0⟩,
  ⟨0x0a0020, 0x100, 32, 1, 8, 1, .none, 0, 0, 0, 0, 0⟩,
  ⟨0x0a2000, 0x10000, 1, 1, 1, 1, .idle, 0, 0xffffff, 0, 0, 0⟩,
  ⟨0x0a2001, 0x10000, 1, 1, 1, 1, .idle, 0, 0xf, 0, 0, 0⟩,
  ⟨0x0a2002, 0x10000, 1, 2, 1, 2, .idle, 0, 0xffffffe00, 0, 0, 0⟩,
  ⟨0x0a2004, 0x10000, 1, 2, 1, 2, .none, 0, 0, 0, 0, 0⟩,
  ⟨0x0a2006, 0x10000, 1, 2, 1, 2, .none, 0, 0, 0, 0, 0⟩,
  ⟨0x0a2010, 0x10000, 1, 1, 1, 1, .none, 0x7f01f, 0, 0, 0, 0x80000⟩,
  ⟨0x0a2011, 0x10000, 1, 1, 1, 1, .none, 0xffffff, 0, 0, 0, 0⟩,
  ⟨0x0a2040, 0x10000, 1, 1, 64, 1, .none, 0xffffff, 0, 0, 0, 0⟩]

/-- R235: Camera configuration -/
abbrev INS_CAM_CFG (n : Nat) : Nat := 0x0b0000 + 0x20 * n
abbrev INS_CAM_CFG_EN (n : Nat) : Fld := ⟨INS_CAM_CFG n, 23, 23⟩
abbrev INS_CAM_CFG_FORMAT (n : Nat) : Fld := ⟨INS_CAM_CFG n, 22, 22⟩
abbrev INS_CAM_CFG_CHAN (n : Nat) : Fld := ⟨INS_CAM_CFG n, 21, 20⟩
abbrev INS_CAM_CFG_BLUR (n : Nat) : Fld := ⟨INS_CAM_CFG n, 19, 19⟩
abbrev INS_CAM_CFG_PULSE_CH (n : Nat) : Fld := ⟨INS_CAM_CFG n, 18, 16⟩
abbrev INS_CAM_CFG_DIV_M1 (n : Nat) : Fld := ⟨INS_CAM_CFG n, 5, 0⟩
/-- R235: Pixels per line, 1–32,768 -/
abbrev INS_CAM_WIDTH (n : Nat) : Nat := 0x0b0001 + 0x20 * n
/-- R235: Position of pixel 0, s24, 1/64 position -/
abbrev INS_CAM_X0 (n : Nat) : Nat := 0x0b0002 + 0x20 * n
/-- R235: u24, 1/65,536 position per pixel -/
abbrev INS_CAM_SCALE (n : Nat) : Nat := 0x0b0003 + 0x20 * n
/-- R235: u40, 1/256 count -/
abbrev INS_CAM_DIST (n : Nat) : Nat := 0x0b0004 + 0x20 * n
/-- R235: [15:0] trigger lead, ns -/
abbrev INS_CAM_LEAD (n : Nat) : Nat := 0x0b0006 + 0x20 * n
abbrev INS_CAM_LEAD_NS (n : Nat) : Fld := ⟨INS_CAM_LEAD n, 15, 0⟩
/-- R235: [15:8] WHITE, [7:0] BLACK -/
abbrev INS_CAM_LEVELS (n : Nat) : Nat := 0x0b0007 + 0x20 * n
abbrev INS_CAM_LEVELS_WHITE (n : Nat) : Fld := ⟨INS_CAM_LEVELS n, 15, 8⟩
abbrev INS_CAM_LEVELS_BLACK (n : Nat) : Fld := ⟨INS_CAM_LEVELS n, 7, 0⟩
/-- R235: [23:16] HB_TO, 100 µs, 0 treated as 1; [11:0] MIN_LAT, 100 ns -/
abbrev INS_CAM_TIMING (n : Nat) : Nat := 0x0b0008 + 0x20 * n
abbrev INS_CAM_TIMING_HB_TO (n : Nat) : Fld := ⟨INS_CAM_TIMING n, 23, 16⟩
abbrev INS_CAM_TIMING_MIN_LAT (n : Nat) : Fld := ⟨INS_CAM_TIMING n, 11, 0⟩
/-- R235: Status -/
abbrev INS_CAM_STATUS (n : Nat) : Nat := 0x0b0009 + 0x20 * n
abbrev INS_CAM_STATUS_LOST_LINES (n : Nat) : Fld := ⟨INS_CAM_STATUS n, 7, 7⟩
abbrev INS_CAM_STATUS_MARK_FOUND (n : Nat) : Fld := ⟨INS_CAM_STATUS n, 6, 6⟩
abbrev INS_CAM_STATUS_MARK_ARMED (n : Nat) : Fld := ⟨INS_CAM_STATUS n, 5, 5⟩
abbrev INS_CAM_STATUS_WIDTH_ERR (n : Nat) : Fld := ⟨INS_CAM_STATUS n, 4, 4⟩
abbrev INS_CAM_STATUS_STATE (n : Nat) : Fld := ⟨INS_CAM_STATUS n, 1, 0⟩
/-- R235: Lost and discarded lines, u24, saturating -/
abbrev INS_CAM_LOST (n : Nat) : Nat := 0x0b000a + 0x20 * n
/-- R235: Unsupported packets, u24, saturating -/
abbrev INS_CAM_DISCARDS (n : Nat) : Nat := 0x0b000b + 0x20 * n
/-- R235: [15:8] received levels RO, [7:0] levels to send RW -/
abbrev INS_CAM_GPIO (n : Nat) : Nat := 0x0b000c + 0x20 * n
abbrev INS_CAM_GPIO_RX (n : Nat) : Fld := ⟨INS_CAM_GPIO n, 15, 8⟩
abbrev INS_CAM_GPIO_TX (n : Nat) : Fld := ⟨INS_CAM_GPIO n, 7, 0⟩
/-- R235: [7:0] MARK_T -/
abbrev INS_CAM_MARK_CFG (n : Nat) : Nat := 0x0b000d + 0x20 * n
abbrev INS_CAM_MARK_CFG_MARK_T (n : Nat) : Fld := ⟨INS_CAM_MARK_CFG n, 7, 0⟩
/-- R235: s48, 1/256 count -/
abbrev INS_CAM_MARK_DIST (n : Nat) : Nat := 0x0b000e + 0x20 * n
/-- R235: Scoring -/
abbrev INS_SCORE_CFG : Nat := 0x0b0100
abbrev INS_SCORE_CFG_AUTO : Fld := ⟨INS_SCORE_CFG, 23, 23⟩
abbrev INS_SCORE_CFG_DECLARE : Fld := ⟨INS_SCORE_CFG, 15, 8⟩
abbrev INS_SCORE_CFG_INC : Fld := ⟨INS_SCORE_CFG, 7, 4⟩
abbrev INS_SCORE_CFG_DEC : Fld := ⟨INS_SCORE_CFG, 3, 0⟩
/-- R235: [23:16] MIN_EXP, [15:8] MISS_T, [7:0] MASS_PCT 0–100, 0 off -/
abbrev INS_MISS_CFG : Nat := 0x0b0101
abbrev INS_MISS_CFG_MIN_EXP : Fld := ⟨INS_MISS_CFG, 23, 16⟩
abbrev INS_MISS_CFG_MISS_T : Fld := ⟨INS_MISS_CFG, 15, 8⟩
abbrev INS_MISS_CFG_MASS_PCT : Fld := ⟨INS_MISS_CFG, 7, 0⟩
/-- R235: Coverage of code 3i + j in bits 8j + 7 : 8j; code 0 reads 0 -/
abbrev INS_CODE_COV (i : Nat) : Nat := 0x0b0102 + 1 * i
/-- R235: [23] UNVER_PASS, [22:8] MAX_BAD, [7:0] CODE_T -/
abbrev INS_CODE_CFG : Nat := 0x0b0105
abbrev INS_CODE_CFG_UNVER_PASS : Fld := ⟨INS_CODE_CFG, 23, 23⟩
abbrev INS_CODE_CFG_MAX_BAD : Fld := ⟨INS_CODE_CFG, 22, 8⟩
abbrev INS_CODE_CFG_CODE_T : Fld := ⟨INS_CODE_CFG, 7, 0⟩
/-- R235: Reject markers -/
abbrev INS_REJ_CFG : Nat := 0x0b0106
abbrev INS_REJ_CFG_EN : Fld := ⟨INS_REJ_CFG, 23, 23⟩
abbrev INS_REJ_CFG_PEV : Fld := ⟨INS_REJ_CFG, 22, 20⟩
abbrev INS_REJ_CFG_UNIT : Fld := ⟨INS_REJ_CFG, 19, 19⟩
/-- R235: Pulse width, 1–16,777,215 -/
abbrev INS_REJ_WIDTH : Nat := 0x0b0107
/-- R235: u40, 1/256 count -/
abbrev INS_REJ_DIST : Nat := 0x0b0108
/-- R235: s24 counts -/
abbrev INS_REJ_OFS : Nat := 0x0b010a
/-- R235: [3:0] DEPTH_LOG2, 8–14; values outside treated as the nearer limit -/
abbrev INS_EXP_CFG : Nat := 0x0b010b
abbrev INS_EXP_CFG_DEPTH_LOG2 : Fld := ⟨INS_EXP_CFG, 3, 0⟩
/-- R235: Byte address, 36 bits; bits 15:0 must be 0 -/
abbrev INS_EXP_BASE : Nat := 0x0b010c
/-- R235: [1] SET_OVER W1C, [0] ring 6 full RO -/
abbrev INS_STATUS : Nat := 0x0b010e
abbrev INS_STATUS_SET_OVER : Fld := ⟨INS_STATUS, 1, 1⟩
abbrev INS_STATUS_FULL6 : Fld := ⟨INS_STATUS, 0, 0⟩
/-- R235: u24, saturating -/
abbrev INS_REPORT_DROPS : Nat := 0x0b010f
/-- R235: u24, saturating -/
abbrev INS_EXP_MISS : Nat := 0x0b0110
/-- R235: u24, saturating -/
abbrev INS_MASS_LINES : Nat := 0x0b0111
/-- R235: [7:0] markers queued for track t -/
abbrev INS_REJ_QUEUE (i : Nat) : Nat := 0x0b0114 + 1 * i
/-- R235: [4:0] port shown in the score window -/
abbrev INS_SCORE_PORT : Nat := 0x0b0120

/-- The rows of block INS (R507). -/
def rowsINS : List RegRow := [
  ⟨0x0b0000, 0x20, 4, 1, 1, 1, .idle, 0, 0xff003f, 0, 0, 0⟩,
  ⟨0x0b0001, 0x20, 4, 1, 1, 1, .idle, 0, 0xffffff, 0, 0, 0⟩,
  ⟨0x0b0002, 0x20, 4, 1, 1, 1, .idle, 0, 0xffffff, 0, 0, 0⟩,
  ⟨0x0b0003, 0x20, 4, 1, 1, 1, .idle, 0, 0xffffff, 0, 0, 0⟩,
  ⟨0x0b0004, 0x20, 4, 2, 1, 2, .idle, 0, 0xffffffffff, 0, 0, 0⟩,
  ⟨0x0b0006, 0x20, 4, 1, 1, 1, .idle, 0, 0xffff, 0, 0, 0⟩,
  ⟨0x0b0007, 0x20, 4, 1, 1, 1, .none, 0xffff, 0, 0, 0, 0⟩,
  ⟨0x0b0008, 0x20, 4, 1, 1, 1, .none, 0xff0fff, 0, 0, 0, 0⟩,
  ⟨0x0b0009, 0x20, 4, 1, 1, 1, .none, 0, 0, 0xd0, 0, 0⟩,
  ⟨0x0b000a, 0x20, 4, 1, 1, 1, .none, 0, 0, 0, 0, 0⟩,
  ⟨0x0b000b, 0x20, 4, 1, 1, 1, .none, 0, 0, 0, 0, 0⟩,
  ⟨0x0b000c, 0x20, 4, 1, 1, 1, .none, 0xff, 0, 0, 0, 0⟩,
  ⟨0x0b000d, 0x20, 4, 1, 1, 1, .none, 0xff, 0, 0, 0, 0⟩,
  ⟨0x0b000e, 0x20, 4, 2, 1, 2, .none, 0, 0, 0, 0, 0⟩,
  ⟨0x0b0100, 0x10000, 1, 1, 1, 1, .none, 0x80ffff, 0, 0, 0, 0⟩,
  ⟨0x0b0101, 0x10000, 1, 1, 1, 1, .none, 0xffffff, 0, 0, 0, 0⟩,
  ⟨0x0b0102, 0x10000, 1, 1, 1, 1, .none, 0xffff00, 0, 0, 0, 0⟩,
  ⟨0x0b0103, 0x10000, 1, 1, 2, 1, .none, 0xffffff, 0, 0, 0, 0⟩,
  ⟨0x0b0105, 0x10000, 1, 1, 1, 1, .page, 0, 0xffffff, 0, 0, 0⟩,
  ⟨0x0b0106, 0x10000, 1, 1, 1, 1, .page, 0, 0xf80000, 0, 0, 0⟩,
  ⟨0x0b0107, 0x10000, 1, 1, 1, 1, .page, 0, 0xffffff, 0, 0, 0⟩,
  ⟨0x0b0108, 0x10000, 1, 2, 1, 2, .page, 0, 0xffffffffff, 0, 0, 0⟩,
  ⟨0x0b010a, 0x10000, 1, 1, 1, 1, .page, 0, 0xffffff, 0, 0, 0⟩,
  ⟨0x0b010b, 0x10000, 1, 1, 1, 1, .idle, 0, 0xf, 0, 0, 0⟩,
  ⟨0x0b010c, 0x10000, 1, 2, 1, 2, .idle, 0, 0xfffff0000, 0, 0, 0⟩,
  ⟨0x0b010e, 0x10000, 1, 1, 1, 1, .none, 0, 0, 2, 0, 0⟩,
  ⟨0x0b010f, 0x10000, 1, 1, 1, 1, .none, 0, 0, 0, 0, 0⟩,
  ⟨0x0b0110, 0x10000, 1, 1, 1, 1, .none, 0, 0, 0, 0, 0⟩,
  ⟨0x0b0111, 0x10000, 1, 1, 1, 1, .none, 0, 0, 0, 0, 0⟩,
  ⟨0x0b0114, 0x10000, 1, 1, 4, 1, .none, 0, 0, 0, 0, 0⟩,
  ⟨0x0b0120, 0x10000, 1, 1, 1, 1, .none, 0x1f, 0, 0, 0, 0⟩]

/-- R236: Solver and temperature settings -/
abbrev ALN_CFG : Nat := 0x0c0000
abbrev ALN_CFG_TEMP_HYST : Fld := ⟨ALN_CFG, 23, 16⟩
abbrev ALN_CFG_BLEND_MAX : Fld := ⟨ALN_CFG, 13, 8⟩
abbrev ALN_CFG_REF_HEAD : Fld := ⟨ALN_CFG, 4, 0⟩
/-- R236: [23:12] MIN_SAMPLES, [7:0] MAX_SPREAD in 1/16 nozzle -/
abbrev ALN_QUAL : Nat := 0x0c0001
abbrev ALN_QUAL_MIN_SAMPLES : Fld := ⟨ALN_QUAL, 23, 12⟩
abbrev ALN_QUAL_MAX_SPREAD : Fld := ⟨ALN_QUAL, 7, 0⟩
/-- R236: Bit h: alignment enabled for port h; ports 24–31 in word 1 bits 7:0 -/
abbrev ALN_EN : Nat := 0x0c0002
/-- R236: [0] FLAG_MIS W1C -/
abbrev ALN_STATUS : Nat := 0x0c0004
abbrev ALN_STATUS_FLAG_MIS : Fld := ⟨ALN_STATUS, 0, 0⟩
/-- R236: Set k -/
abbrev ALN_SET_CFG (i : Nat) : Nat := 0x0c0008 + 1 * i
abbrev ALN_SET_CFG_VALID (i : Nat) : Fld := ⟨ALN_SET_CFG i, 23, 23⟩
abbrev ALN_SET_CFG_TEMP (i : Nat) : Fld := ⟨ALN_SET_CFG i, 11, 0⟩
/-- R236: Head mask of set k, two words as ALN_EN -/
abbrev ALN_SET_HEADS (i : Nat) : Nat := 0x0c0010 + 2 * i
/-- R236: Test page -/
abbrev ALN_TP_CFG : Nat := 0x0c0020
abbrev ALN_TP_CFG_TRACK : Fld := ⟨ALN_TP_CFG, 23, 22⟩
abbrev ALN_TP_CFG_PATTERN : Fld := ⟨ALN_TP_CFG, 21, 20⟩
abbrev ALN_TP_CFG_CODE : Fld := ⟨ALN_TP_CFG, 18, 16⟩
abbrev ALN_TP_CFG_LEN : Fld := ⟨ALN_TP_CFG, 15, 8⟩
abbrev ALN_TP_CFG_ROW : Fld := ⟨ALN_TP_CFG, 2, 0⟩
/-- R236: [1] CANCEL, [0] GO -/
abbrev ALN_TP_CTRL : Nat := 0x0c0021
abbrev ALN_TP_CTRL_CANCEL : Fld := ⟨ALN_TP_CTRL, 1, 1⟩
abbrev ALN_TP_CTRL_GO : Fld := ⟨ALN_TP_CTRL, 0, 0⟩
/-- R236: Test page status -/
abbrev ALN_TP_STATUS : Nat := 0x0c0022
abbrev ALN_TP_STATUS_REJ_CAUSE : Fld := ⟨ALN_TP_STATUS, 7, 4⟩
abbrev ALN_TP_STATUS_MERGED : Fld := ⟨ALN_TP_STATUS, 3, 3⟩
abbrev ALN_TP_STATUS_DONE : Fld := ⟨ALN_TP_STATUS, 2, 2⟩
abbrev ALN_TP_STATUS_ACTIVE : Fld := ⟨ALN_TP_STATUS, 1, 1⟩
abbrev ALN_TP_STATUS_PENDING : Fld := ⟨ALN_TP_STATUS, 0, 0⟩
/-- R236: Tag of the test page -/
abbrev ALN_TP_TAG : Nat := 0x0c0023
/-- R236: [23] VALID, [11:0] θ of port h -/
abbrev ALN_THETA (i : Nat) : Nat := 0x0c0040 + 1 * i
abbrev ALN_THETA_VALID (i : Nat) : Fld := ⟨ALN_THETA i, 23, 23⟩
abbrev ALN_THETA_THETA (i : Nat) : Fld := ⟨ALN_THETA i, 11, 0⟩

/-- The rows of block ALN (R507). -/
def rowsALN : List RegRow := [
  ⟨0x0c0000, 0x10000, 1, 1, 1, 1, .idle, 0, 0xff3f1f, 0, 0, 0⟩,
  ⟨0x0c0001, 0x10000, 1, 1, 1, 1, .none, 0xfff0ff, 0, 0, 0, 0⟩,
  ⟨0x0c0002, 0x10000, 1, 2, 1, 2, .page, 0, 0xffffffff, 0, 0, 0⟩,
  ⟨0x0c0004, 0x10000, 1, 1, 1, 1, .none, 0, 0, 1, 0, 0⟩,
  ⟨0x0c0008, 0x10000, 1, 1, 4, 1, .page, 0, 0x800fff, 0, 0, 0⟩,
  ⟨0x0c0010, 0x10000, 1, 2, 4, 2, .page, 0, 0xffffffff, 0, 0, 0⟩,
  ⟨0x0c0020, 0x10000, 1, 1, 1, 1, .none, 0xf7ff07, 0, 0, 0, 0⟩,
  ⟨0x0c0021, 0x10000, 1, 1, 1, 1, .none, 0, 0, 0, 0, 3⟩,
  ⟨0x0c0022, 0x10000, 1, 1, 1, 1, .none, 0, 0, 0xc, 0, 0⟩,
  ⟨0x0c0023, 0x10000, 1, 1, 1, 1, .none, 0xffffff, 0, 0, 0, 0⟩,
  ⟨0x0c0040, 0x10000, 1, 1, 32, 1, .none, 0, 0, 0, 0, 0⟩]

/-- R253: Mode, axis, table size, tail -/
abbrev SHT_CFG : Nat := 0x0d0000
abbrev SHT_CFG_EN : Fld := ⟨SHT_CFG, 23, 23⟩
abbrev SHT_CFG_AXIS : Fld := ⟨SHT_CFG, 22, 20⟩
abbrev SHT_CFG_N_M1 : Fld := ⟨SHT_CFG, 17, 12⟩
abbrev SHT_CFG_TAIL : Fld := ⟨SHT_CFG, 11, 0⟩
/-- R253: [15:0] passes per page, 1–65,535; 0 is treated as 1 -/
abbrev SHT_PAGE_PASSES : Nat := 0x0d0001
/-- R253: Column 0 position, s48.24 -/
abbrev SHT_ORIGIN : Nat := 0x0d0002
/-- R253: Arm distance, u24 counts -/
abbrev SHT_ARM_DIST : Nat := 0x0d0005
/-- R253: SPAN, u24 counts; 0 is treated as 1 -/
abbrev SHT_FEED_SPAN : Nat := 0x0d0006
/-- R253: O_0, s24 media rows -/
abbrev SHT_ROW_ORG : Nat := 0x0d0007
/-- R253: [16:0] rows between pages -/
abbrev SHT_PAGE_FEED_ROWS : Nat := 0x0d0008
/-- R253: s24 microsteps between pages -/
abbrev SHT_PAGE_FEED_STEPS : Nat := 0x0d0009
/-- R253: Status -/
abbrev SHT_STATUS : Nat := 0x0d000a
abbrev SHT_STATUS_NO_REV_DLY : Fld := ⟨SHT_STATUS, 23, 23⟩
abbrev SHT_STATUS_FEED_LATE : Fld := ⟨SHT_STATUS, 22, 22⟩
abbrev SHT_STATUS_ABORTED : Fld := ⟨SHT_STATUS, 21, 21⟩
abbrev SHT_STATUS_FEED_DONE : Fld := ⟨SHT_STATUS, 20, 20⟩
abbrev SHT_STATUS_DIR : Fld := ⟨SHT_STATUS, 19, 19⟩
abbrev SHT_STATUS_ENTRY : Fld := ⟨SHT_STATUS, 17, 12⟩
abbrev SHT_STATUS_STATE : Fld := ⟨SHT_STATUS, 1, 0⟩
/-- R253: Pass k within the page, u24 -/
abbrev SHT_PASS_INDEX : Nat := 0x0d000b
/-- R253: O_k, s24 -/
abbrev SHT_ROW_OFS : Nat := 0x0d000c
/-- R253: Sweeps that printed nothing under R248 or R249, u24, saturating -/
abbrev SHT_IDLE_SWEEPS : Nat := 0x0d000d
/-- R253: Passes completed, u24, saturating -/
abbrev SHT_PASS_COUNT : Nat := 0x0d000e

/-- The rows of block SHT (R507). -/
def rowsSHT : List RegRow := [
  ⟨0x0d0000, 0x10000, 1, 1, 1, 1, .idle, 0, 0xf3ffff, 0, 0, 0⟩,
  ⟨0x0d0001, 0x10000, 1, 1, 1, 1, .page, 0, 0xffff, 0, 0, 0⟩,
  ⟨0x0d0002, 0x10000, 1, 3, 1, 3, .idle, 0, 0xffffffffffffffffff, 0, 0, 0⟩,
  ⟨0x0d0005, 0x10000, 1, 1, 1, 1, .idle, 0, 0xffffff, 0, 0, 0⟩,
  ⟨0x0d0006, 0x10000, 1, 1, 1, 1, .idle, 0, 0xffffff, 0, 0, 0⟩,
  ⟨0x0d0007, 0x10000, 1, 1, 1, 1, .page, 0, 0xffffff, 0, 0, 0⟩,
  ⟨0x0d0008, 0x10000, 1, 1, 1, 1, .page, 0, 0x1ffff, 0, 0, 0⟩,
  ⟨0x0d0009, 0x10000, 1, 1, 1, 1, .page, 0, 0xffffff, 0, 0, 0⟩,
  ⟨0x0d000a, 0x10000, 1, 1, 1, 1, .none, 0, 0, 0xe00000, 0, 0⟩,
  ⟨0x0d000b, 0x10000, 1, 1, 1, 1, .none, 0, 0, 0, 0, 0⟩,
  ⟨0x0d000c, 0x10000, 1, 1, 1, 1, .none, 0, 0, 0, 0, 0⟩,
  ⟨0x0d000d, 0x10000, 1, 1, 1, 1, .none, 0, 0, 0, 0, 0⟩,
  ⟨0x0d000e, 0x10000, 1, 1, 1, 1, .none, 0, 0, 0, 0, 0⟩]

/-- R281: Mode and drive -/
abbrev AXS_CFG (n : Nat) : Nat := 0x0e0000 + 0x100 * n
abbrev AXS_CFG_MODE (n : Nat) : Fld := ⟨AXS_CFG n, 23, 22⟩
abbrev AXS_CFG_DRIVE (n : Nat) : Fld := ⟨AXS_CFG n, 21, 21⟩
abbrev AXS_CFG_NO_REVERSE (n : Nat) : Fld := ⟨AXS_CFG n, 20, 20⟩
abbrev AXS_CFG_SOFT_EN (n : Nat) : Fld := ⟨AXS_CFG n, 19, 19⟩
abbrev AXS_CFG_ENC_EN (n : Nat) : Fld := ⟨AXS_CFG n, 18, 18⟩
abbrev AXS_CFG_ENC (n : Nat) : Fld := ⟨AXS_CFG n, 17, 15⟩
abbrev AXS_CFG_RES (n : Nat) : Fld := ⟨AXS_CFG n, 14, 11⟩
abbrev AXS_CFG_STEP_DIV (n : Nat) : Fld := ⟨AXS_CFG n, 10, 7⟩
abbrev AXS_CFG_STEP_W (n : Nat) : Fld := ⟨AXS_CFG n, 6, 0⟩
/-- R281: Commands -/
abbrev AXS_CTRL (n : Nat) : Nat := 0x0e0001 + 0x100 * n
abbrev AXS_CTRL_OFS_RESET (n : Nat) : Fld := ⟨AXS_CTRL n, 8, 8⟩
abbrev AXS_CTRL_PRESET (n : Nat) : Fld := ⟨AXS_CTRL n, 7, 7⟩
abbrev AXS_CTRL_CLEAR (n : Nat) : Fld := ⟨AXS_CTRL n, 6, 6⟩
abbrev AXS_CTRL_HOME (n : Nat) : Fld := ⟨AXS_CTRL n, 5, 5⟩
abbrev AXS_CTRL_ESTOP (n : Nat) : Fld := ⟨AXS_CTRL n, 4, 4⟩
abbrev AXS_CTRL_STOP (n : Nat) : Fld := ⟨AXS_CTRL n, 3, 3⟩
abbrev AXS_CTRL_GO (n : Nat) : Fld := ⟨AXS_CTRL n, 2, 2⟩
abbrev AXS_CTRL_DISABLE (n : Nat) : Fld := ⟨AXS_CTRL n, 1, 1⟩
abbrev AXS_CTRL_ENABLE (n : Nat) : Fld := ⟨AXS_CTRL n, 0, 0⟩
/-- R281: Status -/
abbrev AXS_STATUS (n : Nat) : Nat := 0x0e0002 + 0x100 * n
abbrev AXS_STATUS_SLOT_ACT (n : Nat) : Fld := ⟨AXS_STATUS n, 20, 18⟩
abbrev AXS_STATUS_RATIO_DEF (n : Nat) : Fld := ⟨AXS_STATUS n, 17, 17⟩
abbrev AXS_STATUS_LAGGING (n : Nat) : Fld := ⟨AXS_STATUS n, 16, 16⟩
abbrev AXS_STATUS_STALLED (n : Nat) : Fld := ⟨AXS_STATUS n, 15, 15⟩
abbrev AXS_STATUS_HOME_CAUSE (n : Nat) : Fld := ⟨AXS_STATUS n, 14, 12⟩
abbrev AXS_STATUS_HOME_ACT (n : Nat) : Fld := ⟨AXS_STATUS n, 11, 11⟩
abbrev AXS_STATUS_LIMP_ACT (n : Nat) : Fld := ⟨AXS_STATUS n, 10, 10⟩
abbrev AXS_STATUS_LIMN_ACT (n : Nat) : Fld := ⟨AXS_STATUS n, 9, 9⟩
abbrev AXS_STATUS_REJ_CAUSE (n : Nat) : Fld := ⟨AXS_STATUS n, 8, 6⟩
abbrev AXS_STATUS_REJ (n : Nat) : Fld := ⟨AXS_STATUS n, 5, 5⟩
abbrev AXS_STATUS_DONE (n : Nat) : Fld := ⟨AXS_STATUS n, 4, 4⟩
abbrev AXS_STATUS_HOMED (n : Nat) : Fld := ⟨AXS_STATUS n, 3, 3⟩
abbrev AXS_STATUS_STATE (n : Nat) : Fld := ⟨AXS_STATUS n, 2, 0⟩
/-- R281: Target, s48 microsteps -/
abbrev AXS_TARGET (n : Nat) : Nat := 0x0e0003 + 0x100 * n
/-- R281: Target in force, s48 -/
abbrev AXS_ACT_TARGET (n : Nat) : Nat := 0x0e0005 + 0x100 * n
/-- R281: Commanded position, s48 -/
abbrev AXS_POS (n : Nat) : Nat := 0x0e0007 + 0x100 * n
/-- R281: Velocity, s24 microsteps/s, saturating -/
abbrev AXS_VEL (n : Nat) : Nat := 0x0e0009 + 0x100 * n
/-- R281: u24 microsteps/s -/
abbrev AXS_VMAX (n : Nat) : Nat := 0x0e000a + 0x100 * n
/-- R281: u24, 64 microsteps/s² -/
abbrev AXS_AMAX (n : Nat) : Nat := 0x0e000b + 0x100 * n
/-- R281: u24, 64 microsteps/s² -/
abbrev AXS_DMAX (n : Nat) : Nat := 0x0e000c + 0x100 * n
/-- R281: u24, 65,536 microsteps/s³; 0 unlimited -/
abbrev AXS_JMAX (n : Nat) : Nat := 0x0e000d + 0x100 * n
/-- R281: u24, 64 microsteps/s²; 0 is treated as 1 -/
abbrev AXS_LIM_DEC (n : Nat) : Nat := 0x0e000e + 0x100 * n
/-- R281: u24 microsteps/s -/
abbrev AXS_HOME_VEL (n : Nat) : Nat := 0x0e000f + 0x100 * n
/-- R281: s48 -/
abbrev AXS_SOFT_MIN (n : Nat) : Nat := 0x0e0010 + 0x100 * n
/-- R281: s48 -/
abbrev AXS_SOFT_MAX (n : Nat) : Nat := 0x0e0012 + 0x100 * n
/-- R281: s48 -/
abbrev AXS_HOME_POS (n : Nat) : Nat := 0x0e0014 + 0x100 * n
/-- R281: u24 full steps; 0 unlimited -/
abbrev AXS_HOME_MAX (n : Nat) : Nat := 0x0e0016 + 0x100 * n
/-- R281: p_cap, s48 -/
abbrev AXS_HOME_CAP (n : Nat) : Nat := 0x0e0017 + 0x100 * n
/-- R281: Current -/
abbrev AXS_CURRENT (n : Nat) : Nat := 0x0e0019 + 0x100 * n
abbrev AXS_CURRENT_OFS_MIN (n : Nat) : Fld := ⟨AXS_CURRENT n, 23, 18⟩
abbrev AXS_CURRENT_HYST (n : Nat) : Fld := ⟨AXS_CURRENT n, 17, 10⟩
abbrev AXS_CURRENT_RUN (n : Nat) : Fld := ⟨AXS_CURRENT n, 9, 0⟩
/-- R281: Chopper -/
abbrev AXS_CHOP_CFG (n : Nat) : Nat := 0x0e001a + 0x100 * n
abbrev AXS_CHOP_CFG_OFS_EN (n : Nat) : Fld := ⟨AXS_CHOP_CFG n, 23, 23⟩
abbrev AXS_CHOP_CFG_OFS_K (n : Nat) : Fld := ⟨AXS_CHOP_CFG n, 22, 20⟩
abbrev AXS_CHOP_CFG_DECAY (n : Nat) : Fld := ⟨AXS_CHOP_CFG n, 19, 18⟩
abbrev AXS_CHOP_CFG_T_BLANK (n : Nat) : Fld := ⟨AXS_CHOP_CFG n, 17, 12⟩
abbrev AXS_CHOP_CFG_T_OFF (n : Nat) : Fld := ⟨AXS_CHOP_CFG n, 11, 6⟩
abbrev AXS_CHOP_CFG_FAST_T (n : Nat) : Fld := ⟨AXS_CHOP_CFG n, 5, 0⟩
/-- R281: [13:7] ofs of coil 2, [6:0] ofs of coil 1, s7 each -/
abbrev AXS_CHOP_OFS (n : Nat) : Nat := 0x0e001b + 0x100 * n
abbrev AXS_CHOP_OFS_C2 (n : Nat) : Fld := ⟨AXS_CHOP_OFS n, 13, 7⟩
abbrev AXS_CHOP_OFS_C1 (n : Nat) : Fld := ⟨AXS_CHOP_OFS n, 6, 0⟩
/-- R281: [19:10] coil 2, [9:0] coil 1 -/
abbrev AXS_ADC (n : Nat) : Nat := 0x0e001c + 0x100 * n
abbrev AXS_ADC_C2 (n : Nat) : Fld := ⟨AXS_ADC n, 19, 10⟩
abbrev AXS_ADC_C1 (n : Nat) : Fld := ⟨AXS_ADC n, 9, 0⟩
/-- R281: s24 -/
abbrev AXS_ENC_NUM (n : Nat) : Nat := 0x0e001d + 0x100 * n
/-- R281: u24 -/
abbrev AXS_ENC_DEN (n : Nat) : Nat := 0x0e001e + 0x100 * n
/-- R281: Stall window -/
abbrev AXS_STALL_CFG (n : Nat) : Nat := 0x0e001f + 0x100 * n
abbrev AXS_STALL_CFG_CONSEC (n : Nat) : Fld := ⟨AXS_STALL_CFG n, 23, 20⟩
abbrev AXS_STALL_CFG_CHECK_INT (n : Nat) : Fld := ⟨AXS_STALL_CFG n, 19, 12⟩
abbrev AXS_STALL_CFG_WINDOW (n : Nat) : Fld := ⟨AXS_STALL_CFG n, 11, 0⟩
/-- R281: dev, s24 -/
abbrev AXS_STALL_DEV (n : Nat) : Nat := 0x0e0020 + 0x100 * n
/-- R281: Switches -/
abbrev AXS_SW_CFG (n : Nat) : Nat := 0x0e0021 + 0x100 * n
abbrev AXS_SW_CFG_LIM_EN (n : Nat) : Fld := ⟨AXS_SW_CFG n, 11, 11⟩
abbrev AXS_SW_CFG_POL_LIMN (n : Nat) : Fld := ⟨AXS_SW_CFG n, 10, 10⟩
abbrev AXS_SW_CFG_POL_LIMP (n : Nat) : Fld := ⟨AXS_SW_CFG n, 9, 9⟩
abbrev AXS_SW_CFG_POL_HOME (n : Nat) : Fld := ⟨AXS_SW_CFG n, 8, 8⟩
abbrev AXS_SW_CFG_SW_N (n : Nat) : Fld := ⟨AXS_SW_CFG n, 7, 0⟩
/-- R281: Homing -/
abbrev AXS_HOME_CFG (n : Nat) : Nat := 0x0e0022 + 0x100 * n
abbrev AXS_HOME_CFG_SRC (n : Nat) : Fld := ⟨AXS_HOME_CFG n, 23, 22⟩
abbrev AXS_HOME_CFG_DIR (n : Nat) : Fld := ⟨AXS_HOME_CFG n, 21, 21⟩
abbrev AXS_HOME_CFG_CHATTER_LIM (n : Nat) : Fld := ⟨AXS_HOME_CFG n, 20, 16⟩
abbrev AXS_HOME_CFG_LOCKOUT (n : Nat) : Fld := ⟨AXS_HOME_CFG n, 15, 0⟩
/-- R281: Gearing -/
abbrev AXS_GEAR (n : Nat) : Nat := 0x0e0023 + 0x100 * n
abbrev AXS_GEAR_SRC (n : Nat) : Fld := ⟨AXS_GEAR n, 23, 20⟩
abbrev AXS_GEAR_SLOT (n : Nat) : Fld := ⟨AXS_GEAR n, 18, 16⟩
/-- R281: R, u24 counts -/
abbrev AXS_GEAR_RAMP (n : Nat) : Nat := 0x0e0024 + 0x100 * n
/-- R281: u24 microsteps; 0 off -/
abbrev AXS_GEAR_LAG (n : Nat) : Nat := 0x0e0025 + 0x100 * n
/-- R281: g − p, s24, saturating -/
abbrev AXS_LAG (n : Nat) : Nat := 0x0e0026 + 0x100 * n
/-- R281: s24 -/
abbrev AXS_RATIO_NUM (n : Nat) (i : Nat) : Nat := 0x0e0028 + 0x100 * n + 2 * i
/-- R281: u24; 0 is treated as 1 -/
abbrev AXS_RATIO_DEN (n : Nat) (i : Nat) : Nat := 0x0e0029 + 0x100 * n + 2 * i

/-- The rows of block AXS (R507). -/
def rowsAXS : List RegRow := [
  ⟨0x0e0000, 0x100, 6, 1, 1, 1, .off, 0, 0xffffff, 0, 0, 0⟩,
  ⟨0x0e0001, 0x100, 6, 1, 1, 1, .none, 0, 0, 0, 0, 0x1ff⟩,
  ⟨0x0e0002, 0x100, 6, 1, 1, 1, .none, 0, 0, 0x20030, 0, 0⟩,
  ⟨0x0e0003, 0x100, 6, 2, 1, 2, .none, 0xffffffffffff, 0, 0, 0, 0⟩,
  ⟨0x0e0005, 0x100, 6, 2, 1, 2, .none, 0, 0, 0, 0, 0⟩,
  ⟨0x0e0007, 0x100, 6, 2, 1, 2, .none, 0, 0, 0, 0, 0⟩,
  ⟨0x0e0009, 0x100, 6, 1, 1, 1, .none, 0, 0, 0, 0, 0⟩,
  ⟨0x0e000a, 0x100, 6, 1, 1, 1, .none, 0xffffff, 0, 0, 0, 0⟩,
  ⟨0x0e000b, 0x100, 6, 1, 1, 1, .none, 0xffffff, 0, 0, 0, 0⟩,
  ⟨0x0e000c, 0x100, 6, 1, 1, 1, .none, 0xffffff, 0, 0, 0, 0⟩,
  ⟨0x0e000d, 0x100, 6, 1, 1, 1, .none, 0xffffff, 0, 0, 0, 0⟩,
  ⟨0x0e000e, 0x100, 6, 1, 1, 1, .none, 0xffffff, 0, 0, 0, 0⟩,
  ⟨0x0e000f, 0x100, 6, 1, 1, 1, .none, 0xffffff, 0, 0, 0, 0⟩,
  ⟨0x0e0010, 0x100, 6, 2, 1, 2, .none, 0xffffffffffff, 0, 0, 0, 0⟩,
  ⟨0x0e0012, 0x100, 6, 2, 1, 2, .none, 0xffffffffffff, 0, 0, 0, 0⟩,
  ⟨0x0e0014, 0x100, 6, 2, 1, 2, .none, 0xffffffffffff, 0, 0, 0, 0⟩,
  ⟨0x0e0016, 0x100, 6, 1, 1, 1, .none, 0xffffff, 0, 0, 0, 0⟩,
  ⟨0x0e0017, 0x100, 6, 2, 1, 2, .none, 0, 0, 0, 0, 0⟩,
  ⟨0x0e0019, 0x100, 6, 1, 1, 1, .cycle, 0, 0xffffff, 0, 0, 0⟩,
  ⟨0x0e001a, 0x100, 6, 1, 1, 1, .cycle, 0, 0xffffff, 0, 0, 0⟩,
  ⟨0x0e001b, 0x100, 6, 1, 1, 1, .none, 0, 0, 0, 0, 0⟩,
  ⟨0x0e001c, 0x100, 6, 1, 1, 1, .none, 0, 0, 0, 0, 0⟩,
  ⟨0x0e001d, 0x100, 6, 1, 1, 1, .off, 0, 0xffffff, 0, 0, 0⟩,
  ⟨0x0e001e, 0x100, 6, 1, 1, 1, .off, 0, 0xffffff, 0, 0, 0⟩,
  ⟨0x0e001f, 0x100, 6, 1, 1, 1, .none, 0xffffff, 0, 0, 0, 0⟩,
  ⟨0x0e0020, 0x100, 6, 1, 1, 1, .none, 0, 0, 0, 0, 0⟩,
  ⟨0x0e0021, 0x100, 6, 1, 1, 1, .off, 0, 0xfff, 0, 0, 0⟩,
  ⟨0x0e0022, 0x100, 6, 1, 1, 1, .none, 0xffffff, 0, 0, 0, 0⟩,
  ⟨0x0e0023, 0x100, 6, 1, 1, 1, .none, 0xf70000, 0, 0, 0, 0⟩,
  ⟨0x0e0024, 0x100, 6, 1, 1, 1, .none, 0xffffff, 0, 0, 0, 0⟩,
  ⟨0x0e0025, 0x100, 6, 1, 1, 1, .none, 0xffffff, 0, 0, 0, 0⟩,
  ⟨0x0e0026, 0x100, 6, 1, 1, 1, .none, 0, 0, 0, 0, 0⟩,
  ⟨0x0e0028, 0x100, 6, 2, 8, 1, .none, 0xffffff, 0, 0, 0, 0⟩,
  ⟨0x0e0029, 0x100, 6, 2, 8, 1, .none, 0xffffff, 0, 0, 0, 0⟩]

/-- R308: Pairing configuration -/
abbrev TWN_CFG : Nat := 0x0f0000
abbrev TWN_CFG_EN : Fld := ⟨TWN_CFG, 23, 23⟩
abbrev TWN_CFG_PEV_HIZ : Fld := ⟨TWN_CFG, 21, 21⟩
abbrev TWN_CFG_PORT_DIAG : Fld := ⟨TWN_CFG, 20, 20⟩
abbrev TWN_CFG_LEAD : Fld := ⟨TWN_CFG, 19, 16⟩
abbrev TWN_CFG_HB_TO : Fld := ⟨TWN_CFG, 15, 8⟩
abbrev TWN_CFG_PORT_LIM : Fld := ⟨TWN_CFG, 4, 0⟩
/-- R308: Commands -/
abbrev TWN_CTRL : Nat := 0x0f0001
abbrev TWN_CTRL_FAULT : Fld := ⟨TWN_CTRL, 3, 3⟩
abbrev TWN_CTRL_FORCE_CLAIM : Fld := ⟨TWN_CTRL, 2, 2⟩
abbrev TWN_CTRL_CLEAR : Fld := ⟨TWN_CTRL, 1, 1⟩
abbrev TWN_CTRL_RELEASE : Fld := ⟨TWN_CTRL, 0, 0⟩
/-- R308: Status -/
abbrev TWN_STATUS : Nat := 0x0f0002
abbrev TWN_STATUS_REL_REJ : Fld := ⟨TWN_STATUS, 18, 18⟩
abbrev TWN_STATUS_MIRROR_DIFF : Fld := ⟨TWN_STATUS, 17, 17⟩
abbrev TWN_STATUS_CONFLICT : Fld := ⟨TWN_STATUS, 16, 16⟩
abbrev TWN_STATUS_SHADOW_ON : Fld := ⟨TWN_STATUS, 15, 15⟩
abbrev TWN_STATUS_PARTNER_UP : Fld := ⟨TWN_STATUS, 14, 14⟩
abbrev TWN_STATUS_CLAIM_IN : Fld := ⟨TWN_STATUS, 13, 13⟩
abbrev TWN_STATUS_DRIVING : Fld := ⟨TWN_STATUS, 12, 12⟩
abbrev TWN_STATUS_RESYNC_STEP : Fld := ⟨TWN_STATUS, 6, 4⟩
abbrev TWN_STATUS_STATE : Fld := ⟨TWN_STATUS, 2, 0⟩
/-- R308: Own health word -/
abbrev TWN_HEALTH : Nat := 0x0f0003
abbrev TWN_HEALTH_SYNCED : Fld := ⟨TWN_HEALTH, 23, 23⟩
abbrev TWN_HEALTH_CLAIM_HELD : Fld := ⟨TWN_HEALTH, 22, 22⟩
abbrev TWN_HEALTH_PARTNER_SILENT : Fld := ⟨TWN_HEALTH, 21, 21⟩
abbrev TWN_HEALTH_CLAIM_LINE_FAULT : Fld := ⟨TWN_HEALTH, 20, 20⟩
abbrev TWN_HEALTH_SUM_MIS : Fld := ⟨TWN_HEALTH, 19, 19⟩
abbrev TWN_HEALTH_LBIST_ACTIVE : Fld := ⟨TWN_HEALTH, 18, 18⟩
abbrev TWN_HEALTH_SENIOR : Fld := ⟨TWN_HEALTH, 17, 17⟩
abbrev TWN_HEALTH_SUPERVISOR : Fld := ⟨TWN_HEALTH, 6, 6⟩
abbrev TWN_HEALTH_FORCED : Fld := ⟨TWN_HEALTH, 5, 5⟩
abbrev TWN_HEALTH_DIE_THERMAL : Fld := ⟨TWN_HEALTH, 4, 4⟩
abbrev TWN_HEALTH_PORTS : Fld := ⟨TWN_HEALTH, 3, 3⟩
abbrev TWN_HEALTH_MEMORY : Fld := ⟨TWN_HEALTH, 2, 2⟩
abbrev TWN_HEALTH_STAKE : Fld := ⟨TWN_HEALTH, 1, 1⟩
abbrev TWN_HEALTH_CLOCK : Fld := ⟨TWN_HEALTH, 0, 0⟩
/-- R308: Partner's health word, same layout -/
abbrev TWN_PARTNER_HEALTH : Nat := 0x0f0004
/-- R308: Epoch held or last taken, u24; 0x00_00_01 after reset (R289) -/
abbrev TWN_EPOCH : Nat := 0x0f0005
/-- R308: u24 -/
abbrev TWN_PARTNER_EPOCH : Nat := 0x0f0006
/-- R308: Shadow limit -/
abbrev TWN_SHADOW_CFG : Nat := 0x0f0007
abbrev TWN_SHADOW_CFG_LIMIT : Fld := ⟨TWN_SHADOW_CFG, 23, 16⟩
abbrev TWN_SHADOW_CFG_WIN_LOG2 : Fld := ⟨TWN_SHADOW_CFG, 12, 8⟩
/-- R308: Mismatching lines, u24, saturating -/
abbrev TWN_SHADOW_MIS : Nat := 0x0f0008
/-- R308: R298 -/
abbrev TWN_CFG_SUM : Nat := 0x0f0009
/-- R308: u24 -/
abbrev TWN_PARTNER_SUM : Nat := 0x0f000a
/-- R308: Claims taken under TAKEOVER, u24, saturating -/
abbrev TWN_TAKEOVERS : Nat := 0x0f000b
/-- R308: Silent intervals, u24, saturating -/
abbrev TWN_HB_MISSED : Nat := 0x0f000c
/-- R308: [6:0] waiting entries, 0–64 -/
abbrev TWN_MIRROR_PEND : Nat := 0x0f000d
/-- R308: Partner's READY mask; ports 24–31 in word 1 bits 7:0 -/
abbrev TWN_PARTNER_READY : Nat := 0x0f000e
/-- R308: [23:0] word address -/
abbrev TWN_PW_ADDR : Nat := 0x0f0010
/-- R308: Value. A write starts the paired write, and is ignored while BUSY -/
abbrev TWN_PW_DATA : Nat := 0x0f0011
/-- R308: [23] BUSY RO, [22] LOCAL W1C -/
abbrev TWN_PW_STATUS : Nat := 0x0f0012
abbrev TWN_PW_STATUS_BUSY : Fld := ⟨TWN_PW_STATUS, 23, 23⟩
abbrev TWN_PW_STATUS_LOCAL : Fld := ⟨TWN_PW_STATUS, 22, 22⟩

/-- The rows of block TWN (R507). -/
def rowsTWN : List RegRow := [
  ⟨0x0f0000, 0x10000, 1, 1, 1, 1, .idle, 0, 0xbfff1f, 0, 0, 0⟩,
  ⟨0x0f0001, 0x10000, 1, 1, 1, 1, .none, 0, 0, 0, 0, 0xf⟩,
  ⟨0x0f0002, 0x10000, 1, 1, 1, 1, .none, 0, 0, 0x70000, 0, 0⟩,
  ⟨0x0f0003, 0x10000, 1, 1, 1, 1, .none, 0, 0, 0, 0, 0⟩,
  ⟨0x0f0004, 0x10000, 1, 1, 1, 1, .none, 0, 0, 0, 0, 0⟩,
  ⟨0x0f0005, 0x10000, 1, 1, 1, 1, .none, 0, 0, 0, 0, 0⟩,
  ⟨0x0f0006, 0x10000, 1, 1, 1, 1, .none, 0, 0, 0, 0, 0⟩,
  ⟨0x0f0007, 0x10000, 1, 1, 1, 1, .none, 0xff1f00, 0, 0, 0, 0⟩,
  ⟨0x0f0008, 0x10000, 1, 1, 1, 1, .none, 0, 0, 0, 0, 0⟩,
  ⟨0x0f0009, 0x10000, 1, 1, 1, 1, .none, 0, 0, 0, 0, 0⟩,
  ⟨0x0f000a, 0x10000, 1, 1, 1, 1, .none, 0, 0, 0, 0, 0⟩,
  ⟨0x0f000b, 0x10000, 1, 1, 1, 1, .none, 0, 0, 0, 0, 0⟩,
  ⟨0x0f000c, 0x10000, 1, 1, 1, 1, .none, 0, 0, 0, 0, 0⟩,
  ⟨0x0f000d, 0x10000, 1, 1, 1, 1, .none, 0, 0, 0, 0, 0⟩,
  ⟨0x0f000e, 0x10000, 1, 2, 1, 2, .none, 0, 0, 0, 0, 0⟩,
  ⟨0x0f0010, 0x10000, 1, 1, 1, 1, .none, 0xffffff, 0, 0, 0, 0⟩,
  ⟨0x0f0011, 0x10000, 1, 1, 1, 1, .none, 0, 0, 0, 0, 0xffffff⟩,
  ⟨0x0f0012, 0x10000, 1, 1, 1, 1, .none, 0, 0, 0x400000, 0, 0⟩]

/-- R336: Lane configuration -/
abbrev LAN_CFG (n : Nat) : Nat := 0x100000 + 0x40 * n
abbrev LAN_CFG_EN (n : Nat) : Fld := ⟨LAN_CFG n, 23, 23⟩
abbrev LAN_CFG_MAX_RATE (n : Nat) : Fld := ⟨LAN_CFG n, 22, 20⟩
abbrev LAN_CFG_MIN_RATE (n : Nat) : Fld := ⟨LAN_CFG n, 19, 17⟩
abbrev LAN_CFG_TX_POL (n : Nat) : Fld := ⟨LAN_CFG n, 16, 16⟩
abbrev LAN_CFG_RX_POL (n : Nat) : Fld := ⟨LAN_CFG n, 15, 15⟩
/-- R336: Commands -/
abbrev LAN_CTRL (n : Nat) : Nat := 0x100001 + 0x40 * n
abbrev LAN_CTRL_CLEAR_COUNTS (n : Nat) : Fld := ⟨LAN_CTRL n, 3, 3⟩
abbrev LAN_CTRL_TX_WAKE (n : Nat) : Fld := ⟨LAN_CTRL n, 2, 2⟩
abbrev LAN_CTRL_TX_SLEEP (n : Nat) : Fld := ⟨LAN_CTRL n, 1, 1⟩
abbrev LAN_CTRL_RETRAIN (n : Nat) : Fld := ⟨LAN_CTRL n, 0, 0⟩
/-- R336: Status -/
abbrev LAN_STATUS (n : Nat) : Nat := 0x100002 + 0x40 * n
abbrev LAN_STATUS_RATE (n : Nat) : Fld := ⟨LAN_STATUS n, 23, 21⟩
abbrev LAN_STATUS_HEAVY (n : Nat) : Fld := ⟨LAN_STATUS n, 20, 20⟩
abbrev LAN_STATUS_TX_SLEEP (n : Nat) : Fld := ⟨LAN_STATUS n, 19, 19⟩
abbrev LAN_STATUS_RX_SLEEP (n : Nat) : Fld := ⟨LAN_STATUS n, 18, 18⟩
abbrev LAN_STATUS_FALLBACK (n : Nat) : Fld := ⟨LAN_STATUS n, 17, 17⟩
abbrev LAN_STATUS_MARGIN_LOW (n : Nat) : Fld := ⟨LAN_STATUS n, 16, 16⟩
abbrev LAN_STATUS_WAKE_FAIL (n : Nat) : Fld := ⟨LAN_STATUS n, 15, 15⟩
abbrev LAN_STATUS_SLEEP_REJ (n : Nat) : Fld := ⟨LAN_STATUS n, 14, 14⟩
abbrev LAN_STATUS_DOWN (n : Nat) : Fld := ⟨LAN_STATUS n, 13, 13⟩
abbrev LAN_STATUS_LOCK (n : Nat) : Fld := ⟨LAN_STATUS n, 12, 12⟩
abbrev LAN_STATUS_STATE (n : Nat) : Fld := ⟨LAN_STATUS n, 2, 0⟩
/-- R336: Equaliser -/
abbrev LAN_EQ (n : Nat) : Nat := 0x100003 + 0x40 * n
abbrev LAN_EQ_FIXED (n : Nat) : Fld := ⟨LAN_EQ n, 23, 23⟩
abbrev LAN_EQ_PEAK (n : Nat) : Fld := ⟨LAN_EQ n, 12, 8⟩
abbrev LAN_EQ_FIXED_CODE (n : Nat) : Fld := ⟨LAN_EQ n, 4, 0⟩
/-- R336: [15:8] lowest since CLEAR_COUNTS, [7:0] current -/
abbrev LAN_FOM (n : Nat) : Nat := 0x100004 + 0x40 * n
abbrev LAN_FOM_LOWEST (n : Nat) : Fld := ⟨LAN_FOM n, 15, 8⟩
abbrev LAN_FOM_CURRENT (n : Nat) : Fld := ⟨LAN_FOM n, 7, 0⟩
/-- R336: Invalid symbols, invalid headers and stuffing errors, u24, saturating -/
abbrev LAN_CODE_ERR (n : Nat) : Nat := 0x100005 + 0x40 * n
/-- R336: Entries to RECOVER, u24, saturating -/
abbrev LAN_RECOVERS (n : Nat) : Nat := 0x100006 + 0x40 * n
/-- R336: [15:8] rates passed, [7:0] rates tried, in the last training -/
abbrev LAN_TRAIN_LOG (n : Nat) : Nat := 0x100007 + 0x40 * n
abbrev LAN_TRAIN_LOG_PASSED (n : Nat) : Fld := ⟨LAN_TRAIN_LOG n, 15, 8⟩
abbrev LAN_TRAIN_LOG_TRIED (n : Nat) : Fld := ⟨LAN_TRAIN_LOG n, 7, 0⟩
/-- R336: Word 0: [23:16] RATE_MASK, [15:8] ROLE, [1:0] LANE. Word 1: [11:0] CHIP_ID -/
abbrev LAN_PARTNER (n : Nat) : Nat := 0x100008 + 0x40 * n
abbrev LAN_PARTNER_RATE_MASK (n : Nat) : Fld := ⟨LAN_PARTNER n, 23, 16⟩
abbrev LAN_PARTNER_ROLE (n : Nat) : Fld := ⟨LAN_PARTNER n, 15, 8⟩
abbrev LAN_PARTNER_LANE (n : Nat) : Fld := ⟨LAN_PARTNER n, 1, 0⟩
/-- R336: [15:8] WARN, [7:0] FOM_MIN, units of 2 mV -/
abbrev LAN_FOM_CFG : Nat := 0x101000
abbrev LAN_FOM_CFG_WARN : Fld := ⟨LAN_FOM_CFG, 15, 8⟩
abbrev LAN_FOM_CFG_FOM_MIN : Fld := ⟨LAN_FOM_CFG, 7, 0⟩
/-- R336: Eye scan -/
abbrev LAN_EYE_CTRL : Nat := 0x101001
abbrev LAN_EYE_CTRL_GO : Fld := ⟨LAN_EYE_CTRL, 23, 23⟩
abbrev LAN_EYE_CTRL_CANCEL : Fld := ⟨LAN_EYE_CTRL, 22, 22⟩
abbrev LAN_EYE_CTRL_DWELL_LOG2 : Fld := ⟨LAN_EYE_CTRL, 15, 12⟩
abbrev LAN_EYE_CTRL_LANE : Fld := ⟨LAN_EYE_CTRL, 5, 0⟩
/-- R336: Eye scan status -/
abbrev LAN_EYE_STATUS : Nat := 0x101002
abbrev LAN_EYE_STATUS_BUSY : Fld := ⟨LAN_EYE_STATUS, 23, 23⟩
abbrev LAN_EYE_STATUS_DONE : Fld := ⟨LAN_EYE_STATUS, 22, 22⟩
abbrev LAN_EYE_STATUS_REJ : Fld := ⟨LAN_EYE_STATUS, 21, 21⟩
abbrev LAN_EYE_STATUS_ABORTED : Fld := ⟨LAN_EYE_STATUS, 20, 20⟩
abbrev LAN_EYE_STATUS_POINTS : Fld := ⟨LAN_EYE_STATUS, 13, 0⟩

/-- The rows of block LAN (R507). -/
def rowsLAN : List RegRow := [
  ⟨0x100000, 0x40, 44, 1, 1, 1, .train, 0, 0xff8000, 0, 0, 0⟩,
  ⟨0x100001, 0x40, 44, 1, 1, 1, .none, 0, 0, 0, 0, 0xf⟩,
  ⟨0x100002, 0x40, 44, 1, 1, 1, .none, 0, 0, 0x3e000, 0, 0⟩,
  ⟨0x100003, 0x40, 44, 1, 1, 1, .skip, 0, 0x80001f, 0, 0, 0⟩,
  ⟨0x100004, 0x40, 44, 1, 1, 1, .none, 0, 0, 0, 0, 0⟩,
  ⟨0x100005, 0x40, 44, 1, 1, 1, .none, 0, 0, 0, 0, 0⟩,
  ⟨0x100006, 0x40, 44, 1, 1, 1, .none, 0, 0, 0, 0, 0⟩,
  ⟨0x100007, 0x40, 44, 1, 1, 1, .none, 0, 0, 0, 0, 0⟩,
  ⟨0x100008, 0x40, 44, 2, 1, 2, .none, 0, 0, 0, 0, 0⟩,
  ⟨0x101000, 0x10000, 1, 1, 1, 1, .none, 0xffff, 0, 0, 0, 0⟩,
  ⟨0x101001, 0x10000, 1, 1, 1, 1, .none, 0xf03f, 0, 0, 0, 0xc00000⟩,
  ⟨0x101002, 0x10000, 1, 1, 1, 1, .none, 0, 0, 0x700000, 0, 0⟩]

/-- R373: [11:0] chip ID (R339) -/
abbrev WAL_ID : Nat := 0x110000
/-- R373: Ports -/
abbrev WAL_CFG : Nat := 0x110001
abbrev WAL_CFG_W1_RING : Fld := ⟨WAL_CFG, 1, 1⟩
abbrev WAL_CFG_SPLIT : Fld := ⟨WAL_CFG, 0, 0⟩
/-- R373: Status -/
abbrev WAL_STATUS : Nat := 0x110002
abbrev WAL_STATUS_RING_CLOSED : Fld := ⟨WAL_STATUS, 2, 2⟩
abbrev WAL_STATUS_R14_FULL : Fld := ⟨WAL_STATUS, 1, 1⟩
abbrev WAL_STATUS_ID_CONFLICT : Fld := ⟨WAL_STATUS, 0, 0⟩
/-- R373: [5:0] controllers on the ring port, 1–32 -/
abbrev WAL_RING_SIZE : Nat := 0x110003
/-- R373: Beacons -/
abbrev WAL_BCN_CFG : Nat := 0x110004
abbrev WAL_BCN_CFG_TX_EN : Fld := ⟨WAL_BCN_CFG, 23, 23⟩
abbrev WAL_BCN_CFG_TO : Fld := ⟨WAL_BCN_CFG, 15, 8⟩
abbrev WAL_BCN_CFG_INT : Fld := ⟨WAL_BCN_CFG, 7, 0⟩
/-- R373: [23:12] ALT, [11:0] SRC -/
abbrev WAL_BCN_SRC : Nat := 0x110005
abbrev WAL_BCN_SRC_ALT : Fld := ⟨WAL_BCN_SRC, 23, 12⟩
abbrev WAL_BCN_SRC_SRC : Fld := ⟨WAL_BCN_SRC, 11, 0⟩
/-- R373: [15:0] SLEW_MAX, 1/256 count -/
abbrev WAL_BCN_LIM : Nat := 0x110006
abbrev WAL_BCN_LIM_SLEW_MAX : Fld := ⟨WAL_BCN_LIM, 15, 0⟩
/-- R373: a_max, u24, 64 counts/s² -/
abbrev WAL_BCN_AMAX : Nat := 0x110007
/-- R373: Beacon status -/
abbrev WAL_BCN_STATUS : Nat := 0x110008
abbrev WAL_BCN_STATUS_UNLOCKED : Fld := ⟨WAL_BCN_STATUS, 12, 12⟩
abbrev WAL_BCN_STATUS_LOST : Fld := ⟨WAL_BCN_STATUS, 11, 11⟩
abbrev WAL_BCN_STATUS_STEP : Fld := ⟨WAL_BCN_STATUS, 10, 10⟩
abbrev WAL_BCN_STATUS_USING : Fld := ⟨WAL_BCN_STATUS, 9, 8⟩
abbrev WAL_BCN_STATUS_ERR : Fld := ⟨WAL_BCN_STATUS, 7, 0⟩
/-- R373: [3:0] TS_LOG2, 4–10; values outside are treated as the nearer limit -/
abbrev WAL_TS_CFG : Nat := 0x110009
abbrev WAL_TS_CFG_TS_LOG2 : Fld := ⟨WAL_TS_CFG, 3, 0⟩
/-- R373: Link status -/
abbrev WAL_LINK_STATUS (n : Nat) : Nat := 0x110100 + 0x20 * n
abbrev WAL_LINK_STATUS_DOWN (n : Nat) : Fld := ⟨WAL_LINK_STATUS n, 11, 11⟩
abbrev WAL_LINK_STATUS_CREDITS (n : Nat) : Fld := ⟨WAL_LINK_STATUS n, 10, 4⟩
abbrev WAL_LINK_STATUS_HEAVY (n : Nat) : Fld := ⟨WAL_LINK_STATUS n, 3, 3⟩
abbrev WAL_LINK_STATUS_WIDTH (n : Nat) : Fld := ⟨WAL_LINK_STATUS n, 2, 1⟩
abbrev WAL_LINK_STATUS_UP (n : Nat) : Fld := ⟨WAL_LINK_STATUS n, 0, 0⟩
/-- R373: [11:0] chip ID last heard on the link -/
abbrev WAL_NEIGHBOUR (n : Nat) : Nat := 0x110101 + 0x20 * n
/-- R373: Messages lost, u24, saturating -/
abbrev WAL_RX_DROPS (n : Nat) : Nat := 0x110102 + 0x20 * n
/-- R373: u24, saturating -/
abbrev WAL_CREDIT_STALLS (n : Nat) : Nat := 0x110103 + 0x20 * n
/-- R373: s24 ps -/
abbrev WAL_ASYM (n : Nat) : Nat := 0x110104 + 0x20 * n
/-- R373: d, u48 ps -/
abbrev WAL_LINK_DELAY (n : Nat) : Nat := 0x110105 + 0x20 * n

/-- The rows of block WAL (R507). -/
def rowsWAL : List RegRow := [
  ⟨0x110000, 0x10000, 1, 1, 1, 1, .idle, 0, 0xfff, 0, 0, 0⟩,
  ⟨0x110001, 0x10000, 1, 1, 1, 1, .idle, 0, 3, 0, 0, 0⟩,
  ⟨0x110002, 0x10000, 1, 1, 1, 1, .none, 0, 0, 0, 0, 0⟩,
  ⟨0x110003, 0x10000, 1, 1, 1, 1, .none, 0, 0, 0, 0, 0⟩,
  ⟨0x110004, 0x10000, 1, 1, 1, 1, .idle, 0, 0x80ffff, 0, 0, 0⟩,
  ⟨0x110005, 0x10000, 1, 1, 1, 1, .idle, 0, 0xffffff, 0, 0, 0⟩,
  ⟨0x110006, 0x10000, 1, 1, 1, 1, .none, 0xffff, 0, 0, 0, 0⟩,
  ⟨0x110007, 0x10000, 1, 1, 1, 1, .none, 0xffffff, 0, 0, 0, 0⟩,
  ⟨0x110008, 0x10000, 1, 1, 1, 1, .none, 0, 0, 0xc00, 0, 0⟩,
  ⟨0x110009, 0x10000, 1, 1, 1, 1, .idle, 0, 0xf, 0, 0, 0⟩,
  ⟨0x110100, 0x20, 3, 1, 1, 1, .none, 0, 0, 0x800, 0, 0⟩,
  ⟨0x110101, 0x20, 3, 1, 1, 1, .none, 0, 0, 0, 0, 0⟩,
  ⟨0x110102, 0x20, 3, 1, 1, 1, .none, 0, 0, 0, 0, 0⟩,
  ⟨0x110103, 0x20, 3, 1, 1, 1, .none, 0, 0, 0, 0, 0⟩,
  ⟨0x110104, 0x20, 3, 1, 1, 1, .none, 0xffffff, 0, 0, 0, 0⟩,
  ⟨0x110105, 0x20, 3, 2, 1, 2, .none, 0, 0, 0, 0, 0⟩]

/-- R374: Sources and servo -/
abbrev TIM_CFG : Nat := 0x120000
abbrev TIM_CFG_SOURCE : Fld := ⟨TIM_CFG, 23, 21⟩
abbrev TIM_CFG_ALT : Fld := ⟨TIM_CFG, 20, 18⟩
abbrev TIM_CFG_SERVO : Fld := ⟨TIM_CFG, 17, 17⟩
abbrev TIM_CFG_REF10 : Fld := ⟨TIM_CFG, 16, 16⟩
abbrev TIM_CFG_PPS_DLY : Fld := ⟨TIM_CFG, 15, 0⟩
/-- R374: Status -/
abbrev TIM_STATUS : Nat := 0x120001
abbrev TIM_STATUS_STEPPED : Fld := ⟨TIM_STATUS, 5, 5⟩
abbrev TIM_STATUS_ALT_USED : Fld := ⟨TIM_STATUS, 4, 4⟩
abbrev TIM_STATUS_PARENT_LOST : Fld := ⟨TIM_STATUS, 3, 3⟩
abbrev TIM_STATUS_LOCKED : Fld := ⟨TIM_STATUS, 0, 0⟩
/-- R374: [23:16] KP, [15:8] KI, [7:0] STEP_NS in units of 64 ns -/
abbrev TIM_SERVO_CFG : Nat := 0x120002
abbrev TIM_SERVO_CFG_KP : Fld := ⟨TIM_SERVO_CFG, 23, 16⟩
abbrev TIM_SERVO_CFG_KI : Fld := ⟨TIM_SERVO_CFG, 15, 8⟩
abbrev TIM_SERVO_CFG_STEP_NS : Fld := ⟨TIM_SERVO_CFG, 7, 0⟩
/-- R374: [23:12] UNLOCK_NS, [11:0] LOCK_NS -/
abbrev TIM_LOCK_CFG : Nat := 0x120003
abbrev TIM_LOCK_CFG_UNLOCK_NS : Fld := ⟨TIM_LOCK_CFG, 23, 12⟩
abbrev TIM_LOCK_CFG_LOCK_NS : Fld := ⟨TIM_LOCK_CFG, 11, 0⟩
/-- R374: Local time, a time record -/
abbrev TIM_NOW : Nat := 0x120004
/-- R374: u48 (R359). With SERVO = 1, the servo overwrites it -/
abbrev TIM_ADDEND : Nat := 0x120008
/-- R374: s48 ns (R360) -/
abbrev TIM_STEP : Nat := 0x12000a
/-- R374: Last o, s48, 2^−16 ns -/
abbrev TIM_OFFSET : Nat := 0x12000c
/-- R374: IEEE 1588 -/
abbrev TIM_PTP_CFG : Nat := 0x120010
abbrev TIM_PTP_CFG_MODE : Fld := ⟨TIM_PTP_CFG, 23, 22⟩
abbrev TIM_PTP_CFG_PORT : Fld := ⟨TIM_PTP_CFG, 21, 21⟩
abbrev TIM_PTP_CFG_DELAY : Fld := ⟨TIM_PTP_CFG, 20, 20⟩
abbrev TIM_PTP_CFG_TC_EN : Fld := ⟨TIM_PTP_CFG, 19, 19⟩
abbrev TIM_PTP_CFG_TRANSPORT : Fld := ⟨TIM_PTP_CFG, 18, 17⟩
abbrev TIM_PTP_CFG_DOMAIN : Fld := ⟨TIM_PTP_CFG, 7, 0⟩
/-- R374: [23:20] logSyncInterval, [19:16] logMinDelayReqInterval, [15:12] logAnnounceInterval, each -/
abbrev TIM_PTP_INT : Nat := 0x120011
abbrev TIM_PTP_INT_SYNC : Fld := ⟨TIM_PTP_INT, 23, 20⟩
abbrev TIM_PTP_INT_DREQ : Fld := ⟨TIM_PTP_INT, 19, 16⟩
abbrev TIM_PTP_INT_ANN : Fld := ⟨TIM_PTP_INT, 15, 12⟩
/-- R374: Word 0 [23:16] priority1, [15:8] clockClass, [7:0] clockAccuracy; word 1 [23:8] offsetScal -/
abbrev TIM_PTP_DS (i : Nat) : Nat := 0x120012 + 1 * i
/-- R374: clockIdentity of the master, 64 bits, least significant word first -/
abbrev TIM_PTP_PARENT : Nat := 0x120015
/-- R374: Mean path delay or peer delay, u48 ps -/
abbrev TIM_PTP_DELAY : Nat := 0x120018
/-- R374: Output -/
abbrev TTO_CFG (n : Nat) : Nat := 0x120100 + 0x10 * n
abbrev TTO_CFG_POL (n : Nat) : Fld := ⟨TTO_CFG n, 2, 2⟩
abbrev TTO_CFG_MODE (n : Nat) : Fld := ⟨TTO_CFG n, 1, 0⟩
/-- R374: [1] DISARM, [0] ARM -/
abbrev TTO_CTRL (n : Nat) : Nat := 0x120101 + 0x10 * n
abbrev TTO_CTRL_DISARM (n : Nat) : Fld := ⟨TTO_CTRL n, 1, 1⟩
abbrev TTO_CTRL_ARM (n : Nat) : Fld := ⟨TTO_CTRL n, 0, 0⟩
/-- R374: [2] MISSED W1C, [1] DONE W1C, [0] ARMED RO -/
abbrev TTO_STATUS (n : Nat) : Nat := 0x120102 + 0x10 * n
abbrev TTO_STATUS_MISSED (n : Nat) : Fld := ⟨TTO_STATUS n, 2, 2⟩
abbrev TTO_STATUS_DONE (n : Nat) : Fld := ⟨TTO_STATUS n, 1, 1⟩
abbrev TTO_STATUS_ARMED (n : Nat) : Fld := ⟨TTO_STATUS n, 0, 0⟩
/-- R374: Time record -/
abbrev TTO_START (n : Nat) : Nat := 0x120104 + 0x10 * n
/-- R374: u48, 2^−16 ns -/
abbrev TTO_PERIOD (n : Nat) : Nat := 0x120108 + 0x10 * n
/-- R374: u24 ns; 0 is treated as 2 -/
abbrev TTO_WIDTH (n : Nat) : Nat := 0x12010a + 0x10 * n
/-- R374: u24; 0 without end -/
abbrev TTO_COUNT (n : Nat) : Nat := 0x12010b + 0x10 * n
/-- R374: Input -/
abbrev TCI_CFG (n : Nat) : Nat := 0x120200 + 0x10 * n
abbrev TCI_CFG_EVT (n : Nat) : Fld := ⟨TCI_CFG n, 10, 10⟩
abbrev TCI_CFG_EDGE (n : Nat) : Fld := ⟨TCI_CFG n, 9, 8⟩
abbrev TCI_CFG_FILT_N (n : Nat) : Fld := ⟨TCI_CFG n, 7, 0⟩
/-- R374: [5] OVERRUN W1C, [4:0] records held RO -/
abbrev TCI_STATUS (n : Nat) : Nat := 0x120201 + 0x10 * n
abbrev TCI_STATUS_OVERRUN (n : Nat) : Fld := ⟨TCI_STATUS n, 5, 5⟩
abbrev TCI_STATUS_HELD (n : Nat) : Fld := ⟨TCI_STATUS n, 4, 0⟩
/-- R374: Time record (R371) -/
abbrev TCI_FIFO (n : Nat) : Nat := 0x120204 + 0x10 * n

/-- The rows of block TIM (R507). -/
def rowsTIM : List RegRow := [
  ⟨0x120000, 0x10000, 1, 1, 1, 1, .idle, 0, 0xffffff, 0, 0, 0⟩,
  ⟨0x120001, 0x10000, 1, 1, 1, 1, .none, 0, 0, 0x20, 0, 0⟩,
  ⟨0x120002, 0x10000, 1, 1, 1, 1, .none, 0xffffff, 0, 0, 0, 0⟩,
  ⟨0x120003, 0x10000, 1, 1, 1, 1, .none, 0xffffff, 0, 0, 0, 0⟩,
  ⟨0x120004, 0x10000, 1, 4, 1, 4, .none, 0, 0, 0, 0, 0⟩,
  ⟨0x120008, 0x10000, 1, 2, 1, 2, .none, 0xffffffffffff, 0, 0, 0, 0⟩,
  ⟨0x12000a, 0x10000, 1, 2, 1, 2, .none, 0, 0, 0, 0, 0xffffffffffff⟩,
  ⟨0x12000c, 0x10000, 1, 2, 1, 2, .none, 0, 0, 0, 0, 0⟩,
  ⟨0x120010, 0x10000, 1, 1, 1, 1, .idle, 0, 0xfe00ff, 0, 0, 0⟩,
  ⟨0x120011, 0x10000, 1, 1, 1, 1, .none, 0xfff000, 0, 0, 0, 0⟩,
  ⟨0x120012, 0x10000, 1, 1, 2, 1, .none, 0xffffff, 0, 0, 0, 0⟩,
  ⟨0x120014, 0x10000, 1, 1, 1, 1, .none, 0x0, 0, 0, 0, 0⟩,
  ⟨0x120015, 0x10000, 1, 3, 1, 3, .none, 0, 0, 0, 0, 0⟩,
  ⟨0x120018, 0x10000, 1, 2, 1, 2, .none, 0, 0, 0, 0, 0⟩,
  ⟨0x120100, 0x10, 4, 1, 1, 1, .none, 7, 0, 0, 0, 0⟩,
  ⟨0x120101, 0x10, 4, 1, 1, 1, .none, 0, 0, 0, 0, 3⟩,
  ⟨0x120102, 0x10, 4, 1, 1, 1, .none, 0, 0, 6, 0, 0⟩,
  ⟨0x120104, 0x10, 4, 4, 1, 4, .none, 0x3fffffffffffffffffffffff, 0, 0, 0, 0⟩,
  ⟨0x120108, 0x10, 4, 2, 1, 2, .none, 0xffffffffffff, 0, 0, 0, 0⟩,
  ⟨0x12010a, 0x10, 4, 1, 1, 1, .none, 0xffffff, 0, 0, 0, 0⟩,
  ⟨0x12010b, 0x10, 4, 1, 1, 1, .none, 0xffffff, 0, 0, 0, 0⟩,
  ⟨0x120200, 0x10, 4, 1, 1, 1, .none, 0x7ff, 0, 0, 0, 0⟩,
  ⟨0x120201, 0x10, 4, 1, 1, 1, .none, 0, 0, 0x20, 0, 0⟩,
  ⟨0x120204, 0x10, 4, 4, 1, 4, .none, 0, 0, 0, 0, 0⟩]

/-- R499: [23] EN, [22:21] RATE: 0 10GBASE-R, 1 25GBASE-R, 2 25GBASE-R with RS-FEC, 3 as 0; reset sk -/
abbrev ETH_CFG (n : Nat) : Nat := 0x130000 + 0x20 * n
abbrev ETH_CFG_EN (n : Nat) : Fld := ⟨ETH_CFG n, 23, 23⟩
abbrev ETH_CFG_RATE (n : Nat) : Fld := ⟨ETH_CFG n, 22, 21⟩
/-- R499: [1] DOWN W1C, [0] LINK RO -/
abbrev ETH_STATUS (n : Nat) : Nat := 0x130001 + 0x20 * n
abbrev ETH_STATUS_DOWN (n : Nat) : Fld := ⟨ETH_STATUS n, 1, 1⟩
abbrev ETH_STATUS_LINK (n : Nat) : Fld := ⟨ETH_STATUS n, 0, 0⟩
/-- R499: IPv4 address, u32; 0 none -/
abbrev ETH_IP4 (n : Nat) : Nat := 0x130002 + 0x20 * n
/-- R499: IPv6 address, 128 bits; 0 none -/
abbrev ETH_IP6 (n : Nat) : Nat := 0x130004 + 0x20 * n
/-- R499: u24, saturating -/
abbrev ETH_RX_DROPS (n : Nat) : Nat := 0x13000a + 0x20 * n
/-- R499: u24, saturating -/
abbrev ETH_FWD_DROPS (n : Nat) : Nat := 0x13000b + 0x20 * n
/-- R499: [23] FWD, [22] MGMT_EN, [15:0] MGMT_PORT; reset skein -/
abbrev ETH_GCFG : Nat := 0x130100
abbrev ETH_GCFG_FWD : Fld := ⟨ETH_GCFG, 23, 23⟩
abbrev ETH_GCFG_MGMT_EN : Fld := ⟨ETH_GCFG, 22, 22⟩
abbrev ETH_GCFG_MGMT_PORT : Fld := ⟨ETH_GCFG, 15, 0⟩
/-- R499: [1] KEY1_SET, [0] KEY0_OK -/
abbrev ETH_MGMT_STATUS : Nat := 0x130101
abbrev ETH_MGMT_STATUS_KEY1_SET : Fld := ⟨ETH_MGMT_STATUS, 1, 1⟩
abbrev ETH_MGMT_STATUS_KEY0_OK : Fld := ⟨ETH_MGMT_STATUS, 0, 0⟩
/-- R499: SESSION, u32 -/
abbrev ETH_MGMT_SESSION : Nat := 0x130102
/-- R499: u24, saturating -/
abbrev ETH_MGMT_FAIL : Nat := 0x130104
/-- R499: Key 1, 256 bits in 11 words under R13. An all-zero key clears KEY1_SET -/
abbrev ETH_MGMT_KEY1 : Nat := 0x130110

/-- The rows of block ETH (R507). -/
def rowsETH : List RegRow := [
  ⟨0x130000, 0x20, 2, 1, 1, 1, .idle, 0, 0xe00000, 0, 0, 0⟩,
  ⟨0x130001, 0x20, 2, 1, 1, 1, .none, 0, 0, 2, 0, 0⟩,
  ⟨0x130002, 0x20, 2, 2, 1, 2, .idle, 0, 0xffffffff, 0, 0, 0⟩,
  ⟨0x130004, 0x20, 2, 6, 1, 6, .idle, 0, 0xffffffffffffffffffffffffffffffff, 0, 0, 0⟩,
  ⟨0x13000a, 0x20, 2, 1, 1, 1, .none, 0, 0, 0, 0, 0⟩,
  ⟨0x13000b, 0x20, 2, 1, 1, 1, .none, 0, 0, 0, 0, 0⟩,
  ⟨0x130100, 0x10000, 1, 1, 1, 1, .idle, 0, 0xc0ffff, 0, 0, 0⟩,
  ⟨0x130101, 0x10000, 1, 1, 1, 1, .none, 0, 0, 0, 0, 0⟩,
  ⟨0x130102, 0x10000, 1, 2, 1, 2, .none, 0, 0, 0, 0, 0⟩,
  ⟨0x130104, 0x10000, 1, 1, 1, 1, .none, 0, 0, 0, 0, 0⟩,
  ⟨0x130110, 0x10000, 1, 11, 1, 11, .none, 0, 0, 0, 0, 0xffffffffffffffffffffffffffffffffffffffffffffffffffffffffffffffff⟩]

/-- R395: Geometry and mapping, loaded from the skein -/
abbrev DRM_CFG : Nat := 0x140000
abbrev DRM_CFG_CAP_LOG2 : Fld := ⟨DRM_CFG, 23, 20⟩
abbrev DRM_CFG_RANKS : Fld := ⟨DRM_CFG, 19, 19⟩
abbrev DRM_CFG_ECC : Fld := ⟨DRM_CFG, 18, 18⟩
abbrev DRM_CFG_PATROL : Fld := ⟨DRM_CFG, 17, 17⟩
abbrev DRM_CFG_GRAIN_LOG2 : Fld := ⟨DRM_CFG, 16, 13⟩
abbrev DRM_CFG_BOOT_SET : Fld := ⟨DRM_CFG, 12, 11⟩
abbrev DRM_CFG_SCRUB_H : Fld := ⟨DRM_CFG, 10, 8⟩
abbrev DRM_CFG_UE_LIMIT : Fld := ⟨DRM_CFG, 7, 4⟩
abbrev DRM_CFG_TRACK_MS : Fld := ⟨DRM_CFG, 3, 0⟩
/-- R395: Commands -/
abbrev DRM_CTRL : Nat := 0x140001
abbrev DRM_CTRL_CLEAR_COUNTS : Fld := ⟨DRM_CTRL, 3, 3⟩
abbrev DRM_CTRL_FC_GO : Fld := ⟨DRM_CTRL, 2, 2⟩
abbrev DRM_CTRL_FC_SET : Fld := ⟨DRM_CTRL, 1, 0⟩
/-- R395: Status -/
abbrev DRM_STATUS : Nat := 0x140002
abbrev DRM_STATUS_FATAL : Fld := ⟨DRM_STATUS, 8, 8⟩
abbrev DRM_STATUS_WIPED : Fld := ⟨DRM_STATUS, 7, 7⟩
abbrev DRM_STATUS_FC_REJ : Fld := ⟨DRM_STATUS, 6, 6⟩
abbrev DRM_STATUS_MERGED : Fld := ⟨DRM_STATUS, 5, 5⟩
abbrev DRM_STATUS_FC_PENDING : Fld := ⟨DRM_STATUS, 4, 4⟩
abbrev DRM_STATUS_CRITICAL : Fld := ⟨DRM_STATUS, 3, 3⟩
abbrev DRM_STATUS_SET : Fld := ⟨DRM_STATUS, 1, 0⟩
/-- R395: Power states -/
abbrev DRM_PWR_CFG : Nat := 0x140003
abbrev DRM_PWR_CFG_PD_EN : Fld := ⟨DRM_PWR_CFG, 23, 23⟩
abbrev DRM_PWR_CFG_SR_EN : Fld := ⟨DRM_PWR_CFG, 22, 22⟩
abbrev DRM_PWR_CFG_SR_MARGIN : Fld := ⟨DRM_PWR_CFG, 21, 16⟩
abbrev DRM_PWR_CFG_IDLE_SR : Fld := ⟨DRM_PWR_CFG, 15, 8⟩
abbrev DRM_PWR_CFG_IDLE_PD : Fld := ⟨DRM_PWR_CFG, 7, 0⟩
/-- R395: [23:12] B_SR, µs; [11:0] B_PD, ns -/
abbrev DRM_LAT_BUDGET : Nat := 0x140004
abbrev DRM_LAT_BUDGET_B_SR : Fld := ⟨DRM_LAT_BUDGET, 23, 12⟩
abbrev DRM_LAT_BUDGET_B_PD : Fld := ⟨DRM_LAT_BUDGET, 11, 0⟩
/-- R395: [23:16] self-refresh entries aborted, [15:8] requests that waited for exit, both u8 wrappi -/
abbrev DRM_PWR_STATUS : Nat := 0x140005
abbrev DRM_PWR_STATUS_ABORTED : Fld := ⟨DRM_PWR_STATUS, 23, 16⟩
abbrev DRM_PWR_STATUS_WAITED : Fld := ⟨DRM_PWR_STATUS, 15, 8⟩
abbrev DRM_PWR_STATUS_LOW : Fld := ⟨DRM_PWR_STATUS, 7, 0⟩
/-- R395: Refresh postponement -/
abbrev DRM_REF_CFG : Nat := 0x140006
abbrev DRM_REF_CFG_POSTPONE_MAX : Fld := ⟨DRM_REF_CFG, 11, 8⟩
abbrev DRM_REF_CFG_CRIT_US : Fld := ⟨DRM_REF_CFG, 7, 0⟩
/-- R395: [10:8] channel owing most, [3:0] its owed count -/
abbrev DRM_REF_OWED : Nat := 0x140007
abbrev DRM_REF_OWED_CHAN : Fld := ⟨DRM_REF_OWED, 10, 8⟩
abbrev DRM_REF_OWED_COUNT : Fld := ⟨DRM_REF_OWED, 3, 0⟩
/-- R395: Tracker -/
abbrev DRM_RD_CFG : Nat := 0x140008
abbrev DRM_RD_CFG_WINDOW : Fld := ⟨DRM_RD_CFG, 23, 16⟩
abbrev DRM_RD_CFG_THRESH : Fld := ⟨DRM_RD_CFG, 15, 0⟩
/-- R395: [23:12] THROT_TIME, 10 µs; [11:0] THROT_INT, 10 ns -/
abbrev DRM_RD_THROT : Nat := 0x140009
abbrev DRM_RD_THROT_THROT_TIME : Fld := ⟨DRM_RD_THROT, 23, 12⟩
abbrev DRM_RD_THROT_THROT_INT : Fld := ⟨DRM_RD_THROT, 11, 0⟩
/-- R395: [13:0] port throttled now, RO; [16] CROSSED W1C -/
abbrev DRM_RD_STATUS : Nat := 0x14000a
abbrev DRM_RD_STATUS_CROSSED : Fld := ⟨DRM_RD_STATUS, 16, 16⟩
abbrev DRM_RD_STATUS_THROTTLED : Fld := ⟨DRM_RD_STATUS, 13, 0⟩
/-- R395: u24, saturating -/
abbrev DRM_ECC_CE : Nat := 0x14000b
/-- R395: u24, saturating -/
abbrev DRM_ECC_UE : Nat := 0x14000c
/-- R395: Last uncorrectable burst address, u30 -/
abbrev DRM_ECC_ADDR : Nat := 0x14000d
/-- R395: Arbitration -/
abbrev DRM_PORT_CFG (n : Nat) : Nat := 0x140100 + 4 * n
abbrev DRM_PORT_CFG_AGE_MAX (n : Nat) : Fld := ⟨DRM_PORT_CFG n, 23, 16⟩
abbrev DRM_PORT_CFG_WEIGHT (n : Nat) : Fld := ⟨DRM_PORT_CFG n, 5, 0⟩
/-- R395: u24, saturating -/
abbrev DRM_PORT_STALLS (n : Nat) : Nat := 0x140101 + 4 * n
/-- R395: [5:0] reads outstanding -/
abbrev DRM_PORT_RD_OUT (n : Nat) : Nat := 0x140102 + 4 * n
/-- R395: R387 -/
abbrev DRM_TSET0 (n : Nat) : Nat := 0x140200 + 8 * n
/-- R395: R387 -/
abbrev DRM_TSET1 (n : Nat) : Nat := 0x140201 + 8 * n
/-- R395: R387 -/
abbrev DRM_TSET2 (n : Nat) : Nat := 0x140202 + 8 * n
/-- R395: R387 -/
abbrev DRM_TSET3 (n : Nat) : Nat := 0x140203 + 8 * n
/-- R395: R387 -/
abbrev DRM_TSET4 (n : Nat) : Nat := 0x140204 + 8 * n
/-- R395: R387 -/
abbrev DRM_TSET5 (n : Nat) : Nat := 0x140205 + 8 * n

/-- The rows of block DRM (R507). -/
def rowsDRM : List RegRow := [
  ⟨0x140000, 0x10000, 1, 1, 1, 1, .none, 0, 0, 0, 0, 0⟩,
  ⟨0x140001, 0x10000, 1, 1, 1, 1, .none, 0, 0, 0, 0, 0xf⟩,
  ⟨0x140002, 0x10000, 1, 1, 1, 1, .none, 0, 0, 0x60, 0, 0⟩,
  ⟨0x140003, 0x10000, 1, 1, 1, 1, .none, 0xffffff, 0, 0, 0, 0⟩,
  ⟨0x140004, 0x10000, 1, 1, 1, 1, .none, 0, 0, 0, 0, 0⟩,
  ⟨0x140005, 0x10000, 1, 1, 1, 1, .none, 0, 0, 0, 0, 0⟩,
  ⟨0x140006, 0x10000, 1, 1, 1, 1, .none, 0xfff, 0, 0, 0, 0⟩,
  ⟨0x140007, 0x10000, 1, 1, 1, 1, .none, 0, 0, 0, 0, 0⟩,
  ⟨0x140008, 0x10000, 1, 1, 1, 1, .none, 0xffffff, 0, 0, 0, 0⟩,
  ⟨0x140009, 0x10000, 1, 1, 1, 1, .none, 0xffffff, 0, 0, 0, 0⟩,
  ⟨0x14000a, 0x10000, 1, 1, 1, 1, .none, 0, 0, 0x10000, 0, 0⟩,
  ⟨0x14000b, 0x10000, 1, 1, 1, 1, .none, 0, 0, 0, 0, 0⟩,
  ⟨0x14000c, 0x10000, 1, 1, 1, 1, .none, 0, 0, 0, 0, 0⟩,
  ⟨0x14000d, 0x10000, 1, 2, 1, 2, .none, 0, 0, 0, 0, 0⟩,
  ⟨0x140100, 4, 14, 1, 1, 1, .none, 0xff003f, 0, 0, 0, 0⟩,
  ⟨0x140101, 4, 14, 1, 1, 1, .none, 0, 0, 0, 0, 0⟩,
  ⟨0x140102, 4, 14, 1, 1, 1, .none, 0, 0, 0, 0, 0⟩,
  ⟨0x140200, 8, 4, 1, 1, 1, .none, 0xf3ffff, 0, 0, 0, 0⟩,
  ⟨0x140201, 8, 4, 1, 1, 1, .none, 0xffffff, 0, 0, 0, 0⟩,
  ⟨0x140202, 8, 4, 1, 1, 1, .none, 0xffffff, 0, 0, 0, 0⟩,
  ⟨0x140203, 8, 4, 1, 1, 1, .none, 0xffffff, 0, 0, 0, 0⟩,
  ⟨0x140204, 8, 4, 1, 1, 1, .none, 0xffff, 0, 0, 0, 0⟩,
  ⟨0x140205, 8, 4, 1, 1, 1, .none, 0xffff, 0, 0, 0, 0⟩]

/-- R426: Store configuration -/
abbrev STO_CFG : Nat := 0x150000
abbrev STO_CFG_EN : Fld := ⟨STO_CFG, 23, 23⟩
abbrev STO_CFG_MAX_MTS : Fld := ⟨STO_CFG, 22, 12⟩
abbrev STO_CFG_FLUSH_US : Fld := ⟨STO_CFG, 11, 0⟩
/-- R426: Commands -/
abbrev STO_CTRL : Nat := 0x150001
abbrev STO_CTRL_QUIESCE : Fld := ⟨STO_CTRL, 1, 1⟩
abbrev STO_CTRL_OPEN : Fld := ⟨STO_CTRL, 0, 0⟩
/-- R426: Status -/
abbrev STO_STATUS : Nat := 0x150002
abbrev STO_STATUS_STATE : Fld := ⟨STO_STATUS, 23, 21⟩
abbrev STO_STATUS_FAIL_CAUSE : Fld := ⟨STO_STATUS, 20, 17⟩
abbrev STO_STATUS_LOW_SPACE : Fld := ⟨STO_STATUS, 16, 16⟩
abbrev STO_STATUS_FULL : Fld := ⟨STO_STATUS, 15, 15⟩
abbrev STO_STATUS_KEY_LOST : Fld := ⟨STO_STATUS, 14, 14⟩
abbrev STO_STATUS_BBT_SINGLE : Fld := ⟨STO_STATUS, 13, 13⟩
abbrev STO_STATUS_PLAYING : Fld := ⟨STO_STATUS, 3, 0⟩
/-- R426: [23:20] page KiB, 8 or 16; [19:18] planes log2; [17:16] LUNs − 1; [12:0] pages per block -/
abbrev STO_GEOM0 : Nat := 0x150003
abbrev STO_GEOM0_PAGE_KIB : Fld := ⟨STO_GEOM0, 23, 20⟩
abbrev STO_GEOM0_PLANES_LOG2 : Fld := ⟨STO_GEOM0, 19, 18⟩
abbrev STO_GEOM0_LUNS_M1 : Fld := ⟨STO_GEOM0, 17, 16⟩
abbrev STO_GEOM0_PAGES : Fld := ⟨STO_GEOM0, 12, 0⟩
/-- R426: [23:20] P / 64; [14:0] blocks per plane -/
abbrev STO_GEOM1 : Nat := 0x150004
abbrev STO_GEOM1_P64 : Fld := ⟨STO_GEOM1, 23, 20⟩
abbrev STO_GEOM1_BLOCKS : Fld := ⟨STO_GEOM1, 14, 0⟩
/-- R426: Bit 8c + e: probe channel c, chip enable e; bits 24–31 in word 1 bits 7:0. Reads show pres -/
abbrev STO_CE_MAP : Nat := 0x150005
/-- R426: [23:12] rate in MT/s; [1:0] 0 SDR, 1 NV-DDR3, 2 NV-LPDDR4 -/
abbrev STO_IF : Nat := 0x150007
abbrev STO_IF_RATE : Fld := ⟨STO_IF, 23, 12⟩
abbrev STO_IF_MODE : Fld := ⟨STO_IF, 1, 0⟩
/-- R426: u24 -/
abbrev STO_BANDS_FREE : Nat := 0x150008
/-- R426: Usable bands, u24 -/
abbrev STO_BANDS_TOTAL : Nat := 0x150009
/-- R426: Live reels, u24 -/
abbrev STO_REELS : Nat := 0x15000a
/-- R426: [9:0] tags in use, 0–512 -/
abbrev STO_TAGS : Nat := 0x15000b
/-- R426: u24, saturating -/
abbrev STO_TAG_STALLS : Nat := 0x15000c
/-- R426: u24, saturating -/
abbrev STO_CPL_STALLS : Nat := 0x15000d
/-- R426: u24, saturating -/
abbrev STO_LEASE_WAITS : Nat := 0x15000e
/-- R426: Corrected bits, u24, saturating -/
abbrev STO_CE_BITS : Nat := 0x15000f
/-- R426: u24, saturating -/
abbrev STO_UE_COUNT : Nat := 0x150010
/-- R426: u24 -/
abbrev STO_BAD_BLOCKS : Nat := 0x150011
/-- R426: u24, saturating -/
abbrev STO_RELOCS : Nat := 0x150012
/-- R426: Erase counts, u24 -/
abbrev STO_ERASE_MIN : Nat := 0x150013
/-- R426: Erase counts, u24 -/
abbrev STO_ERASE_MAX : Nat := 0x150014
/-- R426: [7:4] REFRESH_STEP, [3:0] RETRY_MAX -/
abbrev STO_RETRY_CFG : Nat := 0x150020
abbrev STO_RETRY_CFG_REFRESH_STEP : Fld := ⟨STO_RETRY_CFG, 7, 4⟩
abbrev STO_RETRY_CFG_RETRY_MAX : Fld := ⟨STO_RETRY_CFG, 3, 0⟩
/-- R426: Maintenance -/
abbrev STO_MAINT_CFG : Nat := 0x150021
abbrev STO_MAINT_CFG_PATROL_DAYS : Fld := ⟨STO_MAINT_CFG, 23, 16⟩
abbrev STO_MAINT_CFG_WEAR_SPREAD : Fld := ⟨STO_MAINT_CFG, 15, 8⟩
abbrev STO_MAINT_CFG_REFRESH_T : Fld := ⟨STO_MAINT_CFG, 7, 0⟩
/-- R426: [23:12] LOW_BANDS, [11:0] OP_BANDS, at least 4; lower values treated as 4 -/
abbrev STO_SPACE_CFG : Nat := 0x150022
abbrev STO_SPACE_CFG_LOW_BANDS : Fld := ⟨STO_SPACE_CFG, 23, 12⟩
abbrev STO_SPACE_CFG_OP_BANDS : Fld := ⟨STO_SPACE_CFG, 11, 0⟩
/-- R426: Word 0 [23] EN, [11:0] BD_OFS; word 1 REEL_ID; word 2 [23:12] GEN_BIAS, [11:0] LOOPS; word -/
abbrev STO_AUTO0 (n : Nat) : Nat := 0x150030 + 4 * n
abbrev STO_AUTO0_EN (n : Nat) : Fld := ⟨STO_AUTO0 n, 23, 23⟩
abbrev STO_AUTO0_BD_OFS (n : Nat) : Fld := ⟨STO_AUTO0 n, 11, 0⟩
/-- R426: Word 0 [23] EN, [11:0] BD_OFS; word 1 REEL_ID; word 2 [23:12] GEN_BIAS, [11:0] LOOPS; word -/
abbrev STO_AUTO1 (n : Nat) : Nat := 0x150031 + 4 * n
/-- R426: Word 0 [23] EN, [11:0] BD_OFS; word 1 REEL_ID; word 2 [23:12] GEN_BIAS, [11:0] LOOPS; word -/
abbrev STO_AUTO2 (n : Nat) : Nat := 0x150032 + 4 * n
abbrev STO_AUTO2_GEN_BIAS (n : Nat) : Fld := ⟨STO_AUTO2 n, 23, 12⟩
abbrev STO_AUTO2_LOOPS (n : Nat) : Fld := ⟨STO_AUTO2 n, 11, 0⟩
/-- R426: Word 0 [23] EN, [11:0] BD_OFS; word 1 REEL_ID; word 2 [23:12] GEN_BIAS, [11:0] LOOPS; word -/
abbrev STO_AUTO3 (n : Nat) : Nat := 0x150033 + 4 * n

/-- The rows of block STO (R507). -/
def rowsSTO : List RegRow := [
  ⟨0x150000, 0x10000, 1, 1, 1, 1, .idle, 0, 0xffffff, 0, 0, 0⟩,
  ⟨0x150001, 0x10000, 1, 1, 1, 1, .none, 0, 0, 0, 0, 3⟩,
  ⟨0x150002, 0x10000, 1, 1, 1, 1, .none, 0, 0, 0x8000, 0, 0⟩,
  ⟨0x150003, 0x10000, 1, 1, 1, 1, .none, 0, 0, 0, 0, 0⟩,
  ⟨0x150004, 0x10000, 1, 1, 1, 1, .none, 0, 0, 0, 0, 0⟩,
  ⟨0x150005, 0x10000, 1, 2, 1, 2, .idle, 0, 0xffffffff, 0, 0, 0⟩,
  ⟨0x150007, 0x10000, 1, 1, 1, 1, .none, 0, 0, 0, 0, 0⟩,
  ⟨0x150008, 0x10000, 1, 1, 1, 1, .none, 0, 0, 0, 0, 0⟩,
  ⟨0x150009, 0x10000, 1, 1, 1, 1, .none, 0, 0, 0, 0, 0⟩,
  ⟨0x15000a, 0x10000, 1, 1, 1, 1, .none, 0, 0, 0, 0, 0⟩,
  ⟨0x15000b, 0x10000, 1, 1, 1, 1, .none, 0, 0, 0, 0, 0⟩,
  ⟨0x15000c, 0x10000, 1, 1, 1, 1, .none, 0, 0, 0, 0, 0⟩,
  ⟨0x15000d, 0x10000, 1, 1, 1, 1, .none, 0, 0, 0, 0, 0⟩,
  ⟨0x15000e, 0x10000, 1, 1, 1, 1, .none, 0, 0, 0, 0, 0⟩,
  ⟨0x15000f, 0x10000, 1, 1, 1, 1, .none, 0, 0, 0, 0, 0⟩,
  ⟨0x150010, 0x10000, 1, 1, 1, 1, .none, 0, 0, 0, 0, 0⟩,
  ⟨0x150011, 0x10000, 1, 1, 1, 1, .none, 0, 0, 0, 0, 0⟩,
  ⟨0x150012, 0x10000, 1, 1, 1, 1, .none, 0, 0, 0, 0, 0⟩,
  ⟨0x150013, 0x10000, 1, 1, 1, 1, .none, 0, 0, 0, 0, 0⟩,
  ⟨0x150014, 0x10000, 1, 1, 1, 1, .none, 0, 0, 0, 0, 0⟩,
  ⟨0x150020, 0x10000, 1, 1, 1, 1, .none, 0xff, 0, 0, 0, 0⟩,
  ⟨0x150021, 0x10000, 1, 1, 1, 1, .none, 0xffffff, 0, 0, 0, 0⟩,
  ⟨0x150022, 0x10000, 1, 1, 1, 1, .idle, 0, 0xffffff, 0, 0, 0⟩,
  ⟨0x150030, 4, 4, 1, 1, 1, .idle, 0, 0x800fff, 0, 0, 0⟩,
  ⟨0x150031, 4, 4, 1, 1, 1, .idle, 0, 0xffffff, 0, 0, 0⟩,
  ⟨0x150032, 4, 4, 1, 1, 1, .idle, 0, 0xffffff, 0, 0, 0⟩,
  ⟨0x150033, 4, 4, 1, 1, 1, .idle, 0, 0xffffff, 0, 0, 0⟩]

/-- R470: Rotation; takes effect from the next rest -/
abbrev BST_CFG : Nat := 0x160000
abbrev BST_CFG_ROT_EN : Fld := ⟨BST_CFG, 23, 23⟩
abbrev BST_CFG_PAT_LOG2 : Fld := ⟨BST_CFG, 19, 16⟩
abbrev BST_CFG_REST_MS : Fld := ⟨BST_CFG, 15, 0⟩
/-- R470: [12:0] bit u: test unit u (R459) -/
abbrev BST_REQ : Nat := 0x160001
/-- R470: [0] CANCEL -/
abbrev BST_CTRL : Nat := 0x160002
abbrev BST_CTRL_CANCEL : Fld := ⟨BST_CTRL, 0, 0⟩
/-- R470: Status -/
abbrev BST_STATUS : Nat := 0x160003
abbrev BST_STATUS_BUSY : Fld := ⟨BST_STATUS, 23, 23⟩
abbrev BST_STATUS_UNIT : Fld := ⟨BST_STATUS, 22, 19⟩
abbrev BST_STATUS_ROT_STOPPED : Fld := ⟨BST_STATUS, 18, 18⟩
abbrev BST_STATUS_MERGED : Fld := ⟨BST_STATUS, 17, 17⟩
abbrev BST_STATUS_ABORTED : Fld := ⟨BST_STATUS, 16, 16⟩
abbrev BST_STATUS_REP_REJ : Fld := ⟨BST_STATUS, 15, 15⟩
abbrev BST_STATUS_REP_CAUSE : Fld := ⟨BST_STATUS, 14, 13⟩
/-- R470: [15:0] bit u: the last test of unit u failed -/
abbrev BST_FAIL : Nat := 0x160004
/-- R470: u24, saturating -/
abbrev BST_ROUNDS : Nat := 0x160005
/-- R470: Last signature, u48 -/
abbrev BST_SIG : Nat := 0x160006
/-- R470: [23:20] unit, [19:16] seed, [0] PASS -/
abbrev BST_LAST : Nat := 0x160008
abbrev BST_LAST_UNIT : Fld := ⟨BST_LAST, 23, 20⟩
abbrev BST_LAST_SEED : Fld := ⟨BST_LAST, 19, 16⟩
abbrev BST_LAST_PASS : Fld := ⟨BST_LAST, 0, 0⟩
/-- R470: [23:8] KEY, [3:0] STAKE (R457) -/
abbrev BST_REPAIR : Nat := 0x160009
abbrev BST_REPAIR_KEY : Fld := ⟨BST_REPAIR, 23, 8⟩
abbrev BST_REPAIR_STAKE : Fld := ⟨BST_REPAIR, 3, 0⟩
/-- R470: [4] REPAIRED, [3:0] stake repaired -/
abbrev BST_FUSE : Nat := 0x16000a
abbrev BST_FUSE_REPAIRED : Fld := ⟨BST_FUSE, 4, 4⟩
abbrev BST_FUSE_STAKE : Fld := ⟨BST_FUSE, 3, 0⟩

/-- The rows of block BST (R507). -/
def rowsBST : List RegRow := [
  ⟨0x160000, 0x10000, 1, 1, 1, 1, .none, 0x8fffff, 0, 0, 0, 0⟩,
  ⟨0x160001, 0x10000, 1, 1, 1, 1, .none, 0, 0, 0, 0x1fff, 0⟩,
  ⟨0x160002, 0x10000, 1, 1, 1, 1, .none, 0, 0, 0, 0, 1⟩,
  ⟨0x160003, 0x10000, 1, 1, 1, 1, .none, 0, 0, 0x38000, 0, 0⟩,
  ⟨0x160004, 0x10000, 1, 1, 1, 1, .none, 0, 0, 0, 0, 0⟩,
  ⟨0x160005, 0x10000, 1, 1, 1, 1, .none, 0, 0, 0, 0, 0⟩,
  ⟨0x160006, 0x10000, 1, 2, 1, 2, .none, 0, 0, 0, 0, 0⟩,
  ⟨0x160008, 0x10000, 1, 1, 1, 1, .none, 0, 0, 0, 0, 0⟩,
  ⟨0x160009, 0x10000, 1, 1, 1, 1, .none, 0, 0, 0, 0, 0xffff0f⟩,
  ⟨0x16000a, 0x10000, 1, 1, 1, 1, .none, 0, 0, 0, 0, 0⟩]

/-- R471: [23:18] FREEZE, bit per kind; [7:0] INT_MS, 1–255, 0 treated as 1; reset 0x00_00_0A -/
abbrev TRM_CFG : Nat := 0x170000
abbrev TRM_CFG_FREEZE : Fld := ⟨TRM_CFG, 23, 18⟩
abbrev TRM_CFG_INT_MS : Fld := ⟨TRM_CFG, 7, 0⟩
/-- R471: [5:0] round requested, per kind -/
abbrev TRM_REQ : Nat := 0x170001
/-- R471: [13:8] HELD RO: value waiting for its boundary; [5:0] LIMIT W1C -/
abbrev TRM_STATUS : Nat := 0x170002
abbrev TRM_STATUS_HELD : Fld := ⟨TRM_STATUS, 13, 8⟩
abbrev TRM_STATUS_LIMIT : Fld := ⟨TRM_STATUS, 5, 0⟩
/-- R471: [23] VALID, [11:0] s12, 0.125 °C -/
abbrev TRM_DIE_TEMP (i : Nat) : Nat := 0x170010 + 1 * i
abbrev TRM_DIE_TEMP_VALID (i : Nat) : Fld := ⟨TRM_DIE_TEMP i, 23, 23⟩
abbrev TRM_DIE_TEMP_TEMP (i : Nat) : Fld := ⟨TRM_DIE_TEMP i, 11, 0⟩
/-- R471: [14:12] sensor, [11:0] temperature -/
abbrev TRM_DIE_MAX : Nat := 0x170018
abbrev TRM_DIE_MAX_SENSOR : Fld := ⟨TRM_DIE_MAX, 14, 12⟩
abbrev TRM_DIE_MAX_TEMP : Fld := ⟨TRM_DIE_MAX, 11, 0⟩
/-- R471: [23:12] SHUT, [11:0] WARN, s12; reset 0x34_82_F8 (105 °C, 95 °C) -/
abbrev TRM_DIE_LIM : Nat := 0x170019
abbrev TRM_DIE_LIM_SHUT : Fld := ⟨TRM_DIE_LIM, 23, 12⟩
abbrev TRM_DIE_LIM_WARN : Fld := ⟨TRM_DIE_LIM, 11, 0⟩
/-- R471: [7:0] 0.125 °C; reset 40 -/
abbrev TRM_DIE_HYST : Nat := 0x17001a
/-- R471: [2] TRIP_SEEN W1C, [1] OVER RO, [0] WARN RO -/
abbrev TRM_DIE_STATUS : Nat := 0x17001b
abbrev TRM_DIE_STATUS_TRIP_SEEN : Fld := ⟨TRM_DIE_STATUS, 2, 2⟩
abbrev TRM_DIE_STATUS_OVER : Fld := ⟨TRM_DIE_STATUS, 1, 1⟩
abbrev TRM_DIE_STATUS_WARN : Fld := ⟨TRM_DIE_STATUS, 0, 0⟩
/-- R471: [9:0] oscillator code -/
abbrev TRM_OSC : Nat := 0x17001c
/-- R471: Lane n: [23:16] data-sampler offset, [15:8] error-sampler offset, s8 mV; [7:0] transmit de -/
abbrev TRM_LANE (i : Nat) : Nat := 0x170100 + 1 * i
abbrev TRM_LANE_DATA (i : Nat) : Fld := ⟨TRM_LANE i, 23, 16⟩
abbrev TRM_LANE_ERR (i : Nat) : Fld := ⟨TRM_LANE i, 15, 8⟩
abbrev TRM_LANE_DLY (i : Nat) : Fld := ⟨TRM_LANE i, 7, 0⟩
/-- R471: Axis a: [11:6] coil 2, [5:0] coil 1, s6 LSB -/
abbrev TRM_SNS (i : Nat) : Nat := 0x170200 + 1 * i
abbrev TRM_SNS_C2 (i : Nat) : Fld := ⟨TRM_SNS i, 11, 6⟩
abbrev TRM_SNS_C1 (i : Nat) : Fld := ⟨TRM_SNS i, 5, 0⟩

/-- The rows of block TRM (R507). -/
def rowsTRM : List RegRow := [
  ⟨0x170000, 0x10000, 1, 1, 1, 1, .none, 0xfc00ff, 0, 0, 0, 0⟩,
  ⟨0x170001, 0x10000, 1, 1, 1, 1, .none, 0, 0, 0, 0x3f, 0⟩,
  ⟨0x170002, 0x10000, 1, 1, 1, 1, .none, 0, 0, 0x3f, 0, 0⟩,
  ⟨0x170010, 0x10000, 1, 1, 8, 1, .none, 0, 0, 0, 0, 0⟩,
  ⟨0x170018, 0x10000, 1, 1, 1, 1, .none, 0, 0, 0, 0, 0⟩,
  ⟨0x170019, 0x10000, 1, 1, 1, 1, .none, 0xffffff, 0, 0, 0, 0⟩,
  ⟨0x17001a, 0x10000, 1, 1, 1, 1, .none, 0xff, 0, 0, 0, 0⟩,
  ⟨0x17001b, 0x10000, 1, 1, 1, 1, .none, 0, 0, 4, 0, 0⟩,
  ⟨0x17001c, 0x10000, 1, 1, 1, 1, .none, 0, 0, 0, 0, 0⟩,
  ⟨0x170100, 0x10000, 1, 1, 44, 1, .none, 0, 0, 0, 0, 0⟩,
  ⟨0x170200, 0x10000, 1, 1, 6, 1, .none, 0, 0, 0, 0, 0⟩]

/-- R472: Configuration -/
abbrev CNT_CFG (n : Nat) : Nat := 0x180000 + 8 * n
abbrev CNT_CFG_EN (n : Nat) : Fld := ⟨CNT_CFG n, 23, 23⟩
abbrev CNT_CFG_GROUP (n : Nat) : Fld := ⟨CNT_CFG n, 22, 22⟩
abbrev CNT_CFG_GATE (n : Nat) : Fld := ⟨CNT_CFG n, 21, 20⟩
abbrev CNT_CFG_GATE_INV (n : Nat) : Fld := ⟨CNT_CFG n, 19, 19⟩
abbrev CNT_CFG_TRACK (n : Nat) : Fld := ⟨CNT_CFG n, 18, 17⟩
abbrev CNT_CFG_SRC (n : Nat) : Fld := ⟨CNT_CFG n, 6, 0⟩
/-- R472: [0] CLEAR -/
abbrev CNT_CTRL (n : Nat) : Nat := 0x180001 + 8 * n
abbrev CNT_CTRL_CLEAR (n : Nat) : Fld := ⟨CNT_CTRL n, 0, 0⟩
/-- R472: u48 -/
abbrev CNT_VALUE (n : Nat) : Nat := 0x180002 + 8 * n
/-- R472: s48 -/
abbrev CNT_WIN_START (n : Nat) : Nat := 0x180004 + 8 * n
/-- R472: s48 -/
abbrev CNT_WIN_END (n : Nat) : Nat := 0x180006 + 8 * n
/-- R472: [1] STOP_GROUP, [0] START_GROUP -/
abbrev CNT_GLOBAL : Nat := 0x180100
abbrev CNT_GLOBAL_STOP_GROUP : Fld := ⟨CNT_GLOBAL, 1, 1⟩
abbrev CNT_GLOBAL_START_GROUP : Fld := ⟨CNT_GLOBAL, 0, 0⟩
/-- R472: [15:0] bit i: counter i wrapped -/
abbrev CNT_WRAP : Nat := 0x180101

/-- The rows of block CNT (R507). -/
def rowsCNT : List RegRow := [
  ⟨0x180000, 8, 16, 1, 1, 1, .none, 0xfe007f, 0, 0, 0, 0⟩,
  ⟨0x180001, 8, 16, 1, 1, 1, .none, 0, 0, 0, 0, 1⟩,
  ⟨0x180002, 8, 16, 2, 1, 2, .none, 0, 0, 0, 0, 0⟩,
  ⟨0x180004, 8, 16, 2, 1, 2, .none, 0xffffffffffff, 0, 0, 0, 0⟩,
  ⟨0x180006, 8, 16, 2, 1, 2, .none, 0xffffffffffff, 0, 0, 0, 0⟩,
  ⟨0x180100, 0x10000, 1, 1, 1, 1, .none, 0, 0, 0, 0, 3⟩,
  ⟨0x180101, 0x10000, 1, 1, 1, 1, .none, 0, 0, 0xffff, 0, 0⟩]

/-- R496: Enable and size -/
abbrev RING_CFG (n : Nat) : Nat := 0x190000 + 8 * n
abbrev RING_CFG_EN (n : Nat) : Fld := ⟨RING_CFG n, 23, 23⟩
abbrev RING_CFG_SIZE_LOG2 (n : Nat) : Fld := ⟨RING_CFG n, 4, 0⟩
/-- R496: Byte address, 36 bits; bits 11:0 must be 0 (R485) -/
abbrev RING_BASE (n : Nat) : Nat := 0x190001 + 8 * n
/-- R496: u24. RW where software produces under R41, RO otherwise. For rings 0–3, RO while the track -/
abbrev RING_PROD (n : Nat) : Nat := 0x190003 + 8 * n
/-- R496: u24. RW where software consumes, RO otherwise -/
abbrev RING_CONS (n : Nat) : Nat := 0x190004 + 8 * n
/-- R496: u24, saturating -/
abbrev RING_DROPS (n : Nat) : Nat := 0x190005 + 8 * n
/-- R496: [1] IDX_ERR W1C, [0] FULL RO -/
abbrev RING_STATUS (n : Nat) : Nat := 0x190006 + 8 * n
abbrev RING_STATUS_IDX_ERR (n : Nat) : Fld := ⟨RING_STATUS n, 1, 1⟩
abbrev RING_STATUS_FULL (n : Nat) : Fld := ⟨RING_STATUS n, 0, 0⟩
/-- R496: Per path -/
abbrev RING_MCTRL : Nat := 0x190100
abbrev RING_MCTRL_BUSY : Fld := ⟨RING_MCTRL, 23, 23⟩
abbrev RING_MCTRL_ERR : Fld := ⟨RING_MCTRL, 22, 22⟩
abbrev RING_MCTRL_GO : Fld := ⟨RING_MCTRL, 21, 21⟩
abbrev RING_MCTRL_OP : Fld := ⟨RING_MCTRL, 20, 20⟩
abbrev RING_MCTRL_COUNT_M1 : Fld := ⟨RING_MCTRL, 7, 0⟩
/-- R496: [2] pages, [1] schedule, [0] register writes; reset 0 -/
abbrev RING_TRACE_CFG : Nat := 0x190101
abbrev RING_TRACE_CFG_PAGES : Fld := ⟨RING_TRACE_CFG, 2, 2⟩
abbrev RING_TRACE_CFG_SCHED : Fld := ⟨RING_TRACE_CFG, 1, 1⟩
abbrev RING_TRACE_CFG_REGS : Fld := ⟨RING_TRACE_CFG, 0, 0⟩
/-- R496: Byte address, 36 bits; per path -/
abbrev RING_MADDR : Nat := 0x190102
/-- R496: Per path (R476) -/
abbrev RING_MBUF (i : Nat) : Nat := 0x190140 + 1 * i

/-- The rows of block RING (R507). -/
def rowsRING : List RegRow := [
  ⟨0x190000, 8, 16, 1, 1, 1, .none, 0x80001f, 0, 0, 0, 0⟩,
  ⟨0x190001, 8, 16, 2, 1, 2, .none, 0xffffff000, 0, 0, 0, 0⟩,
  ⟨0x190003, 8, 16, 1, 1, 1, .none, 0xffffff, 0, 0, 0, 0⟩,
  ⟨0x190004, 8, 16, 1, 1, 1, .none, 0xffffff, 0, 0, 0, 0⟩,
  ⟨0x190005, 8, 16, 1, 1, 1, .none, 0, 0, 0, 0, 0⟩,
  ⟨0x190006, 8, 16, 1, 1, 1, .none, 0, 0, 2, 0, 0⟩,
  ⟨0x190100, 0x10000, 1, 1, 1, 1, .none, 0x1000ff, 0, 0x400000, 0, 0x200000⟩,
  ⟨0x190101, 0x10000, 1, 1, 1, 1, .none, 7, 0, 0, 0, 0⟩,
  ⟨0x190102, 0x10000, 1, 2, 1, 2, .none, 0xfffffffff, 0, 0, 0, 0⟩,
  ⟨0x190140, 0x10000, 1, 1, 64, 1, .none, 0xffffff, 0, 0, 0, 0⟩]

/-- R497: [7:4] IRQ_SEV, [3:0] REC_SEV; reset skein -/
abbrev EVT_CFG : Nat := 0x1a0000
abbrev EVT_CFG_IRQ_SEV : Fld := ⟨EVT_CFG, 7, 4⟩
abbrev EVT_CFG_REC_SEV : Fld := ⟨EVT_CFG, 3, 0⟩
/-- R497: [16] LOST: sets at each record dropped from ring 5 (R486); [15:0] bit k: range 0xk00–0xkFF -/
abbrev EVT_SUMMARY : Nat := 0x1a0001
abbrev EVT_SUMMARY_LOST : Fld := ⟨EVT_SUMMARY, 16, 16⟩
/-- R497: [16:0] 1 masks the summary bit; reset 0 -/
abbrev EVT_MASK : Nat := 0x1a0002
/-- R497: u24, saturating -/
abbrev EVT_DROPS : Nat := 0x1a0003

/-- The rows of block EVT (R507). -/
def rowsEVT : List RegRow := [
  ⟨0x1a0000, 0x10000, 1, 1, 1, 1, .none, 0xff, 0, 0, 0, 0⟩,
  ⟨0x1a0001, 0x10000, 1, 1, 1, 1, .none, 0, 0, 0x1ffff, 0, 0⟩,
  ⟨0x1a0002, 0x10000, 1, 1, 1, 1, .none, 0x1ffff, 0, 0, 0, 0⟩,
  ⟨0x1a0003, 0x10000, 1, 1, 1, 1, .none, 0, 0, 0, 0, 0⟩]

/-- R498: GIO n -/
abbrev PAD_GIO_CFG (i : Nat) : Nat := 0x1b0000 + 1 * i
abbrev PAD_GIO_CFG_FUNC (i : Nat) : Fld := ⟨PAD_GIO_CFG i, 23, 21⟩
abbrev PAD_GIO_CFG_TRACK (i : Nat) : Fld := ⟨PAD_GIO_CFG i, 20, 19⟩
abbrev PAD_GIO_CFG_INV (i : Nat) : Fld := ⟨PAD_GIO_CFG i, 18, 18⟩
abbrev PAD_GIO_CFG_OD (i : Nat) : Fld := ⟨PAD_GIO_CFG i, 17, 17⟩
abbrev PAD_GIO_CFG_EVT (i : Nat) : Fld := ⟨PAD_GIO_CFG i, 16, 16⟩
abbrev PAD_GIO_CFG_FILT_N (i : Nat) : Fld := ⟨PAD_GIO_CFG i, 7, 0⟩
/-- R498: [15:0] filtered levels -/
abbrev PAD_GIO_IN : Nat := 0x1b0010
/-- R498: [15:0] levels for FUNC 1; reset 0 -/
abbrev PAD_GIO_OUT : Nat := 0x1b0011
/-- R498: [23] POL, [22] FORCE_EN, [21] FORCE_LVL: 1 active, 0 inactive, mapped through POL (R494);  -/
abbrev PAD_PEV_CFG (i : Nat) : Nat := 0x1b0020 + 1 * i
abbrev PAD_PEV_CFG_POL (i : Nat) : Fld := ⟨PAD_PEV_CFG i, 23, 23⟩
abbrev PAD_PEV_CFG_FORCE_EN (i : Nat) : Fld := ⟨PAD_PEV_CFG i, 22, 22⟩
abbrev PAD_PEV_CFG_FORCE_LVL (i : Nat) : Fld := ⟨PAD_PEV_CFG i, 21, 21⟩
/-- R498: [7:0] scheduled state, 1 active -/
abbrev PAD_PEV_STATE : Nat := 0x1b0028

/-- The rows of block PAD (R507). -/
def rowsPAD : List RegRow := [
  ⟨0x1b0000, 0x10000, 1, 1, 16, 1, .none, 0xff00ff, 0, 0, 0, 0⟩,
  ⟨0x1b0010, 0x10000, 1, 1, 1, 1, .none, 0, 0, 0, 0, 0⟩,
  ⟨0x1b0011, 0x10000, 1, 1, 1, 1, .none, 0xffff, 0, 0, 0, 0⟩,
  ⟨0x1b0020, 0x10000, 1, 1, 8, 1, .none, 0xe00000, 0, 0, 0, 0⟩,
  ⟨0x1b0028, 0x10000, 1, 1, 1, 1, .none, 0, 0, 0, 0, 0⟩]

/-- R449: Life cycle -/
abbrev SEC_LC_STATUS : Nat := 0x1c0000
abbrev SEC_LC_STATUS_STATE : Fld := ⟨SEC_LC_STATUS, 23, 21⟩
abbrev SEC_LC_STATUS_K : Fld := ⟨SEC_LC_STATUS, 20, 16⟩
abbrev SEC_LC_STATUS_SIGN_EN : Fld := ⟨SEC_LC_STATUS, 15, 15⟩
abbrev SEC_LC_STATUS_VFUSE_OK : Fld := ⟨SEC_LC_STATUS, 14, 14⟩
abbrev SEC_LC_STATUS_LC_BUSY : Fld := ⟨SEC_LC_STATUS, 13, 13⟩
abbrev SEC_LC_STATUS_LC_REJ : Fld := ⟨SEC_LC_STATUS, 12, 12⟩
abbrev SEC_LC_STATUS_REJ_CAUSE : Fld := ⟨SEC_LC_STATUS, 11, 8⟩
/-- R449: [2:0] state requested, as STATE -/
abbrev SEC_LC_TARGET : Nat := 0x1c0001
abbrev SEC_LC_TARGET_STATE : Fld := ⟨SEC_LC_TARGET, 2, 0⟩
/-- R449: Confirmation (R445) -/
abbrev SEC_LC_CTRL : Nat := 0x1c0002
/-- R449: DIE_ID, least significant word first; word 2 bits 15:0 -/
abbrev SEC_DIE_ID : Nat := 0x1c0003
/-- R449: MAC; word 1 bits 23:0 hold bits 47:24 -/
abbrev SEC_MAC : Nat := 0x1c0006

/-- The rows of block SEC (R507). -/
def rowsSEC : List RegRow := [
  ⟨0x1c0000, 0x10000, 1, 1, 1, 1, .none, 0, 0, 0x1000, 0, 0⟩,
  ⟨0x1c0001, 0x10000, 1, 1, 1, 1, .none, 7, 0, 0, 0, 0⟩,
  ⟨0x1c0002, 0x10000, 1, 1, 1, 1, .none, 0, 0, 0, 0, 0xffffff⟩,
  ⟨0x1c0003, 0x10000, 1, 3, 1, 3, .none, 0, 0, 0, 0, 0⟩,
  ⟨0x1c0006, 0x10000, 1, 2, 1, 2, .none, 0, 0, 0, 0, 0⟩]

/-- The rows of the block whose top address byte is `b` (R500); the NOZ block is all window. -/
def blockRows : Nat → List RegRow
  | 0 => rowsSYS
  | 1 => rowsSKN
  | 2 => rowsPOS
  | 3 => rowsLCK
  | 4 => rowsPGE
  | 5 => rowsCMP
  | 6 => rowsSCR
  | 10 => rowsHLK
  | 11 => rowsINS
  | 12 => rowsALN
  | 13 => rowsSHT
  | 14 => rowsAXS
  | 15 => rowsTWN
  | 16 => rowsLAN
  | 17 => rowsWAL
  | 18 => rowsTIM
  | 19 => rowsETH
  | 20 => rowsDRM
  | 21 => rowsSTO
  | 22 => rowsBST
  | 23 => rowsTRM
  | 24 => rowsCNT
  | 25 => rowsRING
  | 26 => rowsEVT
  | 27 => rowsPAD
  | 28 => rowsSEC
  | _ => []

/-- Where `a` lies in a row: the first word of its register and its word number, if it does. -/
def RegRow.locate (r : RegRow) (a : Nat) : Option (Nat × Nat) :=
  if a < r.base then none
  else
    let off := a - r.base
    if off / r.stride < r.count ∧ off % r.stride / r.stride2 < r.count2 ∧ off % r.stride % r.stride2 < r.words then
      some (a - off % r.stride % r.stride2, off % r.stride % r.stride2)
    else none

/-- What a word address holds: the access masks of that word, its boundary, and its place in its value (R9, R12). -/
structure WordInfo where
  first : Nat
  word : Nat
  words : Nat
  bnd : Bnd
  rw : Word
  rwb : Word
  w1c : Word
  w1s : Word
  wo : Word
deriving DecidableEq, Repr

/-- The part of a whole-value mask that falls on word `w`. -/
def maskWord (m w : Nat) : Word := BitVec.ofNat 24 (m / 2 ^ (24 * w))

def RegRow.info (r : RegRow) (p : Nat × Nat) : WordInfo :=
  ⟨p.1, p.2, r.words, r.bnd, maskWord r.rw p.2, maskWord r.rwb p.2, maskWord r.w1c p.2, maskWord r.w1s p.2, maskWord r.wo p.2⟩

/-- The first row that holds `a`. -/
def findRow : List RegRow → Nat → Option WordInfo
  | [], _ => none
  | r :: rs, a =>
    match r.locate a with
    | some p => some (r.info p)
    | none => findRow rs a

/-- The reset values other than 0 that the spec states (R15 and the chapters' tables); all others are 0 (the spec's 0, or
assumption 1 where it states none). Each row: base, stride, count, whole value. -/
def resetRows : List (Nat × Nat × Nat × Nat × Nat) := [
  (0x000000, 0x10000, 1, 1, 0x324400),
  (0x000001, 0x10000, 1, 1, 0x10101),
  (0x010005, 0x10000, 1, 1, 0xffff),
  (0x020004, 0x20, 8, 1, 0x20),
  (0x030010, 0x10000, 1, 1, 0x2),
  (0x040007, 0x20, 4, 1, 0xffffff),
  (0x040101, 0x10000, 1, 1, 0xffffff),
  (0x040121, 8, 4, 1, 0x40),
  (0x050004, 0x10000, 1, 1, 0xf00f0),
  (0x0c0020, 0x10000, 1, 1, 0x72000),
  (0x0d000a, 0x10000, 1, 1, 0x100000),
  (0x0f0002, 0x10000, 1, 1, 0x2000),
  (0x0f0005, 0x10000, 1, 1, 0x1),
  (0x110003, 0x10000, 1, 1, 0x1),
  (0x110008, 0x10000, 1, 1, 0xff),
  (0x120008, 0x10000, 1, 2, 0x200000000),
  (0x160000, 0x10000, 1, 1, 0x8c01f4),
  (0x160003, 0x10000, 1, 1, 0x780000),
  (0x170000, 0x10000, 1, 1, 0xa),
  (0x170019, 0x10000, 1, 1, 0x3482f8),
  (0x17001a, 0x10000, 1, 1, 0x28)]

/-- The reset value of the word at `a`, from `resetRows`. -/
def resetFrom : List (Nat × Nat × Nat × Nat × Nat) → Nat → Word
  | [], _ => 0
  | (b, st, n, w, v) :: rs, a =>
    if b ≤ a ∧ (a - b) / st < n ∧ (a - b) % st < w then BitVec.ofNat 24 (v / 2 ^ (24 * ((a - b) % st)))
    else resetFrom rs a

/-- The sine table's reset values, Q(i) = round(1,023 × sin(i × 90° / 256)) (R263). -/
def sineReset : List Nat := [
  0, 6, 13, 19, 25, 31, 38, 44, 50, 56, 63, 69, 75, 82, 88, 94,
  100, 107, 113, 119, 125, 131, 138, 144, 150, 156, 163, 169, 175, 181, 187, 193,
  200, 206, 212, 218, 224, 230, 236, 242, 249, 255, 261, 267, 273, 279, 285, 291,
  297, 303, 309, 315, 321, 327, 333, 339, 345, 351, 356, 362, 368, 374, 380, 386,
  391, 397, 403, 409, 415, 420, 426, 432, 437, 443, 449, 454, 460, 466, 471, 477,
  482, 488, 493, 499, 504, 510, 515, 521, 526, 531, 537, 542, 547, 553, 558, 563,
  568, 574, 579, 584, 589, 594, 599, 604, 609, 614, 619, 624, 629, 634, 639, 644,
  649, 654, 659, 663, 668, 673, 678, 682, 687, 692, 696, 701, 705, 710, 714, 719,
  723, 728, 732, 737, 741, 745, 750, 754, 758, 762, 766, 771, 775, 779, 783, 787,
  791, 795, 799, 803, 806, 810, 814, 818, 822, 825, 829, 833, 836, 840, 844, 847,
  851, 854, 858, 861, 864, 868, 871, 874, 877, 881, 884, 887, 890, 893, 896, 899,
  902, 905, 908, 911, 914, 917, 919, 922, 925, 927, 930, 933, 935, 938, 940, 943,
  945, 948, 950, 952, 954, 957, 959, 961, 963, 965, 967, 969, 971, 973, 975, 977,
  979, 981, 983, 984, 986, 988, 989, 991, 992, 994, 995, 997, 998, 999, 1001, 1002,
  1003, 1005, 1006, 1007, 1008, 1009, 1010, 1011, 1012, 1013, 1014, 1015, 1015, 1016, 1017, 1017,
  1018, 1019, 1019, 1020, 1020, 1021, 1021, 1021, 1022, 1022, 1022, 1023, 1023, 1023, 1023, 1023]

/-- What a word of the register space holds after reset: the stated value, R134's 0x80_00_00 for a nozzle word, the
sine table of R263, and 0 everywhere else (assumption 1 where the spec states none). -/
def resetWord (a : Nat) : Word :=
  if 0x080000 ≤ a ∧ a < 0x0a0000 then 0x800000#24
  else if 0x0e1000 ≤ a ∧ a < 0x0e1100 then BitVec.ofNat 24 (sineReset.getD (a - 0x0e1000) 0)
  else resetFrom resetRows a

end Sys2Proof.Machine
end

