-- ==== Sys2Proof/Machine/Tab.lean ====
section
/-!
DEFINITION. Sparse tables: a list of key and value pairs with keys strictly rising and no entry equal to what an unlisted
key reads as. Register words, image memory and every group of like units (encoders, tracks, ports, ...) are held so.
-/

namespace Sys2Proof.Machine

/-- The value at a key: the listed one, else what the default gives. -/
def Tab.get {α : Type} (d : Nat → α) : List (Nat × α) → Nat → α
  | [], k => d k
  | e :: r, k => if e.1 = k then e.2 else Tab.get d r k

/-- The table with a value listed at a key, in the order of keys. -/
def Tab.ins {α : Type} : List (Nat × α) → Nat → α → List (Nat × α)
  | [], k, v => [(k, v)]
  | e :: r, k, v => if e.1 < k then e :: Tab.ins r k v else if e.1 = k then (k, v) :: r else (k, v) :: e :: r

/-- The table with a new value at a key, in canonical form: what the key reads as anyway is not listed. -/
def Tab.put {α : Type} [DecidableEq α] (d : Nat → α) (t : List (Nat × α)) (k : Nat) (v : α) : List (Nat × α) :=
  if v = d k then t.filter (fun e => e.1 != k) else Tab.ins t k v

/-- Every key of the table is above the bound. -/
def Tab.above {α : Type} (b : Nat) (t : List (Nat × α)) : Bool :=
  t.all fun e => b < e.1

/-- The canonical form: keys strictly rise and no entry equals the default. -/
def Tab.wf {α : Type} [DecidableEq α] (d : Nat → α) : List (Nat × α) → Bool
  | [] => true
  | e :: r => decide (e.2 ≠ d e.1) && Tab.above e.1 r && Tab.wf d r

end Sys2Proof.Machine
end

