-- ==== Sys2Proof/Machine/State.lean ====
section
/-!
DEFINITION. The state of the block. `regs` holds every register and window word in force; the structures hold what
stands behind the registers. Time is counted in POS clocks of 4 ns (R43). Positions are in 1/256 count. Every table is
a sparse list in the canonical form of `Tab.wf`.
-/

namespace Sys2Proof.Machine

/-- A written RWB value that waits for its boundary (R9, R10). `done` lists the views, tracks 0 to 3 and 4 for unowned
positions, for which a page-bound value is already in force (R33). -/
structure Held where
  addr : Nat
  val : Word
  bnd : Bnd
  done : List Nat
deriving DecidableEq, Repr

/-- A raised event before it is posted on ring 5 (R489, R491). `line` is 0 where the line clock was not running; `ctl` is its CTL clock. -/
structure Ev where
  code : Nat
  inst : Nat
  d0 : Nat
  d1 : Nat
  sec : Nat
  ns : Nat
  unlocked : Bool
  posValid : Bool
  pos : Nat
  line : Nat
  ctl : Nat
deriving DecidableEq, Repr

/-- One input filter (R48). -/
structure Filt where
  out : Bool
  run : Nat
deriving DecidableEq, Repr

/-- An encoder behind its registers (R47 to R63). `delta` itself is POS_INTERVAL. -/
structure Enc where
  a : Filt
  b : Filt
  z : Filt
  pinA : Bool
  pinB : Bool
  pinZ : Bool
  edge : Option Nat
  valid : Bool
  drop : Bool
  hist : List Bool
  zArmed : Bool
  idxPrev : Option (Int × Bool)
  mism : Nat
deriving DecidableEq, Repr

def Enc.init : Enc := ⟨⟨false, 0⟩, ⟨false, 0⟩, ⟨false, 0⟩, false, false, false, none, false, false, [], false, none, 0⟩

/-- The token of one line trigger (R44): fire number, the line index of each track, the master position, local time in 2^-16 ns at the
interpolated compare instant, the line's compare value, that instant T(n) in ps of the POS time base, the POS clock that issued it, and
whether it was skipped (R30). -/
structure Trig where
  fire : Nat
  lines : List Nat
  pos : Int
  local16 : Int
  cRaw : Int
  tps : Int
  clk : Nat
  skipped : Bool
deriving DecidableEq, Repr

/-- The line clock behind its registers (R59 to R73): `h` is H of R75, `fSw` the F_sw of R60, `lastIssue` the POS clock of
the latest trigger that was not skipped, `warned` the state of R73, `trigs` the latest triggers, newest first, `stalled` that the front
entry of ring 11 is blocked (R78), `ranAt` and `ran` the latest POS clock in which entries executed and how many (R75). -/
structure Lck where
  h : Int
  fSw : Int
  lastIssue : Option Nat
  warned : Bool
  trigs : List Trig
  stalled : Bool
  ranAt : Nat
  ran : Nat
deriving DecidableEq, Repr

/-- A position-schedule entry (R80). `fromRing` marks an entry that came from ring 11 (R74, R78), `fromIns` one of INS
(R216). -/
structure SchedEntry where
  pos : Int
  kind : Nat
  arg0 : Nat
  arg1 : Nat
  tag : Nat
  fromRing : Bool
  fromIns : Bool
deriving DecidableEq, Repr

/-- A PEV output (R82, R494): a level set by PEV_LEVEL, and the ends of a pulse in progress, in POS clocks and in H. -/
structure Pev where
  level : Bool
  endUs : Option Nat
  endH : Option Int
deriving DecidableEq, Repr

def Pev.init : Pev := ⟨false, none, none⟩

/-- One enabled layer of a started page (R98 to R111). `desc` holds the eight descriptor words taken at the start; `live`
is false for an unusable descriptor; `chunks` are the 64-byte bursts read, by coded line and number from BASE, of which `badC` were
uncorrectable; `offs` the offsets of the coded lines located; `stopped` ends its bursts (R103); from coded line `endLine` on, in shuttle
mode from that line of the pass on, it is transparent (R111, R243); `refs` holds per cell the last decoded line and its pixels; `err` that
a codec error occurred on it. -/
structure Layer where
  slot : Nat
  bd : Nat
  gen : Nat
  desc : List Nat
  live : Bool
  stopped : Bool
  endLine : Option Nat
  chunks : List (Nat × Nat × List Byte)
  badC : List (Nat × Nat)
  offs : List (Nat × Nat)
  refs : List (Nat × Nat × List Nat)
  err : Bool
deriving DecidableEq, Repr

/-- A started page (R92 to R105). `start` is the line index of its first line, `cRaw` that line's compare value, `fetched`
the number of its lines completely fetched or in need of no fetch, as far as counted; `lastAt` the time T of its last line once triggered; `test` the ALN_TP_CFG word
of a test page; `theta` the θ a pairing has taken for its boundary, by head (R294). -/
structure Page where
  words : List Nat
  start : Nat
  len : Nat
  gap : Nat
  last : Bool
  tag : Nat
  cRaw : Int
  layers : List Layer
  bounded : Bool
  fetched : Nat
  violation : Bool
  codec : Bool
  underrun : Bool
  aborted : Bool
  released : Bool
  stalled : Bool
  lastAt : Option Int
  doneRaised : Bool
  test : Option Nat
  theta : List (Nat × Nat)
deriving DecidableEq, Repr

/-- A track behind its registers (R87 to R97). `follow` is the line index and compare value where the next page starts;
`first` a first page's descriptor that waits for its cue, with the line index at which it was consumed, the word of a test page and the θ taken; `taken` whether a
first descriptor was consumed since ARM; `armAt` the line index at ARM; `cue` position and line index at the cue edge;
`ended` that a LAST page was started; `emptySeen` that the page ring was empty when a descriptor was due; `old` pages of a finished or
aborted run that wait for their release or for PAGE_DONE. -/
structure Trk where
  pages : List Page
  follow : Option (Nat × Int)
  first : Option (List Nat × Nat × Option Nat × List (Nat × Nat))
  taken : Bool
  armAt : Nat
  cue : Option (Int × Nat)
  ended : Bool
  abortWait : Bool
  emptySeen : Bool
  old : List Page
deriving DecidableEq, Repr

def Trk.init : Trk := ⟨[], none, none, false, 0, none, false, false, false, []⟩

/-- The started pages of a track, oldest first. -/
def Trk.all (x : Trk) : List Page := x.old ++ x.pages

/-- A datagram in a reorder slot (R115, R119); its `len` payload bytes are staged in image memory. -/
structure Slot where
  seq : Nat
  typ : Nat
  target : Nat
  gen : Nat
  offset : Nat
  len : Nat
deriving DecidableEq, Repr

/-- An ingest stream (R118 to R122): the source it is bound to, with the Ethernet port and the address of its last datagram; slots
held; datagrams applied since the last ACK; whether anything changed since, and an ACK is due at once; when an ACK was sent last;
since when the next number is missing, requests sent for it, and when the last one was sent. -/
structure Stream where
  bound : Option (Nat × Source)
  slots : List Slot
  applied : Nat
  changed : Bool
  ackNow : Bool
  lastAck : Nat
  gapSince : Option Nat
  reqs : Nat
  lastReq : Nat
deriving DecidableEq, Repr

def Stream.init : Stream := ⟨none, [], 0, false, false, 0, none, 0, 0⟩

/-- The position store of one cell and line (R126, R127): how many positions are gathered, and their composite and
pre-screened codes; positions beyond `vals` are (0, 0). -/
structure Gather where
  line : Nat
  cell : Nat
  upto : Nat
  vals : List (Nat × Nat)
deriving DecidableEq, Repr

/-- The composed codes of one port for one fire number (R128, R142), with the rung they were composed at and
whether data was missing, and the delays of its LINE frame: WHOLE of each slot and FRAC of each row (R180, R182). -/
structure PortLine where
  fire : Nat
  port : Nat
  rung : Nat
  codes : List Nat
  under : Bool
  whole : List Nat
  frac : List Nat
deriving DecidableEq, Repr

/-- A stake handover in progress (R152): the line `g`, none before its gather has begun. -/
structure Handover where
  stake : Nat
  toBye : Bool
  g : Nat
deriving DecidableEq, Repr

/-- Composition and screening behind their registers (R125 to R153). `gathered` holds the last line each cell has gathered;
`hold` the ports whose nozzle phases give 0 (R191). A page-bound exchange is kept as the bank in use before it and the views
that have switched. -/
structure Cmp where
  gathered : List (Nat × Nat)
  store : List Gather
  lines : List PortLine
  hold : Nat
  toneAct : List (Nat × Bool)
  toneDone : List (Nat × List Nat)
  tonePend : List Nat
  tone : List (Nat × Nat)
  thr : List (Nat × Word)
  thrAct : Bool
  thrDone : List Nat
  hand : Option Handover
  lostRaised : List (Nat × Nat)
deriving DecidableEq, Repr

def Cmp.init : Cmp := ⟨[], [], [], 0, [], [], [], [], [], false, [], none, []⟩

/-- A downstream frame that has started on a head port (R175): its type, fire number, end in ps, and payload. -/
structure FrameOut where
  typ : Nat
  fire : Nat
  endPs : Int
  body : List Byte
deriving DecidableEq, Repr

/-- A head port behind its registers (R171 to R194). `idents` sent since LANE; `tag` of the latest ECHO_REQ and when it or the
latest IDENT was sent; `samples` of MEASURE; `lastFire` the last fire number whose FIRE has departed or counts so, `lastLine` the
last one whose LINE frame was decided, `lines` the LINE frames that ended or run, with whether they fire nothing; `late` the last
line reported late; `resume` until the first LINE frame after READY; `frame` in progress and when a frame started last; `lastStatus`
when a STATUS arrived, `seq` its number, `silent` that its loss was reported; `coolHold`, `coolWarn` reports toward the ends of
R192 and R193; `ownHold`, `ownWarn` the unit's own decisions; `blankTo` the last line that stays blank after a hold. -/
structure Port where
  idents : Nat
  tag : Nat
  askAt : Nat
  samples : List Int
  lastFire : Nat
  lastLine : Nat
  lines : List (Nat × Bool)
  late : Nat
  resume : Bool
  frame : Option FrameOut
  frameAt : Nat
  lastStatus : Nat
  seq : Option Nat
  silent : Bool
  coolHold : Nat
  coolWarn : Nat
  ownHold : Bool
  ownWarn : Bool
  blankTo : Nat
  sleepAt : Nat
deriving DecidableEq, Repr

def Port.init : Port := ⟨0, 0, 0, [], 0, 0, [], 0, false, none, 0, 0, none, false, 0, 0, false, false, 0, 0⟩

/-- A head-end access in progress (R172, R197), with the type and payload of its frame while that waits for its port (R176). -/
structure Mbx where
  port : Nat
  count : Nat
  read : Bool
  start : Nat
  out : Option (Nat × List Byte)
deriving DecidableEq, Repr

/-- A camera behind its registers (R200 to R204, R218): its compare and the fire number it images next, the outstanding trigger
(fire number, POS clock, position), matched lines that wait for the correlator, when it was heard last, and P_mark. -/
structure Cam where
  cmp : Option Int
  nextFire : Nat
  outst : Option (Nat × Nat × Int)
  queue : List (Nat × Int × List Nat)
  lastHeard : Nat
  mark : Option Int
deriving DecidableEq, Repr

def Cam.init : Cam := ⟨none, 0, none, [], 0, none⟩

/-- One region of a page under check (R213, R214): its ranges, bad pixels so far, whether items 1, 2 and 4 have failed, and the
first failing item once decided, 0 for none. -/
structure RegCheck where
  idx : Nat
  x0 : Nat
  x1 : Nat
  y0 : Nat
  y1 : Nat
  bad : Nat
  uncov : Bool
  lost : Bool
  marred : Bool
  item : Option Nat
deriving DecidableEq, Repr

/-- A page whose code regions are being checked (R213 to R215): its first line by line index and by fire number, the lines
triggered so far, and whether item 5 has failed. -/
structure RegPage where
  track : Nat
  start : Nat
  fire : Nat
  len : Nat
  tag : Nat
  cRaw : Int
  seen : Nat
  err5 : Bool
  aborted : Bool
  checks : List RegCheck
deriving DecidableEq, Repr

/-- Samples of the solver under one key: count, sum and sum of squares, in 1/16 position. -/
structure Stat where
  n : Nat
  sum : Int
  sq : Nat
deriving DecidableEq, Repr

/-- What is in force of a head during a test page (R233): the shift, the edge word, the row delays and ALN_THETA. -/
structure TpBase where
  shift : Int
  edge : Nat
  dly : List Nat
  theta : Nat
deriving DecidableEq, Repr

/-- A test page requested or under way (R219 to R226): ALN_TP_CFG and ALN_TP_TAG as taken, its first line by line index and by
fire number once started, what was in force of each head at its boundary, its samples, and per slot the dashes looked for and missing. -/
structure TpRun where
  w : Nat
  tag : Nat
  started : Option (Nat × Nat)
  len : Nat
  base : List (Nat × TpBase)
  stats : List (Nat × Stat)
  dashes : List (Nat × (Nat × Nat))
deriving DecidableEq, Repr

/-- What the alignment sets give a head (R228 to R230): the sets below and above, the shift, the four edge fields of a
nozzle row, and the row delays, where the sets carry them; `mis` where their flags differ. -/
structure AlnVal where
  on : Bool
  a : Nat
  b : Nat
  shift : Int
  edge : Option Nat
  dly : Option (List Nat × List Nat)
  mis : Bool
deriving DecidableEq, Repr

def AlnVal.off : AlnVal := ⟨false, 0, 0, 0, none, none, false⟩

/-- A version of a head's alignment values and the views that have taken it (R33, R230). -/
structure AlnVer where
  val : AlnVal
  done : List Nat
deriving DecidableEq, Repr

/-- Inspection and alignment behind their registers. `scores` holds score + 256 × REPORTED of a slot; `due` the slots at DECLARE
that wait for a later line (R211); `dark` ports known to fire blank on lines not yet triggered. -/
structure Ins where
  scores : List (Nat × Nat)
  due : List Nat
  dark : List (Nat × Nat)
  regs : List RegPage
  markers : List (Nat × SchedEntry)
  values : List (Nat × List AlnVer)
  tp : Option TpRun
deriving DecidableEq, Repr

/-- The beacon estimate of the master (R354, R355): position at local time `tb`, velocity, and the slew in progress. -/
structure Bcn where
  pb : Int
  vel : Int
  tb : Nat
  seq : Option Nat
  slewE : Int
  ta : Nat
  ts : Nat
  heard : Nat
deriving DecidableEq, Repr

/-- Local time (R359): in units of 2^-32 ns it was `base` at POS clock `since`. -/
structure Tim where
  base : Nat
  since : Nat
deriving DecidableEq, Repr

/-- A ratio of a gearing slot: microsteps per count (R278). -/
structure Ratio where
  n : Int
  d : Nat
deriving DecidableEq, Repr

/-- The gearing of a coupled axis (R277, R278): the command rebases at `aN / aD` microsteps and `pSw` in 1/256 count; `r1`
is the ratio a ramp over `ramp` counts leads to; `defer` a slot waiting for the ramp's end. -/
structure Gear where
  aN : Int
  aD : Nat
  pSw : Int
  r0 : Ratio
  r1 : Option Ratio
  ramp : Nat
  defer : Option Nat
  lagSeen : Bool
deriving DecidableEq, Repr

/-- One coil's chopper (R266 to R268): state 0 BLANK, 1 DRIVE, 2 DECAY, 3 ZERO; `fast` while the decay is fast; `due` the instant of the
cycle's sample, `adcAt` when the latest sample began. -/
structure Coil where
  st : Nat
  fast : Bool
  start : Nat
  due : Nat
  adcAt : Option Nat
  decayAt : Nat
  prevDrive : Nat
  t : Int
  tHi : Nat
  tLo : Nat
  acc : Int
  ofs : Int
deriving DecidableEq, Repr

def Coil.init : Coil := ⟨3, true, 0, 0, none, 0, 0, 0, 0, 0, 0, 0⟩

/-- An axis behind its registers (R256 to R279). Velocity and acceleration carry 32 fraction bits (R258); `rem` is the
fraction of a microstep carried, in 2^-32 x 10^-6 microstep; `tick` the microsecond of the latest tick. `goal` is the point the planner moves to, `final` the target
that follows a reversal (R261). `phase` of homing: 0 none, 1 backing off, 2 approach, 3 lockout, 4 at rest. Of STEP (R255): the last
direction and when DIR showed it, whether a pulse was sent, and the starts of the first and the last pulse of the latest train. -/
structure Ax where
  v : Int
  a : Int
  rem : Int
  goal : Option Int
  final : Option Int
  limDec : Bool
  phase : Nat
  hFrom : Int
  hCount : Int
  hTrans : Nat
  p0 : Int
  c0 : Int
  stalls : Nat
  gear : Option Gear
  coils : List Coil
  sw : List Filt
  lastDir : Bool
  dirAt : Nat
  stepSeen : Bool
  stepFrom : Nat
  stepAt : Nat
  lastCheck : Nat
  tick : Nat
deriving DecidableEq, Repr

def Ax.init : Ax :=
  ⟨0, 0, 0, none, none, false, 0, 0, 0, 0, 0, 0, 0, none, [Coil.init, Coil.init],
    [⟨false, 0⟩, ⟨false, 0⟩, ⟨false, 0⟩], false, 0, false, 0, 0, 0, 0⟩

/-- Shuttle mode behind its registers (R239 to R251). `i` triggers of the pass are issued, of which `fired` were fired and
`cols` fired a column; `hiM` is the highest M of the pass; the feed path is `path` since `feedFrom`; `below` that the carriage
was short of the arm position; `firstFire` the fire number of the pass's first line. Positions are in 1/256 count. -/
structure Sht where
  i : Nat
  fired : Nat
  cols : Nat
  hiM : Int
  below : Bool
  path : Nat
  lastP : Int
  feedFrom : Int
  feedSteps : Int
  feeding : Bool
  firstFire : Nat
deriving DecidableEq, Repr

def Sht.init : Sht := ⟨0, 0, 0, 0, false, 0, 0, 0, 0, false, 0⟩

/-- An agreed change that waits for its line (R295): change type 0 nozzle word, 1 thermal, 2 rung, 3 paired write. `acked` is
set once the partner is known to hold it: once it has received the heartbeat `seq` that followed the change; `seq` is 256 for one that came from
the partner. -/
structure Agr where
  fire : Nat
  typ : Nat
  addr : Nat
  val : Nat
  acked : Bool
  seq : Nat
deriving DecidableEq, Repr

/-- A mirrored entry a standby has still to act on (R294): its ring, the fire number carried, its words, and the θ carried by head. -/
structure Mirrored where
  ring : Nat
  fire : Nat
  words : List Nat
  thetas : List (Nat × Nat)
deriving DecidableEq, Repr

/-- A pairing behind its registers (R282 to R306). `arbAt` the POS clock at which ARBITRATE was entered; `refused` that
CLAIM_REFUSED was raised for the present release; `seq` and `ptSeq` the heartbeat numbers, `sentAt` when one was sent and `hbAt` when the
partner was last heard, `ptState` its state, `held` and `ptHeld` consecutive heartbeats with CLAIM_HELD, `clash` that CLAIM_CONFLICT was
raised for them, `ptSenior` its strap; `claimRun` the samples in a row that differ from the accepted level of CLAIM_N; `pwSeq` the heartbeat that will tell that
the partner holds the paired write in hand; `epoch` the newest epoch seen upstream; `sums` consecutive heartbeats with unequal sums; `portsAt`
since when each port that counts for PORTS has been out of READY; `agreed` the changes that wait; `wait` the mirrored entries that the own ring does not hold yet, `part` the
first half of a mirror message, `thIn` the θ received for it, `due` the mirrored entries to act on, `thetas` the θ in use at the present
page; `own` and `pt` the SHADOW CRCs not yet compared, `mism` the fire numbers of mismatching lines, `good` consecutive matches. Of a
resynchronisation: the snapshot items received, the join line and the line from which the shadow compare starts, and the counts checked. -/
structure Twn where
  arbAt : Nat
  refused : Bool
  seq : Nat
  ptSeq : Nat
  sentAt : Nat
  hbAt : Nat
  ptState : Nat
  held : Nat
  ptHeld : Nat
  clash : Bool
  ptSenior : Bool
  claimRun : Nat
  pwSeq : Option Nat
  epoch : Nat
  sums : Nat
  portsAt : List (Nat × Nat)
  agreed : List Agr
  wait : List (Nat × List Nat)
  part : Option (List Nat)
  thIn : List (Nat × Nat)
  thetas : List (Nat × Nat)
  due : List Mirrored
  own : List (Nat × Nat)
  pt : List (Nat × Nat)
  mism : List Nat
  good : Nat
  snap : List (List Nat)
  join : Option Nat
  shadowAt : Option Nat
  checks : Nat
deriving DecidableEq, Repr

def Twn.init : Twn :=
  { arbAt := 0, refused := false, seq := 0, ptSeq := 0, sentAt := 0, hbAt := 0, ptState := 0, held := 0, ptHeld := 0, clash := false,
    ptSenior := false, claimRun := 0, pwSeq := none, epoch := 1, sums := 0, portsAt := [], agreed := [], wait := [], part := none, thIn := [], thetas := [],
    due := [], own := [], pt := [], mism := [], good := 0, snap := [], join := none, shadowAt := none, checks := 0 }

/-- A request that waits on a channel (R379, R380): its port, 14 for the controller's own; its class 0 a forced refresh or refresh
management, 1 print, 2 a refresh owed, 3 bulk, 4 patrol; its bank by rank and number; whether it writes; and when it `came`, in ps. -/
structure DReq where
  chan : Nat
  port : Nat
  cls : Nat
  bank : Nat
  write : Bool
  came : Int
deriving DecidableEq, Repr

/-- Image memory behind its registers (R379 to R392): `last` the latest request of each channel, `sr` that all channels are in
self-refresh or enter it, `srAt` when their entry commands have been issued; `owed` refreshes by channel, `forced` that REFRESH_FORCED was
raised in this latency-critical stretch; `rows` the tracker of each bank in slot order; `raa` the rolling activation counts by bank (R382)
and `raaMax` the count that asks for refresh management, as training read it, 0 before; `throt` the throttles as port, bank and end; `tset` the
words of the timing set in force as it was loaded (R387); `windowAt` and `trackAt` when the trackers were cleared and the oscillators tracked
last; `acts` the latest activation of a throttled port; `reqs` the requests that wait, `busy` when each channel is free again, in ps, `turn` of
each channel the bulk port whose turn it is with the grants it has left, `served` the latest commands issued as channel, class and port,
newest first, `stalls` the pauses of each port; `ceAt` the latest ECC_CORRECTED, `ues` the times of uncorrectable errors; `fc` the set a
change waits for. -/
structure Dram where
  last : List (Nat × Nat)
  sr : Bool
  srAt : Nat
  owed : List (Nat × Nat)
  forced : Bool
  rows : List (Nat × List (Nat × Nat))
  raa : List (Nat × Nat)
  raaMax : Nat
  throt : List (Nat × Nat × Nat)
  tset : List Nat
  windowAt : Nat
  trackAt : Nat
  acts : List (Nat × Int)
  reqs : List DReq
  busy : List (Nat × Int)
  turn : List (Nat × Nat × Nat)
  served : List (Nat × Nat × Nat)
  stalls : List (Nat × Nat)
  ceAt : Option Nat
  ues : List Nat
  fc : Option Nat
deriving DecidableEq, Repr

def Dram.init : Dram :=
  { last := [], sr := false, srAt := 0, owed := [], forced := false, rows := [], raa := [], raaMax := 0, throt := [], tset := [], windowAt := 0,
    trackAt := 0, acts := [], reqs := [], busy := [], turn := [], served := [], stalls := [], ceAt := none, ues := [], fc := none }

/-- A lane's receiver (R312 to R320). `win` the bits of the symbol or block under way, the last ten while a light receiver hunts, `cnt` how
many; `rd` that the running disparity is positive; `good` commas, or valid headers, in a row while it hunts; `bad` whether each of the last
64 symbols or headers was invalid; `frame` the bytes of a light-coded frame under way, latest first; of heavy coding `last` and `run` the
run of identical line bits, `spoilt` a stuffing error in the block, `gen` the generator once an ALIGN was passed, and `num` its ALIGN_NUM. -/
structure Rx where
  win : Nat
  cnt : Nat
  rd : Bool
  good : Nat
  bad : List Bool
  frame : Option (List Nat)
  last : Bool
  run : Nat
  spoilt : Bool
  gen : Option Nat
  num : Option Nat
deriving DecidableEq, Repr

def Rx.init : Rx := ⟨0, 0, false, 0, [], none, false, 0, false, none, none⟩

/-- A lane's transmitter (R312 to R321). `rd` and `skip` of light coding: the running disparity, and the symbols since the last Skip; `rest`
the symbols still to be sent from `free` on, an instant in ps; of heavy coding `last` and `run` after the latest block listed and `free` the
slot after it. `ts` the training set sent over and over since `since` in ps, and `seq` the SEQ of the next lane frame. -/
structure Tx where
  rd : Bool
  skip : Nat
  rest : List (Bool × Nat)
  free : Int
  last : Bool
  run : Nat
  ts : Option (List Nat)
  since : Int
  seq : Nat
deriving DecidableEq, Repr

def Tx.init : Tx := ⟨false, 0, [], 0, false, 0, none, 0, 0⟩

/-- A serial lane behind its registers (R322 to R333). `mask` are the rate codes still offered in this training; `since` the
POS clock of the first TS1 at the rate; `good` the last rate at which step 3 completed; `okRun` consecutive lane frames with
RX_OK, `tsRun` consecutive TS2 with the NEXT `tsNext`; `next` the NEXT sent in TS2 from `nextAt` on; `target` the rate a relock
leads to; `stAt` when FAILED, RECOVER or a relock was entered, `lockAt` when lock was gained; `swept` that the equaliser has settled at
the rate, `eqAt` when a LAN_EQ value began to wait; `lowSet` whether a lowest figure of merit is kept; `lowAt` since when it is below WARN,
`warned` that this was reported; `idleAt` the start of TX electrical idle, `sendFrom` when the owner may send after a wake,
`burstAt` the start of a wake burst; `rx` and `tx` the receiver and the transmitter. -/
structure Lane where
  mask : Nat
  since : Nat
  good : Nat
  rxOk : Bool
  okRun : Nat
  tsRun : Nat
  tsNext : Nat
  next : Option Nat
  nextAt : Nat
  falling : Bool
  target : Option Nat
  stAt : Nat
  lockAt : Nat
  swept : Bool
  eqAt : Nat
  lowSet : Bool
  lowAt : Option Nat
  warned : Bool
  idleAt : Nat
  sendFrom : Nat
  burstAt : Option Nat
  rx : Rx
  tx : Tx
deriving DecidableEq, Repr

def Lane.init : Lane :=
  { mask := 0, since := 0, good := 0, rxOk := false, okRun := 0, tsRun := 0, tsNext := 0, next := none, nextAt := 0, falling := false,
    target := none, stAt := 0, lockAt := 0, swept := false, eqAt := 0, lowSet := false, lowAt := none, warned := false, idleAt := 0,
    sendFrom := 0, burstAt := none, rx := Rx.init, tx := Tx.init }

/-- The eye scan in progress (R329, R330): its lane, the lane state it started in, when it was asked for and when it began, DWELL_LOG2,
whether it is aborted, whether another GO was refused meanwhile, and when it was aborted. -/
structure Scan where
  lane : Nat
  st : Nat
  start : Nat
  began : Option Nat
  dwell : Nat
  aborted : Bool
  refused : Bool
  stop : Nat
deriving DecidableEq, Repr

/-- A message that waits for a wale link's credits: its class in the order of R349, 1 PAIR, 2 BEACON, 3 forwarded, 4 own; the link it came
from, 3 for an own one; and its words with MTYPE alone in H0. -/
structure Queued where
  prio : Nat
  origin : Nat
  words : List Nat
deriving DecidableEq, Repr

/-- A wale link behind its registers (R347 to R349): buffered messages sent, FREED as last received and as sent, the last SEQ
received, messages waiting for credits, SW messages held for ring 14 with the ns of arrival, whether a stall is under way, when a
message left last, whether FREED changed since; TAG and t1 of the last TSYNC_REQ, in 2^-16 ns; `turn` the lane of the next light-coded frame or the
number of the next heavy-coded block, `extra` the ALIGN blocks sent beyond their cadence (R333); `early` messages received ahead of their
SEQ (R344). -/
structure Link where
  sent : Nat
  ptFreed : Nat
  freed : Nat
  seqIn : Nat
  queue : List Queued
  sw : List (Nat × List Nat)
  stalled : Bool
  lastOut : Nat
  owes : Bool
  tag : Nat
  t1 : Option Int
  turn : Nat
  extra : Nat
  early : List (Nat × List Nat)
deriving DecidableEq, Repr

def Link.init : Link := ⟨0, 0, 0, 0, [], [], false, 0, false, 0, none, 0, 0, []⟩

/-- What the wale holds beside its links: chip IDs heard on the ring port with when, when the own DISCOVER came back, when DISCOVER
and a beacon were sent last, SSEQ, ERR_b and the ns from t_b to arrival of the beacon in use, when ALT was heard,
and whether BEACON_LOST has been raised since the last beacon. -/
structure Wal where
  heard : List (Nat × Nat)
  ownBack : Option Nat
  disc : Nat
  sent : Nat
  sseq : Nat
  errB : Nat
  lag : Nat
  altAt : Option Nat
  lost : Bool
deriving DecidableEq, Repr

def Wal.init : Wal := ⟨[], none, 0, 0, 0, 0, 0, none, false⟩

/-- An armed output TTOn (R369): its settings taken at ARM, the next pulse by number, pulses left where they are counted, and
the end of a pulse in progress in ns. Times are in 2^-16 ns. -/
structure Tto where
  start : Int
  period : Nat
  width : Nat
  count : Nat
  periodic : Bool
  pol : Bool
  k : Nat
  endNs : Option Int
  ending : Bool
deriving DecidableEq, Repr

/-- A PTP master known from its Announce messages (R365). -/
structure Announce where
  id : Nat
  port : Nat
  key : List Nat
  seen : Nat
deriving DecidableEq, Repr

/-- An answer owed to a PTP request (R365, R366): to a Delay_Req or a Pdelay_Req, its source port identity, sequence number,
arrival in 2^-16 ns and correctionField. -/
structure PtpOwed where
  peer : Bool
  id : List Byte
  seq : Nat
  t2 : Int
  corr : Int
deriving DecidableEq, Repr

/-- Time behind its registers (R359 to R371). `acc` of the servo; `good` consecutive measurements within LOCK_NS; `main` and
`alt` when SOURCE and ALT last gave a measurement; `ttos` armed outputs; `fifos` of the capture inputs, `tcis` their filters.
Of the PTP port: masters heard, sequence numbers and last sendings by message type, a two-step Sync (number, arrival,
correction), the last t2 - t1 - correction, the request in progress (number, departure), a two-step Pdelay_Resp (number, arrival,
t2, correction), the mean path delay, and answers owed. `pps` is the filter of PPS_IN. PTP times are in 2^-16 ns. -/
structure Time where
  acc : Int
  good : Nat
  main : Nat
  alt : Nat
  ttos : List (Nat × Tto)
  fifos : List (Nat × List Int)
  tcis : List (Nat × Filt)
  masters : List Announce
  seqs : List (Nat × Nat)
  sentAt : List (Nat × Nat)
  sync : Option (Nat × Int × Int)
  ms : Option Int
  req : Option (Nat × Int)
  pd : Option (Nat × Int × Int × Int)
  path : Option Int
  owed : List PtpOwed
  pps : Filt
deriving DecidableEq, Repr

def Time.init : Time := ⟨0, 0, 0, 0, [], [], [], [], [], [], none, none, none, none, none, [], ⟨false, 0⟩⟩

/-- The NAND geometry found (R397, R398): page KiB, codewords per page, pages per block, blocks per plane, planes per LUN, LUNs
per target, the chip enables present, and the read-retry levels declared. -/
structure Geo where
  kib : Nat
  perPage : Nat
  pages : Nat
  blocks : Nat
  planes : Nat
  luns : Nat
  ces : List Nat
  retries : Nat
deriving DecidableEq, Repr

/-- A codeword of a reel: its CW_INDEX, its bytes by offset, the band and band page that hold it, and whether it was copied as uncorrectable. -/
structure Cw where
  idx : Nat
  off : Nat
  len : Nat
  band : Nat
  page : Nat
  bad : Bool
deriving DecidableEq, Repr

/-- A reel (R402, R405): `st` 0 OPEN, 1 CLOSED, 2 RETIRED; `hdr` the bytes of a record header begun, `rem` the payload bytes of the
last record still to come. -/
structure Reel where
  id : Nat
  name : List Nat
  seq : Nat
  st : Nat
  bytes : List Byte
  cws : List Cw
  hdr : List Byte
  rem : Nat
deriving DecidableEq, Repr

/-- A band (R399, R400): its sequence number, erase count, whether it is in the log, when patrol read it last, and the band and page of the
newest catalogue as it opened. -/
structure Band where
  seq : Nat
  erase : Nat
  used : Bool
  patrolAt : Nat
  cat : Option (Nat × Nat)
deriving DecidableEq, Repr

def Band.init : Band := ⟨0, 0, false, 0, none⟩

/-- A codeword entered at the log head: its reel sequence, 0 for none, its CW_INDEX, its bytes, and its KIND. -/
structure LogCw where
  reel : Nat
  idx : Nat
  off : Nat
  len : Nat
  kind : Nat
deriving DecidableEq, Repr

/-- A band page to program: its tag once it has one, its band and page, the number of its first codeword in the log, whether an entry of ring 8
filled it or maintenance alone, and its codewords. -/
structure Prog where
  tag : Nat
  band : Nat
  page : Nat
  first : Nat
  ring : Bool
  cws : List LogCw
deriving DecidableEq, Repr

/-- What a NAND read is for: codeword `i` of a PLAY on a stream, codeword `i` of a READ, or a reel's codeword by its sequence and offset: on
patrol, or moved out of a band. -/
inductive ReadFor where
  | play (stream i : Nat)
  | copy (op i : Nat)
  | patrol (seq off : Nat)
  | move (band seq off : Nat)
deriving DecidableEq, Repr

/-- A band being relocated (R418): why, 0 wear or 1 refresh; the codewords still to read, by sequence and offset, and how many are not moved. -/
structure Move where
  band : Nat
  why : Nat
  todo : List (Nat × Nat)
  left : Nat
deriving DecidableEq, Repr

/-- An operation of ring 8 that is not complete: what it names, its TAG and REEL_ID, and the log position whose programming
completes it. A READ also has its destination, length and offset, the codewords still to issue and to finish, and whether one
was uncorrectable. -/
structure StoOp where
  num : Nat
  op : Nat
  tag : Nat
  reel : Nat
  mark : Nat
  len : Nat
  dest : Nat
  off : Nat
  todo : List Nat
  left : Nat
  unc : Bool
deriving DecidableEq, Repr

/-- A PLAY (R421 to R423): `off` the next record, `rep` copies of a DESC still to post, `issued` codewords whose reads are issued
in this pass, `done` and `bads` those read and uncorrectable, `unc` the first record concerned, `held` a lease wait counted. -/
structure Play where
  reel : Nat
  tag : Nat
  track : Nat
  genBias : Nat
  bdOfs : Nat
  baseOfs : Nat
  loops : Nat
  pass : Nat
  off : Nat
  rep : Nat
  applied : Nat
  issued : Nat
  done : List Nat
  bads : List Nat
  unc : Option Nat
  stop : Bool
  held : Bool
deriving DecidableEq, Repr

/-- The job store behind its registers (R396 to R424). `head` is the band being written, at band page `page`, with `fill` in the
page, `fillRing` whether an entry of ring 8 put any of it there; `wrote` codewords have entered the log; `sinceCat` band pages were written
since the last catalogue, whose band and page are `catAt`. Band pages wait for tags in `queue` and are programmed in `progs`; erases wait in
`erases`, with the log position that must be programmed first, and run in `erasing`, by tag; `moves` are relocations and `patrols` codewords
that patrol has still to read. `bbt` are the sequence numbers of the two copies of the bad-block table, none for one that is not valid. `wrapK`
is the life-cycle count that the store key is wrapped under. -/
structure Sto where
  geo : Option Geo
  bad : List NandBlk
  reels : List Reel
  bands : List (Nat × Band)
  head : Option Nat
  page : Nat
  fill : List LogCw
  fillRing : Bool
  wrote : Nat
  sinceCat : Nat
  catAt : Option (Nat × Nat)
  bandSeq : Nat
  reelSeq : Nat
  progs : List Prog
  queue : List Prog
  erases : List (Nat × Nat)
  erasing : List (Nat × Nat)
  moves : List Move
  patrols : List (Nat × Nat)
  reads : List (Nat × ReadFor)
  ops : List StoOp
  num : Nat
  plays : List (Nat × Play)
  cpls : List (List Nat)
  lastByte : Nat
  quiesce : Bool
  tagStall : Bool
  cplStall : Bool
  key : List Byte
  wrapK : Nat
  bbt : Option Nat × Option Nat
deriving DecidableEq, Repr

def Sto.init : Sto :=
  { geo := none, bad := [], reels := [], bands := [], head := none, page := 0, fill := [], fillRing := false, wrote := 0, sinceCat := 0,
    catAt := none, bandSeq := 0, reelSeq := 0, progs := [], queue := [], erases := [], erasing := [], moves := [], patrols := [],
    reads := [], ops := [], num := 0, plays := [], cpls := [], lastByte := 0, quiesce := false, tagStall := false, cplStall := false,
    key := [], wrapK := 0, bbt := (none, none) }

/-- Self-test behind its registers (R450 to R459): `next` stake of the rotation, when the last rest ended, `phase` 0 none, 1 handing
out, 2 under test, 3 handing back; the `stake` of the rest and whether it is requested; `retry` 1 while S8 is tested after a mismatch,
2 while the handover is tried again; the seed of each unit's next test; when the test began and its pattern count, as a power of 2; units tested and failed since
LBIST_DONE. -/
structure Bst where
  next : Nat
  restEnd : Nat
  phase : Nat
  stake : Nat
  asked : Bool
  handed : Bool
  retry : Nat
  seeds : List (Nat × Nat)
  startAt : Nat
  pat : Nat
  tested : Nat
  failed : Nat
  off : Bool
deriving DecidableEq, Repr

def Bst.init : Bst := ⟨0, 0, 0, 0, false, false, 0, [], 0, 0, 0, 0, false⟩

/-- A trim value that waits for its boundary (R463). `done` is what it has seen of it: for a transmit delay the tracks whose page boundary has
passed. -/
structure HeldTrim where
  kind : Nat
  idx : Nat
  part : Nat
  val : Int
  done : List Nat
  since : Nat
deriving DecidableEq, Repr

/-- Trims behind their registers: values held, when the last background round ran, the gain and offset of each die sensor by
2s + part, consecutive cool conversions for the warning and the overtemperature, and when a conversion ran. -/
structure Trm where
  held : List HeldTrim
  roundAt : Nat
  sensors : List (Nat × Int)
  coolWarn : Nat
  coolOver : Nat
  convAt : Nat
deriving DecidableEq, Repr

def Trm.init : Trm := ⟨[], 0, [], 0, 0, 0⟩

/-- The fuses (R443): `k` life-cycle steps, RETIRE, SECRET, and the stake repaired. -/
structure Fuse where
  dieId : Nat
  mac : Nat
  mgmtKey : Nat
  keyHash : Nat
  signEn : Bool
  holdEth : Bool
  qspiClk : Nat
  k : Nat
  retire : Bool
  secret : Nat
  repair : Option Nat
deriving DecidableEq, Repr

def Fuse.init : Fuse := ⟨0, 0, 0, 0, false, false, 0, 0, false, 0, none⟩

/-- Where the controller stands between resets: in reset or released before the upsett, held by the supply monitor or the thermal trip, in
steps 1 to 3 of a life-cycle change, or with the upsett past its first steps. -/
inductive Phase where
  | ready | supply | thermal | change | up
deriving DecidableEq, Repr

/-- What is left of an upsett that is in step 5 (R429): the store it finds, the START section's RUN and ARM mask, the POS clocks of
steps 6 and 7, and the early events dropped. -/
structure Boot where
  store : OpenIn
  start : Option (Bool × Nat)
  rest : Nat
  dropped : Nat
deriving DecidableEq, Repr

/-- A command of the skein flash under way (R440): its operation, address and bytes, and when it began. -/
structure FlashCmd where
  op : Nat
  addr : Nat
  n : Nat
  start : Nat
deriving DecidableEq, Repr

/-- Start-up and life cycle behind their registers: the phase, the POS clock of the last release, the rest of an upsett, a software
reset under way with when it falls, the life-cycle state before a change, and the flash command under way. -/
structure Sys where
  phase : Phase
  born : Nat
  boot : Option Boot
  resetAt : Option Nat
  lcFrom : Option Nat
  flash : Option FlashCmd
deriving DecidableEq, Repr

def Sys.init : Sys := ⟨.ready, 0, none, none, none, none⟩

/-- Host access behind its registers: snapshots and holding words of each path by path and address (R12 to R14), FRAME_ERR, what each SPI frame
and datagram read last; key 1, the last accepted SEQ and the stored response of each key, when MGMT_AUTH_FAIL was raised; the GIO filters, with the
master position at the start of a run; records dropped since EVENTS_LOST; residence times of two-step Syncs by source and sequence number;
memory copies under way by path, with whether they fail; frames that wait to be forwarded, by port of arrival, with the instant each leaves and
its bytes. -/
structure Acc where
  snaps : List (Nat × Word)
  holds : List (Nat × Word)
  frameErr : Bool
  spiOut : List Byte
  key1 : Option Nat
  lastSeq : List (Nat × Nat)
  resp : List (Nat × List Byte)
  failAt : Option Nat
  gios : List (Nat × Filt)
  gioPos : List (Nat × Int)
  lost : Nat
  resid : List (List Byte × Nat × Int)
  copies : List (Nat × Bool)
  fwd : List (Nat × Nat × Nat)
deriving DecidableEq, Repr

def Acc.init : Acc := ⟨[], [], false, [], none, [], [], none, [], [], 0, [], [], []⟩

/-- Something that leaves the part, for the output log. -/
inductive Out where
  | wale (link lane : Nat) (words : List Nat)
  | cam (c channel : Nat) (fire t : Nat)
  | camBeat (c t : Nat)
  | camGpio (c levels : Nat)
  | tto (n : Nat) (active : Bool) (ns : Int)
  | ptp (port transport : Nat) (bytes : List Byte)
  | udp (port src : Nat) (dst : Source) (bytes : List Byte)
  | arp (port : Nat) (dst : Source) (ip : Nat)
  | neighbour (port : Nat) (dst : Source) (ip : Nat)
  | echo (port : Nat) (dst : Source) (body : List Byte)
  | frame (port : Nat) (bytes : List Byte)
  | step (axis : Nat) (positive : Bool) (pulses t : Nat)
  | pev (n : Nat) (active : Bool) (t : Nat)
  | gioPulse (n t : Nat)
  | down (port : Nat) (ps : Int) (bytes : List Byte)
  | abort (port : Nat) (ps : Int)
  | fire (port ltag fine fflags : Nat) (ps : Int)
  | flash (op addr : Nat) (bytes : List Byte)
  | forward (port : Nat) (bytes : List Byte)
  | program (band page : Nat) (cws : List (List Byte × List Byte))
deriving DecidableEq, Repr

/-- Everything of the part but the queue of commands. `out` is what has left it, newest first; `wires` the line bits that lanes have sent from an
instant in ps on, first bit first, newest first, their idle fill left out. -/
structure Blk where
  now : Nat
  freeN : Nat
  regs : List (Nat × Word)
  held : List Held
  mem : List (Nat × Byte)
  evq : List Ev
  out : List Out
  wires : List (Nat × Int × List Bool)
  holding : Bool
  tim : Tim
  bcn : Bcn
  encs : List (Nat × Enc)
  lck : Lck
  scheds : List (Nat × List SchedEntry)
  pevs : List (Nat × Pev)
  trks : List (Nat × Trk)
  cmp : Cmp
  ports : List (Nat × Port)
  mbx : Option Mbx
  cams : List (Nat × Cam)
  ins : Ins
  sht : Sht
  axes : List (Nat × Ax)
  twn : Twn
  dram : Dram
  lanes : List (Nat × Lane)
  scan : Option Scan
  links : List (Nat × Link)
  wal : Wal
  time : Time
  streams : List (Nat × Stream)
  sto : Sto
  bst : Bst
  trm : Trm
  fuse : Fuse
  sys : Sys
  acc : Acc
deriving DecidableEq, Repr

/-- Everything at its reset value (R15): every register at `resetWord`, every unit as it is before anything has happened, and
the image memory with nothing listed. -/
def Blk.init : Blk :=
  { now := 0, freeN := 0, regs := [], held := [], mem := [], evq := [], out := [], wires := [], holding := false, tim := ⟨0, 0⟩,
    bcn := ⟨0, 0, 0, none, 0, 0, 0, 0⟩, encs := [], lck := ⟨0, 0, none, false, [], false, 0, 0⟩, scheds := [], pevs := [], trks := [],
    cmp := Cmp.init, ports := [], mbx := none, cams := [], ins := ⟨[], [], [], [], [], [], none⟩, sht := Sht.init, axes := [],
    twn := Twn.init, dram := Dram.init, lanes := [], scan := none, links := [], wal := Wal.init, time := Time.init, streams := [],
    sto := Sto.init, bst := Bst.init, trm := Trm.init, fuse := Fuse.init, sys := Sys.init, acc := Acc.init }

/-- No command of this model ends in a fault: the part has no state from which it cannot go on. -/
inductive Fault where
deriving DecidableEq, Repr

/-- A command without a meaning yet. Safe: nothing is claimed of it. -/
inductive Refusal where
  | notModelled (mnemonic : String)
deriving DecidableEq, Repr

/-- The block and the commands that wait, first in, first out. -/
structure State where
  blk : Blk
  pending : List Instr
deriving DecidableEq, Repr

/-- What a command answers. -/
abbrev Res := Host.Outcome State Fault Refusal

/-- Whether the blocks are at work: the upsett has passed its first steps and has not ended in the holding state (R441, R508). -/
def Blk.alive (s : Blk) : Bool := s.sys.phase == .up && !s.holding

/-- A command's effect on everything but the queue. While the blocks are not at work it has none (R427, R441). -/
def State.on (s : State) (f : Blk → Blk) : Res := .next { s with blk := if s.blk.alive then f s.blk else s.blk }

/-- The effect of a command that the controller carries out in any state. -/
def State.always (s : State) (f : Blk → Blk) : Res := .next { s with blk := f s.blk }

/-- The machine right after reset: RESET_N has been low since power came up, and nothing waits. SYS_RESET_CAUSE shows PIN (R505). -/
def State.reset : State := ⟨{ Blk.init with regs := [(4, 1)] }, []⟩

end Sys2Proof.Machine
end

