-- ==== Sys2Proof/Machine/Ops.lean ====
section
/-!
DEFINITION. The named operations over registers, held values, image memory, rings, time and the output log, which every
meaning is built from.
-/

namespace Sys2Proof.Machine

/-! ### Numbers -/

/-- A value of `n` bits read as two's complement (R4). -/
def sext (n v : Nat) : Int :=
  if v % 2 ^ n < 2 ^ (n - 1) then (v % 2 ^ n : Nat) else ((v % 2 ^ n : Nat) : Int) - (2 ^ n : Nat)

/-- An integer as `n` bits of two's complement. -/
def wrapTo (n : Nat) (v : Int) : Nat := (v % ((2 ^ n : Nat) : Int)).toNat

/-- An integer limited to the range of `n` signed bits. -/
def satS (n : Nat) (v : Int) : Int :=
  if v < -((2 ^ (n - 1) : Nat) : Int) then -((2 ^ (n - 1) : Nat) : Int)
  else if ((2 ^ (n - 1) : Nat) : Int) ≤ v then ((2 ^ (n - 1) : Nat) : Int) - 1
  else v

/-- The largest u24. -/
def u24max : Nat := 0xffffff

/-- A value limited to u24. -/
def satU24 (v : Nat) : Nat := min v u24max

/-- Bits [hi:lo] of a number. -/
def bits (v hi lo : Nat) : Nat := v / 2 ^ lo % 2 ^ (hi - lo + 1)

/-- A number with bits [hi:lo] replaced. -/
def setBits (v hi lo x : Nat) : Nat :=
  v - bits v hi lo * 2 ^ lo + x % 2 ^ (hi - lo + 1) * 2 ^ lo

/-- Bit `i` of a number. -/
def bitOf (v i : Nat) : Bool := v / 2 ^ i % 2 == 1

/-- 1 for true. -/
def b2n (b : Bool) : Nat := if b then 1 else 0

/-- Division of integers rounded half away from zero (R230, R247). -/
def roundDiv (n d : Int) : Int :=
  if d = 0 then 0
  else if 0 ≤ n then (2 * n + d) / (2 * d) else -((2 * -n + d) / (2 * d))

/-- `v` where it is not 0, else 1: the fields that treat 0 as 1. -/
def atLeast1 (v : Nat) : Nat := max 1 v

/-- `v` limited to `lo`..`hi`. -/
def clampN (lo hi v : Nat) : Nat := max lo (min hi v)

/-- A list with its element at an index replaced. -/
def setAt {α : Type} (l : List α) (i : Nat) (x : α) : List α := l.set i x

/-- The first value listed under a key. -/
def alook {α : Type} (d : α) (l : List (Nat × α)) (k : Nat) : α :=
  match l.find? (fun e => e.1 == k) with
  | some e => e.2
  | none => d

/-- An association list with one key's value replaced. -/
def aput {α : Type} (l : List (Nat × α)) (k : Nat) (v : α) : List (Nat × α) :=
  (k, v) :: l.filter (fun e => e.1 != k)

/-- An element put before the first one it does not follow. -/
def insertBy {α : Type} (le : α → α → Bool) (x : α) : List α → List α
  | [] => [x]
  | y :: r => if le x y then x :: y :: r else y :: insertBy le x r

/-- A list in the order of a relation, equal elements in their order. -/
def sortBy {α : Type} (le : α → α → Bool) : List α → List α
  | [] => []
  | x :: r => insertBy le x (sortBy le r)

/-! ### Registers in force -/

/-- The word in force at an address. -/
def Blk.reg (s : Blk) (a : Nat) : Word := Tab.get resetWord s.regs a

/-- The one operation that changes the word in force at an address. -/
def Blk.setReg (s : Blk) (a : Nat) (w : Word) : Blk := { s with regs := Tab.put resetWord s.regs a w }

/-- The word in force, as a number. -/
def Blk.rn (s : Blk) (a : Nat) : Nat := (s.reg a).toNat

/-- The word set from a number. -/
def Blk.wn (s : Blk) (a v : Nat) : Blk := s.setReg a (BitVec.ofNat 24 v)

/-- A field in force (R3). -/
def Blk.f (s : Blk) (x : Fld) : Nat := bits (s.rn x.addr) x.hi x.lo

/-- A one-bit field in force. -/
def Blk.fb (s : Blk) (x : Fld) : Bool := s.f x == 1

/-- A field set. -/
def Blk.setF (s : Blk) (x : Fld) (v : Nat) : Blk := s.wn x.addr (setBits (s.rn x.addr) x.hi x.lo v)

/-- A signed field in force. -/
def Blk.sf (s : Blk) (x : Fld) : Int := sext (x.hi - x.lo + 1) (s.f x)

/-- A value of `n` words, least significant word first (R12). -/
def Blk.val (s : Blk) (a : Nat) : Nat → Nat
  | 0 => 0
  | n + 1 => s.rn a + 2 ^ 24 * Blk.val s (a + 1) n

/-- A value of `n` words set. -/
def Blk.setVal (s : Blk) (a v : Nat) : Nat → Blk
  | 0 => s
  | n + 1 => Blk.setVal (s.wn a (v % 2 ^ 24)) (a + 1) (v / 2 ^ 24) n

/-- A signed value of `n` words and `w` bits. -/
def Blk.sval (s : Blk) (a n w : Nat) : Int := sext w (s.val a n)

/-- A signed value of `n` words and `w` bits set. -/
def Blk.setSval (s : Blk) (a n w : Nat) (v : Int) : Blk := s.setVal a (wrapTo w v) n

/-- A saturating u24 count advanced by `k`. -/
def Blk.addSat (s : Blk) (a k : Nat) : Blk := s.wn a (satU24 (s.rn a + k))

/-- A saturating u24 count advanced by one. -/
def Blk.incSat (s : Blk) (a : Nat) : Blk := s.addSat a 1

/-! ### Held values (R9, R10, R32 to R37) -/

/-- The last value written to an RWB word, in force or not (R9). -/
def Blk.lastWritten (s : Blk) (a : Nat) : Word :=
  match s.held.reverse.find? (fun h => h.addr == a) with
  | some h => h.val
  | none => s.reg a

/-- The word in force for a view: a track 0 to 3, or 4 for positions no enabled track owns (R33). -/
def Blk.regV (s : Blk) (v a : Nat) : Word :=
  match s.held.reverse.find? (fun h => h.addr == a && h.done.contains v) with
  | some h => h.val
  | none => s.reg a

def Blk.rnV (s : Blk) (v a : Nat) : Nat := (s.regV v a).toNat

def Blk.fV (s : Blk) (v : Nat) (x : Fld) : Nat := bits (s.rnV v x.addr) x.hi x.lo

def Blk.valV (s : Blk) (v a : Nat) : Nat → Nat
  | 0 => 0
  | n + 1 => s.rnV v a + 2 ^ 24 * Blk.valV s v (a + 1) n

/-- A written RWB word put among the held values. A value that no view has taken yet is replaced (R10). -/
def Blk.hold (s : Blk) (a : Nat) (w : Word) (b : Bnd) : Blk :=
  { s with held := s.held.filter (fun h => h.addr != a || !h.done.isEmpty) ++ [⟨a, w, b, []⟩] }

/-- The held values of one kind of boundary that `p` selects take effect, oldest first. -/
def Blk.commit (s : Blk) (p : Held → Bool) : Blk :=
  if s.fb SYS_COMMIT_HOLD then s
  else
    let go := s.held.filter p
    go.foldl (fun t h => t.setReg h.addr h.val) { s with held := s.held.filter (fun h => !p h) }

/-- The page-bound values take effect for one view; a value every view has taken comes into force for good. -/
def Blk.commitView (s : Blk) (v : Nat) : Blk :=
  if s.fb SYS_COMMIT_HOLD then s
  else
    let held := s.held.map fun h => if h.bnd == .page && !h.done.contains v then { h with done := v :: h.done } else h
    Blk.commit { s with held := held } fun h =>
      h.bnd == .page && [0, 1, 2, 3, 4].all fun u => h.done.contains u

/-! ### Image memory -/

/-- What an unlisted byte of image memory reads as (assumption 4; the wipe of R393). -/
def memDefault (_ : Nat) : Byte := 0

/-- One byte of image memory. -/
def Blk.memRead (s : Blk) (a : Nat) : Byte := Tab.get memDefault s.mem a

/-- The one operation that changes a byte of image memory. -/
def Blk.memWrite (s : Blk) (a : Nat) (b : Byte) : Blk := { s with mem := Tab.put memDefault s.mem a b }

/-- A run of bytes written from an address upwards. -/
def Blk.memWrites (s : Blk) (a : Nat) : List Byte → Blk
  | [] => s
  | b :: r => Blk.memWrites (s.memWrite a b) (a + 1) r

/-- A run of `n` bytes read from an address upwards. -/
def Blk.memReads (s : Blk) (a : Nat) : Nat → List Byte
  | 0 => []
  | n + 1 => s.memRead a :: Blk.memReads s (a + 1) n

/-- Bytes as a number, least significant first. -/
def leNat : List Byte → Nat
  | [] => 0
  | b :: r => b.toNat + 256 * leNat r

/-- Bytes as a number, most significant first. -/
def beNat (l : List Byte) : Nat := l.foldl (fun v b => v * 256 + b.toNat) 0

/-- `n` bytes of a number, least significant first. -/
def toLE (v : Nat) : Nat → List Byte
  | 0 => []
  | n + 1 => BitVec.ofNat 8 v :: toLE (v / 256) n

/-- `n` bytes of a number, most significant first. -/
def toBE (v n : Nat) : List Byte := (toLE v n).reverse

/-- The bytes from `i` on, `n` of them, 0 beyond the end. -/
def slice (l : List Byte) (i n : Nat) : List Byte := (List.range n).map fun k => l.getD (i + k) 0

/-- A range of image memory set to 0. -/
def Blk.memZero (s : Blk) (a n : Nat) : Blk :=
  { s with mem := s.mem.filter fun e => e.1 < a || a + n ≤ e.1 }

/-- The eight 32-bit words of a ring entry at an address (R16). -/
def Blk.readEntry (s : Blk) (a : Nat) : List Nat :=
  (List.range 8).map fun i => leNat (s.memReads (a + 4 * i) 4)

/-- The bytes of a ring entry. -/
def entryBytes (ws : List Nat) : List Byte :=
  (List.range 8).flatMap fun i => toLE (ws.getD i 0) 4

/-! ### Time -/

/-- Local time in units of 2^-32 ns: it advances by TIM_ADDEND every TIM clock, two to a POS clock (R359). -/
def Blk.timUnits (s : Blk) : Nat := s.tim.base + 2 * (s.now - s.tim.since) * s.val TIM_ADDEND 2

/-- Local time in whole ns. -/
def Blk.timNs (s : Blk) : Nat := s.timUnits / 2 ^ 32

/-- The seconds of a local time in ns. -/
def secOf (ns : Nat) : Nat := ns / 1000000000 % 2 ^ 48

/-- The nanoseconds of a local time in ns. -/
def nsOf (ns : Nat) : Nat := ns % 1000000000

/-- The free value of the moment, and the counter moved on. -/
def Blk.fresh (s : Blk) : Blk := { s with freeN := s.freeN + 1 }

/-- Something leaves the part: appended to the output log. -/
def Blk.emit (s : Blk) (o : Out) : Blk := { s with out := o :: s.out }

/-! ### Like units held in tables -/

def Blk.enc (s : Blk) (n : Nat) : Enc := Tab.get (fun _ => Enc.init) s.encs n
def Blk.setEnc (s : Blk) (n : Nat) (e : Enc) : Blk := { s with encs := Tab.put (fun _ => Enc.init) s.encs n e }
def Blk.trk (s : Blk) (t : Nat) : Trk := Tab.get (fun _ => Trk.init) s.trks t
def Blk.setTrk (s : Blk) (t : Nat) (x : Trk) : Blk := { s with trks := Tab.put (fun _ => Trk.init) s.trks t x }
def Blk.sched (s : Blk) (t : Nat) : List SchedEntry := Tab.get (fun _ => []) s.scheds t
def Blk.setSched (s : Blk) (t : Nat) (l : List SchedEntry) : Blk := { s with scheds := Tab.put (fun _ => []) s.scheds t l }
def Blk.pev (s : Blk) (n : Nat) : Pev := Tab.get (fun _ => Pev.init) s.pevs n
def Blk.setPev (s : Blk) (n : Nat) (p : Pev) : Blk := { s with pevs := Tab.put (fun _ => Pev.init) s.pevs n p }
def Blk.cam (s : Blk) (c : Nat) : Cam := Tab.get (fun _ => Cam.init) s.cams c
def Blk.setCam (s : Blk) (c : Nat) (x : Cam) : Blk := { s with cams := Tab.put (fun _ => Cam.init) s.cams c x }
def Blk.port (s : Blk) (h : Nat) : Port := Tab.get (fun _ => Port.init) s.ports h
def Blk.setPort (s : Blk) (h : Nat) (x : Port) : Blk := { s with ports := Tab.put (fun _ => Port.init) s.ports h x }
def Blk.lane (s : Blk) (n : Nat) : Lane := Tab.get (fun _ => Lane.init) s.lanes n
def Blk.setLane (s : Blk) (n : Nat) (x : Lane) : Blk := { s with lanes := Tab.put (fun _ => Lane.init) s.lanes n x }
def Blk.link (s : Blk) (l : Nat) : Link := Tab.get (fun _ => Link.init) s.links l
def Blk.setLink (s : Blk) (l : Nat) (x : Link) : Blk := { s with links := Tab.put (fun _ => Link.init) s.links l x }
def Blk.stream (s : Blk) (k : Nat) : Stream := Tab.get (fun _ => Stream.init) s.streams k
def Blk.setStream (s : Blk) (k : Nat) (x : Stream) : Blk := { s with streams := Tab.put (fun _ => Stream.init) s.streams k x }

end Sys2Proof.Machine
end

