-- ==== Sys2Proof/Machine/Operands.lean ====
section
/-!
DEFINITION. What the print path's steps take as operands: encoder and master position, speed, lead, pitch, line rate,
rung limits, and the owner of a cross-web position (R28, R60 to R71, R86, R239, R354).
-/

namespace Sys2Proof.Machine

/-! ### Encoders (R61 to R63) -/

/-- The time since the last legal edge, u24, saturating (R62). -/
def Blk.encE (s : Blk) (n : Nat) : Nat :=
  match (s.enc n).edge with
  | none => u24max
  | some te => satU24 (s.now - te)

/-- The fraction of a count interpolated since the last legal edge (R62). -/
def Blk.encFrac (s : Blk) (n : Nat) : Nat :=
  if (s.enc n).valid && s.rn (POS_INTERVAL n) < u24max then min 255 (s.encE n * 256 / s.rn (POS_INTERVAL n)) else 0

/-- The count of an encoder, s48 (R53). -/
def Blk.encCount (s : Blk) (n : Nat) : Int := s.sval (POS_COUNT n) 2 48

/-- Whether the last legal edge was in reverse. -/
def Blk.encRev (s : Blk) (n : Nat) : Bool := s.fb (POS_STATUS_DIR n)

/-- The interpolated position in 1/256 count (R62). -/
def Blk.encP256 (s : Blk) (n : Nat) : Int :=
  if s.encRev n then s.encCount n * 256 - s.encFrac n else s.encCount n * 256 + s.encFrac n

/-- The edge interval in use, whichever the direction: none where Δ is invalid or saturated (R63). -/
def Blk.encRaw (s : Blk) (n : Nat) : Option Nat :=
  if (s.enc n).valid && s.rn (POS_INTERVAL n) < u24max then some (max (s.rn (POS_INTERVAL n)) (s.encE n)) else none

/-- Δ_eff of an encoder; none where its speed estimate is 0 (R63). -/
def Blk.encDelta (s : Blk) (n : Nat) : Option Nat := if s.encRev n then none else s.encRaw n

/-! ### The master -/

/-- LCK_MASTER.SRC with its reserved codes treated as 0 (R85): 0 to 7 an encoder, 8 wale beacons. -/
def Blk.masterSrc (s : Blk) : Nat := if 8 < s.f LCK_MASTER_SRC then 0 else s.f LCK_MASTER_SRC

def Blk.fbActive (s : Blk) : Bool := s.fb LCK_STATUS_FB_ACTIVE

/-- The encoder that stands behind the master position: the fallback while in use, else SRC; none for beacons. -/
def Blk.masterEnc (s : Blk) : Option Nat :=
  if s.fbActive then some (s.f LCK_MASTER_FB_SRC)
  else if s.masterSrc = 8 then none
  else some s.masterSrc

/-- The slew that remains at a local time (R355). -/
def Bcn.slew (b : Bcn) (t : Nat) : Int :=
  if b.ts = 0 then 0 else (b.slewE * ((b.ts - (t - b.ta) : Nat) : Int)).tdiv b.ts

/-- The position a beacon gives at a local time in ns (R354). -/
def Bcn.pos (b : Bcn) (t : Nat) : Int := b.pb + b.vel * ((t : Int) - b.tb) / 2 ^ 24 + b.slew t

/-- The master position P256 (R60, R62, R86). -/
def Blk.masterP (s : Blk) : Int :=
  if s.fbActive then
    sext 56 (s.val LCK_FB_OFFSET 3) +
      ((s.encP256 (s.f LCK_MASTER_FB_SRC) - s.lck.fSw) * (s.rn LCK_FB_NUM : Int)).tdiv (atLeast1 (s.rn LCK_FB_DEN))
  else if s.masterSrc = 8 then s.bcn.pos s.timNs
  else s.encP256 s.masterSrc

/-- Whether the master's last motion was in reverse (R50, R60, R354). -/
def Blk.masterRev (s : Blk) : Bool :=
  match s.masterEnc with
  | some n => s.encRev n
  | none => decide (s.bcn.vel < 0)

/-- The interval per master count, whichever the direction: none where the speed is 0 (R60, R63, R354). -/
def Blk.masterRaw (s : Blk) : Option Nat :=
  match s.masterEnc with
  | some n =>
    match s.encRaw n with
    | none => none
    | some d =>
      if s.fbActive then
        if s.rn LCK_FB_NUM = 0 then none else some (satU24 (d * atLeast1 (s.rn LCK_FB_DEN) / s.rn LCK_FB_NUM))
      else some d
  | none => if s.bcn.vel = 0 then none else some (satU24 (2 ^ 30 / s.bcn.vel.natAbs))

/-- Whether a reverse pass is being printed, so that the line clock works on M = -P (R239). -/
def Blk.passRev (s : Blk) : Bool := s.fb SHT_CFG_EN && s.f SHT_STATUS_STATE == 3 && s.fb SHT_STATUS_DIR

/-- The position the line clock works on: P, or M of R239. -/
def Blk.lineP (s : Blk) : Int := if s.passRev then -s.masterP else s.masterP

/-- Whether the master moves forward for the line clock (R64, R239). -/
def Blk.lineFwd (s : Blk) : Bool := s.masterRev == s.passRev

/-- Δ_eff for the line clock: none where the speed of R63 is 0. -/
def Blk.lineDelta (s : Blk) : Option Nat := if s.lineFwd then s.masterRaw else none

/-- The lead in 1/256 count of a delay in ns at the estimated speed (R65). -/
def leadOf (ns : Nat) : Option Nat → Nat
  | none => 0
  | some d => min u24max (64 * ns / d)

def Blk.lead (s : Blk) : Nat := leadOf (s.f LCK_FIRE_DELAY_NS) s.lineDelta

/-- LCK_PITCH in raw 24.24 units, at least 1/256 count (R66). -/
def Blk.pitch (s : Blk) : Nat := max (2 ^ 16) (s.val LCK_PITCH 2)

/-- The compare value C, s48.24 (R64). -/
def Blk.compare (s : Blk) : Int := s.sval LCK_COMPARE 3 72

/-- Q256 of a compare value: truncated to 1/256 count (R64). -/
def q256 (c : Int) : Int := c / 2 ^ 16

/-- Whether the line clock runs. -/
def Blk.running (s : Blk) : Bool := s.fb LCK_STATUS_RUNNING

/-- Whether triggers are stopped by a master fault (R59). -/
def Blk.lckHold (s : Blk) : Bool := s.fb LCK_STATUS_HOLD

/-- Whether the position with lead has met the compare in the POS clock at hand, in which no trigger has been issued (R59, R64). -/
def Blk.trigMet (s : Blk) : Bool :=
  s.running && !s.lckHold && s.lineDelta.isSome && decide (q256 s.compare ≤ s.lineP + s.lead) &&
    !s.lck.trigs.head?.any fun g => g.clk == s.now

/-- The measured line rate in lines/s, truncated (R71); 0 at speed 0. -/
def rateOf (pitch : Nat) : Option Nat → Nat
  | none => 0
  | some d => satU24 (250000000 * 2 ^ 24 / (d * pitch))

/-- The line period P in ns, truncated: none where the speed is 0 (R180). -/
def Blk.periodNs (s : Blk) : Option Nat := s.lineDelta.map fun d => s.pitch * d * 4 / 2 ^ 24

/-! ### Rungs (R70) -/

/-- The chip limit of a rung in lines/s. -/
def chipLimit : Nat → Nat
  | 0 => 100000
  | 1 => 150000
  | _ => 300000

/-- f_r: the smaller of the chip limit and LCK_RUNG_LIMIT. -/
def Blk.rungLimit (s : Blk) (r : Nat) : Nat := min (chipLimit r) (s.rn (LCK_RUNG_LIMIT r))

/-- MAX_RUNG, 3 treated as 2. -/
def Blk.maxRung (s : Blk) : Nat := min 2 (s.f LCK_LADDER_MAX_RUNG)

/-- Whether a rung is permitted: from the floor to MAX_RUNG, or the floor alone where it lies above. -/
def Blk.permitted (s : Blk) (r : Nat) : Bool :=
  let fl := s.f LCK_STATUS_FLOOR
  if s.maxRung < fl then r == fl else decide (fl ≤ r ∧ r ≤ s.maxRung)

/-- The largest code of a rung (R138). -/
def cmax : Nat → Nat
  | 0 => 7
  | 1 => 3
  | _ => 1

/-! ### Tracks -/

def Blk.trkEn (s : Blk) (t : Nat) : Bool := s.fb (PGE_TRK_CFG_EN t)

def Blk.trkState (s : Blk) (t : Nat) : Nat := s.f (PGE_TRK_STATUS_STATE t)

/-- Whether all four tracks are IDLE (R32). -/
def Blk.allIdle (s : Blk) : Bool := [0, 1, 2, 3].all fun t => s.trkState t == 0

/-- The owner of a cross-web position: the lowest enabled track whose range holds it, or 4 (R28, R130). -/
def Blk.owner (s : Blk) (x : Int) : Nat :=
  if x < 0 ∨ 131071 < x then 4
  else
    match [0, 1, 2, 3].find? fun t => s.trkEn t &&
        decide ((s.rn (PGE_TRK_RANGE_FIRST t) : Int) ≤ x ∧ x ≤ (s.rn (PGE_TRK_RANGE_LAST t) : Int)) with
    | some t => t
    | none => 4

/-- The fetch lead L, 8 to 64 lines. -/
def Blk.leadLines (s : Blk) (t : Nat) : Nat := clampN 8 64 (s.f (PGE_TRK_CFG_LEAD t))

/-- The line index of a track (R69). -/
def Blk.lineIndex (s : Blk) (t : Nat) : Nat := s.val (LCK_LINE_INDEX t) 2

/-- The fire number of the latest trigger (R175). -/
def Blk.fireNum (s : Blk) : Nat := s.val HLK_FIRE_NUM 2

/-- Shuttle mode (R237). -/
def Blk.shuttle (s : Blk) : Bool := s.fb SHT_CFG_EN

/-! ### Test units and stakes (R450, R456) -/

/-- Whether a unit is under self-test (R460). -/
def Blk.underTest (s : Blk) (u : Nat) : Bool := s.fb BST_STATUS_BUSY && s.f BST_STATUS_UNIT == u

/-- Whether span `k` has no stake to serve it (R456). -/
def Blk.deadSpan (s : Blk) (k : Nat) : Bool :=
  bitOf (s.f CMP_STAKE_STATUS_RETIRED) k && s.f CMP_STAKE_STATUS_BYE_FOR != k

/-! ### The pass coordinate (R239, R248) -/

/-- Whether the current or next pass is a reverse one. -/
def Blk.passDirRev (s : Blk) : Bool := s.fb SHT_STATUS_DIR

/-- M of the current or next pass. -/
def Blk.passM (s : Blk) : Int := if s.passDirRev then -s.masterP else s.masterP

/-- The page in hand: track 0's first page whose passes are not complete. -/
def Blk.shtPage (s : Blk) : Option Page := (s.trk 0).pages.find? fun p => !p.bounded

/-- Columns of the page in hand. -/
def Blk.shtLength (s : Blk) : Nat :=
  match s.shtPage with
  | some p => p.len
  | none => 1

/-- The compare value a pass loads at arming, s48.24 (R239). -/
def Blk.passC0 (s : Blk) : Int :=
  let org := s.sval SHT_ORIGIN 3 72
  if s.passDirRev then -(org + ((s.shtLength : Int) - 1) * s.pitch) else org

/-- The arm position of the current or next pass in its coordinate (R248). -/
def Blk.armM (s : Blk) : Int := q256 s.passC0 - (s.rn SHT_ARM_DIST : Int) * 256

end Sys2Proof.Machine
end

