-- ==== Sys2Proof/Machine/Flags.lean ====
section
/-!
DEFINITION. What the steps leave for software to see: events (R489 to R491), event counters (R465 to R468), trace records
(R488), the IRQ line (R492), and the advance of time with the forward high-water mark H (R75).
-/

namespace Sys2Proof.Machine

/-! ### Event counters -/

/-- Whether the gate of a counter is open (R466). -/
def Blk.cntGate (s : Blk) (i : Nat) : Bool :=
  let open0 :=
    match s.f (CNT_CFG_GATE i) with
    | 1 =>
      let p := sext 48 (wrapTo 48 (s.masterP / 256))
      decide (s.sval (CNT_WIN_START i) 2 48 ≤ p ∧ p < s.sval (CNT_WIN_END i) 2 48)
    | 2 =>
      let t := s.f (CNT_CFG_TRACK i)
      let l := s.rn (PGE_TRK_PAGE_LINE t)
      s.trkState t == 2 && decide (s.rn (CNT_WIN_START i) ≤ l ∧ l < s.rn (CNT_WIN_END i))
    | _ => true
  open0 != s.fb (CNT_CFG_GATE_INV i)

/-! ### Events -/

/-- An event raised now, with the line index the chapter names; it waits to be posted in order (R489, R491). -/
def Blk.raiseL (s : Blk) (code inst d0 d1 line : Nat) : Blk :=
  let run := s.running
  let ns := s.timNs
  let e : Ev := ⟨code, inst % 256, d0 % 2 ^ 24, d1 % 2 ^ 24, secOf ns, nsOf ns, !s.fb TIM_STATUS_LOCKED, run,
    if run then wrapTo 48 (s.masterP / 256) else 0, if run then line % 2 ^ 48 else 0, s.now * 5 / 4⟩
  { s with evq := s.evq ++ [e] }

/-- An event raised now with the line index of track 0. -/
def Blk.raise (s : Blk) (code inst d0 d1 : Nat) : Blk := s.raiseL code inst d0 d1 (s.lineIndex 0)

/-- An event raised now with the line index of a track. -/
def Blk.raiseT (s : Blk) (code t d0 d1 : Nat) : Blk := s.raiseL code t d0 d1 (s.lineIndex t)

/-- One counter advances by `n` where its source is `src` and its gate is open; it wraps at 2^48 (R465). -/
def Blk.countOne (src n : Nat) (s : Blk) (i : Nat) : Blk :=
  if s.fb (CNT_CFG_EN i) && s.f (CNT_CFG_SRC i) == src && s.cntGate i then
    let v := s.val (CNT_VALUE i) 2 + n
    let t := s.setVal (CNT_VALUE i) (v % 2 ^ 48) 2
    if v < 2 ^ 48 then t
    else (t.setF ⟨CNT_WRAP, i, i⟩ 1).raise 0xD10 i i 0
  else s

/-- A source of R468 occurs `n` times. -/
def Blk.count (s : Blk) (src : Nat) (n : Nat := 1) : Blk :=
  if src = 0 ∨ n = 0 then s else (List.range 16).foldl (Blk.countOne src n) s

/-! ### Records -/

/-- The eight words of an event record (R489). -/
def Ev.words (e : Ev) (sev : Nat) : List Nat :=
  [b2n e.posValid * 2 ^ 25 + b2n e.unlocked * 2 ^ 24 + e.code % 4096 * 2 ^ 12 + e.inst * 16 + sev % 16,
   e.sec % 2 ^ 32,
   e.sec / 2 ^ 32 % 2 ^ 16 * 2 ^ 16 + e.pos / 2 ^ 32 % 2 ^ 16,
   e.ns % 2 ^ 30,
   e.pos % 2 ^ 32,
   e.line % 2 ^ 32,
   e.line / 2 ^ 40 % 256 * 2 ^ 24 + e.d0 % 2 ^ 24,
   e.line / 2 ^ 32 % 256 * 2 ^ 24 + e.d1 % 2 ^ 24]

/-- IRQ_N is asserted while an unmasked summary bit is set, and in the holding state (R441, R492). -/
def Blk.irq (s : Blk) : Bool :=
  s.holding || (s.reg EVT_SUMMARY &&& ~~~ s.reg EVT_MASK) != 0

/-- Whether a value is held for any boundary, and for idle (R38). A nozzle word that a pairing has agreed waits for its line. -/
def Blk.pendingAny (s : Blk) : Bool := !s.held.isEmpty || s.twn.agreed.any fun g => g.typ == 0
def Blk.pendingIdle (s : Blk) : Bool := s.held.any fun h => h.bnd == .idle

/-! ### Time passes -/

/-- What follows from a new master position: H rises while the clock runs forward and is not held (R59, R75), and in shuttle mode
the carriage path of a feed and the highest M of the pass (R247, R248). -/
def Blk.moved (s : Blk) : Blk :=
  let p := s.masterP
  let s := if s.running && !s.lckHold && !s.masterRev && decide (s.lck.h < p) then { s with lck := { s.lck with h := p } } else s
  if s.shuttle then
    { s with sht := { s.sht with
        path := if s.sht.feeding then s.sht.path + (p - s.sht.lastP).natAbs else s.sht.path
        lastP := p
        hiM := max s.sht.hiM s.lineP
        below := s.sht.below || decide (s.passM < s.armM) } }
  else s

/-- Time moves on to a POS clock; it never runs back. CTL clocks, five to four POS clocks, are counted (R43, R468). -/
def Blk.advance (s : Blk) (t : Nat) : Blk :=
  if t ≤ s.now then s
  else
    let k := t * 5 / 4 - s.now * 5 / 4
    (Blk.count { s with now := t } 1 k).moved

/-! ### Trims (R463, R464) -/

/-- TRM_STATUS.HELD. -/
def Blk.showHeld (s : Blk) : Blk :=
  s.setF TRM_STATUS_HELD ((List.range 6).foldl (fun m k => m + if s.trm.held.any fun h => h.kind == k then 2 ^ k else 0) 0)

/-- The range of a kind. -/
def trimRange : Nat → Int × Int
  | 1 => (0, 31)
  | 3 => (-31, 31)
  | 5 => (0, 1023)
  | _ => (-127, 127)

/-- A trim's value in force. -/
def Blk.putTrim (s : Blk) (h : HeldTrim) (v : Int) : Blk :=
  match h.kind with
  | 0 => s.setF (if h.part = 0 then TRM_LANE_DATA h.idx else TRM_LANE_ERR h.idx) (wrapTo 8 v)
  | 1 => s.setF (LAN_EQ_PEAK h.idx) v.toNat
  | 2 => s.setF (TRM_LANE_DLY h.idx) (wrapTo 8 v)
  | 3 => s.setF (if h.part = 0 then TRM_SNS_C1 h.idx else TRM_SNS_C2 h.idx) (wrapTo 6 v)
  | 5 => s.wn TRM_OSC v.toNat
  | _ => { s with trm := { s.trm with sensors := aput s.trm.sensors (2 * h.idx + h.part) v } }

/-- Whether the trim exists on this part. -/
def HeldTrim.exists (h : HeldTrim) : Bool :=
  match h.kind with
  | 0 => decide (h.idx < 44)
  | 1 => decide (h.idx < 44)
  | 2 => decide (h.idx < 32)
  | 3 => decide (h.idx < 6)
  | 4 => decide (h.idx < 8)
  | _ => true

/-- A held value is applied, clamped to its range, whose ends set LIMIT (R464). -/
def Blk.applyTrim (s : Blk) (h : HeldTrim) : Blk :=
  let s := ({ s with trm := { s.trm with held := s.trm.held.erase h } }).showHeld
  if !h.exists then s
  else if h.kind = 4 then s.putTrim h h.val
  else
    let r := trimRange h.kind
    let s := s.putTrim h (max r.1 (min r.2 h.val))
    if r.1 < h.val ∧ h.val < r.2 then s
    else (s.setF ⟨TRM_STATUS, h.kind, h.kind⟩ 1).raise 0xD04 (if h.kind = 5 then 0 else h.idx) h.kind (if h.kind = 5 then 0 else h.idx)

/-- The held values whose boundary falls now are applied, in the order they were computed. -/
def Blk.trimsDue (s : Blk) (p : HeldTrim → Bool) : Blk := (s.trm.held.filter p).foldl Blk.applyTrim s

end Sys2Proof.Machine
end

