-- ==== Sys2Proof/Machine/Coding.lean ====
section
/-!
DEFINITION. Line coding of the serial lanes (R312 to R321): the 8b/10b code of IEEE 802.3 Clause 36, heavy-coded blocks with
their scrambler and bit stuffing, lane frames, and the two receivers. A list of line bits has the bit sent first at its head.
-/

namespace Sys2Proof.Machine

/-! ### Checks over bytes (R162, R299) -/

/-- One byte into the reflected CRC-32 register. -/
def crc32Byte (v b : Nat) : Nat :=
  (List.range 8).foldl (fun v _ => if v % 2 = 1 then (v / 2) ^^^ 0xEDB88320 else v / 2) (v ^^^ b)

/-- The CRC-32 of IEEE 802.3 over bytes. -/
def crc32 (bs : List Byte) : Nat := (bs.foldl (fun v b => crc32Byte v b.toNat) 0xFFFFFFFF) ^^^ 0xFFFFFFFF

/-- One byte into CRC-24 (R299). -/
def crc24Byte (v b : Nat) : Nat :=
  (List.range 8).foldl (fun v _ => if bitOf v 23 then (v * 2 % 2 ^ 24) ^^^ 0x864CFB else v * 2 % 2 ^ 24) (v ^^^ (b * 2 ^ 16))

/-- The CRC-24 of words, each entered bits 23:16 first. -/
def crc24Words (ws : List Nat) : Nat :=
  ws.foldl (fun v w => [w / 65536 % 256, w / 256 % 256, w % 256].foldl crc24Byte v) 0xB704CE

/-- The low `n` bits of a value, most significant first. -/
def msbBits (n v : Nat) : List Bool := (List.range n).map fun i => bitOf v (n - 1 - i)

/-! ### Light coding (R312) -/

/-- A symbol: whether it is a K-code, and its byte. -/
abbrev Sym := Bool × Nat

def k28x5 : Sym := (true, 0xBC)
def k28x0 : Sym := (true, 0x1C)
def k28x3 : Sym := (true, 0x7C)
def k27x7 : Sym := (true, 0xFB)
def k29x7 : Sym := (true, 0xFD)
def k30x7 : Sym := (true, 0xFE)

/-- abcdei of D.x for negative running disparity. -/
def sixTable : List Nat :=
  [0x27, 0x1D, 0x2D, 0x31, 0x35, 0x29, 0x19, 0x38, 0x39, 0x25, 0x15, 0x34, 0x0D, 0x2C, 0x1C, 0x17] ++
  [0x1B, 0x23, 0x13, 0x32, 0x0B, 0x2A, 0x1A, 0x3A, 0x33, 0x26, 0x16, 0x36, 0x0E, 0x2E, 0x1E, 0x2B]

/-- fghj of D.x.y and of K.x.y for negative running disparity. -/
def fourTable : List Nat := [0xB, 0x9, 0x5, 0xC, 0xD, 0xA, 0x6, 0xE]
def fourK : List Nat := [0xB, 0x6, 0xA, 0xC, 0xD, 0x5, 0x9, 0x7]

/-- The ones among the low `n` bits. -/
def onesOf (n v : Nat) : Nat := ((List.range n).filter fun i => bitOf v i).length

/-- The running disparity after a sub-block of `n` bits, 6 or 4: the sign of its own disparity, or, of the balanced ones, that of the
half that comes last. -/
def rdAfter (rd : Bool) (n v : Nat) : Bool :=
  let k := onesOf n v
  if 2 * k < n then false
  else if n < 2 * k then true
  else if v + 1 = 2 ^ (n / 2) then true
  else if v = 2 ^ n - 2 ^ (n / 2) then false
  else rd

/-- abcdei of a symbol whose low five bits are `x`; D.x.7 and the unbalanced codes take the other form for positive disparity. -/
def sixOf (rd k28 : Bool) (x : Nat) : Nat :=
  let v := if k28 then 0x0F else sixTable.getD x 0
  if rd && (x == 7 || 2 * onesOf 6 v != 6) then 63 - v else v

/-- fghj, at the running disparity after abcdei. D.x.7 takes the form 0111 where the other would give five equal bits in a row. -/
def fourOf (rd k : Bool) (x y : Nat) : Nat :=
  if k then (if rd then 15 - fourK.getD y 0 else fourK.getD y 0)
  else
    let alt := y == 7 && (if rd then [11, 13, 14] else [17, 18, 20]).contains x
    let v := if alt then 7 else fourTable.getD y 0
    if rd && (y == 3 || 2 * onesOf 4 v != 4) then 15 - v else v

/-- The ten bits of a symbol, bit a most significant, and the running disparity after it. -/
def symCode (rd : Bool) (c : Sym) : Nat × Bool :=
  let x := c.2 % 32
  let six := sixOf rd (c.1 && x == 28) x
  let mid := rdAfter rd 6 six
  let four := fourOf mid c.1 x (c.2 / 32)
  (16 * six + four, rdAfter mid 4 four)

/-- The symbol that ten received bits stand for; none where they are invalid. -/
def symOf (rd : Bool) (v : Nat) : Option Sym :=
  let six := v / 16
  let four := v % 16
  let mid := rdAfter rd 6 six
  let y := fun (k : Bool) (x : Nat) => (List.range 8).find? fun y => fourOf mid k x y == four
  if six = sixOf rd true 28 then (y true 28).map fun y => (true, 32 * y + 28)
  else
    match (List.range 32).find? fun x => sixOf rd false x == six with
    | none => none
    | some x =>
      match y false x with
      | some y => some (false, 32 * y + x)
      | none => if [23, 27, 29, 30].contains x && four == fourOf mid true x 7 then some (true, 224 + x) else none

/-- The running disparity after ten received bits, valid or not. -/
def rdOf (rd : Bool) (v : Nat) : Bool := rdAfter (rdAfter rd 6 (v / 16)) 4 (v % 16)

/-- The line bits of symbols, and the running disparity after them. -/
def lightCode (rd : Bool) : List Sym → List Bool × Bool
  | [] => ([], rd)
  | c :: r =>
    let e := symCode rd c
    let t := lightCode e.2 r
    (msbBits 10 e.1 ++ t.1, t.2)

/-- A frame as symbols: Start, bytes, End (R162, R321, R343). -/
def frameSyms (bs : List Byte) : List Sym := k27x7 :: bs.map (fun b => (false, b.toNat)) ++ [k29x7]

/-! ### Heavy coding (R316 to R319) -/

/-- One step of the generator: its output, and the state after it (R317). -/
def genStep (g : Nat) : Bool × Nat :=
  let k := bitOf g 30 != bitOf g 27
  (k, (2 * g + b2n k) % 2 ^ 31)

/-- Bits scrambled, or descrambled, and the generator after them. -/
def scramble : Nat → List Bool → List Bool × Nat
  | g, [] => ([], g)
  | g, b :: r =>
    let e := genStep g
    let t := scramble e.2 r
    ((b != e.1) :: t.1, t.2)

/-- A polynomial times x modulo x^31 + x^3 + 1, which the outputs of the generator satisfy. -/
def mulX (p : Nat) : Nat := if bitOf p 30 then (2 * p % 2 ^ 31) ^^^ 9 else 2 * p

def mulPoly (p q : Nat) : Nat :=
  ((List.range 31).foldl (fun (a : Nat × Nat) i => (if bitOf q i then a.1 ^^^ a.2 else a.1, mulX a.2)) (0, p)).1

/-- x to the power of a number of fewer than 64 bits. -/
def powX (n : Nat) : Nat :=
  ((List.range 64).foldl (fun (a : Nat × Nat) i => (if bitOf n i then mulPoly a.1 a.2 else a.1, mulPoly a.2 a.2)) (1, 2)).1

/-- The generator `n` steps on. Its state holds the last 31 outputs, the latest in bit 0. -/
def genJump (g n : Nat) : Nat :=
  ((List.range 31).foldl (fun (a : Nat × Nat) i =>
    let out := b2n (onesOf 31 ((List.range 31).foldl (fun m j => if bitOf a.2 j && bitOf g (30 - j) then m + 2 ^ j else m) 0) % 2 == 1)
    (a.1 + out * 2 ^ (30 - i), mulX a.2)) (0, powX n)).1

/-- A block before stuffing: its header, and the payload bits as they go on the line (R316). -/
def blockBits (ctrl : Bool) (payload : List Bool) : List Bool := ctrl :: (!ctrl) :: payload

/-- The 192 payload bits of eight words. -/
def wordBits (ws : List Nat) : List Bool := (List.range 8).flatMap fun i => msbBits 24 (ws.getD i 0)

/-- The words of an ALIGN block (R318). -/
def alignWords (seed num : Nat) : List Nat :=
  [0x015555, seed % 2 ^ 24, seed / 2 ^ 24 % 128, num % 2 ^ 24, 0x555555, 0x555555, 0x555555, 0x555555]

/-- Bits with their inserted bits, after a run of `run` bits equal to `last` (R319). -/
def stuff : Bool → Nat → List Bool → List Bool × Bool × Nat
  | last, run, [] => ([], last, run)
  | last, run, b :: r =>
    let n := if 0 < run ∧ b = last then run + 1 else 1
    if n = 40 then
      let t := stuff (!b) 1 r
      (b :: (!b) :: t.1, t.2)
    else
      let t := stuff b n r
      (b :: t.1, t.2)

/-! ### Lane frames (R321) -/

/-- The bytes of a lane frame in light coding. -/
def laneBytes (bs : List Byte) : List Byte := bs ++ toBE (crc32 bs) 4

/-- The words of a lane frame in heavy coding. -/
def laneWords (bs : List Byte) : List Nat :=
  let ws := 0x020000 :: (List.range 6).map fun i => beNat ((List.range 3).map fun j => bs.getD (3 * i + j) 0)
  ws ++ [crc24Words ws]

/-! ### The receivers (R312 to R320) -/

/-- What a receiver finds: something that LAN_CODE_ERR counts, lock gained or lost, a lane frame of 16 bytes whose check holds, and a Skip or
ALIGN. -/
inductive RxEv where
  | error
  | gain
  | loss
  | frame (bs : List Byte)
  | skip
deriving DecidableEq, Repr

/-- A light-coded frame that has ended: a lane frame whose CRC-32 holds goes to the lane (R321). -/
def lightFrame (bs : List Byte) : List RxEv :=
  if bs.length = 20 ∧ 0xF0 ≤ (bs.getD 0 0).toNat ∧ beNat (bs.drop 16) = crc32 (bs.take 16) then [.frame (bs.take 16)] else []

/-- A valid symbol in lock on a lane with frames: K-codes where no ordered set has them are code errors (R159, R314). -/
def Rx.symbol (x : Rx) (c : Sym) : Rx × List RxEv :=
  let stray := ({ x with frame := none }, [RxEv.error])
  if !c.1 then ({ x with frame := x.frame.map fun f => c.2 :: f }, [])
  else if c = k28x5 then (if x.frame.isSome then stray else (x, []))
  else if c = k28x0 then (x, [.skip])
  else if c = k27x7 then ({ x with frame := some [] }, [])
  else
    match x.frame with
    | some f =>
      if c = k29x7 then ({ x with frame := none }, lightFrame (f.reverse.map fun b => BitVec.ofNat 8 b))
      else if c = k30x7 then ({ x with frame := none }, [])
      else stray
    | none => stray

/-- One more verdict among the last 64. -/
def Rx.judge (x : Rx) (invalid : Bool) : Rx := { x with bad := (invalid :: x.bad).take 64 }

/-- The invalid ones among the last 64. -/
def Rx.badCount (x : Rx) : Nat := (x.bad.filter id).length

/-- A light-coded line bit while the receiver hunts: lock after four K28.5 at one alignment with no invalid symbol between them (R313). -/
def Rx.lightHunt (x : Rx) (b : Bool) : Rx × List RxEv :=
  let w := (2 * x.win + b2n b) % 1024
  let c := x.cnt + 1
  let edge := 0 < x.good ∧ c = 10
  if (w = 0x0FA ∨ w = 0x305) ∧ 10 ≤ c + 10 * min 1 x.good then
    let n := if edge ∧ (symOf x.rd w).isSome then x.good + 1 else 1
    let y := { x with win := w, cnt := 0, rd := rdOf x.rd w, good := n }
    if n = 4 then ({ y with good := 0, bad := [], frame := none }, [.gain]) else (y, [])
  else if edge then
    match symOf x.rd w with
    | some _ => ({ x with win := w, cnt := 0, rd := rdOf x.rd w }, [])
    | none => ({ x with win := w, cnt := 10, good := 0 }, [])
  else ({ x with win := w, cnt := if x.good = 0 then min 10 c else c }, [])

/-- A light-coded line bit in lock: lost when four invalid symbols fall within 64 (R313). A camera lane passes its symbols on as they are. -/
def Rx.lightLocked (frames : Bool) (x : Rx) (b : Bool) : Rx × List RxEv :=
  let w := (2 * x.win + b2n b) % 1024
  if x.cnt + 1 < 10 then ({ x with win := w, cnt := x.cnt + 1 }, [])
  else
    let y := { x with win := w, cnt := 0, rd := rdOf x.rd w }
    match symOf x.rd w with
    | some c => if frames then (y.judge false).symbol c else (y.judge false, [])
    | none =>
      let z := { y.judge true with frame := none }
      if 4 ≤ z.badCount then (Rx.init, [.error, .loss]) else (z, [.error])

/-- The words of a payload of 192 bits. -/
def payWords (p : Nat) : List Nat := (List.range 8).map fun i => p / 2 ^ (168 - 24 * i) % 2 ^ 24

/-- The value of bits, most significant first. -/
def bitsNat (bs : List Bool) : Nat := bs.foldl (fun v b => 2 * v + b2n b) 0

/-- Whether a payload is that of an ALIGN (R318). -/
def isAlign (ws : List Nat) : Bool := ws.getD 0 0 == 0x015555 && decide (ws.getD 2 0 < 128) && (ws.drop 4).all (· == 0x555555)

/-- What a control block with descrambled words is to the lane: a lane frame; reserved types are discarded, others are the owner's (R316, R321). -/
def ctrlBlock (ws : List Nat) : List RxEv :=
  if ws.getD 0 0 / 65536 = 2 ∧ ws.getD 7 0 = crc24Words (ws.take 7) then
    [.frame (((ws.drop 1).take 6).flatMap (fun w => toBE w 3) |>.take 16)]
  else []

/-- A heavy-coded block in lock: ALIGN loads the generator, every other one runs it on, and is discarded before the first ALIGN, with an invalid
header, and after a stuffing error (R317 to R320). -/
def Rx.block (x : Rx) (hd : Nat) (p : Nat) : Rx × List RxEv :=
  let ok := hd == 1 || hd == 2
  let y := { x.judge (!ok) with win := 0, cnt := 0, spoilt := false }
  let err := if ok then [] else [RxEv.error]
  let ws := payWords p
  if 16 ≤ y.badCount then (Rx.init, err ++ [.loss])
  else if hd = 2 ∧ isAlign ws ∧ !x.spoilt then
    let seed := ws.getD 1 0 + 2 ^ 24 * ws.getD 2 0
    if seed = 0 then (y, []) else ({ y with gen := some seed, num := some (ws.getD 3 0) }, [.skip])
  else
    match x.gen with
    | none => (y, err)
    | some g =>
      let d := scramble g (msbBits 192 p)
      let z := { y with gen := some d.2 }
      if !ok || x.spoilt then (z, err) else if hd = 2 then (z, ctrlBlock (payWords (bitsNat d.1))) else (z, [])

/-- A heavy-coded line bit: the one after a run of 40 is discarded (R319); 194 others make a block. A receiver that hunts slips by a bit at an
invalid header, and locks after 64 valid ones (R320). -/
def Rx.heavyBit (lock : Bool) (x : Rx) (b : Bool) : Rx × List RxEv :=
  if x.run = 40 then
    let e := b == x.last
    ({ x with last := b, run := 1, spoilt := x.spoilt || e }, if e && lock then [.error] else [])
  else
    let x := { x with run := if 0 < x.run ∧ b = x.last then x.run + 1 else 1, last := b, win := 2 * x.win + b2n b, cnt := x.cnt + 1 }
    if x.cnt < 194 then (x, [])
    else
      let hd := x.win / 2 ^ 192
      if lock then x.block hd (x.win % 2 ^ 192)
      else if hd = 1 ∨ hd = 2 then
        let y := { x with win := 0, cnt := 0, spoilt := false, good := x.good + 1 }
        if y.good = 64 then ({ y with good := 0, bad := [], gen := none, num := none }, [.gain]) else (y, [])
      else ({ x with win := x.win % 2 ^ 193, cnt := 193, good := 0 }, [])

/-- One line bit, with the lock held before and after it. -/
def Rx.bit (heavy frames lock : Bool) (x : Rx) (b : Bool) : (Rx × List RxEv) :=
  if heavy then x.heavyBit lock b else if lock then x.lightLocked frames b else x.lightHunt b

/-- A stretch of line bits: the receiver after it, and what it found, in order. -/
def Rx.feed (heavy frames : Bool) : Bool → Rx → List Bool → Rx × List RxEv
  | _, x, [] => (x, [])
  | lock, x, b :: r =>
    let a := x.bit heavy frames lock b
    let t := Rx.feed heavy frames (if a.2.contains .gain then true else if a.2.contains .loss then false else lock) a.1 r
    (t.1, a.2 ++ t.2)

end Sys2Proof.Machine
end

