-- ==== Sys2Proof/Machine/Wire.lean ====
section
/-!
DEFINITION. What lanes and wale links put on the line: symbols and blocks of a lane's transmitter (R312 to R319), and wale messages with
their lanes, credits and order (R337, R341 to R349). A lane's fill moves the coder on but is not listed among the line bits.
-/

namespace Sys2Proof.Machine

/-- POS clocks in ps. -/
def Blk.nowPs (s : Blk) : Int := 4000 * (s.now : Int)

/-! ### Lanes and links (R309, R310, R337) -/

def isHead (n : Nat) : Bool := decide (n < 32)
def isWale (n : Nat) : Bool := decide (32 ≤ n ∧ n < 40)
def isCam (n : Nat) : Bool := decide (40 ≤ n)

/-- The symbol period of a light rate code, ps. -/
def symPs : Nat → Nat
  | 0 => 8000
  | 1 => 4000
  | 2 => 3200
  | 3 => 2000
  | _ => 1600

/-- The bit period of a rate code, in units of 0.5 ps. -/
def bitHalfPs : Nat → Nat
  | 0 => 1600
  | 1 => 800
  | 2 => 640
  | 3 => 400
  | 4 => 320
  | 5 => 200
  | 6 => 160
  | _ => 125

/-- The time a block of 194 bits takes, ps. -/
def blockPs (r : Nat) : Nat := 194 * bitHalfPs r / 2

/-- The time one lane frame takes, ps (R321): 23 symbols with its K28.5, or one heavy-coded block. -/
def laneFramePs (r : Nat) : Nat := if r < 5 then 23 * symPs r else blockPs r

def Blk.laneState (s : Blk) (n : Nat) : Nat := s.f (LAN_STATUS_STATE n)
def Blk.laneRate (s : Blk) (n : Nat) : Nat := s.f (LAN_STATUS_RATE n)
def Blk.laneUp (s : Blk) (n : Nat) : Bool := s.laneState n == 2
def Blk.laneHeavy (s : Blk) (n : Nat) : Bool := decide (5 ≤ s.laneRate n)

/-- The link of a wale lane (R337). -/
def Blk.linkOf (s : Blk) (n : Nat) : Nat :=
  if 36 ≤ n then 2 else if s.fb WAL_CFG_SPLIT && decide (34 ≤ n) then 1 else 0

/-- The lanes of a link. -/
def Blk.linkLanes (s : Blk) (l : Nat) : List Nat :=
  match l with
  | 0 => if s.fb WAL_CFG_SPLIT then [32, 33] else [32, 33, 34, 35]
  | 1 => if s.fb WAL_CFG_SPLIT then [34, 35] else []
  | _ => [36, 37, 38, 39]

/-- Whether the transmitter of a lane carries its owner's traffic: UP, not asleep, and awake for 6 µs (R333, R334), and for a
head lane with the head-link engines not under test (R460). -/
def Blk.canSend (s : Blk) (n : Nat) : Bool :=
  s.laneUp n && !(isHead n && s.underTest 10) && !s.fb (LAN_STATUS_TX_SLEEP n) && decide ((s.lane n).sendFrom ≤ s.now)

def Blk.linkUp (s : Blk) (l : Nat) : Bool := s.fb (WAL_LINK_STATUS_UP l)
def Blk.chipId (s : Blk) : Nat := bits (s.rn WAL_ID) 11 0

/-! ### Light coding on the line (R312, R315) -/

def Blk.setTx (s : Blk) (n : Nat) (x : Tx) : Blk := s.setLane n { s.lane n with tx := x }

/-- Line bits from an instant on, with the polarity of the pair. -/
def Blk.putLineBits (s : Blk) (n : Nat) (ps : Int) (bs : List Bool) : Blk :=
  { s with wires := (n, ps, if s.fb (LAN_CFG_TX_POL n) then bs.map not else bs) :: s.wires }

/-- Symbols since the last Skip, after `n` of them and then these. -/
def sinceSkip (n : Nat) (cs : List Sym) : Nat :=
  if cs.contains k28x0 then (cs.reverse.takeWhile fun c => c != k28x0).length else n + cs.length

/-- The coder of a lane comes to an instant: the symbols due are sent, and K28.5 fills the rest, with a Skip after every 2,047 symbols that
can hold none. A K28.5 turns the running disparity round, a Skip does not. -/
def Blk.txTo (s : Blk) (n : Nat) (ps : Int) : Blk :=
  let x := (s.lane n).tx
  let p : Int := symPs (s.laneRate n)
  let k := ((ps - x.free) / p).toNat
  let go := x.rest.take k
  let c := lightCode x.rd go
  let fill := k - go.length
  let since := sinceSkip x.skip go
  let q := min 2047 since + fill
  let turns := fill - q / 2048
  let y := { x with rd := c.2 != (turns % 2 == 1), skip := if fill = 0 then since else q % 2048, rest := x.rest.drop k, free := x.free + k * p }
  let s := s.setTx n y
  if go.isEmpty then s else s.putLineBits n x.free c.1

/-- Symbols follow those still to be sent; a Skip goes first where 4,096 symbols would otherwise hold none. -/
def Blk.txMore (s : Blk) (n : Nat) (ps : Int) (cs : List Sym) : Blk :=
  let x := (s.lane n).tx
  let skip := if 4095 ≤ sinceSkip x.skip x.rest + cs.length then [k28x0] else []
  s.setTx n { x with rest := x.rest ++ skip ++ cs, free := if x.rest.isEmpty then max x.free ps else x.free }

/-- Symbols are sent from an instant on. -/
def Blk.txPut (s : Blk) (n : Nat) (ps : Int) (cs : List Sym) : Blk := (s.txTo n ps).txMore n ps cs

/-- An ordered set between two symbols of what is being sent (R160). -/
def Blk.txIn (s : Blk) (n : Nat) (ps : Int) (cs : List Sym) : Blk :=
  let s := s.txTo n ps
  let x := (s.lane n).tx
  s.setTx n { x with rest := cs ++ x.rest, free := if x.rest.isEmpty then max x.free ps else x.free }

/-- What is being sent ends with Abort. -/
def Blk.txCut (s : Blk) (n : Nat) (ps : Int) : Blk :=
  let s := s.txTo n ps
  let x := (s.lane n).tx
  s.setTx n { x with rest := [k30x7], free := if x.rest.isEmpty then max x.free ps else x.free }

/-! ### Heavy coding on the line (R316 to R319) -/

/-- The slot of a block: blocks follow one another since time 0, and every 1,024th is an ALIGN, on every lane alike (R318). -/
def Blk.slotFrom (s : Blk) (n : Nat) (ps : Int) : Nat :=
  let p : Int := blockPs (s.laneRate n)
  ((ps + p - 1) / p).toNat

/-- ALIGN blocks of a lane beyond that cadence. -/
def Blk.alignExtra (s : Blk) (n : Nat) : Nat := (s.link (s.linkOf n)).extra

/-- A lane's generator at the first scrambled bit from a slot on: it has run over every other block but ALIGN (R317). -/
def Blk.genAt (s : Blk) (n slot : Nat) : Nat :=
  let z := (Config.laneSeed n).toNat
  genJump (if z = 0 then 1 else z) (192 * (slot - (slot + 1023) / 1024 - s.alignExtra n))

/-- The bits of a slot before stuffing: an ALIGN at its cadence, else the block given. -/
def Blk.slotBits (s : Blk) (n slot : Nat) (ctrl : Bool) (ws : List Nat) : List Bool :=
  if slot % 1024 = 0 then blockBits true (wordBits (alignWords (s.genAt n (slot + 1)) (slot / 1024 + s.alignExtra n)))
  else blockBits ctrl (scramble (s.genAt n slot) (wordBits ws)).1

/-- A slot's line bits, after an IDLE block where the slot before it was not listed. -/
def Blk.listSlot (s : Blk) (n slot : Nat) (ctrl : Bool) (ws : List Nat) : Blk :=
  let x := (s.lane n).tx
  let before := if x.free = slot then (x.last, x.run) else (stuff false 0 (s.slotBits n (slot - 1) true [])).2
  let e := stuff before.1 before.2 (s.slotBits n slot ctrl ws)
  (s.setTx n { x with last := e.2.1, run := e.2.2, free := slot + 1 }).putLineBits n (slot * blockPs (s.laneRate n) : Nat) e.1

/-- A block in a slot, with the ALIGN that it follows where that has not been listed. -/
def Blk.putSlot (s : Blk) (n slot : Nat) (ctrl : Bool) (ws : List Nat) : Blk :=
  let al := slot / 1024 * 1024
  (if (s.lane n).tx.free ≤ (al : Int) then s.listSlot n al true [] else s).listSlot n slot ctrl ws

/-- The first slot from `k` on that is not an ALIGN's. -/
def notAlign (k : Nat) : Nat := if k % 1024 = 0 then k + 1 else k

/-! ### Lane frames sent (R321, R323) -/

/-- The 16 bytes of a lane frame. -/
def laneFrame (w : List Nat) (seq : Nat) : List Byte :=
  (List.range 16).map fun i => if i = 10 then BitVec.ofNat 8 seq else BitVec.ofNat 8 (w.getD i 0)

/-- A lane frame in light coding with its K28.5, and now and then a Skip. -/
def laneSyms (w : List Nat) (seq : Nat) : List Sym :=
  frameSyms (laneBytes (laneFrame w seq)) ++ [k28x5] ++ if seq % 128 = 127 then [k28x0] else []

/-- The role, lane and chip ID of a lane frame (R321): type, flags, RATE_MASK, CUR_RATE, NEXT and FOM go before them. -/
def Blk.laneWho (s : Blk) (n : Nat) : List Nat :=
  [if isHead n then 1 else 2, if isHead n then 0 else (s.linkLanes (s.linkOf n)).findIdx (· == n), s.chipId / 256, s.chipId % 256]

/-- The lane frames of the training set sent so far are counted, and the coder comes to the end of the one under way. -/
def Blk.tsDone (s : Blk) (n : Nat) : Blk :=
  let x := (s.lane n).tx
  match x.ts with
  | none => s
  | some w =>
    if s.laneHeavy n then
      let a := s.slotFrom n x.since
      let b := max (a + 1) (s.slotFrom n s.nowPs)
      let k := b - a - ((b + 1023) / 1024 - (a + 1023) / 1024)
      s.setTx n { x with seq := (x.seq + k) % 256, ts := none }
    else
      let p := symPs (s.laneRate n)
      let m := ((s.nowPs - x.since) / p).toNat
      let k := 128 * m / 2945 + 1
      let r := (List.range k).foldl (fun (a : Bool × Nat) i =>
        let cs := laneSyms w ((x.seq + i) % 256)
        ((lightCode a.1 cs).2, a.2 + cs.length)) (x.rd, 0)
      s.setTx n { x with rd := r.1, skip := 0, seq := (x.seq + k) % 256, free := x.since + r.2 * p, ts := none }

/-- What a lane sends over and over in TRAIN, none while it sends nothing so (R323). -/
def Blk.tsNow (s : Blk) (n : Nat) : Option (List Nat) :=
  let x := s.lane n
  if s.laneState n ≠ 1 ∨ isCam n ∨ x.target.isSome then none
  else
    some ([0xF0 + b2n x.next.isSome, b2n x.rxOk + 2 * b2n (x.falling && x.next.isSome), x.mask, s.laneRate n, x.next.getD 0,
      s.f (LAN_FOM_CURRENT n)] ++ s.laneWho n)

/-- The training set follows the lane: where what it carries has changed, the first frame of the new one is listed. -/
def Blk.tsSend (s : Blk) (n : Nat) : Blk :=
  let want := s.tsNow n
  if want = (s.lane n).tx.ts then s
  else
    let s := s.tsDone n
    match want with
    | none => s
    | some w =>
      let x := (s.lane n).tx
      if s.laneHeavy n then
        let k := notAlign (max (s.slotFrom n s.nowPs) x.free.toNat)
        (s.setTx n { x with ts := want, since := (k * blockPs (s.laneRate n) : Nat) }).putSlot n k true (laneWords (laneFrame w x.seq))
      else
        let since := max x.free s.nowPs
        (s.setTx n { x with ts := want, since := since }).putLineBits n since (lightCode x.rd (laneSyms w x.seq)).1

/-- Four IDLE_REQ frames back to back, after what is being sent (R332). -/
def Blk.sendIdleReq (s : Blk) (n : Nat) : Blk :=
  (List.range 4).foldl (fun s _ =>
    let x := (s.lane n).tx
    let bs := laneFrame ([0xF2, 0, 0, s.laneRate n, 0, s.f (LAN_FOM_CURRENT n)] ++ s.laneWho n) x.seq
    let s := s.setTx n { x with seq := (x.seq + 1) % 256 }
    if s.laneHeavy n then
      let l := s.linkOf n
      let w := max 1 (s.linkLanes l).length
      s.putSlot n (notAlign (max (max (s.slotFrom n s.nowPs) x.free.toNat) (((s.link l).turn + w - 1) / w))) true (laneWords bs)
    else s.txPut n s.nowPs (frameSyms (laneBytes bs) ++ [k28x5])) s

/-! ### Wale messages on the line (R342 to R344) -/

/-- The words of a message's header block, which holds the check of the whole message. -/
def waleHead (ws : List Nat) : List Nat :=
  let h := 0x100000 :: ws.take 3 ++ [0, 0, 0]
  h ++ [crc24Words (h ++ ws.drop 3)]

/-- The bytes of a message in light coding. -/
def waleBytes (ws : List Nat) : List Byte :=
  let bs := ws.flatMap fun w => toBE w 3
  bs ++ toBE (crc32 bs) 4

/-- The first block of a link of `w` lanes from block `i` on that no ALIGN takes, for a TSYNC on the lowest lane. -/
def nextBlock (w i : Nat) (low : Bool) : Nat :=
  let i := if low then (i + w - 1) / w * w else i
  if i / w % 1024 = 0 then (i / w + 1) * w else i

/-- A message goes on the line: block i of a heavy-coded link on lane i mod W, a light-coded frame whole on the next lane in rotation, and a
TSYNC always on the lowest lane. The lane is given too. -/
def Blk.waleLine (s : Blk) (l : Nat) (low : Bool) (ws : List Nat) : Blk × Nat :=
  let ns := s.linkLanes l
  let w := max 1 ns.length
  let x := s.link l
  if s.fb (WAL_LINK_STATUS_HEAVY l) then
    let i := nextBlock w (max x.turn (w * s.slotFrom (ns.headD 0) s.nowPs)) low
    let lane := ns.getD (i % w) 0
    let s := s.putSlot lane (i / w) true (waleHead ws)
    if ws.length ≤ 3 then (s.setLink l { x with turn := i + 1 }, lane)
    else
      let j := nextBlock w (i + 1) false
      ((s.putSlot (ns.getD (j % w) 0) (j / w) false (ws.drop 3)).setLink l { x with turn := j + 1 }, lane)
  else
    let i := if low then 0 else x.turn
    let lane := ns.getD i 0
    ((s.txPut lane s.nowPs (frameSyms (waleBytes ws))).setLink l { x with turn := if low then x.turn else (i + 1) % w }, lane)

/-- The instant a message's first bit leaves its lane (R363): its header block's slot, or the K27.7 of its `k` symbols. -/
def Blk.waleStart (s : Blk) (l : Nat) (low : Bool) (k : Nat) : Int :=
  let ns := s.linkLanes l
  let w := max 1 ns.length
  let x := s.link l
  let n := ns.getD (if low then 0 else x.turn) 0
  if s.fb (WAL_LINK_STATUS_HEAVY l) then
    (nextBlock w (max x.turn (w * s.slotFrom (ns.headD 0) s.nowPs)) low / w * blockPs (s.laneRate (ns.headD 0)) : Nat)
  else
    let y := ((s.txTo n s.nowPs).lane n).tx
    let q := y.rest.length + if 4095 ≤ sinceSkip y.skip y.rest + k then 1 else 0
    (if y.rest.isEmpty then max y.free s.nowPs else y.free) + (q * symPs (s.laneRate n) : Nat)

/-! ### Sending with credits (R341, R348, R349) -/

/-- The credits of a link's transmitter (R348). -/
def Link.credits (x : Link) : Nat := 64 - (x.sent + 256 - x.ptFreed) % 256

def Blk.showCredits (s : Blk) (l : Nat) : Blk := s.setF (WAL_LINK_STATUS_CREDITS l) (if s.linkUp l then (s.link l).credits else 0)

/-- A message leaves on a link; its H0 carries SEQ and FREED. -/
def Blk.waleOut (s : Blk) (l seq : Nat) (ws : List Nat) : Blk :=
  let x := s.link l
  let s := s.setLink l { x with lastOut := s.now, owes := false }
  let ws := (ws.headD 0 / 65536 * 65536 + seq * 256 + x.freed % 256) :: ws.drop 1
  let k := ws.headD 0 / 65536
  let r := s.waleLine l (k == 4 || k == 5) ws
  r.1.emit (.wale l r.2 ws)

/-- A buffer of a link's receiver is freed. -/
def Blk.freeBuf (s : Blk) (l : Nat) : Blk :=
  if 2 < l then s
  else
    let x := s.link l
    s.setLink l { x with freed := (x.freed + 1) % 256, owes := true }

/-- Whether every lane of a link may carry its messages: none sleeps (R333). -/
def Blk.linkAwake (s : Blk) (l : Nat) : Bool := (s.linkLanes l).all s.canSend

/-- The first queued message of the lowest class. -/
def nextQueued (q : List Queued) : Option Queued :=
  q.foldl (fun o m => match o with
    | none => some m
    | some b => if m.prio < b.prio then some m else some b) none

/-- Queued messages leave while there are credits; a stall is counted once. -/
def drainLink (l : Nat) : Nat → Blk → Blk
  | 0, s => s
  | n + 1, s =>
    let x := s.link l
    match nextQueued x.queue with
    | none => s.setLink l { x with stalled := false }
    | some m =>
      if !s.linkAwake l then s
      else if x.credits = 0 then
        if x.stalled then s
        else ((s.setLink l { x with stalled := true }).incSat (WAL_CREDIT_STALLS l)).count 0x6D
      else
        let seq := (x.sent + 1) % 256
        let s := s.setLink l { x with queue := x.queue.erase m, sent := seq, stalled := false }
        let s := s.waleOut l seq m.words
        drainLink l n (s.freeBuf m.origin)

def Blk.drain (s : Blk) (l : Nat) : Blk := (drainLink l 200 s).showCredits l

/-- Buffered messages are queued on a link that is up and sent as credits allow. -/
def Blk.sendAll (s : Blk) (l : Nat) (ms : List Queued) : Blk :=
  if !s.linkUp l then s
  else
    let x := s.link l
    (s.setLink l { x with queue := x.queue ++ ms }).drain l

def Blk.sendBuffered (s : Blk) (l : Nat) (m : Queued) : Blk := s.sendAll l [m]

/-- The header words of an own message. -/
def Blk.header (s : Blk) (mtype dst hops tag : Nat) : List Nat := [mtype * 65536, dst * 4096 + s.chipId, hops * 2 ^ 19 + tag]

/-- A broadcast originated on a link. -/
def Blk.broadcast (s : Blk) (mtype prio l : Nat) (payload : List Nat) : Blk :=
  s.sendBuffered l ⟨prio, 3, s.header mtype 0 31 0 ++ payload⟩

/-- Pairing messages leave on WALE1 while that link is up, ahead of all but TSYNC (R285, R345, R349); a controller with chip ID 0 originates none
(R339). -/
def Blk.pairAll (s : Blk) (ms : List (List Nat)) : Blk :=
  if s.chipId = 0 then s else s.sendAll 2 (ms.map fun ws => ⟨1, 3, s.header 8 0 0 0 ++ ws⟩)

def Blk.pairOut (s : Blk) (ws : List Nat) : Blk := s.pairAll [ws]

end Sys2Proof.Machine
end

