-- ==== Sys2Proof/Machine/Role.lean ====
section
/-!
DEFINITION. The role of the unit in a pairing (R284 to R293): who holds the claim, whose decisions govern, the heartbeat
words, the release of the claim and the fault bits of TWN_HEALTH. Every fault that a unit finds in itself ends here.
-/

namespace Sys2Proof.Machine

def Blk.twnState (s : Blk) : Nat := s.f TWN_STATUS_STATE

/-- Whether the partner is heard (R293). -/
def Blk.heard (s : Blk) : Bool := s.fb TWN_STATUS_PARTNER_UP

/-- Whether the unit sends CLAIM = 1, LINE frames and FIRE: alone, or holding the claim (R184). -/
def Blk.claims (s : Blk) : Bool := s.twnState == 0 || s.fb TWN_HEALTH_CLAIM_HELD

/-- Whether the unit works in step with an active partner: a standby, or a unit that has joined it to resynchronise (R306). -/
def Blk.inStep (s : Blk) : Bool := s.twnState == 3 || (s.twnState == 4 && decide (6 ≤ s.f TWN_STATUS_RESYNC_STEP))

/-- Whether both units are heard: this one hears its partner, whose health word does not say that it hears nothing (R296, R303). -/
def Blk.bothHeard (s : Blk) : Bool := s.heard && !bitOf (s.rn TWN_PARTNER_HEALTH) 21

/-- Whether run-time changes are made as agreed changes (R295): in a pairing whose units are both heard. -/
def Blk.agrees (s : Blk) : Bool := s.twnState != 0 && s.bothHeard

/-- Whether the unit consumes its rings with the mirror (R294, R303). -/
def Blk.mirrors (s : Blk) : Bool := s.inStep && s.bothHeard

/-- Whether the partner's decisions govern this unit (R296): it is in step with it, or the partner alone is active. -/
def Blk.follows (s : Blk) : Bool := s.bothHeard && (s.inStep || (s.twnState != 0 && s.twnState != 2 && s.twn.ptState == 2))

/-- No fault bit, bits 6:0 of TWN_HEALTH, is set (R286). -/
def Blk.fit (s : Blk) : Bool := bits (s.rn TWN_HEALTH) 6 0 == 0

/-- Whether epoch `a` is newer than `b` (R185). -/
def newer (a b : Nat) : Bool :=
  let d := (a + 2 ^ 24 - b) % 2 ^ 24
  decide (1 ≤ d ∧ d < 2 ^ 23)

def newest (a b : Nat) : Nat := if newer a b then a else b

/-! ### The configuration sum (R298) -/

/-- Whether a register word is a print-path word of the sum: configuration words only, the active tone curves and threshold
array apart. -/
def inSum (a : Nat) : Bool :=
  let trk := fun k => decide (0x040000 ≤ a ∧ a < 0x040080 ∧ a % 32 = k)
  trk 0 || trk 3 || trk 4 || decide (0x048000 ≤ a ∧ a < 0x050000) ||
    a == 0x030000 || decide (0x030002 ≤ a ∧ a ≤ 0x03000b) ||
    decide (0x050000 ≤ a ∧ a ≤ 0x050003) || decide (0x050100 ≤ a ∧ a < 0x050200 ∧ a % 8 < 4) ||
    a == 0x060001 || decide (0x060008 ≤ a ∧ a < 0x06000c) || decide (0x080000 ≤ a ∧ a < 0x0a0000) ||
    a == 0x0c0002 || a == 0x0c0003 || decide (0x0c0008 ≤ a ∧ a < 0x0c000c) || decide (0x0c0010 ≤ a ∧ a < 0x0c0018) ||
    decide (0x0c1000 ≤ a ∧ a < 0x0c2000) ||
    decide (0x0a0000 ≤ a ∧ a < 0x0a2000 ∧ (a % 256 = 0 ∨ (16 ≤ a % 256 ∧ a % 256 < 24)))

/-- What one word contributes, value XOR address. -/
def xorTerm (v a : Nat) : Int := (v ^^^ a : Nat)

/-- The sum, modulo 2^24, of (value XOR word address) over every print-path word in force, less a constant: the sum of the
reset values, which both units share. -/
def Blk.cfgSum (s : Blk) : Nat :=
  let regs := (s.regs.filter fun e => inSum e.1).map fun e => xorTerm e.2.toNat e.1 - xorTerm (resetWord e.1).toNat e.1
  let tone := (s.cmp.tone.filter fun e => alook false s.cmp.toneAct (e.1 % 32768 / 1024) == decide (32768 ≤ e.1)).map
    fun e => xorTerm e.2 (0x058000 + e.1 % 32768) - xorTerm 0 (0x058000 + e.1 % 32768)
  let thr := (s.cmp.thr.filter fun e => s.cmp.thrAct == decide (65536 ≤ e.1)).map
    fun e => xorTerm e.2.toNat (0x061000 + e.1 % 512) - xorTerm 0 (0x061000 + e.1 % 512)
  ((Config.resetSum + (regs ++ tone ++ thr).sum) % 2 ^ 24).toNat

/-! ### Heartbeats (R292) -/

/-- READY ports as a mask (R292). -/
def Blk.readyMask (s : Blk) : Nat :=
  (List.range 32).foldl (fun m h => m + (if s.f (HLK_PORT_STATUS_STATE h) = 4 then 2 ^ h else 0)) 0

/-- The newest epoch the unit knows: its own, the partner's, and those of upstream frames (R289). -/
def Blk.newestEpoch (s : Blk) : Nat := newest (newest (s.rn TWN_EPOCH) (s.rn TWN_PARTNER_EPOCH)) s.twn.epoch

/-- The eight words of the heartbeat the unit sends now: its epoch while it holds the claim, else the newest it knows. -/
def Blk.hbWords (s : Blk) : List Nat :=
  let m := s.readyMask
  [2 ^ 20 + s.twn.seq % 256 * 2 ^ 12 + s.twnState, s.rn TWN_HEALTH,
    if s.fb TWN_HEALTH_CLAIM_HELD then s.rn TWN_EPOCH else s.newestEpoch, s.cfgSum,
    s.fireNum % 2 ^ 24, s.fireNum / 2 ^ 24, m % 2 ^ 24, s.twn.ptSeq % 256 * 2 ^ 16 + m / 2 ^ 24]

/-- A heartbeat is sent. `held` counts those in a row that show CLAIM_HELD (R291). -/
def Blk.sendHb (s : Blk) : Blk :=
  if s.twnState = 0 then s
  else
    let ws := s.hbWords
    let held := if s.fb TWN_HEALTH_CLAIM_HELD then s.twn.held + 1 else 0
    { s.pairOut ws with twn := { s.twn with seq := (s.twn.seq + 1) % 256, held := held, sentAt := s.now } }

/-! ### Roles (R286, R288) -/

/-- A LINE frame in progress on a port ends with Abort. -/
def Blk.abortLine (s : Blk) (h : Nat) : Blk :=
  let p := s.port h
  match p.frame with
  | some f =>
    if f.typ = 1 ∧ s.nowPs < f.endPs then ((s.setPort h { p with frame := none }).txCut h s.nowPs).emit (.abort h s.nowPs) else s
  | none => s

/-- The unit stops driving CLAIM_N and sending LINE and FIRE, and says so at once (R288). -/
def Blk.release (s : Blk) : Blk :=
  let s := (List.range 32).foldl Blk.abortLine s
  let s := (s.setF TWN_HEALTH_CLAIM_HELD 0).setF TWN_STATUS_DRIVING 0
  s.sendHb

/-- The unit takes a role. SYNCED reads 1 in ACTIVE, and a STANDBY keeps it (R308); the standby tests its stakes all the time (R304). -/
def Blk.setRole (s : Blk) (r : Nat) : Blk :=
  let s := s.setF TWN_STATUS_STATE r
  let s := if r = 2 then s.setF TWN_HEALTH_SYNCED 1 else if r = 3 then s else s.setF TWN_HEALTH_SYNCED 0
  (s.setF TWN_HEALTH_LBIST_ACTIVE (b2n (r == 3))).setF TWN_STATUS_RESYNC_STEP (if r = 4 then 1 else 0)

/-- A fault bit sets (R286, R301): an active unit fails and releases the claim, and that release is not one it refuses; a standby fails. -/
def Blk.faultBit (s : Blk) (x : Fld) : Blk :=
  if s.fb x then s
  else
    let s := s.setF x 1
    match s.twnState with
    | 2 =>
      let s := { s with twn := { s.twn with refused := true } }
      (s.setRole 5).release.raise 0x808 0 (s.rn TWN_HEALTH) (s.rn TWN_EPOCH)
    | 3 => (s.setRole 5).sendHb
    | _ => s.sendHb

end Sys2Proof.Machine
end

