-- ==== Sys2Proof/Machine/Dram.lean ====
section
/-!
DEFINITION. Image memory (R375 to R393): the address mapping, accesses through the requester ports with their row trackers
and power states, error correction, refresh, and frequency changes. Bytes are held by byte address.
-/

namespace Sys2Proof.Machine

/-! ### Geometry and mapping (R375, R377) -/

def Blk.ranks (s : Blk) : Nat := s.f DRM_CFG_RANKS

/-- Row bits of one rank. -/
def Blk.rowBits (s : Blk) : Nat := s.f DRM_CFG_CAP_LOG2 + 5 - s.ranks

/-- Usable capacity in bytes, 7/8 of it with ECC. -/
def Blk.capacity (s : Blk) : Nat :=
  let all := 8 * 2 ^ (s.f DRM_CFG_CAP_LOG2 + 20)
  if s.fb DRM_CFG_ECC then all / 8 * 7 else all

/-- Where a byte address lies: channel, rank, bank, row. -/
def Blk.place (s : Blk) (a : Nat) : Nat × Nat × Nat × Nat :=
  let g := s.f DRM_CFG_GRAIN_LOG2
  let u := a / 2 ^ g
  let l := u / 8 * 2 ^ g + a % 2 ^ g
  let q := l / 64 / (if s.fb DRM_CFG_ECC then 28 else 32)
  let row := q / 16 % 2 ^ s.rowBits
  (u % 8, q / 2 ^ (4 + s.rowBits), (q % 16) ^^^ (row % 16), row)

/-- The number of a bank among those of all channels. -/
def bankKey (w : Nat × Nat × Nat × Nat) : Nat := w.1 * 32 + w.2.1 * 16 + w.2.2.1

/-! ### Requests and the order in which a channel serves them (R378 to R380) -/

/-- The MEM clock period of a rate code, in ps. -/
def memPs : Nat → Nat
  | 0 => 2500
  | 1 => 1875
  | 2 => 1455
  | 3 => 1250
  | 4 => 1067
  | _ => 938

/-- The rate code of a timing set, 6 and 7 treated as 5. -/
def Blk.setRate (s : Blk) (k : Nat) : Nat := min 5 (bits (s.rn (DRM_TSET0 k)) 22 20)

/-- A word of the timing set in force, as it was when the set was loaded (R387). -/
def Blk.tset (s : Blk) (i : Nat) : Nat := s.dram.tset.getD i 0

/-- The MEM clock in force. -/
def Blk.memClk (s : Blk) : Nat := memPs (min 5 (bits (s.tset 0) 22 20))

/-- tRFCab of the set in force, ps. -/
def Blk.rfcPs (s : Blk) : Nat := bits (s.tset 3) 23 12 * s.memClk

/-- Read credits of a port, 384 in all, and whether it is of class print. -/
def readCredits (p : Nat) : Nat := if 1 ≤ p ∧ p ≤ 10 then 32 else 16
def isPrint (p : Nat) : Bool := decide (2 ≤ p ∧ p ≤ 10)

/-- Reads of a port that are outstanding, and bursts in the write queue. -/
def Dram.readsOut (d : Dram) (p : Nat) : Nat := (d.reqs.filter fun r => r.port == p && !r.write).length
def Dram.writesHeld (d : Dram) : Nat := (d.reqs.filter fun r => r.write).length

/-- Whether a port pauses with its next request: its credits are used, or the write queue is full, 32 of whose 128 bursts are for print. -/
def Dram.pauses (d : Dram) (p : Nat) (write : Bool) : Bool :=
  decide (p < 14) && if write then decide ((if isPrint p then 128 else 96) ≤ d.writesHeld) else decide (readCredits p ≤ d.readsOut p)

/-- What the order of service depends on beside the requests: the present in ps, the MEM clock and tRFCab in ps, THROT_INT in ps, and of each
port AGE_MAX and WEIGHT. -/
structure Service where
  now : Int
  clk : Nat
  rfc : Nat
  gap : Int
  age : Nat → Nat
  weight : Nat → Nat

def Blk.service (s : Blk) : Service :=
  ⟨s.nowPs, s.memClk, s.rfcPs, 10000 * (s.f DRM_RD_THROT_THROT_INT : Int), fun p => s.f (DRM_PORT_CFG_AGE_MAX p),
    fun p => max 1 (s.f (DRM_PORT_CFG_WEIGHT p))⟩

/-- When a request may be served: at once, but for a throttled port that has just activated the bank (R384). -/
def Dram.notBefore (d : Dram) (v : Service) (r : DReq) : Int :=
  if d.throt.any fun e => e.1 == r.port && e.2.1 == r.bank then
    match d.acts.find? fun e => e.1 == r.port * 256 + r.bank with
    | some e => max r.came (e.2 + v.gap)
    | none => r.came
  else r.came

/-- The class of a request at an instant: one of a bulk port that has waited AGE_MAX µs is one of print. -/
def DReq.classAt (r : DReq) (v : Service) (t : Int) : Nat :=
  if r.cls = 3 ∧ v.age r.port ≠ 0 ∧ r.came + 1000000 * (v.age r.port : Int) ≤ t then 1 else r.cls

/-- The bulk port whose turn it is on a channel, among those that wait: the same one while it has grants left, else the next of them. -/
def bulkTurn (turn : Nat × Nat) (ports : List Nat) : Option Nat :=
  if 0 < turn.2 ∧ ports.contains turn.1 then some turn.1
  else
    match (ports.filter fun p => decide (turn.1 < p)).min? with
    | some p => some p
    | none => ports.min?

/-- The command that a channel issues at an instant, of those that are ready (R380). -/
def Dram.pick (d : Dram) (v : Service) (c : Nat) (t : Int) (ready : List DReq) : Option DReq :=
  let cls := fun k => ready.find? fun r => r.classAt v t == k
  match cls 0, cls 1, cls 2 with
  | some r, _, _ => some r
  | none, some r, _ => some r
  | none, none, some r => some r
  | none, none, none =>
    let bulk := ready.filter fun r => r.cls == 3
    match bulkTurn (alook (0, 0) d.turn c) (bulk.map fun r => r.port) with
    | some p => bulk.find? fun r => r.port == p
    | none => ready.head?

/-- A command is issued: a bulk one uses a grant, and the channel is taken for a burst of four MEM clocks, or for a refresh. -/
def Dram.issue (d : Dram) (v : Service) (r : DReq) (t : Int) : Dram :=
  let own := r.cls == 0 || r.cls == 2
  let turn := alook (0, 0) d.turn r.chan
  let left := if turn.1 = r.port ∧ 0 < turn.2 then turn.2 else v.weight r.port
  { d with
    reqs := d.reqs.erase r
    busy := aput d.busy r.chan (t + ((if own then v.rfc else 4 * v.clk : Nat) : Int))
    turn := if r.classAt v t = 3 then aput d.turn r.chan (r.port, left - 1) else d.turn
    acts := if own then d.acts else aput d.acts (r.port * 256 + r.bank) t
    served := (r.chan, r.classAt v t, r.port) :: d.served.take 255 }

/-- A channel issues what it can by now. -/
def Dram.serve (v : Service) (c : Nat) : Nat → Dram → Dram
  | 0, d => d
  | n + 1, d =>
    let mine := d.reqs.filter fun r => r.chan == c
    match (mine.map (d.notBefore v)).min? with
    | none => d
    | some first =>
      let t := max first (alook 0 d.busy c)
      if v.now < t then d
      else
        match d.pick v c t (mine.filter fun r => decide (d.notBefore v r ≤ t)) with
        | none => d
        | some r => Dram.serve v c n (d.issue v r t)

/-- A request joins those that wait; a pause is counted. -/
def Dram.enqueue (d : Dram) (v : Service) (c p cls bank : Nat) (write : Bool) : Dram :=
  let d := d.serve v c (d.reqs.length + 1)
  let stalls := if d.pauses p write then aput d.stalls p (min u24max (alook 0 d.stalls p + 1)) else d.stalls
  Dram.serve v c 1 { d with reqs := d.reqs ++ [⟨c, p, cls, bank, write, v.now⟩], stalls := stalls }

/-- The controller's own commands on a channel: refresh, refresh management, and refreshes owed. -/
def Dram.refresh (v : Service) (c cls bank : Nat) : Nat → Dram → Dram
  | 0, d => d
  | n + 1, d => Dram.refresh v c cls bank n (d.enqueue v c 14 cls bank false)

/-- Refreshes of a channel are issued: the rolling counts of its banks fall (R382). -/
def Dram.refreshes (d : Dram) (v : Service) (c cls n : Nat) : Dram :=
  let d := Dram.refresh v c cls 0 n d
  { d with
    raa := d.raa.filterMap fun e =>
      if e.1 / 32 ≠ c then some e else if e.2 ≤ n * d.raaMax then none else some (e.1, e.2 - n * d.raaMax) }

/-- An activation counts toward its bank's rolling count; at the value that training read, refresh management is issued and the count falls
by it (R382). -/
def Dram.raaCount (d : Dram) (v : Service) (w : Nat × Nat × Nat × Nat) : Dram :=
  let k := bankKey w
  let n := alook 0 d.raa k + 1
  if d.raaMax ≠ 0 ∧ d.raaMax ≤ n then ({ d with raa := aput d.raa k (n - d.raaMax) } : Dram).enqueue v w.1 14 0 k false
  else { d with raa := aput d.raa k n }

/-- What happens to the memory alone. -/
def Blk.withDram (s : Blk) (f : Service → Dram → Dram) : Blk := { s with dram := f s.service s.dram }

def Blk.refreshes (s : Blk) (c cls n : Nat) : Blk := s.withDram fun v d => d.refreshes v c cls n

/-! ### Row-disturb protection (R383, R384) -/

/-- One activation in a bank's tracker: the new slots, and the row's count. -/
def trackRow (t : List (Nat × Nat)) (row : Nat) : List (Nat × Nat) × Nat :=
  match t.find? fun e => e.1 == row with
  | some e => (t.map fun x => if x.1 = row then (row, x.2 + 1) else x, e.2 + 1)
  | none =>
    if t.length < 16 then (t ++ [(row, 1)], 1)
    else
      match t.map Prod.snd |>.min? with
      | none => (t, 0)
      | some m =>
        let i := t.findIdx fun (e : Nat × Nat) => e.2 == m
        (t.set i (row, m + 1), m + 1)

/-- Ports throttled now, as DRM_RD_STATUS shows them. -/
def Blk.showThrot (s : Blk) : Blk :=
  s.setF DRM_RD_STATUS_THROTTLED
    (((List.range 14).filter fun p => s.dram.throt.any fun e => e.1 == p).foldl (fun (m : Nat) p => m + 2 ^ p) 0)

/-- A port is throttled at a bank; one that is throttled already restarts its time. -/
def Blk.throttle (s : Blk) (p : Nat) (w : Nat × Nat × Nat × Nat) : Blk :=
  let stop := s.now + 2500 * s.f DRM_RD_THROT_THROT_TIME
  let others := s.dram.throt.filter fun e => !(e.1 == p && e.2.1 == bankKey w)
  let throt := (others.map fun e => if e.1 = p then (p, e.2.1, stop) else e) ++ [(p, bankKey w, stop)]
  { s with dram := { s.dram with throt := throt } }

/-- A port crosses the threshold: refresh management, and the port is throttled. Patrol scrub is no port and is not throttled; the spec names no port
for it in the event: a free value. -/
def Blk.rowDisturb (s : Blk) (p : Nat) (w : Nat × Nat × Nat × Nat) : Blk :=
  let s := if p < 14 then s.throttle p w else s
  let p := if p < 14 then p else Config.patrolPort.toNat
  let s := s.withDram fun v d => d.enqueue v w.1 14 0 (bankKey w) false
  let s := ((s.showThrot.setF DRM_RD_STATUS_CROSSED 1).count 0x73)
  s.raise 0xB02 p (p * 2 ^ 12 + w.1 * 2 ^ 8 + w.2.1 * 16 + w.2.2.1) w.2.2.2

/-- One activation by a port. -/
def Blk.activate (s : Blk) (p a : Nat) : Blk :=
  let th := s.f DRM_RD_CFG_THRESH
  if th = 0 then s
  else
    let w := s.place a
    let key := bankKey w
    let r := trackRow (alook [] s.dram.rows key) w.2.2.2
    let cross := decide (th ≤ r.2)
    let t := if cross then r.1.map fun (e : Nat × Nat) => if e.1 = w.2.2.2 then (e.1, 0) else e else r.1
    let s := { s with dram := { s.dram with rows := aput s.dram.rows key t } }
    if cross then s.rowDisturb p w else s

/-! ### Power states (R385, R386) -/

/-- The budgets of the set in force: B_SR in µs and B_PD in ns (R385). -/
def Blk.showBudget (s : Blk) : Blk :=
  let ps := s.memClk
  let pd := bits (s.tset 5) 15 8 * ps / 1000 + 100
  let sr := ((bits (s.tset 5) 7 0 + bits (s.tset 3) 11 0) * ps + 1000000 + 999999) / 1000000
  (s.setF DRM_LAT_BUDGET_B_SR sr).setF DRM_LAT_BUDGET_B_PD pd

/-- A set is loaded (R387): it is the set in force, with its words as they stand now. -/
def Blk.loadSet (s : Blk) (k : Nat) : Blk :=
  let s := s.setF DRM_STATUS_SET k
  { s with dram := { s.dram with tset := (List.range 8).map fun i => s.rn (DRM_TSET0 k + i), trackAt := s.now } }.showBudget

/-- Whether the tolerance permits self-refresh. -/
def Blk.srAllowed (s : Blk) : Bool :=
  decide (s.f DRM_LAT_BUDGET_B_SR + s.f DRM_PWR_CFG_SR_MARGIN ≤ s.rn PGE_LAT_TOL)

/-- A request reaches channel `c`: it leaves POWER_DOWN, and all leave SELF_REFRESH; one that comes before the entry commands aborts the
entry, a later one waits for the exit, and either is counted (R386). -/
def Blk.request (s : Blk) (c p cls bank : Nat) (write : Bool) : Blk :=
  let s := { s with dram := { s.dram with last := aput s.dram.last c s.now } }
  let s := if s.dram.sr then
      let x := if s.now < s.dram.srAt then DRM_PWR_STATUS_ABORTED else DRM_PWR_STATUS_WAITED
      let s := (s.setF DRM_PWR_STATUS_LOW 0).setF x ((s.f x + 1) % 256)
      { s with dram := { s.dram with sr := false } }
    else s.setF ⟨DRM_PWR_STATUS, c, c⟩ 0
  let s := s.withDram fun v d => d.serve v c (d.reqs.length + 1)
  let s := if s.dram.pauses p write then s.count 0x74 else s
  s.withDram fun v d => d.enqueue v c p cls bank write

/-! ### Accesses -/

/-- One burst by a port: in range it is requested and activates its row; out of range it is an address fault (R377). -/
def Blk.burst (p : Nat) (write : Bool) (s : Blk) (a : Nat) : Blk :=
  if s.capacity ≤ a then s.raise 0xB08 p p (a / 64 % 2 ^ 24)
  else
    let w := s.place a
    let s := s.request w.1 p (if isPrint p then 1 else 3) (bankKey w) write
    (s.withDram fun v d => d.raaCount v w).activate p a

/-- The bursts that hold bytes `a` to `a + n - 1`. -/
def bursts (a n : Nat) : List Nat :=
  if n = 0 then [] else (List.range ((a + n - 1) / 64 - a / 64 + 1)).map fun i => (a / 64 + i) * 64

/-- A port accesses a stretch of image memory. -/
def Blk.access (s : Blk) (p a n : Nat) (write : Bool := false) : Blk := (bursts a n).foldl (Blk.burst p write) s

/-- What a port reads: zeros out of range. -/
def Blk.imgRead (s : Blk) (a n : Nat) : List Byte :=
  let cap := s.capacity
  (List.range n).map fun i => if a + i < cap then s.memRead (a + i) else 0

/-- What a port writes: bytes out of range are dropped. -/
def Blk.imgWrite (s : Blk) (p a : Nat) (bs : List Byte) : Blk :=
  (s.access p a bs.length true).memWrites a (bs.take (s.capacity - a))

/-! ### Error correction (R391, R392) -/

/-- A fatal memory error, reported once until reset (R392). -/
def Blk.memFatal (s : Blk) (cause : Nat) : Blk :=
  if s.fb DRM_STATUS_FATAL then s
  else ((s.setF DRM_STATUS_FATAL 1).raise 0xB07 0 cause (s.rn DRM_ECC_UE)).faultBit TWN_HEALTH_MEMORY

/-- An uncorrectable error in the burst at `a`, read by port `p`; `host` for ports 12 and 13. -/
def Blk.eccUe (s : Blk) (p : Nat) (host : Bool) (a : Nat) : Blk :=
  let b := a / 64
  let s := (s.incSat DRM_ECC_UE).setVal DRM_ECC_ADDR b 2
  let s := s.raise 0xB04 p (p * 2 ^ 12 + (s.place a).1 * 2 ^ 8 + b / 2 ^ 24 % 64) (b % 2 ^ 24)
  let ues := s.now :: s.dram.ues.filter fun t => s.now < t + 250000000
  let s := { s with dram := { s.dram with ues := ues } }
  if host then s.memFatal 1
  else if atLeast1 (s.f DRM_CFG_UE_LIMIT) < ues.length then s.memFatal 2
  else s

/-- A corrected error; ECC_CORRECTED is raised at most once per ms. -/
def Blk.eccCe (s : Blk) (a : Nat) : Blk :=
  let s := (s.incSat DRM_ECC_CE).count 0x72
  let due := match s.dram.ceAt with
    | none => true
    | some t => decide (t + 250000 ≤ s.now)
  if due then { s.raise 0xB03 0 ((s.place a).1 * 2 ^ 8) (a / 64 % 2 ^ 24) with dram := { s.dram with ceAt := some s.now } }
  else s

/-- What error correction reports for a read of the burst at `a` by port `p`; without ECC it reports nothing. -/
def Blk.ecc (s : Blk) (p a : Nat) (e : MemErr) : Blk :=
  if !s.fb DRM_CFG_ECC then s
  else
    match e with
    | .none => s
    | .corrected => s.eccCe a
    | .uncorrectable => s.eccUe p (p == 12 || p == 13) a

/-- Whether a read failed. -/
def Blk.bad (s : Blk) (e : MemErr) : Bool := s.fb DRM_CFG_ECC && e == .uncorrectable

/-! ### Refresh (R381) -/

def Blk.owed (s : Blk) (c : Nat) : Nat := alook 0 s.dram.owed c

/-- DRM_REF_OWED shows the channel that owes most. -/
def Blk.showOwed (s : Blk) : Blk :=
  let m := ((List.range 8).map s.owed).foldl max 0
  let c := (List.range 8).findIdx fun c => s.owed c == m
  (s.setF DRM_REF_OWED_CHAN (if m = 0 then 0 else c)).setF DRM_REF_OWED_COUNT m

/-- Every refresh owed is issued, back to back. -/
def Blk.payOwed (s : Blk) (cls : Nat) : Blk :=
  s.withDram fun v d => { (List.range 8).foldl (fun d c => d.refreshes v c cls (alook 0 d.owed c)) d with owed := [] }

/-- The channels become or stop being latency-critical after a change of PGE_LAT_TOL; owed refreshes are then issued. -/
def Blk.critical (s : Blk) : Blk :=
  let crit := decide (s.rn PGE_LAT_TOL < s.f DRM_REF_CFG_CRIT_US)
  if crit == s.fb DRM_STATUS_CRITICAL then s
  else if crit then s.setF DRM_STATUS_CRITICAL 1
  else
    let s := (s.setF DRM_STATUS_CRITICAL 0).payOwed 2
    { s with dram := { s.dram with forced := false } }.showOwed

/-- A channel's refresh interval expires: the refresh is issued, or owed while the channel is latency-critical. -/
def refreshDue (c : Nat) (s : Blk) : Blk :=
  let s := s.critical
  if s.dram.sr then s
  else if !s.fb DRM_STATUS_CRITICAL then s.refreshes c 0 1
  else if s.owed c < min 8 (s.f DRM_REF_CFG_POSTPONE_MAX) then
    ({ s with dram := { s.dram with owed := aput s.dram.owed c (s.owed c + 1) } }.showOwed).count 0x71
  else
    let was := s.dram.forced
    let s := (s.refreshes c 0 1).withDram fun _ d => { d with forced := true }
    if was then s else s.raise 0xB05 c (c * 2 ^ 8) (s.rn PGE_LAT_TOL)

def execRefreshDue (c : Fin 8) (s : State) : Res := s.on (refreshDue c)

/-- A throttle ends (R384). -/
def throttleEnd (p t : Nat) (s : Blk) : Blk :=
  let s := s.advance t
  { s with dram := { s.dram with throt := s.dram.throt.filter fun e => e.1 != p || decide (s.now < e.2.2) } }.showThrot

def execThrottleEnd (p : Fin 14) (t : Nat) (s : State) : Res := s.on (throttleEnd p t)

/-- Every WINDOW ms the trackers are cleared (R383). -/
def trackerWindow (t : Nat) (s : Blk) : Blk :=
  let s := s.advance t
  if s.now < s.dram.windowAt + 250000 * atLeast1 (s.f DRM_RD_CFG_WINDOW) then s
  else { s with dram := { s.dram with rows := [], windowAt := s.now } }

def execTrackerWindowClear (t : Nat) (s : State) : Res := s.on (trackerWindow t)

/-- The latest request of a channel, in POS clocks. -/
def Blk.lastReq (s : Blk) (c : Nat) : Nat := alook 0 s.dram.last c

/-- A channel enters POWER_DOWN (R385). -/
def powerDownEntry (c t : Nat) (s : Blk) : Blk :=
  let s := s.advance t
  let ps := s.memClk
  if s.fb DRM_PWR_CFG_PD_EN && !s.dram.sr && decide (1 ≤ s.rn PGE_LAT_TOL) &&
      decide (atLeast1 (s.f DRM_PWR_CFG_IDLE_PD) * ps ≤ (s.now - s.lastReq c) * 4000) then
    s.setF ⟨DRM_PWR_STATUS, c, c⟩ 1
  else s

def execPowerDownEntry (c : Fin 8) (t : Nat) (s : State) : Res := s.on (powerDownEntry c t)

/-- All channels enter SELF_REFRESH; owed refreshes are issued first, and the entry commands after them (R385, R386). -/
def selfRefreshEntry (t : Nat) (s : Blk) : Blk :=
  let s := s.advance t
  let idle := (List.range 8).all fun c => decide (atLeast1 (s.f DRM_PWR_CFG_IDLE_SR) * 250 ≤ s.now - s.lastReq c)
  if s.fb DRM_PWR_CFG_SR_EN && !s.dram.sr && s.srAllowed && idle then
    let s := (s.setF DRM_PWR_STATUS_LOW 255).count 0x75
    let at1 := s.now + ((List.range 8).map s.owed).foldl max 0 * s.rfcPs / 4000
    ((s.payOwed 0).withDram fun _ d => { d with sr := true, srAt := at1 }).showOwed
  else s

def execSelfRefreshEntry (t : Nat) (s : State) : Res := s.on (selfRefreshEntry t)

/-- All channels leave SELF_REFRESH when the tolerance no longer covers its exit (R385). -/
def selfRefreshExit (t : Nat) (s : Blk) : Blk :=
  let s := s.advance t
  if s.dram.sr && !s.srAllowed then { s.setF DRM_PWR_STATUS_LOW 0 with dram := { s.dram with sr := false } } else s

def execSelfRefreshExit (t : Nat) (s : State) : Res := s.on (selfRefreshExit t)

/-! ### Frequency change and training (R387 to R389) -/

/-- DRM_CTRL.FC_GO with FC_SET (R388). -/
def fcGo (w : Nat) (s : Blk) : Blk :=
  let k := bits w 1 0
  if !bitOf w 2 then s
  else if !bitOf (s.rn (DRM_TSET0 k)) 23 then s.setF DRM_STATUS_FC_REJ 1
  else
    let s := if s.dram.fc.isSome then s.setF DRM_STATUS_MERGED 1 else s
    { s.setF DRM_STATUS_FC_PENDING 1 with dram := { s.dram with fc := some k } }

/-- DRM_CTRL.CLEAR_COUNTS (R395). -/
def drmClear (s : Blk) : Blk :=
  let s := (s.wn DRM_ECC_CE 0).wn DRM_ECC_UE 0
  { s with dram := { s.dram with stalls := [] } }

def execDrmClearCounts (s : State) : Res := s.on drmClear

/-- A write of DRM_CTRL. -/
def drmCtrl (w : Nat) (s : Blk) : Blk :=
  let s := if bitOf w 3 then drmClear s else s
  fcGo w s

def execFcGo (w : Word) (s : State) : Res := s.on (fcGo (setBits w.toNat 3 3 0))

/-- Training of set `k` fails on a channel at a step (R389). -/
def Blk.trainFail (s : Blk) (k c step : Nat) : Blk :=
  let t := s.wn (DRM_TSET0 k) (setBits (s.rn (DRM_TSET0 k)) 19 19 0)
  t.raise 0xB01 c (c * 2 ^ 8 + k) step

/-- The pending change is carried out at the first moment its conditions hold (R388). `fail` is the channel and step on which
training of an untrained set fails. -/
def frequencyChange (fail : Option (Nat × Nat)) (s : Blk) : Blk :=
  match s.dram.fc with
  | none => s
  | some k =>
    let trained := bitOf (s.rn (DRM_TSET0 k)) 19
    let room := decide (s.f DRM_LAT_BUDGET_B_SR + 25 + s.f DRM_PWR_CFG_SR_MARGIN ≤ s.rn PGE_LAT_TOL)
    if !(s.allIdle || room) || !(trained || s.allIdle) then s
    else
      let s := (s.setF DRM_STATUS_FC_PENDING 0).payOwed 0
      let s := { s with dram := { s.dram with fc := none } }.showOwed
      match (if trained then none else fail) with
      | some c => s.trainFail k c.1 c.2
      | none =>
        let s := s.wn (DRM_TSET0 k) (setBits (s.rn (DRM_TSET0 k)) 19 19 1)
        let s := (s.loadSet k).count 0x75
        s.raise 0xB06 0 k (s.setRate k)

def execFrequencyChange (fail : Option (Fin 8 × Fin 4)) (s : State) : Res :=
  s.on (frequencyChange (fail.map fun p => (p.1.val, p.2.val)))

/-- The oscillator tracking of the set in force, every TRACK_MS ms; a failure clears TRAINED (R389). -/
def wckTracking (t : Nat) (fail : Option Nat) (s : Blk) : Blk :=
  let s := s.advance t
  if s.now < s.dram.trackAt + 250000 * atLeast1 (s.f DRM_CFG_TRACK_MS) then s
  else
    let s := { s with dram := { s.dram with trackAt := s.now } }
    match fail with
    | none => s
    | some c => s.trainFail (s.f DRM_STATUS_SET) c 4

def execWckTracking (t : Nat) (fail : Option (Fin 8)) (s : State) : Res := s.on (wckTracking t (fail.map Fin.val))

/-- Patrol scrub reads a burst (R392). The spec names no port for it in ECC_UNCORRECTED: a free value. -/
def patrolScrub (b : Nat) (e : MemErr) (s : Blk) : Blk :=
  if !s.fb DRM_CFG_PATROL || decide (s.capacity ≤ 64 * b) then s
  else
    let w := s.place (64 * b)
    let s := ((s.request w.1 14 4 (bankKey w) false).withDram fun v d => d.raaCount v w).activate 14 (64 * b)
    match (if s.fb DRM_CFG_ECC then e else .none) with
    | .none => s
    | .corrected => s.eccCe (64 * b)
    | .uncorrectable => s.eccUe Config.patrolPort.toNat false (64 * b)

def execPatrolScrub (b : Nat) (e : MemErr) (s : State) : Res := s.on (patrolScrub b e)

end Sys2Proof.Machine
end

