-- ==== Sys2Proof/Machine/Rings.lean ====
section
/-!
DEFINITION. The 16 rings (R41, R484 to R486): room, entries, producing and consuming, with the mirror of consumed entries
(R294), and the trace records of ring 15 (R488).
-/

namespace Sys2Proof.Machine

def Blk.ringOn (s : Blk) (r : Nat) : Bool := s.fb (RING_CFG_EN r)

/-- SIZE: 2^SIZE_LOG2 entries, 16 to 65,536. -/
def Blk.ringSize (s : Blk) (r : Nat) : Nat := 2 ^ clampN 4 16 (s.f (RING_CFG_SIZE_LOG2 r))

/-- Entries held: (PROD - CONS) mod 2^24. -/
def Blk.ringCount (s : Blk) (r : Nat) : Nat :=
  (s.rn (RING_PROD r) + 2 ^ 24 - s.rn (RING_CONS r)) % 2 ^ 24

/-- Whether the controller finds no room on a ring it produces; a disabled ring counts as full (R485). -/
def Blk.ringFull (s : Blk) (r : Nat) : Bool := !s.ringOn r || s.ringSize r ≤ s.ringCount r

/-- Whether the controller has an entry to take from a ring it consumes (R485). -/
def Blk.ringHas (s : Blk) (r : Nat) : Bool := s.ringOn r && s.ringCount r != 0

/-- The address of the entry with an index. -/
def Blk.ringAddr (s : Blk) (r i : Nat) : Nat := s.val (RING_BASE r) 2 / 4096 * 4096 + 32 * (i % s.ringSize r)

/-- The requester port of a ring (R378). -/
def ringPort (r : Nat) : Nat := if r = 12 then 13 else 12

/-- Writes a whole entry and then advances PROD (R486). The caller has found room. -/
def Blk.ringPut (s : Blk) (r : Nat) (ws : List Nat) : Blk :=
  let t := s.imgWrite (ringPort r) (s.ringAddr r (s.rn (RING_PROD r))) (entryBytes ws)
  t.wn (RING_PROD r) ((s.rn (RING_PROD r) + 1) % 2 ^ 24)

/-- A record that is dropped where the ring is full (R486: rings 6, 7 and 15). -/
def Blk.ringPutOrDrop (s : Blk) (r : Nat) (ws : List Nat) : Blk :=
  if s.ringFull r then s.incSat (RING_DROPS r) else s.ringPut r ws

/-- The eight words of the entry at the front of a ring. -/
def Blk.ringFront (s : Blk) (r : Nat) : List Nat :=
  let bs := s.imgRead (s.ringAddr r (s.rn (RING_CONS r))) 32
  (List.range 8).map fun i => leNat (slice bs (4 * i) 4)

/-- CONS advanced past the front entry (R486). -/
def Blk.ringPop (s : Blk) (r : Nat) : Blk :=
  let t := s.access (ringPort r) (s.ringAddr r (s.rn (RING_CONS r))) 32
  t.wn (RING_CONS r) ((s.rn (RING_CONS r) + 1) % 2 ^ 24)

/-- A trace record of severity 0 on ring 15 (R488). -/
def Blk.trace (s : Blk) (code inst d0 d1 : Nat) : Blk :=
  match (s.raise code inst d0 d1).evq.getLast? with
  | some e => s.ringPutOrDrop 15 (e.words 0)
  | none => s

/-! ### The mirror (R294) -/

/-- The agreed-line lead, 4 to 15. -/
def Blk.twnLead (s : Blk) : Nat := max 4 (s.f TWN_CFG_LEAD)

/-- An agreed change is sent: it waits for line F = HLK_FIRE_NUM + LEAD (R295). -/
def Blk.agree (s : Blk) (typ addr val : Nat) : Blk :=
  let fire := (s.fireNum + s.twnLead) % 2 ^ 48
  let s := { s with twn := { s.twn with agreed := s.twn.agreed ++ [(⟨fire, typ, addr, val, false, s.twn.seq⟩ : Agr)] } }
  s.pairOut ([3 * 2 ^ 20, fire % 2 ^ 24, fire / 2 ^ 24, typ, addr % 2 ^ 24, val % 2 ^ 24, 0, 0])

/-- The mirrored entry of a ring that is to be acted on next. -/
def Blk.mirrored (s : Blk) (r : Nat) : Option Mirrored := s.twn.due.find? fun m => m.ring == r

/-- Whether the controller may consume the front entry of a ring of R294: a mirrored entry always; else a standby in step with its
partner waits for the mirror, an active unit for room on ring 12 (R486), and one that is still owed comparisons for them. -/
def Blk.mayTake (s : Blk) (r : Nat) : Bool :=
  (s.mirrored r).isSome ||
    (s.ringHas r && !s.mirrors && !(s.twnState == 2 && s.ringFull 12) && !s.twn.wait.any fun e => e.1 == r)

/-- The entry that would be consumed next. -/
def Blk.nextEntry (s : Blk) (r : Nat) : List Nat :=
  match s.mirrored r with
  | some m => m.words
  | none => s.ringFront r

/-- The two MIRROR messages of an entry. -/
def mirrorWords (r fire : Nat) (ws : List Nat) (part : Nat) : List Nat :=
  [4 * 2 ^ 20 + part, fire % 2 ^ 24, fire / 2 ^ 24, r] ++ (List.range 4).map fun i => ws.getD (4 * part + i) 0 % 2 ^ 24

/-- The next entry of a ring is consumed; an active unit copies it to ring 12 and sends it to its partner at once (R41,
R294). -/
def Blk.takeFront (s : Blk) (r : Nat) : Blk :=
  match s.mirrored r with
  | some m => { s with twn := { s.twn with due := s.twn.due.erase m } }
  | none =>
    let ws := s.ringFront r
    let s := s.ringPop r
    if s.twnState == 2 then
      (((s.ringPut 12 ws).ringPop 12).pairOut (mirrorWords r s.fireNum ws 0)).pairOut (mirrorWords r s.fireNum ws 1)
    else s

end Sys2Proof.Machine
end

