-- ==== Sys2Proof/Machine/Axes.lean ====
section
/-!
DEFINITION. The stepper axes (R254 to R281): states and commands, the profile planner, microstep targets, the chopper and
its offset loop, stall checks, switches, homing and gearing. Each operation is for one axis `n`.
-/

namespace Sys2Proof.Machine

def Blk.ax (s : Blk) (n : Nat) : Ax := Tab.get (fun _ => Ax.init) s.axes n
def Blk.setAx (s : Blk) (n : Nat) (x : Ax) : Blk := { s with axes := Tab.put (fun _ => Ax.init) s.axes n x }

/-! ### Positions and states -/

def Blk.axPos (s : Blk) (n : Nat) : Int := s.sval (AXS_POS n) 2 48
def Blk.setAxPos (s : Blk) (n : Nat) (p : Int) : Blk := s.setSval (AXS_POS n) 2 48 p
def Blk.axState (s : Blk) (n : Nat) : Nat := s.f (AXS_STATUS_STATE n)
def Blk.setAxState (s : Blk) (n v : Nat) : Blk := s.setF (AXS_STATUS_STATE n) v
def Blk.setActTarget (s : Blk) (n : Nat) (x : Int) : Blk := s.setSval (AXS_ACT_TARGET n) 2 48 x

/-- MODE, 2 and 3 treated as 0: true for GEAR. -/
def Blk.axGear (s : Blk) (n : Nat) : Bool := s.f (AXS_CFG_MODE n) == 1

/-- AXS_GEAR.SRC with its reserved codes treated as 0: 0 to 7 an encoder, 8 the shuttle feed (R276). -/
def Blk.gearSrc (s : Blk) (n : Nat) : Nat := if 8 < s.f (AXS_GEAR_SRC n) then 0 else s.f (AXS_GEAR_SRC n)

/-- Counts per microstep, NUM over DEN (R269). -/
def Blk.encRatio (s : Blk) (n : Nat) : Int × Nat := (sext 24 (s.rn (AXS_ENC_NUM n)), atLeast1 (s.rn (AXS_ENC_DEN n)))

/-- The axis count (R269). -/
def Blk.axCount (s : Blk) (n : Nat) : Int :=
  if s.fb (AXS_CFG_ENC_EN n) then s.encCount (s.f (AXS_CFG_ENC n))
  else
    let r := s.encRatio n
    roundDiv (s.axPos n * r.1) r.2

/-- The stall reference is captured (R270). -/
def Blk.captureRef (s : Blk) (n : Nat) : Blk :=
  s.setAx n { s.ax n with p0 := s.axPos n, c0 := s.axCount n, stalls := 0 }

/-- AXS_VEL shows the velocity, saturating (R281). -/
def Blk.showVel (s : Blk) (n : Nat) : Blk := s.setSval (AXS_VEL n) 1 24 (satS 24 ((s.ax n).v / 2 ^ 32))

/-- A command or target is rejected with a cause (R256, R262). -/
def Blk.axReject (s : Blk) (n cause : Nat) : Blk :=
  ((s.setF (AXS_STATUS_REJ n) 1).setF (AXS_STATUS_REJ_CAUSE n) cause).raise 0x704 n n cause

/-! ### Switches (R272, R273) -/

/-- The debounced levels: 0 HOME, 1 LIMP, 2 LIMN. -/
def Blk.swActive (s : Blk) (n i : Nat) : Bool :=
  match i with
  | 0 => s.fb (AXS_STATUS_HOME_ACT n)
  | 1 => s.fb (AXS_STATUS_LIMP_ACT n)
  | _ => s.fb (AXS_STATUS_LIMN_ACT n)

/-- The switch that is the homing source: SRC 0 HOME, 1 LIMN, 2 LIMP, 3 as 0 (R281). -/
def Blk.homeSrc (s : Blk) (n : Nat) : Nat :=
  match s.f (AXS_HOME_CFG_SRC n) with
  | 1 => 2
  | 2 => 1
  | _ => 0

/-- Whether a limit is active in a direction of travel (R273). -/
def Blk.limitAhead (s : Blk) (n : Nat) (positive : Bool) : Bool :=
  s.fb (AXS_SW_CFG_LIM_EN n) && s.swActive n (if positive then 1 else 2)

/-! ### The planner (R258 to R261) -/

/-- The integer square root, by bits from `2^b` down. -/
def isqrt (v : Nat) : Nat → Nat → Nat
  | 0, r => r
  | b + 1, r => if (r + 2 ^ b) * (r + 2 ^ b) ≤ v then isqrt v b (r + 2 ^ b) else isqrt v b r

/-- The limits of one tick: velocity and accelerations with 32 fraction bits, jerk likewise, 0 for unlimited. -/
structure Lim where
  v : Nat
  acc : Nat
  dec : Nat
  j : Nat
deriving DecidableEq, Repr

/-- The stopping distance from velocity `v` at zero acceleration (R259), in 2^-32 microstep. -/
def stopAt (l : Lim) (v : Nat) : Nat :=
  if l.dec = 0 then 2 ^ 200
  else if l.j = 0 then v * v / (2 * l.dec)
  else if l.dec * l.dec ≤ v * l.j then v * v / (2 * l.dec) + v * l.dec / (2 * l.j)
  else isqrt (v * v * v / l.j) 160 0

/-- The stopping distance from velocity `v` and acceleration `a`: the acceleration is first taken to zero at the jerk limit,
or, while slowing, the part already run of the same profile is taken off. -/
def stopDist (l : Lim) (v : Nat) (a : Int) : Nat :=
  if l.j = 0 then stopAt l v
  else
    let b := a.natAbs
    let v1 := v + b * b / (2 * l.j)
    if 0 ≤ a then v * b / l.j + b * b * b / (3 * l.j * l.j) + stopAt l v1
    else stopAt l v1 - (v1 * b / l.j - b * b * b / (6 * l.j * l.j))

/-- The greatest number of `b` bits above `r` that `ok` accepts, for an `ok` that holds up to some number. -/
def largest (ok : Nat → Bool) : Nat → Nat → Nat
  | 0, r => r
  | b + 1, r => if ok (r + 2 ^ b) then largest ok b (r + 2 ^ b) else largest ok b r

/-- The distance covered from a tick at `v` per tick on, each later tick `d` slower, until rest. -/
def brakeSum (d v : Nat) : Nat :=
  if d = 0 then (if v = 0 then 0 else 2 ^ 200)
  else
    let q := v / d
    (q + 1) * v - d * (q * (q + 1) / 2)

/-- One tick without a jerk limit (R259): the greatest velocity within the limits from which the axis still comes to rest within `r`. Above
VMAX it slows at DMAX (R260). -/
def planFlat (l : Lim) (r v : Nat) : Nat :=
  let d := l.dec / 1000000
  let hi := if l.v < v then max l.v (v - d) else min l.v (v + l.acc / 1000000)
  max (v - d) (largest (fun x => decide (x ≤ hi) && decide (brakeSum d x ≤ r)) 57 0)

/-- Whether a velocity is kept within the limit once a positive acceleration has been taken back to zero. -/
def keepsV (l : Lim) (c : Int × Int) : Bool := decide (c.2 ≤ 0) || decide (c.1 + c.2 * c.2 / (2 * (l.j : Int)) ≤ (l.v : Int))

/-- Whether a velocity above the limit does not fall below it once a negative acceleration has been taken back to zero. -/
def comesBack (l : Lim) (c : Int × Int) : Bool := decide (0 ≤ c.2) || decide ((l.v : Int) ≤ c.1 - c.2 * c.2 / (2 * (l.j : Int)))

/-- One tick with a jerk limit: jerk +J, 0 or -J (R259), the first in order of which the axis can still stop within `r`. Above VMAX it slows at
DMAX and comes back to VMAX (R260). What remains of the way at rest is less than the shortest move; it is covered in steps of one jerk. -/
def planJerk (l : Lim) (r : Nat) (v a : Int) : Int × Int :=
  let dj : Int := l.j / 1000000
  let step := fun a1 : Int => (max 0 (v + a1 / 1000000), a1)
  let down := step (max (a - dj) (-(l.dec : Int)))
  let ok := fun c : Int × Int => decide (stopDist l c.1.toNat c.2 * 1000000 + c.1.toNat ≤ r)
  let c :=
    if (l.v : Int) < v then
      let back := step (min (a + dj) 0)
      match [down, step a, back].find? fun c => comesBack l c && ok c with
      | some c => c
      | none => if ok back then back else down
    else
      match [step (min (a + dj) l.acc), step (if (l.acc : Int) < a then a - dj else a), down].find? fun c => keepsV l c && ok c with
      | some c => c
      | none => down
  if c.1 ≠ 0 then c else if r = 0 ∨ l.acc = 0 then (0, 0) else (min r (dj / 1000000 + 1), 0)

/-- One tick toward a point `r` ahead, in 2^-32 x 10^-6 microstep, with `v` and `a` toward it: the new velocity, which is also the distance of
the tick, and the new acceleration. A velocity away from the point is first taken to zero. -/
def planTick (l : Lim) (r : Nat) (v a : Int) : Int × Int :=
  if v < 0 then
    if l.j = 0 then (min 0 (v + (l.dec : Int) / 1000000), 0)
    else
      let a1 := min (a + l.j / 1000000) (l.dec : Int)
      (v + a1 / 1000000, a1)
  else if l.j = 0 then (planFlat l r v.toNat, 0)
  else planJerk l r v a

/-- The limits of an axis, at LIM_DEC and without jerk limit where `lim`: in step/direction mode VMAX is bounded by the pulse width (R255,
R258). -/
def Blk.axLimits (s : Blk) (n : Nat) (lim : Bool) : Lim :=
  let v0 := if s.axState n = 3 then s.rn (AXS_HOME_VEL n) else s.rn (AXS_VMAX n)
  let v1 :=
    if s.fb (AXS_CFG_DRIVE n) then
      min v0 (2 ^ min 8 (s.f (AXS_CFG_STEP_DIV n)) * 1000000000 / (40 * atLeast1 (s.f (AXS_CFG_STEP_W n))))
    else v0
  let dec := if lim then atLeast1 (s.rn (AXS_LIM_DEC n)) else s.rn (AXS_DMAX n)
  ⟨v1 * 2 ^ 32, s.rn (AXS_AMAX n) * 64 * 2 ^ 32, dec * 64 * 2 ^ 32, if lim then 0 else s.rn (AXS_JMAX n) * 65536 * 2 ^ 32⟩

/-- The limits in force for an axis as it moves now. -/
def Blk.axLim (s : Blk) (n : Nat) : Lim := s.axLimits n (s.ax n).limDec

/-- A microstep in the unit of distance: 2^-32 x 10^-6 microstep. -/
def ustep : Int := 2 ^ 32 * 1000000

/-- The position of an axis with the fraction carried. -/
def Blk.axAt (s : Blk) (n : Nat) : Int := s.axPos n * ustep + (s.ax n).rem

/-- P_stop: where the axis would rest if it began to slow now (R261), at LIM_DEC where `lim`, rounded away from the axis to a whole microstep. -/
def Blk.stopPoint (s : Blk) (n : Nat) (lim : Bool) : Int :=
  let x := s.ax n
  let sg : Int := if x.v < 0 then -1 else 1
  let l := s.axLimits n lim
  let d : Int := ((if l.j = 0 then brakeSum (l.dec / 1000000) (x.v.natAbs - l.dec / 1000000) else stopDist l x.v.natAbs (x.a * sg) * 1000000 : Nat) : Int)
  if x.v = 0 then s.axPos n else sg * ((s.axAt n * sg + d + (ustep - 1)) / ustep)

/-! ### Coil targets (R263, R264) -/

/-- The sine of an electrical index, from the table in force. -/
def Blk.sine (s : Blk) (e : Nat) : Int :=
  let q := fun i => if 256 ≤ i then 1023 else bits (s.rn (0x0e1000 + i)) 9 0
  let i := e % 256
  match e / 256 % 4 with
  | 0 => q i
  | 1 => q (256 - i)
  | 2 => -(q i : Int)
  | _ => -(q (256 - i) : Int)

/-- The signed current target of coil `c` at the commanded position (R263, R264). -/
def Blk.coilTarget (s : Blk) (n c : Nat) : Int :=
  let k := 2 ^ (8 - min 8 (s.f (AXS_CFG_RES n)))
  let e := (s.axPos n % 1024).toNat / k * k
  let v := s.sine ((e + 256 * c) % 1024)
  let m : Int := ((s.f (AXS_CURRENT_RUN n) * v.natAbs + 511) / 1024 : Nat)
  if v < 0 then -m else m

/-! ### The chopper (R266 to R268) -/

/-- Values held for RWB cycle of this axis, and the sine table, take effect at a cycle start (R257, R281). -/
def Blk.cycleCommit (s : Blk) (n : Nat) : Blk :=
  s.commit fun h => h.bnd == .cycle && (h.addr / 256 == 0xe00 + n || h.addr / 256 == 0xe10)

/-- In step/direction mode or in OFF such values take effect at once (R257). -/
def Blk.cycleNow (s : Blk) (n : Nat) : Blk :=
  if s.axState n = 0 || s.fb (AXS_CFG_DRIVE n) then s.cycleCommit n else s

def Blk.coil (s : Blk) (n c : Nat) : Coil := (s.ax n).coils.getD c Coil.init

def Blk.setCoil (s : Blk) (n c : Nat) (x : Coil) : Blk :=
  s.setAx n { s.ax n with coils := (s.ax n).coils.set c x }

/-- A new cycle of a coil starts at POS clock `t`: targets and thresholds are latched (R266), with the comparator trim of the
coil, which takes effect here (R463). -/
def Blk.cycleStart (s : Blk) (n c t : Nat) : Blk :=
  let s := (s.cycleCommit n).trimsDue fun h => h.kind == 3 && h.idx == n && h.part == c
  let x := s.coil n c
  let tg := s.coilTarget n c
  let half : Int := (s.f (AXS_CURRENT_HYST n) / 2 : Nat)
  let cl := fun v : Int => (max 0 (min 1023 v)).toNat
  let trim := sext 6 (s.f (if c = 0 then TRM_SNS_C1 n else TRM_SNS_C2 n))
  s.setCoil n c { x with st := 0, fast := false, start := t, due := t + x.prevDrive / 2, t := tg,
                         tHi := cl (tg.natAbs + half - x.ofs + trim), tLo := cl (tg.natAbs - half - x.ofs + trim) }

/-- A coil enters ZERO where the polarity of its target changes or the target becomes 0 (R266). -/
def Blk.chopZero (n : Nat) (s : Blk) (c : Nat) : Blk :=
  let x := s.coil n c
  let t := s.coilTarget n c
  if x.st ≠ 3 ∧ (t = 0 ∨ (t < 0) ≠ (x.t < 0)) then s.setCoil n c { x with st := 3, fast := true } else s

/-- The offset loop's new accumulator and offset from one sample (R268). -/
def ofsStep (k : Nat) (acc err : Int) : Int × Int :=
  let lim : Int := 63 * 2 ^ k
  let a := max (-lim) (min lim (acc + err))
  (a, a / 2 ^ k)

/-- AXS_CHOP_OFS shows both learned offsets. -/
def Blk.showOfs (s : Blk) (n : Nat) : Blk :=
  s.wn (AXS_CHOP_OFS n) (wrapTo 7 (s.coil n 1).ofs * 128 + wrapTo 7 (s.coil n 0).ofs)

/-- Whether the chopper of an axis runs: bridge mode, outside OFF (R254, R255). -/
def Blk.chopOn (s : Blk) (n : Nat) : Bool := !s.fb (AXS_CFG_DRIVE n) && s.axState n != 0

/-- The bridge levels A and B of a coil (R254). -/
def Blk.bridge (s : Blk) (n c : Nat) : Bool × Bool :=
  if !s.chopOn n then (false, false)
  else
    let x := s.coil n c
    match x.st with
    | 0 => (decide (0 < x.t), decide (x.t < 0))
    | 1 => (decide (0 < x.t), decide (x.t < 0))
    | 2 => if x.fast then (false, false) else (true, true)
    | _ => (false, false)

/-- Whether STEP is high: pulses start 2 × STEP_W × 20 ns apart up to the last one planned (R255). -/
def Blk.stepHigh (s : Blk) (n : Nat) : Bool :=
  let x := s.ax n
  let w := 5 * atLeast1 (s.f (AXS_CFG_STEP_W n))
  decide (x.stepFrom ≤ s.now ∧ s.now < x.stepAt + w) && decide ((s.now - x.stepFrom) % (2 * w) < w)

/-- The levels of AXn_P1A, P1B, P2A and P2B: the bridges, or STEP, DIR, ENABLE and low (R254, R255). -/
def Blk.axPins (s : Blk) (n : Nat) : Bool × Bool × Bool × Bool :=
  let x := s.ax n
  if s.fb (AXS_CFG_DRIVE n) then
    (x.stepSeen && s.stepHigh n, if s.now < x.dirAt then !x.lastDir else x.lastDir, s.axState n != 0, false)
  else
    let a := s.bridge n 0
    let b := s.bridge n 1
    (a.1, a.2, b.1, b.2)

/-! ### Gearing (R276 to R279) -/

/-- The gear source position in 1/256 count: an encoder's P256 (R276). -/
def Blk.srcPos (s : Blk) (n : Nat) : Int := if s.gearSrc n = 8 then 0 else s.encP256 (s.gearSrc n)

/-- The ratio in a slot (R278). -/
def Blk.slotRatio (s : Blk) (n k : Nat) : Ratio := ⟨sext 24 (s.rn (AXS_RATIO_NUM n k)), atLeast1 (s.rn (AXS_RATIO_DEN n k))⟩

/-- The geared command as an exact fraction, at `u` in 1/256 count of source travel since the rebase (R278). -/
def Gear.cmdAt (g : Gear) (u : Int) : Int × Nat :=
  let lin := fun (r : Ratio) => (r.n * u, r.d * 256)
  let add := fun (p q : Int × Nat) => (p.1 * q.2 + q.1 * p.2, p.2 * q.2)
  match g.r1 with
  | none => add (g.aN, g.aD) (lin g.r0)
  | some r1 =>
    if u < 0 ∨ g.ramp = 0 then add (g.aN, g.aD) (lin g.r0)
    else
      let dr : Int × Nat := (r1.n * g.r0.d - g.r0.n * r1.d, r1.d * g.r0.d)
      add (add (g.aN, g.aD) (lin g.r0)) (dr.1 * u * u, dr.2 * 2 * g.ramp * 65536)

/-- The shuttle feed command a_0 + round(STEPS x min(path, SPAN) / SPAN) (R247). -/
def Blk.feedCmd (s : Blk) : Int :=
  let span := atLeast1 (s.rn SHT_FEED_SPAN) * 256
  s.sht.feedFrom + roundDiv (s.sht.feedSteps * (min s.sht.path span : Nat)) span

/-- The geared command g in whole microsteps, rounded once, half away from zero (R278). -/
def Blk.gearCmd (s : Blk) (n : Nat) (g : Gear) : Int :=
  if s.gearSrc n = 8 then s.feedCmd
  else
    let q := g.cmdAt (s.srcPos n - g.pSw)
    roundDiv q.1 q.2

/-- The geared command as an exact fraction of microsteps. -/
def Blk.gearFrac (s : Blk) (n : Nat) (g : Gear) : Int × Nat :=
  if s.gearSrc n = 8 then
    let span := atLeast1 (s.rn SHT_FEED_SPAN) * 256
    (s.sht.feedFrom * span + s.sht.feedSteps * (min s.sht.path span : Nat), span)
  else g.cmdAt (s.srcPos n - g.pSw)

/-- The ratio in force at `u` of source travel, as a fraction (R278). -/
def Gear.ratioAt (g : Gear) (u : Int) : Int × Nat :=
  match g.r1 with
  | none => (g.r0.n, g.r0.d)
  | some r1 =>
    let k := g.ramp * 256
    if u < 0 ∨ k = 0 then (g.r0.n, g.r0.d)
    else (g.r0.n * r1.d * k + (r1.n * g.r0.d - g.r0.n * r1.d) * u, g.r0.d * r1.d * k)

/-- The velocity of the geared command in 2^-32 microstep/s, from the speed estimate of its source. -/
def Blk.gearVel (s : Blk) (n : Nat) (g : Gear) : Int :=
  let rate := fun (q : Int × Nat) (d : Nat) => (q.1 * (250000000 * 2 ^ 32)).tdiv (q.2 * d)
  if s.gearSrc n = 8 then
    let span := atLeast1 (s.rn SHT_FEED_SPAN)
    match s.masterRaw with
    | some d => if s.sht.feeding && decide (s.sht.path < span * 256) then rate (s.sht.feedSteps, span) d else 0
    | none => 0
  else
    match s.encRaw (s.gearSrc n) with
    | some d =>
      let v := rate (g.ratioAt (s.srcPos n - g.pSw)) d
      if s.encRev (s.gearSrc n) then -v else v
    | none => 0

/-- A ratio change: the command rebases and ramps to the slot's ratio over AXS_GEAR_RAMP counts (R278). A change during a
ramp waits for its end and sets RATIO_DEF. -/
def Blk.ratioChange (s : Blk) (n k : Nat) : Blk :=
  match (s.ax n).gear with
  | none => s
  | some g =>
    if g.r1.isSome then (s.setAx n { s.ax n with gear := some { g with defer := some k } }).setF (AXS_STATUS_RATIO_DEF n) 1
    else
      let r := s.rn (AXS_GEAR_RAMP n)
      let g0 : Gear := { g with aN := s.gearCmd n g, aD := 1, pSw := s.srcPos n, ramp := r }
      let g1 := if r = 0 then { g0 with r0 := s.slotRatio n k, r1 := none } else { g0 with r1 := some (s.slotRatio n k) }
      (s.setAx n { s.ax n with gear := some g1 }).setF (AXS_STATUS_SLOT_ACT n) k

/-- The end of a ramp: the command rebases at a_sw + (r0 + r1) x R / 2 and P_sw + R (R278); a deferred change follows. -/
def Blk.rampEnd (s : Blk) (n : Nat) : Blk :=
  match (s.ax n).gear with
  | none => s
  | some g =>
    match g.r1 with
    | none => s
    | some r1 =>
      if s.srcPos n - g.pSw < (g.ramp * 256 : Nat) then s
      else
        let q := g.cmdAt (g.ramp * 256 : Nat)
        let g1 : Gear := { g with aN := q.1, aD := q.2, pSw := g.pSw + (g.ramp * 256 : Nat), r0 := r1, r1 := none, defer := none }
        let s1 := s.setAx n { s.ax n with gear := some g1 }
        match g.defer with
        | some k => s1.ratioChange n k
        | none => s1

/-! ### Stopping -/

/-- The axis decelerates to rest: at DMAX with the jerk limit, or at LIM_DEC without it; the target in force becomes the
point of rest (R256). A geared axis is decoupled. -/
def Blk.axStop (s : Blk) (n : Nat) (lim : Bool) : Blk :=
  let s := s.setAx n { s.ax n with limDec := lim, gear := none, phase := 0, final := none }
  let p := s.stopPoint n lim
  ((s.setAx n { s.ax n with goal := some p }).setActTarget n p).setAxState n 2

/-- Homing fails with a cause: HOMED stays 0 and the axis stops (R275). -/
def Blk.homeFail (s : Blk) (n cause : Nat) (lim : Bool) : Blk :=
  let tr := (s.ax n).hTrans
  let s := (s.setF (AXS_STATUS_HOME_CAUSE n) cause).axStop n lim
  if cause = 3 then s.raise 0x703 n n tr else if cause = 5 then s else s.raise 0x702 n n cause

/-! ### Commands (R256) -/

/-- Whether a way from `p` to `q` leads toward an active limit. -/
def Blk.towardLimit (s : Blk) (n : Nat) (p q : Int) : Bool :=
  (decide (p < q) && s.limitAhead n true) || (decide (q < p) && s.limitAhead n false)

/-- Whether software limits are enforced and a position lies outside them (R262). -/
def Blk.outsideSoft (s : Blk) (n : Nat) (x : Int) : Bool :=
  s.fb (AXS_CFG_SOFT_EN n) && s.fb (AXS_STATUS_HOMED n) &&
    decide (x < s.sval (AXS_SOFT_MIN n) 2 48 ∨ s.sval (AXS_SOFT_MAX n) 2 48 < x)

/-- Whether a target needs a reversal: it lies behind the axis or short of P_stop (R261). -/
def Blk.needsReversal (s : Blk) (n : Nat) (x : Int) : Bool :=
  let v := (s.ax n).v
  (decide (0 < v) && decide (x < s.stopPoint n false)) || (decide (v < 0) && decide (s.stopPoint n false < x))

def axisEnable (n : Nat) (s : Blk) : Blk :=
  if s.axState n ≠ 0 then s.axReject n 3
  else
    let s := s.commit fun h => h.bnd == .off && h.addr / 256 == 0xe00 + n
    let s := (s.setAxState n 1).captureRef n
    let s := s.cycleNow n
    if s.fb (AXS_CFG_DRIVE n) then s else (s.cycleStart n 0 s.now).cycleStart n 1 s.now

def axisDisable (n : Nat) (s : Blk) : Blk :=
  if s.axState n = 0 then s.axReject n 3
  else
    let x := s.ax n
    let off := x.coils.map fun c => { c with st := 3, fast := true }
    let s := s.setAx n { x with v := 0, a := 0, rem := 0, goal := none, final := none, limDec := false, phase := 0, gear := none, coils := off }
    ((s.setAxState n 0).setF (AXS_STATUS_STALLED n) 0).showVel n |>.cycleNow n

/-- GO in GEAR mode: couple at the present positions with the slot of AXS_GEAR.SLOT (R277); the feed command goes on from the present
position too. -/
def axisCouple (n : Nat) (s : Blk) : Blk :=
  let k := s.f (AXS_GEAR_SLOT n)
  let r := s.slotRatio n k
  let src := s.gearSrc n
  let pos := if src = 8 then decide (0 < s.sht.feedSteps) else s.encRev src == decide (r.n < 0)
  if s.limitAhead n pos && (src == 8 || (s.encRaw src).isSome) then s.axReject n 4
  else
    let g : Gear := ⟨s.axPos n, 1, s.srcPos n, r, none, 0, none, false⟩
    let s := if src = 8 then { s with sht := { s.sht with feedFrom := s.sht.feedFrom + (s.axPos n - s.feedCmd) } } else s
    ((s.setAx n { s.ax n with gear := some g, limDec := false, goal := none, final := none }).setF (AXS_STATUS_SLOT_ACT n) k).setAxState n 4

def axisGo (n : Nat) (s : Blk) : Blk :=
  let x := s.sval (AXS_TARGET n) 2 48
  match s.axState n with
  | 1 =>
    if s.axGear n then axisCouple n s
    else if s.outsideSoft n x then s.axReject n 0
    else if s.towardLimit n (s.axPos n) x then s.axReject n 4
    else ((s.setAx n { s.ax n with goal := some x, final := none, limDec := false }).setActTarget n x).setAxState n 2
  | 2 =>
    let ps := s.stopPoint n false
    let rev := s.needsReversal n x
    if s.outsideSoft n x then s.axReject n 0
    else if rev && s.fb (AXS_CFG_NO_REVERSE n) then s.axReject n 1
    else if rev && s.outsideSoft n ps then s.axReject n 2
    else if s.towardLimit n (s.axPos n) (if rev then ps else x) || (rev && s.towardLimit n ps x) then s.axReject n 4
    else
      let s := s.setAx n { s.ax n with goal := some (if rev then ps else x), final := if rev then some x else none, limDec := false }
      s.setActTarget n x
  | _ => s.axReject n 3

def axisStopCmd (lim : Bool) (n : Nat) (s : Blk) : Blk :=
  match s.axState n with
  | 2 => s.axStop n lim
  | 3 => s.homeFail n 4 lim
  | 4 => s.axStop n lim
  | _ => s.axReject n 3

/-- A point far enough in a direction that a homing move does not reach it. -/
def farPoint (s : Blk) (n : Nat) (positive : Bool) : Int := if positive then s.axPos n + 2 ^ 46 else s.axPos n - 2 ^ 46

/-- HOME: step 1 of R274, or step 2 at once where the source is inactive. -/
def axisHome (n : Nat) (s : Blk) : Blk :=
  if s.axState n ≠ 1 ∨ s.axGear n then s.axReject n 3
  else
    let dir := s.fb (AXS_HOME_CFG_DIR n)
    let back := s.swActive n (s.homeSrc n)
    let s := (s.setF (AXS_STATUS_HOMED n) 0).setAxState n 3
    s.setAx n { s.ax n with phase := if back then 1 else 2, hFrom := s.axPos n, hCount := s.axCount n, hTrans := 0,
                            limDec := false, goal := some (farPoint s n (if back then !dir else dir)), final := none }

def axisPreset (n : Nat) (s : Blk) : Blk :=
  if s.axState n ≠ 1 then s.axReject n 3
  else ((s.setAxPos n (s.sval (AXS_TARGET n) 2 48)).setF (AXS_STATUS_HOMED n) 0).captureRef n

def axisClear (n : Nat) (s : Blk) : Blk :=
  if s.axState n ≠ 5 then s.axReject n 3
  else ((s.setAxState n 1).setF (AXS_STATUS_STALLED n) 0).captureRef n

def axisOfsReset (n : Nat) (s : Blk) : Blk :=
  (s.setAx n { s.ax n with coils := (s.ax n).coils.map fun c => { c with acc := 0, ofs := 0 } }).showOfs n

/-- A write of AXS_CTRL: DISABLE before ESTOP before STOP before the others (R256); the others act in bit order. -/
def axisCtrl (n w : Nat) (s : Blk) : Blk :=
  let s := if bitOf w 8 then axisOfsReset n s else s
  if bitOf w 1 then axisDisable n s
  else if bitOf w 4 then axisStopCmd true n s
  else if bitOf w 3 then axisStopCmd false n s
  else
    let s := if bitOf w 0 then axisEnable n s else s
    let s := if bitOf w 2 then axisGo n s else s
    let s := if bitOf w 5 then axisHome n s else s
    let s := if bitOf w 6 then axisClear n s else s
    if bitOf w 7 then axisPreset n s else s

/-! ### The tick (R258) -/

/-- STEP pulses of step/direction mode for a move from `p` to `q`: one for each multiple of 2^STEP_DIV crossed (R255). DIR changes once the
pulses of the old direction are over, and 1 µs before the next. -/
def Blk.stepPulses (s : Blk) (n : Nat) (p q : Int) : Blk :=
  let k : Int := 2 ^ min 8 (s.f (AXS_CFG_STEP_DIV n))
  let c := (q / k - p / k).natAbs
  if !s.fb (AXS_CFG_DRIVE n) || c == 0 then s
  else
    let x := s.ax n
    let dir := decide (p < q)
    let w := 5 * atLeast1 (s.f (AXS_CFG_STEP_W n))
    let free := if x.stepSeen then max s.now (x.stepAt + 2 * w) else s.now
    let dirAt := if dir == x.lastDir then x.dirAt else free
    let at0 := if dir == x.lastDir then max free (if x.stepSeen then 0 else x.dirAt + 250) else free + 250
    let joined := x.stepSeen && at0 == x.stepAt + 2 * w
    (s.setAx n { x with lastDir := dir, dirAt := dirAt, stepAt := at0 + (c - 1) * 2 * w, stepSeen := true,
                        stepFrom := if joined then x.stepFrom else at0 }).emit (.step n dir c at0)

/-- The lag of a geared axis (R279). -/
def Blk.lagCheck (s : Blk) (n : Nat) (g : Gear) (cmd : Int) : Blk :=
  let lag := cmd - s.axPos n
  let s := s.setSval (AXS_LAG n) 1 24 (satS 24 lag)
  let thr := s.rn (AXS_GEAR_LAG n)
  if thr = 0 then s
  else if thr < lag.natAbs then
    let s := s.setF (AXS_STATUS_LAGGING n) 1
    if g.lagSeen then s
    else (s.setAx n { s.ax n with gear := some { g with lagSeen := true } }).raise 0x707 n n (wrapTo 24 (satS 24 lag))
  else
    let s := s.setF (AXS_STATUS_LAGGING n) 0
    if 2 * lag.natAbs < thr then s.setAx n { s.ax n with gear := some { g with lagSeen := false } } else s

/-- One planner step toward the goal in MOVE or HOME: the new position, velocity and acceleration. The goal is never passed (R259). -/
def Blk.axAdvance (s : Blk) (n : Nat) (goal : Int) : Blk :=
  let x := s.ax n
  let e := goal * ustep - s.axAt n
  let sg : Int := if 0 < e ∨ (e = 0 ∧ 0 ≤ x.v) then 1 else -1
  let c := planTick (s.axLim n) (e * sg).toNat (x.v * sg) (x.a * sg)
  if 0 ≤ c.1 ∧ e * sg ≤ c.1 then (s.setAx n { x with v := 0, a := 0, rem := 0 }).setAxPos n goal
  else
    let sum := x.rem + c.1 * sg
    let k := sum.tdiv ustep
    (s.setAx n { x with v := c.1 * sg, a := c.2 * sg, rem := sum - k * ustep }).setAxPos n (s.axPos n + k)

/-- One tick of a profile at the limits toward a command `g`, in the unit of distance, that moves at `vg`: the planner works on the way and the
velocity relative to the command. The new velocity and acceleration. -/
def chase (l : Lim) (x v a g vg : Int) : Int × Int :=
  let e := g - x - vg
  let sg : Int := if 0 ≤ e then 1 else -1
  let ahead := decide (0 ≤ v * sg)
  let m : Lim := ⟨((l.v : Int) - sg * vg).toNat, if ahead then l.acc else l.dec, if ahead then l.dec else l.acc, l.j⟩
  let c := planTick m e.natAbs ((v - vg) * sg) (a * sg)
  let v1 := vg + c.1 * sg
  (if v.natAbs ≤ l.v then max (-(l.v : Int)) (min l.v v1) else v1, c.2 * sg)

/-- A geared axis follows a profile at its limits toward g, and stands at g exactly while that profile keeps within a microstep of it (R277). -/
def Blk.axFollow (s : Blk) (n : Nat) (g : Gear) : Blk :=
  let x := s.ax n
  let q := s.gearFrac n g
  let cmd := q.1 * ustep / q.2
  let c := chase (s.axLim n) (s.axAt n) x.v x.a cmd (s.gearVel n g)
  let at1 := s.axAt n + c.1
  let p := if (cmd - at1).natAbs ≤ ustep then s.gearCmd n g else s.axPos n + (x.rem + c.1).tdiv ustep
  (s.setAx n { x with v := c.1, a := c.2, rem := at1 - p * ustep }).setAxPos n p

/-- The move has come to rest on its goal (R256, R261): the target follows a reversal, or the axis returns to HOLD. -/
def Blk.axArrive (s : Blk) (n : Nat) : Blk :=
  let x := s.ax n
  match x.final with
  | some f => s.setAx n { x with goal := some f, final := none }
  | none => ((s.setAx n { x with goal := none, limDec := false }).setAxState n 1).setF (AXS_STATUS_DONE n) 1

/-- The travel conditions of homing (R274): the end of backing off, the turn to the approach, and the rest after the capture. -/
def Blk.homeTick (s : Blk) (n : Nat) : Blk :=
  let x := s.ax n
  let rest := decide (x.goal = some (s.axPos n) ∧ x.v = 0)
  match x.phase with
  | 1 =>
    if !s.swActive n (s.homeSrc n) && decide (s.f (AXS_HOME_CFG_LOCKOUT n) ≤ (s.axCount n - x.hCount).natAbs) then
      let p := s.stopPoint n false
      s.setAx n { x with phase := 2, hFrom := p, goal := some p, final := some (farPoint s n (s.fb (AXS_HOME_CFG_DIR n))) }
    else s
  | 2 =>
    match x.final with
    | some f => if rest then s.setAx n { x with goal := some f, final := none } else s
    | none => s
  | 3 => if rest then s.setAx n { x with phase := 4, goal := none } else s
  | _ => s

/-- A limit stops the axis: as ESTOP, with LIMIT_STOP (R256, R273). -/
def Blk.limitStop (s : Blk) (n : Nat) (positive : Bool) : Blk := (s.axStop n true).raise 0x705 n n (b2n positive)

/-- An axis that turned, by a reversal or its gearing, toward a limit that is active is stopped by it (R273). -/
def Blk.turned (s : Blk) (n : Nat) (v : Int) : Blk :=
  let w := (s.ax n).v
  if !(s.axState n == 2 || s.axState n == 4) then s
  else if v ≤ 0 ∧ 0 < w ∧ s.limitAhead n true then s.limitStop n true
  else if 0 ≤ v ∧ w < 0 ∧ s.limitAhead n false then s.limitStop n false
  else s

/-- One tick of an axis at POS clock `t`, once in each microsecond (R258). -/
def profileTick (n t : Nat) (s : Blk) : Blk :=
  let s := s.advance t
  let x := s.ax n
  if s.now / 250 ≤ x.tick then s
  else
    let s := s.setAx n { x with tick := s.now / 250 }
    let p := s.axPos n
    let s :=
      match s.axState n with
      | 2 =>
        match x.goal with
        | some g =>
          let s := s.axAdvance n g
          if s.axPos n = g ∧ (s.ax n).v = 0 then s.axArrive n else s
        | none => s
      | 3 =>
        match x.goal with
        | some g => (s.axAdvance n g).homeTick n
        | none => s
      | 4 =>
        let s := s.rampEnd n
        match (s.ax n).gear with
        | some g => (s.axFollow n g).lagCheck n g (s.gearCmd n g)
        | none => s
      | _ => s
    let s := ((s.stepPulses n p (s.axPos n)).turned n x.v).showVel n
    if s.chopOn n then (Blk.chopZero n (Blk.chopZero n s 0) 1) else s

/-! ### Switches and homing (R272 to R275) -/

/-- A limit becomes active (R273, R275). -/
def Blk.limitHit (s : Blk) (n i : Nat) : Blk :=
  let v := (s.ax n).v
  let ahead := if i = 1 then decide (0 < v) else decide (v < 0)
  if !s.fb (AXS_SW_CFG_LIM_EN n) || !ahead then s
  else
    match s.axState n with
    | 2 => s.limitStop n (i == 1)
    | 4 => s.limitStop n (i == 1)
    | 3 => if s.homeSrc n = i then s else s.homeFail n 1 true
    | _ => s

/-- A debounced transition of the homing source during homing (R274, R275). -/
def Blk.homeEdge (s : Blk) (n : Nat) (active : Bool) : Blk :=
  let x := s.ax n
  if s.axState n ≠ 3 then s
  else
    match x.phase with
    | 1 => if active then s else s.setAx n { x with hCount := s.axCount n }
    | 2 =>
      if !active then s
      else
        let s := s.setSval (AXS_HOME_CAP n) 2 48 (s.axPos n)
        let s := s.setAx n { x with phase := 3, hCount := s.axCount n, hTrans := 0, limDec := s.homeSrc n != 0 }
        (s.setAx n { s.ax n with goal := some (s.stopPoint n (s.ax n).limDec), final := none })
    | 3 =>
      if s.f (AXS_HOME_CFG_LOCKOUT n) < (s.axCount n - x.hCount).natAbs then s
      else
        let s := s.setAx n { x with hTrans := x.hTrans + 1 }
        if s.f (AXS_HOME_CFG_CHATTER_LIM n) < x.hTrans + 1 then s.homeFail n 3 false else s
    | _ => s

/-- Samples of a switch input at 1 MHz: `k` at one level; a level other than the status shows is accepted after SW_N (R272). -/
def switchChange (n i : Nat) (level : Bool) (k : Nat) (s : Blk) : Blk :=
  let x := s.ax n
  let f := x.sw.getD i ⟨false, 0⟩
  let nn := atLeast1 (s.f (AXS_SW_CFG_SW_N n))
  let pol := s.fb (match i with | 0 => AXS_SW_CFG_POL_HOME n | 1 => AXS_SW_CFG_POL_LIMP n | _ => AXS_SW_CFG_POL_LIMN n)
  let act := level == pol
  if act == s.swActive n i then s.setAx n { x with sw := x.sw.set i ⟨f.out, 0⟩ }
  else if f.run + k < nn then s.setAx n { x with sw := x.sw.set i ⟨f.out, f.run + k⟩ }
  else
    let s := s.setAx n { x with sw := x.sw.set i ⟨level, 0⟩ }
    let s := s.setF (match i with | 0 => AXS_STATUS_HOME_ACT n | 1 => AXS_STATUS_LIMP_ACT n | _ => AXS_STATUS_LIMN_ACT n) (b2n act)
    let source := s.axState n == 3 && s.homeSrc n == i
    let s := if source then s.homeEdge n act else s
    if act && i != 0 && !source then s.limitHit n i else s

/-- Homing ends without a capture (R275). -/
def homingNotFound (n : Nat) (s : Blk) : Blk :=
  let x := s.ax n
  let m := s.rn (AXS_HOME_MAX n)
  if s.axState n = 3 ∧ x.phase = 2 ∧ m ≠ 0 ∧ m * 256 ≤ (s.axPos n - x.hFrom).natAbs then s.homeFail n 2 false else s

/-- Step 5 of homing (R274). -/
def homeDone (n : Nat) (s : Blk) : Blk :=
  if s.axState n ≠ 3 ∨ (s.ax n).phase ≠ 4 then s
  else
    let cap := s.sval (AXS_HOME_CAP n) 2 48
    let p := s.axPos n + (s.sval (AXS_HOME_POS n) 2 48 - cap)
    let s := (s.setAxPos n p).setActTarget n p
    let s := (s.setAx n { s.ax n with phase := 0, goal := none, limDec := false }).captureRef n
    ((s.setF (AXS_STATUS_HOMED n) 1).setAxState n 1).raise 0x708 n n (wrapTo 24 cap)

/-! ### Stall (R270, R271) -/

/-- The deviation of a stall check, s24, saturating (R270). -/
def Blk.stallDev (s : Blk) (n : Nat) : Int :=
  let r := s.encRatio n
  let x := s.ax n
  satS 24 (s.axCount n - (x.c0 + roundDiv ((s.axPos n - x.p0) * r.1) r.2))

/-- The axis has stalled (R271). -/
def Blk.axStall (s : Blk) (n : Nat) (dev : Int) : Blk :=
  let s := if s.axState n = 3 then s.setF (AXS_STATUS_HOME_CAUSE n) 5 else s
  let s := s.setAx n { s.ax n with v := 0, a := 0, rem := 0, goal := none, final := none, gear := none, phase := 0, limDec := false, stalls := 0 }
  let s := ((s.setAxState n 5).setF (AXS_STATUS_STALLED n) 1).showVel n
  (s.raise 0x701 n n (wrapTo 24 dev)).count 0x6B

/-- Whether stall checks run (R270). -/
def Blk.stallOn (s : Blk) (n : Nat) : Bool :=
  s.axState n != 0 && s.axState n != 5 && s.fb (AXS_CFG_ENC_EN n) && s.f (AXS_STALL_CFG_CONSEC n) != 0

/-- A geared axis whose source encoder faults decouples and comes to rest at DMAX (R279). -/
def Blk.gearFault (enc : Nat) (s : Blk) (n : Nat) : Blk :=
  if s.axState n = 4 ∧ s.gearSrc n = enc then (s.axStop n false).raise 0x706 n n enc else s

/-! ### The commands -/

def execAxisEnable (n : Fin 6) (s : State) : Res := s.on (axisEnable n)
def execAxisDisable (n : Fin 6) (s : State) : Res := s.on (axisDisable n)
def execAxisGo (n : Fin 6) (s : State) : Res := s.on (axisGo n)
def execAxisStop (n : Fin 6) (s : State) : Res := s.on (axisStopCmd false n)
def execAxisEstop (n : Fin 6) (s : State) : Res := s.on (axisStopCmd true n)
def execAxisHome (n : Fin 6) (s : State) : Res := s.on (axisHome n)
def execAxisPreset (n : Fin 6) (s : State) : Res := s.on (axisPreset n)
def execAxisClear (n : Fin 6) (s : State) : Res := s.on (axisClear n)
def execAxisOfsReset (n : Fin 6) (s : State) : Res := s.on (axisOfsReset n)
def execProfileTick (n : Fin 6) (t : Nat) (s : State) : Res := s.on (profileTick n t)
def execHomingNotFound (n : Fin 6) (s : State) : Res := s.on (homingNotFound n)
def execSwitchChange (n : Fin 6) (i : Fin 3) (level : Bool) (k : Nat) (s : State) : Res := s.on (switchChange n i level k)
def execHomeDone (n : Fin 6) (s : State) : Res := s.on (homeDone n)

/-- A write of AXS_GEAR: in GEAR a written SLOT makes a ratio change (R278, R281). -/
def gearSlotWrite (n : Nat) (w : Word) (s : Blk) : Blk :=
  let s := s.wn (AXS_GEAR n) (w.toNat &&& 0xf70000)
  if s.axState n = 4 then s.ratioChange n (s.f (AXS_GEAR_SLOT n)) else s

def execGearSlotWrite (n : Fin 6) (w : Word) (s : State) : Res := s.on (gearSlotWrite n w)
def execGearRampEnd (n : Fin 6) (s : State) : Res := s.on fun b => if b.axState n = 4 then b.rampEnd n else b

/-- BLANK ends T_BLANK x 40 ns after the cycle start (R266). -/
def chopBlankEnd (n c t : Nat) (s : Blk) : Blk :=
  let s := s.advance t
  let x := s.coil n c
  if s.chopOn n && x.st == 0 && decide (x.start + 10 * atLeast1 (s.f (AXS_CHOP_CFG_T_BLANK n)) ≤ t) then
    s.setCoil n c { x with st := 1 }
  else s

/-- The current reaches T_HI: DECAY, slow, fast or mixed (R266). -/
def chopPeak (n c t cur : Nat) (s : Blk) : Blk :=
  let s := s.advance t
  let x := s.coil n c
  if s.chopOn n && x.st == 1 && decide (x.tHi ≤ cur) then
    let d := s.f (AXS_CHOP_CFG_DECAY n)
    s.setCoil n c { x with st := 2, decayAt := t, prevDrive := t - x.start, fast := d == 1 || d == 2 }
  else s

/-- In mixed decay the fast part ends after FAST_T x 40 ns (R266). -/
def chopFastDecayEnd (n c t : Nat) (s : Blk) : Blk :=
  let s := s.advance t
  let x := s.coil n c
  if s.chopOn n && x.st == 2 && s.f (AXS_CHOP_CFG_DECAY n) == 2 && x.fast &&
      decide (x.decayAt + 10 * s.f (AXS_CHOP_CFG_FAST_T n) ≤ t) then s.setCoil n c { x with fast := false }
  else s

/-- T_OFF has passed and the current is at or below T_LO: a new cycle (R266). -/
def chopDecayEnd (n c t cur : Nat) (s : Blk) : Blk :=
  let s := s.advance t
  let x := s.coil n c
  if s.chopOn n && x.st == 2 && decide (x.decayAt + 10 * s.f (AXS_CHOP_CFG_T_OFF n) ≤ t) && decide (cur ≤ x.tLo) then
    s.cycleStart n c t
  else s

/-- A non-zero target and a low current end ZERO (R266). -/
def chopZeroExit (n c t cur : Nat) (s : Blk) : Blk :=
  let s := s.advance t
  let x := s.coil n c
  if s.chopOn n && x.st == 3 && decide (s.coilTarget n c ≠ 0) && decide (cur ≤ max x.tLo (s.f (AXS_CURRENT_HYST n) / 2)) then
    s.cycleStart n c t
  else s

/-- Whether the sample of a coil's cycle is still to be taken at the present instant: it is due, and not more than 400 ns late (R267). -/
def Blk.adcDue (s : Blk) (n c : Nat) : Bool :=
  let x := s.coil n c
  let taken := match x.adcAt with
    | some a => decide (x.start ≤ a)
    | none => false
  s.chopOn n && x.st != 3 && !taken && decide (x.due ≤ s.now ∧ s.now ≤ x.due + 100)

/-- Whether the converter is free for a channel: no conversion of 200 ns is running, and no lower channel waits (R267). -/
def Blk.adcFree (s : Blk) (ch : Nat) : Bool :=
  (List.range 12).all fun k =>
    let busy := match (s.coil (k / 2) (k % 2)).adcAt with
      | some a => decide (s.now < a + 50)
      | none => false
    !busy && !(decide (k < ch) && s.adcDue (k / 2) (k % 2))

/-- The ADC samples a coil, once in a cycle from its instant on; a sample that would begin more than 400 ns after it is discarded (R267); the
offset loop (R268). -/
def adcSample (n c t v : Nat) (s : Blk) : Blk :=
  let s := s.advance t
  if !s.adcDue n c || !s.adcFree (2 * n + c) then s
  else
    let x := { s.coil n c with adcAt := some s.now }
    let s := s.setCoil n c x
    let s := s.setF (if c = 0 then AXS_ADC_C1 n else AXS_ADC_C2 n) v
    if s.fb (AXS_CHOP_CFG_OFS_EN n) && decide (s.f (AXS_CURRENT_OFS_MIN n) * 16 ≤ x.t.natAbs) then
      let r := ofsStep (s.f (AXS_CHOP_CFG_OFS_K n)) x.acc ((v : Int) - x.t.natAbs)
      (s.setCoil n c { x with acc := r.1, ofs := r.2 }).showOfs n
    else s

def execChopBlankEnd (n : Fin 6) (c : Fin 2) (t : Nat) (s : State) : Res := s.on (chopBlankEnd n c t)
def execChopPeak (n : Fin 6) (c : Fin 2) (t : Nat) (i : BitVec 10) (s : State) : Res := s.on (chopPeak n c t i.toNat)
def execChopFastDecayEnd (n : Fin 6) (c : Fin 2) (t : Nat) (s : State) : Res := s.on (chopFastDecayEnd n c t)
def execChopDecayEnd (n : Fin 6) (c : Fin 2) (t : Nat) (i : BitVec 10) (s : State) : Res := s.on (chopDecayEnd n c t i.toNat)
def execChopZeroExit (n : Fin 6) (c : Fin 2) (t : Nat) (i : BitVec 10) (s : State) : Res := s.on (chopZeroExit n c t i.toNat)
def execAdcSample (n : Fin 6) (c : Fin 2) (t : Nat) (v : BitVec 10) (s : State) : Res := s.on (adcSample n c t v.toNat)

end Sys2Proof.Machine
end

