-- ==== Sys2Proof/Machine/Align.lean ====
section
/-!
DEFINITION. Head geometry and the alignment sets in force: where each nozzle lies (R129 to R131) and what the sets give
each head at a page boundary (R228 to R230).
-/

namespace Sys2Proof.Machine

/-! ### Geometry (R129, R131) -/

/-- Nozzles per row, NPR. -/
def Blk.npr (s : Blk) (h : Nat) : Nat := s.f (CMP_HEAD_CFG_NPR_M1 h) + 1

/-- Rows of a head. -/
def Blk.rows (s : Blk) (h : Nat) : Nat := s.f (CMP_HEAD_CFG_ROWS_M1 h) + 1

/-- Slots in use: ROWS x NPR. -/
def Blk.slots (s : Blk) (h : Nat) : Nat := s.rows h * s.npr h

/-- Whether the head is present and within its slots (R131). -/
def Blk.headOn (s : Blk) (h : Nat) : Bool := s.fb (CMP_HEAD_CFG_EN h) && decide (s.slots h ≤ 4096)

/-- The column of a slot counted from the low end, c′ (R129). -/
def Blk.colOf (s : Blk) (h i : Nat) : Nat :=
  let c := i % s.npr h
  if s.fb (CMP_HEAD_CFG_DIR h) then s.npr h - 1 - c else c

/-- STRIDE: 1, 2, 4 or 8. -/
def Blk.strideOf (s : Blk) (h : Nat) : Nat := 2 ^ s.f (CMP_HEAD_CFG_STRIDE h)

/-- ROW_OFS of a row. -/
def Blk.rowOfs (s : Blk) (h r : Nat) : Nat := bits (s.rn (CMP_HEAD_ROWOFS h)) (3 * r + 2) (3 * r)

/-- A slot's place relative to CMP_HEAD_X and s_h. -/
def Blk.slotBase (s : Blk) (h i : Nat) : Nat := s.colOf h i * s.strideOf h + s.rowOfs h (i / s.npr h)

/-! ### Values of the sets (R228 to R230) -/

/-- The versions of a head's alignment values, oldest first: the first holds for every view, a later one for those listed. -/
def Blk.alnVers (s : Blk) (h : Nat) : List AlnVer := alook [⟨AlnVal.off, [0, 1, 2, 3, 4]⟩] s.ins.values h

/-- The alignment values a view has taken for a head. -/
def Blk.alnOf (s : Blk) (v h : Nat) : AlnVal :=
  match (s.alnVers h).reverse.find? fun x => x.done.contains v with
  | some x => x.val
  | none => AlnVal.off

/-- CMP_HEAD_X and the alignment values of one slot. A change that moves the nozzle takes effect at the boundary of the
position it had before the change (R33). -/
def Blk.slotPlace (s : Blk) (h i : Nat) : Int × AlnVal :=
  let base : Int := s.slotBase h i
  let vers := s.alnVers h
  let a0 := match vers.head? with | some v => v.val | none => AlnVal.off
  let x1 := (s.held.filter fun e => e.addr == CMP_HEAD_X h && !e.done.isEmpty).foldl
    (fun (x : Int) e => if e.done.contains (s.owner (x + a0.shift + base)) then (e.val.toNat : Int) else x)
    (s.rn (CMP_HEAD_X h) : Int)
  let a1 := vers.tail.foldl
    (fun (a : AlnVal) v => if v.done.contains (s.owner (x1 + a.shift + base)) then v.val else a) a0
  (x1 + a1.shift + base, a1)

/-- The effective cross-web position of a slot (R129). -/
def Blk.slotPos (s : Blk) (h i : Nat) : Int := (s.slotPlace h i).1

/-- Interpolation between two tagged values, rounded half away from zero (R230). -/
def lerp (va vb ta tb th : Int) : Int := if tb = ta then va else va + roundDiv ((vb - va) * (th - ta)) (tb - ta)

/-- The word `i` of head `h` in set `k`, as a view has it. -/
def Blk.setWord (s : Blk) (v k h i : Nat) : Nat := s.rnV v (0x0c1000 + 0x400 * k + 0x20 * h + i)

/-- The tag of a set, as a view has it. -/
def Blk.setTag (s : Blk) (v k : Nat) : Int := sext 12 (s.fV v (ALN_SET_CFG_TEMP k))

/-- The VALID sets that have head `h` in their mask, by tag, equal tags by index (R229, R230). -/
def Blk.setsFor (s : Blk) (v h : Nat) : List Nat :=
  let ks := [0, 1, 2, 3].filter fun k => s.fV v (ALN_SET_CFG_VALID k) == 1 && bitOf (s.valV v (ALN_SET_HEADS k) 2) h
  sortBy (fun a b => decide (s.setTag v a < s.setTag v b ∨ (s.setTag v a = s.setTag v b ∧ a ≤ b))) ks

/-- The four 6-bit fields of an edge word interpolated one by one (R230). -/
def lerpEdge (ea eb : Nat) (ta tb th : Int) : Nat :=
  [0, 6, 12, 18].foldl (fun acc l => acc + (lerp (bits ea (l + 5) l : Nat) (bits eb (l + 5) l : Nat) ta tb th).toNat % 64 * 2 ^ l) 0

/-- The values of a head from one set, or from two by interpolation. -/
def Blk.alnFrom (s : Blk) (v h a b : Nat) (th : Int) : AlnVal :=
  let ta := s.setTag v a
  let tb := s.setTag v b
  let w := s.setWord v
  let eqE := bitOf (w a h 0) 23 == bitOf (w b h 0) 23
  let eqD := bitOf (w a h 0) 22 == bitOf (w b h 0) 22
  let dly := fun o => (List.range 8).map fun r =>
    (lerp (bits (w a h (o + r)) 17 0 : Nat) (bits (w b h (o + r)) 17 0 : Nat) ta tb th).toNat
  ⟨true, a, b, lerp (sext 8 (w a h 0)) (sext 8 (w b h 0)) ta tb th,
    if eqE && bitOf (w a h 0) 23 then some (lerpEdge (w a h 1) (w b h 1) ta tb th) else none,
    if eqD && bitOf (w a h 0) 22 then some (dly 2, dly 10) else none, !(eqE && eqD)⟩

/-- The values the sets give a head for a view at a temperature (R229, R230). -/
def Blk.alnPick (s : Blk) (v h : Nat) (th : Option Int) : AlnVal :=
  let ks := s.setsFor v h
  if !bitOf (s.valV v ALN_EN 2) h then AlnVal.off
  else
    match ks.head?, ks.getLast? with
    | some lo, some hi =>
      let t := match th with
        | some t => t
        | none => s.setTag v ((ks.min?).getD lo)
      if t ≤ s.setTag v lo then s.alnFrom v h lo lo t
      else if s.setTag v hi ≤ t then s.alnFrom v h hi hi t
      else
        match (ks.zip ks.tail).find? fun p => decide (s.setTag v p.1 ≤ t ∧ t < s.setTag v p.2) with
        | some p => s.alnFrom v h p.1 p.2 t
        | none => s.alnFrom v h lo lo t
    | _, _ => AlnVal.off

/-- θ of a head taken at a page boundary (R230): ALN_THETA holds it. In a pairing it is the θ taken when the page was consumed (R294). -/
def Blk.takeTheta (s : Blk) (h : Nat) : Blk :=
  let temp := s.sf (HLK_TEMP_TEMP h)
  let last := sext 12 (s.f (ALN_THETA_THETA h))
  let set0 := s.fb (ALN_THETA_VALID h)
  match s.twn.thetas.find? fun e => e.1 == h with
  | some e => s.wn (ALN_THETA h) e.2
  | none =>
  if s.fb (HLK_TEMP_VALID h) && (!set0 || decide ((s.f ALN_CFG_TEMP_HYST : Int) ≤ (temp - last).natAbs)) then
    s.wn (ALN_THETA h) (2 ^ 23 + wrapTo 12 temp)
  else s

/-- θ as used, none if it has never been set. -/
def Blk.theta (s : Blk) (h : Nat) : Option Int :=
  if s.fb (ALN_THETA_VALID h) then some (sext 12 (s.f (ALN_THETA_THETA h))) else none

/-- A view takes new values for a head: a new version, or the last one where it is the same; versions that every view has
passed are dropped. -/
def takeVersion (l : List AlnVer) (v : Nat) (x : AlnVal) : List AlnVer :=
  let l2 :=
    match l.getLast? with
    | some e => if e.val = x then l.dropLast ++ [{ e with done := v :: e.done.erase v }] else l ++ [(⟨x, [v]⟩ : AlnVer)]
    | none => [(⟨x, [v]⟩ : AlnVer)]
  match l2.getLast? with
  | some e => if [0, 1, 2, 3, 4].all e.done.contains then [e] else l2
  | none => l2

/-- Whether the head has a slot at a position that a track owns (R230). -/
def Blk.headHas (s : Blk) (h v : Nat) : Bool :=
  s.headOn h && (List.range (s.slots h)).any fun i => s.owner (s.slotPos h i) == v

/-- What alignment values do to a head, whichever sets gave them. -/
def AlnVal.acts (x : AlnVal) : Bool × Int × Option Nat × Option (List Nat × List Nat) := (x.on, x.shift, x.edge, x.dly)

/-- The θ and the alignment values of one head taken by a view at its boundary; ALN_VALUES is raised when the values change (R230). -/
def Blk.alnTake (v : Nat) (s : Blk) (h : Nat) : Blk :=
  if !s.headHas h v then s
  else
    let s := if v < 4 then s.takeTheta h else s
    let old := s.alnOf v h
    let x := s.alnPick v h (s.theta h)
    let s := if x.mis then s.setF ALN_STATUS_FLAG_MIS 1 else s
    if x = old then s
    else
      let s := { s with ins := { s.ins with values := aput s.ins.values h (takeVersion (s.alnVers h) v x) } }
      if x.acts = old.acts then s else s.raise 0x508 h h (x.a % 4 * 4 + x.b % 4)

/-- The alignment values of every head taken by a view. -/
def Blk.alnBoundary (s : Blk) (v : Nat) : Blk := (List.range 32).foldl (Blk.alnTake v) s

end Sys2Proof.Machine
end

