-- ==== Sys2Proof/Machine/Boundary.lean ====
section
/-!
DEFINITION. Line and page boundaries (R32 to R37): held values, tone curves and threshold arrays (R147, R150) and the
alignment values (R230) that take effect at them, view by view. A view is a track's positions, or view 4, the positions
that no enabled track owns.
-/

namespace Sys2Proof.Machine

/-! ### Tone curves (R146, R147) -/

/-- The bank of a head's curve that was active before a swap in progress. -/
def Blk.toneAct (s : Blk) (h : Nat) : Bool := alook false s.cmp.toneAct h

/-- The views that have switched in a swap in progress. -/
def Blk.toneDone (s : Blk) (h : Nat) : List Nat := alook [] s.cmp.toneDone h

def toneKey (bank : Bool) (h i : Nat) : Nat := b2n bank * 32768 + h * 1024 + i

def Blk.toneGet (s : Blk) (bank : Bool) (h i : Nat) : Nat := Tab.get (fun _ => 0) s.cmp.tone (toneKey bank h i)

def Blk.tonePut (s : Blk) (bank : Bool) (h i v : Nat) : Blk :=
  { s with cmp := { s.cmp with tone := Tab.put (fun _ => 0) s.cmp.tone (toneKey bank h i) v } }

/-- The curve entry in force for a view. -/
def Blk.toneOf (s : Blk) (v h i : Nat) : Nat := s.toneGet (s.toneAct h != (s.toneDone h).contains v) h i

/-- A pending swap of a head takes effect for a view; it ends when every view with a position of the head has switched. -/
def Blk.toneStep (v : Nat) (s : Blk) (h : Nat) : Blk :=
  if !s.fb (CMP_HEAD_TONE_PENDING h) then s
  else
    let d := v :: (s.toneDone h).erase v
    if [0, 1, 2, 3, 4].all fun u => d.contains u || !s.headHas h u then
      let s1 := s.setF (CMP_HEAD_TONE_PENDING h) 0
      { s1 with cmp := { s1.cmp with tonePend := s1.cmp.tonePend.erase h, toneAct := aput s1.cmp.toneAct h (!s1.toneAct h), toneDone := aput s1.cmp.toneDone h [] } }
    else { s with cmp := { s.cmp with toneDone := aput s.cmp.toneDone h d } }

/-! ### Threshold arrays (R148, R150) -/

def thrKey (bank : Bool) (row w : Nat) : Nat := b2n bank * 65536 + row * 512 + w

def Blk.thrGet (s : Blk) (bank : Bool) (row w : Nat) : Word := Tab.get (fun _ => 0) s.cmp.thr (thrKey bank row w)

def Blk.thrPut (s : Blk) (bank : Bool) (row w : Nat) (x : Word) : Blk :=
  { s with cmp := { s.cmp with thr := Tab.put (fun _ => 0) s.cmp.thr (thrKey bank row w) x } }

/-- The array in force for a view, and its size word (R149, R150). -/
def Blk.thrBankOf (s : Blk) (v : Nat) : Bool := s.cmp.thrAct != s.cmp.thrDone.contains v

def Blk.thrSizeOf (s : Blk) (v : Nat) : Nat :=
  if s.cmp.thrDone.contains v then s.rn SCR_SHADOW_SIZE else s.rn SCR_ACTIVE_SIZE

/-- Whether a track owns any position (R28). -/
def Blk.owns (s : Blk) (t : Nat) : Bool :=
  s.owner (s.rn (PGE_TRK_RANGE_FIRST t)) == t ||
    [0, 1, 2, 3].any fun u => s.owner ((s.rn (PGE_TRK_RANGE_LAST u) : Int) + 1) == t

/-- A pending swap of the threshold array takes effect for a view; it ends when every view has switched. -/
def Blk.thrStep (v : Nat) (s : Blk) : Blk :=
  if !s.fb SCR_STATUS_PENDING then s
  else
    let d := v :: s.cmp.thrDone.erase v
    if [0, 1, 2, 3, 4].all d.contains then
      let a := s.rn SCR_ACTIVE_SIZE
      let b := s.rn SCR_SHADOW_SIZE
      let s1 := ((s.setF SCR_STATUS_PENDING 0).wn SCR_ACTIVE_SIZE b).wn SCR_SHADOW_SIZE a
      { s1 with cmp := { s1.cmp with thrAct := !s1.cmp.thrAct, thrDone := [] } }
    else { s with cmp := { s.cmp with thrDone := d } }

/-! ### The boundaries -/

/-- Held trim values see a page boundary of a track (R463). -/
def Blk.trimSeen (s : Blk) (v : Nat) : Blk :=
  let see := fun h : HeldTrim => if h.done.contains v then h else { h with done := v :: h.done }
  { s with trm := { s.trm with held := s.trm.held.map see } }

/-- A view passes its boundary: page-bound values, curves, the array and the alignment values (R33, R35). While SYS_COMMIT
holds, held values stay; curves and arrays are no RWB values and switch. -/
def Blk.viewBoundary (s : Blk) (v : Nat) : Blk :=
  let s := s.trimSeen v
  let s := s.commitView v
  let s := s.cmp.tonePend.foldl (Blk.toneStep v) s
  let s := s.thrStep v
  s.alnBoundary v

/-- A line boundary (R32): line-bound values take effect, and page-bound ones for unowned positions and for tracks that own
no position (R33). -/
def Blk.lineBoundary (s : Blk) : Blk :=
  let s := s.commit fun h => h.bnd == .line
  [0, 1, 2, 3, 4].foldl (fun s v => if v == 4 || !s.owns v then s.viewBoundary v else s) s

/-- The page boundary of a track: held line and page changes take effect together for its positions (R35). -/
def Blk.pageBoundary (s : Blk) (t : Nat) : Blk := (s.commit fun h => h.bnd == .line).viewBoundary t

/-- The page boundary that belongs to a page, with the θ taken for it (R294). -/
def Blk.boundaryOf (s : Blk) (t : Nat) (p : Page) : Blk :=
  let s := ({ s with twn := { s.twn with thetas := p.theta } }).pageBoundary t
  { s with twn := { s.twn with thetas := [] } }

end Sys2Proof.Machine
end

