-- ==== Sys2Proof/Machine/Schedule.lean ====
section
/-!
DEFINITION. The position schedule and the PEV outputs (R74 to R82, R494): insertion, overflow and lateness, the execution
of each entry kind, and the ends of pulses.
-/

namespace Sys2Proof.Machine

/-! ### PEV outputs (R82, R494) -/

/-- Whether the scheduled state of an output is active. -/
def Pev.active (p : Pev) : Bool := p.level || p.endUs.isSome || p.endH.isSome

/-- A new output state; PAD_PEV_STATE shows it, and a change leaves the part. -/
def Blk.putPev (s : Blk) (n : Nat) (p : Pev) : Blk :=
  let was := (s.pev n).active
  let s := (s.setPev n p).setF ⟨PAD_PEV_STATE, n, n⟩ (b2n p.active)
  if was == p.active then s else s.emit (.pev n p.active s.now)

/-- A pulse on an output: it ends at the later of its end and that of a pulse in progress, and replaces a level (R82). -/
def Blk.pevPulse (s : Blk) (n : Nat) (us : Bool) (width : Nat) : Blk :=
  let p := s.pev n
  let w := atLeast1 width
  let mx := fun (o : Option Nat) (e : Nat) => match o with | some x => some (max x e) | none => some e
  let mxI := fun (o : Option Int) (e : Int) => match o with | some x => some (max x e) | none => some e
  let q : Pev := if us then ⟨false, mx p.endUs (s.now + w * 250), p.endH⟩ else ⟨false, p.endUs, mxI p.endH (s.lck.h + w * 256)⟩
  (s.putPev n q).count 0x6A

/-- A level on an output: it overrides any pulse (R82). -/
def Blk.pevLevel (s : Blk) (n : Nat) (level : Bool) : Blk := s.putPev n ⟨level, none, none⟩

/-- Every count-width pulse ends (R68). -/
def Blk.pevEndCounts (s : Blk) : Blk :=
  (List.range 8).foldl (fun s n => if (s.pev n).endH.isSome then s.putPev n { s.pev n with endH := none } else s) s

/-! ### Insertion (R74, R77, R78) -/

/-- An entry inserted in position order, after entries at the same position. -/
def insertSorted (e : SchedEntry) : List SchedEntry → List SchedEntry
  | [] => [e]
  | x :: r => if e.pos < x.pos then e :: x :: r else x :: insertSorted e r

/-- The schedule of a track replaced; LCK_SCHED_STATUS.COUNT shows its size. -/
def Blk.putSched (s : Blk) (t : Nat) (l : List SchedEntry) : Blk :=
  (s.setSched t l).setF (LCK_SCHED_STATUS_COUNT t) l.length

/-- Whether a position lies at or behind H (R77). -/
def Blk.behindH (s : Blk) (pos : Int) : Bool := s.running && decide (pos ≤ s.lck.h)

/-- SCHEDULE_LATE with its shortfall in counts (R77). -/
def Blk.schedLate (s : Blk) (t : Nat) (pos : Int) : Blk :=
  (s.setF (LCK_SCHED_STATUS_LATE t) 1).raise 0x132 t t (satU24 ((s.lck.h - pos).toNat / 256))

/-- A controller insertion: dropped with SCHEDULE_OVERFLOW where the schedule is full (R78). -/
def Blk.insertCtl (s : Blk) (t : Nat) (e : SchedEntry) : Blk :=
  if 1024 ≤ (s.sched t).length then
    (s.setF (LCK_SCHED_STATUS_OVERFLOW t) 1).raise 0x131 t (t * 2 ^ 22 + e.kind) (wrapTo 24 (e.pos / 256))
  else
    let s1 := s.putSched t (insertSorted e (s.sched t))
    if s.behindH e.pos then s1.schedLate t e.pos else s1

/-! ### Reject markers of INS (R216) -/

/-- Markers queued for a track, in page order. -/
def Blk.markersOf (s : Blk) (t : Nat) : List SchedEntry := (s.ins.markers.filter fun m => m.1 == t).map Prod.snd

/-- INS_REJ_QUEUE shows the markers queued. -/
def Blk.showQueue (s : Blk) (t : Nat) : Blk := s.wn (INS_REJ_QUEUE t) (s.markersOf t).length

/-- Whether an entry inserted now at `pos` executes at once: it lies at or behind H, and the schedule runs (R59, R75, R77). -/
def Blk.runsNow (s : Blk) (pos : Int) : Bool := s.behindH pos && !s.lckHold && !s.masterRev

/-- The first marker of a track's queue leaves it for the schedule, while INS has fewer than 32 entries there; the marker, where it
executes at once. -/
def Blk.nextMarker (s : Blk) (t : Nat) : Blk × Option SchedEntry :=
  if 32 ≤ ((s.sched t).filter fun e => e.fromIns).length then (s, none)
  else
    match s.ins.markers.find? fun m => m.1 == t with
    | none => (s, none)
    | some m =>
      let s1 := { s with ins := { s.ins with markers := s.ins.markers.erase m } }
      ((s1.showQueue t).insertCtl t m.2, if decide ((s.sched t).length < 1024) && s.runsNow m.2.pos then some m.2 else none)

/-! ### Execution (R75, R81) -/

/-- Entries executed in the POS clock at hand (R75). -/
def Blk.ranNow (s : Blk) : Nat := if s.lck.ranAt = s.now then s.lck.ran else 0

/-- What every executed entry does: it leaves the schedule, is counted and traced; a marker lets the next one follow, which is named
where it executes at once. -/
def Blk.takeEntry (s : Blk) (t : Nat) (e : SchedEntry) : Blk × Option SchedEntry :=
  let s := { s with lck := { s.lck with ranAt := s.now, ran := s.ranNow + 1 } }
  let s := (s.putSched t ((s.sched t).erase e)).count 0x09
  let s := if s.fb RING_TRACE_CFG_SCHED then s.trace 0xE81 t (t * 2 ^ 22 + e.kind) e.tag else s
  if e.fromIns then (s.count 0x69).nextMarker t else (s, none)

/-- CAMERA_MARK arms distance capture and records its own position (R218). -/
def Blk.cameraMark (s : Blk) (c : Nat) (pos : Int) : Blk :=
  let s := s.setF (INS_CAM_STATUS_MARK_ARMED c) 1
  s.setCam c { s.cam c with mark := some pos }

/-- AXIS_RATIO: a ratio change in GEAR, else only the slot for the next coupling (R278). -/
def Blk.axisRatio (s : Blk) (n slot : Nat) : Blk :=
  if 5 < n then s
  else
    let s := s.setF (AXS_GEAR_SLOT n) slot
    if s.axState n = 4 then s.ratioChange n slot else s

/-- The page boundary of a page whose PAGE_START entry executes, where its first line is the next to be composed and the line clock has
not brought the boundary already (R76); the θ taken for it hold (R294). -/
def Blk.startBoundary (s : Blk) (t : Nat) (e : SchedEntry) : Blk :=
  let x := s.trk t
  match x.pages.find? fun p => !p.bounded && decide (q256 p.cRaw = e.pos ∧ p.start ≤ s.lineIndex t + 3) with
  | none => s
  | some p =>
    let s := s.setTrk t { x with pages := x.pages.map fun q => if q = p then { q with bounded := true } else q }
    s.boundaryOf t p

/-- The action of one entry (R81). -/
def Blk.entryAct (s : Blk) (t : Nat) (e : SchedEntry) : Blk :=
  match e.kind with
  | 1 => s.startBoundary t e
  | 2 => s.pevPulse (bits e.arg0 2 0) (bitOf e.arg0 3) e.arg1
  | 3 => s.pevLevel (bits e.arg0 2 0) (bitOf e.arg0 4)
  | 4 => s.axisRatio (bits e.arg0 2 0) (bits e.arg0 5 3)
  | 5 => s.cameraMark (bits e.arg0 1 0) e.pos
  | 6 => s.raise 0x130 t t e.tag
  | 7 => s.putSched t ((s.sched t).filter fun x => x.tag != e.tag)
  | _ => s

/-- Whether a PAGE_START entry falls together with the line boundary at which an ABORT of its track takes effect (R89). -/
def Blk.startDropped (s : Blk) (t : Nat) (e : SchedEntry) : Bool := e.kind == 1 && (s.trk t).abortWait && s.trigMet

/-- An entry executes, and after it, at most `n` in all, each marker that it lets into the schedule behind H (R77, R217). -/
def Blk.runEntry (s : Blk) (t : Nat) (e : SchedEntry) : Nat → Blk
  | 0 => s
  | n + 1 =>
    if s.startDropped t e then s.putSched t ((s.sched t).erase e)
    else
      let r := s.takeEntry t e
      let s := r.1.entryAct t e
      match r.2 with
      | none => s
      | some m => Blk.runEntry s t m n

/-- More markers than INS can have queued. -/
def markerFuel : Nat := 160

/-- An entry is inserted, and executes at once where it lies behind H (R77). -/
def Blk.insertRun (s : Blk) (t : Nat) (e : SchedEntry) : Blk :=
  let go := decide ((s.sched t).length < 1024) && s.runsNow e.pos
  let s1 := s.insertCtl t e
  if go then s1.runEntry t e markerFuel else s1

/-- The front entry of a track where it is due; nothing is due while the clock is held or the web runs in reverse (R59, R75). -/
def Blk.dueEntry (s : Blk) (t : Nat) : Option SchedEntry :=
  match (s.sched t).head? with
  | some e => if s.running && !s.lckHold && !s.masterRev && decide (e.pos ≤ s.lck.h) then some e else none
  | none => none

/-- Due entries execute, lowest track first, at most four in a POS clock (R75, R82), until the front entry of track `trk` has. -/
def Blk.runDue (s : Blk) (trk : Nat) : Nat → Blk
  | 0 => s
  | n + 1 =>
    let s := if s.ranNow < 4 then s else s.advance (s.now + 1)
    match ((List.range trk).find? fun u => (s.dueEntry u).isSome) with
    | some u =>
      match s.dueEntry u with
      | some e => Blk.runDue (s.runEntry u e markerFuel) trk n
      | none => s
    | none =>
      match s.dueEntry trk with
      | some e => s.runEntry trk e markerFuel
      | none => s

/-- The first entry of a track executes at POS clock `t` or the next one with room if it is due and of the kind named, after the entries
due on lower tracks. -/
def Blk.execDue (s : Blk) (trk t kind : Nat) : Blk :=
  let s := s.advance t
  match s.dueEntry trk with
  | some e => if e.kind = kind then s.runDue trk ((List.range trk).foldl (fun n u => n + (s.sched u).length) markerFuel) else s
  | none => s

def execPageStart (trk : Fin 4) (t : Nat) (s : State) : Res := s.on fun b => b.execDue trk t 1
def execPevPulse (trk : Fin 4) (t : Nat) (s : State) : Res := s.on fun b => b.execDue trk t 2
def execPevLevel (trk : Fin 4) (t : Nat) (s : State) : Res := s.on fun b => b.execDue trk t 3
def execAxisRatio (trk : Fin 4) (t : Nat) (s : State) : Res := s.on fun b => b.execDue trk t 4
def execCameraMark (trk : Fin 4) (t : Nat) (s : State) : Res := s.on fun b => b.execDue trk t 5
def execEventMark (trk : Fin 4) (t : Nat) (s : State) : Res := s.on fun b => b.execDue trk t 6
def execScheduleCancel (trk : Fin 4) (t : Nat) (s : State) : Res := s.on fun b => b.execDue trk t 7

/-- A pulse timed in µs reaches its end (R494). -/
def pevEndUs (n t : Nat) (s : Blk) : Blk :=
  let s := s.advance t
  match (s.pev n).endUs with
  | some e => if e ≤ s.now then s.putPev n { s.pev n with endUs := none } else s
  | none => s

/-- H reaches the end of a pulse in counts (R494). -/
def pevEndH (n t : Nat) (s : Blk) : Blk :=
  let s := s.advance t
  match (s.pev n).endH with
  | some e => if e ≤ s.lck.h then s.putPev n { s.pev n with endH := none } else s
  | none => s

def execPevPulseEndUs (n : Fin 8) (t : Nat) (s : State) : Res := s.on (pevEndUs n t)
def execPevPulseEndCounts (n : Fin 8) (t : Nat) (s : State) : Res := s.on (pevEndH n t)

end Sys2Proof.Machine
end

