-- ==== Sys2Proof/Machine/Pages.lean ====
section
/-!
DEFINITION. Tracks, page descriptors and started pages (R87 to R105, R112 to R114): commands, start lines, releases, HOLD,
and what a line trigger does to a track. Page lines are numbered from the page's start by the track's line index.
-/

namespace Sys2Proof.Machine

/-! ### Page geometry -/

/-- The compare value of line `l` of a track (R94): the next line's is C, and each line is a pitch further. -/
def Blk.lineC (s : Blk) (t l : Nat) : Int := s.compare + ((l : Int) - s.lineIndex t - 1) * s.pitch

/-- The line after a page's last gap line. -/
def Page.stop (p : Page) : Nat := p.start + p.len + p.gap

/-- The layer slots a page descriptor enables. -/
def layerEn (ws : List Nat) : Nat := bits (ws.getD 0 0) 19 16

/-- A page that has not released its leases (R95, R101). -/
def Page.open (p : Page) : Bool := !p.released

/-- PGE_TRK_STATUS.STARTED shows the pages started and not yet released. -/
def Blk.putTrk (s : Blk) (t : Nat) (x : Trk) : Blk :=
  (s.setTrk t x).setF (PGE_TRK_STATUS_STARTED t) ((x.all.filter Page.open).length)

/-- A page of a track replaced. -/
def Blk.putPage (s : Blk) (t : Nat) (p q : Page) : Blk :=
  let x := s.trk t
  s.putTrk t { x with pages := x.pages.map fun r => if r = p then q else r }

/-! ### Layers at the start of a page (R98, R99) -/

/-- The address of word `w` of a buffer descriptor. -/
def bdAddr (i w : Nat) : Nat := 0x048000 + 8 * i + w

def Blk.bdWords (s : Blk) (i : Nat) : List Nat := (List.range 8).map fun w => s.rn (bdAddr i w)

def Layer.format (l : Layer) : Nat := bits (l.desc.getD 0 0) 10 8
def Layer.xrep (l : Layer) : Bool := bitOf (l.desc.getD 0 0) 7
def Layer.yrep (l : Layer) : Bool := bitOf (l.desc.getD 0 0) 6
def Layer.mode (l : Layer) : Nat := bits (l.desc.getD 0 0) 5 4
/-- BASE; its bits 5:0 count as 0. -/
def Layer.base (l : Layer) : Nat := (l.desc.getD 1 0 + 2 ^ 24 * bits (l.desc.getD 2 0) 11 0) / 64 * 64
def Layer.length (l : Layer) : Nat := l.desc.getD 3 0 + 2 ^ 24 * bits (l.desc.getD 4 0) 11 0
def Layer.width (l : Layer) : Nat := l.desc.getD 5 0
def Layer.height (l : Layer) : Nat := l.desc.getD 6 0
def Layer.x0 (l : Layer) : Nat := bits (l.desc.getD 7 0) 16 0

/-- Positions a pixel covers. -/
def Layer.step (l : Layer) : Nat := if l.xrep then 2 else 1

/-- The position after the last one the layer covers. -/
def Layer.xEnd (l : Layer) : Nat := l.x0 + l.width * l.step

/-- R99: whether the descriptor is unusable. -/
def Layer.unusable (l : Layer) : Bool :=
  !bitOf (l.desc.getD 0 0) 11 || decide (4 ≤ l.format) || (decide (1 ≤ l.format) && (l.xrep || l.yrep)) ||
    (l.xrep && l.x0 % 2 == 1) || decide (131072 < l.xEnd)

/-- A layer slot's state at the start of its page: slot `k` of the descriptor words `ws`. -/
def Blk.newLayer (s : Blk) (ws : List Nat) (k : Nat) : Layer :=
  let w := ws.getD (3 + k) 0
  let l : Layer := ⟨k, bits w 11 0, bits w 23 12, s.bdWords (bits w 11 0), true, false, none, [], [], [], [], false⟩
  { l with live := !l.unusable }

/-- The page of a descriptor, starting at line `start` of its track. -/
def Blk.newPage (s : Blk) (ws : List Nat) (start gap : Nat) (cRaw : Int) (test : Option Nat) : Page :=
  let ls := ((List.range 4).filter fun k => bitOf (layerEn ws) k).map fun k => s.newLayer ws k
  { words := ws, start := start, len := ws.getD 1 0 % 2 ^ 24, gap := gap, last := bitOf (ws.getD 0 0) 23,
    tag := ws.getD 7 0 % 2 ^ 24, cRaw := cRaw, layers := ls, bounded := false, fetched := 0,
    violation := ls.any fun l => !l.live, codec := false, underrun := false, aborted := false, released := false,
    stalled := false, lastAt := none, doneRaised := false, test := test, theta := s.twn.thetas }

/-- The events and status of a page's unusable layers (R99, R114). -/
def Blk.reportLayers (s : Blk) (t : Nat) (p : Page) : Blk :=
  (p.layers.filter fun l => !l.live).foldl
    (fun s l => (s.setF (PGE_TRK_STATUS_VIOLATION t) 1).raiseT 0x206 t (t * 2 ^ 22 + l.slot) l.bd) s

/-- A page is started (R94, R99): it joins the track's pages, and outside shuttle mode its PAGE_START entry is inserted at
the trigger position of its first line. The next page follows its gap. A first page that waited for its cue is the last one after STOP (R87). -/
def Blk.startPage (s : Blk) (t : Nat) (p : Page) : Blk :=
  let x := s.trk t
  let p := { p with last := p.last || s.fb (PGE_TRK_STATUS_STOP_PENDING t) }
  let s := s.putTrk t { x with pages := x.pages ++ [p], follow := some (p.stop, p.cRaw + ((p.len + p.gap : Nat) : Int) * s.pitch),
                               ended := p.last, first := none, taken := true, emptySeen := false }
  let s := s.reportLayers t p
  let s := s.count (0x0A + t)
  let s := if s.fb RING_TRACE_CFG_PAGES then s.trace 0xE82 t t p.tag else s
  if s.shuttle then s else s.insertRun t ⟨q256 p.cRaw, 1, 0, p.words.getD 3 0 % 4096, p.tag, false, false⟩

/-! ### When a descriptor is due (R95, R96) -/

/-- Whether the next descriptor of a track is due: the first at once, any other from the trigger of line s - L - 2 (R95). -/
def Blk.descDue (s : Blk) (t : Nat) : Bool :=
  let x := s.trk t
  let st := s.trkState t
  (st == 1 || st == 2) && !x.ended && x.first.isNone && !s.fb (PGE_TRK_STATUS_STOP_PENDING t) &&
    decide ((x.all.filter Page.open).length < 8) &&
    (match x.follow with
     | none => st == 1
     | some nx => decide (nx.1 ≤ s.lineIndex t + s.leadLines t + 2))

/-- A page ring found empty while its next descriptor is due (R96). -/
def Blk.noteEmpty (s : Blk) (t : Nat) : Blk :=
  if (s.trk t).follow.isSome && s.descDue t && !s.ringHas t then s.putTrk t { s.trk t with emptySeen := true } else s

/-! ### Releases (R105) -/

/-- The eight words of a release entry. -/
def Page.release (p : Page) (t : Nat) : List Nat :=
  [t * 2 ^ 22 + b2n p.aborted * 2 ^ 21 + b2n p.violation * 2 ^ 20 + b2n p.codec * 2 ^ 19 + b2n p.underrun * 2 ^ 18 +
      layerEn p.words,
    p.tag, p.words.getD 3 0, p.words.getD 4 0, p.words.getD 5 0, p.words.getD 6 0,
    p.start % 2 ^ 24, p.start / 2 ^ 24 % 2 ^ 24]

/-- Whether a layer still contributes to coded line `c`, in shuttle mode to line `c` of the pass. -/
def Layer.serves (l : Layer) (c : Nat) : Bool :=
  l.live && match l.endLine with
    | some e => decide (c < e)
    | none => true

/-- The first line from page line `i` on for which a layer needs bursts: the first printed line of a coded line (R100, R112). -/
def Layer.nextNeed (l : Layer) (len i : Nat) : Option Nat :=
  let r := 1 + b2n l.yrep
  let c := (i + r - 1) / r
  if l.serves c && !l.stopped && decide (0 < l.width ∧ c < l.height ∧ c * r < len) then some (c * r) else none

/-- The first line of a page that is not fetched yet and needs a fetch. -/
def Page.nextNeed (p : Page) : Option Nat := (p.layers.filterMap fun l => l.nextNeed p.len p.fetched).min?

/-- Whether the last fetch burst of a page without further need is the end of a layer that still contributes. -/
def Page.fetchEnds (p : Page) : Bool :=
  p.layers.any fun l => l.live && !l.stopped && l.endLine.isNone && decide (0 < l.width ∧ 0 < l.height)

/-- Whether a page's release is due (R105): it is aborted, or its last fetch burst has completed; a page that issues none, or whose layers
have all become transparent, waits for the trigger at which the fetch of its last line would begin. In shuttle mode the end of its last
pass makes it due (R248). -/
def Blk.releaseDue (s : Blk) (t : Nat) (p : Page) : Bool :=
  p.aborted || (if s.shuttle then p.bounded
    else p.nextNeed.isNone && (p.fetchEnds || decide (p.start + p.len ≤ s.lineIndex t + s.leadLines t + 1)))

/-- Whether a page is kept: until it is released and, unless aborted, PAGE_DONE is raised and its gap has triggered. -/
def Page.kept (l : Nat) (p : Page) : Bool := !p.released || !(p.aborted || (p.doneRaised && decide (p.stop ≤ l + 1)))

/-- A page of a track changed, wherever it is held; a page that is wholly over goes. -/
def Blk.mapPages (s : Blk) (t : Nat) (p : Page) (f : Page → Page) : Blk :=
  let put := fun l : List Page => l.map fun r => if r = p then f r else r
  let x := s.trk t
  s.putTrk t { x with pages := (put x.pages).filter (Page.kept (s.lineIndex t)),
                      old := (put x.old).filter fun r => !r.released || !(r.aborted || r.doneRaised) }

/-- Pages that the latest line leaves wholly over go. -/
def Blk.prunePages (s : Blk) (t : Nat) : Blk :=
  s.putTrk t { s.trk t with pages := (s.trk t).pages.filter (Page.kept (s.lineIndex t)) }

/-- The release of the track's first open page is posted if it is due and ring 4 has room; a full ring 4 delays it, once
counted (R105). Whether one was posted. -/
def Blk.postRelease (s : Blk) (t : Nat) : Blk × Bool :=
  let x := s.trk t
  match x.all.find? Page.open with
  | none => (s, false)
  | some p =>
    if !(x.old.contains p || s.releaseDue t p) then (s, false)
    else if s.ringFull 4 then
      if p.stalled then (s, false) else ((s.mapPages t p fun r => { r with stalled := true }).incSat PGE_REL_STALLS, false)
    else (((s.ringPut 4 (p.release t)).mapPages t p fun r => { r with released := true }).noteEmpty t, true)

/-- Every release that is due and finds room, at most the eight started pages of a track. -/
def Blk.postReleases (s : Blk) (t : Nat) : Nat → Blk
  | 0 => s
  | n + 1 =>
    let r := s.postRelease t
    if r.2 then Blk.postReleases r.1 t n else r.1

def execPageRelease (t : Fin 4) (s : State) : Res := s.on fun b => (b.postRelease t).1

/-! ### Leaving and holding (R87, R88) -/

/-- A track goes to IDLE: its PAGE_START entries go, the pages not printed to their end are aborted, and the releases
outstanding are posted. The shuttle engine, which follows track 0, goes to IDLE with it (R248). -/
def Blk.trackIdle (s : Blk) (t : Nat) : Blk :=
  let x := s.trk t
  let atEnd := fun p : Page => p.lastAt.isSome
  let left := x.pages.filterMap fun p =>
    if p.released then (if atEnd p && !p.doneRaised then some p else none) else some { p with aborted := !atEnd p }
  let s := s.putTrk t { Trk.init with old := x.old ++ left }
  let s := s.putSched t ((s.sched t).filter fun e => e.kind != 1)
  let s := (s.setF (PGE_TRK_STATUS_STATE t) 0).setF (PGE_TRK_STATUS_STOP_PENDING t) 0
  let s := if t = 0 then s.setF SHT_STATUS_STATE 0 else s
  let mark := fun r : RegPage => if r.track = t ∧ r.seen < r.len then { r with aborted := true } else r
  let s := { s with ins := { s.ins with regs := s.ins.regs.map mark } }
  s.postReleases t 8

/-- A track enters HOLD: fetches stop, leases stay (R87). -/
def Blk.trackHold (s : Blk) (t : Nat) : Blk :=
  if (s.trk t).abortWait then s.trackIdle t
  else if s.trkState t == 1 || s.trkState t == 2 then
    let s := s.setF (PGE_TRK_STATUS_STATE t) 3
    if t = 0 then s.setF SHT_STATUS_STATE 0 else s
  else s

/-! ### Consuming a descriptor (R91 to R96) -/

/-- The first line after `from0` whose trigger position is at or beyond `pos` (R91). -/
def Blk.lineAt (s : Blk) (t from0 : Nat) (pos : Int) : Nat :=
  let c := s.lineC t from0
  if pos ≤ q256 c then from0 else from0 + ((pos * 2 ^ 16 - c + s.pitch - 1) / s.pitch).toNat

/-- PAGE_LATE_START (R96). -/
def Blk.lateStart (s : Blk) (t short : Nat) : Blk :=
  (s.setF (PGE_TRK_STATUS_LATE t) 1).raiseT 0x209 t t (satU24 short)

/-- PAGE_RING_EMPTY (R96). -/
def Blk.ringEmpty (s : Blk) (t short : Nat) : Blk :=
  (s.setF (PGE_TRK_STATUS_RING_EMPTY t) 1).raiseT 0x208 t t (satU24 short)

/-- The first page of an armed track is started where its start mode says, `at0` being the line index at which its
descriptor was consumed (R91, R96). In CUE mode it waits for the cue. -/
def Blk.startFirst (s : Blk) (t : Nat) (ws : List Nat) (at0 : Nat) (test : Option Nat) : Blk :=
  let x := s.trk t
  let lead := s.leadLines t + 2
  let start := s.sval (PGE_TRK_START_POS t) 2 48 * 256
  let go := fun (s : Blk) (want soonest : Nat) =>
    let l := max want soonest
    let s := s.startPage t (s.newPage ws l (if test.isSome then 0 else ws.getD 2 0 % 2 ^ 24) (s.lineC t l) test)
    if want < l then s.lateStart t (l - want) else s
  match s.f (PGE_TRK_CFG_START_MODE t) with
  | 1 => go s (s.lineAt t (x.armAt + 1) start) (at0 + lead)
  | 2 =>
    match x.cue with
    | some c => go s (s.lineAt t (x.armAt + 1) (c.1 + start)) (max at0 (c.2 + 1) + lead)
    | none => s.putTrk t { x with first := some (ws, at0, test, s.twn.thetas), taken := true }
  | _ => go s (at0 + lead) (at0 + lead)

/-- A page that follows another is started at its line, or later where it was consumed late (R94, R96). -/
def Blk.startNext (s : Blk) (t : Nat) (ws : List Nat) (at0 : Nat) (nx : Nat × Int) (test : Option Nat) : Blk :=
  let lead := s.leadLines t + 2
  let l := max nx.1 (at0 + lead)
  let short := l - nx.1
  let empty := (s.trk t).emptySeen
  let c := nx.2 + (short : Int) * s.pitch
  let s := s.startPage t (s.newPage ws l (if test.isSome then 0 else ws.getD 2 0 % 2 ^ 24) c test)
  if short = 0 then s
  else
    let s := if empty then s.ringEmpty t short else s
    s.lateStart t short

/-- A consumed descriptor takes effect at line index `at0` (R93 to R96): with LENGTH 0 it is discarded. -/
def Blk.usePage (s : Blk) (t : Nat) (ws : List Nat) (at0 : Nat) (test : Option Nat) : Blk :=
  if ws.getD 1 0 % 2 ^ 24 = 0 then
    let s := s.raiseT 0x20C t t (ws.getD 7 0 % 2 ^ 24)
    s.noteEmpty t
  else
    match (s.trk t).follow with
    | none => s.startFirst t ws at0 test
    | some nx => s.startNext t ws at0 nx test

/-! ### What a trigger does to a track (R87, R97, R114) -/

/-- The last line of a page with its gap. -/
def Page.endLine (p : Page) : Nat := p.stop - 1

/-- The line index `l` has just been reached: what this means for one page of the track. `tps` is T of the line in ps. -/
def Blk.pageTrigger (l t : Nat) (tps : Int) (s : Blk) (p : Page) : Blk :=
  if l < p.start ∨ p.stop ≤ l then s
  else
    let y := l - p.start
    let s :=
      if y = 0 then
        let s := if s.trkState t == 1 then s.setF (PGE_TRK_STATUS_STATE t) 2 else s
        let s := (s.wn (PGE_TRK_PAGE_TAG t) p.tag).setVal (PGE_TRK_PAGE_FIRST t) p.start 2
        s.raiseT 0x200 t t p.tag
      else s
    let s :=
      if y < p.len then
        let s := s.wn (PGE_TRK_PAGE_LINE t) y
        if s.rn (PGE_TRK_MATCH t) = y ∧ y ≠ u24max then s.raiseT 0x202 t t p.tag else s
      else s
    let s := if y = p.len ∧ p.gap ≠ 0 then s.raiseT 0x201 t t p.tag else s
    if y + 1 = p.len then s.putPage t p { p with lastAt := some tps } else s

/-- Whether the trigger of line `l` ends the track: the last gap line of a page marked LAST (R87, R90). -/
def Blk.endsTrack (s : Blk) (t l : Nat) : Bool :=
  (s.trk t).pages.any fun p => p.last && p.endLine == l

/-- A line trigger, as one enabled track sees it outside shuttle mode. -/
def Blk.trackTrigger (tps : Int) (s : Blk) (t : Nat) : Blk :=
  let l := s.lineIndex t
  let st := s.trkState t
  if st ≠ 1 ∧ st ≠ 2 then s
  else
    let s := if st = 2 then s.count (0x12 + t) else s
    let s := (s.trk t).pages.foldl (Blk.pageTrigger l t tps) s
    if s.endsTrack t l then s.trackIdle t else (s.noteEmpty t).prunePages t

/-- PAGE_DONE of the track's earliest page whose last line has reached its aligned instant (R114). -/
def pageDone (t clk : Nat) (s : Blk) : Blk :=
  let s := s.advance clk
  let due := fun p : Page => !p.doneRaised && match p.lastAt with
    | some a => decide (a + 1000 * (s.f LCK_FIRE_DELAY_NS : Int) ≤ 4000 * (s.now : Int))
    | none => false
  match (s.trk t).all.find? due with
  | none => s
  | some p => (s.mapPages t p fun r => { r with doneRaised := true }).raiseT 0x203 t t p.tag

def execPageDone (t : Fin 4) (clk : Nat) (s : State) : Res := s.on (pageDone t clk)

/-! ### STOP (R90) -/

/-- The current page of R90. -/
def Blk.currentPage (s : Blk) (t : Nat) : Option Page :=
  let l := s.lineIndex t
  let ps := (s.trk t).pages
  let ahead := ps.find? fun p => decide (l < p.start)
  match ps.find? fun p => decide (p.start ≤ l ∧ l < p.start + p.len) with
  | some p => some p
  | none =>
    match ahead with
    | some p => some p
    | none => ps.find? fun p => decide (p.start + p.len ≤ l ∧ l < p.stop)

/-! ### Latency tolerance (R113) -/

/-- The lines after the last triggered one that are fetched or need no fetch, to the end of the last page's gap; none where
the track has no page, a page whose gap has triggered to its end apart (assumption 132). -/
def Blk.linesAhead (s : Blk) (t : Nat) : Option Nat :=
  let l := s.lineIndex t
  let ps := (s.trk t).pages.filter fun p => decide (l + 1 < p.stop)
  match ps.getLast? with
  | none => none
  | some e =>
    let firstBad := match ps.findSome? fun p => p.nextNeed.map fun i => p.start + i with
      | some b => b
      | none => e.stop
    some (firstBad - (l + 1))

/-- The tolerance of one track in µs. -/
def tolOf (a rate guard : Nat) : Nat :=
  if a ≤ 2 ∨ rate = 0 then 0 else (a - 2) * 100000000 / (rate * (100 + min 50 guard))

/-- PGE_LAT_TOL is computed again (R113). -/
def Blk.updateLat (s : Blk) : Blk :=
  let tols := [0, 1, 2, 3].filterMap fun t =>
    (s.linesAhead t).map fun a => tolOf a (s.rn LCK_LINE_RATE) (s.f PGE_LAT_CFG_GUARD)
  match (if s.lineDelta.isNone then none else tols.min?) with
  | none => s.wn PGE_LAT_TOL u24max
  | some v => s.wn PGE_LAT_TOL (satU24 v)

end Sys2Proof.Machine
end

