-- ==== Sys2Proof/Machine/Shuttle.lean ====
section
/-!
DEFINITION. Shuttle printing (R237 to R251): passes, the interlace and feed tables, arming, pass ends, and the geared feed.
-/

namespace Sys2Proof.Machine

/-! ### Tables (R244, R246) -/

/-- Entries in the interlace and feed tables. -/
def Blk.shtN (s : Blk) : Nat := s.f SHT_CFG_N_M1 + 1

/-- Word `i` of interlace entry `p`. -/
def Blk.interlace (s : Blk) (p i : Nat) : Nat := s.rnV 0 (0x0d1000 + 4 * p + i)

/-- The feed after entry `p`: media rows and microsteps. -/
def Blk.feedOf (s : Blk) (p : Nat) : Nat × Int :=
  (bits (s.rnV 0 (0x0d2000 + 4 * p)) 16 0, sext 24 (s.rnV 0 (0x0d2000 + 4 * p + 1)))

def Blk.shtState (s : Blk) : Nat := s.f SHT_STATUS_STATE
def Blk.shtPass (s : Blk) : Nat := s.rn SHT_PASS_INDEX
def Blk.rowOffset (s : Blk) : Int := s.sval SHT_ROW_OFS 1 24
def Blk.shtTail (s : Blk) : Nat := s.f SHT_CFG_TAIL
def Blk.pagePasses (s : Blk) : Nat := atLeast1 (s.rnV 0 SHT_PAGE_PASSES % 65536)

/-- The feed axis, 6 and 7 treated as 5. -/
def Blk.feedAxis (s : Blk) : Nat := min 5 (s.f SHT_CFG_AXIS)

/-- Pass `k` of a page becomes the current or next one: its table entry and direction are shown. -/
def Blk.setPass (s : Blk) (k : Nat) : Blk :=
  let e := k % s.shtN
  let s := (s.wn SHT_PASS_INDEX (k % 2 ^ 24)).setF SHT_STATUS_ENTRY e
  let s := s.setF SHT_STATUS_DIR (b2n (bitOf (s.interlace e 0) 23))
  { s with sht := { s.sht with below := false } }

/-- Track 0 has been armed (R248). -/
def Blk.shtArmed (s : Blk) : Blk := (s.setF SHT_STATUS_STATE 1).setPass 0

/-- The configuration faults of R237 that refuse an ARM of track 0, in order; cause 3 cannot arise. -/
def Blk.shtCause (s : Blk) : Option Nat :=
  if [1, 2, 3].any s.trkEn then some 1
  else if s.masterSrc = 8 then some 2
  else if !(s.axGear s.feedAxis && s.gearSrc s.feedAxis == 8) then some 4
  else none

/-! ### Descriptors (R248, R249) -/

/-- Whether a descriptor is due: while waiting for a page, or in the last pass of a page with none held. -/
def Blk.shtDue (s : Blk) : Bool :=
  let x := s.trk 0
  let held := (x.pages.filter fun p => !p.bounded).length
  !x.ended && !s.fb (PGE_TRK_STATUS_STOP_PENDING 0) && decide ((x.all.filter Page.open).length < 8) &&
    ((s.shtState == 1 && held == 0) || (s.shtState == 3 && held ≤ 1 && decide (s.pagePasses ≤ s.shtPass + 1)))

/-- A page is started in shuttle mode: no PAGE_START entry, and O_0 where it is waited for. -/
def Blk.shtUsePage (s : Blk) (ws : List Nat) : Blk :=
  if ws.getD 1 0 % 2 ^ 24 = 0 then s.raiseT 0x20C 0 0 (ws.getD 7 0 % 2 ^ 24)
  else
    let s := s.startPage 0 (s.newPage ws 0 0 0 none)
    if s.shtState = 1 then ((s.setF SHT_STATUS_STATE 2).setPass 0).wn SHT_ROW_OFS (s.rnV 0 SHT_ROW_ORG) else s

/-! ### Arming (R248 to R251) -/

/-- A head has alignment in force for the view of track 0. -/
def Blk.alignedRev (s : Blk) (h : Nat) : Bool := (s.alnOf 0 h).on

/-- The pass arms. -/
def Blk.passArm (s : Blk) : Blk :=
  let k := s.shtPass
  let rev := s.passDirRev
  let s := s.setSval LCK_COMPARE 3 72 s.passC0
  let noRev := rev && (List.range 32).any fun h => s.headOn h && !s.alignedRev h
  let s := if noRev then s.setF SHT_STATUS_NO_REV_DLY 1 else s
  let s := s.setF SHT_STATUS_STATE 3
  let s := { s with sht := { s.sht with i := 0, fired := 0, cols := 0, hiM := s.passM, below := false, firstFire := s.fireNum + 1 } }
  let s := { s with cmp := { s.cmp with gathered := (List.range 8).map fun j => (j, s.fireNum), store := [] } }
  let s := s.raiseL 0x601 0 (b2n rev * 2 ^ 23 + k % 65536) (s.rn SHT_ROW_OFS) (s.lineIndex 0)
  match s.shtPage with
  | none => s
  | some p =>
    let q := { p with start := if k = 0 then s.lineIndex 0 + 1 else p.start, fetched := 0,
                      layers := p.layers.map fun l => { l with chunks := [], badC := [], offs := [], endLine := l.endLine.map fun _ => 0 } }
    let s := s.putPage 0 p q
    if k = 0 then
      let s := ((s.setF (PGE_TRK_STATUS_STATE 0) 2).wn (PGE_TRK_PAGE_TAG 0) p.tag).setVal (PGE_TRK_PAGE_FIRST 0) q.start 2
      s.raiseT 0x200 0 0 p.tag
    else s

/-- The carriage has fallen more than ARM_DIST back during a pass (R248). -/
def Blk.passCheck (s : Blk) : Blk :=
  if s.shuttle && s.shtState == 3 && decide (s.passM + (s.rn SHT_ARM_DIST : Int) * 256 < s.sht.hiM) then
    let s := (s.setF SHT_STATUS_ABORTED 1).raise 0x605 0 (s.shtPass % 65536) (satU24 s.sht.cols)
    s.trackHold 0
  else s

/-- The carriage crosses the arm position of the next pass in its direction. -/
def passArmCmd (t : Nat) (s : Blk) : Blk :=
  let s := (s.advance t).passCheck
  let fwd := s.masterRev == s.passDirRev
  if !s.shuttle || !s.running || s.lckHold || !s.sht.below || !fwd || decide (s.passM < s.armM) then s
  else if s.shtState = 2 then
    if s.fb SHT_STATUS_FEED_DONE then s.passArm
    else
      let s := { s with sht := { s.sht with below := false } }
      let s := (s.setF SHT_STATUS_FEED_LATE 1).incSat SHT_IDLE_SWEEPS
      s.raise 0x603 0 (s.shtPass % 65536) (satU24 (s.sht.path / 256))
  else if s.shtState = 1 ∧ (s.trk 0).taken then
    let s := { s with sht := { s.sht with below := false } }
    (s.incSat SHT_IDLE_SWEEPS).ringEmpty 0 0
  else s

def execPassArm (t : Nat) (s : State) : Res := s.on (passArmCmd t)

/-! ### The end of a pass (R246 to R248) -/

/-- The feed after a pass starts: the path is accumulated from here (R247). -/
def Blk.startFeed (s : Blk) (steps : Int) : Blk :=
  let s := s.setF SHT_STATUS_FEED_DONE 0
  { s with sht := { s.sht with feeding := true, path := 0, lastP := s.masterP, feedFrom := s.axPos s.feedAxis, feedSteps := steps } }

/-- LENGTH + TAIL triggers have been issued (R248). -/
def Blk.passEnd (s : Blk) : Blk :=
  let k := s.shtPass
  let lastPass := decide (s.pagePasses ≤ k + 1)
  let feed := s.feedOf (k % s.shtN)
  let steps := if lastPass then sext 24 (s.rnV 0 SHT_PAGE_FEED_STEPS) else feed.2
  let s := (s.startFeed steps).incSat SHT_PASS_COUNT
  let s := s.raise 0x602 0 (k % 65536) (satU24 s.sht.fired)
  if !lastPass then
    ((s.setSval SHT_ROW_OFS 1 24 (s.rowOffset + feed.1)).setPass (k + 1)).setF SHT_STATUS_STATE 2
  else
    match s.shtPage with
    | none => s.setF SHT_STATUS_STATE 0
    | some p =>
      let s := (s.putPage 0 p { p with bounded := true }).boundaryOf 0 p
      let s := s.postReleases 0 8
      if p.last || s.fb (PGE_TRK_STATUS_STOP_PENDING 0) then s.trackIdle 0
      else
        let s := s.setPass 0
        if s.shtPage.isNone then s.setF SHT_STATUS_STATE 1
        else (s.setF SHT_STATUS_STATE 2).wn SHT_ROW_OFS (s.rnV 0 SHT_ROW_ORG)

/-- The feed is complete when the path has reached SPAN and the axis its goal (R247). -/
def feedComplete (s : Blk) : Blk :=
  if s.sht.feeding && decide (atLeast1 (s.rn SHT_FEED_SPAN) * 256 ≤ s.sht.path) &&
      decide (s.axPos s.feedAxis = s.sht.feedFrom + s.sht.feedSteps) && s.axState s.feedAxis != 5 then
    { s.setF SHT_STATUS_FEED_DONE 1 with sht := { s.sht with feeding := false } }
  else s

def execFeedComplete (s : State) : Res := s.on feedComplete

/-- A stall of the feed axis during a feed (R247). -/
def Blk.feedFault (s : Blk) (n : Nat) : Blk :=
  if s.shuttle && s.sht.feeding && n == s.feedAxis then
    let s := (s.setF SHT_STATUS_ABORTED 1).raise 0x604 n n (s.shtPass % 65536)
    let s := { s with sht := { s.sht with feeding := false } }
    s.trackHold 0
  else s

/-! ### Stall checks (R270, R271) -/

/-- Every CHECK_INT the deviation is computed and, outside FAULT, compared with the window. -/
def stallCheck (n t : Nat) (s : Blk) : Blk :=
  let s := s.advance t
  let x := s.ax n
  let int := 2500 * atLeast1 (s.f (AXS_STALL_CFG_CHECK_INT n))
  if s.axState n = 0 ∨ !s.fb (AXS_CFG_ENC_EN n) ∨ s.f (AXS_STALL_CFG_CONSEC n) = 0 ∨ t < x.lastCheck + int then s
  else
    let dev := s.stallDev n
    let s := (s.setAx n { x with lastCheck := t }).setSval (AXS_STALL_DEV n) 1 24 dev
    if !s.stallOn n then s
    else
      let c := if s.f (AXS_STALL_CFG_WINDOW n) < dev.natAbs then x.stalls + 1 else 0
      let s := s.setAx n { s.ax n with stalls := c }
      if s.f (AXS_STALL_CFG_CONSEC n) ≤ c then (s.axStall n dev).feedFault n else s

end Sys2Proof.Machine
end

