-- ==== Sys2Proof/Machine/Scan.lean ====
section
/-!
DEFINITION. Scan-out (R100, R103, R106 to R112): the strands of a layer, the line codec, the location of coded lines, and
fetch bursts.
-/

namespace Sys2Proof.Machine

/-! ### Strands (R106, R241, R243) -/

/-- Positions of a cell. -/
def cellSize : Nat := 16384

/-- The cells a layer's extent touches. -/
def Layer.cells (l : Layer) : List Nat :=
  if l.width = 0 then []
  else (List.range ((l.xEnd - 1) / cellSize + 1 - l.x0 / cellSize)).map fun i => l.x0 / cellSize + i

/-- The first pixel of a layer at or after a position. -/
def Layer.pixelAt (l : Layer) (x : Nat) : Nat := (x - l.x0 + l.step - 1) / l.step

/-- The first pixel of a strand and its number of pixels. -/
def Layer.strand (l : Layer) (j : Nat) : Nat × Nat :=
  let lo := l.pixelAt (max (j * cellSize) l.x0)
  (lo, l.pixelAt (min ((j + 1) * cellSize) l.xEnd) - lo)

/-- Bits of a pixel. -/
def Layer.depth (l : Layer) : Nat := if l.format = 0 then 8 else l.format

/-- The coded line that serves page line `y`; none where the height runs out (R100). -/
def Layer.coded (l : Layer) (y : Nat) : Option Nat :=
  let c := y / (1 + b2n l.yrep)
  if c < l.height then some c else none

/-! ### The codec (R108 to R111) -/

/-- How a strand's decoding stands: it waits for bytes, is complete, or met a codec error. -/
inductive DecSt where
  | more | done | error
deriving DecidableEq, Repr

/-- Packed pixels of depth `d`, `n` of them. -/
def unpack (d n : Nat) (bs : List Byte) : List Nat :=
  let v := leNat bs
  (List.range n).map fun i => v / 2 ^ (d * i) % 2 ^ d

/-- The count of an operation and the bytes after it; none where bytes are missing (R108). -/
def opCount (n0 : Nat) (r : List Byte) : Option (Nat × List Byte) :=
  if n0 < 30 then some (n0 + 1, r)
  else if n0 = 30 then
    match r with
    | b :: r => some (31 + b.toNat, r)
    | [] => none
  else
    match r with
    | a :: b :: c :: r => some (1 + leNat [a, b, c], r)
    | _ => none

/-- The pixels that are wholly coded in the bytes of an operation cut short (R103): those of a packed field, and of a pattern as far as it
has arrived. -/
def opStart (d op c : Nat) (r : List Byte) : List Nat :=
  match op with
  | 2 => unpack d (min c (8 * r.length / d)) r
  | 5 =>
    match r with
    | [] => []
    | _ :: r => unpack d (min c (8 * r.length / d)) r
  | _ => []

/-- The pixels of one operation and the bytes after it; none where bytes are missing. `k` pixels are produced already and
`above` is the reference line (R110). -/
def opPixels (d n op c k : Nat) (above : List Nat) (r : List Byte) : Option (List Nat × List Byte) :=
  let need := fun (m : Nat) (f : List Byte → List Nat) => if r.length < m then none else some (f (r.take m), r.drop m)
  match op with
  | 1 => need 1 fun v => List.replicate c (leNat v % 2 ^ d)
  | 2 => need ((c * d + 7) / 8) fun v => unpack d c v
  | 3 => some ((List.range c).map fun i => above.getD (k + i) 0, r)
  | 4 => need 1 fun v =>
      let s := sext 8 (leNat v)
      (List.range c).map fun i =>
        let x : Int := (k + i : Nat) + s
        if x < 0 ∨ (n : Int) ≤ x then 0 else above.getD x.toNat 0
  | _ =>
    match r with
    | [] => none
    | p :: r =>
      let m := ((p.toNat + 1) * d + 7) / 8
      if r.length < m then none
      else
        let pat := unpack d (p.toNat + 1) (r.take m)
        some ((List.range c).map fun i => pat.getD (i % (p.toNat + 1)) 0, r.drop m)

/-- A strand of `n` pixels of depth `d` decoded from the bytes that have arrived, `miss` of its stated bytes being still to come. -/
def decode (d n : Nat) (above : List Nat) (miss : Nat) : Nat → List Byte → List Nat → List Nat × DecSt
  | 0, _, px => (px, .more)
  | _ + 1, [], px => (px, if miss = 0 then .error else .more)
  | f + 1, b :: r, px =>
    let op := b.toNat / 32
    let n0 := b.toNat % 32
    if op = 0 then (px, if n0 ≠ 0 ∨ !r.isEmpty ∨ miss ≠ 0 then .error else .done)
    else if 6 ≤ op then (px, .error)
    else
      match opCount n0 r with
      | none => (px, if miss = 0 then .error else .more)
      | some (c, r) =>
        if n < px.length + c then (px, .error)
        else
          match opPixels d n op c px.length above r with
          | none => (px ++ opStart d op c r, if miss = 0 then .error else .more)
          | some (q, r) => decode d n above miss f r (px ++ q)

/-! ### Bytes fetched -/

/-- A burst read for coded line `c`. Lines that share a burst read it each, with the check of R103 (assumption 134). -/
def Layer.chunk (l : Layer) (c b : Nat) : Option (List Byte) :=
  (l.chunks.find? fun e => e.1 == c && e.2.1 == b).map fun e => e.2.2

/-- The bytes that have arrived for coded line `c` of a stretch of the buffer, up to the first missing burst. -/
def Layer.arrived (l : Layer) (c o n : Nat) : List Byte :=
  let got := ((bursts o n).map fun a => l.chunk c (a / 64)).takeWhile Option.isSome
  ((got.flatMap fun x => x.getD []).drop (o % 64)).take n

/-- The first burst of a stretch that has not been read for coded line `c`. -/
def Layer.lacks (l : Layer) (c o n : Nat) : Option Nat := ((bursts o n).map (· / 64)).find? fun b => (l.chunk c b).isNone

/-- Whether a stretch holds a burst read with an uncorrectable error. -/
def Layer.spoilt (l : Layer) (c o n : Nat) : Bool := ((bursts o n).map (· / 64)).any fun b => l.badC.contains (c, b)

/-- Where a coded line stands: a burst is needed to locate it, its header is in error, or its offset and strand lengths. -/
inductive LineAt where
  | need (c : Nat)
  | bad
  | known (o : Nat) (lens : List Nat)
deriving DecidableEq, Repr

/-- The offset of coded line `c` from BASE: known once the line before is located, or in shuttle mode from the column table. -/
def Layer.offset (l : Layer) (shuttle : Bool) (c : Nat) : LineAt :=
  if shuttle then
    match l.lacks c (4 * c) 4 with
    | some b => .need b
    | none =>
      let o := leNat (l.arrived c (4 * c) 4)
      if l.length ≤ o ∨ l.spoilt c (4 * c) 4 then .bad else .known o []
  else if c = 0 then .known 0 []
  else
    match l.offs.find? fun e => e.1 == c with
    | some e => .known e.2 []
    | none => .need 0

/-- A coded line located and its header read (R107, R111). -/
def Layer.locate (l : Layer) (shuttle : Bool) (c : Nat) : LineAt :=
  match l.offset shuttle c with
  | .need b => .need b
  | .bad => .bad
  | .known o _ =>
    let h := 3 * l.cells.length
    if l.length < o + h then .bad
    else
      match l.lacks c o h with
      | some b => .need b
      | none =>
        let hd := l.arrived c o h
        let lens := (List.range l.cells.length).map fun i => leNat (slice hd (3 * i) 3)
        if l.length < o + h + lens.sum ∨ l.spoilt c o h then .bad else .known o lens

/-- The offset and length of a strand in a located line. -/
def Layer.strandAt (l : Layer) (o : Nat) (lens : List Nat) (j : Nat) : Nat × Nat :=
  let i := l.cells.findIdx fun c => c == j
  (o + 3 * l.cells.length + (lens.take i).sum, lens.getD i 0)

/-! ### Lines and passes -/

/-- Whether the current pass needs a cell: it holds a media row at a slot of an enabled head (R241). -/
def Blk.needsCell (s : Blk) (j : Nat) : Bool :=
  (List.range 32).any fun h => s.headOn h && (List.range (s.slots h)).any fun i =>
    let m := s.slotPos h i + s.rowOffset
    decide ((j * cellSize : Nat) ≤ m ∧ m < ((j + 1) * cellSize : Nat))

/-- The cells of a layer that a line needs. -/
def Blk.cellsOf (s : Blk) (l : Layer) : List Nat := if s.shuttle then l.cells.filter s.needsCell else l.cells

/-- The page line that the `i`-th line of a page (or of its pass) prints: in a reverse pass columns descend (R239). -/
def Blk.pageLine (s : Blk) (p : Page) (i : Nat) : Nat := if s.shuttle && s.passDirRev then p.len - 1 - i else i

/-- Whether a layer still contributes to page line `y`, its coded line `c`. -/
def Blk.served (s : Blk) (l : Layer) (y c : Nat) : Bool :=
  l.serves (if s.shuttle then (if s.passDirRev then s.shtLength - 1 - y else y) else c)

/-- The next burst that coded line `c` of a layer needs, in header and strand order; `none` when it has all, or none is to come. -/
inductive Want where
  | none
  | burst (c : Nat) (cell : Nat)
  | bad
deriving DecidableEq, Repr

def Blk.want (s : Blk) (l : Layer) (y : Nat) : Want :=
  match l.coded y with
  | .none => .none
  | .some c =>
    if !s.served l y c || l.stopped then .none
    else
      let first := l.cells.headD 0
      match l.locate s.shuttle c with
      | .bad => .bad
      | .need b => .burst b first
      | .known o lens =>
        match (s.cellsOf l).filterMap fun j =>
            let r := l.strandAt o lens j
            (l.lacks c r.1 r.2).map fun b => (b, j) with
        | [] => .none
        | w :: _ => .burst w.1 w.2

/-- The page line from which on a layer's cells have lines still to gather. -/
def Blk.gatherFrom (s : Blk) (t : Nat) (p : Page) (l : Layer) : Nat :=
  let g := ((l.cells.map fun j => alook 0 s.cmp.gathered j).min?).getD 0
  ((s.lineIndex t : Int) + g + 1 - s.fireNum - p.start).toNat

/-- A coded line is located: the offset of the next is noted (R107), and what lies behind the gather is dropped. -/
def Blk.noteNext (s : Blk) (t : Nat) (p : Page) (l : Layer) (y : Nat) : Layer :=
  match l.coded y with
  | none => l
  | some c =>
    match l.locate s.shuttle c with
    | .known o lens =>
      if s.shuttle then l
      else
        let low := min c (s.gatherFrom t p l / (1 + b2n l.yrep))
        { l with
          offs := aput (l.offs.filter fun e => low ≤ e.1) (c + 1) (o + 3 * l.cells.length + lens.sum)
          chunks := l.chunks.filter fun e => low ≤ e.1
          badC := l.badC.filter fun e => low ≤ e.1 }
    | _ => l

/-- CODEC_ERROR on a track's page (R111). -/
def Blk.codecError (s : Blk) (t : Nat) (slot cell bd : Nat) : Blk :=
  ((s.setF (PGE_TRK_STATUS_CODEC t) 1).raiseT 0x207 t (t * 2 ^ 22 + cell % 16 * 4 + slot) bd).count 0x17

/-- Whether the fetch of the `i`-th line of a page has begun to be due. -/
def Blk.fetchDue (s : Blk) (t : Nat) (p : Page) (i : Nat) : Bool :=
  if s.shuttle then s.shtState == 3 && decide (i < s.sht.i + s.leadLines 0) && !p.bounded
  else decide (p.start + i ≤ s.lineIndex t + s.leadLines t)

/-- The next line of a page, or of its pass, to fetch. -/
def Blk.nextFetch (s : Blk) (p : Page) : Option Nat :=
  if s.shuttle then (if p.fetched < p.len then some p.fetched else none) else p.nextNeed

/-- The lines of a page that are completely fetched are counted on as far as their fetch has begun; a header in error ends its
layer (R111). -/
def Blk.settleLines (t : Nat) : Nat → Blk → Page → Blk × Page
  | 0, s, p => (s, p)
  | f + 1, s, p =>
    match s.nextFetch p with
    | none => (s, { p with fetched := p.len })
    | some i =>
      let p := { p with fetched := i }
      if !s.fetchDue t p i then (s, p)
      else
        let y := s.pageLine p i
        match p.layers.find? fun l => s.want l y == .bad with
        | some l =>
          let e := if s.shuttle then some i else l.coded y
          let q := { p with codec := true, layers := p.layers.map fun k => if k = l then { k with endLine := e } else k }
          Blk.settleLines t f (s.codecError t l.slot (l.cells.headD 0) l.bd) q
        | none =>
          if p.layers.all fun l => s.want l y == .none then
            Blk.settleLines t f s { p with layers := p.layers.map fun l => s.noteNext t p l y, fetched := i + 1 }
          else (s, p)

/-- The page lines fetched are counted on for every page of a track. -/
def Blk.settleTrack (s : Blk) (t : Nat) : Blk :=
  (s.trk t).pages.foldl (fun s p =>
    let r := Blk.settleLines t 256 s p
    if r.2 = p then r.1 else r.1.putPage t p r.2) s

/-! ### Fetch bursts (R103, R112) -/

/-- The requester port of the stake that takes a cell's input (R125, R378). -/
def Blk.cellPort (s : Blk) (j : Nat) : Nat := if s.f CMP_STAKE_STATUS_BYE_FOR = j then 10 else 2 + j % 8

/-- Burst `b` for coded line `c` of a layer: checked against GEN and VALID, then read. -/
def Blk.readBurst (s : Blk) (t : Nat) (p : Page) (l : Layer) (c b cell : Nat) (e : MemErr) : Blk :=
  let w := s.rn (bdAddr l.bd 0)
  let put := fun (s : Blk) (k : Layer) (v : Bool) =>
    s.putPage t p { p with violation := p.violation || v, layers := p.layers.map fun x => if x = l then k else x }
  if bits w 23 12 ≠ l.gen ∨ !bitOf w 11 then
    let s := put s { l with stopped := true } true
    ((s.setF (PGE_TRK_STATUS_VIOLATION t) 1).raiseT 0x205 t (t * 2 ^ 22 + l.slot) l.bd).count 0x16
  else
    let a := l.base + 64 * b
    let port := s.cellPort cell
    let s := s.access port a 64
    let k := { l with chunks := (c, b, s.imgRead a 64) :: l.chunks, badC := if s.bad e then (c, b) :: l.badC else l.badC }
    (put s k false).ecc port a e

/-- The next burst of a track: pages in order, lines in order, layers L0 to L3, strands in order. -/
def fetchBurst (t : Nat) (e : MemErr) (s : Blk) : Blk :=
  if s.trkState t ≠ 1 ∧ s.trkState t ≠ 2 then s
  else
    let s := s.settleTrack t
    match (s.trk t).pages.findSome? fun p => if p.aborted || p.bounded && s.shuttle then none else (s.nextFetch p).map fun i => (p, i) with
    | none => s
    | some (p, i) =>
      if !s.fetchDue t p i then s
      else
        let y := s.pageLine p i
        let w := p.layers.findSome? fun l =>
          match s.want l y with
          | .burst b j => some (l, b, j)
          | _ => none
        match w with
        | none => s
        | some x => (s.readBurst t p x.1 ((x.1.coded y).getD 0) x.2.1 x.2.2 e).settleTrack t

def execFetchBurst (t : Fin 4) (e : MemErr) (s : State) : Res := s.on (fetchBurst t e)

end Sys2Proof.Machine
end

