-- ==== Sys2Proof/Machine/Compose.lean ====
section
/-!
DEFINITION. Composition (R125 to R151, R221): the gather of a cell, and the nozzle phase that gives every slot of a line its
drop code. A line is named by its fire number; `lineOf` gives what it is for a track.
-/

namespace Sys2Proof.Machine

/-! ### Lines (R130, R142, R239) -/

/-- The page and page line that line `n` is for a track; none where it is no page line of a started page (R142). -/
def Blk.lineOf (s : Blk) (t n : Nat) : Option (Page × Nat) :=
  if s.shuttle then
    if t ≠ 0 ∨ s.shtState ≠ 3 ∨ n < s.sht.firstFire then none
    else
      match s.shtPage with
      | none => none
      | some p => if n - s.sht.firstFire < p.len then some (p, s.pageLine p (n - s.sht.firstFire)) else none
  else if s.trkState t ≠ 1 ∧ s.trkState t ≠ 2 then none
  else
    let l : Int := (s.lineIndex t : Int) + n - s.fireNum
    match (s.trk t).pages.find? fun p => decide ((p.start : Int) ≤ l ∧ l < (p.start + p.len : Nat)) && !p.aborted with
    | none => none
    | some p => some (p, (l - p.start).toNat)

/-- The line index of line `n` on a track. -/
def Blk.indexOf (s : Blk) (t n : Nat) : Nat := ((s.lineIndex t : Int) + n - s.fireNum).toNat

/-- What an effective position reads from the position store: in shuttle mode its media row (R241). -/
def Blk.readPos (s : Blk) (x : Int) : Int := if s.shuttle then x + s.rowOffset else x

/-! ### The gather (R126, R127, R132, R133) -/

/-- One layer's part in the gather of a cell: the pixels decoded of a strand that begins at pixel `lo`, how many of them
count (beyond these the layer is transparent), whether its decoder stalls for bytes, a codec error, and whether bytes of the strand have
arrived. -/
structure Part where
  layer : Layer
  coded : Nat
  lo : Nat
  px : List Nat
  cover : Nat
  wait : Bool
  err : Bool
  got : Bool
deriving DecidableEq, Repr

/-- The previous decoded line of a strand (R110); all 0 for the first line, and in shuttle mode (R243). -/
def Blk.above (s : Blk) (l : Layer) (j c : Nat) : List Nat :=
  if s.shuttle || c == 0 then []
  else
    match l.refs.find? fun r => r.1 == j && r.2.1 == c - 1 with
    | some r => r.2.2
    | none => []

/-- A layer's part for page line `y` in cell `j`; none where it is transparent there, or where a shuttle pass has no row (R241). -/
def Blk.part (s : Blk) (l : Layer) (y j : Nat) : Option Part :=
  match l.coded y with
  | none => none
  | some c =>
    let r := l.strand j
    if !s.served l y c || !l.cells.contains j || (s.shuttle && !s.needsCell j) then none
    else
      match (if s.shuttle then none else l.refs.find? fun e => e.1 == j && e.2.1 == c) with
      | some e => some ⟨l, c, r.1, e.2.2, r.2, false, false, true⟩
      | none =>
        match l.locate s.shuttle c with
        | .bad => none
        | .need _ => some ⟨l, c, r.1, [], 0, !l.stopped, false, false⟩
        | .known o lens =>
          let z := l.strandAt o lens j
          let bs := l.arrived c z.1 z.2
          if z.2 = 0 then some ⟨l, c, r.1, [], r.2, false, false, true⟩
          else if l.spoilt c z.1 z.2 then some ⟨l, c, r.1, [], r.2, false, true, true⟩
          else
            let d := decode l.depth r.2 (s.above l j c) (z.2 - bs.length) (bs.length + 1) bs []
            match d.2 with
            | .more => some ⟨l, c, r.1, d.1, d.1.length, !l.stopped, false, !bs.isEmpty⟩
            | .done => some ⟨l, c, r.1, d.1, r.2, false, false, true⟩
            | .error => some ⟨l, c, r.1, d.1, r.2, false, true, true⟩

/-- The pixel of a part at a position; none where the layer is transparent. -/
def Part.pixel (q : Part) (x : Nat) : Option Nat :=
  if x < q.layer.x0 ∨ q.layer.xEnd ≤ x then none
  else
    let i := (x - q.layer.x0) / q.layer.step
    if i < q.lo ∨ q.lo + q.cover ≤ i then none else some (q.px.getD (i - q.lo) 0)

/-- One layer's contribution to the composite and the pre-screened code (R132). -/
def blend (l : Layer) (a : Nat × Nat) : Option Nat → Nat × Nat
  | none => a
  | some v =>
    if l.format = 0 then
      let w := v * 4 + v / 64
      match l.mode with
      | 0 => (if w = 0 then a.1 else w, a.2)
      | 1 => (min 1023 (a.1 + w), a.2)
      | 2 => (max a.1 w, a.2)
      | _ => ((a.1 * (1024 - (w + w / 512)) + 512) / 1024, a.2)
    else (a.1, max a.2 v)

/-- The composite and pre-screened code at a position from the parts of the track that owns it. -/
def Blk.composite (s : Blk) (parts : List (Nat × Part)) (x : Nat) : Nat × Nat :=
  let t := s.owner x
  (parts.filter fun q => q.1 == t).foldl (fun a q => blend q.2.layer a (q.2.pixel x)) (0, 0)

/-- The last line a cell has gathered. -/
def Blk.gathered (s : Blk) (j : Nat) : Nat := alook 0 s.cmp.gathered j

/-- The layers' parts of line `n` in a cell, by track, in layer order. -/
def Blk.parts (s : Blk) (n j : Nat) : List (Nat × Part) :=
  [0, 1, 2, 3].flatMap fun t =>
    match s.lineOf t n with
    | none => []
    | some q => (q.1.layers.filterMap fun l => s.part l q.2 j).map fun p => (t, p)

/-- A decoded strand is kept as reference line; a codec error is reported (R111). -/
def Blk.keepPart (j : Nat) (s : Blk) (q : Nat × Part) : Blk :=
  let l := q.2.layer
  let k := { l with refs := (j, q.2.coded, q.2.px) :: l.refs.filter (fun r => r.1 != j), err := l.err || q.2.err }
  let x := s.trk q.1
  let f := fun p : Page =>
    if p.layers.contains l then { p with layers := p.layers.map (fun m => if m = l then k else m), codec := p.codec || q.2.err } else p
  let s := s.putTrk q.1 { x with pages := x.pages.map f }
  if q.2.err then s.codecError q.1 l.slot j l.bd else s

/-- The line a handover begins at is the first one whose gather starts in its cell after the request (R152). -/
def Blk.handLine (s : Blk) (j n : Nat) : Blk :=
  match s.cmp.hand with
  | some x => if x.stake = j ∧ x.g = 0 then { s with cmp := { s.cmp with hand := some { x with g := n } } } else s
  | none => s

/-- The last line whose nozzle phase has been, or that has none: lines 1 and 2 of a run, and what went before a pass (R128). -/
def Blk.composedTo (s : Blk) : Nat := if s.shuttle && !(s.shtState == 3 && s.sht.i != 0) then s.fireNum else s.fireNum + 2

/-- The gather of a cell's next line (R127): it starts once the store of four lines has room and bytes have arrived, and is complete once no
decoder waits, else up to the first position not yet passed. A line whose nozzle phase is over is not stored. A span without a stake is
gathered as 0 (R456). -/
def gatherLine (j : Nat) (s : Blk) : Blk :=
  let n := s.gathered j + 1
  let qs := if s.deadSpan j then [] else s.parts n j
  if !s.running || decide (s.composedTo + 4 < n) || (qs.any (fun q => q.2.wait) && !qs.any fun q => q.2.got) then s
  else
    let base := j * cellSize
    let ends := qs.map fun q => if q.2.wait then q.2.layer.x0 + (q.2.lo + q.2.px.length) * q.2.layer.step - base else cellSize
    let upto := ends.foldl min cellSize
    let extent := qs.foldl (fun m q => max m (min cellSize (q.2.layer.xEnd - base))) 0
    let vals := (List.range (min upto extent)).map fun i => s.composite qs (base + i)
    let mine := fun g : Gather => g.cell == j && g.line == n
    let store := s.cmp.store.filter fun g => !mine g
    let begun := s.cmp.store.any mine
    let s := if n ≤ s.composedTo then s else { s with cmp := { s.cmp with store := store ++ [(⟨n, j, upto, vals⟩ : Gather)] } }
    let s := if begun then s else s.handLine j n
    if qs.any fun q => q.2.wait then s
    else qs.foldl (Blk.keepPart j) { s with cmp := { s.cmp with gathered := aput s.cmp.gathered j n } }

def execGatherLine (j : Fin 8) (s : State) : Res := s.on (gatherLine j)

/-! ### The nozzle phase (R128, R134 to R144) -/

/-- What the position store holds at a position for line `n`: composite, pre-screened code, and whether it is gathered. -/
def Blk.stored (s : Blk) (n : Nat) (m : Int) : Nat × Nat × Bool :=
  if m < 0 ∨ 131071 < m then (0, 0, true)
  else
    let j := m.toNat / cellSize
    let i := m.toNat % cellSize
    match s.cmp.store.find? fun g => g.cell == j && g.line == n with
    | some g => if i < g.upto then let v := g.vals.getD i (0, 0); (v.1, v.2, true) else (0, 0, false)
    | none => (0, 0, false)

/-- The edge weight of a nozzle at column `c` of `npr`, and whether a pre-screened code prints there (R143, R144). -/
def edgeWeight (edge npr c : Nat) : Nat × Bool :=
  let bl := bits edge 17 12
  let bh := bits edge 5 0
  let tl := bits edge 23 18
  let th := bits edge 11 6
  if c < tl ∨ npr < c + 1 + th then (0, false)
  else
    let a := c - tl
    let b := npr - 1 - c - th
    let lo := if a < bl then (2 * a + 1) * 256 / (2 * bl) else 256
    let hi := if b < bh then (2 * b + 1) * 256 / (2 * bh) else 256
    (min lo hi, (decide (bl ≤ a) || decide (128 < lo)) && (decide (bh ≤ b) || decide (128 ≤ hi)))

/-- One nozzle as the nozzle phase sees it: its position, the position it reads, owner, row and column by position, nozzle
word, what it reads, and its edge weight. -/
structure Noz where
  x : Int
  m : Int
  own : Nat
  row : Nat
  col : Nat
  word : Nat
  c10 : Nat
  pre : Nat
  got : Bool
  ew : Nat
  edge : Bool
deriving DecidableEq, Repr

/-- STATE of a nozzle word. -/
def Noz.state (q : Noz) : Nat := q.word % 16
def Noz.accepts (q : Noz) : Bool := q.state == 0
def Noz.fires (q : Noz) : Bool := q.state == 0 || q.state == 1
def Noz.gives (q : Noz) : Bool := q.state == 2 || q.state == 4
def Noz.gain (q : Noz) : Nat := q.word / 4096
def Noz.offset (q : Noz) : Int := sext 8 (q.word / 16 % 256)

/-- The word of slot `i` of head `h` in force. -/
def nozAddr (h i : Nat) : Nat := 0x080000 + h * 4096 + i

def Blk.noz (s : Blk) (h n i : Nat) : Noz :=
  let pl := s.slotPlace h i
  let m := s.readPos pl.1
  let own := s.owner m
  let g := s.stored n m
  let c := s.colOf h i
  let edge := match pl.2.edge with
    | some e => e
    | none => s.rnV own (CMP_HEAD_EDGE h)
  let w := edgeWeight edge (s.npr h) c
  ⟨pl.1, m, own, i / s.npr h, c, s.rn (nozAddr h i), g.1, g.2.1, g.2.2, w.1, w.2⟩

/-- The nozzles of a head on one line, with what their rules need of the head. -/
structure HeadLine where
  h : Nat
  npr : Nat
  rows : Nat
  dir : Bool
  mode : Nat
  nz : Array Noz

def Blk.headLine (s : Blk) (h n : Nat) : HeadLine :=
  ⟨h, s.npr h, s.rows h, s.fb (CMP_HEAD_CFG_DIR h), s.f (CMP_HEAD_CFG_PAIR_MODE h),
    ((List.range (s.slots h)).map (s.noz h n)).toArray⟩

/-- The slot at a row and a column counted by position. -/
def HeadLine.slot (a : HeadLine) (row col : Nat) : Nat := row * a.npr + (if a.dir then a.npr - 1 - col else col)

def HeadLine.get (a : HeadLine) (row col : Nat) : Option Noz :=
  if a.rows ≤ row ∨ a.npr ≤ col then none else a.nz[a.slot row col]?

/-- The twin of a nozzle (R137). -/
def HeadLine.twin (a : HeadLine) (q : Noz) : Option Noz :=
  if a.mode = 0 then none else a.get (if q.row % 2 = 0 then q.row + 1 else q.row - 1) q.col

/-- The left and right neighbours of a nozzle (R129). -/
def HeadLine.left (a : HeadLine) (q : Noz) : Option Noz := if q.col = 0 then none else a.get q.row (q.col - 1)
def HeadLine.right (a : HeadLine) (q : Noz) : Option Noz := a.get q.row (q.col + 1)

/-- The row weight (R137) on a line of index `l`. -/
def HeadLine.rw (a : HeadLine) (l : Nat) (q : Noz) : Nat :=
  match a.twin q with
  | none => 256
  | some w =>
    if w.gives && q.accepts then 256
    else
      match a.mode with
      | 1 => if q.row % 2 = 0 then 256 else 0
      | 2 => 128
      | _ => if q.row % 2 = l % 2 then 256 else 0

/-- The density a nozzle prints by itself, as the track `t` has it (R138). -/
def Blk.dens (s : Blk) (a : HeadLine) (l t : Nat) (q : Noz) : Nat :=
  if q.own ≠ t then 0
  else
    let d := s.toneOf t a.h q.c10
    let d := (d * q.ew + 128) / 256
    (d * a.rw l q + 128) / 256

/-- Whether a nozzle is eligible to take density from `src` (R138). -/
def eligible (q : Option Noz) (src : Noz) : Bool :=
  match q with
  | some q => q.accepts && q.ew != 0 && q.own == src.own
  | none => false

/-- Whether a nozzle's density goes to its neighbours: DEAD, and its twin does not accept (R139). -/
def HeadLine.dead (a : HeadLine) (q : Noz) : Bool :=
  q.state == 2 && match a.twin q with
    | some w => !w.accepts
    | none => true

/-- The share of a dead nozzle `d` toward its left or right neighbour (R138). -/
def Blk.share (s : Blk) (a : HeadLine) (l t : Nat) (d : Noz) (toLeft : Bool) : Nat :=
  let lw := s.fV t CMP_TAKE_W_LEFT_W
  let rw := s.fV t CMP_TAKE_W_RIGHT_W
  let toward := if toLeft then a.left d else a.right d
  let other := if toLeft then a.right d else a.left d
  if !a.dead d || !eligible toward d then 0
  else
    let w := (if toLeft then lw else rw) + (if eligible other d then 0 else if toLeft then rw else lw)
    (s.dens a l t d * w + 64) / 128

/-- Threshold `i`, 1 to 7, of the cell of a nozzle (R148, R149). -/
def Blk.thr (s : Blk) (t ux uy i : Nat) : Nat :=
  let w := (s.thrGet (s.thrBankOf t) uy (4 * ux + (i - 1) / 2)).toNat
  if i % 2 = 1 then bits w 11 0 else bits w 23 12

/-- A nonnegative remainder. -/
def modNat (x : Int) (n : Nat) : Nat := (x % (n : Int)).toNat

/-- The level of a density at a nozzle on page line `y` (R138, R149). -/
def Blk.level (s : Blk) (t : Nat) (m : Int) (y d : Nat) : Nat :=
  let size := s.thrSizeOf t
  let ux := modNat (m + s.fV t (SCR_ORG_X_ORG t)) (bits size 6 0 + 1)
  let uy := (y + s.fV t (SCR_ORG_Y_ORG t)) % (bits size 13 7 + 1)
  ((List.range 7).filter fun i => decide (s.thr t ux uy (i + 1) < d)).length

/-- The pre-screened code a nozzle prints (R141). -/
def HeadLine.pre (a : HeadLine) (l : Nat) (q : Noz) : Nat :=
  let ok := q.edge && match a.twin q with
    | none => true
    | some w => (w.gives && q.accepts) || (if a.mode = 1 then q.row % 2 == 0 else q.row % 2 == l % 2)
  if ok then q.pre else 0

/-- The drop code of R138. -/
def Blk.dropCode (s : Blk) (a : HeadLine) (rung l t y : Nat) (q : Noz) : Nat :=
  let from1 := match a.left q with
    | some d => s.share a l t d false
    | none => 0
  let from2 := match a.right q with
    | some d => s.share a l t d true
    | none => 0
  let d := min 4095 (s.dens a l t q + from1 + from2)
  let d := if d = 0 then 0 else (max 0 (min 4095 ((((d * q.gain + 1024) / 2048 : Nat) : Int) + 4 * q.offset))).toNat
  let lvl := s.level t q.m y d
  let code := if lvl = 0 then 0 else bits (s.rnV t (CMP_RUNG_MAP rung)) (3 * lvl + 2) (3 * lvl)
  max (min code (cmax rung)) (min (a.pre l q) (cmax rung))

/-- The first position a nozzle needs that is not gathered (R151). -/
def HeadLine.missing (a : HeadLine) (q : Noz) : Option Int :=
  let near := [some q, a.twin q, a.left q, a.right q, (a.left q).bind a.left, (a.right q).bind a.right]
  (near.filterMap id).findSome? fun w => if w.got then none else some w.m

/-- Whether the interlace table includes a slot in the pass (R245). -/
def Blk.included (s : Blk) (q : Noz) (y : Nat) : Bool :=
  if !s.shuttle then true
  else
    let e := s.f SHT_STATUS_ENTRY
    let w := s.interlace e 0
    let md := bits w 14 12 + 1
    bitOf w (15 + q.row) && decide ((bits (s.interlace e 1) 16 0 : Int) ≤ q.x ∧ q.x ≤ (bits (s.interlace e 2) 16 0 : Int)) &&
      y % md == bits w 11 9 % md

/-! ### Test pages (R221) -/

/-- Heads in use, in order of CMP_HEAD_X. -/
def Blk.headsByX (s : Blk) : List Nat :=
  sortBy (fun a b => decide (s.rn (CMP_HEAD_X a) ≤ s.rn (CMP_HEAD_X b))) ((List.range 32).filter s.headOn)

/-- The largest row count of the enabled heads. -/
def Blk.maxRows (s : Blk) : Nat := (((List.range 32).filter s.headOn).map s.rows).foldl max 0

def tpPattern (w : Nat) : Nat := if bits w 21 20 = 3 then 0 else bits w 21 20
def tpCode (w : Nat) : Nat := atLeast1 (bits w 18 16)
def tpLen (w : Nat) : Nat := max 8 (bits w 15 8)
def tpRow (w : Nat) : Nat := bits w 2 0

/-- The lines of a test page. -/
def Blk.tpLines (s : Blk) (w : Nat) : Nat :=
  match tpPattern w with
  | 0 => 8 * s.maxRows * tpLen w
  | 1 => 2 * tpLen w
  | _ => 128 * (s.maxRows - 1)

/-- Whether the pattern of a test page prints a slot. -/
def Blk.tpPrints (s : Blk) (w h : Nat) (q : Noz) (y : Nat) : Bool :=
  let len := tpLen w
  match tpPattern w with
  | 0 => q.row == y / (8 * len) && q.col % 8 == y / len % 8
  | 1 => q.row == tpRow w && q.col % 16 == 8 && (s.headsByX.findIdx fun k => k == h) % 2 == (if y < len then 0 else 1)
  | _ =>
    let z := y % 64
    let c := if q.row = 0 ∨ q.row ≠ 1 + y / 128 then 4 * z else 252 - 4 * z
    let c' := if q.row = 0 ∨ q.row ≠ 1 + y / 128 then 252 - 4 * z else 4 * z
    (q.row == 0 || q.row == 1 + y / 128) && q.col % 256 == (if y % 128 < 64 then c else c')

/-! ### Codes of a head (R142, R151) -/

/-- What each track makes of a line: its page, page line and line index. -/
abbrev LineCtx := List (Option (Page × Nat))

/-- The walk over a head's slots: codes so far, newest first, and the first missing position of each owner with one, in order. -/
structure Walk where
  codes : List Nat
  under : List (Nat × Int)
deriving DecidableEq, Repr

/-- One slot (R142). -/
def Blk.slotCode (s : Blk) (a : HeadLine) (ctx : LineCtx) (n rung : Nat) (w : Walk) (q : Noz) : Walk :=
  let zero := { w with codes := 0 :: w.codes }
  if !q.fires then zero
  else
    match ctx.getD q.own none with
    | none => zero
    | some (p, y) =>
      if bitOf s.cmp.hold a.h || !s.included q y then zero
      else
        match p.test with
        | some tw =>
          { w with codes := (if s.tpPrints tw a.h q y then min (tpCode tw) (cmax rung) else 0) :: w.codes }
        | none =>
          let miss := if w.under.any fun u => u.1 == q.own then none else (a.missing q).map fun m => (q.own, m)
          let under := w.under ++ miss.toList
          { codes := (if under.isEmpty then s.dropCode a rung (s.indexOf q.own n) q.own y q
              else min (s.f (PGE_TRK_CFG_FILL q.own)) (cmax rung)) :: w.codes
            under := under }

/-- The codes of a head for line `n`, and the first missing position of each owner with one. A disabled head and a span without
a stake print 0 (R131, R456). -/
def Blk.headCodes (s : Blk) (ctx : LineCtx) (n rung h : Nat) : List Nat × List (Nat × Int) :=
  if !s.headOn h then (List.replicate (min 4096 (s.slots h)) 0, [])
  else if s.deadSpan (h / 4) then (List.replicate (s.slots h) 0, [])
  else
    let a := s.headLine h n
    let w := a.nz.foldl (s.slotCode a ctx n rung) ⟨[], []⟩
    (w.codes.reverse, w.under)

/-- The dead nozzles of a head whose density on the line is lost, with their owner and slot (R139). -/
def Blk.headLost (s : Blk) (ctx : LineCtx) (n h : Nat) : List (Nat × Nat) :=
  if !s.headOn h || bitOf s.cmp.hold h || s.deadSpan (h / 4) then []
  else
    let a := s.headLine h n
    (List.range a.nz.size).filterMap fun i =>
      match a.nz[i]? with
      | none => none
      | some q =>
        match ctx.getD q.own none with
        | none => none
        | some (p, _) =>
          if p.test.isNone && a.dead q && !eligible (a.left q) q && !eligible (a.right q) q &&
              s.dens a (s.indexOf q.own n) q.own q != 0 then some (q.own, i)
          else none

/-- TAKEOVER_LOST of head `h` at slot `i` of track `t`, once per page and head. -/
def Blk.takeLost (ctx : LineCtx) (h : Nat) (s : Blk) (l : Nat × Nat) : Blk :=
  let (t, i) := l
  let key := match ctx.getD t none with
    | some (p, _) => t * 2 ^ 48 + p.start
    | none => 0
  if s.cmp.lostRaised.contains (h, key) then s
  else
    let s := { s with cmp := { s.cmp with lostRaised := (h, key) :: s.cmp.lostRaised.filter fun e => e.1 != h || e.2 / 2 ^ 48 != t } }
    s.raiseL 0x303 h (h * 2 ^ 12 + i) t (s.lineIndex t)

/-- The lost nozzle-lines of one head (R139): each counts, and the first of each track's page is reported. -/
def Blk.countLost (ctx : LineCtx) (n : Nat) (s : Blk) (h : Nat) : Blk :=
  let lost := s.headLost ctx n h
  if lost.isEmpty then s
  else
    let s := (((s.addSat CMP_TAKE_LOST lost.length).setF CMP_STATUS_TAKE_LOST 1).count 0x1C lost.length)
    ([0, 1, 2, 3].filterMap fun t => lost.find? fun l => l.1 == t).foldl (Blk.takeLost ctx h) s

/-- UNDERRUN of a track on a line, at its first missing position (R114, R151). -/
def Blk.underrun (s : Blk) (t n : Nat) (m : Int) : Blk :=
  let s := ((s.setF (PGE_TRK_STATUS_UNDERRUN t) 1).incSat (PGE_TRK_UNDERRUNS t)).count (0x0E + t)
  let s := match s.lineOf t n with
    | some q => s.putPage t q.1 { q.1 with underrun := true }
    | none => s
  s.raiseL 0x204 t t (wrapTo 24 m) (s.indexOf t n)

/-! ### The line as bytes (R168, R181, R299) -/

/-- Codes packed into 24-bit words, `k` codes of `d` bits to a word (R168). -/
def packWords (d k : Nat) : Nat → List Nat → List Nat
  | 0, _ => []
  | f + 1, cs =>
    if cs.isEmpty then []
    else ((cs.take k).reverse.foldl (fun v c => v * 2 ^ d + c % 2 ^ d) 0) :: packWords d k f (cs.drop k)

/-- Words as bytes, bits 23:16 first. -/
def wordBytes (ws : List Nat) : List Byte := ws.flatMap fun w => toBE w 3

/-- The 1,536 bytes of a port's line in the 3-bit packing. -/
def lineBytes (cs : List Nat) : List Byte :=
  let bs := wordBytes (packWords 3 8 cs.length cs)
  bs ++ List.replicate (1536 - bs.length) 0

/-- The codes of a line from its bytes. -/
def bytesLine (bs : List Byte) (n : Nat) : List Nat :=
  let codes := (List.range (bs.length / 3)).flatMap fun i => unpack 3 8 (slice bs (3 * i) 3).reverse
  codes.take n

/-- Lines the delay store holds for each port (R181). -/
def Blk.depth (s : Blk) : Nat := 2 ^ clampN 6 12 (s.f HLK_DLY_CFG_DEPTH_LOG2)

/-- Where the delay store keeps a line of a port. -/
def Blk.dlyAddr (s : Blk) (h m : Nat) : Nat :=
  s.val HLK_DLY_BASE 2 / 512 * 512 + (h * s.depth + m % s.depth) * 1536

/-- The requester port of the stake that serves a head port's span (R125, R181). -/
def Blk.spanPort (s : Blk) (h : Nat) : Nat := s.cellPort (h / 4)

/-- A port's line written to image memory in the 3-bit packing. -/
def Blk.putLine (s : Blk) (p a : Nat) (cs : List Nat) : Blk :=
  if cs.all (· == 0) then (s.access p a 1536 true).memZero a (min 1536 (s.capacity - a)) else s.imgWrite p a (lineBytes cs)

/-- A port's composed line is written to the delay store. -/
def Blk.storeLine (s : Blk) (h m : Nat) (cs : List Nat) : Blk := s.putLine (s.spanPort h) (s.dlyAddr h m) cs

/-- The CRC-24 of a line's codes, all 131,072 slots in order. -/
def crc24 (lines : List (List Nat)) : Nat :=
  lines.foldl (fun v cs => (lineBytes cs).foldl (fun v b => crc24Byte v b.toNat) v) 0xB704CE

/-! ### Row delays (R180 to R182) -/

/-- The tracks that own positions of a row's slots, or view 4 where none does. -/
def Blk.rowViews (s : Blk) (h r : Nat) : List Nat :=
  let own := (List.range (s.npr h)).map fun c => s.owner (s.readPos (s.slotPos h (r * s.npr h + c)))
  let vs := [0, 1, 2, 3].filter own.contains
  if vs.isEmpty then [4] else vs

/-- The delay word of an alignment value for a row, in the direction of the pass (R239, R247). -/
def Blk.alnDly (s : Blk) (v : AlnVal) (r : Nat) : Option Nat :=
  v.dly.map fun d => (if s.passRev then d.2 else d.1).getD r 0

/-- WHOLE for a slot: its owner's view of HLK_ROW_DLY, or the alignment set's (R180, R182). -/
def Blk.whole (s : Blk) (h i : Nat) : Nat :=
  let pl := s.slotPlace h i
  let r := i / s.npr h
  let w := match s.alnDly pl.2 r with
    | some d => d
    | none => s.rnV (s.owner (s.readPos pl.1)) (HLK_ROW_DLY h r)
  min (bits w 17 6) (s.depth - 1)

/-- FRAC of a row: the newest value for which every track that owns a position of the row has passed its boundary (R180). -/
def Blk.frac (s : Blk) (h r : Nat) : Nat :=
  let vs := s.rowViews h r
  let reg := match s.held.reverse.find? fun e => e.addr == HLK_ROW_DLY h r && vs.all e.done.contains with
    | some e => e.val.toNat
    | none => s.rn (HLK_ROW_DLY h r)
  let aln := match (s.alnVers h).reverse.find? fun x => vs.all x.done.contains with
    | some x => s.alnDly x.val r
    | none => none
  bits (aln.getD reg) 5 0

/-! ### Lines that print less than asked (R204, R214) -/

/-- Whether a head has a nozzle at a position of a range. -/
def Blk.headIn (s : Blk) (h x0 x1 : Nat) : Bool :=
  s.headOn h && (List.range (s.slots h)).any fun i =>
    let x := s.slotPos h i
    decide ((x0 : Int) ≤ x ∧ x ≤ (x1 : Int))

/-- Line `n` falls short in the regions `p` selects: item 4 of R214 fails for them. -/
def Blk.marRegions (s : Blk) (n : Nat) (p : RegCheck → Bool) : Blk :=
  let hit := fun (r : RegPage) (c : RegCheck) => decide (r.fire ≤ n ∧ n < r.fire + r.len ∧ c.y0 ≤ n - r.fire ∧ n - r.fire ≤ c.y1) && p c
  let upd := fun r : RegPage => { r with checks := r.checks.map fun c => if hit r c then { c with marred := true } else c }
  { s with ins := { s.ins with regs := s.ins.regs.map upd } }

/-- The record of an imaged line in its slot of the expected store (R204): fire number, whether it was skipped, per track the page's first
line index and the page line, and as masks the ports fired blank and those short of data. -/
structure ExpRec where
  fire : Nat
  skipped : Bool
  pages : List (Option (Nat × Nat))
  blank : Nat
  under : Nat
deriving DecidableEq, Repr

/-- Where the record stands in a slot, after the codes of 32 ports (assumption 135). -/
def recAt : Nat := 49152

/-- A record as 56 bytes. -/
def ExpRec.bytes (r : ExpRec) : List Byte :=
  let page := fun p : Option (Nat × Nat) =>
    match p with
    | some (l, y) => toLE 1 1 ++ toLE l 6 ++ toLE y 3
    | none => List.replicate 10 0
  toLE r.fire 6 ++ toLE (b2n r.skipped) 2 ++ r.pages.flatMap page ++ toLE r.blank 4 ++ toLE r.under 4

/-- The record that 56 bytes hold. -/
def ExpRec.of (bs : List Byte) : ExpRec :=
  let num := fun i n => leNat (slice bs i n)
  ⟨num 0 6, num 6 2 == 1,
    (List.range 4).map fun t => if num (8 + 10 * t) 1 = 1 then some (num (9 + 10 * t) 6, num (15 + 10 * t) 3) else none,
    num 48 4, num 52 4⟩

def Blk.camState (s : Blk) (c : Nat) : Nat := s.f (INS_CAM_STATUS_STATE c)
def Blk.camDiv (s : Blk) (c : Nat) : Nat := s.f (INS_CAM_CFG_DIV_M1 c) + 1

/-- The slot of the expected store for fire number `f` as camera `c` images it. -/
def Blk.expSlot (s : Blk) (c f : Nat) : Nat :=
  s.val INS_EXP_BASE 2 / 65536 * 65536 + f / s.camDiv c % 2 ^ clampN 8 14 (s.f INS_EXP_CFG_DEPTH_LOG2) * 65536

/-- The record in the slot for a fire number. -/
def Blk.expRec (s : Blk) (c f : Nat) : ExpRec := ExpRec.of (s.imgRead (s.expSlot c f + recAt) 56)

/-- A record written through the inspection requester port. -/
def Blk.putRec (s : Blk) (c : Nat) (r : ExpRec) : Blk := s.imgWrite 11 (s.expSlot c r.fire + recAt) r.bytes

/-- The record of line `n` for camera `c` says that port `h` fired blank. -/
def Blk.recBlank (h n : Nat) (s : Blk) (c : Nat) : Blk :=
  let r := s.expRec c n
  if s.camState c = 0 ∨ n % s.camDiv c ≠ 0 ∨ r.fire ≠ n ∨ bitOf r.blank h then s else s.putRec c { r with blank := r.blank + 2 ^ h }

/-- Line `n` is fired blank on port `h`: its record says so, and its code regions fail item 4. -/
def Blk.markBlank (s : Blk) (h n : Nat) : Blk :=
  let s := { s with ins := { s.ins with dark := if s.fireNum < n then (n, h) :: s.ins.dark else s.ins.dark } }
  let s := [0, 1, 2, 3].foldl (Blk.recBlank h n) s
  s.marRegions n fun c => s.headIn h c.x0 c.x1

/-! ### A line composed -/

/-- The composed codes of a port for a fire number. -/
def Blk.portLine (s : Blk) (h n : Nat) : Option PortLine := s.cmp.lines.find? fun l => l.port == h && l.fire == n

/-- Every port's codes of line `n`, composed at the rung in force, are kept, written to the delay store, and reported where
data was missing; the position store's line is done with. -/
def Blk.composeLine (s : Blk) (n : Nat) : Blk :=
  let rung := s.f LCK_STATUS_RUNG
  let ctx : LineCtx := [0, 1, 2, 3].map fun t => s.lineOf t n
  let res := (List.range 32).map fun h => (h, s.headCodes ctx n rung h)
  let unders := [0, 1, 2, 3].filterMap fun t =>
    (res.flatMap fun (r : Nat × List Nat × List (Nat × Int)) => r.2.2).find? fun u => u.1 == t
  let lines := res.map fun r => (⟨n, r.1, rung, r.2.1, !r.2.2.isEmpty, (List.range (s.slots r.1)).map (s.whole r.1), (List.range (s.rows r.1)).map (s.frac r.1)⟩ : PortLine)
  let s := ((List.range 32).filter s.headOn).foldl (Blk.countLost ctx n) s
  let s := unders.foldl (fun s u => s.underrun u.1 n u.2) s
  let keep := s.cmp.lines.filter fun l => decide (s.fireNum ≤ l.fire + 1024)
  let s := { s with cmp := { s.cmp with lines := keep ++ lines, store := s.cmp.store.filter fun g => decide (n < g.line) } }
  let s := (lines.filter fun l => l.under).foldl (fun s l => s.marRegions n fun c => s.headIn l.port c.x0 c.x1) s
  lines.foldl (fun s l => s.storeLine l.port n l.codes) s

end Sys2Proof.Machine
end

