-- ==== Sys2Proof/Machine/Cipher.lean ====
section
/-!
DEFINITION. AES-256 in XTS mode (R419), as FIPS 197 and IEEE 1619 lay it down: one data unit of 4,096 bytes per codeword of the job store.
-/

namespace Sys2Proof.Machine

/-! ### The field of 256 elements, and the substitution of bytes -/

def gfDouble (a : Byte) : Byte := (a <<< 1) ^^^ (if a.msb then 0x1b else 0)

/-- A product, from the highest bit of the second factor down. -/
def gfTimes (a b : Byte) : Byte := [7, 6, 5, 4, 3, 2, 1, 0].foldl (fun p i => gfDouble p ^^^ (if b.getLsbD i then a else 0)) 0

/-- The 254th power, which is the inverse; 0 has 0. -/
def gfInverse (a : Byte) : Byte := (List.range 253).foldl (fun p _ => gfTimes p a) a

/-- What each byte is replaced by: its inverse, under the affine map. -/
def aesSubst : List Byte :=
  (List.range 256).map fun n =>
    let v := gfInverse (BitVec.ofNat 8 n)
    [1, 2, 3, 4].foldl (fun x k => x ^^^ v.rotateLeft k) v ^^^ 0x63

def substByte (a : Byte) : Byte := aesSubst.getD a.toNat 0

/-! ### Blocks: 16 bytes, column by column -/

def xorBytes (a b : List Byte) : List Byte := (a.zip b).map fun p => p.1 ^^^ p.2

/-- Bytes replaced and rows turned; row `r` by `r` places. -/
def aesMove (b : List Byte) : List Byte := (List.range 16).map fun i => substByte (b.getD ((i + 4 * (i % 4)) % 16) 0)

/-- Each column multiplied by the fixed polynomial. -/
def aesMix (b : List Byte) : List Byte :=
  (List.range 16).map fun i =>
    let x := fun k => b.getD (i / 4 * 4 + (i + k) % 4) 0
    gfDouble (x 0) ^^^ gfDouble (x 1) ^^^ x 1 ^^^ x 2 ^^^ x 3

/-- The words of a key schedule from number `i` on, newest first, `n` of them added. -/
def aesWords : Nat → Nat → List (List Byte) → List (List Byte)
  | 0, _, ws => ws
  | n + 1, i, ws =>
    let t := ws.headD []
    let t :=
      if i % 8 = 0 then xorBytes ((t.drop 1 ++ t.take 1).map substByte) [(List.range (i / 8 - 1)).foldl (fun r _ => gfDouble r) 1, 0, 0, 0]
      else if i % 8 = 4 then t.map substByte
      else t
    aesWords n (i + 1) (xorBytes (ws.getD 7 []) t :: ws)

/-- The 15 keys of the rounds of a key of 32 bytes. -/
def aesKeys (key : List Byte) : List (List Byte) :=
  let ws := (aesWords 52 8 ((List.range 8).map fun i => slice key (4 * i) 4).reverse).reverse
  (List.range 15).map fun r => ((ws.drop (4 * r)).take 4).flatten

/-- A block encrypted under round keys; the last round mixes no columns. -/
def aesBlock (keys : List (List Byte)) (b : List Byte) : List Byte :=
  let b := (keys.drop 1 |>.take 13).foldl (fun b k => xorBytes (aesMix (aesMove b)) k) (xorBytes b (keys.headD []))
  xorBytes (aesMove b) (keys.getD 14 [])

/-! ### XTS -/

/-- The tweak of the next block. -/
def xtsNext (t : List Byte) : List Byte :=
  let n := 2 * leNat t
  toLE (if n < 2 ^ 128 then n else (n - 2 ^ 128) ^^^ 0x87) 16

/-- Blocks of a data unit, `n` of them. -/
def xtsBlocks (keys : List (List Byte)) : Nat → List Byte → List Byte → List Byte
  | 0, _, _ => []
  | n + 1, t, bs => xorBytes (aesBlock keys (xorBytes (bs.take 16) t)) t ++ xtsBlocks keys n (xtsNext t) (bs.drop 16)

/-- A data unit of whole blocks under a key of 64 bytes: the first half for the data, the second for the tweak. -/
def xtsEncrypt (key : List Byte) (tweak : Nat) (bs : List Byte) : List Byte :=
  xtsBlocks (aesKeys (slice key 0 32)) (bs.length / 16) (aesBlock (aesKeys (slice key 32 32)) (toLE tweak 16)) bs

end Sys2Proof.Machine
end

