-- ==== Sys2Proof/Machine/LaneCore.lean ====
section
/-!
DEFINITION. Serial lanes as their owners use them (R309 to R323, R334): rates, symbol periods, enables, and entry to TRAIN
and OFF. The training itself is in Lanes.
-/

namespace Sys2Proof.Machine

/-! ### Enables and ceilings (R309, R310, R334) -/

/-- Whether the lane is enabled by its owner (R334). -/
def Blk.laneEn (s : Blk) (n : Nat) : Bool :=
  if isHead n then s.fb (HLK_PORT_CFG_EN n)
  else if isCam n then s.fb (INS_CAM_CFG_EN (n - 40))
  else s.fb (LAN_CFG_EN n)

/-- The ceiling rate code of a lane. -/
def Blk.laneMax (s : Blk) (n : Nat) : Nat :=
  if isHead n then min 4 (s.f (HLK_PORT_CFG_MAX_RATE n))
  else if isCam n then 2
  else s.f (LAN_CFG_MAX_RATE n)

/-- The lowest rate code accepted. -/
def Blk.laneMin (s : Blk) (n : Nat) : Nat := if isWale n then s.f (LAN_CFG_MIN_RATE n) else 0

/-! ### Entering TRAIN and OFF (R322) -/

/-- A rate is shown: RATE and HEAVY. -/
def Blk.showRate (s : Blk) (n r : Nat) : Blk := (s.setF (LAN_STATUS_RATE n) r).setF (LAN_STATUS_HEAVY n) (b2n (decide (5 ≤ r)))

/-- A LAN_EQ value that waits comes into force; FIXED_CODE is then used at once (R327, R328). -/
def Blk.eqTake (s : Blk) (n : Nat) : Blk :=
  if s.fb SYS_COMMIT_HOLD || !s.held.any (fun h => h.bnd == .skip && h.addr == LAN_EQ n) then s
  else
    let pk := s.f (LAN_EQ_PEAK n)
    let s := s.commit fun h => h.bnd == .skip && h.addr == LAN_EQ n
    s.setF (LAN_EQ_PEAK n) (if s.fb (LAN_EQ_FIXED n) then s.f (LAN_EQ_FIXED_CODE n) else pk)

/-- Step 1 of R323 begins at a rate: TS1, no lock yet, with a fixed equaliser code in use at once (R327). The transmitter starts with negative
running disparity or, in heavy coding, with an ALIGN. -/
def Blk.laneStep (s : Blk) (n r : Nat) : Blk :=
  let s := ((s.showRate n r).setF (LAN_STATUS_LOCK n) 0).eqTake n
  let s := if s.fb (LAN_EQ_FIXED n) then s.setF (LAN_EQ_PEAK n) (s.f (LAN_EQ_FIXED_CODE n)) else s
  let log := s.rn (LAN_TRAIN_LOG n)
  let tried := if bitOf log r then log else log + 2 ^ r
  let s := s.wn (LAN_TRAIN_LOG n) tried
  let start : Int := if 5 ≤ r then ((s.slotFrom n s.nowPs + 1023) / 1024 * 1024 : Nat) else s.nowPs
  let x := s.lane n
  let tx := { Tx.init with free := start, seq := x.tx.seq }
  (s.setLane n { x with since := s.now, rxOk := false, okRun := 0, tsRun := 0, next := none, falling := false, target := none,
                        swept := s.fb (LAN_EQ_FIXED n), rx := Rx.init, tx := tx }).tsSend n

/-- The eye scan in progress is aborted; its points arrive with EYE_SCAN_DONE (R330). -/
def Blk.scanAbort (s : Blk) : Blk :=
  match s.scan with
  | some x => if x.aborted then s else { s.setF LAN_EYE_STATUS_ABORTED 1 with scan := some { x with aborted := true, stop := s.now } }
  | none => s

/-- A lane has changed its state: a scan that started in another one is aborted (R330). -/
def Blk.scanLeft (s : Blk) (n : Nat) : Blk :=
  match s.scan with
  | some x => if x.lane = n ∧ !x.aborted ∧ s.laneState n ≠ x.st then s.scanAbort else s
  | none => s

/-- A lane is switched off (R322): electrical idle, receiver powered down. -/
def Blk.laneOff (s : Blk) (n : Nat) : Blk :=
  let s := if s.laneUp n then s.setF (LAN_STATUS_DOWN n) 1 else s
  let s := (((s.setF (LAN_STATUS_STATE n) 0).setF (LAN_STATUS_LOCK n) 0).setF (LAN_STATUS_TX_SLEEP n) 0).setF (LAN_STATUS_RX_SLEEP n) 0
  let s := s.tsSend n
  (s.setLane n { Lane.init with tx := { Tx.init with seq := (s.lane n).tx.seq } }).scanLeft n

/-- The rate codes a lane offers at the start of a training: every code up to its ceiling. -/
def Blk.laneCodes (s : Blk) (n : Nat) : Nat := if isCam n then 4 else 2 ^ (s.laneMax n + 1) - 1

/-- Entry to TRAIN (R322): values held for train apply; training starts at code 0, on a camera lane at code 2. A wale lane whose
held EN is 0 goes to OFF instead. -/
def Blk.laneTrain (s : Blk) (n : Nat) : Blk :=
  let s := s.commit fun h => h.bnd == .train && h.addr == LAN_CFG n
  if !s.laneEn n then s.laneOff n
  else
    let s := if s.laneUp n then s.setF (LAN_STATUS_DOWN n) 1 else s
    let s := s.tsDone n
    let s := ((s.setF (LAN_STATUS_STATE n) 1).setF (LAN_STATUS_TX_SLEEP n) 0).setF (LAN_STATUS_RX_SLEEP n) 0
    let s := (s.wn (LAN_TRAIN_LOG n) 0).scanLeft n
    let x := s.lane n
    let s := s.setLane n { Lane.init with mask := s.laneCodes n, lowSet := x.lowSet, tx := { Tx.init with seq := x.tx.seq } }
    s.laneStep n (if isCam n then 2 else 0)

/-- A RETRAIN of a lane (R322), from any state but OFF. -/
def Blk.laneRetrain (s : Blk) (n : Nat) : Blk :=
  if s.laneState n = 0 then s
  else
    let s := if s.laneUp n then s.raise 0x902 n n 1 else s
    s.laneTrain n

/-- The lane follows its owner's enable as it changes (R334). -/
def Blk.laneEnable (s : Blk) (n : Nat) : Blk :=
  let want := if isWale n then bitOf (s.lastWritten (LAN_CFG n)).toNat 23 else s.laneEn n
  if s.laneState n = 0 then (if want then s.laneTrain n else s)
  else if isWale n then s
  else if want then s
  else s.laneOff n

end Sys2Proof.Machine
end

