-- ==== Sys2Proof/Machine/HeadLink.lean ====
section
/-!
DEFINITION. The Fente head link (R158 to R197, R535): frames, bringing a port up, LINE and FIRE, latency, the head-end
mailbox and thermal supervision. Times on the lane are in ps of the POS time base; symbol boundaries are the multiples of
the symbol period.
-/

namespace Sys2Proof.Machine

/-! ### Frames (R162 to R166) -/

/-- EPOCH as the part sends it: 1 in ALONE (R185, R289). -/
def Blk.epochOut (s : Blk) : Nat := if s.twnState = 0 then 1 else s.rn TWN_EPOCH

/-- CLAIM_WIN in units of 10 ns (R184). -/
def Blk.claimWin (s : Blk) : Nat :=
  let mx := 100 * clampN 2 655 (s.f HLK_CFG_CLAIM_MAX)
  match s.lineDelta with
  | none => mx
  | some d => min mx ((2 * s.pitch * d * 4 + 10 * 2 ^ 24 - 1) / (10 * 2 ^ 24))

/-- A downstream frame with its header and CRC. -/
def Blk.downFrame (s : Blk) (h typ flags fnum : Nat) (payload : List Byte) : List Byte :=
  let flags := flags + (if s.claims then 128 else 0)
  let head := toBE typ 1 ++ toBE flags 1 ++ toBE s.epochOut 3 ++ toBE fnum 6 ++ toBE h 1 ++ toBE s.claimWin 2 ++
    toBE payload.length 2
  let body := head ++ payload
  body ++ toBE (crc32 body) 4

/-- The duration of a frame of `n` bytes with Start and End, ps. -/
def Blk.framePs (s : Blk) (h n : Nat) : Nat := (n + 2) * symPs (s.laneRate h)

/-- A frame starts on a port now. -/
def Blk.sendFrame (s : Blk) (h typ flags fnum : Nat) (payload : List Byte) : Blk :=
  let bs := s.downFrame h typ flags fnum payload
  let p := s.port h
  let s := s.setPort h { p with frame := some ⟨typ, fnum, s.nowPs + s.framePs h bs.length, payload⟩, frameAt := s.now }
  (s.txPut h s.nowPs (frameSyms bs)).emit (.down h s.nowPs bs)

/-- A frame other than LINE. -/
def Blk.sendOther (s : Blk) (h typ : Nat) (payload : List Byte) : Blk := s.sendFrame h typ 0 s.fireNum payload

def Blk.portState (s : Blk) (h : Nat) : Nat := s.f (HLK_PORT_STATUS_STATE h)

/-- Whether no frame is in progress on a port. -/
def Blk.portFree (s : Blk) (h : Nat) : Bool :=
  match (s.port h).frame with
  | some f => decide (f.endPs ≤ s.nowPs)
  | none => true

/-- The payload length an upstream frame of a type must have (R163, R166). -/
def upLenOk (bs : List Byte) : Bool :=
  let n := bs.length - 12
  match (bs.headD 0).toNat with
  | 0x41 => n == 12
  | 0x42 => n == 24
  | 0x43 => n == 8
  | 0x44 => n == 8 || n == 8 + 3 * ((bs.getD 11 0).toNat % 64 + 1)
  | _ => false

/-- Whether an upstream frame passes R163: the CRC, the type and its length. -/
def upOk (bs : List Byte) : Bool :=
  decide (12 ≤ bs.length) && upLenOk bs && beNat (slice bs (bs.length - 4) 4) == crc32 (bs.take (bs.length - 4))

def upType (bs : List Byte) : Nat := (bs.headD 0).toNat

/-- The payload of an upstream frame. -/
def upPayload (bs : List Byte) : List Byte := (bs.drop 8).take (bs.length - 12)

/-- A discarded frame or sample is counted. -/
def Blk.upDiscard (s : Blk) (h : Nat) : Blk := s.incSat (HLK_ERR_COUNT h)

/-- A valid frame: its EPOCH is weighed against the newest heard (R166, R289), 0 being none, and its FOLLOWING flag is mirrored, with
HEAD_FOLLOW when it changes (R186). -/
def Blk.follow (s : Blk) (h : Nat) (bs : List Byte) : Blk :=
  let f := bitOf (bs.getD 1 0).toNat 7
  let e := beNat (slice bs 2 3)
  let s := if e = 0 then s else { s with twn := { s.twn with epoch := newest e s.twn.epoch } }
  if s.fb (HLK_PORT_STATUS_FOLLOWED h) == f then s
  else (s.setF (HLK_PORT_STATUS_FOLLOWED h) (b2n f)).raise 0x40B h h (b2n f * 2 ^ 23)

/-! ### Bringing a port up (R171 to R174) -/

/-- Byte `i` of the accepted CAPS. -/
def Blk.caps (s : Blk) (h i : Nat) : Nat := bits (s.rn (HLK_CAPS h (i / 3))) (23 - 8 * (i % 3)) (16 - 8 * (i % 3))

def Blk.capsVal (s : Blk) (h i n : Nat) : Nat := (List.range n).foldl (fun v k => v * 256 + s.caps h (i + k)) 0

/-- Codes of d bits, k to a word, at a rung (R168). -/
def packing : Nat → Nat × Nat
  | 0 => (3, 8)
  | 1 => (2, 12)
  | _ => (1, 24)

/-- Payload bytes of a LINE frame at a rung (R165). -/
def Blk.lineLen (s : Blk) (h rung : Nat) : Nat :=
  let k := (packing rung).2
  3 * s.rows h + 3 * ((s.slots h + k - 1) / k)

/-- f_link,r: the lines/s a port's link carries at a rung (R174). -/
def Blk.linkCapacity (s : Blk) (h rung : Nat) : Nat :=
  1000000000000 / (symPs (s.laneRate h) * (27 + s.lineLen h rung))

/-- Rungs the ladder permits: from the floor to MAX_RUNG, or the floor alone above it (R70). -/
def Blk.ladder (s : Blk) : List Nat := (List.range 4).filter s.permitted

/-- The checks of rung limits and link capacity; RATE_LOW, and the events where it sets (R171, R174). -/
def Blk.rateCheck (s : Blk) (h : Nat) : Blk :=
  let slow := s.ladder.any fun r => decide (s.capsVal h (10 + 3 * r) 3 < s.rungLimit r)
  let thin := s.ladder.find? fun r => decide (s.linkCapacity h r < s.rungLimit r)
  if !slow && thin.isNone then s.setF (HLK_PORT_STATUS_RATE_LOW h) 0
  else if s.fb (HLK_PORT_STATUS_RATE_LOW h) then s
  else
    let s := s.setF (HLK_PORT_STATUS_RATE_LOW h) 1
    let s := if slow then s.raise 0x407 h h 2 else s
    match thin with
    | some r => s.raise 0x40A h h r
    | none => s

/-- Every port that holds an accepted CAPS is checked again (R171). -/
def Blk.rateRecheck (s : Blk) : Blk :=
  (List.range 32).foldl (fun s h => if s.portState h == 3 || s.portState h == 4 then s.rateCheck h else s) s

/-- What a port keeps when it leaves READY or restarts: its lane is trained afresh elsewhere. -/
def Blk.portDrop (s : Blk) (h : Nat) : Blk :=
  let p := s.port h
  s.setPort h { p with idents := 0, samples := [], frame := none, lines := [], silent := false }

/-- Loss of a READY port: LINE and FIRE stop, DOWN, HEAD_LINK_DOWN with the lane rate code (R173). -/
def Blk.portLoss (s : Blk) (h : Nat) : Blk :=
  if s.portState h = 4 then
    let s := s.abortLine h
    (s.setF (HLK_PORT_STATUS_DOWN h) 1).raise 0x402 h h (s.laneRate h)
  else s

/-- A port enters LANE. -/
def Blk.portLane (s : Blk) (h : Nat) : Blk :=
  ((s.portDrop h).setF (HLK_PORT_STATUS_STATE h) 1).setF (HLK_PORT_STATUS_RATE_LOW h) 0

/-- A port's EN takes effect: OFF, or LANE with its lane trained afresh (R173, R334). DOWN shows that a port left READY (R196). -/
def Blk.portEnable (s : Blk) (h : Nat) : Blk :=
  if s.fb (HLK_PORT_CFG_EN h) then
    if s.portState h = 0 then (s.portLane h).laneEnable h else s
  else if s.portState h = 0 then s
  else
    let t := if s.portState h = 4 then s.setF (HLK_PORT_STATUS_DOWN h) 1 else s
    (((t.abortLine h).portDrop h).setF (HLK_PORT_STATUS_STATE h) 0).laneEnable h

/-- The lane of a port lost lock or retrains. -/
def Blk.portLaneDown (s : Blk) (h : Nat) : Blk :=
  match s.portState h with
  | 2 | 3 => s.portLane h
  | 4 => (s.portLoss h).portLane h
  | _ => s

/-- IDENT (R165, R173). -/
def Blk.sendIdent (s : Blk) (h : Nat) : Blk :=
  let p := s.port h
  let s := s.setPort h { p with idents := p.idents + 1, askAt := s.now }
  s.sendOther h 3 (toBE (bits (s.rn WAL_ID) 11 0) 2 ++ [1, BitVec.ofNat 8 (s.laneRate h), 0, 0, 0, 0])

/-- The lane of a port is up at a rate within MAX_RATE: IDENTIFY, and the first IDENT. -/
def Blk.portLaneUp (s : Blk) (h : Nat) : Blk :=
  if s.portState h = 1 ∧ s.laneRate h ≤ s.laneMax h then
    let s := s.setF (HLK_PORT_STATUS_STATE h) 2
    if s.canSend h then s.sendIdent h else s.setPort h { s.port h with askAt := s.now - 250000 }
  else s

/-- ECHO_REQ with the next TAG (R177). -/
def Blk.sendEcho (s : Blk) (h : Nat) : Blk :=
  let p := s.port h
  let s := s.setPort h { p with tag := (p.tag + 1) % 256, askAt := s.now }
  s.sendOther h 4 [BitVec.ofNat 8 (s.port h).tag, 0, 0, 0]

/-! ### Fire timing (R177, R178) -/

/-- Whether the port is in service for LINE and FIRE: READY, its transmitter awake, and the claim held (R184, R190, R334). -/
def Blk.inService (s : Blk) (h : Nat) : Bool := s.portState h == 4 && s.canSend h && s.claims

/-- L_eff, ps, with the transmit-delay trim of the lane (R178, R463). -/
def Blk.lEff (s : Blk) (h : Nat) : Int :=
  (s.rn (HLK_PORT_LATENCY h) : Int) + sext 24 (s.rn (HLK_PORT_SKEW h)) + sext 8 (s.f (TRM_LANE_DLY h))

def Blk.trig (s : Blk) (n : Nat) : Option Trig := s.lck.trigs.find? fun t => t.fire == n

/-- A(n) in ps: T(n) + D_fire, or its prediction from the latest triggered line (R189). -/
def Blk.aligned (s : Blk) (n : Nat) : Option Int :=
  let d : Int := 1000 * (s.f LCK_FIRE_DELAY_NS : Int)
  match s.trig n with
  | some t => some (t.tps + d)
  | none =>
    match s.lck.trigs.head?, s.lineDelta with
    | some t, some dl => some (t.tps + d + ((n : Int) - t.fire) * (s.pitch * dl * 4000) / 2 ^ 24)
    | _, _ => none

/-- t_sym and FINE of an aligned instant on a port (R178). -/
def Blk.departAt (s : Blk) (h : Nat) (a : Int) : Int × Nat :=
  let target := a - s.lEff h - s.capsVal h 19 3
  let ts : Int := symPs (s.laneRate h)
  let sym := target / ts * ts
  let fine := ((target - sym) * 512 + ts) / (2 * ts)
  if fine = 256 then (sym + ts, 0) else (sym, fine.toNat)

def Blk.depart (s : Blk) (h n : Nat) : Option Int := (s.aligned n).map fun a => (s.departAt h a).1

/-- Whether line `n` was triggered and its FIRE has departed, or counts so (R175). A trigger no longer kept is long past. -/
def Blk.departed (s : Blk) (h n : Nat) : Bool :=
  if s.fireNum < n then false
  else
    match s.trig n with
    | some t => decide ((s.departAt h (t.tps + 1000 * (s.f LCK_FIRE_DELAY_NS : Int))).1 ≤ s.nowPs)
    | none => true

/-- LINE_LATE, once for a line of a port (R189, R535). -/
def Blk.lineLate (s : Blk) (h n : Nat) : Blk :=
  let p := s.port h
  if p.late = n then s
  else
    let s := (s.setPort h { p with late := n }).setF (HLK_PORT_STATUS_LATE h) 1
    ((s.incSat (HLK_LATE_COUNT h)).count (0x20 + h)).raise 0x403 h h (n % 2 ^ 24)

/-! ### Row delays (R180 to R183) -/

/-- OFS of a row with a FRAC, ns (R180). -/
def Blk.rowOffsetNs (s : Blk) (frac : Nat) : Nat :=
  match s.lineDelta with
  | none => 0
  | some d => satU24 (frac * s.pitch * d * 4 / 2 ^ 30)

/-- The codes of a line of a port from the delay store; 0 for lines before the first. -/
def Blk.delayed (s : Blk) (h m : Nat) (n : Nat) : List Nat :=
  if m = 0 ∨ (s.shuttle ∧ m < s.sht.firstFire) then [] else bytesLine (s.memReads (s.dlyAddr h m) 1536) n

/-- The code a slot carries in the LINE frame of `n` at a rung: of line n - WHOLE, the fill code where its delayed row is unread,
0 where the line with the WHOLE `bad` could not be corrected. -/
def Blk.slotSend (s : Blk) (l : PortLine) (unread : Nat) (bad : Option Nat) (i : Nat) : Nat :=
  let h := l.port
  let w := l.whole.getD i 0
  if w = 0 then l.codes.getD i 0
  else if bitOf unread (i / s.npr h) then
    min (s.f (PGE_TRK_CFG_FILL (s.owner (s.readPos (s.slotPos h i))))) (cmax l.rung)
  else if bad = some w then 0
  else min ((s.delayed h (l.fire - w) (s.slots h)).getD i 0) (cmax l.rung)

/-- The rows of a line with a delay of whole lines. -/
def Blk.delayRows (s : Blk) (l : PortLine) : List Nat :=
  let k := s.npr l.port
  (List.range (s.rows l.port)).filter fun r => (List.range k).any fun c => l.whole.getD (r * k + c) 0 != 0

/-- The distinct WHOLE values of a line, in slot order: the lines read from the store are that many before it. -/
def PortLine.wholes (l : PortLine) : List Nat := (l.whole.filter fun w => w != 0).eraseDups

/-! ### LINE frames (R175, R176, R189) -/

/-- Lines up to `n` are decided on a port. -/
def Blk.lineDone (s : Blk) (h n : Nat) : Blk := s.setPort h { s.port h with lastLine := n }

/-- Whether a line frame carries HOLD (R191, R192). -/
def Blk.held? (s : Blk) (h n : Nat) : Bool := s.fb (HLK_PORT_STATUS_THERM_HOLD h) || decide (n ≤ (s.port h).blankTo)

/-- The codes a LINE frame carries, by slot. -/
def Blk.lineCodes (s : Blk) (l : PortLine) (unread : Nat) (bad : Option Nat) : List Nat :=
  (List.range (s.slots l.port)).map (s.slotSend l unread bad)

/-- Whether a frame with these codes goes with BLANK and no payload. -/
def Blk.goesBlank (s : Blk) (h : Nat) (codes : List Nat) : Bool := s.fb (HLK_PORT_CFG_BLANK_EN h) && codes.all (· == 0)

/-- The time the LINE frame of a line takes, ps. -/
def Blk.linePs (s : Blk) (l : PortLine) (unread : Nat) : Nat :=
  let bare := s.held? l.port l.fire || s.goesBlank l.port (s.lineCodes l unread none)
  s.framePs l.port (20 + (if bare then 0 else s.lineLen l.port l.rung))

/-- The delayed lines are read through the port of the stake that serves the span (R181); an error is that of the first of them. -/
def Blk.readDelayed (s : Blk) (h : Nat) (l : PortLine) (err : MemErr) : Blk :=
  let p := s.spanPort h
  let at1 := fun w : Nat => s.dlyAddr h (l.fire - w)
  match l.wholes with
  | [] => s
  | w :: _ => (l.wholes.foldl (fun s w => s.access p (at1 w) 1536) s).ecc p (at1 w) err

/-- The LINE frame of a line starts. -/
def Blk.lineStart (s : Blk) (h : Nat) (l : PortLine) (unread : Nat) (err : MemErr) : Blk :=
  let n := l.fire
  let hold := s.held? h n
  let late := (s.delayRows l).any fun r => bitOf unread r
  let s := s.readDelayed h l err
  let codes := s.lineCodes l unread (if s.bad err then l.wholes.head? else none)
  let blank := !hold && s.goesBlank h codes
  let pk := packing l.rung
  let payload := if hold || blank then []
    else (List.range (s.rows h)).flatMap (fun r => toBE (s.rowOffsetNs (l.frac.getD r 0)) 3) ++ wordBytes (packWords pk.1 pk.2 codes.length codes)
  let s := s.sendFrame h 1 (b2n hold * 64 + b2n blank * 32 + l.rung * 8) n payload
  let p := s.port h
  let s := s.setPort h { p with lastLine := n, resume := false, lines := (n, hold || blank) :: p.lines.take 63 }
  if late then ((s.setF (HLK_PORT_STATUS_LATE h) 1).raise 0x406 h h (n % 2 ^ 24)).markBlank h n else s

/-- Whether line `n` was skipped (R30). -/
def Blk.skippedLine (s : Blk) (n : Nat) : Bool :=
  match s.trig n with
  | some t => t.skipped
  | none => false

/-- The next LINE frame of a port: lines without codes and skipped lines pass, a line that would end late is reported and the
next one considered in the same way; data not yet read is waited for while the frame can still be in time. -/
def lineNext (h unread : Nat) (err : MemErr) : Nat → Blk → Blk
  | 0, s => s
  | k + 1, s =>
    let p := s.port h
    let n := p.lastLine + 1
    match s.portLine h n with
    | none => if n ≤ 2 ∨ n ≤ s.fireNum then lineNext h unread err k (s.lineDone h n) else s
    | some l =>
      if s.skippedLine n then lineNext h unread err k (s.lineDone h n)
      else if 3 < n ∧ !s.departed h (n - 3) then s
      else
        let len : Int := s.linePs l unread
        match s.depart h n with
        | none => if unread ≠ 0 ∧ !(s.delayRows l).isEmpty then s else s.lineStart h l unread err
        | some d =>
          if d < s.nowPs + len then
            let s1 := if p.resume then s else s.lineLate h n
            lineNext h unread err k (s1.lineDone h n)
          else if unread ≠ 0 ∧ !(s.delayRows l).isEmpty ∧ s.nowPs + 4000 + len ≤ d then s
          else s.lineStart h l unread err

/-- After a wake the port starts with an IDLE frame (R334). -/
def Blk.wokenIdle (s : Blk) (h : Nat) : Bool := (s.lane h).sendFrom == 0 || decide ((s.lane h).sendFrom ≤ (s.port h).frameAt)

/-- Whether a frame that starts now would end after its FIRE is due to depart. -/
def Blk.tooLate (s : Blk) (l : PortLine) : Bool :=
  match s.depart l.port l.fire with
  | some d => decide (d < s.nowPs + s.linePs l 0)
  | none => false

/-- The next line from `n` on that a LINE frame is still to be sent for: lines without codes, skipped lines and lines that would end late
pass. -/
def Blk.nextLine (s : Blk) (h : Nat) : Nat → Nat → Option PortLine
  | 0, _ => none
  | k + 1, n =>
    match s.portLine h n with
    | none => if n ≤ 2 ∨ n ≤ s.fireNum then Blk.nextLine s h k (n + 1) else none
    | some l =>
      if s.skippedLine n then Blk.nextLine s h k (n + 1)
      else if 3 < n ∧ !s.departed h (n - 3) then none
      else if s.tooLate l then Blk.nextLine s h k (n + 1)
      else some l

/-- Whether a LINE frame waits to start, so that no other frame may (R176). -/
def Blk.lineWaits (s : Blk) (h : Nat) : Bool := s.inService h && (s.nextLine h 1100 ((s.port h).lastLine + 1)).isSome

/-- Whether a frame other than LINE may start. -/
def Blk.otherMay (s : Blk) (h : Nat) : Bool :=
  s.portFree h && s.canSend h && (!s.lineWaits h || !s.wokenIdle h)

/-- The frame of a head-end access starts once nothing else goes before it (R172, R176). -/
def Blk.mbxPump (s : Blk) (h : Nat) : Blk :=
  match s.mbx with
  | none => s
  | some m =>
    match m.out with
    | none => s
    | some f =>
      if m.port == h && s.portState h == 4 && s.otherMay h then
        ({ s with mbx := some { m with out := none } }).sendOther h f.1 f.2
      else s

def lineFrameSend (h t unread : Nat) (err : MemErr) (s : Blk) : Blk :=
  let s := s.advance t
  let s := if s.inService h && s.portFree h && s.wokenIdle h then lineNext h unread err 1100 s else s
  s.mbxPump h

def execLineFrameSend (h : Fin 32) (t : Nat) (unread : BitVec 8) (err : MemErr) (s : State) : Res :=
  s.on (lineFrameSend h t unread.toNat err)

/-! ### FIRE (R161, R178, R535) -/

/-- FFLAGS: BLANK and the odd parity over the three symbols. -/
def fflags (ltag fine : Nat) (blank : Bool) : Nat :=
  let ones := fun v : Nat => (List.range 8).foldl (fun a i => a + b2n (bitOf v i)) 0
  b2n blank * 128 + (1 + ones ltag + ones fine + b2n blank) % 2

/-- FIREs whose instants have passed on a port out of service are passed over. -/
def passFires (h : Nat) : Nat → Blk → Blk
  | 0, s => s
  | k + 1, s =>
    let n := (s.port h).lastFire + 1
    if s.departed h n then
      let s := s.setPort h { s.port h with lastFire := n }
      passFires h k (if s.claims then s.markBlank h n else s)
    else s

/-- A port joins the line clock: lines that FIRE has passed are over, and the first LINE frame that may start is looked for without reports. -/
def Blk.joinPort (s : Blk) (h : Nat) : Blk :=
  let s := s.setPort h { s.port h with lastFire := max (s.port h).lastFire (s.fireNum - 1024) }
  let s := passFires h 1100 s
  s.setPort h { s.port h with lastLine := (s.port h).lastFire, resume := true, lines := [] }

/-- A port comes into service again: the codes composed while it was out of it are discarded (R190, R334). -/
def Blk.resumePort (s : Blk) (h : Nat) : Blk :=
  let s := s.joinPort h
  let s := s.setPort h { s.port h with lastLine := max (s.port h).lastLine s.composedTo }
  { s with cmp := { s.cmp with lines := s.cmp.lines.filter fun l => l.port != h } }

/-- A LINE frame of `n` still in progress is ended with Abort. Whether there was one. -/
def Blk.abortLineOf (s : Blk) (h n : Nat) (ps : Int) : Blk × Bool :=
  let p := s.port h
  match p.frame with
  | some f =>
    if f.typ = 1 ∧ f.fire = n ∧ ps < f.endPs then
      (((s.setPort h { p with frame := none, lines := p.lines.filter fun l => l.1 != n }).txCut h ps).emit (.abort h ps), true)
    else (s, false)
  | none => (s, false)

/-- The FIRE of the next triggered line departs, once its instant is reached. -/
def fireNext (h : Nat) : Nat → Blk → Blk
  | 0, s => s
  | k + 1, s =>
    let p := s.port h
    let n := p.lastFire + 1
    match s.trig n with
    | none => if n ≤ s.fireNum then fireNext h k (s.setPort h { p with lastFire := n }) else s
    | some t =>
      let d := s.departAt h (t.tps + 1000 * (s.f LCK_FIRE_DELAY_NS : Int))
      if s.nowPs < d.1 then s
      else
        let s := s.setPort h { p with lastFire := n }
        if t.skipped then fireNext h k s
        else
          let ts : Int := symPs (s.laneRate h)
          let first := (4000 * (t.clk : Int) + ts - 1) / ts * ts
          if d.1 < first then
            (((s.abortLineOf h n first).1.lineLate h n).count (0x40 + h)).markBlank h n
          else
            let a := s.abortLineOf h n d.1
            let s := if a.2 then a.1.lineLate h n else a.1
            let blank := s.held? h n
            let dark := blank || match (s.port h).lines.find? fun l => l.1 == n with
              | some l => l.2
              | none => true
            let ff := fflags (n % 256) d.2 blank
            let s := (s.txIn h d.1 [k28x3, (false, n % 256), (false, d.2), (false, ff)]).emit (.fire h (n % 256) d.2 ff d.1)
            if dark then (s.count (0x40 + h)).markBlank h n else s

def fireSend (h t : Nat) (s : Blk) : Blk :=
  let s := s.advance t
  let s := if s.inService h && !s.fb TWN_HEALTH_CLOCK then fireNext h 1100 s else passFires h 1100 s
  s.mbxPump h

def execFireSend (h : Fin 32) (t : Nat) (s : State) : Res := s.on (fireSend h t)

/-! ### Other frames -/

/-- IDENT on its 1 ms timer; after 8 without CAPS the lane is brought up again (R173). -/
def identSend (h t : Nat) (s : Blk) : Blk :=
  let s := s.advance t
  if s.portState h ≠ 2 ∨ t < (s.port h).askAt + 250000 then s
  else if 8 ≤ (s.port h).idents then (s.portLane h).laneRetrain h
  else if s.otherMay h then s.sendIdent h
  else s

def execIdentSend (h : Fin 32) (t : Nat) (s : State) : Res := s.on (identSend h t)

/-- ECHO_REQ on its timer (R173, R177). -/
def echoReqSend (h t : Nat) (s : Blk) : Blk :=
  let s := (s.advance t).mbxPump h
  let wait := match s.portState h with
    | 3 => some 25000
    | 4 => some (250000 * atLeast1 (s.f HLK_CFG_ECHO_INT))
    | _ => none
  match wait with
  | none => s
  | some w => if (s.port h).askAt + w ≤ t ∧ s.otherMay h then s.sendEcho h else s

def execEchoReqSend (h : Fin 32) (t : Nat) (s : State) : Res := s.on (echoReqSend h t)

/-- The next ECHO_REQ of MEASURE goes at once, or with the next ECHO_REQ_SEND where another frame is in progress. -/
def Blk.echoSoon (s : Blk) (h : Nat) : Blk :=
  if s.otherMay h then s.sendEcho h else s.setPort h { s.port h with askAt := s.now - 25000 }

/-- IDLE when no frame has started for CLAIM_WIN / 4 (R184), and first after a wake (R334). -/
def idleFrameSend (h t : Nat) (s : Blk) : Blk :=
  let s := (s.advance t).mbxPump h
  let due := decide ((s.port h).frameAt * 16 + s.claimWin * 10 ≤ s.now * 16) || !s.wokenIdle h
  if s.portState h != 0 && due && s.otherMay h then s.sendOther h 2 [] else s

def execIdleFrameSend (h : Fin 32) (t : Nat) (s : State) : Res := s.on (idleFrameSend h t)

/-! ### Frames received -/

/-- CAPS (R170, R171). -/
def capsReceived (h : Nat) (bs : List Byte) (s : Blk) : Blk :=
  if !upOk bs then s.upDiscard h
  else
    let s := s.follow h bs
    if upType bs ≠ 0x42 ∨ s.portState h ≠ 2 then s
    else
      let c := upPayload bs
      let at1 := fun i => (c.getD i 0).toNat
      let geo := at1 6 != s.rows h || beNat (slice c 8 2) != s.npr h
      let ver := at1 4 != 1
      if geo || ver then
        let s := (s.setF (HLK_PORT_STATUS_STATE h) 5).setF (HLK_PORT_STATUS_CAPS_MIS h) 1
        s.raise 0x407 h h (b2n geo + b2n ver * 4)
      else
        let s := (List.range 8).foldl (fun s i => s.wn (HLK_CAPS h i) (beNat (slice c (3 * i) 3))) s
        let s := ((s.setF (HLK_PORT_STATUS_STATE h) 3).setPort h { s.port h with samples := [] }).rateCheck h
        s.echoSoon h

def execCapsReceived (h : Fin 32) (bs : List Byte) (s : State) : Res := s.on (capsReceived h bs)

/-- ECHO_RSP: a latency sample (R173, R177). -/
def echoRsp (h : Nat) (bs : List Byte) (rtt : Nat) (s : Blk) : Blk :=
  if !upOk bs then s.upDiscard h
  else
    let s := s.follow h bs
    if upType bs ≠ 0x43 ∨ (s.portState h ≠ 3 ∧ s.portState h ≠ 4) then s
    else
      let c := upPayload bs
      let p := s.port h
      if (c.headD 0).toNat ≠ p.tag then s.upDiscard h
      else
        let x := ((rtt : Int) - beNat (slice c 4 4)).tdiv 2
        if s.portState h = 4 then
          let l : Int := s.rn (HLK_PORT_LATENCY h)
          if 2000 < (x - l).natAbs then s.upDiscard h
          else s.wn (HLK_PORT_LATENCY h) (satU24 (l + (x - l).tdiv 16).toNat)
        else
          let xs := x :: p.samples
          let s := s.setPort h { p with samples := xs }
          if xs.length < 16 then s.echoSoon h
          else
            let s := s.wn (HLK_PORT_LATENCY h) (satU24 (xs.sum.tdiv 16).toNat)
            let s := (s.setF (HLK_PORT_STATUS_STATE h) 4).setF (HLK_TEMP_VALID h) 0
            let s := s.setPort h { s.port h with samples := [], lastStatus := s.now, silent := false, seq := none,
                                                 coolHold := 0, coolWarn := 0 }
            s.resumePort h

def execEchoRspReceived (h : Fin 32) (bs : List Byte) (rtt : Nat) (s : State) : Res := s.on (echoRsp h bs rtt)

/-- An upstream frame that fails R163 is discarded and counted; it has no other effect. -/
def execHeadFrameDiscard (h : Fin 32) (s : State) : Res := s.on fun b => b.upDiscard h

/-! ### The mailbox (R172, R197) -/

/-- An access completes. -/
def Blk.mbxDone (s : Blk) (result : Nat) : Blk :=
  let port := match s.mbx with
    | some m => m.port
    | none => s.f HLK_MBX_CTRL_PORT
  let s := (s.setF HLK_MBX_CTRL_BUSY 0).setF HLK_MBX_CTRL_RESULT result
  ({ s with mbx := none }).raise 0x40C port port result

/-- GO: one transaction, to a port that is ACTIVE. -/
def Blk.mbxStart (s : Blk) (w : Nat) : Blk :=
  let h := bits w 4 0
  let count := bits w 17 12 + 1
  let read := bitOf w 18
  let words := if read then [] else (List.range count).flatMap fun i => toBE (s.rn (HLK_MBX_DATA i)) 3
  let f := (if read then 6 else 5, toBE (s.rn HLK_MBX_ADDR) 3 ++ toBE (count - 1) 1 ++ words)
  let s := { s with mbx := some ⟨h, count, read, s.now, some f⟩ }
  if s.portState h ≠ 4 then s.mbxDone 3 else (s.setF HLK_MBX_CTRL_BUSY 1).mbxPump h

/-- HLK_MBX_CTRL written: its RW fields, and GO outside BUSY. -/
def mailboxGo (w t : Nat) (s : Blk) : Blk :=
  let s := s.advance t
  let s := ((s.setF HLK_MBX_CTRL_OP (bits w 18 18)).setF HLK_MBX_CTRL_COUNT_M1 (bits w 17 12)).setF HLK_MBX_CTRL_PORT (bits w 4 0)
  if !bitOf w 19 || s.fb HLK_MBX_CTRL_BUSY then s else s.mbxStart w

def execHeMailboxGo (w : Word) (t : Nat) (s : State) : Res := s.on (mailboxGo w.toNat t)

/-- HE_RESULT. -/
def heResult (h : Nat) (bs : List Byte) (s : Blk) : Blk :=
  if !upOk bs then s.upDiscard h
  else
    let s := s.follow h bs
    match s.mbx with
    | none => s
    | some m =>
      if upType bs ≠ 0x44 ∨ m.port ≠ h then s
      else
        let c := upPayload bs
        let bad := (c.getD 4 0).toNat != 0
        let s := if m.read && !bad then
            (List.range m.count).foldl (fun s i => s.wn (HLK_MBX_DATA i) (beNat (slice c (8 + 3 * i) 3))) s
          else s
        s.mbxDone (b2n bad)

def execHeResultReceived (h : Fin 32) (bs : List Byte) (s : State) : Res := s.on (heResult h bs)

def mailboxTimeout (t : Nat) (s : Blk) : Blk :=
  let s := s.advance t
  match s.mbx with
  | some m => if m.start + 250000 ≤ t then s.mbxDone 2 else s
  | none => s

def execHeMailboxTimeout (t : Nat) (s : State) : Res := s.on (mailboxTimeout t)

/-! ### Port commands -/

/-- RETRAIN (R173). -/
def headRetrain (h : Nat) (s : Blk) : Blk :=
  if s.portState h = 0 then s
  else
    let s := (s.setF (HLK_PORT_STATUS_CAPS_MIS h) 0).portLoss h
    (s.portLane h).laneRetrain h

def execHeadRetrain (h : Fin 32) (s : State) : Res := s.on (headRetrain h)

def headClear (h : Nat) (s : Blk) : Blk := (s.wn (HLK_LATE_COUNT h) 0).wn (HLK_ERR_COUNT h) 0

def execHeadClearCounts (h : Fin 32) (s : State) : Res := s.on (headClear h)

/-! ### Thermal supervision (R191 to R194) -/

/-- TEMP of the last report, 12 bits. -/
def Blk.headTemp (s : Blk) (h : Nat) : Nat := s.f (HLK_TEMP_TEMP h)

/-- The rung floor: the largest WARN_RUNG among the heads in warning (R193). -/
def Blk.refloor (s : Blk) : Blk :=
  s.setF LCK_STATUS_FLOOR (((List.range 32).filter fun h => s.fb (HLK_PORT_STATUS_THERM_WARN h)).foldl
    (fun m h => max m (min 2 (s.f (HLK_THERM_WARN_WARN_RUNG h)))) 0)

/-- The link side of a hold: status, map, event (R191). -/
def Blk.holdStart (s : Blk) (h cause temp : Nat) : Blk :=
  if s.fb (HLK_PORT_STATUS_THERM_HOLD h) then s
  else
    let s := (s.setF (HLK_PORT_STATUS_THERM_HOLD h) 1).setF (HLK_PORT_STATUS_HOLD_CAUSE h) cause
    let m := s.val HLK_HOLD_MAP 2
    let s := s.setVal HLK_HOLD_MAP (if bitOf m h then m else m + 2 ^ h) 2
    s.raise 0x401 h h (cause * 2 ^ 12 + temp)

/-- The end of a hold: lines up to `upto` stay blank. -/
def Blk.holdEnd (s : Blk) (h temp upto : Nat) : Blk :=
  let s := { s with cmp := { s.cmp with hold := if bitOf s.cmp.hold h then s.cmp.hold - 2 ^ h else s.cmp.hold } }
  if !s.fb (HLK_PORT_STATUS_THERM_HOLD h) then s
  else
    let s := s.setF (HLK_PORT_STATUS_THERM_HOLD h) 0
    let m := s.val HLK_HOLD_MAP 2
    let s := s.setVal HLK_HOLD_MAP (if bitOf m h then m - 2 ^ h else m) 2
    (s.setPort h { s.port h with blankTo := if s.running then upto else 0 }).raise 0x405 h h temp

/-- A warning starts or ends. -/
def Blk.warnSet (s : Blk) (h temp : Nat) (on : Bool) : Blk :=
  if s.fb (HLK_PORT_STATUS_THERM_WARN h) == on then s
  else
    let s := (s.setF (HLK_PORT_STATUS_THERM_WARN h) (b2n on)).refloor
    if on then s.raise 0x404 h h temp else s.raise 0x405 h h (2 ^ 12 + temp)

/-- What an agreed change of type 1 carries: bit 0 a start, bit 1 a warning, bits 3:2 the cause, bits 15:4 TEMP. -/
def thermWord (on warn : Bool) (cause temp : Nat) : Nat := b2n on + b2n warn * 2 + cause * 4 + temp * 16

/-- A thermal decision takes effect whole (R191 to R193): lines from `from0` on are composed with it. -/
def Blk.thermApply (s : Blk) (h v from0 : Nat) : Blk :=
  let temp := bits v 15 4
  if bitOf v 1 then s.warnSet h temp (bitOf v 0)
  else if bitOf v 0 then
    let s := { s with cmp := { s.cmp with hold := if bitOf s.cmp.hold h then s.cmp.hold else s.cmp.hold + 2 ^ h } }
    s.holdStart h (bits v 3 2) temp
  else s.holdEnd h temp (from0 - 1)

/-- A decision of this unit: applied at once alone, agreed for its line in a pairing, where the link side of a hold starts at
once on the active unit, and not used on a standby that hears its partner (R296). -/
def Blk.thermDecide (s : Blk) (h v : Nat) : Blk :=
  if s.follows then s
  else if s.agrees then
    let s := if v % 4 = 1 then s.holdStart h (bits v 3 2) (bits v 15 4) else s
    s.agree 1 h v
  else s.thermApply h v (s.fireNum + 3)

/-- The unit decides on a hold. -/
def Blk.decideHold (s : Blk) (h : Nat) (on : Bool) (cause : Nat) : Blk :=
  let p := s.port h
  if p.ownHold == on then s
  else (s.setPort h { p with ownHold := on, coolHold := 0 }).thermDecide h (thermWord on false cause (s.headTemp h))

def Blk.decideWarn (s : Blk) (h : Nat) (on : Bool) : Blk :=
  let p := s.port h
  if p.ownWarn == on then s
  else (s.setPort h { p with ownWarn := on, coolWarn := 0 }).thermDecide h (thermWord on true 0 (s.headTemp h))

/-- From the moment it claims, a unit uses its own decisions (R296). -/
def Blk.adoptThermal (s : Blk) : Blk :=
  (List.range 32).foldl (fun s h =>
    let p := s.port h
    let s := if s.fb (HLK_PORT_STATUS_THERM_HOLD h) == p.ownHold then s
      else s.thermDecide h (thermWord p.ownHold false 0 (s.headTemp h))
    if s.fb (HLK_PORT_STATUS_THERM_WARN h) == p.ownWarn then s
    else s.thermDecide h (thermWord p.ownWarn true 0 (s.headTemp h))) s

/-- A cool report in sequence advances a count, a break in the sequence starts it again, any other report clears it (R192). -/
def coolNext (n : Nat) (inSeq cool : Bool) : Nat := if !cool then 0 else if inSeq then n + 1 else 1

/-- STATUS in READY (R191 to R194). -/
def Blk.useStatus (s : Blk) (h t : Nat) (c : List Byte) : Blk :=
  let temp := satS 12 (sext 16 (beNat (slice c 0 2)))
  let seq := (c.getD 2 0).toNat
  let health := (c.getD 5 0).toNat
  let p := s.port h
  let inSeq := match p.seq with
    | some q => seq == (q + 1) % 256
    | none => false
  let was := s.f (HLK_HE_HEALTH_HEALTH h)
  let s := s.wn (HLK_TEMP h) (2 ^ 23 + wrapTo 12 temp)
  let s := s.wn (HLK_HE_COUNTS h) (seq * 2 ^ 16 + (c.getD 3 0).toNat * 2 ^ 8 + (c.getD 4 0).toNat)
  let s := s.wn (HLK_HE_HEALTH h) health
  let sensor := bitOf health 2
  let limit := s.sf (HLK_THERM_LIMIT_LIMIT h)
  let warn := s.sf (HLK_THERM_WARN_WARN h)
  let hyst : Int := s.f (HLK_THERM_LIMIT_HYST h)
  let ch := coolNext p.coolHold inSeq (decide (temp ≤ limit - hyst) && !sensor)
  let cw := coolNext p.coolWarn inSeq (decide (temp ≤ warn - hyst) && !sensor)
  let s := s.setPort h { p with lastStatus := t, seq := some seq, silent := false, coolHold := ch, coolWarn := cw }
  let s := if health ≠ was ∧ (bitOf health 0 || bitOf health 1 || bitOf health 3) then s.raise 0x409 h h health else s
  let s := if limit ≤ temp then s.decideHold h true 0
    else if sensor then s.decideHold h true 1
    else if 64 ≤ ch then s.decideHold h false 0 else s
  if s.f (HLK_THERM_WARN_WARN_RUNG h) ≠ 0 ∧ warn ≤ temp then s.decideWarn h true
  else if 64 ≤ cw then s.decideWarn h false else s

def statusReceived (h t : Nat) (bs : List Byte) (s : Blk) : Blk :=
  let s := s.advance t
  if !upOk bs then s.upDiscard h
  else
    let s := s.follow h bs
    if upType bs ≠ 0x41 ∨ s.portState h ≠ 4 then s else s.useStatus h s.now (upPayload bs)

def execStatusReceived (h : Fin 32) (t : Nat) (bs : List Byte) (s : State) : Res := s.on (statusReceived h t bs)

/-- STATUS_TO without a STATUS in READY, unless the lane's receiver sleeps (R191, R334). -/
def statusTimeout (h t : Nat) (s : Blk) : Blk :=
  let s := s.advance t
  let p := s.port h
  if s.portState h ≠ 4 ∨ p.silent ∨ s.underTest 10 ∨ s.fb (LAN_STATUS_RX_SLEEP h) ∨ t < p.lastStatus + 2500 * atLeast1 (s.f HLK_CFG_STATUS_TO) then s
  else
    let s := (s.setPort h { p with silent := true }).setF (HLK_PORT_STATUS_STATUS_LOST h) 1
    let s := s.raise 0x408 h h (p.seq.getD 0)
    (s.setPort h { s.port h with coolHold := 0, coolWarn := 0 }).decideHold h true 2

def execStatusTimeout (h : Fin 32) (t : Nat) (s : State) : Res := s.on (statusTimeout h t)

/-- A write of HLK_THERM_WARN: WARN_RUNG 0 ends a warning at once, another value moves the floor (R193). -/
def thermWarnWrite (h : Nat) (w : Nat) (s : Blk) : Blk :=
  let s := s.wn (HLK_THERM_WARN h) (w / 4096 * 4096 + bits w 9 8 * 256)
  if s.f (HLK_THERM_WARN_WARN_RUNG h) = 0 then s.decideWarn h false
  else if s.agrees then s else s.refloor

def execThermWarnWrite (h : Fin 32) (w : Word) (s : State) : Res := s.on (thermWarnWrite h w.toNat)

/-! ### The line clock's part -/

/-- The waiting codes of a line are gone. -/
def Blk.dropLine (s : Blk) (n : Nat) : Blk :=
  { s with cmp := { s.cmp with lines := s.cmp.lines.filter fun l => l.fire != n } }

/-- A skipped line: its LINE frame in progress is aborted and its codes are discarded everywhere, in the delay store too
(R69, R176). -/
def Blk.discardLine (s : Blk) (n : Nat) : Blk :=
  let s := (List.range 32).foldl (fun s h => (s.abortLineOf h n s.nowPs).1) s
  (s.cmp.lines.filter fun l => l.fire == n).foldl (fun s l => s.storeLine l.port n []) (s.dropLine n)

/-- A start of the line clock: fire numbers begin again and the delay store is cleared (R175, R181). -/
def Blk.linkStart (s : Blk) : Blk :=
  let s := (List.range 32).foldl (fun s h => s.setPort h { s.port h with lastFire := 0, lastLine := 0, lines := [], late := 0,
                                                                          blankTo := 0, resume := false }) s
  let s := { s with cmp := { s.cmp with lines := [], store := [], gathered := [] } }
  s.memZero (s.val HLK_DLY_BASE 2 / 512 * 512) (32 * s.depth * 1536)

end Sys2Proof.Machine
end

