-- ==== Sys2Proof/Machine/Inspect.lean ====
section
/-!
DEFINITION. In-line inspection and test pages (R198 to R227): cameras, the expected store, the correlator and its scores,
code regions and reject markers, camera distance, and the solver. Centroids and spreads are in 1/16 position.
-/

namespace Sys2Proof.Machine

/-! ### Cameras (R198 to R203) -/

def Blk.camUp (s : Blk) (c : Nat) : Bool := s.camState c == 2

/-- EN takes effect: OFF to ACQUIRE, or any state to OFF, with the lane (R200, R334). -/
def Blk.camEnable (s : Blk) (c : Nat) : Blk :=
  if s.fb (INS_CAM_CFG_EN c) then
    if s.camState c = 0 then (s.setF (INS_CAM_STATUS_STATE c) 1).laneEnable (40 + c) else s
  else if s.camState c = 0 then s
  else ((s.setF (INS_CAM_STATUS_STATE c) 0).setCam c { Cam.init with mark := (s.cam c).mark }).laneEnable (40 + c)

/-- The position of pixel `u` (R205). -/
def Blk.pixPos (s : Blk) (c u : Nat) : Int :=
  (sext 24 (s.rn (INS_CAM_X0 c)) * 1024 + (u : Int) * s.rn (INS_CAM_SCALE c) + 32768) / 65536

def Blk.camWidth (s : Blk) (c : Nat) : Nat := s.rn (INS_CAM_WIDTH c)

/-- The positions a camera's pixels cover. -/
def Blk.camCover (s : Blk) (c : Nat) : List Int := (List.range (s.camWidth c)).map (s.pixPos c)

/-- Whether some pixel of a camera lies in a range. -/
def Blk.camSees (s : Blk) (c x0 x1 : Nat) : Bool := (s.camCover c).any fun x => decide ((x0 : Int) ≤ x ∧ x ≤ (x1 : Int))

/-- A camera line is lost or discarded (R203): counted, and the regions of its page line fail item 2 (R214). -/
def Blk.camLose (s : Blk) (c f : Nat) : Blk :=
  let s := ((s.incSat (INS_CAM_LOST c)).setF (INS_CAM_STATUS_LOST_LINES c) 1).count (0x64 + c)
  let hit := fun (r : RegPage) (k : RegCheck) => decide (r.fire ≤ f ∧ f < r.fire + r.len ∧ k.y0 ≤ f - r.fire ∧ f - r.fire ≤ k.y1) &&
    k.item.isNone && s.camSees c k.x0 k.x1
  let upd := fun r : RegPage => { r with checks := r.checks.map fun k => if hit r k then { k with lost := true } else k }
  { s with ins := { s.ins with regs := s.ins.regs.map upd } }

/-- Whether a camera has nothing more to give of fire number `f`. -/
def Blk.camPast (s : Blk) (c f : Nat) : Bool :=
  let x := s.cam c
  !s.camUp c || x.cmp.isNone ||
    (decide (f < x.nextFire) && !(x.queue.any fun q => decide (q.1 ≤ f)) &&
      match x.outst with
      | some o => decide (f < o.1)
      | none => true)

/-! ### Reject markers (R216, R217) -/

/-- The marker of a failed page: in the schedule, in the queue, or lost. Whether it was kept, and whether it came late. -/
def Blk.rejMark (s : Blk) (r : RegPage) : Blk × Bool × Bool :=
  let t := r.track
  let cfg := s.rnV t INS_REJ_CFG
  let pos := q256 r.cRaw + (s.valV t INS_REJ_DIST 2 % 2 ^ 40 : Nat) + sext 24 (s.rnV t INS_REJ_OFS) * 256
  let e : SchedEntry := ⟨pos, 2, bits cfg 22 20 + bits cfg 19 19 * 8, s.rnV t INS_REJ_WIDTH, r.tag, false, true⟩
  let own := ((s.sched t).filter fun x => x.fromIns).length
  let q := (s.markersOf t).length
  if own < 32 ∧ q = 0 then (s.insertRun t e, true, s.behindH pos)
  else if q < 128 then
    (({ s with ins := { s.ins with markers := s.ins.markers ++ [(t, e)] } }).showQueue t, true, false)
  else (s.raise 0x505 t t 1, false, false)

/-- The queues are emptied as the line clock stops or starts (R217). -/
def Blk.rejFlush (s : Blk) : Blk :=
  [0, 1, 2, 3].foldl (fun s t =>
    let n := (s.markersOf t).length
    if n = 0 then s
    else
      let s := { s with ins := { s.ins with markers := s.ins.markers.filter fun m => m.1 != t } }
      (s.showQueue t).raise 0x505 t t n) s

/-! ### Code regions (R213 to R215) -/

def regAddr (i w : Nat) : Nat := 0x0b4000 + 8 * i + w

/-- The regions a page is checked against, by index, as its track has them. -/
def Blk.regionsOf (s : Blk) (t set : Nat) : List Nat :=
  (List.range 1024).filter fun i => bitOf (s.rnV t (regAddr i 0)) 23 && s.rnV t (regAddr i 0) % 256 == set

/-- A page reaches its boundary: with CODE_EN its regions are taken. -/
def Blk.regStart (s : Blk) (t : Nat) (p : Page) : Blk :=
  let w := p.words.getD 0 0
  if !bitOf w 22 || s.shuttle then s
  else
    let all := s.regionsOf t (bits w 7 0)
    let s := if 64 < all.length then s.setF INS_STATUS_SET_OVER 1 else s
    let mk := fun i : Nat => (⟨i, bits (s.rnV t (regAddr i 1)) 16 0, bits (s.rnV t (regAddr i 2)) 16 0, s.rnV t (regAddr i 3),
      s.rnV t (regAddr i 4), 0, false, false, false, none⟩ : RegCheck)
    let fire := (s.fireNum : Int) + p.start - s.lineIndex t
    let r : RegPage := ⟨t, p.start, fire.toNat, p.len, p.tag, p.cRaw, 0, false, false, (all.take 64).map mk⟩
    { s with ins := { s.ins with regs := s.ins.regs ++ [r] } }

/-- Whether a page's code layer has had an error (R214 item 5). -/
def Page.codeErr (p : Page) : Bool :=
  p.layers.any fun l => l.slot == bits (p.words.getD 0 0) 21 20 && (!l.live || l.stopped || l.endLine.isSome || l.err)

/-- Every position of a region is covered by a pixel of a camera that is UP. -/
def Blk.covered (s : Blk) (k : RegCheck) : Bool :=
  let xs := [0, 1, 2, 3].flatMap fun c => if s.camUp c then s.camCover c else []
  (List.range (k.x1 + 1 - k.x0)).all fun i => xs.contains ((k.x0 + i : Nat) : Int)

/-- Page line `y` of a region has triggered: it is to be covered now. A camera that comes UP later does not image it (R202). -/
def Blk.lineCovered (s : Blk) (y : Nat) (k : RegCheck) : RegCheck :=
  if k.item.isNone && decide (k.y0 ≤ y ∧ y ≤ k.y1) && !k.uncov && !s.covered k then { k with uncov := true } else k

/-- A page line was triggered: the pages under check follow. -/
def Blk.regSeen (s : Blk) : Blk :=
  let upd := fun r : RegPage =>
    let r := if r.fire ≤ s.fireNum ∧ s.fireNum < r.fire + r.len then { r with checks := r.checks.map (s.lineCovered (s.fireNum - r.fire)) } else r
    match (s.trk r.track).all.find? fun p => p.start == r.start && p.tag == r.tag with
    | some p => { r with seen := min r.len (s.fireNum + 1 - r.fire), err5 := r.err5 || p.codeErr }
    | none => r
  { s with ins := { s.ins with regs := s.ins.regs.map upd } }

/-- The last page line of a region that the page has. -/
def RegPage.lastOf (r : RegPage) (k : RegCheck) : Nat := min k.y1 (r.len - 1)

/-- A region decided, where it can be: the first item of R214 that fails, 0 where it passes. -/
def Blk.regDecide (s : Blk) (r : RegPage) (k : RegCheck) : RegCheck :=
  if k.item.isSome then k
  else
    let last := r.lastOf k
    let cut := r.aborted && decide (r.seen ≤ last)
    if r.len ≤ k.y0 then { k with item := some 0 }
    else if cut || (decide (last < r.seen) && [0, 1, 2, 3].all fun c => s.camPast c (r.fire + last)) then
      let bad := decide (bits (s.rnV r.track INS_CODE_CFG) 22 8 < k.bad)
      { k with item := some (if k.uncov then 1 else if k.lost then 2 else if bad then 3 else if k.marred then 4
                 else if r.err5 || cut then 5 else 0) }
    else k

/-- Whether a decided region fails item 3, 4 or 5. -/
def Blk.regFails (s : Blk) (r : RegPage) (k : RegCheck) : Bool :=
  decide (bits (s.rnV r.track INS_CODE_CFG) 22 8 < k.bad) || k.marred || r.err5 || (r.aborted && decide (r.seen ≤ r.lastOf k))

/-- The verdict of a page whose regions are all decided (R215). -/
def Blk.verdict (s : Blk) (r : RegPage) : Blk :=
  let pass := bitOf (s.rnV r.track INS_CODE_CFG) 23
  let fails := r.checks.filter fun k => k.item != some 0 && s.regFails r k
  let unver := r.checks.filter fun k => k.item != some 0 && !s.regFails r k
  let counted := r.checks.filter fun k => k.item != some 0 && (s.regFails r k || !pass)
  let v := if !fails.isEmpty then 1 else if unver.isEmpty then 0 else if pass then 3 else 2
  let s := s.count 0x68 counted.length
  let failed := !counted.isEmpty
  let m := if failed && bitOf (s.rnV r.track INS_REJ_CFG) 23 then s.rejMark r else (s, false, false)
  let s := m.1
  let item := match counted.head? with | some k => k.item.getD 0 | none => 0
  let reg := match counted.head? with | some k => k.idx | none => 0
  let bad := match counted.head? with | some k => satU24 k.bad | none => 0
  let ws := [2 ^ 21 + r.track * 2 ^ 18 + v * 2 ^ 16 + b2n m.2.1 * 2 ^ 15 + b2n m.2.2 * 2 ^ 14 + r.checks.length,
    item * 2 ^ 10 + reg, r.tag, r.start % 2 ^ 24, r.start / 2 ^ 24, bad, 0, 0]
  let s := if s.ringFull 6 then s.incSat INS_REPORT_DROPS else s
  let s := s.ringPutOrDrop 6 ws
  if failed then s.raiseL 0x502 r.track (r.track * 2 ^ 22 + item) reg (s.lineIndex r.track) else s

/-- Regions that can be decided are; pages with none left are answered, in page order. -/
def Blk.regSettle (s : Blk) : Blk :=
  let regs := s.ins.regs.map fun r => { r with checks := r.checks.map (s.regDecide r) }
  let done := fun r : RegPage => r.checks.all fun k => k.item.isSome
  let s := { s with ins := { s.ins with regs := regs.filter fun r => !done r } }
  (regs.filter done).foldl Blk.verdict s

/-! ### Scores (R208 to R212) -/

def Blk.score (s : Blk) (q : Nat) : Nat := alook 0 s.ins.scores q
def Blk.setScore (s : Blk) (q v : Nat) : Blk :=
  { s with ins := { s.ins with scores := if v = 0 then s.ins.scores.filter (fun e => e.1 != q) else aput s.ins.scores q v } }

def Blk.declareAt (s : Blk) : Nat := atLeast1 (s.f INS_SCORE_CFG_DECLARE)

/-- A nozzle word as last written, agreed changes on their way included (R136). -/
def Blk.nozzleWord (s : Blk) (a : Nat) : Word :=
  match (s.twn.agreed.filter fun g => g.typ == 0 && g.addr == a).getLast? with
  | some g => BitVec.ofNat 24 g.val
  | none => s.lastWritten a

/-- A nozzle word written: agreed for its line in a pairing, else for the next line boundary (R34, R295). -/
def Blk.putNozzle (s : Blk) (a : Nat) (w : Word) : Blk :=
  if s.agrees then s.agree 0 a w.toNat else s.hold a w .line

/-- A miss report on ring 6 (R209, R232). -/
def Blk.missReport (s : Blk) (q c f : Nat) (rake decl : Bool) (score st : Nat) : Blk :=
  let ws := [2 ^ 20 + q / 4096 * 2 ^ 15 + q % 4096, b2n rake * 2 ^ 11 + b2n decl * 2 ^ 10 + c * 2 ^ 8 + score,
    f % 2 ^ 24, f / 2 ^ 24 % 2 ^ 24, st, 0, 0, 0]
  let s := if s.ringFull 6 then s.incSat INS_REPORT_DROPS else s
  s.ringPutOrDrop 6 ws

/-- A slot at DECLARE (R209, R211): declared while fewer than 16 of this line are, else kept for a later line. -/
def Blk.declare (c f : Nat) (rake : Bool) (x : Blk × Nat) (q : Nat) : Blk × Nat :=
  let s := x.1
  let v := s.score q
  let a := nozAddr (q / 4096) (q % 4096)
  let w := s.nozzleWord a
  let st := w.toNat % 16
  if v / 256 = 1 then (s.setScore q (256 + s.declareAt), x.2)
  else if s.fb INS_SCORE_CFG_AUTO && decide (st < 2) then
    if 16 ≤ x.2 ∧ !rake then
      let s := s.setScore q s.declareAt
      ({ s with ins := { s.ins with due := s.ins.due ++ [q] } }, x.2)
    else
      let s := s.putNozzle a (BitVec.ofNat 24 (w.toNat / 16 * 16 + 2))
      let s := ((s.missReport q c f rake true (v % 256) st).setScore q 0).count 0x1D
      (s.raise 0x501 c (q / 4096 * 2 ^ 12 + q % 4096) (c * 2 ^ 8 + v % 256), x.2 + 1)
  else ((s.missReport q c f rake false (v % 256) st).setScore q (256 + s.declareAt), x.2)

/-- The twin slot of a slot (R137). -/
def Blk.twinSlot (s : Blk) (q : Nat) : Option Nat :=
  let h := q / 4096
  let i := q % 4096
  let r := i / s.npr h
  if s.f (CMP_HEAD_CFG_PAIR_MODE h) = 0 then none
  else if r % 2 = 0 then (if r + 1 < s.rows h then some (q + s.npr h) else none)
  else some (q - s.npr h)

/-- One camera line's slots at DECLARE: of a twin pair only the even row (R210), then in ascending order (R211). -/
def Blk.declareLine (s : Blk) (c f : Nat) (hits : List Nat) : Blk :=
  let both := hits.filter fun q => decide (q % 4096 / s.npr (q / 4096) % 2 = 1) &&
    match s.twinSlot q with
    | some w => hits.contains w
    | none => false
  let s := both.foldl (fun s q => s.setScore q 0) s
  let hits := hits.filter fun q => !both.contains q
  let due := s.ins.due.filter fun q => !hits.contains q && decide (s.declareAt ≤ s.score q % 256)
  let s := { s with ins := { s.ins with due := [] } }
  ((sortBy (fun a b => decide (a ≤ b)) (hits ++ due)).foldl (Blk.declare c f false) (s, 0)).1

def scoreWrite (i w : Nat) (s : Blk) : Blk :=
  let q := s.rn INS_SCORE_PORT % 32 * 4096 + i
  let v := w % 256
  s.setScore q (if v = 0 then 0 else s.score q / 256 * 256 + v)

def execScoreWrite (i : Fin 4096) (w : Word) (s : State) : Res := s.on (scoreWrite i w.toNat)

/-! ### The expected store (R204) -/

/-- The line `n` just triggered is kept for a camera that images it. -/
def Blk.expStore (s : Blk) (n : Nat) (skipped : Bool) (c : Nat) : Blk :=
  if s.camState c = 0 ∨ n % s.camDiv c ≠ 0 then s
  else
    let mask := fun l : List Nat => l.eraseDups.foldl (fun m h => m + 2 ^ h) 0
    let ls := s.cmp.lines.filter fun l => l.fire == n
    let pages := [0, 1, 2, 3].map fun t => (s.lineOf t n).map fun q => (q.1.start, q.2)
    let off := (List.range 32).filter fun h => s.headOn h && s.portState h != 4
    let dark := (s.ins.dark.filter fun d => d.1 == n).map Prod.snd
    let r : ExpRec := ⟨n, skipped, pages, mask (off ++ dark), mask ((ls.filter fun l => l.under).map fun l => l.port)⟩
    (ls.foldl (fun s l => s.putLine 11 (s.expSlot c n + l.port * 1536) l.codes) s).putRec c r

/-- What a line trigger means to inspection: the expected store, camera compares, pages under check. -/
def Blk.insTrigger (s : Blk) (n : Nat) (cRaw : Int) (skipped : Bool) : Blk :=
  let s := [0, 1, 2, 3].foldl (fun s c => s.expStore n skipped c) s
  let s := { s with ins := { s.ins with dark := s.ins.dark.filter fun d => decide (n < d.1) } }
  let s := [0, 1, 2, 3].foldl (fun s c =>
    if !s.shuttle && s.camUp c && (s.cam c).cmp.isNone && n % s.camDiv c == 0 then
      s.setCam c { s.cam c with cmp := some (cRaw + (s.val (INS_CAM_DIST c) 2 % 2 ^ 40 : Nat) * 65536), nextFire := n }
    else s) s
  if s.ins.regs.isEmpty then s
  else
    let s := if skipped then s.marRegions n fun _ => true
      else ((List.range 32).filter fun h => s.headOn h && s.portState h != 4).foldl (fun s h => s.markBlank h n) s
    s.regSeen.regSettle

/-! ### Test pages (R219 to R227) -/

/-- A request for a test page, from the register or from ring 10. -/
def Blk.tpRequest (s : Blk) (w tag : Nat) : Blk :=
  let t := bits w 23 22
  let refuse := fun (s : Blk) (cause : Nat) => (s.setF ALN_TP_STATUS_REJ_CAUSE cause).raise 0x50A t t cause
  if s.ins.tp.isSome then s.setF ALN_TP_STATUS_MERGED 1
  else if s.shuttle then refuse s 1
  else if !([0, 1, 2, 3].any s.camUp) then refuse s 2
  else if tpPattern w = 2 ∧ s.maxRows ≤ 1 then refuse s 3
  else
    ({ s with ins := { s.ins with tp := some ⟨w, tag, none, 0, [], [], []⟩ } }).setF ALN_TP_STATUS_PENDING 1

def execTestPageGo (s : State) : Res := s.on fun b => b.tpRequest (b.rn ALN_TP_CFG) (b.rn ALN_TP_TAG)

/-- CANCEL removes a PENDING request (R220). -/
def tpCancel (s : Blk) : Blk :=
  match s.ins.tp with
  | some r => if r.started.isNone then ({ s with ins := { s.ins with tp := none } }).setF ALN_TP_STATUS_PENDING 0 else s
  | none => s

def execTestPageCancel (s : State) : Res := s.on tpCancel

/-- The request that takes the place of a track's next descriptor: its page words and ALN_TP_CFG. -/
def Blk.tpFor (s : Blk) (t : Nat) : Option (List Nat × Nat) :=
  match s.ins.tp with
  | some r =>
    if r.started.isNone && bits r.w 23 22 == t && s.trkState t == 2 then some ([0, s.tpLines r.w, 0, 0, 0, 0, 0, r.tag], r.w) else none
  | none => none

/-- The requested page has started on its track at line index `start`. -/
def Blk.tpStarted (s : Blk) (t start : Nat) : Blk :=
  match s.ins.tp with
  | some r =>
    let fire := (s.fireNum : Int) + start - s.lineIndex t
    let s := { s with ins := { s.ins with tp := some { r with started := some (start, fire.toNat), len := s.tpLines r.w } } }
    (s.setF ALN_TP_STATUS_PENDING 0).setF ALN_TP_STATUS_ACTIVE 1
  | none => s

/-- The view of a head: that of the owner of its first position. -/
def Blk.headView (s : Blk) (h : Nat) : Nat := s.owner (s.slotPos h 0)

/-- What is in force of a head. -/
def Blk.tpBase (s : Blk) (h : Nat) : TpBase :=
  let v := s.headView h
  let a := s.alnOf v h
  let dly := fun row : Nat =>
    match s.alnDly a row with
    | some d => d
    | none => s.rnV v (HLK_ROW_DLY h row) % 2 ^ 18
  ⟨a.shift, a.edge.getD (s.rnV v (CMP_HEAD_EDGE h)), (List.range 8).map dly, s.f (ALN_THETA_THETA h)⟩

/-- The boundary of a test page has fallen: what is in force of each head is kept for its proposals (R233). -/
def Blk.tpBegin (s : Blk) (p : Page) : Blk :=
  match p.test, s.ins.tp with
  | some _, some r => { s with ins := { s.ins with tp := some { r with base := s.headsByX.map fun h => (h, s.tpBase h) } } }
  | _, _ => s

/-- What was in force of a head during a test page. -/
def TpRun.of (r : TpRun) (h : Nat) : TpBase := alook ⟨0, 0, [], 0⟩ r.base h

/-- A sample added to a key. -/
def addStat (l : List (Nat × Stat)) (k : Nat) (v : Int) : List (Nat × Stat) :=
  let x := alook ⟨0, 0, 0⟩ l k
  aput l k ⟨x.n + 1, x.sum + v, x.sq + v.natAbs * v.natAbs⟩

/-- Two samplings as one. -/
def Stat.add (a b : Stat) : Stat := ⟨a.n + b.n, a.sum + b.sum, a.sq + b.sq⟩

/-- n² times the variance. -/
def Stat.spread (a : Stat) : Nat := ((a.n * a.sq : Nat) - a.sum * a.sum : Int).toNat

/-- The standard deviation, truncated. -/
def Stat.dev (a : Stat) : Nat := if a.n = 0 then 0 else isqrt (a.spread / (a.n * a.n)) 32 0

/-- Whether a proposal that rests on samples is flagged (R227). -/
def Blk.flagged (s : Blk) (a : Stat) : Bool :=
  decide (a.n < s.f ALN_QUAL_MIN_SAMPLES) || decide ((s.f ALN_QUAL_MAX_SPREAD) ^ 2 * (a.n * a.n) < a.spread)

/-- The centroid of the mark expected at a position, in 1/16 position, none where it is missing (R223). -/
def Blk.centroid (s : Blk) (c : Nat) (px : List Nat) (x : Int) : Option Int :=
  let white := s.f (INS_CAM_LEVELS_WHITE c)
  let near := (px.zipIdx.map fun p => (s.pixPos c p.2, white - p.1)).filter fun p => decide (x - 4 ≤ p.1 ∧ p.1 ≤ x + 4)
  let w := near.foldl (fun a p => a + p.2) 0
  if w < 4 * (white - s.f (INS_CAM_LEVELS_BLACK c)) ∨ w = 0 then none
  else some (roundDiv (near.foldl (fun a p => a + 16 * p.1 * (p.2 : Int)) 0) w)

/-- Whether a camera sees the place of a mark. -/
def Blk.camAt (s : Blk) (c : Nat) (x : Int) : Bool := (s.camCover c).contains x

/-- The key of chevron samples of a head, row and hand. -/
def chevKey (h row : Nat) (handB : Bool) : Nat := h * 16 + row * 2 + b2n handB

/-- A sum of two centroids taken modulo 256 columns, as a deviation from 252, in 1/16 column. -/
def chevDev (v : Int) : Int := (v - 252 * 16 + 2048) % 4096 - 2048

/-- One camera line of the test page: what it shows of the pattern on page line `y`. `inked` names the slots asked to fire on it. -/
def Blk.tpLine (s : Blk) (c : Nat) (px : List Nat) (inked : Nat → Bool) (y : Nat) (r : TpRun) : TpRun :=
  let heads := s.headsByX
  let slots := fun h : Nat => (List.range (s.slots h)).filterMap fun i =>
    let x := s.slotPos h i
    let q : Noz := ⟨x, x, 0, i / s.npr h, s.colOf h i, 0, 0, 0, true, 0, true⟩
    if s.tpPrints r.w h q y && inked (h * 4096 + i) && s.camAt c x then some (i, x, q.col, q.row) else none
  match tpPattern r.w with
  | 0 =>
    heads.foldl (fun r h => (slots h).foldl (fun (r : TpRun) m =>
      let k := h * 4096 + m.1
      let d := alook (0, 0) r.dashes k
      { r with dashes := aput r.dashes k (d.1 + 1, d.2 + b2n (s.centroid c px m.2.1).isNone) }) r) r
  | 1 =>
    heads.foldl (fun r h => (slots h).foldl (fun (r : TpRun) m =>
      match s.centroid c px m.2.1 with
      | some v => { r with stats := addStat r.stats h (v - 16 * m.2.1) }
      | none => r) r) r
  | _ =>
    let row := 1 + y / 128
    let handB := decide (64 ≤ y % 128)
    heads.foldl (fun r h =>
      let ms := slots h
      (ms.filter fun m => m.2.2.2 == 0).foldl (fun (r : TpRun) m =>
        match ms.find? fun o => o.2.2.2 == row && o.2.2.1 / 256 == m.2.2.1 / 256 with
        | some o =>
          match s.centroid c px m.2.1, s.centroid c px o.2.1 with
          | some u, some v =>
            let du := u - 16 * m.2.1 + 16 * (m.2.2.1 : Int)
            let dv := v - 16 * o.2.1 + 16 * (o.2.2.1 : Int)
            { r with stats := addStat r.stats (chevKey h row handB) (chevDev (du + dv)) }
          | _, _ => r
        | none => r) r) r

/-- A proposal on ring 7 (R233). -/
def Blk.propose (s : Blk) (tag theta kind h row : Nat) (flag : Bool) (value now : Nat) (res : Int) (a : Stat) : Blk :=
  s.ringPutOrDrop 7 [kind * 2 ^ 20 + h * 2 ^ 15 + row * 2 ^ 12 + b2n flag, value, now, wrapTo 24 (satS 24 res), satU24 a.n,
    satU24 a.dev, theta, tag]

/-- A proposal computed: kind, port, row, flag, value, value in force, residual, samples. -/
structure Prop7 where
  kind : Nat
  h : Nat
  row : Nat
  flag : Bool
  value : Nat
  now : Nat
  res : Int
  st : Stat
deriving DecidableEq, Repr

/-- The shift proposed for a head, with its residual (R224). -/
def Blk.newShift (s : Blk) (r : TpRun) (h : Nat) : Int × Int :=
  let a := alook ⟨0, 0, 0⟩ r.stats h
  let b := alook ⟨0, 0, 0⟩ r.stats (s.f ALN_CFG_REF_HEAD)
  if a.n = 0 ∨ b.n = 0 then ((r.of h).shift, 0)
  else
    let num := a.sum * b.n - b.sum * a.n
    let den : Int := (a.n : Int) * b.n
    let k := roundDiv num (16 * den)
    ((r.of h).shift - k, roundDiv num den - 16 * k)

/-- SHIFT and EDGE proposals of a ladder (R224, R225, R233). The H fields of an EDGE value are the high side of the port before; a port
with no seam at its low side keeps its low side (assumption 136). -/
def Blk.ladderProps (s : Blk) (r : TpRun) : List Prop7 :=
  let hs := s.headsByX
  let ref := alook ⟨0, 0, 0⟩ r.stats (s.f ALN_CFG_REF_HEAD)
  let shifts := hs.map fun h =>
    let a := alook ⟨0, 0, 0⟩ r.stats h
    let n := s.newShift r h
    (⟨1, h, 0, s.flagged a || ref.n == 0, wrapTo 8 n.1, wrapTo 8 (r.of h).shift, n.2, a⟩ : Prop7)
  let edges := ((hs.zip hs.tail).filter fun p => s.f (CMP_HEAD_CFG_STRIDE p.1) == 0 && s.f (CMP_HEAD_CFG_STRIDE p.2) == 0).map fun p =>
    let h := p.1
    let g := p.2
    let o := ((s.rn (CMP_HEAD_X h) : Int) + (s.newShift r h).1 + s.npr h) - ((s.rn (CMP_HEAD_X g) : Int) + (s.newShift r g).1)
    let b := if o ≤ 0 then 0 else min o (atLeast1 (s.f ALN_CFG_BLEND_MAX) : Int)
    let tl := if o ≤ 0 then 0 else (o - b) / 2
    let th := if o ≤ 0 then 0 else o - b - tl
    let f := fun v : Int => min 63 v.toNat
    let st := (alook ⟨0, 0, 0⟩ r.stats h).add (alook ⟨0, 0, 0⟩ r.stats g)
    (⟨2, g, 0, decide (o ≤ 0) || s.flagged st, f tl * 2 ^ 18 + f b * 2 ^ 12 + f th * 2 ^ 6 + f b, (r.of g).edge, o, st⟩ : Prop7)
  let alone := (hs.filter fun h => !edges.any fun p => p.h == h).map fun h =>
    let st := alook ⟨0, 0, 0⟩ r.stats h
    (⟨2, h, 0, s.flagged st, (r.of h).edge / 2 ^ 12 * 2 ^ 12, (r.of h).edge, 0, st⟩ : Prop7)
  shifts ++ (hs.filterMap fun h => (alone ++ edges).find? fun p => p.h == h)

/-- ROW_DELAY proposals of a chevron (R226). -/
def Blk.chevronProps (s : Blk) (r : TpRun) : List Prop7 :=
  s.headsByX.flatMap fun h => ((List.range (s.rows h)).drop 1).map fun row =>
    let a := alook ⟨0, 0, 0⟩ r.stats (chevKey h row false)
    let b := alook ⟨0, 0, 0⟩ r.stats (chevKey h row true)
    let now : Nat := (r.of h).dly.getD row 0
    let none2 := a.n == 0 || b.n == 0
    let num := a.sum * b.n - b.sum * a.n
    let den : Int := (a.n : Int) * b.n
    let k := if none2 then 0 else roundDiv num (2 * den)
    let res := if none2 then 0 else roundDiv (2 * num) den - 4 * k
    (⟨3, h, row, none2 || s.flagged (a.add b), wrapTo 18 (max 0 ((now : Int) - k)), now, res, a.add b⟩ : Prop7)

/-- The end of a test page (R222, R223): slots found missing, the summary, then the proposals. -/
def Blk.tpFinish (s : Blk) (r : TpRun) (c : Nat) : Blk :=
  let missing := sortBy (fun a b => decide (a ≤ b))
    ((r.dashes.filter fun d => decide (0 < d.2.1 ∧ d.2.1 ≤ 2 * d.2.2)).map Prod.fst)
  let f := match r.started with | some p => p.2 + r.len - 1 | none => 0
  let s := missing.foldl (fun s q => (Blk.declare c f true (s.setScore q (s.score q / 256 * 256 + s.declareAt), 0) q).1) s
  let props := match tpPattern r.w with
    | 0 => []
    | 1 => s.ladderProps r
    | _ => s.chevronProps r
  let t := bits r.w 23 22
  let s := if s.ringFull 6 then s.incSat INS_REPORT_DROPS else s
  let s := s.ringPutOrDrop 6 [3 * 2 ^ 20 + t * 2 ^ 18 + tpPattern r.w * 2 ^ 16, r.tag, props.length, missing.length, 0, 0, 0, 0]
  let s := props.foldl (fun s p => s.propose r.tag (r.of p.h).theta p.kind p.h p.row p.flag p.value p.now p.res p.st) s
  let s := { s with ins := { s.ins with tp := none } }
  let s := (s.setF ALN_TP_STATUS_ACTIVE 0).setF ALN_TP_STATUS_DONE 1
  s.raiseL 0x506 t (t * 2 ^ 22 + tpPattern r.w) r.tag (s.lineIndex t)

/-- The test page ends once every camera is past its last line, or once it was cut short. -/
def Blk.tpSettle (s : Blk) (c : Nat) : Blk :=
  match s.ins.tp with
  | none => s
  | some r =>
    match r.started with
    | none => s
    | some p =>
      let last := p.2 + r.len - 1
      let t := bits r.w 23 22
      let gone := decide (s.fireNum < last) && !((s.trk t).pages.any fun q => q.start == p.1)
      if gone || (decide (last ≤ s.fireNum) && [0, 1, 2, 3].all fun k => s.camPast k last) then s.tpFinish r c else s

/-! ### The correlator (R205 to R208) -/

/-- Coverage of a code. -/
def Blk.codeCov (s : Blk) (code : Nat) : Nat :=
  if code = 0 then 0 else bits (s.rn (INS_CODE_COV (code / 3))) (8 * (code % 3) + 7) (8 * (code % 3))

/-- The codes of a port in the slot for a fire number. -/
def Blk.expCodes (s : Blk) (c f h : Nat) : List Nat := bytesLine (s.imgRead (s.expSlot c f + h * 1536) 1536) (s.slots h)

/-- The slots that were asked to fire on a record's line: slot number, position, code. None on a skipped line, whose codes are discarded
(R69). -/
def Blk.inkSlots (s : Blk) (c : Nat) (r : ExpRec) : List (Nat × Int × Nat) :=
  if r.skipped then []
  else ((List.range 32).filter s.headOn).flatMap fun h =>
    ((s.expCodes c r.fire h).zipIdx.filter fun e => e.1 != 0).map fun e => (h * 4096 + e.2, s.slotPos h e.2, e.1)

/-- The expected ink at a position. -/
def Blk.ink (s : Blk) (slots : List (Nat × Int × Nat)) (x : Int) : Nat :=
  min 255 ((slots.filter fun q => q.2.1 == x).foldl (fun a q => a + s.codeCov q.2.2) 0)

/-- Per pixel: position, expected ink, blurred ink and difference (R206). -/
structure Pix where
  x : Int
  e : Nat
  b : Nat
  dd : Int
deriving DecidableEq, Repr

def Blk.correlate (s : Blk) (c : Nat) (slots : List (Nat × Int × Nat)) (px : List Nat) : List Pix :=
  let es := (List.range px.length).map fun u => s.ink slots (s.pixPos c u)
  let white : Int := s.f (INS_CAM_LEVELS_WHITE c)
  let black : Int := s.f (INS_CAM_LEVELS_BLACK c)
  px.zipIdx.map fun p =>
    let e := es.getD p.2 0
    let before := if p.2 = 0 then 0 else es.getD (p.2 - 1) 0
    let b := if s.fb (INS_CAM_CFG_BLUR c) then (before + 2 * e + es.getD (p.2 + 1) 0 + 2) / 4 else e
    let r := white - ((white - black) * b + 127).tdiv 255
    ⟨s.pixPos c p.2, e, b, (p.1 : Int) - r⟩

/-- Bad pixels of the line counted in the regions of its pages (R214 item 3). -/
def Blk.regPixels (s : Blk) (r : ExpRec) (px : List Pix) : Blk :=
  let f := r.fire
  let upd := fun g : RegPage =>
    if f < g.fire ∨ g.fire + g.len ≤ f then g
    else
      let t := bits (s.rnV g.track INS_CODE_CFG) 7 0
      { g with checks := g.checks.map fun k =>
        if k.item.isSome || decide (f - g.fire < k.y0) || decide (k.y1 < f - g.fire) then k
        else { k with bad := k.bad + (px.filter fun p => decide ((k.x0 : Int) ≤ p.x ∧ p.x ≤ (k.x1 : Int) ∧ t ≤ p.dd.natAbs)).length } }
  { s with ins := { s.ins with regs := s.ins.regs.map upd } }

/-- The scores of a line (R208): slots now at DECLARE. -/
def Blk.scoreLine (s : Blk) (r : ExpRec) (slots : List (Nat × Int × Nat)) (px : List Pix) : Blk × List Nat :=
  let minE := s.f INS_MISS_CFG_MIN_EXP
  let missT : Int := s.f INS_MISS_CFG_MISS_T
  slots.foldl (fun (a : Blk × List Nat) q =>
    if bitOf r.blank (q.1 / 4096) then a
    else
      match px.find? fun p => p.x == q.2.1 with
      | none => a
      | some p =>
        if p.e < minE then a
        else
          let v := a.1.score q.1
          if missT ≤ p.dd then
            let n := min 255 (v % 256 + s.f INS_SCORE_CFG_INC)
            (a.1.setScore q.1 (v / 256 * 256 + n), if s.declareAt ≤ n then a.2 ++ [q.1] else a.2)
          else
            let n := v % 256 - s.f INS_SCORE_CFG_DEC
            (a.1.setScore q.1 (if n = 0 then 0 else v / 256 * 256 + n), a.2)) (s, [])

/-- More than MASS_PCT % of the pixels that expect ink miss it (R207). -/
def Blk.massMiss (s : Blk) (px : List Pix) : Bool :=
  let n := px.filter fun p => decide (s.f INS_MISS_CFG_MIN_EXP ≤ p.b)
  let k := n.filter fun p => decide ((s.f INS_MISS_CFG_MISS_T : Int) ≤ p.dd)
  s.f INS_MISS_CFG_MASS_PCT != 0 && decide (s.f INS_MISS_CFG_MASS_PCT * n.length < 100 * k.length)

/-- Distance capture (R218): whether the line is the mark line. -/
def Blk.markLine (s : Blk) (c : Nat) (pos : Int) (px : List Nat) : Blk :=
  match (s.cam c).mark with
  | none => s
  | some m =>
    if s.fb (INS_CAM_STATUS_MARK_ARMED c) && decide (px.sum < s.f (INS_CAM_MARK_CFG_MARK_T c) * px.length) then
      let d := pos - m
      let s := (s.setSval (INS_CAM_MARK_DIST c) 2 48 d).setCam c { s.cam c with mark := none }
      let s := (s.setF (INS_CAM_STATUS_MARK_ARMED c) 0).setF (INS_CAM_STATUS_MARK_FOUND c) 1
      s.raise 0x507 c c (wrapTo 24 (d / 256))
    else s

/-- A test page's part of a camera line: only marks that were asked for are looked for. -/
def Blk.tpSample (s : Blk) (c : Nat) (r : ExpRec) (slots : List (Nat × Int × Nat)) (px : List Nat) : Blk :=
  let inked := fun q : Nat => !bitOf r.blank (q / 4096) && slots.any fun k => k.1 == q
  match s.ins.tp with
  | some tp =>
    match tp.started, r.pages.getD (bits tp.w 23 22) none with
    | some p, some g => if g.1 = p.1 then { s with ins := { s.ins with tp := some (s.tpLine c px inked g.2 tp) } } else s
    | _, _ => s
  | none => s

/-- The correlator takes a camera's first matched line (R204 to R211). -/
def cameraLineScore (c : Nat) (err : MemErr) (s : Blk) : Blk :=
  let x := s.cam c
  match x.queue with
  | [] => s
  | (f, pos, px) :: rest =>
    let s := s.setCam c { x with queue := rest }
    let s := s.markLine c pos px
    let addr := s.expSlot c f
    let s := (s.access 11 addr 65536).ecc 11 addr err
    let r := s.expRec c f
    let s :=
      if r.fire ≠ f ∨ s.bad err then s.incSat INS_EXP_MISS
      else
        let slots := s.inkSlots c r
        let ps := s.correlate c slots px
        let s := (s.regPixels r ps).tpSample c r slots px
        if s.massMiss ps then s.incSat INS_MASS_LINES
        else
          let a := s.scoreLine r slots ps
          (a.1.count (0x60 + c)).declareLine c f a.2
    s.regSettle.tpSettle c

def execCameraLineScore (c : Fin 4) (err : MemErr) (s : State) : Res := s.on (cameraLineScore c err)

/-! ### Camera commands -/

/-- A heartbeat; the first in ACQUIRE brings the camera UP (R200). The controller's own leaves with it (R198, assumption 137). -/
def cameraHeartbeat (c t : Nat) (s : Blk) : Blk :=
  let s := s.advance t
  if s.camState c = 0 then s
  else
    let s := (s.setCam c { s.cam c with lastHeard := s.now }).emit (.camBeat c s.now)
    if s.camState c = 1 then
      let s := (s.setF (INS_CAM_STATUS_STATE c) 2).setCam c { s.cam c with cmp := none, outst := none, queue := [] }
      s.raise 0x504 c c (s.f (INS_CAM_CFG_FORMAT c))
    else s

def execCameraHeartbeat (c : Fin 4) (t : Nat) (s : State) : Res := s.on (cameraHeartbeat c t)

/-- UP to LOST, and to ACQUIRE at once; an outstanding line is lost with it (R200). -/
def Blk.camDown (s : Blk) (c cause : Nat) : Blk :=
  if !s.camUp c then s
  else
    let s := match (s.cam c).outst with
      | some o => s.camLose c o.1
      | none => s
    let hit := fun (r : RegPage) (k : RegCheck) => k.item.isNone && decide (k.y0 < r.seen) &&
      !s.camPast c (r.fire + r.lastOf k) && s.camSees c k.x0 k.x1
    let upd := fun r : RegPage => { r with checks := r.checks.map fun k => if hit r k then { k with uncov := true } else k }
    let s := { s with ins := { s.ins with regs := s.ins.regs.map upd } }
    let s := (s.setF (INS_CAM_STATUS_STATE c) 1).setCam c { s.cam c with cmp := none, outst := none, queue := [] }
    ((s.raise 0x503 c c cause).regSettle).tpSettle c

def cameraLost (c t : Nat) (lane : Bool) (s : Blk) : Blk :=
  let s := s.advance t
  if lane then s.camDown c 1
  else if (s.cam c).lastHeard + 25000 * atLeast1 (s.f (INS_CAM_TIMING_HB_TO c)) ≤ s.now then s.camDown c 0
  else s

def execCameraLost (c : Fin 4) (t : Nat) (lane : Bool) (s : State) : Res := s.on (cameraLost c t lane)

/-- The camera compare is reached (R64, R202). -/
def cameraTrigger (c t : Nat) (s : Blk) : Blk :=
  let s := s.advance t
  let x := s.cam c
  match x.cmp with
  | none => s
  | some q =>
    if !s.camUp c || s.shuttle || !s.running || s.lckHold || s.lineDelta.isNone ||
        decide (s.lineP + leadOf (s.f (INS_CAM_LEAD_NS c)) s.lineDelta < q256 q) then s
    else
      let s := match x.outst with
        | some o => s.camLose c o.1
        | none => s
      let s := s.setCam c { s.cam c with outst := some (x.nextFire, s.now, q256 q), cmp := some (q + s.camDiv c * s.pitch),
                                         nextFire := x.nextFire + s.camDiv c }
      ((s.emit (.cam c (s.f (INS_CAM_CFG_PULSE_CH c)) x.nextFire s.now)).regSettle).tpSettle c

def execCameraTrigger (c : Fin 4) (t : Nat) (s : State) : Res := s.on (cameraTrigger c t)

/-- The pixel values of a line (R201). -/
def Blk.pixels (s : Blk) (c : Nat) (bs : List Byte) : List Nat :=
  if s.f (INS_CAM_CFG_FORMAT c) = 0 then bs.map fun b => b.toNat
  else
    (List.range (bs.length / 3)).map fun u =>
      let at1 := fun k => (bs.getD (3 * u + k) 0).toNat
      match s.f (INS_CAM_CFG_CHAN c) with
      | 3 => (at1 0 + 2 * at1 1 + at1 2 + 2) / 4
      | k => at1 k

/-- A camera line: matched to the outstanding trigger, or discarded as stale, of wrong width, or as a third in the queue. -/
def cameraLine (c t : Nat) (bs : List Byte) (s : Blk) : Blk :=
  let s := s.advance t
  if !s.camUp c then s
  else
    let s := s.setCam c { s.cam c with lastHeard := s.now }
    let x := s.cam c
    match x.outst with
    | none => ((s.incSat (INS_CAM_LOST c)).setF (INS_CAM_STATUS_LOST_LINES c) 1).count (0x64 + c)
    | some o =>
      if s.underTest 11 then ((s.setCam c { x with outst := none }).camLose c o.1).regSettle.tpSettle c
      else if s.now < o.2.1 + 25 * s.f (INS_CAM_TIMING_MIN_LAT c) then
        ((s.incSat (INS_CAM_LOST c)).setF (INS_CAM_STATUS_LOST_LINES c) 1).count (0x64 + c)
      else
        let n := if s.f (INS_CAM_CFG_FORMAT c) = 0 then 1 else 3
        let s := s.setCam c { x with outst := none }
        if bs.length ≠ n * s.camWidth c then
          (((s.setF (INS_CAM_STATUS_WIDTH_ERR c) 1).camLose c o.1).regSettle).tpSettle c
        else if 2 ≤ x.queue.length then ((s.camLose c o.1).regSettle).tpSettle c
        else s.setCam c { s.cam c with queue := x.queue ++ [(o.1, o.2.2, s.pixels c bs)] }

def execCameraLine (c : Fin 4) (t : Nat) (bs : List Byte) (s : State) : Res := s.on (cameraLine c t bs)

/-- An unsupported packet is discarded and counted; it was a packet heard all the same (R198, R200). -/
def cameraDiscard (c t : Nat) (s : Blk) : Blk :=
  let s := s.advance t
  (s.incSat (INS_CAM_DISCARDS c)).setCam c { s.cam c with lastHeard := s.now }

def execCameraPacketDiscard (c : Fin 4) (t : Nat) (s : State) : Res := s.on (cameraDiscard c t)

/-- A write of INS_CAM_GPIO: the levels to send leave in a GPIO message while the camera is not OFF (R198). -/
def camGpioWrite (c : Nat) (w : Word) (s : Blk) : Blk :=
  let s := s.setF (INS_CAM_GPIO_TX c) w.toNat
  if s.camState c = 0 then s else s.emit (.camGpio c (w.toNat % 256))

/-- Received GPIO levels (R198, R235). -/
def cameraGpio (c t lv : Nat) (s : Blk) : Blk :=
  let s := s.advance t
  (s.setF (INS_CAM_GPIO_RX c) lv).setCam c { s.cam c with lastHeard := s.now }

def execCameraGpioMessage (c : Fin 4) (t : Nat) (levels : Byte) (s : State) : Res := s.on (cameraGpio c t levels.toNat)

end Sys2Proof.Machine
end

