-- ==== Sys2Proof/Machine/Position.lean ====
section
/-!
DEFINITION. Encoders (R47 to R58, R61, R83, R84, R534), master faults with the fallback (R59, R60), and the start and stop of
the line clock (R66, R68, R175, R217).
-/

namespace Sys2Proof.Machine

/-! ### The filter (R48, R49) -/

/-- A level held for `k` samples from sample `t` on: the filter after it, and the sample at which its output changes. -/
def Filt.feed (x : Filt) (n t k : Nat) (level : Bool) : Filt × Option Nat :=
  if k = 0 then (x, none)
  else if level = x.out then (⟨x.out, 0⟩, none)
  else if n ≤ x.run + k then (⟨level, 0⟩, some (t + (n - x.run) - 1))
  else (⟨x.out, x.run + k⟩, none)

/-- FILT_N, 0 treated as 1. -/
def Blk.filtN (s : Blk) (n : Nat) : Nat := atLeast1 (s.f (POS_CFG_FILT_N n))

/-! ### Faults of the master (R59, R60) -/

/-- Triggers stop and every track that is not IDLE enters HOLD (R59). -/
def Blk.masterHold (s : Blk) : Blk := [0, 1, 2, 3].foldl Blk.trackHold (s.setF LCK_STATUS_HOLD 1)

/-- The master faults: the fallback takes over in this POS clock where it may, else the clock is held. A clock that does not
run meets the fault at its start (R66). -/
def Blk.masterFault (s : Blk) : Blk :=
  if !s.running || s.lckHold then s
  else
    let fb := s.f LCK_MASTER_FB_SRC
    if !s.fbActive && s.fb LCK_MASTER_FB_EN && !s.fb (POS_STATUS_FAULT fb) then
      let p := s.masterP
      let f := s.encP256 fb
      let s := (s.setSval LCK_FB_OFFSET 3 56 p).setF LCK_STATUS_FB_ACTIVE 1
      let s := { s with lck := { s.lck with fSw := f } }
      (s.raise 0x123 0 fb s.masterSrc).updateLat
    else s.masterHold

/-- An encoder is faulted (R58); geared axes and the line clock that follow it act (R59, R279). -/
def Blk.encFault (s : Blk) (n cause : Nat) : Blk :=
  if s.fb (POS_STATUS_FAULT n) then s
  else
    let s := (s.setF (POS_STATUS_FAULT n) 1).setF (POS_STATUS_FAULT_CAUSE n) cause
    let s := s.raise 0x122 n n cause
    let s := (List.range 6).foldl (Blk.gearFault n) s
    if s.masterEnc = some n then s.masterFault else s

/-! ### The index (R54 to R57) -/

/-- The index is captured (R55, R56). -/
def Blk.indexCapture (s : Blk) (n : Nat) : Blk :=
  let e := s.enc n
  let cap := s.encCount n
  let rev := s.encRev n
  let s := s.setSval (POS_IDX_CAPTURE n) 2 48 cap
  let s := s.setEnc n { e with zArmed := false }
  let keep := fun (s : Blk) (p : Int) => (s.setEnc n { s.enc n with idxPrev := some (p, rev) }).setF (POS_STATUS_IDX_SEEN n) 1
  match e.idxPrev with
  | none => keep s cap
  | some (prev, was) =>
    let cpr : Int := s.rn (POS_CPR n)
    if cpr = 0 then keep s cap
    else
      let want := if was != rev then prev else if rev then prev - cpr else prev + cpr
      let d := satS 24 (sext 48 (wrapTo 48 (cap - want)))
      let lim := atLeast1 (s.f (POS_IDX_CFG_CORR_LIMIT n))
      if d.natAbs ≤ s.f (POS_IDX_CFG_DEADBAND n) then
        let s := keep s cap
        s.setEnc n { s.enc n with mism := 0 }
      else
        let s := ((s.setSval (POS_IDX_DEV n) 1 24 d).raise 0x121 n n (wrapTo 24 d)).count 0x08
        let corr := s.fb (POS_IDX_CFG_CORR_EN n)
        let s :=
          if corr && decide (d.natAbs ≤ lim) then
            let s := keep (s.setSval (POS_COUNT n) 2 48 (cap - d)) want
            if s.masterEnc = some n then { s with wal := { s.wal with sseq := (s.wal.sseq + 1) % 256 } } else s
          else if corr then (keep s cap).encFault n 2
          else keep s cap
        let m := (s.enc n).mism + 1
        let s := s.setEnc n { s.enc n with mism := m }
        if s.f (POS_IDX_CFG_CONSEC n) ≠ 0 ∧ s.f (POS_IDX_CFG_CONSEC n) ≤ m then s.encFault n 3 else s

/-- The AB state of an encoder's filters: A in bit 1, B in bit 0. -/
def Enc.ab (e : Enc) : Nat := b2n e.a.out * 2 + b2n e.b.out

/-- A gated index qualifies in the first sample with Z active and AB equal to GATE_AB (R54). -/
def Blk.gateCheck (s : Blk) (n : Nat) : Blk :=
  let e := s.enc n
  if s.fb (POS_IDX_CFG_GATED n) && e.zArmed && e.z.out == s.fb (POS_CFG_IDX_POL n) && e.ab == s.f (POS_IDX_CFG_GATE_AB n) then
    s.indexCapture n
  else s

/-! ### Counting (R50 to R53, R61) -/

/-- The count step of an AB change: none for an illegal transition. -/
def abStep (a b : Nat) : Option Int :=
  match a, b with
  | 0, 2 | 2, 3 | 3, 1 | 1, 0 => some 1
  | 0, 1 | 1, 3 | 3, 2 | 2, 0 => some (-1)
  | _, _ => none

/-- A transition joins the history (R52). -/
def Blk.histAdd (s : Blk) (n : Nat) (ill : Bool) : Blk :=
  let w := 2 ^ clampN 4 10 (s.f (POS_ILL_CFG_WINDOW n))
  let e := s.enc n
  let h := (ill :: e.hist).take w
  let s := s.setEnc n { e with hist := h }
  let lim := s.f (POS_ILL_CFG_LIMIT n)
  if lim ≠ 0 ∧ lim < (h.filter id).length then s.encFault n 1 else s

/-- A legal edge: count, direction, Δ and the time of the edge (R50, R61). -/
def Blk.legalEdge (s : Blk) (n stamp : Nat) (step : Int) : Blk :=
  let step := if s.fb (POS_CFG_INVERT n) then -step else step
  let rev := decide (step < 0)
  let e := s.enc n
  let turn := s.encRev n != rev
  let s := s.setSval (POS_COUNT n) 2 48 (s.encCount n + step)
  let s := s.setF (POS_STATUS_DIR n) (b2n rev)
  let ok := !e.drop && !turn && e.edge.isSome
  let s := match e.edge with
    | some t0 => if ok then s.wn (POS_INTERVAL n) (satU24 (stamp - t0)) else s
    | none => s
  let s := s.setEnc n { e with edge := some stamp, valid := ok, drop := false }
  let s := if s.masterEnc = some n then s.count (if rev then 0x06 else 0x05) else s
  s.histAdd n false

/-- An illegal transition (R51). -/
def Blk.illegalEdge (s : Blk) (n before after : Nat) : Blk :=
  let was := s.fb (POS_STATUS_UNCERTAIN n)
  let s := ((s.setF (POS_STATUS_UNCERTAIN n) 1).incSat (POS_ILL_COUNT n)).count 0x07
  let s := s.setEnc n { s.enc n with drop := true }
  let s := if was then s else s.raise 0x120 n n (before * 4 + after)
  s.histAdd n true

/-- The filtered AB state has changed from `before`, stamped. -/
def Blk.abChange (s : Blk) (n before stamp : Nat) : Blk :=
  let after := (s.enc n).ab
  match abStep before after with
  | some d => s.legalEdge n stamp d
  | none => s.illegalEdge n before after

/-- The filtered Z has changed (R54). -/
def Blk.zChange (s : Blk) (n : Nat) : Blk :=
  let e := s.enc n
  if e.z.out != s.fb (POS_CFG_IDX_POL n) then s.setEnc n { e with zArmed := true }
  else if e.zArmed && !s.fb (POS_IDX_CFG_GATED n) then s.indexCapture n
  else s

/-- What the samples of a run do to the filters of an encoder: its A, B and Z after them, each with the sample at which its output changes. -/
structure Fed where
  a : Filt × Option Nat
  b : Filt × Option Nat
  z : Filt × Option Nat

/-- The filters whose output does not change take the run. -/
def Fed.quiet (x : Fed) (e : Enc) : Enc :=
  { e with
    a := if x.a.2.isNone then x.a.1 else e.a
    b := if x.b.2.isNone then x.b.1 else e.b
    z := if x.z.2.isNone then x.z.1 else e.z }

/-- The filters whose output changes at sample `q` take the run. -/
def Fed.at (x : Fed) (q : Nat) (e : Enc) : Enc :=
  { e with
    a := if x.a.2 = some q then x.a.1 else e.a
    b := if x.b.2 = some q then x.b.1 else e.b
    z := if x.z.2 = some q then x.z.1 else e.z }

/-- The samples at which an output changes, in order. -/
def Fed.samples (x : Fed) : List Nat :=
  sortBy (fun p q => decide (p ≤ q)) ([x.a.2, x.b.2, x.z.2].filterMap id).eraseDups

/-- One sample with filtered edges: the count step first, then the index, whose capture includes it (R54). -/
def Blk.encSample (n : Nat) (x : Fed) (s : Blk) (q : Nat) : Blk :=
  let s := s.advance q
  let e := s.enc n
  let s := s.setEnc n (x.at q e)
  let s := if (s.enc n).ab = e.ab then s else s.abChange n e.ab (q - (s.filtN n - 1))
  let s := if (s.enc n).z.out = e.z.out then s else s.zChange n
  (s.gateCheck n).moved.passCheck

/-- Levels on A, B and Z of an encoder that hold for `k` samples from POS clock `t` on. -/
def encLevels (n t : Nat) (a b z : Bool) (k : Nat) (s : Blk) : Blk :=
  let s := s.setEnc n { s.enc n with pinA := a, pinB := b, pinZ := z }
  if !s.fb (POS_CFG_EN n) then s.advance t
  else
    let e := s.enc n
    let len := s.filtN n
    let x : Fed := ⟨e.a.feed len t k a, e.b.feed len t k b, e.z.feed len t k z⟩
    let s := (s.advance t).setEnc n (x.quiet e)
    let s := (x.samples.foldl (Blk.encSample n x) s).passCheck
    if s.running then s.updateLat else s

/-- Levels on A and B while Z stays as it is. -/
def quadrature (n t : Nat) (a b : Bool) (k : Nat) (s : Blk) : Blk := encLevels n t a b (s.enc n).pinZ k s

/-! ### Commands and enables (R47, R58, R84, R534) -/

/-- CLEAR_FAULT (R58). -/
def posClear (n : Nat) (s : Blk) : Blk :=
  let s := ((s.setF (POS_STATUS_FAULT n) 0).setF (POS_STATUS_FAULT_CAUSE n) 0).setF (POS_STATUS_IDX_SEEN n) 0
  s.setEnc n { s.enc n with hist := [], mism := 0, idxPrev := none }

/-- PRESET, refused for the master and the fallback of a running line clock (R84). -/
def posPreset (n : Nat) (s : Blk) : Blk :=
  let fb := (s.fb LCK_MASTER_FB_EN || s.fbActive) && s.f LCK_MASTER_FB_SRC == n
  if s.running && (s.masterSrc == n || fb) then s.setF (POS_STATUS_PRESET_REJ n) 1
  else s.setSval (POS_COUNT n) 2 48 (s.sval (POS_PRESET n) 2 48)

/-- FORCE_FAULT. -/
def posForce (n : Nat) (s : Blk) : Blk := s.encFault n 0

def execPosClearFault (n : Fin 8) (s : State) : Res := s.on (posClear n)
def execPosPreset (n : Fin 8) (s : State) : Res := s.on (posPreset n)

/-- A write of POS_CTRL: the commands in the order of R534. -/
def posCtrl (n w : Nat) (s : Blk) : Blk :=
  let s := if bitOf w 0 then posClear n s else s
  let s := if bitOf w 1 then posPreset n s else s
  if bitOf w 2 then posForce n s else s

/-- A new IDX_POL or index gate with EN kept 1: Z arms where it stands inactive, and a gated index may qualify at once (R54). -/
def Blk.idxChanged (s : Blk) (n : Nat) : Blk :=
  let e := s.enc n
  (s.setEnc n { e with zArmed := e.zArmed || e.z.out != s.fb (POS_CFG_IDX_POL n) }).gateCheck n

/-- EN takes effect: the first sample sets the filters up without an edge (R47). -/
def Blk.encEnable (s : Blk) (n : Nat) : Blk :=
  let e := s.enc n
  let s := s.setF (POS_STATUS_IDX_SEEN n) 0
  s.setEnc n { e with a := ⟨e.pinA, 0⟩, b := ⟨e.pinB, 0⟩, z := ⟨e.pinZ, 0⟩, edge := none, valid := false, drop := false,
                      idxPrev := none, zArmed := e.pinZ != s.fb (POS_CFG_IDX_POL n) }

/-! ### Start and stop of the line clock (R66, R68, R69, R75, R175, R237) -/

/-- The first compare of a start: LCK_ORIGIN and the pitches passed over (R66). -/
def Blk.firstCompare (s : Blk) : Int :=
  let org := s.sval LCK_ORIGIN 3 72
  let p := s.masterP + s.lead
  if p < q256 org then org
  else org + (((p + 1) * 65536 - org + s.pitch - 1) / s.pitch) * s.pitch

/-- Whether the master is faulted: its encoder, or beacons that are not heard (R66, R353). -/
def Blk.masterLost (s : Blk) : Bool :=
  match s.masterEnc with
  | some n => s.fb (POS_STATUS_FAULT n)
  | none => s.f WAL_BCN_STATUS_USING == 0 && s.fb WAL_BCN_STATUS_LOST

/-- The line clock starts. -/
def Blk.clockStart (s : Blk) : Blk :=
  if s.running then s
  else
    let s := (s.setF LCK_STATUS_RUNNING 1).setF LCK_STATUS_HOLD 0
    let s := [0, 1, 2, 3].foldl (fun s t => s.setVal (LCK_LINE_INDEX t) 0 2) (s.setVal HLK_FIRE_NUM 0 2)
    let s := s.rejFlush.linkStart
    let s := [0, 1, 2, 3].foldl (fun s c => s.setCam c { s.cam c with cmp := none, outst := none, queue := [] }) s
    let s := { s with ins := { s.ins with dark := [], regs := [] } }
    let s := if s.shuttle then s else s.setSval LCK_COMPARE 3 72 s.firstCompare
    let s := { s with lck := { s.lck with h := s.masterP, lastIssue := none, warned := false, trigs := [] } }
    let s := { s with twn := { s.twn with own := [], pt := [], mism := [], good := 0 } }
    if s.masterLost then s.masterFault else s

/-- The line clock stops (R68): schedules empty, pulses in counts end, markers are lost. -/
def Blk.clockStop (s : Blk) : Blk :=
  if !s.running then s
  else
    let s := (s.setF LCK_STATUS_RUNNING 0).setF LCK_STATUS_HOLD 0
    let s := [0, 1, 2, 3].foldl (fun s t => s.putSched t []) s
    s.pevEndCounts.rejFlush

end Sys2Proof.Machine
end

