-- ==== Sys2Proof/Machine/Wale.lean ====
section
/-!
DEFINITION. Wale links (R337 to R358): messages with their credits and forwarding, software messages, DISCOVER, and position
beacons. A message is its words H0, H1, H2 and the payload.
-/

namespace Sys2Proof.Machine

/-! ### Links (R337, R338) -/

/-- Whether the unit is part of a pairing. -/
def Blk.paired (s : Blk) : Bool := s.twnState != 0

/-- A link's lanes have changed: it comes up, or goes down with the lane that left UP. -/
def Blk.linkForm (s : Blk) (l n : Nat) : Blk :=
  let ls := s.linkLanes l
  let up := !ls.isEmpty && ls.all s.laneUp
  if up == s.linkUp l then s
  else if up then
    let r := s.laneRate (ls.headD 0)
    let hv := b2n (decide (5 ≤ r))
    let s := ((s.setF (WAL_LINK_STATUS_UP l) 1).setF (WAL_LINK_STATUS_HEAVY l) hv).setF (WAL_LINK_STATUS_WIDTH l) (ls.length / 2)
    let s := (s.setLink l { Link.init with lastOut := s.now, extra := (s.link l).extra }).showCredits l
    s.raise 0xA01 l l (r * 32 + hv * 16 + ls.length)
  else
    let s := ((s.setF (WAL_LINK_STATUS_UP l) 0).setF (WAL_LINK_STATUS_HEAVY l) 0).setF (WAL_LINK_STATUS_WIDTH l) 0
    let s := ((s.setF (WAL_LINK_STATUS_DOWN l) 1).setLink l { Link.init with extra := (s.link l).extra }).showCredits l
    s.raise 0xA02 l l n

/-- A wale lane has come up or left UP. -/
def Blk.linkCheck (s : Blk) (n : Nat) : Blk := s.linkForm (s.linkOf n) n

/-- SPLIT as it stands divides lanes 32 to 35 anew (R337): links 0 and 1 are formed, a link that goes down naming its first lane that is not UP, or
lane 34, and one that stays up shows its new width. -/
def Blk.splitChanged (s : Blk) : Blk :=
  [0, 1].foldl (fun s l =>
    let s := s.linkForm l (((s.linkLanes l).find? fun n => !s.laneUp n).getD 34)
    if s.linkUp l then s.setF (WAL_LINK_STATUS_WIDTH l) ((s.linkLanes l).length / 2) else s) s

/-! ### Receiving (R347 to R350) -/

/-- A message is discarded. -/
def Blk.waleDrop (s : Blk) (l cause : Nat) : Blk := ((s.incSat (WAL_RX_DROPS l)).count 0x6C).raise 0xA03 l l cause

/-- FREED of a header returns credits. -/
def Blk.takeFreed (s : Blk) (l : Nat) (m : List Nat) : Blk :=
  let x := s.link l
  (s.setLink l { x with ptFreed := m.headD 0 % 256 }).drain l

/-- A missing SEQ: one message lost, counted as freed (R349). -/
def Blk.seqLost (s : Blk) (l : Nat) : Blk :=
  let x := s.link l
  (s.setLink l { x with seqIn := (x.seqIn + 1) % 256, freed := (x.freed + 1) % 256, owes := true }).waleDrop l 1

/-- Messages received ahead of their SEQ, as far as they are next (R344). A number that is still missing once a message more than `w` ahead is
there, `w` lanes bringing the frames in rotation, is lost. -/
def Blk.inOrder (l w : Nat) : Nat → Blk → Blk × List (List Nat)
  | 0, s => (s, [])
  | n + 1, s =>
    let x := s.link l
    let next := (x.seqIn + 1) % 256
    match x.early.find? fun e => e.1 == next with
    | some e =>
      let r := Blk.inOrder l w n (s.setLink l { x with seqIn := next, early := x.early.erase e })
      (r.1, e.2 :: r.2)
    | none =>
      if x.early.any fun e => decide (w < (e.1 + 256 - x.seqIn) % 256) then Blk.inOrder l w n (s.seqLost l) else (s, [])

/-- A buffered message with its SEQ: the messages that are now to be handled, in order. One that comes after its number was counted lost is none of
them. -/
def Blk.takeSeq (s : Blk) (l : Nat) (m : List Nat) : Blk × List (List Nat) :=
  let x := s.link l
  let seq := bits (m.headD 0) 15 8
  let d := (seq + 256 - x.seqIn) % 256
  if d = 0 ∨ 128 ≤ d then (s, [])
  else
    let w := if s.fb (WAL_LINK_STATUS_HEAVY l) then 1 else max 1 (s.linkLanes l).length
    Blk.inOrder l w 512 (s.setLink l { x with early := x.early ++ [(seq, m)] })

/-- The other link of a port; none on link 2. -/
def otherLink (l : Nat) : Option Nat := if l = 0 then some 1 else if l = 1 then some 0 else none

/-- The message forwarded on the other link of its port, with HOPS one less; false where it cannot be. -/
def Blk.forward (s : Blk) (l : Nat) (m : List Nat) : Blk × Bool :=
  match otherLink l with
  | none => (s, false)
  | some o =>
    let h2 := m.getD 2 0
    let waiting := ((s.link o).queue.filter fun q => q.origin == l).length
    if !s.linkUp o || bits h2 23 19 == 0 || decide (48 ≤ waiting) then (s, false)
    else (s.sendBuffered o ⟨if m.headD 0 / 65536 = 2 then 2 else 3, l, m.headD 0 / 65536 * 65536 :: m.getD 1 0 :: (h2 - 2 ^ 19) :: m.drop 3⟩, true)

def mtypeOf (m : List Nat) : Nat := m.headD 0 / 65536
def srcOf (m : List Nat) : Nat := m.getD 1 0 % 4096
def dstOf (m : List Nat) : Nat := m.getD 1 0 / 4096
def payloadOf (m : List Nat) : List Nat := m.drop 3

/-- A broadcast that has been delivered is forwarded, or its buffer is freed. -/
def Blk.passBroadcast (s : Blk) (l : Nat) (m : List Nat) : Blk :=
  if srcOf m = s.chipId ∧ s.chipId ≠ 0 then s.freeBuf l
  else
    let f := s.forward l m
    if f.2 then f.1 else s.freeBuf l

/-- R14_FULL: messages wait for ring 14. -/
def Blk.showR14 (s : Blk) : Blk :=
  s.setF WAL_STATUS_R14_FULL (b2n (s.ringFull 14 && [0, 1, 2].any fun l => !(s.link l).sw.isEmpty))

/-- A SW message: delivered here, forwarded, or discarded. -/
def Blk.swReceived (s : Blk) (l : Nat) (m : List Nat) : Blk :=
  if dstOf m = s.chipId ∧ s.chipId ≠ 0 then
    let x := s.link l
    (s.setLink l { x with sw := x.sw ++ [(nsOf s.timNs, m)] }).showR14
  else
    let f := s.forward l m
    if f.2 then f.1 else (s.waleDrop l (if bits (m.getD 2 0) 23 19 = 0 then 2 else 3)).freeBuf l

/-! ### DISCOVER (R338 to R340) -/

/-- The ring view: chip IDs heard in the last 4 ms, and whether the own DISCOVER came back; RING_CHANGE where it changes. -/
def Blk.ringView (s : Blk) : Blk :=
  let fresh := fun t : Nat => decide (s.now < t + 1000000)
  let w := { s.wal with heard := s.wal.heard.filter (fun e => fresh e.2), ownBack := s.wal.ownBack.filter fresh }
  let s := { s with wal := w }
  let size := w.heard.length + 1
  let closed := b2n w.ownBack.isSome
  if s.rn WAL_RING_SIZE = size ∧ s.f WAL_STATUS_RING_CLOSED = closed then s
  else ((s.wn WAL_RING_SIZE size).setF WAL_STATUS_RING_CLOSED closed).raise 0xA08 0 size closed

/-- The 64-bit die identifier, 24 bits per word. -/
def Blk.dieWords (s : Blk) : List Nat := (List.range 3).map fun i => s.rn (SEC_DIE_ID + i)

/-- A delivered DISCOVER. -/
def Blk.discovered (s : Blk) (l : Nat) (m : List Nat) : Blk :=
  let p := payloadOf m
  let id := p.headD 0 % 4096
  let s := if bits (m.getD 2 0) 23 19 = 31 then s.wn (WAL_NEIGHBOUR l) id else s
  if id = s.chipId ∧ id ≠ 0 then
    if (List.range 3).map (fun i => p.getD (i + 1) 0) = s.dieWords then
      if l < 2 then { s with wal := { s.wal with ownBack := some s.now } } else s
    else if s.fb WAL_STATUS_ID_CONFLICT then s
    else (s.setF WAL_STATUS_ID_CONFLICT 1).raise 0xA04 0 id l
  else if l < 2 then { s with wal := { s.wal with heard := aput s.wal.heard id s.now } }
  else s

/-- Every 1 ms a DISCOVER goes out on each link that is up. -/
def discoverSend (t : Nat) (s : Blk) : Blk :=
  let s := s.advance t
  if s.chipId = 0 ∨ t < s.wal.disc + 250000 then s
  else
    let s := { s with wal := { s.wal with disc := s.now } }
    let body := [s.chipId] ++ s.dieWords ++ [s.twnState, 0, 0, 0]
    let s := [0, 1, 2].foldl (fun s l => if l == 2 && !s.paired && !s.fb WAL_CFG_W1_RING then s else s.broadcast 3 4 l body) s
    s.ringView

def execDiscoverSend (t : Nat) (s : State) : Res := s.on (discoverSend t)

def execDiscoverExpiry (t : Nat) (s : State) : Res := s.on fun b => (b.advance t).ringView

/-! ### Beacons (R351 to R357) -/

/-- INT in µs. -/
def Blk.bcnInt (s : Blk) : Nat := atLeast1 (s.f WAL_BCN_CFG_INT)

/-- TO × INT, POS clocks. -/
def Blk.bcnTo (s : Blk) : Nat := max 2 (s.f WAL_BCN_CFG_TO) * s.bcnInt * 250

/-- E of R357, saturated to its field; 255 while time is not LOCKED, and before any beacon. -/
def Blk.bcnErr (s : Blk) : Nat :=
  if !s.fb TIM_STATUS_LOCKED || s.bcn.seq.isNone then 255
  else
    let v := s.bcn.vel.natAbs
    let h := s.bcnInt * 1000 + s.wal.lag
    let num := 512 * v * 10 ^ 18 + 8192 * s.rn WAL_BCN_AMAX * h * h * 2 ^ 32
    let den := 2 ^ 32 * 10 ^ 18
    let e := s.wal.errB + 1 + (num + den - 1) / den + (s.bcn.slew s.timNs).natAbs
    min 255 e

/-- VEL of the master, in 2^-32 count per ns (R352). -/
def Blk.masterVel (s : Blk) : Int :=
  match s.masterEnc with
  | none => s.bcn.vel
  | some _ =>
    match s.masterRaw with
    | none => 0
    | some d => if s.masterRev then -((2 ^ 30 / atLeast1 d : Nat) : Int) else ((2 ^ 30 / atLeast1 d : Nat) : Int)

/-- The beacon of this POS clock (R352). -/
def Blk.beaconWords (s : Blk) : List Nat :=
  let relay := s.masterSrc == 8 && !s.fbActive
  let p := wrapTo 56 s.masterP
  let v := wrapTo 32 s.masterVel
  let ns := s.timNs
  let err := if relay then s.bcnErr else 1
  let sseq := if relay then s.bcn.seq.getD 0 else s.wal.sseq
  [b2n s.lckHold * 2 ^ 23 + b2n s.fbActive * 2 ^ 22 + b2n relay * 2 ^ 21 + sseq * 2 ^ 8 + err,
    p % 2 ^ 24, p / 2 ^ 24 % 2 ^ 24, p / 2 ^ 48, v % 2 ^ 24, v / 2 ^ 24, nsOf ns % 2 ^ 24,
    secOf ns % 2 ^ 18 * 64 + nsOf ns / 2 ^ 24]

/-- Every INT µs a beacon goes out: on the ring port, or relayed on link 2 (R351, R358). -/
def beaconSend (t : Nat) (s : Blk) : Blk :=
  let s := s.advance t
  if !s.fb WAL_BCN_CFG_TX_EN || !s.running || s.chipId == 0 || s.fb WAL_STATUS_ID_CONFLICT || decide (t < s.wal.sent + 250 * s.bcnInt) then s
  else
    let s := { s with wal := { s.wal with sent := s.now } }
    let body := s.beaconWords
    if s.masterSrc = 8 then (if s.fb WAL_CFG_W1_RING && !s.paired then s.broadcast 2 2 2 body else s)
    else (s.broadcast 2 2 0 body).broadcast 2 2 1 body

def execBeaconSend (t : Nat) (s : State) : Res := s.on (beaconSend t)

/-- t_b in ns: its upper seconds are those that bring it nearest to the present (R352). -/
def beaconTime (now : Nat) (p : List Nat) : Nat :=
  let sec := bits (p.getD 7 0) 23 6
  let ns := p.getD 6 0 + bits (p.getD 7 0) 5 0 * 2 ^ 24
  let k := secOf now / 2 ^ 18
  let at1 := fun i : Nat => (i * 2 ^ 18 + sec) * 1000000000 + ns
  let c := [at1 k, at1 (k + 1)] ++ (if k = 0 then [] else [at1 (k - 1)])
  c.foldl (fun (b x : Nat) => if ((x : Int) - now).natAbs < ((b : Int) - now).natAbs then x else b) (at1 k)

/-- Beacons from a source come into use: 1 SRC, 2 ALT; BEACON_SOURCE as ALT comes into use or SRC takes over from it (R353). -/
def Blk.useSource (s : Blk) (k id : Nat) : Blk :=
  let was := s.f WAL_BCN_STATUS_USING
  let s := s.setF WAL_BCN_STATUS_USING k
  if was = k ∨ (was = 0 ∧ k = 1) then s else s.raise 0xA06 0 id (k - 1)

/-- A beacon is accepted (R354 to R357). -/
def Blk.bcnAccept (s : Blk) (id tb : Nat) (first : Bool) (p : List Nat) : Blk :=
  let ta := s.timNs
  let pb := sext 56 (p.getD 1 0 + p.getD 2 0 * 2 ^ 24 + p.getD 3 0 % 256 * 2 ^ 48)
  let vel := sext 32 (p.getD 4 0 + p.getD 5 0 % 256 * 2 ^ 24)
  let sq := bits (p.headD 0) 15 8
  let new : Bcn := { pb := pb, vel := vel, tb := tb, seq := some sq, slewE := 0, ta := ta, ts := 0, heard := s.now }
  let e := s.bcn.pos ta - new.pos ta
  let jump := first || s.bcn.seq != some sq || decide ((s.f WAL_BCN_LIM_SLEW_MAX : Int) < e.natAbs)
  let step := !first && s.bcn.seq == some sq && decide ((s.f WAL_BCN_LIM_SLEW_MAX : Int) < e.natAbs)
  let new := if jump then new else { new with slewE := e, ts := s.bcnInt * 1000 }
  let s := { s with bcn := new, wal := { s.wal with errB := p.headD 0 % 256, lag := ta - tb, lost := false } }
  let s := (if step then (s.setF WAL_BCN_STATUS_STEP 1).raise 0xA07 0 (wrapTo 24 (satS 24 e)) id else s).count 0x6E
  let s := if bitOf (p.headD 0) 23 && s.masterSrc == 8 && !s.fbActive then s.masterFault else s.moved
  if s.running then s.updateLat else s

/-- A delivered beacon: it counts from SRC, or from ALT while SRC is missing, and only if it is later than the last. -/
def Blk.bcnReceived (s : Blk) (m : List Nat) : Blk :=
  let p := payloadOf m
  let id := srcOf m
  let tb := beaconTime s.timNs p
  let use := s.f WAL_BCN_STATUS_USING
  let later := s.bcn.seq.isNone || decide (s.bcn.tb < tb)
  if s.masterSrc ≠ 8 ∨ !later then s
  else if id = s.f WAL_BCN_SRC_SRC then (s.useSource 1 id).bcnAccept id tb (use == 0) p
  else if id = s.f WAL_BCN_SRC_ALT then
    let s := { s with wal := { s.wal with altAt := some s.now } }
    if use = 2 ∨ s.bcn.heard + s.bcnTo ≤ s.now then (s.useSource 2 id).bcnAccept id tb (use == 0) p else s
  else s

/-- TO × INT µs without a beacon (R353, R356): ALT where it is heard, else the master is faulted. -/
def beaconTimeout (t : Nat) (s : Blk) : Blk :=
  let s := s.advance t
  if s.masterSrc ≠ 8 ∨ s.now < s.bcn.heard + s.bcnTo then s
  else
    let alt := match s.wal.altAt with
      | some a => decide (s.now < a + s.bcnTo)
      | none => false
    if alt then (if s.f WAL_BCN_STATUS_USING = 2 then s else s.useSource 2 (s.f WAL_BCN_SRC_ALT))
    else if s.wal.lost then s
    else
      let s := { s with wal := { s.wal with lost := true } }
      let s := (s.setF WAL_BCN_STATUS_LOST 1).setF WAL_BCN_STATUS_USING 0
      let s := s.raise 0xA05 0 (s.f WAL_BCN_SRC_SRC) (s.f WAL_BCN_SRC_ALT)
      if s.fbActive then s else s.masterFault

/-! ### The commands -/

/-- Whether a link's lanes are aligned: each has passed an ALIGN, and no two numbers are further apart than one block row on its way (R318, R320,
R344). Light coding needs none. -/
def Blk.linkAligned (s : Blk) (l : Nat) : Bool :=
  let ns := s.linkLanes l
  !s.fb (WAL_LINK_STATUS_HEAVY l) || ns.all fun n => match (s.lane n).rx.num with
    | none => false
    | some a => ns.all fun k => match (s.lane k).rx.num with
      | none => false
      | some b => decide ((a + 2 ^ 24 - b) % 2 ^ 24 ≤ 1 ∨ (b + 2 ^ 24 - a) % 2 ^ 24 ≤ 1)

/-- A buffered message whose turn it is: delivered and forwarded. PAIR messages are handed to the pairing, whose commands carry their content. -/
def Blk.waleHandle (l : Nat) (s : Blk) (m : List Nat) : Blk :=
  let drop := fun (s : Blk) => (s.waleDrop l 4).freeBuf l
  match mtypeOf m with
  | 1 => if l = 2 ∧ s.paired then drop s else s.swReceived l m
  | 2 => if l = 2 ∧ s.paired then drop s else (s.bcnReceived m).passBroadcast l m
  | 3 => ((s.discovered l m).ringView).passBroadcast l m
  | 8 => if l = 2 then s.freeBuf l else drop s
  | _ => drop s

/-- The check a message carries on a link: the CRC-24 of its header block or the CRC-32 of its frame (R342, R343). A NOP has no payload. -/
def Blk.waleCheck (s : Blk) (l : Nat) (m : List Nat) : Nat :=
  let m := if mtypeOf m = 0 then m.take 3 else m
  if s.fb (WAL_LINK_STATUS_HEAVY l) then (waleHead m).getD 7 0 else crc32 (m.flatMap fun w => toBE w 3)

/-- A message received on a link that is up (R347): one whose check fails is discarded; unbuffered ones return credits alone; buffered ones are
put in order, delivered and forwarded. -/
def waleReceived (l t : Nat) (m : List Nat) (crc : Nat) (s : Blk) : Blk :=
  let s := s.advance t
  if !s.linkUp l || !s.linkAligned l then s
  else if crc ≠ s.waleCheck l m then s.waleDrop l 0
  else
    let s := s.takeFreed l m
    match mtypeOf m with
    | 0 | 4 | 5 => s
    | _ =>
      let r := s.takeSeq l m
      r.2.foldl (Blk.waleHandle l) r.1

def wordsNat (ws : List Word) : List Nat := ws.map fun w => w.toNat

def execDiscoverReceived (l : Fin 3) (t : Nat) (m : List Word) (s : State) : Res :=
  s.on fun b => if mtypeOf (wordsNat m) = 3 then waleReceived l t (wordsNat m) (b.waleCheck l (wordsNat m)) b else b
def execNopReceived (l : Fin 3) (m : List Word) (s : State) : Res :=
  s.on fun b => if mtypeOf (wordsNat m) = 0 && b.linkUp l then b.takeFreed l (wordsNat m) else b

/-- A NOP returns credits (R348): FREED has changed and no message has left for 1 µs. -/
def nopSend (l t : Nat) (s : Blk) : Blk :=
  let s := s.advance t
  let x := s.link l
  if s.linkUp l && s.linkAwake l && x.owes && decide (x.lastOut + 250 ≤ t) then s.waleOut l x.sent (s.header 0 0 0 0) else s

def execNopSend (l : Fin 3) (t : Nat) (s : State) : Res := s.on (nopSend l t)

/-- A SW message for software goes to ring 14 (R350). -/
def swDeliver (l : Nat) (s : Blk) : Blk :=
  let x := s.link l
  match x.sw with
  | [] => s
  | (ns, m) :: rest =>
    if s.ringFull 14 then s.showR14
    else
      let p := payloadOf m
      let s := s.ringPut 14 ([srcOf m + l * 4096, ns % 2 ^ 24] ++ (List.range 6).map fun i => p.getD i 0)
      ((s.setLink l { x with sw := rest }).freeBuf l).showR14

def execSwDeliver (l : Fin 3) (s : State) : Res := s.on (swDeliver l)

/-- A ring-13 entry is consumed and sent (R339, R340, R350). Link 2 carries it outside a pairing with W1_RING = 1 alone (R337, R338). -/
def swSend (s : Blk) : Blk :=
  if s.chipId = 0 ∨ s.fb WAL_STATUS_ID_CONFLICT ∨ !s.ringHas 13 then s
  else
    let e := s.ringFront 13
    let r := bits (e.headD 0) 9 8
    let l := if r = 3 then (if s.linkUp 1 then 1 else 0) else r
    if !s.linkUp l || (l == 2 && (s.paired || !s.fb WAL_CFG_W1_RING)) then (s.ringPop 13).waleDrop l 3
    else if (s.link l).credits = 0 then s
    else
      let body := (List.range 6).map (fun i => e.getD (i + 2) 0 % 2 ^ 24) ++ [0, 0]
      (s.ringPop 13).sendBuffered l ⟨4, 3, s.header 1 (bits (e.headD 0) 23 12) 31 0 ++ body⟩

def execSwSend (s : State) : Res := s.on swSend

end Sys2Proof.Machine
end

