-- ==== Sys2Proof/Machine/Lanes.lean ====
section
/-!
DEFINITION. Training, recovery, sleep, equalisers and eye scans of the serial lanes (R313, R320 to R336).
-/

namespace Sys2Proof.Machine

/-! ### What the owners see -/

/-- A lane has left UP: its owner follows (R173, R200, R337). -/
def Blk.ownerDown (s : Blk) (n : Nat) : Blk :=
  if isHead n then s.portLaneDown n else if isCam n then s.camDown (n - 40) 1 else s.linkCheck n

/-- A lane enters UP (R322): LANE_UP with the rate code, and whether it comes from RECOVER. -/
def Blk.laneGoUp (s : Blk) (n : Nat) (again : Bool) : Blk :=
  let s := ((s.setF (LAN_STATUS_STATE n) 2).scanLeft n).tsSend n
  let s := s.setLane n { s.lane n with warned := false, sendFrom := s.now, burstAt := none }
  let s := s.raise 0x901 n n (s.laneRate n + 8 * b2n again)
  if isHead n then s.portLaneUp n else if isCam n then s else s.linkCheck n

/-- Lock is lost in UP, or a wake failed: RECOVER (R322, R333). -/
def Blk.laneRecover (s : Blk) (n : Nat) : Blk :=
  let s := (((s.setF (LAN_STATUS_DOWN n) 1).setF (LAN_STATUS_STATE n) 3).setF (LAN_STATUS_TX_SLEEP n) 0).scanLeft n
  let s := s.setLane n { s.lane n with stAt := s.now, burstAt := none, rx := Rx.init }
  ((s.incSat (LAN_RECOVERS n)).count 0x7A).ownerDown n

/-- RETRAIN, a TS1 in UP, or a retry (R322): TRAIN anew; the owner follows a lane that was UP. -/
def Blk.laneAgain (s : Blk) (n : Nat) : Blk :=
  let up := s.laneUp n
  let s := s.laneRetrain n
  if up then s.ownerDown n else s

/-- Training has failed (R322): LANE_TRAIN_FAIL with the last rate. -/
def Blk.laneFail (s : Blk) (n : Nat) (below : Bool) : Blk :=
  let s := (((s.setF (LAN_STATUS_STATE n) 4).setF (LAN_STATUS_LOCK n) 0).scanLeft n).tsSend n
  (s.setLane n { s.lane n with stAt := s.now }).raise 0x903 n n (s.laneRate n + 8 * b2n below)

/-- Training has settled at the rate in use (R322, R323). -/
def Blk.laneSettle (s : Blk) (n : Nat) : Blk :=
  if s.laneRate n < s.laneMin n then s.laneFail n true else s.laneGoUp n false

/-! ### The training sequence (R323, R324) -/

/-- Whether an eye scan has begun on a lane and goes on. -/
def Blk.scanOn (s : Blk) (n : Nat) : Bool :=
  match s.scan with
  | some x => x.lane == n && x.began.isSome && !x.aborted
  | none => false

/-- Whether a scan holds the training of a lane: one of it, or of a lane that trains with it (R324, R330). -/
def Blk.trainHeld (s : Blk) (n : Nat) : Bool :=
  if isWale n then (s.linkLanes (s.linkOf n)).any fun m => s.laneState m == 1 && s.scanOn m else s.scanOn n

/-- The lanes that train with a lane: those of its wale link that are in TRAIN. -/
def Blk.mates (s : Blk) (n : Nat) : List Nat :=
  if isWale n then (s.linkLanes (s.linkOf n)).filter fun m => s.laneState m == 1 else [n]

/-- Whether the condition of step 2 holds on a lane. -/
def Blk.laneReady (s : Blk) (n : Nat) : Bool :=
  let x := s.lane n
  s.laneState n == 1 && s.fb (LAN_STATUS_LOCK n) && x.target.isNone && !x.falling && x.rxOk && decide (8 ≤ x.okRun)

/-- Step 2: TS2 with NEXT the lowest code above the present one that every end offers. On a wale link all lanes do so together. -/
def Blk.laneStep2 (s : Blk) (n : Nat) : Blk :=
  let ms := s.mates n
  let r := s.laneRate n
  let others := if isWale n then s.linkLanes (s.linkOf n) else [n]
  let ok := others.all fun m => s.laneUp m || (s.laneReady m && s.laneRate m == r)
  if !ok || (s.lane n).next.isSome || s.trainHeld n then s
  else
    let offered := fun c => ms.all fun m => bitOf (s.lane m).mask c && bitOf (s.f (LAN_PARTNER_RATE_MASK m)) c
    let nx := ((List.range 8).find? fun c => decide (r < c) && offered c).getD r
    ms.foldl (fun s m => (s.setLane m { s.lane m with next := some nx, nextAt := s.now }).tsSend m) s

/-- Step 3: eight TS2 sent and eight received with the same NEXT. The lane settles, or changes its rate. -/
def Blk.laneStep3 (s : Blk) (n : Nat) : Blk :=
  let x := s.lane n
  let r := s.laneRate n
  match x.next with
  | none => s
  | some nx =>
    if s.laneState n ≠ 1 ∨ x.target.isSome ∨ s.trainHeld n ∨ x.tsRun < 8 ∨ x.tsNext ≠ nx ∨
        4000 * (s.now - x.nextAt) < 8 * laneFramePs r then s
    else
      let log := s.f (LAN_TRAIN_LOG_PASSED n)
      let s := s.setF (LAN_TRAIN_LOG_PASSED n) (if bitOf log r then log else log + 2 ^ r)
      if nx = r then s.laneSettle n
      else ((s.setLane n { x with good := r, target := some nx, stAt := s.now, rx := Rx.init }).setF (LAN_STATUS_LOCK n) 0).tsSend n

/-- An end falls back from the rate it is at to `p` (R323 step 4): over a relock, or at once where it is there already. -/
def Blk.laneFallBack (s : Blk) (n p : Nat) : Blk :=
  let x := s.lane n
  let r := s.laneRate n
  if s.laneState n ≠ 1 ∨ x.falling then s
  else if r = p then (s.setLane n { x with falling := true, next := some p, nextAt := s.now, okRun := 0, tsRun := 0 }).tsSend n
  else
    let mask := if bitOf x.mask r then x.mask - 2 ^ r else x.mask
    let s := s.setLane n { x with mask := mask, falling := true, target := some p, stAt := s.now, next := none, okRun := 0, tsRun := 0,
                                  rx := Rx.init }
    (((s.setF (LAN_STATUS_LOCK n) 0).setF (LAN_STATUS_FALLBACK n) 1).raise 0x904 n n r).tsSend n

/-- A lane that had settled is drawn into the fallback of its link: it leaves UP for TRAIN (R322, R324). -/
def Blk.laneRejoin (s : Blk) (n : Nat) : Blk :=
  if !s.laneUp n then s
  else
    let s := (s.raise 0x902 n n 1).setF (LAN_STATUS_DOWN n) 1
    let s := (((s.setF (LAN_STATUS_STATE n) 1).setF (LAN_STATUS_TX_SLEEP n) 0).setF (LAN_STATUS_RX_SLEEP n) 0).scanLeft n
    (s.setLane n { s.lane n with next := none, falling := false, target := none, since := s.now }).ownerDown n

/-- The lanes that fall back with a lane: on a wale link all that train or have settled. -/
def Blk.fallMates (s : Blk) (n : Nat) : List Nat :=
  if isWale n then (s.linkLanes (s.linkOf n)).filter fun m => s.laneState m == 1 || s.laneUp m else [n]

/-- A lane falls back, and with it its whole link, to the last rate at which step 3 completed on every lane that trains (R323, R324). -/
def Blk.fallBackAll (s : Blk) (n : Nat) : Blk :=
  let p := ((s.mates n).map fun m => if s.laneRate m = 0 then 0 else (s.lane m).good).foldl min 7
  (s.fallMates n).foldl (fun s m => (s.laneRejoin m).laneFallBack m p) s

/-- A valid TS1 or TS2 arrives. -/
def Blk.laneTs (s : Blk) (n : Nat) (ts2 : Bool) (flags nx : Nat) : Blk :=
  match s.laneState n with
  | 2 => if ts2 || isCam n then s else s.laneAgain n
  | 1 =>
    let x := s.lane n
    if isCam n || x.target.isSome || !s.fb (LAN_STATUS_LOCK n) then s
    else
      let x := { x with okRun := if bitOf flags 0 then x.okRun + 1 else 0,
                        tsRun := if !ts2 then 0 else if x.tsNext = nx then x.tsRun + 1 else 1, tsNext := if ts2 then nx else x.tsNext }
      let s := s.setLane n x
      if ts2 && x.next.isNone && !x.falling && decide (nx < s.laneRate n) then s.fallBackAll n
      else
        (s.laneStep2 n).laneStep3 n
  | _ => s

/-! ### Sleep (R331 to R334) -/

/-- Whether a lane may sleep: UP, a head or wale lane, and not one that a pairing keeps awake. -/
def Blk.maySleep (s : Blk) (n : Nat) : Bool :=
  s.laneUp n && !isCam n && !(s.paired && decide (36 ≤ n)) && !(s.twnState == 3 && isHead n)

/-- A valid IDLE_REQ: RX sleep. -/
def Blk.rxSleep (s : Blk) (n : Nat) : Blk :=
  if !s.maySleep n then s.setF (LAN_STATUS_SLEEP_REJ n) 1
  else if s.fb (LAN_STATUS_RX_SLEEP n) then s
  else
    let s := (s.setF (LAN_STATUS_RX_SLEEP n) 1).setF (LAN_STATUS_LOCK n) 0
    let s := s.setLane n { s.lane n with burstAt := none }
    if isHead n then s.setPort n { s.port n with sleepAt := s.now } else s

/-- RX_SLEEP clears; the STATUS timer of the port runs on (R334). -/
def Blk.rxAwake (s : Blk) (n : Nat) : Blk :=
  let s := s.setF (LAN_STATUS_RX_SLEEP n) 0
  let s := s.setLane n { s.lane n with burstAt := none }
  if isHead n then s.setPort n { s.port n with lastStatus := (s.port n).lastStatus + (s.now - (s.port n).sleepAt) } else s

/-! ### What the receiver finds (R313, R320, R321) -/

/-- Whether a lane's receiver listens: in TRAIN, UP and RECOVER, not while its rate changes, and in RX sleep only to a wake. -/
def Blk.rxOn (s : Blk) (n : Nat) : Bool :=
  (s.laneState n == 1 || s.laneState n == 2 || s.laneState n == 3) && (s.lane n).target.isNone &&
    !(s.fb (LAN_STATUS_RX_SLEEP n) && (s.lane n).burstAt.isNone)

/-- Lock is gained (R313, R320, R322, R333): in RECOVER within 100 µs the lane is UP again, later it trains. -/
def Blk.lockGained (s : Blk) (n : Nat) : Blk :=
  let s := (s.setF (LAN_STATUS_LOCK n) 1).setLane n { s.lane n with lockAt := s.now }
  match s.laneState n with
  | 2 => if s.fb (LAN_STATUS_RX_SLEEP n) then s.rxAwake n else s
  | 3 => if s.scanOn n then s else if s.now ≤ (s.lane n).stAt + 25000 then s.laneGoUp n true else s.laneTrain n
  | _ => s

/-- Lock is lost (R313, R320, R322). -/
def Blk.lockLost (s : Blk) (n : Nat) : Blk :=
  let s := s.setF (LAN_STATUS_LOCK n) 0
  match s.laneState n with
  | 1 => (s.setLane n { s.lane n with rxOk := false, okRun := 0, tsRun := 0, swept := s.fb (LAN_EQ_FIXED n) }).tsSend n
  | 2 => if s.fb (LAN_STATUS_RX_SLEEP n) then s else (s.raise 0x902 n n 0).laneRecover n
  | _ => s

/-- A lane frame (R321): TS1 and TS2 go to the training, IDLE_REQ to sleep; reserved types do nothing. -/
def Blk.laneFrameIn (s : Blk) (n : Nat) (bs : List Byte) : Blk :=
  let b := fun i => (bs.getD i 0).toNat
  match b 0 with
  | 0xF0 | 0xF1 =>
    let s := s.wn (LAN_PARTNER n) (b 2 * 65536 + b 6 * 256 + b 7 % 4)
    let s := s.wn (LAN_PARTNER n + 1) ((b 8 * 256 + b 9) % 4096)
    s.laneTs n (b 0 == 0xF1) (b 1) (b 4 % 8)
  | 0xF2 => s.rxSleep n
  | _ => s

/-- The longest that a Skip or an ALIGN is away, in ps (R315, R318). -/
def Blk.skipWait (s : Blk) (n : Nat) : Nat :=
  let r := s.laneRate n
  if 5 ≤ r then 1024 * blockPs r else 4096 * symPs r

/-- A LAN_EQ value takes effect at the next Skip or ALIGN: one that the receiver finds, or at the latest when 4,096 symbols or 1,024 blocks
have passed (R315, R318, R328). -/
def Blk.eqCheck (s : Blk) (n : Nat) : Blk :=
  if s.laneState n ≠ 0 ∧ s.laneState n ≠ 4 ∧ s.skipWait n ≤ 4000 * (s.now - (s.lane n).eqAt) then s.eqTake n else s

/-- What one finding of the receiver does. -/
def Blk.rxEvent (n : Nat) (s : Blk) : RxEv → Blk
  | .error => (s.incSat (LAN_CODE_ERR n)).count 0x79
  | .gain => s.lockGained n
  | .loss => s.lockLost n
  | .frame bs => s.laneFrameIn n bs
  | .skip => (s.eqTake n).trimsDue fun h => decide (h.kind < 2) && h.idx == n

/-- A stretch of line bits, the last at POS clock `t`, reaches a lane's receiver, with the polarity of the pair; what it finds takes effect in
order, as far as the lane has not begun to train anew. -/
def rxStretch (n t : Nat) (bits : List Bool) (s : Blk) : Blk :=
  let s := (s.advance t).eqCheck n
  if !s.rxOn n then s
  else
    let x := s.lane n
    let line := if s.fb (LAN_CFG_RX_POL n) then bits.map not else bits
    let r := x.rx.feed (s.laneHeavy n) (!isCam n) (s.fb (LAN_STATUS_LOCK n)) line
    r.2.foldl (fun s e => if s.rxOn n && (s.lane n).since == x.since then s.rxEvent n e else s) (s.setLane n { x with rx := r.1 })

/-- LANE_LOCK_GAIN: the stretch in which the receiver gains lock. -/
def execLaneLockGain (n : Fin 44) (t : Nat) (bits : List Bool) (s : State) : Res := s.on (rxStretch n t bits)

/-- LANE_LOCK_LOSS: the stretch in which it loses lock. -/
def execLaneLockLoss (n : Fin 44) (t : Nat) (bits : List Bool) (s : State) : Res := s.on (rxStretch n t bits)

/-- LANE_FRAME_RECEIVED: the stretch that brings a lane frame. -/
def execLaneFrameReceived (n : Fin 44) (t : Nat) (bits : List Bool) (s : State) : Res := s.on (rxStretch n t bits)

/-! ### Commands: sweep and training -/

/-- The figure of merit of the two thresholds, in µV: that of the ones above that of the zeros, in units of 2 mV (R326). -/
def fomOf (th : Int × Int) : Nat := min 255 ((th.1 - th.2) / 2000).toNat

/-- The code of the highest figure of merit, the lowest among equals (R327). -/
def bestCode (foms : List Nat) : Nat :=
  let m := foms.foldl max 0
  (foms.findIdx? (fun f => f == m)).getD 0

/-- The figure of merit measured now, with its lowest value. -/
def Blk.showFom (s : Blk) (n fom : Nat) : Blk :=
  let x := s.lane n
  let low := if x.lowSet then min (s.f (LAN_FOM_LOWEST n)) fom else fom
  ((s.setF (LAN_FOM_LOWEST n) low).setF (LAN_FOM_CURRENT n) fom).setLane n { x with lowSet := true }

/-- An eye scan asked for in TRAIN begins after the sweep (R330). -/
def Blk.scanBegin (s : Blk) (n : Nat) : Blk :=
  match s.scan with
  | some x => if x.lane = n ∧ x.began.isNone ∧ !x.aborted then { s with scan := some { x with began := some s.now } } else s
  | none => s

/-- The sweep of 128 µs is complete, or a fixed code has been measured for 4 µs (R327): RX_OK, and on a camera lane UP, once the figure of
merit reaches FOM_MIN (R323, R325). `ths` are the thresholds found at each code. -/
def equaliserSweepDone (n t : Nat) (ths : List (Int × Int)) (s : Blk) : Blk :=
  let s := s.advance t
  let fixed := s.fb (LAN_EQ_FIXED n)
  if s.laneState n ≠ 1 ∨ !s.fb (LAN_STATUS_LOCK n) ∨ s.now < (s.lane n).lockAt + (if fixed then 1000 else 32000) then s
  else
    let foms := ths.map fomOf
    let code := if fixed then s.f (LAN_EQ_FIXED_CODE n) else bestCode foms
    let fom := foms.getD code 0
    let s := (s.setF (LAN_EQ_PEAK n) code).setF (LAN_FOM_CURRENT n) fom
    let ok := decide (s.f LAN_FOM_CFG_FOM_MIN ≤ fom)
    let s := ((s.setLane n { s.lane n with rxOk := ok, swept := true }).scanBegin n).tsSend n
    if ok ∧ isCam n ∧ !s.scanOn n then s.laneGoUp n false else s

def execEqualiserSweepDone (n : Fin 44) (t : Nat) (ths : List (Int × Int)) (s : State) : Res := s.on (equaliserSweepDone n t ths)

/-- The transmit PLL is relocked after 1 µs of idle and within 20 µs more: step 1 at the next rate, or TS2 at the rate fallen back to (R323). -/
def rateStepRelock (n t : Nat) (s : Blk) : Blk :=
  let s := s.advance t
  let x := s.lane n
  match x.target with
  | none => s
  | some r =>
    if s.laneState n ≠ 1 ∨ s.now < x.stAt + 250 then s
    else
      let s := s.laneStep n r
      let s := s.setLane n { s.lane n with since := min s.now (x.stAt + 5250) }
      if x.falling then (s.setLane n { s.lane n with falling := true, next := some r, nextAt := s.now }).tsSend n else s

def execRateStepRelock (n : Fin 44) (t : Nat) (s : State) : Res := s.on (rateStepRelock n t)

/-- 2 ms from the first TS1 at a rate without step 2 (R323, R325). -/
def trainTimeout (n t : Nat) (s : Blk) : Blk :=
  let s := s.advance t
  let x := s.lane n
  if s.laneState n ≠ 1 ∨ s.trainHeld n ∨ x.target.isSome ∨ (x.next.isSome ∧ !x.falling) ∨ s.now < x.since + 500000 then s
  else if isCam n || x.falling || s.laneRate n == 0 then s.laneFail n false
  else s.fallBackAll n

def execTrainTimeout (n : Fin 44) (t : Nat) (s : State) : Res := s.on (trainTimeout n t)

/-- 10 ms in FAILED: TRAIN (R322). -/
def laneFailedRetry (n t : Nat) (s : Blk) : Blk :=
  let s := s.advance t
  if s.laneState n = 4 ∧ (s.lane n).stAt + 2500000 ≤ s.now then s.laneTrain n else s

def execLaneFailedRetry (n : Fin 44) (t : Nat) (s : State) : Res := s.on (laneFailedRetry n t)

/-- 100 µs in RECOVER without lock and without an eye scan: TRAIN (R322). -/
def recoverTimeout (n t : Nat) (s : Blk) : Blk :=
  let s := s.advance t
  if s.laneState n = 3 ∧ !s.fb (LAN_STATUS_LOCK n) ∧ !s.scanOn n ∧ (s.lane n).stAt + 25000 ≤ s.now then s.laneTrain n else s

def execRecoverTimeout (n : Fin 44) (t : Nat) (s : State) : Res := s.on (recoverTimeout n t)

def execLaneRetrain (n : Fin 44) (s : State) : Res := s.on fun b => b.laneAgain n

/-- CLEAR_COUNTS (R336). -/
def laneClearCounts (n : Nat) (s : Blk) : Blk :=
  let s := ((s.wn (LAN_CODE_ERR n) 0).wn (LAN_RECOVERS n) 0).setF (LAN_FOM_LOWEST n) 0
  s.setLane n { s.lane n with lowSet := false }

def execLaneClearCounts (n : Fin 44) (s : State) : Res := s.on (laneClearCounts n)

/-! ### Commands: sleep and wake -/

/-- TX_SLEEP (R332): four IDLE_REQ frames, then electrical idle. -/
def txSleep (n : Nat) (s : Blk) : Blk :=
  if !s.maySleep n then s.setF (LAN_STATUS_SLEEP_REJ n) 1
  else if s.fb (LAN_STATUS_TX_SLEEP n) then s
  else
    let idle := s.now + (4 * laneFramePs (s.laneRate n) + 3999) / 4000
    let s := (s.sendIdleReq n).setF (LAN_STATUS_TX_SLEEP n) 1
    s.setLane n { s.lane n with idleAt := idle }

def execTxSleep (n : Fin 44) (s : State) : Res := s.on (txSleep n)

/-- The line bits of a wake (R333): the burst 1100 for 1 µs, then fill with an ALIGN in every 64th block for 5 µs, in heavy coding on every lane
of the link alike. A light coder starts again. -/
def Blk.wakeLine (s : Blk) (n : Nat) (ps : Int) : Blk :=
  let r := s.laneRate n
  let s := s.txTo n ps
  let s := s.putLineBits n ps ((List.range (2000000 / bitHalfPs r)).map fun i => decide (i % 4 < 2))
  let x := (s.lane n).tx
  if 5 ≤ r then
    let a := s.slotFrom n (ps + 1000000)
    let b := s.slotFrom n (ps + 6000000)
    let k := ((List.range (b - a)).filter fun i => i % 64 == 0 && (a + i) % 1024 != 0).length
    let l := s.linkOf n
    (s.setTx n { x with free := b }).setLink l { s.link l with extra := (s.link l).extra + k }
  else s.setTx n { x with rd := false, skip := 0, rest := [], free := ps + 1000000 }

/-- TX_WAKE (R333): not before 100 ns of electrical idle; the owner may send 6 µs after the start, a head port from an IDLE frame
on (R334). -/
def txWake (n : Nat) (s : Blk) : Blk :=
  if !s.fb (LAN_STATUS_TX_SLEEP n) then s
  else
    let x := s.lane n
    let start := max s.now (x.idleAt + 25)
    let s := ((s.setF (LAN_STATUS_TX_SLEEP n) 0).setLane n { x with sendFrom := start + 1500 }).wakeLine n (4000 * start : Nat)
    if isHead n then s.resumePort n else s

def execTxWake (n : Fin 44) (s : State) : Res := s.on (txWake n)

def execIdleReqReceived (n : Fin 44) (s : State) : Res := s.on fun b => b.rxSleep n

/-- A wake burst on a sleeping receiver; on one awake it is noise (R333). -/
def wakeDetect (n t : Nat) (s : Blk) : Blk :=
  let s := s.advance t
  if s.laneUp n && s.fb (LAN_STATUS_RX_SLEEP n) && (s.lane n).burstAt.isNone then
    s.setLane n { s.lane n with burstAt := some s.now }
  else s

def execWakeDetect (n : Fin 44) (t : Nat) (s : State) : Res := s.on (wakeDetect n t)

/-- Not locked 5 µs after the burst of 1 µs ends: LANE_WAKE_FAIL and RECOVER (R333). -/
def laneWakeFail (n t : Nat) (s : Blk) : Blk :=
  let s := s.advance t
  match (s.lane n).burstAt with
  | none => s
  | some b =>
    if !s.laneUp n || !s.fb (LAN_STATUS_RX_SLEEP n) || decide (s.now < b + 1500) then s
    else (((s.rxAwake n).setF (LAN_STATUS_WAKE_FAIL n) 1).raise 0x907 n n (s.laneRate n)).laneRecover n

def execLaneWakeFail (n : Fin 44) (t : Nat) (s : State) : Res := s.on (laneWakeFail n t)

/-! ### Commands: figure of merit and equaliser -/

/-- The figure of merit is measured in UP (R326, R328): below WARN for 1 ms it gives LANE_MARGIN_LOW, once per fall. -/
def laneMarginLow (n t : Nat) (th : Int × Int) (s : Blk) : Blk :=
  let s := (s.advance t).eqCheck n
  if !s.laneUp n then s
  else
    let fom := fomOf th
    let s := s.showFom n fom
    let x := s.lane n
    if s.f LAN_FOM_CFG_WARN ≤ fom then s.setLane n { x with lowAt := none, warned := false }
    else
      let from0 := x.lowAt.getD s.now
      let due := !x.warned && decide (from0 + 250000 ≤ s.now)
      let s := s.setLane n { x with lowAt := some from0, warned := x.warned || due }
      if due then (s.setF (LAN_STATUS_MARGIN_LOW n) 1).raise 0x905 n n fom else s

def execLaneMarginLow (n : Fin 44) (t : Nat) (one zero : Int) (s : State) : Res := s.on (laneMarginLow n t (one, zero))

/-- A write of LAN_EQ: FIXED and FIXED_CODE wait for the next Skip or ALIGN (R328). -/
def lanEqWrite (n : Nat) (w : Word) (s : Blk) : Blk :=
  let v := setBits (setBits (s.lastWritten (LAN_EQ n)).toNat 23 23 (bits w.toNat 23 23)) 4 0 (bits w.toNat 4 0)
  (s.hold (LAN_EQ n) (BitVec.ofNat 24 v) .skip).setLane n { s.lane n with eqAt := s.now }

def execLanEqWrite (n : Fin 44) (w : Word) (s : State) : Res := s.on (lanEqWrite n w)

/-! ### Commands: eye scans (R329, R330) -/

/-- A write of LAN_EYE_CTRL with GO: in TRAIN the scan begins after the sweep. -/
def eyeScanGo (w : Word) (s : Blk) : Blk :=
  let s := (s.setF LAN_EYE_CTRL_DWELL_LOG2 (bits w.toNat 15 12)).setF LAN_EYE_CTRL_LANE (bits w.toNat 5 0)
  if !bitOf w.toNat 23 then s
  else
    let n := s.f LAN_EYE_CTRL_LANE
    let st := s.laneState n
    let ok := decide (n < 44) && (st == 1 || st == 3 || (st == 2 && s.allIdle))
    match s.scan with
    | some x => { s.setF LAN_EYE_STATUS_REJ 1 with scan := some { x with refused := true } }
    | none =>
      if !ok then s.setF LAN_EYE_STATUS_REJ 1
      else
        let s := ((s.setF LAN_EYE_STATUS_BUSY 1).setF LAN_EYE_STATUS_ABORTED 0).setF LAN_EYE_STATUS_POINTS 0
        let began := if st = 1 ∧ !(s.lane n).swept then none else some s.now
        { s with scan := some { lane := n, st := st, start := s.now, began := began, dwell := s.f LAN_EYE_CTRL_DWELL_LOG2, aborted := false,
                                refused := false, stop := s.now } }

def execEyeScanGo (w : Word) (s : State) : Res := s.on (eyeScanGo w)

def execEyeScanCancel (s : State) : Res := s.on fun b => b.scanAbort

/-- The address of a point of the eye window. -/
def eyePoint (k : Nat) : Nat := 0x108000 + k

/-- The counts measured, in the window from point `k` on. -/
def Blk.putPoints (s : Blk) (k : Nat) : List Nat → Blk
  | [] => s
  | c :: r => Blk.putPoints (s.wn (eyePoint k) (min 65535 c)) (k + 1) r

/-- No scan is in progress any more. -/
def Blk.endScan (s : Blk) : Blk := { s with scan := none }

/-- The scan is over. -/
def Blk.scanShow (s : Blk) (x : Scan) : Blk :=
  let s := ((s.endScan).setF LAN_EYE_STATUS_BUSY 0).setF LAN_EYE_STATUS_DONE 1
  s.raise 0x906 x.lane x.lane (b2n x.aborted + 2 * b2n x.refused)

/-- Lanes that the scan held in TRAIN or RECOVER go on; the 2 ms of R323 have stood still. -/
def Blk.scanFree (s : Blk) (x : Scan) : Blk :=
  let n := x.lane
  match s.laneState n with
  | 1 =>
    let s := (s.mates n).foldl (fun s m =>
      let l := s.lane m
      s.setLane m { l with since := l.since + (s.now - max (x.began.getD s.now) l.since) }) s
    if isCam n then (if (s.lane n).rxOk then s.laneGoUp n false else s) else s.laneStep2 n
  | 3 =>
    let l := s.lane n
    if !s.fb (LAN_STATUS_LOCK n) then s else if l.lockAt ≤ l.stAt + 25000 then s.laneGoUp n true else s.laneTrain n
  | _ => s

/-- Points of an eye scan: 64 phases by 128 offsets. -/
def eyePoints : Nat := 8192

/-- The points that a scan has measured: each takes 2^(16 + DWELL_LOG2) bit periods (R329). -/
def Blk.scanPoints (s : Blk) (x : Scan) : Nat :=
  match x.began with
  | none => 0
  | some b => min eyePoints (((if x.aborted then x.stop else s.now) - b) * 8000 / (2 ^ (16 + x.dwell) * bitHalfPs (s.laneRate x.lane)))

/-- Counts of a scan, in the order of R329 from the first point on, as far as they are measured by now: they are in the window, and the scan
ends with the last of them or, aborted, with those it has. -/
def eyeScanDone (t : Nat) (points : List Nat) (s : Blk) : Blk :=
  let s := s.advance t
  match s.scan with
  | none => s
  | some x =>
    let ps := points.take (s.scanPoints x)
    let s := (s.putPoints 0 ps).setF LAN_EYE_STATUS_POINTS (max (s.f LAN_EYE_STATUS_POINTS) ps.length)
    if x.aborted || ps.length == eyePoints then (s.scanShow x).scanFree x else s

def execEyeScanDone (t : Nat) (points : List Nat) (s : State) : Res := s.on (eyeScanDone t points)

end Sys2Proof.Machine
end

