-- ==== Sys2Proof/Machine/Time.lean ====
section
/-!
DEFINITION. Time (R359 to R372, R529): local time, its parents and servo, time over wale links, IEEE 1588, time triggers and
captures. Fine times are in 2^-16 ns.
-/

namespace Sys2Proof.Machine

/-! ### Local time (R346, R359, R360) -/

/-- One nanosecond in fine units. -/
def ns1 : Int := 65536

/-- Local time now. -/
def Blk.timFine (s : Blk) : Int := (s.timUnits / 65536 : Nat)

/-- Local time at a sample of 1 ns since the release of RESET_N. -/
def Blk.fineAt (s : Blk) (t : Nat) : Int :=
  (s.tim.base : Int) / 65536 + ((t : Int) - 4 * s.tim.since) * (s.val TIM_ADDEND 2 : Int) / 131072

/-- Local time at an instant of a lane's line. -/
def Blk.lineTime (s : Blk) (ps : Int) : Int := s.timFine + (ps - s.nowPs) * (s.val TIM_ADDEND 2 : Int) / 131072000

/-- A new addend counts from now on. -/
def Blk.setAddend (s : Blk) (v : Nat) : Blk :=
  { s with tim := ⟨s.timUnits, s.now⟩ }.setVal TIM_ADDEND v 2

/-- The four words of a time record (R346). -/
def timeRecord (x : Int) (valid : Bool) : List Nat :=
  let n := (x % (2 ^ 48 * 1000000000 * 65536)).toNat
  let ns := n / 65536
  [secOf ns % 2 ^ 24, secOf ns / 2 ^ 24, nsOf ns % 2 ^ 24, b2n valid * 2 ^ 23 + nsOf ns / 2 ^ 24 * 65536 + n % 65536]

/-- The time a record gives. -/
def recordTime (ws : List Nat) : Int :=
  let sec := ws.getD 0 0 + ws.getD 1 0 * 2 ^ 24
  let ns := ws.getD 2 0 + bits (ws.getD 3 0) 21 16 * 2 ^ 24
  ((sec * 1000000000 + ns) * 65536 + ws.getD 3 0 % 65536 : Nat)

/-! ### Time triggers (R369, R370) -/

def Blk.tto (s : Blk) (n : Nat) : Option Tto := (s.time.ttos.find? fun e => e.1 == n).map Prod.snd

/-- An output armed, or no longer; ARMED shows it. -/
def Blk.putTto (s : Blk) (n : Nat) (x : Option Tto) : Blk :=
  let l := s.time.ttos.filter fun e => e.1 != n
  let l := match x with
    | some v => (n, v) :: l
    | none => l
  let on := match x with
    | some v => !v.ending
    | none => false
  { s with time := { s.time with ttos := l } }.setF (TTO_STATUS_ARMED n) (b2n on)

/-- The exact instant of pulse `k`. -/
def Tto.instant (x : Tto) (k : Nat) : Int := x.start + (k : Int) * x.period

/-- Whether pulses remain from number `k` on. -/
def Tto.left (x : Tto) (k : Nat) : Bool :=
  !x.ending && (if x.periodic then x.count == 0 || decide (k < x.count) else k == 0)

/-- The number of the first pulse at or after an instant. -/
def Tto.firstFrom (x : Tto) (t : Int) : Nat :=
  if t ≤ x.start then 0 else if x.periodic then ((t - x.start + x.period - 1) / x.period).toNat else 1

/-- Pulses before an instant are missed; with none left the arming ends. TTO_MISSED carries the count. -/
def Blk.ttoMiss (s : Blk) (n : Nat) (x : Tto) (t : Int) : Blk :=
  let k := max x.k (x.firstFrom t)
  let k := if x.periodic then (if x.count = 0 then k else min k x.count) else min k 1
  let miss := k - x.k
  let y := { x with k := k }
  let s := s.putTto n (if y.left k || y.endNs.isSome then some { y with ending := y.ending || !y.left k } else none)
  if miss = 0 then s else (s.setF (TTO_STATUS_MISSED n) 1).raise 0xA20 n n (min miss u24max)

/-- TTO_CTRL.ARM: the settings in force; instants less than 100 ns ahead are missed. -/
def ttoArm (n : Nat) (s : Blk) : Blk :=
  let mode := s.f (TTO_CFG_MODE n)
  if mode = 0 ∨ mode = 3 then s
  else
    let period := max 262144 (s.val (TTO_PERIOD n) 2)
    let w := if s.rn (TTO_WIDTH n) = 0 then 2 else s.rn (TTO_WIDTH n)
    let w := if mode = 2 then min w (period / 65536 - 2) else w
    let old := match s.tto n with
      | some x => x.endNs
      | none => none
    let x : Tto :=
      { start := recordTime ((List.range 4).map fun i => s.rn (TTO_START n + i)), period := period, width := w,
        count := s.rn (TTO_COUNT n), periodic := mode == 2, pol := s.fb (TTO_CFG_POL n), k := 0, endNs := old, ending := false }
    (s.putTto n (some x)).ttoMiss n x (s.timFine + 100 * ns1)

def execTtoArm (n : Fin 4) (s : State) : Res := s.on (ttoArm n)

/-- DISARM: the output ends after a pulse in progress. -/
def ttoDisarm (n : Nat) (s : Blk) : Blk :=
  match s.tto n with
  | some x => s.putTto n (if x.endNs.isSome then some { x with ending := true } else none)
  | none => s

def execTtoDisarm (n : Fin 4) (s : State) : Res := s.on (ttoDisarm n)

/-- The next edge of an output that local time has reached, on the nanosecond nearest its instant. -/
def ttoEdge (n t : Nat) (s : Blk) : Blk :=
  let s := s.advance t
  let now := s.timFine / ns1
  match s.tto n with
  | none => s
  | some x =>
    match x.endNs with
    | some e =>
      if now < e then s
      else
        let s := s.emit (.tto n (!x.pol) e)
        if x.left x.k then s.putTto n (some { x with endNs := none })
        else
          let s := s.putTto n none
          if x.ending && !(x.periodic && x.count != 0 && decide (x.count ≤ x.k)) && !(!x.periodic && x.k == 1) then s
          else s.setF (TTO_STATUS_DONE n) 1
    | none =>
      let at0 := (x.instant x.k + 32768) / ns1
      if !x.left x.k || decide (now < at0) then s
      else (s.putTto n (some { x with k := x.k + 1, endNs := some (at0 + x.width) })).emit (.tto n x.pol at0)

def execTtoEdge (n : Fin 4) (t : Nat) (s : State) : Res := s.on (ttoEdge n t)

/-! ### Parents and servo (R360 to R362) -/

/-- A parent code, 6 and 7 treated as 0. -/
def parentCode (v : Nat) : Nat := if 5 < v then 0 else v

def Blk.timSource (s : Blk) : Nat := parentCode (s.f TIM_CFG_SOURCE)
def Blk.timAlt (s : Blk) : Nat := parentCode (s.f TIM_CFG_ALT)

/-- The parent in use. -/
def Blk.timParent (s : Blk) : Nat := if s.fb TIM_STATUS_ALT_USED then s.timAlt else s.timSource

/-- LOCKED is left (R362). With SOURCE = 0 it stays 1. -/
def Blk.unlock (s : Blk) (cause : Nat) : Blk :=
  let s := { s with time := { s.time with good := 0 } }
  if !s.fb TIM_STATUS_LOCKED || s.timSource == 0 then s
  else (s.setF TIM_STATUS_LOCKED 0).raise 0xA11 0 s.timParent cause

/-- Whole ns of a fine time as s24, saturating. -/
def nsS24 (x : Int) : Nat := wrapTo 24 (satS 24 (x.tdiv ns1))

/-- Local time is stepped: instants it passes over are missed, TIME_STEPPED, LOCKED cleared. -/
def Blk.stepTime (s : Blk) (d : Int) (src : Nat) : Blk :=
  let m : Int := 2 ^ 48 * 1000000000 * 2 ^ 32
  let s := { s with tim := ⟨(((s.timUnits : Int) + d * 65536) % m).toNat, s.now⟩ }
  let s := if 0 < d then s.time.ttos.foldl (fun s e => s.ttoMiss e.1 e.2 s.timFine) s else s
  let s := (s.setF TIM_STATUS_STEPPED 1).raise 0xA12 0 src (nsS24 d)
  s.unlock 2

/-- TIM_STEP, signed nanoseconds. -/
def timStepWrite (v : BitVec 48) (s : Blk) : Blk := s.stepTime (v.toInt * ns1) 15

def execTimStepWrite (v : BitVec 48) (s : State) : Res := s.on (timStepWrite v)

/-- The servo of R361. -/
def Blk.servo (s : Blk) (o : Int) : Blk :=
  if !s.fb TIM_CFG_SERVO then s
  else if (s.f TIM_SERVO_CFG_STEP_NS * 64 * 65536 : Int) < o.natAbs then
    { s.stepTime o s.timParent with time := { s.time with acc := 0, good := 0 } }
  else
    let acc := max (-(2 ^ 40)) (min (2 ^ 40) (s.time.acc + o))
    let adj := o * s.f TIM_SERVO_CFG_KP / 256 + acc * s.f TIM_SERVO_CFG_KI / 65536
    let adj := max (-(2 ^ 20)) (min (2 ^ 20) adj)
    { s with time := { s.time with acc := acc } }.setAddend (wrapTo 48 (0x000200000000 + adj))

/-- A measurement of the parent in use: TIM_OFFSET, the lock, the servo. -/
def Blk.offset (s : Blk) (o : Int) : Blk :=
  let o := satS 48 o
  let s := s.setSval TIM_OFFSET 2 48 o
  let s :=
    if o.natAbs ≤ s.f TIM_LOCK_CFG_LOCK_NS * 65536 then
      let s := { s with time := { s.time with good := min 16 (s.time.good + 1) } }
      if s.time.good = 16 ∧ !s.fb TIM_STATUS_LOCKED then (s.setF TIM_STATUS_LOCKED 1).raise 0xA10 0 s.timParent (nsS24 o) else s
    else if s.f TIM_LOCK_CFG_UNLOCK_NS * 65536 < o.natAbs then s.unlock 0
    else { s with time := { s.time with good := 0 } }
  s.servo o

/-- A valid measurement from a parent: SOURCE counts whenever it is heard, ALT while it is in use. -/
def Blk.measure (s : Blk) (k : Nat) (o : Int) : Blk :=
  if s.timSource = 0 ∨ k = 0 then s
  else if k = s.timSource then
    let s := { s with time := { s.time with main := s.now } }
    ((s.setF TIM_STATUS_ALT_USED 0).setF TIM_STATUS_PARENT_LOST 0).offset o
  else if k = s.timAlt ∧ s.fb TIM_STATUS_ALT_USED then
    let s := { s with time := { s.time with alt := s.now } }
    (s.setF TIM_STATUS_PARENT_LOST 0).offset o
  else s

/-- 2^v seconds in POS clocks, for a PTP interval code from -7 to 4. -/
def logInterval (v : Nat) : Nat :=
  let k := max (-7) (min 4 (sext 4 v))
  if 0 ≤ k then 250000000 * 2 ^ k.toNat else 250000000 / 2 ^ (-k).toNat

/-- 2^TS_LOG2 µs in POS clocks. -/
def Blk.tsInterval (s : Blk) : Nat := 250 * 2 ^ clampN 4 10 (s.rn WAL_TS_CFG % 16)

/-- The measurement interval of a parent. -/
def Blk.parentInterval (s : Blk) (k : Nat) : Nat :=
  match k with
  | 1 => logInterval (s.f TIM_PTP_INT_SYNC)
  | 2 => 250000000
  | _ => s.tsInterval

/-- Eight intervals without a measurement: ALT takes over, or with both lost LOCKED is left (R361, R362). -/
def parentLost (t : Nat) (s : Blk) : Blk :=
  let s := s.advance t
  let lost := fun (k since : Nat) => decide (since + 8 * s.parentInterval k ≤ s.now)
  if s.timSource = 0 ∨ s.fb TIM_STATUS_PARENT_LOST ∨ !lost s.timSource s.time.main then s
  else if s.fb TIM_STATUS_ALT_USED then
    if lost s.timAlt s.time.alt then (s.setF TIM_STATUS_PARENT_LOST 1).unlock 1 else s
  else if s.timAlt = 0 then (s.setF TIM_STATUS_PARENT_LOST 1).unlock 1
  else { s with time := { s.time with alt := s.now } }.setF TIM_STATUS_ALT_USED 1

def execParentLost (t : Nat) (s : State) : Res := s.on (parentLost t)

/-- TIM_CFG has taken effect, from the word `old`: a change of REF10 clears LOCKED (R368); with SOURCE = 0 it is 1 (R362). -/
def Blk.timCfgApplied (s : Blk) (old : Nat) : Blk :=
  let s := { s with time := { s.time with main := s.now, good := 0 } }
  let s := (s.setF TIM_STATUS_ALT_USED 0).setF TIM_STATUS_PARENT_LOST 0
  let s := if bitOf old 16 == s.fb TIM_CFG_REF10 then s else s.setF TIM_STATUS_LOCKED 0
  if s.timSource = 0 then s.setF TIM_STATUS_LOCKED 1 else s

/-- CLK10_IN stops while it is the reference (R529). -/
def clk10InLoss (s : Blk) : Blk :=
  if s.fb TIM_CFG_REF10 then (s.setF TIM_STATUS_LOCKED 0).raise 0xA11 0 s.timParent 1 else s

def execClk10InLoss (s : State) : Res := s.on clk10InLoss

/-- PPS_IN has held a level for `k` samples of 1 ns from sample `t` on; a rising edge that has held for 8 is stamped with the first of them (R368,
R529). -/
def ppsInEdge (t : Nat) (level : Bool) (k : Nat) (s : Blk) : Blk :=
  let s := s.advance ((t + k - 1) / 4)
  let run := s.time.pps.run
  let r := s.time.pps.feed 8 t k level
  let s := { s with time := { s.time with pps := r.1 } }
  if r.2.isNone || !level then s
  else
  let n := s.fineAt (t - run) % (1000000000 * ns1)
  let n := if 500000000 * ns1 ≤ n then n - 1000000000 * ns1 else n
  s.measure 2 (-n + sext 16 (s.f TIM_CFG_PPS_DLY) * ns1)

def execPpsInEdge (t : Nat) (level : Bool) (k : Nat) (s : State) : Res := s.on (ppsInEdge t level k)

/-! ### Time over wale (R363) -/

/-- A TSYNC_REQ on a link, with the next TAG; t1 is the departure of its first bit. -/
def Blk.sendTsync (s : Blk) (l : Nat) : Blk :=
  if 2 < l ∨ !s.linkUp l ∨ !s.linkAwake l then s
  else
    let x := s.link l
    let tag := (x.tag + 1) % 65536
    let s := s.setLink l { x with tag := tag, t1 := some (s.lineTime (s.waleStart l true 39)) }
    s.waleOut l x.sent (s.header 4 0 0 tag ++ List.replicate 8 0)

/-- Every 2^TS_LOG2 µs a request leaves on the link of SOURCE, and on that of ALT while it is used. -/
def tsyncReqSend (t : Nat) (s : Blk) : Blk :=
  let s := s.advance t
  let due := match s.time.sentAt.find? fun e => e.1 == 100 with
    | some e => decide (e.2 + s.tsInterval ≤ s.now)
    | none => true
  if !due then s
  else
    let s := { s with time := { s.time with sentAt := aput s.time.sentAt 100 s.now } }
    let src := s.timSource
    let alt := s.timAlt
    let used := s.fb TIM_STATUS_ALT_USED
    let s := if 3 ≤ src then s.sendTsync (src - 3) else s
    if used ∧ 3 ≤ alt ∧ alt ≠ src then s.sendTsync (alt - 3) else s

def execTsyncReqSend (t : Nat) (s : State) : Res := s.on (tsyncReqSend t)

/-- A request is answered with its TAG, its arrival t2 and the departure t3, in fine local time. -/
def tsyncReqReceived (l t2 t3 : Nat) (m : List Nat) (s : Blk) : Blk :=
  if mtypeOf m ≠ 4 ∨ !s.linkUp l then s
  else
    let s := s.takeFreed l m
    if !s.linkAwake l then s
    else s.waleOut l (s.link l).sent (s.header 5 0 0 (m.getD 2 0 % 65536) ++ timeRecord t2 false ++ timeRecord t3 false)

def execTsyncReqReceived (l : Fin 3) (t2 t3 : Nat) (m : List Word) (s : State) : Res :=
  s.on (tsyncReqReceived l t2 t3 (wordsNat m))

/-- An answer, arrived at `t4` in fine local time. -/
def tsyncRspReceived (l t4 : Nat) (m : List Nat) (s : Blk) : Blk :=
  if mtypeOf m ≠ 5 ∨ !s.linkUp l then s
  else
    let s := s.takeFreed l m
    let x := s.link l
    match x.t1 with
    | none => s
    | some t1 =>
      let t4 : Int := t4
      if m.getD 2 0 % 65536 ≠ x.tag ∨ t4 < t1 ∨ t1 + 10000 * ns1 < t4 then s
      else
        let p := payloadOf m
        let t2 := recordTime p
        let t3 := recordTime (p.drop 4)
        let asym := sext 24 (s.rn (WAL_ASYM l)) * ns1 / 1000
        let o := ((t2 - t1) - (t4 - t3) - asym) / 2
        let d := ((t4 - t1) - (t3 - t2)) / 2
        let s := (s.setLink l { x with t1 := none }).setVal (WAL_LINK_DELAY l) (d * 1000 / ns1).toNat 2
        s.measure (3 + l) o

def execTsyncRspReceived (l : Fin 3) (t4 : Nat) (m : List Word) (s : State) : Res :=
  s.on (tsyncRspReceived l t4 (wordsNat m))

/-! ### IEEE 1588 (R365, R366) -/

/-- MODE with 3 treated as 0. -/
def Blk.ptpMode (s : Blk) : Nat := if s.f TIM_PTP_CFG_MODE = 3 then 0 else s.f TIM_PTP_CFG_MODE

/-- The part's clockIdentity: the EUI-64 of the fuse MAC address. -/
def Blk.clockId (s : Blk) : Nat :=
  let mac := s.val SEC_MAC 2 % 2 ^ 48
  mac / 2 ^ 24 * 2 ^ 40 + 0xFFFE * 2 ^ 24 + mac % 2 ^ 24

/-- The source port identity of the PTP port. -/
def Blk.portId (s : Blk) : List Byte := toBE s.clockId 8 ++ [0, 1]

/-- A timestamp field: 48-bit seconds and 32-bit nanoseconds. -/
def ptpStamp (x : Int) : List Byte :=
  let ns := (x / ns1).toNat
  toBE (secOf ns) 6 ++ toBE (nsOf ns) 4

/-- The time of a timestamp field. -/
def stampTime (bs : List Byte) : Int := ((beNat (bs.take 6) * 1000000000 + beNat (slice bs 6 4)) * 65536 : Nat)

/-- A message of the PTP port. -/
def Blk.ptpBytes (s : Blk) (typ seq : Nat) (corr : Int) (logInt : Nat) (body : List Byte) : List Byte :=
  [BitVec.ofNat 8 typ, 0x12] ++ toBE (34 + body.length) 2 ++ [BitVec.ofNat 8 (s.f TIM_PTP_CFG_DOMAIN), 0, 0, 0] ++
    toBE (wrapTo 64 corr) 8 ++ [0, 0, 0, 0] ++ s.portId ++ toBE seq 2 ++
    [if typ = 0 then 0 else if typ = 1 then 1 else if typ = 9 then 3 else 5, BitVec.ofNat 8 logInt] ++ body

/-- The sum of bytes as 16-bit words. -/
def sum16 : List Byte → Nat
  | a :: b :: r => a.toNat * 256 + b.toNat + sum16 r
  | [a] => a.toNat * 256
  | [] => 0

/-- TRANSPORT with 3 treated as 0: Layer 2, UDP over IPv4, UDP over IPv6. -/
def Blk.ptpTransport (s : Blk) : Nat := if s.f TIM_PTP_CFG_TRANSPORT = 3 then 0 else s.f TIM_PTP_CFG_TRANSPORT

/-- A message leaves. One that is completed as it leaves, from what it was `before`, is followed over UDP by two bytes that keep the checksum
valid (R366). -/
def Blk.ptpOut (s : Blk) (port : Nat) (before : Option (List Byte)) (m : List Byte) : Blk :=
  let tail := match before with
    | some b => if s.ptpTransport = 0 then [] else toBE ((sum16 b % 65535 + 65535 - sum16 m % 65535) % 65535) 2
    | none => []
  s.emit (.ptp port s.ptpTransport (m ++ tail))

/-- What a received message's header says. -/
def ptpType (m : List Byte) : Nat := (m.headD 0).toNat % 16
def ptpSeq (m : List Byte) : Nat := beNat (slice m 30 2)
def ptpCorr (m : List Byte) : Int := sext 64 (beNat (slice m 8 8))
def ptpSrc (m : List Byte) : List Byte := slice m 20 10
def ptpTwoStep (m : List Byte) : Bool := bitOf (m.getD 6 0).toNat 1

/-- An Announce as the dataset comparison reads it: grandmaster identity, its qualities in order, steps and sender. -/
def announceOf (m : List Byte) (now : Nat) : Announce :=
  { id := beNat (slice m 20 8), port := beNat (slice m 28 2), seen := now,
    key := [beNat (slice m 53 8), beNat (slice m 47 1), beNat (slice m 48 1), beNat (slice m 49 1), beNat (slice m 50 2),
      beNat (slice m 52 1), beNat (slice m 61 2)] }

/-- Lexicographic order of number lists. -/
def lexLt : List Nat → List Nat → Bool
  | a :: r, b :: q => decide (a < b) || (a == b && lexLt r q)
  | _, _ => false

/-- Whether a dataset is better: by quality between grandmasters, by steps and sender under one. -/
def Announce.better (a b : Announce) : Bool :=
  if a.key.headD 0 = b.key.headD 0 then lexLt [a.key.getD 6 0, a.id, a.port] [b.key.getD 6 0, b.id, b.port]
  else lexLt (a.key.drop 1 |>.take 5 |>.append [a.key.headD 0]) (b.key.drop 1 |>.take 5 |>.append [b.key.headD 0])

/-- The master chosen among those heard within three announce intervals; PTP_MASTER_CHANGE where it differs (R365). -/
def Blk.chooseMaster (s : Blk) : Blk :=
  let life := 3 * logInterval (s.f TIM_PTP_INT_ANN)
  let ms := s.time.masters.filter fun a => decide (s.now < a.seen + life)
  let s := { s with time := { s.time with masters := ms } }
  match ms with
  | [] => s
  | a :: r =>
    let best := r.foldl (fun b x => if x.better b then x else b) a
    if s.val TIM_PTP_PARENT 3 = best.id then s
    else
      let s := { s with time := { s.time with sync := none, ms := none, req := none, pd := none, path := none } }
      (s.setVal TIM_PTP_PARENT best.id 3).raise 0xA13 0 (s.f TIM_PTP_CFG_PORT) (best.id % 2 ^ 24)

/-- t2 - t1 - correction of a Sync gives the offset once the path delay is known. -/
def Blk.syncMeasured (s : Blk) (d : Int) : Blk :=
  let s := { s with time := { s.time with ms := some d, sync := none } }
  match s.time.path with
  | some p => s.measure 1 (-(d - p))
  | none => s

/-- A mean path delay, u48 ps in TIM_PTP_DELAY. -/
def Blk.pathMeasured (s : Blk) (d : Int) : Blk :=
  { s with time := { s.time with path := some d, req := none, pd := none } }.setVal TIM_PTP_DELAY
    ((d * 1000 / ns1).toNat % 2 ^ 48) 2

/-- A message at a slave. -/
def Blk.ptpSlave (s : Blk) (rx : Int) (m : List Byte) : Blk :=
  let mine := beNat (ptpSrc m |>.take 8) == s.val TIM_PTP_PARENT 3
  let forMe := slice m 44 10 == s.portId
  let p2p := s.fb TIM_PTP_CFG_DELAY
  match ptpType m with
  | 0xB =>
    let a := announceOf m s.now
    { s with time := { s.time with masters := a :: s.time.masters.filter fun x => x.id != a.id || x.port != a.port } }.chooseMaster
  | 0 =>
    if !mine then s
    else if ptpTwoStep m then { s with time := { s.time with sync := some (ptpSeq m, rx, ptpCorr m) } }
    else s.syncMeasured (rx - stampTime (m.drop 34) - ptpCorr m)
  | 8 =>
    match s.time.sync with
    | some (q, t2, c) => if mine && q == ptpSeq m then s.syncMeasured (t2 - stampTime (m.drop 34) - c - ptpCorr m) else s
    | none => s
  | 9 =>
    match s.time.req, s.time.ms with
    | some (q, t3), some d =>
      if mine && forMe && !p2p && q == ptpSeq m then s.pathMeasured ((d + (stampTime (m.drop 34) - t3 - ptpCorr m)) / 2) else s
    | _, _ => s
  | 3 =>
    match s.time.req with
    | some (q, t1) =>
      if !(forMe && p2p && q == ptpSeq m) then s
      else if ptpTwoStep m then { s with time := { s.time with pd := some (q, rx - t1, stampTime (m.drop 34), ptpCorr m) } }
      else s.pathMeasured ((rx - t1 - ptpCorr m) / 2)
    | none => s
  | 0xA =>
    match s.time.pd with
    | some (q, d, t2, c) =>
      if forMe && p2p && q == ptpSeq m then s.pathMeasured ((d - (stampTime (m.drop 34) - t2) - c - ptpCorr m) / 2) else s
    | none => s
  | _ => s

/-- A request that is owed an answer: Delay_Req at a master, Pdelay_Req wherever delays are peer-to-peer. -/
def Blk.ptpAsked (s : Blk) (rx : Int) (m : List Byte) : Blk :=
  let owe := fun peer => { s with time := { s.time with owed := s.time.owed ++ [⟨peer, ptpSrc m, ptpSeq m, rx, ptpCorr m⟩] } }
  match ptpType m with
  | 1 => if s.ptpMode = 2 ∧ !s.fb TIM_PTP_CFG_DELAY then owe false else s
  | 2 => if s.fb TIM_PTP_CFG_DELAY then owe true else s
  | _ => s

/-- An IEEE 1588 message whose timestamp point arrived at the 1 ns sample `t`. -/
def ptpMessage (port t : Nat) (m : List Byte) (s : Blk) : Blk :=
  let s := s.advance (t / 4)
  if m.length < 34 ∨ (m.getD 1 0).toNat % 16 ≠ 2 ∨ 1 < (m.getD 1 0).toNat / 16 ∨ (m.getD 4 0).toNat ≠ s.f TIM_PTP_CFG_DOMAIN ∨
      s.ptpMode = 0 ∨ port ≠ s.f TIM_PTP_CFG_PORT then s
  else
    let rx := s.fineAt t
    let s := s.ptpAsked rx m
    if s.ptpMode = 1 then s.ptpSlave rx m else s

def execPtpMessage (port : Fin 2) (t : Nat) (m : List Byte) (s : State) : Res := s.on (ptpMessage port t m)

/-- The next sequence number of a message type. -/
def Blk.ptpNext (s : Blk) (typ : Nat) : Blk × Nat :=
  let q := alook 0 s.time.seqs typ
  ({ s with time := { s.time with seqs := aput s.time.seqs typ ((q + 1) % 65536), sentAt := aput s.time.sentAt typ s.now } }, q)

/-- Whether a message type is due by its interval. -/
def Blk.ptpDue (s : Blk) (typ code : Nat) : Bool :=
  match s.time.sentAt.find? fun e => e.1 == typ with
  | some e => decide (e.2 + logInterval code ≤ s.now)
  | none => true

/-- An interval code as the octet of a header. -/
def logOctet (v : Nat) : Nat := wrapTo 8 (max (-7) (min 4 (sext 4 v)))

/-- Announce from TIM_PTP_DS. -/
def Blk.announceBody (s : Blk) : List Byte :=
  let d0 := s.rn (TIM_PTP_DS 0)
  let d1 := s.rn (TIM_PTP_DS 1)
  List.replicate 13 0 ++ toBE (bits d0 23 16) 1 ++ toBE (bits d0 15 8) 1 ++ toBE (bits d0 7 0) 1 ++ toBE (bits d1 23 8) 2 ++
    toBE (bits d1 7 0) 1 ++ toBE s.clockId 8 ++ [0, 0, 0xA0]

/-- The PTP port sends what is owed or due; its timestamp point leaves at the 1 ns sample `t`. -/
def ptpSend (port t : Nat) (s : Blk) : Blk :=
  let s := s.advance (t / 4)
  let tx := s.fineAt t
  if s.ptpMode = 0 ∨ port ≠ s.f TIM_PTP_CFG_PORT then s
  else
    match s.time.owed with
    | o :: rest =>
      let s := { s with time := { s.time with owed := rest } }
      if o.peer then
        let m := fun c => s.ptpBytes 3 o.seq c 0x7F (List.replicate 10 0 ++ o.id)
        s.ptpOut port (some (m o.corr)) (m (o.corr + (tx - o.t2)))
      else s.ptpOut port none (s.ptpBytes 9 o.seq o.corr (logOctet (s.f TIM_PTP_INT_DREQ)) (ptpStamp o.t2 ++ o.id))
    | [] =>
      if s.ptpMode = 2 then
        if s.ptpDue 0xB (s.f TIM_PTP_INT_ANN) then
          let (s, q) := s.ptpNext 0xB
          s.ptpOut port none (s.ptpBytes 0xB q 0 (logOctet (s.f TIM_PTP_INT_ANN)) s.announceBody)
        else if s.ptpDue 0 (s.f TIM_PTP_INT_SYNC) then
          let (s, q) := s.ptpNext 0
          let m := s.ptpBytes 0 q 0 (logOctet (s.f TIM_PTP_INT_SYNC))
          s.ptpOut port (some (m (List.replicate 10 0))) (m (ptpStamp tx))
        else s
      else
        let s := s.chooseMaster
        let p2p := s.fb TIM_PTP_CFG_DELAY
        let typ := if p2p then 2 else 1
        if s.ptpDue typ (s.f TIM_PTP_INT_DREQ) && (p2p || s.time.ms.isSome) then
          let (s, q) := s.ptpNext typ
          let s := { s with time := { s.time with req := some (q, tx), pd := none } }
          s.ptpOut port none (s.ptpBytes typ q 0 0x7F (ptpStamp tx ++ (if p2p then List.replicate 10 0 else [])))
        else s

def execPtpSend (port : Fin 2) (t : Nat) (s : State) : Res := s.on (ptpSend port t)

/-! ### Captures (R371) -/

def Blk.fifo (s : Blk) (n : Nat) : List Int := alook [] s.time.fifos n

/-- The records of an input replaced; TCI_STATUS shows how many. -/
def Blk.putFifo (s : Blk) (n : Nat) (l : List Int) : Blk :=
  { s with time := { s.time with fifos := aput s.time.fifos n l } }.setF (TCI_STATUS_HELD n) l.length

/-- An input that has held a level for `k` samples of 1 ns from sample `t` on. -/
def tciCapture (n t : Nat) (level : Bool) (k : Nat) (s : Blk) : Blk :=
  let s := s.advance ((t + k - 1) / 4)
  let r := (alook ⟨false, 0⟩ s.time.tcis n : Filt).feed (atLeast1 (s.f (TCI_CFG_FILT_N n))) t k level
  let run := (alook ⟨false, 0⟩ s.time.tcis n : Filt).run
  let s := { s with time := { s.time with tcis := aput s.time.tcis n r.1 } }
  let edge := s.f (TCI_CFG_EDGE n)
  if r.2.isNone || !(if level then edge == 1 || edge == 3 else edge == 2 || edge == 3) then s
  else
    let x := s.fineAt (t - run)
    let l := s.fifo n
    if 16 ≤ l.length then
      if s.fb (TCI_STATUS_OVERRUN n) then s else (s.setF (TCI_STATUS_OVERRUN n) 1).raise 0xA22 n n 0
    else
      let s := (s.putFifo n (l ++ [x])).count 0x7B
      if s.fb (TCI_CFG_EVT n) then s.raise 0xA21 n n (nsOf (x / ns1).toNat % 2 ^ 24) else s

def execTciCapture (n : Fin 4) (t : Nat) (level : Bool) (k : Nat) (s : State) : Res := s.on (tciCapture n t level k)

/-- Where the second host path keeps its own copy of a word. -/
def onPath (p : Path) (a : Nat) : Nat :=
  match p with
  | .spi => a
  | .dgm => a + 0x1000000

/-- A read of TCI_FIFO word 0: the oldest record is removed and snapshot for the path; VALID shows that there was one. -/
def tciFifoRead (p : Path) (n : Nat) (s : Blk) : Blk :=
  let put := fun (s : Blk) (ws : List Nat) => (List.range 4).foldl (fun s i => s.wn (onPath p (TCI_FIFO n + i)) (ws.getD i 0)) s
  match s.fifo n with
  | [] => put s [0, 0, 0, 0]
  | x :: r => put (s.putFifo n r) (timeRecord x true)

def execTciFifoRead (p : Path) (n : Fin 4) (s : State) : Res := s.on (tciFifoRead p n)

end Sys2Proof.Machine
end

