-- ==== Sys2Proof/Machine/Ingest.lean ====
section
/-!
DEFINITION. The ingest protocol (R115 to R122): datagrams, streams, reorder slots, acknowledgement and retransmission.
-/

namespace Sys2Proof.Machine

/-- The requester port of ingest (R378). -/
def ingestPort : Nat := 0

/-! ### Streams (R118, R119) -/

/-- The next expected number. -/
def Blk.nextSeq (s : Blk) (k : Nat) : Nat := s.val (PGE_ING_NEXT_SEQ k) 2

def Stream.credit (x : Stream) : Nat := 64 - x.slots.length

/-- The datagram held for a number. -/
def Stream.held (x : Stream) (q : Nat) : Option Slot := x.slots.find? fun d => d.seq == q

/-- A stream as changed: BOUND and CREDIT show it; a gap begins, goes on or ends (R121). -/
def Blk.putStream (s : Blk) (k : Nat) (x : Stream) : Blk :=
  let gap := !x.slots.isEmpty && (x.held (s.nextSeq k)).isNone
  let x := { x with gapSince := if !gap then none else if x.gapSince.isSome then x.gapSince else some s.now }
  ((s.setStream k x).setF (PGE_ING_STATUS_BOUND k) (b2n x.bound.isSome)).setF (PGE_ING_STATUS_CREDIT k) x.credit

/-- A stream is reset: the next expected number, no slots, unbound (R118). -/
def Blk.resetStream (s : Blk) (k seq : Nat) : Blk := (s.setVal (PGE_ING_NEXT_SEQ k) seq 2).putStream k Stream.init

def execStreamReset (k : Fin 4) (s : State) : Res := s.on fun b => b.resetStream k 0

/-- A datagram is dropped and counted. -/
def Blk.ingestDrop (s : Blk) (k : Nat) : Blk := (s.incSat (PGE_ING_DROPS k)).count 0x19

/-- Where a number is staged in image memory. -/
def Blk.stageAddr (s : Blk) (k q : Nat) : Nat := s.val PGE_ING_STAGE 2 / 65536 * 65536 + (k * 64 + q % 64) * 8192

/-! ### Datagrams (R115, R118, R119) -/

def dgNat (bs : List Byte) (i n : Nat) : Nat := beNat (slice bs i n)

/-- Whether the header is well formed: version, a type of a sender, and a payload of the length it states. -/
def dgOk (bs : List Byte) : Bool :=
  dgNat bs 2 1 == 1 && decide (1 ≤ dgNat bs 3 1 ∧ dgNat bs 3 1 ≤ 4) && decide (dgNat bs 6 2 ≤ 8192) &&
    bs.length == 32 + dgNat bs 6 2

/-- Whether a source is the one a stream is bound to; any is while it is unbound. -/
def Stream.from (x : Stream) (src : Source) : Bool :=
  match x.bound with
  | some b => b.2.ip == src.ip && b.2.udp == src.udp
  | none => true

/-- A RESET datagram: honoured while REMOTE_RESET is 1. -/
def Blk.remoteReset (s : Blk) (k : Nat) (src : Source) (seq : Nat) : Blk :=
  if s.fb PGE_ING_CFG_REMOTE_RESET && (s.stream k).from src then s.resetStream k seq else s.ingestDrop k

/-- A datagram takes its slot and is staged, or is a duplicate, or lies beyond the window. -/
def Blk.takeDatagram (s : Blk) (port k : Nat) (src : Source) (bs : List Byte) : Blk :=
  let x := s.stream k
  let q := dgNat bs 8 4
  let d := (q + 2 ^ 32 - s.nextSeq k) % 2 ^ 32
  let via := if x.bound.isSome then some (port, src) else none
  if 2 ^ 31 ≤ d then s.putStream k { x with bound := via, ackNow := x.bound.isSome }
  else if 64 ≤ d then (s.putStream k { x with bound := via }).ingestDrop k
  else if (x.held q).isSome then s.putStream k { x with bound := via, ackNow := true }
  else
    let slot : Slot :=
      { seq := q, typ := dgNat bs 3 1, target := dgNat bs 12 2, gen := dgNat bs 14 2 % 4096, offset := dgNat bs 16 8, len := dgNat bs 6 2 }
    let s := s.imgWrite ingestPort (s.stageAddr k q) (bs.drop 32)
    let x := { x with bound := some (port, src), slots := x.slots ++ [slot], changed := true,
                      ackNow := x.ackNow || bitOf (dgNat bs 5 1) 0 }
    s.putStream k x

/-- A datagram at the ingest port of a controller. A stream that the store plays on drops it (R421). -/
def ingestReceive (port : Nat) (d : Datagram) (s : Blk) : Blk :=
  let bs := d.bytes
  if !s.fb PGE_ING_CFG_EN || !d.sumOk || decide (bs.length < 32) || dgNat bs 0 2 != 0x464E then s
  else
    let k := dgNat bs 4 1 % 4
    if !dgOk bs || bitOf (s.f STO_STATUS_PLAYING) k || s.underTest 9 then s.ingestDrop k
    else if dgNat bs 3 1 = 4 then s.remoteReset k d.src (dgNat bs 8 4)
    else if !(s.stream k).from d.src then s.ingestDrop k
    else s.takeDatagram port k d.src bs

def execIngestDatagramReceive (port : Fin 2) (d : Datagram) (s : State) : Res := s.on (ingestReceive port d)

/-- A RESET datagram on its own row: one of another type does nothing. -/
def execIngestReset (port : Fin 2) (d : Datagram) (s : State) : Res :=
  s.on fun b => if dgNat d.bytes 3 1 = 4 then ingestReceive port d b else b

/-! ### Applying (R116, R122) -/

/-- The bits a word of a buffer descriptor has (R98). -/
def bdMask : Nat → Nat
  | 0 => 0xfffff0
  | 2 | 4 => 0xfff
  | 7 => 0x1ffff
  | _ => 0xffffff

/-- The eight 32-bit words of a payload. -/
def leWords (bs : List Byte) : List Nat := (List.range 8).map fun i => leNat (slice bs (4 * i) 4)

/-- DATA through a requester port: the payload at BASE + OFFSET of a descriptor, none where it is rejected. -/
def Blk.applyData (s : Blk) (port target gen offset : Nat) (bs : List Byte) : Option Blk :=
  let w := s.bdWords target
  let base := w.getD 1 0 + w.getD 2 0 % 4096 * 2 ^ 24
  let len := w.getD 3 0 + w.getD 4 0 % 4096 * 2 ^ 24
  if 4096 ≤ target ∨ !bitOf (w.headD 0) 11 ∨ bits (w.headD 0) 23 12 ≠ gen ∨ len < offset + bs.length then none
  else some (s.imgWrite port (base + offset) bs)

/-- BDSET: the eight words of a descriptor, word 0 first. -/
def Blk.applyBdset (s : Blk) (target : Nat) (bs : List Byte) : Option Blk :=
  if 4096 ≤ target ∨ bs.length ≠ 32 then none
  else
    let ws := leWords bs
    some ((List.range 8).foldl (fun s i => s.wn (bdAddr target i) (ws.getD i 0 % 2 ^ 24 &&& bdMask i)) s)

/-- DESC: whether it must wait for room on its page ring. -/
def Blk.descWaits (s : Blk) (target : Nat) (bs : List Byte) : Bool :=
  decide (target < 4) && bs.length == 32 && s.fb (PGE_TRK_CFG_DESC_SRC target) && s.ringFull target

/-- DESC: a page descriptor put on its ring. -/
def Blk.applyDesc (s : Blk) (target : Nat) (bs : List Byte) : Option Blk :=
  if 4 ≤ target ∨ bs.length ≠ 32 ∨ !s.fb (PGE_TRK_CFG_DESC_SRC target) then none
  else some (s.ringPut target (leWords bs))

/-- INGEST_REJECT of a datagram. -/
def Blk.ingestReject (s : Blk) (k typ seq : Nat) : Blk :=
  (s.setF (PGE_ING_STATUS_REJECT k) 1).raise 0x20B k (k * 2 ^ 22 + typ) (seq % 2 ^ 24)

/-- The next number has been applied, or rejected, which counts as applied: its slot is free. -/
def Blk.slotDone (s : Blk) (k : Nat) (d : Slot) (r : Option Blk) : Blk :=
  let s := match r with
    | some t => t
    | none => s.ingestReject k d.typ d.seq
  let s := (s.setVal (PGE_ING_NEXT_SEQ k) ((d.seq + 1) % 2 ^ 32) 2).count 0x18
  let x := s.stream k
  let n := x.applied + 1
  s.putStream k { x with slots := x.slots.filter (fun y => y.seq != d.seq), applied := n, changed := true, ackNow := x.ackNow || decide (16 ≤ n),
                         gapSince := none, reqs := 0 }

/-- The datagram whose turn it is, if it is of a type. -/
def Blk.turn (s : Blk) (k typ : Nat) : Option Slot :=
  match (s.stream k).held (s.nextSeq k) with
  | some d => if d.typ = typ then some d else none
  | none => none

/-- The staged payload of a slot, and the reading of it. -/
def Blk.staged (s : Blk) (k : Nat) (d : Slot) : List Byte := s.imgRead (s.stageAddr k d.seq) d.len

def Blk.readStage (s : Blk) (k : Nat) (d : Slot) : Blk := s.access ingestPort (s.stageAddr k d.seq) d.len

/-- DATA comes to its turn; an uncorrectable error in its slot rejects it (R391). -/
def ingestData (k : Nat) (err : MemErr) (s : Blk) : Blk :=
  match s.turn k 1 with
  | none => s
  | some d =>
    let bs := s.staged k d
    let s := (s.readStage k d).ecc ingestPort (s.stageAddr k d.seq) err
    s.slotDone k d (if s.bad err then none else s.applyData ingestPort d.target d.gen d.offset bs)

def execIngestData (k : Fin 4) (err : MemErr) (s : State) : Res := s.on (ingestData k err)

def ingestBdset (k : Nat) (s : Blk) : Blk :=
  match s.turn k 2 with
  | none => s
  | some d =>
    let bs := s.staged k d
    let s := s.readStage k d
    s.slotDone k d (s.applyBdset d.target bs)

def execIngestBdset (k : Fin 4) (s : State) : Res := s.on (ingestBdset k)

/-- DESC: with its ring full the stream waits. -/
def ingestDesc (k : Nat) (s : Blk) : Blk :=
  match s.turn k 3 with
  | none => s
  | some d =>
    let bs := s.staged k d
    if s.descWaits d.target bs then s
    else
      let s := s.readStage k d
      s.slotDone k d (s.applyDesc d.target bs)


/-! ### Answers (R120, R121) -/

/-- A datagram of the controller: the header with a bitmap in OFFSET. -/
def ingestHeader (typ k seq target bitmap : Nat) : List Byte :=
  toBE 0x464E 2 ++ [1, BitVec.ofNat 8 typ, BitVec.ofNat 8 k, 0, 0, 0] ++ toBE seq 4 ++ toBE target 2 ++ [0, 0] ++ toBE bitmap 8 ++
    List.replicate 8 0

/-- The bitmap of numbers from e + 1 on that `p` selects. -/
def bitmap (p : Nat → Bool) (n : Nat) : Nat := (List.range n).foldl (fun m i => if p i then m + 2 ^ i else m) 0

/-- The datagram leaves for the source bound. -/
def Blk.sendIngest (s : Blk) (k : Nat) (bs : List Byte) : Blk :=
  match (s.stream k).bound with
  | some b => s.emit (.udp b.1 (s.f PGE_ING_CFG_UDP_PORT) b.2 bs)
  | none => s

/-- An ACK is due at once, or 100 µs after the last one while anything has changed. -/
def ingestAck (k t : Nat) (s : Blk) : Blk :=
  let s := s.advance t
  let x := s.stream k
  if x.bound.isNone || !(x.ackNow || (x.changed && decide (x.lastAck + 25000 ≤ s.now))) then s
  else
    let e := s.nextSeq k
    let m := bitmap (fun i => (x.held ((e + 1 + i) % 2 ^ 32)).isSome) 64
    let s := s.sendIngest k (ingestHeader 0x81 k e x.credit m)
    s.putStream k { x with ackNow := false, changed := false, applied := 0, lastAck := s.now }

def execIngestAck (k : Fin 4) (t : Nat) (s : State) : Res := s.on (ingestAck k t)

/-- When the next RETX_REQ of a gap is due, in POS clocks. -/
def Blk.retxDue (s : Blk) (x : Stream) (since : Nat) : Nat :=
  let step := 2500 * atLeast1 (s.f PGE_ING_RETX_INTERVAL)
  if x.reqs = 0 then since + 250 * atLeast1 (s.f PGE_ING_RETX_DELAY)
  else if x.reqs < atLeast1 (s.f PGE_ING_RETX_MAX) then x.lastReq + step
  else x.lastReq + 8 * step

/-- A RETX_REQ names the missing numbers below the highest one held; the request that makes MAX raises INGEST_GAP. -/
def retxReq (k t : Nat) (s : Blk) : Blk :=
  let s := s.advance t
  let x := s.stream k
  match x.gapSince with
  | none => s
  | some since =>
    if s.now < s.retxDue x since then s
    else
      let e := s.nextSeq k
      let top := x.slots.foldl (fun m d => max m ((d.seq + 2 ^ 32 - e) % 2 ^ 32)) 0
      let m := bitmap (fun i => decide (i + 1 < top) && (x.held ((e + 1 + i) % 2 ^ 32)).isNone) 64
      let s := ((s.sendIngest k (ingestHeader 0x82 k e 0 m)).incSat (PGE_ING_RETX_REQS k)).count 0x1A
      let s := s.putStream k { x with reqs := x.reqs + 1, lastReq := s.now }
      if x.reqs + 1 = atLeast1 (s.f PGE_ING_RETX_MAX) then (s.setF (PGE_ING_STATUS_GAP k) 1).raise 0x20A k k (e % 2 ^ 24) else s

def execRetxReq (k : Fin 4) (t : Nat) (s : State) : Res := s.on (retxReq k t)

end Sys2Proof.Machine
end

