-- ==== Sys2Proof/Machine/Store.lean ====
section
/-!
DEFINITION. The job store (R396 to R425): discovery, the log and its bands, reels and their records, the operations of ring 8 and
their completions, NAND reads, and playing. Reel bytes are held plain, and are encrypted as a band page is programmed (R419); the parity of
their codewords is not laid down by the spec.
-/

namespace Sys2Proof.Machine

/-- The requester port of the store (R378). -/
def storePort : Nat := 1

def Blk.withSto (s : Blk) (f : Sto → Sto) : Blk := { s with sto := f s.sto }

def Blk.stoState (s : Blk) : Nat := s.f STO_STATUS_STATE

/-! ### Bands (R399, R415, R417, R418) -/

def Sto.band (x : Sto) (n : Nat) : Band := alook Band.init x.bands n
def Sto.putBand (x : Sto) (n : Nat) (b : Band) : Sto := { x with bands := aput x.bands n b }

/-- Blocks of a band, and the good ones among them. -/
def Geo.blocksOf (g : Geo) : Nat := g.ces.length * g.luns * g.planes
def Sto.good (x : Sto) (g : Geo) (n : Nat) : Nat := g.blocksOf - (x.bad.filter fun b => b.block == n).length

/-- Codewords of one band page. -/
def Sto.pageCws (x : Sto) (g : Geo) (n : Nat) : Nat := g.perPage * x.good g n

/-- Bands that may be used: half of their blocks are good. -/
def Sto.usable (x : Sto) (g : Geo) : List Nat :=
  ((List.range (g.blocks - 1)).map fun i => i + 1).filter fun n => decide (g.blocksOf ≤ 2 * x.good g n)

/-- Bands that hold nothing and wait for no erase. -/
def Sto.free (x : Sto) (g : Geo) : List Nat := (x.usable g).filter fun n => !(x.band n).used

/-- Reels that are not retired, in log order. -/
def Sto.live (x : Sto) : List Reel := sortBy (fun a b => decide (a.seq ≤ b.seq)) (x.reels.filter fun r => r.st != 2)

/-- Whether a band holds a codeword of a reel in state `p`. -/
def Sto.holds (x : Sto) (p : Reel → Bool) (n : Nat) : Bool := x.reels.any fun r => p r && r.cws.any fun c => c.band == n

/-- Band pages that are not programmed yet, in log order. -/
def Sto.pages (x : Sto) : List Prog := x.progs ++ x.queue

/-- Tags in use (R411). -/
def Sto.tags (x : Sto) : Nat := x.progs.length + x.reads.length + x.erasing.length

/-- Whether a NAND read is one of an entry of ring 8. -/
def ReadFor.ring : ReadFor → Bool
  | .play _ _ => true
  | .copy _ _ => true
  | .patrol _ _ => false
  | .move _ _ _ => false

/-- Tags held by operations of ring-8 entries. -/
def Sto.ringTags (x : Sto) : Nat := (x.progs.filter fun p => p.ring).length + (x.reads.filter fun r => r.2.ring).length

/-- Whether an operation may take a tag: there are 512, of which 32 are kept for maintenance (R411). -/
def Sto.mayHold (x : Sto) (ring : Bool) : Bool := decide (x.tags < 512) && (!ring || decide (x.ringTags < 480))

/-- A tag that is not in use. -/
def Sto.newTag (x : Sto) : Nat :=
  ((List.range 512).find? fun t => !(x.reads.any fun r => r.1 == t) && !(x.progs.any fun p => p.tag == t) && !(x.erasing.any fun e => e.1 == t)).getD 0

/-- The engine pauses because ring-8 entries hold 480 tags; each pause is counted once. -/
def Blk.tagPause (s : Blk) : Blk :=
  if s.sto.tagStall || decide (s.sto.ringTags < 480) then s
  else ((s.incSat STO_TAG_STALLS).count 0x78).withSto fun x => { x with tagStall := true }

/-- The registers that show the store. -/
def Blk.showSto (s : Blk) : Blk :=
  let x := s.sto
  let s := (s.wn STO_REELS x.live.length).wn STO_TAGS x.tags
  let s := s.setF STO_STATUS_PLAYING (x.plays.foldl (fun m p => if bitOf m p.1 then m else m + 2 ^ p.1) 0)
  let s := s.wn STO_BAD_BLOCKS (min u24max x.bad.length)
  match x.geo with
  | none => s
  | some g =>
    let us := x.usable g
    let er := us.map fun n => (x.band n).erase
    let s := (s.wn STO_BANDS_FREE (x.free g).length).wn STO_BANDS_TOTAL us.length
    let s := (s.wn STO_ERASE_MIN ((er.min?).getD 0 % 2 ^ 24)).wn STO_ERASE_MAX ((er.max?).getD 0 % 2 ^ 24)
    s.setF STO_STATUS_LOW_SPACE (b2n (decide ((x.free g).length ≤ s.f STO_SPACE_CFG_LOW_BANDS)))

/-! ### Completions (R408, R411) -/

/-- A completion waits for ring 9; its reel state is that of STAT and CREATE. -/
def Blk.complete (s : Blk) (op status st tag reel val : Nat) (tail : List Nat) : Blk :=
  let ws := [op * 65536 + status * 256 + (if op = 1 ∨ op = 7 then st else 0), tag, reel, val % 2 ^ 24, val / 2 ^ 24 % 2 ^ 24] ++ (List.range 3).map fun i => tail.getD i 0
  s.withSto fun x => { x with cpls := x.cpls ++ [ws] }

/-- The oldest completion is posted; a stall is counted while ring 9 is full. -/
def completionPost (s : Blk) : Blk :=
  match s.sto.cpls with
  | [] => s
  | ws :: r =>
    if s.ringFull 9 then
      if s.sto.cplStall then s else (s.incSat STO_CPL_STALLS).withSto fun x => { x with cplStall := true }
    else (s.ringPut 9 ws).withSto fun x => { x with cpls := r, cplStall := false }

def execCompletionPost (s : State) : Res := s.on completionPost

/-! ### Reels -/

def Sto.reel (x : Sto) (id : Nat) : Option Reel := x.reels.find? fun r => r.id == id
def Sto.putReel (x : Sto) (r : Reel) : Sto := { x with reels := x.reels.map fun q => if q.seq = r.seq then r else q }

/-- Whether a record header meets R404. -/
def recOk (h : List Byte) : Bool :=
  let typ := dgNat h 3 1
  dgNat h 0 2 == 0x464E && dgNat h 2 1 == 1 && decide (1 ≤ typ ∧ typ ≤ 3) && decide (dgNat h 6 2 ≤ 8192) &&
    (typ == 3 || dgNat h 24 4 == 0) && dgNat h 28 4 == 0

/-- Records parsed as bytes arrive (R405): header bytes so far and payload bytes to come; none on a bad header. -/
def parseRecs : List Byte → List Byte → Nat → Option (List Byte × Nat)
  | [], hdr, rem => some (hdr, rem)
  | b :: r, hdr, rem =>
    if rem ≠ 0 then parseRecs r hdr (rem - 1)
    else
      let h := hdr ++ [b]
      if h.length < 32 then parseRecs r h 0
      else if recOk h then parseRecs r [] (dgNat h 6 2)
      else none

/-! ### The log head (R400, R401, R403, R417, R418) -/

/-- STORE_LOW_SPACE once each time the free bands fall to LOW_BANDS; there were `before`. -/
def Blk.lowSpace (before : Nat) (s : Blk) : Blk :=
  match s.sto.geo with
  | none => s
  | some g =>
    let n := (s.sto.free g).length
    let low := s.f STO_SPACE_CFG_LOW_BANDS
    if low < before ∧ n ≤ low then s.raise 0xC06 0 n 0 else s

/-- A free band is taken: the least erased, the lowest number among equals. Its header names the newest catalogue (R400). -/
def Blk.openBand (s : Blk) : Blk :=
  match s.sto.geo with
  | none => s
  | some g =>
    let free := s.sto.free g
    match (free.map fun n => (s.sto.band n).erase).min? with
    | none => s
    | some m =>
      let n := (free.find? fun n => (s.sto.band n).erase == m).getD 0
      let s := s.withSto fun x =>
        let b := x.band n
        { (x.putBand n { b with seq := x.bandSeq + 1, used := true, patrolAt := s.now, cat := x.catAt }) with
            head := some n, page := 0, bandSeq := x.bandSeq + 1, fill := [⟨0, 0, 0, 0, 3⟩], fillRing := false, wrote := x.wrote + 1 }
      s.lowSpace free.length

/-- The offset of the first record header that starts in a codeword, all ones if none does; `a` is where a record starts (R400). -/
def firstRec (bs : List Byte) (off len : Nat) : Nat → Nat → Nat
  | 0, _ => 0xffff
  | n + 1, a =>
    if off + len ≤ a then 0xffff
    else if off ≤ a then a - off
    else firstRec bs off len n (a + 32 + dgNat (slice bs a 32) 6 2)

/-- The metadata of a codeword (R400). -/
def Sto.cwMeta (x : Sto) (c : LogCw) : List Byte :=
  let first := match x.reels.find? fun r => r.seq == c.reel && c.kind == 0 with
    | some r => firstRec r.bytes c.off c.len (c.off + c.len + 1) 0
    | none => 0xffff
  toLE c.reel 5 ++ toLE c.idx 5 ++ toLE (if c.kind = 0 then c.len else 0) 2 ++ toLE first 2 ++ [BitVec.ofNat 8 c.kind, 0]

/-- The reel data of a codeword as the flash holds it (R419); none for the kinds whose content the spec does not lay out. -/
def Sto.cwData (x : Sto) (c : LogCw) : List Byte :=
  match x.reels.find? fun r => r.seq == c.reel && c.kind == 0 with
  | some r => xtsEncrypt x.key (c.reel * 2 ^ 40 + c.idx) (slice r.bytes c.off c.len ++ List.replicate (4096 - c.len) 0)
  | none => []

/-- Band pages take tags in their order, and are programmed, `n` of them at most. -/
def Blk.issueProgs : Nat → Blk → Blk
  | 0, s => s
  | n + 1, s =>
    match s.sto.queue with
    | [] => s
    | p :: r =>
      if !s.sto.mayHold p.ring then (if p.ring then s.tagPause else s)
      else
        let t := s.withSto fun x => { x with queue := r, progs := x.progs ++ [{ p with tag := x.newTag }] }
        Blk.issueProgs n (t.emit (.program p.band p.page (p.cws.map fun c => (s.sto.cwMeta c, s.sto.cwData c))))

/-- The band page being filled is to be programmed, padded with KIND 0xFF; the band is left when it was its last page. -/
def Blk.issuePage (s : Blk) : Blk :=
  match s.sto.geo, s.sto.head with
  | some g, some n =>
    (s.withSto fun x =>
      if x.fill.isEmpty then x
      else
        let pad := List.replicate (x.pageCws g n - x.fill.length) (⟨0, 0, 0, 0, 0xff⟩ : LogCw)
        let p : Prog := { tag := 0, band := n, page := x.page, first := x.wrote - x.fill.length, ring := x.fillRing, cws := x.fill ++ pad }
        { x with queue := x.queue ++ [p], fill := [], fillRing := false, page := x.page + 1, sinceCat := x.sinceCat + 1,
                 head := if g.pages ≤ x.page + 1 then none else some n }).issueProgs 1
  | _, _ => s

/-- One codeword enters the log head, for an entry of ring 8 or for maintenance. -/
def Blk.putCw (s : Blk) (c : LogCw) (bad ring : Bool) : Blk :=
  let s := if s.sto.head.isNone then s.openBand else s
  match s.sto.geo, s.sto.head with
  | some g, some n =>
    let s := s.withSto fun x =>
      { x with fill := x.fill ++ [c], fillRing := x.fillRing || ring, wrote := x.wrote + 1, lastByte := s.now,
               catAt := if c.kind = 2 then some (n, x.page) else x.catAt,
               reels := x.reels.map fun r => if c.kind = 0 ∧ r.seq = c.reel then
                 { r with cws := r.cws ++ [⟨c.idx, c.off, c.len, n, x.page, bad⟩] } else r }
    if s.sto.pageCws g n ≤ s.sto.fill.length then s.issuePage else s
  | _, _ => s

/-- A catalogue is written at the log head. -/
def Blk.catalogue (s : Blk) : Blk := (s.putCw ⟨0, 0, 0, 4096, 2⟩ false false).withSto fun x => { x with sinceCat := 0 }

/-- One codeword enters the log head; no 64 band pages go by without a catalogue (R401). -/
def Blk.logCw (s : Blk) (c : LogCw) (bad ring : Bool) : Blk := (if 62 ≤ s.sto.sinceCat then s.catalogue else s).putCw c bad ring

/-- Codewords a reel has. -/
def Sto.count (x : Sto) (seq : Nat) : Nat := ((x.reels.find? fun r => r.seq == seq).map fun r => r.cws.length).getD 0

/-- Bytes of a reel enter the log: the last codeword in the page is filled up first, then whole ones follow. -/
def Blk.logBytes (s : Blk) (seq : Nat) : Nat → Nat → Nat → Blk
  | 0, _, _ => s
  | fuel + 1, off, n =>
    if n = 0 then s
    else
      match s.sto.fill.getLast?.filter fun c => c.kind == 0 && c.reel == seq && decide (c.len < 4096) && c.off + c.len == off with
      | some c =>
        let k := min n (4096 - c.len)
        let s := s.withSto fun x =>
          { x with fill := x.fill.dropLast ++ [{ c with len := c.len + k }],
                   reels := x.reels.map fun r => if r.seq = seq then
                     { r with cws := r.cws.map fun d => if d.off = c.off then { d with len := c.len + k } else d } else r }
        Blk.logBytes s seq fuel (off + k) (n - k)
      | none =>
        let k := min n 4096
        Blk.logBytes (s.logCw ⟨seq, s.sto.count seq, off, k, 0⟩ false true) seq fuel (off + k) (n - k)

/-- Extents of a reel: runs of consecutive band pages (R402). -/
def Reel.extents (r : Reel) : Nat :=
  (List.range r.cws.length).countP fun i =>
    match r.cws[i]? with
    | none => false
    | some c =>
      match (if i = 0 then none else r.cws[i - 1]?) with
      | none => true
      | some b => !(b.band == c.band && (b.page == c.page || b.page + 1 == c.page))

/-- Codewords programmed so far. -/
def Sto.progd (x : Sto) : Nat :=
  match x.pages with
  | p :: _ => p.first
  | [] => x.wrote - x.fill.length

/-- Bytes of a reel that lie in its codewords. -/
def Sto.logged (x : Sto) (seq : Nat) : Nat :=
  ((x.reels.find? fun r => r.seq == seq).map fun r => r.cws.foldl (fun t c => t + c.len) 0).getD 0

/-- Bytes appended to a reel and logged; the parse stands at `h` and `m` then. -/
def Blk.appended (s : Blk) (r : Reel) (bs h : List Byte) (m : Nat) : Blk :=
  (s.withSto fun x => { x.putReel { r with bytes := r.bytes ++ bs, hdr := h, rem := m } with lastByte := s.now }).logBytes r.seq (bs.length + 1)
    r.bytes.length bs.length

/-- Whether an APPEND that leaves the log as in `t` is FULL: it took one of the bands kept back, found none, or needs too many extents (R402,
R417). -/
def Blk.appendFull (s t : Blk) (r : Reel) (n : Nat) : Bool :=
  let kept := match t.sto.geo with
    | some g => decide ((t.sto.free g).length < max 4 (s.f STO_SPACE_CFG_OP_BANDS))
    | none => true
  (t.sto.bandSeq != s.sto.bandSeq && kept) || t.sto.logged r.seq != r.bytes.length + n ||
    decide (4096 < ((t.sto.reel r.id).map Reel.extents).getD 0)

/-! ### Erases and relocation (R415, R418) -/

/-- A band waits for its erase until the log is programmed up to a mark. -/
def Blk.queueErase (s : Blk) (n mark : Nat) : Blk := s.withSto fun x => { x with erases := x.erases ++ [(n, mark)] }

/-- A band that is written to, is being erased, or is already on the way out. -/
def Sto.inUse (x : Sto) (n : Nat) : Bool :=
  x.head == some n || (x.pages.any fun p => p.band == n) || (x.erases.any fun e => e.1 == n) || (x.erasing.any fun e => e.2 == n) ||
    (x.moves.any fun m => m.band == n)

/-- Bands whose content belongs only to retired reels are erased. -/
def Blk.collect (s : Blk) : Blk :=
  let x := s.sto
  let ns := (x.bands.filter fun e => e.2.used).map Prod.fst
  ns.foldl (fun s n =>
    if x.inUse n ∨ (x.catAt.map Prod.fst) = some n ∨ x.holds (fun r => r.st != 2) n ∨ !x.holds (fun r => r.st == 2) n then s
    else s.queueErase n 0) s

/-- Erases whose log is programmed take tags and begin, `n` of them at most. -/
def Blk.issueErases : Nat → Blk → Blk
  | 0, s => s
  | n + 1, s =>
    let d := s.sto.progd
    match s.sto.erases.find? fun e => decide (e.2 ≤ d) with
    | none => s
    | some e =>
      if !s.sto.mayHold false then s
      else Blk.issueErases n (s.withSto fun x => { x with erases := x.erases.erase e, erasing := x.erasing ++ [(x.newTag, e.1)] })

/-- A relocation whose codewords are all at the log head ends: a catalogue follows, and the band is erased. -/
def Blk.moveEnd (s : Blk) (n : Nat) : Blk :=
  match s.sto.moves.find? fun m => m.band == n && m.left == 0 with
  | none => s
  | some m =>
    let s := (s.withSto fun x => { x with moves := x.moves.erase m }).catalogue
    ((s.queueErase n s.sto.wrote).incSat STO_RELOCS).raise 0xC05 0 n m.why

/-- The live content of a band is to be copied to the log head: its codewords are read one by one. -/
def Blk.relocate (s : Blk) (n why : Nat) : Blk :=
  let x := s.sto
  if x.inUse n ∨ !(x.band n).used then s
  else
    let todo := x.live.flatMap fun r => (r.cws.filter fun c => c.band == n).map fun c => (r.seq, c.off)
    (s.withSto fun x => { x with moves := x.moves ++ [⟨n, why, todo, todo.length⟩] }).moveEnd n

/-- Wear spreading: where the spread is too large, the first least erased band that holds live content is relocated, one at a time. -/
def Blk.wear (s : Blk) : Blk :=
  match s.sto.geo with
  | none => s
  | some g =>
    let us := s.sto.usable g
    let er := us.map fun n => (s.sto.band n).erase
    let lo := (er.min?).getD 0
    let spread := s.f STO_MAINT_CFG_WEAR_SPREAD * 16
    if s.stoState ≠ 2 ∨ s.sto.quiesce ∨ spread = 0 ∨ (er.max?).getD 0 - lo ≤ spread ∨ (s.sto.moves.any fun m => m.why == 0) then s
    else
      match us.find? fun n => (s.sto.band n).erase == lo && !s.sto.inUse n && s.sto.holds (fun r => r.st != 2) n with
      | some n => s.relocate n 0
      | none => s

/-- The bad-block table is written: the older copy with a sequence number one newer than the newest copy, then the other (R414). -/
def Sto.writeBbt (x : Sto) : Sto :=
  let n := match x.bbt with
    | (some a, some b) => if newer b a then b else a
    | (some a, none) => a
    | (none, some b) => b
    | (none, none) => 0
  { x with bbt := (some ((n + 1) % 2 ^ 24), some ((n + 1) % 2 ^ 24)) }

/-- A block is marked bad: BLOCK_RETIRED. -/
def Blk.retireBlock (s : Blk) (b : NandBlk) : Blk :=
  let before := match s.sto.geo with
    | some g => (s.sto.free g).length
    | none => 0
  let s := s.withSto fun x => Sto.writeBbt { x with bad := if x.bad.contains b then x.bad else b :: x.bad }
  let s := (s.setF STO_STATUS_BBT_SINGLE 0).raise 0xC04 0 (b.ce % 32 * 2 ^ 19 + b.lun % 4 * 2 ^ 17 + b.plane % 4 * 2 ^ 15) (b.block % 2 ^ 24)
  s.lowSpace before

/-! ### Ending operations -/

/-- A PLAY ends: its completion, and its stream reset and unbound (R421, R423). -/
def Blk.endPlay (s : Blk) (k : Nat) (p : Play) (status : Nat) (at_ : Option Nat) : Blk :=
  let o := at_.getD 0
  let s := s.withSto fun x =>
    { x with plays := x.plays.filter (fun e => e.1 != k),
             reads := x.reads.filter fun e => match e.2 with
               | .play j _ => j != k
               | _ => true }
  (s.complete 4 status 0 p.tag p.reel p.applied [o % 2 ^ 24, o / 2 ^ 24]).resetStream k 0

/-- Every PLAY ends with a status. -/
def Blk.endPlays (s : Blk) (status : Nat) : Blk := s.sto.plays.foldl (fun s e => s.endPlay e.1 e.2 status none) s

/-- Operations whose log position is programmed complete; a CLOSE closes its reel, a RETIRE lets bands be collected, and a
reel without any leaves the table at once. -/
def Blk.settleOps (s : Blk) : Blk :=
  let d := s.sto.progd
  let go := s.sto.ops.filter fun o => o.op != 9 && decide (o.mark ≤ d)
  let s := s.withSto fun x => { x with ops := x.ops.filter fun o => o.op == 9 || decide (d < o.mark) }
  go.foldl (fun s o =>
    match o.op with
    | 3 =>
      let s := s.withSto fun x => { x with reels := x.reels.map fun r => if r.id = o.reel ∧ r.st = 0 then { r with st := 1 } else r }
      s.complete 3 0 1 o.tag o.reel o.len []
    | 6 =>
      let s := s.withSto fun x => { x with reels := x.reels.filter fun r => r.id != o.reel || r.st != 2 || !r.cws.isEmpty }
      s.complete 6 0 2 o.tag o.reel 0 []
    | _ => s.complete o.op 0 0 o.tag o.reel o.len []) s

/-- The store enters CLOSED once everything quiesced is programmed. -/
def Blk.settleQuiesce (s : Blk) : Blk :=
  if s.sto.quiesce ∧ s.sto.pages.isEmpty then
    (s.setF STO_STATUS_STATE 0).withSto fun x => { x with quiesce := false }
  else s

/-! ### The engine (R411) -/

/-- The codewords that hold a stretch of a reel, by index. -/
def Reel.span (r : Reel) (a n : Nat) : List Nat :=
  (List.range r.cws.length).filter fun i =>
    match r.cws[i]? with
    | some c => decide (c.off < a + n ∧ a < c.off + c.len)
    | none => false

/-- A read takes a tag. -/
def Sto.addRead (x : Sto) (r : ReadFor) : Sto := { x with reads := x.reads ++ [(x.newTag, r)] }

/-- The next read of an entry of ring 8: for a PLAY up to 64 codewords ahead of its record, else for a READ. What the store is with it issued. -/
def Sto.ringRead (x : Sto) : Option Sto :=
  let wantPlay := x.plays.find? fun e =>
    match x.reel e.2.reel with
    | some r => decide (e.2.issued < r.cws.length) && decide (e.2.issued < ((r.span e.2.off 1).headD r.cws.length) + 64)
    | none => false
  match wantPlay, x.ops.find? fun o => !o.todo.isEmpty with
  | some (k, p), _ =>
    let y : Sto := { x with plays := x.plays.map fun e => if e.1 = k then (k, { p with issued := p.issued + 1 }) else e }
    some (y.addRead (.play k p.issued))
  | none, some o =>
    let y : Sto := { x with ops := x.ops.map fun q => if q.num = o.num then { q with todo := o.todo.drop 1 } else q }
    some (y.addRead (.copy o.num (o.todo.headD 0)))
  | none, none => none

/-- The next read of maintenance: a codeword to move, or one that patrol has still to read, while no PLAY waits for a read (R418). -/
def Sto.careRead (x : Sto) : Option Sto :=
  match x.moves.find? fun m => !m.todo.isEmpty with
  | some m =>
    let e := m.todo.headD (0, 0)
    let y : Sto := { x with moves := x.moves.map fun q => if q.band = m.band then { q with todo := q.todo.drop 1 } else q }
    some (y.addRead (.move m.band e.1 e.2))
  | none =>
    let waits := x.reads.any fun r => match r.2 with
      | .play _ _ => true
      | _ => false
    match x.patrols with
    | [] => none
    | e :: r => if waits then none else some ({ x with patrols := r }.addRead (.patrol e.1 e.2))

/-- Reads are issued while tags are left, `n` of them at most. -/
def Blk.issueReads : Nat → Blk → Blk
  | 0, s => s
  | n + 1, s =>
    match s.sto.ringRead with
    | some x =>
      if s.sto.mayHold true then Blk.issueReads n { s with sto := x }
      else
        let s := s.tagPause
        match s.sto.careRead with
        | some y => if s.sto.mayHold false then Blk.issueReads n { s with sto := y } else s
        | none => s
    | none =>
      match s.sto.careRead with
      | some y => if s.sto.mayHold false then Blk.issueReads n { s with sto := y } else s
      | none => s

/-- Whatever may take a tag takes one. A test of the store holds everything back (R460). -/
def Blk.stoGo (s : Blk) : Blk :=
  if s.underTest 12 then s.showSto else (Blk.issueReads 512 (Blk.issueErases 512 (Blk.issueProgs 512 s).collect)).showSto

/-! ### Programs and erases -/

/-- The oldest band page in flight is programmed (R403). -/
def bandPageProgrammed (s : Blk) : Blk :=
  if s.sto.progs.isEmpty then s
  else (s.withSto fun x => { x with progs := x.progs.drop 1, tagStall := false }).settleOps.settleQuiesce.wear.stoGo

def execBandPageProgrammed (s : State) : Res := s.on bandPageProgrammed

/-- A reel's codeword taken out of where it stands, and the codewords of every reel in order again. -/
def Sto.dropCw (x : Sto) (seq off : Nat) : Sto :=
  { x with reels := x.reels.map fun q => if q.seq = seq then { q with cws := q.cws.filter fun d => d.off != off } else q }
def Sto.sorted (x : Sto) : Sto := { x with reels := x.reels.map fun q => { q with cws := sortBy (fun a d => decide (a.off ≤ d.off)) q.cws } }

/-- The place of a block among the good blocks of its band. -/
def Sto.blockPlace (x : Sto) (g : Geo) (b : NandBlk) : Nat :=
  let all := g.ces.flatMap fun c => (List.range g.luns).flatMap fun l => (List.range g.planes).map fun p => (⟨c, l, p, b.block⟩ : NandBlk)
  (all.filter fun q => !x.bad.contains q).findIdx fun q => q == b

/-- A block of the oldest band page in flight fails to program (R415): its codewords are written again at the log head, and what waits
for them waits on. -/
def programFail (b : NandBlk) (s : Blk) : Blk :=
  let x := s.sto
  match x.geo, x.progs with
  | some g, p :: r =>
    if b.block ≠ p.band then s
    else
      let i := s.sto.blockPlace g b * g.perPage
      let lost := (p.cws.drop i).take g.perPage
      let s := (s.withSto fun x => { x with progs := r, tagStall := false }).retireBlock b
      let s := (lost.filter fun c => c.kind != 0xff).foldl (fun s c =>
        let bad := x.reels.any fun q => q.seq == c.reel && c.kind == 0 && q.cws.any fun d => d.off == c.off && d.bad
        let s := if c.kind ≠ 0 then s else s.withSto fun x => x.dropCw c.reel c.off
        s.logCw c bad false) s
      let s := s.withSto fun x =>
        { x.sorted with ops := x.ops.map fun o => if p.first < o.mark then { o with mark := max o.mark x.wrote } else o }
      s.settleOps.settleQuiesce.stoGo
  | _, _ => s

def execProgramFail (b : NandBlk) (s : State) : Res := s.on (programFail b)

/-- A found reel as the store holds it. -/
def reelOf (f : FoundReel) : Reel :=
  let p := (parseRecs f.bytes [] 0).getD ([], 0)
  { id := f.id.toNat, name := (List.range 3).map fun i => beNat (slice f.name (3 * i) 3), seq := f.seq, st := f.st, bytes := f.bytes,
    cws := (List.range f.cws.length).map fun i => match f.cws.getD i (0, 0, 0, 0) with | (o, n, b, p) => ⟨i, o, n, b, p, false⟩, hdr := p.1, rem := p.2 }

/-- The store is OPEN: STORE_OPEN with live reels and free bands. -/
def Blk.storeIsOpen (s : Blk) : Blk :=
  let s := ((s.setF STO_STATUS_STATE 2).setF STO_STATUS_FAIL_CAUSE 0).showSto
  s.raise 0xC01 0 (s.rn STO_REELS) (s.rn STO_BANDS_FREE)

/-- The end of FORMAT: table copies and an empty catalogue are written and the store is OPEN (R416). -/
def Blk.formatDone (s : Blk) : Blk :=
  let s := s.withSto fun x => Sto.writeBbt
    { x with bands := x.bands.map (fun e => (e.1, { e.2 with used := false, seq := 0, erase := e.2.erase + 1 })), erases := [],
             head := none, page := 0, fill := [], fillRing := false, sinceCat := 0, catAt := none, bandSeq := 0 }
  let s := ((s.setF STO_STATUS_KEY_LOST 0).setF STO_STATUS_BBT_SINGLE 0).catalogue
  let s := s.withSto fun x => { x with ops := x.ops.map fun o => if o.op = 10 then { o with mark := 0 } else o }
  s.storeIsOpen.settleOps.stoGo

/-- The oldest erase in flight ends; a block that fails is retired and the band freed without it (R415). In a FORMAT every erase is
one operation, whose failures are reported block by block. -/
def eraseDone (fail : Option NandBlk) (s : Blk) : Blk :=
  if s.stoState = 5 then
    match fail with
    | some b => s.retireBlock b
    | none => s.formatDone
  else
    match s.sto.erasing with
    | [] => s
    | (_, n) :: r =>
      let s := s.withSto fun x => { x with erasing := r }
      let s := match fail with
        | some b => if b.block = n then s.retireBlock b else s
        | none => s
      let s := s.withSto fun x =>
        let y := x.putBand n { x.band n with used := false, erase := (x.band n).erase + 1 }
        let rs := y.reels.map fun r => if r.st = 2 then { r with cws := r.cws.filter fun c => c.band != n } else r
        { y with reels := rs.filter fun r => r.st != 2 || !r.cws.isEmpty }
      s.wear.stoGo

def execEraseDone (fail : Option NandBlk) (s : State) : Res := s.on (eraseDone fail)

/-- FLUSH_US after the last byte a partly filled band page is padded and programmed (R403). -/
def flushTimer (t : Nat) (s : Blk) : Blk :=
  let s := s.advance t
  if s.sto.fill.isEmpty ∨ s.underTest 12 ∨ s.now < s.sto.lastByte + 250 * atLeast1 (s.f STO_CFG_FLUSH_US) then s else s.issuePage.stoGo

def execFlushTimer (t : Nat) (s : State) : Res := s.on (flushTimer t)

/-- QUIESCE (R426): every PLAY stops, the page is flushed with a catalogue, and the store closes. -/
def quiesce (s : Blk) : Blk :=
  if s.stoState ≠ 2 then s
  else
    let s := (s.endPlays 7).catalogue.issuePage
    (s.withSto fun x => { x with quiesce := true }).settleQuiesce.stoGo

def execQuiesce (s : State) : Res := s.on quiesce

/-! ### Opening (R397, R398, R401, R414, R420) -/

/-- STORE_OPEN_FAIL. -/
def Blk.openFail (s : Blk) (cause ce : Nat) : Blk :=
  ((s.setF STO_STATUS_STATE 4).setF STO_STATUS_FAIL_CAUSE cause).raise 0xC02 0 cause ce

/-- P of R398. -/
def parityOf (t : NandTarget) : Nat := min 512 ((t.spare / atLeast1 (t.kib / 4) - 16) / 64 * 64)

/-- Whether a target's geometry can be used. -/
def geoOk (t : NandTarget) : Bool :=
  t.paramOk && (t.kib == 8 || t.kib == 16) && decide (t.pages ≤ 4096 ∧ t.blocks ≤ 16384) &&
    (t.planes == 1 || t.planes == 2 || t.planes == 4) && decide (1 ≤ t.luns ∧ t.luns ≤ 4) && decide (256 ≤ parityOf t)

def sameGeo (a b : NandTarget) : Bool :=
  a.kib == b.kib && a.spare == b.spare && a.pages == b.pages && a.blocks == b.blocks && a.planes == b.planes && a.luns == b.luns

/-- Present targets as STO_CE_MAP shows them. -/
def Sto.present (x : Sto) : Nat :=
  match x.geo with
  | some g => g.ces.foldl (fun m c => if bitOf m c then m else m + 2 ^ c) 0
  | none => 0

/-- The registers of the geometry, and the interface in use (R396). -/
def Blk.showGeo (s : Blk) (g : Geo) (t : NandTarget) (ts : List NandTarget) : Blk :=
  let s := ((s.setF STO_GEOM0_PAGE_KIB g.kib).setF STO_GEOM0_PLANES_LOG2 (if g.planes = 4 then 2 else g.planes - 1)).setF
    STO_GEOM0_LUNS_M1 (g.luns - 1)
  let s := (s.setF STO_GEOM0_PAGES g.pages).setF STO_GEOM1_P64 (parityOf t / 64)
  let s := s.setF STO_GEOM1_BLOCKS g.blocks
  let mode := if ts.all fun u => u.mode == 2 then 2 else 1
  let cap := if mode = 2 then 2400 else 1600
  let rate := ts.foldl (fun m u => min m u.mts) (min cap (10 * s.f STO_CFG_MAX_MTS))
  (s.setF STO_IF_RATE rate).setF STO_IF_MODE mode

/-- The bad-block table: the copy to use, none where both fail; a failed one is rewritten. -/
def Blk.bbt (s : Blk) (c0 c1 : BbtCopy) : Blk × Option (List NandBlk) :=
  let v0 := c0.magic && c0.ok
  let v1 := c1.magic && c1.ok
  let s := s.setF STO_STATUS_BBT_SINGLE (b2n (v0 != v1))
  let seq0 := if v0 then some c0.seq.toNat else if v1 then some c1.seq.toNat else none
  let seq1 := if v1 then some c1.seq.toNat else seq0
  let s := s.withSto fun x => { x with bbt := (seq0, seq1) }
  if v0 && v1 then (s, some (if newer c1.seq.toNat c0.seq.toNat then c1.bad else c0.bad))
  else if v0 then (s.raise 0xC08 0 1 0, some c0.bad)
  else if v1 then (s.raise 0xC08 0 0 0, some c1.bad)
  else (s, none)

/-- The store opens on what it finds: OPEN, BLANK or FAILED. -/
def Blk.openStore (s : Blk) (x : OpenIn) : Blk :=
  let s := ((s.setF STO_STATUS_STATE 1).setF STO_STATUS_FAIL_CAUSE 0).setF STO_STATUS_KEY_LOST 0
  let s := s.withSto fun o => { Sto.init with num := o.num, cpls := o.cpls }
  let ts := sortBy (fun (a b : NandTarget) => decide (a.ce ≤ b.ce)) (x.targets.filter fun t => decide (t.ce < 32) && bitOf (s.val STO_CE_MAP 2) t.ce)
  match ts with
  | [] => s.openFail 1 0
  | t :: _ =>
    match ts.find? fun u => !geoOk u || !sameGeo t u with
    | some u => s.openFail 2 u.ce
    | none =>
      let g : Geo :=
        { kib := t.kib, perPage := t.kib / 4, pages := t.pages, blocks := t.blocks, planes := t.planes, luns := t.luns,
          ces := ts.map fun u => u.ce, retries := t.retries }
      if 2 ^ 45 < g.blocksOf * g.blocks * g.pages * g.kib * 1024 then s.openFail 2 t.ce
      else
        let s := (s.showGeo g t ts).withSto fun o => { o with geo := some g }
        if !x.copy0.magic && !x.copy1.magic then (s.setF STO_STATUS_STATE 3).showSto
        else
          match s.bbt x.copy0 x.copy1 with
          | (s, none) => s.openFail 3 0
          | (s, some bad) =>
            let s := s.withSto fun o => { o with bad := bad }
            match x.log with
            | none => s.openFail 4 0
            | some l =>
              if !x.keyOk ∨ l.wrapK ≠ s.fuse.k then (((s.setF STO_STATUS_STATE 3).setF STO_STATUS_KEY_LOST 1).raise 0xC0A 0 0 0).showSto
              else
                let bands := l.bands.map fun b => (b.n, (⟨b.seq, b.erase, b.used, s.now, none⟩ : Band))
                let s := s.withSto fun o =>
                  { o with reels := l.reels.map reelOf, bands := bands, reelSeq := l.reelSeq, catAt := l.cat, key := l.key,
                           wrapK := l.wrapK, bandSeq := l.bands.foldl (fun m b => max m b.seq) 0 }
                s.storeIsOpen.wear.stoGo

/-- OPEN in STO_CTRL: from CLOSED or FAILED. -/
def execStoreOpen (x : OpenIn) (s : State) : Res :=
  s.on fun b => if b.stoState = 0 ∨ b.stoState = 1 ∨ b.stoState = 4 then b.openStore x else b

/-- The store PLL loses lock (R46): FAILED with cause INTERFACE; operations taken complete with NOT_OPEN. -/
def storePllLockLoss (s : Blk) : Blk :=
  let s := (s.setF STO_STATUS_STATE 4).setF STO_STATUS_FAIL_CAUSE 5
  let ops := s.sto.ops
  let s := s.endPlays 10
  let s := ops.foldl (fun s o => s.complete o.op 10 0 o.tag o.reel 0 []) s
  (s.withSto fun x => { x with ops := [], progs := [], queue := [], erases := [], erasing := [], moves := [], patrols := [], reads := [], fill := [],
                               fillRing := false, head := none, quiesce := false, tagStall := false }).showSto

def execStorePllLockLoss (s : State) : Res := s.on storePllLockLoss

/-! ### Taking entries of ring 8 (R406 to R411) -/

/-- Whether an entry waits for an earlier CLOSE or RETIRE of the reel it names. -/
def Sto.waitsFor (x : Sto) (op reel : Nat) : Bool :=
  op != 1 && op != 5 && op != 8 && op != 10 && x.ops.any fun o => (o.op == 3 || o.op == 6) && o.reel == reel

/-- The engine takes no entry while 480 tags are held or ring 9 is full; each pause is counted once. -/
def Blk.stoPause (s : Blk) : Blk × Bool :=
  if !s.sto.mayHold true then (s.tagPause, true)
  else
    let s := s.withSto fun x => { x with tagStall := false }
    if s.ringFull 9 then
      (if s.sto.cplStall then s else (s.incSat STO_CPL_STALLS).withSto fun x => { x with cplStall := true }, true)
    else (s, s.sto.quiesce)

/-- The entry at the front of ring 8, if it has an operation code that `p` admits and may be taken now, is taken and acted on. While the
store is not OPEN it completes with NOT_OPEN; FORMAT decides for itself. -/
def Blk.take8 (s : Blk) (p : Nat → Bool) (act : Nat → Nat → List Nat → Blk → Blk) : Blk :=
  if !s.mayTake 8 || s.underTest 12 then s
  else
    let e := s.nextEntry 8
    let op := bits (e.headD 0) 23 16
    let tag := e.getD 1 0 % 2 ^ 24
    if !p op || s.sto.waitsFor op (e.getD 2 0 % 2 ^ 24) then s
    else
      let r := s.stoPause
      if r.2 then r.1
      else
        let s := r.1.takeFront 8
        if s.stoState ≠ 2 ∧ op ≠ 10 then s.complete op 10 0 tag (e.getD 2 0 % 2 ^ 24) 0 []
        else (act op tag e s).stoGo

/-- The REEL_ID for a new reel: not 0 and not that of a live reel. -/
def Sto.newId (x : Sto) : Nat :=
  let at0 := (Config.reelId (x.reelSeq + 1)).toNat
  ((List.range 4098).map fun k => (at0 + k) % 2 ^ 24).find? (fun i => i != 0 && (x.reel i).isNone) |>.getD 1

/-- CREATE: FULL beyond 4,096 live reels. -/
def create (_ tag : Nat) (e : List Nat) (s : Blk) : Blk :=
  if s.sto.reels.any fun r => r.st == 0 then s.complete 1 2 0 tag 0 0 []
  else if 4096 ≤ s.sto.live.length then s.complete 1 3 0 tag 0 0 []
  else
    let id := s.sto.newId
    let s := s.withSto fun x =>
      { x with reelSeq := x.reelSeq + 1,
               reels := x.reels ++ [{ id := id, name := (List.range 3).map fun i => e.getD (i + 2) 0 % 2 ^ 24, seq := x.reelSeq + 1, st := 0,
                                      bytes := [], cws := [], hdr := [], rem := 0 }] }
    (s.logCw ⟨s.sto.reelSeq, 0, 0, 0, 1⟩ false true).complete 1 0 0 tag id 0 []

def execCreate (s : State) : Res := s.on fun b => b.take8 (fun op => op == 1) create

/-- An operation that completes once the log is programmed as far as it stands. -/
def Blk.defer (s : Blk) (op tag reel len : Nat) : Blk :=
  s.withSto fun x =>
    { x with num := x.num + 1,
             ops := x.ops ++ [{ num := x.num, op := op, tag := tag, reel := reel, mark := x.wrote, len := len, dest := 0, off := 0, todo := [],
                                left := 0, unc := false }] }

/-- APPEND (R405, R409, R417). -/
def append (err : MemErr) (_ tag : Nat) (e : List Nat) (s : Blk) : Blk :=
  let id := e.getD 2 0 % 2 ^ 24
  let src := e.getD 3 0 % 2 ^ 24 + e.getD 4 0 % 4096 * 2 ^ 24
  let n := e.getD 5 0 % 2 ^ 24
  match s.sto.reel id with
  | none => s.complete 2 1 0 tag id 0 []
  | some r =>
    if r.st ≠ 0 then s.complete 2 2 0 tag id r.bytes.length []
    else
      let bs := s.imgRead src n
      let s := (s.access storePort src n).ecc storePort src err
      if s.bad err then s.complete 2 5 0 tag id r.bytes.length []
      else
        match parseRecs bs r.hdr r.rem with
        | none => s.complete 2 6 0 tag id r.bytes.length []
        | some (h, m) =>
          let t := s.appended r bs h m
          if s.appendFull t r n then
            let s := (s.setF STO_STATUS_FULL 1).raise 0xC07 0 id (s.rn STO_BANDS_FREE)
            s.complete 2 3 0 tag id r.bytes.length []
          else (t.defer 2 tag id (r.bytes.length + n)).settleOps

def execAppend (err : MemErr) (s : State) : Res := s.on fun b => b.take8 (fun op => op == 2) (append err)

/-- CLOSE: the trailer and a catalogue; the reel is CLOSED when they are programmed. -/
def close (_ tag : Nat) (e : List Nat) (s : Blk) : Blk :=
  let id := e.getD 2 0 % 2 ^ 24
  match s.sto.reel id with
  | none => s.complete 3 1 0 tag id 0 []
  | some r =>
    if r.st ≠ 0 then s.complete 3 2 r.st tag id r.bytes.length []
    else if !r.hdr.isEmpty ∨ r.rem ≠ 0 then s.complete 3 6 0 tag id r.bytes.length []
    else
      let s := (s.logCw ⟨r.seq, 0, 0, 0, 1⟩ false true).catalogue
      (s.defer 3 tag id r.bytes.length).settleOps

def execClose (s : State) : Res := s.on fun b => b.take8 (fun op => op == 3) close

/-- RETIRE: BUSY while a PLAY uses the reel. -/
def retire (_ tag : Nat) (e : List Nat) (s : Blk) : Blk :=
  let id := e.getD 2 0 % 2 ^ 24
  match s.sto.reel id with
  | none => s.complete 6 1 0 tag id 0 []
  | some r =>
    if r.st = 2 then s.complete 6 2 2 tag id 0 []
    else if s.sto.plays.any fun p => p.2.reel == id then s.complete 6 8 r.st tag id 0 []
    else
      let s := (s.withSto fun x => x.putReel { r with st := 2 }).catalogue
      (s.defer 6 tag id 0).settleOps

def execRetire (s : State) : Res := s.on fun b => b.take8 (fun op => op == 6) retire

/-- STAT: length, state and NAME. -/
def statReel (_ tag : Nat) (e : List Nat) (s : Blk) : Blk :=
  let id := e.getD 2 0 % 2 ^ 24
  match s.sto.reel id with
  | none => s.complete 7 1 0 tag id 0 []
  | some r => s.complete 7 0 r.st tag id r.bytes.length r.name

def execStat (s : State) : Res := s.on fun b => b.take8 (fun op => op == 7) statReel

/-- LIST: the i-th live reel in log order, 0 beyond the last. -/
def listReel (_ tag : Nat) (e : List Nat) (s : Blk) : Blk :=
  let id := match s.sto.live[e.getD 2 0 % 2 ^ 24]? with
    | some r => r.id
    | none => 0
  s.complete 8 0 0 tag id 0 []

def execList (s : State) : Res := s.on fun b => b.take8 (fun op => op == 8) listReel

/-- Any other operation: BAD_OP. -/
def execBadOp (s : State) : Res :=
  s.on fun b => b.take8 (fun op => op == 0 || decide (10 < op)) fun op tag _ b => b.complete op 9 0 tag 0 0 []

/-! ### READ and NAND reads (R407, R411 to R413) -/

/-- READ completes when its last codeword is in image memory. -/
def Blk.endRead (s : Blk) (o : StoOp) : Blk :=
  if o.left ≠ 0 then s
  else
    let s := s.withSto fun x => { x with ops := x.ops.filter fun q => q.num != o.num }
    s.complete 9 (if o.unc then 4 else 0) 0 o.tag o.reel o.len []

/-- READ: bytes up to the reel's end are copied. -/
def storeRead (_ tag : Nat) (e : List Nat) (s : Blk) : Blk :=
  let id := e.getD 2 0 % 2 ^ 24
  let off := e.getD 6 0 % 2 ^ 24 + e.getD 7 0 % 2 ^ 24 * 2 ^ 24
  match s.sto.reel id with
  | none => s.complete 9 1 0 tag id 0 []
  | some r =>
    if r.st = 2 then s.complete 9 2 2 tag id 0 []
    else
      let n := min (e.getD 5 0 % 2 ^ 24) (r.bytes.length - off)
      let span := r.span off n
      let o : StoOp :=
        { num := s.sto.num, op := 9, tag := tag, reel := id, mark := 0, len := n, dest := e.getD 3 0 % 2 ^ 24 + e.getD 4 0 % 4096 * 2 ^ 24,
          off := off, todo := span, left := span.length, unc := false }
      let s := s.withSto fun x => { x with num := x.num + 1, ops := x.ops ++ [o] }
      s.endRead o

def execStoreRead (s : State) : Res := s.on fun b => b.take8 (fun op => op == 9) storeRead

/-- The part of a READ that one codeword holds is written to image memory, zeros where it is uncorrectable (R413). -/
def Blk.copyCw (s : Blk) (o : StoOp) (c : Cw) (bytes : List Byte) (ok : Bool) : Blk :=
  let a := max c.off o.off
  let z := min (c.off + c.len) (o.off + o.len)
  let bs := slice bytes a (z - a)
  s.imgWrite storePort (o.dest + (a - o.off)) (if ok then bs else bs.map fun _ => 0)

/-- STORE_UNCORRECTABLE (R412). -/
def Blk.storeUe (s : Blk) (stream band reel : Nat) : Blk :=
  (s.incSat STO_UE_COUNT).raise 0xC03 0 (stream * 65536 + band % 65536) reel

/-- What the ladder of R412 comes to for a codeword: the step, 16 for the soft one, and the bits corrected there, none where it fails. The soft
step is taken around the hard step that left the fewest unsatisfied checks. -/
def ladderOf (rmax : Nat) (x : ReadResult) : Nat × Option Nat :=
  let at0 := fun k => x.hard.getD k (0, none)
  let ks := List.range (rmax + 1)
  match ks.find? fun k => (at0 k).2.isSome with
  | some k => (k, (at0 k).2)
  | none => (16, x.soft.getD (ks.foldl (fun m k => if (at0 k).1 < (at0 m).1 then k else m) 0) none)

/-- R_max: RETRY_MAX, and no more than the levels the targets declare. -/
def Blk.retryMax (s : Blk) : Nat := min (s.f STO_RETRY_CFG_RETRY_MAX) ((s.sto.geo.map fun g => g.retries).getD 0)

/-- Whether a read calls for refresh (R418). -/
def Blk.refreshNow (s : Blk) (r : Nat × Option Nat) : Bool :=
  match r.2 with
  | some n => decide (atLeast1 (s.f STO_MAINT_CFG_REFRESH_T) ≤ n ∨ s.f STO_RETRY_CFG_REFRESH_STEP ≤ r.1)
  | none => false

/-- A codeword of a PLAY has been read. -/
def Blk.playCw (s : Blk) (x : Nat × Option Nat) (k i : Nat) (p : Play) (r : Reel) (c : Cw) : Blk :=
  let ok := x.2.isSome && !c.bad
  let q := { p with done := i :: p.done, bads := if ok then p.bads else i :: p.bads }
  let s := s.withSto fun o => { o with plays := o.plays.map fun e => if e.1 = k then (k, q) else e }
  let s := if ok then s else s.storeUe k c.band r.id
  if ok && s.refreshNow x then s.relocate c.band 1 else s

/-- A codeword of a READ has been read. -/
def Blk.readCw (s : Blk) (x : Nat × Option Nat) (o : StoOp) (r : Reel) (c : Cw) : Blk :=
  let ok := x.2.isSome && !c.bad
  let s := s.copyCw o c r.bytes ok
  let s := if ok then s else s.storeUe 255 c.band r.id
  let o := { o with left := o.left - 1, unc := o.unc || !ok }
  (s.withSto fun y => { y with ops := y.ops.map fun q => if q.num = o.num then { q with left := o.left, unc := o.unc } else q }).endRead o

/-- A codeword has been read on patrol. -/
def Blk.patrolCw (s : Blk) (x : Nat × Option Nat) (r : Reel) (c : Cw) : Blk :=
  let s := if x.2.isSome && !c.bad then s else s.storeUe 255 c.band r.id
  if s.refreshNow x then s.relocate c.band 1 else s

/-- A codeword of a band on the way out has been read: it goes to the log head under its CW_INDEX, as uncorrectable if it is (R413, R418). -/
def Blk.moveCw (s : Blk) (x : Nat × Option Nat) (band : Nat) (r : Reel) (c : Cw) : Blk :=
  let s := if x.2.isSome && !c.bad then s else s.storeUe 255 c.band r.id
  if r.st = 2 ∨ c.band ≠ band then s
  else ((s.withSto fun y => y.dropCw r.seq c.off).logCw ⟨r.seq, c.idx, c.off, c.len, 0⟩ (c.bad || x.2.isNone) false).withSto Sto.sorted

/-- A reel's codeword by its sequence and offset. -/
def Sto.cwAt (x : Sto) (seq off : Nat) : Option (Reel × Cw) :=
  match x.reels.find? fun r => r.seq == seq with
  | some r => (r.cws.find? fun c => c.off == off).map fun c => (r, c)
  | none => none

/-- What a NAND read was for goes on. -/
def Blk.readEnds (s : Blk) (x : Nat × Option Nat) : ReadFor → Blk
  | .play k i =>
    match s.sto.plays.find? fun e => e.1 == k with
    | some (_, p) =>
      match s.sto.reel p.reel with
      | some r =>
        match r.cws[i]? with
        | some c => s.playCw x k i p r c
        | none => s
      | none => s
    | none => s
  | .copy n i =>
    match s.sto.ops.find? fun o => o.num == n with
    | some o =>
      match s.sto.reel o.reel with
      | some r =>
        match r.cws[i]? with
        | some c => s.readCw x o r c
        | none => s
      | none => s
    | none => s
  | .patrol seq off =>
    match s.sto.cwAt seq off with
    | some (r, c) => s.patrolCw x r c
    | none => s
  | .move band seq off =>
    let s := match s.sto.cwAt seq off with
      | some (r, c) => s.moveCw x band r c
      | none => s
    (s.withSto fun y => { y with moves := y.moves.map fun m => if m.band = band then { m with left := m.left - 1 } else m }).moveEnd band

/-- A NAND read completes: for a PLAY, a READ or patrol. -/
def nandReadDone (x : ReadResult) (s : Blk) : Blk :=
  match s.sto.reads.find? fun e => e.1 == x.tag with
  | none => s
  | some (_, what) =>
    let s := s.withSto fun o => { o with reads := o.reads.filter (fun e => e.1 != x.tag), tagStall := false }
    let r := ladderOf s.retryMax x
    let bits := r.2.getD 0
    let s := ((s.count 0x76).count 0x77 bits).addSat STO_CE_BITS bits
    (s.readEnds r what).stoGo

def execNandReadDone (x : ReadResult) (s : State) : Res := s.on (nandReadDone x)

/-- A day in POS clocks. -/
def dayClks : Nat := 86400 * 250000000

/-- The patrol period of a live band is over: its live codewords are to be read (R418). -/
def patrolRead (t : Nat) (s : Blk) : Blk :=
  let s := s.advance t
  let days := s.f STO_MAINT_CFG_PATROL_DAYS
  let x := s.sto
  if s.stoState ≠ 2 ∨ days = 0 ∨ s.underTest 12 then s
  else
    match x.bands.find? fun e => e.2.used && x.holds (fun r => r.st != 2) e.1 && decide (e.2.patrolAt + days * dayClks ≤ s.now) with
    | none => s
    | some (n, b) =>
      let todo := x.live.flatMap fun r => (r.cws.filter fun c => c.band == n).map fun c => (r.seq, c.off)
      (s.withSto fun x => { x.putBand n { b with patrolAt := s.now } with patrols := x.patrols ++ todo }).stoGo

def execPatrolRead (t : Nat) (s : State) : Res := s.on (patrolRead t)

/-! ### Playing (R421 to R424) -/

/-- PLAY begins: its stream is reset and bound to the store. -/
def Blk.startPlay (s : Blk) (k : Nat) (p : Play) : Blk :=
  let s := (s.resetStream k 0).setF (PGE_ING_STATUS_BOUND k) 1
  s.withSto fun x => { x with plays := x.plays ++ [(k, p)] }

/-- The checks of a PLAY, and its start. -/
def Blk.submitPlay (s : Blk) (k : Nat) (p : Play) : Blk :=
  match s.sto.reel p.reel with
  | none => s.complete 4 1 0 p.tag p.reel 0 []
  | some r =>
    if r.st ≠ 1 then s.complete 4 2 r.st p.tag p.reel 0 []
    else if s.sto.plays.any fun e => e.1 == k then s.complete 4 8 r.st p.tag p.reel 0 []
    else s.startPlay k p

def play (_ tag : Nat) (e : List Nat) (s : Blk) : Blk :=
  s.submitPlay (bits (e.headD 0) 13 12)
    { reel := e.getD 2 0 % 2 ^ 24, tag := tag, track := bits (e.headD 0) 9 8, genBias := bits (e.getD 3 0) 23 12, bdOfs := bits (e.getD 3 0) 11 0,
      baseOfs := e.getD 4 0 % 2 ^ 24, loops := e.getD 5 0 % 2 ^ 24, pass := 0, off := 0, rep := 0, applied := 0, issued := 0, done := [],
      bads := [], unc := none, stop := false, held := false }

def execPlay (s : State) : Res := s.on fun b => b.take8 (fun op => op == 4) play

/-- The PLAY of STO_AUTO[t] (R424). -/
def Blk.autoPlay (s : Blk) (t : Nat) : Blk :=
  if !s.fb (STO_AUTO0_EN t) then s
  else
    s.submitPlay t
      { reel := s.rn (STO_AUTO1 t), tag := 0xFFFFF0 + t, track := t, genBias := s.f (STO_AUTO2_GEN_BIAS t), bdOfs := s.f (STO_AUTO0_BD_OFS t),
        baseOfs := s.rn (STO_AUTO3 t), loops := s.rn (STO_AUTO2 t) % 4096, pass := 0, off := 0, rep := 0, applied := 0, issued := 0, done := [],
        bads := [], unc := none, stop := false, held := false }

/-- STOP_PLAY: the PLAY on a stream stops at its next record boundary; WRONG_STATE without one. -/
def stopPlay (_ tag : Nat) (e : List Nat) (s : Blk) : Blk :=
  let k := bits (e.headD 0) 13 12
  if s.sto.plays.any fun p => p.1 == k then
    let s := s.withSto fun x => { x with plays := x.plays.map fun p => if p.1 = k then (k, { p.2 with stop := true }) else p }
    s.complete 5 0 0 tag 0 0 []
  else s.complete 5 2 0 tag 0 0 []

def execStopPlay (s : State) : Res := s.on fun b => b.take8 (fun op => op == 5) stopPlay

/-- Whether a buffer descriptor is leased by a started page (R101). -/
def Blk.leased (s : Blk) (bd : Nat) : Bool :=
  (List.range 4).any fun t => (s.trk t).all.any fun p => !p.released && p.layers.any fun l => l.bd == bd

def Blk.putPlay (s : Blk) (k : Nat) (p : Play) : Blk :=
  s.withSto fun x => { x with plays := x.plays.map fun e => if e.1 = k then (k, p) else e }

/-- The record is behind: the next one follows. -/
def Play.next (p : Play) (n applied : Nat) : Play := { p with off := p.off + n, applied := p.applied + applied, held := false, rep := 0 }

/-- A 32-byte payload with its words changed. -/
def mapWords (bs : List Byte) (f : Nat → Nat → Nat) : List Byte :=
  let ws := leWords bs
  (List.range 8).flatMap fun i => toLE (f i (ws.getD i 0)) 4

/-- A slot word of a page descriptor, or word 0 of a buffer descriptor, with GEN moved, and its BD field too. -/
def biasSlot (p : Play) (bd : Bool) (w : Nat) : Nat :=
  let w := setBits w 23 12 (bits w 23 12 + p.genBias)
  if bd then setBits w 11 0 (bits w 11 0 + p.bdOfs) else w

/-- A BDSET payload of a PLAY. -/
def biasBdset (p : Play) (bs : List Byte) : List Byte :=
  let ws := leWords bs
  let base := (ws.getD 1 0 % 2 ^ 24 + ws.getD 2 0 % 4096 * 2 ^ 24 + p.baseOfs * 65536) % 2 ^ 36
  mapWords bs fun i w => if i = 0 then biasSlot p false w else if i = 1 then base % 2 ^ 24 else if i = 2 then base / 2 ^ 24 else w

/-- A DESC payload of a PLAY; LAST only in the last copy. -/
def biasDesc (p : Play) (last : Bool) (bs : List Byte) : List Byte :=
  mapWords bs fun i w => if i = 0 ∧ !last then setBits w 23 23 0 else if 3 ≤ i ∧ i ≤ 6 then biasSlot p true w else w

/-- The next record header after a place that begins in a readable codeword (R413). -/
def resume (r : Reel) (bads : List Nat) : Nat → Nat → Nat
  | 0, off => off
  | fuel + 1, off =>
    if r.bytes.length ≤ off then r.bytes.length
    else if ((r.span off 1).any fun i => bads.contains i) then resume r bads fuel (off + 32 + dgNat (slice r.bytes off 32) 6 2)
    else off

/-- The effect of a record of a PLAY; none where it is rejected. -/
def Blk.playApply (s : Blk) (p : Play) (hd bs : List Byte) (bd : Nat) : Option Blk :=
  match dgNat hd 3 1 with
  | 1 => s.applyData storePort bd ((dgNat hd 14 2 + p.genBias) % 4096) (dgNat hd 16 8) bs
  | 2 => s.applyBdset bd (biasBdset p bs)
  | _ => s.applyDesc p.track (biasDesc p (decide (atLeast1 (dgNat hd 24 4) ≤ p.rep + 1)) bs)

/-- The PLAY goes on to the next record, or repeats this one. -/
def Blk.played (s : Blk) (k : Nat) (p : Play) (n typ reps : Nat) (done : Option Blk) : Blk :=
  match done with
  | none => (s.ingestReject k typ p.applied).putPlay k (p.next (32 + n) 0)
  | some s =>
    if typ = 3 ∧ p.rep + 1 < reps then s.putPlay k { p with rep := p.rep + 1 }
    else s.putPlay k (p.next (32 + n) 1)

/-- One record of a PLAY is applied (R413, R421 to R423), or waits: for its reads, a lease, or room on the page ring. -/
def playRecord (k : Nat) (s : Blk) : Blk :=
  if s.underTest 9 then s else
  match s.sto.plays.find? fun e => e.1 == k with
  | none => s
  | some (_, p) =>
    match s.sto.reel p.reel with
    | none => s.endPlay k p 1 none
    | some r =>
      let len := r.bytes.length
      if p.stop ∧ p.rep = 0 then s.endPlay k p 7 none
      else if len ≤ p.off then
        if p.loops ≠ 0 ∧ p.loops ≤ p.pass + 1 then s.endPlay k p (if p.unc.isSome then 4 else 0) p.unc
        else s.putPlay k { p with pass := p.pass + 1, off := 0, issued := 0, done := [], bads := [] }
      else
        let hd := slice r.bytes p.off 32
        let hcw := r.span p.off 32
        let mark := some (p.unc.getD p.off)
        if !hcw.all p.done.contains then s
        else if hcw.any p.bads.contains then
          let q := { p with off := resume r p.bads (len + 1) (p.off + 32 + dgNat hd 6 2), unc := mark, held := false }
          s.putPlay k q
        else if !recOk hd ∨ len < p.off + 32 + dgNat hd 6 2 then s.endPlay k p 6 (some p.off)
        else
          let n := dgNat hd 6 2
          let typ := dgNat hd 3 1
          let cws := r.span p.off (32 + n)
          let bs := slice r.bytes (p.off + 32) n
          let bd := (dgNat hd 12 2 + p.bdOfs) % 4096
          if !cws.all p.done.contains then s
          else if p.pass ≠ 0 ∧ typ ≠ 3 then s.putPlay k (p.next (32 + n) 0)
          else if typ ≠ 3 ∧ s.leased bd then
            if p.held then s else (s.incSat STO_LEASE_WAITS).putPlay k { p with held := true }
          else if cws.any p.bads.contains then
            let s := if typ = 1 then s.wn (bdAddr bd 0) (setBits (s.rn (bdAddr bd 0)) 11 11 0) else s
            s.putPlay k ({ p with unc := mark }.next (32 + n) 0)
          else if typ = 3 ∧ s.descWaits p.track bs then s
          else
            s.played k p n typ (atLeast1 (dgNat hd 24 4)) (s.playApply p hd bs bd)

/-- Every lease on the buffer a record waits for has ended: it is applied (R422). -/
def leaseWaitEnd (k : Nat) (s : Blk) : Blk :=
  match s.sto.plays.find? fun e => e.1 == k with
  | some (_, p) => if p.held then (playRecord k s).stoGo else s
  | none => s

def execLeaseWaitEnd (k : Fin 4) (s : State) : Res := s.on (leaseWaitEnd k)

/-! ### FORMAT (R416) -/

/-- A FORMAT ends every operation that is under way, with NOT_OPEN. DESIGN CHOICE: R416 names only PLAYs (log entry 156). -/
def Blk.endOps (s : Blk) : Blk :=
  let go := s.sto.ops
  let s := s.withSto fun x => { x with ops := [] }
  go.foldl (fun s o => s.complete o.op 10 0 o.tag o.reel 0 []) s

/-- FORMAT is carried out in OPEN, BLANK, and FAILED with cause BBT or CATALOGUE, where a geometry is known. -/
def format (rand : List Byte) (marks : List NandBlk) (_ tag : Nat) (e : List Nat) (s : Blk) : Blk :=
  let st := s.stoState
  let may := st == 2 || st == 3 || (st == 4 && (s.f STO_STATUS_FAIL_CAUSE == 3 || s.f STO_STATUS_FAIL_CAUSE == 4))
  if !may ∨ s.sto.geo.isNone then s.complete 10 10 0 tag 0 0 []
  else if e.getD 2 0 % 2 ^ 24 ≠ 0x464D54 then s.complete 10 9 0 tag 0 0 []
  else
    let s := (s.endPlays 7).endOps
    let s := s.withSto fun x =>
      { x with bad := marks.foldl (fun l b => if l.contains b then l else b :: l) x.bad, reels := [], progs := [], queue := [], erases := [],
               erasing := [], moves := [], patrols := [], reads := [], head := none, fill := [], fillRing := false, reelSeq := 0, key := rand,
               wrapK := s.fuse.k }
    ((s.setF STO_STATUS_STATE 5).setF STO_STATUS_FAIL_CAUSE 0).defer 10 tag 0 0

/-- A FORMAT in progress is not complete before its erase is. -/
def execFormat (rand : List Byte) (marks : List NandBlk) (s : State) : Res :=
  s.on fun b => b.take8 (fun op => op == 10) fun op tag e b =>
    let b := format rand marks op tag e b
    b.withSto fun x => { x with ops := x.ops.map fun o => if o.op = 10 then { o with mark := x.wrote + 1 } else o }

end Sys2Proof.Machine
end

