-- ==== Sys2Proof/Machine/Events.lean ====
section
/-!
DEFINITION. Event records (R486, R489 to R492), the GIO inputs and what the GIO and PEV pins drive (R91, R493, R494).
-/

namespace Sys2Proof.Machine

/-! ### Posting (R486, R491, R492) -/

/-- The code table's word for a code (R497). -/
def evtCode (c : Nat) : Nat := 0x1a1000 + c % 4096

/-- The severity of a code, 5 to 15 acting as 4. -/
def Blk.severity (s : Blk) (code : Nat) : Nat := min 4 (s.rn (evtCode code) % 16)

/-- A record is posted on ring 5, which has room, and sets the summary bit of its range where it is severe enough. -/
def Blk.postRecord (s : Blk) (e : Ev) : Blk :=
  let sev := s.severity e.code
  let s := (s.ringPut 5 (e.words sev)).count 0x7C
  let bit := e.code % 4096 / 256
  if s.f EVT_CFG_IRQ_SEV ≤ sev then s.setF ⟨EVT_SUMMARY, bit, bit⟩ 1 else s

/-- EVENTS_LOST is the first record posted once there is room. -/
def Blk.postLost (s : Blk) : Blk :=
  if s.acc.lost = 0 ∨ s.ringFull 5 then s
  else
    match (s.raise 0xE01 0 (satU24 s.acc.lost) 0).evq.getLast? with
    | some e => ({ s with acc := { s.acc with lost := 0 } }).postRecord e
    | none => s

/-- An event is recorded, or dropped where ring 5 is full. -/
def Blk.recordEvent (s : Blk) (e : Ev) : Blk :=
  let w := s.rn (evtCode e.code)
  if bitOf w 4 || decide (s.severity e.code < s.f EVT_CFG_REC_SEV) then s
  else
    let s := s.postLost
    if s.ringFull 5 then
      let s := ((s.incSat (RING_DROPS 5)).incSat EVT_DROPS).setF EVT_SUMMARY_LOST 1
      { s with acc := { s.acc with lost := s.acc.lost + 1 } }
    else s.postRecord e

/-- The event to post next: of those raised in the CTL clock of the oldest one, the lowest code. -/
def nextEvent : List Ev → Option Ev
  | [] => none
  | e :: r => some (r.foldl (fun m x => if x.ctl = e.ctl ∧ x.code < m.code then x else m) e)

/-- One raised event is posted in its order; with none waiting, records lost are reported once there is room. -/
def Blk.postEvent (s : Blk) : Blk :=
  match nextEvent s.evq with
  | none => s.postLost
  | some e => ({ s with evq := s.evq.erase e }).recordEvent e

/-- Every raised event is posted, at most `n`. -/
def Blk.postEvents : Nat → Blk → Blk
  | 0, s => s
  | n + 1, s => if s.evq.isEmpty then s else Blk.postEvents n s.postEvent

def execEventRecordPost (s : State) : Res := s.on Blk.postEvent

/-- EVT_SUMMARY is W1C. -/
def summaryClear (w : Word) (s : Blk) : Blk := s.setReg EVT_SUMMARY (s.reg EVT_SUMMARY &&& ~~~ w)

def execEvtSummaryClear (w : Word) (s : State) : Res := s.on (summaryClear w)

/-! ### GIO inputs (R91, R493) -/

/-- An event with the time and the master position of a stamp. -/
def Blk.raiseAt (s : Blk) (code inst d0 d1 : Nat) (ns : Nat) (p : Int) : Blk :=
  let s := s.raise code inst d0 d1
  match s.evq.getLast? with
  | some e =>
    { s with evq := s.evq.dropLast ++ [{ e with sec := secOf ns, ns := nsOf ns, pos := if e.posValid then wrapTo 48 (p / 256) else 0 }] }
  | none => s

/-- The first cue edge after ARM of a track in CUE mode: its first page starts where the cue says, once its descriptor is there. -/
def Blk.startCue (n : Nat) (level : Bool) (p : Int) (s : Blk) (t : Nat) : Blk :=
  let x := s.trk t
  if s.trkState t ≠ 1 ∨ s.f (PGE_TRK_CFG_START_MODE t) ≠ 2 ∨ s.f (PGE_TRK_CFG_CUE_GIO t) ≠ n ∨
      s.fb (PGE_TRK_CFG_CUE_EDGE t) = level ∨ x.cue.isSome then s
  else
    let s := s.putTrk t { x with cue := some (p, s.lineIndex t) }
    match x.first with
    | some (ws, at0, test, th) =>
      let s := ({ s with twn := { s.twn with thetas := th } }).startFirst t ws at0 test
      { s with twn := { s.twn with thetas := [] } }
    | none => s

/-- A level at a GIO ball for `k` samples from POS clock `t` on. The edge is stamped with the time and position of the first sample
of its run. -/
def gioEdge (n t : Nat) (level : Bool) (k : Nat) (s : Blk) : Blk :=
  let s := s.advance t
  let old : Filt := alook ⟨false, 0⟩ s.acc.gios n
  let pos := if old.run = 0 then s.masterP else alook s.masterP s.acc.gioPos n
  let r := old.feed (atLeast1 (s.f (PAD_GIO_CFG_FILT_N n))) t k level
  let s := { s with acc := { s.acc with gios := aput s.acc.gios n r.1, gioPos := aput s.acc.gioPos n pos } }
  match r.2 with
  | none => s
  | some q =>
    let s := s.advance q
    let s := s.setF ⟨PAD_GIO_IN, n, n⟩ (b2n level)
    let ns := (s.fineAt (4 * (t - old.run)) / 65536).toNat
    let s := if s.fb (PAD_GIO_CFG_EVT n) then s.raiseAt 0xE05 n n (b2n level) ns pos else s
    [0, 1, 2, 3].foldl (Blk.startCue n level pos) s

def execGioEdge (n : Fin 16) (t : Nat) (level : Bool) (k : Nat) (s : State) : Res := s.on (gioEdge n t level k)

/-! ### What the pins drive (R493, R494, R522) -/

/-- What a GIO pin drives: none where it does not. A line-trigger pulse of FUNC 3 is in the output log. -/
def Blk.gioDrives (s : Blk) (n : Nat) : Option Bool :=
  let level :=
    match s.f (PAD_GIO_CFG_FUNC n) with
    | 1 => some (bitOf (s.rn PAD_GIO_OUT) n)
    | 2 => some (s.trkState (s.f (PAD_GIO_CFG_TRACK n)) == 2)
    | 3 => some false
    | 4 => some s.claims
    | 5 => some s.irq
    | _ => none
  match if s.alive then level.map (fun b => b != s.fb (PAD_GIO_CFG_INV n)) else none with
  | some true => if s.fb (PAD_GIO_CFG_OD n) then none else some true
  | b => b

/-- What a PEV ball drives: high impedance before the upsett has passed its first steps, in the holding state, and on a unit of a pairing
with PEV_HIZ that does not hold the claim. -/
def Blk.pevDrives (s : Blk) (n : Nat) : Option Bool :=
  if !s.alive || (s.fb TWN_CFG_EN && s.fb TWN_CFG_PEV_HIZ && !s.fb TWN_HEALTH_CLAIM_HELD) then none
  else
    let act := if s.fb (PAD_PEV_CFG_FORCE_EN n) then s.fb (PAD_PEV_CFG_FORCE_LVL n) else bitOf (s.rn PAD_PEV_STATE) n
    some (act == s.fb (PAD_PEV_CFG_POL n))

/-- What a pin shows: driven, high-impedance, pulled one way by a resistor, or a lane in electrical idle. -/
inductive Level where
  | low | high | float | pulledUp | pulledDown | idle
deriving DecidableEq, Repr

/-- The pins of R522; of the image memory and of the NAND by group. -/
inductive Pin where
  | laneTx (n : Nat) | ethTx (p : Nat) | axis (n leg : Nat) | pev (n : Nat) | tto (n : Nat) | gio (n : Nat)
  | claimN | irqN | spitMiso | jtagTdo | qspiCs | qspiClk | nandCe | nandWp | nandOther | ddrReset | ddrCommand | ddrData
deriving DecidableEq, Repr

/-- The state of a pin while RESET_N is low, until its block first drives it, and in the holding state (R427, R441, R522). -/
def Pin.atReset : Pin → Level
  | .laneTx _ | .ethTx _ => .idle
  | .axis _ _ | .qspiClk | .nandWp | .ddrReset | .ddrCommand => .low
  | .pev _ | .tto _ | .gio _ => .pulledDown
  | .claimN | .irqN | .spitMiso | .jtagTdo | .nandOther | .ddrData => .float
  | .qspiCs | .nandCe => .pulledUp

def levelOf (b : Bool) : Level := if b then .high else .low

/-- What a pin shows; none where the traffic of its owner gives its level. -/
def Blk.pin (s : Blk) (p : Pin) : Option Level :=
  match p with
  | .irqN => some (if s.irq then .low else .float)
  | _ =>
    if !s.alive then some p.atReset
    else
      match p with
      | .laneTx n => if s.laneState n = 0 || s.fb (LAN_STATUS_TX_SLEEP n) then some .idle else none
      | .ethTx q => if s.fb (ETH_CFG_EN q) then none else some .idle
      | .axis n leg =>
        let x := s.axPins n
        some (levelOf (match leg with | 0 => x.1 | 1 => x.2.1 | 2 => x.2.2.1 | _ => x.2.2.2))
      | .pev n => some (((s.pevDrives n).map levelOf).getD .pulledDown)
      | .tto n =>
        match s.tto n with
        | some x => some (levelOf (x.endNs.isSome == x.pol))
        | none => some (levelOf (!s.fb (TTO_CFG_POL n)))
      | .gio n => some (((s.gioDrives n).map levelOf).getD .pulledDown)
      | .claimN => some (if s.fb TWN_STATUS_DRIVING then .low else .float)
      | _ => none

end Sys2Proof.Machine
end

