-- ==== Sys2Proof/Machine/SelfTest.lean ====
section
/-!
DEFINITION. Reset (R427, R505), self-test and the rotating rest (R152, R153, R450 to R460), fuse repair (R457), die temperature
(R461, R462), trims (R463, R464) and the commands of the event counters (R467).
-/

namespace Sys2Proof.Machine

/-! ### Reset (R427, R505) -/

/-- The controller enters reset: everything returns to its reset value but time, the fuses, the pins' levels and what has already left
the part. -/
def Blk.restart (s : Blk) (ph : Phase) (cause : Nat) : Blk :=
  let b := { Blk.init with now := s.now, freeN := s.freeN, out := s.out, fuse := s.fuse, tim := ⟨0, s.now⟩,
                           sys := { Sys.init with phase := ph } }
  let b := s.encs.foldl (fun b e => b.setEnc e.1 { Enc.init with pinA := e.2.pinA, pinB := e.2.pinB, pinZ := e.2.pinZ }) b
  b.wn SYS_RESET_CAUSE cause

/-! ### Stakes (R152, R153, R456) -/

/-- S8 holds no span and has not failed. -/
def Blk.byeFree (s : Blk) : Bool := s.f CMP_STAKE_STATUS_BYE_FOR == 15 && !s.fb CMP_STAKE_STATUS_BYE_FAILED

/-- S8 takes span `k`, or gives it back: CMP_STAKE_STATUS, the count and STAKE_HANDOVER with the first line the new stake composes. -/
def Blk.handed (s : Blk) (k : Nat) (toBye : Bool) (line : Nat) : Blk :=
  let s := s.setF CMP_STAKE_STATUS_BYE_FOR (if toBye then k else 15)
  let s := (s.incSat CMP_HANDOVERS).count 0x1B
  s.raise 0x301 k (if toBye then k * 16 + 8 else 8 * 16 + k) (line % 2 ^ 24)

/-- A stake is retired (R456): S8 takes or keeps its span where it can, else the span has no stake. `why` is 0 a rest, 1 a request,
2 the upsett, 3 a mismatch. -/
def Blk.retireStake (s : Blk) (k why : Nat) : Blk :=
  let s := (s.raise 0xD01 k k why).setF BST_STATUS_ROT_STOPPED 1
  let by0 := s.f CMP_STAKE_STATUS_BYE_FOR
  if k = 8 then
    let s := (s.setF CMP_STAKE_STATUS_BYE_FAILED 1).setF CMP_STAKE_STATUS_BYE_FOR 15
    if by0 < 8 ∧ bitOf (s.f CMP_STAKE_STATUS_RETIRED) by0 then s.faultBit TWN_HEALTH_STAKE else s
  else
    let free := s.byeFree
    let r := s.f CMP_STAKE_STATUS_RETIRED
    let s := s.setF CMP_STAKE_STATUS_RETIRED (if bitOf r k then r else r + 2 ^ k)
    if free then s.setF CMP_STAKE_STATUS_BYE_FOR k
    else if by0 = k then s
    else s.faultBit TWN_HEALTH_STAKE

/-! ### Tests (R451 to R453, R459) -/

def Blk.testUnit (s : Blk) (u : Nat) : Blk :=
  let s := (s.setF BST_STATUS_BUSY 1).setF BST_STATUS_UNIT u
  { s with bst := { s.bst with startAt := s.now, phase := if u ≤ 8 then 2 else s.bst.phase } }

/-- A rest or a requested test takes the pattern count as it stands (R451). -/
def Blk.takePat (s : Blk) : Blk := { s with bst := { s.bst with pat := clampN 8 12 (s.f BST_CFG_PAT_LOG2) } }

/-- No test runs any more. Status timeouts were suspended while the head-link engines were under test (R460). -/
def Blk.testOver (s : Blk) : Blk :=
  let d := s.now - s.bst.startAt
  let s := if s.underTest 10 then
      (List.range 32).foldl (fun s h => s.setPort h { s.port h with lastStatus := (s.port h).lastStatus + d }) s
    else s
  (s.setF BST_STATUS_BUSY 0).setF BST_STATUS_UNIT 15

/-- A handover of the rest's stake begins (R152); at idle it completes at once (R153). -/
def Blk.handStart (s : Blk) (k : Nat) (toBye : Bool) : Blk :=
  let s := { s with bst := { s.bst with phase := if toBye then 1 else 3 } }
  let s := (s.setF CMP_STAKE_STATUS_HANDOVER k)
  { s with cmp := { s.cmp with hand := some ⟨k, toBye, 0⟩ } }

/-- The handover in progress is over. -/
def Blk.handEnd (s : Blk) : Blk := { (s.setF CMP_STAKE_STATUS_HANDOVER 15) with cmp := { s.cmp with hand := none } }

/-- LBIST_DONE once no requested unit remains pending (R459). -/
def Blk.bstDone (s : Blk) : Blk :=
  if s.rn BST_REQ ≠ 0 then s
  else
    let b := s.bst
    ({ s with bst := { b with tested := 0, failed := 0 } }).raise 0xD03 0 b.tested b.failed

/-- Operations of the store are in flight (R460). -/
def Blk.stoBusy (s : Blk) : Bool :=
  let x := s.sto
  decide (x.tags ≠ 0) || !x.ops.isEmpty || !x.queue.isEmpty

/-- Stakes or units requested that may be tested now: stakes first, by the rotation while printing and alone at idle; units 9 to 12 at
idle, HEAD not while ACTIVE, STORE not
while its operations are in flight. The unit, and whether its stake is handed over. -/
def Blk.bstPick (s : Blk) : Option (Nat × Bool) :=
  let req := s.rn BST_REQ
  let idle := s.allIdle
  match (List.range 9).find? (fun u => bitOf req u) with
  | some u =>
    if idle then some (u, false)
    else if s.fb BST_STATUS_ROT_STOPPED then none
    else some (u, u != 8)
  | none =>
    if !idle then none
    else ([9, 10, 11, 12].find? fun u => bitOf req u && !(u == 10 && s.twnState == 2) && !(u == 12 && s.stoBusy)).map fun u => (u, false)

/-- A requested test starts where it may and nothing else is under way. -/
def Blk.bstGo (s : Blk) : Blk :=
  if s.bst.phase ≠ 0 ∨ s.fb BST_STATUS_BUSY then s
  else
    match s.bstPick with
    | none => s
    | some (u, hand) =>
      let s := s.takePat
      let s := if u ≤ 8 then { s with bst := { s.bst with stake := u, asked := true, handed := false, retry := 0 } } else s
      if hand then s.handStart u true else s.testUnit u

/-- The rest is over: the rotation moves on and counts its rounds; what is requested goes next. -/
def Blk.restOver (s : Blk) : Blk :=
  let b := s.bst
  let s := { s with bst := { b with phase := 0, restEnd := s.now, handed := false, retry := 0,
                                    next := if b.asked then b.next else (b.stake + 1) % 9 } }
  let s := if b.stake = 8 ∧ !b.asked then s.incSat BST_ROUNDS else s
  s.bstGo

/-- The handover in progress completes (R152, R153). At idle the new stake composes the next line that any stake has not, in a run to come the
first one with a nozzle phase. -/
def Blk.handDone (s : Blk) : Blk :=
  match s.cmp.hand with
  | none => s
  | some x =>
    let line := if x.g ≠ 0 then s.indexOf 0 (x.g + 2) else if s.running then s.indexOf 0 (s.composedTo + 1) else if s.shuttle then 1 else 3
    let s := s.handEnd.handed x.stake x.toBye line
    if x.toBye then ({ s with bst := { s.bst with handed := true } }).testUnit x.stake else s.restOver

/-- At idle a handover completes at once (R153). -/
def Blk.handAtIdle (s : Blk) : Blk := if s.allIdle && s.cmp.hand.isSome then s.handDone else s

/-- REST_START: a rest begins REST_MS after the last one ended, back to back in STANDBY (R304), and waits for the web (R454). -/
def restStart (t : Nat) (s : Blk) : Blk :=
  let s := s.advance t
  let wait := if s.twnState = 3 then 0 else 250000 * atLeast1 (s.f BST_CFG_REST_MS)
  if s.bst.phase ≠ 0 ∨ s.fb BST_STATUS_BUSY ∨ s.fb BST_STATUS_ROT_STOPPED ∨ !s.fb BST_CFG_ROT_EN ∨ s.now < s.bst.restEnd + wait then s
  else
    let k := s.bst.next
    let s := s.takePat
    let s := { s with bst := { s.bst with stake := k, asked := false, handed := false, retry := 0 } }
    if k = 8 then s.testUnit 8 else (s.handStart k true).handAtIdle

def execRestStart (t : Nat) (s : State) : Res := s.on (restStart t)

/-- STAKE_HANDOVER: both stakes have composed line g + 1; they agree, and the line boundary at T(g) has come, or they differ at a port (R152,
R153, R455). -/
def stakeHandover (differs : Option Nat) (s : Blk) : Blk :=
  match s.cmp.hand with
  | none => s
  | some x =>
    if x.g = 0 ∨ s.fireNum + 1 < x.g then s
    else
      match differs with
      | none => if s.fireNum < x.g then s else s.handDone
      | some port =>
        let s := s.handEnd.raise 0x302 x.stake x.stake port
        if s.bst.retry = 0 then
          ({ s with bst := { s.bst with retry := 1, handed := !x.toBye } }).testUnit 8
        else
          let took := s.byeFree
          let s := s.retireStake x.stake 3
          let s := if took then s.handed x.stake true (s.indexOf 0 (x.g + 2)) else s
          s.restOver

def execStakeHandover (differs : Option (Fin 32)) (s : State) : Res := s.on (stakeHandover (differs.map fun p => p.val))

/-- The result of a unit's test: its registers and its next seed. -/
def Blk.testResult (s : Blk) (u : Nat) (sig : Nat) (pass : Bool) : Blk :=
  let seed := alook 0 s.bst.seeds u
  let s := (s.setVal BST_SIG sig 2).wn BST_LAST (u * 2 ^ 20 + seed * 2 ^ 16 + b2n pass)
  let s := s.setF ⟨BST_FAIL, u, u⟩ (b2n !pass)
  { s with bst := { s.bst with seeds := aput s.bst.seeds u ((seed + 1) % 16) } }

/-- The request of a unit has been carried out. -/
def Blk.requestDone (s : Blk) (u : Nat) (pass : Bool) : Blk :=
  let s := s.setF ⟨BST_REQ, u, u⟩ 0
  let b := s.bst
  ({ s with bst := { b with tested := b.tested ||| 2 ^ u, failed := if pass then b.failed else b.failed ||| 2 ^ u } }).bstDone

/-- How long the test under way takes: 2^PAT_LOG2 patterns of 0.8208 µs, and 40 µs for setup and unload (R451). -/
def Blk.testClks (s : Blk) : Nat := 10000 + 2 ^ s.bst.pat * 2052 / 10

/-- LBIST_TEST_END at POS clock `t` (R451, R455 to R458). -/
def lbistEnd (t : Nat) (sig : BitVec 48) (pass : Bool) (s : Blk) : Blk :=
  let s := s.advance t
  if !s.fb BST_STATUS_BUSY ∨ s.now < s.bst.startAt + s.testClks then s
  else
    let u := s.f BST_STATUS_UNIT
    let b := s.bst
    let s := (s.testOver).testResult u sig.toNat pass
    if 9 ≤ u then
      let s := if pass then s else s.raise 0xD02 u u (sig.toNat % 2 ^ 24)
      (s.requestDone u pass).bstGo
    else if b.retry = 1 then
      if pass then
        (({ s with bst := { s.bst with retry := 2 } }).handStart b.stake (!b.handed)).handAtIdle
      else (s.retireStake 8 3).restOver
    else
      let s := if b.asked then s.requestDone u pass else s
      let why := b2n b.asked
      if pass then (if b.handed then (s.handStart u false).handAtIdle else s.restOver)
      else (s.retireStake u why).restOver

def execLbistTestEnd (t : Nat) (sig : BitVec 48) (pass : Bool) (s : State) : Res := s.on (lbistEnd t sig pass)

/-- BST_REQ is W1S; a unit already pending merges. A stake that the upsett found repaired is powered off and not tested. -/
def bstReq (w : Word) (s : Blk) : Blk :=
  let off := match s.fuse.repair with
    | some k => if s.bst.off then 2 ^ k else 0
    | none => 0
  let m := w.toNat % 2 ^ 13
  let m := if m &&& off = 0 then m else m - off
  let old := s.rn BST_REQ
  let s := if m &&& old = 0 then s else s.setF BST_STATUS_MERGED 1
  (s.wn BST_REQ (old ||| m)).bstGo

def execBstReq (w : Word) (s : State) : Res := s.on (bstReq w)

/-- CANCEL removes every pending request that has not started. -/
def bstCancel (s : Blk) : Blk :=
  let old := s.rn BST_REQ
  let u := s.f BST_STATUS_UNIT
  let cur :=
    if s.bst.phase ≠ 0 && s.bst.asked then 2 ^ s.bst.stake
    else if s.fb BST_STATUS_BUSY && decide (9 ≤ u) then 2 ^ u
    else 0
  let new := old &&& cur
  let s := s.wn BST_REQ new
  if old ≠ 0 ∧ new = 0 then s.bstDone else s

def execBstCancel (s : State) : Res := s.on bstCancel

/-- An ARM aborts a test that only runs at idle; the request is pending again (R459). -/
def Blk.bstArm (s : Blk) : Blk :=
  let u := s.f BST_STATUS_UNIT
  if s.fb BST_STATUS_BUSY && (decide (9 ≤ u) || (decide (u < 8) && !s.bst.handed)) then
    let s := s.testOver.setF BST_STATUS_ABORTED 1
    if u ≤ 8 then { s with bst := { s.bst with phase := 0 } } else s
  else s

/-! ### Fuse repair (R444, R457) -/

/-- The life-cycle state the fuses give (R444): 0 BLANK, 1 PROVISIONED, 2 FIELD, 3 SERVICE, 4 RETIRED. -/
def Fuse.state (x : Fuse) : Nat :=
  if x.retire then 4 else if x.k = 0 then 0 else if x.k = 1 then 1 else if x.k % 2 = 0 then 2 else 3

/-- SEC_LC_STATUS and SYS_LC show the fuses; VFUSE_OK is what the supply read at the latest write that needs it. -/
def Blk.showFuses (s : Blk) : Blk :=
  let s := ((s.setF SEC_LC_STATUS_STATE s.fuse.state).setF SEC_LC_STATUS_K s.fuse.k).setF SEC_LC_STATUS_SIGN_EN (b2n s.fuse.signEn)
  let s := (s.setF SYS_LC_STATE s.fuse.state).setF SYS_LC_K s.fuse.k
  let s := (s.setVal SEC_DIE_ID s.fuse.dieId 3).setVal SEC_MAC s.fuse.mac 2
  match s.fuse.repair with
  | some k => s.wn BST_FUSE (16 + k)
  | none => s

/-- A write of BST_REPAIR. -/
def stakeRepair (w : Nat) (s : Blk) : Blk :=
  let cause :=
    if s.fuse.state ≠ 3 ∨ !s.fb SEC_LC_STATUS_VFUSE_OK then 1
    else if s.fuse.repair.isSome ∨ 7 < w % 16 ∨ bits w 23 8 ≠ 0x5250 then 2
    else if !s.allIdle then 3
    else 0
  if cause ≠ 0 then (s.setF BST_STATUS_REP_REJ 1).setF BST_STATUS_REP_CAUSE cause
  else
    let k := w % 16
    ({ s with fuse := { s.fuse with repair := some k } }).showFuses.raise 0xD08 k k 0

/-- VFUSE as the supply stands at the write. -/
def Blk.vfuse (s : Blk) (ok : Bool) : Blk := s.setF SEC_LC_STATUS_VFUSE_OK (b2n ok)

def execStakeRepair (w : Word) (vfuse : Bool) (s : State) : Res := s.on fun b => stakeRepair w.toNat (b.vfuse vfuse)

/-! ### Die temperature (R461, R462) -/

/-- The highest reading and its sensor, the first of equal ones. -/
def hottest (temps : List (Option Int)) : Option (Nat × Int) :=
  (List.range 8).foldl (fun m i =>
    match temps.getD i none, m with
    | some v, some x => if x.2 < v then some (i, v) else m
    | some v, none => some (i, v)
    | none, _ => m) none

/-- A condition of R462 begins. -/
def Blk.hotStart (s : Blk) (isOver : Bool) (sensor : Nat) (v : Int) : Blk :=
  if isOver then
    let s := if s.fb TRM_DIE_STATUS_OVER then s
      else (s.setF TRM_DIE_STATUS_OVER 1).raise 0xD06 sensor sensor (wrapTo 12 v)
    ({ s with trm := { s.trm with coolOver := 0 } }).faultBit TWN_HEALTH_DIE_THERMAL
  else
    let s := if s.fb TRM_DIE_STATUS_WARN then s
      else (s.setF TRM_DIE_STATUS_WARN 1).raise 0xD05 sensor sensor (wrapTo 12 v)
    { s with trm := { s.trm with coolWarn := 0 } }

/-- A cool conversion toward the end of a condition, which comes after 64 in a row. -/
def Blk.hotCool (s : Blk) (isOver : Bool) (v : Int) (limit : Int) : Blk :=
  let fld := if isOver then TRM_DIE_STATUS_OVER else TRM_DIE_STATUS_WARN
  let n := if v ≤ limit - (s.rn TRM_DIE_HYST % 256 : Nat) then (if isOver then s.trm.coolOver else s.trm.coolWarn) + 1 else 0
  let s := { s with trm := if isOver then { s.trm with coolOver := n } else { s.trm with coolWarn := n } }
  if s.fb fld && decide (64 ≤ n) then (s.setF fld 0).raise 0xD07 0 (b2n isOver) (wrapTo 12 v) else s

/-- One comparison of R462. -/
def Blk.hotCheck (s : Blk) (isOver : Bool) (sensor : Nat) (v : Int) : Blk :=
  let limit := if isOver then s.sf TRM_DIE_LIM_SHUT else s.sf TRM_DIE_LIM_WARN
  if limit ≤ v then s.hotStart isOver sensor v else s.hotCool isOver v limit

/-- The trip: 125 °C resets, and every sensor below 115 °C ends it. -/
def tripAt : Int := 1000
def tripEnd : Int := 920

/-- DIE_TEMP_CONVERSION: the results in units of 0.125 °C, none where a sensor gives none. -/
def dieTemp (t : Nat) (temps : List (Option Int)) (s : Blk) : Blk :=
  let s := s.advance t
  if s.now < s.trm.convAt + 25000 then s
  else
    let s := { s with trm := { s.trm with convAt := s.now } }.trimsDue fun h => h.kind == 4
    let s := (List.range 8).foldl (fun s i =>
      match temps.getD i none with
      | some v => s.wn (TRM_DIE_TEMP i) (2 ^ 23 + wrapTo 12 (satS 12 v))
      | none => s.setF (TRM_DIE_TEMP_VALID i) 0) s
    match hottest temps with
    | none => s
    | some (i, v) =>
      let s := s.wn TRM_DIE_MAX (i * 2 ^ 12 + wrapTo 12 (satS 12 v))
      if tripAt ≤ v then s.restart .thermal 0
      else (s.hotCheck false i v).hotCheck true i v

/-- The sensors while the controller is held by the trip. -/
def tripCool (t : Nat) (temps : List (Option Int)) (s : Blk) : Blk :=
  let s := if t ≤ s.now then s else { s with now := t }
  if (List.range 8).all fun i => match temps.getD i none with
    | some v => decide (v < tripEnd)
    | none => false
  then
    let s := { s with sys := { s.sys with phase := .ready } }
    (s.setF SYS_RESET_CAUSE_THERMAL 1).setF TRM_DIE_STATUS_TRIP_SEEN 1
  else s

def execDieTempConversion (t : Nat) (temps : List (Option Int)) (s : State) : Res :=
  s.always fun b => if b.sys.phase = .thermal then tripCool t temps b else if b.alive then dieTemp t temps b else b

/-! ### Trims (R463, R464) -/

/-- Whether a lane trim may be computed: kind 1 not while LAN_EQ.FIXED is 1. -/
def Blk.trimWanted (s : Blk) (v : TrimVal) : Bool :=
  !bitOf (s.f TRM_CFG_FREEZE) v.kind && !(v.kind.val == 1 && s.fb (LAN_EQ_FIXED v.idx))

/-- The value a round computes for kind 1: the peaking code moves by at most 1. -/
def Blk.trimValue (s : Blk) (v : TrimVal) : Int :=
  if v.kind.val = 1 then (s.f (LAN_EQ_PEAK v.idx) : Int) + (if v.val < 0 then -1 else if 0 < v.val then 1 else 0) else v.val

/-- A value is held; it replaces one of the same trim. -/
def Blk.holdTrim (s : Blk) (v : TrimVal) : Blk :=
  let same := fun h : HeldTrim => h.kind == v.kind.val && h.idx == v.idx && h.part == v.part
  let h : HeldTrim := ⟨v.kind, v.idx, v.part, s.trimValue v, [], s.now⟩
  { s with trm := { s.trm with held := s.trm.held.filter (fun h => !same h) ++ [h] } }

/-- TRIM_ROUND: a background round of every kind each INT_MS, or a round of the kinds requested. -/
def trimRound (t : Nat) (x : TrimIn) (s : Blk) : Blk :=
  let s := s.advance t
  let due := decide (s.trm.roundAt + 250000 * atLeast1 (s.f TRM_CFG_INT_MS) ≤ s.now)
  let req := s.rn TRM_REQ
  let vals := x.vals.filter fun v => (due || bitOf req v.kind) && s.trimWanted v
  let s := if due then { s with trm := { s.trm with roundAt := s.now } } else s
  (vals.foldl Blk.holdTrim (s.wn TRM_REQ 0)).showHeld

def execTrimRound (t : Nat) (x : TrimIn) (s : State) : Res := s.on (trimRound t x)

/-- TRM_REQ is W1S: a round of the kind follows at once. -/
def trmReq (w : Word) (s : Blk) : Blk := s.wn TRM_REQ (s.rn TRM_REQ ||| w.toNat % 64)

def execTrmReq (w : Word) (s : State) : Res := s.on (trmReq w)

/-- Whether a transmit delay takes effect at a line boundary: every track that owns positions of the head has passed a page boundary (R463). -/
def Blk.delayMay (s : Blk) (h : HeldTrim) : Bool :=
  h.kind == 2 && [0, 1, 2, 3].all fun v => !s.headHas h.idx v || h.done.contains v

/-- Whether a held value's boundary has come: for a lane at the latest when its Skip or ALIGN is due, and the oscillator code at the supervisor's
next refresh. Transmit delays take effect at a line boundary, and comparators and sensors take theirs at a chopper cycle start and at a conversion. -/
def Blk.trimMay (s : Blk) (h : HeldTrim) : Bool :=
  match h.kind with
  | 0 => s.laneUp h.idx && decide (s.skipWait h.idx ≤ 4000 * (s.now - h.since))
  | 1 => s.laneUp h.idx && decide (s.skipWait h.idx ≤ 4000 * (s.now - h.since))
  | 5 => true
  | _ => false

/-- TRIM_APPLY: the oldest held value whose boundary has come is applied. -/
def trimApply (s : Blk) : Blk :=
  match s.trm.held.find? s.trimMay with
  | none => s
  | some h => s.applyTrim h

def execTrimApply (s : State) : Res := s.on trimApply

/-! ### Event counters (R467) -/

def cntClear (i : Nat) (s : Blk) : Blk := s.setVal (CNT_VALUE i) 0 2

def execCntClear (i : Fin 16) (s : State) : Res := s.on (cntClear i)

/-- Every counter of the group starts or stops. -/
def Blk.group (s : Blk) (on : Bool) : Blk :=
  (List.range 16).foldl (fun s i => if s.fb (CNT_CFG_GROUP i) then s.setF (CNT_CFG_EN i) (b2n on) else s) s

def execStartGroup (s : State) : Res := s.on fun b => b.group true
def execStopGroup (s : State) : Res := s.on fun b => b.group false

end Sys2Proof.Machine
end

