-- ==== Sys2Proof/Machine/Twin.lean ====
section
/-!
DEFINITION. The pairing (R282 to R306): claims, heartbeats, the mirror, agreed changes on their way, the shadow compare and
resynchronisation. The layouts of MIRROR and SNAP messages beyond what R308 gives are the model's.
-/

namespace Sys2Proof.Machine

def Blk.withTwn (s : Blk) (f : Twn → Twn) : Blk := { s with twn := f s.twn }

/-- T_hb in POS clocks (R286). -/
def Blk.tHb (s : Blk) : Nat := 2000 * max 2 (s.f TWN_CFG_HB_TO)

/-- Word `i` of a message, and its KIND. -/
def wd (m : List Nat) (i : Nat) : Nat := m.getD i 0
def kindOf (m : List Nat) : Nat := bits (wd m 0) 23 20

/-- A value of two and of three words. -/
def wd2 (m : List Nat) (i : Nat) : Nat := wd m i + 2 ^ 24 * wd m (i + 1)
def wd3 (m : List Nat) (i : Nat) : Nat := wd2 m i + 2 ^ 48 * wd m (i + 2)

/-! ### Claiming (R287, R289) -/

/-- A port of a unit that has just claimed: a frame in progress ends with Abort, IDLE with the new claim follows, and a frame other than LINE and
IDLE that was ended is sent again after it. -/
def Blk.claimPort (s : Blk) (h : Nat) : Blk :=
  if s.portState h ≠ 4 ∨ !s.canSend h then s
  else
    let cut := match (s.port h).frame with
      | some f => if s.nowPs < f.endPs then some f else none
      | none => none
    let s := if cut.isSome then ((s.setPort h { s.port h with frame := none }).txCut h s.nowPs).emit (.abort h s.nowPs) else s
    let s := s.sendOther h 2 []
    match cut, (s.port h).frame with
    | some f, some idle =>
      if f.typ ≤ 2 then s
      else
        let bs := s.downFrame h f.typ 0 s.fireNum f.body
        let p := s.port h
        let s := s.setPort h { p with frame := some ⟨f.typ, s.fireNum, idle.endPs + s.framePs h bs.length, f.body⟩ }
        (s.txMore h idle.endPs (frameSyms bs)).emit (.down h idle.endPs bs)
    | _, _ => s

/-- The epoch a claiming unit takes. -/
def Blk.nextEpoch (s : Blk) : Nat := if s.newestEpoch = u24max then 1 else s.newestEpoch + 1

/-- The unit claims: lines whose FIRE has passed are the partner's, and from here on its own decisions govern (R287, R296). -/
def Blk.claim (s : Blk) : Blk :=
  let s := (List.range 32).foldl (fun s h => let t := s.joinPort h; t.setPort h { t.port h with resume := false }) s
  let s := (s.wn TWN_EPOCH s.nextEpoch).setRole 2
  let s := (s.setF TWN_HEALTH_CLAIM_HELD 1).setF TWN_STATUS_DRIVING 1
  let s := (List.range 32).foldl Blk.claimPort s
  s.adoptThermal.sendHb

/-! ### Resynchronising: step 1 (R305, R306) -/

/-- The unit enters RESYNC: its tracks are aborted, its line clock stops, its delay store is cleared. -/
def Blk.enterResync (s : Blk) : Blk :=
  let s := [0, 1, 2, 3].foldl Blk.trackIdle s
  let s := s.clockStop
  let s := { s with cmp := { s.cmp with lines := [], store := [], gathered := [] } }
  let s := s.memZero (s.val HLK_DLY_BASE 2 / 512 * 512) (32 * s.depth * 1536)
  let s := (s.setF TWN_STATUS_SHADOW_ON 0).withTwn fun x =>
    { x with own := [], pt := [], mism := [], good := 0, snap := [], join := none, shadowAt := none, checks := 0, due := [], wait := [], part := none,
             thIn := [] }
  ((s.wn TWN_MIRROR_PEND 0).setRole 4).sendHb

/-- CLAIM_REFUSED, once per release. -/
def Blk.refuseClaim (s : Blk) : Blk :=
  if s.twn.refused then s
  else (s.withTwn fun x => { x with refused := true }).raise 0x809 0 (s.rn TWN_HEALTH) 0

/-- The chip ID of the unit beyond WALE1, as its DISCOVER gave it. -/
def Blk.partnerId (s : Blk) : Nat := bits (s.rn (WAL_NEIGHBOUR 2)) 11 0

/-- Whether this unit is the senior one; with equal straps the one with the lower chip ID (R291). -/
def Blk.senior (s : Blk) : Bool :=
  if s.heard && s.fb TWN_HEALTH_SENIOR == s.twn.ptSenior then decide (s.chipId < s.partnerId) else s.fb TWN_HEALTH_SENIOR

/-- Whether the unit may claim as far as it is itself concerned (R286, R291). -/
def Blk.mayClaim (s : Blk) : Bool := s.fit && !s.fb TWN_HEALTH_CLAIM_LINE_FAULT

/-- The transitions of R286 that follow from the state of CLAIM_N and of the unit. -/
def Blk.roleGo (s : Blk) : Blk :=
  let up := s.fb TWN_STATUS_CLAIM_IN
  match s.twnState with
  | 1 =>
    if !up then s.enterResync
    else if s.mayClaim && (s.senior || decide (s.twn.arbAt + 2 * s.tHb ≤ s.now)) then s.claim
    else s
  | 3 =>
    if !up then s
    else if s.mayClaim then
      let s := s.claim.incSat TWN_TAKEOVERS
      s.raise 0x801 0 (s.rn TWN_EPOCH) (s.fireNum % 2 ^ 24)
    else s.refuseClaim
  | 4 | 5 => if up then s.refuseClaim else s
  | _ => s

/-! ### Commands (R283, R284, R286) -/

/-- CLAIM_N at a level for `k` samples of 4 ns from `t` on: it is accepted once it has held for 16. -/
def claimNChange (t k : Nat) (level : Bool) (s : Blk) : Blk :=
  let r := (⟨s.fb TWN_STATUS_CLAIM_IN, s.twn.claimRun⟩ : Filt).feed 16 t k level
  let s := (s.advance (t + k - 1)).withTwn fun x => { x with claimRun := r.1.run }
  if r.2.isNone then s
  else
    let s := s.setF TWN_STATUS_CLAIM_IN (b2n level)
    let s := if level then s else s.withTwn fun x => { x with refused := false }
    s.roleGo

/-- The claim supervisor has had no refresh for 1 µs. -/
def supervisorTimeout (s : Blk) : Blk := s.faultBit TWN_HEALTH_SUPERVISOR

def execSupervisorTimeout (s : State) : Res := s.on supervisorTimeout

def arbitrateTimeout (t : Nat) (s : Blk) : Blk := (s.advance t).roleGo

def twnFault (s : Blk) : Blk := s.faultBit TWN_HEALTH_FORCED

def execTwnFault (s : State) : Res := s.on twnFault

/-- RELEASE hands the claim to a synced standby. -/
def twnRelease (s : Blk) : Blk :=
  if s.twnState = 2 ∧ s.heard ∧ s.twn.ptState = 3 ∧ bitOf (s.rn TWN_PARTNER_HEALTH) 23 then (s.setRole 3).release
  else s.setF TWN_STATUS_REL_REJ 1

def execTwnRelease (s : State) : Res := s.on twnRelease

/-- FORCE_CLAIM claims from RESYNC, with the tracks in their present states. -/
def twnForce (s : Blk) : Blk :=
  if s.twnState = 4 ∧ s.fb TWN_STATUS_CLAIM_IN ∧ s.mayClaim then s.claim else s.setF TWN_STATUS_REL_REJ 1

def execTwnForceClaim (s : State) : Res := s.on twnForce

/-- The ports that are out of READY here while the partner has them READY, with since when (R301). -/
def Blk.portsNow (s : Blk) : List (Nat × Nat) :=
  let pt := s.val TWN_PARTNER_READY 2
  ((List.range 32).filter fun h => s.heard && s.portState h != 4 && bitOf pt h).map fun h => (h, alook s.now s.twn.portsAt h)

/-- Whether PORT_LIM or more of them have been so for T_hb. -/
def Blk.portsOut (s : Blk) : Bool :=
  s.fb TWN_CFG_PORT_DIAG && decide (atLeast1 (s.f TWN_CFG_PORT_LIM) ≤ (s.portsNow.filter fun e => decide (e.2 + s.tHb ≤ s.now)).length)

/-- PORTS sets. -/
def Blk.portsCheck (s : Blk) : Blk :=
  let s := s.withTwn fun x => { x with portsAt := s.portsNow }
  if s.portsOut then s.faultBit TWN_HEALTH_PORTS else s

def portsFault (t : Nat) (s : Blk) : Blk := (s.advance t).portsCheck

def execPortsFault (t : Nat) (s : State) : Res := s.on (portsFault t)

/-- Whether a span has no stake. -/
def Blk.anyDead (s : Blk) : Bool := (List.range 8).any s.deadSpan

/-- CLEAR clears the fault bits whose conditions are gone, and CLAIM_LINE_FAULT in STANDBY; a fit unit in FAILED goes to RESYNC. -/
def twnClear (s : Blk) : Blk :=
  let s := s.setF TWN_HEALTH_FORCED 0
  let s := if s.fb TRM_DIE_STATUS_OVER then s else s.setF TWN_HEALTH_DIE_THERMAL 0
  let s := if s.portsOut then s else s.setF TWN_HEALTH_PORTS 0
  let s := if s.anyDead then s else s.setF TWN_HEALTH_STAKE 0
  match s.twnState with
  | 3 => (s.setF TWN_HEALTH_CLAIM_LINE_FAULT 0).sendHb.roleGo
  | 5 => if s.fit then s.enterResync.roleGo else s.sendHb
  | _ => s.sendHb.roleGo

/-! ### Heartbeats (R291 to R293) -/

/-- A SNAP message with an item number. -/
def snapMsg (item : Nat) (ws : List Nat) : List Nat :=
  (5 * 2 ^ 20 + item) :: (List.range 7).map fun i => ws.getD i 0 % 2 ^ 24

/-- The master count at a local time, as SNAP item 11 carries it (R306, step 4). -/
def Blk.countMsg (s : Blk) : List Nat :=
  let t := s.timNs % 2 ^ 48
  let c := wrapTo 48 (s.masterP / 256)
  snapMsg 11 [t, t / 2 ^ 24, c, c / 2 ^ 24]

/-- A heartbeat every 8 µs, and to a partner that resynchronises the master count with it. -/
def heartbeatSend (t : Nat) (s : Blk) : Blk :=
  let s := s.advance t
  if s.now < s.twn.sentAt + 2000 then s
  else
    let s := s.sendHb
    if s.twnState = 2 ∧ s.twn.ptState = 4 then s.pairOut s.countMsg else s

def execHeartbeatSend (t : Nat) (s : State) : Res := s.on (heartbeatSend t)

/-- CLAIM_CONFLICT. -/
def Blk.conflict (s : Blk) (why : Nat) : Blk :=
  (s.setF TWN_STATUS_CONFLICT 1).raise 0x804 0 why (s.rn TWN_PARTNER_EPOCH)

/-- Both units have shown the claim in two heartbeats: the newer epoch keeps it, or the senior unit (R291). -/
def Blk.clashCheck (s : Blk) : Blk :=
  let x := s.twn
  if x.held < 2 ∨ x.ptHeld < 2 then s.withTwn fun x => { x with clash := false }
  else if x.clash then s
  else
    let s := (s.withTwn fun x => { x with clash := true }).conflict 0
    let own := s.rn TWN_EPOCH
    let pt := s.rn TWN_PARTNER_EPOCH
    let keep := newer own pt || (own == pt && s.senior)
    if keep ∨ s.twnState ≠ 2 then s
    else ((s.setF TWN_HEALTH_CLAIM_LINE_FAULT 1).setRole 3).release

/-- The partner's sum against the own one (R298). -/
def Blk.sumCheck (s : Blk) : Blk :=
  let own := s.cfgSum
  if own = s.rn TWN_PARTNER_SUM then (s.setF TWN_HEALTH_SUM_MIS 0).withTwn fun x => { x with sums := 0 }
  else
    let n := s.twn.sums + 1
    let s := s.withTwn fun x => { x with sums := n }
    if n = 64 then (s.setF TWN_HEALTH_SUM_MIS 1).raise 0x80A 0 own (s.rn TWN_PARTNER_SUM) else s

/-- What the partner has received of the own heartbeats acknowledges the agreed changes sent before them; a paired write that this unit has made
is then made on both (R297). -/
def Blk.ackAgreed (s : Blk) (a : Nat) : Blk :=
  let got := fun q : Nat => decide ((a + 256 - q) % 256 < 128)
  let s := s.withTwn fun x => { x with agreed := x.agreed.map fun g => if got g.seq then { g with acked := true } else g }
  match s.twn.pwSeq with
  | some q => if got q then (s.withTwn fun x => { x with pwSeq := none }).setF TWN_PW_STATUS_BUSY 0 else s
  | none => s

/-- HEARTBEAT_RECEIVED. A partner that begins to resynchronise ends the shadow compare; a unit that resynchronises asks for the snapshot once
heartbeats pass both ways, and again after a break. -/
def heartbeatReceived (t : Nat) (m : List Nat) (s : Blk) : Blk :=
  let s := s.advance t
  if s.twnState = 0 ∨ m.length ≠ 8 ∨ kindOf m ≠ 1 then s
  else
    let first := !s.heard
    let s := if s.twnState = 2 ∧ wd m 0 % 8 = 4 ∧ s.twn.ptState ≠ 4 then
        (s.setF TWN_STATUS_SHADOW_ON 0).withTwn fun x => { x with own := [], pt := [] }
      else s
    let old := bits (s.rn TWN_PARTNER_HEALTH) 6 0
    let health := wd m 1
    let s := (s.setF TWN_STATUS_PARTNER_UP 1).setF TWN_HEALTH_PARTNER_SILENT 0
    let s := (((s.wn TWN_PARTNER_HEALTH health).wn TWN_PARTNER_EPOCH (wd m 2)).wn TWN_PARTNER_SUM (wd m 3)).setVal TWN_PARTNER_READY
      (wd m 6 + 2 ^ 24 * (wd m 7 % 256)) 2
    let s := s.withTwn fun x =>
      { x with hbAt := s.now, ptSeq := bits (wd m 0) 19 12, ptState := wd m 0 % 8, ptHeld := if bitOf health 22 then x.ptHeld + 1 else 0,
               ptSenior := bitOf health 17 }
    let s := s.ackAgreed (bits (wd m 7) 23 16)
    let s := if bits health 6 0 &&& (127 - old) ≠ 0 then s.raise 0x805 0 health 0 else s
    let s := if first && s.fb TWN_HEALTH_SENIOR == s.twn.ptSenior then s.conflict 1 else s
    let s := s.sumCheck.clashCheck.portsCheck
    let step := s.f TWN_STATUS_RESYNC_STEP
    if s.twnState = 4 ∧ (step = 1 ∨ (first = true ∧ step < 6)) ∧ s.linkUp 2 ∧ !bitOf health 21 then
      ((s.setF TWN_STATUS_RESYNC_STEP 2).withTwn fun x => { x with snap := [], checks := 0 }).pairOut (snapMsg 0 [3])
    else s

def wordsOf (m : List Word) : List Nat := m.map fun w => w.toNat

def execHeartbeatReceived (t : Nat) (m : List Word) (s : State) : Res := s.on (heartbeatReceived t (wordsOf m))

/-- No heartbeat for T_hb: the interval counts, the event comes once, and a standby goes by its own decisions (R293, R303). A paired write that was
not acknowledged counts as made on this unit only (R297). -/
def partnerSilent (t : Nat) (s : Blk) : Blk :=
  let s := s.advance t
  if s.twnState = 0 ∨ s.now < s.twn.hbAt + s.tHb then s
  else
    let was := s.fb TWN_HEALTH_PARTNER_SILENT
    let led := s.follows
    let s := (s.setF TWN_HEALTH_PARTNER_SILENT 1).setF TWN_STATUS_PARTNER_UP 0
    let s := ((s.incSat TWN_HB_MISSED).count 0x70).withTwn fun x => { x with hbAt := s.now, ptHeld := 0 }
    let s := if was then s else s.raise 0x802 0 s.twn.ptSeq 0
    let s := match s.twn.pwSeq with
      | some _ => ((s.withTwn fun x => { x with pwSeq := none }).setF TWN_PW_STATUS_BUSY 0).setF TWN_PW_STATUS_LOCAL 1
      | none => s
    if led then s.adoptThermal else s

def execPartnerSilent (t : Nat) (s : State) : Res := s.on (partnerSilent t)

/-! ### The mirror (R294) -/

/-- MIRROR_DIFF. -/
def Blk.mirrorDiff (s : Blk) (r : Nat) : Blk :=
  (s.setF TWN_STATUS_MIRROR_DIFF 1).raise 0x806 r r (s.rn TWN_MIRROR_PEND)

/-- The entries that wait to be compared: those beyond 64 wait without words, to be consumed alone. -/
def Twn.pend (x : Twn) : Nat := (x.wait.filter fun e => !e.2.isEmpty).length

def Blk.showPend (s : Blk) : Blk := s.wn TWN_MIRROR_PEND s.twn.pend

/-- The own copy of a mirrored entry is consumed and, where it has not been given up, compared. -/
def Blk.mirrorCompare (s : Blk) (r : Nat) (ws : List Nat) : Blk :=
  let own := (s.ringFront r).map fun w => w % 2 ^ 24
  let s := s.ringPop r
  if own = ws ∨ ws = [] then s else s.mirrorDiff r

/-- Entries that waited are compared once the own ring holds them. -/
def mirrorCatch (r : Nat) : Nat → Blk → Blk
  | 0, s => s
  | n + 1, s =>
    match s.twn.wait.find? fun e => e.1 == r with
    | none => s
    | some e =>
      if !s.ringHas r then s
      else
        let s := s.withTwn fun x => { x with wait := x.wait.erase e }
        mirrorCatch r n (s.showPend.mirrorCompare r e.2)

/-- A mirrored entry is taken: the own copy is consumed and compared, now or once the ring holds it, and the entry is acted on in its order. A
65th that waits is not compared. -/
def Blk.takeMirrored (s : Blk) (r fire : Nat) (ws : List Nat) : Blk :=
  let s := s.withTwn fun x => { x with due := x.due ++ [(⟨r, fire, ws, x.thIn⟩ : Mirrored)], thIn := [], part := none }
  if s.ringHas r && !s.twn.wait.any fun e => e.1 == r then s.mirrorCompare r ws
  else
    let full := decide (64 ≤ s.twn.pend)
    let s := (s.withTwn fun x => { x with wait := x.wait ++ [(r, if full then [] else ws)] }).showPend
    if full then s.mirrorDiff r else s

/-- MIRROR_RECEIVED: part 0 and 1 of an entry, part 2 eight θ before them. -/
def mirrorReceived (m : List Nat) (s : Blk) : Blk :=
  if !s.mirrors ∨ kindOf m ≠ 4 then s
  else
    match wd m 0 % 4 with
    | 0 => s.withTwn fun x => { x with part := some m }
    | 1 =>
      match s.twn.part with
      | none => s
      | some a => s.takeMirrored (wd a 3 % 16) (wd2 a 1) ((List.range 4).map (fun i => wd a (4 + i)) ++ (List.range 4).map fun i => wd m (4 + i))
    | _ =>
      let g := wd m 1 % 4
      let th := (List.range 8).filterMap fun i =>
        if bitOf (wd m 3) i then some (8 * g + i, 2 ^ 23 + bits (wd m (4 + i / 2)) (12 * (i % 2) + 11) (12 * (i % 2))) else none
      s.withTwn fun x => { x with thIn := x.thIn ++ th }

def execMirrorReceived (m : List Word) (s : State) : Res := s.on (mirrorReceived (wordsOf m))

/-- The θ messages of a page descriptor. -/
def thetaWords (th : List (Nat × Nat)) (g : Nat) : List Nat :=
  let at1 := fun i : Nat => (th.find? fun e => e.1 == 8 * g + i).map fun e => e.2 % 4096
  let v := fun i : Nat => (at1 i).getD 0
  let mask := (List.range 8).foldl (fun m i => m + if (at1 i).isSome then 2 ^ i else 0) 0
  [4 * 2 ^ 20 + 2, g, 0, mask] ++ (List.range 4).map fun i => v (2 * i) + 4096 * v (2 * i + 1)

/-- The θ an active unit takes as it consumes a page descriptor of a track, sent ahead of the entry (R294). -/
def Blk.takeThetas (s : Blk) (t : Nat) : Blk :=
  let th := ((List.range 32).filter fun h => s.headHas h t).filterMap fun h =>
    let w := (s.takeTheta h).rn (ALN_THETA h)
    if bitOf w 23 then some (h, w) else none
  let gs := (List.range 4).filter fun g => th.any fun e => e.1 / 8 == g
  let s := gs.foldl (fun s g => s.pairOut (thetaWords th g)) s
  s.withTwn fun x => { x with thetas := th }

/-! ### Agreed changes on their way (R295) -/

/-- AGREE_RECEIVED: the change waits for its line; its arrival acknowledges it. -/
def agreeReceived (m : List Nat) (s : Blk) : Blk :=
  if s.twnState = 0 ∨ kindOf m ≠ 3 then s
  else s.withTwn fun x => { x with agreed := x.agreed ++ [(⟨wd2 m 1, wd m 3 % 16, wd m 4, wd m 5, true, 256⟩ : Agr)] }

def execAgreeReceived (m : List Word) (s : State) : Res := s.on (agreeReceived (wordsOf m))

/-! ### The shadow compare (R299, R300) -/

/-- 64 matching lines with equal sums end a resynchronisation. -/
def Blk.syncCheck (s : Blk) : Blk :=
  if s.twnState = 4 ∧ s.f TWN_STATUS_RESYNC_STEP = 8 ∧ 64 ≤ s.twn.good ∧ s.cfgSum = s.rn TWN_PARTNER_SUM then
    let s := ((s.setRole 3).setF TWN_HEALTH_SYNCED 1).raise 0x807 0 (s.fireNum % 2 ^ 24) 0
    s.sendHb.roleGo
  else s

/-- A mismatching line. -/
def Blk.mismatch (s : Blk) (n crc : Nat) : Blk :=
  let win := 2 ^ clampN 6 20 (s.f TWN_SHADOW_CFG_WIN_LOG2)
  let seen := s.twn.mism.any fun k => k / win == n / win
  let recent := n :: s.twn.mism.filter fun k => decide (n < k + win)
  let s := ((s.incSat TWN_SHADOW_MIS).count 0x6F).withTwn fun x => { x with mism := recent, good := 0 }
  let s := if seen then s else s.raise 0x803 0 (n % 2 ^ 24) crc
  if s.twnState = 3 ∧ atLeast1 (s.f TWN_SHADOW_CFG_LIMIT) < recent.length then s.enterResync else s

/-- A line whose two CRCs are known is compared. -/
def Blk.shadowCompare (s : Blk) (n : Nat) : Blk :=
  match s.twn.own.find? (fun e => e.1 == n), s.twn.pt.find? (fun e => e.1 == n) with
  | some a, some b =>
    let s := s.withTwn fun x => { x with own := x.own.erase a, pt := x.pt.erase b }
    if a.2 = b.2 then (s.withTwn fun x => { x with good := x.good + 1 }).syncCheck else s.mismatch n b.2
  | _, _ => s

/-- SHADOW_RECEIVED. -/
def shadowReceived (m : List Nat) (s : Blk) : Blk :=
  if !s.fb TWN_STATUS_SHADOW_ON ∨ kindOf m ≠ 2 then s
  else
    let n := wd2 m 1
    (s.withTwn fun x => { x with pt := (n, wd m 3) :: x.pt.take 1023 }).shadowCompare n

/-- A line's nozzle phase is complete: its CRC is sent, and compared while SHADOW_ON is 1. -/
def Blk.shadowLine (s : Blk) (n : Nat) : Blk :=
  if s.twnState == 0 then s
  else
    let codes := fun h => match s.portLine h n with
      | some l => l.codes
      | none => []
    let crc := crc24 ((List.range 32).map codes)
    let s := s.pairOut [2 * 2 ^ 20, n % 2 ^ 24, n / 2 ^ 24, crc, 0, 0, 0, 0]
    if s.fb TWN_STATUS_SHADOW_ON then (s.withTwn fun x => { x with own := (n, crc) :: x.own.take 1023 }).shadowCompare n else s

/-! ### Resynchronising: steps 2 to 7 (R306) -/

/-- The nozzle table in force, six words to a message. -/
def Blk.nozMsgs (s : Blk) : List (List Nat) :=
  (List.range 21846).map fun k => [6 * 2 ^ 20, 6 * k] ++ (List.range 6).map fun i => s.rn (0x080000 + 6 * k + i)

/-- A started page as SNAP items 6 to 8. -/
def Page.items (p : Page) (t : Nat) : List (List Nat) :=
  let c := wrapTo 72 p.cRaw
  let w := fun i => p.words.getD i 0
  [snapMsg 6 [t, p.start, p.start / 2 ^ 24, c, c / 2 ^ 24, c / 2 ^ 48, p.gap],
    snapMsg 7 [w 0, w 1, w 2, w 3, w 4, w 5],
    snapMsg 8 [w 6, w 7, b2n p.test.isSome, p.test.getD 0, b2n p.last]]

/-- The snapshot, taken at the present fire number. -/
def Blk.snapItems (s : Blk) : List (List Nat) :=
  let c := wrapTo 72 s.compare
  let hold := s.val HLK_HOLD_MAP 2
  [snapMsg 1 [s.fireNum, s.fireNum / 2 ^ 24, c, c / 2 ^ 24, c / 2 ^ 48, b2n s.running]] ++
    [0, 1, 2, 3].map (fun t => snapMsg 2 [t, s.lineIndex t, s.lineIndex t / 2 ^ 24, s.trkState t]) ++
    [snapMsg 3 [s.f LCK_STATUS_RUNG + 4 * s.f LCK_STATUS_FLOOR, hold, hold / 2 ^ 24]] ++
    ((List.range 32).map fun h => snapMsg 4 [h, s.rn (ALN_THETA h)]) ++
    ([0, 1, 2, 3, 8, 10, 11].map fun r => snapMsg 5 [r, s.rn (RING_CONS r)]) ++
    ([0, 1, 2, 3].flatMap fun t => ((s.trk t).pages.filter fun p => decide (s.lineIndex t < p.stop)).flatMap fun p => p.items t) ++
    [snapMsg 9 []]

/-- The own master count at a local time in ns, from the speed estimate. -/
def Blk.countAt (s : Blk) (t : Nat) : Int :=
  let dt : Int := (s.timNs % 2 ^ 48 : Nat) - (t : Int)
  match s.masterRaw with
  | none => s.masterP / 256
  | some d => (s.masterP - (if s.masterRev then -1 else 1) * dt * 64 / d) / 256

/-- Step 4: the own count is offset to the partner's, then 16 more are compared; a difference above 1 repeats the step. -/
def Blk.countCheck (s : Blk) (t : Nat) (c : Int) : Blk :=
  let d := sext 48 (wrapTo 48 (c - s.countAt t))
  if s.twn.checks ≠ 0 ∧ d.natAbs ≤ 1 then
    let n := s.twn.checks + 1
    let s := s.withTwn fun x => { x with checks := n }
    if n = 17 then (s.setF TWN_STATUS_RESYNC_STEP 5).pairOut (snapMsg 0 [5]) else s
  else
    let s := match s.masterEnc with
      | some n => s.setSval (POS_COUNT n) 2 48 (s.encCount n + d)
      | none => s
    s.withTwn fun x => { x with checks := 1 }

/-- A page of the snapshot: one that has begun prints nothing more here, a later one is taken whole. -/
def Blk.joinPage (l : Nat) (s : Blk) (ms : List Nat × List Nat × List Nat) : Blk :=
  let a := ms.1
  let b := ms.2.1
  let c := ms.2.2
  let t := wd a 1 % 4
  let ws := (List.range 6).map (fun i => wd b (1 + i)) ++ [wd c 1, wd c 2]
  let test := if wd c 3 = 1 then some (wd c 4) else none
  let p := s.newPage ws (wd2 a 2) (wd a 7) (sext 72 (wd3 a 4)) test
  let p := { p with last := wd c 5 == 1 }
  let begun := decide (p.start ≤ l)
  let p := if begun then { p with aborted := true, released := true, bounded := true } else p
  let x := s.trk t
  let s := s.putTrk t { x with pages := x.pages ++ [p], follow := some (p.stop, p.cRaw + ((p.len + p.gap : Nat) : Int) * s.pitch),
                               ended := p.last, taken := true }
  if begun then s else s.insertCtl t ⟨q256 p.cRaw, 1, 0, p.words.getD 3 0 % 4096, p.tag, false, false⟩

/-- The items 6 to 8 of a track's pages, three to a page. -/
def pageItems : Nat → List (List Nat) → List (List Nat × List Nat × List Nat)
  | n + 1, a :: b :: c :: r => (a, b, c) :: pageItems n r
  | _, _ => []

/-- Step 5: at the join line, 64 lines on while the partner's line clock runs, the unit takes over the line clock, the decisions in force, the
ring indices and the started pages. -/
def Blk.joinLine (s : Blk) : Blk :=
  let snap := s.twn.snap
  let item := fun k => snap.filter fun m => wd m 0 % 256 == k
  match (item 1).head? with
  | none => s
  | some m =>
    let fs := wd2 m 1
    let k := if wd m 6 = 1 then 64 else 0
    let j := fs + k
    let s := ((s.setVal HLK_FIRE_NUM j 2).setSval LCK_COMPARE 3 72 (sext 72 (wd3 m 3) + k * s.pitch)).setF LCK_STATUS_RUNNING (wd m 6 % 2)
    let s := { s with lck := { s.lck with h := s.masterP, lastIssue := none, warned := false, trigs := [] } }
    let s := (item 2).foldl (fun s m => (s.setVal (LCK_LINE_INDEX (wd m 1)) (wd2 m 2 + if s.trkEn (wd m 1) then k else 0) 2).setF (PGE_TRK_STATUS_STATE (wd m 1)) (wd m 4 % 4)) s
    let s := (item 3).foldl (fun s m =>
      let s := (s.setF LCK_STATUS_RUNG (wd m 1 % 4)).setF LCK_STATUS_FLOOR (wd m 1 / 4 % 4)
      let s := s.setVal HLK_HOLD_MAP (wd2 m 2) 2
      { s with cmp := { s.cmp with hold := wd2 m 2 % 2 ^ 32 } }) s
    let s := (item 4).foldl (fun s m => s.wn (ALN_THETA (wd m 1 % 32)) (wd m 2)) s
    let s := (item 5).foldl (fun s m => s.wn (RING_CONS (wd m 1 % 16)) (wd m 2)) s
    let s := (pageItems 64 (snap.filter fun m => decide (6 ≤ wd m 0 % 256 ∧ wd m 0 % 256 ≤ 8))).foldl
      (fun s a => s.joinPage (s.lineIndex (wd a.1 1 % 4)) a) s
    let s := { s with cmp := { s.cmp with gathered := (List.range 8).map fun c => (c, j) } }
    let s := (List.range 32).foldl (fun s h => s.setPort h { s.port h with lastFire := j, lastLine := j, lines := [] }) s
    (s.withTwn fun x => { x with join := some j, snap := [] }).setF TWN_STATUS_RESYNC_STEP 6

/-- SNAP_RECEIVED: a request, answered by the active unit; an item for the unit that resynchronises; or the start of the shadow compare. -/
def snapReceived (m : List Nat) (s : Blk) : Blk :=
  if kindOf m ≠ 5 then s
  else
    let step := s.f TWN_STATUS_RESYNC_STEP
    match wd m 0 % 256 with
    | 0 =>
      if s.twnState ≠ 2 then s
      else if wd m 1 = 3 then s.pairAll s.nozMsgs
      else s.pairAll s.snapItems
    | 10 => if s.twnState = 2 then s.setF TWN_STATUS_SHADOW_ON 1 else s
    | 11 => if s.twnState = 4 ∧ step = 4 then s.countCheck (wd2 m 1) (sext 48 (wd2 m 3)) else s
    | 9 => if s.twnState = 4 ∧ step = 5 then s.joinLine else s
    | _ => if s.twnState = 4 ∧ step = 5 then s.withTwn fun x => { x with snap := x.snap ++ [m] } else s

def execSnapReceived (m : List Word) (s : State) : Res := s.on (snapReceived (wordsOf m))

/-- NOZCOPY_RECEIVED (step 3): six nozzle words from a first slot on, in force at once. -/
def nozcopyReceived (m : List Nat) (s : Blk) : Blk :=
  let step := s.f TWN_STATUS_RESYNC_STEP
  if kindOf m ≠ 6 ∨ s.twnState ≠ 4 ∨ step < 2 ∨ 3 < step then s
  else
    let i := wd m 1
    let s := (List.range 6).foldl (fun s k => if i + k < 131072 then s.wn (0x080000 + i + k) (wd m (2 + k)) else s) s
    s.setF TWN_STATUS_RESYNC_STEP (if 131072 ≤ i + 6 then 4 else 3)

def execNozcopyReceived (m : List Word) (s : State) : Res := s.on (nozcopyReceived (wordsOf m))

/-- Steps 6 and 7 as lines pass: every track has begun a page since the join, and DEPTH lines later the shadow compare starts. -/
def Blk.resyncLine (s : Blk) : Blk :=
  if s.twnState ≠ 4 then s
  else
    match s.f TWN_STATUS_RESYNC_STEP with
    | 6 =>
      let ok := [0, 1, 2, 3].all fun t => !(s.trkState t == 1 || s.trkState t == 2) || (s.trk t).pages.any fun p => p.bounded && !p.aborted
      if ok then (s.setF TWN_STATUS_RESYNC_STEP 7).withTwn fun x => { x with shadowAt := some (s.fireNum + s.depth) } else s
    | 7 =>
      match s.twn.shadowAt with
      | some n =>
        if n ≤ s.fireNum then
          (((s.setF TWN_STATUS_RESYNC_STEP 8).setF TWN_STATUS_SHADOW_ON 1).withTwn fun x => { x with good := 0 }).pairOut (snapMsg 10 [])
        else s
      | none => s
    | _ => s

end Sys2Proof.Machine
end

