-- ==== Sys2Proof/Machine/Idle.lean ====
section
/-!
DEFINITION. Idle (R32, R36, R37): what the blocks do as an idle-bound register comes into force, and the start and stop of the line clock
(R66, R68).
-/

namespace Sys2Proof.Machine

/-- What a block does as one of its idle-bound registers comes into force; `old` is the state before. -/
def Blk.idleHook (old s : Blk) (a : Nat) : Blk :=
  let n := a % 2 ^ 16
  if a = LCK_MASTER then s.setF LCK_STATUS_FB_ACTIVE 0
  else if a = TIM_CFG then s.timCfgApplied (old.rn TIM_CFG)
  else if LCK_RUNG_LIMIT 0 ≤ a ∧ a ≤ LCK_RUNG_LIMIT 2 then s.rateRecheck
  else if a / 2 ^ 16 = 2 ∧ n < 0x100 ∧ n % 0x20 = 0 then
    if !s.fb (POS_CFG_EN (n / 0x20)) then s
    else if old.fb (POS_CFG_EN (n / 0x20)) then s.idxChanged (n / 0x20)
    else s.encEnable (n / 0x20)
  else if a / 2 ^ 16 = 2 ∧ n < 0x100 ∧ n % 0x20 = 1 then (if s.fb (POS_CFG_EN (n / 0x20)) then s.idxChanged (n / 0x20) else s)
  else if a / 2 ^ 16 = 5 ∧ 0x100 ≤ n ∧ n < 0x200 ∧ n % 8 = 0 then
    let h := (n - 0x100) / 8
    if s.fb (CMP_HEAD_CFG_EN h) && decide (4096 < s.slots h) then
      (s.setF CMP_STATUS_HEAD_CFG_INV 1).raise 0x305 h h (s.rn a)
    else s
  else if a / 2 ^ 16 = 10 ∧ n < 0x2000 ∧ n % 0x100 = 0 then s.portEnable (n / 0x100)
  else if a / 2 ^ 16 = 11 ∧ n < 0x80 ∧ n % 0x20 = 0 then s.camEnable (n / 0x20)
  else if a = WAL_CFG then (if s.fb WAL_CFG_SPLIT = old.fb WAL_CFG_SPLIT then s else s.splitChanged)
  else if a = SHT_CFG ∧ s.shuttle ∧ !old.shuttle then
    [0, 1, 2, 3].foldl (fun s c => s.setCam c { s.cam c with cmp := none, outst := none }) s
  else s

/-- RUN as it stands starts or stops the line clock. -/
def Blk.runHook (s : Blk) : Blk := if s.fb LCK_CTRL_RUN then s.clockStart else s.clockStop

/-- Every value held for idle comes into force, RUN after the others. -/
def Blk.idleCommit (s : Blk) : Blk :=
  let go := (s.held.filter fun h => h.bnd == .idle).map fun h => h.addr
  if go.isEmpty || s.fb SYS_COMMIT_HOLD then s
  else
    let t := (go.filter fun a => a != LCK_CTRL).foldl (Blk.idleHook s) (s.commit fun h => h.bnd == .idle)
    if go.contains LCK_CTRL then t.runHook else t

/-- Whatever has waited for idle goes ahead while all tracks are IDLE: a handover (R153), held values (R36) and tests (R459). -/
def Blk.settle (s : Blk) : Blk := if s.allIdle then s.handAtIdle.idleCommit.bstGo else s

/-- An idle-bound register written. -/
def Blk.writeIdle (s : Blk) (a : Nat) (w : Word) : Blk := (s.hold a w .idle).settle

def execLineClockStart (s : State) : Res := s.on fun b => b.writeIdle LCK_CTRL 1
def execLineClockStop (s : State) : Res := s.on fun b => b.writeIdle LCK_CTRL 0

/-- A write of WAL_ID clears ID_CONFLICT (R340). -/
def walIdWrite (w : Word) (s : Blk) : Blk := (s.setF WAL_STATUS_ID_CONFLICT 0).writeIdle WAL_ID (w &&& 0xfff)

def execWalIdWrite (w : Word) (s : State) : Res := s.on (walIdWrite w)

/-- A write of SYS_COMMIT: the release lets LAN_EQ values take effect at their lanes' next Skip or ALIGN (R328), cycle values of axes that
run no chopper and idle values at once, and the enables of wale lanes in OFF (R257, R322). -/
def sysCommit (w : Word) (s : Blk) : Blk :=
  let s := s.setF SYS_COMMIT_HOLD (w.toNat % 2)
  if s.fb SYS_COMMIT_HOLD then s
  else
    let s := (List.range 44).foldl Blk.eqCheck s
    let s := (List.range 6).foldl Blk.cycleNow s
    ((List.range 8).foldl (fun s i => s.laneEnable (32 + i)) s).settle

def execSysCommitWrite (w : Word) (s : State) : Res := s.on (sysCommit w)

/-! ### Commands that may leave every track IDLE (R36) -/

def execQuadratureTransition (n : Fin 8) (t : Nat) (a b : Bool) (k : Nat) (s : State) : Res :=
  s.on fun x => (quadrature n t a b k x).settle
def execIndexCapture (n : Fin 8) (t : Nat) (a b z : Bool) (k : Nat) (s : State) : Res :=
  s.on fun x => (encLevels n t a b z k x).settle
def execPosForceFault (n : Fin 8) (s : State) : Res := s.on fun x => (posForce n x).settle
def execBeaconTimeout (t : Nat) (s : State) : Res := s.on fun x => (beaconTimeout t x).settle
def execWaleMessageReceived (l : Fin 3) (t : Nat) (m : List Word) (crc : Nat) (s : State) : Res :=
  s.on fun x => (waleReceived l t (wordsNat m) crc x).settle
def execBeaconReceived (l : Fin 3) (t : Nat) (m : List Word) (s : State) : Res :=
  s.on fun x => if mtypeOf (wordsNat m) = 2 then (waleReceived l t (wordsNat m) (x.waleCheck l (wordsNat m)) x).settle else x
def execStallCheck (n : Fin 6) (t : Nat) (s : State) : Res := s.on fun x => (stallCheck n t x).settle
def execShadowReceived (m : List Word) (s : State) : Res := s.on fun x => (shadowReceived (wordsOf m) x).settle

/-! ### Entries the own rings now hold (R294) -/

/-- Mirrored entries that waited for the own copy are compared with it. -/
def Blk.catchUp (s : Blk) : Blk :=
  if s.twn.wait.isEmpty then s else [0, 1, 2, 3, 8, 10, 11].foldl (fun s r => mirrorCatch r 64 s) s

def execIngestDesc (k : Fin 4) (s : State) : Res := s.on fun b => (ingestDesc k b).catchUp
def execPlayRecord (k : Fin 4) (s : State) : Res := s.on fun b => (playRecord k b).stoGo.catchUp

end Sys2Proof.Machine
end

