-- ==== Sys2Proof/Machine/Tracks.lean ====
section
/-!
DEFINITION. The commands of the tracks (R87 to R90, R237) and the consumption of page descriptors (R93 to R96, R220, R249, R294).
-/

namespace Sys2Proof.Machine

/-! ### ARM, STOP and ABORT -/

def Blk.cmdRej (s : Blk) (t : Nat) : Blk := s.setF (PGE_TRK_STATUS_CMD_REJ t) 1

/-- Whether the ranges of two tracks overlap. -/
def Blk.overlap (s : Blk) (t u : Nat) : Bool :=
  let a := max (s.rn (PGE_TRK_RANGE_FIRST t)) (s.rn (PGE_TRK_RANGE_FIRST u))
  let b := min (s.rn (PGE_TRK_RANGE_LAST t)) (s.rn (PGE_TRK_RANGE_LAST u))
  decide (a ≤ b)

/-- The conditions of an ARM outside shuttle mode's own (R87). -/
def Blk.mayArm (s : Blk) (t : Nat) : Bool :=
  s.trkState t == 0 && s.trkEn t && s.running && !s.lckHold && !([0, 1, 2, 3].any fun u => u != t && s.trkEn u && s.overlap t u)

/-- ARM. It aborts an eye scan in UP (R330) and a test that only runs at idle (R459). -/
def trackArm (t : Nat) (s : Blk) : Blk :=
  if s.shuttle && t != 0 then s.cmdRej t
  else
    match (if s.shuttle && s.trkState 0 == 0 then s.shtCause else none) with
    | some c => (s.cmdRej t).raise 0x606 0 c 0
    | none =>
      if !s.mayArm t then s.cmdRej t
      else
        let s := s.bstArm
        let s := match s.scan with
          | some x => if x.st = 2 then s.scanAbort else s
          | none => s
        let s := s.putTrk t { Trk.init with old := (s.trk t).old, armAt := s.lineIndex t }
        let s := s.setF (PGE_TRK_STATUS_STATE t) 1
        if s.shuttle then s.shtArmed else s

/-- The current page is the last one; where its gap has triggered to its end, the track is at once IDLE. -/
def Blk.stopAfter (s : Blk) (t : Nat) (p : Page) : Blk :=
  let s := s.putPage t p { p with last := true }
  let s := s.putTrk t { s.trk t with ended := true }
  if p.endLine ≤ s.lineIndex t then (s.trackIdle t).settle else s

/-- STOP. -/
def trackStop (t : Nat) (s : Blk) : Blk :=
  match s.trkState t with
  | 0 => s
  | 3 => s.cmdRej t
  | _ =>
    let pend := s.setF (PGE_TRK_STATUS_STOP_PENDING t) 1
    match (if s.shuttle then s.shtPage else s.currentPage t) with
    | some p => if s.shuttle then pend else pend.stopAfter t p
    | none => if (s.trk t).first.isSome then pend else (s.trackIdle t).settle

/-- ABORT: at once, but for a printing track, whose abort waits for its line boundary (R89). -/
def trackAbort (t : Nat) (s : Blk) : Blk :=
  match s.trkState t with
  | 0 => s
  | 2 => s.putTrk t { s.trk t with abortWait := true }
  | _ => (s.trackIdle t).settle

/-- A line boundary as a waiting ABORT sees it. -/
def Blk.abortNow (s : Blk) (t : Nat) : Blk := if (s.trk t).abortWait then s.trackIdle t else s

def execTrackArm (t : Fin 4) (s : State) : Res := s.on (trackArm t)
def execTrackStop (t : Fin 4) (s : State) : Res := s.on (trackStop t)
def execTrackAbort (t : Fin 4) (s : State) : Res := s.on (trackAbort t)
def execAbortTakesEffect (t : Fin 4) (s : State) : Res := s.on fun b => (b.abortNow t).settle

/-- A write of PGE_TRK_CTRL: ABORT wins over STOP, and STOP over ARM (R87). -/
def trackCtrl (t w : Nat) (s : Blk) : Blk :=
  if bitOf w 2 then trackAbort t s else if bitOf w 1 then trackStop t s else if bitOf w 0 then trackArm t s else s

/-! ### Descriptors -/

/-- The front entry of a page ring is consumed: its words, the line index it counts from, and the θ to take with it (R294). -/
def Blk.takeDesc (s : Blk) (t : Nat) : Blk × List Nat × Nat :=
  let ws := s.nextEntry t
  match s.mirrored t with
  | some m =>
    let s := s.withTwn fun x => { x with thetas := m.thetas }
    (s.takeFront t, ws, s.indexOf t m.fire)
  | none =>
    let s := if s.twnState = 2 then s.takeThetas t else s
    (s.takeFront t, ws, s.lineIndex t)

/-- A requested test page takes the place of the next descriptor (R220). -/
def Blk.useTest (s : Blk) (t : Nat) (ws : List Nat) (w : Nat) : Blk :=
  let s := s.usePage t ws (s.lineIndex t) (some w)
  match (s.trk t).pages.getLast? with
  | some p => s.tpStarted t p.start
  | none => s

/-- DESCRIPTOR_CONSUME. -/
def descriptorConsume (t : Nat) (s : Blk) : Blk :=
  if s.shuttle then
    if t ≠ 0 ∨ !s.shtDue ∨ !s.mayTake 0 then s
    else
      let r := s.takeDesc 0
      (r.1.shtUsePage r.2.1).withTwn fun x => { x with thetas := [] }
  else if !s.descDue t then s
  else
    match s.tpFor t with
    | some (ws, w) => s.useTest t ws w
    | none =>
      if !s.mayTake t then s
      else
        let r := s.takeDesc t
        (r.1.usePage t r.2.1 r.2.2 none).withTwn fun x => { x with thetas := [] }

def execDescriptorConsume (t : Fin 4) (s : State) : Res := s.on (descriptorConsume t)

/-! ### Ring 11 (R74, R78 to R80) -/

/-- The entry that eight words describe. -/
def schedEntry (ws : List Nat) : SchedEntry :=
  let pos := sext 56 (ws.getD 0 0 % 256 + 2 ^ 8 * (ws.getD 1 0 % 2 ^ 24) + 2 ^ 32 * (ws.getD 2 0 % 2 ^ 24))
  ⟨pos, bits (ws.getD 0 0) 21 16, ws.getD 3 0 % 2 ^ 24, ws.getD 4 0 % 2 ^ 24, ws.getD 5 0 % 2 ^ 24, true, false⟩

/-- A stall of ring 11, counted once for each entry that is blocked. -/
def Blk.schedStall (s : Blk) : Blk :=
  if s.lck.stalled then s else ({ s with lck := { s.lck with stalled := true } }).incSat LCK_SCHED_STALLS

/-- SCHEDULE_INSERT: the front entry of ring 11 is inserted, or executes at once behind H, or is discarded, or waits. -/
def scheduleInsert (s : Blk) : Blk :=
  if !s.running || !s.mayTake 11 then s
  else
    let ws := s.nextEntry 11
    let e := schedEntry ws
    let t := bits (ws.getD 0 0) 23 22
    let l := s.sched t
    let bad := e.kind < 2 ∨ 7 < e.kind ∨ !s.trkEn t
    if !bad ∧ (960 ≤ (l.filter fun x => x.fromRing).length ∨ 1024 ≤ l.length) then s.schedStall
    else
      let s := s.takeFront 11
      let s := { s with lck := { s.lck with stalled := false } }
      if bad then s.raise 0x133 t (t * 2 ^ 22 + e.kind) e.tag else s.insertRun t e

def execScheduleInsert (s : State) : Res := s.on scheduleInsert

end Sys2Proof.Machine
end

