-- ==== Sys2Proof/Machine/Crypto.lean ====
section
/-!
DEFINITION. SHA-256, HMAC-SHA-256 and the verification of ECDSA signatures over P-256, as the signature of a skein (R437, R438) and the
authentication of management datagrams (R482) name them.
-/

namespace Sys2Proof.Machine

/-! ### SHA-256 -/

/-- The greatest number whose `k`-th power is at most `x`, found bit by bit from bit `n - 1` down, above a part `r` that is found. -/
def rootFrom (k x : Nat) : Nat → Nat → Nat
  | 0, r => r
  | n + 1, r => rootFrom k x n (if (r + 2 ^ n) ^ k ≤ x then r + 2 ^ n else r)

/-- The first 32 bits of the fraction of the `k`-th root of a number below 2^k × 8. -/
def rootFraction (k x : Nat) : BitVec 32 := BitVec.ofNat 32 (rootFrom k (x * 2 ^ (32 * k)) 37 0)

/-- The primes below 312: there are 64. -/
def smallPrimes : List Nat := (List.range 312).filter fun n => 1 < n && (List.range 18).all fun d => d < 2 || n % d != 0 || n == d

/-- The constants of the rounds, and the hash value before the first block, as FIPS 180-4 derives them from primes. -/
def roundConstants : List (BitVec 32) := smallPrimes.map (rootFraction 3)
def startHash : List (BitVec 32) := (smallPrimes.take 8).map (rootFraction 2)

/-- The exclusive or of a word turned right by each of some distances. -/
def turns (x : BitVec 32) (ds : List Nat) : BitVec 32 := ds.foldl (fun y d => y ^^^ x.rotateRight d) 0

/-- The next word of a message schedule whose last sixteen words, newest first, are `w`. -/
def nextWord (w : List (BitVec 32)) : BitVec 32 :=
  let old := fun i => w.getD (i - 1) 0
  old 16 + old 7 + (turns (old 15) [7, 18] ^^^ old 15 >>> 3) + (turns (old 2) [17, 19] ^^^ old 2 >>> 10)

/-- The working variables of the rounds, by their names in FIPS 180-4. -/
structure Working where
  a : BitVec 32
  b : BitVec 32
  c : BitVec 32
  d : BitVec 32
  e : BitVec 32
  f : BitVec 32
  g : BitVec 32
  h : BitVec 32

/-- A round with what it adds: its constant and its word. -/
def Working.round (v : Working) (kw : BitVec 32) : Working :=
  let pick := (v.e &&& v.f) ||| (~~~ v.e &&& v.g)
  let most := (v.a &&& (v.b ||| v.c)) ||| (v.b &&& v.c)
  let x := v.h + kw + pick + turns v.e [6, 11, 25]
  { v with a := x + most + turns v.a [2, 13, 22], b := v.a, c := v.b, d := v.c, e := v.d + x, f := v.e, g := v.f, h := v.g }

/-- The rounds with the constants `ks`: each takes the oldest of the sixteen words `w`, newest first, and a new one follows. -/
def Working.rounds (v : Working) (w : List (BitVec 32)) : List (BitVec 32) → Working
  | [] => v
  | k :: ks => Working.rounds (v.round (k + w.getD 15 0)) ((nextWord w :: w).take 16) ks

/-- A 32-bit word of bytes, most significant first. -/
def beWord (bs : List Byte) (i : Nat) : BitVec 32 := BitVec.ofNat 32 (beNat (slice bs (4 * i) 4))

/-- One block of 64 bytes. -/
def shaBlock (s : List (BitVec 32)) (bs : List Byte) : List (BitVec 32) :=
  let x := fun i => s.getD i 0
  let v := Working.rounds ⟨x 0, x 1, x 2, x 3, x 4, x 5, x 6, x 7⟩ ((List.range 16).map fun i => beWord bs (15 - i)) roundConstants
  [x 0 + v.a, x 1 + v.b, x 2 + v.c, x 3 + v.d, x 4 + v.e, x 5 + v.f, x 6 + v.g, x 7 + v.h]

/-- All blocks of a padded message, at most `n`. -/
def shaBlocks : Nat → List (BitVec 32) → List Byte → List (BitVec 32)
  | 0, h, _ => h
  | n + 1, h, bs => if bs.isEmpty then h else shaBlocks n (shaBlock h (bs.take 64)) (bs.drop 64)

def sha256 (m : List Byte) : List Byte :=
  let pad := (119 - m.length % 64) % 64
  let bs := m ++ [0x80] ++ List.replicate pad 0 ++ toBE (8 * m.length) 8
  (shaBlocks (bs.length / 64 + 1) startHash bs).flatMap fun w => toBE w.toNat 4

/-- HMAC-SHA-256 under a key of 32 bytes. -/
def hmac (key m : List Byte) : List Byte :=
  let k := key ++ List.replicate (64 - key.length) 0
  let x := fun b : Byte => k.map fun a => a ^^^ b
  sha256 (x 0x5c ++ sha256 (x 0x36 ++ m))

/-! ### P-256 -/

def p256 : Nat := 0xffffffff00000001000000000000000000000000ffffffffffffffffffffffff
def n256 : Nat := 0xffffffff00000000ffffffffffffffffbce6faada7179e84f3b9cac2fc632551
def b256 : Nat := 0x5ac635d8aa3a93e7b3ebbd55769886bc651d06b0cc53b0f63bce3c3e27d2604b
def gx256 : Nat := 0x6b17d1f2e12c4247f8bce6e563a440f277037d812deb33a0f4a13945d898c296
def gy256 : Nat := 0x4fe342e2fe1a7f9b8ee7eb4a7c0f9e162bce33576b315ececbb6406837bf51f5

/-- A power modulo `m`, over the low `k` bits of the exponent. -/
def powMod (m b : Nat) : Nat → Nat → Nat
  | 0, _ => 1 % m
  | k + 1, e =>
    let r := powMod m (b * b % m) k (e / 2)
    if e % 2 = 1 then r * b % m else r

/-- The inverse modulo a prime. -/
def invMod (m a : Nat) : Nat := powMod m (a % m) 256 (m - 2)

/-- The sum of two points; none is the point at infinity. -/
def ecAdd (a b : Option (Nat × Nat)) : Option (Nat × Nat) :=
  match a, b with
  | none, _ => b
  | _, none => a
  | some (x1, y1), some (x2, y2) =>
    if x1 = x2 ∧ (y1 + y2) % p256 = 0 then none
    else
      let num := if x1 = x2 then 3 * x1 * x1 + p256 - 3 else y2 + p256 - y1
      let den := if x1 = x2 then 2 * y1 else x2 + p256 - x1
      let l := num * invMod p256 den % p256
      let x3 := (l * l + 2 * p256 - x1 - x2) % p256
      some (x3, (l * (x1 + p256 - x3) + p256 - y1) % p256)

/-- A multiple of a point, over the low `k` bits of the factor. -/
def ecMul (q : Option (Nat × Nat)) : Nat → Nat → Option (Nat × Nat)
  | 0, _ => none
  | k + 1, e =>
    let r := ecMul q k (e / 2)
    let d := ecAdd r r
    if e % 2 = 1 then ecAdd d q else d

/-- Whether a point lies on the curve. -/
def onCurve (x y : Nat) : Bool :=
  decide (x < p256 ∧ y < p256) && y * y % p256 == (x * x * x + (p256 - 3) * x + b256) % p256

/-- Whether (r, s) is the signature of a message under the public key (x, y). -/
def ecdsaOk (x y r s : Nat) (m : List Byte) : Bool :=
  if !onCurve x y || r == 0 || s == 0 || decide (n256 ≤ r ∨ n256 ≤ s) then false
  else
    let e := beNat (sha256 m)
    let w := invMod n256 s
    match ecAdd (ecMul (some (gx256, gy256)) 256 (e * w % n256)) (ecMul (some (x, y)) 256 (r * w % n256)) with
    | some (px, _) => px % n256 == r
    | none => false

end Sys2Proof.Machine
end

