-- ==== Sys2Proof/Machine/Access.lean ====
section
/-!
DEFINITION. What each word address holds, windows included (R6, R7, R500, R506), and what a write does to a word under the access codes of
its fields (R9, R10).
-/

namespace Sys2Proof.Machine

/-- Whether an address lies in a block (R500). -/
def inBlock (a : Nat) : Bool := decide (a / 2 ^ 16 < 0x1d ∧ a / 2 ^ 16 ≠ 7)

/-- A window word of its own: its boundary, and the bits that RW and RWB govern. -/
def winOf (a : Nat) (bnd : Bnd) (rw rwb : Nat) : WordInfo := ⟨a, 0, 1, bnd, BitVec.ofNat 24 rw, BitVec.ofNat 24 rwb, 0, 0, 0⟩

/-- A word of a buffer descriptor: BASE and LENGTH are values of two words (R98). -/
def bdWord (a : Nat) : WordInfo :=
  let k := a % 8
  let m := BitVec.ofNat 24 (bdMask k)
  if 1 ≤ k ∧ k ≤ 4 then ⟨a - (k + 1) % 2, (k + 1) % 2, 2, .none, m, 0, 0, 0, 0⟩ else ⟨a, 0, 1, .none, m, 0, 0, 0, 0⟩

/-- The bits of a word of a code region (R235), none where it has no entry. -/
def regionMask : Nat → Option Nat
  | 0 => some 0x8000ff
  | 1 | 2 => some 0x1ffff
  | 3 | 4 => some 0xffffff
  | _ => none

/-- The bits of a word of an alignment record (R228). -/
def setMask (k : Nat) : Nat := if k = 0 then 0xc000ff else if k = 1 then 0xffffff else if k < 18 then 0x3ffff else 0

def interlaceMask : Nat → Nat
  | 0 => 0xfffe00
  | 1 | 2 => 0x1ffff
  | _ => 0

def feedMask : Nat → Nat
  | 0 => 0x1ffff
  | 1 => 0xffffff
  | _ => 0

/-- What a window word holds (R506), none where no window has an entry. -/
def winWord (a : Nat) : Option WordInfo :=
  let n := a % 2 ^ 16
  match a / 2 ^ 16 with
  | 3 => if 0x8000 ≤ n then some (winOf a .none 0 0) else none
  | 4 => if 0x8000 ≤ n then some (bdWord a) else none
  | 5 => if 0x8000 ≤ n then some (winOf a .none 0xfff 0) else none
  | 6 => if 0x1000 ≤ n ∧ n < 0x1200 then some (winOf a .none (if n % 4 = 3 then 0xfff else 0xffffff) 0) else none
  | 8 => some (winOf a .line 0 0xffffff)
  | 9 => some (winOf a .line 0 0xffffff)
  | 11 =>
    if 0x4000 ≤ n ∧ n < 0x6000 then (regionMask (n % 8)).map (winOf a .page 0)
    else if 0x8000 ≤ n ∧ n < 0x9000 then some (winOf a .none 0xff 0)
    else none
  | 12 => if 0x1000 ≤ n ∧ n < 0x2000 then some (winOf a .page 0 (setMask (n % 32))) else none
  | 13 =>
    if 0x1000 ≤ n ∧ n < 0x1100 then some (winOf a .page 0 (interlaceMask (n % 4)))
    else if 0x2000 ≤ n ∧ n < 0x2100 then some (winOf a .page 0 (feedMask (n % 4)))
    else none
  | 14 => if 0x1000 ≤ n ∧ n < 0x1100 then some (winOf a .cycle 0 0x3ff) else none
  | 16 => if 0x8000 ≤ n ∧ n < 0xa000 then some (winOf a .none 0 0) else none
  | 26 => if 0x1000 ≤ n ∧ n < 0x2000 then some (winOf a .none 0x1f 0) else none
  | _ => none

/-- What a word address holds: a window word, or a register word of the index of R507. -/
def wordInfo (a : Nat) : Option WordInfo :=
  match winWord a with
  | some i => some i
  | none => findRow (blockRows (a / 2 ^ 16)) a

/-- `old` with the bits of a mask taken from `new`. -/
def mixBits (old new mask : Word) : Word := (old &&& ~~~ mask) ||| (new &&& mask)

/-- A write of one word under its access codes: RW at once, W1C and W1S, RWB held for its boundary. -/
def Blk.applyWord (s : Blk) (a : Nat) (w : Word) (i : WordInfo) : Blk :=
  let old := s.reg a
  let new := (mixBits old w i.rw &&& ~~~ (w &&& i.w1c)) ||| (w &&& i.w1s)
  let s := if new = old then s else s.setReg a new
  if i.rwb = 0 then s else s.hold a (mixBits (s.lastWritten a) w i.rwb) i.bnd

end Sys2Proof.Machine
end

