-- ==== Sys2Proof/Machine/Startup.lean ====
section
/-!
DEFINITION. The upsett (R429 to R442), reset (R427, R504, R505, R520), the skein flash (R440), clock faults (R46) and the life cycle (R443 to
R446).
-/

namespace Sys2Proof.Machine

/-! ### The copies of the skein (R431 to R438) -/

/-- An entry of the section table (R434). -/
structure Sect where
  typ : Nat
  required : Bool
  off : Nat
  size : Nat
  scrc : Nat
deriving DecidableEq, Repr

def sectAt (bs : List Byte) (i : Nat) : Sect :=
  let e := slice bs (32 + 16 * i) 16
  ⟨leNat (slice e 0 2), bitOf (e.getD 2 0).toNat 0, leNat (slice e 4 4), leNat (slice e 8 4), leNat (slice e 12 4)⟩

def sectsOf (bs : List Byte) : List Sect := (List.range (leNat (slice bs 6 2))).map (sectAt bs)

def skLength (bs : List Byte) : Nat := leNat (slice bs 8 4)
def skSeq (bs : List Byte) : Nat := leNat (slice bs 12 3)

def Sect.body (x : Sect) (bs : List Byte) : List Byte := slice bs x.off x.size

/-- Two sections share a byte. -/
def Sect.overlaps (a b : Sect) : Bool := decide (max a.off b.off < min (a.off + a.size) (b.off + b.size))

/-- Some two sections share a byte. -/
def anyOver : List Sect → Bool
  | [] => false
  | a :: r => r.any a.overlaps || anyOver r

/-- Causes 1 to 3 of R437. `c` is the room of a copy. -/
def copyForm (c : Nat) (bs : List Byte) : Nat :=
  let l := sectsOf bs
  let tab := 32 + 16 * l.length
  if slice bs 0 5 ≠ [0x46, 0x53, 0x4b, 0x4e, 1] then 1
  else if crc32 (slice bs 0 28 ++ slice bs 32 (16 * l.length)) ≠ leNat (slice bs 28 4) then 2
  else if skLength bs < tab ∨ c < skLength bs ∨ anyOver l = true ∨
      (l.any fun x => x.off % 4 != 0 || decide (x.off < tab) || decide (skLength bs < x.off + x.size)) = true then 3
  else 0

/-- Causes 4 and 5 of R437 (R438). -/
def copySigned (keyHash : Nat) (bs : List Byte) : Nat :=
  let l := sectsOf bs
  match l.find? (fun x => x.typ == 3), l.getLast? with
  | some key, some sig =>
    if !bitOf (bs.getD 5 0).toNat 0 || sig.typ != 4 || sig.off + sig.size != skLength bs then 4
    else
      let k := key.body bs
      let g := sig.body bs
      let n := fun l i => beNat (slice l i 32)
      if beNat (sha256 k) = keyHash ∧ ecdsaOk (n k 0) (n k 32) (n g 0) (n g 32) (bs.take sig.off) then 0 else 5
  | _, _ => 4

/-- The cause of R437 for a copy, 0 for a valid one. -/
def copyCause (f : Fuse) (x : UpsettIn) (c : Nat) (k : SkeinCopy) : Nat :=
  if !k.readOk || (x.sfdp.isNone && slice k.bytes 0 32 == List.replicate 32 0xff) then 6
  else
    let n := copyForm c k.bytes
    if n ≠ 0 ∨ !f.signEn then n else copySigned f.keyHash k.bytes

/-- SKN_FLASH_INFO: the density, 16 MiB without a valid table, and the read used (R431). -/
def flashInfo (x : UpsettIn) : Nat :=
  match x.sfdp with
  | none => 24 * 2 ^ 16
  | some (d, quad) => d % 32 * 2 ^ 16 + (if quad then 2 else 1)

/-- The room of each copy (R432). -/
def copyRoom (x : UpsettIn) : Nat :=
  match x.sfdp with
  | none => 2 ^ 23
  | some (d, _) => min (2 ^ d / 2) (2 ^ 24)

/-! ### Loading (R435, R436, R439) -/

/-- A word the loader ignores. -/
def Blk.skipWord (s : Blk) : Blk := s.incSat SKN_IGNORED

/-- One word of a register run. -/
def Blk.loadWord (s : Blk) (a : Nat) (w : Word) : Blk :=
  let n := a % 2 ^ 16
  let blk := a / 2 ^ 16
  if blk = 0 ∨ blk = 1 ∨ blk = 28 then s.skipWord
  else if a = DRM_CFG then s.setReg a w
  else if blk = 5 ∧ 0x8000 ≤ n then
    let h := (n - 0x8000) / 1024
    (s.tonePut false h (n % 1024) (w.toNat % 4096)).tonePut true h (n % 1024) (w.toNat % 4096)
  else if blk = 6 ∧ 0x1000 ≤ n ∧ n < 0x1200 then
    let x := if n % 4 = 3 then w &&& 0xfff else w
    let r := s.f SCR_WIN_ROW_ROW
    (s.thrPut false r (n - 0x1000) x).thrPut true r (n - 0x1000) x
  else if blk = 11 ∧ 0x8000 ≤ n ∧ n < 0x9000 then scoreWrite (n - 0x8000) w.toNat s
  else
    match wordInfo a with
    | none => s.skipWord
    | some i =>
      let m := i.rw ||| i.rwb ||| i.w1c ||| i.w1s
      if m = 0 then s.skipWord
      else
        let s := s.setReg a (mixBits (s.reg a) w m)
        if a = SCR_SHADOW_SIZE then s.setReg SCR_ACTIVE_SIZE (s.reg a) else s

/-- The values of a run, three bytes each. -/
def Blk.loadValues (a : Nat) : List Byte → Blk → Blk
  | x :: y :: z :: r, s => Blk.loadValues (a + 1) r (s.loadWord a (BitVec.ofNat 24 (leNat [x, y, z])))
  | _, s => s

/-- Register runs to the end of a body, at most `n`; none where they are malformed, or leave ALN where only that block is allowed. -/
def Blk.loadRuns (only : Bool) : Nat → List Byte → Blk → Option Blk
  | _, [], s => some s
  | n + 1, a0 :: a1 :: a2 :: c :: r, s =>
    let a := leNat [a0, a1, a2]
    let k := c.toNat + 1
    if r.length < 3 * k then none
    else if only && !(decide (a / 2 ^ 16 = 12) && decide ((a + k - 1) / 2 ^ 16 = 12)) then none
    else Blk.loadRuns only n (r.drop (3 * k)) (Blk.loadValues a (r.take (3 * k)) s)
  | _, _, _ => none

/-- One section; none where it fails. What is skipped is not checked. -/
def Blk.loadSect (s : Blk) (bs : List Byte) (x : Sect) : Option Blk :=
  let body := x.body bs
  if x.typ = 0xff ∨ x.typ = 3 ∨ x.typ = 4 then some s
  else if x.typ = 1 ∨ x.typ = 2 ∨ x.typ = 0x10 then
    if crc32 body ≠ x.scrc then none
    else if x.typ = 2 then some s
    else Blk.loadRuns (x.typ == 0x10) body.length body s
  else if x.required then none
  else some s

/-- The sections in table order; the number of the one that fails. -/
def Blk.loadSects (bs : List Byte) : Nat → List Sect → Blk → Blk × Option Nat
  | _, [], s => (s, none)
  | i, x :: r, s =>
    match s.loadSect bs x with
    | none => (s, some i)
    | some s => Blk.loadSects bs (i + 1) r s

/-- The START section of a copy: RUN and the ARM mask. -/
def startOf (bs : List Byte) : Option (Bool × Nat) :=
  (((sectsOf bs).filter fun x => x.typ == 2).getLast?).map fun x =>
    let b := x.body bs
    (bitOf (b.getD 0 0).toNat 0, (b.getD 1 0).toNat % 16)

/-- A copy is loaded to its end. -/
def Blk.copyLoaded (s : Blk) (k : Nat) (bs : List Byte) : Blk :=
  ((s.setF SKN_STATUS_COPY k).wn SKN_SEQ (skSeq bs)).setVal SKN_IMAGE_TAG (leNat (slice bs 16 4)) 2

/-- A copy whose section `i` fails is abandoned: step 1 again, from `base`, with the fallback shown. -/
def Blk.abandon (base s : Blk) (k i : Nat) : Blk :=
  let b := { base with evq := s.evq }
  let b := b.wn SKN_FAIL_SECT (s.rn SKN_FAIL_SECT)
  let b := (b.setF (if k = 0 then SKN_FAIL_SECT_COPY0 else SKN_FAIL_SECT_COPY1) (i % 256)).setF SKN_STATUS_FALLBACK 1
  b.raise 0x003 0 k i

/-- The copies in the order given are tried; the START section of the one loaded. -/
def Blk.loadCopies (base : Blk) : List (Nat × List Byte) → Blk → Blk × Option (Option (Bool × Nat))
  | [], s => (s, none)
  | (k, bs) :: r, s =>
    match Blk.loadSects bs 0 (sectsOf bs) s with
    | (t, none) => (t.copyLoaded k bs, some (startOf bs))
    | (t, some i) => Blk.loadCopies base r (Blk.abandon base t k i)

/-! ### The steps of the upsett -/

/-- The holding state (R441): 1 SKEIN, 2 DRAM, 3 RETIRED. -/
def Blk.hold15 (s : Blk) (cause : Nat) : Blk :=
  { (s.setF SKN_STATUS_STEP 15).setF SKN_STATUS_HOLD_CAUSE cause with holding := true, sys := { s.sys with phase := .up } }

/-- A fuse field after bits have been programmed: only while the life cycle lets the field be, and no bit is restored (R443). -/
def blown (may : Bool) (old new : Nat) : Nat := if may then old ||| new else old

/-- Step 0: the fuses are sensed, with what has been programmed from outside since. SIGN_EN is refused while KEY_HASH is 0 (R443). -/
def Blk.senseFuses (s : Blk) (x : FuseIn) : Blk :=
  let f := s.fuse
  let blank := f.state == 0
  let early := f.state ≤ 1
  let hash := blown early f.keyHash x.keyHash.toNat
  let s := { s with fuse := { f with
    dieId := blown blank f.dieId x.dieId.toNat, mac := blown blank f.mac x.mac.toNat, mgmtKey := blown blank f.mgmtKey x.mgmtKey.toNat,
    keyHash := hash, signEn := f.signEn || (early && x.signEn && hash != 0), holdEth := f.holdEth || (blank && x.holdEth),
    qspiClk := blown early f.qspiClk x.qspiClk.val } }
  s.showFuses.setF ETH_MGMT_STATUS_KEY0_OK (b2n (s.fuse.mgmtKey != 0))

/-- One unit's test in step 1 (R452, R456 to R458); a repaired stake is off and not tested. -/
def Blk.upsettTest (l : List (Bool × BitVec 48)) (s : Blk) (u : Nat) : Blk :=
  if s.fuse.repair = some u then s
  else
    let r := l.getD u (true, 0)
    let s := s.testResult u r.2.toNat r.1
    if r.1 then s
    else if u ≤ 8 then s.retireStake u 2
    else s.raise 0xD02 u u (r.2.toNat % 2 ^ 24)

/-- A repaired stake is powered off, its span is S8's, and the rotation does not run (R457). -/
def Blk.repaired (s : Blk) : Blk :=
  match s.fuse.repair with
  | none => s
  | some k =>
    let s := { s with bst := { s.bst with off := true } }
    ((s.setF CMP_STAKE_STATUS_RETIRED (2 ^ k)).setF CMP_STAKE_STATUS_BYE_FOR k).setF BST_STATUS_ROT_STOPPED 1

/-- SESSION is drawn (R483). -/
def Blk.drawSession (s : Blk) : Blk := (s.setVal ETH_MGMT_SESSION ((Config.session s.freeN).val + 1) 2).fresh

/-- The copies that the checks leave, the newer first. -/
def skeinOrder (f : Fuse) (x : UpsettIn) : List (Nat × List Byte) :=
  let c := copyRoom x
  let c0 := if copyCause f x c x.copy0 = 0 then [(0, x.copy0.bytes)] else []
  let c1 := if copyCause f x c x.copy1 = 0 then [(1, x.copy1.bytes)] else []
  if newer (skSeq x.copy1.bytes) (skSeq x.copy0.bytes) then c1 ++ c0 else c0 ++ c1

/-- What the checks of the two copies show. -/
def Blk.skeinChecked (s : Blk) (x : UpsettIn) : Blk :=
  let c := copyRoom x
  let n0 := copyCause s.fuse x c x.copy0
  let n1 := copyCause s.fuse x c x.copy1
  let s := ((s.wn SKN_FLASH_INFO (flashInfo x)).setF SKN_STATUS_CAUSE0 n0).setF SKN_STATUS_CAUSE1 n1
  let s := if n0 = 0 then s else s.raise 0x002 0 0 n0
  if n1 = 0 then s else s.raise 0x002 0 1 n1

/-- Step 2: both copies are checked, and the newer valid one is loaded, or the other. -/
def Blk.loadSkein (s : Blk) (x : UpsettIn) : Blk × Option (Option (Bool × Nat)) :=
  Blk.loadCopies (s.skeinChecked x) (skeinOrder s.fuse x) (s.skeinChecked x)

/-- What blocks do with the values the skein gives them. -/
def Blk.loaded (s : Blk) : Blk :=
  let s := (List.range 8).foldl (fun s n => if s.fb (POS_CFG_EN n) then s.encEnable n else s) s
  let s := (List.range 32).foldl (fun s h =>
    if s.fb (CMP_HEAD_CFG_EN h) && decide (4096 < s.slots h) then
      (s.setF CMP_STATUS_HEAD_CFG_INV 1).raise 0x305 h h (s.rn (CMP_HEAD_CFG h))
    else s) s
  if s.timSource = 0 then s.setF TIM_STATUS_LOCKED 1 else s

/-- Every valid set is trained (R389). -/
def Blk.trainSets (s : Blk) (fails : List (Nat × Nat × Nat)) : Blk :=
  (List.range 4).foldl (fun s k =>
    if !bitOf (s.rn (DRM_TSET0 k)) 23 then s
    else
      match fails.find? fun f => f.1 == k with
      | some f => s.trainFail k (f.2.1 % 8) (f.2.2 % 8)
      | none => s.wn (DRM_TSET0 k) (setBits (s.rn (DRM_TSET0 k)) 19 19 1)) s

/-- Step 3: training and the wipe; the events kept, at most 16, are posted (R442). The number dropped; none after a fatal error. -/
def Blk.trainAndWipe (s : Blk) (x : UpsettIn) : Blk × Option Nat :=
  let s := s.trainSets x.train
  let k := s.f DRM_CFG_BOOT_SET
  let w := s.rn (DRM_TSET0 k)
  if !(bitOf w 23 && bitOf w 19) then (s.memFatal 0, none)
  else
    let s := (s.loadSet k).setF DRM_STATUS_WIPED 1
    let dropped := s.evq.length - 16
    let s := { s with mem := [], evq := s.evq.take 16, dram := { s.dram with raaMax := x.raa, windowAt := s.now } }
    (Blk.postEvents 16 s, some dropped)

/-- Step 4: every lane whose owner's enable is 1 (R334, R430). -/
def Blk.enableLanes (s : Blk) : Blk :=
  let s := (List.range 32).foldl (fun s h => s.portEnable h) s
  let s := [0, 1, 2, 3].foldl (fun s c => s.camEnable c) s
  (List.range 8).foldl (fun s i => s.laneEnable (32 + i)) s

/-- Step 5: ARBITRATE, or ALONE (R286). -/
def Blk.enterRole (s : Blk) (x : UpsettIn) : Blk :=
  let s := (s.setF TWN_STATUS_CLAIM_IN (b2n x.claimN)).setF TWN_HEALTH_SENIOR (b2n x.senior)
  if !s.fb TWN_CFG_EN then s
  else ((s.setRole 1).withTwn fun t => { t with arbAt := s.now, hbAt := s.now }).roleGo

/-- The event of a life-cycle change, at the end of the upsett that follows it (R446). -/
def Blk.lcEvent (s : Blk) : Blk :=
  match s.sys.lcFrom with
  | none => s
  | some old => ({ s with sys := { s.sys with lcFrom := none } }).raise 0x004 0 old (s.fuse.state * 2 ^ 21 + s.fuse.k)

/-- UPSETT_DONE. -/
def Blk.upsettDone (s : Blk) (dropped : Nat) : Blk :=
  let ms := (s.now - s.sys.born) / 250000
  let s := (s.setF SKN_STATUS_STEP 8).wn SKN_UPSETT_MS ms
  let d0 := s.f SKN_STATUS_COPY * 2 ^ 23 + s.f SKN_STATUS_FALLBACK * 2 ^ 22 + min 0xffff ms
  let s := s.raise 0x001 0 d0 (min 255 dropped * 2 ^ 16 + min 0xffff (s.rn SKN_IGNORED))
  { s with bst := { s.bst with restEnd := s.now }, trm := { s.trm with roundAt := s.now } }

/-- The START section (R439). -/
def Blk.runStart (s : Blk) : Option (Bool × Nat) → Blk
  | none => s
  | some (run, mask) =>
    if s.twnState = 4 then s
    else
      let s := if run then (s.setF LCK_CTRL_RUN 1).runHook else s
      [0, 1, 2, 3].foldl (fun s t => if bitOf mask t then trackArm t s else s) s

/-- Step 6: the store opens where it is enabled, and the STO_AUTO plays follow (R424). A store key does not unwrap after a change of the
life-cycle state. -/
def Blk.bootStore (s : Blk) (x : OpenIn) : Blk :=
  if !s.fb STO_CFG_EN then s
  else
    let s := s.openStore { x with keyOk := x.keyOk && s.sys.lcFrom.all fun o => o == s.fuse.state }
    if s.stoState = 2 then ([0, 1, 2, 3].foldl Blk.autoPlay s).stoGo else s

/-- Steps 6 and 7 once step 5 is over. -/
def Blk.bootGo (s : Blk) : Blk :=
  match s.sys.boot with
  | none => s
  | some b =>
    if s.twnState = 1 then s
    else
      let s := { s with sys := { s.sys with boot := none } }
      let s := (((s.setF SKN_STATUS_STEP 6).bootStore b.store).setF SKN_STATUS_STEP 7).runStart b.start
      (((s.advance (s.now + b.rest)).lcEvent).upsettDone b.dropped).settle

/-- Steps 4 to 6: the blocks go to work. -/
def Blk.upsettEnd (s : Blk) (x : UpsettIn) (start : Option (Bool × Nat)) (dropped : Nat) : Blk :=
  let s := ({ s with sys := { s.sys with phase := .up } }).advance x.pair
  let s := (s.enableLanes.setF SKN_STATUS_STEP 5).enterRole x
  ({ s with sys := { s.sys with boot := some ⟨x.store, start, x.rest, dropped⟩ } }).bootGo

/-- Steps 2 and 3 with a skein loaded. -/
def Blk.upsettWipe (s : Blk) (x : UpsettIn) (start : Option (Bool × Nat)) : Blk :=
  match s.loaded.trainAndWipe x with
  | (s, none) => s.hold15 2
  | (s, some dropped) => s.upsettEnd x start dropped

/-- Steps 0 and 1: the fuses, the repair and the tests, at the release of RESET_N. -/
def Blk.upsettFirst (s : Blk) (x : UpsettIn) : Blk :=
  let t := max s.now x.release
  let s := { s with now := t, tim := ⟨0, t⟩, sys := { s.sys with born := t } }
  (List.range 16).foldl (Blk.upsettTest x.bist) (s.senseFuses x.fuses).repaired

/-- Steps 2 and on; a retired part goes no further. -/
def Blk.upsettLoad (s : Blk) (x : UpsettIn) : Blk :=
  if s.fuse.state = 4 then s.hold15 3
  else
    match s.loadSkein x with
    | (s, none) => s.hold15 1
    | (s, some start) => s.upsettWipe x start

/-- UPSETT. The session is drawn with it (R483); no step of it reads the session. -/
def upsett (x : UpsettIn) (s : Blk) : Blk :=
  if s.sys.phase ≠ .ready then s else ((s.upsettFirst x).upsettLoad x).drawSession

def execUpsett (x : UpsettIn) (s : State) : Res := s.always (upsett x)

/-! ### Step 5 comes to its end -/

def execClaimNChange (t k : Nat) (level : Bool) (s : State) : Res := s.on fun b => (claimNChange t k level b).bootGo.settle
def execArbitrateTimeout (t : Nat) (s : State) : Res := s.on fun b => (arbitrateTimeout t b).bootGo.settle
def execTwnClear (s : State) : Res := s.on fun b => (twnClear b).bootGo.settle

/-! ### Reset (R427, R504, R505, R520) -/

/-- The fuse of a life-cycle change is blown: one step of LC_STEPS, or RETIRE. The first step blows SECRET with it, which is generated on chip
(R443, R446). -/
def Blk.blow (s : Blk) : Blk :=
  if s.f SEC_LC_TARGET_STATE = 4 then { s with fuse := { s.fuse with retire := true } }
  else if s.fuse.k = 0 then { s with fuse := { s.fuse with k := 1, secret := (Config.secret s.freeN).toNat } }.fresh
  else { s with fuse := { s.fuse with k := s.fuse.k + 1 } }

/-- A reset from outside. It may cut a life-cycle change short, before or after its fuse is blown. -/
def Blk.cutShort (s : Blk) : Blk :=
  if s.sys.phase ≠ .change then s else (if Config.fuseBlown s.freeN then s.blow else s).fresh

/-- RESET_N goes low. A part that is in reset already shows it as a further cause. -/
def resetNAssert (s : Blk) : Blk :=
  if s.sys.phase = .ready ∨ s.sys.phase = .thermal then s.setF SYS_RESET_CAUSE_PIN 1
  else if s.sys.phase = .supply then s
  else s.cutShort.restart .ready 1

def execResetNAssert (s : State) : Res := s.always resetNAssert

/-- The supply monitor resets the part, and releases it. -/
def execSupplyMonitorReset (s : State) : Res := s.always fun b => b.cutShort.restart .supply 1

def supplyRelease (s : Blk) : Blk := if s.sys.phase = .supply then { s with sys := { s.sys with phase := .ready } } else s

def execSupplyMonitorRelease (s : State) : Res := s.always supplyRelease

/-- A write of SYS_RESET. -/
def sysReset (w : Word) (s : Blk) : Blk :=
  let ok := bits w.toNat 23 8 = 0x5253
  if w.toNat % 2 = 0 then s
  else
    match s.sys.phase with
    | .change => if ok then s.setF SYS_ERR_RESET_REJ 1 else s
    | .up =>
      if !ok then s.setF SYS_ERR_RESET_KEY 1
      else if s.sys.resetAt.isSome then s
      else { s with sys := { s.sys with resetAt := some s.now } }
    | _ => s

def execSysReset (w : Word) (s : State) : Res := s.always (sysReset w)

/-- 100 µs after a valid write the part resets. -/
def softwareReset (s : Blk) : Blk :=
  match s.sys.resetAt with
  | none => s
  | some t => ({ s with now := max s.now (t + 25000) }).restart .ready 2

def execSoftwareResetExpiry (s : State) : Res := s.always softwareReset

/-! ### Clock faults (R46) -/

/-- A PLL loses lock: FIRE stops and the claim is released until reset. -/
def pllLockLoss (s : Blk) : Blk :=
  let d := (Config.clockDetail s.freeN).toNat
  ((s.fresh.faultBit TWN_HEALTH_CLOCK).raise 0x010 0 (d % 2 ^ 24) (d / 2 ^ 24)).settle

def execPllLockLoss (_ : Pll) (s : State) : Res := s.on pllLockLoss

/-! ### The life cycle (R444 to R446) -/

/-- The next states of R444. -/
def lcNext (st k target : Nat) : Bool :=
  match st with
  | 0 => target == 1 || target == 4
  | 1 => target == 2 || target == 4
  | 2 => target == 3 || target == 4
  | 3 => (target == 2 && decide (k < 31)) || target == 4
  | _ => false

/-- The cause that refuses a change (R445), the lowest of those that apply. -/
def Blk.lcCause (s : Blk) (w : Word) : Nat :=
  if s.sys.phase = .change then 7
  else if !lcNext s.fuse.state s.fuse.k (s.f SEC_LC_TARGET_STATE) then 1
  else if !s.fb SEC_LC_STATUS_VFUSE_OK then 2
  else if !s.allIdle then 3
  else if (List.range 6).any fun n => s.axState n != 0 then 4
  else if s.twnState = 2 then 5
  else if w ≠ 0x4c4321 then 6
  else 0

/-- An accepted change: ingest and plays stop, the claim is released, and every lane is idle. -/
def Blk.lcStart (s : Blk) : Blk :=
  let s := if s.fb TWN_STATUS_DRIVING then s.release else s
  let s := (s.setF SEC_LC_STATUS_LC_BUSY 1).withSto fun x => { x with plays := [] }
  let s := (List.range 44).foldl Blk.laneOff s
  { s with streams := [], sys := { s.sys with phase := .change, lcFrom := some s.fuse.state } }

/-- A write of SEC_LC_CTRL. -/
def lifecycle (w : Word) (vfuse : Bool) (s : Blk) : Blk :=
  if s.sys.phase ≠ .up ∧ s.sys.phase ≠ .change then s
  else
    let s := s.vfuse vfuse
    let c := s.lcCause w
    if c ≠ 0 then (s.setF SEC_LC_STATUS_LC_REJ 1).setF SEC_LC_STATUS_REJ_CAUSE c else s.lcStart

def execLifecycleChange (w : Word) (vfuse : Bool) (s : State) : Res := s.always (lifecycle w vfuse)

/-- The change ends: the fuse reads as blown, or not, and the part resets itself. -/
def lifecycleReset (fuseOk : Bool) (s : Blk) : Blk :=
  if s.sys.phase ≠ .change then s
  else
    let b := (if fuseOk then s.blow else s).restart .ready 8
    { b with sys := { b.sys with lcFrom := s.sys.lcFrom } }

def execLifecycleReset (fuseOk : Bool) (s : State) : Res := s.always (lifecycleReset fuseOk)

/-! ### The skein flash (R440) -/

/-- The bytes of SKN_FLASH_DATA. -/
def Blk.flashData (s : Blk) (n : Nat) : List Byte :=
  ((List.range 86).flatMap fun i => toLE (s.rn (SKN_FLASH_DATA i)) 3).take n

/-- GO with an operation; ignored while one is under way. A PROGRAM that crosses a page is refused. -/
def flashGo (op : Nat) (s : Blk) : Blk :=
  if s.sys.phase ≠ .up then s
  else
    let s := s.setF SKN_FLASH_CTRL_OP op
    if s.fb SKN_FLASH_CTRL_BUSY then s
    else
      let a := s.val SKN_FLASH_ADDR 2
      let n := s.f SKN_FLASH_CTRL_COUNT_M1 + 1
      if op = 1 ∧ 256 < a % 256 + n then s.setF SKN_FLASH_CTRL_ERR 1
      else
        let s := { s.setF SKN_FLASH_CTRL_BUSY 1 with sys := { s.sys with flash := some ⟨op, a, n, s.now⟩ } }
        s.emit (.flash op a (if op = 1 then s.flashData n else []))

def execSknFlashRead (s : State) : Res := s.always (flashGo 0)
def execSknFlashProgram (s : State) : Res := s.always (flashGo 1)
def execSknFlashErase4k (s : State) : Res := s.always (flashGo 2)
def execSknFlashErase64k (s : State) : Res := s.always (flashGo 3)

/-- The bytes of SKN_FLASH_DATA replaced. -/
def Blk.putFlashData (s : Blk) (bs : List Byte) : Blk :=
  (List.range 86).foldl (fun s i => s.wn (SKN_FLASH_DATA i) (leNat (slice bs (3 * i) 3))) s

/-- The POS clocks that a program and an erase may take: 5 ms and 2 s (R440). -/
def flashLimit (op : Nat) : Nat := if op = 1 then 1250000 else 500000000

/-- The flash's status at POS clock `t`: the command under way is done, or it has taken longer than it may and ends with ERR, or it goes on. -/
def flashEnd (t : Nat) (done : Bool) (data : List Byte) (s : Blk) : Blk :=
  let s := if t ≤ s.now then s else if s.alive then s.advance t else { s with now := t }
  match s.sys.flash with
  | none => s
  | some x =>
    let late := x.op ≠ 0 ∧ x.start + flashLimit x.op < s.now
    if !done ∧ !late then s
    else
      let s := { s.setF SKN_FLASH_CTRL_BUSY 0 with sys := { s.sys with flash := none } }
      if x.op = 0 then s.putFlashData (slice data 0 x.n ++ (s.flashData 258).drop x.n)
      else if late then s.setF SKN_FLASH_CTRL_ERR 1
      else s

def execFlashCommandEnd (t : Nat) (done : Bool) (data : List Byte) (s : State) : Res := s.always (flashEnd t done data)

end Sys2Proof.Machine
end

