-- ==== Sys2Proof/Machine/Windows.lean ====
section
/-!
DEFINITION. Writes of words that act (R9): the tables behind windows (R136, R147, R150), the rings (R484, R485), memory copies (R476), and every
register whose write is a command.
-/

namespace Sys2Proof.Machine

/-! ### Tables -/

def execNozzleWordWrite (h : Fin 32) (i : Fin 4096) (w : Word) (s : State) : Res := s.on fun b => b.putNozzle (nozAddr h i) w

/-- A tone write or swap refused while a swap is pending. -/
def Blk.toneRej (s : Blk) (h a : Nat) : Blk := (s.setF CMP_STATUS_TBL_REJ 1).raise 0x304 h 0 a

/-- SWAP of a head's tone curves. -/
def toneSwap (h : Nat) (s : Blk) : Blk :=
  if s.fb (CMP_HEAD_TONE_PENDING h) then s.toneRej h (CMP_HEAD_TONE h)
  else
    let s := s.setF (CMP_HEAD_TONE_PENDING h) 1
    { s with cmp := { s.cmp with tonePend := s.cmp.tonePend ++ [h] } }

def execToneSwap (h : Fin 32) (s : State) : Res := s.on (toneSwap h)

/-- A write to a head's shadow curve. -/
def toneWrite (h i v : Nat) (s : Blk) : Blk :=
  if s.fb (CMP_HEAD_TONE_PENDING h) then s.toneRej h (0x058000 + h * 1024 + i)
  else s.tonePut (!s.toneAct h) h i (v % 4096)

def execToneShadowWrite (h : Fin 32) (i : Fin 1024) (w : Word) (s : State) : Res := s.on (toneWrite h i w.toNat)

def Blk.thrRej (s : Blk) (a : Nat) : Blk := (s.setF SCR_STATUS_WR_REJ 1).raise 0x304 0 1 a

/-- SWAP of the threshold arrays. -/
def thrSwap (s : Blk) : Blk := if s.fb SCR_STATUS_PENDING then s.thrRej SCR_CTRL else s.setF SCR_STATUS_PENDING 1

def execThresholdSwap (s : State) : Res := s.on thrSwap

/-- A write to word `n` of the threshold window, or to SCR_SHADOW_SIZE. -/
def thrWin (n : Nat) (w : Word) (s : Blk) : Blk :=
  if s.fb SCR_STATUS_PENDING then s.thrRej (0x061000 + n)
  else s.thrPut (!s.cmp.thrAct) (s.f SCR_WIN_ROW_ROW) n (if n % 4 = 3 then w &&& 0xfff else w)

def thrSize (w : Word) (s : Blk) : Blk :=
  if s.fb SCR_STATUS_PENDING then s.thrRej SCR_SHADOW_SIZE else s.setReg SCR_SHADOW_SIZE (w &&& 0x3fff)

def execThresholdWrite (a : ThrWord) (w : Word) (s : State) : Res :=
  match a with
  | .win u k => s.on (thrWin (4 * u + k) w)
  | .size => s.on (thrSize w)

/-! ### Rings (R484, R485) -/

/-- A write of RING_CFG: SIZE_LOG2 stays while EN stays 1, and a ring that is enabled is empty. -/
def ringCfg (r : Nat) (w : Word) (s : Blk) : Blk :=
  let old := s.ringOn r
  let new := bitOf w.toNat 23
  let s := if old && new then s else (s.setF (RING_CFG_SIZE_LOG2 r) (w.toNat % 32)).setF (RING_CFG_EN r) (b2n new)
  if new && !old then (s.wn (RING_PROD r) 0).wn (RING_CONS r) 0 else s

def execRingCfgWrite (r : Fin 16) (w : Word) (s : State) : Res := s.on (ringCfg r w)

/-- Whether software produces a ring, and whether it consumes it (R41). -/
def Blk.swProd (s : Blk) (r : Nat) : Bool :=
  if r < 4 then !s.fb (PGE_TRK_CFG_DESC_SRC r) else r == 8 || r == 10 || r == 11 || r == 13

def swCons (r : Nat) : Bool := (decide (4 ≤ r ∧ r ≤ 7)) || r == 9 || r == 14 || r == 15

/-- An index write that the ring cannot take. -/
def Blk.idxErr (s : Blk) (r : Nat) (w : Word) : Blk := (s.setF (RING_STATUS_IDX_ERR r) 1).raise 0xE02 r r w.toNat

/-- A write of a producer index, and of a consumer index: the count they leave may not exceed SIZE. -/
def ringProd (r : Nat) (w : Word) (s : Blk) : Blk :=
  if !s.swProd r then s
  else if s.ringSize r < (w.toNat + 2 ^ 24 - s.rn (RING_CONS r)) % 2 ^ 24 then s.idxErr r w
  else (s.setReg (RING_PROD r) w).catchUp

def ringCons (r : Nat) (w : Word) (s : Blk) : Blk :=
  if !swCons r then s
  else if s.ringSize r < (s.rn (RING_PROD r) + 2 ^ 24 - w.toNat) % 2 ^ 24 then s.idxErr r w
  else s.setReg (RING_CONS r) w

def execRingProdWrite (r : Fin 16) (w : Word) (s : State) : Res := s.on (ringProd r w)
def execRingConsWrite (r : Fin 16) (w : Word) (s : State) : Res := s.on (ringCons r w)

/-! ### Memory copies (R476) -/

/-- A field of a path's own copy of a register. -/
def Fld.on (x : Fld) (p : Path) : Fld := { x with addr := onPath p x.addr }

/-- The bytes of a path's memory buffer, and the buffer with its first bytes replaced. -/
def Blk.mbuf (s : Blk) (p : Path) : List Byte := (List.range 64).flatMap fun i => toLE (s.rn (onPath p (RING_MBUF i))) 3

def Blk.putMbuf (s : Blk) (p : Path) (bs : List Byte) : Blk :=
  let all := bs ++ (s.mbuf p).drop bs.length
  (List.range 64).foldl (fun s i => s.wn (onPath p (RING_MBUF i)) (leNat (slice all (3 * i) 3))) s

/-- A copy starts. An address out of range ends it there; an uncorrectable error ends it before anything is copied. -/
def copyGo (p : Path) (store : Bool) (err : MemErr) (s : Blk) : Blk :=
  if s.fb (RING_MCTRL_BUSY.on p) then s
  else
    let n := min 191 (s.f (RING_MCTRL_COUNT_M1.on p)) + 1
    let a := s.val (onPath p RING_MADDR) 2
    let m := min n (s.capacity - a)
    let s := (s.setF (RING_MCTRL_OP.on p) (b2n store)).setF (RING_MCTRL_BUSY.on p) 1
    let s := if store then s.imgWrite 12 a ((s.mbuf p).take m)
      else
        let t := (s.access 12 a m).ecc 12 a err
        if t.bad err then t else t.putMbuf p (s.imgRead a m)
    let s := if m < n then Blk.burst 12 store s ((a + m) / 64 * 64) else s
    { s with acc := { s.acc with copies := aput s.acc.copies (onPath p 0) (decide (m < n) || (!store && s.bad err)) } }

def execLoad (p : Path) (err : MemErr) (s : State) : Res := s.on (copyGo p false err)
def execStore (p : Path) (s : State) : Res := s.on (copyGo p true .none)

/-- A copy ends. -/
def copyEnd (p : Path) (err : Bool) (s : Blk) : Blk :=
  if !s.fb (RING_MCTRL_BUSY.on p) then s
  else
    let s := s.setF (RING_MCTRL_BUSY.on p) 0
    if err || alook false s.acc.copies (onPath p 0) then s.setF (RING_MCTRL_ERR.on p) 1 else s

def execCopyEnd (p : Path) (err : Bool) (s : State) : Res := s.on (copyEnd p err)

/-- A write of a path's RING_MCTRL. -/
def copyCtrl (p : Path) (v : Nat) (s : Blk) : Blk :=
  let s := if bitOf v 22 then s.setF (RING_MCTRL_ERR.on p) 0 else s
  let busy := s.fb (RING_MCTRL_BUSY.on p)
  let s := (s.setF (RING_MCTRL_OP.on p) (bits v 20 20)).setF (RING_MCTRL_COUNT_M1.on p) (v % 256)
  if bitOf v 21 && !busy then copyGo p (bitOf v 20) .none s else s

/-! ### Commands of registers -/

/-- The instance of a group of `c` registers that an address names. -/
def instOf (f : Nat → Nat) (c a : Nat) : Option Nat := (List.range c).find? fun k => f k == a

/-- A write of the skein flash's command register. -/
def flashCtrl (v : Nat) (s : Blk) : Blk :=
  let s := if bitOf v 22 then s.setF SKN_FLASH_CTRL_ERR 0 else s
  let s := (s.setF SKN_FLASH_CTRL_OP (bits v 21 20)).setF SKN_FLASH_CTRL_COUNT_M1 (v % 256)
  if bitOf v 19 then flashGo (bits v 21 20) s else s

def portCtrl (h v : Nat) (s : Blk) : Blk :=
  let s := if bitOf v 0 then headClear h s else s
  if bitOf v 1 then headRetrain h s else s

def tpCtrl (v : Nat) (s : Blk) : Blk :=
  let s := if bitOf v 1 then tpCancel s else s
  if bitOf v 0 then s.tpRequest (s.rn ALN_TP_CFG) (s.rn ALN_TP_TAG) else s

def twnCtrl (v : Nat) (s : Blk) : Blk :=
  let s := if bitOf v 0 then twnRelease s else s
  let s := if bitOf v 1 then (twnClear s).bootGo else s
  let s := if bitOf v 2 then twnForce s else s
  if bitOf v 3 then twnFault s else s

def laneCtrl (n v : Nat) (s : Blk) : Blk :=
  let s := if bitOf v 3 then laneClearCounts n s else s
  let s := if bitOf v 0 then s.laneAgain n else s
  let s := if bitOf v 1 then txSleep n s else s
  if bitOf v 2 then txWake n s else s

/-- LAN_CFG: on lanes of heads and cameras only the polarities are the lane's own (R336). -/
def laneCfg (n : Nat) (w : Word) (s : Blk) : Blk :=
  let m : Word := if isWale n then 0xff8000 else 0x018000
  let s := s.hold (LAN_CFG n) (mixBits (s.lastWritten (LAN_CFG n)) w m) .train
  if isWale n then s.laneEnable n else s

/-- LAN_EYE_CTRL: CANCEL aborts, GO starts. -/
def eyeCtrl (w : Word) (s : Blk) : Blk := eyeScanGo w (if bitOf w.toNat 22 then s.scanAbort else s)

def ttoCtrl (n v : Nat) (s : Blk) : Blk :=
  let s := if bitOf v 0 then ttoArm n s else s
  if bitOf v 1 then ttoDisarm n s else s

/-- STO_CTRL: OPEN begins an opening, whose end STORE_OPEN brings. -/
def stoCtrl (v : Nat) (s : Blk) : Blk :=
  let s := if bitOf v 1 then quiesce s else s
  if bitOf v 0 && (s.stoState == 0 || s.stoState == 4) then s.setF STO_STATUS_STATE 1 else s

def cntGlobal (v : Nat) (s : Blk) : Blk :=
  let s := if bitOf v 0 then s.group true else s
  if bitOf v 1 then s.group false else s

/-- A timing set's word 0: RATE clears TRAINED (R387). -/
def tset0 (k : Nat) (w : Word) (s : Blk) : Blk := s.setReg (DRM_TSET0 k) (w &&& 0xf3ffff)

/-- TWN_PW_DATA (R297): the word is written as an agreed change, or on this unit alone; `alone` writes it here. -/
def pairedWrite (alone : Nat → Word → Blk → Blk) (w : Word) (s : Blk) : Blk :=
  let a := s.rn TWN_PW_ADDR
  if s.fb TWN_PW_STATUS_BUSY then s
  else if s.twnState ≠ 0 ∧ s.heard ∧ (s.twn.ptState = 2 ∨ s.twn.ptState = 3) then (s.setF TWN_PW_STATUS_BUSY 1).agree 3 a w.toNat
  else alone a w (s.setF TWN_PW_STATUS_LOCAL 1)

/-- The words whose write acts in blocks 14 to 28; `b` is the block of address `a`. -/
def Blk.specialFrom14 (s : Blk) (p : Option Path) (a : Nat) (w : Word) (b : Nat) : Option Blk :=
  let v := w.toNat
  match b with
  | 14 =>
    match instOf AXS_CTRL 6 a with
    | some k => some (axisCtrl k v s)
    | none => (instOf AXS_GEAR 6 a).map fun k => gearSlotWrite k w s
  | 15 => if a = TWN_CTRL then some (twnCtrl v s) else none
  | 16 =>
    if a = LAN_EYE_CTRL then some (eyeCtrl w s)
    else
      match instOf LAN_CTRL 44 a, instOf LAN_EQ 44 a with
      | some k, _ => some (laneCtrl k v s)
      | none, some k => some (lanEqWrite k w s)
      | none, none => (instOf LAN_CFG 44 a).map fun k => laneCfg k w s
  | 17 => if a = WAL_ID then some (walIdWrite w s) else none
  | 18 => (instOf TTO_CTRL 4 a).map fun k => ttoCtrl k v s
  | 20 => if a = DRM_CTRL then some (drmCtrl v s) else (instOf DRM_TSET0 4 a).map fun k => tset0 k w s
  | 21 => if a = STO_CTRL then some (stoCtrl v s) else none
  | 22 =>
    if a = BST_REQ then some (bstReq w s)
    else if a = BST_CTRL then some (if bitOf v 0 then bstCancel s else s)
    else if a = BST_REPAIR then some (stakeRepair v s)
    else none
  | 23 => if a = TRM_REQ then some (trmReq w s) else none
  | 24 => if a = CNT_GLOBAL then some (cntGlobal v s) else (instOf CNT_CTRL 16 a).map fun k => if bitOf v 0 then cntClear k s else s
  | 25 =>
    if a = RING_MCTRL then some (match p with | some q => copyCtrl q v s | none => s)
    else
      match instOf RING_CFG 16 a, instOf RING_PROD 16 a with
      | some r, _ => some (ringCfg r w s)
      | none, some r => some (ringProd r w s)
      | none, none => (instOf RING_CONS 16 a).map fun r => ringCons r w s
  | 28 => if a = SEC_LC_CTRL then some (lifecycle w (s.fb SEC_LC_STATUS_VFUSE_OK) s) else none
  | _ => none

/-- A write of one word that has behaviour of its own; none where access codes alone govern it. `p` is the path, none for a paired write. -/
def Blk.special (s : Blk) (p : Option Path) (a : Nat) (w : Word) : Option Blk :=
  let v := w.toNat
  let n := a % 2 ^ 16
  match a / 2 ^ 16 with
  | 0 => if a = SYS_COMMIT then some (sysCommit w s) else if a = SYS_RESET then some (sysReset w s) else none
  | 1 => if a = SKN_FLASH_CTRL then some (flashCtrl v s) else none
  | 2 => (instOf POS_CTRL 8 a).map fun k => posCtrl k v s
  | 4 =>
    match instOf PGE_TRK_CTRL 4 a with
    | some k => some (trackCtrl k v s)
    | none => (instOf PGE_ING_CTRL 4 a).map fun k => if bitOf v 0 then s.resetStream k 0 else s
  | 5 =>
    if 0x8000 ≤ n then some (toneWrite ((n - 0x8000) / 1024) (n % 1024) v s)
    else (instOf CMP_HEAD_TONE 32 a).map fun h => if bitOf v 0 then toneSwap h s else s
  | 6 =>
    if a = SCR_CTRL then some (if bitOf v 0 then thrSwap s else s)
    else if a = SCR_SHADOW_SIZE then some (thrSize w s)
    else if 0x1000 ≤ n ∧ n < 0x1200 then some (thrWin (n - 0x1000) w s)
    else none
  | 8 => some (if p.isSome then s.putNozzle a w else s.hold a w .line)
  | 9 => some (if p.isSome then s.putNozzle a w else s.hold a w .line)
  | 10 =>
    if a = HLK_MBX_CTRL then some (mailboxGo v s.now s)
    else if s.fb HLK_MBX_CTRL_BUSY && (a == HLK_MBX_ADDR || (instOf HLK_MBX_DATA 64 a).isSome) then some s
    else
      match instOf HLK_PORT_CTRL 32 a with
      | some h => some (portCtrl h v s)
      | none => (instOf HLK_THERM_WARN 32 a).map fun h => thermWarnWrite h v s
  | 11 =>
    if 0x8000 ≤ n ∧ n < 0x9000 then some (scoreWrite (n - 0x8000) v s)
    else (instOf INS_CAM_GPIO 4 a).map fun c => camGpioWrite c w s
  | 12 => if a = ALN_TP_CTRL then some (tpCtrl v s) else none
  | b => s.specialFrom14 p a w b

end Sys2Proof.Machine
end

