-- ==== Sys2Proof/Machine/Host.lean ====
section
/-!
DEFINITION. Host access (R7 to R14, R473 to R483, R501, R508): reads and writes of words on a path, SPI frames, management datagrams, the
Ethernet ports (R478 to R480, R367) and the command ring (R487).
-/

namespace Sys2Proof.Machine

/-! ### Which blocks answer (R508) -/

/-- Whether a block's registers answer a read or a write. -/
def Blk.opens (s : Blk) (a : Nat) (write : Bool) : Bool :=
  let k := a / 2 ^ 16
  match s.sys.phase with
  | .up => !s.holding || k == 0 || k == 1 || k == 28
  | .change => !write && (k == 0 || k == 28)
  | _ => false

/-- An access in no block (R501). -/
def Blk.noBlock (s : Blk) (a : Nat) : Blk :=
  if s.sys.phase = .up then (s.setF SYS_ERR_NO_BLOCK 1).wn SYS_ERR_ADDR a else s

/-! ### Reads -/

/-- A schedule entry in the format of R80. -/
def SchedEntry.words (e : SchedEntry) (t : Nat) : List Nat :=
  let p := wrapTo 56 e.pos
  [t * 2 ^ 22 + e.kind * 2 ^ 16 + p % 256, p / 2 ^ 8 % 2 ^ 24, p / 2 ^ 32, e.arg0, e.arg1, e.tag, 0, 0]

/-- A word of the schedule window (R85). -/
def Blk.schedWord (s : Blk) (n : Nat) : Nat :=
  match (s.sched (n / 8192))[n % 8192 / 8]? with
  | some e => (e.words (n / 8192)).getD (n % 8) 0
  | none => 0

/-- LAN_CFG as it reads (R336): on head and camera lanes the owner's enable and rate. -/
def Blk.laneCfgWord (s : Blk) (n v : Nat) : Nat :=
  if isWale n then v
  else
    let max := if isHead n then s.f (HLK_PORT_CFG_MAX_RATE n) else 2
    b2n (s.laneEn n) * 2 ^ 23 + max * 2 ^ 20 + bits v 16 15 * 2 ^ 15

/-- The whole of a value that is kept as something else. -/
def Blk.wholeVal (s : Blk) (a : Nat) : Option Nat :=
  if a = LCK_POSITION then some (wrapTo 56 s.masterP)
  else if a = SYS_UPTIME then some (min (2 ^ 48 - 1) ((s.now - s.sys.born) / 250000))
  else if a = TIM_NOW then
    let r := timeRecord (s.timUnits / 2 ^ 16 : Nat) false
    some (r.getD 0 0 + r.getD 1 0 * 2 ^ 24 + r.getD 2 0 * 2 ^ 48 + r.getD 3 0 * 2 ^ 72)
  else if a = STO_CE_MAP then some s.sto.present
  else none

/-- A word with bits that follow from the rest of the state. -/
def Blk.liveBits (s : Blk) (a v : Nat) : Nat :=
  let n := a % 2 ^ 16
  match a / 2 ^ 16 with
  | 0 => if a = SYS_COMMIT then v % 2 + b2n s.pendingAny * 2 + b2n s.pendingIdle * 4 else v
  | 2 =>
    match instOf POS_STATUS 8 a with
    | some k => setBits v 5 5 (b2n (s.encDelta k).isNone)
    | none => if (instOf POS_ILL_CFG 8 a).isSome then setBits v 11 8 (clampN 4 10 (bits v 11 8)) else v
  | 3 => if 0x8000 ≤ n then s.schedWord (n - 0x8000) else if a = LCK_STATUS then setBits v 1 1 (b2n s.lineDelta.isNone) else v
  | 5 => if 0x8000 ≤ n then s.toneGet (!s.toneAct ((n - 0x8000) / 1024)) ((n - 0x8000) / 1024) (n % 1024) else v
  | 6 => if 0x1000 ≤ n ∧ n < 0x1200 then (s.thrGet (!s.cmp.thrAct) (s.f SCR_WIN_ROW_ROW) (n - 0x1000)).toNat else v
  | 8 => (s.nozzleWord a).toNat
  | 9 => (s.nozzleWord a).toNat
  | 11 =>
    if 0x8000 ≤ n ∧ n < 0x9000 then s.score (s.rn INS_SCORE_PORT % 32 * 4096 + (n - 0x8000)) % 512
    else if a = INS_STATUS then setBits v 0 0 (b2n (s.ringFull 6))
    else v
  | 15 => if a = TWN_CFG_SUM then s.cfgSum else v
  | 16 =>
    match instOf LAN_CFG 44 a with
    | some k => s.laneCfgWord k v
    | none => v
  | 17 => if a = WAL_BCN_STATUS then setBits (setBits v 12 12 (b2n !s.fb TIM_STATUS_LOCKED)) 7 0 s.bcnErr else v
  | 20 =>
    match instOf DRM_PORT_STALLS 14 a, instOf DRM_PORT_RD_OUT 14 a with
    | some p, _ => alook 0 s.dram.stalls p
    | none, some p => min (readCredits p) (s.dram.readsOut p)
    | none, none => if a = DRM_STATUS then setBits v 3 3 (b2n (decide (s.rn PGE_LAT_TOL < s.f DRM_REF_CFG_CRIT_US))) else v
  | 25 =>
    match instOf RING_STATUS 16 a with
    | some r => setBits v 0 0 (b2n (s.ringOn r && decide (s.ringSize r ≤ s.ringCount r)))
    | none => v
  | _ => v

/-- Whether a word is kept for each path (R476, R371). -/
def perPath (a : Nat) : Bool :=
  a == RING_MCTRL || a == RING_MADDR || a == RING_MADDR + 1 || decide (RING_MBUF 0 ≤ a ∧ a ≤ RING_MBUF 63)

/-- Where a path finds a word. -/
def pathAddr (p : Path) (a : Nat) : Nat := if perPath a then onPath p a else a

/-- A word as it stands (R9): RWB bits as last written, WO bits 0. -/
def Blk.shown (s : Blk) (p : Path) (a : Nat) (i : WordInfo) : Word :=
  match s.wholeVal i.first with
  | some v => BitVec.ofNat 24 (v / 2 ^ (24 * i.word))
  | none =>
    let b := pathAddr p a
    let v := mixBits (s.reg b) (s.lastWritten b) i.rwb &&& ~~~ i.wo
    BitVec.ofNat 24 (s.liveBits a v.toNat)

/-- A value's words of a path, snapshot and held. -/
def Blk.snap (s : Blk) (p : Path) (a : Nat) : Word := Tab.get (fun _ => 0) s.acc.snaps (onPath p a)
def Blk.putSnap (s : Blk) (p : Path) (a : Nat) (w : Word) : Blk :=
  { s with acc := { s.acc with snaps := Tab.put (fun _ => 0) s.acc.snaps (onPath p a) w } }

/-- A read of the lowest word snapshots the higher ones for the path (R12). -/
def Blk.snapRest (s : Blk) (p : Path) (i : WordInfo) : Blk :=
  (List.range i.words).foldl (fun t j =>
    if j = 0 then t
    else
      match wordInfo (i.first + j) with
      | some x => t.putSnap p (i.first + j) (s.shown p (i.first + j) x)
      | none => t) s

/-- A read of one word by a path, with what the read itself changes. -/
def Blk.readWord (s : Blk) (p : Path) (a : Nat) : Blk × Word :=
  if !inBlock a then (s.noBlock a, 0)
  else if !s.opens a false then (s, 0)
  else
    match wordInfo a with
    | none => (s, 0)
    | some i =>
      match instOf TCI_FIFO 4 i.first with
      | some n =>
        let t := if i.word = 0 then tciFifoRead p n s else s
        (t, t.reg (onPath p a))
      | none =>
        if i.word ≠ 0 then (s, s.snap p a)
        else if i.words = 1 then (s, s.shown p a i)
        else (s.snapRest p i, s.shown p a i)

/-! ### Writes -/

/-- Holding words (R13): those of the paths, and those of paired writes. -/
def holdKey : Option Path → Nat → Nat
  | some p, a => onPath p a
  | none, a => a + 0x2000000

def Blk.holdWord (s : Blk) (p : Option Path) (a : Nat) (w : Word) : Blk :=
  { s with acc := { s.acc with holds := Tab.put (fun _ => 0) s.acc.holds (holdKey p a) w } }

def Blk.heldWord (s : Blk) (p : Option Path) (a : Nat) : Word := Tab.get (fun _ => 0) s.acc.holds (holdKey p a)

/-- A trace of a register write (R488). -/
def Blk.traceWrite (s : Blk) (p : Option Path) (a : Nat) (w : Word) : Blk :=
  match p with
  | none => s
  | some q => if s.alive && s.fb RING_TRACE_CFG_REGS then s.trace 0xE80 (match q with | .spi => 0 | .dgm => 1) a w.toNat else s

/-- What follows a write of an RWB word. -/
def Blk.afterHold (s : Blk) (a : Nat) (b : Bnd) : Blk :=
  match b with
  | .cycle =>
    if a / 256 = 0xe10 then (if (List.range 6).all fun n => s.axState n == 0 || s.fb (AXS_CFG_DRIVE n) then s.cycleCommit 0 else s)
    else s.cycleNow (a / 256 % 16)
  | _ => s

/-- One word written under its access codes. -/
def Blk.plainWrite (s : Blk) (p : Option Path) (a : Nat) (w : Word) (i : WordInfo) : Blk :=
  let b := match p with
    | some q => pathAddr q a
    | none => a
  let t := s.applyWord b w i
  if i.rwb = 0 then t else t.afterHold a i.bnd

/-- Key 1 (R481): an all-zero key clears it. -/
def mgmtKey1 (v : Nat) (s : Blk) : Blk :=
  let k := v % 2 ^ 256
  let s := { s with acc := { s.acc with key1 := if k = 0 then none else some k } }
  s.setF ETH_MGMT_STATUS_KEY1_SET (b2n (k != 0))

/-- A whole value written: its words, least significant first (R13). -/
def Blk.writeValue (s : Blk) (p : Option Path) (i : WordInfo) (ws : List Word) : Blk :=
  let v := ws.foldr (fun w v => w.toNat + 2 ^ 24 * v) 0
  if i.first = TIM_STEP then timStepWrite (BitVec.ofNat 48 v) s
  else if i.first = TIM_ADDEND then s.setAddend (v % 2 ^ 48)
  else if i.first = ETH_MGMT_KEY1 then mgmtKey1 v s
  else
    match instOf RING_BASE 16 i.first with
    | some r => if s.ringOn r then s else s.setVal i.first (v % 2 ^ 36) 2
    | none =>
      (List.range i.words).foldl (fun s j =>
        match wordInfo (i.first + j) with
        | some x => s.plainWrite p (i.first + j) (ws.getD j 0) x
        | none => s) s

/-- A write to a word that a block holds: a higher word is held, the lowest brings the whole value. -/
def Blk.wordWrite (s : Blk) (p : Option Path) (a : Nat) (w : Word) (i : WordInfo) : Blk :=
  if 1 < i.words then
    if i.word ≠ 0 then s.holdWord p a w
    else s.writeValue p i (w :: (List.range (i.words - 1)).map fun j => s.heldWord p (i.first + j + 1))
  else
    match s.special p a w with
    | some t => t
    | none => s.plainWrite p a w i

/-- A word written here as the partner writes it, or alone (R297). -/
def pairedHere (a : Nat) (w : Word) (s : Blk) : Blk :=
  match wordInfo a with
  | none => s
  | some i => if a = TWN_PW_DATA then s else s.wordWrite none a w i

def execPairedWrite (w : Word) (s : State) : Res := s.on fun b => (pairedWrite pairedHere w b).settle

/-- A write of one word by a path. -/
def Blk.writeWord (s : Blk) (p : Path) (a : Nat) (w : Word) : Blk :=
  if !inBlock a then s.noBlock a
  else if a = SYS_RESET then sysReset w (s.traceWrite (some p) a w)
  else if a = SEC_LC_CTRL then lifecycle w (s.fb SEC_LC_STATUS_VFUSE_OK) (s.traceWrite (some p) a w)
  else if !s.opens a true then s
  else
    match wordInfo a with
    | none => s
    | some i =>
      let s := s.traceWrite (some p) a w
      let s := if a = TWN_PW_DATA then pairedWrite pairedHere w s else s.wordWrite (some p) a w i
      if s.alive then s.settle else s

/-- REGISTER_WRITE: one word written by a path. -/
def execRegisterWrite (p : Path) (a : BitVec 24) (w : Word) (s : State) : Res := s.always fun b => b.writeWord p a.toNat w

/-! ### The SPI target (R473 to R477) -/

/-- The status byte. -/
def Blk.statusByte (s : Blk) : Byte :=
  BitVec.ofNat 8 (b2n s.holding * 128 + b2n (s.f SKN_STATUS_STEP == 8) * 64 + b2n s.acc.frameErr * 32 + b2n s.irq * 16)

/-- Whether the target answers frames: once RESET_N is released. -/
def Blk.spiOn (s : Blk) : Bool := s.sys.phase == .up || s.sys.phase == .change

def Blk.miso (s : Blk) (bs : List Byte) : Blk := { s with acc := { s.acc with spiOut := bs } }

/-- Words written from an address on, in order. -/
def Blk.writeWords (s : Blk) (p : Path) (a : Nat) : List Word → Blk
  | [] => s
  | w :: r => Blk.writeWords (s.writeWord p (a % 2 ^ 24) w) p (a + 1) r

/-- `n` words read from an address on, in order. -/
def Blk.readWords (s : Blk) (p : Path) (a : Nat) : Nat → Blk × List Word
  | 0 => (s, [])
  | n + 1 =>
    let r := s.readWord p (a % 2 ^ 24)
    let q := Blk.readWords r.1 p (a + 1) n
    (q.1, r.2 :: q.2)

def wordsBE (ws : List Word) : List Byte := ws.flatMap fun w => toBE w.toNat 3

def spiWrite (a : Nat) (ws : List Word) (s : Blk) : Blk :=
  if !s.spiOn then s else (s.miso (s.statusByte :: List.replicate (3 + 3 * ws.length) 0)).writeWords .spi a ws

def execSpiWrite (a : BitVec 24) (ws : List Word) (s : State) : Res := s.always (spiWrite a.toNat ws)

def spiRead (a n : Nat) (s : Blk) : Blk :=
  if !s.spiOn then s
  else
    let r := s.readWords .spi a n
    r.1.miso (s.statusByte :: List.replicate 4 0 ++ wordsBE r.2)

def execSpiRead (a : BitVec 24) (n : Nat) (s : State) : Res := s.always (spiRead a.toNat n)

/-- STATUS delivers FRAME_ERR in its data phase and clears it. -/
def spiStatus (s : Blk) : Blk :=
  if !s.spiOn then s
  else
    let s := s.miso [s.statusByte, s.statusByte]
    { s with acc := { s.acc with frameErr := false } }

def execSpiStatus (s : State) : Res := s.always spiStatus

/-- A frame that ends inside a word or an address, or begins with another opcode. Its opcode byte carries the status byte, and 0 follows. -/
def spiFrameErr (s : Blk) : Blk :=
  if s.spiOn then
    let s := s.miso [s.statusByte, 0]
    { s with acc := { s.acc with frameErr := true } }
  else s

def execFrameErr (s : State) : Res := s.always spiFrameErr

/-! ### Ethernet ports (R478, R480, R499) -/

/-- Whether a port is in use: ETH0 alone in the holding state (R441). -/
def Blk.ethOn (s : Blk) (p : Nat) : Bool :=
  s.sys.phase == .up && (if s.holding then p == 0 else s.fb (ETH_CFG_EN p))

def Blk.ethMac (s : Blk) (p : Nat) : Nat := (s.fuse.mac + p) % 2 ^ 48

/-- The link-local address of a port, by EUI-64. -/
def Blk.linkLocal (s : Blk) (p : Nat) : Nat :=
  let m := s.ethMac p
  0xfe80 * 2 ^ 112 + ((m / 2 ^ 24) ^^^ 0x020000) * 2 ^ 40 + 0xfffe * 2 ^ 24 + m % 2 ^ 24

def Blk.ownIp4 (s : Blk) (p a : Nat) : Bool := !s.holding && a != 0 && s.val (ETH_IP4 p) 2 == a
def Blk.ownIp6 (s : Blk) (p a : Nat) : Bool := s.linkLocal p == a || (!s.holding && a != 0 && s.val (ETH_IP6 p) 6 == a)

def arpRequest (p : Nat) (src : Source) (target : Nat) (s : Blk) : Blk :=
  if s.ethOn p && s.ownIp4 p target then s.emit (.arp p src target) else s

def execArpRequest (p : Fin 2) (src : Source) (target : BitVec 32) (s : State) : Res := s.always (arpRequest p src target.toNat)

def neighbour (p : Nat) (src : Source) (target : Nat) (s : Blk) : Blk :=
  if s.ethOn p && s.ownIp6 p target then s.emit (.neighbour p src target) else s

def execNeighbourSolicitation (p : Fin 2) (src : Source) (target : BitVec 128) (s : State) : Res :=
  s.always (neighbour p src target.toNat)

def ethRxDrop (p : Nat) (s : Blk) : Blk := if s.ethOn p then s.incSat (ETH_RX_DROPS p) else s

/-- An echo request is answered; one for another address is a frame dropped. -/
def echoRequest (p : Nat) (src : Source) (target : IpAddr) (body : List Byte) (s : Blk) : Blk :=
  let own := match target with
    | .v4 a => s.ownIp4 p a.toNat
    | .v6 a => s.ownIp6 p a.toNat
  if s.ethOn p && own then s.emit (.echo p src body) else ethRxDrop p s

def execEchoRequest (p : Fin 2) (src : Source) (target : IpAddr) (body : List Byte) (s : State) : Res :=
  s.on (echoRequest p src target body)

def ethLink (p : Nat) (up : Bool) (s : Blk) : Blk :=
  let s := s.setF (ETH_STATUS_LINK p) (b2n up)
  if up then s else s.setF (ETH_STATUS_DOWN p) 1

def execEthLinkChange (p : Fin 2) (up : Bool) (s : State) : Res := s.on (ethLink p up)

def execEthRxDrop (p : Fin 2) (s : State) : Res := s.on (ethRxDrop p)

/-! ### Forwarding (R367, R480) -/

/-- Where the IEEE 1588 message of a frame begins, and where its UDP header does, if it has one. -/
def ptpOffset (bs : List Byte) : Option (Nat × Option Nat) :=
  let u16 := fun i => beNat (slice bs i 2)
  let udp := fun at0 => if u16 (at0 + 2) = 319 ∨ u16 (at0 + 2) = 320 then some (at0 + 8, some at0) else none
  if u16 12 = 0x88f7 then some (14, none)
  else if u16 12 = 0x0800 ∧ (bs.getD 23 0).toNat = 17 then udp (14 + (bs.getD 14 0).toNat % 16 * 4)
  else if u16 12 = 0x86dd ∧ (bs.getD 20 0).toNat = 17 then udp 54
  else none

/-- The ones' complement of the ones' complement sum, 0 sent as all ones. -/
def udpSum (n : Nat) : Nat :=
  let f := fun n => n % 65536 + n / 65536
  let v := 65535 - f (f (f n))
  if v = 0 then 65535 else v

def putBytes (bs : List Byte) (i : Nat) (x : List Byte) : List Byte := bs.take i ++ x ++ bs.drop (i + x.length)

/-- The UDP checksum of a frame computed afresh. -/
def fixUdp (bs : List Byte) (u : Nat) : List Byte :=
  let len := beNat (slice bs (u + 4) 2)
  let v4 := beNat (slice bs 12 2) == 0x0800
  let adr := if v4 then slice bs 26 8 else slice bs 22 32
  let bs := putBytes bs (u + 6) [0, 0]
  putBytes bs (u + 6) (toBE (udpSum (sum16 adr + 17 + len + sum16 (slice bs u len))) 2)

/-- A correction added to the message of a frame. -/
def addCorr (bs : List Byte) (o : Nat × Option Nat) (x : Int) : List Byte :=
  let m := bs.drop o.1
  let bs := putBytes bs (o.1 + 8) (toBE (wrapTo 64 (ptpCorr m + x)) 8)
  match o.2 with
  | some u => fixUdp bs u
  | none => bs

/-- The transparent clock, where TC_EN turns it on, on a frame forwarded from a port: the frame to send, none where it is not forwarded. -/
def Blk.transparent (s : Blk) (p : Nat) (stay : Int) (bs : List Byte) : Blk × Option (List Byte) :=
  match (if s.fb TIM_PTP_CFG_TC_EN then ptpOffset bs else none) with
  | none => (s, some bs)
  | some o =>
    let m := bs.drop o.1
    let p2p := s.fb TIM_PTP_CFG_DELAY
    let t := ptpType m
    let key := fun e : List Byte × Nat × Int => e.1 == ptpSrc m && e.2.1 == ptpSeq m
    if p2p && (t == 2 || t == 3 || t == 10) then (s, none)
    else
      let x := stay + (if p2p && t == 0 && p == s.f TIM_PTP_CFG_PORT then s.time.path.getD 0 else 0)
      match t with
      | 0 =>
        if ptpTwoStep m then
          ({ s with acc := { s.acc with resid := (ptpSrc m, ptpSeq m, x) :: s.acc.resid.filter fun e => !key e } }, some bs)
        else (s, some (addCorr bs o x))
      | 1 => (s, some (addCorr bs o x))
      | 2 => (s, some (addCorr bs o x))
      | 3 => (s, some (addCorr bs o x))
      | 8 =>
        match s.acc.resid.find? key with
        | some e => ({ s with acc := { s.acc with resid := s.acc.resid.erase e } }, some (addCorr bs o e.2.2))
        | none => (s, some bs)
      | _ => (s, some bs)

/-- ETH_FORWARD: a frame for another station, or for all, comes in at one instant of local time and leaves on the other port at another, if the 64
KiB of its direction have room for it beside the frames that have not left. -/
def ethForward (p : Nat) (tIn tOut : Nat) (f : EthFrame) (s : Blk) : Blk :=
  let dst := beNat (f.bytes.take 6)
  let group := bitOf (f.bytes.getD 0 0).toNat 0
  let q := 1 - p
  if !f.fcsOk || !s.ethOn p || !s.ethOn q || !s.fb ETH_GCFG_FWD then s
  else if !group && (dst == s.ethMac 0 || dst == s.ethMac 1) then s
  else if 65536 < ((s.acc.fwd.filter fun e => e.1 == p && decide (tIn < e.2.1)).map fun e => e.2.2).sum + f.bytes.length then
    s.incSat (ETH_FWD_DROPS p)
  else
    let wait := s.acc.fwd.filter fun e => e.1 != p || decide (tIn < e.2.1)
    let s := { s with acc := { s.acc with fwd := wait ++ [(p, tOut, f.bytes.length)] } }
    let r := s.transparent p ((tOut : Int) - tIn) f.bytes
    match r.2 with
    | some bs => r.1.emit (.forward q bs)
    | none => r.1

def execEthForward (p : Fin 2) (tIn tOut : Nat) (f : EthFrame) (s : State) : Res :=
  s.on (ethForward p tIn tOut f)

/-! ### Management datagrams (R481 to R483) -/

/-- An operation of a request: a read of a count of words, or a write of words, from an address. -/
inductive MgmtOp where
  | read (n a : Nat)
  | write (a : Nat) (ws : List Word)
deriving DecidableEq, Repr

/-- The operations of a body, at most `n`; none where it is malformed. -/
def mgmtOps : Nat → List Byte → Option (List MgmtOp)
  | _, [] => some []
  | n + 1, o :: c :: a0 :: a1 :: a2 :: r =>
    let k := c.toNat + 1
    let a := beNat [a0, a1, a2]
    if o = 1 then (mgmtOps n r).map fun l => .read k a :: l
    else if o = 2 ∧ 3 * k ≤ r.length then
      (mgmtOps n (r.drop (3 * k))).map fun l => .write a ((List.range k).map fun i => BitVec.ofNat 24 (beNat (slice r (3 * i) 3))) :: l
    else none
  | _, _ => none

/-- Bytes of the response to an operation. -/
def MgmtOp.size : MgmtOp → Nat
  | .read n _ => 5 + 3 * n
  | .write _ _ => 5

/-- A copy that an operation started is complete before the next one begins. -/
def Blk.finishCopy (s : Blk) : Blk := copyEnd .dgm false s

def Blk.mgmtOp (s : Blk) : MgmtOp → Blk × List Byte
  | .read n a =>
    let r := s.readWords .dgm a n
    (r.1, [1, BitVec.ofNat 8 (n - 1)] ++ toBE a 3 ++ wordsBE r.2)
  | .write a ws => ((s.writeWords .dgm a ws).finishCopy, [2, BitVec.ofNat 8 (ws.length - 1)] ++ toBE a 3)

def Blk.mgmtRun : List MgmtOp → Blk → Blk × List Byte
  | [], s => (s, [])
  | o :: r, s =>
    let x := s.mgmtOp o
    let y := Blk.mgmtRun r x.1
    (y.1, x.2 ++ y.2)

/-- A key as bytes; none where it is unusable. -/
def Blk.mgmtKey (s : Blk) (k : Nat) : Option (List Byte) :=
  match k with
  | 0 => if s.fuse.mgmtKey = 0 then none else some (toBE s.fuse.mgmtKey 32)
  | 1 => s.acc.key1.map fun v => toBE v 32
  | _ => none

/-- A datagram of the controller. -/
def Blk.mgmtReply (s : Blk) (key : List Byte) (k typ cause seq : Nat) (body : List Byte) : List Byte :=
  let m := [0x46, 0x4d, 1, BitVec.ofNat 8 typ, BitVec.ofNat 8 k, BitVec.ofNat 8 cause] ++ toBE body.length 2 ++
    toBE (s.val ETH_MGMT_SESSION 2) 4 ++ toBE seq 4 ++ body
  m ++ hmac key m

/-- A datagram dropped: it is counted, and the event comes at most once per ms. -/
def Blk.mgmtFail (s : Blk) (port why : Nat) : Blk :=
  let s := s.incSat ETH_MGMT_FAIL
  let due := match s.acc.failAt with
    | none => true
    | some t => decide (t + 250000 ≤ s.now)
  if due then ({ s with acc := { s.acc with failAt := some s.now } }).raise 0xE04 port port why else s

/-- MGMT_REQUEST: the first row of R483 that matches decides. Where management is off it is a frame dropped (R478). -/
def mgmtRequest (port : Nat) (src : Source) (d : List Byte) (s : Blk) : Blk :=
  if !s.ethOn port then s
  else if !(s.holding || s.fb ETH_GCFG_MGMT_EN) then ethRxDrop port s
  else
    let at0 := fun i => (d.getD i 0).toNat
    let k := at0 4
    let n := beNat (slice d 6 2)
    let seq := beNat (slice d 12 4)
    if at0 0 ≠ 0x46 ∨ at0 1 ≠ 0x4d ∨ at0 2 ≠ 1 ∨ at0 3 ≠ 1 ∨ d.length ≠ 48 + n then s.mgmtFail port 2
    else
      match s.mgmtKey k with
      | none => s.mgmtFail port 1
      | some key =>
        if hmac key (d.take (16 + n)) ≠ d.drop (16 + n) then s.mgmtFail port 0
        else
          let own := s.f ETH_GCFG_MGMT_PORT
          let send := fun (s : Blk) (bs : List Byte) => s.emit (.udp port own src bs)
          let refuse := fun cause => send s (s.mgmtReply key k 0x82 cause seq [])
          let last := alook 0 s.acc.lastSeq k
          let newerSeq := decide (1 ≤ (seq + 2 ^ 32 - last) % 2 ^ 32 ∧ (seq + 2 ^ 32 - last) % 2 ^ 32 < 2 ^ 31)
          if beNat (slice d 8 4) ≠ s.val ETH_MGMT_SESSION 2 then refuse 1
          else if seq = last then
            (match s.acc.resp.find? fun e => e.1 == k with
             | some e => send s e.2
             | none => s)
          else if !newerSeq then refuse 2
          else
            match (if 1400 < n then none else mgmtOps n (slice d 16 n)) with
            | none => refuse 3
            | some ops =>
              if 1400 < (ops.map MgmtOp.size).sum then refuse 3
              else
                let s := { s with acc := { s.acc with lastSeq := aput s.acc.lastSeq k seq } }
                let r := Blk.mgmtRun ops s
                let bs := s.mgmtReply key k 0x81 0 seq r.2
                let t := send r.1 bs
                { t with acc := { t.acc with resp := aput t.acc.resp k bs } }

def execMgmtRequest (port : Fin 2) (src : Source) (d : List Byte) (s : State) : Res := s.always (mgmtRequest port src d)

/-- ETH_MGMT_KEY1_WRITE: the eleven words of the key. -/
def execEthMgmtKey1Write (_ : Path) (k : BitVec 256) (s : State) : Res := s.on (mgmtKey1 k.toNat)

/-! ### The command ring (R487) -/

/-- COMMAND_REJECT. -/
def Blk.commandReject (s : Blk) (ws : List Nat) : Blk :=
  s.raise 0xE03 0 (bits (ws.getD 0 0) 23 20 * 2 ^ 20 + ws.getD 1 0 % 8) (ws.getD 7 0)

/-- The front entry of ring 10, of kind `k`, is taken and acted on; one of no kind is discarded. -/
def Blk.take10 (s : Blk) (k : Nat) (act : List Nat → Blk → Blk) : Blk :=
  if !s.mayTake 10 then s
  else
    let ws := s.nextEntry 10
    let kind := bits (ws.getD 0 0) 23 20
    if kind = k then (act ws (s.takeFront 10)).settle
    else if kind < 1 ∨ 5 < kind then (s.takeFront 10).commandReject ws
    else s

def word24 (ws : List Nat) (i : Nat) : Nat := ws.getD i 0 % 2 ^ 24

def execSelfTest (s : State) : Res := s.on fun b => b.take10 1 fun ws => bstReq (BitVec.ofNat 24 (word24 ws 1))
def execCancelTest (s : State) : Res := s.on fun b => b.take10 2 fun _ => bstCancel

/-- A register's access codes applied to a word that a ring carries. -/
def Blk.putWord (s : Blk) (a v : Nat) : Blk :=
  match wordInfo a with
  | some i => s.applyWord a (BitVec.ofNat 24 v) i
  | none => s

/-- A TEST_PAGE entry. -/
def testPageEntry (ws : List Nat) (s : Blk) : Blk :=
  let s := (s.putWord ALN_TP_CFG (word24 ws 1)).putWord ALN_TP_TAG (word24 ws 2)
  s.tpRequest (s.rn ALN_TP_CFG) (s.rn ALN_TP_TAG)

def execTestPage (s : State) : Res := s.on fun b => b.take10 3 testPageEntry
def execTrim (s : State) : Res := s.on fun b => b.take10 4 fun ws => trmReq (BitVec.ofNat 24 (word24 ws 1))

/-- An AXIS entry. -/
def axisEntry (ws : List Nat) (s : Blk) : Blk :=
  let n := word24 ws 1 % 8
  if 5 < n then s.commandReject ws
  else
    let s := if bitOf (word24 ws 1) 3 then s.setVal (AXS_TARGET n) (word24 ws 3 + 2 ^ 24 * word24 ws 4) 2 else s
    axisCtrl n (word24 ws 2) s

def execAxis (s : State) : Res := s.on fun b => b.take10 5 axisEntry

end Sys2Proof.Machine
end

