-- ==== Sys2Proof/Machine/Trigger.lean ====
section
/-!
DEFINITION. The line trigger (R64, R69, R71 to R73, R97, R128, R175), what it sets going in every block, and the agreed
changes of a pairing as they come into force (R295).
-/

namespace Sys2Proof.Machine

/-! ### Rungs (R70 to R73, R295, R296) -/

/-- The rung that a measured rate asks for (R71). -/
def Blk.rungFor (s : Blk) (rate : Nat) : Nat :=
  let r := s.f LCK_STATUS_RUNG
  let fl := s.f LCK_STATUS_FLOOR
  if r < fl then fl
  else if s.maxRung < r ∧ fl ≤ s.maxRung then s.maxRung
  else if r < s.maxRung ∧ 97 * s.rungLimit r < 100 * rate then r + 1
  else if fl < r ∧ 10000 * rate < 9215 * s.rungLimit (r - 1) then r - 1
  else r

/-- A new rung applies from line `n`. -/
def Blk.rungChange (s : Blk) (r n : Nat) : Blk :=
  if s.f LCK_STATUS_RUNG = r then s
  else ((s.setF LCK_STATUS_RUNG r).raiseL 0x111 0 r (s.rn LCK_LINE_RATE) (s.indexOf 0 n)).count 0x04

/-- The decision at the trigger of the present line: alone it applies from two lines on, in a pairing it is agreed (R295). -/
def Blk.rungDecide (s : Blk) (rate : Nat) : Blk :=
  let r := s.rungFor rate
  if r = s.f LCK_STATUS_RUNG ∨ s.follows then s
  else if s.agrees then (if s.twn.agreed.any fun g => g.typ == 2 then s else s.agree 2 0 r)
  else s.rungChange r (s.fireNum + 2)

/-- OVERSPEED_WARN (R73); WARN_PCT below 50 counts as 50 and above 100 as 100 (R85). -/
def Blk.rateWarn (s : Blk) (rate : Nat) : Blk :=
  let w := clampN 50 100 (s.f LCK_LADDER_WARN_PCT)
  let r := s.f LCK_STATUS_RUNG
  let f := s.rungLimit r
  if s.f LCK_LADDER_WARN_PCT = 0 then s
  else if !s.lck.warned && decide (w * f < 100 * rate) then
    ({ s with lck := { s.lck with warned := true } }).raise 0x112 0 rate r
  else if s.lck.warned && decide (100 * rate < (w - 5) * f) then { s with lck := { s.lck with warned := false } }
  else s

/-! ### Agreed changes (R295) -/

/-- An agreed change comes into force; lines from `from0` on are composed with it. A paired write of this unit stays busy until the partner has
it too (R297). -/
def Blk.applyAgreed (s : Blk) (g : Agr) (from0 : Nat) : Blk :=
  match g.typ with
  | 0 => s.wn g.addr g.val
  | 1 => s.thermApply (g.addr % 32) g.val from0
  | 2 => s.rungChange (g.val % 4) from0
  | 3 =>
    let s := pairedHere g.addr (BitVec.ofNat 24 g.val) s
    if 256 ≤ g.seq then s
    else if g.acked then s.setF TWN_PW_STATUS_BUSY 0
    else if s.heard then s.withTwn fun x => { x with pwSeq := some g.seq }
    else (s.setF TWN_PW_STATUS_BUSY 0).setF TWN_PW_STATUS_LOCAL 1
  | _ => s

/-- Whether an agreed change is due with line `n` the next one to be composed: its line has come, or with the line clock at rest the
partner holds it. -/
def Blk.agreedDue (s : Blk) (n : Nat) (g : Agr) : Bool :=
  if s.running then decide (g.fire ≤ n) else g.acked || !s.heard

/-- Every agreed change that is due comes into force, in the order of arrival. -/
def Blk.agreedApply (s : Blk) (n : Nat) : Blk :=
  let go := s.twn.agreed.filter (s.agreedDue n)
  let s := s.withTwn fun x => { x with agreed := x.agreed.filter fun g => !go.contains g }
  go.foldl (fun s g => s.applyAgreed g n) s

/-- AGREED_CHANGE_APPLY: the line boundary before the next nozzle phase. -/
def agreedChangeApply (s : Blk) : Blk := (s.agreedApply (s.fireNum + 3)).settle

def execAgreedChangeApply (s : State) : Res := s.on agreedChangeApply

/-! ### When a trigger is due (R30, R64, R67, R248) -/

/-- Whether the line clock issues a trigger in the POS clock at hand, at most one in each; in shuttle mode only in a pass. -/
def Blk.trigDue (s : Blk) : Bool :=
  s.trigMet && (!s.shuttle || (s.shtState == 3 && decide (s.sht.i < s.shtLength + s.shtTail)))

/-- T(n): the instant at which the position with lead met the compare, within the POS clock that ends now (R44). -/
def Blk.trigPs (s : Blk) : Int :=
  match s.lineDelta with
  | none => s.nowPs
  | some d => s.nowPs - min 4000 ((s.lineP + s.lead - q256 s.compare) * (d : Int) * 4000 / 256)

/-- Whether the trigger comes too soon after the last one that was not skipped (R30). -/
def Blk.tooSoon (s : Blk) : Bool :=
  match s.lck.lastIssue with
  | none => false
  | some t => decide ((s.now - t) * 4 * chipLimit s.maxRung < 1000000000)

/-! ### The trigger -/

/-- Local time in 2^-16 ns at an instant of the POS time base in ps (R44, R359). -/
def Blk.localAt (s : Blk) (ps : Int) : Int :=
  (s.tim.base : Int) / 65536 + (ps - 4000 * s.tim.since) * (s.val TIM_ADDEND 2 : Int) / 131072000

/-- The token of the trigger: the compare, the measured rate, the line index of every enabled track and the fire number advance. -/
def Blk.token (s : Blk) : Blk :=
  let tps := s.trigPs
  let skip := s.tooSoon
  let c := s.compare
  let rate := rateOf s.pitch s.lineDelta
  let s := (s.setSval LCK_COMPARE 3 72 (c + s.pitch)).wn LCK_LINE_RATE rate
  let s := [0, 1, 2, 3].foldl (fun s t => if s.trkEn t then s.setVal (LCK_LINE_INDEX t) ((s.lineIndex t + 1) % 2 ^ 48) 2 else s) s
  let s := s.setVal HLK_FIRE_NUM ((s.fireNum + 1) % 2 ^ 48) 2
  let g : Trig := ⟨s.fireNum, [0, 1, 2, 3].map s.lineIndex, s.masterP, s.localAt tps, c, tps, s.now, skip⟩
  { s with lck := { s.lck with trigs := g :: s.lck.trigs.take 1023, lastIssue := if skip then s.lck.lastIssue else some s.now } }

/-- The trigger as a shuttle pass sees it: trigger `i` fires its column of the page in hand, or is a tail line (R239, R240). -/
def Blk.shtTrigger (s : Blk) (tps : Int) (skip : Bool) : Blk :=
  let i := s.sht.i
  let s := if s.trkState 0 == 2 then s.count 0x12 else s
  let col := decide (i < s.shtLength)
  let s := { s with sht := { s.sht with i := i + 1, fired := s.sht.fired + b2n (!skip), cols := s.sht.cols + b2n (!skip && col) } }
  match s.shtPage with
  | none => s
  | some p =>
    if !col then s
    else
      let y := s.pageLine p i
      let s := s.wn (PGE_TRK_PAGE_LINE 0) (y % 2 ^ 24)
      let s := if s.rn (PGE_TRK_MATCH 0) = y ∧ y ≠ u24max then s.raiseT 0x202 0 0 p.tag else s
      if i + 1 = p.len ∧ s.pagePasses ≤ s.shtPass + 1 then s.putPage 0 p { p with lastAt := some tps } else s

/-- The trigger as the tracks see it. -/
def Blk.tracksTrigger (s : Blk) (tps : Int) (skip : Bool) : Blk :=
  if s.shuttle then s.shtTrigger tps skip
  else ([0, 1, 2, 3].filter s.trkEn).foldl (Blk.trackTrigger tps) s

/-- The trigger two lines before a started page: its page boundary falls (R32), and its regions are taken. -/
def Blk.pageBegin (t : Nat) (s : Blk) (p : Page) : Blk :=
  if p.start ≠ s.lineIndex t + 2 then s
  else
    let q := { p with bounded := true }
    let s := if p.bounded then s else (s.putPage t p q).boundaryOf t p
    (s.tpBegin p).regStart t q

def Blk.pageBegins (s : Blk) (t : Nat) : Blk :=
  if s.trkState t == 1 || s.trkState t == 2 then (s.trk t).pages.foldl (Blk.pageBegin t) s else s

/-- The line boundary before a nozzle phase, where transmit delays take effect too (R463); the limits are checked again where the ladder changed
(R171). -/
def Blk.boundaries (s : Blk) : Blk :=
  let old := s.reg LCK_LADDER
  let s := s.lineBoundary
  let s := s.trimsDue s.delayMay
  let s := if s.reg LCK_LADDER = old then s else s.rateRecheck
  if s.shuttle then s else [0, 1, 2, 3].foldl Blk.pageBegins s

/-- The lines whose nozzle phase starts at the trigger of line `n` (R128): in a shuttle pass the first trigger brings the first
three, and none lies beyond the pass. -/
def Blk.toCompose (s : Blk) (n : Nat) : List Nat :=
  if !s.shuttle then [n + 2]
  else
    let stop := s.sht.firstFire + s.shtLength + s.shtTail
    (if n = s.sht.firstFire then [n, n + 1, n + 2] else [n + 2]).filter fun m => decide (m < stop)

/-- A skipped line (R30, R69). -/
def Blk.skipLine (s : Blk) (n : Nat) : Blk :=
  (((s.discardLine n).incSat LCK_SKIP_COUNT).raise 0x110 0 (s.rn LCK_LINE_RATE) (s.f LCK_STATUS_RUNG)).count 0x03

/-- GIO pins of function 3 give a pulse at each trigger (R493). -/
def Blk.gioTrigger (s : Blk) : Blk :=
  ((List.range 16).filter fun i => s.f (PAD_GIO_CFG_FUNC i) == 3).foldl (fun s i => s.emit (.gioPulse i s.now)) s

/-- What follows from a trigger that has been issued. -/
def Blk.trigger (s : Blk) : Blk :=
  let shut := s.shuttle
  let cRaw := s.compare
  let tps := s.trigPs
  let skip := s.tooSoon
  let s := s.token
  let n := s.fireNum
  let rate := s.rn LCK_LINE_RATE
  let s := ((s.count 2).rateWarn rate).rungDecide rate
  let s := (s.insTrigger n cRaw skip).tracksTrigger tps skip
  let s := [0, 1, 2, 3].foldl Blk.abortNow s
  let s := (s.agreedApply (n + 2)).boundaries
  let s := (s.toCompose n).foldl (fun s m => (s.composeLine m).shadowLine m) s
  let s := s.resyncLine
  let s := if skip then s.skipLine n else s
  let s := if shut && s.shtState == 3 && decide (s.shtLength + s.shtTail ≤ s.sht.i) then s.passEnd else s
  s.updateLat.critical.gioTrigger

/-- LINE_TRIGGER at POS clock `t`. -/
def lineTrigger (t : Nat) (s : Blk) : Blk :=
  let s := (s.advance t).passCheck
  if s.trigDue then s.trigger.settle else s

def execLineTrigger (t : Nat) (s : State) : Res := s.on (lineTrigger t)

end Sys2Proof.Machine
end

