-- ==== Sys2Proof/Machine/Dispatch.lean ====
section
/-!
DEFINITION. Dispatch: one arm for each command, a direct call of its meaning.
-/

namespace Sys2Proof.Machine

def exec (i : Instr) (s : State) : Host.Outcome State Fault Refusal :=
  match i with
  | .resetNAssert => Sys2Proof.Machine.execResetNAssert s
  | .upsett x => Sys2Proof.Machine.execUpsett x s
  | .supplyMonitorReset => Sys2Proof.Machine.execSupplyMonitorReset s
  | .sysReset w => Sys2Proof.Machine.execSysReset w s
  | .softwareResetExpiry => Sys2Proof.Machine.execSoftwareResetExpiry s
  | .pllLockLoss pll => Sys2Proof.Machine.execPllLockLoss pll s
  | .storePllLockLoss => Sys2Proof.Machine.execStorePllLockLoss s
  | .clk10InLoss => Sys2Proof.Machine.execClk10InLoss s
  | .sysCommitWrite w => Sys2Proof.Machine.execSysCommitWrite w s
  | .registerWrite path a w => Sys2Proof.Machine.execRegisterWrite path a w s
  | .quadratureTransition n t a b k => Sys2Proof.Machine.execQuadratureTransition n t a b k s
  | .indexCapture n t a b z k => Sys2Proof.Machine.execIndexCapture n t a b z k s
  | .posClearFault n => Sys2Proof.Machine.execPosClearFault n s
  | .posPreset n => Sys2Proof.Machine.execPosPreset n s
  | .posForceFault n => Sys2Proof.Machine.execPosForceFault n s
  | .lineClockStart => Sys2Proof.Machine.execLineClockStart s
  | .lineClockStop => Sys2Proof.Machine.execLineClockStop s
  | .lineTrigger t => Sys2Proof.Machine.execLineTrigger t s
  | .scheduleInsert => Sys2Proof.Machine.execScheduleInsert s
  | .pageStart trk t => Sys2Proof.Machine.execPageStart trk t s
  | .pevPulse trk t => Sys2Proof.Machine.execPevPulse trk t s
  | .pevLevel trk t => Sys2Proof.Machine.execPevLevel trk t s
  | .axisRatio trk t => Sys2Proof.Machine.execAxisRatio trk t s
  | .cameraMark trk t => Sys2Proof.Machine.execCameraMark trk t s
  | .eventMark trk t => Sys2Proof.Machine.execEventMark trk t s
  | .scheduleCancel trk t => Sys2Proof.Machine.execScheduleCancel trk t s
  | .pevPulseEndUs n t => Sys2Proof.Machine.execPevPulseEndUs n t s
  | .pevPulseEndCounts n t => Sys2Proof.Machine.execPevPulseEndCounts n t s
  | .trackArm trk => Sys2Proof.Machine.execTrackArm trk s
  | .trackStop trk => Sys2Proof.Machine.execTrackStop trk s
  | .trackAbort trk => Sys2Proof.Machine.execTrackAbort trk s
  | .abortTakesEffect trk => Sys2Proof.Machine.execAbortTakesEffect trk s
  | .descriptorConsume trk => Sys2Proof.Machine.execDescriptorConsume trk s
  | .pageDone trk t => Sys2Proof.Machine.execPageDone trk t s
  | .fetchBurst trk err => Sys2Proof.Machine.execFetchBurst trk err s
  | .pageRelease trk => Sys2Proof.Machine.execPageRelease trk s
  | .gatherLine cell => Sys2Proof.Machine.execGatherLine cell s
  | .ingestDatagramReceive port d => Sys2Proof.Machine.execIngestDatagramReceive port d s
  | .ingestData st err => Sys2Proof.Machine.execIngestData st err s
  | .ingestBdset st => Sys2Proof.Machine.execIngestBdset st s
  | .ingestDesc st => Sys2Proof.Machine.execIngestDesc st s
  | .ingestReset port d => Sys2Proof.Machine.execIngestReset port d s
  | .ingestAck st t => Sys2Proof.Machine.execIngestAck st t s
  | .retxReq st t => Sys2Proof.Machine.execRetxReq st t s
  | .streamReset st => Sys2Proof.Machine.execStreamReset st s
  | .nozzleWordWrite h k w => Sys2Proof.Machine.execNozzleWordWrite h k w s
  | .toneSwap h => Sys2Proof.Machine.execToneSwap h s
  | .toneShadowWrite h k w => Sys2Proof.Machine.execToneShadowWrite h k w s
  | .thresholdSwap => Sys2Proof.Machine.execThresholdSwap s
  | .thresholdWrite a w => Sys2Proof.Machine.execThresholdWrite a w s
  | .stakeHandover differs => Sys2Proof.Machine.execStakeHandover differs s
  | .identSend h t => Sys2Proof.Machine.execIdentSend h t s
  | .capsReceived h frame => Sys2Proof.Machine.execCapsReceived h frame s
  | .echoReqSend h t => Sys2Proof.Machine.execEchoReqSend h t s
  | .echoRspReceived h frame rttPs => Sys2Proof.Machine.execEchoRspReceived h frame rttPs s
  | .heMailboxGo w t => Sys2Proof.Machine.execHeMailboxGo w t s
  | .heResultReceived h frame => Sys2Proof.Machine.execHeResultReceived h frame s
  | .heMailboxTimeout t => Sys2Proof.Machine.execHeMailboxTimeout t s
  | .headRetrain h => Sys2Proof.Machine.execHeadRetrain h s
  | .headClearCounts h => Sys2Proof.Machine.execHeadClearCounts h s
  | .lineFrameSend h t unread err => Sys2Proof.Machine.execLineFrameSend h t unread err s
  | .fireSend h t => Sys2Proof.Machine.execFireSend h t s
  | .idleFrameSend h t => Sys2Proof.Machine.execIdleFrameSend h t s
  | .statusReceived h t frame => Sys2Proof.Machine.execStatusReceived h t frame s
  | .statusTimeout h t => Sys2Proof.Machine.execStatusTimeout h t s
  | .thermWarnWrite h w => Sys2Proof.Machine.execThermWarnWrite h w s
  | .headFrameDiscard h => Sys2Proof.Machine.execHeadFrameDiscard h s
  | .cameraHeartbeat c t => Sys2Proof.Machine.execCameraHeartbeat c t s
  | .cameraLost c t lane => Sys2Proof.Machine.execCameraLost c t lane s
  | .cameraTrigger c t => Sys2Proof.Machine.execCameraTrigger c t s
  | .cameraLine c t pixels => Sys2Proof.Machine.execCameraLine c t pixels s
  | .cameraLineScore c err => Sys2Proof.Machine.execCameraLineScore c err s
  | .cameraPacketDiscard c t => Sys2Proof.Machine.execCameraPacketDiscard c t s
  | .cameraGpioMessage c t levels => Sys2Proof.Machine.execCameraGpioMessage c t levels s
  | .scoreWrite k w => Sys2Proof.Machine.execScoreWrite k w s
  | .testPageGo => Sys2Proof.Machine.execTestPageGo s
  | .testPageCancel => Sys2Proof.Machine.execTestPageCancel s
  | .passArm t => Sys2Proof.Machine.execPassArm t s
  | .feedComplete => Sys2Proof.Machine.execFeedComplete s
  | .axisEnable a => Sys2Proof.Machine.execAxisEnable a s
  | .axisDisable a => Sys2Proof.Machine.execAxisDisable a s
  | .axisGo a => Sys2Proof.Machine.execAxisGo a s
  | .axisStop a => Sys2Proof.Machine.execAxisStop a s
  | .axisEstop a => Sys2Proof.Machine.execAxisEstop a s
  | .axisHome a => Sys2Proof.Machine.execAxisHome a s
  | .axisPreset a => Sys2Proof.Machine.execAxisPreset a s
  | .axisClear a => Sys2Proof.Machine.execAxisClear a s
  | .axisOfsReset a => Sys2Proof.Machine.execAxisOfsReset a s
  | .profileTick a t => Sys2Proof.Machine.execProfileTick a t s
  | .homingNotFound a => Sys2Proof.Machine.execHomingNotFound a s
  | .switchChange a sw level k => Sys2Proof.Machine.execSwitchChange a sw level k s
  | .homeDone a => Sys2Proof.Machine.execHomeDone a s
  | .stallCheck a t => Sys2Proof.Machine.execStallCheck a t s
  | .gearSlotWrite a w => Sys2Proof.Machine.execGearSlotWrite a w s
  | .gearRampEnd a => Sys2Proof.Machine.execGearRampEnd a s
  | .chopBlankEnd a coil t => Sys2Proof.Machine.execChopBlankEnd a coil t s
  | .chopPeak a coil t k => Sys2Proof.Machine.execChopPeak a coil t k s
  | .chopFastDecayEnd a coil t => Sys2Proof.Machine.execChopFastDecayEnd a coil t s
  | .chopDecayEnd a coil t k => Sys2Proof.Machine.execChopDecayEnd a coil t k s
  | .chopZeroExit a coil t k => Sys2Proof.Machine.execChopZeroExit a coil t k s
  | .adcSample a coil t v => Sys2Proof.Machine.execAdcSample a coil t v s
  | .claimNChange t k level => Sys2Proof.Machine.execClaimNChange t k level s
  | .supervisorTimeout => Sys2Proof.Machine.execSupervisorTimeout s
  | .arbitrateTimeout t => Sys2Proof.Machine.execArbitrateTimeout t s
  | .twnFault => Sys2Proof.Machine.execTwnFault s
  | .twnRelease => Sys2Proof.Machine.execTwnRelease s
  | .twnForceClaim => Sys2Proof.Machine.execTwnForceClaim s
  | .twnClear => Sys2Proof.Machine.execTwnClear s
  | .portsFault t => Sys2Proof.Machine.execPortsFault t s
  | .heartbeatSend t => Sys2Proof.Machine.execHeartbeatSend t s
  | .heartbeatReceived t m => Sys2Proof.Machine.execHeartbeatReceived t m s
  | .partnerSilent t => Sys2Proof.Machine.execPartnerSilent t s
  | .mirrorReceived m => Sys2Proof.Machine.execMirrorReceived m s
  | .agreeReceived m => Sys2Proof.Machine.execAgreeReceived m s
  | .agreedChangeApply => Sys2Proof.Machine.execAgreedChangeApply s
  | .pairedWrite w => Sys2Proof.Machine.execPairedWrite w s
  | .shadowReceived m => Sys2Proof.Machine.execShadowReceived m s
  | .snapReceived m => Sys2Proof.Machine.execSnapReceived m s
  | .nozcopyReceived m => Sys2Proof.Machine.execNozcopyReceived m s
  | .laneLockGain n t bits => Sys2Proof.Machine.execLaneLockGain n t bits s
  | .laneLockLoss n t bits => Sys2Proof.Machine.execLaneLockLoss n t bits s
  | .equaliserSweepDone n t ths => Sys2Proof.Machine.execEqualiserSweepDone n t ths s
  | .laneFrameReceived n t bits => Sys2Proof.Machine.execLaneFrameReceived n t bits s
  | .rateStepRelock n t => Sys2Proof.Machine.execRateStepRelock n t s
  | .trainTimeout n t => Sys2Proof.Machine.execTrainTimeout n t s
  | .laneFailedRetry n t => Sys2Proof.Machine.execLaneFailedRetry n t s
  | .recoverTimeout n t => Sys2Proof.Machine.execRecoverTimeout n t s
  | .laneRetrain n => Sys2Proof.Machine.execLaneRetrain n s
  | .laneClearCounts n => Sys2Proof.Machine.execLaneClearCounts n s
  | .txSleep n => Sys2Proof.Machine.execTxSleep n s
  | .txWake n => Sys2Proof.Machine.execTxWake n s
  | .idleReqReceived n => Sys2Proof.Machine.execIdleReqReceived n s
  | .wakeDetect n t => Sys2Proof.Machine.execWakeDetect n t s
  | .laneWakeFail n t => Sys2Proof.Machine.execLaneWakeFail n t s
  | .laneMarginLow n t one zero => Sys2Proof.Machine.execLaneMarginLow n t one zero s
  | .lanEqWrite n w => Sys2Proof.Machine.execLanEqWrite n w s
  | .eyeScanGo w => Sys2Proof.Machine.execEyeScanGo w s
  | .eyeScanCancel => Sys2Proof.Machine.execEyeScanCancel s
  | .eyeScanDone t points => Sys2Proof.Machine.execEyeScanDone t points s
  | .waleMessageReceived l t m crc => Sys2Proof.Machine.execWaleMessageReceived l t m crc s
  | .swDeliver l => Sys2Proof.Machine.execSwDeliver l s
  | .swSend => Sys2Proof.Machine.execSwSend s
  | .nopSend l t => Sys2Proof.Machine.execNopSend l t s
  | .discoverSend t => Sys2Proof.Machine.execDiscoverSend t s
  | .discoverReceived l t m => Sys2Proof.Machine.execDiscoverReceived l t m s
  | .walIdWrite w => Sys2Proof.Machine.execWalIdWrite w s
  | .beaconSend t => Sys2Proof.Machine.execBeaconSend t s
  | .beaconReceived l t m => Sys2Proof.Machine.execBeaconReceived l t m s
  | .beaconTimeout t => Sys2Proof.Machine.execBeaconTimeout t s
  | .tsyncReqSend t => Sys2Proof.Machine.execTsyncReqSend t s
  | .tsyncReqReceived l t2 t3 m => Sys2Proof.Machine.execTsyncReqReceived l t2 t3 m s
  | .tsyncRspReceived l t4 m => Sys2Proof.Machine.execTsyncRspReceived l t4 m s
  | .parentLost t => Sys2Proof.Machine.execParentLost t s
  | .timStepWrite v => Sys2Proof.Machine.execTimStepWrite v s
  | .ptpMessage port t m => Sys2Proof.Machine.execPtpMessage port t m s
  | .ptpSend port t => Sys2Proof.Machine.execPtpSend port t s
  | .ppsInEdge t level k => Sys2Proof.Machine.execPpsInEdge t level k s
  | .ttoArm n => Sys2Proof.Machine.execTtoArm n s
  | .ttoDisarm n => Sys2Proof.Machine.execTtoDisarm n s
  | .ttoEdge n t => Sys2Proof.Machine.execTtoEdge n t s
  | .tciCapture n t level k => Sys2Proof.Machine.execTciCapture n t level k s
  | .tciFifoRead path n => Sys2Proof.Machine.execTciFifoRead path n s
  | .refreshDue ch => Sys2Proof.Machine.execRefreshDue ch s
  | .throttleEnd p t => Sys2Proof.Machine.execThrottleEnd p t s
  | .trackerWindowClear t => Sys2Proof.Machine.execTrackerWindowClear t s
  | .powerDownEntry ch t => Sys2Proof.Machine.execPowerDownEntry ch t s
  | .selfRefreshEntry t => Sys2Proof.Machine.execSelfRefreshEntry t s
  | .selfRefreshExit t => Sys2Proof.Machine.execSelfRefreshExit t s
  | .fcGo w => Sys2Proof.Machine.execFcGo w s
  | .frequencyChange fail => Sys2Proof.Machine.execFrequencyChange fail s
  | .wckTracking t fail => Sys2Proof.Machine.execWckTracking t fail s
  | .patrolScrub burst err => Sys2Proof.Machine.execPatrolScrub burst err s
  | .drmClearCounts => Sys2Proof.Machine.execDrmClearCounts s
  | .create => Sys2Proof.Machine.execCreate s
  | .append err => Sys2Proof.Machine.execAppend err s
  | .close => Sys2Proof.Machine.execClose s
  | .play => Sys2Proof.Machine.execPlay s
  | .stopPlay => Sys2Proof.Machine.execStopPlay s
  | .retire => Sys2Proof.Machine.execRetire s
  | .stat => Sys2Proof.Machine.execStat s
  | .list => Sys2Proof.Machine.execList s
  | .storeRead => Sys2Proof.Machine.execStoreRead s
  | .format rand marks => Sys2Proof.Machine.execFormat rand marks s
  | .badOp => Sys2Proof.Machine.execBadOp s
  | .storeOpen x => Sys2Proof.Machine.execStoreOpen x s
  | .quiesce => Sys2Proof.Machine.execQuiesce s
  | .flushTimer t => Sys2Proof.Machine.execFlushTimer t s
  | .bandPageProgrammed => Sys2Proof.Machine.execBandPageProgrammed s
  | .programFail b => Sys2Proof.Machine.execProgramFail b s
  | .eraseDone fail => Sys2Proof.Machine.execEraseDone fail s
  | .nandReadDone r => Sys2Proof.Machine.execNandReadDone r s
  | .patrolRead t => Sys2Proof.Machine.execPatrolRead t s
  | .playRecord st => Sys2Proof.Machine.execPlayRecord st s
  | .leaseWaitEnd st => Sys2Proof.Machine.execLeaseWaitEnd st s
  | .completionPost => Sys2Proof.Machine.execCompletionPost s
  | .sknFlashRead => Sys2Proof.Machine.execSknFlashRead s
  | .sknFlashProgram => Sys2Proof.Machine.execSknFlashProgram s
  | .sknFlashErase4k => Sys2Proof.Machine.execSknFlashErase4k s
  | .sknFlashErase64k => Sys2Proof.Machine.execSknFlashErase64k s
  | .flashCommandEnd t done data => Sys2Proof.Machine.execFlashCommandEnd t done data s
  | .lifecycleChange w vfuse => Sys2Proof.Machine.execLifecycleChange w vfuse s
  | .bstReq w => Sys2Proof.Machine.execBstReq w s
  | .bstCancel => Sys2Proof.Machine.execBstCancel s
  | .restStart t => Sys2Proof.Machine.execRestStart t s
  | .lbistTestEnd t sig pass => Sys2Proof.Machine.execLbistTestEnd t sig pass s
  | .stakeRepair w vfuse => Sys2Proof.Machine.execStakeRepair w vfuse s
  | .dieTempConversion t temps => Sys2Proof.Machine.execDieTempConversion t temps s
  | .trimRound t x => Sys2Proof.Machine.execTrimRound t x s
  | .trmReq w => Sys2Proof.Machine.execTrmReq w s
  | .trimApply => Sys2Proof.Machine.execTrimApply s
  | .cntClear k => Sys2Proof.Machine.execCntClear k s
  | .startGroup => Sys2Proof.Machine.execStartGroup s
  | .stopGroup => Sys2Proof.Machine.execStopGroup s
  | .spiWrite a ws => Sys2Proof.Machine.execSpiWrite a ws s
  | .spiRead a n => Sys2Proof.Machine.execSpiRead a n s
  | .spiStatus => Sys2Proof.Machine.execSpiStatus s
  | .frameErr => Sys2Proof.Machine.execFrameErr s
  | .load path err => Sys2Proof.Machine.execLoad path err s
  | .store path => Sys2Proof.Machine.execStore path s
  | .mgmtRequest port src d => Sys2Proof.Machine.execMgmtRequest port src d s
  | .ethMgmtKey1Write path k => Sys2Proof.Machine.execEthMgmtKey1Write path k s
  | .arpRequest port src target => Sys2Proof.Machine.execArpRequest port src target s
  | .neighbourSolicitation port src target => Sys2Proof.Machine.execNeighbourSolicitation port src target s
  | .echoRequest port src target body => Sys2Proof.Machine.execEchoRequest port src target body s
  | .ethForward port tIn tOut f => Sys2Proof.Machine.execEthForward port tIn tOut f s
  | .selfTest => Sys2Proof.Machine.execSelfTest s
  | .cancelTest => Sys2Proof.Machine.execCancelTest s
  | .testPage => Sys2Proof.Machine.execTestPage s
  | .trim => Sys2Proof.Machine.execTrim s
  | .axis => Sys2Proof.Machine.execAxis s
  | .ringCfgWrite r w => Sys2Proof.Machine.execRingCfgWrite r w s
  | .ringProdWrite r w => Sys2Proof.Machine.execRingProdWrite r w s
  | .ringConsWrite r w => Sys2Proof.Machine.execRingConsWrite r w s
  | .eventRecordPost => Sys2Proof.Machine.execEventRecordPost s
  | .evtSummaryClear w => Sys2Proof.Machine.execEvtSummaryClear w s
  | .gioEdge n t level k => Sys2Proof.Machine.execGioEdge n t level k s
  | .discoverExpiry t => Sys2Proof.Machine.execDiscoverExpiry t s
  | .nopReceived l m => Sys2Proof.Machine.execNopReceived l m s
  | .supplyMonitorRelease => Sys2Proof.Machine.execSupplyMonitorRelease s
  | .lifecycleReset fuseOk => Sys2Proof.Machine.execLifecycleReset fuseOk s
  | .copyEnd path err => Sys2Proof.Machine.execCopyEnd path err s
  | .ethLinkChange port up => Sys2Proof.Machine.execEthLinkChange port up s
  | .ethRxDrop port => Sys2Proof.Machine.execEthRxDrop port s

end Sys2Proof.Machine
end

