-- ==== Sys2Proof/Machine/Step.lean ====
section
/-!
DEFINITION. One step: the command at the front of the queue is carried out on the block, with the rest of the queue. With none waiting, one
POS clock passes in which nothing is commanded (assumption log).
-/

namespace Sys2Proof.Machine

/-- The block with no command waiting: time moves on by one POS clock of 4 ns (R43). -/
def State.idle (s : State) : State := { s with blk := s.blk.advance (s.blk.now + 1) }

/-- One step. -/
def step (s : State) : Host.Outcome State Fault Refusal :=
  match s.pending with
  | [] => .next s.idle
  | c :: rest => exec c { s with pending := rest }

/-- The state with the command that a word spells put at the front of its queue; no word spells one. -/
def State.withFetchWord (s : State) (nbits w : Nat) : State :=
  match decodeTableWord nbits w with
  | some c => { s with pending := c :: s.pending }
  | none => s

end Sys2Proof.Machine
end

