-- ==== Sys2Proof/Safety.lean ====
section
/-!
DEFINITION. What counts as a safe run: tables in canonical form, a queue of well-formed commands, fuses that are never restored, a clock that never
runs back, and an output log that only grows. Claims are stated in these terms.
-/

namespace Sys2Proof.Machine

/-- Image memory in canonical form: addresses strictly rise and no entry is what an unlisted address reads as. -/
def Memory.wf (m : List (Nat × Byte)) : Bool := Tab.wf memDefault m

/-- Every table of the block in canonical form. -/
def Blk.wf (s : Blk) : Bool :=
  Tab.wf resetWord s.regs && Memory.wf s.mem && Tab.wf (fun _ => Enc.init) s.encs && Tab.wf (fun _ => []) s.scheds &&
    Tab.wf (fun _ => Pev.init) s.pevs && Tab.wf (fun _ => Trk.init) s.trks && Tab.wf (fun _ => Port.init) s.ports &&
    Tab.wf (fun _ => Cam.init) s.cams && Tab.wf (fun _ => Ax.init) s.axes && Tab.wf (fun _ => Lane.init) s.lanes &&
    Tab.wf (fun _ => Link.init) s.links && Tab.wf (fun _ => Stream.init) s.streams && Tab.wf (fun _ => 0) s.cmp.tone &&
    Tab.wf (fun _ => 0) s.cmp.thr && Tab.wf (fun _ => 0) s.acc.snaps && Tab.wf (fun _ => 0) s.acc.holds

/-- The invariant: the block's tables are canonical, and every waiting command is well formed. -/
def State.wf (s : State) : Bool := s.blk.wf && s.pending.all Instr.wf

/-- What is blown in `a` is blown in `b` (R443). -/
def Fuse.within (a b : Fuse) : Prop :=
  a.k ≤ b.k ∧ (a.retire = true → b.retire = true) ∧ ∀ u, a.repair = some u → b.repair = some u

/-- `s` can come after `r`: canonical tables stay so, no fuse is restored, time does not run back, and what has left the part stays in the log. -/
def Blk.Later (r s : Blk) : Prop :=
  (r.wf = true → s.wf = true) ∧ Fuse.within r.fuse s.fuse ∧ r.now ≤ s.now ∧ r.out <:+ s.out

/-! ### Terms of the claims -/

/-- The words in which event counters count (R465): CNT_VALUE and CNT_WRAP. Every step may move them, so frames leave them out. -/
def cntWord (a : Nat) : Bool := a == CNT_WRAP || decide (CNT_VALUE 0 ≤ a ∧ a < CNT_VALUE 16 ∧ (a - CNT_VALUE 0) % 8 < 2)

/-- Register words outside `p` and the counters' words are as they were. -/
def Blk.RegsBut (r s : Blk) (p : Nat → Prop) : Prop := ∀ a, cntWord a = false → ¬ p a → s.reg a = r.reg a

/-- The words in which the sending of a pairing message shows: the credits and the stalls of WALE1 (R348, R349). -/
def pairWord (a : Nat) : Prop := a = WAL_LINK_STATUS 2 ∨ a = WAL_CREDIT_STALLS 2

/-- What a step on register words alone leaves: every other piece of state, and every register word outside `p`. -/
def Blk.OnlyRegs (r s : Blk) (p : Nat → Prop) : Prop := s = { r with regs := s.regs } ∧ ∀ a, ¬ p a → s.reg a = r.reg a

/-- Every byte of image memory, the fuses and the phase of the part are as they were. -/
def Blk.Calm (r s : Blk) : Prop := (∀ a, s.memRead a = r.memRead a) ∧ s.fuse = r.fuse ∧ s.sys.phase = r.sys.phase

/-- Nothing waits for idle: no value is held, no handover is under way, and no test can start (R36, R153, R459). -/
def Blk.Rested (s : Blk) : Prop := s.held = [] ∧ s.cmp.hand = none ∧ (s.bst.phase ≠ 0 ∨ s.fb BST_STATUS_BUSY = true)

/-- An event has been raised, after those that waited already (R489, R491); a counter that wraps may have raised its own beside it. -/
def Blk.Raised (r s : Blk) (code inst d0 d1 : Nat) : Prop :=
  ∃ (l : List Ev) (e : Ev), s.evq = r.evq ++ l ∧ e ∈ l ∧ e.code = code ∧ e.inst = inst ∧ e.d0 = d0 ∧ e.d1 = d1

/-- A command completes on a state: its step answers a next state that keeps the queue and has `p`. -/
def Completes (c : Instr) (s : State) (p : Blk → Prop) : Prop :=
  ∃ t : State, exec c s = .next t ∧ t.pending = s.pending ∧ p t.blk

/-- A command's step answers the state with block `b` and the queue as it was: the command does exactly this. -/
def Yields (c : Instr) (s : State) (b : Blk) : Prop := exec c s = .next { s with blk := b }

/-- One frame of a type and payload has left a head port: header, payload, and the CRC-32 of both (R162, R164). -/
def Blk.SentDown (r s : Blk) (h typ : Nat) (payload : List Byte) : Prop :=
  ∃ (ps : Int) (bs : List Byte), s.out = .down h ps bs :: r.out ∧ bs.length = 20 + payload.length ∧ bs.take 1 = toBE typ 1 ∧
    (bs.drop 16).take payload.length = payload ∧ bs.drop (16 + payload.length) = toBE (crc32 (bs.take (16 + payload.length))) 4

/-- What the receiver of a lane finds in a stretch of line bits, with the polarity of its pair (R312 to R321). -/
def Blk.finds (s : Blk) (n : Nat) (bits : List Bool) : List RxEv :=
  ((s.lane n).rx.feed (s.laneHeavy n) (!isCam n) (s.fb (LAN_STATUS_LOCK n)) (if s.fb (LAN_CFG_RX_POL n) then bits.map not else bits)).2

/-- The store can take the entry at the front of ring 8 now, its operation code is `op`, and the store is OPEN (R406 to R411). -/
def Blk.StoreTakes (s : Blk) (op : Nat) : Prop :=
  s.mirrored 8 = none ∧ s.mayTake 8 = true ∧ s.underTest 12 = false ∧ bits ((s.ringFront 8).headD 0) 23 16 = op ∧
    s.sto.waitsFor op ((s.ringFront 8).getD 2 0 % 2 ^ 24) = false ∧ s.sto.mayHold true = true ∧ s.ringFull 9 = false ∧
    s.sto.quiesce = false ∧ s.stoState = 2

/-- The tag of the ring-8 entry at the front, and the reel it names. -/
def Blk.tag8 (s : Blk) : Nat := (s.ringFront 8).getD 1 0 % 2 ^ 24
def Blk.reel8 (s : Blk) : Nat := (s.ringFront 8).getD 2 0 % 2 ^ 24

/-- The store has consumed the front entry of ring 8. -/
def Blk.Took8 (r s : Blk) : Prop := s.rn (RING_CONS 8) = (r.rn (RING_CONS 8) + 1) % 2 ^ 24

/-- The entry at the front of ring 10 can be taken now, and is of kind `k` (R485, R487). -/
def Blk.RingTen (s : Blk) (k : Nat) : Prop :=
  s.mirrored 10 = none ∧ s.mayTake 10 = true ∧ bits ((s.ringFront 10).getD 0 0) 23 20 = k ∧ s.allIdle = false

/-- Word `i` of the entry at the front of ring 10. -/
def Blk.word10 (s : Blk) (i : Nat) : Nat := (s.ringFront 10).getD i 0 % 2 ^ 24

/-- The entry at the front of ring 10 has been consumed. -/
def Blk.Took10 (r s : Blk) : Prop := s.rn (RING_CONS 10) = (r.rn (RING_CONS 10) + 1) % 2 ^ 24

/-- A word that a path writes with nothing following from it: a one-word value of a block with no action, no trace of it is asked for,
and no held value goes ahead with it (R9, R488). -/
def Blk.PlainWord (s : Blk) (a : Nat) (i : WordInfo) : Prop :=
  s.alive = true ∧ s.allIdle = false ∧ s.fb RING_TRACE_CFG_REGS = false ∧ inBlock a = true ∧ a ≠ SYS_RESET ∧ a ≠ SEC_LC_CTRL ∧ a ≠ TWN_PW_DATA ∧
    wordInfo a = some i ∧ i.words = 1 ∧ ∀ (r : Blk) (p : Option Path) (w : Word), r.special p a w = none

/-- The commands that act whatever the state of the part: those of reset and start-up, of the life cycle and the flash, and host access. -/
def always : Instr → Bool
  | .registerWrite _ _ _ | .spiWrite _ _ | .spiRead _ _ | .spiStatus | .frameErr | .arpRequest _ _ _ | .neighbourSolicitation _ _ _
  | .mgmtRequest _ _ _ | .dieTempConversion _ _ | .upsett _ | .resetNAssert | .supplyMonitorReset | .supplyMonitorRelease | .sysReset _
  | .softwareResetExpiry | .lifecycleChange _ _ | .lifecycleReset _ | .sknFlashRead | .sknFlashProgram | .sknFlashErase4k
  | .sknFlashErase64k | .flashCommandEnd _ _ _ => true
  | _ => false

end Sys2Proof.Machine
end

