-- ==== Sys2Proof/Certificates/Slice0/Obligations.lean ====
section
/-!
DEFINITION. The statements for the provers. Each says what commands of one family do on every state that meets its hypotheses, and what they leave.
A docstring that begins with "From" names the rules a statement draws on; it does not claim to state them whole.
-/

open Sys2Proof Sys2Proof.Machine

/-! ### Position, line clock and schedule -/

/-- R84 whole, and R58 in part. PRESET of an encoder that is neither the master nor the fallback of a running line clock loads POS_PRESET into POS_COUNT;
for the master and the fallback of a running one it is refused, PRESET_REJ is set, and no other register word, no encoder's count among them, changes.
FORCE_FAULT faults the encoder with cause 0 and raises ENCODER_FAULT; one that is faulted already keeps its cause, and nothing is raised. -/
def Obligations.EncoderCommands : Prop :=
  ∀ (s : State) (n : Fin 8), s.blk.alive = true →
    (s.blk.running = true → s.blk.masterSrc = n ∨ (s.blk.fb LCK_MASTER_FB_EN = true ∧ s.blk.f LCK_MASTER_FB_SRC = n) →
      Completes (.posPreset n) s fun b => b.f (POS_STATUS_PRESET_REJ n) = 1 ∧ s.blk.OnlyRegs b (· = POS_STATUS n)) ∧
    (s.blk.running = false ∨
        (s.blk.masterSrc ≠ n ∧ (s.blk.f LCK_MASTER_FB_SRC ≠ n ∨ (s.blk.fb LCK_MASTER_FB_EN = false ∧ s.blk.fbActive = false))) →
      Completes (.posPreset n) s fun b =>
        b.val (POS_COUNT n) 2 = s.blk.val (POS_PRESET n) 2 ∧ s.blk.OnlyRegs b (fun a => a = POS_COUNT n ∨ a = POS_COUNT n + 1)) ∧
    ((∀ x ∈ s.blk.held, x.addr ≠ POS_STATUS n) → s.blk.fb (POS_STATUS_FAULT n) = false →
      Completes (.posForceFault n) s fun b =>
        b.f (POS_STATUS_FAULT n) = 1 ∧ b.f (POS_STATUS_FAULT_CAUSE n) = 0 ∧ s.blk.Raised b 0x122 n n 0) ∧
    (s.blk.fb (POS_STATUS_FAULT n) = false → s.blk.running = false → s.blk.allIdle = false → (∀ k, k < 6 → s.blk.axState k ≠ 4) →
      Completes (.posForceFault n) s fun b =>
        b.f (POS_STATUS_FAULT n) = 1 ∧ b.f (POS_STATUS_FAULT_CAUSE n) = 0 ∧ s.blk.Raised b 0x122 n n 0 ∧
          s.blk.RegsBut b (· = POS_STATUS n) ∧ s.blk.Calm b) ∧
    (s.blk.fb (POS_STATUS_FAULT n) = true → s.blk.allIdle = false → Yields (.posForceFault n) s s.blk)

/-- From R48 to R52, R54, R55, R58, R61. Levels of A and B that hold for FILT_N samples and make a legal step count by it, one way or with INVERT the other, set DIR so,
and stamp the edge with their first sample, on every encoder that is enabled, whatever follows it; levels that change both are an
illegal transition, which counts in POS_ILL_COUNT, sets UNCERTAIN and leaves the count. Z that becomes active for FILT_N samples while the index is armed, and with GATED while AB equals
GATE_AB, captures the count and sets IDX_SEEN. Outside the line clock and shuttle mode, while a track is at work, nothing else changes. CLEAR_FAULT clears the fault, the
transition history, the mismatches in a row and the index reference; that FAULT_CAUSE then reads 0 is the model's choice (entry 123). -/
def Obligations.EncoderInputs : Prop :=
  ∀ (s : State) (n : Fin 8), s.blk.alive = true →
    (Completes (.posClearFault n) s fun b =>
      b.f (POS_STATUS_FAULT n) = 0 ∧ b.f (POS_STATUS_FAULT_CAUSE n) = 0 ∧ b.f (POS_STATUS_IDX_SEEN n) = 0 ∧
        (b.enc n).hist = [] ∧ (b.enc n).mism = 0 ∧ (b.enc n).idxPrev = none ∧
        (∀ m, m ≠ n.val → b.enc m = s.blk.enc m) ∧ s.blk.RegsBut b (· = POS_STATUS n) ∧ s.blk.Calm b) ∧
    ∀ t k : Nat, s.blk.fb (POS_CFG_EN n) = true → s.blk.filtN n ≤ k → (s.blk.enc n).a.run = 0 → (s.blk.enc n).b.run = 0 →
      (s.blk.enc n).z.run = 0 →
      (∀ x y : Bool, (s.blk.enc n).z.out = (s.blk.enc n).pinZ → s.blk.held = [] →
        (s.blk.fb (POS_IDX_CFG_GATED n) = false ∨ (s.blk.enc n).zArmed = false) →
        (∀ d : Int, abStep (s.blk.enc n).ab (2 * b2n x + b2n y) = some d → Completes (.quadratureTransition n t x y k) s fun b =>
          b.encCount n = sext 48 (wrapTo 48 (s.blk.encCount n + if s.blk.fb (POS_CFG_INVERT n) then -d else d)) ∧
            b.fb (POS_STATUS_DIR n) = decide ((if s.blk.fb (POS_CFG_INVERT n) then -d else d) < 0) ∧ (b.enc n).edge = some t) ∧
        (x ≠ (s.blk.enc n).a.out → y ≠ (s.blk.enc n).b.out → Completes (.quadratureTransition n t x y k) s fun b =>
          b.encCount n = s.blk.encCount n ∧ b.fb (POS_STATUS_UNCERTAIN n) = true ∧
            b.rn (POS_ILL_COUNT n) = min (s.blk.rn (POS_ILL_COUNT n) + 1) u24max)) ∧
      (∀ z : Bool, (s.blk.enc n).z.out = !z → (s.blk.enc n).zArmed = true → s.blk.fb (POS_CFG_IDX_POL n) = z → s.blk.held = [] →
        (s.blk.fb (POS_IDX_CFG_GATED n) = false ∨ (s.blk.enc n).ab = s.blk.f (POS_IDX_CFG_GATE_AB n)) →
        Completes (.indexCapture n t (s.blk.enc n).a.out (s.blk.enc n).b.out z k) s fun b =>
          b.val (POS_IDX_CAPTURE n) 2 = s.blk.val (POS_COUNT n) 2 ∧ b.fb (POS_STATUS_IDX_SEEN n) = true) ∧
      (s.blk.f (POS_CFG_FILT_N n) ≤ 1 → s.blk.fb (POS_CFG_INVERT n) = false →
        s.blk.fb (POS_IDX_CFG_GATED n) = false → (s.blk.enc n).a.out = false → (s.blk.enc n).b.out = false → (s.blk.enc n).hist = [] →
        s.blk.running = false → s.blk.shuttle = false → s.blk.allIdle = false →
        ((s.blk.enc n).z.out = (s.blk.enc n).pinZ →
          Completes (.quadratureTransition n t true false k) s (fun b =>
            b.val (POS_COUNT n) 2 = (s.blk.val (POS_COUNT n) 2 + 1) % 2 ^ 48 ∧ b.fb (POS_STATUS_DIR n) = false ∧ (b.enc n).edge = some t ∧
              b.now = max s.blk.now t ∧
              s.blk.RegsBut b (fun a => a = POS_COUNT n ∨ a = POS_COUNT n + 1 ∨ a = POS_STATUS n ∨ a = POS_INTERVAL n) ∧ s.blk.Calm b) ∧
          Completes (.quadratureTransition n t true true k) s (fun b =>
            b.val (POS_COUNT n) 2 = s.blk.val (POS_COUNT n) 2 ∧ b.fb (POS_STATUS_UNCERTAIN n) = true ∧
              b.rn (POS_ILL_COUNT n) = min (s.blk.rn (POS_ILL_COUNT n) + 1) u24max ∧ b.now = max s.blk.now t ∧
              s.blk.RegsBut b (fun a => a = POS_STATUS n ∨ a = POS_ILL_COUNT n) ∧ s.blk.Calm b)) ∧
        ∀ z : Bool, (s.blk.enc n).z.out = !z → (s.blk.enc n).zArmed = true → (s.blk.enc n).idxPrev = none →
          s.blk.fb (POS_CFG_IDX_POL n) = z →
          Completes (.indexCapture n t false false z k) s fun b =>
            b.val (POS_IDX_CAPTURE n) 2 = s.blk.val (POS_COUNT n) 2 ∧ b.fb (POS_STATUS_IDX_SEEN n) = true ∧ b.now = max s.blk.now t ∧
              s.blk.RegsBut b (fun a => a = POS_IDX_CAPTURE n ∨ a = POS_IDX_CAPTURE n + 1 ∨ a = POS_STATUS n) ∧ s.blk.Calm b)

/-- From R36, R66, R68, R69, R175, R340. With every track IDLE and nothing else waiting, a start sets RUN and RUNNING and clears the line indexes and the fire
number, a stop clears RUN and RUNNING and empties the four schedules, and a write of WAL_ID takes effect and clears ID_CONFLICT. A write of SYS_COMMIT
with HOLD set changes HOLD alone, and one with HOLD clear, where no value is held, clears it.
Where it rests on the model's readings and choices, entries 14, 16, 17, 18, 125 of the assumption log say which. -/
def Obligations.IdleWrites : Prop :=
  ∀ s : State, s.blk.alive = true →
    (s.blk.allIdle = true → s.blk.Rested → s.blk.fb SYS_COMMIT_HOLD = false →
      (s.blk.running = false →
        Completes .lineClockStart s fun b =>
          b.running = true ∧ b.fb LCK_CTRL_RUN = true ∧ b.fireNum = 0 ∧ ∀ t, t < 4 → b.lineIndex t = 0) ∧
      (s.blk.running = true →
        Completes .lineClockStop s fun b => b.running = false ∧ b.fb LCK_CTRL_RUN = false ∧ ∀ t, t < 4 → b.sched t = []) ∧
      ∀ w : Word, Completes (.walIdWrite w) s fun b =>
        b.reg WAL_ID = w &&& 0xfff ∧ b.fb WAL_STATUS_ID_CONFLICT = false ∧ s.blk.RegsBut b (fun a => a = WAL_ID ∨ a = WAL_STATUS)) ∧
    ∀ w : Word,
      (w.toNat % 2 = 1 → Completes (.sysCommitWrite w) s fun b => b.fb SYS_COMMIT_HOLD = true ∧ s.blk.OnlyRegs b (· = SYS_COMMIT)) ∧
      (w.toNat % 2 = 0 → s.blk.allIdle = false → s.blk.held = [] →
        (∀ i, i < 8 → s.blk.laneState (32 + i) = 0 → s.blk.laneEn (32 + i) = false) →
        Completes (.sysCommitWrite w) s fun b => b.fb SYS_COMMIT_HOLD = false ∧ s.blk.OnlyRegs b (· = SYS_COMMIT))

/-- From R75, R81, R82, R218, R278. An entry at the front of a schedule that H has reached leaves it and acts: a level and a pulse drive their PEV output, a
ratio is kept for an axis that is not in GEAR and, without a ramp, taken at once by one that is, a mark arms the camera, an event mark is raised with its tag, a cancellation removes the entries of its tag,
and a page start brings the boundary of its page. Stated with the trace of entries off, no reject marker in the schedule, no entry of a lower track due, and
fewer than four entries executed in this POS clock.
Where it rests on the model's readings and choices, entries 29, 133 of the assumption log say which. -/
def Obligations.ScheduleEntries : Prop :=
  ∀ (s : State) (trk : Fin 4) (t : Nat) (e : SchedEntry) (rest : List SchedEntry), s.blk.alive = true →
    s.blk.sched trk = e :: rest → (∀ x ∈ e :: rest, x.fromIns = false) → e.pos ≤ s.blk.lck.h → t ≤ s.blk.now → s.blk.running = true →
    s.blk.lckHold = false → s.blk.masterRev = false → s.blk.ranNow < 4 → (∀ u, u < trk.val → s.blk.dueEntry u = none) →
    (s.blk.trk trk).abortWait = false → s.blk.fb RING_TRACE_CFG_SCHED = false →
    (e.kind = 3 → Completes (.pevLevel trk t) s fun b =>
      b.pev (bits e.arg0 2 0) = ⟨bitOf e.arg0 4, none, none⟩ ∧ b.sched trk = rest ∧
        b.f ⟨PAD_PEV_STATE, bits e.arg0 2 0, bits e.arg0 2 0⟩ = b2n (bitOf e.arg0 4) ∧
        s.blk.RegsBut b (fun a => a = PAD_PEV_STATE ∨ a = LCK_SCHED_STATUS trk) ∧ s.blk.Calm b) ∧
    (e.kind = 2 → Completes (.pevPulse trk t) s fun b =>
      (bitOf e.arg0 3 = true → b.pev (bits e.arg0 2 0) = ⟨false,
        some ((s.blk.pev (bits e.arg0 2 0)).endUs.elim (s.blk.now + 250 * max 1 e.arg1) (max · (s.blk.now + 250 * max 1 e.arg1))),
        (s.blk.pev (bits e.arg0 2 0)).endH⟩) ∧
        (bitOf e.arg0 3 = false → b.pev (bits e.arg0 2 0) = ⟨false, (s.blk.pev (bits e.arg0 2 0)).endUs,
          some ((s.blk.pev (bits e.arg0 2 0)).endH.elim (s.blk.lck.h + 256 * max 1 e.arg1) (max · (s.blk.lck.h + 256 * max 1 e.arg1)))⟩) ∧
        b.sched trk = rest ∧
        b.f ⟨PAD_PEV_STATE, bits e.arg0 2 0, bits e.arg0 2 0⟩ = 1 ∧
        s.blk.RegsBut b (fun a => a = PAD_PEV_STATE ∨ a = LCK_SCHED_STATUS trk) ∧ s.blk.Calm b) ∧
    (e.kind = 4 → bits e.arg0 2 0 < 6 → s.blk.axState (bits e.arg0 2 0) ≠ 4 → Completes (.axisRatio trk t) s fun b =>
      b.f (AXS_GEAR_SLOT (bits e.arg0 2 0)) = bits e.arg0 5 3 ∧ b.sched trk = rest ∧
        s.blk.RegsBut b (fun a => a = AXS_GEAR (bits e.arg0 2 0) ∨ a = LCK_SCHED_STATUS trk) ∧ s.blk.Calm b) ∧
    (e.kind = 4 → bits e.arg0 2 0 < 6 → s.blk.axState (bits e.arg0 2 0) = 4 → ∀ g : Gear, (s.blk.ax (bits e.arg0 2 0)).gear = some g →
      g.r1 = none → s.blk.rn (AXS_GEAR_RAMP (bits e.arg0 2 0)) = 0 → Completes (.axisRatio trk t) s fun b =>
        b.f (AXS_GEAR_SLOT (bits e.arg0 2 0)) = bits e.arg0 5 3 ∧ b.f (AXS_STATUS_SLOT_ACT (bits e.arg0 2 0)) = bits e.arg0 5 3 ∧
          (∃ h : Gear, (b.ax (bits e.arg0 2 0)).gear = some h ∧ h.r0 = s.blk.slotRatio (bits e.arg0 2 0) (bits e.arg0 5 3) ∧ h.r1 = none) ∧
          b.sched trk = rest) ∧
    (e.kind = 5 → Completes (.cameraMark trk t) s fun b =>
      b.fb (INS_CAM_STATUS_MARK_ARMED (bits e.arg0 1 0)) = true ∧ (b.cam (bits e.arg0 1 0)).mark = some e.pos ∧ b.sched trk = rest ∧
        s.blk.RegsBut b (fun a => a = INS_CAM_STATUS (bits e.arg0 1 0) ∨ a = LCK_SCHED_STATUS trk) ∧ s.blk.Calm b) ∧
    (e.kind = 6 → Completes (.eventMark trk t) s fun b =>
      s.blk.Raised b 0x130 trk trk (e.tag % 2 ^ 24) ∧ b.sched trk = rest ∧ s.blk.RegsBut b (· = LCK_SCHED_STATUS trk) ∧ s.blk.Calm b) ∧
    (e.kind = 7 → Completes (.scheduleCancel trk t) s fun b =>
      (b.sched trk = rest.filter fun x => x.tag != e.tag) ∧ s.blk.RegsBut b (· = LCK_SCHED_STATUS trk) ∧ s.blk.Calm b) ∧
    (e.kind = 1 → ∀ p : Page, (s.blk.trk trk).pages = [p] → p.bounded = false → q256 p.cRaw = e.pos → p.start ≤ s.blk.lineIndex trk + 3 →
      Completes (.pageStart trk t) s fun b => b.sched trk = rest ∧ (b.trk trk).pages = [{ p with bounded := true }])

/-- R79 whole, and R74, R77, R78, R82, R494 in part. A ring-11 entry that is taken and has a reserved kind, the kind PAGE_START, or a disabled track is discarded: no schedule changes,
and SCHEDULE_REJECT is raised. Another goes into its track's schedule, after those at the same position, or, where it lies at or behind H and the schedule runs, raises SCHEDULE_LATE and
is executed at once. A pulse on a PEV output ends: one timed in µs at its time, one in counts where H has passed its end; the output falls unless a level
or the other pulse holds it. -/
def Obligations.PulsesAndInsertion : Prop :=
  ∀ (s : State) (t : Nat), s.blk.alive = true →
    (∀ (n : Fin 8) (e : Nat), (s.blk.pev n).endUs = some e → e ≤ max s.blk.now t →
      Completes (.pevPulseEndUs n t) s fun b =>
        b.pev n = { s.blk.pev n with endUs := none } ∧ b.now = max s.blk.now t ∧
          b.f ⟨PAD_PEV_STATE, n, n⟩ = b2n ((s.blk.pev n).level || (s.blk.pev n).endH.isSome) ∧
          s.blk.RegsBut b (· = PAD_PEV_STATE) ∧ s.blk.Calm b) ∧
    (∀ (n : Fin 8) (e : Int), (s.blk.pev n).endH = some e → e ≤ s.blk.lck.h → t ≤ s.blk.now →
      Completes (.pevPulseEndCounts n t) s fun b =>
        b.pev n = { s.blk.pev n with endH := none } ∧
          b.f ⟨PAD_PEV_STATE, n, n⟩ = b2n ((s.blk.pev n).level || (s.blk.pev n).endUs.isSome) ∧
          s.blk.RegsBut b (· = PAD_PEV_STATE) ∧ s.blk.Calm b) ∧
    ∀ u : Fin 4, s.blk.running = true → s.blk.mayTake 11 = true → bits ((s.blk.nextEntry 11).getD 0 0) 23 22 = u →
      (2 ≤ (schedEntry (s.blk.nextEntry 11)).kind → (schedEntry (s.blk.nextEntry 11)).kind ≤ 7 →
        s.blk.trkEn u = true → ((s.blk.sched u).filter fun x => x.fromRing).length < 960 → (s.blk.sched u).length < 1024 →
        (s.blk.lck.h < (schedEntry (s.blk.nextEntry 11)).pos →
          Completes .scheduleInsert s fun b =>
            b.sched u = insertSorted (schedEntry (s.blk.nextEntry 11)) (s.blk.sched u) ∧
              (s.blk.mirrored 11 = none → b.rn (RING_CONS 11) = (s.blk.rn (RING_CONS 11) + 1) % 2 ^ 24)) ∧
        ((schedEntry (s.blk.nextEntry 11)).pos ≤ s.blk.lck.h → s.blk.lckHold = false → s.blk.masterRev = false →
          (schedEntry (s.blk.nextEntry 11)).kind = 6 →
          Completes .scheduleInsert s fun b =>
            (∃ k, s.blk.Raised b 0x132 u u k) ∧ s.blk.Raised b 0x130 u u ((schedEntry (s.blk.nextEntry 11)).tag % 2 ^ 24) ∧
              b.fb (LCK_SCHED_STATUS_LATE u) = true ∧ b.sched u = s.blk.sched u ∧
              (s.blk.mirrored 11 = none → b.rn (RING_CONS 11) = (s.blk.rn (RING_CONS 11) + 1) % 2 ^ 24))) ∧
      ((schedEntry (s.blk.nextEntry 11)).kind < 2 ∨ 7 < (schedEntry (s.blk.nextEntry 11)).kind ∨ s.blk.trkEn u = false →
        Completes .scheduleInsert s fun b =>
          (∀ k, k < 4 → b.sched k = s.blk.sched k) ∧
            s.blk.Raised b 0x133 u (u * 2 ^ 22 + (schedEntry (s.blk.nextEntry 11)).kind) (schedEntry (s.blk.nextEntry 11)).tag ∧
            (s.blk.mirrored 11 = none → b.rn (RING_CONS 11) = (s.blk.rn (RING_CONS 11) + 1) % 2 ^ 24))

/-! ### Tracks and pages -/

/-- From R87 to R90. ARM of a track that may be armed makes it ARMED from its line index on, without pages; STOP and ABORT of an armed track with no page end it,
STOP of a printing one marks its current page, which has lines to come, as the last, ABORT of a printing one waits, and goes ahead at the line boundary.
Where it rests on the model's readings and choices, entry 27 of the assumption log says which. -/
def Obligations.TrackCommands : Prop :=
  ∀ (s : State) (t : Fin 4), s.blk.alive = true → s.blk.shuttle = false →
    (s.blk.mayArm t = true → Completes (.trackArm t) s fun b =>
      b.trkState t = 1 ∧ (b.trk t).armAt = s.blk.lineIndex t ∧ (b.trk t).pages = []) ∧
    (s.blk.mayArm t = true → s.blk.scan = none → s.blk.fb BST_STATUS_BUSY = false →
      Completes (.trackArm t) s fun b =>
        b.trkState t = 1 ∧ (b.trk t).armAt = s.blk.lineIndex t ∧ (b.trk t).pages = [] ∧ (∀ u, u ≠ t.val → b.trk u = s.blk.trk u) ∧
          s.blk.RegsBut b (· = PGE_TRK_STATUS t) ∧ s.blk.Calm b) ∧
    (s.blk.trkState t = 1 → (s.blk.trk t).pages = [] → (s.blk.trk t).old = [] → (s.blk.trk t).first = none →
      (∃ u, u < 4 ∧ u ≠ t.val ∧ s.blk.trkState u ≠ 0) →
      Completes (.trackStop t) s (fun b => b.trkState t = 0 ∧ s.blk.Calm b) ∧
        Completes (.trackAbort t) s (fun b => b.trkState t = 0 ∧ s.blk.Calm b)) ∧
    (s.blk.trkState t = 2 →
      (∀ p, s.blk.currentPage t = some p → s.blk.lineIndex t < p.endLine → Completes (.trackStop t) s fun b =>
        b.fb (PGE_TRK_STATUS_STOP_PENDING t) = true ∧ (b.trk t).ended = true ∧
          (b.trk t).pages = (s.blk.trk t).pages.map (fun r => if r = p then { p with last := true } else r) ∧
          s.blk.RegsBut b (· = PGE_TRK_STATUS t) ∧ s.blk.Calm b) ∧
      Completes (.trackAbort t) s fun b =>
        (b.trk t).abortWait = true ∧ b.trkState t = 2 ∧ s.blk.RegsBut b (· = PGE_TRK_STATUS t) ∧ s.blk.Calm b) ∧
    ((s.blk.trk t).abortWait = true → (s.blk.trk t).pages = [] → (s.blk.trk t).old = [] → (∃ u, u < 4 ∧ u ≠ t.val ∧ s.blk.trkState u ≠ 0) →
      Completes (.abortTakesEffect t) s fun b => b.trkState t = 0 ∧ (b.trk t).abortWait = false ∧ s.blk.Calm b)


/-- From R76, R94 to R96, R105, R114. A due descriptor leaves its ring; with LENGTH 0 it raises PAGE_REJECT, and the first page of a track that starts at once begins
LEAD + 2 lines on. A due PAGE_DONE is raised with its page's TAG. The release of a page that has ended is written whole to ring 4, whose PROD
advances; with ring 4 full PGE_REL_STALLS counts it once.
Where it rests on the model's readings and choices, entries 30, 33, 127, 132 of the assumption log say which. -/
def Obligations.PagesAndReleases : Prop :=
  ∀ (s : State) (t : Fin 4), s.blk.alive = true → s.blk.shuttle = false →
    (s.blk.descDue t = true → s.blk.tpFor t = none → s.blk.mirrored t = none → s.blk.mayTake t = true → s.blk.twnState = 0 →
      (s.blk.trk t).follow = none →
      ((s.blk.ringFront t).getD 1 0 % 2 ^ 24 = 0 → Completes (.descriptorConsume t) s fun b =>
        b.rn (RING_CONS t) = (s.blk.rn (RING_CONS t) + 1) % 2 ^ 24 ∧ s.blk.Raised b 0x20C t t ((s.blk.ringFront t).getD 7 0 % 2 ^ 24) ∧
          b.trk t = s.blk.trk t ∧ s.blk.Calm b) ∧
      ((s.blk.ringFront t).getD 1 0 % 2 ^ 24 ≠ 0 → s.blk.f (PGE_TRK_CFG_START_MODE t) = 0 → Completes (.descriptorConsume t) s fun b =>
        b.rn (RING_CONS t) = (s.blk.rn (RING_CONS t) + 1) % 2 ^ 24 ∧
          ∃ p : Page, (b.trk t).pages = (s.blk.trk t).pages ++ [p] ∧ p.start = s.blk.lineIndex t + s.blk.leadLines t + 2 ∧
            p.len = (s.blk.ringFront t).getD 1 0 % 2 ^ 24 ∧ p.tag = (s.blk.ringFront t).getD 7 0 % 2 ^ 24)) ∧
    (∀ (clk : Nat) (p : Page) (a : Int), (s.blk.trk t).all = [p] → p.doneRaised = false → p.lastAt = some a →
      a + 1000 * (s.blk.f LCK_FIRE_DELAY_NS : Int) ≤ 4000 * (max s.blk.now clk : Nat) →
      Completes (.pageDone t clk) s fun b =>
        s.blk.Raised b 0x203 t t (p.tag % 2 ^ 24) ∧ s.blk.RegsBut b (· = PGE_TRK_STATUS t) ∧ s.blk.Calm b) ∧
    ∀ p : Page, (s.blk.trk t).all.find? Page.open = some p → ((s.blk.trk t).old.contains p = true ∨ p.aborted = true) →
      (s.blk.ringFull 4 = false → s.blk.ringAddr 4 (s.blk.rn (RING_PROD 4)) + 32 ≤ s.blk.capacity →
        Completes (.pageRelease t) s fun b =>
          b.rn (RING_PROD 4) = (s.blk.rn (RING_PROD 4) + 1) % 2 ^ 24 ∧
            b.memReads (s.blk.ringAddr 4 (s.blk.rn (RING_PROD 4))) 32 = entryBytes (p.release t) ∧
            ∀ a, (a < s.blk.ringAddr 4 (s.blk.rn (RING_PROD 4)) ∨ s.blk.ringAddr 4 (s.blk.rn (RING_PROD 4)) + 32 ≤ a) →
              b.memRead a = s.blk.memRead a) ∧
      (s.blk.ringFull 4 = true → p.stalled = false → Completes (.pageRelease t) s fun b =>
        b.rn PGE_REL_STALLS = min (s.blk.rn PGE_REL_STALLS + 1) u24max ∧
          s.blk.RegsBut b (fun a => a = PGE_REL_STALLS ∨ a = PGE_TRK_STATUS t) ∧ s.blk.Calm b)

/-- From R103, R126, R127. The next fetch burst of an armed or printing track whose lines are all counted on: with GEN and VALID as the page took them the 64 bytes at the burst's
address join the layer, where the gather is not past the line; otherwise the layer stops, VIOLATION is set and LEASE_VIOLATION raised. A cell's next line is
gathered whole, once the store of four lines has room, where no decoder waits for bytes; where no layer reaches the cell nothing else changes.
Where it rests on the model's readings and choices, entries 34, 35, 128, 134 of the assumption log say which. -/
def Obligations.FetchAndGather : Prop :=
  ∀ s : State, s.blk.alive = true →
    (∀ (t : Fin 4) (e : MemErr) (p : Page) (l : Layer) (i c b cell : Nat), s.blk.trkState t = 1 ∨ s.blk.trkState t = 2 → s.blk.settleTrack t = s.blk →
      (s.blk.trk t).pages.findSome? (fun p => if p.aborted || p.bounded && s.blk.shuttle then none else (s.blk.nextFetch p).map fun i => (p, i)) =
        some (p, i) → s.blk.fetchDue t p i = true →
      p.layers.findSome? (fun l => match s.blk.want l (s.blk.pageLine p i) with
        | .burst b j => some (l, b, j)
        | _ => none) = some (l, b, cell) → l.coded (s.blk.pageLine p i) = some c → s.blk.gatherFrom t p l ≤ c * (1 + b2n l.yrep) →
      (bits (s.blk.rn (bdAddr l.bd 0)) 23 12 = l.gen ∧ bitOf (s.blk.rn (bdAddr l.bd 0)) 11 = true →
        Completes (.fetchBurst t e) s fun r =>
          (∃ q ∈ (r.trk t).pages, ∃ k ∈ q.layers, k.slot = l.slot ∧ k.chunks.head? = some (c, b, s.blk.imgRead (l.base + 64 * b) 64)) ∧
            ∀ a, r.memRead a = s.blk.memRead a) ∧
      (¬ (bits (s.blk.rn (bdAddr l.bd 0)) 23 12 = l.gen ∧ bitOf (s.blk.rn (bdAddr l.bd 0)) 11 = true) →
        Completes (.fetchBurst t e) s fun r =>
          (∃ q ∈ (r.trk t).pages, q.violation = true ∧ ∃ k ∈ q.layers, k.slot = l.slot ∧ k.stopped = true) ∧
            r.fb (PGE_TRK_STATUS_VIOLATION t) = true ∧ s.blk.Raised r 0x205 t ((t * 2 ^ 22 + l.slot) % 2 ^ 24) (l.bd % 2 ^ 24) ∧ s.blk.Calm r)) ∧
    ∀ j : Fin 8, s.blk.running = true → s.blk.gathered j + 1 ≤ s.blk.composedTo + 4 →
      ((∀ q ∈ s.blk.parts (s.blk.gathered j + 1) j, q.2.wait = false) → Completes (.gatherLine j) s fun b =>
        b.gathered j = s.blk.gathered j + 1 ∧
          (s.blk.composedTo < s.blk.gathered j + 1 → ∃ g ∈ b.cmp.store, g.cell = j.val ∧ g.line = s.blk.gathered j + 1 ∧ g.upto = cellSize)) ∧
      (s.blk.parts (s.blk.gathered j + 1) j = [] → s.blk.composedTo < s.blk.gathered j + 1 → Completes (.gatherLine j) s fun b =>
        b.gathered j = s.blk.gathered j + 1 ∧
          (∃ g ∈ b.cmp.store, g.cell = j.val ∧ g.line = s.blk.gathered j + 1 ∧ g.upto = cellSize) ∧ s.blk.RegsBut b (fun _ => False) ∧ s.blk.Calm b)

/-- From R239, R247, R248. A carriage that passes the arm position in the direction of the next pass while the feed is complete arms it: the pass compare is loaded,
STATE is PASS and PASS_START is raised; with the feed incomplete the sweep is idle. A feed whose path and axis have reached their ends is complete.
Where it rests on the model's readings and choices, entries 36, 68 of the assumption log say which. -/
def Obligations.ShuttlePasses : Prop :=
  ∀ (s : State) (t : Nat), s.blk.alive = true → s.blk.shuttle = true →
    (s.blk.running = true → s.blk.lckHold = false → s.blk.sht.below = true → t ≤ s.blk.now →
      (s.blk.masterRev == s.blk.passDirRev) = true → s.blk.armM ≤ s.blk.passM → s.blk.shtState = 2 →
      (s.blk.fb SHT_STATUS_FEED_DONE = true → Completes (.passArm t) s fun b =>
        b.shtState = 3 ∧ b.val LCK_COMPARE 3 = wrapTo 72 s.blk.passC0 ∧
          s.blk.Raised b 0x601 0 ((b2n s.blk.passDirRev * 2 ^ 23 + s.blk.shtPass % 65536) % 2 ^ 24) (s.blk.rn SHT_ROW_OFS) ∧ s.blk.Calm b) ∧
      (s.blk.fb SHT_STATUS_FEED_DONE = false → Completes (.passArm t) s fun b =>
        b.shtState = 2 ∧ b.fb SHT_STATUS_FEED_LATE = true ∧ b.rn SHT_IDLE_SWEEPS = min (s.blk.rn SHT_IDLE_SWEEPS + 1) u24max ∧
          (∃ d, s.blk.Raised b 0x603 0 (s.blk.shtPass % 65536) d) ∧
          s.blk.RegsBut b (fun a => a = SHT_STATUS ∨ a = SHT_IDLE_SWEEPS) ∧ s.blk.Calm b)) ∧
    (s.blk.sht.feeding = true → atLeast1 (s.blk.rn SHT_FEED_SPAN) * 256 ≤ s.blk.sht.path →
      s.blk.axPos s.blk.feedAxis = s.blk.sht.feedFrom + s.blk.sht.feedSteps → s.blk.axState s.blk.feedAxis ≠ 5 →
      Completes .feedComplete s fun b =>
        b.fb SHT_STATUS_FEED_DONE = true ∧ b.sht.feeding = false ∧ s.blk.RegsBut b (· = SHT_STATUS) ∧ s.blk.Calm b)

/-! ### Image memory -/

/-- From R381, R383, R384, R391, R392, R395. A refresh that falls due on a latency-critical channel within the postponement is owed; a throttle that is over ends; the
row trackers are cleared when their window is over; a corrected patrol error counts in DRM_ECC_CE; CLEAR_COUNTS zeroes the counts of errors and stalls.
Where it rests on the model's readings and choices, entries 160, 161, 162 of the assumption log say which. -/
def Obligations.ImageMemoryUpkeep : Prop :=
  ∀ (s : State) (t : Nat), s.blk.alive = true →
    (∀ c : Fin 8, s.blk.rn PGE_LAT_TOL < s.blk.f DRM_REF_CFG_CRIT_US → s.blk.fb DRM_STATUS_CRITICAL = true → s.blk.dram.sr = false →
      s.blk.owed c < min 8 (s.blk.f DRM_REF_CFG_POSTPONE_MAX) →
      Completes (.refreshDue c) s fun b =>
        b.owed c = s.blk.owed c + 1 ∧ (∀ d, d ≠ c.val → b.owed d = s.blk.owed d) ∧ s.blk.RegsBut b (· = DRM_REF_OWED) ∧ s.blk.Calm b) ∧
    (∀ p : Fin 14, Completes (.throttleEnd p t) s fun b =>
      (∀ e, e ∈ b.dram.throt ↔ e ∈ s.blk.dram.throt ∧ (e.1 ≠ p.val ∨ max s.blk.now t < e.2.2)) ∧
        s.blk.RegsBut b (· = DRM_RD_STATUS) ∧ s.blk.Calm b) ∧
    (s.blk.dram.windowAt + 250000 * atLeast1 (s.blk.f DRM_RD_CFG_WINDOW) ≤ max s.blk.now t → Completes (.trackerWindowClear t) s fun b =>
      b.dram = { s.blk.dram with rows := [], windowAt := max s.blk.now t } ∧ b.now = max s.blk.now t ∧ s.blk.RegsBut b (fun _ => False) ∧ s.blk.Calm b) ∧
    (∀ burst : Nat, s.blk.fb DRM_CFG_PATROL = true → 64 * burst < s.blk.capacity → s.blk.fb DRM_CFG_ECC = true →
      (s.blk.f DRM_RD_CFG_THRESH = 0 ∨
        (trackRow (alook [] s.blk.dram.rows (bankKey (s.blk.place (64 * burst)))) (s.blk.place (64 * burst)).2.2.2).2 < s.blk.f DRM_RD_CFG_THRESH) →
      Completes (.patrolScrub burst .corrected) s fun b =>
        b.rn DRM_ECC_CE = min (s.blk.rn DRM_ECC_CE + 1) u24max ∧
          s.blk.RegsBut b (fun a => a = DRM_ECC_CE ∨ a = DRM_PWR_STATUS) ∧ s.blk.Calm b) ∧
    Completes .drmClearCounts s fun b =>
      b.rn DRM_ECC_CE = 0 ∧ b.rn DRM_ECC_UE = 0 ∧ b.dram = { s.blk.dram with stalls := [] } ∧
        s.blk.RegsBut b (fun a => a = DRM_ECC_CE ∨ a = DRM_ECC_UE) ∧ s.blk.Calm b

/-- From R385. A channel idle for IDLE_PD enters POWER_DOWN; with all idle for IDLE_SR and the tolerance wide enough all enter SELF_REFRESH, the owed refreshes
done; all leave it when the tolerance no longer covers the exit.
Where it rests on the model's readings and choices, entry 163 of the assumption log says which. -/
def Obligations.ImageMemoryPower : Prop :=
  ∀ (s : State) (t : Nat), s.blk.alive = true → t ≤ s.blk.now →
    (∀ c : Fin 8, s.blk.fb DRM_PWR_CFG_PD_EN = true → s.blk.dram.sr = false → 1 ≤ s.blk.rn PGE_LAT_TOL →
      atLeast1 (s.blk.f DRM_PWR_CFG_IDLE_PD) * s.blk.memClk ≤ (s.blk.now - s.blk.lastReq c) * 4000 →
      Completes (.powerDownEntry c t) s fun b => b.f ⟨DRM_PWR_STATUS, c, c⟩ = 1 ∧ s.blk.OnlyRegs b (· = DRM_PWR_STATUS)) ∧
    (s.blk.fb DRM_PWR_CFG_SR_EN = true → s.blk.dram.sr = false → s.blk.srAllowed = true →
      (∀ c, c < 8 → atLeast1 (s.blk.f DRM_PWR_CFG_IDLE_SR) * 250 ≤ s.blk.now - s.blk.lastReq c) →
      Completes (.selfRefreshEntry t) s fun b =>
        b.f DRM_PWR_STATUS_LOW = 255 ∧ b.dram.sr = true ∧ b.dram.owed = [] ∧
          b.dram.srAt = s.blk.now + ((List.range 8).map s.blk.owed).foldl max 0 * s.blk.rfcPs / 4000 ∧ b.f DRM_REF_OWED_COUNT = 0 ∧
          s.blk.RegsBut b (fun a => a = DRM_PWR_STATUS ∨ a = DRM_REF_OWED) ∧ s.blk.Calm b) ∧
    (s.blk.dram.sr = true → s.blk.srAllowed = false →
      Completes (.selfRefreshExit t) s fun b =>
        b.f DRM_PWR_STATUS_LOW = 0 ∧ b.dram = { s.blk.dram with sr := false } ∧ s.blk.RegsBut b (· = DRM_PWR_STATUS) ∧ s.blk.Calm b)

/-- From R388, R389. FC_GO makes a change to a VALID set pending, merging it with one that was, and refuses another set with FC_REJ. The pending change to a trained
set with every track IDLE puts it into force and raises FREQ_CHANGED. A failed tracking run clears TRAINED and raises DRAM_TRAIN_FAIL.
Where it rests on the model's readings and choices, entries 94, 163 of the assumption log say which. -/
def Obligations.FrequencyChanges : Prop :=
  ∀ s : State, s.blk.alive = true →
    (∀ w : Word, bitOf w.toNat 2 = true → bitOf w.toNat 3 = false →
      (bitOf (s.blk.rn (DRM_TSET0 (w.toNat % 4))) 23 = true → Completes (.fcGo w) s fun b =>
        b.fb DRM_STATUS_FC_PENDING = true ∧ b.dram.fc = some (w.toNat % 4) ∧
          b.fb DRM_STATUS_MERGED = (s.blk.dram.fc.isSome || s.blk.fb DRM_STATUS_MERGED) ∧
          s.blk.RegsBut b (· = DRM_STATUS) ∧ s.blk.Calm b) ∧
      (bitOf (s.blk.rn (DRM_TSET0 (w.toNat % 4))) 23 = false → Completes (.fcGo w) s fun b =>
        b.fb DRM_STATUS_FC_REJ = true ∧ s.blk.OnlyRegs b (· = DRM_STATUS))) ∧
    (∀ (k : Fin 4) (f : Option (Fin 8 × Fin 4)), s.blk.dram.fc = some k.val → bitOf (s.blk.rn (DRM_TSET0 k)) 19 = true → s.blk.allIdle = true →
      Completes (.frequencyChange f) s fun b =>
        b.f DRM_STATUS_SET = k ∧ b.fb DRM_STATUS_FC_PENDING = false ∧ b.dram.fc = none ∧ b.tset 0 = b.rn (DRM_TSET0 k) ∧ s.blk.Raised b 0xB06 0 k (s.blk.setRate k) ∧
          s.blk.RegsBut b (fun a => a = DRM_STATUS ∨ a = DRM_TSET0 k ∨ a = DRM_LAT_BUDGET ∨ a = DRM_REF_OWED) ∧ s.blk.Calm b) ∧
    ∀ (t : Nat) (c : Fin 8), s.blk.dram.trackAt + 250000 * atLeast1 (s.blk.f DRM_CFG_TRACK_MS) ≤ max s.blk.now t →
      Completes (.wckTracking t (some c)) s fun b =>
      bitOf (b.rn (DRM_TSET0 (s.blk.f DRM_STATUS_SET))) 19 = false ∧ s.blk.Raised b 0xB01 c (c * 2 ^ 8 + s.blk.f DRM_STATUS_SET) 4 ∧
        s.blk.RegsBut b (· = DRM_TSET0 (s.blk.f DRM_STATUS_SET)) ∧ s.blk.Calm b


/-! ### Head link -/

/-- From R164, R165, R173, R177, R184. The frames a port sends on its timers: IDENT in IDENTIFY after 1 ms, ECHO_REQ with the next TAG in MEASURE after 100 µs and
in READY after ECHO_INT, IDLE once no frame has started for CLAIM_WIN / 4.
Where it rests on the model's readings and choices, entries 44, 45, 58, 59 of the assumption log say which. -/
def Obligations.HeadTimers : Prop :=
  ∀ (s : State) (h : Fin 32) (t : Nat), s.blk.alive = true →
    (s.blk.portState h = 2 → (s.blk.port h).askAt + 250000 ≤ t → (s.blk.port h).idents < 8 → (s.blk.advance t).otherMay h = true →
      Completes (.identSend h t) s fun b =>
        s.blk.SentDown b h 3 (toBE (bits (s.blk.rn WAL_ID) 11 0) 2 ++ [1, BitVec.ofNat 8 (s.blk.laneRate h), 0, 0, 0, 0]) ∧
          (b.port h).idents = (s.blk.port h).idents + 1 ∧ (b.port h).askAt = max s.blk.now t ∧
          s.blk.RegsBut b (fun _ => False) ∧ s.blk.Calm b) ∧
    ((s.blk.advance t).otherMay h = true → (∀ m, s.blk.mbx = some m → m.out = none) →
      (s.blk.portState h = 3 ∧ (s.blk.port h).askAt + 25000 ≤ t ∨
        s.blk.portState h = 4 ∧ (s.blk.port h).askAt + 250000 * max 1 (s.blk.f HLK_CFG_ECHO_INT) ≤ t) →
      Completes (.echoReqSend h t) s fun b =>
        s.blk.SentDown b h 4 [BitVec.ofNat 8 (((s.blk.port h).tag + 1) % 256), 0, 0, 0] ∧
          (b.port h).tag = ((s.blk.port h).tag + 1) % 256 ∧ s.blk.RegsBut b (fun _ => False) ∧ s.blk.Calm b) ∧
    ((s.blk.advance t).otherMay h = true → (∀ m, s.blk.mbx = some m → m.out = none) → s.blk.portState h ≠ 0 →
      (s.blk.port h).frameAt * 16 + (s.blk.advance t).claimWin * 10 ≤ max s.blk.now t * 16 →
      Completes (.idleFrameSend h t) s fun b =>
        s.blk.SentDown b h 2 [] ∧ (b.port h).frameAt = max s.blk.now t ∧ s.blk.RegsBut b (fun _ => False) ∧ s.blk.Calm b)

/-- From R163, R171, R173, R177. Frames from a head end that pass R163: a CAPS that fits is copied and answered with the first ECHO_REQ in MEASURE, one that does not
sends the port to FAILED; the sixteenth sample makes the port READY at their mean; in READY a sample within 2,000 ps moves L by a
sixteenth, another counts as an error. A frame that fails counts and has no other effect. -/
def Obligations.HeadAnswers : Prop :=
  ∀ (s : State) (h : Fin 32) (bs : List Byte), s.blk.alive = true →
    (upOk bs = true → upType bs = 0x42 → s.blk.portState h = 2 →
      (((upPayload bs).getD 6 0).toNat = s.blk.rows h → beNat (slice (upPayload bs) 8 2) = s.blk.npr h → (upPayload bs).getD 4 0 = 1 →
          s.blk.otherMay h = true →
        Completes (.capsReceived h bs) s fun b =>
          b.portState h = 3 ∧ (∀ i, i < 8 → b.rn (HLK_CAPS h i) = beNat (slice (upPayload bs) (3 * i) 3)) ∧
            s.blk.SentDown b h 4 [BitVec.ofNat 8 (((s.blk.port h).tag + 1) % 256), 0, 0, 0] ∧
            s.blk.RegsBut b (fun a => a = HLK_PORT_STATUS h ∨ ∃ i, i < 8 ∧ a = HLK_CAPS h i) ∧ s.blk.Calm b) ∧
      (((upPayload bs).getD 6 0).toNat ≠ s.blk.rows h → (upPayload bs).getD 4 0 = 1 →
        Completes (.capsReceived h bs) s fun b =>
          b.portState h = 5 ∧ b.fb (HLK_PORT_STATUS_CAPS_MIS h) = true ∧ s.blk.Raised b 0x407 h h 1 ∧
            s.blk.RegsBut b (· = HLK_PORT_STATUS h) ∧ s.blk.Calm b)) ∧
    (∀ rtt : Nat, upOk bs = true → upType bs = 0x43 → ((upPayload bs).headD 0).toNat = (s.blk.port h).tag →
      (s.blk.portState h = 3 → (s.blk.port h).samples.length = 15 →
        Completes (.echoRspReceived h bs rtt) s fun b =>
          b.portState h = 4 ∧ b.rn (HLK_PORT_LATENCY h) =
            satU24 ((((rtt : Int) - beNat (slice (upPayload bs) 4 4)).tdiv 2 :: (s.blk.port h).samples).sum.tdiv 16).toNat ∧ s.blk.Calm b) ∧
      (s.blk.portState h = 4 →
        ((((rtt : Int) - beNat (slice (upPayload bs) 4 4)).tdiv 2 - s.blk.rn (HLK_PORT_LATENCY h)).natAbs ≤ 2000 →
          Completes (.echoRspReceived h bs rtt) s fun b =>
            b.rn (HLK_PORT_LATENCY h) = satU24 ((s.blk.rn (HLK_PORT_LATENCY h) : Int) +
                (((rtt : Int) - beNat (slice (upPayload bs) 4 4)).tdiv 2 - s.blk.rn (HLK_PORT_LATENCY h)).tdiv 16).toNat ∧
              s.blk.RegsBut b (fun a => a = HLK_PORT_LATENCY h ∨ a = HLK_PORT_STATUS h) ∧ s.blk.Calm b) ∧
        (2000 < (((rtt : Int) - beNat (slice (upPayload bs) 4 4)).tdiv 2 - s.blk.rn (HLK_PORT_LATENCY h)).natAbs →
          Completes (.echoRspReceived h bs rtt) s fun b =>
            b.rn (HLK_ERR_COUNT h) = min (s.blk.rn (HLK_ERR_COUNT h) + 1) u24max ∧
              s.blk.RegsBut b (fun a => a = HLK_ERR_COUNT h ∨ a = HLK_PORT_STATUS h) ∧ s.blk.Calm b))) ∧
    Completes (.headFrameDiscard h) s fun b =>
      b.rn (HLK_ERR_COUNT h) = min (s.blk.rn (HLK_ERR_COUNT h) + 1) u24max ∧ s.blk.OnlyRegs b (· = HLK_ERR_COUNT h)

/-- From R172, R173, R176, R196, R197. GO outside BUSY sets BUSY and sends the access to a port that is READY, at once or, where a frame goes before
it, with a later frame command of the port; to another port it ends with RESULT 3. A HE_RESULT ends it with its
result and, for a read, its words; 1 ms without one ends it with RESULT 2. RETRAIN takes a port to LANE; CLEAR_COUNTS zeroes its counts.
Where it rests on the model's readings and choices, entry 58 of the assumption log says which. -/
def Obligations.MailboxAndPortCommands : Prop :=
  ∀ s : State, s.blk.alive = true →
    (∀ (w : Word) (t : Nat), bitOf w.toNat 19 = true → s.blk.fb HLK_MBX_CTRL_BUSY = false →
      (s.blk.portState (bits w.toNat 4 0) = 4 → (s.blk.advance t).otherMay (bits w.toNat 4 0) = true → Completes (.heMailboxGo w t) s fun b =>
        b.fb HLK_MBX_CTRL_BUSY = true ∧ b.mbx = some ⟨bits w.toNat 4 0, bits w.toNat 17 12 + 1, bitOf w.toNat 18, max s.blk.now t, none⟩ ∧
          s.blk.SentDown b (bits w.toNat 4 0) (if bitOf w.toNat 18 then 6 else 5)
            (toBE (s.blk.rn HLK_MBX_ADDR) 3 ++ toBE (bits w.toNat 17 12) 1 ++
              if bitOf w.toNat 18 then [] else (List.range (bits w.toNat 17 12 + 1)).flatMap fun i => toBE (s.blk.rn (HLK_MBX_DATA i)) 3) ∧
          s.blk.RegsBut b (· = HLK_MBX_CTRL) ∧ s.blk.Calm b) ∧
      (s.blk.portState (bits w.toNat 4 0) = 4 → (s.blk.advance t).otherMay (bits w.toNat 4 0) = false → Completes (.heMailboxGo w t) s fun b =>
        b.fb HLK_MBX_CTRL_BUSY = true ∧ (∃ m, b.mbx = some m ∧ m.out.isSome = true) ∧ b.out = s.blk.out ∧
          s.blk.RegsBut b (· = HLK_MBX_CTRL) ∧ s.blk.Calm b) ∧
      (s.blk.portState (bits w.toNat 4 0) ≠ 4 → Completes (.heMailboxGo w t) s fun b =>
        b.fb HLK_MBX_CTRL_BUSY = false ∧ b.f HLK_MBX_CTRL_RESULT = 3 ∧ b.mbx = none ∧
          s.blk.Raised b 0x40C (bits w.toNat 4 0) (bits w.toNat 4 0) 3 ∧ s.blk.RegsBut b (· = HLK_MBX_CTRL) ∧ s.blk.Calm b)) ∧
    (∀ (m : Mbx) (h : Fin 32), s.blk.mbx = some m →
      (∀ bs : List Byte, m.port = h → m.count ≤ 64 → upOk bs = true → upType bs = 0x44 → Completes (.heResultReceived h bs) s fun b =>
        b.fb HLK_MBX_CTRL_BUSY = false ∧ b.mbx = none ∧
          b.f HLK_MBX_CTRL_RESULT = b2n ((upPayload bs).getD 4 0 != 0) ∧ s.blk.Raised b 0x40C h h (b2n ((upPayload bs).getD 4 0 != 0)) ∧
          (∀ i, i < m.count → m.read = true → (upPayload bs).getD 4 0 = 0 →
            b.rn (HLK_MBX_DATA i) = beNat (slice (upPayload bs) (8 + 3 * i) 3)) ∧
          s.blk.RegsBut b (fun a => a = HLK_MBX_CTRL ∨ a = HLK_PORT_STATUS h ∨ ∃ i, i < 64 ∧ a = HLK_MBX_DATA i) ∧ s.blk.Calm b) ∧
      (∀ (t typ : Nat) (c : List Byte), m.out = some (typ, c) → m.port = h → s.blk.portState h = 4 → (s.blk.advance t).otherMay h = true →
        Completes (.idleFrameSend h t) s fun b =>
          b.mbx = some { m with out := none } ∧ s.blk.SentDown b h typ c ∧ s.blk.RegsBut b (fun _ => False) ∧ s.blk.Calm b) ∧
      ∀ t : Nat, m.port < 32 → m.start + 250000 ≤ t → Completes (.heMailboxTimeout t) s fun b =>
        b.fb HLK_MBX_CTRL_BUSY = false ∧ b.mbx = none ∧ b.f HLK_MBX_CTRL_RESULT = 2 ∧ s.blk.Raised b 0x40C m.port m.port 2 ∧
          s.blk.RegsBut b (· = HLK_MBX_CTRL) ∧ s.blk.Calm b) ∧
    ∀ h : Fin 32,
      (s.blk.portState h ≠ 0 → Completes (.headRetrain h) s fun b =>
        b.portState h = 1 ∧ b.fb (HLK_PORT_STATUS_CAPS_MIS h) = false ∧ b.fb (HLK_PORT_STATUS_RATE_LOW h) = false ∧
          (s.blk.portState h = 4 → b.fb (HLK_PORT_STATUS_DOWN h) = true ∧ s.blk.Raised b 0x402 h h (s.blk.laneRate h)) ∧ s.blk.Calm b) ∧
      Completes (.headClearCounts h) s fun b =>
        b.rn (HLK_LATE_COUNT h) = 0 ∧ b.rn (HLK_ERR_COUNT h) = 0 ∧ s.blk.OnlyRegs b fun a => a = HLK_LATE_COUNT h ∨ a = HLK_ERR_COUNT h

/-- From R165, R167, R168, R175, R178. The LINE frame of a port's next line, where no row is delayed by whole lines and the port neither holds nor blanks, carries the row offsets
and the composed codes packed at the line's rung; FIRE of a triggered line departs at its symbol boundary with LTAG, FINE and BLANK 0 where
the port has sent its codes.
Where it rests on the model's readings and choices, entries 41, 42, 60, 158 of the assumption log say which. -/
def Obligations.LinesAndFire : Prop :=
  ∀ (s : State) (h : Fin 32) (t : Nat), s.blk.alive = true → t ≤ s.blk.now → s.blk.inService h = true →
    (∀ m, s.blk.mbx = some m → m.out = none) →
    (∀ (l : PortLine) (u : BitVec 8) (e : MemErr) (d : Int), s.blk.portFree h = true → s.blk.wokenIdle h = true →
      s.blk.portLine h ((s.blk.port h).lastLine + 1) = some l → s.blk.skippedLine l.fire = false →
      (l.fire ≤ 3 ∨ s.blk.departed h (l.fire - 3) = true) → s.blk.held? h l.fire = false → s.blk.fb (HLK_PORT_CFG_BLANK_EN h) = false →
      l.wholes = [] → s.blk.depart h l.fire = some d → s.blk.nowPs + (s.blk.framePs h (20 + s.blk.lineLen h l.rung) : Nat) ≤ d →
      Completes (.lineFrameSend h t u e) s fun b =>
        s.blk.SentDown b h 1 ((List.range (s.blk.rows h)).flatMap (fun r => toBE (s.blk.rowOffsetNs (l.frac.getD r 0)) 3) ++
            wordBytes (packWords (packing l.rung).1 (packing l.rung).2 (s.blk.slots h) ((List.range (s.blk.slots h)).map fun i => l.codes.getD i 0))) ∧
          (b.port h).lastLine = l.fire ∧ s.blk.RegsBut b (fun _ => False) ∧ s.blk.Calm b) ∧
    ∀ (x : Trig) (d : Int) (f : Nat), s.blk.fb TWN_HEALTH_CLOCK = false → s.blk.trig ((s.blk.port h).lastFire + 1) = some x → x.skipped = false →
      s.blk.departAt h (x.tps + 1000 * (s.blk.f LCK_FIRE_DELAY_NS : Int)) = (d, f) → d ≤ s.blk.nowPs →
      (4000 * (x.clk : Int) + symPs (s.blk.laneRate h) - 1) / symPs (s.blk.laneRate h) * symPs (s.blk.laneRate h) ≤ d →
      (s.blk.port h).frame = none → s.blk.held? h ((s.blk.port h).lastFire + 1) = false →
      (s.blk.port h).lines.find? (fun l => l.1 == (s.blk.port h).lastFire + 1) = some ((s.blk.port h).lastFire + 1, false) →
      Completes (.fireSend h t) s fun b =>
        b.out = .fire h (((s.blk.port h).lastFire + 1) % 256) f (fflags (((s.blk.port h).lastFire + 1) % 256) f false) d :: s.blk.out ∧
          (b.port h).lastFire = (s.blk.port h).lastFire + 1 ∧ s.blk.RegsBut b (fun _ => False) ∧ s.blk.Calm b

/-- From R191, R193, R194. Outside a pairing a STATUS in READY at or above LIMIT puts the head into thermal hold with cause TEMP, a STATUS that stays away for STATUS_TO with cause
STATUS; a write of HLK_THERM_WARN with WARN_RUNG 0 ends a warning, and another moves the rung floor to the largest WARN_RUNG in warning.
Where it rests on the model's readings and choices, entry 47 of the assumption log says which. -/
def Obligations.ThermalSupervision : Prop :=
  ∀ (s : State) (h : Fin 32) (t : Nat), s.blk.alive = true → s.blk.twnState = 0 →
    (∀ bs : List Byte, upOk bs = true → upType bs = 0x41 → s.blk.portState h = 4 → (s.blk.port h).ownHold = false →
      s.blk.fb (HLK_PORT_STATUS_THERM_HOLD h) = false →
      s.blk.sf (HLK_THERM_LIMIT_LIMIT h) ≤ satS 12 (sext 16 (beNat (slice (upPayload bs) 0 2))) →
      Completes (.statusReceived h t bs) s fun b =>
        b.rn (HLK_TEMP h) = 2 ^ 23 + wrapTo 12 (satS 12 (sext 16 (beNat (slice (upPayload bs) 0 2)))) ∧
          b.fb (HLK_PORT_STATUS_THERM_HOLD h) = true ∧ b.f (HLK_PORT_STATUS_HOLD_CAUSE h) = 0 ∧ bitOf (b.val HLK_HOLD_MAP 2) h = true ∧
          s.blk.Raised b 0x401 h h (wrapTo 12 (satS 12 (sext 16 (beNat (slice (upPayload bs) 0 2))))) ∧
          s.blk.RegsBut b (fun a => a = HLK_TEMP h ∨ a = HLK_HE_COUNTS h ∨ a = HLK_HE_HEALTH h ∨ a = HLK_PORT_STATUS h ∨ a = HLK_HOLD_MAP ∨
            a = HLK_HOLD_MAP + 1 ∨ a = LCK_STATUS) ∧ s.blk.Calm b) ∧
    (s.blk.portState h = 4 → (s.blk.port h).silent = false → s.blk.underTest 10 = false → s.blk.fb (LAN_STATUS_RX_SLEEP h) = false →
      (s.blk.port h).lastStatus + 2500 * max 1 (s.blk.f HLK_CFG_STATUS_TO) ≤ t → (s.blk.port h).ownHold = false →
      s.blk.fb (HLK_PORT_STATUS_THERM_HOLD h) = false →
      Completes (.statusTimeout h t) s fun b =>
        b.fb (HLK_PORT_STATUS_STATUS_LOST h) = true ∧ b.fb (HLK_PORT_STATUS_THERM_HOLD h) = true ∧ b.f (HLK_PORT_STATUS_HOLD_CAUSE h) = 2 ∧
          s.blk.Raised b 0x408 h h ((s.blk.port h).seq.getD 0 % 2 ^ 24) ∧
          s.blk.RegsBut b (fun a => a = HLK_PORT_STATUS h ∨ a = HLK_HOLD_MAP ∨ a = HLK_HOLD_MAP + 1) ∧ s.blk.Calm b) ∧
    ∀ w : Word,
      (bits w.toNat 9 8 = 0 → (s.blk.port h).ownWarn = true → s.blk.fb (HLK_PORT_STATUS_THERM_WARN h) = true →
        Completes (.thermWarnWrite h w) s fun b =>
          b.fb (HLK_PORT_STATUS_THERM_WARN h) = false ∧ s.blk.Raised b 0x405 h h (2 ^ 12 + s.blk.headTemp h) ∧
            s.blk.RegsBut b (fun a => a = HLK_THERM_WARN h ∨ a = HLK_PORT_STATUS h ∨ a = LCK_STATUS) ∧ s.blk.Calm b) ∧
      (bits w.toNat 9 8 ≠ 0 → Completes (.thermWarnWrite h w) s fun b =>
        b.f (HLK_THERM_WARN_WARN_RUNG h) = bits w.toNat 9 8 ∧
          (∀ k, k < 32 → b.fb (HLK_PORT_STATUS_THERM_WARN k) = true → min 2 (b.f (HLK_THERM_WARN_WARN_RUNG k)) ≤ b.f LCK_STATUS_FLOOR) ∧
          s.blk.RegsBut b (fun a => a = HLK_THERM_WARN h ∨ a = LCK_STATUS) ∧ s.blk.Calm b)


/-! ### Inspection and test pages -/

/-- From R198, R200, R202, R203. Cameras, while no page is under check and no test page runs: the first heartbeat in ACQUIRE brings the camera UP, and one of the controller's own is sent as it arrives (the model's choice, entry 137); a lost lane or a silence
of HB_TO takes it back to ACQUIRE; a reached compare sends a pulse on the camera's channel, records the fire number and moves on by DIV pitches; a line that comes in time
with the right width joins the queue, one of the wrong width is lost; other packets and GPIO levels are noted.
Where it rests on the model's readings and choices, entries 52, 62, 137 of the assumption log say which. -/
def Obligations.CamerasAndLines : Prop :=
  ∀ (s : State) (c : Fin 4) (t : Nat), s.blk.alive = true → s.blk.ins.regs = [] → s.blk.ins.tp = none →
    (s.blk.camState c = 1 → Completes (.cameraHeartbeat c t) s fun b =>
      b.out = .camBeat c (max s.blk.now t) :: s.blk.out ∧ b.camState c = 2 ∧ (b.cam c).lastHeard = max s.blk.now t ∧ (b.cam c).cmp = none ∧ (b.cam c).queue = [] ∧
        s.blk.Raised b 0x504 c c (s.blk.f (INS_CAM_CFG_FORMAT c)) ∧ s.blk.RegsBut b (· = INS_CAM_STATUS c) ∧ s.blk.Calm b) ∧
    (∀ lane : Bool, s.blk.camState c = 2 → (s.blk.cam c).outst = none →
      (lane = true ∨ (s.blk.cam c).lastHeard + 25000 * max 1 (s.blk.f (INS_CAM_TIMING_HB_TO c)) ≤ max s.blk.now t) →
      Completes (.cameraLost c t lane) s fun b =>
        b.camState c = 1 ∧ (b.cam c).cmp = none ∧ (b.cam c).queue = [] ∧ s.blk.Raised b 0x503 c c (b2n lane) ∧
          s.blk.RegsBut b (· = INS_CAM_STATUS c) ∧ s.blk.Calm b) ∧
    (∀ q : Int, (s.blk.cam c).cmp = some q → s.blk.camState c = 2 → s.blk.shuttle = false → s.blk.running = true → s.blk.lckHold = false →
      t ≤ s.blk.now →
      s.blk.lineDelta ≠ none → q256 q ≤ s.blk.lineP + leadOf (s.blk.f (INS_CAM_LEAD_NS c)) s.blk.lineDelta → (s.blk.cam c).outst = none →
      Completes (.cameraTrigger c t) s fun b =>
        b.out = .cam c (s.blk.f (INS_CAM_CFG_PULSE_CH c)) (s.blk.cam c).nextFire s.blk.now :: s.blk.out ∧
          b.cam c = { s.blk.cam c with outst := some ((s.blk.cam c).nextFire, s.blk.now, q256 q), cmp := some (q + s.blk.camDiv c * s.blk.pitch),
                                       nextFire := (s.blk.cam c).nextFire + s.blk.camDiv c } ∧
          s.blk.RegsBut b (fun _ => False) ∧ s.blk.Calm b) ∧
    (∀ (f t0 : Nat) (p : Int) (bs : List Byte), (s.blk.cam c).outst = some (f, t0, p) → s.blk.camState c = 2 → s.blk.underTest 11 = false →
      t0 + 25 * s.blk.f (INS_CAM_TIMING_MIN_LAT c) ≤ max s.blk.now t →
      (bs.length = (if s.blk.f (INS_CAM_CFG_FORMAT c) = 0 then 1 else 3) * s.blk.camWidth c → (s.blk.cam c).queue.length < 2 →
        Completes (.cameraLine c t bs) s fun b =>
          (b.cam c).queue = (s.blk.cam c).queue ++ [(f, p, s.blk.pixels c bs)] ∧ (b.cam c).outst = none ∧
            (b.cam c).lastHeard = max s.blk.now t ∧ s.blk.RegsBut b (fun _ => False) ∧ s.blk.Calm b) ∧
      (bs.length ≠ (if s.blk.f (INS_CAM_CFG_FORMAT c) = 0 then 1 else 3) * s.blk.camWidth c →
        Completes (.cameraLine c t bs) s fun b =>
          b.fb (INS_CAM_STATUS_WIDTH_ERR c) = true ∧ b.rn (INS_CAM_LOST c) = min (s.blk.rn (INS_CAM_LOST c) + 1) u24max ∧
            (b.cam c).queue = (s.blk.cam c).queue ∧ (b.cam c).outst = none ∧
            s.blk.RegsBut b (fun a => a = INS_CAM_STATUS c ∨ a = INS_CAM_LOST c) ∧ s.blk.Calm b)) ∧
    (Completes (.cameraPacketDiscard c t) s fun b =>
      b.rn (INS_CAM_DISCARDS c) = min (s.blk.rn (INS_CAM_DISCARDS c) + 1) u24max ∧ b.cam c = { s.blk.cam c with lastHeard := max s.blk.now t } ∧
        s.blk.RegsBut b (· = INS_CAM_DISCARDS c) ∧ s.blk.Calm b) ∧
    ∀ lv : Byte, Completes (.cameraGpioMessage c t lv) s fun b =>
      b.f (INS_CAM_GPIO_RX c) = lv.toNat ∧ b.cam c = { s.blk.cam c with lastHeard := max s.blk.now t } ∧
        s.blk.RegsBut b (· = (INS_CAM_GPIO_RX c).addr) ∧ s.blk.Calm b

/-- From R204, R208, R212, R220. A matched line whose record has been overwritten counts in INS_EXP_MISS; one that asked a single slot to fire, with its record kept and the line
not a mass miss, adds INC to the slot's score where the difference reaches MISS_T and takes DEC from it where not. A score is written whole. A test
page is requested where a camera is UP, or refused with its cause in the three cases of R220; CANCEL removes a waiting request and leaves a page at work.
Where it rests on the model's readings and choices, entries 37, 52, 54, 57, 135, 136 of the assumption log say which. -/
def Obligations.ScoresAndTestPages : Prop :=
  ∀ s : State, s.blk.alive = true →
    (∀ (c : Fin 4) (f : Nat) (pos : Int) (px : List Nat) (rest : List (Nat × Int × List Nat)), s.blk.ins.regs = [] → s.blk.ins.tp = none →
      s.blk.ins.due = [] → (s.blk.cam c).queue = (f, pos, px) :: rest → (s.blk.cam c).mark = none →
      ((s.blk.expRec c f).fire ≠ f →
        Completes (.cameraLineScore c .none) s fun b =>
          (b.cam c).queue = rest ∧ b.rn INS_EXP_MISS = min (s.blk.rn INS_EXP_MISS + 1) u24max ∧ b.ins = s.blk.ins ∧
            ∀ a, b.memRead a = s.blk.memRead a) ∧
      ∀ (q : Nat) (x : Int) (code : Nat) (p : Pix), (s.blk.expRec c f).fire = f →
        s.blk.inkSlots c (s.blk.expRec c f) = [(q, x, code)] → bitOf (s.blk.expRec c f).blank (q / 4096) = false →
        s.blk.massMiss (s.blk.correlate c [(q, x, code)] px) = false →
        (s.blk.correlate c [(q, x, code)] px).find? (fun p => p.x == x) = some p → s.blk.f INS_MISS_CFG_MIN_EXP ≤ p.e →
        ((s.blk.f INS_MISS_CFG_MISS_T : Int) ≤ p.dd → min 255 (s.blk.score q % 256 + s.blk.f INS_SCORE_CFG_INC) < s.blk.declareAt →
          Completes (.cameraLineScore c .none) s fun b =>
            (b.cam c).queue = rest ∧ b.score q % 256 = min 255 (s.blk.score q % 256 + s.blk.f INS_SCORE_CFG_INC) ∧
              ∀ k, k ≠ q → b.score k = s.blk.score k) ∧
        (p.dd < (s.blk.f INS_MISS_CFG_MISS_T : Int) →
          Completes (.cameraLineScore c .none) s fun b =>
            (b.cam c).queue = rest ∧ b.score q % 256 = s.blk.score q % 256 - s.blk.f INS_SCORE_CFG_DEC ∧
              ∀ k, k ≠ q → b.score k = s.blk.score k)) ∧
    (∀ (i : Fin 4096) (w : Word), Completes (.scoreWrite i w) s fun b =>
      b.score (s.blk.rn INS_SCORE_PORT % 32 * 4096 + i) % 256 = w.toNat % 256 ∧
        (∀ k, k ≠ s.blk.rn INS_SCORE_PORT % 32 * 4096 + i → b.score k = s.blk.score k) ∧
        s.blk.RegsBut b (fun _ => False) ∧ s.blk.Calm b) ∧
    (s.blk.ins.tp = none → s.blk.shuttle = false → (∃ c, c < 4 ∧ s.blk.camState c = 2) →
      (tpPattern (s.blk.rn ALN_TP_CFG) = 2 → 1 < s.blk.maxRows) →
      Completes .testPageGo s fun b =>
        b.ins = { s.blk.ins with tp := some ⟨s.blk.rn ALN_TP_CFG, s.blk.rn ALN_TP_TAG, none, 0, [], [], []⟩ } ∧
          b.fb ALN_TP_STATUS_PENDING = true ∧ s.blk.RegsBut b (· = ALN_TP_STATUS) ∧ s.blk.Calm b) ∧
    (∀ cause : Nat, s.blk.ins.tp = none →
      (cause = 1 ∧ s.blk.shuttle = true ∨
        cause = 2 ∧ s.blk.shuttle = false ∧ (∀ c, c < 4 → s.blk.camState c ≠ 2) ∨
        cause = 3 ∧ s.blk.shuttle = false ∧ (∃ c, c < 4 ∧ s.blk.camState c = 2) ∧ tpPattern (s.blk.rn ALN_TP_CFG) = 2 ∧ s.blk.maxRows ≤ 1) →
      Completes .testPageGo s fun b =>
        b.f ALN_TP_STATUS_REJ_CAUSE = cause ∧ s.blk.Raised b 0x50A (bits (s.blk.rn ALN_TP_CFG) 23 22) (bits (s.blk.rn ALN_TP_CFG) 23 22) cause ∧
          b.ins = s.blk.ins ∧ s.blk.RegsBut b (· = ALN_TP_STATUS) ∧ s.blk.Calm b) ∧
    (∀ r : TpRun, s.blk.ins.tp = some r → r.started ≠ none → Completes .testPageCancel s fun b => b = s.blk) ∧
    ∀ r : TpRun, s.blk.ins.tp = some r → r.started = none → Completes .testPageCancel s fun b =>
      b.ins = { s.blk.ins with tp := none } ∧ b.fb ALN_TP_STATUS_PENDING = false ∧ s.blk.RegsBut b (· = ALN_TP_STATUS) ∧ s.blk.Calm b

/-! ### Axes -/

/-- From R256, R262, R268, R274, R277. The commands of an axis, each from a state that has a row for it.
Where it rests on the model's readings and choices, entries 65, 138 of the assumption log say which. -/
def Obligations.AxisCommands : Prop :=
  ∀ (s : State) (n : Fin 6), s.blk.alive = true →
    ((∀ x ∈ s.blk.held, x.addr ≠ AXS_STATUS n) →
      (s.blk.axState n = 0 → Completes (.axisEnable n) s (fun b => b.axState n = 1 ∧ (b.ax n).stalls = 0 ∧ s.blk.Calm b)) ∧
      (s.blk.axState n ≠ 0 → Completes (.axisDisable n) s fun b =>
        b.axState n = 0 ∧ b.fb (AXS_STATUS_STALLED n) = false ∧ (b.ax n).v = 0 ∧ (b.ax n).goal = none ∧ (b.ax n).gear = none ∧ s.blk.Calm b)) ∧
    (s.blk.axState n = 1 → s.blk.axGear n = false →
      s.blk.outsideSoft n (s.blk.sval (AXS_TARGET n) 2 48) = false → s.blk.towardLimit n (s.blk.axPos n) (s.blk.sval (AXS_TARGET n) 2 48) = false →
      Completes (.axisGo n) s fun b =>
        b.axState n = 2 ∧ b.sval (AXS_ACT_TARGET n) 2 48 = s.blk.sval (AXS_TARGET n) 2 48 ∧
          b.ax n = { s.blk.ax n with goal := some (s.blk.sval (AXS_TARGET n) 2 48), final := none, limDec := false } ∧
          s.blk.RegsBut b (fun a => a = AXS_STATUS n ∨ a = AXS_ACT_TARGET n ∨ a = AXS_ACT_TARGET n + 1) ∧ s.blk.Calm b) ∧
    (s.blk.axState n = 1 → s.blk.axGear n = true → s.blk.limitAhead n true = false → s.blk.limitAhead n false = false →
      Completes (.axisGo n) s fun b =>
        b.axState n = 4 ∧ b.f (AXS_STATUS_SLOT_ACT n) = s.blk.f (AXS_GEAR_SLOT n) ∧
          (b.ax n).gear = some ⟨s.blk.axPos n, 1, s.blk.srcPos n, s.blk.slotRatio n (s.blk.f (AXS_GEAR_SLOT n)), none, 0, none, false⟩ ∧
          s.blk.RegsBut b (· = AXS_STATUS n) ∧ s.blk.Calm b) ∧
    (s.blk.axState n = 2 ∨ s.blk.axState n = 4 → ∀ lim : Bool,
      Completes (if lim then .axisEstop n else .axisStop n) s fun b =>
        b.axState n = 2 ∧ (b.ax n).gear = none ∧ (b.ax n).limDec = lim ∧ (b.ax n).v = (s.blk.ax n).v ∧
          (∃ p, (b.ax n).goal = some p ∧ b.sval (AXS_ACT_TARGET n) 2 48 = sext 48 (wrapTo 48 p)) ∧
          s.blk.RegsBut b (fun a => a = AXS_STATUS n ∨ a = AXS_ACT_TARGET n ∨ a = AXS_ACT_TARGET n + 1) ∧ s.blk.Calm b) ∧
    (s.blk.axState n = 1 → s.blk.axGear n = false → Completes (.axisHome n) s fun b =>
      b.axState n = 3 ∧ b.fb (AXS_STATUS_HOMED n) = false ∧
        (b.ax n).phase = (if s.blk.swActive n (s.blk.homeSrc n) then 1 else 2) ∧ (b.ax n).hFrom = s.blk.axPos n ∧
        s.blk.RegsBut b (· = AXS_STATUS n) ∧ s.blk.Calm b) ∧
    (s.blk.axState n = 1 → Completes (.axisPreset n) s fun b =>
      b.axPos n = s.blk.sval (AXS_TARGET n) 2 48 ∧ b.fb (AXS_STATUS_HOMED n) = false ∧
        s.blk.RegsBut b (fun a => a = AXS_STATUS n ∨ a = AXS_POS n ∨ a = AXS_POS n + 1) ∧ s.blk.Calm b) ∧
    (s.blk.axState n = 5 → Completes (.axisClear n) s fun b =>
      b.axState n = 1 ∧ b.fb (AXS_STATUS_STALLED n) = false ∧ s.blk.RegsBut b (· = AXS_STATUS n) ∧ s.blk.Calm b) ∧
    Completes (.axisOfsReset n) s fun b =>
      (b.ax n).coils = (s.blk.ax n).coils.map (fun c => { c with acc := 0, ofs := 0 }) ∧ b.rn (AXS_CHOP_OFS n) = 0 ∧
        s.blk.RegsBut b (· = AXS_CHOP_OFS n) ∧ s.blk.Calm b

/-- From R256. A command that has no row for the present state of the axis is refused with cause 3 and changes nothing else. -/
def Obligations.AxisRefusals : Prop :=
  ∀ (s : State) (n : Fin 6) (c : Instr), s.blk.alive = true →
    (c = .axisEnable n ∧ s.blk.axState n ≠ 0 ∨ c = .axisDisable n ∧ s.blk.axState n = 0 ∨
      c = .axisGo n ∧ s.blk.axState n ≠ 1 ∧ s.blk.axState n ≠ 2 ∨
      (c = .axisStop n ∨ c = .axisEstop n) ∧ s.blk.axState n ≠ 2 ∧ s.blk.axState n ≠ 3 ∧ s.blk.axState n ≠ 4 ∨
      c = .axisHome n ∧ (s.blk.axState n ≠ 1 ∨ s.blk.axGear n = true) ∨ c = .axisPreset n ∧ s.blk.axState n ≠ 1 ∨
      c = .axisClear n ∧ s.blk.axState n ≠ 5) →
    Completes c s fun b =>
      b.fb (AXS_STATUS_REJ n) = true ∧ b.f (AXS_STATUS_REJ_CAUSE n) = 3 ∧ s.blk.Raised b 0x704 n n 3 ∧ b.axes = s.blk.axes ∧
        s.blk.RegsBut b (· = AXS_STATUS n) ∧ s.blk.Calm b

/-- From R256, R258, R270 to R278. A tick at rest on the target completes the move, and a geared axis stands at its command, within VMAX,
while the profile at its limits keeps within a microstep of it (the profile and that tolerance are the model's choice, entry 139); a debounced switch shows its level; homing ends after its capture with the offset of HOME_POS, or fails without one; a deviation
beyond the window is a stall; the ratio slot is written, and changes and ramps as R278 says.
Where it rests on the model's readings and choices, entries 63, 64, 66, 138, 139, 157 of the assumption log say which. -/
def Obligations.AxisMotion : Prop :=
  ∀ (s : State) (n : Fin 6) (t : Nat), s.blk.alive = true →
    (∀ g : Int, s.blk.axState n = 2 → (s.blk.ax n).goal = some g → s.blk.axPos n = g → (s.blk.ax n).v = 0 → (s.blk.ax n).rem = 0 →
      (s.blk.ax n).final = none → (s.blk.ax n).tick < max s.blk.now t / 250 →
      Completes (.profileTick n t) s fun b =>
        b.axState n = 1 ∧ b.fb (AXS_STATUS_DONE n) = true ∧ b.axPos n = g ∧ b.now = max s.blk.now t ∧
          s.blk.RegsBut b (fun a => a = AXS_STATUS n ∨ a = AXS_POS n ∨ a = AXS_POS n + 1 ∨ a = AXS_VEL n) ∧ s.blk.Calm b) ∧
    (∀ g : Gear, s.blk.axState n = 4 → (s.blk.ax n).gear = some g → t ≤ s.blk.now →
      -(2 ^ 47 : Int) ≤ s.blk.gearCmd n g → s.blk.gearCmd n g < (2 ^ 47 : Int) →
      (s.blk.ax n).tick < s.blk.now / 250 → (g.r1 = none ∨ s.blk.srcPos n - g.pSw < (g.ramp * 256 : Nat)) →
      s.blk.limitAhead n true = false → s.blk.limitAhead n false = false →
      ((s.blk.gearFrac n g).1 * ustep / (s.blk.gearFrac n g).2 - (s.blk.axAt n + (chase (s.blk.axLim n) (s.blk.axAt n) (s.blk.ax n).v (s.blk.ax n).a
        ((s.blk.gearFrac n g).1 * ustep / (s.blk.gearFrac n g).2) (s.blk.gearVel n g)).1)).natAbs ≤ ustep →
      Completes (.profileTick n t) s fun b =>
        b.axState n = 4 ∧ b.axPos n = s.blk.gearCmd n g ∧ ((s.blk.ax n).v.natAbs ≤ (s.blk.axLim n).v → (b.ax n).v.natAbs ≤ (s.blk.axLim n).v) ∧
          b.sval (AXS_LAG n) 1 24 = 0 ∧
          s.blk.RegsBut b (fun a => a = AXS_STATUS n ∨ a = AXS_POS n ∨ a = AXS_POS n + 1 ∨ a = AXS_VEL n ∨ a = AXS_LAG n) ∧ s.blk.Calm b) ∧
    (∀ (level : Bool) (k : Nat), s.blk.axState n = 0 → (level == s.blk.fb (AXS_SW_CFG_POL_HOME n)) = !s.blk.fb (AXS_STATUS_HOME_ACT n) →
      max 1 (s.blk.f (AXS_SW_CFG_SW_N n)) ≤ ((s.blk.ax n).sw.getD 0 ⟨false, 0⟩).run + k →
      Completes (.switchChange n 0 level k) s fun b =>
        b.fb (AXS_STATUS_HOME_ACT n) = (level == s.blk.fb (AXS_SW_CFG_POL_HOME n)) ∧ s.blk.RegsBut b (· = AXS_STATUS n) ∧ s.blk.Calm b) ∧
    (s.blk.axState n = 3 → (s.blk.ax n).phase = 4 → Completes (.homeDone n) s fun b =>
      b.axState n = 1 ∧ b.fb (AXS_STATUS_HOMED n) = true ∧
        b.axPos n = sext 48 (wrapTo 48 (s.blk.axPos n + (s.blk.sval (AXS_HOME_POS n) 2 48 - s.blk.sval (AXS_HOME_CAP n) 2 48))) ∧
        s.blk.Raised b 0x708 n n (wrapTo 24 (s.blk.sval (AXS_HOME_CAP n) 2 48)) ∧
        s.blk.RegsBut b (fun a => a = AXS_STATUS n ∨ a = AXS_POS n ∨ a = AXS_POS n + 1 ∨ a = AXS_ACT_TARGET n ∨ a = AXS_ACT_TARGET n + 1) ∧
        s.blk.Calm b) ∧
    (s.blk.axState n = 3 → (s.blk.ax n).phase = 2 → s.blk.rn (AXS_HOME_MAX n) ≠ 0 →
      s.blk.rn (AXS_HOME_MAX n) * 256 ≤ (s.blk.axPos n - (s.blk.ax n).hFrom).natAbs →
      Completes (.homingNotFound n) s fun b =>
        b.axState n = 2 ∧ b.f (AXS_STATUS_HOME_CAUSE n) = 2 ∧ s.blk.Raised b 0x702 n n 2 ∧
          s.blk.RegsBut b (fun a => a = AXS_STATUS n ∨ a = AXS_ACT_TARGET n ∨ a = AXS_ACT_TARGET n + 1) ∧ s.blk.Calm b) ∧
    (s.blk.stallOn n = true → s.blk.f (AXS_STALL_CFG_CONSEC n) = 1 → s.blk.shuttle = false → s.blk.allIdle = false → t ≤ s.blk.now →
      (s.blk.ax n).lastCheck + 2500 * max 1 (s.blk.f (AXS_STALL_CFG_CHECK_INT n)) ≤ t →
      s.blk.f (AXS_STALL_CFG_WINDOW n) < (s.blk.stallDev n).natAbs →
      Completes (.stallCheck n t) s fun b =>
        b.axState n = 5 ∧ b.fb (AXS_STATUS_STALLED n) = true ∧ (b.ax n).v = 0 ∧ (b.ax n).gear = none ∧
          s.blk.Raised b 0x701 n n (wrapTo 24 (s.blk.stallDev n)) ∧
          s.blk.RegsBut b (fun a => a = AXS_STATUS n ∨ a = AXS_STALL_DEV n ∨ a = AXS_VEL n) ∧ s.blk.Calm b) ∧
    (∀ w : Word, s.blk.axState n ≠ 4 → Completes (.gearSlotWrite n w) s fun b =>
      b.reg (AXS_GEAR n) = w &&& 0xf70000 ∧ s.blk.OnlyRegs b (· = AXS_GEAR n)) ∧
    ∀ (g : Gear) (r1 : Ratio), s.blk.axState n = 4 → (s.blk.ax n).gear = some g → g.r1 = some r1 → g.defer = none →
      g.ramp * 256 ≤ s.blk.srcPos n - g.pSw →
      Completes (.gearRampEnd n) s fun b =>
        (∃ h, (b.ax n).gear = some h ∧ h.r0 = r1 ∧ h.r1 = none ∧ h.pSw = g.pSw + (g.ramp * 256 : Nat) ∧
          (h.aN, h.aD) = g.cmdAt (g.ramp * 256 : Nat)) ∧ b.regs = s.blk.regs ∧ s.blk.Calm b

/-- From R266 to R268. The chopper of a coil in bridge mode: BLANK ends in DRIVE; DRIVE ends at T_HI in DECAY, fast or slow as DECAY says; the fast part of mixed decay ends
after FAST_T; DECAY ends after T_OFF at or below T_LO in a new cycle, and ZERO at a low current for a target that is not 0. An ADC sample,
taken once in a cycle and not more than 400 ns after half the last DRIVE, shows in its register and, with OFS_EN, trains the offset loop. -/
def Obligations.Choppers : Prop :=
  ∀ (s : State) (n : Fin 6) (c : Fin 2) (t : Nat), s.blk.alive = true → s.blk.chopOn n = true →
    ((s.blk.coil n c).st = 0 → (s.blk.coil n c).start + 10 * max 1 (s.blk.f (AXS_CHOP_CFG_T_BLANK n)) ≤ t →
      Completes (.chopBlankEnd n c t) s fun b =>
        b.ax n = { s.blk.ax n with coils := (s.blk.ax n).coils.set c { s.blk.coil n c with st := 1 } } ∧
          s.blk.RegsBut b (fun _ => False) ∧ s.blk.Calm b) ∧
    (∀ i : BitVec 10, (s.blk.coil n c).st = 1 → (s.blk.coil n c).tHi ≤ i.toNat → Completes (.chopPeak n c t i) s fun b =>
      b.ax n = { s.blk.ax n with coils := (s.blk.ax n).coils.set c { s.blk.coil n c with
          st := 2, decayAt := t, prevDrive := t - (s.blk.coil n c).start,
          fast := s.blk.f (AXS_CHOP_CFG_DECAY n) == 1 || s.blk.f (AXS_CHOP_CFG_DECAY n) == 2 } } ∧
        s.blk.RegsBut b (fun _ => False) ∧ s.blk.Calm b) ∧
    ((s.blk.coil n c).st = 2 → s.blk.f (AXS_CHOP_CFG_DECAY n) = 2 → (s.blk.coil n c).fast = true →
      (s.blk.coil n c).decayAt + 10 * s.blk.f (AXS_CHOP_CFG_FAST_T n) ≤ t →
      Completes (.chopFastDecayEnd n c t) s fun b =>
        b.ax n = { s.blk.ax n with coils := (s.blk.ax n).coils.set c { s.blk.coil n c with fast := false } } ∧
          s.blk.RegsBut b (fun _ => False) ∧ s.blk.Calm b) ∧
    (∀ i : BitVec 10, s.blk.held = [] → s.blk.trm.held = [] →
      ((s.blk.coil n c).st = 2 → (s.blk.coil n c).decayAt + 10 * s.blk.f (AXS_CHOP_CFG_T_OFF n) ≤ t → i.toNat ≤ (s.blk.coil n c).tLo →
        Completes (.chopDecayEnd n c t i) s fun b =>
          (∃ x : Coil, b.ax n = { s.blk.ax n with coils := (s.blk.ax n).coils.set c x } ∧ x.st = 0 ∧ x.fast = false ∧ x.start = t ∧
            x.t = s.blk.coilTarget n c ∧ x.ofs = (s.blk.coil n c).ofs) ∧ s.blk.RegsBut b (fun _ => False) ∧ s.blk.Calm b) ∧
      ((s.blk.coil n c).st = 3 → s.blk.coilTarget n c ≠ 0 → i.toNat ≤ max (s.blk.coil n c).tLo (s.blk.f (AXS_CURRENT_HYST n) / 2) →
        Completes (.chopZeroExit n c t i) s fun b =>
          (∃ x : Coil, b.ax n = { s.blk.ax n with coils := (s.blk.ax n).coils.set c x } ∧ x.st = 0 ∧ x.fast = false ∧ x.start = t ∧
            x.t = s.blk.coilTarget n c ∧ x.ofs = (s.blk.coil n c).ofs) ∧ s.blk.RegsBut b (fun _ => False) ∧ s.blk.Calm b)) ∧
    ∀ v : BitVec 10, (s.blk.coil n c).st ≠ 3 → (s.blk.coil n c).due ≤ max s.blk.now t → max s.blk.now t ≤ (s.blk.coil n c).due + 100 →
      (∀ a, (s.blk.coil n c).adcAt = some a → a < (s.blk.coil n c).start) → (s.blk.advance t).adcFree (2 * n + c) = true →
      (s.blk.fb (AXS_CHOP_CFG_OFS_EN n) = false →
        Completes (.adcSample n c t v) s fun b =>
          b.f (if c = 0 then AXS_ADC_C1 n else AXS_ADC_C2 n) = v.toNat ∧
            b.ax n = { s.blk.ax n with coils := (s.blk.ax n).coils.set c { s.blk.coil n c with adcAt := some (max s.blk.now t) } } ∧
            s.blk.RegsBut b (· = (AXS_ADC_C1 n).addr) ∧ s.blk.Calm b) ∧
      (∀ a : Int, s.blk.fb (AXS_CHOP_CFG_OFS_EN n) = true → s.blk.f (AXS_CURRENT_OFS_MIN n) * 16 ≤ (s.blk.coil n c).t.natAbs →
        (s.blk.ax n).coils.length = 2 →
        a = max (-(63 * 2 ^ s.blk.f (AXS_CHOP_CFG_OFS_K n))) (min (63 * 2 ^ s.blk.f (AXS_CHOP_CFG_OFS_K n))
          ((s.blk.coil n c).acc + ((v.toNat : Int) - (s.blk.coil n c).t.natAbs))) →
        Completes (.adcSample n c t v) s fun b =>
          b.f (if c = 0 then AXS_ADC_C1 n else AXS_ADC_C2 n) = v.toNat ∧ (b.coil n c).acc = a ∧
            (b.coil n c).ofs = a / 2 ^ s.blk.f (AXS_CHOP_CFG_OFS_K n) ∧
            s.blk.RegsBut b (fun x => x = (AXS_ADC_C1 n).addr ∨ x = AXS_CHOP_OFS n) ∧ s.blk.Calm b)


/-! ### Pairing -/

/-- From R185, R283, R286 to R289, R301. Roles of a unit whose upsett is over: CLAIM_N is accepted once it has held for 16 samples; a fit standby that sees CLAIM_N released takes over with the next epoch, and so does a fit
unit in ARBITRATE after 2 T_hb and a fit unit forced from RESYNC, where CLAIM_LINE_FAULT is clear; a fault bit that sets in ACTIVE makes the unit fail and release the claim;
RELEASE hands it to a synced standby and is otherwise refused; CLEAR clears FORCED.
Where it rests on the model's readings and choices, entries 72, 165 of the assumption log say which. -/
def Obligations.TwinRoles : Prop :=
  ∀ (s : State) (t : Nat), s.blk.alive = true → s.blk.allIdle = false → s.blk.sys.boot = none →
    (∀ (l : Bool) (k : Nat), s.blk.twnState = 0 → s.blk.fb TWN_STATUS_CLAIM_IN = !l → 0 < k →
      (s.blk.twn.claimRun + k < 16 → Completes (.claimNChange t k l) s fun b =>
        b.twn.claimRun = s.blk.twn.claimRun + k ∧ s.blk.RegsBut b (fun _ => False) ∧ s.blk.Calm b) ∧
      (16 ≤ s.blk.twn.claimRun + k → Completes (.claimNChange t k l) s fun b =>
        b.fb TWN_STATUS_CLAIM_IN = l ∧ b.twnState = 0 ∧ b.twn.claimRun = 0 ∧ s.blk.RegsBut b (· = TWN_STATUS) ∧ s.blk.Calm b)) ∧
    (∀ k : Nat, s.blk.twnState = 3 → s.blk.fit = true → s.blk.fb TWN_HEALTH_CLAIM_LINE_FAULT = false → s.blk.fb TWN_HEALTH_CLAIM_HELD = false →
      s.blk.fb TWN_STATUS_CLAIM_IN = false → 16 ≤ s.blk.twn.claimRun + k → 0 < k →
      Completes (.claimNChange t k true) s fun b =>
        b.twnState = 2 ∧ b.fb TWN_HEALTH_CLAIM_HELD = true ∧ b.fb TWN_STATUS_DRIVING = true ∧ b.rn TWN_EPOCH = s.blk.nextEpoch ∧
          b.rn TWN_TAKEOVERS = min (s.blk.rn TWN_TAKEOVERS + 1) u24max ∧ s.blk.Raised b 0x801 0 s.blk.nextEpoch (s.blk.fireNum % 2 ^ 24) ∧
          s.blk.Calm b) ∧
    (s.blk.twnState = 1 → s.blk.fit = true → s.blk.fb TWN_HEALTH_CLAIM_LINE_FAULT = false → s.blk.fb TWN_HEALTH_CLAIM_HELD = false →
      s.blk.fb TWN_STATUS_CLAIM_IN = true → s.blk.twn.arbAt + 2 * s.blk.tHb ≤ max s.blk.now t →
      Completes (.arbitrateTimeout t) s fun b =>
        b.twnState = 2 ∧ b.fb TWN_HEALTH_CLAIM_HELD = true ∧ b.rn TWN_EPOCH = s.blk.nextEpoch ∧ s.blk.Calm b) ∧
    (s.blk.twnState = 4 → s.blk.fit = true → s.blk.fb TWN_HEALTH_CLAIM_LINE_FAULT = false → s.blk.fb TWN_HEALTH_CLAIM_HELD = false →
      s.blk.fb TWN_STATUS_CLAIM_IN = true →
      Completes .twnForceClaim s fun b =>
        b.twnState = 2 ∧ b.fb TWN_HEALTH_CLAIM_HELD = true ∧ b.rn TWN_EPOCH = s.blk.nextEpoch ∧ s.blk.Calm b) ∧
    (s.blk.twnState = 2 →
      (s.blk.fb TWN_HEALTH_SUPERVISOR = false → Completes .supervisorTimeout s fun b =>
        b.twnState = 5 ∧ b.fb TWN_HEALTH_SUPERVISOR = true ∧ b.fb TWN_HEALTH_CLAIM_HELD = false ∧ b.fb TWN_STATUS_DRIVING = false ∧
          (∃ w, s.blk.Raised b 0x808 0 w (s.blk.rn TWN_EPOCH)) ∧ s.blk.RegsBut b (fun a => a = TWN_HEALTH ∨ a = TWN_STATUS ∨ pairWord a) ∧ s.blk.Calm b) ∧
      (s.blk.fb TWN_HEALTH_FORCED = false → Completes .twnFault s fun b =>
        b.twnState = 5 ∧ b.fb TWN_HEALTH_FORCED = true ∧ b.fb TWN_HEALTH_CLAIM_HELD = false ∧ b.fb TWN_STATUS_DRIVING = false ∧
          (∃ w, s.blk.Raised b 0x808 0 w (s.blk.rn TWN_EPOCH)) ∧ s.blk.RegsBut b (fun a => a = TWN_HEALTH ∨ a = TWN_STATUS ∨ pairWord a) ∧ s.blk.Calm b) ∧
      ((s.blk.advance t).portsOut = true →
        s.blk.fb TWN_HEALTH_PORTS = false → Completes (.portsFault t) s fun b =>
          b.twnState = 5 ∧ b.fb TWN_HEALTH_PORTS = true ∧ b.fb TWN_HEALTH_CLAIM_HELD = false ∧
            s.blk.RegsBut b (fun a => a = TWN_HEALTH ∨ a = TWN_STATUS ∨ pairWord a) ∧ s.blk.Calm b) ∧
      (s.blk.heard = true → s.blk.twn.ptState = 3 → bitOf (s.blk.rn TWN_PARTNER_HEALTH) 23 = true →
        Completes .twnRelease s fun b =>
          b.twnState = 3 ∧ b.fb TWN_HEALTH_CLAIM_HELD = false ∧ b.fb TWN_STATUS_DRIVING = false ∧
            s.blk.RegsBut b (fun a => a = TWN_HEALTH ∨ a = TWN_STATUS ∨ pairWord a) ∧ s.blk.Calm b) ∧
      Completes .twnClear s fun b =>
        b.twnState = 2 ∧ b.fb TWN_HEALTH_FORCED = false ∧ s.blk.RegsBut b (fun a => a = TWN_HEALTH ∨ pairWord a) ∧ s.blk.Calm b) ∧
    (s.blk.heard = false → Completes .twnRelease s fun b => b.fb TWN_STATUS_REL_REJ = true ∧ s.blk.OnlyRegs b (· = TWN_STATUS))

/-- From R285, R292 to R295, R297, R299, R303, R306, R341, R348. Pairing messages: a heartbeat is due every 8 µs and goes as a message of MTYPE 8 on an up WALE1 that
has credits; a received one shows what it carries; after T_hb without one the
partner is silent, the interval counts, and a paired write that was made here only is over, as LOCAL says; the first half of a mirrored entry and an agreed change wait; a matching line counts; SNAP item 10 starts the
shadow compare; NOZCOPY words are in force at once.
Where it rests on the model's readings and choices, entries 69, 70, 71, 166 of the assumption log say which. -/
def Obligations.PairingMessages : Prop :=
  ∀ (s : State) (t : Nat) (m : List Word), s.blk.alive = true →
    (s.blk.twnState = 3 → s.blk.twn.sentAt + 2000 ≤ max s.blk.now t → s.blk.fb (WAL_LINK_STATUS_UP 2) = true → s.blk.chipId ≠ 0 →
      (s.blk.advance t).linkAwake 2 = true → (s.blk.link 2).queue = [] → (s.blk.link 2).credits ≠ 0 →
      Completes (.heartbeatSend t) s fun b =>
        (∃ lane, b.out = .wale 2 lane ([8 * 2 ^ 16 + ((s.blk.link 2).sent + 1) % 256 * 256 + (s.blk.link 2).freed % 256, s.blk.chipId, 0] ++
          (s.blk.advance t).hbWords) :: s.blk.out) ∧ (b.link 2).sent = ((s.blk.link 2).sent + 1) % 256 ∧ b.twn.seq = (s.blk.twn.seq + 1) % 256 ∧ b.twn.sentAt = max s.blk.now t ∧
          s.blk.RegsBut b (· = WAL_LINK_STATUS 2) ∧ s.blk.Calm b) ∧
    (s.blk.twnState ≠ 0 → (wordsOf m).length = 8 → kindOf (wordsOf m) = 1 → Completes (.heartbeatReceived t m) s fun b =>
      b.heard = true ∧ b.fb TWN_HEALTH_PARTNER_SILENT = false ∧ b.rn TWN_PARTNER_HEALTH = wd (wordsOf m) 1 ∧
        b.rn TWN_PARTNER_EPOCH = wd (wordsOf m) 2 ∧ b.rn TWN_PARTNER_SUM = wd (wordsOf m) 3 ∧ b.twn.hbAt = max s.blk.now t ∧ s.blk.Calm b) ∧
    (s.blk.twnState = 2 → s.blk.twn.hbAt + s.blk.tHb ≤ max s.blk.now t → Completes (.partnerSilent t) s fun b =>
      b.heard = false ∧ b.fb TWN_HEALTH_PARTNER_SILENT = true ∧ b.rn TWN_HB_MISSED = min (s.blk.rn TWN_HB_MISSED + 1) u24max ∧
        (s.blk.fb TWN_HEALTH_PARTNER_SILENT = false → s.blk.Raised b 0x802 0 (s.blk.twn.ptSeq % 2 ^ 24) 0) ∧
        (∀ q, s.blk.twn.pwSeq = some q → b.twn.pwSeq = none ∧ b.fb TWN_PW_STATUS_BUSY = false ∧ b.fb TWN_PW_STATUS_LOCAL = true) ∧
        s.blk.RegsBut b (fun a => a = TWN_STATUS ∨ a = TWN_HEALTH ∨ a = TWN_HB_MISSED ∨ s.blk.twn.pwSeq ≠ none ∧ a = TWN_PW_STATUS) ∧ s.blk.Calm b) ∧
    (s.blk.mirrors = true → kindOf (wordsOf m) = 4 → wd (wordsOf m) 0 % 4 = 0 → Completes (.mirrorReceived m) s fun b =>
      b = { s.blk with twn := { s.blk.twn with part := some (wordsOf m) } }) ∧
    (s.blk.twnState ≠ 0 → kindOf (wordsOf m) = 3 → Completes (.agreeReceived m) s fun b =>
      b = { s.blk with twn := { s.blk.twn with agreed := s.blk.twn.agreed ++
        [⟨wd2 (wordsOf m) 1, wd (wordsOf m) 3 % 16, wd (wordsOf m) 4, wd (wordsOf m) 5, true, 256⟩] } }) ∧
    (∀ a : Nat × Nat, s.blk.twnState = 2 → s.blk.fb TWN_STATUS_SHADOW_ON = true → s.blk.allIdle = false → kindOf (wordsOf m) = 2 →
      s.blk.twn.own.find? (fun e => e.1 == wd2 (wordsOf m) 1) = some a →
      (a.2 = wd (wordsOf m) 3 → Completes (.shadowReceived m) s fun b =>
        b.twn.good = s.blk.twn.good + 1 ∧ b.twn.own = s.blk.twn.own.erase a ∧ b.regs = s.blk.regs ∧ s.blk.Calm b) ∧
      (a.2 ≠ wd (wordsOf m) 3 → Completes (.shadowReceived m) s fun b =>
        b.twn.good = 0 ∧ b.rn TWN_SHADOW_MIS = min (s.blk.rn TWN_SHADOW_MIS + 1) u24max ∧
          s.blk.RegsBut b (· = TWN_SHADOW_MIS) ∧ s.blk.Calm b)) ∧
    (s.blk.twnState = 2 → kindOf (wordsOf m) = 5 → wd (wordsOf m) 0 % 256 = 10 → Completes (.snapReceived m) s fun b =>
      b.fb TWN_STATUS_SHADOW_ON = true ∧ s.blk.OnlyRegs b (· = TWN_STATUS)) ∧
    (s.blk.twnState = 4 → s.blk.f TWN_STATUS_RESYNC_STEP = 2 ∨ s.blk.f TWN_STATUS_RESYNC_STEP = 3 → kindOf (wordsOf m) = 6 →
      wd (wordsOf m) 1 + 6 ≤ 131072 → Completes (.nozcopyReceived m) s fun b =>
        (∀ k, k < 6 → b.rn (0x080000 + wd (wordsOf m) 1 + k) = wd (wordsOf m) (2 + k)) ∧
          b.f TWN_STATUS_RESYNC_STEP = (if 131072 ≤ wd (wordsOf m) 1 + 6 then 4 else 3) ∧
          s.blk.OnlyRegs b fun a => a = TWN_STATUS ∨ ∃ k, k < 6 ∧ a = 0x080000 + wd (wordsOf m) 1 + k)

/-- From R295, R297. A change agreed for a line that is next to be composed comes into force and no longer waits. A paired write in a pairing waits as an agreed
change with BUSY set; alone it is made here and LOCAL is set.
Where it rests on the model's readings and choices, entries 23, 71, 75, 122, 164 of the assumption log say which. -/
def Obligations.AgreedChanges : Prop :=
  ∀ s : State, s.blk.alive = true → s.blk.allIdle = false →
    (∀ g : Agr, s.blk.twn.agreed = [g] → s.blk.agreedDue (s.blk.fireNum + 3) g = true →
      (g.typ = 0 → 0x080000 ≤ g.addr → g.addr < 0x0a0000 → Completes .agreedChangeApply s fun b =>
        b.twn.agreed = [] ∧ b.rn g.addr = g.val % 2 ^ 24 ∧ s.blk.RegsBut b (· = g.addr) ∧ s.blk.Calm b) ∧
      (g.typ = 2 → Completes .agreedChangeApply s fun b =>
        b.twn.agreed = [] ∧ b.f LCK_STATUS_RUNG = g.val % 4 ∧ s.blk.RegsBut b (· = LCK_STATUS) ∧ s.blk.Calm b)) ∧
    ∀ w : Word, s.blk.fb TWN_PW_STATUS_BUSY = false →
      (s.blk.twnState = 2 → s.blk.heard = true → s.blk.twn.ptState = 3 → Completes (.pairedWrite w) s fun b =>
        b.fb TWN_PW_STATUS_BUSY = true ∧
          b.twn.agreed = s.blk.twn.agreed ++ [⟨(s.blk.fireNum + s.blk.twnLead) % 2 ^ 48, 3, s.blk.rn TWN_PW_ADDR, w.toNat, false, s.blk.twn.seq⟩] ∧
          s.blk.RegsBut b (fun a => a = TWN_PW_STATUS ∨ pairWord a) ∧ s.blk.Calm b) ∧
      (s.blk.twnState = 0 → 0x080000 ≤ s.blk.rn TWN_PW_ADDR → s.blk.rn TWN_PW_ADDR < 0x0a0000 → Completes (.pairedWrite w) s fun b =>
        b.fb TWN_PW_STATUS_LOCAL = true ∧ b.lastWritten (s.blk.rn TWN_PW_ADDR) = w ∧ s.blk.RegsBut b (· = TWN_PW_STATUS) ∧ s.blk.Calm b)

/-! ### The line trigger -/

/-- From R30, R64, R69, R175. A line trigger that is due moves the compare on by the pitch, counts the fire number and the line index of every enabled track, and leaves those of
the others; one that comes too soon after the last is skipped and counted. Stated outside shuttle mode with nothing held or agreed.
Where it rests on the model's readings and choices, entries 21, 22, 23, 24, 124, 133 of the assumption log say which. -/
def Obligations.LineTriggers : Prop :=
  ∀ (s : State) (t : Nat), s.blk.alive = true → s.blk.held = [] → s.blk.twn.agreed = [] → s.blk.shuttle = false →
    (s.blk.advance t).trigDue = true →
    Completes (.lineTrigger t) s fun b =>
      b.fireNum = (s.blk.fireNum + 1) % 2 ^ 48 ∧ b.compare = sext 72 (wrapTo 72 (s.blk.compare + s.blk.pitch)) ∧
        (∀ k, k < 4 → b.lineIndex k = if s.blk.trkEn k then (s.blk.lineIndex k + 1) % 2 ^ 48 else s.blk.lineIndex k) ∧
        (∃ g, b.lck.trigs.head? = some g ∧ g.fire = b.fireNum ∧ g.cRaw = s.blk.compare ∧ g.clk = max s.blk.now t ∧ g.skipped = (s.blk.advance t).tooSoon) ∧
        ((s.blk.advance t).tooSoon = true →
          b.rn LCK_SKIP_COUNT = min (s.blk.rn LCK_SKIP_COUNT + 1) u24max ∧ ∃ d0 d1, s.blk.Raised b 0x110 0 d0 d1)

/-! ### Tables and rings -/

/-- From R34, R136, R147, R150. A nozzle word is held for the next line boundary. A swap of a tone curve or of the threshold array becomes pending, a write goes to the
shadow, and while a swap is pending both are refused with TABLE_REJECTED.
Where it rests on the model's readings and choices, entry 15 of the assumption log says which. -/
def Obligations.TablesAndSwaps : Prop :=
  ∀ s : State, s.blk.alive = true →
    (∀ (h : Fin 32) (i : Fin 4096) (w : Word), s.blk.agrees = false → Completes (.nozzleWordWrite h i w) s fun b =>
      b.lastWritten (nozAddr h i) = w ∧ (∀ a, a ≠ nozAddr h i → b.lastWritten a = s.blk.lastWritten a) ∧ b.regs = s.blk.regs ∧ s.blk.Calm b) ∧
    (∀ h : Fin 32,
      (s.blk.fb (CMP_HEAD_TONE_PENDING h) = false →
        (Completes (.toneSwap h) s fun b =>
          b.fb (CMP_HEAD_TONE_PENDING h) = true ∧ b.cmp = { s.blk.cmp with tonePend := s.blk.cmp.tonePend ++ [h.val] } ∧
            s.blk.RegsBut b (· = CMP_HEAD_TONE h) ∧ s.blk.Calm b) ∧
        ∀ (i : Fin 1024) (w : Word), Completes (.toneShadowWrite h i w) s fun b =>
          b.toneGet (!s.blk.toneAct h) h i = w.toNat % 4096 ∧
            (∀ j, j < 1024 → b.toneGet (s.blk.toneAct h) h j = s.blk.toneGet (s.blk.toneAct h) h j) ∧ b.regs = s.blk.regs ∧ s.blk.Calm b) ∧
      (s.blk.fb (CMP_HEAD_TONE_PENDING h) = true → ∀ (i : Fin 1024) (w : Word) (c : Instr), c = .toneSwap h ∨ c = .toneShadowWrite h i w →
        Completes c s fun b => b.fb CMP_STATUS_TBL_REJ = true ∧ (∃ a, s.blk.Raised b 0x304 h 0 a) ∧ b.cmp = s.blk.cmp ∧
          s.blk.RegsBut b (· = CMP_STATUS) ∧ s.blk.Calm b)) ∧
    (s.blk.fb SCR_STATUS_PENDING = false →
      (Completes .thresholdSwap s fun b => b.fb SCR_STATUS_PENDING = true ∧ s.blk.OnlyRegs b (· = SCR_STATUS)) ∧
      (∀ w : Word, Completes (.thresholdWrite .size w) s fun b => b.reg SCR_SHADOW_SIZE = w &&& 0x3fff ∧ s.blk.OnlyRegs b (· = SCR_SHADOW_SIZE)) ∧
      ∀ (u : Fin 128) (k : Fin 4) (w : Word), Completes (.thresholdWrite (.win u k) w) s fun b =>
        b.thrGet (!s.blk.cmp.thrAct) (s.blk.f SCR_WIN_ROW_ROW) (4 * u + k) = (if k = 3 then w &&& 0xfff else w) ∧
          (∀ r n, r < 128 → n < 512 → b.thrGet s.blk.cmp.thrAct r n = s.blk.thrGet s.blk.cmp.thrAct r n) ∧ b.regs = s.blk.regs ∧ s.blk.Calm b) ∧
    (s.blk.fb SCR_STATUS_PENDING = true → ∀ (a : ThrWord) (w : Word) (c : Instr), c = .thresholdSwap ∨ c = .thresholdWrite a w →
      Completes c s fun b => b.fb SCR_STATUS_WR_REJ = true ∧ (∃ x, s.blk.Raised b 0x304 0 1 x) ∧ b.cmp = s.blk.cmp ∧
        s.blk.RegsBut b (· = SCR_STATUS) ∧ s.blk.Calm b)

/-- From R41, R484, R485. Enabling a ring sets its size and empties it. An index that software owns takes a value that leaves at most SIZE entries, and any other value sets IDX_ERR
and raises RING_INDEX_ERROR.
Where it rests on the model's readings and choices, entry 116 of the assumption log says which. -/
def Obligations.RingIndices : Prop :=
  ∀ (s : State) (r : Fin 16) (w : Word), s.blk.alive = true →
    (s.blk.ringOn r = false → bitOf w.toNat 23 = true → Completes (.ringCfgWrite r w) s fun b =>
      b.ringOn r = true ∧ b.f (RING_CFG_SIZE_LOG2 r) = w.toNat % 32 ∧ b.rn (RING_PROD r) = 0 ∧ b.rn (RING_CONS r) = 0 ∧
        s.blk.OnlyRegs b fun a => a = RING_CFG r ∨ a = RING_PROD r ∨ a = RING_CONS r) ∧
    (s.blk.ringOn r = true → bitOf w.toNat 23 = false → Completes (.ringCfgWrite r w) s fun b =>
      b.ringOn r = false ∧ b.f (RING_CFG_SIZE_LOG2 r) = w.toNat % 32 ∧ s.blk.OnlyRegs b (· = RING_CFG r)) ∧
    (s.blk.swProd r = true → s.blk.twn.wait = [] →
      ((w.toNat + 2 ^ 24 - s.blk.rn (RING_CONS r)) % 2 ^ 24 ≤ s.blk.ringSize r → Completes (.ringProdWrite r w) s fun b =>
        b.reg (RING_PROD r) = w ∧ s.blk.OnlyRegs b (· = RING_PROD r)) ∧
      (s.blk.ringSize r < (w.toNat + 2 ^ 24 - s.blk.rn (RING_CONS r)) % 2 ^ 24 → Completes (.ringProdWrite r w) s fun b =>
        b.fb (RING_STATUS_IDX_ERR r) = true ∧ s.blk.Raised b 0xE02 r r w.toNat ∧ s.blk.RegsBut b (· = RING_STATUS r) ∧ s.blk.Calm b)) ∧
    (swCons r = true →
      ((s.blk.rn (RING_PROD r) + 2 ^ 24 - w.toNat) % 2 ^ 24 ≤ s.blk.ringSize r → Completes (.ringConsWrite r w) s fun b =>
        b.reg (RING_CONS r) = w ∧ s.blk.OnlyRegs b (· = RING_CONS r)) ∧
      (s.blk.ringSize r < (s.blk.rn (RING_PROD r) + 2 ^ 24 - w.toNat) % 2 ^ 24 → Completes (.ringConsWrite r w) s fun b =>
        b.fb (RING_STATUS_IDX_ERR r) = true ∧ s.blk.Raised b 0xE02 r r w.toNat ∧ s.blk.RegsBut b (· = RING_STATUS r) ∧ s.blk.Calm b))

/-- From R476. A LOAD in range copies COUNT bytes of image memory to the path's buffer and leaves memory as it is; a STORE in range copies them from the buffer and
leaves every other byte; both show BUSY until the copy ends, and the end sets ERR where the copy failed.
Where it rests on the model's readings and choices, entry 93 of the assumption log says which. -/
def Obligations.MemoryCopies : Prop :=
  ∀ (s : State) (p : Path), s.blk.alive = true →
    (s.blk.fb (RING_MCTRL_BUSY.on p) = false →
      s.blk.val (onPath p RING_MADDR) 2 + min 191 (s.blk.f (RING_MCTRL_COUNT_M1.on p)) + 1 ≤ s.blk.capacity →
      (Completes (.load p .none) s fun b =>
        b.fb (RING_MCTRL_BUSY.on p) = true ∧ (∀ a, b.memRead a = s.blk.memRead a) ∧
          ∀ i, i < min 191 (s.blk.f (RING_MCTRL_COUNT_M1.on p)) + 1 →
            (b.mbuf p).getD i 0 = s.blk.memRead (s.blk.val (onPath p RING_MADDR) 2 + i)) ∧
      Completes (.store p) s fun b =>
        b.fb (RING_MCTRL_BUSY.on p) = true ∧ b.mbuf p = s.blk.mbuf p ∧
          ∀ a, b.memRead a =
            if s.blk.val (onPath p RING_MADDR) 2 ≤ a ∧ a ≤ s.blk.val (onPath p RING_MADDR) 2 + min 191 (s.blk.f (RING_MCTRL_COUNT_M1.on p)) then
              (s.blk.mbuf p).getD (a - s.blk.val (onPath p RING_MADDR) 2) 0
            else s.blk.memRead a) ∧
    (s.blk.fb (RING_MCTRL_BUSY.on p) = true → ∀ err : Bool, Completes (.copyEnd p err) s fun b =>
      b.fb (RING_MCTRL_BUSY.on p) = false ∧
        b.fb (RING_MCTRL_ERR.on p) = (err || alook false s.blk.acc.copies (onPath p 0) || s.blk.fb (RING_MCTRL_ERR.on p)) ∧
        s.blk.OnlyRegs b (· = onPath p RING_MCTRL))


/-! ### Lanes -/

/-- From R312, R313, R317, R319 to R323, R327, R336. Training. What the receiver finds is what the line code says: four K28.5 at one alignment give lock; from a coder and
a receiver at one running disparity a lane frame in 8b/10b arrives with its 16 bytes, and so does one in a scrambled, stuffed block from a
generator and a receiver at one state, unless the scrambled payload reads as an ALIGN (the model's choice, entry 142; the 8b/10b tables are
those of IEEE 802.3, entry 140). Lock is shown; a sweep of 128 µs chooses the best code, and RX_OK says that its figure of merit
reaches FOM_MIN; training frames show what the partner offers; on a head lane the eighth frame with RX_OK chooses NEXT, and the eighth TS2 with it
settles the lane or begins the change of rate; a relocked lane is in step 1 at its target rate; 2 ms without step 2 at the lowest rate fails
the lane; FAILED retries after 10 ms and RECOVER after 100 µs; RETRAIN trains anew; CLEAR_COUNTS clears the counts and nothing else.
Where it rests on the model's readings and choices, entries 79, 80, 140, 142, 144, 155 of the assumption log say which. -/
def Obligations.LaneTraining : Prop :=
  (∀ f : Bool, (Rx.init.feed false f false (lightCode false [k28x5, k28x5, k28x5, k28x5]).1).2 = [.gain]) ∧
  (∀ (x : Rx) (bs : List Byte), x.cnt = 0 → bs.length = 16 → 0xF0 ≤ (bs.getD 0 0).toNat →
    (x.feed false true true (lightCode x.rd (frameSyms (laneBytes bs))).1).2 = [.frame bs]) ∧
  (∀ (x : Rx) (g : Nat) (bs : List Byte), x.cnt = 0 → x.win = 0 → x.spoilt = false → x.run < 40 → x.gen = some g → x.badCount < 16 → bs.length = 16 →
    isAlign (payWords (bitsNat (scramble g (wordBits (laneWords bs))).1)) = false →
    (x.feed true true true (stuff x.last x.run (blockBits true (scramble g (wordBits (laneWords bs))).1)).1).2 = [.frame bs]) ∧
  ∀ (s : State) (n : Fin 44) (t : Nat), s.blk.alive = true → s.blk.held = [] →
    (∀ line : List Bool, s.blk.laneState n = 1 → (s.blk.lane n).target = none → s.blk.finds n line = [.gain] →
      s.blk.fb (LAN_STATUS_RX_SLEEP n) = false → Completes (.laneLockGain n t line) s fun b =>
        b.fb (LAN_STATUS_LOCK n) = true ∧ b.laneState n = 1 ∧ (b.lane n).lockAt = max s.blk.now t ∧ s.blk.RegsBut b (· = LAN_STATUS n) ∧ s.blk.Calm b) ∧
    (∀ ths : List (Int × Int), s.blk.laneState n = 1 → s.blk.fb (LAN_STATUS_LOCK n) = true → s.blk.fb (LAN_EQ_FIXED n) = false →
      isCam n = false → ths.length = 32 → (s.blk.lane n).lockAt + 32000 ≤ max s.blk.now t → Completes (.equaliserSweepDone n t ths) s fun b =>
        (∃ k, k < 32 ∧ b.f (LAN_EQ_PEAK n) = k ∧ b.f (LAN_FOM_CURRENT n) = fomOf (ths.getD k (0, 0)) ∧
          (∀ j, j < 32 → fomOf (ths.getD j (0, 0)) ≤ fomOf (ths.getD k (0, 0))) ∧
          (∀ j, j < k → fomOf (ths.getD j (0, 0)) < fomOf (ths.getD k (0, 0))) ∧
          (b.lane n).rxOk = decide (s.blk.f LAN_FOM_CFG_FOM_MIN ≤ fomOf (ths.getD k (0, 0)))) ∧
        b.laneState n = 1 ∧ s.blk.RegsBut b (fun a => a = LAN_EQ n ∨ a = LAN_FOM n) ∧ s.blk.Calm b) ∧
    (∀ (line : List Bool) (bs : List Byte), s.blk.laneState n = 1 → isCam n = false → s.blk.fb (LAN_STATUS_LOCK n) = true →
      s.blk.fb (LAN_STATUS_RX_SLEEP n) = false → (s.blk.lane n).target = none → s.blk.finds n line = [.frame bs] →
      ((s.blk.lane n).next = none → bitOf (bs.getD 1 0).toNat 0 = false →
        (bs.getD 0 0).toNat = 0xF0 ∨ ((bs.getD 0 0).toNat = 0xF1 ∧ s.blk.laneRate n ≤ (bs.getD 4 0).toNat % 8) →
        Completes (.laneFrameReceived n t line) s fun b =>
          b.f (LAN_PARTNER_RATE_MASK n) = (bs.getD 2 0).toNat ∧ b.f (LAN_PARTNER_ROLE n) = (bs.getD 6 0).toNat ∧
            b.f (LAN_PARTNER_LANE n) = (bs.getD 7 0).toNat % 4 ∧ (b.lane n).okRun = 0 ∧
            s.blk.RegsBut b (fun a => a = LAN_PARTNER n ∨ a = LAN_PARTNER n + 1) ∧ s.blk.Calm b) ∧
      (isHead n = true → (s.blk.lane n).next = none → (s.blk.lane n).falling = false → (s.blk.lane n).rxOk = true → 7 ≤ (s.blk.lane n).okRun →
        s.blk.scan = none → (bs.getD 0 0).toNat = 0xF0 → bitOf (bs.getD 1 0).toNat 0 = true →
        Completes (.laneFrameReceived n t line) s fun b =>
          (∃ c, (b.lane n).next = some c ∧
            ((s.blk.laneRate n < c ∧ bitOf (s.blk.lane n).mask c = true ∧ bitOf (bs.getD 2 0).toNat c = true) ∨ c = s.blk.laneRate n) ∧
            ∀ d, s.blk.laneRate n < d → d < 8 → (d < c ∨ c = s.blk.laneRate n) →
              bitOf (s.blk.lane n).mask d = false ∨ bitOf (bs.getD 2 0).toNat d = false) ∧
          b.laneState n = 1 ∧ s.blk.RegsBut b (fun a => a = LAN_PARTNER n ∨ a = LAN_PARTNER n + 1) ∧ s.blk.Calm b) ∧
      ∀ nx : Nat, isHead n = true → (s.blk.lane n).next = some nx → nx < 8 → (s.blk.lane n).tsRun = 7 → (s.blk.lane n).tsNext = nx → s.blk.scan = none →
        (bs.getD 0 0).toNat = 0xF1 → (bs.getD 4 0).toNat % 8 = nx →
        8 * laneFramePs (s.blk.laneRate n) ≤ 4000 * (max s.blk.now t - (s.blk.lane n).nextAt) →
        (nx ≠ s.blk.laneRate n → Completes (.laneFrameReceived n t line) s fun b =>
          (b.lane n).target = some nx ∧ (b.lane n).good = s.blk.laneRate n ∧ b.fb (LAN_STATUS_LOCK n) = false ∧
            bitOf (b.f (LAN_TRAIN_LOG_PASSED n)) (s.blk.laneRate n) = true ∧
            s.blk.RegsBut b (fun a => a = LAN_PARTNER n ∨ a = LAN_PARTNER n + 1 ∨ a = LAN_TRAIN_LOG n ∨ a = LAN_STATUS n) ∧ s.blk.Calm b) ∧
        (nx = s.blk.laneRate n → Completes (.laneFrameReceived n t line) s fun b =>
          b.laneState n = 2 ∧ s.blk.Raised b 0x901 n n (s.blk.laneRate n) ∧ s.blk.Calm b)) ∧
    (∀ r : Nat, (s.blk.lane n).target = some r → r < 8 → s.blk.laneState n = 1 → (s.blk.lane n).stAt + 250 ≤ max s.blk.now t →
      Completes (.rateStepRelock n t) s fun b =>
        b.laneRate n = r ∧ b.fb (LAN_STATUS_HEAVY n) = decide (5 ≤ r) ∧ b.fb (LAN_STATUS_LOCK n) = false ∧
          bitOf (b.f (LAN_TRAIN_LOG_TRIED n)) r = true ∧ (b.lane n).target = none ∧
          (s.blk.fb (LAN_EQ_FIXED n) = true → b.f (LAN_EQ_PEAK n) = s.blk.f (LAN_EQ_FIXED_CODE n)) ∧
          s.blk.RegsBut b (fun a => a = LAN_STATUS n ∨ a = LAN_TRAIN_LOG n ∨ (s.blk.fb (LAN_EQ_FIXED n) = true ∧ a = LAN_EQ n)) ∧ s.blk.Calm b) ∧
    (s.blk.laneState n = 1 → s.blk.scan = none → (s.blk.lane n).target = none → (s.blk.lane n).next = none → s.blk.laneRate n = 0 →
      (s.blk.lane n).since + 500000 ≤ max s.blk.now t → Completes (.trainTimeout n t) s fun b =>
        b.laneState n = 4 ∧ b.fb (LAN_STATUS_LOCK n) = false ∧ s.blk.Raised b 0x903 n n 0 ∧
          s.blk.RegsBut b (· = LAN_STATUS n) ∧ s.blk.Calm b) ∧
    (s.blk.laneEn n = true → ∀ c : Instr,
      (s.blk.laneState n = 4 ∧ (s.blk.lane n).stAt + 2500000 ≤ max s.blk.now t ∧ c = .laneFailedRetry n t) ∨
        (s.blk.laneState n = 3 ∧ s.blk.fb (LAN_STATUS_LOCK n) = false ∧ s.blk.scanOn n = false ∧ (s.blk.lane n).stAt + 25000 ≤ max s.blk.now t ∧
          c = .recoverTimeout n t) ∨
        (s.blk.laneState n ≠ 0 ∧ s.blk.laneState n ≠ 2 ∧ c = .laneRetrain n) →
      Completes c s fun b =>
        b.laneState n = 1 ∧ b.fb (LAN_STATUS_LOCK n) = false ∧ b.laneRate n = (if isCam n then 2 else 0) ∧
          s.blk.RegsBut b (fun a => a = LAN_STATUS n ∨ a = LAN_TRAIN_LOG n ∨ a = LAN_EYE_STATUS ∨ (s.blk.fb (LAN_EQ_FIXED n) = true ∧ a = LAN_EQ n)) ∧
          s.blk.Calm b) ∧
    Completes (.laneClearCounts n) s fun b =>
      b.rn (LAN_CODE_ERR n) = 0 ∧ b.rn (LAN_RECOVERS n) = 0 ∧ b.f (LAN_FOM_LOWEST n) = 0 ∧
        s.blk.RegsBut b (fun a => a = LAN_CODE_ERR n ∨ a = LAN_RECOVERS n ∨ a = LAN_FOM n) ∧ s.blk.Calm b

/-- From R313, R320, R322, R333. In 8b/10b an invalid symbol counts in LAN_CODE_ERR, and the fourth among 64 costs lock. A lane that is UP and loses lock goes to RECOVER: LANE_DOWN,
the code error and one recovery are counted. A wake that finds no lock 5 µs after its burst goes there with WAKE_FAIL. A lane in
RECOVER that locks within 100 µs is UP again, and one that locks later trains anew.
Where it rests on the model's readings and choices, entries 78, 80, 155 of the assumption log say which. -/
def Obligations.LaneRecovery : Prop :=
  (∀ (x : Rx) (f : Bool) (v : Nat), x.cnt = 0 → v < 1024 → symOf x.rd v = none →
    (((x.bad.take 63).filter id).length = 3 → (x.feed false f true (msbBits 10 v)).2 = [.error, .loss]) ∧
    (((x.bad.take 63).filter id).length < 3 → (x.feed false f true (msbBits 10 v)).2 = [.error])) ∧
  ∀ (s : State) (n : Fin 44) (t : Nat), s.blk.alive = true → s.blk.held = [] → (s.blk.lane n).target = none →
    (∀ line : List Bool, s.blk.laneState n = 2 → s.blk.fb (LAN_STATUS_LOCK n) = true → s.blk.fb (LAN_STATUS_RX_SLEEP n) = false →
      s.blk.finds n line = [.error, .loss] →
      Completes (.laneLockLoss n t line) s fun b =>
        b.laneState n = 3 ∧ b.fb (LAN_STATUS_LOCK n) = false ∧ b.fb (LAN_STATUS_DOWN n) = true ∧
          b.rn (LAN_CODE_ERR n) = min (s.blk.rn (LAN_CODE_ERR n) + 1) u24max ∧
          b.rn (LAN_RECOVERS n) = min (s.blk.rn (LAN_RECOVERS n) + 1) u24max ∧ s.blk.Raised b 0x902 n n 0) ∧
    (∀ b0 : Nat, (s.blk.lane n).burstAt = some b0 → s.blk.laneState n = 2 → s.blk.fb (LAN_STATUS_RX_SLEEP n) = true →
      b0 + 1500 ≤ max s.blk.now t → Completes (.laneWakeFail n t) s fun b =>
        b.laneState n = 3 ∧ b.fb (LAN_STATUS_RX_SLEEP n) = false ∧ b.fb (LAN_STATUS_WAKE_FAIL n) = true ∧
          b.rn (LAN_RECOVERS n) = min (s.blk.rn (LAN_RECOVERS n) + 1) u24max ∧ s.blk.Raised b 0x907 n n (s.blk.laneRate n)) ∧
    (∀ line : List Bool, s.blk.laneState n = 3 → s.blk.scan = none → s.blk.fb (LAN_STATUS_RX_SLEEP n) = false → s.blk.finds n line = [.gain] →
      (max s.blk.now t ≤ (s.blk.lane n).stAt + 25000 → Completes (.laneLockGain n t line) s fun b =>
        b.laneState n = 2 ∧ b.fb (LAN_STATUS_LOCK n) = true ∧ s.blk.Raised b 0x901 n n (s.blk.laneRate n + 8) ∧ s.blk.Calm b) ∧
      ((s.blk.lane n).stAt + 25000 < max s.blk.now t → s.blk.laneEn n = true → Completes (.laneLockGain n t line) s fun b =>
        b.laneState n = 1 ∧ b.fb (LAN_STATUS_LOCK n) = false ∧ b.laneRate n = (if isCam n then 2 else 0) ∧ s.blk.Calm b))

/-- From R331 to R333. TX_SLEEP puts the transmitter of a lane that may sleep to sleep, TX_WAKE wakes it; an IDLE_REQ, as a lane frame or its command, puts the receiver
to sleep, and a burst at a sleeping receiver is noted. A lane that may not sleep sets SLEEP_REJ.
Where it rests on the model's readings and choices, entries 81, 178 of the assumption log say which. -/
def Obligations.LaneSleep : Prop :=
  ∀ (s : State) (n : Fin 44) (t : Nat), s.blk.alive = true →
    (s.blk.maySleep n = true → s.blk.fb (LAN_STATUS_TX_SLEEP n) = false → Completes (.txSleep n) s fun b =>
      b.fb (LAN_STATUS_TX_SLEEP n) = true ∧ b.laneState n = 2 ∧ s.blk.RegsBut b (· = LAN_STATUS n) ∧ s.blk.Calm b) ∧
    (s.blk.fb (LAN_STATUS_TX_SLEEP n) = true → isHead n = false → Completes (.txWake n) s fun b =>
      b.fb (LAN_STATUS_TX_SLEEP n) = false ∧ (b.lane n).sendFrom = max s.blk.now ((s.blk.lane n).idleAt + 25) + 1500 ∧
        s.blk.RegsBut b (· = LAN_STATUS n) ∧ s.blk.Calm b) ∧
    (∀ c : Instr, s.blk.fb (LAN_STATUS_RX_SLEEP n) = false →
      (c = .idleReqReceived n ∨ ∃ (line : List Bool) (bs : List Byte), s.blk.laneState n ≠ 0 ∧ s.blk.laneState n ≠ 4 ∧ s.blk.laneState n < 5 ∧ isCam n = false ∧
        s.blk.held = [] ∧ (s.blk.lane n).target = none ∧ s.blk.finds n line = [.frame bs] ∧ (bs.getD 0 0).toNat = 0xF2 ∧
        c = .laneFrameReceived n t line) →
      (s.blk.maySleep n = true → Completes c s fun b =>
        b.fb (LAN_STATUS_RX_SLEEP n) = true ∧ b.fb (LAN_STATUS_LOCK n) = false ∧ b.laneState n = 2 ∧
          s.blk.RegsBut b (· = LAN_STATUS n) ∧ s.blk.Calm b) ∧
      (s.blk.maySleep n = false → Completes c s fun b =>
        b.fb (LAN_STATUS_SLEEP_REJ n) = true ∧ b.fb (LAN_STATUS_RX_SLEEP n) = false ∧ s.blk.RegsBut b (· = LAN_STATUS n) ∧ s.blk.Calm b)) ∧
    (s.blk.maySleep n = false → Completes (.txSleep n) s fun b =>
      b.fb (LAN_STATUS_SLEEP_REJ n) = true ∧ s.blk.OnlyRegs b (· = LAN_STATUS n)) ∧
    (s.blk.laneState n = 2 → s.blk.fb (LAN_STATUS_RX_SLEEP n) = true → (s.blk.lane n).burstAt = none → Completes (.wakeDetect n t) s fun b =>
      (b.lane n).burstAt = some (max s.blk.now t) ∧ s.blk.RegsBut b (fun _ => False) ∧ s.blk.Calm b)

/-- From R326 to R330. A figure of merit is shown; one below WARN for 1 ms is warned of once, and a shorter fall is not. A LAN_EQ write waits for the next Skip or ALIGN, and is in
force from it on. An eye scan starts on a lane in TRAIN or RECOVER, before the sweep of TRAIN with it, and is otherwise refused; a cancel aborts it;
counts delivered before the last point show as they come (the model's choice, entry 154), and its end leaves 8,192 points in the window with DONE.
Where it rests on the model's readings and choices, entries 77, 82, 153, 154 of the assumption log say which. -/
def Obligations.EqualiserAndEye : Prop :=
  ∀ (s : State) (n : Fin 44) (t : Nat), s.blk.alive = true →
    (∀ one zero : Int, s.blk.laneState n = 2 → s.blk.held = [] → fomOf (one, zero) < s.blk.f LAN_FOM_CFG_WARN → (s.blk.lane n).warned = false →
      ((s.blk.lane n).lowAt = none → Completes (.laneMarginLow n t one zero) s fun b =>
        b.f (LAN_FOM_CURRENT n) = fomOf (one, zero) ∧ (b.lane n).lowAt = some (max s.blk.now t) ∧ (b.lane n).warned = false ∧
          s.blk.RegsBut b (· = LAN_FOM n) ∧ s.blk.Calm b) ∧
      ∀ a : Nat, (s.blk.lane n).lowAt = some a → a + 250000 ≤ max s.blk.now t → Completes (.laneMarginLow n t one zero) s fun b =>
        b.fb (LAN_STATUS_MARGIN_LOW n) = true ∧ b.f (LAN_FOM_CURRENT n) = fomOf (one, zero) ∧ (b.lane n).warned = true ∧
          s.blk.Raised b 0x905 n n (fomOf (one, zero)) ∧
          s.blk.RegsBut b (fun a => a = LAN_STATUS n ∨ a = LAN_FOM n) ∧ s.blk.Calm b) ∧
    (∀ w : Word, Completes (.lanEqWrite n w) s fun b =>
      bitOf (b.lastWritten (LAN_EQ n)).toNat 23 = bitOf w.toNat 23 ∧ (b.lastWritten (LAN_EQ n)).toNat % 32 = w.toNat % 32 ∧ b.regs = s.blk.regs ∧
        (b.lane n).eqAt = s.blk.now ∧ s.blk.Calm b) ∧
    (∀ (v : Word) (line : List Bool) (c : Instr), s.blk.laneState n = 2 → s.blk.fb SYS_COMMIT_HOLD = false → s.blk.held = [⟨LAN_EQ n, v, .skip, []⟩] →
      s.blk.trm.held = [] → s.blk.fb (LAN_STATUS_RX_SLEEP n) = false → (s.blk.lane n).target = none → s.blk.finds n line = [.skip] →
      c = .laneFrameReceived n t line ∨ c = .laneLockGain n t line ∨ c = .laneLockLoss n t line →
      Completes c s fun b =>
        b.held = [] ∧ b.fb (LAN_EQ_FIXED n) = bitOf v.toNat 23 ∧ b.f (LAN_EQ_FIXED_CODE n) = v.toNat % 32 ∧
          b.f (LAN_EQ_PEAK n) = (if bitOf v.toNat 23 then v.toNat % 32 else s.blk.f (LAN_EQ_PEAK n)) ∧
          s.blk.RegsBut b (· = LAN_EQ n) ∧ s.blk.Calm b) ∧
    (∀ w : Word, s.blk.scan = none → bitOf w.toNat 23 = true →
      (w.toNat % 64 = n.val → s.blk.laneState n = 1 ∨ s.blk.laneState n = 3 → Completes (.eyeScanGo w) s fun b =>
        b.fb LAN_EYE_STATUS_BUSY = true ∧ b.fb LAN_EYE_STATUS_ABORTED = false ∧ b.f LAN_EYE_STATUS_POINTS = 0 ∧
          (∃ x, b.scan = some x ∧ x.lane = n.val ∧ x.st = s.blk.laneState n ∧ x.start = s.blk.now ∧ x.dwell = w.toNat / 4096 % 16 ∧
            x.aborted = false ∧ x.refused = false ∧
            x.began = (if s.blk.laneState n = 1 ∧ (s.blk.lane n).swept = false then none else some s.blk.now)) ∧
          s.blk.RegsBut b (fun a => a = LAN_EYE_CTRL ∨ a = LAN_EYE_STATUS) ∧ s.blk.Calm b) ∧
      (44 ≤ w.toNat % 64 → Completes (.eyeScanGo w) s fun b =>
        b.fb LAN_EYE_STATUS_REJ = true ∧ s.blk.OnlyRegs b fun a => a = LAN_EYE_CTRL ∨ a = LAN_EYE_STATUS)) ∧
    (∀ x : Scan, s.blk.scan = some x → x.aborted = false →
      (Completes .eyeScanCancel s fun b =>
        b.fb LAN_EYE_STATUS_ABORTED = true ∧ b.scan = some { x with aborted := true, stop := s.blk.now } ∧
          s.blk.RegsBut b (· = LAN_EYE_STATUS) ∧ s.blk.Calm b) ∧
      (∀ (b0 : Nat) (ps : List Nat), x.began = some b0 → x.lane = n.val →
        ps.length * (2 ^ (16 + x.dwell) * bitHalfPs (s.blk.laneRate n)) ≤ (max s.blk.now t - b0) * 8000 → s.blk.f LAN_EYE_STATUS_POINTS ≤ ps.length →
        (ps.length < 8192 → Completes (.eyeScanDone t ps) s fun b =>
          b.f LAN_EYE_STATUS_POINTS = ps.length ∧ b.scan = some x ∧ (∀ k, k < ps.length → b.rn (eyePoint k) = min 65535 (ps.getD k 0)) ∧
            s.blk.RegsBut b (fun a => a = LAN_EYE_STATUS ∨ ∃ k, k < ps.length ∧ a = eyePoint k) ∧ s.blk.Calm b) ∧
        (ps.length = 8192 → s.blk.laneState n = 2 → Completes (.eyeScanDone t ps) s fun b =>
          b.fb LAN_EYE_STATUS_BUSY = false ∧ b.fb LAN_EYE_STATUS_DONE = true ∧ b.f LAN_EYE_STATUS_POINTS = 8192 ∧ b.scan = none ∧
            (∀ k, k < 8192 → b.rn (eyePoint k) = min 65535 (ps.getD k 0)) ∧ s.blk.Raised b 0x906 n n (2 * b2n x.refused) ∧
            s.blk.RegsBut b (fun a => a = LAN_EYE_STATUS ∨ ∃ k, k < 8192 ∧ a = eyePoint k) ∧ s.blk.Calm b)))


/-! ### Wale links -/

/-- From R341, R347 to R350. Messages of a link that is up: one that fails its CRC is discarded and counted; a NOP returns credits; a NOP is sent when credits are owed; a SW message that
waits goes to ring 14 and frees its buffer; a ring-13 entry leaves as a SW message with HOPS 31.
Where it rests on the model's readings and choices, entries 83, 84, 148, 149, 150, 151 of the assumption log say which. -/
def Obligations.WaleMessages : Prop :=
  ∀ (s : State) (l : Fin 3) (t : Nat), s.blk.alive = true →
    (∀ (m : List Word) (crc : Nat), s.blk.linkUp l = true → s.blk.linkAligned l = true → s.blk.allIdle = false →
      crc ≠ s.blk.waleCheck l (wordsNat m) → Completes (.waleMessageReceived l t m crc) s fun b =>
      b.rn (WAL_RX_DROPS l) = min (s.blk.rn (WAL_RX_DROPS l) + 1) u24max ∧ s.blk.Raised b 0xA03 l l 0 ∧
        s.blk.RegsBut b (· = WAL_RX_DROPS l) ∧ s.blk.Calm b) ∧
    (∀ m : List Word, s.blk.linkUp l = true → (s.blk.link l).queue = [] → mtypeOf (wordsNat m) = 0 → Completes (.nopReceived l m) s fun b =>
      (b.link l).ptFreed = (wordsNat m).headD 0 % 256 ∧ b.f (WAL_LINK_STATUS_CREDITS l) = (b.link l).credits ∧
        s.blk.OnlyRegs { b with links := s.blk.links } (· = WAL_LINK_STATUS l)) ∧
    (s.blk.linkUp l = true → (s.blk.advance t).linkAwake l = true → (s.blk.link l).owes = true → (s.blk.link l).lastOut + 250 ≤ t →
      Completes (.nopSend l t) s fun b =>
        (∃ lane, b.out = .wale l lane [(s.blk.link l).sent * 256 + (s.blk.link l).freed % 256, s.blk.chipId, 0] :: s.blk.out) ∧
          (b.link l).owes = false ∧ s.blk.RegsBut b (fun _ => False) ∧ s.blk.Calm b) ∧
    (∀ (x : Nat × List Nat) (r : List (Nat × List Nat)), (s.blk.link l).sw = x :: r → s.blk.ringFull 14 = false →
      Completes (.swDeliver l) s fun b =>
        (b.link l).sw = r ∧ (b.link l).freed = ((s.blk.link l).freed + 1) % 256 ∧
          b.rn (RING_PROD 14) = (s.blk.rn (RING_PROD 14) + 1) % 2 ^ 24) ∧
    (s.blk.chipId ≠ 0 → s.blk.fb WAL_STATUS_ID_CONFLICT = false → s.blk.ringHas 13 = true → bits ((s.blk.ringFront 13).headD 0) 9 8 = 0 →
      s.blk.linkUp 0 = true → s.blk.linkAwake 0 = true → (s.blk.link 0).queue = [] → (s.blk.link 0).credits ≠ 0 →
      Completes .swSend s fun b =>
        b.rn (RING_CONS 13) = (s.blk.rn (RING_CONS 13) + 1) % 2 ^ 24 ∧ (b.link 0).sent = ((s.blk.link 0).sent + 1) % 256 ∧
          ∃ lane, b.out = .wale 0 lane ([65536 + ((s.blk.link 0).sent + 1) % 256 * 256 + (s.blk.link 0).freed % 256,
            bits ((s.blk.ringFront 13).headD 0) 23 12 * 4096 + s.blk.chipId, 31 * 2 ^ 19] ++
            (List.range 6).map (fun i => (s.blk.ringFront 13).getD (i + 2) 0 % 2 ^ 24) ++ [0, 0]) :: s.blk.out)

/-- From R338 to R340. Every 1 ms a unit with a chip ID sends DISCOVER with its ID, die identifier and role; one received directly names the neighbour and is remembered; an ID not
heard for 4 ms drops out of the ring view.
Where it rests on the model's readings and choices, entry 85 of the assumption log says which. -/
def Obligations.RingDiscovery : Prop :=
  ∀ (s : State) (t : Nat), s.blk.alive = true →
    (s.blk.chipId ≠ 0 → s.blk.wal.disc + 250000 ≤ t → s.blk.linkUp 0 = true → (s.blk.advance t).linkAwake 0 = true → (s.blk.link 0).queue = [] →
      (s.blk.link 0).credits ≠ 0 → s.blk.linkUp 1 = false → s.blk.linkUp 2 = false → Completes (.discoverSend t) s fun b =>
        (∃ lane, b.out = .wale 0 lane ([3 * 65536 + ((s.blk.link 0).sent + 1) % 256 * 256 + (s.blk.link 0).freed % 256, s.blk.chipId, 31 * 2 ^ 19,
          s.blk.chipId] ++ s.blk.dieWords ++ [s.blk.twnState, 0, 0, 0]) :: s.blk.out) ∧
          b.wal.disc = max s.blk.now t ∧ s.blk.RegsBut b (fun a => a / 2 ^ 16 = 0x11) ∧ s.blk.Calm b) ∧
    (∀ (l : Fin 3) (m : List Word), s.blk.linkUp l = true → s.blk.linkAligned l = true → s.blk.allIdle = false → mtypeOf (wordsNat m) = 3 →
      (s.blk.link l).early = [] → (s.blk.link l).seqIn < 256 → bits ((wordsNat m).headD 0) 15 8 = ((s.blk.link l).seqIn + 1) % 256 →
      bits ((wordsNat m).getD 2 0) 23 19 = 31 → (payloadOf (wordsNat m)).headD 0 % 4096 ≠ s.blk.chipId →
      Completes (.discoverReceived l t m) s fun b =>
        b.rn (WAL_NEIGHBOUR l) = (payloadOf (wordsNat m)).headD 0 % 4096 ∧
          (l.val < 2 → ((payloadOf (wordsNat m)).headD 0 % 4096, max s.blk.now t) ∈ b.wal.heard) ∧
          s.blk.RegsBut b (fun a => a / 2 ^ 16 = 0x11) ∧ s.blk.Calm b) ∧
    (s.blk.wal.heard.length < 4096 → Completes (.discoverExpiry t) s fun b =>
      b.wal.heard = s.blk.wal.heard.filter (fun e => decide (max s.blk.now t < e.2 + 1000000)) ∧ b.rn WAL_RING_SIZE = b.wal.heard.length + 1 ∧
        b.fb WAL_STATUS_RING_CLOSED = b.wal.ownBack.isSome ∧
        s.blk.RegsBut b (fun a => a = WAL_RING_SIZE ∨ a = WAL_STATUS) ∧ s.blk.Calm b)

/-- From R351 to R354, R356. A beacon carries the master's position and speed on the ring port; the first accepted one from SRC gives the position, speed and sequence of the master in use;
TO intervals without one set LOST, clear USING and raise BEACON_LOST.
Where it rests on the model's readings and choices, entries 20, 126 of the assumption log say which. -/
def Obligations.PositionBeacons : Prop :=
  ∀ (s : State) (t : Nat), s.blk.alive = true →
    (s.blk.fb WAL_BCN_CFG_TX_EN = true → s.blk.running = true → s.blk.chipId ≠ 0 → s.blk.fb WAL_STATUS_ID_CONFLICT = false → s.blk.masterSrc ≠ 8 →
      s.blk.wal.sent + 250 * s.blk.bcnInt ≤ t → s.blk.linkUp 0 = true → (s.blk.advance t).linkAwake 0 = true → (s.blk.link 0).queue = [] →
      (s.blk.link 0).credits ≠ 0 → s.blk.linkUp 1 = false → Completes (.beaconSend t) s fun b =>
        (∃ lane, b.out = .wale 0 lane ([2 * 65536 + ((s.blk.link 0).sent + 1) % 256 * 256 + (s.blk.link 0).freed % 256, s.blk.chipId, 31 * 2 ^ 19] ++
          (s.blk.advance t).beaconWords) :: s.blk.out) ∧
          b.wal.sent = max s.blk.now t ∧ s.blk.RegsBut b (· = WAL_LINK_STATUS 0) ∧ s.blk.Calm b) ∧
    (∀ m : List Word, s.blk.masterSrc = 8 → s.blk.linkUp 2 = true → s.blk.linkAligned 2 = true → s.blk.paired = false → s.blk.allIdle = false →
      mtypeOf (wordsNat m) = 2 → (s.blk.link 2).early = [] → (s.blk.link 2).seqIn < 256 →
      bits ((wordsNat m).headD 0) 15 8 = ((s.blk.link 2).seqIn + 1) % 256 →
      s.blk.f WAL_BCN_STATUS_USING = 0 → (s.blk.bcn.seq = none ∨ s.blk.bcn.tb < beaconTime (s.blk.advance t).timNs (payloadOf (wordsNat m))) →
      srcOf (wordsNat m) = s.blk.f WAL_BCN_SRC_SRC → bitOf ((payloadOf (wordsNat m)).headD 0) 23 = false →
      Completes (.beaconReceived 2 t m) s fun b =>
        b.f WAL_BCN_STATUS_USING = 1 ∧
          b.bcn.pb = sext 56 ((payloadOf (wordsNat m)).getD 1 0 + (payloadOf (wordsNat m)).getD 2 0 * 2 ^ 24 +
            (payloadOf (wordsNat m)).getD 3 0 % 256 * 2 ^ 48) ∧
          b.bcn.vel = sext 32 ((payloadOf (wordsNat m)).getD 4 0 + (payloadOf (wordsNat m)).getD 5 0 % 256 * 2 ^ 24) ∧
          b.bcn.seq = some (bits ((payloadOf (wordsNat m)).headD 0) 15 8) ∧ b.bcn.heard = max s.blk.now t ∧
          s.blk.RegsBut b (fun a => a / 2 ^ 16 = 0x11 ∨ (a = PGE_LAT_TOL ∧ s.blk.running = true)) ∧ s.blk.Calm b) ∧
    (s.blk.masterSrc = 8 → s.blk.fbActive = true → s.blk.allIdle = false → s.blk.wal.altAt = none → s.blk.wal.lost = false →
      s.blk.bcn.heard + s.blk.bcnTo ≤ max s.blk.now t → Completes (.beaconTimeout t) s fun b =>
        b.fb WAL_BCN_STATUS_LOST = true ∧ b.f WAL_BCN_STATUS_USING = 0 ∧
          s.blk.Raised b 0xA05 0 (s.blk.f WAL_BCN_SRC_SRC) (s.blk.f WAL_BCN_SRC_ALT) ∧
          s.blk.RegsBut b (· = WAL_BCN_STATUS) ∧ s.blk.Calm b)

/-! ### Time -/

/-- From R345, R346, R363. Time over wale: a request to the link of SOURCE is sent when due, a received one is answered with its TAG and both times, and an answer gives the link delay, and
the offset where the link is the parent.
Where it rests on the model's readings and choices, entry 87 of the assumption log says which. -/
def Obligations.WaleTime : Prop :=
  ∀ (s : State) (l : Fin 3), s.blk.alive = true →
    (∀ t : Nat, s.blk.timSource = 3 + l → s.blk.fb TIM_STATUS_ALT_USED = false → (∀ e ∈ s.blk.time.sentAt, e.1 ≠ 100) → s.blk.linkUp l = true →
      (s.blk.advance t).linkAwake l = true → Completes (.tsyncReqSend t) s fun b =>
        (∃ lane, b.out = .wale l lane ([4 * 65536 + (s.blk.link l).sent * 256 + (s.blk.link l).freed % 256, s.blk.chipId,
          ((s.blk.link l).tag + 1) % 65536] ++ List.replicate 8 0) :: s.blk.out) ∧
          (b.link l).tag = ((s.blk.link l).tag + 1) % 65536 ∧
          (b.link l).t1 = some ((s.blk.advance t).lineTime ((s.blk.advance t).waleStart l true 39)) ∧
          s.blk.RegsBut b (fun _ => False) ∧ s.blk.Calm b) ∧
    (∀ (t2 t3 : Nat) (m : List Word), mtypeOf (wordsNat m) = 4 → s.blk.linkUp l = true → (s.blk.link l).queue = [] → s.blk.linkAwake l = true →
      Completes (.tsyncReqReceived l t2 t3 m) s fun b =>
        (∃ lane, b.out = .wale l lane ([5 * 65536 + (s.blk.link l).sent * 256 + (s.blk.link l).freed % 256, s.blk.chipId, (wordsNat m).getD 2 0 % 65536] ++
          timeRecord t2 false ++ timeRecord t3 false) :: s.blk.out) ∧
          s.blk.RegsBut b (· = WAL_LINK_STATUS l) ∧ s.blk.Calm b) ∧
    ∀ (t1 : Int) (t4 : Nat) (m : List Word), mtypeOf (wordsNat m) = 5 → s.blk.linkUp l = true → (s.blk.link l).queue = [] →
      (s.blk.link l).t1 = some t1 → (wordsNat m).getD 2 0 % 65536 = (s.blk.link l).tag → t1 ≤ t4 → (t4 : Int) ≤ t1 + 10000 * ns1 →
      let d2 := recordTime (payloadOf (wordsNat m)) - t1
      let d3 := (t4 : Int) - recordTime ((payloadOf (wordsNat m)).drop 4)
      Completes (.tsyncRspReceived l t4 m) s fun b =>
        b.val (WAL_LINK_DELAY l) 2 = ((d2 + d3) / 2 * 1000 / ns1).toNat % 2 ^ 48 ∧ (b.link l).t1 = none ∧
          (s.blk.timSource = 3 + l → b.sval TIM_OFFSET 2 48 = satS 48 ((d2 - d3 - sext 24 (s.blk.rn (WAL_ASYM l)) * ns1 / 1000) / 2)) ∧
          s.blk.RegsBut b (fun a => a / 2 ^ 16 = 0x11 ∨ a / 2 ^ 16 = 0x12) ∧ s.blk.Calm b

/-- From R359, R361, R362, R368, R529. Time parents: eight intervals without a measurement bring ALT into use, or with no ALT set PARENT_LOST and clear LOCKED; a step moves local
time and raises TIME_STEPPED; a PPS edge that has held for 8 ns gives the offset from the second with its delay; a lost CLK10_IN reference clears LOCKED.
Where it rests on the model's readings and choices, entry 86 of the assumption log says which. -/
def Obligations.TimeParents : Prop :=
  ∀ (s : State) (t : Nat), s.blk.alive = true →
    (s.blk.timSource ≠ 0 → s.blk.fb TIM_STATUS_PARENT_LOST = false → s.blk.fb TIM_STATUS_ALT_USED = false →
      s.blk.time.main + 8 * s.blk.parentInterval s.blk.timSource ≤ max s.blk.now t →
      (s.blk.timAlt = 0 → Completes (.parentLost t) s fun b =>
        b.fb TIM_STATUS_PARENT_LOST = true ∧ b.fb TIM_STATUS_LOCKED = false ∧
          (s.blk.fb TIM_STATUS_LOCKED = true → s.blk.Raised b 0xA11 0 s.blk.timSource 1) ∧ s.blk.RegsBut b (· = TIM_STATUS) ∧ s.blk.Calm b) ∧
      (s.blk.timAlt ≠ 0 → Completes (.parentLost t) s fun b =>
        b.fb TIM_STATUS_ALT_USED = true ∧ b.timParent = s.blk.timAlt ∧ s.blk.RegsBut b (· = TIM_STATUS) ∧ s.blk.Calm b)) ∧
    (∀ v : BitVec 48, s.blk.time.ttos = [] → Completes (.timStepWrite v) s fun b =>
      b.fb TIM_STATUS_STEPPED = true ∧
        (b.timUnits : Int) = ((s.blk.timUnits : Int) + v.toInt * 2 ^ 32) % (2 ^ 48 * 1000000000 * 2 ^ 32) ∧
        (s.blk.timSource ≠ 0 → b.fb TIM_STATUS_LOCKED = false) ∧ s.blk.Raised b 0xA12 0 15 (wrapTo 24 (satS 24 v.toInt)) ∧
        s.blk.RegsBut b (· = TIM_STATUS) ∧ s.blk.Calm b) ∧
    (∀ (o : Int) (k : Nat), s.blk.timSource = 2 → s.blk.fb TIM_CFG_SERVO = false → -500000000 * ns1 < o → o ≤ 500000000 * ns1 →
      s.blk.time.pps.out = false → 8 ≤ s.blk.time.pps.run + k → k ≠ 0 →
      (s.blk.fineAt (t - s.blk.time.pps.run) + o) % (1000000000 * ns1) = 0 → Completes (.ppsInEdge t true k) s fun b =>
        b.sval TIM_OFFSET 2 48 = satS 48 (o + sext 16 (s.blk.f TIM_CFG_PPS_DLY) * ns1) ∧ b.fb TIM_STATUS_ALT_USED = false ∧
          b.fb TIM_STATUS_PARENT_LOST = false ∧
          s.blk.RegsBut b (fun a => a = TIM_OFFSET ∨ a = TIM_OFFSET + 1 ∨ a = TIM_STATUS) ∧ s.blk.Calm b) ∧
    (s.blk.fb TIM_CFG_REF10 = true → Completes .clk10InLoss s fun b =>
      b.fb TIM_STATUS_LOCKED = false ∧ s.blk.Raised b 0xA11 0 s.blk.timParent 1 ∧ s.blk.RegsBut b (· = TIM_STATUS) ∧ s.blk.Calm b)

/-- From R365, R366. IEEE 1588: a master owes every Delay_Req an answer with its arrival, and the port sends what it owes first; a one-step Sync from
the parent gives a slave with a known path delay its offset.
Where it rests on the model's readings and choices, entries 87, 88, 89, 174 of the assumption log say which. -/
def Obligations.PtpPort : Prop :=
  ∀ (s : State) (p : Fin 2) (t : Nat) (m : List Byte), s.blk.alive = true → p.val = s.blk.f TIM_PTP_CFG_PORT →
    (34 ≤ m.length → (m.getD 1 0).toNat = 0x12 → (m.getD 4 0).toNat = s.blk.f TIM_PTP_CFG_DOMAIN →
      (ptpType m = 1 → s.blk.ptpMode = 2 → s.blk.fb TIM_PTP_CFG_DELAY = false → Completes (.ptpMessage p t m) s fun b =>
        b.time.owed = s.blk.time.owed ++ [⟨false, ptpSrc m, ptpSeq m, s.blk.fineAt t, ptpCorr m⟩] ∧
          s.blk.RegsBut b (fun _ => False) ∧ s.blk.Calm b) ∧
      (∀ d : Int, ptpType m = 0 → s.blk.ptpMode = 1 → beNat ((ptpSrc m).take 8) = s.blk.val TIM_PTP_PARENT 3 → ptpTwoStep m = false →
        s.blk.time.path = some d → s.blk.timSource = 1 → s.blk.fb TIM_CFG_SERVO = false → Completes (.ptpMessage p t m) s fun b =>
          b.sval TIM_OFFSET 2 48 = satS 48 (d - (s.blk.fineAt t - stampTime (m.drop 34) - ptpCorr m)) ∧
            s.blk.RegsBut b (fun a => a = TIM_OFFSET ∨ a = TIM_OFFSET + 1 ∨ a = TIM_STATUS) ∧ s.blk.Calm b)) ∧
    ∀ (o : PtpOwed) (r : List PtpOwed), s.blk.ptpMode ≠ 0 → s.blk.time.owed = o :: r → o.peer = false → Completes (.ptpSend p t) s fun b =>
      b.time.owed = r ∧
        b.out = .ptp p s.blk.ptpTransport (s.blk.ptpBytes 9 o.seq o.corr (logOctet (s.blk.f TIM_PTP_INT_DREQ)) (ptpStamp o.t2 ++ o.id)) :: s.blk.out ∧
        s.blk.RegsBut b (fun _ => False) ∧ s.blk.Calm b

/-- From R369 to R371. A single pulse armed at least 100 ns ahead waits with ARMED set and leaves at the nanosecond nearest its instant; DISARM ends an output at rest. A filtered edge that
is selected stores one record, and a read takes the oldest or shows VALID 0.
Where it rests on the model's readings and choices, entries 90, 91 of the assumption log say which. -/
def Obligations.TimeInputsAndOutputs : Prop :=
  ∀ (s : State) (n : Fin 4), s.blk.alive = true →
    (s.blk.f (TTO_CFG_MODE n) = 1 →
      s.blk.timFine + 100 * ns1 ≤ recordTime ((List.range 4).map fun i => s.blk.rn (TTO_START n + i)) → Completes (.ttoArm n) s fun b =>
        b.fb (TTO_STATUS_ARMED n) = true ∧
          (∃ x, b.tto n = some x ∧ x.start = recordTime ((List.range 4).map fun i => s.blk.rn (TTO_START n + i)) ∧ x.periodic = false ∧ x.k = 0 ∧
            x.width = (if s.blk.rn (TTO_WIDTH n) = 0 then 2 else s.blk.rn (TTO_WIDTH n)) ∧ x.pol = s.blk.fb (TTO_CFG_POL n)) ∧
          s.blk.RegsBut b (· = TTO_STATUS n) ∧ s.blk.Calm b) ∧
    (s.blk.f (TTO_CFG_MODE n) = 0 ∨ s.blk.f (TTO_CFG_MODE n) = 3 → Completes (.ttoArm n) s fun b => b = s.blk) ∧
    (∀ x : Tto, s.blk.tto n = some x → x.endNs = none →
      (Completes (.ttoDisarm n) s fun b =>
        b.fb (TTO_STATUS_ARMED n) = false ∧ b.tto n = none ∧ s.blk.RegsBut b (· = TTO_STATUS n) ∧ s.blk.Calm b) ∧
      ∀ t : Nat, x.left x.k = true → (x.instant x.k + 32768) / ns1 ≤ (s.blk.advance t).timFine / ns1 → Completes (.ttoEdge n t) s fun b =>
        b.out = .tto n x.pol ((x.instant x.k + 32768) / ns1) :: s.blk.out ∧
          b.tto n = some { x with k := x.k + 1, endNs := some ((x.instant x.k + 32768) / ns1 + x.width) } ∧
          s.blk.RegsBut b (· = TTO_STATUS n) ∧ s.blk.Calm b) ∧
    (∀ (t k q : Nat) (level : Bool) (x : Filt), alook ⟨false, 0⟩ s.blk.time.tcis n = x →
      (x.feed (atLeast1 (s.blk.f (TCI_CFG_FILT_N n))) t k level).2 = some q →
      s.blk.f (TCI_CFG_EDGE n) = 3 ∨ s.blk.f (TCI_CFG_EDGE n) = (if level then 1 else 2) → (s.blk.fifo n).length < 16 →
      Completes (.tciCapture n t level k) s fun b =>
        b.fifo n = s.blk.fifo n ++ [s.blk.fineAt (t - x.run)] ∧ b.f (TCI_STATUS_HELD n) = (s.blk.fifo n).length + 1 ∧
          (s.blk.fb (TCI_CFG_EVT n) = true → ∃ d, s.blk.Raised b 0xA21 n n d) ∧ s.blk.RegsBut b (· = TCI_STATUS n) ∧ s.blk.Calm b) ∧
    ∀ p : Path,
      (s.blk.fifo n = [] → Completes (.tciFifoRead p n) s fun b =>
        (∀ i, i < 4 → b.rn (onPath p (TCI_FIFO n + i)) = 0) ∧ s.blk.OnlyRegs b fun a => ∃ i, i < 4 ∧ a = onPath p (TCI_FIFO n + i)) ∧
      ∀ (x : Int) (r : List Int), s.blk.fifo n = x :: r → r.length < 16 → Completes (.tciFifoRead p n) s fun b =>
        b.fifo n = r ∧ b.f (TCI_STATUS_HELD n) = r.length ∧
          (∀ i, i < 4 → b.rn (onPath p (TCI_FIFO n + i)) = (timeRecord x true).getD i 0) ∧
          s.blk.RegsBut b (fun a => a = TCI_STATUS n ∨ ∃ i, i < 4 ∧ a = onPath p (TCI_FIFO n + i)) ∧ s.blk.Calm b


/-! ### Ingest -/

/-- From R115, R118 to R121. A well-formed datagram whose number lies in the window takes a slot and is staged in image memory; a RESET datagram and the reset command
empty a stream; an ACK carries the next number, the credit and a bitmap; a RETX_REQ names what is missing, and the MAX-th raises INGEST_GAP.
Where it rests on the model's readings and choices, entries 38, 39, 40, 130, 131 of the assumption log say which. -/
def Obligations.IngestStreams : Prop :=
  ∀ (s : State) (k : Fin 4) (t : Nat), s.blk.alive = true →
    (∀ (port : Fin 2) (d : Datagram), s.blk.fb PGE_ING_CFG_EN = true → d.sumOk = true → dgNat d.bytes 0 2 = 0x464E → dgOk d.bytes = true →
      dgNat d.bytes 4 1 % 4 = k → bitOf (s.blk.f STO_STATUS_PLAYING) k = false → s.blk.underTest 9 = false →
      (s.blk.stream k).from d.src = true →
      (dgNat d.bytes 3 1 ≠ 4 → (dgNat d.bytes 8 4 + 2 ^ 32 - s.blk.nextSeq k) % 2 ^ 32 < 64 →
        (s.blk.stream k).held (dgNat d.bytes 8 4) = none → s.blk.stageAddr k (dgNat d.bytes 8 4) + dgNat d.bytes 6 2 ≤ s.blk.capacity →
        (s.blk.stream k).slots.length < 64 → Completes (.ingestDatagramReceive port d) s fun b =>
          (b.stream k).slots = (s.blk.stream k).slots ++ [⟨dgNat d.bytes 8 4, dgNat d.bytes 3 1, dgNat d.bytes 12 2,
            dgNat d.bytes 14 2 % 4096, dgNat d.bytes 16 8, dgNat d.bytes 6 2⟩] ∧
          (b.stream k).bound = some (port.val, d.src) ∧ b.fb (PGE_ING_STATUS_BOUND k) = true ∧
          b.f (PGE_ING_STATUS_CREDIT k) = 63 - (s.blk.stream k).slots.length ∧
          ∀ a, b.memRead a =
            if s.blk.stageAddr k (dgNat d.bytes 8 4) ≤ a ∧ a < s.blk.stageAddr k (dgNat d.bytes 8 4) + dgNat d.bytes 6 2 then
              d.bytes.getD (32 + (a - s.blk.stageAddr k (dgNat d.bytes 8 4))) 0
            else s.blk.memRead a) ∧
      (dgNat d.bytes 3 1 = 4 → s.blk.fb PGE_ING_CFG_REMOTE_RESET = true → Completes (.ingestReset port d) s fun b =>
        b.nextSeq k = dgNat d.bytes 8 4 ∧ b.stream k = Stream.init ∧ b.fb (PGE_ING_STATUS_BOUND k) = false ∧
          s.blk.RegsBut b (fun a => a = PGE_ING_STATUS k ∨ a = PGE_ING_NEXT_SEQ k ∨ a = PGE_ING_NEXT_SEQ k + 1) ∧ s.blk.Calm b)) ∧
    (Completes (.streamReset k) s fun b =>
      b.nextSeq k = 0 ∧ b.stream k = Stream.init ∧ b.fb (PGE_ING_STATUS_BOUND k) = false ∧ b.f (PGE_ING_STATUS_CREDIT k) = 64 ∧
        s.blk.RegsBut b (fun a => a = PGE_ING_STATUS k ∨ a = PGE_ING_NEXT_SEQ k ∨ a = PGE_ING_NEXT_SEQ k + 1) ∧ s.blk.Calm b) ∧
    ∀ (port : Nat) (src : Source), (s.blk.stream k).bound = some (port, src) →
      ((s.blk.stream k).ackNow = true → Completes (.ingestAck k t) s fun b =>
        b.out = .udp port (s.blk.f PGE_ING_CFG_UDP_PORT) src (ingestHeader 0x81 k (s.blk.nextSeq k) (s.blk.stream k).credit
          (bitmap (fun i => ((s.blk.stream k).held ((s.blk.nextSeq k + 1 + i) % 2 ^ 32)).isSome) 64)) :: s.blk.out ∧
          (b.stream k).ackNow = false ∧ (b.stream k).changed = false ∧ (b.stream k).lastAck = max s.blk.now t ∧
          s.blk.RegsBut b (· = PGE_ING_STATUS k) ∧ s.blk.Calm b) ∧
      ∀ since : Nat, (s.blk.stream k).gapSince = some since → s.blk.retxDue (s.blk.stream k) since ≤ max s.blk.now t →
        Completes (.retxReq k t) s fun b =>
          (∃ m, b.out = .udp port (s.blk.f PGE_ING_CFG_UDP_PORT) src (ingestHeader 0x82 k (s.blk.nextSeq k) 0 m) :: s.blk.out) ∧
            b.rn (PGE_ING_RETX_REQS k) = min (s.blk.rn (PGE_ING_RETX_REQS k) + 1) u24max ∧
            (b.stream k).reqs = (s.blk.stream k).reqs + 1 ∧
            ((s.blk.stream k).reqs + 1 = atLeast1 (s.blk.f PGE_ING_RETX_MAX) →
              b.fb (PGE_ING_STATUS_GAP k) = true ∧ s.blk.Raised b 0x20A k k (s.blk.nextSeq k % 2 ^ 24)) ∧
            s.blk.RegsBut b (fun a => a = PGE_ING_STATUS k ∨ a = PGE_ING_RETX_REQS k) ∧ s.blk.Calm b

/-- From R116, R122. Datagrams are applied in their order: DATA writes its payload at BASE + OFFSET of its descriptor and nothing else, BDSET writes the eight words of a
descriptor, DESC puts its page descriptor on the track's ring; each moves the next expected number on and frees its slot.
Where it rests on the model's readings and choices, entries 40, 61, 129 of the assumption log say which. -/
def Obligations.IngestApplying : Prop :=
  ∀ (s : State) (k : Fin 4) (d : Slot), s.blk.alive = true →
    (s.blk.turn k 1 = some d → d.target < 4096 → bitOf (s.blk.rn (bdAddr d.target 0)) 11 = true →
      bits (s.blk.rn (bdAddr d.target 0)) 23 12 = d.gen →
      d.offset + d.len ≤ s.blk.rn (bdAddr d.target 3) + s.blk.rn (bdAddr d.target 4) % 4096 * 2 ^ 24 →
      s.blk.rn (bdAddr d.target 1) + s.blk.rn (bdAddr d.target 2) % 4096 * 2 ^ 24 + d.offset + d.len ≤ s.blk.capacity →
      Completes (.ingestData k .none) s fun b =>
        b.nextSeq k = (d.seq + 1) % 2 ^ 32 ∧ (b.stream k).slots = (s.blk.stream k).slots.filter (fun y => y.seq != d.seq) ∧
          ∀ a, b.memRead a =
            if s.blk.rn (bdAddr d.target 1) + s.blk.rn (bdAddr d.target 2) % 4096 * 2 ^ 24 + d.offset ≤ a ∧
                a < s.blk.rn (bdAddr d.target 1) + s.blk.rn (bdAddr d.target 2) % 4096 * 2 ^ 24 + d.offset + d.len then
              (s.blk.staged k d).getD (a - (s.blk.rn (bdAddr d.target 1) + s.blk.rn (bdAddr d.target 2) % 4096 * 2 ^ 24 + d.offset)) 0
            else s.blk.memRead a) ∧
    (s.blk.turn k 2 = some d → d.target < 4096 → d.len = 32 → Completes (.ingestBdset k) s fun b =>
      b.nextSeq k = (d.seq + 1) % 2 ^ 32 ∧ (b.stream k).slots = (s.blk.stream k).slots.filter (fun y => y.seq != d.seq) ∧
        (∀ i, i < 8 → b.rn (bdAddr d.target i) = (leWords (s.blk.staged k d)).getD i 0 % 2 ^ 24 &&& bdMask i) ∧
        s.blk.RegsBut b (fun a => a / 2 ^ 16 = 0x14 ∨ a = PGE_ING_STATUS k ∨ a = PGE_ING_NEXT_SEQ k ∨ a = PGE_ING_NEXT_SEQ k + 1 ∨
          ∃ i, i < 8 ∧ a = bdAddr d.target i) ∧ s.blk.Calm b) ∧
    (s.blk.turn k 3 = some d → d.target < 4 → d.len = 32 → s.blk.fb (PGE_TRK_CFG_DESC_SRC d.target) = true →
      s.blk.ringFull d.target = false → s.blk.twn.wait = [] → Completes (.ingestDesc k) s fun b =>
        b.nextSeq k = (d.seq + 1) % 2 ^ 32 ∧ b.rn (RING_PROD d.target) = (s.blk.rn (RING_PROD d.target) + 1) % 2 ^ 24 ∧
          (s.blk.ringAddr d.target (s.blk.rn (RING_PROD d.target)) + 32 ≤ s.blk.capacity →
            b.readEntry (s.blk.ringAddr d.target (s.blk.rn (RING_PROD d.target))) = leWords (s.blk.staged k d)))


/-! ### Job store -/

/-- From R402, R405 to R410, R424. Entries of ring 8 that an OPEN store takes: CREATE makes an open reel; APPEND adds the bytes to it; CLOSE and RETIRE wait for what is being programmed, RETIRE marking the
reel at once; STAT reports a reel, LIST the i-th live one, and an unknown operation completes with BAD_OP.
Where it rests on the model's readings and choices, entries 99, 100, 172 of the assumption log say which. -/
def Obligations.StoreReels : Prop :=
  ∀ s : State, s.blk.alive = true →
    (s.blk.StoreTakes 1 → (∀ r ∈ s.blk.sto.reels, r.st ≠ 0) → s.blk.sto.live.length < 4096 → Completes .create s fun b =>
      s.blk.Took8 b ∧ ∃ id : Nat, b.sto.cpls = s.blk.sto.cpls ++ [[65536, s.blk.tag8, id, 0, 0, 0, 0, 0]] ∧
        b.sto.reels = s.blk.sto.reels ++ [⟨id, (List.range 3).map fun i => (s.blk.ringFront 8).getD (i + 2) 0 % 2 ^ 24, s.blk.sto.reelSeq + 1, 0, [], [], [], 0⟩]) ∧
    (∀ (r : Reel) (h : List Byte) (m : Nat), s.blk.StoreTakes 2 → s.blk.twnState ≠ 2 → s.blk.sto.reel s.blk.reel8 = some r → r.st = 0 →
      parseRecs (s.blk.imgRead ((s.blk.ringFront 8).getD 3 0 % 2 ^ 24 + (s.blk.ringFront 8).getD 4 0 % 4096 * 2 ^ 24)
        ((s.blk.ringFront 8).getD 5 0 % 2 ^ 24)) r.hdr r.rem = some (h, m) →
      s.blk.appendFull (s.blk.appended r (s.blk.imgRead ((s.blk.ringFront 8).getD 3 0 % 2 ^ 24 + (s.blk.ringFront 8).getD 4 0 % 4096 * 2 ^ 24)
        ((s.blk.ringFront 8).getD 5 0 % 2 ^ 24)) h m) r ((s.blk.ringFront 8).getD 5 0 % 2 ^ 24) = false → Completes (.append .none) s fun b =>
        s.blk.Took8 b ∧ ∃ r', b.sto.reel s.blk.reel8 = some r' ∧ r'.hdr = h ∧ r'.rem = m ∧
          r'.bytes = r.bytes ++ s.blk.imgRead ((s.blk.ringFront 8).getD 3 0 % 2 ^ 24 + (s.blk.ringFront 8).getD 4 0 % 4096 * 2 ^ 24)
            ((s.blk.ringFront 8).getD 5 0 % 2 ^ 24)) ∧
    (∀ (r : Reel) (p : Prog) (q : List Prog), s.blk.sto.reel s.blk.reel8 = some r → s.blk.sto.progs = p :: q → p.first < s.blk.sto.wrote →
      (s.blk.StoreTakes 3 → r.st = 0 → r.hdr = [] → r.rem = 0 → Completes .close s fun b =>
        s.blk.Took8 b ∧ ∃ o ∈ b.sto.ops, o.op = 3 ∧ o.tag = s.blk.tag8 ∧ o.reel = s.blk.reel8 ∧ o.mark = b.sto.wrote) ∧
      (s.blk.StoreTakes 6 → r.st = 1 → s.blk.sto.plays = [] → Completes .retire s fun b =>
        s.blk.Took8 b ∧ (∃ o ∈ b.sto.ops, o.op = 6 ∧ o.tag = s.blk.tag8 ∧ o.reel = s.blk.reel8 ∧ o.mark = b.sto.wrote) ∧
          ∃ r', b.sto.reel s.blk.reel8 = some r' ∧ r'.st = 2)) ∧
    (∀ r : Reel, s.blk.StoreTakes 7 → s.blk.sto.reel s.blk.reel8 = some r → Completes .stat s fun b =>
      s.blk.Took8 b ∧ b.sto.cpls = s.blk.sto.cpls ++ [[7 * 65536 + r.st, s.blk.tag8, s.blk.reel8, r.bytes.length % 2 ^ 24,
        r.bytes.length / 2 ^ 24 % 2 ^ 24, r.name.getD 0 0, r.name.getD 1 0, r.name.getD 2 0]] ∧ b.sto.reels = s.blk.sto.reels) ∧
    (∀ r : Reel, s.blk.StoreTakes 8 → s.blk.sto.live[s.blk.reel8]? = some r → Completes .list s fun b =>
      s.blk.Took8 b ∧ b.sto.cpls = s.blk.sto.cpls ++ [[8 * 65536, s.blk.tag8, r.id, 0, 0, 0, 0, 0]] ∧ b.sto.reels = s.blk.sto.reels) ∧
    ∀ op : Nat, op = 0 ∨ 10 < op → s.blk.StoreTakes op → Completes .badOp s fun b =>
      s.blk.Took8 b ∧ b.sto.cpls = s.blk.sto.cpls ++ [[op * 65536 + 9 * 256, s.blk.tag8, 0, 0, 0, 0, 0, 0]] ∧ b.sto.reels = s.blk.sto.reels

/-- From R412, R421 to R423. PLAY of a closed reel binds a free stream to the store and starts at the reel's first record; STOP_PLAY ends it at the next record, with STOPPED; a
BDSET record that is read and waits for no lease, or no longer, sets its descriptor with the bias of the PLAY; a NAND read counts the bits corrected at
the first step of the ladder that decodes, and is noted for its PLAY; READ waits for the codewords it spans.
Where it rests on the model's readings and choices, entries 103, 173 of the assumption log say which. -/
def Obligations.StorePlaying : Prop :=
  ∀ s : State, s.blk.alive = true →
    (∀ (r : Reel) (k : Nat), s.blk.StoreTakes 4 → s.blk.sto.reel s.blk.reel8 = some r → r.st = 1 →
      bits ((s.blk.ringFront 8).headD 0) 13 12 = k → (∀ e ∈ s.blk.sto.plays, e.1 ≠ k) → Completes .play s fun b =>
        s.blk.Took8 b ∧ b.nextSeq k = 0 ∧ b.fb (PGE_ING_STATUS_BOUND k) = true ∧ bitOf (b.f STO_STATUS_PLAYING) k = true ∧
          ∃ p, b.sto.plays.find? (fun e => e.1 == k) = some (k, p) ∧ p.reel = s.blk.reel8 ∧ p.tag = s.blk.tag8 ∧ p.off = 0 ∧ p.pass = 0 ∧
            p.track = bits ((s.blk.ringFront 8).headD 0) 9 8) ∧
    (s.blk.StoreTakes 5 → (∃ e ∈ s.blk.sto.plays, e.1 = bits ((s.blk.ringFront 8).headD 0) 13 12) → Completes .stopPlay s fun b =>
      s.blk.Took8 b ∧ b.sto.cpls = s.blk.sto.cpls ++ [[5 * 65536, s.blk.tag8, 0, 0, 0, 0, 0, 0]] ∧
        ∀ e ∈ b.sto.plays, e.1 = bits ((s.blk.ringFront 8).headD 0) 13 12 → e.2.stop = true) ∧
    (∀ (k : Fin 4) (p : Play) (r : Reel), s.blk.sto.plays.find? (fun e => e.1 == k.val) = some (k.val, p) → s.blk.sto.reel p.reel = some r →
      s.blk.underTest 9 = false → s.blk.twn.wait = [] →
      (p.stop = true → p.rep = 0 → Completes (.playRecord k) s fun b =>
        (∀ e ∈ b.sto.plays, e.1 ≠ k.val) ∧ b.nextSeq k = 0 ∧ b.fb (PGE_ING_STATUS_BOUND k) = false ∧
          b.sto.cpls = s.blk.sto.cpls ++ [[4 * 65536 + 7 * 256, p.tag, p.reel, p.applied % 2 ^ 24, p.applied / 2 ^ 24 % 2 ^ 24, 0, 0, 0]]) ∧
      (p.stop = false → p.pass = 0 → p.off + 64 ≤ r.bytes.length → recOk (slice r.bytes p.off 32) = true → dgNat (slice r.bytes p.off 32) 3 1 = 2 →
        dgNat (slice r.bytes p.off 32) 6 2 = 32 → (∀ i ∈ r.span p.off 64, i ∈ p.done ∧ i ∉ p.bads) →
        s.blk.leased ((dgNat (slice r.bytes p.off 32) 12 2 + p.bdOfs) % 4096) = false →
        ∀ c : Instr, c = .playRecord k ∨ (p.held = true ∧ c = .leaseWaitEnd k) → Completes c s fun b =>
          (∀ i, i < 8 → b.rn (bdAddr ((dgNat (slice r.bytes p.off 32) 12 2 + p.bdOfs) % 4096) i) =
            (leWords (biasBdset p (slice r.bytes (p.off + 32) 32))).getD i 0 % 2 ^ 24 &&& bdMask i) ∧
            ∃ q, b.sto.plays.find? (fun e => e.1 == k.val) = some (k.val, q) ∧ q.off = p.off + 64 ∧ q.applied = p.applied + 1 ∧ q.held = false)) ∧
    (∀ (x : ReadResult) (k i n : Nat) (p : Play) (r : Reel) (c : Cw), s.blk.sto.reads.find? (fun e => e.1 == x.tag) = some (x.tag, .play k i) →
      s.blk.sto.plays.find? (fun e => e.1 == k) = some (k, p) → s.blk.sto.reel p.reel = some r → r.cws[i]? = some c →
      (ladderOf s.blk.retryMax x).2 = some n → c.bad = false →
      s.blk.refreshNow (ladderOf s.blk.retryMax x) = false → Completes (.nandReadDone x) s fun b =>
        b.rn STO_CE_BITS = min (s.blk.rn STO_CE_BITS + n) u24max ∧
          ∃ q, b.sto.plays.find? (fun e => e.1 == k) = some (k, q) ∧ q.done = i :: p.done ∧ q.bads = p.bads) ∧
    ∀ r : Reel, s.blk.StoreTakes 9 → s.blk.sto.reel s.blk.reel8 = some r → r.st ≠ 2 →
      r.span ((s.blk.ringFront 8).getD 6 0 % 2 ^ 24 + (s.blk.ringFront 8).getD 7 0 % 2 ^ 24 * 2 ^ 24)
        (min ((s.blk.ringFront 8).getD 5 0 % 2 ^ 24)
          (r.bytes.length - ((s.blk.ringFront 8).getD 6 0 % 2 ^ 24 + (s.blk.ringFront 8).getD 7 0 % 2 ^ 24 * 2 ^ 24))) ≠ [] →
      Completes .storeRead s fun b =>
        s.blk.Took8 b ∧ ∃ o ∈ b.sto.ops, o.op = 9 ∧ o.tag = s.blk.tag8 ∧ o.reel = s.blk.reel8 ∧
          o.dest = (s.blk.ringFront 8).getD 3 0 % 2 ^ 24 + (s.blk.ringFront 8).getD 4 0 % 4096 * 2 ^ 24 ∧
          o.len = min ((s.blk.ringFront 8).getD 5 0 % 2 ^ 24)
            (r.bytes.length - ((s.blk.ringFront 8).getD 6 0 % 2 ^ 24 + (s.blk.ringFront 8).getD 7 0 % 2 ^ 24 * 2 ^ 24)) ∧ o.unc = false

/-- From R397 to R401, R403, R408, R415 to R418, R426, R46. The store opens on one usable target with good tables, a log and its key; completions are posted on ring 9; a page
is flushed and programmed, which closes a reel that waits for it and ends a quiesce; a block that fails is retired; an erase frees its band; patrol
reads every codeword of a live band; FORMAT empties the store; loss of the store PLL fails it.
Where it rests on the model's readings and choices, entries 95, 96, 97, 98, 101, 102, 156, 168, 169, 171, 173 of the assumption log say which. -/
def Obligations.StoreMaintenance : Prop :=
  ∀ (s : State) (t : Nat), s.blk.alive = true →
    (∀ (x : OpenIn) (g : NandTarget) (l : FoundLog), s.blk.stoState = 0 ∨ s.blk.stoState = 4 → x.targets = [g] → g.ce < 32 →
      bitOf (s.blk.val STO_CE_MAP 2) g.ce = true → geoOk g = true →
      g.luns * g.planes * g.blocks * g.pages * g.kib * 1024 ≤ 2 ^ 45 → x.copy0.magic = true → x.copy0.ok = true →
      x.copy1.magic = true → x.copy1.ok = true → x.log = some l → x.keyOk = true → l.wrapK = s.blk.fuse.k → Completes (.storeOpen x) s fun b =>
        b.stoState = 2 ∧ b.f STO_STATUS_FAIL_CAUSE = 0 ∧ b.sto.reels = l.reels.map reelOf ∧
          s.blk.Raised b 0xC01 0 (b.rn STO_REELS) (b.rn STO_BANDS_FREE)) ∧
    (∀ (ws : List Nat) (r : List (List Nat)), s.blk.sto.cpls = ws :: r → s.blk.ringFull 9 = false → Completes .completionPost s fun b =>
      b.sto.cpls = r ∧ b.rn (RING_PROD 9) = (s.blk.rn (RING_PROD 9) + 1) % 2 ^ 24 ∧
        (s.blk.ringAddr 9 (s.blk.rn (RING_PROD 9)) + 32 ≤ s.blk.capacity →
          b.readEntry (s.blk.ringAddr 9 (s.blk.rn (RING_PROD 9))) = (List.range 8).map fun i => ws.getD i 0 % 2 ^ 32)) ∧
    (∀ (g : Geo) (n : Nat), s.blk.sto.geo = some g → s.blk.sto.head = some n → s.blk.sto.fill ≠ [] → s.blk.underTest 12 = false →
      s.blk.sto.queue = [] → s.blk.sto.mayHold s.blk.sto.fillRing = true →
      s.blk.sto.lastByte + 250 * atLeast1 (s.blk.f STO_CFG_FLUSH_US) ≤ max s.blk.now t → Completes (.flushTimer t) s fun b =>
        b.sto.fill = [] ∧ ∃ p, b.sto.progs = s.blk.sto.progs ++ [p] ∧ p.band = n ∧ p.page = s.blk.sto.page ∧
          p.cws = s.blk.sto.fill ++ List.replicate (s.blk.sto.pageCws g n - s.blk.sto.fill.length) ⟨0, 0, 0, 0, 0xff⟩ ∧
          b.out = .program n s.blk.sto.page (p.cws.map fun c => (s.blk.sto.cwMeta c, s.blk.sto.cwData c)) :: s.blk.out) ∧
    (∀ p : Prog, s.blk.sto.progs = [p] → s.blk.sto.queue = [] →
      (∀ (o : StoOp) (r : Reel), s.blk.sto.ops = [o] → o.op = 3 → o.mark ≤ s.blk.sto.wrote - s.blk.sto.fill.length → s.blk.sto.reel o.reel = some r → r.st = 0 →
        Completes .bandPageProgrammed s fun b =>
          b.sto.progs = [] ∧ b.sto.reel o.reel = some { r with st := 1 } ∧
            b.sto.cpls = s.blk.sto.cpls ++ [[3 * 65536, o.tag, o.reel, o.len % 2 ^ 24, o.len / 2 ^ 24 % 2 ^ 24, 0, 0, 0]]) ∧
      (s.blk.sto.quiesce = true → s.blk.sto.ops = [] → Completes .bandPageProgrammed s fun b =>
        b.stoState = 0 ∧ b.sto.quiesce = false ∧ s.blk.Calm b) ∧
      (s.blk.stoState = 2 → Completes .quiesce s fun b => b.stoState = 2 ∧ b.sto.quiesce = true ∧ b.sto.plays = []) ∧
      ∀ (g : Geo) (k : NandBlk), s.blk.sto.geo = some g → k.block = p.band → Completes (.programFail k) s fun b =>
        k ∈ b.sto.bad ∧ b.rn STO_BAD_BLOCKS = min u24max b.sto.bad.length ∧
          s.blk.Raised b 0xC04 0 (k.ce % 32 * 2 ^ 19 + k.lun % 4 * 2 ^ 17 + k.plane % 4 * 2 ^ 15) (k.block % 2 ^ 24)) ∧
    (∀ (e : Nat × Nat) (q : List (Nat × Nat)), s.blk.stoState ≠ 5 → s.blk.sto.erasing = e :: q →
      s.blk.f STO_MAINT_CFG_WEAR_SPREAD = 0 → Completes (.eraseDone none) s fun b =>
        q <+: b.sto.erasing ∧ (b.sto.band e.2).used = false ∧ (b.sto.band e.2).erase = (s.blk.sto.band e.2).erase + 1 ∧
          b.sto.bad = s.blk.sto.bad ∧ s.blk.Calm b) ∧
    (∀ e : Nat × Band, s.blk.stoState = 2 → s.blk.f STO_MAINT_CFG_PATROL_DAYS ≠ 0 → s.blk.underTest 12 = false →
      s.blk.sto.bands.find? (fun e => e.2.used && s.blk.sto.holds (fun r => r.st != 2) e.1 &&
        decide (e.2.patrolAt + s.blk.f STO_MAINT_CFG_PATROL_DAYS * dayClks ≤ max s.blk.now t)) = some e → Completes (.patrolRead t) s fun b =>
        (∀ r ∈ s.blk.sto.live, ∀ c ∈ r.cws, c.band = e.1 →
          (r.seq, c.off) ∈ b.sto.patrols ∨ ∃ tag, (tag, ReadFor.patrol r.seq c.off) ∈ b.sto.reads) ∧
          (b.sto.band e.1).patrolAt = max s.blk.now t ∧ s.blk.Calm b) ∧
    (∀ (rand : List Byte) (marks : List NandBlk), s.blk.StoreTakes 10 → s.blk.sto.geo.isSome = true → s.blk.reel8 = 0x464D54 →
      Completes (.format rand marks) s fun b =>
        s.blk.Took8 b ∧ b.stoState = 5 ∧ b.sto.reels = [] ∧ b.sto.plays = [] ∧ b.sto.key = rand ∧ ∀ k ∈ marks, k ∈ b.sto.bad) ∧
    Completes .storePllLockLoss s fun b =>
      b.stoState = 4 ∧ b.f STO_STATUS_FAIL_CAUSE = 5 ∧ b.sto.ops = [] ∧ b.sto.progs = [] ∧ b.sto.reads = [] ∧ s.blk.Calm b


/-! ### Reset, start-up and life cycle -/

/-- From R46, R427, R446, R504, R505, R520. Every way into reset leaves each register at its reset value but SYS_RESET_CAUSE, which shows the cause, keeps the fuses but for those a
life-cycle change blows, the first of which generates SECRET, a free value, and does not take back what has left the part; a valid SYS_RESET write is carried out 100 µs later, and a wrong key
sets RESET_KEY. The supply monitor's release lets the upsett begin. A PLL that loses lock makes an ACTIVE unit fail (R46).
Where it rests on the model's readings and choices, entries 5, 108, 114 of the assumption log say which. -/
def Obligations.Resets : Prop :=
  ∀ s : State,
    (∀ (c : Instr) (ph : Phase) (cause : Nat) (fu : Fuse),
      (s.blk.sys.phase = .up ∧ c = .resetNAssert ∧ ph = .ready ∧ cause = 1 ∧ fu = s.blk.fuse) ∨
        (s.blk.sys.phase = .up ∧ c = .supplyMonitorReset ∧ ph = .supply ∧ cause = 1 ∧ fu = s.blk.fuse) ∨
        (s.blk.sys.resetAt.isSome = true ∧ c = .softwareResetExpiry ∧ ph = .ready ∧ cause = 2 ∧ fu = s.blk.fuse) ∨
        (s.blk.sys.phase = .change ∧ c = .lifecycleReset false ∧ ph = .ready ∧ cause = 8 ∧ fu = s.blk.fuse) ∨
        (s.blk.sys.phase = .change ∧ s.blk.f SEC_LC_TARGET_STATE = 4 ∧ c = .lifecycleReset true ∧ ph = .ready ∧ cause = 8 ∧
          fu = { s.blk.fuse with retire := true }) ∨
        (s.blk.sys.phase = .change ∧ s.blk.f SEC_LC_TARGET_STATE ≠ 4 ∧ s.blk.fuse.k ≠ 0 ∧ c = .lifecycleReset true ∧ ph = .ready ∧ cause = 8 ∧
          fu = { s.blk.fuse with k := s.blk.fuse.k + 1 }) ∨
        (s.blk.sys.phase = .change ∧ s.blk.f SEC_LC_TARGET_STATE ≠ 4 ∧ s.blk.fuse.k = 0 ∧ c = .lifecycleReset true ∧ ph = .ready ∧ cause = 8 ∧
          fu = { s.blk.fuse with k := 1, secret := (Config.secret s.blk.freeN).toNat }) →
      Completes c s fun b =>
        b.sys.phase = ph ∧ b.rn SYS_RESET_CAUSE = cause ∧ (∀ a, a ≠ SYS_RESET_CAUSE → b.reg a = resetWord a) ∧ b.fuse = fu ∧
          b.out = s.blk.out ∧ b.held = [] ∧ b.evq = [] ∧ s.blk.now ≤ b.now) ∧
    (s.blk.sys.phase = .supply → Completes .supplyMonitorRelease s fun b =>
      b = { s.blk with sys := { s.blk.sys with phase := .ready } }) ∧
    (∀ w : Word, s.blk.sys.phase = .up → w.toNat % 2 = 1 →
      (w.toNat / 256 = 0x5253 → s.blk.sys.resetAt = none → Completes (.sysReset w) s fun b =>
        b = { s.blk with sys := { s.blk.sys with resetAt := some s.blk.now } }) ∧
      (w.toNat / 256 ≠ 0x5253 → Completes (.sysReset w) s fun b =>
        b.fb SYS_ERR_RESET_KEY = true ∧ b.sys = s.blk.sys ∧ s.blk.OnlyRegs b (· = SYS_ERR))) ∧
    ∀ p : Pll, s.blk.alive = true → s.blk.allIdle = false → Completes (.pllLockLoss p) s fun b =>
        b.fb TWN_HEALTH_CLOCK = true ∧ (∃ d0 d1, s.blk.Raised b 0x010 0 d0 d1) ∧
          (s.blk.twnState = 2 → s.blk.fb TWN_HEALTH_CLOCK = false → b.twnState = 5 ∧ b.fb TWN_HEALTH_CLAIM_HELD = false)

/-- From R429, R436 to R443. The upsett senses the fuses, which only a part in BLANK takes new values into, and draws a session; a retired part holds
with cause RETIRED, and a part neither copy of whose skein passes its checks with cause SKEIN and the cause of each; a set that fails to train at
boot holds it with cause DRAM; otherwise the loaded copy's values are in force, the image memory is trained and wiped, and the blocks go to work.
Whether a copy loads is a condition on the fuses and the bytes of the copies alone, as is whether the sets train.
Where it rests on the model's readings and choices, entries 11, 104, 105, 106 of the assumption log say which. -/
def Obligations.StartUp : Prop :=
  ∀ (s : State) (x : UpsettIn), s.blk.sys.phase = .ready →
    (s.blk.fuse.retire = true → Completes (.upsett x) s fun b =>
      b.holding = true ∧ b.f SKN_STATUS_STEP = 15 ∧ b.f SKN_STATUS_HOLD_CAUSE = 3 ∧ b.sys.phase = .up ∧
        b.fuse = s.blk.fuse ∧ b.val ETH_MGMT_SESSION 2 ≠ 0) ∧
    (s.blk.fuse.state ≠ 4 →
      let f := (s.blk.upsettFirst x).fuse
      let l := (s.blk.upsettFirst x).loadSkein x
      let w := l.1.loaded.trainAndWipe x
      (f.dieId = (if s.blk.fuse.k = 0 then s.blk.fuse.dieId ||| x.fuses.dieId.toNat else s.blk.fuse.dieId)) ∧
      (copyCause f x (copyRoom x) x.copy0 ≠ 0 → copyCause f x (copyRoom x) x.copy1 ≠ 0 → Completes (.upsett x) s fun b =>
        b.holding = true ∧ b.f SKN_STATUS_STEP = 15 ∧ b.f SKN_STATUS_HOLD_CAUSE = 1 ∧ b.f SKN_STATUS_CAUSE0 = copyCause f x (copyRoom x) x.copy0 ∧
          b.f SKN_STATUS_CAUSE1 = copyCause f x (copyRoom x) x.copy1 ∧ b.sys.phase = .up ∧ b.fuse = f) ∧
      ∀ st : Option (Bool × Nat), l.2 = some st →
        (w.2 = none → Completes (.upsett x) s fun b =>
          b.holding = true ∧ b.f SKN_STATUS_HOLD_CAUSE = 2 ∧ b.fb DRM_STATUS_FATAL = true) ∧
        ∀ k : Nat, w.2 = some k → w.1.fb DRM_STATUS_WIPED = true ∧ Completes (.upsett x) s fun b =>
          b = (w.1.upsettEnd x st k).drawSession ∧ b.val ETH_MGMT_SESSION 2 ≠ 0)

/-- From R440, R444, R445. An allowed life-cycle change with its key and supply, at rest and not ACTIVE, makes the part busy with its lanes off; one that R444 does not allow is refused
with cause 1 and blows nothing. A flash command is sent unless one is under way, a PROGRAM across a page sets ERR; a READ that ends leaves its
bytes in SKN_FLASH_DATA; a program or an erase ends with ERR where it has taken longer than 5 ms or 2 s, and a command that is not done goes on.
Where it rests on the model's readings and choices, entries 107, 108, 176 of the assumption log say which. -/
def Obligations.LifeCycleAndFlash : Prop :=
  ∀ s : State, s.blk.sys.phase = .up →
    (s.blk.allIdle = true → (∀ n, n < 6 → s.blk.axState n = 0) → s.blk.twnState ≠ 2 →
      lcNext s.blk.fuse.state s.blk.fuse.k (s.blk.f SEC_LC_TARGET_STATE) = true → Completes (.lifecycleChange 0x4c4321 true) s fun b =>
        b.sys.phase = .change ∧ b.sys.lcFrom = some s.blk.fuse.state ∧ b.fb SEC_LC_STATUS_LC_BUSY = true ∧
          (∀ n, n < 44 → b.laneState n = 0) ∧ b.sto.plays = [] ∧ b.fuse = s.blk.fuse) ∧
    (∀ (w : Word) (v : Bool), lcNext s.blk.fuse.state s.blk.fuse.k (s.blk.f SEC_LC_TARGET_STATE) = false → Completes (.lifecycleChange w v) s fun b =>
      b.fb SEC_LC_STATUS_LC_REJ = true ∧ b.f SEC_LC_STATUS_REJ_CAUSE = 1 ∧ b.fb SEC_LC_STATUS_VFUSE_OK = v ∧
        s.blk.OnlyRegs b (· = SEC_LC_STATUS)) ∧
    (s.blk.fb SKN_FLASH_CTRL_BUSY = false →
      (∀ (c : Instr) (op : Nat), (c = .sknFlashRead ∧ op = 0) ∨ (c = .sknFlashErase4k ∧ op = 2) ∨ (c = .sknFlashErase64k ∧ op = 3) →
        Completes c s fun b =>
          b.fb SKN_FLASH_CTRL_BUSY = true ∧ b.out = .flash op (s.blk.val SKN_FLASH_ADDR 2) [] :: s.blk.out ∧
            b.sys.flash = some ⟨op, s.blk.val SKN_FLASH_ADDR 2, s.blk.f SKN_FLASH_CTRL_COUNT_M1 + 1, s.blk.now⟩ ∧
            s.blk.RegsBut b (· = SKN_FLASH_CTRL) ∧ s.blk.Calm b) ∧
      (s.blk.val SKN_FLASH_ADDR 2 % 256 + s.blk.f SKN_FLASH_CTRL_COUNT_M1 + 1 ≤ 256 → Completes .sknFlashProgram s fun b =>
        b.fb SKN_FLASH_CTRL_BUSY = true ∧
          b.out = .flash 1 (s.blk.val SKN_FLASH_ADDR 2) (s.blk.flashData (s.blk.f SKN_FLASH_CTRL_COUNT_M1 + 1)) :: s.blk.out ∧
          b.sys.flash = some ⟨1, s.blk.val SKN_FLASH_ADDR 2, s.blk.f SKN_FLASH_CTRL_COUNT_M1 + 1, s.blk.now⟩ ∧
          s.blk.RegsBut b (· = SKN_FLASH_CTRL) ∧ s.blk.Calm b) ∧
      (256 < s.blk.val SKN_FLASH_ADDR 2 % 256 + s.blk.f SKN_FLASH_CTRL_COUNT_M1 + 1 → Completes .sknFlashProgram s fun b =>
        b.fb SKN_FLASH_CTRL_ERR = true ∧ s.blk.OnlyRegs b (· = SKN_FLASH_CTRL))) ∧
    ∀ (x : FlashCmd) (t : Nat) (data : List Byte), s.blk.sys.flash = some x →
      (x.op = 0 → x.n ≤ 256 → Completes (.flashCommandEnd t true data) s fun b =>
        b.fb SKN_FLASH_CTRL_BUSY = false ∧ b.flashData x.n = slice data 0 x.n ∧ b.sys.flash = none ∧
          s.blk.RegsBut b (fun a => a = SKN_FLASH_CTRL ∨ ∃ i, i < 86 ∧ a = SKN_FLASH_DATA i) ∧ s.blk.Calm b) ∧
      (x.op ≠ 0 → max s.blk.now t ≤ x.start + flashLimit x.op → Completes (.flashCommandEnd t true data) s fun b =>
        b.fb SKN_FLASH_CTRL_BUSY = false ∧ b.fb SKN_FLASH_CTRL_ERR = s.blk.fb SKN_FLASH_CTRL_ERR ∧ b.sys.flash = none ∧
          s.blk.RegsBut b (· = SKN_FLASH_CTRL) ∧ s.blk.Calm b) ∧
      (∀ done : Bool, x.op ≠ 0 → x.start + flashLimit x.op < max s.blk.now t → Completes (.flashCommandEnd t done data) s fun b =>
        b.fb SKN_FLASH_CTRL_BUSY = false ∧ b.fb SKN_FLASH_CTRL_ERR = true ∧ b.sys.flash = none ∧
          s.blk.RegsBut b (· = SKN_FLASH_CTRL) ∧ s.blk.Calm b) ∧
      (x.op = 0 ∨ max s.blk.now t ≤ x.start + flashLimit x.op → Completes (.flashCommandEnd t false data) s fun b =>
        b.sys.flash = some x ∧ s.blk.RegsBut b (fun _ => False) ∧ s.blk.Calm b)

/-! ### Self-test and trims -/

/-- From R152, R451, R453, R454, R457, R459. Requests are merged and wait while a test is under way, and at idle start at once; a cancel clears them; a rest of S8 starts its test, and one of
another stake its handover; a handover that has composed alike gives the span to S8 and tests the stake; a passed test of a unit clears its
request and shows its signature; the stake-repair fuse is blown in SERVICE with its key, and refused elsewhere.
Where it rests on the model's readings and choices, entries 110, 111, 175 of the assumption log say which. -/
def Obligations.StakesAndTests : Prop :=
  ∀ s : State, s.blk.alive = true →
    (∀ w : Word, s.blk.fuse.repair = none →
      (s.blk.bst.phase ≠ 0 → Completes (.bstReq w) s fun b =>
        b.rn BST_REQ = s.blk.rn BST_REQ ||| w.toNat % 2 ^ 13 ∧
          b.fb BST_STATUS_MERGED = (s.blk.fb BST_STATUS_MERGED || w.toNat % 2 ^ 13 &&& s.blk.rn BST_REQ != 0) ∧
          s.blk.OnlyRegs b (fun a => a = BST_REQ ∨ a = BST_STATUS)) ∧
      (∀ u, u < 9 → w.toNat = 2 ^ u → s.blk.rn BST_REQ = 0 → s.blk.bst.phase = 0 → s.blk.fb BST_STATUS_BUSY = false → s.blk.allIdle = true →
        Completes (.bstReq w) s fun b =>
          b.fb BST_STATUS_BUSY = true ∧ b.f BST_STATUS_UNIT = u ∧ b.rn BST_REQ = 2 ^ u ∧
            s.blk.RegsBut b (fun a => a = BST_REQ ∨ a = BST_STATUS) ∧ s.blk.Calm b)) ∧
    (s.blk.bst.phase = 0 → s.blk.fb BST_STATUS_BUSY = false → Completes .bstCancel s fun b =>
      b.rn BST_REQ = 0 ∧ (s.blk.rn BST_REQ ≠ 0 → ∃ t f, s.blk.Raised b 0xD03 0 t f) ∧ s.blk.RegsBut b (· = BST_REQ) ∧ s.blk.Calm b) ∧
    (∀ t : Nat, s.blk.bst.phase = 0 → s.blk.fb BST_STATUS_BUSY = false → s.blk.fb BST_STATUS_ROT_STOPPED = false → s.blk.fb BST_CFG_ROT_EN = true →
      s.blk.bst.restEnd + 250000 * atLeast1 (s.blk.f BST_CFG_REST_MS) ≤ max s.blk.now t → s.blk.allIdle = false →
      (s.blk.bst.next = 8 → Completes (.restStart t) s fun b =>
        b.fb BST_STATUS_BUSY = true ∧ b.f BST_STATUS_UNIT = 8 ∧ s.blk.RegsBut b (· = BST_STATUS) ∧ s.blk.Calm b) ∧
      (s.blk.bst.next < 8 → Completes (.restStart t) s fun b =>
        b.f CMP_STAKE_STATUS_HANDOVER = s.blk.bst.next ∧ b.cmp.hand = some ⟨s.blk.bst.next, true, 0⟩ ∧
          s.blk.RegsBut b (· = CMP_STAKE_STATUS) ∧ s.blk.Calm b)) ∧
    (∀ x : Handover, s.blk.cmp.hand = some x → x.toBye = true → x.stake < 8 → x.g ≠ 0 → x.g ≤ s.blk.fireNum →
      Completes (.stakeHandover none) s fun b =>
        b.cmp.hand = none ∧ b.f CMP_STAKE_STATUS_HANDOVER = 15 ∧ b.f CMP_STAKE_STATUS_BYE_FOR = x.stake ∧
          b.rn CMP_HANDOVERS = min (s.blk.rn CMP_HANDOVERS + 1) u24max ∧ (∃ l, s.blk.Raised b 0x301 x.stake (x.stake * 16 + 8) l) ∧
          b.fb BST_STATUS_BUSY = true ∧ b.f BST_STATUS_UNIT = x.stake ∧
          s.blk.RegsBut b (fun a => a = CMP_STAKE_STATUS ∨ a = CMP_HANDOVERS ∨ a = BST_STATUS) ∧ s.blk.Calm b) ∧
    (∀ (t : Nat) (sig : BitVec 48) (u : Nat), s.blk.fb BST_STATUS_BUSY = true → s.blk.bst.startAt + s.blk.testClks ≤ max s.blk.now t →
      s.blk.f BST_STATUS_UNIT = u → 9 ≤ u → u < 13 → s.blk.rn BST_REQ = 2 ^ u → alook 0 s.blk.bst.seeds u < 16 →
      Completes (.lbistTestEnd t sig true) s fun b =>
        b.fb BST_STATUS_BUSY = false ∧ b.rn BST_REQ = 0 ∧ b.val BST_SIG 2 = sig.toNat ∧ b.f BST_LAST_UNIT = u ∧ b.f BST_LAST_SEED = alook 0 s.blk.bst.seeds u ∧
          b.fb BST_LAST_PASS = true ∧
          bitOf (b.rn BST_FAIL) u = false ∧ (∃ t f, s.blk.Raised b 0xD03 0 t f) ∧
          s.blk.RegsBut b (fun a => a = BST_STATUS ∨ a = BST_REQ ∨ a = BST_SIG ∨ a = BST_SIG + 1 ∨ a = BST_LAST ∨ a = BST_FAIL) ∧ s.blk.Calm b) ∧
    ∀ (w : Word) (v : Bool),
      (s.blk.fuse.state = 3 → v = true → s.blk.fuse.repair = none → w.toNat % 16 ≤ 7 → w.toNat / 256 = 0x5250 → s.blk.allIdle = true →
        Completes (.stakeRepair w v) s fun b =>
          b.fuse = { s.blk.fuse with repair := some (w.toNat % 16) } ∧ b.rn BST_FUSE = 16 + w.toNat % 16 ∧
            s.blk.Raised b 0xD08 (w.toNat % 16) (w.toNat % 16) 0) ∧
      (s.blk.fuse.state ≠ 3 ∨ v = false → Completes (.stakeRepair w v) s fun b =>
        b.fb BST_STATUS_REP_REJ = true ∧ b.f BST_STATUS_REP_CAUSE = 1 ∧
          s.blk.OnlyRegs b (fun a => a = BST_STATUS ∨ a = SEC_LC_STATUS))

/-- From R461 to R465, R467. A conversion stores the readings and the highest; 125 °C resets the part. Rounds hold what they compute, requests wait, and a held value is applied at its
boundary within its range, where a value at a bound raises TRIM_LIMIT. CLEAR zeroes one counter, and the groups start and stop together.
Where it rests on the model's readings and choices, entries 112, 113 of the assumption log say which. -/
def Obligations.TrimsAndCounters : Prop :=
  ∀ (s : State) (t : Nat), s.blk.alive = true →
    (∀ (temps : List (Option Int)) (i : Nat) (v : Int), s.blk.trm.convAt + 25000 ≤ max s.blk.now t → hottest temps = some (i, v) →
      (∀ h ∈ s.blk.trm.held, h.kind ≠ 4) →
      (v < 1000 → v < s.blk.sf TRM_DIE_LIM_SHUT → Completes (.dieTempConversion t temps) s fun b =>
        b.f TRM_DIE_MAX_SENSOR = i ∧ b.f TRM_DIE_MAX_TEMP = wrapTo 12 (satS 12 v) ∧
          (∀ j, j < 8 → b.fb (TRM_DIE_TEMP_VALID j) = (temps.getD j none).isSome) ∧
          (s.blk.sf TRM_DIE_LIM_WARN ≤ v → b.fb TRM_DIE_STATUS_WARN = true) ∧
          s.blk.RegsBut b (fun a => a = TRM_DIE_MAX ∨ a = TRM_DIE_STATUS ∨ ∃ j, j < 8 ∧ a = TRM_DIE_TEMP j) ∧ s.blk.Calm b) ∧
      (1000 ≤ v → Completes (.dieTempConversion t temps) s fun b =>
        b.sys.phase = .thermal ∧ (∀ a, a ≠ SYS_RESET_CAUSE → b.reg a = resetWord a) ∧ b.fuse = s.blk.fuse)) ∧
    (∀ v : TrimVal, s.blk.trimWanted v = true → bitOf (s.blk.rn TRM_REQ) v.kind = true → Completes (.trimRound t ⟨[v]⟩) s fun b =>
      b.rn TRM_REQ = 0 ∧ bitOf (b.f TRM_STATUS_HELD) v.kind = true ∧
        (∃ h ∈ b.trm.held, h.kind = v.kind.val ∧ h.idx = v.idx ∧ h.part = v.part ∧ h.val = s.blk.trimValue v) ∧
        s.blk.RegsBut b (fun a => a = TRM_REQ ∨ a = TRM_STATUS) ∧ s.blk.Calm b) ∧
    (∀ w : Word, Completes (.trmReq w) s fun b => b.rn TRM_REQ = s.blk.rn TRM_REQ ||| w.toNat % 64 ∧ s.blk.OnlyRegs b (· = TRM_REQ)) ∧
    (∀ h : HeldTrim, s.blk.trm.held = [h] →
      (h.kind = 5 → Completes .trimApply s fun b =>
        (b.rn TRM_OSC : Int) = max 0 (min 1023 h.val) ∧ b.trm.held = [] ∧
          (h.val ≤ 0 ∨ 1023 ≤ h.val → bitOf (b.rn TRM_STATUS) 5 = true ∧ s.blk.Raised b 0xD04 0 5 0) ∧
          s.blk.RegsBut b (fun a => a = TRM_OSC ∨ a = TRM_STATUS) ∧ s.blk.Calm b) ∧
      (h.kind = 0 → h.part = 0 → h.idx < 44 → s.blk.laneState h.idx = 2 →
        s.blk.skipWait h.idx ≤ 4000 * (s.blk.now - h.since) → -127 < h.val → h.val < 127 → Completes .trimApply s fun b =>
        b.sf (TRM_LANE_DATA h.idx) = h.val ∧ b.trm.held = [] ∧
          s.blk.RegsBut b (fun a => a = TRM_LANE h.idx ∨ a = TRM_STATUS) ∧ s.blk.Calm b)) ∧
    (∀ i : Fin 16, Completes (.cntClear i) s fun b =>
      b.val (CNT_VALUE i) 2 = 0 ∧ s.blk.OnlyRegs b fun a => a = CNT_VALUE i ∨ a = CNT_VALUE i + 1) ∧
    ∀ (c : Instr) (on : Bool), (c = .startGroup ∧ on = true) ∨ (c = .stopGroup ∧ on = false) → Completes c s fun b =>
      (∀ i, i < 16 → b.fb (CNT_CFG_EN i) = if s.blk.fb (CNT_CFG_GROUP i) then on else s.blk.fb (CNT_CFG_EN i)) ∧
        s.blk.OnlyRegs b fun a => ∃ i, i < 16 ∧ a = CNT_CFG i


/-! ### Host access -/

/-- From R9, R10, R473 to R475, R501. A path's write of a plain word takes the RW bits, clears W1C and sets W1S at once, and an RWB word is held as last written; an address in no block
sets NO_BLOCK. An SPI WRITE of one word writes it so; a READ answers the status byte, four bytes and the word as it stands; STATUS delivers
FRAME_ERR and clears it, and a broken frame, whose opcode byte is answered too, sets it.
Where it rests on the model's readings and choices, entries 10, 117, 118, 121, 159 of the assumption log say which. -/
def Obligations.RegisterAccess : Prop :=
  ∀ (s : State) (p : Path) (a : BitVec 24) (w : Word),
    (∀ i : WordInfo, s.blk.PlainWord a.toNat i →
      (i.rwb = 0 → ∀ c : Instr, c = .registerWrite p a w ∨ (p = .spi ∧ c = .spiWrite a [w]) → Completes c s fun b =>
        b.reg (pathAddr p a.toNat) = (mixBits (s.blk.reg (pathAddr p a.toNat)) w i.rw &&& ~~~ (w &&& i.w1c)) ||| (w &&& i.w1s) ∧
          b.held = s.blk.held ∧ s.blk.RegsBut b (· = pathAddr p a.toNat) ∧ s.blk.Calm b) ∧
      (i.rwb ≠ 0 → i.rw = 0 → i.w1c = 0 → i.w1s = 0 → i.bnd ≠ .cycle → perPath a.toNat = false → ∀ c : Instr,
        c = .registerWrite p a w ∨ (p = .spi ∧ c = .spiWrite a [w]) → Completes c s fun b =>
          b.lastWritten a.toNat = mixBits (s.blk.lastWritten a.toNat) w i.rwb ∧ (∀ x, x ≠ a.toNat → b.lastWritten x = s.blk.lastWritten x) ∧
            b.regs = s.blk.regs ∧ s.blk.Calm b) ∧
      (i.word = 0 → instOf TCI_FIFO 4 i.first = none → Completes (.spiRead a 1) s fun b =>
        b = s.blk.miso (s.blk.statusByte :: [0, 0, 0, 0] ++ toBE (s.blk.shown .spi a.toNat i).toNat 3))) ∧
    (s.blk.sys.phase = .up → inBlock a.toNat = false → Completes (.registerWrite p a w) s fun b =>
      b.fb SYS_ERR_NO_BLOCK = true ∧ b.rn SYS_ERR_ADDR = a.toNat ∧ s.blk.OnlyRegs b (fun x => x = SYS_ERR ∨ x = SYS_ERR_ADDR)) ∧
    (s.blk.spiOn = true →
      (Completes .frameErr s fun b => b = { s.blk with acc := { s.blk.acc with frameErr := true, spiOut := [s.blk.statusByte, 0] } }) ∧
      Completes .spiStatus s fun b =>
        b = { s.blk with acc := { s.blk.acc with frameErr := false, spiOut := [s.blk.statusByte, s.blk.statusByte] } })

/-- From R367, R478, R480 to R483, R499. A datagram signed with a usable key, for this session and newer than the last, is answered, and one whose code is wrong is counted and
not answered; key 1 is set, or cleared by zeros. ARP, Neighbour Solicitation and echo for an address of the part are answered; a frame for another
station leaves by the other port, or is dropped and counted where the 64 KiB of its direction do not hold it; link changes and drops show.
Where it rests on the model's readings and choices, entries 115, 177 of the assumption log say which. -/
def Obligations.ManagementAndEthernet : Prop :=
  ∀ (s : State) (port : Fin 2) (src : Source),
    (∀ (d key : List Byte) (k : Nat), s.blk.ethOn port = true → (s.blk.holding || s.blk.fb ETH_GCFG_MGMT_EN) = true → d.length = 48 →
      d.take 4 = [0x46, 0x4d, 1, 1] → (d.getD 4 0).toNat = k → beNat (slice d 6 2) = 0 → s.blk.mgmtKey k = some key →
      (hmac key (d.take 16) = d.drop 16 → beNat (slice d 8 4) = s.blk.val ETH_MGMT_SESSION 2 →
        1 ≤ (beNat (slice d 12 4) + 2 ^ 32 - alook 0 s.blk.acc.lastSeq k) % 2 ^ 32 →
        (beNat (slice d 12 4) + 2 ^ 32 - alook 0 s.blk.acc.lastSeq k) % 2 ^ 32 < 2 ^ 31 →
        beNat (slice d 12 4) ≠ alook 0 s.blk.acc.lastSeq k → Completes (.mgmtRequest port src d) s fun b =>
          b.out = .udp port (s.blk.f ETH_GCFG_MGMT_PORT) src (s.blk.mgmtReply key k 0x81 0 (beNat (slice d 12 4)) []) :: s.blk.out ∧
            alook 0 b.acc.lastSeq k = beNat (slice d 12 4) ∧ b.regs = s.blk.regs ∧ s.blk.Calm b) ∧
      (hmac key (d.take 16) ≠ d.drop 16 → Completes (.mgmtRequest port src d) s fun b =>
        b.rn ETH_MGMT_FAIL = min (s.blk.rn ETH_MGMT_FAIL + 1) u24max ∧ b.out = s.blk.out ∧ s.blk.RegsBut b (· = ETH_MGMT_FAIL) ∧ s.blk.Calm b)) ∧
    (∀ target : BitVec 32, s.blk.ethOn port = true → s.blk.ownIp4 port target.toNat = true → Completes (.arpRequest port src target) s fun b =>
      b = { s.blk with out := .arp port src target.toNat :: s.blk.out }) ∧
    (∀ target : BitVec 128, s.blk.ethOn port = true → s.blk.ownIp6 port target.toNat = true → Completes (.neighbourSolicitation port src target) s fun b =>
      b = { s.blk with out := .neighbour port src target.toNat :: s.blk.out }) ∧
    (s.blk.alive = true →
      (∀ (p : Path) (k : BitVec 256), Completes (.ethMgmtKey1Write p k) s fun b =>
        b.acc.key1 = (if k = 0 then none else some k.toNat) ∧ b.fb ETH_MGMT_STATUS_KEY1_SET = decide (k ≠ 0) ∧
          s.blk.RegsBut b (· = ETH_MGMT_STATUS) ∧ s.blk.Calm b) ∧
      (∀ (target : BitVec 32) (body : List Byte), s.blk.ethOn port = true → s.blk.ownIp4 port target.toNat = true →
        Completes (.echoRequest port src (.v4 target) body) s fun b => b = { s.blk with out := .echo port src body :: s.blk.out }) ∧
      (∀ (tIn tOut : Nat) (f : EthFrame), f.fcsOk = true → s.blk.ethOn 0 = true → s.blk.ethOn 1 = true → s.blk.fb ETH_GCFG_FWD = true →
        bitOf (f.bytes.getD 0 0).toNat 0 = true ∨
          (beNat (f.bytes.take 6) ≠ s.blk.ethMac 0 ∧ beNat (f.bytes.take 6) ≠ s.blk.ethMac 1) →
        let waits := s.blk.acc.fwd.filter fun e => e.1 == port.val && decide (tIn < e.2.1)
        let kept := s.blk.acc.fwd.filter fun e => e.1 != port.val || decide (tIn < e.2.1)
        ((waits.map fun e => e.2.2).sum + f.bytes.length ≤ 65536 → ptpOffset f.bytes = none → Completes (.ethForward port tIn tOut f) s fun b =>
          b = { s.blk with acc := { s.blk.acc with fwd := kept ++ [(port.val, tOut, f.bytes.length)] },
                           out := .forward (1 - port.val) f.bytes :: s.blk.out }) ∧
        (65536 < (waits.map fun e => e.2.2).sum + f.bytes.length → Completes (.ethForward port tIn tOut f) s fun b =>
          b.rn (ETH_FWD_DROPS port) = min (s.blk.rn (ETH_FWD_DROPS port) + 1) u24max ∧ s.blk.OnlyRegs b (· = ETH_FWD_DROPS port))) ∧
      (∀ up : Bool, Completes (.ethLinkChange port up) s fun b =>
        b.fb (ETH_STATUS_LINK port) = up ∧ b.fb (ETH_STATUS_DOWN port) = (!up || s.blk.fb (ETH_STATUS_DOWN port)) ∧
          s.blk.OnlyRegs b (· = ETH_STATUS port)) ∧
      (s.blk.ethOn port = true → Completes (.ethRxDrop port) s fun b =>
        b.rn (ETH_RX_DROPS port) = min (s.blk.rn (ETH_RX_DROPS port) + 1) u24max ∧ s.blk.OnlyRegs b (· = ETH_RX_DROPS port)))

/-- From R486, R487, R489 to R493. Entries of ring 10 act as the registers they stand for, and one with no such axis raises COMMAND_REJECT. An event that is waiting is recorded on ring 5
and sets its summary bit, or is dropped and counted where the ring is full; summary bits are cleared by ones; a filtered GIO edge shows its
level and raises GIO_EDGE where that is asked for.
Where it rests on the model's readings and choices, entries 116, 119 of the assumption log say which. -/
def Obligations.CommandsAndEvents : Prop :=
  ∀ s : State, s.blk.alive = true →
    (s.blk.RingTen 1 → s.blk.fuse.repair = none → s.blk.bst.phase ≠ 0 → Completes .selfTest s fun b =>
      s.blk.Took10 b ∧ b.rn BST_REQ = s.blk.rn BST_REQ ||| s.blk.word10 1 % 2 ^ 13) ∧
    (s.blk.RingTen 2 → s.blk.bst.phase = 0 → s.blk.fb BST_STATUS_BUSY = false → Completes .cancelTest s fun b =>
      s.blk.Took10 b ∧ b.rn BST_REQ = 0) ∧
    (s.blk.RingTen 3 → s.blk.ins.tp = none → s.blk.shuttle = false → (∃ c, c < 4 ∧ s.blk.camUp c = true) → 1 < s.blk.maxRows →
      Completes .testPage s fun b =>
        s.blk.Took10 b ∧ b.fb ALN_TP_STATUS_PENDING = true ∧ b.f ALN_TP_CFG_TRACK = s.blk.word10 1 / 2 ^ 22 ∧ b.rn ALN_TP_TAG = s.blk.word10 2 ∧
          b.ins.tp = some ⟨b.rn ALN_TP_CFG, b.rn ALN_TP_TAG, none, 0, [], [], []⟩) ∧
    (s.blk.RingTen 4 → Completes .trim s fun b => s.blk.Took10 b ∧ b.rn TRM_REQ = s.blk.rn TRM_REQ ||| s.blk.word10 1 % 64) ∧
    (s.blk.RingTen 5 →
      (s.blk.word10 1 % 8 < 6 → bitOf (s.blk.word10 1) 3 = true → s.blk.word10 2 = 0 → Completes .axis s fun b =>
        s.blk.Took10 b ∧ b.val (AXS_TARGET (s.blk.word10 1 % 8)) 2 = s.blk.word10 3 + 2 ^ 24 * s.blk.word10 4) ∧
      (6 ≤ s.blk.word10 1 % 8 → Completes .axis s fun b =>
        s.blk.Took10 b ∧ ∃ d0 d1, s.blk.Raised b 0xE03 0 d0 d1)) ∧
    (∀ e : Ev, s.blk.evq = [e] → s.blk.acc.lost = 0 → bitOf (s.blk.rn (evtCode e.code)) 4 = false →
      s.blk.f EVT_CFG_REC_SEV ≤ s.blk.severity e.code →
      (s.blk.ringFull 5 = false → Completes .eventRecordPost s fun b =>
        b.rn (RING_PROD 5) = (s.blk.rn (RING_PROD 5) + 1) % 2 ^ 24 ∧
          (s.blk.ringAddr 5 (s.blk.rn (RING_PROD 5)) + 32 ≤ s.blk.capacity →
            b.readEntry (s.blk.ringAddr 5 (s.blk.rn (RING_PROD 5))) = (e.words (s.blk.severity e.code)).map (· % 2 ^ 32)) ∧
          (s.blk.f EVT_CFG_IRQ_SEV ≤ s.blk.severity e.code → bitOf (b.rn EVT_SUMMARY) (e.code % 4096 / 256) = true)) ∧
      (s.blk.ringFull 5 = true → Completes .eventRecordPost s fun b =>
        b.evq = [] ∧ b.rn (RING_DROPS 5) = min (s.blk.rn (RING_DROPS 5) + 1) u24max ∧ b.rn EVT_DROPS = min (s.blk.rn EVT_DROPS + 1) u24max ∧
          b.fb EVT_SUMMARY_LOST = true ∧ b.acc.lost = 1 ∧
          s.blk.RegsBut b (fun a => a = RING_DROPS 5 ∨ a = EVT_DROPS ∨ a = EVT_SUMMARY) ∧ s.blk.Calm b)) ∧
    (∀ w : Word, Completes (.evtSummaryClear w) s fun b => b.reg EVT_SUMMARY = s.blk.reg EVT_SUMMARY &&& ~~~ w ∧ s.blk.OnlyRegs b (· = EVT_SUMMARY)) ∧
    ∀ (n : Fin 16) (t k q : Nat) (level : Bool), (∀ u, u < 4 → s.blk.trkState u ≠ 1) →
      ((alook ⟨false, 0⟩ s.blk.acc.gios n : Filt).feed (atLeast1 (s.blk.f (PAD_GIO_CFG_FILT_N n))) t k level).2 = some q →
      Completes (.gioEdge n t level k) s fun b =>
        bitOf (b.rn PAD_GIO_IN) n = level ∧ (s.blk.fb (PAD_GIO_CFG_EVT n) = true → s.blk.Raised b 0xE05 n n (b2n level)) ∧
          s.blk.RegsBut b (· = PAD_GIO_IN) ∧ s.blk.Calm b

/-! ### The machine -/

/-- A step carries out the command at the front of the queue on the block with the rest of the queue. With no command waiting one POS clock
passes: the model's choice (assumption log).
Where it rests on the model's readings and choices, entry 2 of the assumption log says which. -/
def Obligations.StepTakesTheFront : Prop :=
  (∀ (c : Instr) (r : List Instr) (b : Blk), step ⟨b, c :: r⟩ = exec c ⟨b, r⟩) ∧
    ∀ b : Blk, step ⟨b, []⟩ = .next ⟨b.advance (b.now + 1), []⟩

/-- Every command answers a next state on every state, and leaves the queue as it was. -/
def Obligations.EveryCommandCompletes : Prop := ∀ (c : Instr) (s : State), Completes c s fun _ => True

/-- From R427, R441. While the part is in reset, has not yet come up, holds, or changes its life-cycle state, commands to its blocks do nothing; only those of reset and
start-up, the life cycle, the flash and host access do. -/
def Obligations.QuietWhileDown : Prop := ∀ (c : Instr) (s : State), s.blk.alive = false → always c = false → exec c s = .next s

/-- From R505, R443. The state right after reset: every table is canonical, PIN is shown as the cause, every other word has its reset value, no fuse is blown,
image memory lists nothing, nothing waits and nothing has left the part.
Where it rests on the model's readings and choices, entries 1, 4, 5 of the assumption log say which. -/
def Obligations.ResetState : Prop :=
  State.reset.wf = true ∧ State.reset.pending = [] ∧ State.reset.blk.sys.phase = .ready ∧ State.reset.blk.rn SYS_RESET_CAUSE = 1 ∧
    (∀ a, a ≠ SYS_RESET_CAUSE → State.reset.blk.reg a = resetWord a) ∧ State.reset.blk.mem = [] ∧ State.reset.blk.held = [] ∧
    State.reset.blk.evq = [] ∧ State.reset.blk.out = [] ∧ State.reset.blk.fuse = Fuse.init ∧ State.reset.blk.alive = false

/-- The invariant, which every step keeps from every state that has it: image memory and every table in their canonical form, so that equal
contents are equal data, and every waiting command well formed. -/
def Obligations.StepsKeepTheForm : Prop := ∀ s t : State, step s = .next t → s.wf = true → t.wf = true

/-- From R443. Every step, from every state: no fuse is restored, time does not run back, and what has left the part stays in the log. -/
def Obligations.NothingIsUndone : Prop :=
  ∀ s t : State, step s = .next t → Fuse.within s.blk.fuse t.blk.fuse ∧ s.blk.now ≤ t.blk.now ∧ s.blk.out <:+ t.blk.out
end

