-- ==== Sys2Proof/Laws/Tab.lean ====
section
/-!
SUPPORT. The laws of sparse tables: reading back what was put, leaving every other key alone, and keeping the canonical
form.
-/

namespace Sys2Proof.Machine

variable {α : Type}

theorem Tab.get_ins_same (d : Nat → α) (k : Nat) (v : α) : ∀ t : List (Nat × α), Tab.get d (Tab.ins t k v) k = v
  | [] => by simp [Tab.ins, Tab.get]
  | e :: r => by
    by_cases h1 : e.1 < k
    · have hne : e.1 ≠ k := by omega
      simp only [Tab.ins, h1, if_true, Tab.get, hne, if_false]
      exact Tab.get_ins_same d k v r
    · by_cases h2 : e.1 = k <;> simp [Tab.ins, h1, h2, Tab.get]

theorem Tab.get_ins_ne (d : Nat → α) {k j : Nat} (v : α) (hj : j ≠ k) :
    ∀ t : List (Nat × α), Tab.get d (Tab.ins t k v) j = Tab.get d t j
  | [] => by simp [Tab.ins, Tab.get, Ne.symm hj]
  | e :: r => by
    by_cases h1 : e.1 < k
    · simp only [Tab.ins, h1, if_true, Tab.get, Tab.get_ins_ne d v hj r]
    · by_cases h2 : e.1 = k
      · have hk : e.1 ≠ j := by omega
        simp [Tab.ins, h2, Tab.get, Ne.symm hj]
      · simp [Tab.ins, h1, h2, Tab.get, Ne.symm hj]

theorem Tab.get_filter_same (d : Nat → α) (k : Nat) :
    ∀ t : List (Nat × α), Tab.get d (t.filter fun e => e.1 != k) k = d k
  | [] => rfl
  | e :: r => by
    by_cases h : e.1 = k
    · simp [h, Tab.get_filter_same d k r]
    · simp [h, Tab.get, Tab.get_filter_same d k r]

theorem Tab.get_filter_ne (d : Nat → α) {k j : Nat} (hj : j ≠ k) :
    ∀ t : List (Nat × α), Tab.get d (t.filter fun e => e.1 != k) j = Tab.get d t j
  | [] => rfl
  | e :: r => by
    by_cases h : e.1 = k
    · have hk : e.1 ≠ j := by omega
      simp [h, Tab.get, Ne.symm hj, Tab.get_filter_ne d hj r]
    · simp [h, Tab.get, Tab.get_filter_ne d hj r]

variable [DecidableEq α]

/-- Reading the key just written gives the value written. -/
theorem Tab.get_put_same (d : Nat → α) (t : List (Nat × α)) (k : Nat) (v : α) : Tab.get d (Tab.put d t k v) k = v := by
  unfold Tab.put
  split
  · rename_i h
    rw [Tab.get_filter_same, h]
  · exact Tab.get_ins_same d k v t

/-- Writing one key leaves every other key as it was. -/
theorem Tab.get_put_ne (d : Nat → α) (t : List (Nat × α)) {k j : Nat} (v : α) (hj : j ≠ k) :
    Tab.get d (Tab.put d t k v) j = Tab.get d t j := by
  unfold Tab.put
  split
  · exact Tab.get_filter_ne d hj t
  · exact Tab.get_ins_ne d v hj t

omit [DecidableEq α] in
theorem Tab.above_mono {b c : Nat} (h : b ≤ c) {t : List (Nat × α)} (ht : Tab.above c t = true) : Tab.above b t = true := by
  simp only [Tab.above, List.all_eq_true, decide_eq_true_eq] at ht ⊢
  exact fun x hx => Nat.lt_of_le_of_lt h (ht x hx)

omit [DecidableEq α] in
theorem Tab.above_ins {b k : Nat} (v : α) (hb : b < k) :
    ∀ {t : List (Nat × α)}, Tab.above b t = true → Tab.above b (Tab.ins t k v) = true
  | [], _ => by simp [Tab.ins, Tab.above, hb]
  | e :: r, ht => by
    simp only [Tab.above, List.all_cons, Bool.and_eq_true, decide_eq_true_eq] at ht
    have ih := Tab.above_ins v hb (t := r) ht.2
    have h2 := ht.2
    simp only [Tab.above] at ih
    by_cases h1 : e.1 < k
    · simp only [Tab.ins, h1, if_true, Tab.above, List.all_cons, Bool.and_eq_true, decide_eq_true_eq]
      exact ⟨ht.1, ih⟩
    · by_cases h3 : e.1 = k
      · rw [Tab.ins, if_neg h1, if_pos h3]
        simp only [Tab.above, List.all_cons, Bool.and_eq_true, decide_eq_true_eq]
        exact ⟨hb, h2⟩
      · simp only [Tab.ins, h1, h3, if_false, Tab.above, List.all_cons, Bool.and_eq_true, decide_eq_true_eq]
        exact ⟨hb, ht.1, h2⟩

theorem Tab.wf_filter (d : Nat → α) (p : Nat × α → Bool) :
    ∀ {t : List (Nat × α)}, Tab.wf d t = true → Tab.wf d (t.filter p) = true
  | [], _ => rfl
  | e :: t, h => by
    simp only [Tab.wf, Bool.and_eq_true] at h
    have ih := Tab.wf_filter d p h.2
    by_cases hp : p e = true
    · simp only [List.filter_cons, hp, if_true, Tab.wf, Bool.and_eq_true]
      refine ⟨⟨h.1.1, ?_⟩, ih⟩
      have ha := h.1.2
      simp only [Tab.above, List.all_eq_true] at ha ⊢
      exact fun x hx => ha x (List.mem_filter.1 hx).1
    · simp only [List.filter_cons, hp]
      exact ih

theorem Tab.wf_ins (d : Nat → α) {k : Nat} {v : α} (hv : v ≠ d k) :
    ∀ {t : List (Nat × α)}, Tab.wf d t = true → Tab.wf d (Tab.ins t k v) = true
  | [], _ => by simp [Tab.ins, Tab.wf, Tab.above, hv]
  | e :: r, ht => by
    have hw := ht
    simp only [Tab.wf, Bool.and_eq_true, decide_eq_true_eq] at ht
    obtain ⟨⟨he, ha⟩, hr⟩ := ht
    by_cases h1 : e.1 < k
    · simp only [Tab.ins, h1, if_true, Tab.wf, Bool.and_eq_true, decide_eq_true_eq]
      exact ⟨⟨he, Tab.above_ins v h1 ha⟩, Tab.wf_ins d hv hr⟩
    · by_cases h2 : e.1 = k
      · subst h2
        simp only [Tab.ins, h1, if_true, if_false, Tab.wf, Bool.and_eq_true, decide_eq_true_eq]
        exact ⟨⟨hv, ha⟩, hr⟩
      · have hk : k < e.1 := by omega
        simp only [Tab.ins, h1, h2, if_false, Tab.wf, Bool.and_eq_true, decide_eq_true_eq]
        refine ⟨⟨hv, ?_⟩, ⟨⟨he, ha⟩, hr⟩⟩
        have := Tab.above_mono (Nat.le_of_lt hk) ha
        simp only [Tab.above] at this
        simp [Tab.above, hk, this]

/-- Putting a value keeps the canonical form. -/
theorem Tab.wf_put (d : Nat → α) (k : Nat) (v : α) {t : List (Nat × α)} (ht : Tab.wf d t = true) :
    Tab.wf d (Tab.put d t k v) = true := by
  unfold Tab.put
  split
  · exact Tab.wf_filter d _ ht
  · rename_i h
    exact Tab.wf_ins d h ht

end Sys2Proof.Machine
end

