-- ==== Sys2Proof/Laws/State.lean ====
section
/-!
SUPPORT. The laws of the block's state: what each update of one field leaves in every other field, and what reading
a register, a field, a byte or a like unit gives after a write.
-/

namespace Sys2Proof.Machine

/-! ### Each update leaves every other field alone -/

@[simp] theorem Blk.setReg_now (s : Blk) (a : Nat) (w : Word) : (s.setReg a w).now = s.now := rfl
@[simp] theorem Blk.setReg_freeN (s : Blk) (a : Nat) (w : Word) : (s.setReg a w).freeN = s.freeN := rfl
@[simp] theorem Blk.setReg_held (s : Blk) (a : Nat) (w : Word) : (s.setReg a w).held = s.held := rfl
@[simp] theorem Blk.setReg_mem (s : Blk) (a : Nat) (w : Word) : (s.setReg a w).mem = s.mem := rfl
@[simp] theorem Blk.setReg_evq (s : Blk) (a : Nat) (w : Word) : (s.setReg a w).evq = s.evq := rfl
@[simp] theorem Blk.setReg_out (s : Blk) (a : Nat) (w : Word) : (s.setReg a w).out = s.out := rfl
@[simp] theorem Blk.setReg_wires (s : Blk) (a : Nat) (w : Word) : (s.setReg a w).wires = s.wires := rfl
@[simp] theorem Blk.setReg_holding (s : Blk) (a : Nat) (w : Word) : (s.setReg a w).holding = s.holding := rfl
@[simp] theorem Blk.setReg_tim (s : Blk) (a : Nat) (w : Word) : (s.setReg a w).tim = s.tim := rfl
@[simp] theorem Blk.setReg_bcn (s : Blk) (a : Nat) (w : Word) : (s.setReg a w).bcn = s.bcn := rfl
@[simp] theorem Blk.setReg_encs (s : Blk) (a : Nat) (w : Word) : (s.setReg a w).encs = s.encs := rfl
@[simp] theorem Blk.setReg_lck (s : Blk) (a : Nat) (w : Word) : (s.setReg a w).lck = s.lck := rfl
@[simp] theorem Blk.setReg_scheds (s : Blk) (a : Nat) (w : Word) : (s.setReg a w).scheds = s.scheds := rfl
@[simp] theorem Blk.setReg_pevs (s : Blk) (a : Nat) (w : Word) : (s.setReg a w).pevs = s.pevs := rfl
@[simp] theorem Blk.setReg_trks (s : Blk) (a : Nat) (w : Word) : (s.setReg a w).trks = s.trks := rfl
@[simp] theorem Blk.setReg_cmp (s : Blk) (a : Nat) (w : Word) : (s.setReg a w).cmp = s.cmp := rfl
@[simp] theorem Blk.setReg_ports (s : Blk) (a : Nat) (w : Word) : (s.setReg a w).ports = s.ports := rfl
@[simp] theorem Blk.setReg_mbx (s : Blk) (a : Nat) (w : Word) : (s.setReg a w).mbx = s.mbx := rfl
@[simp] theorem Blk.setReg_cams (s : Blk) (a : Nat) (w : Word) : (s.setReg a w).cams = s.cams := rfl
@[simp] theorem Blk.setReg_ins (s : Blk) (a : Nat) (w : Word) : (s.setReg a w).ins = s.ins := rfl
@[simp] theorem Blk.setReg_sht (s : Blk) (a : Nat) (w : Word) : (s.setReg a w).sht = s.sht := rfl
@[simp] theorem Blk.setReg_axes (s : Blk) (a : Nat) (w : Word) : (s.setReg a w).axes = s.axes := rfl
@[simp] theorem Blk.setReg_twn (s : Blk) (a : Nat) (w : Word) : (s.setReg a w).twn = s.twn := rfl
@[simp] theorem Blk.setReg_dram (s : Blk) (a : Nat) (w : Word) : (s.setReg a w).dram = s.dram := rfl
@[simp] theorem Blk.setReg_lanes (s : Blk) (a : Nat) (w : Word) : (s.setReg a w).lanes = s.lanes := rfl
@[simp] theorem Blk.setReg_scan (s : Blk) (a : Nat) (w : Word) : (s.setReg a w).scan = s.scan := rfl
@[simp] theorem Blk.setReg_links (s : Blk) (a : Nat) (w : Word) : (s.setReg a w).links = s.links := rfl
@[simp] theorem Blk.setReg_wal (s : Blk) (a : Nat) (w : Word) : (s.setReg a w).wal = s.wal := rfl
@[simp] theorem Blk.setReg_time (s : Blk) (a : Nat) (w : Word) : (s.setReg a w).time = s.time := rfl
@[simp] theorem Blk.setReg_streams (s : Blk) (a : Nat) (w : Word) : (s.setReg a w).streams = s.streams := rfl
@[simp] theorem Blk.setReg_sto (s : Blk) (a : Nat) (w : Word) : (s.setReg a w).sto = s.sto := rfl
@[simp] theorem Blk.setReg_bst (s : Blk) (a : Nat) (w : Word) : (s.setReg a w).bst = s.bst := rfl
@[simp] theorem Blk.setReg_trm (s : Blk) (a : Nat) (w : Word) : (s.setReg a w).trm = s.trm := rfl
@[simp] theorem Blk.setReg_fuse (s : Blk) (a : Nat) (w : Word) : (s.setReg a w).fuse = s.fuse := rfl
@[simp] theorem Blk.setReg_sys (s : Blk) (a : Nat) (w : Word) : (s.setReg a w).sys = s.sys := rfl
@[simp] theorem Blk.setReg_acc (s : Blk) (a : Nat) (w : Word) : (s.setReg a w).acc = s.acc := rfl

@[simp] theorem Blk.wn_now (s : Blk) (a v : Nat) : (s.wn a v).now = s.now := rfl
@[simp] theorem Blk.wn_freeN (s : Blk) (a v : Nat) : (s.wn a v).freeN = s.freeN := rfl
@[simp] theorem Blk.wn_held (s : Blk) (a v : Nat) : (s.wn a v).held = s.held := rfl
@[simp] theorem Blk.wn_mem (s : Blk) (a v : Nat) : (s.wn a v).mem = s.mem := rfl
@[simp] theorem Blk.wn_evq (s : Blk) (a v : Nat) : (s.wn a v).evq = s.evq := rfl
@[simp] theorem Blk.wn_out (s : Blk) (a v : Nat) : (s.wn a v).out = s.out := rfl
@[simp] theorem Blk.wn_wires (s : Blk) (a v : Nat) : (s.wn a v).wires = s.wires := rfl
@[simp] theorem Blk.wn_holding (s : Blk) (a v : Nat) : (s.wn a v).holding = s.holding := rfl
@[simp] theorem Blk.wn_tim (s : Blk) (a v : Nat) : (s.wn a v).tim = s.tim := rfl
@[simp] theorem Blk.wn_bcn (s : Blk) (a v : Nat) : (s.wn a v).bcn = s.bcn := rfl
@[simp] theorem Blk.wn_encs (s : Blk) (a v : Nat) : (s.wn a v).encs = s.encs := rfl
@[simp] theorem Blk.wn_lck (s : Blk) (a v : Nat) : (s.wn a v).lck = s.lck := rfl
@[simp] theorem Blk.wn_scheds (s : Blk) (a v : Nat) : (s.wn a v).scheds = s.scheds := rfl
@[simp] theorem Blk.wn_pevs (s : Blk) (a v : Nat) : (s.wn a v).pevs = s.pevs := rfl
@[simp] theorem Blk.wn_trks (s : Blk) (a v : Nat) : (s.wn a v).trks = s.trks := rfl
@[simp] theorem Blk.wn_cmp (s : Blk) (a v : Nat) : (s.wn a v).cmp = s.cmp := rfl
@[simp] theorem Blk.wn_ports (s : Blk) (a v : Nat) : (s.wn a v).ports = s.ports := rfl
@[simp] theorem Blk.wn_mbx (s : Blk) (a v : Nat) : (s.wn a v).mbx = s.mbx := rfl
@[simp] theorem Blk.wn_cams (s : Blk) (a v : Nat) : (s.wn a v).cams = s.cams := rfl
@[simp] theorem Blk.wn_ins (s : Blk) (a v : Nat) : (s.wn a v).ins = s.ins := rfl
@[simp] theorem Blk.wn_sht (s : Blk) (a v : Nat) : (s.wn a v).sht = s.sht := rfl
@[simp] theorem Blk.wn_axes (s : Blk) (a v : Nat) : (s.wn a v).axes = s.axes := rfl
@[simp] theorem Blk.wn_twn (s : Blk) (a v : Nat) : (s.wn a v).twn = s.twn := rfl
@[simp] theorem Blk.wn_dram (s : Blk) (a v : Nat) : (s.wn a v).dram = s.dram := rfl
@[simp] theorem Blk.wn_lanes (s : Blk) (a v : Nat) : (s.wn a v).lanes = s.lanes := rfl
@[simp] theorem Blk.wn_scan (s : Blk) (a v : Nat) : (s.wn a v).scan = s.scan := rfl
@[simp] theorem Blk.wn_links (s : Blk) (a v : Nat) : (s.wn a v).links = s.links := rfl
@[simp] theorem Blk.wn_wal (s : Blk) (a v : Nat) : (s.wn a v).wal = s.wal := rfl
@[simp] theorem Blk.wn_time (s : Blk) (a v : Nat) : (s.wn a v).time = s.time := rfl
@[simp] theorem Blk.wn_streams (s : Blk) (a v : Nat) : (s.wn a v).streams = s.streams := rfl
@[simp] theorem Blk.wn_sto (s : Blk) (a v : Nat) : (s.wn a v).sto = s.sto := rfl
@[simp] theorem Blk.wn_bst (s : Blk) (a v : Nat) : (s.wn a v).bst = s.bst := rfl
@[simp] theorem Blk.wn_trm (s : Blk) (a v : Nat) : (s.wn a v).trm = s.trm := rfl
@[simp] theorem Blk.wn_fuse (s : Blk) (a v : Nat) : (s.wn a v).fuse = s.fuse := rfl
@[simp] theorem Blk.wn_sys (s : Blk) (a v : Nat) : (s.wn a v).sys = s.sys := rfl
@[simp] theorem Blk.wn_acc (s : Blk) (a v : Nat) : (s.wn a v).acc = s.acc := rfl

@[simp] theorem Blk.setF_now (s : Blk) (x : Fld) (v : Nat) : (s.setF x v).now = s.now := rfl
@[simp] theorem Blk.setF_freeN (s : Blk) (x : Fld) (v : Nat) : (s.setF x v).freeN = s.freeN := rfl
@[simp] theorem Blk.setF_held (s : Blk) (x : Fld) (v : Nat) : (s.setF x v).held = s.held := rfl
@[simp] theorem Blk.setF_mem (s : Blk) (x : Fld) (v : Nat) : (s.setF x v).mem = s.mem := rfl
@[simp] theorem Blk.setF_evq (s : Blk) (x : Fld) (v : Nat) : (s.setF x v).evq = s.evq := rfl
@[simp] theorem Blk.setF_out (s : Blk) (x : Fld) (v : Nat) : (s.setF x v).out = s.out := rfl
@[simp] theorem Blk.setF_wires (s : Blk) (x : Fld) (v : Nat) : (s.setF x v).wires = s.wires := rfl
@[simp] theorem Blk.setF_holding (s : Blk) (x : Fld) (v : Nat) : (s.setF x v).holding = s.holding := rfl
@[simp] theorem Blk.setF_tim (s : Blk) (x : Fld) (v : Nat) : (s.setF x v).tim = s.tim := rfl
@[simp] theorem Blk.setF_bcn (s : Blk) (x : Fld) (v : Nat) : (s.setF x v).bcn = s.bcn := rfl
@[simp] theorem Blk.setF_encs (s : Blk) (x : Fld) (v : Nat) : (s.setF x v).encs = s.encs := rfl
@[simp] theorem Blk.setF_lck (s : Blk) (x : Fld) (v : Nat) : (s.setF x v).lck = s.lck := rfl
@[simp] theorem Blk.setF_scheds (s : Blk) (x : Fld) (v : Nat) : (s.setF x v).scheds = s.scheds := rfl
@[simp] theorem Blk.setF_pevs (s : Blk) (x : Fld) (v : Nat) : (s.setF x v).pevs = s.pevs := rfl
@[simp] theorem Blk.setF_trks (s : Blk) (x : Fld) (v : Nat) : (s.setF x v).trks = s.trks := rfl
@[simp] theorem Blk.setF_cmp (s : Blk) (x : Fld) (v : Nat) : (s.setF x v).cmp = s.cmp := rfl
@[simp] theorem Blk.setF_ports (s : Blk) (x : Fld) (v : Nat) : (s.setF x v).ports = s.ports := rfl
@[simp] theorem Blk.setF_mbx (s : Blk) (x : Fld) (v : Nat) : (s.setF x v).mbx = s.mbx := rfl
@[simp] theorem Blk.setF_cams (s : Blk) (x : Fld) (v : Nat) : (s.setF x v).cams = s.cams := rfl
@[simp] theorem Blk.setF_ins (s : Blk) (x : Fld) (v : Nat) : (s.setF x v).ins = s.ins := rfl
@[simp] theorem Blk.setF_sht (s : Blk) (x : Fld) (v : Nat) : (s.setF x v).sht = s.sht := rfl
@[simp] theorem Blk.setF_axes (s : Blk) (x : Fld) (v : Nat) : (s.setF x v).axes = s.axes := rfl
@[simp] theorem Blk.setF_twn (s : Blk) (x : Fld) (v : Nat) : (s.setF x v).twn = s.twn := rfl
@[simp] theorem Blk.setF_dram (s : Blk) (x : Fld) (v : Nat) : (s.setF x v).dram = s.dram := rfl
@[simp] theorem Blk.setF_lanes (s : Blk) (x : Fld) (v : Nat) : (s.setF x v).lanes = s.lanes := rfl
@[simp] theorem Blk.setF_scan (s : Blk) (x : Fld) (v : Nat) : (s.setF x v).scan = s.scan := rfl
@[simp] theorem Blk.setF_links (s : Blk) (x : Fld) (v : Nat) : (s.setF x v).links = s.links := rfl
@[simp] theorem Blk.setF_wal (s : Blk) (x : Fld) (v : Nat) : (s.setF x v).wal = s.wal := rfl
@[simp] theorem Blk.setF_time (s : Blk) (x : Fld) (v : Nat) : (s.setF x v).time = s.time := rfl
@[simp] theorem Blk.setF_streams (s : Blk) (x : Fld) (v : Nat) : (s.setF x v).streams = s.streams := rfl
@[simp] theorem Blk.setF_sto (s : Blk) (x : Fld) (v : Nat) : (s.setF x v).sto = s.sto := rfl
@[simp] theorem Blk.setF_bst (s : Blk) (x : Fld) (v : Nat) : (s.setF x v).bst = s.bst := rfl
@[simp] theorem Blk.setF_trm (s : Blk) (x : Fld) (v : Nat) : (s.setF x v).trm = s.trm := rfl
@[simp] theorem Blk.setF_fuse (s : Blk) (x : Fld) (v : Nat) : (s.setF x v).fuse = s.fuse := rfl
@[simp] theorem Blk.setF_sys (s : Blk) (x : Fld) (v : Nat) : (s.setF x v).sys = s.sys := rfl
@[simp] theorem Blk.setF_acc (s : Blk) (x : Fld) (v : Nat) : (s.setF x v).acc = s.acc := rfl

@[simp] theorem Blk.memWrite_now (s : Blk) (a : Nat) (b : Byte) : (s.memWrite a b).now = s.now := rfl
@[simp] theorem Blk.memWrite_freeN (s : Blk) (a : Nat) (b : Byte) : (s.memWrite a b).freeN = s.freeN := rfl
@[simp] theorem Blk.memWrite_regs (s : Blk) (a : Nat) (b : Byte) : (s.memWrite a b).regs = s.regs := rfl
@[simp] theorem Blk.memWrite_held (s : Blk) (a : Nat) (b : Byte) : (s.memWrite a b).held = s.held := rfl
@[simp] theorem Blk.memWrite_evq (s : Blk) (a : Nat) (b : Byte) : (s.memWrite a b).evq = s.evq := rfl
@[simp] theorem Blk.memWrite_out (s : Blk) (a : Nat) (b : Byte) : (s.memWrite a b).out = s.out := rfl
@[simp] theorem Blk.memWrite_wires (s : Blk) (a : Nat) (b : Byte) : (s.memWrite a b).wires = s.wires := rfl
@[simp] theorem Blk.memWrite_holding (s : Blk) (a : Nat) (b : Byte) : (s.memWrite a b).holding = s.holding := rfl
@[simp] theorem Blk.memWrite_tim (s : Blk) (a : Nat) (b : Byte) : (s.memWrite a b).tim = s.tim := rfl
@[simp] theorem Blk.memWrite_bcn (s : Blk) (a : Nat) (b : Byte) : (s.memWrite a b).bcn = s.bcn := rfl
@[simp] theorem Blk.memWrite_encs (s : Blk) (a : Nat) (b : Byte) : (s.memWrite a b).encs = s.encs := rfl
@[simp] theorem Blk.memWrite_lck (s : Blk) (a : Nat) (b : Byte) : (s.memWrite a b).lck = s.lck := rfl
@[simp] theorem Blk.memWrite_scheds (s : Blk) (a : Nat) (b : Byte) : (s.memWrite a b).scheds = s.scheds := rfl
@[simp] theorem Blk.memWrite_pevs (s : Blk) (a : Nat) (b : Byte) : (s.memWrite a b).pevs = s.pevs := rfl
@[simp] theorem Blk.memWrite_trks (s : Blk) (a : Nat) (b : Byte) : (s.memWrite a b).trks = s.trks := rfl
@[simp] theorem Blk.memWrite_cmp (s : Blk) (a : Nat) (b : Byte) : (s.memWrite a b).cmp = s.cmp := rfl
@[simp] theorem Blk.memWrite_ports (s : Blk) (a : Nat) (b : Byte) : (s.memWrite a b).ports = s.ports := rfl
@[simp] theorem Blk.memWrite_mbx (s : Blk) (a : Nat) (b : Byte) : (s.memWrite a b).mbx = s.mbx := rfl
@[simp] theorem Blk.memWrite_cams (s : Blk) (a : Nat) (b : Byte) : (s.memWrite a b).cams = s.cams := rfl
@[simp] theorem Blk.memWrite_ins (s : Blk) (a : Nat) (b : Byte) : (s.memWrite a b).ins = s.ins := rfl
@[simp] theorem Blk.memWrite_sht (s : Blk) (a : Nat) (b : Byte) : (s.memWrite a b).sht = s.sht := rfl
@[simp] theorem Blk.memWrite_axes (s : Blk) (a : Nat) (b : Byte) : (s.memWrite a b).axes = s.axes := rfl
@[simp] theorem Blk.memWrite_twn (s : Blk) (a : Nat) (b : Byte) : (s.memWrite a b).twn = s.twn := rfl
@[simp] theorem Blk.memWrite_dram (s : Blk) (a : Nat) (b : Byte) : (s.memWrite a b).dram = s.dram := rfl
@[simp] theorem Blk.memWrite_lanes (s : Blk) (a : Nat) (b : Byte) : (s.memWrite a b).lanes = s.lanes := rfl
@[simp] theorem Blk.memWrite_scan (s : Blk) (a : Nat) (b : Byte) : (s.memWrite a b).scan = s.scan := rfl
@[simp] theorem Blk.memWrite_links (s : Blk) (a : Nat) (b : Byte) : (s.memWrite a b).links = s.links := rfl
@[simp] theorem Blk.memWrite_wal (s : Blk) (a : Nat) (b : Byte) : (s.memWrite a b).wal = s.wal := rfl
@[simp] theorem Blk.memWrite_time (s : Blk) (a : Nat) (b : Byte) : (s.memWrite a b).time = s.time := rfl
@[simp] theorem Blk.memWrite_streams (s : Blk) (a : Nat) (b : Byte) : (s.memWrite a b).streams = s.streams := rfl
@[simp] theorem Blk.memWrite_sto (s : Blk) (a : Nat) (b : Byte) : (s.memWrite a b).sto = s.sto := rfl
@[simp] theorem Blk.memWrite_bst (s : Blk) (a : Nat) (b : Byte) : (s.memWrite a b).bst = s.bst := rfl
@[simp] theorem Blk.memWrite_trm (s : Blk) (a : Nat) (b : Byte) : (s.memWrite a b).trm = s.trm := rfl
@[simp] theorem Blk.memWrite_fuse (s : Blk) (a : Nat) (b : Byte) : (s.memWrite a b).fuse = s.fuse := rfl
@[simp] theorem Blk.memWrite_sys (s : Blk) (a : Nat) (b : Byte) : (s.memWrite a b).sys = s.sys := rfl
@[simp] theorem Blk.memWrite_acc (s : Blk) (a : Nat) (b : Byte) : (s.memWrite a b).acc = s.acc := rfl

@[simp] theorem Blk.fresh_now (s : Blk) : (s.fresh).now = s.now := rfl
@[simp] theorem Blk.fresh_regs (s : Blk) : (s.fresh).regs = s.regs := rfl
@[simp] theorem Blk.fresh_held (s : Blk) : (s.fresh).held = s.held := rfl
@[simp] theorem Blk.fresh_mem (s : Blk) : (s.fresh).mem = s.mem := rfl
@[simp] theorem Blk.fresh_evq (s : Blk) : (s.fresh).evq = s.evq := rfl
@[simp] theorem Blk.fresh_out (s : Blk) : (s.fresh).out = s.out := rfl
@[simp] theorem Blk.fresh_wires (s : Blk) : (s.fresh).wires = s.wires := rfl
@[simp] theorem Blk.fresh_holding (s : Blk) : (s.fresh).holding = s.holding := rfl
@[simp] theorem Blk.fresh_tim (s : Blk) : (s.fresh).tim = s.tim := rfl
@[simp] theorem Blk.fresh_bcn (s : Blk) : (s.fresh).bcn = s.bcn := rfl
@[simp] theorem Blk.fresh_encs (s : Blk) : (s.fresh).encs = s.encs := rfl
@[simp] theorem Blk.fresh_lck (s : Blk) : (s.fresh).lck = s.lck := rfl
@[simp] theorem Blk.fresh_scheds (s : Blk) : (s.fresh).scheds = s.scheds := rfl
@[simp] theorem Blk.fresh_pevs (s : Blk) : (s.fresh).pevs = s.pevs := rfl
@[simp] theorem Blk.fresh_trks (s : Blk) : (s.fresh).trks = s.trks := rfl
@[simp] theorem Blk.fresh_cmp (s : Blk) : (s.fresh).cmp = s.cmp := rfl
@[simp] theorem Blk.fresh_ports (s : Blk) : (s.fresh).ports = s.ports := rfl
@[simp] theorem Blk.fresh_mbx (s : Blk) : (s.fresh).mbx = s.mbx := rfl
@[simp] theorem Blk.fresh_cams (s : Blk) : (s.fresh).cams = s.cams := rfl
@[simp] theorem Blk.fresh_ins (s : Blk) : (s.fresh).ins = s.ins := rfl
@[simp] theorem Blk.fresh_sht (s : Blk) : (s.fresh).sht = s.sht := rfl
@[simp] theorem Blk.fresh_axes (s : Blk) : (s.fresh).axes = s.axes := rfl
@[simp] theorem Blk.fresh_twn (s : Blk) : (s.fresh).twn = s.twn := rfl
@[simp] theorem Blk.fresh_dram (s : Blk) : (s.fresh).dram = s.dram := rfl
@[simp] theorem Blk.fresh_lanes (s : Blk) : (s.fresh).lanes = s.lanes := rfl
@[simp] theorem Blk.fresh_scan (s : Blk) : (s.fresh).scan = s.scan := rfl
@[simp] theorem Blk.fresh_links (s : Blk) : (s.fresh).links = s.links := rfl
@[simp] theorem Blk.fresh_wal (s : Blk) : (s.fresh).wal = s.wal := rfl
@[simp] theorem Blk.fresh_time (s : Blk) : (s.fresh).time = s.time := rfl
@[simp] theorem Blk.fresh_streams (s : Blk) : (s.fresh).streams = s.streams := rfl
@[simp] theorem Blk.fresh_sto (s : Blk) : (s.fresh).sto = s.sto := rfl
@[simp] theorem Blk.fresh_bst (s : Blk) : (s.fresh).bst = s.bst := rfl
@[simp] theorem Blk.fresh_trm (s : Blk) : (s.fresh).trm = s.trm := rfl
@[simp] theorem Blk.fresh_fuse (s : Blk) : (s.fresh).fuse = s.fuse := rfl
@[simp] theorem Blk.fresh_sys (s : Blk) : (s.fresh).sys = s.sys := rfl
@[simp] theorem Blk.fresh_acc (s : Blk) : (s.fresh).acc = s.acc := rfl

@[simp] theorem Blk.emit_now (s : Blk) (o : Out) : (s.emit o).now = s.now := rfl
@[simp] theorem Blk.emit_freeN (s : Blk) (o : Out) : (s.emit o).freeN = s.freeN := rfl
@[simp] theorem Blk.emit_regs (s : Blk) (o : Out) : (s.emit o).regs = s.regs := rfl
@[simp] theorem Blk.emit_held (s : Blk) (o : Out) : (s.emit o).held = s.held := rfl
@[simp] theorem Blk.emit_mem (s : Blk) (o : Out) : (s.emit o).mem = s.mem := rfl
@[simp] theorem Blk.emit_evq (s : Blk) (o : Out) : (s.emit o).evq = s.evq := rfl
@[simp] theorem Blk.emit_wires (s : Blk) (o : Out) : (s.emit o).wires = s.wires := rfl
@[simp] theorem Blk.emit_holding (s : Blk) (o : Out) : (s.emit o).holding = s.holding := rfl
@[simp] theorem Blk.emit_tim (s : Blk) (o : Out) : (s.emit o).tim = s.tim := rfl
@[simp] theorem Blk.emit_bcn (s : Blk) (o : Out) : (s.emit o).bcn = s.bcn := rfl
@[simp] theorem Blk.emit_encs (s : Blk) (o : Out) : (s.emit o).encs = s.encs := rfl
@[simp] theorem Blk.emit_lck (s : Blk) (o : Out) : (s.emit o).lck = s.lck := rfl
@[simp] theorem Blk.emit_scheds (s : Blk) (o : Out) : (s.emit o).scheds = s.scheds := rfl
@[simp] theorem Blk.emit_pevs (s : Blk) (o : Out) : (s.emit o).pevs = s.pevs := rfl
@[simp] theorem Blk.emit_trks (s : Blk) (o : Out) : (s.emit o).trks = s.trks := rfl
@[simp] theorem Blk.emit_cmp (s : Blk) (o : Out) : (s.emit o).cmp = s.cmp := rfl
@[simp] theorem Blk.emit_ports (s : Blk) (o : Out) : (s.emit o).ports = s.ports := rfl
@[simp] theorem Blk.emit_mbx (s : Blk) (o : Out) : (s.emit o).mbx = s.mbx := rfl
@[simp] theorem Blk.emit_cams (s : Blk) (o : Out) : (s.emit o).cams = s.cams := rfl
@[simp] theorem Blk.emit_ins (s : Blk) (o : Out) : (s.emit o).ins = s.ins := rfl
@[simp] theorem Blk.emit_sht (s : Blk) (o : Out) : (s.emit o).sht = s.sht := rfl
@[simp] theorem Blk.emit_axes (s : Blk) (o : Out) : (s.emit o).axes = s.axes := rfl
@[simp] theorem Blk.emit_twn (s : Blk) (o : Out) : (s.emit o).twn = s.twn := rfl
@[simp] theorem Blk.emit_dram (s : Blk) (o : Out) : (s.emit o).dram = s.dram := rfl
@[simp] theorem Blk.emit_lanes (s : Blk) (o : Out) : (s.emit o).lanes = s.lanes := rfl
@[simp] theorem Blk.emit_scan (s : Blk) (o : Out) : (s.emit o).scan = s.scan := rfl
@[simp] theorem Blk.emit_links (s : Blk) (o : Out) : (s.emit o).links = s.links := rfl
@[simp] theorem Blk.emit_wal (s : Blk) (o : Out) : (s.emit o).wal = s.wal := rfl
@[simp] theorem Blk.emit_time (s : Blk) (o : Out) : (s.emit o).time = s.time := rfl
@[simp] theorem Blk.emit_streams (s : Blk) (o : Out) : (s.emit o).streams = s.streams := rfl
@[simp] theorem Blk.emit_sto (s : Blk) (o : Out) : (s.emit o).sto = s.sto := rfl
@[simp] theorem Blk.emit_bst (s : Blk) (o : Out) : (s.emit o).bst = s.bst := rfl
@[simp] theorem Blk.emit_trm (s : Blk) (o : Out) : (s.emit o).trm = s.trm := rfl
@[simp] theorem Blk.emit_fuse (s : Blk) (o : Out) : (s.emit o).fuse = s.fuse := rfl
@[simp] theorem Blk.emit_sys (s : Blk) (o : Out) : (s.emit o).sys = s.sys := rfl
@[simp] theorem Blk.emit_acc (s : Blk) (o : Out) : (s.emit o).acc = s.acc := rfl

@[simp] theorem Blk.raiseL_now (s : Blk) (c i d0 d1 l : Nat) : (s.raiseL c i d0 d1 l).now = s.now := rfl
@[simp] theorem Blk.raiseL_freeN (s : Blk) (c i d0 d1 l : Nat) : (s.raiseL c i d0 d1 l).freeN = s.freeN := rfl
@[simp] theorem Blk.raiseL_regs (s : Blk) (c i d0 d1 l : Nat) : (s.raiseL c i d0 d1 l).regs = s.regs := rfl
@[simp] theorem Blk.raiseL_held (s : Blk) (c i d0 d1 l : Nat) : (s.raiseL c i d0 d1 l).held = s.held := rfl
@[simp] theorem Blk.raiseL_mem (s : Blk) (c i d0 d1 l : Nat) : (s.raiseL c i d0 d1 l).mem = s.mem := rfl
@[simp] theorem Blk.raiseL_out (s : Blk) (c i d0 d1 l : Nat) : (s.raiseL c i d0 d1 l).out = s.out := rfl
@[simp] theorem Blk.raiseL_wires (s : Blk) (c i d0 d1 l : Nat) : (s.raiseL c i d0 d1 l).wires = s.wires := rfl
@[simp] theorem Blk.raiseL_holding (s : Blk) (c i d0 d1 l : Nat) : (s.raiseL c i d0 d1 l).holding = s.holding := rfl
@[simp] theorem Blk.raiseL_tim (s : Blk) (c i d0 d1 l : Nat) : (s.raiseL c i d0 d1 l).tim = s.tim := rfl
@[simp] theorem Blk.raiseL_bcn (s : Blk) (c i d0 d1 l : Nat) : (s.raiseL c i d0 d1 l).bcn = s.bcn := rfl
@[simp] theorem Blk.raiseL_encs (s : Blk) (c i d0 d1 l : Nat) : (s.raiseL c i d0 d1 l).encs = s.encs := rfl
@[simp] theorem Blk.raiseL_lck (s : Blk) (c i d0 d1 l : Nat) : (s.raiseL c i d0 d1 l).lck = s.lck := rfl
@[simp] theorem Blk.raiseL_scheds (s : Blk) (c i d0 d1 l : Nat) : (s.raiseL c i d0 d1 l).scheds = s.scheds := rfl
@[simp] theorem Blk.raiseL_pevs (s : Blk) (c i d0 d1 l : Nat) : (s.raiseL c i d0 d1 l).pevs = s.pevs := rfl
@[simp] theorem Blk.raiseL_trks (s : Blk) (c i d0 d1 l : Nat) : (s.raiseL c i d0 d1 l).trks = s.trks := rfl
@[simp] theorem Blk.raiseL_cmp (s : Blk) (c i d0 d1 l : Nat) : (s.raiseL c i d0 d1 l).cmp = s.cmp := rfl
@[simp] theorem Blk.raiseL_ports (s : Blk) (c i d0 d1 l : Nat) : (s.raiseL c i d0 d1 l).ports = s.ports := rfl
@[simp] theorem Blk.raiseL_mbx (s : Blk) (c i d0 d1 l : Nat) : (s.raiseL c i d0 d1 l).mbx = s.mbx := rfl
@[simp] theorem Blk.raiseL_cams (s : Blk) (c i d0 d1 l : Nat) : (s.raiseL c i d0 d1 l).cams = s.cams := rfl
@[simp] theorem Blk.raiseL_ins (s : Blk) (c i d0 d1 l : Nat) : (s.raiseL c i d0 d1 l).ins = s.ins := rfl
@[simp] theorem Blk.raiseL_sht (s : Blk) (c i d0 d1 l : Nat) : (s.raiseL c i d0 d1 l).sht = s.sht := rfl
@[simp] theorem Blk.raiseL_axes (s : Blk) (c i d0 d1 l : Nat) : (s.raiseL c i d0 d1 l).axes = s.axes := rfl
@[simp] theorem Blk.raiseL_twn (s : Blk) (c i d0 d1 l : Nat) : (s.raiseL c i d0 d1 l).twn = s.twn := rfl
@[simp] theorem Blk.raiseL_dram (s : Blk) (c i d0 d1 l : Nat) : (s.raiseL c i d0 d1 l).dram = s.dram := rfl
@[simp] theorem Blk.raiseL_lanes (s : Blk) (c i d0 d1 l : Nat) : (s.raiseL c i d0 d1 l).lanes = s.lanes := rfl
@[simp] theorem Blk.raiseL_scan (s : Blk) (c i d0 d1 l : Nat) : (s.raiseL c i d0 d1 l).scan = s.scan := rfl
@[simp] theorem Blk.raiseL_links (s : Blk) (c i d0 d1 l : Nat) : (s.raiseL c i d0 d1 l).links = s.links := rfl
@[simp] theorem Blk.raiseL_wal (s : Blk) (c i d0 d1 l : Nat) : (s.raiseL c i d0 d1 l).wal = s.wal := rfl
@[simp] theorem Blk.raiseL_time (s : Blk) (c i d0 d1 l : Nat) : (s.raiseL c i d0 d1 l).time = s.time := rfl
@[simp] theorem Blk.raiseL_streams (s : Blk) (c i d0 d1 l : Nat) : (s.raiseL c i d0 d1 l).streams = s.streams := rfl
@[simp] theorem Blk.raiseL_sto (s : Blk) (c i d0 d1 l : Nat) : (s.raiseL c i d0 d1 l).sto = s.sto := rfl
@[simp] theorem Blk.raiseL_bst (s : Blk) (c i d0 d1 l : Nat) : (s.raiseL c i d0 d1 l).bst = s.bst := rfl
@[simp] theorem Blk.raiseL_trm (s : Blk) (c i d0 d1 l : Nat) : (s.raiseL c i d0 d1 l).trm = s.trm := rfl
@[simp] theorem Blk.raiseL_fuse (s : Blk) (c i d0 d1 l : Nat) : (s.raiseL c i d0 d1 l).fuse = s.fuse := rfl
@[simp] theorem Blk.raiseL_sys (s : Blk) (c i d0 d1 l : Nat) : (s.raiseL c i d0 d1 l).sys = s.sys := rfl
@[simp] theorem Blk.raiseL_acc (s : Blk) (c i d0 d1 l : Nat) : (s.raiseL c i d0 d1 l).acc = s.acc := rfl

@[simp] theorem Blk.raise_now (s : Blk) (c i d0 d1 : Nat) : (s.raise c i d0 d1).now = s.now := rfl
@[simp] theorem Blk.raise_freeN (s : Blk) (c i d0 d1 : Nat) : (s.raise c i d0 d1).freeN = s.freeN := rfl
@[simp] theorem Blk.raise_regs (s : Blk) (c i d0 d1 : Nat) : (s.raise c i d0 d1).regs = s.regs := rfl
@[simp] theorem Blk.raise_held (s : Blk) (c i d0 d1 : Nat) : (s.raise c i d0 d1).held = s.held := rfl
@[simp] theorem Blk.raise_mem (s : Blk) (c i d0 d1 : Nat) : (s.raise c i d0 d1).mem = s.mem := rfl
@[simp] theorem Blk.raise_out (s : Blk) (c i d0 d1 : Nat) : (s.raise c i d0 d1).out = s.out := rfl
@[simp] theorem Blk.raise_wires (s : Blk) (c i d0 d1 : Nat) : (s.raise c i d0 d1).wires = s.wires := rfl
@[simp] theorem Blk.raise_holding (s : Blk) (c i d0 d1 : Nat) : (s.raise c i d0 d1).holding = s.holding := rfl
@[simp] theorem Blk.raise_tim (s : Blk) (c i d0 d1 : Nat) : (s.raise c i d0 d1).tim = s.tim := rfl
@[simp] theorem Blk.raise_bcn (s : Blk) (c i d0 d1 : Nat) : (s.raise c i d0 d1).bcn = s.bcn := rfl
@[simp] theorem Blk.raise_encs (s : Blk) (c i d0 d1 : Nat) : (s.raise c i d0 d1).encs = s.encs := rfl
@[simp] theorem Blk.raise_lck (s : Blk) (c i d0 d1 : Nat) : (s.raise c i d0 d1).lck = s.lck := rfl
@[simp] theorem Blk.raise_scheds (s : Blk) (c i d0 d1 : Nat) : (s.raise c i d0 d1).scheds = s.scheds := rfl
@[simp] theorem Blk.raise_pevs (s : Blk) (c i d0 d1 : Nat) : (s.raise c i d0 d1).pevs = s.pevs := rfl
@[simp] theorem Blk.raise_trks (s : Blk) (c i d0 d1 : Nat) : (s.raise c i d0 d1).trks = s.trks := rfl
@[simp] theorem Blk.raise_cmp (s : Blk) (c i d0 d1 : Nat) : (s.raise c i d0 d1).cmp = s.cmp := rfl
@[simp] theorem Blk.raise_ports (s : Blk) (c i d0 d1 : Nat) : (s.raise c i d0 d1).ports = s.ports := rfl
@[simp] theorem Blk.raise_mbx (s : Blk) (c i d0 d1 : Nat) : (s.raise c i d0 d1).mbx = s.mbx := rfl
@[simp] theorem Blk.raise_cams (s : Blk) (c i d0 d1 : Nat) : (s.raise c i d0 d1).cams = s.cams := rfl
@[simp] theorem Blk.raise_ins (s : Blk) (c i d0 d1 : Nat) : (s.raise c i d0 d1).ins = s.ins := rfl
@[simp] theorem Blk.raise_sht (s : Blk) (c i d0 d1 : Nat) : (s.raise c i d0 d1).sht = s.sht := rfl
@[simp] theorem Blk.raise_axes (s : Blk) (c i d0 d1 : Nat) : (s.raise c i d0 d1).axes = s.axes := rfl
@[simp] theorem Blk.raise_twn (s : Blk) (c i d0 d1 : Nat) : (s.raise c i d0 d1).twn = s.twn := rfl
@[simp] theorem Blk.raise_dram (s : Blk) (c i d0 d1 : Nat) : (s.raise c i d0 d1).dram = s.dram := rfl
@[simp] theorem Blk.raise_lanes (s : Blk) (c i d0 d1 : Nat) : (s.raise c i d0 d1).lanes = s.lanes := rfl
@[simp] theorem Blk.raise_scan (s : Blk) (c i d0 d1 : Nat) : (s.raise c i d0 d1).scan = s.scan := rfl
@[simp] theorem Blk.raise_links (s : Blk) (c i d0 d1 : Nat) : (s.raise c i d0 d1).links = s.links := rfl
@[simp] theorem Blk.raise_wal (s : Blk) (c i d0 d1 : Nat) : (s.raise c i d0 d1).wal = s.wal := rfl
@[simp] theorem Blk.raise_time (s : Blk) (c i d0 d1 : Nat) : (s.raise c i d0 d1).time = s.time := rfl
@[simp] theorem Blk.raise_streams (s : Blk) (c i d0 d1 : Nat) : (s.raise c i d0 d1).streams = s.streams := rfl
@[simp] theorem Blk.raise_sto (s : Blk) (c i d0 d1 : Nat) : (s.raise c i d0 d1).sto = s.sto := rfl
@[simp] theorem Blk.raise_bst (s : Blk) (c i d0 d1 : Nat) : (s.raise c i d0 d1).bst = s.bst := rfl
@[simp] theorem Blk.raise_trm (s : Blk) (c i d0 d1 : Nat) : (s.raise c i d0 d1).trm = s.trm := rfl
@[simp] theorem Blk.raise_fuse (s : Blk) (c i d0 d1 : Nat) : (s.raise c i d0 d1).fuse = s.fuse := rfl
@[simp] theorem Blk.raise_sys (s : Blk) (c i d0 d1 : Nat) : (s.raise c i d0 d1).sys = s.sys := rfl
@[simp] theorem Blk.raise_acc (s : Blk) (c i d0 d1 : Nat) : (s.raise c i d0 d1).acc = s.acc := rfl

@[simp] theorem Blk.raiseT_now (s : Blk) (c i d0 d1 : Nat) : (s.raiseT c i d0 d1).now = s.now := rfl
@[simp] theorem Blk.raiseT_freeN (s : Blk) (c i d0 d1 : Nat) : (s.raiseT c i d0 d1).freeN = s.freeN := rfl
@[simp] theorem Blk.raiseT_regs (s : Blk) (c i d0 d1 : Nat) : (s.raiseT c i d0 d1).regs = s.regs := rfl
@[simp] theorem Blk.raiseT_held (s : Blk) (c i d0 d1 : Nat) : (s.raiseT c i d0 d1).held = s.held := rfl
@[simp] theorem Blk.raiseT_mem (s : Blk) (c i d0 d1 : Nat) : (s.raiseT c i d0 d1).mem = s.mem := rfl
@[simp] theorem Blk.raiseT_out (s : Blk) (c i d0 d1 : Nat) : (s.raiseT c i d0 d1).out = s.out := rfl
@[simp] theorem Blk.raiseT_wires (s : Blk) (c i d0 d1 : Nat) : (s.raiseT c i d0 d1).wires = s.wires := rfl
@[simp] theorem Blk.raiseT_holding (s : Blk) (c i d0 d1 : Nat) : (s.raiseT c i d0 d1).holding = s.holding := rfl
@[simp] theorem Blk.raiseT_tim (s : Blk) (c i d0 d1 : Nat) : (s.raiseT c i d0 d1).tim = s.tim := rfl
@[simp] theorem Blk.raiseT_bcn (s : Blk) (c i d0 d1 : Nat) : (s.raiseT c i d0 d1).bcn = s.bcn := rfl
@[simp] theorem Blk.raiseT_encs (s : Blk) (c i d0 d1 : Nat) : (s.raiseT c i d0 d1).encs = s.encs := rfl
@[simp] theorem Blk.raiseT_lck (s : Blk) (c i d0 d1 : Nat) : (s.raiseT c i d0 d1).lck = s.lck := rfl
@[simp] theorem Blk.raiseT_scheds (s : Blk) (c i d0 d1 : Nat) : (s.raiseT c i d0 d1).scheds = s.scheds := rfl
@[simp] theorem Blk.raiseT_pevs (s : Blk) (c i d0 d1 : Nat) : (s.raiseT c i d0 d1).pevs = s.pevs := rfl
@[simp] theorem Blk.raiseT_trks (s : Blk) (c i d0 d1 : Nat) : (s.raiseT c i d0 d1).trks = s.trks := rfl
@[simp] theorem Blk.raiseT_cmp (s : Blk) (c i d0 d1 : Nat) : (s.raiseT c i d0 d1).cmp = s.cmp := rfl
@[simp] theorem Blk.raiseT_ports (s : Blk) (c i d0 d1 : Nat) : (s.raiseT c i d0 d1).ports = s.ports := rfl
@[simp] theorem Blk.raiseT_mbx (s : Blk) (c i d0 d1 : Nat) : (s.raiseT c i d0 d1).mbx = s.mbx := rfl
@[simp] theorem Blk.raiseT_cams (s : Blk) (c i d0 d1 : Nat) : (s.raiseT c i d0 d1).cams = s.cams := rfl
@[simp] theorem Blk.raiseT_ins (s : Blk) (c i d0 d1 : Nat) : (s.raiseT c i d0 d1).ins = s.ins := rfl
@[simp] theorem Blk.raiseT_sht (s : Blk) (c i d0 d1 : Nat) : (s.raiseT c i d0 d1).sht = s.sht := rfl
@[simp] theorem Blk.raiseT_axes (s : Blk) (c i d0 d1 : Nat) : (s.raiseT c i d0 d1).axes = s.axes := rfl
@[simp] theorem Blk.raiseT_twn (s : Blk) (c i d0 d1 : Nat) : (s.raiseT c i d0 d1).twn = s.twn := rfl
@[simp] theorem Blk.raiseT_dram (s : Blk) (c i d0 d1 : Nat) : (s.raiseT c i d0 d1).dram = s.dram := rfl
@[simp] theorem Blk.raiseT_lanes (s : Blk) (c i d0 d1 : Nat) : (s.raiseT c i d0 d1).lanes = s.lanes := rfl
@[simp] theorem Blk.raiseT_scan (s : Blk) (c i d0 d1 : Nat) : (s.raiseT c i d0 d1).scan = s.scan := rfl
@[simp] theorem Blk.raiseT_links (s : Blk) (c i d0 d1 : Nat) : (s.raiseT c i d0 d1).links = s.links := rfl
@[simp] theorem Blk.raiseT_wal (s : Blk) (c i d0 d1 : Nat) : (s.raiseT c i d0 d1).wal = s.wal := rfl
@[simp] theorem Blk.raiseT_time (s : Blk) (c i d0 d1 : Nat) : (s.raiseT c i d0 d1).time = s.time := rfl
@[simp] theorem Blk.raiseT_streams (s : Blk) (c i d0 d1 : Nat) : (s.raiseT c i d0 d1).streams = s.streams := rfl
@[simp] theorem Blk.raiseT_sto (s : Blk) (c i d0 d1 : Nat) : (s.raiseT c i d0 d1).sto = s.sto := rfl
@[simp] theorem Blk.raiseT_bst (s : Blk) (c i d0 d1 : Nat) : (s.raiseT c i d0 d1).bst = s.bst := rfl
@[simp] theorem Blk.raiseT_trm (s : Blk) (c i d0 d1 : Nat) : (s.raiseT c i d0 d1).trm = s.trm := rfl
@[simp] theorem Blk.raiseT_fuse (s : Blk) (c i d0 d1 : Nat) : (s.raiseT c i d0 d1).fuse = s.fuse := rfl
@[simp] theorem Blk.raiseT_sys (s : Blk) (c i d0 d1 : Nat) : (s.raiseT c i d0 d1).sys = s.sys := rfl
@[simp] theorem Blk.raiseT_acc (s : Blk) (c i d0 d1 : Nat) : (s.raiseT c i d0 d1).acc = s.acc := rfl

@[simp] theorem Blk.setEnc_now (s : Blk) (n : Nat) (x : Enc) : (s.setEnc n x).now = s.now := rfl
@[simp] theorem Blk.setEnc_freeN (s : Blk) (n : Nat) (x : Enc) : (s.setEnc n x).freeN = s.freeN := rfl
@[simp] theorem Blk.setEnc_regs (s : Blk) (n : Nat) (x : Enc) : (s.setEnc n x).regs = s.regs := rfl
@[simp] theorem Blk.setEnc_held (s : Blk) (n : Nat) (x : Enc) : (s.setEnc n x).held = s.held := rfl
@[simp] theorem Blk.setEnc_mem (s : Blk) (n : Nat) (x : Enc) : (s.setEnc n x).mem = s.mem := rfl
@[simp] theorem Blk.setEnc_evq (s : Blk) (n : Nat) (x : Enc) : (s.setEnc n x).evq = s.evq := rfl
@[simp] theorem Blk.setEnc_out (s : Blk) (n : Nat) (x : Enc) : (s.setEnc n x).out = s.out := rfl
@[simp] theorem Blk.setEnc_wires (s : Blk) (n : Nat) (x : Enc) : (s.setEnc n x).wires = s.wires := rfl
@[simp] theorem Blk.setEnc_holding (s : Blk) (n : Nat) (x : Enc) : (s.setEnc n x).holding = s.holding := rfl
@[simp] theorem Blk.setEnc_tim (s : Blk) (n : Nat) (x : Enc) : (s.setEnc n x).tim = s.tim := rfl
@[simp] theorem Blk.setEnc_bcn (s : Blk) (n : Nat) (x : Enc) : (s.setEnc n x).bcn = s.bcn := rfl
@[simp] theorem Blk.setEnc_lck (s : Blk) (n : Nat) (x : Enc) : (s.setEnc n x).lck = s.lck := rfl
@[simp] theorem Blk.setEnc_scheds (s : Blk) (n : Nat) (x : Enc) : (s.setEnc n x).scheds = s.scheds := rfl
@[simp] theorem Blk.setEnc_pevs (s : Blk) (n : Nat) (x : Enc) : (s.setEnc n x).pevs = s.pevs := rfl
@[simp] theorem Blk.setEnc_trks (s : Blk) (n : Nat) (x : Enc) : (s.setEnc n x).trks = s.trks := rfl
@[simp] theorem Blk.setEnc_cmp (s : Blk) (n : Nat) (x : Enc) : (s.setEnc n x).cmp = s.cmp := rfl
@[simp] theorem Blk.setEnc_ports (s : Blk) (n : Nat) (x : Enc) : (s.setEnc n x).ports = s.ports := rfl
@[simp] theorem Blk.setEnc_mbx (s : Blk) (n : Nat) (x : Enc) : (s.setEnc n x).mbx = s.mbx := rfl
@[simp] theorem Blk.setEnc_cams (s : Blk) (n : Nat) (x : Enc) : (s.setEnc n x).cams = s.cams := rfl
@[simp] theorem Blk.setEnc_ins (s : Blk) (n : Nat) (x : Enc) : (s.setEnc n x).ins = s.ins := rfl
@[simp] theorem Blk.setEnc_sht (s : Blk) (n : Nat) (x : Enc) : (s.setEnc n x).sht = s.sht := rfl
@[simp] theorem Blk.setEnc_axes (s : Blk) (n : Nat) (x : Enc) : (s.setEnc n x).axes = s.axes := rfl
@[simp] theorem Blk.setEnc_twn (s : Blk) (n : Nat) (x : Enc) : (s.setEnc n x).twn = s.twn := rfl
@[simp] theorem Blk.setEnc_dram (s : Blk) (n : Nat) (x : Enc) : (s.setEnc n x).dram = s.dram := rfl
@[simp] theorem Blk.setEnc_lanes (s : Blk) (n : Nat) (x : Enc) : (s.setEnc n x).lanes = s.lanes := rfl
@[simp] theorem Blk.setEnc_scan (s : Blk) (n : Nat) (x : Enc) : (s.setEnc n x).scan = s.scan := rfl
@[simp] theorem Blk.setEnc_links (s : Blk) (n : Nat) (x : Enc) : (s.setEnc n x).links = s.links := rfl
@[simp] theorem Blk.setEnc_wal (s : Blk) (n : Nat) (x : Enc) : (s.setEnc n x).wal = s.wal := rfl
@[simp] theorem Blk.setEnc_time (s : Blk) (n : Nat) (x : Enc) : (s.setEnc n x).time = s.time := rfl
@[simp] theorem Blk.setEnc_streams (s : Blk) (n : Nat) (x : Enc) : (s.setEnc n x).streams = s.streams := rfl
@[simp] theorem Blk.setEnc_sto (s : Blk) (n : Nat) (x : Enc) : (s.setEnc n x).sto = s.sto := rfl
@[simp] theorem Blk.setEnc_bst (s : Blk) (n : Nat) (x : Enc) : (s.setEnc n x).bst = s.bst := rfl
@[simp] theorem Blk.setEnc_trm (s : Blk) (n : Nat) (x : Enc) : (s.setEnc n x).trm = s.trm := rfl
@[simp] theorem Blk.setEnc_fuse (s : Blk) (n : Nat) (x : Enc) : (s.setEnc n x).fuse = s.fuse := rfl
@[simp] theorem Blk.setEnc_sys (s : Blk) (n : Nat) (x : Enc) : (s.setEnc n x).sys = s.sys := rfl
@[simp] theorem Blk.setEnc_acc (s : Blk) (n : Nat) (x : Enc) : (s.setEnc n x).acc = s.acc := rfl

@[simp] theorem Blk.setTrk_now (s : Blk) (n : Nat) (x : Trk) : (s.setTrk n x).now = s.now := rfl
@[simp] theorem Blk.setTrk_freeN (s : Blk) (n : Nat) (x : Trk) : (s.setTrk n x).freeN = s.freeN := rfl
@[simp] theorem Blk.setTrk_regs (s : Blk) (n : Nat) (x : Trk) : (s.setTrk n x).regs = s.regs := rfl
@[simp] theorem Blk.setTrk_held (s : Blk) (n : Nat) (x : Trk) : (s.setTrk n x).held = s.held := rfl
@[simp] theorem Blk.setTrk_mem (s : Blk) (n : Nat) (x : Trk) : (s.setTrk n x).mem = s.mem := rfl
@[simp] theorem Blk.setTrk_evq (s : Blk) (n : Nat) (x : Trk) : (s.setTrk n x).evq = s.evq := rfl
@[simp] theorem Blk.setTrk_out (s : Blk) (n : Nat) (x : Trk) : (s.setTrk n x).out = s.out := rfl
@[simp] theorem Blk.setTrk_wires (s : Blk) (n : Nat) (x : Trk) : (s.setTrk n x).wires = s.wires := rfl
@[simp] theorem Blk.setTrk_holding (s : Blk) (n : Nat) (x : Trk) : (s.setTrk n x).holding = s.holding := rfl
@[simp] theorem Blk.setTrk_tim (s : Blk) (n : Nat) (x : Trk) : (s.setTrk n x).tim = s.tim := rfl
@[simp] theorem Blk.setTrk_bcn (s : Blk) (n : Nat) (x : Trk) : (s.setTrk n x).bcn = s.bcn := rfl
@[simp] theorem Blk.setTrk_encs (s : Blk) (n : Nat) (x : Trk) : (s.setTrk n x).encs = s.encs := rfl
@[simp] theorem Blk.setTrk_lck (s : Blk) (n : Nat) (x : Trk) : (s.setTrk n x).lck = s.lck := rfl
@[simp] theorem Blk.setTrk_scheds (s : Blk) (n : Nat) (x : Trk) : (s.setTrk n x).scheds = s.scheds := rfl
@[simp] theorem Blk.setTrk_pevs (s : Blk) (n : Nat) (x : Trk) : (s.setTrk n x).pevs = s.pevs := rfl
@[simp] theorem Blk.setTrk_cmp (s : Blk) (n : Nat) (x : Trk) : (s.setTrk n x).cmp = s.cmp := rfl
@[simp] theorem Blk.setTrk_ports (s : Blk) (n : Nat) (x : Trk) : (s.setTrk n x).ports = s.ports := rfl
@[simp] theorem Blk.setTrk_mbx (s : Blk) (n : Nat) (x : Trk) : (s.setTrk n x).mbx = s.mbx := rfl
@[simp] theorem Blk.setTrk_cams (s : Blk) (n : Nat) (x : Trk) : (s.setTrk n x).cams = s.cams := rfl
@[simp] theorem Blk.setTrk_ins (s : Blk) (n : Nat) (x : Trk) : (s.setTrk n x).ins = s.ins := rfl
@[simp] theorem Blk.setTrk_sht (s : Blk) (n : Nat) (x : Trk) : (s.setTrk n x).sht = s.sht := rfl
@[simp] theorem Blk.setTrk_axes (s : Blk) (n : Nat) (x : Trk) : (s.setTrk n x).axes = s.axes := rfl
@[simp] theorem Blk.setTrk_twn (s : Blk) (n : Nat) (x : Trk) : (s.setTrk n x).twn = s.twn := rfl
@[simp] theorem Blk.setTrk_dram (s : Blk) (n : Nat) (x : Trk) : (s.setTrk n x).dram = s.dram := rfl
@[simp] theorem Blk.setTrk_lanes (s : Blk) (n : Nat) (x : Trk) : (s.setTrk n x).lanes = s.lanes := rfl
@[simp] theorem Blk.setTrk_scan (s : Blk) (n : Nat) (x : Trk) : (s.setTrk n x).scan = s.scan := rfl
@[simp] theorem Blk.setTrk_links (s : Blk) (n : Nat) (x : Trk) : (s.setTrk n x).links = s.links := rfl
@[simp] theorem Blk.setTrk_wal (s : Blk) (n : Nat) (x : Trk) : (s.setTrk n x).wal = s.wal := rfl
@[simp] theorem Blk.setTrk_time (s : Blk) (n : Nat) (x : Trk) : (s.setTrk n x).time = s.time := rfl
@[simp] theorem Blk.setTrk_streams (s : Blk) (n : Nat) (x : Trk) : (s.setTrk n x).streams = s.streams := rfl
@[simp] theorem Blk.setTrk_sto (s : Blk) (n : Nat) (x : Trk) : (s.setTrk n x).sto = s.sto := rfl
@[simp] theorem Blk.setTrk_bst (s : Blk) (n : Nat) (x : Trk) : (s.setTrk n x).bst = s.bst := rfl
@[simp] theorem Blk.setTrk_trm (s : Blk) (n : Nat) (x : Trk) : (s.setTrk n x).trm = s.trm := rfl
@[simp] theorem Blk.setTrk_fuse (s : Blk) (n : Nat) (x : Trk) : (s.setTrk n x).fuse = s.fuse := rfl
@[simp] theorem Blk.setTrk_sys (s : Blk) (n : Nat) (x : Trk) : (s.setTrk n x).sys = s.sys := rfl
@[simp] theorem Blk.setTrk_acc (s : Blk) (n : Nat) (x : Trk) : (s.setTrk n x).acc = s.acc := rfl

@[simp] theorem Blk.setSched_now (s : Blk) (n : Nat) (x : List SchedEntry) : (s.setSched n x).now = s.now := rfl
@[simp] theorem Blk.setSched_freeN (s : Blk) (n : Nat) (x : List SchedEntry) : (s.setSched n x).freeN = s.freeN := rfl
@[simp] theorem Blk.setSched_regs (s : Blk) (n : Nat) (x : List SchedEntry) : (s.setSched n x).regs = s.regs := rfl
@[simp] theorem Blk.setSched_held (s : Blk) (n : Nat) (x : List SchedEntry) : (s.setSched n x).held = s.held := rfl
@[simp] theorem Blk.setSched_mem (s : Blk) (n : Nat) (x : List SchedEntry) : (s.setSched n x).mem = s.mem := rfl
@[simp] theorem Blk.setSched_evq (s : Blk) (n : Nat) (x : List SchedEntry) : (s.setSched n x).evq = s.evq := rfl
@[simp] theorem Blk.setSched_out (s : Blk) (n : Nat) (x : List SchedEntry) : (s.setSched n x).out = s.out := rfl
@[simp] theorem Blk.setSched_wires (s : Blk) (n : Nat) (x : List SchedEntry) : (s.setSched n x).wires = s.wires := rfl
@[simp] theorem Blk.setSched_holding (s : Blk) (n : Nat) (x : List SchedEntry) : (s.setSched n x).holding = s.holding := rfl
@[simp] theorem Blk.setSched_tim (s : Blk) (n : Nat) (x : List SchedEntry) : (s.setSched n x).tim = s.tim := rfl
@[simp] theorem Blk.setSched_bcn (s : Blk) (n : Nat) (x : List SchedEntry) : (s.setSched n x).bcn = s.bcn := rfl
@[simp] theorem Blk.setSched_encs (s : Blk) (n : Nat) (x : List SchedEntry) : (s.setSched n x).encs = s.encs := rfl
@[simp] theorem Blk.setSched_lck (s : Blk) (n : Nat) (x : List SchedEntry) : (s.setSched n x).lck = s.lck := rfl
@[simp] theorem Blk.setSched_pevs (s : Blk) (n : Nat) (x : List SchedEntry) : (s.setSched n x).pevs = s.pevs := rfl
@[simp] theorem Blk.setSched_trks (s : Blk) (n : Nat) (x : List SchedEntry) : (s.setSched n x).trks = s.trks := rfl
@[simp] theorem Blk.setSched_cmp (s : Blk) (n : Nat) (x : List SchedEntry) : (s.setSched n x).cmp = s.cmp := rfl
@[simp] theorem Blk.setSched_ports (s : Blk) (n : Nat) (x : List SchedEntry) : (s.setSched n x).ports = s.ports := rfl
@[simp] theorem Blk.setSched_mbx (s : Blk) (n : Nat) (x : List SchedEntry) : (s.setSched n x).mbx = s.mbx := rfl
@[simp] theorem Blk.setSched_cams (s : Blk) (n : Nat) (x : List SchedEntry) : (s.setSched n x).cams = s.cams := rfl
@[simp] theorem Blk.setSched_ins (s : Blk) (n : Nat) (x : List SchedEntry) : (s.setSched n x).ins = s.ins := rfl
@[simp] theorem Blk.setSched_sht (s : Blk) (n : Nat) (x : List SchedEntry) : (s.setSched n x).sht = s.sht := rfl
@[simp] theorem Blk.setSched_axes (s : Blk) (n : Nat) (x : List SchedEntry) : (s.setSched n x).axes = s.axes := rfl
@[simp] theorem Blk.setSched_twn (s : Blk) (n : Nat) (x : List SchedEntry) : (s.setSched n x).twn = s.twn := rfl
@[simp] theorem Blk.setSched_dram (s : Blk) (n : Nat) (x : List SchedEntry) : (s.setSched n x).dram = s.dram := rfl
@[simp] theorem Blk.setSched_lanes (s : Blk) (n : Nat) (x : List SchedEntry) : (s.setSched n x).lanes = s.lanes := rfl
@[simp] theorem Blk.setSched_scan (s : Blk) (n : Nat) (x : List SchedEntry) : (s.setSched n x).scan = s.scan := rfl
@[simp] theorem Blk.setSched_links (s : Blk) (n : Nat) (x : List SchedEntry) : (s.setSched n x).links = s.links := rfl
@[simp] theorem Blk.setSched_wal (s : Blk) (n : Nat) (x : List SchedEntry) : (s.setSched n x).wal = s.wal := rfl
@[simp] theorem Blk.setSched_time (s : Blk) (n : Nat) (x : List SchedEntry) : (s.setSched n x).time = s.time := rfl
@[simp] theorem Blk.setSched_streams (s : Blk) (n : Nat) (x : List SchedEntry) : (s.setSched n x).streams = s.streams := rfl
@[simp] theorem Blk.setSched_sto (s : Blk) (n : Nat) (x : List SchedEntry) : (s.setSched n x).sto = s.sto := rfl
@[simp] theorem Blk.setSched_bst (s : Blk) (n : Nat) (x : List SchedEntry) : (s.setSched n x).bst = s.bst := rfl
@[simp] theorem Blk.setSched_trm (s : Blk) (n : Nat) (x : List SchedEntry) : (s.setSched n x).trm = s.trm := rfl
@[simp] theorem Blk.setSched_fuse (s : Blk) (n : Nat) (x : List SchedEntry) : (s.setSched n x).fuse = s.fuse := rfl
@[simp] theorem Blk.setSched_sys (s : Blk) (n : Nat) (x : List SchedEntry) : (s.setSched n x).sys = s.sys := rfl
@[simp] theorem Blk.setSched_acc (s : Blk) (n : Nat) (x : List SchedEntry) : (s.setSched n x).acc = s.acc := rfl

@[simp] theorem Blk.setPev_now (s : Blk) (n : Nat) (x : Pev) : (s.setPev n x).now = s.now := rfl
@[simp] theorem Blk.setPev_freeN (s : Blk) (n : Nat) (x : Pev) : (s.setPev n x).freeN = s.freeN := rfl
@[simp] theorem Blk.setPev_regs (s : Blk) (n : Nat) (x : Pev) : (s.setPev n x).regs = s.regs := rfl
@[simp] theorem Blk.setPev_held (s : Blk) (n : Nat) (x : Pev) : (s.setPev n x).held = s.held := rfl
@[simp] theorem Blk.setPev_mem (s : Blk) (n : Nat) (x : Pev) : (s.setPev n x).mem = s.mem := rfl
@[simp] theorem Blk.setPev_evq (s : Blk) (n : Nat) (x : Pev) : (s.setPev n x).evq = s.evq := rfl
@[simp] theorem Blk.setPev_out (s : Blk) (n : Nat) (x : Pev) : (s.setPev n x).out = s.out := rfl
@[simp] theorem Blk.setPev_wires (s : Blk) (n : Nat) (x : Pev) : (s.setPev n x).wires = s.wires := rfl
@[simp] theorem Blk.setPev_holding (s : Blk) (n : Nat) (x : Pev) : (s.setPev n x).holding = s.holding := rfl
@[simp] theorem Blk.setPev_tim (s : Blk) (n : Nat) (x : Pev) : (s.setPev n x).tim = s.tim := rfl
@[simp] theorem Blk.setPev_bcn (s : Blk) (n : Nat) (x : Pev) : (s.setPev n x).bcn = s.bcn := rfl
@[simp] theorem Blk.setPev_encs (s : Blk) (n : Nat) (x : Pev) : (s.setPev n x).encs = s.encs := rfl
@[simp] theorem Blk.setPev_lck (s : Blk) (n : Nat) (x : Pev) : (s.setPev n x).lck = s.lck := rfl
@[simp] theorem Blk.setPev_scheds (s : Blk) (n : Nat) (x : Pev) : (s.setPev n x).scheds = s.scheds := rfl
@[simp] theorem Blk.setPev_trks (s : Blk) (n : Nat) (x : Pev) : (s.setPev n x).trks = s.trks := rfl
@[simp] theorem Blk.setPev_cmp (s : Blk) (n : Nat) (x : Pev) : (s.setPev n x).cmp = s.cmp := rfl
@[simp] theorem Blk.setPev_ports (s : Blk) (n : Nat) (x : Pev) : (s.setPev n x).ports = s.ports := rfl
@[simp] theorem Blk.setPev_mbx (s : Blk) (n : Nat) (x : Pev) : (s.setPev n x).mbx = s.mbx := rfl
@[simp] theorem Blk.setPev_cams (s : Blk) (n : Nat) (x : Pev) : (s.setPev n x).cams = s.cams := rfl
@[simp] theorem Blk.setPev_ins (s : Blk) (n : Nat) (x : Pev) : (s.setPev n x).ins = s.ins := rfl
@[simp] theorem Blk.setPev_sht (s : Blk) (n : Nat) (x : Pev) : (s.setPev n x).sht = s.sht := rfl
@[simp] theorem Blk.setPev_axes (s : Blk) (n : Nat) (x : Pev) : (s.setPev n x).axes = s.axes := rfl
@[simp] theorem Blk.setPev_twn (s : Blk) (n : Nat) (x : Pev) : (s.setPev n x).twn = s.twn := rfl
@[simp] theorem Blk.setPev_dram (s : Blk) (n : Nat) (x : Pev) : (s.setPev n x).dram = s.dram := rfl
@[simp] theorem Blk.setPev_lanes (s : Blk) (n : Nat) (x : Pev) : (s.setPev n x).lanes = s.lanes := rfl
@[simp] theorem Blk.setPev_scan (s : Blk) (n : Nat) (x : Pev) : (s.setPev n x).scan = s.scan := rfl
@[simp] theorem Blk.setPev_links (s : Blk) (n : Nat) (x : Pev) : (s.setPev n x).links = s.links := rfl
@[simp] theorem Blk.setPev_wal (s : Blk) (n : Nat) (x : Pev) : (s.setPev n x).wal = s.wal := rfl
@[simp] theorem Blk.setPev_time (s : Blk) (n : Nat) (x : Pev) : (s.setPev n x).time = s.time := rfl
@[simp] theorem Blk.setPev_streams (s : Blk) (n : Nat) (x : Pev) : (s.setPev n x).streams = s.streams := rfl
@[simp] theorem Blk.setPev_sto (s : Blk) (n : Nat) (x : Pev) : (s.setPev n x).sto = s.sto := rfl
@[simp] theorem Blk.setPev_bst (s : Blk) (n : Nat) (x : Pev) : (s.setPev n x).bst = s.bst := rfl
@[simp] theorem Blk.setPev_trm (s : Blk) (n : Nat) (x : Pev) : (s.setPev n x).trm = s.trm := rfl
@[simp] theorem Blk.setPev_fuse (s : Blk) (n : Nat) (x : Pev) : (s.setPev n x).fuse = s.fuse := rfl
@[simp] theorem Blk.setPev_sys (s : Blk) (n : Nat) (x : Pev) : (s.setPev n x).sys = s.sys := rfl
@[simp] theorem Blk.setPev_acc (s : Blk) (n : Nat) (x : Pev) : (s.setPev n x).acc = s.acc := rfl

@[simp] theorem Blk.setCam_now (s : Blk) (n : Nat) (x : Cam) : (s.setCam n x).now = s.now := rfl
@[simp] theorem Blk.setCam_freeN (s : Blk) (n : Nat) (x : Cam) : (s.setCam n x).freeN = s.freeN := rfl
@[simp] theorem Blk.setCam_regs (s : Blk) (n : Nat) (x : Cam) : (s.setCam n x).regs = s.regs := rfl
@[simp] theorem Blk.setCam_held (s : Blk) (n : Nat) (x : Cam) : (s.setCam n x).held = s.held := rfl
@[simp] theorem Blk.setCam_mem (s : Blk) (n : Nat) (x : Cam) : (s.setCam n x).mem = s.mem := rfl
@[simp] theorem Blk.setCam_evq (s : Blk) (n : Nat) (x : Cam) : (s.setCam n x).evq = s.evq := rfl
@[simp] theorem Blk.setCam_out (s : Blk) (n : Nat) (x : Cam) : (s.setCam n x).out = s.out := rfl
@[simp] theorem Blk.setCam_wires (s : Blk) (n : Nat) (x : Cam) : (s.setCam n x).wires = s.wires := rfl
@[simp] theorem Blk.setCam_holding (s : Blk) (n : Nat) (x : Cam) : (s.setCam n x).holding = s.holding := rfl
@[simp] theorem Blk.setCam_tim (s : Blk) (n : Nat) (x : Cam) : (s.setCam n x).tim = s.tim := rfl
@[simp] theorem Blk.setCam_bcn (s : Blk) (n : Nat) (x : Cam) : (s.setCam n x).bcn = s.bcn := rfl
@[simp] theorem Blk.setCam_encs (s : Blk) (n : Nat) (x : Cam) : (s.setCam n x).encs = s.encs := rfl
@[simp] theorem Blk.setCam_lck (s : Blk) (n : Nat) (x : Cam) : (s.setCam n x).lck = s.lck := rfl
@[simp] theorem Blk.setCam_scheds (s : Blk) (n : Nat) (x : Cam) : (s.setCam n x).scheds = s.scheds := rfl
@[simp] theorem Blk.setCam_pevs (s : Blk) (n : Nat) (x : Cam) : (s.setCam n x).pevs = s.pevs := rfl
@[simp] theorem Blk.setCam_trks (s : Blk) (n : Nat) (x : Cam) : (s.setCam n x).trks = s.trks := rfl
@[simp] theorem Blk.setCam_cmp (s : Blk) (n : Nat) (x : Cam) : (s.setCam n x).cmp = s.cmp := rfl
@[simp] theorem Blk.setCam_ports (s : Blk) (n : Nat) (x : Cam) : (s.setCam n x).ports = s.ports := rfl
@[simp] theorem Blk.setCam_mbx (s : Blk) (n : Nat) (x : Cam) : (s.setCam n x).mbx = s.mbx := rfl
@[simp] theorem Blk.setCam_ins (s : Blk) (n : Nat) (x : Cam) : (s.setCam n x).ins = s.ins := rfl
@[simp] theorem Blk.setCam_sht (s : Blk) (n : Nat) (x : Cam) : (s.setCam n x).sht = s.sht := rfl
@[simp] theorem Blk.setCam_axes (s : Blk) (n : Nat) (x : Cam) : (s.setCam n x).axes = s.axes := rfl
@[simp] theorem Blk.setCam_twn (s : Blk) (n : Nat) (x : Cam) : (s.setCam n x).twn = s.twn := rfl
@[simp] theorem Blk.setCam_dram (s : Blk) (n : Nat) (x : Cam) : (s.setCam n x).dram = s.dram := rfl
@[simp] theorem Blk.setCam_lanes (s : Blk) (n : Nat) (x : Cam) : (s.setCam n x).lanes = s.lanes := rfl
@[simp] theorem Blk.setCam_scan (s : Blk) (n : Nat) (x : Cam) : (s.setCam n x).scan = s.scan := rfl
@[simp] theorem Blk.setCam_links (s : Blk) (n : Nat) (x : Cam) : (s.setCam n x).links = s.links := rfl
@[simp] theorem Blk.setCam_wal (s : Blk) (n : Nat) (x : Cam) : (s.setCam n x).wal = s.wal := rfl
@[simp] theorem Blk.setCam_time (s : Blk) (n : Nat) (x : Cam) : (s.setCam n x).time = s.time := rfl
@[simp] theorem Blk.setCam_streams (s : Blk) (n : Nat) (x : Cam) : (s.setCam n x).streams = s.streams := rfl
@[simp] theorem Blk.setCam_sto (s : Blk) (n : Nat) (x : Cam) : (s.setCam n x).sto = s.sto := rfl
@[simp] theorem Blk.setCam_bst (s : Blk) (n : Nat) (x : Cam) : (s.setCam n x).bst = s.bst := rfl
@[simp] theorem Blk.setCam_trm (s : Blk) (n : Nat) (x : Cam) : (s.setCam n x).trm = s.trm := rfl
@[simp] theorem Blk.setCam_fuse (s : Blk) (n : Nat) (x : Cam) : (s.setCam n x).fuse = s.fuse := rfl
@[simp] theorem Blk.setCam_sys (s : Blk) (n : Nat) (x : Cam) : (s.setCam n x).sys = s.sys := rfl
@[simp] theorem Blk.setCam_acc (s : Blk) (n : Nat) (x : Cam) : (s.setCam n x).acc = s.acc := rfl

@[simp] theorem Blk.setPort_now (s : Blk) (n : Nat) (x : Port) : (s.setPort n x).now = s.now := rfl
@[simp] theorem Blk.setPort_freeN (s : Blk) (n : Nat) (x : Port) : (s.setPort n x).freeN = s.freeN := rfl
@[simp] theorem Blk.setPort_regs (s : Blk) (n : Nat) (x : Port) : (s.setPort n x).regs = s.regs := rfl
@[simp] theorem Blk.setPort_held (s : Blk) (n : Nat) (x : Port) : (s.setPort n x).held = s.held := rfl
@[simp] theorem Blk.setPort_mem (s : Blk) (n : Nat) (x : Port) : (s.setPort n x).mem = s.mem := rfl
@[simp] theorem Blk.setPort_evq (s : Blk) (n : Nat) (x : Port) : (s.setPort n x).evq = s.evq := rfl
@[simp] theorem Blk.setPort_out (s : Blk) (n : Nat) (x : Port) : (s.setPort n x).out = s.out := rfl
@[simp] theorem Blk.setPort_wires (s : Blk) (n : Nat) (x : Port) : (s.setPort n x).wires = s.wires := rfl
@[simp] theorem Blk.setPort_holding (s : Blk) (n : Nat) (x : Port) : (s.setPort n x).holding = s.holding := rfl
@[simp] theorem Blk.setPort_tim (s : Blk) (n : Nat) (x : Port) : (s.setPort n x).tim = s.tim := rfl
@[simp] theorem Blk.setPort_bcn (s : Blk) (n : Nat) (x : Port) : (s.setPort n x).bcn = s.bcn := rfl
@[simp] theorem Blk.setPort_encs (s : Blk) (n : Nat) (x : Port) : (s.setPort n x).encs = s.encs := rfl
@[simp] theorem Blk.setPort_lck (s : Blk) (n : Nat) (x : Port) : (s.setPort n x).lck = s.lck := rfl
@[simp] theorem Blk.setPort_scheds (s : Blk) (n : Nat) (x : Port) : (s.setPort n x).scheds = s.scheds := rfl
@[simp] theorem Blk.setPort_pevs (s : Blk) (n : Nat) (x : Port) : (s.setPort n x).pevs = s.pevs := rfl
@[simp] theorem Blk.setPort_trks (s : Blk) (n : Nat) (x : Port) : (s.setPort n x).trks = s.trks := rfl
@[simp] theorem Blk.setPort_cmp (s : Blk) (n : Nat) (x : Port) : (s.setPort n x).cmp = s.cmp := rfl
@[simp] theorem Blk.setPort_mbx (s : Blk) (n : Nat) (x : Port) : (s.setPort n x).mbx = s.mbx := rfl
@[simp] theorem Blk.setPort_cams (s : Blk) (n : Nat) (x : Port) : (s.setPort n x).cams = s.cams := rfl
@[simp] theorem Blk.setPort_ins (s : Blk) (n : Nat) (x : Port) : (s.setPort n x).ins = s.ins := rfl
@[simp] theorem Blk.setPort_sht (s : Blk) (n : Nat) (x : Port) : (s.setPort n x).sht = s.sht := rfl
@[simp] theorem Blk.setPort_axes (s : Blk) (n : Nat) (x : Port) : (s.setPort n x).axes = s.axes := rfl
@[simp] theorem Blk.setPort_twn (s : Blk) (n : Nat) (x : Port) : (s.setPort n x).twn = s.twn := rfl
@[simp] theorem Blk.setPort_dram (s : Blk) (n : Nat) (x : Port) : (s.setPort n x).dram = s.dram := rfl
@[simp] theorem Blk.setPort_lanes (s : Blk) (n : Nat) (x : Port) : (s.setPort n x).lanes = s.lanes := rfl
@[simp] theorem Blk.setPort_scan (s : Blk) (n : Nat) (x : Port) : (s.setPort n x).scan = s.scan := rfl
@[simp] theorem Blk.setPort_links (s : Blk) (n : Nat) (x : Port) : (s.setPort n x).links = s.links := rfl
@[simp] theorem Blk.setPort_wal (s : Blk) (n : Nat) (x : Port) : (s.setPort n x).wal = s.wal := rfl
@[simp] theorem Blk.setPort_time (s : Blk) (n : Nat) (x : Port) : (s.setPort n x).time = s.time := rfl
@[simp] theorem Blk.setPort_streams (s : Blk) (n : Nat) (x : Port) : (s.setPort n x).streams = s.streams := rfl
@[simp] theorem Blk.setPort_sto (s : Blk) (n : Nat) (x : Port) : (s.setPort n x).sto = s.sto := rfl
@[simp] theorem Blk.setPort_bst (s : Blk) (n : Nat) (x : Port) : (s.setPort n x).bst = s.bst := rfl
@[simp] theorem Blk.setPort_trm (s : Blk) (n : Nat) (x : Port) : (s.setPort n x).trm = s.trm := rfl
@[simp] theorem Blk.setPort_fuse (s : Blk) (n : Nat) (x : Port) : (s.setPort n x).fuse = s.fuse := rfl
@[simp] theorem Blk.setPort_sys (s : Blk) (n : Nat) (x : Port) : (s.setPort n x).sys = s.sys := rfl
@[simp] theorem Blk.setPort_acc (s : Blk) (n : Nat) (x : Port) : (s.setPort n x).acc = s.acc := rfl

@[simp] theorem Blk.setLane_now (s : Blk) (n : Nat) (x : Lane) : (s.setLane n x).now = s.now := rfl
@[simp] theorem Blk.setLane_freeN (s : Blk) (n : Nat) (x : Lane) : (s.setLane n x).freeN = s.freeN := rfl
@[simp] theorem Blk.setLane_regs (s : Blk) (n : Nat) (x : Lane) : (s.setLane n x).regs = s.regs := rfl
@[simp] theorem Blk.setLane_held (s : Blk) (n : Nat) (x : Lane) : (s.setLane n x).held = s.held := rfl
@[simp] theorem Blk.setLane_mem (s : Blk) (n : Nat) (x : Lane) : (s.setLane n x).mem = s.mem := rfl
@[simp] theorem Blk.setLane_evq (s : Blk) (n : Nat) (x : Lane) : (s.setLane n x).evq = s.evq := rfl
@[simp] theorem Blk.setLane_out (s : Blk) (n : Nat) (x : Lane) : (s.setLane n x).out = s.out := rfl
@[simp] theorem Blk.setLane_wires (s : Blk) (n : Nat) (x : Lane) : (s.setLane n x).wires = s.wires := rfl
@[simp] theorem Blk.setLane_holding (s : Blk) (n : Nat) (x : Lane) : (s.setLane n x).holding = s.holding := rfl
@[simp] theorem Blk.setLane_tim (s : Blk) (n : Nat) (x : Lane) : (s.setLane n x).tim = s.tim := rfl
@[simp] theorem Blk.setLane_bcn (s : Blk) (n : Nat) (x : Lane) : (s.setLane n x).bcn = s.bcn := rfl
@[simp] theorem Blk.setLane_encs (s : Blk) (n : Nat) (x : Lane) : (s.setLane n x).encs = s.encs := rfl
@[simp] theorem Blk.setLane_lck (s : Blk) (n : Nat) (x : Lane) : (s.setLane n x).lck = s.lck := rfl
@[simp] theorem Blk.setLane_scheds (s : Blk) (n : Nat) (x : Lane) : (s.setLane n x).scheds = s.scheds := rfl
@[simp] theorem Blk.setLane_pevs (s : Blk) (n : Nat) (x : Lane) : (s.setLane n x).pevs = s.pevs := rfl
@[simp] theorem Blk.setLane_trks (s : Blk) (n : Nat) (x : Lane) : (s.setLane n x).trks = s.trks := rfl
@[simp] theorem Blk.setLane_cmp (s : Blk) (n : Nat) (x : Lane) : (s.setLane n x).cmp = s.cmp := rfl
@[simp] theorem Blk.setLane_ports (s : Blk) (n : Nat) (x : Lane) : (s.setLane n x).ports = s.ports := rfl
@[simp] theorem Blk.setLane_mbx (s : Blk) (n : Nat) (x : Lane) : (s.setLane n x).mbx = s.mbx := rfl
@[simp] theorem Blk.setLane_cams (s : Blk) (n : Nat) (x : Lane) : (s.setLane n x).cams = s.cams := rfl
@[simp] theorem Blk.setLane_ins (s : Blk) (n : Nat) (x : Lane) : (s.setLane n x).ins = s.ins := rfl
@[simp] theorem Blk.setLane_sht (s : Blk) (n : Nat) (x : Lane) : (s.setLane n x).sht = s.sht := rfl
@[simp] theorem Blk.setLane_axes (s : Blk) (n : Nat) (x : Lane) : (s.setLane n x).axes = s.axes := rfl
@[simp] theorem Blk.setLane_twn (s : Blk) (n : Nat) (x : Lane) : (s.setLane n x).twn = s.twn := rfl
@[simp] theorem Blk.setLane_dram (s : Blk) (n : Nat) (x : Lane) : (s.setLane n x).dram = s.dram := rfl
@[simp] theorem Blk.setLane_scan (s : Blk) (n : Nat) (x : Lane) : (s.setLane n x).scan = s.scan := rfl
@[simp] theorem Blk.setLane_links (s : Blk) (n : Nat) (x : Lane) : (s.setLane n x).links = s.links := rfl
@[simp] theorem Blk.setLane_wal (s : Blk) (n : Nat) (x : Lane) : (s.setLane n x).wal = s.wal := rfl
@[simp] theorem Blk.setLane_time (s : Blk) (n : Nat) (x : Lane) : (s.setLane n x).time = s.time := rfl
@[simp] theorem Blk.setLane_streams (s : Blk) (n : Nat) (x : Lane) : (s.setLane n x).streams = s.streams := rfl
@[simp] theorem Blk.setLane_sto (s : Blk) (n : Nat) (x : Lane) : (s.setLane n x).sto = s.sto := rfl
@[simp] theorem Blk.setLane_bst (s : Blk) (n : Nat) (x : Lane) : (s.setLane n x).bst = s.bst := rfl
@[simp] theorem Blk.setLane_trm (s : Blk) (n : Nat) (x : Lane) : (s.setLane n x).trm = s.trm := rfl
@[simp] theorem Blk.setLane_fuse (s : Blk) (n : Nat) (x : Lane) : (s.setLane n x).fuse = s.fuse := rfl
@[simp] theorem Blk.setLane_sys (s : Blk) (n : Nat) (x : Lane) : (s.setLane n x).sys = s.sys := rfl
@[simp] theorem Blk.setLane_acc (s : Blk) (n : Nat) (x : Lane) : (s.setLane n x).acc = s.acc := rfl

@[simp] theorem Blk.setLink_now (s : Blk) (n : Nat) (x : Link) : (s.setLink n x).now = s.now := rfl
@[simp] theorem Blk.setLink_freeN (s : Blk) (n : Nat) (x : Link) : (s.setLink n x).freeN = s.freeN := rfl
@[simp] theorem Blk.setLink_regs (s : Blk) (n : Nat) (x : Link) : (s.setLink n x).regs = s.regs := rfl
@[simp] theorem Blk.setLink_held (s : Blk) (n : Nat) (x : Link) : (s.setLink n x).held = s.held := rfl
@[simp] theorem Blk.setLink_mem (s : Blk) (n : Nat) (x : Link) : (s.setLink n x).mem = s.mem := rfl
@[simp] theorem Blk.setLink_evq (s : Blk) (n : Nat) (x : Link) : (s.setLink n x).evq = s.evq := rfl
@[simp] theorem Blk.setLink_out (s : Blk) (n : Nat) (x : Link) : (s.setLink n x).out = s.out := rfl
@[simp] theorem Blk.setLink_wires (s : Blk) (n : Nat) (x : Link) : (s.setLink n x).wires = s.wires := rfl
@[simp] theorem Blk.setLink_holding (s : Blk) (n : Nat) (x : Link) : (s.setLink n x).holding = s.holding := rfl
@[simp] theorem Blk.setLink_tim (s : Blk) (n : Nat) (x : Link) : (s.setLink n x).tim = s.tim := rfl
@[simp] theorem Blk.setLink_bcn (s : Blk) (n : Nat) (x : Link) : (s.setLink n x).bcn = s.bcn := rfl
@[simp] theorem Blk.setLink_encs (s : Blk) (n : Nat) (x : Link) : (s.setLink n x).encs = s.encs := rfl
@[simp] theorem Blk.setLink_lck (s : Blk) (n : Nat) (x : Link) : (s.setLink n x).lck = s.lck := rfl
@[simp] theorem Blk.setLink_scheds (s : Blk) (n : Nat) (x : Link) : (s.setLink n x).scheds = s.scheds := rfl
@[simp] theorem Blk.setLink_pevs (s : Blk) (n : Nat) (x : Link) : (s.setLink n x).pevs = s.pevs := rfl
@[simp] theorem Blk.setLink_trks (s : Blk) (n : Nat) (x : Link) : (s.setLink n x).trks = s.trks := rfl
@[simp] theorem Blk.setLink_cmp (s : Blk) (n : Nat) (x : Link) : (s.setLink n x).cmp = s.cmp := rfl
@[simp] theorem Blk.setLink_ports (s : Blk) (n : Nat) (x : Link) : (s.setLink n x).ports = s.ports := rfl
@[simp] theorem Blk.setLink_mbx (s : Blk) (n : Nat) (x : Link) : (s.setLink n x).mbx = s.mbx := rfl
@[simp] theorem Blk.setLink_cams (s : Blk) (n : Nat) (x : Link) : (s.setLink n x).cams = s.cams := rfl
@[simp] theorem Blk.setLink_ins (s : Blk) (n : Nat) (x : Link) : (s.setLink n x).ins = s.ins := rfl
@[simp] theorem Blk.setLink_sht (s : Blk) (n : Nat) (x : Link) : (s.setLink n x).sht = s.sht := rfl
@[simp] theorem Blk.setLink_axes (s : Blk) (n : Nat) (x : Link) : (s.setLink n x).axes = s.axes := rfl
@[simp] theorem Blk.setLink_twn (s : Blk) (n : Nat) (x : Link) : (s.setLink n x).twn = s.twn := rfl
@[simp] theorem Blk.setLink_dram (s : Blk) (n : Nat) (x : Link) : (s.setLink n x).dram = s.dram := rfl
@[simp] theorem Blk.setLink_lanes (s : Blk) (n : Nat) (x : Link) : (s.setLink n x).lanes = s.lanes := rfl
@[simp] theorem Blk.setLink_scan (s : Blk) (n : Nat) (x : Link) : (s.setLink n x).scan = s.scan := rfl
@[simp] theorem Blk.setLink_wal (s : Blk) (n : Nat) (x : Link) : (s.setLink n x).wal = s.wal := rfl
@[simp] theorem Blk.setLink_time (s : Blk) (n : Nat) (x : Link) : (s.setLink n x).time = s.time := rfl
@[simp] theorem Blk.setLink_streams (s : Blk) (n : Nat) (x : Link) : (s.setLink n x).streams = s.streams := rfl
@[simp] theorem Blk.setLink_sto (s : Blk) (n : Nat) (x : Link) : (s.setLink n x).sto = s.sto := rfl
@[simp] theorem Blk.setLink_bst (s : Blk) (n : Nat) (x : Link) : (s.setLink n x).bst = s.bst := rfl
@[simp] theorem Blk.setLink_trm (s : Blk) (n : Nat) (x : Link) : (s.setLink n x).trm = s.trm := rfl
@[simp] theorem Blk.setLink_fuse (s : Blk) (n : Nat) (x : Link) : (s.setLink n x).fuse = s.fuse := rfl
@[simp] theorem Blk.setLink_sys (s : Blk) (n : Nat) (x : Link) : (s.setLink n x).sys = s.sys := rfl
@[simp] theorem Blk.setLink_acc (s : Blk) (n : Nat) (x : Link) : (s.setLink n x).acc = s.acc := rfl

@[simp] theorem Blk.setStream_now (s : Blk) (n : Nat) (x : Stream) : (s.setStream n x).now = s.now := rfl
@[simp] theorem Blk.setStream_freeN (s : Blk) (n : Nat) (x : Stream) : (s.setStream n x).freeN = s.freeN := rfl
@[simp] theorem Blk.setStream_regs (s : Blk) (n : Nat) (x : Stream) : (s.setStream n x).regs = s.regs := rfl
@[simp] theorem Blk.setStream_held (s : Blk) (n : Nat) (x : Stream) : (s.setStream n x).held = s.held := rfl
@[simp] theorem Blk.setStream_mem (s : Blk) (n : Nat) (x : Stream) : (s.setStream n x).mem = s.mem := rfl
@[simp] theorem Blk.setStream_evq (s : Blk) (n : Nat) (x : Stream) : (s.setStream n x).evq = s.evq := rfl
@[simp] theorem Blk.setStream_out (s : Blk) (n : Nat) (x : Stream) : (s.setStream n x).out = s.out := rfl
@[simp] theorem Blk.setStream_wires (s : Blk) (n : Nat) (x : Stream) : (s.setStream n x).wires = s.wires := rfl
@[simp] theorem Blk.setStream_holding (s : Blk) (n : Nat) (x : Stream) : (s.setStream n x).holding = s.holding := rfl
@[simp] theorem Blk.setStream_tim (s : Blk) (n : Nat) (x : Stream) : (s.setStream n x).tim = s.tim := rfl
@[simp] theorem Blk.setStream_bcn (s : Blk) (n : Nat) (x : Stream) : (s.setStream n x).bcn = s.bcn := rfl
@[simp] theorem Blk.setStream_encs (s : Blk) (n : Nat) (x : Stream) : (s.setStream n x).encs = s.encs := rfl
@[simp] theorem Blk.setStream_lck (s : Blk) (n : Nat) (x : Stream) : (s.setStream n x).lck = s.lck := rfl
@[simp] theorem Blk.setStream_scheds (s : Blk) (n : Nat) (x : Stream) : (s.setStream n x).scheds = s.scheds := rfl
@[simp] theorem Blk.setStream_pevs (s : Blk) (n : Nat) (x : Stream) : (s.setStream n x).pevs = s.pevs := rfl
@[simp] theorem Blk.setStream_trks (s : Blk) (n : Nat) (x : Stream) : (s.setStream n x).trks = s.trks := rfl
@[simp] theorem Blk.setStream_cmp (s : Blk) (n : Nat) (x : Stream) : (s.setStream n x).cmp = s.cmp := rfl
@[simp] theorem Blk.setStream_ports (s : Blk) (n : Nat) (x : Stream) : (s.setStream n x).ports = s.ports := rfl
@[simp] theorem Blk.setStream_mbx (s : Blk) (n : Nat) (x : Stream) : (s.setStream n x).mbx = s.mbx := rfl
@[simp] theorem Blk.setStream_cams (s : Blk) (n : Nat) (x : Stream) : (s.setStream n x).cams = s.cams := rfl
@[simp] theorem Blk.setStream_ins (s : Blk) (n : Nat) (x : Stream) : (s.setStream n x).ins = s.ins := rfl
@[simp] theorem Blk.setStream_sht (s : Blk) (n : Nat) (x : Stream) : (s.setStream n x).sht = s.sht := rfl
@[simp] theorem Blk.setStream_axes (s : Blk) (n : Nat) (x : Stream) : (s.setStream n x).axes = s.axes := rfl
@[simp] theorem Blk.setStream_twn (s : Blk) (n : Nat) (x : Stream) : (s.setStream n x).twn = s.twn := rfl
@[simp] theorem Blk.setStream_dram (s : Blk) (n : Nat) (x : Stream) : (s.setStream n x).dram = s.dram := rfl
@[simp] theorem Blk.setStream_lanes (s : Blk) (n : Nat) (x : Stream) : (s.setStream n x).lanes = s.lanes := rfl
@[simp] theorem Blk.setStream_scan (s : Blk) (n : Nat) (x : Stream) : (s.setStream n x).scan = s.scan := rfl
@[simp] theorem Blk.setStream_links (s : Blk) (n : Nat) (x : Stream) : (s.setStream n x).links = s.links := rfl
@[simp] theorem Blk.setStream_wal (s : Blk) (n : Nat) (x : Stream) : (s.setStream n x).wal = s.wal := rfl
@[simp] theorem Blk.setStream_time (s : Blk) (n : Nat) (x : Stream) : (s.setStream n x).time = s.time := rfl
@[simp] theorem Blk.setStream_sto (s : Blk) (n : Nat) (x : Stream) : (s.setStream n x).sto = s.sto := rfl
@[simp] theorem Blk.setStream_bst (s : Blk) (n : Nat) (x : Stream) : (s.setStream n x).bst = s.bst := rfl
@[simp] theorem Blk.setStream_trm (s : Blk) (n : Nat) (x : Stream) : (s.setStream n x).trm = s.trm := rfl
@[simp] theorem Blk.setStream_fuse (s : Blk) (n : Nat) (x : Stream) : (s.setStream n x).fuse = s.fuse := rfl
@[simp] theorem Blk.setStream_sys (s : Blk) (n : Nat) (x : Stream) : (s.setStream n x).sys = s.sys := rfl
@[simp] theorem Blk.setStream_acc (s : Blk) (n : Nat) (x : Stream) : (s.setStream n x).acc = s.acc := rfl

/-! ### Registers -/

theorem Blk.reg_setReg (s : Blk) (a b : Nat) (w : Word) : (s.setReg a w).reg b = if b = a then w else s.reg b := by
  unfold Blk.reg Blk.setReg
  split
  · rename_i h
    subst h
    exact Tab.get_put_same _ _ _ _
  · rename_i h
    exact Tab.get_put_ne _ _ _ h

@[simp] theorem Blk.reg_setReg_same (s : Blk) (a : Nat) (w : Word) : (s.setReg a w).reg a = w := by
  rw [Blk.reg_setReg, if_pos rfl]

theorem Blk.reg_setReg_ne (s : Blk) {a b : Nat} (w : Word) (h : b ≠ a) : (s.setReg a w).reg b = s.reg b := by
  rw [Blk.reg_setReg, if_neg h]

theorem Blk.rn_wn (s : Blk) (a b v : Nat) : (s.wn a v).rn b = if b = a then v % 2 ^ 24 else s.rn b := by
  unfold Blk.rn Blk.wn
  rw [Blk.reg_setReg]
  split <;> simp

@[simp] theorem Blk.rn_wn_same (s : Blk) (a v : Nat) : (s.wn a v).rn a = v % 2 ^ 24 := by
  rw [Blk.rn_wn, if_pos rfl]

theorem Blk.rn_wn_ne (s : Blk) {a b : Nat} (v : Nat) (h : b ≠ a) : (s.wn a v).rn b = s.rn b := by
  rw [Blk.rn_wn, if_neg h]

theorem Blk.rn_setF (s : Blk) (x : Fld) (v b : Nat) :
    (s.setF x v).rn b = if b = x.addr then setBits (s.rn x.addr) x.hi x.lo v % 2 ^ 24 else s.rn b := Blk.rn_wn _ _ _ _

theorem Blk.rn_setF_ne (s : Blk) (x : Fld) (v : Nat) {b : Nat} (h : b ≠ x.addr) : (s.setF x v).rn b = s.rn b :=
  Blk.rn_wn_ne s _ h

theorem Blk.reg_wn_ne (s : Blk) {a b : Nat} (v : Nat) (h : b ≠ a) : (s.wn a v).reg b = s.reg b := Blk.reg_setReg_ne s _ h

theorem Blk.reg_setF_ne (s : Blk) (x : Fld) (v : Nat) {b : Nat} (h : b ≠ x.addr) : (s.setF x v).reg b = s.reg b :=
  Blk.reg_wn_ne s _ h

theorem Blk.rn_lt (s : Blk) (a : Nat) : s.rn a < 2 ^ 24 := (s.reg a).isLt

/-! ### Bits and fields -/

theorem bits_lt (v hi lo : Nat) : bits v hi lo < 2 ^ (hi - lo + 1) := Nat.mod_lt _ (Nat.two_pow_pos _)

theorem testBit_bits (v hi lo i : Nat) : (bits v hi lo).testBit i = (decide (i < hi - lo + 1) && v.testBit (lo + i)) := by
  unfold bits
  rw [Nat.testBit_mod_two_pow, Nat.testBit_div_two_pow]
  simp [Nat.add_comm]

/-- Replacing bits, bit by bit. -/
theorem testBit_setBits (v x : Nat) {hi lo : Nat} (h : lo ≤ hi) (i : Nat) :
    (setBits v hi lo x).testBit i = if lo ≤ i ∧ i ≤ hi then x.testBit (i - lo) else v.testBit i := by
  have hsplit : setBits v hi lo x = 2 ^ (hi + 1) * (v / 2 ^ (hi + 1)) + (2 ^ lo * (x % 2 ^ (hi - lo + 1)) + v % 2 ^ lo) := by
    unfold setBits bits
    have e : (2 : Nat) ^ (hi + 1) = 2 ^ lo * 2 ^ (hi - lo + 1) := by rw [← Nat.pow_add]; congr 1; omega
    have hd : v / 2 ^ (hi + 1) = v / 2 ^ lo / 2 ^ (hi - lo + 1) := by rw [e, Nat.div_div_eq_div_mul]
    have h1 := Nat.div_add_mod v (2 ^ lo)
    have h2 := Nat.div_add_mod (v / 2 ^ lo) (2 ^ (hi - lo + 1))
    rw [hd, e]
    generalize v / 2 ^ lo / 2 ^ (hi - lo + 1) = q at *
    generalize v / 2 ^ lo % 2 ^ (hi - lo + 1) = r at *
    generalize v % 2 ^ lo = t at *
    generalize x % 2 ^ (hi - lo + 1) = y
    rw [← h2] at h1
    have h3 : v = 2 ^ lo * 2 ^ (hi - lo + 1) * q + 2 ^ lo * r + t := by rw [← h1, Nat.mul_add, Nat.mul_assoc]
    rw [h3, Nat.mul_comm r, Nat.mul_comm y]
    omega
  have hlow : 2 ^ lo * (x % 2 ^ (hi - lo + 1)) + v % 2 ^ lo < 2 ^ (hi + 1) := by
    have e : (2 : Nat) ^ (hi + 1) = 2 ^ lo * 2 ^ (hi - lo + 1) := by rw [← Nat.pow_add]; congr 1; omega
    have a := Nat.mod_lt x (Nat.two_pow_pos (hi - lo + 1))
    have b := Nat.mod_lt v (Nat.two_pow_pos lo)
    rw [e]
    calc 2 ^ lo * (x % 2 ^ (hi - lo + 1)) + v % 2 ^ lo < 2 ^ lo * (x % 2 ^ (hi - lo + 1)) + 2 ^ lo := by omega
      _ = 2 ^ lo * (x % 2 ^ (hi - lo + 1) + 1) := by rw [Nat.mul_add, Nat.mul_one]
      _ ≤ 2 ^ lo * 2 ^ (hi - lo + 1) := Nat.mul_le_mul_left _ (by omega)
  rw [hsplit, Nat.testBit_two_pow_mul_add _ hlow, Nat.testBit_two_pow_mul_add _ (Nat.mod_lt _ (Nat.two_pow_pos lo))]
  by_cases h1 : i < hi + 1
  · by_cases h2 : i < lo
    · have : ¬ (lo ≤ i ∧ i ≤ hi) := by omega
      simp [h1, h2, this, Nat.testBit_mod_two_pow]
    · have h3 : lo ≤ i ∧ i ≤ hi := by omega
      have h4 : i - lo < hi - lo + 1 := by omega
      rw [if_pos h1, if_neg h2, if_pos h3, Nat.testBit_mod_two_pow]
      simp [h4]
  · have h3 : ¬ (lo ≤ i ∧ i ≤ hi) := by omega
    rw [if_neg h1, if_neg h3, Nat.testBit_div_two_pow]
    congr 1
    omega

theorem bits_setBits_same (v x : Nat) {hi lo : Nat} (h : lo ≤ hi) : bits (setBits v hi lo x) hi lo = x % 2 ^ (hi - lo + 1) := by
  apply Nat.eq_of_testBit_eq
  intro i
  rw [testBit_bits, testBit_setBits v x h, Nat.testBit_mod_two_pow]
  by_cases hi' : i < hi - lo + 1
  · have : lo ≤ lo + i ∧ lo + i ≤ hi := by omega
    have e : lo + i - lo = i := by omega
    simp [hi', this, e]
  · simp [hi']

theorem bits_setBits_ne (v x : Nat) {hi lo hi' lo' : Nat} (h : lo ≤ hi) (h' : lo' ≤ hi') (hd : hi' < lo ∨ hi < lo') :
    bits (setBits v hi lo x) hi' lo' = bits v hi' lo' := by
  apply Nat.eq_of_testBit_eq
  intro i
  rw [testBit_bits, testBit_bits, testBit_setBits v x h]
  by_cases hi'' : i < hi' - lo' + 1
  · have : ¬ (lo ≤ lo' + i ∧ lo' + i ≤ hi) := by omega
    simp [this]
  · simp [hi'']

theorem bits_mod (v : Nat) {hi lo : Nat} (hl : lo ≤ hi) (h : hi < 24) : bits (v % 2 ^ 24) hi lo = bits v hi lo := by
  apply Nat.eq_of_testBit_eq
  intro i
  rw [testBit_bits, testBit_bits, Nat.testBit_mod_two_pow]
  by_cases hx : i < hi - lo + 1
  · have hy : lo + i < 24 := by omega
    simp [hy]
  · simp [hx]

/-- A field reads as what was written to it. -/
theorem Blk.f_setF_same (s : Blk) (x : Fld) (v : Nat) (hl : x.lo ≤ x.hi) (hh : x.hi < 24) :
    (s.setF x v).f x = v % 2 ^ (x.hi - x.lo + 1) := by
  unfold Blk.f
  rw [Blk.rn_setF, if_pos rfl, bits_mod _ hl hh, bits_setBits_same _ _ hl]

/-- Writing one field leaves the other fields of its word and every other word alone. -/
theorem Blk.f_setF_ne (s : Blk) (x y : Fld) (v : Nat) (hl : x.lo ≤ x.hi) (hy : y.lo ≤ y.hi) (hy' : y.hi < 24)
    (h : y.addr ≠ x.addr ∨ y.hi < x.lo ∨ x.hi < y.lo) : (s.setF x v).f y = s.f y := by
  unfold Blk.f
  rw [Blk.rn_setF]
  split
  · rename_i e
    rcases h with h | h
    · exact absurd e h
    · rw [bits_mod _ hy hy', bits_setBits_ne _ _ hl hy h, e]
  · rfl

theorem Blk.f_wn_same (s : Blk) (x : Fld) (v : Nat) (hl : x.lo ≤ x.hi) (hh : x.hi < 24) : (s.wn x.addr v).f x = bits v x.hi x.lo := by
  unfold Blk.f
  rw [Blk.rn_wn_same, bits_mod _ hl hh]

theorem Blk.f_wn_ne (s : Blk) (x : Fld) (a v : Nat) (h : x.addr ≠ a) : (s.wn a v).f x = s.f x := by
  unfold Blk.f
  rw [Blk.rn_wn_ne _ _ h]

/-! ### Values of several words (R12) -/

theorem Blk.rn_setVal_ne (n : Nat) : ∀ (s : Blk) (a v b : Nat), b < a ∨ a + n ≤ b → (s.setVal a v n).rn b = s.rn b := by
  induction n with
  | zero => intros; rfl
  | succ n ih =>
    intro s a v b h
    rw [Blk.setVal, ih _ _ _ _ (by omega), Blk.rn_wn_ne _ _ (by omega)]

theorem Blk.reg_setVal_ne (n : Nat) : ∀ (s : Blk) (a v b : Nat), b < a ∨ a + n ≤ b → (s.setVal a v n).reg b = s.reg b := by
  induction n with
  | zero => intros; rfl
  | succ n ih =>
    intro s a v b h
    rw [Blk.setVal, ih _ _ _ _ (by omega), Blk.reg_wn_ne _ _ (by omega)]

theorem Blk.val_eq (n : Nat) : ∀ (s r : Blk) (a : Nat), (∀ b, a ≤ b → b < a + n → s.rn b = r.rn b) → s.val a n = r.val a n := by
  induction n with
  | zero => intros; rfl
  | succ n ih =>
    intro s r a h
    rw [Blk.val, Blk.val, h a (by omega) (by omega), ih s r (a + 1) fun b h1 h2 => h b (by omega) (by omega)]

/-- A value of several words reads as what was written, modulo its width. -/
theorem Blk.val_setVal_same (n : Nat) : ∀ (s : Blk) (a v : Nat), (s.setVal a v n).val a n = v % 2 ^ (24 * n) := by
  induction n with
  | zero => intro s a v; rw [Blk.val]; simp [Nat.mod_one]
  | succ n ih =>
    intro s a v
    rw [Blk.setVal, Blk.val, Blk.rn_setVal_ne n _ _ _ _ (by omega), Blk.rn_wn_same, ih,
      show 24 * (n + 1) = 24 + 24 * n by omega, Nat.pow_add, Nat.mod_mul]
    omega

theorem Blk.val_setVal_ne (s : Blk) (a v n b m : Nat) (h : b + m ≤ a ∨ a + n ≤ b) : (s.setVal a v n).val b m = s.val b m :=
  Blk.val_eq m _ _ b fun c h1 h2 => Blk.rn_setVal_ne n s a v c (by omega)

/-! ### Image memory -/

theorem Blk.memRead_memWrite (s : Blk) (a b : Nat) (x : Byte) : (s.memWrite a x).memRead b = if b = a then x else s.memRead b := by
  unfold Blk.memRead Blk.memWrite
  split
  · rename_i h
    subst h
    exact Tab.get_put_same _ _ _ _
  · rename_i h
    exact Tab.get_put_ne _ _ _ h

/-! ### Like units -/

@[simp] theorem Blk.enc_setEnc_same (s : Blk) (n : Nat) (x : Enc) : (s.setEnc n x).enc n = x := Tab.get_put_same _ _ _ _

theorem Blk.enc_setEnc_ne (s : Blk) {n m : Nat} (x : Enc) (h : m ≠ n) : (s.setEnc n x).enc m = s.enc m := Tab.get_put_ne _ _ _ h

@[simp] theorem Blk.trk_setTrk_same (s : Blk) (n : Nat) (x : Trk) : (s.setTrk n x).trk n = x := Tab.get_put_same _ _ _ _

theorem Blk.trk_setTrk_ne (s : Blk) {n m : Nat} (x : Trk) (h : m ≠ n) : (s.setTrk n x).trk m = s.trk m := Tab.get_put_ne _ _ _ h

@[simp] theorem Blk.sched_setSched_same (s : Blk) (n : Nat) (x : List SchedEntry) : (s.setSched n x).sched n = x := Tab.get_put_same _ _ _ _

theorem Blk.sched_setSched_ne (s : Blk) {n m : Nat} (x : List SchedEntry) (h : m ≠ n) : (s.setSched n x).sched m = s.sched m := Tab.get_put_ne _ _ _ h

@[simp] theorem Blk.pev_setPev_same (s : Blk) (n : Nat) (x : Pev) : (s.setPev n x).pev n = x := Tab.get_put_same _ _ _ _

theorem Blk.pev_setPev_ne (s : Blk) {n m : Nat} (x : Pev) (h : m ≠ n) : (s.setPev n x).pev m = s.pev m := Tab.get_put_ne _ _ _ h

@[simp] theorem Blk.cam_setCam_same (s : Blk) (n : Nat) (x : Cam) : (s.setCam n x).cam n = x := Tab.get_put_same _ _ _ _

theorem Blk.cam_setCam_ne (s : Blk) {n m : Nat} (x : Cam) (h : m ≠ n) : (s.setCam n x).cam m = s.cam m := Tab.get_put_ne _ _ _ h

@[simp] theorem Blk.port_setPort_same (s : Blk) (n : Nat) (x : Port) : (s.setPort n x).port n = x := Tab.get_put_same _ _ _ _

theorem Blk.port_setPort_ne (s : Blk) {n m : Nat} (x : Port) (h : m ≠ n) : (s.setPort n x).port m = s.port m := Tab.get_put_ne _ _ _ h

@[simp] theorem Blk.lane_setLane_same (s : Blk) (n : Nat) (x : Lane) : (s.setLane n x).lane n = x := Tab.get_put_same _ _ _ _

theorem Blk.lane_setLane_ne (s : Blk) {n m : Nat} (x : Lane) (h : m ≠ n) : (s.setLane n x).lane m = s.lane m := Tab.get_put_ne _ _ _ h

@[simp] theorem Blk.link_setLink_same (s : Blk) (n : Nat) (x : Link) : (s.setLink n x).link n = x := Tab.get_put_same _ _ _ _

theorem Blk.link_setLink_ne (s : Blk) {n m : Nat} (x : Link) (h : m ≠ n) : (s.setLink n x).link m = s.link m := Tab.get_put_ne _ _ _ h

@[simp] theorem Blk.stream_setStream_same (s : Blk) (n : Nat) (x : Stream) : (s.setStream n x).stream n = x := Tab.get_put_same _ _ _ _

theorem Blk.stream_setStream_ne (s : Blk) {n m : Nat} (x : Stream) (h : m ≠ n) : (s.setStream n x).stream m = s.stream m := Tab.get_put_ne _ _ _ h

end Sys2Proof.Machine
end

