-- ==== Sys2Proof/Laws/Flags.lean ====
section
/-!
SUPPORT. What raising an event, counting a source and letting time pass can do: events wait, counters count, H rises, and
nothing else changes.
-/

namespace Sys2Proof.Machine

@[simp] theorem Blk.reg_raiseL (s : Blk) (c i d0 d1 l a : Nat) : (s.raiseL c i d0 d1 l).reg a = s.reg a := rfl
@[simp] theorem Blk.reg_raise (s : Blk) (c i d0 d1 a : Nat) : (s.raise c i d0 d1).reg a = s.reg a := rfl
@[simp] theorem Blk.reg_raiseT (s : Blk) (c i d0 d1 a : Nat) : (s.raiseT c i d0 d1).reg a = s.reg a := rfl
@[simp] theorem Blk.rn_raise (s : Blk) (c i d0 d1 a : Nat) : (s.raise c i d0 d1).rn a = s.rn a := rfl
@[simp] theorem Blk.rn_raiseT (s : Blk) (c i d0 d1 a : Nat) : (s.raiseT c i d0 d1).rn a = s.rn a := rfl
@[simp] theorem Blk.f_raise (s : Blk) (c i d0 d1 : Nat) (x : Fld) : (s.raise c i d0 d1).f x = s.f x := rfl
@[simp] theorem Blk.f_raiseT (s : Blk) (c i d0 d1 : Nat) (x : Fld) : (s.raiseT c i d0 d1).f x = s.f x := rfl
@[simp] theorem Blk.f_emit (s : Blk) (o : Out) (x : Fld) : (s.emit o).f x = s.f x := rfl
@[simp] theorem Blk.rn_emit (s : Blk) (o : Out) (a : Nat) : (s.emit o).rn a = s.rn a := rfl
@[simp] theorem Blk.reg_emit (s : Blk) (o : Out) (a : Nat) : (s.emit o).reg a = s.reg a := rfl
@[simp] theorem Blk.reg_memWrite (s : Blk) (b : Nat) (x : Byte) (a : Nat) : (s.memWrite b x).reg a = s.reg a := rfl

/-- The state differs in events and in the counters' words alone. -/
def Blk.Counted (r s : Blk) : Prop :=
  (∃ regs evq, s = { r with regs := regs, evq := evq }) ∧ ∀ a, cntWord a = false → s.reg a = r.reg a

theorem Blk.Counted.refl (r : Blk) : r.Counted r := ⟨⟨r.regs, r.evq, rfl⟩, fun _ _ => rfl⟩

theorem Blk.Counted.raise {r s : Blk} (h : r.Counted s) (c i d0 d1 : Nat) : r.Counted (s.raise c i d0 d1) := by
  obtain ⟨⟨regs, evq, rfl⟩, h2⟩ := h
  exact ⟨⟨regs, _, rfl⟩, h2⟩

theorem Blk.Counted.wn {r s : Blk} (h : r.Counted s) {a : Nat} (ha : cntWord a = true) (v : Nat) : r.Counted (s.wn a v) := by
  obtain ⟨⟨regs, evq, rfl⟩, h2⟩ := h
  refine ⟨⟨_, evq, rfl⟩, fun b hb => ?_⟩
  rw [Blk.reg_wn_ne]
  · exact h2 b hb
  · intro e
    rw [e, ha] at hb
    cases hb

theorem cntWord_value {i : Nat} (h : i < 16) : cntWord (CNT_VALUE i) = true ∧ cntWord (CNT_VALUE i + 1) = true := by
  unfold cntWord
  constructor <;> simp only [Bool.or_eq_true, decide_eq_true_eq] <;> right <;> simp only [CNT_VALUE] <;> omega

theorem Blk.countOne_counted {r s : Blk} (h : r.Counted s) (src n : Nat) {i : Nat} (hi : i < 16) : r.Counted (Blk.countOne src n s i) := by
  unfold Blk.countOne
  split
  · dsimp only
    have h1 : r.Counted (s.setVal (CNT_VALUE i) ((s.val (CNT_VALUE i) 2 + n) % 2 ^ 48) 2) :=
      (h.wn (cntWord_value hi).1 _).wn (cntWord_value hi).2 _
    split
    · exact h1
    · exact (h1.wn (a := CNT_WRAP) rfl _).raise _ _ _ _
  · exact h

/-- Counting a source moves counters and raises their wraps. -/
theorem Blk.count_counted (s : Blk) (src n : Nat) : s.Counted (s.count src n) := by
  unfold Blk.count
  split
  · exact .refl s
  · have key : ∀ (l : List Nat) (u : Blk), (∀ i ∈ l, i < 16) → s.Counted u → s.Counted (l.foldl (Blk.countOne src n) u) := by
      intro l
      induction l with
      | nil => intro u _ hu; exact hu
      | cons i l ih =>
        intro u hl hu
        exact ih _ (fun j hj => hl j (List.mem_cons_of_mem _ hj)) (Blk.countOne_counted hu src n (hl i List.mem_cons_self))
    exact key _ s (fun i hi => List.mem_range.1 hi) (.refl s)

theorem Blk.reg_count (s : Blk) (src n : Nat) {a : Nat} (h : cntWord a = false) : (s.count src n).reg a = s.reg a :=
  (s.count_counted src n).2 a h

theorem Blk.rn_count (s : Blk) (src n : Nat) {a : Nat} (h : cntWord a = false) : (s.count src n).rn a = s.rn a := by
  unfold Blk.rn
  rw [Blk.reg_count s src n h]

theorem Blk.f_count (s : Blk) (src n : Nat) {x : Fld} (h : cntWord x.addr = false) : (s.count src n).f x = s.f x := by
  unfold Blk.f
  rw [Blk.rn_count s src n h]

/-- What the passing of time leaves: it moves the clock, counters and H, and the carriage's path in shuttle mode. -/
def Blk.Passed (r s : Blk) : Prop :=
  (∃ now regs evq lck sht, s = { r with now := now, regs := regs, evq := evq, lck := lck, sht := sht }) ∧
    r.now ≤ s.now ∧ ∀ a, cntWord a = false → s.reg a = r.reg a

theorem Blk.moved_eq (s : Blk) : ∃ lck sht, s.moved = { s with lck := lck, sht := sht } := by
  unfold Blk.moved
  dsimp only
  split <;> split <;> exact ⟨_, _, rfl⟩

theorem Blk.advance_passed (s : Blk) (t : Nat) : s.Passed (s.advance t) := by
  unfold Blk.advance
  split
  · exact ⟨⟨_, _, _, _, _, rfl⟩, Nat.le_refl _, fun _ _ => rfl⟩
  · dsimp only
    have hc := Blk.count_counted { s with now := t } 1 (t * 5 / 4 - s.now * 5 / 4)
    generalize Blk.count { s with now := t } 1 (t * 5 / 4 - s.now * 5 / 4) = u at hc ⊢
    obtain ⟨⟨regs, evq, rfl⟩, h2⟩ := hc
    obtain ⟨lck, sht, e⟩ := Blk.moved_eq { s with now := t, regs := regs, evq := evq }
    rw [e]
    exact ⟨⟨t, regs, evq, lck, sht, rfl⟩, by show s.now ≤ t; omega, h2⟩

/-- The time after an advance: it never runs back. -/
theorem Blk.now_advance (s : Blk) (t : Nat) : (s.advance t).now = max s.now t := by
  unfold Blk.advance
  split
  · rename_i h
    omega
  · dsimp only
    have hc := Blk.count_counted { s with now := t } 1 (t * 5 / 4 - s.now * 5 / 4)
    generalize Blk.count { s with now := t } 1 (t * 5 / 4 - s.now * 5 / 4) = u at hc ⊢
    obtain ⟨⟨regs, evq, rfl⟩, h2⟩ := hc
    obtain ⟨lck, sht, e⟩ := Blk.moved_eq { s with now := t, regs := regs, evq := evq }
    rw [e]
    show t = max s.now t
    omega

theorem Blk.reg_advance (s : Blk) (t : Nat) {a : Nat} (h : cntWord a = false) : (s.advance t).reg a = s.reg a :=
  (s.advance_passed t).2.2 a h

theorem Blk.rn_advance (s : Blk) (t : Nat) {a : Nat} (h : cntWord a = false) : (s.advance t).rn a = s.rn a := by
  unfold Blk.rn
  rw [Blk.reg_advance s t h]

theorem Blk.f_advance (s : Blk) (t : Nat) {x : Fld} (h : cntWord x.addr = false) : (s.advance t).f x = s.f x := by
  unfold Blk.f
  rw [Blk.rn_advance s t h]

end Sys2Proof.Machine
end

