-- ==== Sys2Proof/Laws/Later.lean ====
section
/-!
SUPPORT. What a block can come to: `Blk.Later r s` says that `s` keeps the canonical tables of `r`, restores no fuse, runs
no clock back and loses nothing of the output log. This file says it of the operations that write a field of the block.
-/

namespace Sys2Proof.Machine

theorem Fuse.within_refl (a : Fuse) : Fuse.within a a := ⟨Nat.le_refl _, id, fun _ h => h⟩

theorem Fuse.within_trans {a b c : Fuse} (h : a.within b) (g : b.within c) : a.within c :=
  ⟨Nat.le_trans h.1 g.1, fun x => g.2.1 (h.2.1 x), fun u x => g.2.2 u (h.2.2 u x)⟩

theorem Blk.Later.refl (r : Blk) : r.Later r := ⟨id, Fuse.within_refl _, Nat.le_refl _, List.suffix_refl _⟩

theorem Blk.Later.trans {r s t : Blk} (h : r.Later s) (g : s.Later t) : r.Later t :=
  ⟨fun x => g.1 (h.1 x), Fuse.within_trans h.2.1 g.2.1, Nat.le_trans h.2.2.1 g.2.2.1, h.2.2.2.trans g.2.2.2⟩

/-- Writing the fields that hold no table, no fuse, no clock and no log. -/
theorem Blk.Later.put {r s : Blk} (h : r.Later s) {freeN held evq wires holding tim bcn lck cmp mbx ins sht twn dram scan wal time
    sto bst trm sys acc} (h1 : Cmp.tone cmp = s.cmp.tone := by rfl) (h2 : cmp.thr = s.cmp.thr := by rfl)
    (h3 : Acc.snaps acc = s.acc.snaps := by rfl) (h4 : acc.holds = s.acc.holds := by rfl) :
    r.Later ⟨s.now, freeN, s.regs, held, s.mem, evq, s.out, wires, holding, tim, bcn, s.encs, lck, s.scheds, s.pevs, s.trks, cmp,
      s.ports, mbx, s.cams, ins, sht, s.axes, twn, dram, s.lanes, scan, s.links, wal, time, s.streams, sto, bst, trm, s.fuse, sys,
      acc⟩ := by
  refine ⟨fun hr => ?_, h.2⟩
  have := h.1 hr
  simp only [Blk.wf, h1, h2, h3, h4] at this ⊢
  exact this

/-- Moving the clock on. -/
theorem Blk.Later.tick {r s : Blk} (h : r.Later s) {t : Nat} (ht : s.now ≤ t) : r.Later { s with now := t } :=
  ⟨h.1, h.2.1, Nat.le_trans h.2.2.1 ht, h.2.2.2⟩

theorem Blk.foldl_later {r : Blk} {α : Type} {f : Blk → α → Blk} {l : List α} {s : Blk}
    (hf : ∀ s x, r.Later s → r.Later (f s x)) (hs : r.Later s) : r.Later (l.foldl f s) := by
  induction l generalizing s with
  | nil => exact hs
  | cons x l ih => exact ih (hf s x hs)

theorem Blk.foldl_fst_later {r : Blk} {α β : Type} {f : Blk × β → α → Blk × β} {l : List α} {s : Blk × β}
    (hf : ∀ s x, r.Later s.1 → r.Later (f s x).1) (hs : r.Later s.1) : r.Later (l.foldl f s).1 := by
  induction l generalizing s with
  | nil => exact hs
  | cons x l ih => exact ih (hf s x hs)

theorem Blk.ite_later {r a b : Blk} {c : Prop} [Decidable c] (ha : r.Later a) (hb : r.Later b) : r.Later (if c then a else b) := by
  split
  · exact ha
  · exact hb

theorem Blk.later_fst {r : Blk} {β : Type} {p : Blk × β} {s : Blk} {x : β} (h : p = (s, x)) (hp : r.Later p.1) : r.Later s := by
  subst h; exact hp

theorem Blk.later_some {r : Blk} {o : Option Blk} {s : Blk} (h : o = some s) (ho : ∀ t, o = some t → r.Later t) : r.Later s :=
  ho s h

theorem Blk.setReg_later {r s : Blk} (hl : r.Later s) (a : Nat) (w : Word) : r.Later (s.setReg a w) := by
  refine ⟨fun hr => ?_, hl.2⟩
  have := hl.1 hr
  simp only [Blk.wf, Blk.setReg, Bool.and_eq_true] at this ⊢
  simp only [this, and_true]
  exact Tab.wf_put _ _ _ (by simp only [this])

theorem Blk.memWrite_later {r s : Blk} (hl : r.Later s) (a : Nat) (b : Byte) : r.Later (s.memWrite a b) := by
  refine ⟨fun hr => ?_, hl.2⟩
  have := hl.1 hr
  simp only [Blk.wf, Blk.memWrite, Bool.and_eq_true, Memory.wf] at this ⊢
  simp only [this, and_true, true_and]
  exact Tab.wf_put _ _ _ (by simp only [this])

theorem Blk.setEnc_later {r s : Blk} (hl : r.Later s) (n : Nat) (e : Enc) : r.Later (s.setEnc n e) := by
  refine ⟨fun hr => ?_, hl.2⟩
  have := hl.1 hr
  simp only [Blk.wf, Blk.setEnc, Bool.and_eq_true] at this ⊢
  simp only [this, and_true, true_and]
  exact Tab.wf_put _ _ _ (by simp only [this])

theorem Blk.setTrk_later {r s : Blk} (hl : r.Later s) (t : Nat) (x : Trk) : r.Later (s.setTrk t x) := by
  refine ⟨fun hr => ?_, hl.2⟩
  have := hl.1 hr
  simp only [Blk.wf, Blk.setTrk, Bool.and_eq_true] at this ⊢
  simp only [this, and_true, true_and]
  exact Tab.wf_put _ _ _ (by simp only [this])

theorem Blk.setSched_later {r s : Blk} (hl : r.Later s) (t : Nat) (l : List SchedEntry) : r.Later (s.setSched t l) := by
  refine ⟨fun hr => ?_, hl.2⟩
  have := hl.1 hr
  simp only [Blk.wf, Blk.setSched, Bool.and_eq_true] at this ⊢
  simp only [this, and_true, true_and]
  exact Tab.wf_put _ _ _ (by simp only [this])

theorem Blk.setPev_later {r s : Blk} (hl : r.Later s) (n : Nat) (p : Pev) : r.Later (s.setPev n p) := by
  refine ⟨fun hr => ?_, hl.2⟩
  have := hl.1 hr
  simp only [Blk.wf, Blk.setPev, Bool.and_eq_true] at this ⊢
  simp only [this, and_true, true_and]
  exact Tab.wf_put _ _ _ (by simp only [this])

theorem Blk.setCam_later {r s : Blk} (hl : r.Later s) (c : Nat) (x : Cam) : r.Later (s.setCam c x) := by
  refine ⟨fun hr => ?_, hl.2⟩
  have := hl.1 hr
  simp only [Blk.wf, Blk.setCam, Bool.and_eq_true] at this ⊢
  simp only [this, and_true, true_and]
  exact Tab.wf_put _ _ _ (by simp only [this])

theorem Blk.setPort_later {r s : Blk} (hl : r.Later s) (h : Nat) (x : Port) : r.Later (s.setPort h x) := by
  refine ⟨fun hr => ?_, hl.2⟩
  have := hl.1 hr
  simp only [Blk.wf, Blk.setPort, Bool.and_eq_true] at this ⊢
  simp only [this, and_true, true_and]
  exact Tab.wf_put _ _ _ (by simp only [this])

theorem Blk.setLane_later {r s : Blk} (hl : r.Later s) (n : Nat) (x : Lane) : r.Later (s.setLane n x) := by
  refine ⟨fun hr => ?_, hl.2⟩
  have := hl.1 hr
  simp only [Blk.wf, Blk.setLane, Bool.and_eq_true] at this ⊢
  simp only [this, and_true, true_and]
  exact Tab.wf_put _ _ _ (by simp only [this])

theorem Blk.setLink_later {r s : Blk} (hl : r.Later s) (l : Nat) (x : Link) : r.Later (s.setLink l x) := by
  refine ⟨fun hr => ?_, hl.2⟩
  have := hl.1 hr
  simp only [Blk.wf, Blk.setLink, Bool.and_eq_true] at this ⊢
  simp only [this, and_true, true_and]
  exact Tab.wf_put _ _ _ (by simp only [this])

theorem Blk.setStream_later {r s : Blk} (hl : r.Later s) (k : Nat) (x : Stream) : r.Later (s.setStream k x) := by
  refine ⟨fun hr => ?_, hl.2⟩
  have := hl.1 hr
  simp only [Blk.wf, Blk.setStream, Bool.and_eq_true] at this ⊢
  simp only [this, and_true, true_and]
  exact Tab.wf_put _ _ _ (by simp only [this])

theorem Blk.memZero_later {r s : Blk} (hl : r.Later s) (a n : Nat) : r.Later (s.memZero a n) := by
  refine ⟨fun hr => ?_, hl.2⟩
  have := hl.1 hr
  simp only [Blk.wf, Blk.memZero, Bool.and_eq_true, Memory.wf] at this ⊢
  simp only [this, and_true, true_and]
  exact Tab.wf_filter _ _ (by simp only [this])

theorem Blk.noStreams_later {r s : Blk} (hl : r.Later s) {y : Sys} : r.Later { s with streams := [], sys := y } := by
  refine ⟨fun hr => ?_, hl.2⟩
  have := hl.1 hr
  simp only [Blk.wf, Bool.and_eq_true] at this ⊢
  simp only [this, and_true, true_and]
  rfl

theorem Blk.wiped_later {r s : Blk} (hl : r.Later s) {q : List Ev} : r.Later { s with mem := [], evq := q } := by
  refine ⟨fun hr => ?_, hl.2⟩
  have := hl.1 hr
  simp only [Blk.wf, Bool.and_eq_true] at this ⊢
  simp only [this, and_true, true_and]
  rfl

theorem Blk.emit_later {r s : Blk} (hl : r.Later s) (o : Out) : r.Later (s.emit o) :=
  ⟨hl.1, hl.2.1, hl.2.2.1, hl.2.2.2.trans (List.suffix_cons o s.out)⟩

end Sys2Proof.Machine
end

