-- ==== Sys2Proof/Laws/LaterOps.lean ====
section
/-!
SUPPORT. What a block can come to (`Blk.Later`) through the operations of Machine/Ops.
-/

namespace Sys2Proof.Machine

theorem Blk.wn_later {r : Blk} {s : Blk} (a : ℕ) (v : ℕ) (hs : r.Later s) : r.Later (Blk.wn s a v) := by
  unfold Blk.wn
  try lift_lets
  repeat' (first | with_reducible assumption | with_reducible (first | apply Blk.setReg_later) | with_reducible apply Blk.foldl_later | with_reducible (refine Blk.later_fst (by assumption) ?_) | with_reducible (refine Blk.later_some (by assumption) ?_) | (intro s; (have hs : Blk.Later r s := ?_); clear_value s; rotate_left; unfold s) | (intro s; (have hs : Blk.Later r s.1 := ?_); clear_value s; rotate_left; unfold s) | (intro f; (have hc : _ → Blk := f); clear hc; (try unfold f); clear f) | (intro f; (have hc : _ → _ → Blk := f); clear hc; (try unfold f); clear f) | (intro f; (have hc : _ → _ → _ → Blk := f); clear hc; (try unfold f); clear f) | (intro x; (have hc : Cmp := x); clear hc) | (intro x; (have hc : Acc := x); clear hc) | (intro x; clear_value x) | split | (intro s x hs) | lift_lets | (show _ = _; rfl) | with_reducible apply Blk.foldl_fst_later | assumption | intro x)

theorem Blk.setF_later {r : Blk} {s : Blk} (x1 : Fld) (v : ℕ) (hs : r.Later s) : r.Later (Blk.setF s x1 v) := by
  unfold Blk.setF
  try lift_lets
  repeat' (first | with_reducible assumption | with_reducible (first | apply Blk.wn_later) | with_reducible apply Blk.foldl_later | with_reducible (refine Blk.later_fst (by assumption) ?_) | with_reducible (refine Blk.later_some (by assumption) ?_) | (intro s; (have hs : Blk.Later r s := ?_); clear_value s; rotate_left; unfold s) | (intro s; (have hs : Blk.Later r s.1 := ?_); clear_value s; rotate_left; unfold s) | (intro f; (have hc : _ → Blk := f); clear hc; (try unfold f); clear f) | (intro f; (have hc : _ → _ → Blk := f); clear hc; (try unfold f); clear f) | (intro f; (have hc : _ → _ → _ → Blk := f); clear hc; (try unfold f); clear f) | (intro x; (have hc : Cmp := x); clear hc) | (intro x; (have hc : Acc := x); clear hc) | (intro x; clear_value x) | split | (intro s x hs) | lift_lets | (show _ = _; rfl) | with_reducible apply Blk.foldl_fst_later | assumption | intro x)

theorem Blk.setVal_later {r : Blk} {s : Blk} (a : ℕ) (v : ℕ) (x3 : ℕ) (hs : r.Later s) : r.Later (Blk.setVal s a v x3) := by
  induction x3 generalizing s a v with
  | zero => exact hs
  | succ n ih => exact ih _ _ (Blk.wn_later _ _ hs)

theorem Blk.setSval_later {r : Blk} {s : Blk} (a : ℕ) (n : ℕ) (w : ℕ) (v : ℤ) (hs : r.Later s) : r.Later (Blk.setSval s a n w v) := by
  unfold Blk.setSval
  try lift_lets
  repeat' (first | with_reducible assumption | with_reducible (first | apply Blk.setVal_later) | with_reducible apply Blk.foldl_later | with_reducible (refine Blk.later_fst (by assumption) ?_) | with_reducible (refine Blk.later_some (by assumption) ?_) | (intro s; (have hs : Blk.Later r s := ?_); clear_value s; rotate_left; unfold s) | (intro s; (have hs : Blk.Later r s.1 := ?_); clear_value s; rotate_left; unfold s) | (intro f; (have hc : _ → Blk := f); clear hc; (try unfold f); clear f) | (intro f; (have hc : _ → _ → Blk := f); clear hc; (try unfold f); clear f) | (intro f; (have hc : _ → _ → _ → Blk := f); clear hc; (try unfold f); clear f) | (intro x; (have hc : Cmp := x); clear hc) | (intro x; (have hc : Acc := x); clear hc) | (intro x; clear_value x) | split | (intro s x hs) | lift_lets | (show _ = _; rfl) | with_reducible apply Blk.foldl_fst_later | assumption | intro x)

theorem Blk.addSat_later {r : Blk} {s : Blk} (a : ℕ) (k : ℕ) (hs : r.Later s) : r.Later (Blk.addSat s a k) := by
  unfold Blk.addSat
  try lift_lets
  repeat' (first | with_reducible assumption | with_reducible (first | apply Blk.wn_later) | with_reducible apply Blk.foldl_later | with_reducible (refine Blk.later_fst (by assumption) ?_) | with_reducible (refine Blk.later_some (by assumption) ?_) | (intro s; (have hs : Blk.Later r s := ?_); clear_value s; rotate_left; unfold s) | (intro s; (have hs : Blk.Later r s.1 := ?_); clear_value s; rotate_left; unfold s) | (intro f; (have hc : _ → Blk := f); clear hc; (try unfold f); clear f) | (intro f; (have hc : _ → _ → Blk := f); clear hc; (try unfold f); clear f) | (intro f; (have hc : _ → _ → _ → Blk := f); clear hc; (try unfold f); clear f) | (intro x; (have hc : Cmp := x); clear hc) | (intro x; (have hc : Acc := x); clear hc) | (intro x; clear_value x) | split | (intro s x hs) | lift_lets | (show _ = _; rfl) | with_reducible apply Blk.foldl_fst_later | assumption | intro x)

theorem Blk.incSat_later {r : Blk} {s : Blk} (a : ℕ) (hs : r.Later s) : r.Later (Blk.incSat s a) := by
  unfold Blk.incSat
  try lift_lets
  repeat' (first | with_reducible assumption | with_reducible (first | apply Blk.addSat_later) | with_reducible apply Blk.foldl_later | with_reducible (refine Blk.later_fst (by assumption) ?_) | with_reducible (refine Blk.later_some (by assumption) ?_) | (intro s; (have hs : Blk.Later r s := ?_); clear_value s; rotate_left; unfold s) | (intro s; (have hs : Blk.Later r s.1 := ?_); clear_value s; rotate_left; unfold s) | (intro f; (have hc : _ → Blk := f); clear hc; (try unfold f); clear f) | (intro f; (have hc : _ → _ → Blk := f); clear hc; (try unfold f); clear f) | (intro f; (have hc : _ → _ → _ → Blk := f); clear hc; (try unfold f); clear f) | (intro x; (have hc : Cmp := x); clear hc) | (intro x; (have hc : Acc := x); clear hc) | (intro x; clear_value x) | split | (intro s x hs) | lift_lets | (show _ = _; rfl) | with_reducible apply Blk.foldl_fst_later | assumption | intro x)

theorem Blk.hold_later {r : Blk} {s : Blk} (a : ℕ) (w : Word) (b : Bnd) (hs : r.Later s) : r.Later (Blk.hold s a w b) := by
  unfold Blk.hold
  try lift_lets
  repeat' (first | with_reducible assumption | with_reducible apply Blk.foldl_later | with_reducible (refine Blk.later_fst (by assumption) ?_) | with_reducible (refine Blk.later_some (by assumption) ?_) | (intro s; (have hs : Blk.Later r s := ?_); clear_value s; rotate_left; unfold s) | (intro s; (have hs : Blk.Later r s.1 := ?_); clear_value s; rotate_left; unfold s) | (intro f; (have hc : _ → Blk := f); clear hc; (try unfold f); clear f) | (intro f; (have hc : _ → _ → Blk := f); clear hc; (try unfold f); clear f) | (intro f; (have hc : _ → _ → _ → Blk := f); clear hc; (try unfold f); clear f) | (intro x; (have hc : Cmp := x); clear hc) | (intro x; (have hc : Acc := x); clear hc) | (intro x; clear_value x) | split | (intro s x hs) | lift_lets | (show _ = _; rfl) | with_reducible apply Blk.foldl_fst_later | (with_reducible apply Blk.Later.put; (first | with_reducible assumption | with_reducible apply Blk.foldl_later | with_reducible (refine Blk.later_fst (by assumption) ?_) | with_reducible (refine Blk.later_some (by assumption) ?_) | (intro s; (have hs : Blk.Later r s := ?_); clear_value s; rotate_left; unfold s) | (intro s; (have hs : Blk.Later r s.1 := ?_); clear_value s; rotate_left; unfold s) | (intro f; (have hc : _ → Blk := f); clear hc; (try unfold f); clear f) | (intro f; (have hc : _ → _ → Blk := f); clear hc; (try unfold f); clear f) | (intro f; (have hc : _ → _ → _ → Blk := f); clear hc; (try unfold f); clear f) | (intro x; (have hc : Cmp := x); clear hc) | (intro x; (have hc : Acc := x); clear hc) | (intro x; clear_value x) | split | (intro s x hs) | lift_lets | (show _ = _; rfl) | with_reducible apply Blk.foldl_fst_later | assumption | intro x)) | assumption | intro x)

theorem Blk.commit_later {r : Blk} {s : Blk} (p : Held → Bool) (hs : r.Later s) : r.Later (Blk.commit s p) := by
  unfold Blk.commit
  try lift_lets
  repeat' (first | with_reducible assumption | with_reducible (first | apply Blk.setReg_later) | with_reducible apply Blk.foldl_later | with_reducible (refine Blk.later_fst (by assumption) ?_) | with_reducible (refine Blk.later_some (by assumption) ?_) | (intro s; (have hs : Blk.Later r s := ?_); clear_value s; rotate_left; unfold s) | (intro s; (have hs : Blk.Later r s.1 := ?_); clear_value s; rotate_left; unfold s) | (intro f; (have hc : _ → Blk := f); clear hc; (try unfold f); clear f) | (intro f; (have hc : _ → _ → Blk := f); clear hc; (try unfold f); clear f) | (intro f; (have hc : _ → _ → _ → Blk := f); clear hc; (try unfold f); clear f) | (intro x; (have hc : Cmp := x); clear hc) | (intro x; (have hc : Acc := x); clear hc) | (intro x; clear_value x) | split | (intro s x hs) | lift_lets | (show _ = _; rfl) | with_reducible apply Blk.foldl_fst_later | (with_reducible apply Blk.Later.put; (first | with_reducible assumption | with_reducible (first | apply Blk.setReg_later) | with_reducible apply Blk.foldl_later | with_reducible (refine Blk.later_fst (by assumption) ?_) | with_reducible (refine Blk.later_some (by assumption) ?_) | (intro s; (have hs : Blk.Later r s := ?_); clear_value s; rotate_left; unfold s) | (intro s; (have hs : Blk.Later r s.1 := ?_); clear_value s; rotate_left; unfold s) | (intro f; (have hc : _ → Blk := f); clear hc; (try unfold f); clear f) | (intro f; (have hc : _ → _ → Blk := f); clear hc; (try unfold f); clear f) | (intro f; (have hc : _ → _ → _ → Blk := f); clear hc; (try unfold f); clear f) | (intro x; (have hc : Cmp := x); clear hc) | (intro x; (have hc : Acc := x); clear hc) | (intro x; clear_value x) | split | (intro s x hs) | lift_lets | (show _ = _; rfl) | with_reducible apply Blk.foldl_fst_later | assumption | intro x)) | assumption | intro x)

theorem Blk.commitView_later {r : Blk} {s : Blk} (v : ℕ) (hs : r.Later s) : r.Later (Blk.commitView s v) := by
  unfold Blk.commitView
  try lift_lets
  repeat' (first | with_reducible assumption | with_reducible (first | apply Blk.commit_later) | with_reducible apply Blk.foldl_later | with_reducible (refine Blk.later_fst (by assumption) ?_) | with_reducible (refine Blk.later_some (by assumption) ?_) | (intro s; (have hs : Blk.Later r s := ?_); clear_value s; rotate_left; unfold s) | (intro s; (have hs : Blk.Later r s.1 := ?_); clear_value s; rotate_left; unfold s) | (intro f; (have hc : _ → Blk := f); clear hc; (try unfold f); clear f) | (intro f; (have hc : _ → _ → Blk := f); clear hc; (try unfold f); clear f) | (intro f; (have hc : _ → _ → _ → Blk := f); clear hc; (try unfold f); clear f) | (intro x; (have hc : Cmp := x); clear hc) | (intro x; (have hc : Acc := x); clear hc) | (intro x; clear_value x) | split | (intro s x hs) | lift_lets | (show _ = _; rfl) | with_reducible apply Blk.foldl_fst_later | (with_reducible apply Blk.Later.put; (first | with_reducible assumption | with_reducible (first | apply Blk.commit_later) | with_reducible apply Blk.foldl_later | with_reducible (refine Blk.later_fst (by assumption) ?_) | with_reducible (refine Blk.later_some (by assumption) ?_) | (intro s; (have hs : Blk.Later r s := ?_); clear_value s; rotate_left; unfold s) | (intro s; (have hs : Blk.Later r s.1 := ?_); clear_value s; rotate_left; unfold s) | (intro f; (have hc : _ → Blk := f); clear hc; (try unfold f); clear f) | (intro f; (have hc : _ → _ → Blk := f); clear hc; (try unfold f); clear f) | (intro f; (have hc : _ → _ → _ → Blk := f); clear hc; (try unfold f); clear f) | (intro x; (have hc : Cmp := x); clear hc) | (intro x; (have hc : Acc := x); clear hc) | (intro x; clear_value x) | split | (intro s x hs) | lift_lets | (show _ = _; rfl) | with_reducible apply Blk.foldl_fst_later | assumption | intro x)) | assumption | intro x)

theorem Blk.memWrites_later {r : Blk} {s : Blk} (a : ℕ) (x2 : List Byte) (hs : r.Later s) : r.Later (Blk.memWrites s a x2) := by
  induction x2 generalizing s a with
  | nil => exact hs
  | cons b l ih => exact ih _ (Blk.memWrite_later hs _ _)

theorem Blk.fresh_later {r : Blk} {s : Blk} (hs : r.Later s) : r.Later (Blk.fresh s) := by
  unfold Blk.fresh
  try lift_lets
  repeat' (first | with_reducible assumption | with_reducible apply Blk.foldl_later | with_reducible (refine Blk.later_fst (by assumption) ?_) | with_reducible (refine Blk.later_some (by assumption) ?_) | (intro s; (have hs : Blk.Later r s := ?_); clear_value s; rotate_left; unfold s) | (intro s; (have hs : Blk.Later r s.1 := ?_); clear_value s; rotate_left; unfold s) | (intro f; (have hc : _ → Blk := f); clear hc; (try unfold f); clear f) | (intro f; (have hc : _ → _ → Blk := f); clear hc; (try unfold f); clear f) | (intro f; (have hc : _ → _ → _ → Blk := f); clear hc; (try unfold f); clear f) | (intro x; (have hc : Cmp := x); clear hc) | (intro x; (have hc : Acc := x); clear hc) | (intro x; clear_value x) | split | (intro s x hs) | lift_lets | (show _ = _; rfl) | with_reducible apply Blk.foldl_fst_later | (with_reducible apply Blk.Later.put; (first | with_reducible assumption | with_reducible apply Blk.foldl_later | with_reducible (refine Blk.later_fst (by assumption) ?_) | with_reducible (refine Blk.later_some (by assumption) ?_) | (intro s; (have hs : Blk.Later r s := ?_); clear_value s; rotate_left; unfold s) | (intro s; (have hs : Blk.Later r s.1 := ?_); clear_value s; rotate_left; unfold s) | (intro f; (have hc : _ → Blk := f); clear hc; (try unfold f); clear f) | (intro f; (have hc : _ → _ → Blk := f); clear hc; (try unfold f); clear f) | (intro f; (have hc : _ → _ → _ → Blk := f); clear hc; (try unfold f); clear f) | (intro x; (have hc : Cmp := x); clear hc) | (intro x; (have hc : Acc := x); clear hc) | (intro x; clear_value x) | split | (intro s x hs) | lift_lets | (show _ = _; rfl) | with_reducible apply Blk.foldl_fst_later | assumption | intro x)) | assumption | intro x)

end Sys2Proof.Machine
end

