-- ==== Sys2Proof/Laws/LaterAccess.lean ====
section
/-!
SUPPORT. What a block can come to (`Blk.Later`) through the operations of Machine/Access.
-/

namespace Sys2Proof.Machine

theorem Blk.applyWord_later {r : Blk} {s : Blk} (a : ℕ) (w : Word) (i : WordInfo) (hs : r.Later s) : r.Later (Blk.applyWord s a w i) := by
  unfold Blk.applyWord
  try lift_lets
  repeat' (first | with_reducible assumption | with_reducible (first | apply Blk.setReg_later | apply Blk.hold_later) | with_reducible apply Blk.foldl_later | with_reducible (refine Blk.later_fst (by assumption) ?_) | with_reducible (refine Blk.later_some (by assumption) ?_) | (intro s; (have hs : Blk.Later r s := ?_); clear_value s; rotate_left; unfold s) | (intro s; (have hs : Blk.Later r s.1 := ?_); clear_value s; rotate_left; unfold s) | (intro f; (have hc : _ → Blk := f); clear hc; (try unfold f); clear f) | (intro f; (have hc : _ → _ → Blk := f); clear hc; (try unfold f); clear f) | (intro f; (have hc : _ → _ → _ → Blk := f); clear hc; (try unfold f); clear f) | (intro x; (have hc : Cmp := x); clear hc) | (intro x; (have hc : Acc := x); clear hc) | (intro x; clear_value x) | split | (intro s x hs) | lift_lets | (show _ = _; rfl) | with_reducible apply Blk.foldl_fst_later | assumption | intro x)

end Sys2Proof.Machine
end

