-- ==== Sys2Proof/Laws/LaterFlags.lean ====
section
/-!
SUPPORT. What a block can come to (`Blk.Later`) through the operations of Machine/Flags.
-/

namespace Sys2Proof.Machine

theorem Blk.raiseL_later {r : Blk} {s : Blk} (code : ℕ) (inst : ℕ) (d0 : ℕ) (d1 : ℕ) (line : ℕ) (hs : r.Later s) : r.Later (Blk.raiseL s code inst d0 d1 line) := by
  unfold Blk.raiseL
  try lift_lets
  repeat' (first | with_reducible assumption | with_reducible apply Blk.foldl_later | with_reducible (refine Blk.later_fst (by assumption) ?_) | with_reducible (refine Blk.later_some (by assumption) ?_) | (intro s; (have hs : Blk.Later r s := ?_); clear_value s; rotate_left; unfold s) | (intro s; (have hs : Blk.Later r s.1 := ?_); clear_value s; rotate_left; unfold s) | (intro f; (have hc : _ → Blk := f); clear hc; (try unfold f); clear f) | (intro f; (have hc : _ → _ → Blk := f); clear hc; (try unfold f); clear f) | (intro f; (have hc : _ → _ → _ → Blk := f); clear hc; (try unfold f); clear f) | (intro x; (have hc : Cmp := x); clear hc) | (intro x; (have hc : Acc := x); clear hc) | (intro x; clear_value x) | split | (intro s x hs) | lift_lets | (show _ = _; rfl) | with_reducible apply Blk.foldl_fst_later | (with_reducible apply Blk.Later.put; (first | with_reducible assumption | with_reducible apply Blk.foldl_later | with_reducible (refine Blk.later_fst (by assumption) ?_) | with_reducible (refine Blk.later_some (by assumption) ?_) | (intro s; (have hs : Blk.Later r s := ?_); clear_value s; rotate_left; unfold s) | (intro s; (have hs : Blk.Later r s.1 := ?_); clear_value s; rotate_left; unfold s) | (intro f; (have hc : _ → Blk := f); clear hc; (try unfold f); clear f) | (intro f; (have hc : _ → _ → Blk := f); clear hc; (try unfold f); clear f) | (intro f; (have hc : _ → _ → _ → Blk := f); clear hc; (try unfold f); clear f) | (intro x; (have hc : Cmp := x); clear hc) | (intro x; (have hc : Acc := x); clear hc) | (intro x; clear_value x) | split | (intro s x hs) | lift_lets | (show _ = _; rfl) | with_reducible apply Blk.foldl_fst_later | assumption | intro x)) | assumption | intro x)

theorem Blk.raise_later {r : Blk} {s : Blk} (code : ℕ) (inst : ℕ) (d0 : ℕ) (d1 : ℕ) (hs : r.Later s) : r.Later (Blk.raise s code inst d0 d1) := by
  unfold Blk.raise
  try lift_lets
  repeat' (first | with_reducible assumption | with_reducible (first | apply Blk.raiseL_later) | with_reducible apply Blk.foldl_later | with_reducible (refine Blk.later_fst (by assumption) ?_) | with_reducible (refine Blk.later_some (by assumption) ?_) | (intro s; (have hs : Blk.Later r s := ?_); clear_value s; rotate_left; unfold s) | (intro s; (have hs : Blk.Later r s.1 := ?_); clear_value s; rotate_left; unfold s) | (intro f; (have hc : _ → Blk := f); clear hc; (try unfold f); clear f) | (intro f; (have hc : _ → _ → Blk := f); clear hc; (try unfold f); clear f) | (intro f; (have hc : _ → _ → _ → Blk := f); clear hc; (try unfold f); clear f) | (intro x; (have hc : Cmp := x); clear hc) | (intro x; (have hc : Acc := x); clear hc) | (intro x; clear_value x) | split | (intro s x hs) | lift_lets | (show _ = _; rfl) | with_reducible apply Blk.foldl_fst_later | assumption | intro x)

theorem Blk.raiseT_later {r : Blk} {s : Blk} (code : ℕ) (t : ℕ) (d0 : ℕ) (d1 : ℕ) (hs : r.Later s) : r.Later (Blk.raiseT s code t d0 d1) := by
  unfold Blk.raiseT
  try lift_lets
  repeat' (first | with_reducible assumption | with_reducible (first | apply Blk.raiseL_later) | with_reducible apply Blk.foldl_later | with_reducible (refine Blk.later_fst (by assumption) ?_) | with_reducible (refine Blk.later_some (by assumption) ?_) | (intro s; (have hs : Blk.Later r s := ?_); clear_value s; rotate_left; unfold s) | (intro s; (have hs : Blk.Later r s.1 := ?_); clear_value s; rotate_left; unfold s) | (intro f; (have hc : _ → Blk := f); clear hc; (try unfold f); clear f) | (intro f; (have hc : _ → _ → Blk := f); clear hc; (try unfold f); clear f) | (intro f; (have hc : _ → _ → _ → Blk := f); clear hc; (try unfold f); clear f) | (intro x; (have hc : Cmp := x); clear hc) | (intro x; (have hc : Acc := x); clear hc) | (intro x; clear_value x) | split | (intro s x hs) | lift_lets | (show _ = _; rfl) | with_reducible apply Blk.foldl_fst_later | assumption | intro x)

theorem Blk.countOne_later {r : Blk} {s : Blk} (src : ℕ) (n : ℕ) (i : ℕ) (hs : r.Later s) : r.Later (Blk.countOne src n s i) := by
  unfold Blk.countOne
  try lift_lets
  repeat' (first | with_reducible assumption | with_reducible (first | apply Blk.setVal_later | apply Blk.raise_later | apply Blk.setF_later) | with_reducible apply Blk.foldl_later | with_reducible (refine Blk.later_fst (by assumption) ?_) | with_reducible (refine Blk.later_some (by assumption) ?_) | (intro s; (have hs : Blk.Later r s := ?_); clear_value s; rotate_left; unfold s) | (intro s; (have hs : Blk.Later r s.1 := ?_); clear_value s; rotate_left; unfold s) | (intro f; (have hc : _ → Blk := f); clear hc; (try unfold f); clear f) | (intro f; (have hc : _ → _ → Blk := f); clear hc; (try unfold f); clear f) | (intro f; (have hc : _ → _ → _ → Blk := f); clear hc; (try unfold f); clear f) | (intro x; (have hc : Cmp := x); clear hc) | (intro x; (have hc : Acc := x); clear hc) | (intro x; clear_value x) | split | (intro s x hs) | lift_lets | (show _ = _; rfl) | with_reducible apply Blk.foldl_fst_later | assumption | intro x)

theorem Blk.count_later {r : Blk} {s : Blk} (src : ℕ) (n : ℕ) (hs : r.Later s) : r.Later (Blk.count s src n) := by
  unfold Blk.count
  try lift_lets
  repeat' (first | with_reducible assumption | with_reducible (first | apply Blk.countOne_later) | with_reducible apply Blk.foldl_later | with_reducible (refine Blk.later_fst (by assumption) ?_) | with_reducible (refine Blk.later_some (by assumption) ?_) | (intro s; (have hs : Blk.Later r s := ?_); clear_value s; rotate_left; unfold s) | (intro s; (have hs : Blk.Later r s.1 := ?_); clear_value s; rotate_left; unfold s) | (intro f; (have hc : _ → Blk := f); clear hc; (try unfold f); clear f) | (intro f; (have hc : _ → _ → Blk := f); clear hc; (try unfold f); clear f) | (intro f; (have hc : _ → _ → _ → Blk := f); clear hc; (try unfold f); clear f) | (intro x; (have hc : Cmp := x); clear hc) | (intro x; (have hc : Acc := x); clear hc) | (intro x; clear_value x) | split | (intro s x hs) | lift_lets | (show _ = _; rfl) | with_reducible apply Blk.foldl_fst_later | assumption | intro x)

theorem Blk.moved_later {r : Blk} {s : Blk} (hs : r.Later s) : r.Later (Blk.moved s) := by
  unfold Blk.moved
  try lift_lets
  repeat' (first | with_reducible assumption | with_reducible apply Blk.foldl_later | with_reducible (refine Blk.later_fst (by assumption) ?_) | with_reducible (refine Blk.later_some (by assumption) ?_) | (intro s; (have hs : Blk.Later r s := ?_); clear_value s; rotate_left; unfold s) | (intro s; (have hs : Blk.Later r s.1 := ?_); clear_value s; rotate_left; unfold s) | (intro f; (have hc : _ → Blk := f); clear hc; (try unfold f); clear f) | (intro f; (have hc : _ → _ → Blk := f); clear hc; (try unfold f); clear f) | (intro f; (have hc : _ → _ → _ → Blk := f); clear hc; (try unfold f); clear f) | (intro x; (have hc : Cmp := x); clear hc) | (intro x; (have hc : Acc := x); clear hc) | (intro x; clear_value x) | split | (intro s x hs) | lift_lets | (show _ = _; rfl) | with_reducible apply Blk.foldl_fst_later | (with_reducible apply Blk.Later.put; (first | with_reducible assumption | with_reducible apply Blk.foldl_later | with_reducible (refine Blk.later_fst (by assumption) ?_) | with_reducible (refine Blk.later_some (by assumption) ?_) | (intro s; (have hs : Blk.Later r s := ?_); clear_value s; rotate_left; unfold s) | (intro s; (have hs : Blk.Later r s.1 := ?_); clear_value s; rotate_left; unfold s) | (intro f; (have hc : _ → Blk := f); clear hc; (try unfold f); clear f) | (intro f; (have hc : _ → _ → Blk := f); clear hc; (try unfold f); clear f) | (intro f; (have hc : _ → _ → _ → Blk := f); clear hc; (try unfold f); clear f) | (intro x; (have hc : Cmp := x); clear hc) | (intro x; (have hc : Acc := x); clear hc) | (intro x; clear_value x) | split | (intro s x hs) | lift_lets | (show _ = _; rfl) | with_reducible apply Blk.foldl_fst_later | assumption | intro x)) | assumption | intro x)

theorem Blk.advance_later {r : Blk} {s : Blk} (t : ℕ) (hs : r.Later s) : r.Later (Blk.advance s t) := by
  unfold Blk.advance
  split
  · exact hs
  · exact Blk.moved_later (Blk.count_later _ _ (Blk.Later.tick hs (by omega)))

theorem Blk.showHeld_later {r : Blk} {s : Blk} (hs : r.Later s) : r.Later (Blk.showHeld s) := by
  unfold Blk.showHeld
  try lift_lets
  repeat' (first | with_reducible assumption | with_reducible (first | apply Blk.setF_later) | with_reducible apply Blk.foldl_later | with_reducible (refine Blk.later_fst (by assumption) ?_) | with_reducible (refine Blk.later_some (by assumption) ?_) | (intro s; (have hs : Blk.Later r s := ?_); clear_value s; rotate_left; unfold s) | (intro s; (have hs : Blk.Later r s.1 := ?_); clear_value s; rotate_left; unfold s) | (intro f; (have hc : _ → Blk := f); clear hc; (try unfold f); clear f) | (intro f; (have hc : _ → _ → Blk := f); clear hc; (try unfold f); clear f) | (intro f; (have hc : _ → _ → _ → Blk := f); clear hc; (try unfold f); clear f) | (intro x; (have hc : Cmp := x); clear hc) | (intro x; (have hc : Acc := x); clear hc) | (intro x; clear_value x) | split | (intro s x hs) | lift_lets | (show _ = _; rfl) | with_reducible apply Blk.foldl_fst_later | assumption | intro x)

theorem Blk.putTrim_later {r : Blk} {s : Blk} (h : HeldTrim) (v : ℤ) (hs : r.Later s) : r.Later (Blk.putTrim s h v) := by
  unfold Blk.putTrim
  try lift_lets
  repeat' (first | with_reducible assumption | with_reducible (first | apply Blk.setF_later | apply Blk.wn_later) | with_reducible apply Blk.foldl_later | with_reducible (refine Blk.later_fst (by assumption) ?_) | with_reducible (refine Blk.later_some (by assumption) ?_) | (intro s; (have hs : Blk.Later r s := ?_); clear_value s; rotate_left; unfold s) | (intro s; (have hs : Blk.Later r s.1 := ?_); clear_value s; rotate_left; unfold s) | (intro f; (have hc : _ → Blk := f); clear hc; (try unfold f); clear f) | (intro f; (have hc : _ → _ → Blk := f); clear hc; (try unfold f); clear f) | (intro f; (have hc : _ → _ → _ → Blk := f); clear hc; (try unfold f); clear f) | (intro x; (have hc : Cmp := x); clear hc) | (intro x; (have hc : Acc := x); clear hc) | (intro x; clear_value x) | split | (intro s x hs) | lift_lets | (show _ = _; rfl) | with_reducible apply Blk.foldl_fst_later | (with_reducible apply Blk.Later.put; (first | with_reducible assumption | with_reducible (first | apply Blk.setF_later | apply Blk.wn_later) | with_reducible apply Blk.foldl_later | with_reducible (refine Blk.later_fst (by assumption) ?_) | with_reducible (refine Blk.later_some (by assumption) ?_) | (intro s; (have hs : Blk.Later r s := ?_); clear_value s; rotate_left; unfold s) | (intro s; (have hs : Blk.Later r s.1 := ?_); clear_value s; rotate_left; unfold s) | (intro f; (have hc : _ → Blk := f); clear hc; (try unfold f); clear f) | (intro f; (have hc : _ → _ → Blk := f); clear hc; (try unfold f); clear f) | (intro f; (have hc : _ → _ → _ → Blk := f); clear hc; (try unfold f); clear f) | (intro x; (have hc : Cmp := x); clear hc) | (intro x; (have hc : Acc := x); clear hc) | (intro x; clear_value x) | split | (intro s x hs) | lift_lets | (show _ = _; rfl) | with_reducible apply Blk.foldl_fst_later | assumption | intro x)) | assumption | intro x)

theorem Blk.applyTrim_later {r : Blk} {s : Blk} (h : HeldTrim) (hs : r.Later s) : r.Later (Blk.applyTrim s h) := by
  unfold Blk.applyTrim
  try lift_lets
  repeat' (first | with_reducible assumption | with_reducible (first | apply Blk.showHeld_later | apply Blk.putTrim_later | apply Blk.raise_later | apply Blk.setF_later) | with_reducible apply Blk.foldl_later | with_reducible (refine Blk.later_fst (by assumption) ?_) | with_reducible (refine Blk.later_some (by assumption) ?_) | (intro s; (have hs : Blk.Later r s := ?_); clear_value s; rotate_left; unfold s) | (intro s; (have hs : Blk.Later r s.1 := ?_); clear_value s; rotate_left; unfold s) | (intro f; (have hc : _ → Blk := f); clear hc; (try unfold f); clear f) | (intro f; (have hc : _ → _ → Blk := f); clear hc; (try unfold f); clear f) | (intro f; (have hc : _ → _ → _ → Blk := f); clear hc; (try unfold f); clear f) | (intro x; (have hc : Cmp := x); clear hc) | (intro x; (have hc : Acc := x); clear hc) | (intro x; clear_value x) | split | (intro s x hs) | lift_lets | (show _ = _; rfl) | with_reducible apply Blk.foldl_fst_later | (with_reducible apply Blk.Later.put; (first | with_reducible assumption | with_reducible (first | apply Blk.showHeld_later | apply Blk.putTrim_later | apply Blk.raise_later | apply Blk.setF_later) | with_reducible apply Blk.foldl_later | with_reducible (refine Blk.later_fst (by assumption) ?_) | with_reducible (refine Blk.later_some (by assumption) ?_) | (intro s; (have hs : Blk.Later r s := ?_); clear_value s; rotate_left; unfold s) | (intro s; (have hs : Blk.Later r s.1 := ?_); clear_value s; rotate_left; unfold s) | (intro f; (have hc : _ → Blk := f); clear hc; (try unfold f); clear f) | (intro f; (have hc : _ → _ → Blk := f); clear hc; (try unfold f); clear f) | (intro f; (have hc : _ → _ → _ → Blk := f); clear hc; (try unfold f); clear f) | (intro x; (have hc : Cmp := x); clear hc) | (intro x; (have hc : Acc := x); clear hc) | (intro x; clear_value x) | split | (intro s x hs) | lift_lets | (show _ = _; rfl) | with_reducible apply Blk.foldl_fst_later | assumption | intro x)) | assumption | intro x)

theorem Blk.trimsDue_later {r : Blk} {s : Blk} (p : HeldTrim → Bool) (hs : r.Later s) : r.Later (Blk.trimsDue s p) := by
  unfold Blk.trimsDue
  try lift_lets
  repeat' (first | with_reducible assumption | with_reducible (first | apply Blk.applyTrim_later) | with_reducible apply Blk.foldl_later | with_reducible (refine Blk.later_fst (by assumption) ?_) | with_reducible (refine Blk.later_some (by assumption) ?_) | (intro s; (have hs : Blk.Later r s := ?_); clear_value s; rotate_left; unfold s) | (intro s; (have hs : Blk.Later r s.1 := ?_); clear_value s; rotate_left; unfold s) | (intro f; (have hc : _ → Blk := f); clear hc; (try unfold f); clear f) | (intro f; (have hc : _ → _ → Blk := f); clear hc; (try unfold f); clear f) | (intro f; (have hc : _ → _ → _ → Blk := f); clear hc; (try unfold f); clear f) | (intro x; (have hc : Cmp := x); clear hc) | (intro x; (have hc : Acc := x); clear hc) | (intro x; clear_value x) | split | (intro s x hs) | lift_lets | (show _ = _; rfl) | with_reducible apply Blk.foldl_fst_later | assumption | intro x)

end Sys2Proof.Machine
end

