-- ==== Sys2Proof/Laws/LaterAlign.lean ====
section
/-!
SUPPORT. What a block can come to (`Blk.Later`) through the operations of Machine/Align.
-/

namespace Sys2Proof.Machine

theorem Blk.takeTheta_later {r : Blk} {s : Blk} (h : ℕ) (hs : r.Later s) : r.Later (Blk.takeTheta s h) := by
  unfold Blk.takeTheta
  try lift_lets
  repeat' (first | with_reducible assumption | with_reducible (first | apply Blk.wn_later) | with_reducible apply Blk.foldl_later | with_reducible (refine Blk.later_fst (by assumption) ?_) | with_reducible (refine Blk.later_some (by assumption) ?_) | (intro s; (have hs : Blk.Later r s := ?_); clear_value s; rotate_left; unfold s) | (intro s; (have hs : Blk.Later r s.1 := ?_); clear_value s; rotate_left; unfold s) | (intro f; (have hc : _ → Blk := f); clear hc; (try unfold f); clear f) | (intro f; (have hc : _ → _ → Blk := f); clear hc; (try unfold f); clear f) | (intro f; (have hc : _ → _ → _ → Blk := f); clear hc; (try unfold f); clear f) | (intro x; (have hc : Cmp := x); clear hc) | (intro x; (have hc : Acc := x); clear hc) | (intro x; clear_value x) | split | (intro s x hs) | lift_lets | (show _ = _; rfl) | with_reducible apply Blk.foldl_fst_later | assumption | intro x)

theorem Blk.alnTake_later {r : Blk} {s : Blk} (v : ℕ) (h : ℕ) (hs : r.Later s) : r.Later (Blk.alnTake v s h) := by
  unfold Blk.alnTake
  try lift_lets
  repeat' (first | with_reducible assumption | with_reducible (first | apply Blk.takeTheta_later | apply Blk.setF_later | apply Blk.raise_later) | with_reducible apply Blk.foldl_later | with_reducible (refine Blk.later_fst (by assumption) ?_) | with_reducible (refine Blk.later_some (by assumption) ?_) | (intro s; (have hs : Blk.Later r s := ?_); clear_value s; rotate_left; unfold s) | (intro s; (have hs : Blk.Later r s.1 := ?_); clear_value s; rotate_left; unfold s) | (intro f; (have hc : _ → Blk := f); clear hc; (try unfold f); clear f) | (intro f; (have hc : _ → _ → Blk := f); clear hc; (try unfold f); clear f) | (intro f; (have hc : _ → _ → _ → Blk := f); clear hc; (try unfold f); clear f) | (intro x; (have hc : Cmp := x); clear hc) | (intro x; (have hc : Acc := x); clear hc) | (intro x; clear_value x) | split | (intro s x hs) | lift_lets | (show _ = _; rfl) | with_reducible apply Blk.foldl_fst_later | (with_reducible apply Blk.Later.put; (first | with_reducible assumption | with_reducible (first | apply Blk.takeTheta_later | apply Blk.setF_later | apply Blk.raise_later) | with_reducible apply Blk.foldl_later | with_reducible (refine Blk.later_fst (by assumption) ?_) | with_reducible (refine Blk.later_some (by assumption) ?_) | (intro s; (have hs : Blk.Later r s := ?_); clear_value s; rotate_left; unfold s) | (intro s; (have hs : Blk.Later r s.1 := ?_); clear_value s; rotate_left; unfold s) | (intro f; (have hc : _ → Blk := f); clear hc; (try unfold f); clear f) | (intro f; (have hc : _ → _ → Blk := f); clear hc; (try unfold f); clear f) | (intro f; (have hc : _ → _ → _ → Blk := f); clear hc; (try unfold f); clear f) | (intro x; (have hc : Cmp := x); clear hc) | (intro x; (have hc : Acc := x); clear hc) | (intro x; clear_value x) | split | (intro s x hs) | lift_lets | (show _ = _; rfl) | with_reducible apply Blk.foldl_fst_later | assumption | intro x)) | assumption | intro x)

theorem Blk.alnBoundary_later {r : Blk} {s : Blk} (v : ℕ) (hs : r.Later s) : r.Later (Blk.alnBoundary s v) := by
  unfold Blk.alnBoundary
  try lift_lets
  repeat' (first | with_reducible assumption | with_reducible (first | apply Blk.alnTake_later) | with_reducible apply Blk.foldl_later | with_reducible (refine Blk.later_fst (by assumption) ?_) | with_reducible (refine Blk.later_some (by assumption) ?_) | (intro s; (have hs : Blk.Later r s := ?_); clear_value s; rotate_left; unfold s) | (intro s; (have hs : Blk.Later r s.1 := ?_); clear_value s; rotate_left; unfold s) | (intro f; (have hc : _ → Blk := f); clear hc; (try unfold f); clear f) | (intro f; (have hc : _ → _ → Blk := f); clear hc; (try unfold f); clear f) | (intro f; (have hc : _ → _ → _ → Blk := f); clear hc; (try unfold f); clear f) | (intro x; (have hc : Cmp := x); clear hc) | (intro x; (have hc : Acc := x); clear hc) | (intro x; clear_value x) | split | (intro s x hs) | lift_lets | (show _ = _; rfl) | with_reducible apply Blk.foldl_fst_later | assumption | intro x)

end Sys2Proof.Machine
end

