-- ==== Sys2Proof/Laws/LaterAxes.lean ====
section
/-!
SUPPORT. What a block can come to (`Blk.Later`) through the operations of Machine/Axes.
-/

namespace Sys2Proof.Machine

theorem Blk.setAx_later {r : Blk} {s : Blk} (n : ℕ) (x2 : Ax) (hs : r.Later s) : r.Later (Blk.setAx s n x2) := by
  refine ⟨fun hr => ?_, hs.2⟩
  have := hs.1 hr
  simp only [Blk.wf, Blk.setAx, Bool.and_eq_true] at this ⊢
  simp only [this, and_true, true_and]
  exact Tab.wf_put _ _ _ (by simp only [this])

theorem Blk.setAxPos_later {r : Blk} {s : Blk} (n : ℕ) (p : ℤ) (hs : r.Later s) : r.Later (Blk.setAxPos s n p) := by
  unfold Blk.setAxPos
  try lift_lets
  repeat' (first | with_reducible assumption | with_reducible (first | apply Blk.setSval_later) | with_reducible apply Blk.foldl_later | with_reducible (refine Blk.later_fst (by assumption) ?_) | with_reducible (refine Blk.later_some (by assumption) ?_) | (intro s; (have hs : Blk.Later r s := ?_); clear_value s; rotate_left; unfold s) | (intro s; (have hs : Blk.Later r s.1 := ?_); clear_value s; rotate_left; unfold s) | (intro f; (have hc : _ → Blk := f); clear hc; (try unfold f); clear f) | (intro f; (have hc : _ → _ → Blk := f); clear hc; (try unfold f); clear f) | (intro f; (have hc : _ → _ → _ → Blk := f); clear hc; (try unfold f); clear f) | (intro x; (have hc : Cmp := x); clear hc) | (intro x; (have hc : Acc := x); clear hc) | (intro x; clear_value x) | split | (intro s x hs) | lift_lets | (show _ = _; rfl) | with_reducible apply Blk.foldl_fst_later | assumption | intro x)

theorem Blk.setAxState_later {r : Blk} {s : Blk} (n : ℕ) (v : ℕ) (hs : r.Later s) : r.Later (Blk.setAxState s n v) := by
  unfold Blk.setAxState
  try lift_lets
  repeat' (first | with_reducible assumption | with_reducible (first | apply Blk.setF_later) | with_reducible apply Blk.foldl_later | with_reducible (refine Blk.later_fst (by assumption) ?_) | with_reducible (refine Blk.later_some (by assumption) ?_) | (intro s; (have hs : Blk.Later r s := ?_); clear_value s; rotate_left; unfold s) | (intro s; (have hs : Blk.Later r s.1 := ?_); clear_value s; rotate_left; unfold s) | (intro f; (have hc : _ → Blk := f); clear hc; (try unfold f); clear f) | (intro f; (have hc : _ → _ → Blk := f); clear hc; (try unfold f); clear f) | (intro f; (have hc : _ → _ → _ → Blk := f); clear hc; (try unfold f); clear f) | (intro x; (have hc : Cmp := x); clear hc) | (intro x; (have hc : Acc := x); clear hc) | (intro x; clear_value x) | split | (intro s x hs) | lift_lets | (show _ = _; rfl) | with_reducible apply Blk.foldl_fst_later | assumption | intro x)

theorem Blk.setActTarget_later {r : Blk} {s : Blk} (n : ℕ) (x2 : ℤ) (hs : r.Later s) : r.Later (Blk.setActTarget s n x2) := by
  unfold Blk.setActTarget
  try lift_lets
  repeat' (first | with_reducible assumption | with_reducible (first | apply Blk.setSval_later) | with_reducible apply Blk.foldl_later | with_reducible (refine Blk.later_fst (by assumption) ?_) | with_reducible (refine Blk.later_some (by assumption) ?_) | (intro s; (have hs : Blk.Later r s := ?_); clear_value s; rotate_left; unfold s) | (intro s; (have hs : Blk.Later r s.1 := ?_); clear_value s; rotate_left; unfold s) | (intro f; (have hc : _ → Blk := f); clear hc; (try unfold f); clear f) | (intro f; (have hc : _ → _ → Blk := f); clear hc; (try unfold f); clear f) | (intro f; (have hc : _ → _ → _ → Blk := f); clear hc; (try unfold f); clear f) | (intro x; (have hc : Cmp := x); clear hc) | (intro x; (have hc : Acc := x); clear hc) | (intro x; clear_value x) | split | (intro s x hs) | lift_lets | (show _ = _; rfl) | with_reducible apply Blk.foldl_fst_later | assumption | intro x)

theorem Blk.captureRef_later {r : Blk} {s : Blk} (n : ℕ) (hs : r.Later s) : r.Later (Blk.captureRef s n) := by
  unfold Blk.captureRef
  try lift_lets
  repeat' (first | with_reducible assumption | with_reducible (first | apply Blk.setAx_later) | with_reducible apply Blk.foldl_later | with_reducible (refine Blk.later_fst (by assumption) ?_) | with_reducible (refine Blk.later_some (by assumption) ?_) | (intro s; (have hs : Blk.Later r s := ?_); clear_value s; rotate_left; unfold s) | (intro s; (have hs : Blk.Later r s.1 := ?_); clear_value s; rotate_left; unfold s) | (intro f; (have hc : _ → Blk := f); clear hc; (try unfold f); clear f) | (intro f; (have hc : _ → _ → Blk := f); clear hc; (try unfold f); clear f) | (intro f; (have hc : _ → _ → _ → Blk := f); clear hc; (try unfold f); clear f) | (intro x; (have hc : Cmp := x); clear hc) | (intro x; (have hc : Acc := x); clear hc) | (intro x; clear_value x) | split | (intro s x hs) | lift_lets | (show _ = _; rfl) | with_reducible apply Blk.foldl_fst_later | assumption | intro x)

theorem Blk.showVel_later {r : Blk} {s : Blk} (n : ℕ) (hs : r.Later s) : r.Later (Blk.showVel s n) := by
  unfold Blk.showVel
  try lift_lets
  repeat' (first | with_reducible assumption | with_reducible (first | apply Blk.setSval_later) | with_reducible apply Blk.foldl_later | with_reducible (refine Blk.later_fst (by assumption) ?_) | with_reducible (refine Blk.later_some (by assumption) ?_) | (intro s; (have hs : Blk.Later r s := ?_); clear_value s; rotate_left; unfold s) | (intro s; (have hs : Blk.Later r s.1 := ?_); clear_value s; rotate_left; unfold s) | (intro f; (have hc : _ → Blk := f); clear hc; (try unfold f); clear f) | (intro f; (have hc : _ → _ → Blk := f); clear hc; (try unfold f); clear f) | (intro f; (have hc : _ → _ → _ → Blk := f); clear hc; (try unfold f); clear f) | (intro x; (have hc : Cmp := x); clear hc) | (intro x; (have hc : Acc := x); clear hc) | (intro x; clear_value x) | split | (intro s x hs) | lift_lets | (show _ = _; rfl) | with_reducible apply Blk.foldl_fst_later | assumption | intro x)

theorem Blk.axReject_later {r : Blk} {s : Blk} (n : ℕ) (cause : ℕ) (hs : r.Later s) : r.Later (Blk.axReject s n cause) := by
  unfold Blk.axReject
  try lift_lets
  repeat' (first | with_reducible assumption | with_reducible (first | apply Blk.raise_later | apply Blk.setF_later) | with_reducible apply Blk.foldl_later | with_reducible (refine Blk.later_fst (by assumption) ?_) | with_reducible (refine Blk.later_some (by assumption) ?_) | (intro s; (have hs : Blk.Later r s := ?_); clear_value s; rotate_left; unfold s) | (intro s; (have hs : Blk.Later r s.1 := ?_); clear_value s; rotate_left; unfold s) | (intro f; (have hc : _ → Blk := f); clear hc; (try unfold f); clear f) | (intro f; (have hc : _ → _ → Blk := f); clear hc; (try unfold f); clear f) | (intro f; (have hc : _ → _ → _ → Blk := f); clear hc; (try unfold f); clear f) | (intro x; (have hc : Cmp := x); clear hc) | (intro x; (have hc : Acc := x); clear hc) | (intro x; clear_value x) | split | (intro s x hs) | lift_lets | (show _ = _; rfl) | with_reducible apply Blk.foldl_fst_later | assumption | intro x)

theorem Blk.cycleCommit_later {r : Blk} {s : Blk} (n : ℕ) (hs : r.Later s) : r.Later (Blk.cycleCommit s n) := by
  unfold Blk.cycleCommit
  try lift_lets
  repeat' (first | with_reducible assumption | with_reducible (first | apply Blk.commit_later) | with_reducible apply Blk.foldl_later | with_reducible (refine Blk.later_fst (by assumption) ?_) | with_reducible (refine Blk.later_some (by assumption) ?_) | (intro s; (have hs : Blk.Later r s := ?_); clear_value s; rotate_left; unfold s) | (intro s; (have hs : Blk.Later r s.1 := ?_); clear_value s; rotate_left; unfold s) | (intro f; (have hc : _ → Blk := f); clear hc; (try unfold f); clear f) | (intro f; (have hc : _ → _ → Blk := f); clear hc; (try unfold f); clear f) | (intro f; (have hc : _ → _ → _ → Blk := f); clear hc; (try unfold f); clear f) | (intro x; (have hc : Cmp := x); clear hc) | (intro x; (have hc : Acc := x); clear hc) | (intro x; clear_value x) | split | (intro s x hs) | lift_lets | (show _ = _; rfl) | with_reducible apply Blk.foldl_fst_later | assumption | intro x)

theorem Blk.cycleNow_later {r : Blk} {s : Blk} (n : ℕ) (hs : r.Later s) : r.Later (Blk.cycleNow s n) := by
  unfold Blk.cycleNow
  try lift_lets
  repeat' (first | with_reducible assumption | with_reducible (first | apply Blk.cycleCommit_later) | with_reducible apply Blk.foldl_later | with_reducible (refine Blk.later_fst (by assumption) ?_) | with_reducible (refine Blk.later_some (by assumption) ?_) | (intro s; (have hs : Blk.Later r s := ?_); clear_value s; rotate_left; unfold s) | (intro s; (have hs : Blk.Later r s.1 := ?_); clear_value s; rotate_left; unfold s) | (intro f; (have hc : _ → Blk := f); clear hc; (try unfold f); clear f) | (intro f; (have hc : _ → _ → Blk := f); clear hc; (try unfold f); clear f) | (intro f; (have hc : _ → _ → _ → Blk := f); clear hc; (try unfold f); clear f) | (intro x; (have hc : Cmp := x); clear hc) | (intro x; (have hc : Acc := x); clear hc) | (intro x; clear_value x) | split | (intro s x hs) | lift_lets | (show _ = _; rfl) | with_reducible apply Blk.foldl_fst_later | assumption | intro x)

theorem Blk.setCoil_later {r : Blk} {s : Blk} (n : ℕ) (c : ℕ) (x3 : Coil) (hs : r.Later s) : r.Later (Blk.setCoil s n c x3) := by
  unfold Blk.setCoil
  try lift_lets
  repeat' (first | with_reducible assumption | with_reducible (first | apply Blk.setAx_later) | with_reducible apply Blk.foldl_later | with_reducible (refine Blk.later_fst (by assumption) ?_) | with_reducible (refine Blk.later_some (by assumption) ?_) | (intro s; (have hs : Blk.Later r s := ?_); clear_value s; rotate_left; unfold s) | (intro s; (have hs : Blk.Later r s.1 := ?_); clear_value s; rotate_left; unfold s) | (intro f; (have hc : _ → Blk := f); clear hc; (try unfold f); clear f) | (intro f; (have hc : _ → _ → Blk := f); clear hc; (try unfold f); clear f) | (intro f; (have hc : _ → _ → _ → Blk := f); clear hc; (try unfold f); clear f) | (intro x; (have hc : Cmp := x); clear hc) | (intro x; (have hc : Acc := x); clear hc) | (intro x; clear_value x) | split | (intro s x hs) | lift_lets | (show _ = _; rfl) | with_reducible apply Blk.foldl_fst_later | assumption | intro x)

theorem Blk.cycleStart_later {r : Blk} {s : Blk} (n : ℕ) (c : ℕ) (t : ℕ) (hs : r.Later s) : r.Later (Blk.cycleStart s n c t) := by
  unfold Blk.cycleStart
  try lift_lets
  repeat' (first | with_reducible assumption | with_reducible (first | apply Blk.trimsDue_later | apply Blk.cycleCommit_later | apply Blk.setCoil_later) | with_reducible apply Blk.foldl_later | with_reducible (refine Blk.later_fst (by assumption) ?_) | with_reducible (refine Blk.later_some (by assumption) ?_) | (intro s; (have hs : Blk.Later r s := ?_); clear_value s; rotate_left; unfold s) | (intro s; (have hs : Blk.Later r s.1 := ?_); clear_value s; rotate_left; unfold s) | (intro f; (have hc : _ → Blk := f); clear hc; (try unfold f); clear f) | (intro f; (have hc : _ → _ → Blk := f); clear hc; (try unfold f); clear f) | (intro f; (have hc : _ → _ → _ → Blk := f); clear hc; (try unfold f); clear f) | (intro x; (have hc : Cmp := x); clear hc) | (intro x; (have hc : Acc := x); clear hc) | (intro x; clear_value x) | split | (intro s x hs) | lift_lets | (show _ = _; rfl) | with_reducible apply Blk.foldl_fst_later | assumption | intro x)

theorem Blk.chopZero_later {r : Blk} {s : Blk} (n : ℕ) (c : ℕ) (hs : r.Later s) : r.Later (Blk.chopZero n s c) := by
  unfold Blk.chopZero
  try lift_lets
  repeat' (first | with_reducible assumption | with_reducible (first | apply Blk.setCoil_later) | with_reducible apply Blk.foldl_later | with_reducible (refine Blk.later_fst (by assumption) ?_) | with_reducible (refine Blk.later_some (by assumption) ?_) | (intro s; (have hs : Blk.Later r s := ?_); clear_value s; rotate_left; unfold s) | (intro s; (have hs : Blk.Later r s.1 := ?_); clear_value s; rotate_left; unfold s) | (intro f; (have hc : _ → Blk := f); clear hc; (try unfold f); clear f) | (intro f; (have hc : _ → _ → Blk := f); clear hc; (try unfold f); clear f) | (intro f; (have hc : _ → _ → _ → Blk := f); clear hc; (try unfold f); clear f) | (intro x; (have hc : Cmp := x); clear hc) | (intro x; (have hc : Acc := x); clear hc) | (intro x; clear_value x) | split | (intro s x hs) | lift_lets | (show _ = _; rfl) | with_reducible apply Blk.foldl_fst_later | assumption | intro x)

theorem Blk.showOfs_later {r : Blk} {s : Blk} (n : ℕ) (hs : r.Later s) : r.Later (Blk.showOfs s n) := by
  unfold Blk.showOfs
  try lift_lets
  repeat' (first | with_reducible assumption | with_reducible (first | apply Blk.wn_later) | with_reducible apply Blk.foldl_later | with_reducible (refine Blk.later_fst (by assumption) ?_) | with_reducible (refine Blk.later_some (by assumption) ?_) | (intro s; (have hs : Blk.Later r s := ?_); clear_value s; rotate_left; unfold s) | (intro s; (have hs : Blk.Later r s.1 := ?_); clear_value s; rotate_left; unfold s) | (intro f; (have hc : _ → Blk := f); clear hc; (try unfold f); clear f) | (intro f; (have hc : _ → _ → Blk := f); clear hc; (try unfold f); clear f) | (intro f; (have hc : _ → _ → _ → Blk := f); clear hc; (try unfold f); clear f) | (intro x; (have hc : Cmp := x); clear hc) | (intro x; (have hc : Acc := x); clear hc) | (intro x; clear_value x) | split | (intro s x hs) | lift_lets | (show _ = _; rfl) | with_reducible apply Blk.foldl_fst_later | assumption | intro x)

theorem Blk.ratioChange_later {r : Blk} {s : Blk} (n : ℕ) (k : ℕ) (hs : r.Later s) : r.Later (Blk.ratioChange s n k) := by
  unfold Blk.ratioChange
  try lift_lets
  repeat' (first | with_reducible assumption | with_reducible (first | apply Blk.setF_later | apply Blk.setAx_later) | with_reducible apply Blk.foldl_later | with_reducible (refine Blk.later_fst (by assumption) ?_) | with_reducible (refine Blk.later_some (by assumption) ?_) | (intro s; (have hs : Blk.Later r s := ?_); clear_value s; rotate_left; unfold s) | (intro s; (have hs : Blk.Later r s.1 := ?_); clear_value s; rotate_left; unfold s) | (intro f; (have hc : _ → Blk := f); clear hc; (try unfold f); clear f) | (intro f; (have hc : _ → _ → Blk := f); clear hc; (try unfold f); clear f) | (intro f; (have hc : _ → _ → _ → Blk := f); clear hc; (try unfold f); clear f) | (intro x; (have hc : Cmp := x); clear hc) | (intro x; (have hc : Acc := x); clear hc) | (intro x; clear_value x) | split | (intro s x hs) | lift_lets | (show _ = _; rfl) | with_reducible apply Blk.foldl_fst_later | assumption | intro x)

theorem Blk.rampEnd_later {r : Blk} {s : Blk} (n : ℕ) (hs : r.Later s) : r.Later (Blk.rampEnd s n) := by
  unfold Blk.rampEnd
  try lift_lets
  repeat' (first | with_reducible assumption | with_reducible (first | apply Blk.setAx_later | apply Blk.ratioChange_later) | with_reducible apply Blk.foldl_later | with_reducible (refine Blk.later_fst (by assumption) ?_) | with_reducible (refine Blk.later_some (by assumption) ?_) | (intro s; (have hs : Blk.Later r s := ?_); clear_value s; rotate_left; unfold s) | (intro s; (have hs : Blk.Later r s.1 := ?_); clear_value s; rotate_left; unfold s) | (intro f; (have hc : _ → Blk := f); clear hc; (try unfold f); clear f) | (intro f; (have hc : _ → _ → Blk := f); clear hc; (try unfold f); clear f) | (intro f; (have hc : _ → _ → _ → Blk := f); clear hc; (try unfold f); clear f) | (intro x; (have hc : Cmp := x); clear hc) | (intro x; (have hc : Acc := x); clear hc) | (intro x; clear_value x) | split | (intro s x hs) | lift_lets | (show _ = _; rfl) | with_reducible apply Blk.foldl_fst_later | assumption | intro x)

theorem Blk.axStop_later {r : Blk} {s : Blk} (n : ℕ) (lim : Bool) (hs : r.Later s) : r.Later (Blk.axStop s n lim) := by
  unfold Blk.axStop
  try lift_lets
  repeat' (first | with_reducible assumption | with_reducible (first | apply Blk.setAx_later | apply Blk.setAxState_later | apply Blk.setActTarget_later) | with_reducible apply Blk.foldl_later | with_reducible (refine Blk.later_fst (by assumption) ?_) | with_reducible (refine Blk.later_some (by assumption) ?_) | (intro s; (have hs : Blk.Later r s := ?_); clear_value s; rotate_left; unfold s) | (intro s; (have hs : Blk.Later r s.1 := ?_); clear_value s; rotate_left; unfold s) | (intro f; (have hc : _ → Blk := f); clear hc; (try unfold f); clear f) | (intro f; (have hc : _ → _ → Blk := f); clear hc; (try unfold f); clear f) | (intro f; (have hc : _ → _ → _ → Blk := f); clear hc; (try unfold f); clear f) | (intro x; (have hc : Cmp := x); clear hc) | (intro x; (have hc : Acc := x); clear hc) | (intro x; clear_value x) | split | (intro s x hs) | lift_lets | (show _ = _; rfl) | with_reducible apply Blk.foldl_fst_later | assumption | intro x)

theorem Blk.homeFail_later {r : Blk} {s : Blk} (n : ℕ) (cause : ℕ) (lim : Bool) (hs : r.Later s) : r.Later (Blk.homeFail s n cause lim) := by
  unfold Blk.homeFail
  try lift_lets
  repeat' (first | with_reducible assumption | with_reducible (first | apply Blk.axStop_later | apply Blk.setF_later | apply Blk.raise_later) | with_reducible apply Blk.foldl_later | with_reducible (refine Blk.later_fst (by assumption) ?_) | with_reducible (refine Blk.later_some (by assumption) ?_) | (intro s; (have hs : Blk.Later r s := ?_); clear_value s; rotate_left; unfold s) | (intro s; (have hs : Blk.Later r s.1 := ?_); clear_value s; rotate_left; unfold s) | (intro f; (have hc : _ → Blk := f); clear hc; (try unfold f); clear f) | (intro f; (have hc : _ → _ → Blk := f); clear hc; (try unfold f); clear f) | (intro f; (have hc : _ → _ → _ → Blk := f); clear hc; (try unfold f); clear f) | (intro x; (have hc : Cmp := x); clear hc) | (intro x; (have hc : Acc := x); clear hc) | (intro x; clear_value x) | split | (intro s x hs) | lift_lets | (show _ = _; rfl) | with_reducible apply Blk.foldl_fst_later | assumption | intro x)

theorem axisEnable_later {r : Blk} {s : Blk} (n : ℕ) (hs : r.Later s) : r.Later (axisEnable n s) := by
  unfold axisEnable
  try lift_lets
  repeat' (first | with_reducible assumption | with_reducible (first | apply Blk.axReject_later | apply Blk.commit_later | apply Blk.captureRef_later | apply Blk.setAxState_later | apply Blk.cycleNow_later | apply Blk.cycleStart_later) | with_reducible apply Blk.foldl_later | with_reducible (refine Blk.later_fst (by assumption) ?_) | with_reducible (refine Blk.later_some (by assumption) ?_) | (intro s; (have hs : Blk.Later r s := ?_); clear_value s; rotate_left; unfold s) | (intro s; (have hs : Blk.Later r s.1 := ?_); clear_value s; rotate_left; unfold s) | (intro f; (have hc : _ → Blk := f); clear hc; (try unfold f); clear f) | (intro f; (have hc : _ → _ → Blk := f); clear hc; (try unfold f); clear f) | (intro f; (have hc : _ → _ → _ → Blk := f); clear hc; (try unfold f); clear f) | (intro x; (have hc : Cmp := x); clear hc) | (intro x; (have hc : Acc := x); clear hc) | (intro x; clear_value x) | split | (intro s x hs) | lift_lets | (show _ = _; rfl) | with_reducible apply Blk.foldl_fst_later | assumption | intro x)

theorem axisDisable_later {r : Blk} {s : Blk} (n : ℕ) (hs : r.Later s) : r.Later (axisDisable n s) := by
  unfold axisDisable
  try lift_lets
  repeat' (first | with_reducible assumption | with_reducible (first | apply Blk.axReject_later | apply Blk.setAx_later | apply Blk.cycleNow_later | apply Blk.showVel_later | apply Blk.setF_later | apply Blk.setAxState_later) | with_reducible apply Blk.foldl_later | with_reducible (refine Blk.later_fst (by assumption) ?_) | with_reducible (refine Blk.later_some (by assumption) ?_) | (intro s; (have hs : Blk.Later r s := ?_); clear_value s; rotate_left; unfold s) | (intro s; (have hs : Blk.Later r s.1 := ?_); clear_value s; rotate_left; unfold s) | (intro f; (have hc : _ → Blk := f); clear hc; (try unfold f); clear f) | (intro f; (have hc : _ → _ → Blk := f); clear hc; (try unfold f); clear f) | (intro f; (have hc : _ → _ → _ → Blk := f); clear hc; (try unfold f); clear f) | (intro x; (have hc : Cmp := x); clear hc) | (intro x; (have hc : Acc := x); clear hc) | (intro x; clear_value x) | split | (intro s x hs) | lift_lets | (show _ = _; rfl) | with_reducible apply Blk.foldl_fst_later | assumption | intro x)

theorem axisCouple_later {r : Blk} {s : Blk} (n : ℕ) (hs : r.Later s) : r.Later (axisCouple n s) := by
  unfold axisCouple
  try lift_lets
  repeat' (first | with_reducible assumption | with_reducible (first | apply Blk.axReject_later | apply Blk.setAxState_later | apply Blk.setF_later | apply Blk.setAx_later) | with_reducible apply Blk.foldl_later | with_reducible (refine Blk.later_fst (by assumption) ?_) | with_reducible (refine Blk.later_some (by assumption) ?_) | (intro s; (have hs : Blk.Later r s := ?_); clear_value s; rotate_left; unfold s) | (intro s; (have hs : Blk.Later r s.1 := ?_); clear_value s; rotate_left; unfold s) | (intro f; (have hc : _ → Blk := f); clear hc; (try unfold f); clear f) | (intro f; (have hc : _ → _ → Blk := f); clear hc; (try unfold f); clear f) | (intro f; (have hc : _ → _ → _ → Blk := f); clear hc; (try unfold f); clear f) | (intro x; (have hc : Cmp := x); clear hc) | (intro x; (have hc : Acc := x); clear hc) | (intro x; clear_value x) | split | (intro s x hs) | lift_lets | (show _ = _; rfl) | with_reducible apply Blk.foldl_fst_later | (with_reducible apply Blk.Later.put; (first | with_reducible assumption | with_reducible (first | apply Blk.axReject_later | apply Blk.setAxState_later | apply Blk.setF_later | apply Blk.setAx_later) | with_reducible apply Blk.foldl_later | with_reducible (refine Blk.later_fst (by assumption) ?_) | with_reducible (refine Blk.later_some (by assumption) ?_) | (intro s; (have hs : Blk.Later r s := ?_); clear_value s; rotate_left; unfold s) | (intro s; (have hs : Blk.Later r s.1 := ?_); clear_value s; rotate_left; unfold s) | (intro f; (have hc : _ → Blk := f); clear hc; (try unfold f); clear f) | (intro f; (have hc : _ → _ → Blk := f); clear hc; (try unfold f); clear f) | (intro f; (have hc : _ → _ → _ → Blk := f); clear hc; (try unfold f); clear f) | (intro x; (have hc : Cmp := x); clear hc) | (intro x; (have hc : Acc := x); clear hc) | (intro x; clear_value x) | split | (intro s x hs) | lift_lets | (show _ = _; rfl) | with_reducible apply Blk.foldl_fst_later | assumption | intro x)) | assumption | intro x)

theorem axisGo_later {r : Blk} {s : Blk} (n : ℕ) (hs : r.Later s) : r.Later (axisGo n s) := by
  unfold axisGo
  try lift_lets
  repeat' (first | with_reducible assumption | with_reducible (first | apply axisCouple_later | apply Blk.axReject_later | apply Blk.setAxState_later | apply Blk.setActTarget_later | apply Blk.setAx_later) | with_reducible apply Blk.foldl_later | with_reducible (refine Blk.later_fst (by assumption) ?_) | with_reducible (refine Blk.later_some (by assumption) ?_) | (intro s; (have hs : Blk.Later r s := ?_); clear_value s; rotate_left; unfold s) | (intro s; (have hs : Blk.Later r s.1 := ?_); clear_value s; rotate_left; unfold s) | (intro f; (have hc : _ → Blk := f); clear hc; (try unfold f); clear f) | (intro f; (have hc : _ → _ → Blk := f); clear hc; (try unfold f); clear f) | (intro f; (have hc : _ → _ → _ → Blk := f); clear hc; (try unfold f); clear f) | (intro x; (have hc : Cmp := x); clear hc) | (intro x; (have hc : Acc := x); clear hc) | (intro x; clear_value x) | split | (intro s x hs) | lift_lets | (show _ = _; rfl) | with_reducible apply Blk.foldl_fst_later | assumption | intro x)

theorem axisStopCmd_later {r : Blk} {s : Blk} (lim : Bool) (n : ℕ) (hs : r.Later s) : r.Later (axisStopCmd lim n s) := by
  unfold axisStopCmd
  try lift_lets
  repeat' (first | with_reducible assumption | with_reducible (first | apply Blk.axStop_later | apply Blk.homeFail_later | apply Blk.axReject_later) | with_reducible apply Blk.foldl_later | with_reducible (refine Blk.later_fst (by assumption) ?_) | with_reducible (refine Blk.later_some (by assumption) ?_) | (intro s; (have hs : Blk.Later r s := ?_); clear_value s; rotate_left; unfold s) | (intro s; (have hs : Blk.Later r s.1 := ?_); clear_value s; rotate_left; unfold s) | (intro f; (have hc : _ → Blk := f); clear hc; (try unfold f); clear f) | (intro f; (have hc : _ → _ → Blk := f); clear hc; (try unfold f); clear f) | (intro f; (have hc : _ → _ → _ → Blk := f); clear hc; (try unfold f); clear f) | (intro x; (have hc : Cmp := x); clear hc) | (intro x; (have hc : Acc := x); clear hc) | (intro x; clear_value x) | split | (intro s x hs) | lift_lets | (show _ = _; rfl) | with_reducible apply Blk.foldl_fst_later | assumption | intro x)

theorem axisHome_later {r : Blk} {s : Blk} (n : ℕ) (hs : r.Later s) : r.Later (axisHome n s) := by
  unfold axisHome
  try lift_lets
  repeat' (first | with_reducible assumption | with_reducible (first | apply Blk.axReject_later | apply Blk.setAxState_later | apply Blk.setF_later | apply Blk.setAx_later) | with_reducible apply Blk.foldl_later | with_reducible (refine Blk.later_fst (by assumption) ?_) | with_reducible (refine Blk.later_some (by assumption) ?_) | (intro s; (have hs : Blk.Later r s := ?_); clear_value s; rotate_left; unfold s) | (intro s; (have hs : Blk.Later r s.1 := ?_); clear_value s; rotate_left; unfold s) | (intro f; (have hc : _ → Blk := f); clear hc; (try unfold f); clear f) | (intro f; (have hc : _ → _ → Blk := f); clear hc; (try unfold f); clear f) | (intro f; (have hc : _ → _ → _ → Blk := f); clear hc; (try unfold f); clear f) | (intro x; (have hc : Cmp := x); clear hc) | (intro x; (have hc : Acc := x); clear hc) | (intro x; clear_value x) | split | (intro s x hs) | lift_lets | (show _ = _; rfl) | with_reducible apply Blk.foldl_fst_later | assumption | intro x)

theorem axisPreset_later {r : Blk} {s : Blk} (n : ℕ) (hs : r.Later s) : r.Later (axisPreset n s) := by
  unfold axisPreset
  try lift_lets
  repeat' (first | with_reducible assumption | with_reducible (first | apply Blk.axReject_later | apply Blk.captureRef_later | apply Blk.setF_later | apply Blk.setAxPos_later) | with_reducible apply Blk.foldl_later | with_reducible (refine Blk.later_fst (by assumption) ?_) | with_reducible (refine Blk.later_some (by assumption) ?_) | (intro s; (have hs : Blk.Later r s := ?_); clear_value s; rotate_left; unfold s) | (intro s; (have hs : Blk.Later r s.1 := ?_); clear_value s; rotate_left; unfold s) | (intro f; (have hc : _ → Blk := f); clear hc; (try unfold f); clear f) | (intro f; (have hc : _ → _ → Blk := f); clear hc; (try unfold f); clear f) | (intro f; (have hc : _ → _ → _ → Blk := f); clear hc; (try unfold f); clear f) | (intro x; (have hc : Cmp := x); clear hc) | (intro x; (have hc : Acc := x); clear hc) | (intro x; clear_value x) | split | (intro s x hs) | lift_lets | (show _ = _; rfl) | with_reducible apply Blk.foldl_fst_later | assumption | intro x)

theorem axisClear_later {r : Blk} {s : Blk} (n : ℕ) (hs : r.Later s) : r.Later (axisClear n s) := by
  unfold axisClear
  try lift_lets
  repeat' (first | with_reducible assumption | with_reducible (first | apply Blk.axReject_later | apply Blk.captureRef_later | apply Blk.setF_later | apply Blk.setAxState_later) | with_reducible apply Blk.foldl_later | with_reducible (refine Blk.later_fst (by assumption) ?_) | with_reducible (refine Blk.later_some (by assumption) ?_) | (intro s; (have hs : Blk.Later r s := ?_); clear_value s; rotate_left; unfold s) | (intro s; (have hs : Blk.Later r s.1 := ?_); clear_value s; rotate_left; unfold s) | (intro f; (have hc : _ → Blk := f); clear hc; (try unfold f); clear f) | (intro f; (have hc : _ → _ → Blk := f); clear hc; (try unfold f); clear f) | (intro f; (have hc : _ → _ → _ → Blk := f); clear hc; (try unfold f); clear f) | (intro x; (have hc : Cmp := x); clear hc) | (intro x; (have hc : Acc := x); clear hc) | (intro x; clear_value x) | split | (intro s x hs) | lift_lets | (show _ = _; rfl) | with_reducible apply Blk.foldl_fst_later | assumption | intro x)

theorem axisOfsReset_later {r : Blk} {s : Blk} (n : ℕ) (hs : r.Later s) : r.Later (axisOfsReset n s) := by
  unfold axisOfsReset
  try lift_lets
  repeat' (first | with_reducible assumption | with_reducible (first | apply Blk.showOfs_later | apply Blk.setAx_later) | with_reducible apply Blk.foldl_later | with_reducible (refine Blk.later_fst (by assumption) ?_) | with_reducible (refine Blk.later_some (by assumption) ?_) | (intro s; (have hs : Blk.Later r s := ?_); clear_value s; rotate_left; unfold s) | (intro s; (have hs : Blk.Later r s.1 := ?_); clear_value s; rotate_left; unfold s) | (intro f; (have hc : _ → Blk := f); clear hc; (try unfold f); clear f) | (intro f; (have hc : _ → _ → Blk := f); clear hc; (try unfold f); clear f) | (intro f; (have hc : _ → _ → _ → Blk := f); clear hc; (try unfold f); clear f) | (intro x; (have hc : Cmp := x); clear hc) | (intro x; (have hc : Acc := x); clear hc) | (intro x; clear_value x) | split | (intro s x hs) | lift_lets | (show _ = _; rfl) | with_reducible apply Blk.foldl_fst_later | assumption | intro x)

theorem axisCtrl_later {r : Blk} {s : Blk} (n : ℕ) (w : ℕ) (hs : r.Later s) : r.Later (axisCtrl n w s) := by
  unfold axisCtrl
  try lift_lets
  repeat' (first | with_reducible assumption | with_reducible (first | apply axisOfsReset_later | apply axisDisable_later | apply axisStopCmd_later | apply axisEnable_later | apply axisGo_later | apply axisHome_later | apply axisClear_later | apply axisPreset_later) | with_reducible apply Blk.foldl_later | with_reducible (refine Blk.later_fst (by assumption) ?_) | with_reducible (refine Blk.later_some (by assumption) ?_) | (intro s; (have hs : Blk.Later r s := ?_); clear_value s; rotate_left; unfold s) | (intro s; (have hs : Blk.Later r s.1 := ?_); clear_value s; rotate_left; unfold s) | (intro f; (have hc : _ → Blk := f); clear hc; (try unfold f); clear f) | (intro f; (have hc : _ → _ → Blk := f); clear hc; (try unfold f); clear f) | (intro f; (have hc : _ → _ → _ → Blk := f); clear hc; (try unfold f); clear f) | (intro x; (have hc : Cmp := x); clear hc) | (intro x; (have hc : Acc := x); clear hc) | (intro x; clear_value x) | split | (intro s x hs) | lift_lets | (show _ = _; rfl) | with_reducible apply Blk.foldl_fst_later | assumption | intro x)

theorem Blk.stepPulses_later {r : Blk} {s : Blk} (n : ℕ) (p : ℤ) (q : ℤ) (hs : r.Later s) : r.Later (Blk.stepPulses s n p q) := by
  unfold Blk.stepPulses
  try lift_lets
  repeat' (first | with_reducible assumption | with_reducible (first | apply Blk.emit_later | apply Blk.setAx_later) | with_reducible apply Blk.foldl_later | with_reducible (refine Blk.later_fst (by assumption) ?_) | with_reducible (refine Blk.later_some (by assumption) ?_) | (intro s; (have hs : Blk.Later r s := ?_); clear_value s; rotate_left; unfold s) | (intro s; (have hs : Blk.Later r s.1 := ?_); clear_value s; rotate_left; unfold s) | (intro f; (have hc : _ → Blk := f); clear hc; (try unfold f); clear f) | (intro f; (have hc : _ → _ → Blk := f); clear hc; (try unfold f); clear f) | (intro f; (have hc : _ → _ → _ → Blk := f); clear hc; (try unfold f); clear f) | (intro x; (have hc : Cmp := x); clear hc) | (intro x; (have hc : Acc := x); clear hc) | (intro x; clear_value x) | split | (intro s x hs) | lift_lets | (show _ = _; rfl) | with_reducible apply Blk.foldl_fst_later | assumption | intro x)

theorem Blk.lagCheck_later {r : Blk} {s : Blk} (n : ℕ) (g : Gear) (cmd : ℤ) (hs : r.Later s) : r.Later (Blk.lagCheck s n g cmd) := by
  unfold Blk.lagCheck
  try lift_lets
  repeat' (first | with_reducible assumption | with_reducible (first | apply Blk.setSval_later | apply Blk.setF_later | apply Blk.raise_later | apply Blk.setAx_later) | with_reducible apply Blk.foldl_later | with_reducible (refine Blk.later_fst (by assumption) ?_) | with_reducible (refine Blk.later_some (by assumption) ?_) | (intro s; (have hs : Blk.Later r s := ?_); clear_value s; rotate_left; unfold s) | (intro s; (have hs : Blk.Later r s.1 := ?_); clear_value s; rotate_left; unfold s) | (intro f; (have hc : _ → Blk := f); clear hc; (try unfold f); clear f) | (intro f; (have hc : _ → _ → Blk := f); clear hc; (try unfold f); clear f) | (intro f; (have hc : _ → _ → _ → Blk := f); clear hc; (try unfold f); clear f) | (intro x; (have hc : Cmp := x); clear hc) | (intro x; (have hc : Acc := x); clear hc) | (intro x; clear_value x) | split | (intro s x hs) | lift_lets | (show _ = _; rfl) | with_reducible apply Blk.foldl_fst_later | assumption | intro x)

theorem Blk.axAdvance_later {r : Blk} {s : Blk} (n : ℕ) (goal : ℤ) (hs : r.Later s) : r.Later (Blk.axAdvance s n goal) := by
  unfold Blk.axAdvance
  try lift_lets
  repeat' (first | with_reducible assumption | with_reducible (first | apply Blk.setAxPos_later | apply Blk.setAx_later) | with_reducible apply Blk.foldl_later | with_reducible (refine Blk.later_fst (by assumption) ?_) | with_reducible (refine Blk.later_some (by assumption) ?_) | (intro s; (have hs : Blk.Later r s := ?_); clear_value s; rotate_left; unfold s) | (intro s; (have hs : Blk.Later r s.1 := ?_); clear_value s; rotate_left; unfold s) | (intro f; (have hc : _ → Blk := f); clear hc; (try unfold f); clear f) | (intro f; (have hc : _ → _ → Blk := f); clear hc; (try unfold f); clear f) | (intro f; (have hc : _ → _ → _ → Blk := f); clear hc; (try unfold f); clear f) | (intro x; (have hc : Cmp := x); clear hc) | (intro x; (have hc : Acc := x); clear hc) | (intro x; clear_value x) | split | (intro s x hs) | lift_lets | (show _ = _; rfl) | with_reducible apply Blk.foldl_fst_later | assumption | intro x)

theorem Blk.axFollow_later {r : Blk} {s : Blk} (n : ℕ) (g : Gear) (hs : r.Later s) : r.Later (Blk.axFollow s n g) := by
  unfold Blk.axFollow
  try lift_lets
  repeat' (first | with_reducible assumption | with_reducible (first | apply Blk.setAxPos_later | apply Blk.setAx_later) | with_reducible apply Blk.foldl_later | with_reducible (refine Blk.later_fst (by assumption) ?_) | with_reducible (refine Blk.later_some (by assumption) ?_) | (intro s; (have hs : Blk.Later r s := ?_); clear_value s; rotate_left; unfold s) | (intro s; (have hs : Blk.Later r s.1 := ?_); clear_value s; rotate_left; unfold s) | (intro f; (have hc : _ → Blk := f); clear hc; (try unfold f); clear f) | (intro f; (have hc : _ → _ → Blk := f); clear hc; (try unfold f); clear f) | (intro f; (have hc : _ → _ → _ → Blk := f); clear hc; (try unfold f); clear f) | (intro x; (have hc : Cmp := x); clear hc) | (intro x; (have hc : Acc := x); clear hc) | (intro x; clear_value x) | split | (intro s x hs) | lift_lets | (show _ = _; rfl) | with_reducible apply Blk.foldl_fst_later | assumption | intro x)

theorem Blk.axArrive_later {r : Blk} {s : Blk} (n : ℕ) (hs : r.Later s) : r.Later (Blk.axArrive s n) := by
  unfold Blk.axArrive
  try lift_lets
  repeat' (first | with_reducible assumption | with_reducible (first | apply Blk.setAx_later | apply Blk.setF_later | apply Blk.setAxState_later) | with_reducible apply Blk.foldl_later | with_reducible (refine Blk.later_fst (by assumption) ?_) | with_reducible (refine Blk.later_some (by assumption) ?_) | (intro s; (have hs : Blk.Later r s := ?_); clear_value s; rotate_left; unfold s) | (intro s; (have hs : Blk.Later r s.1 := ?_); clear_value s; rotate_left; unfold s) | (intro f; (have hc : _ → Blk := f); clear hc; (try unfold f); clear f) | (intro f; (have hc : _ → _ → Blk := f); clear hc; (try unfold f); clear f) | (intro f; (have hc : _ → _ → _ → Blk := f); clear hc; (try unfold f); clear f) | (intro x; (have hc : Cmp := x); clear hc) | (intro x; (have hc : Acc := x); clear hc) | (intro x; clear_value x) | split | (intro s x hs) | lift_lets | (show _ = _; rfl) | with_reducible apply Blk.foldl_fst_later | assumption | intro x)

theorem Blk.homeTick_later {r : Blk} {s : Blk} (n : ℕ) (hs : r.Later s) : r.Later (Blk.homeTick s n) := by
  unfold Blk.homeTick
  try lift_lets
  repeat' (first | with_reducible assumption | with_reducible (first | apply Blk.setAx_later) | with_reducible apply Blk.foldl_later | with_reducible (refine Blk.later_fst (by assumption) ?_) | with_reducible (refine Blk.later_some (by assumption) ?_) | (intro s; (have hs : Blk.Later r s := ?_); clear_value s; rotate_left; unfold s) | (intro s; (have hs : Blk.Later r s.1 := ?_); clear_value s; rotate_left; unfold s) | (intro f; (have hc : _ → Blk := f); clear hc; (try unfold f); clear f) | (intro f; (have hc : _ → _ → Blk := f); clear hc; (try unfold f); clear f) | (intro f; (have hc : _ → _ → _ → Blk := f); clear hc; (try unfold f); clear f) | (intro x; (have hc : Cmp := x); clear hc) | (intro x; (have hc : Acc := x); clear hc) | (intro x; clear_value x) | split | (intro s x hs) | lift_lets | (show _ = _; rfl) | with_reducible apply Blk.foldl_fst_later | assumption | intro x)

theorem Blk.limitStop_later {r : Blk} {s : Blk} (n : ℕ) (positive : Bool) (hs : r.Later s) : r.Later (Blk.limitStop s n positive) := by
  unfold Blk.limitStop
  try lift_lets
  repeat' (first | with_reducible assumption | with_reducible (first | apply Blk.raise_later | apply Blk.axStop_later) | with_reducible apply Blk.foldl_later | with_reducible (refine Blk.later_fst (by assumption) ?_) | with_reducible (refine Blk.later_some (by assumption) ?_) | (intro s; (have hs : Blk.Later r s := ?_); clear_value s; rotate_left; unfold s) | (intro s; (have hs : Blk.Later r s.1 := ?_); clear_value s; rotate_left; unfold s) | (intro f; (have hc : _ → Blk := f); clear hc; (try unfold f); clear f) | (intro f; (have hc : _ → _ → Blk := f); clear hc; (try unfold f); clear f) | (intro f; (have hc : _ → _ → _ → Blk := f); clear hc; (try unfold f); clear f) | (intro x; (have hc : Cmp := x); clear hc) | (intro x; (have hc : Acc := x); clear hc) | (intro x; clear_value x) | split | (intro s x hs) | lift_lets | (show _ = _; rfl) | with_reducible apply Blk.foldl_fst_later | assumption | intro x)

theorem Blk.turned_later {r : Blk} {s : Blk} (n : ℕ) (v : ℤ) (hs : r.Later s) : r.Later (Blk.turned s n v) := by
  unfold Blk.turned
  try lift_lets
  repeat' (first | with_reducible assumption | with_reducible (first | apply Blk.limitStop_later) | with_reducible apply Blk.foldl_later | with_reducible (refine Blk.later_fst (by assumption) ?_) | with_reducible (refine Blk.later_some (by assumption) ?_) | (intro s; (have hs : Blk.Later r s := ?_); clear_value s; rotate_left; unfold s) | (intro s; (have hs : Blk.Later r s.1 := ?_); clear_value s; rotate_left; unfold s) | (intro f; (have hc : _ → Blk := f); clear hc; (try unfold f); clear f) | (intro f; (have hc : _ → _ → Blk := f); clear hc; (try unfold f); clear f) | (intro f; (have hc : _ → _ → _ → Blk := f); clear hc; (try unfold f); clear f) | (intro x; (have hc : Cmp := x); clear hc) | (intro x; (have hc : Acc := x); clear hc) | (intro x; clear_value x) | split | (intro s x hs) | lift_lets | (show _ = _; rfl) | with_reducible apply Blk.foldl_fst_later | assumption | intro x)

theorem profileTick_later {r : Blk} {s : Blk} (n : ℕ) (t : ℕ) (hs : r.Later s) : r.Later (profileTick n t s) := by
  unfold profileTick
  try lift_lets
  repeat' (first | with_reducible assumption | with_reducible (first | apply Blk.advance_later | apply Blk.setAx_later | apply Blk.axAdvance_later | apply Blk.axArrive_later | apply Blk.homeTick_later | apply Blk.rampEnd_later | apply Blk.lagCheck_later | apply Blk.axFollow_later | apply Blk.showVel_later | apply Blk.turned_later | apply Blk.stepPulses_later | apply Blk.chopZero_later) | with_reducible apply Blk.foldl_later | with_reducible (refine Blk.later_fst (by assumption) ?_) | with_reducible (refine Blk.later_some (by assumption) ?_) | (intro s; (have hs : Blk.Later r s := ?_); clear_value s; rotate_left; unfold s) | (intro s; (have hs : Blk.Later r s.1 := ?_); clear_value s; rotate_left; unfold s) | (intro f; (have hc : _ → Blk := f); clear hc; (try unfold f); clear f) | (intro f; (have hc : _ → _ → Blk := f); clear hc; (try unfold f); clear f) | (intro f; (have hc : _ → _ → _ → Blk := f); clear hc; (try unfold f); clear f) | (intro x; (have hc : Cmp := x); clear hc) | (intro x; (have hc : Acc := x); clear hc) | (intro x; clear_value x) | split | (intro s x hs) | lift_lets | (show _ = _; rfl) | with_reducible apply Blk.foldl_fst_later | assumption | intro x)

theorem Blk.limitHit_later {r : Blk} {s : Blk} (n : ℕ) (i : ℕ) (hs : r.Later s) : r.Later (Blk.limitHit s n i) := by
  unfold Blk.limitHit
  try lift_lets
  repeat' (first | with_reducible assumption | with_reducible (first | apply Blk.limitStop_later | apply Blk.homeFail_later) | with_reducible apply Blk.foldl_later | with_reducible (refine Blk.later_fst (by assumption) ?_) | with_reducible (refine Blk.later_some (by assumption) ?_) | (intro s; (have hs : Blk.Later r s := ?_); clear_value s; rotate_left; unfold s) | (intro s; (have hs : Blk.Later r s.1 := ?_); clear_value s; rotate_left; unfold s) | (intro f; (have hc : _ → Blk := f); clear hc; (try unfold f); clear f) | (intro f; (have hc : _ → _ → Blk := f); clear hc; (try unfold f); clear f) | (intro f; (have hc : _ → _ → _ → Blk := f); clear hc; (try unfold f); clear f) | (intro x; (have hc : Cmp := x); clear hc) | (intro x; (have hc : Acc := x); clear hc) | (intro x; clear_value x) | split | (intro s x hs) | lift_lets | (show _ = _; rfl) | with_reducible apply Blk.foldl_fst_later | assumption | intro x)

theorem Blk.homeEdge_later {r : Blk} {s : Blk} (n : ℕ) (active : Bool) (hs : r.Later s) : r.Later (Blk.homeEdge s n active) := by
  unfold Blk.homeEdge
  try lift_lets
  repeat' (first | with_reducible assumption | with_reducible (first | apply Blk.setAx_later | apply Blk.setSval_later | apply Blk.homeFail_later) | with_reducible apply Blk.foldl_later | with_reducible (refine Blk.later_fst (by assumption) ?_) | with_reducible (refine Blk.later_some (by assumption) ?_) | (intro s; (have hs : Blk.Later r s := ?_); clear_value s; rotate_left; unfold s) | (intro s; (have hs : Blk.Later r s.1 := ?_); clear_value s; rotate_left; unfold s) | (intro f; (have hc : _ → Blk := f); clear hc; (try unfold f); clear f) | (intro f; (have hc : _ → _ → Blk := f); clear hc; (try unfold f); clear f) | (intro f; (have hc : _ → _ → _ → Blk := f); clear hc; (try unfold f); clear f) | (intro x; (have hc : Cmp := x); clear hc) | (intro x; (have hc : Acc := x); clear hc) | (intro x; clear_value x) | split | (intro s x hs) | lift_lets | (show _ = _; rfl) | with_reducible apply Blk.foldl_fst_later | assumption | intro x)

theorem switchChange_later {r : Blk} {s : Blk} (n : ℕ) (i : ℕ) (level : Bool) (k : ℕ) (hs : r.Later s) : r.Later (switchChange n i level k s) := by
  unfold switchChange
  try lift_lets
  repeat' (first | with_reducible assumption | with_reducible (first | apply Blk.setAx_later | apply Blk.setF_later | apply Blk.homeEdge_later | apply Blk.limitHit_later) | with_reducible apply Blk.foldl_later | with_reducible (refine Blk.later_fst (by assumption) ?_) | with_reducible (refine Blk.later_some (by assumption) ?_) | (intro s; (have hs : Blk.Later r s := ?_); clear_value s; rotate_left; unfold s) | (intro s; (have hs : Blk.Later r s.1 := ?_); clear_value s; rotate_left; unfold s) | (intro f; (have hc : _ → Blk := f); clear hc; (try unfold f); clear f) | (intro f; (have hc : _ → _ → Blk := f); clear hc; (try unfold f); clear f) | (intro f; (have hc : _ → _ → _ → Blk := f); clear hc; (try unfold f); clear f) | (intro x; (have hc : Cmp := x); clear hc) | (intro x; (have hc : Acc := x); clear hc) | (intro x; clear_value x) | split | (intro s x hs) | lift_lets | (show _ = _; rfl) | with_reducible apply Blk.foldl_fst_later | assumption | intro x)

theorem homingNotFound_later {r : Blk} {s : Blk} (n : ℕ) (hs : r.Later s) : r.Later (homingNotFound n s) := by
  unfold homingNotFound
  try lift_lets
  repeat' (first | with_reducible assumption | with_reducible (first | apply Blk.homeFail_later) | with_reducible apply Blk.foldl_later | with_reducible (refine Blk.later_fst (by assumption) ?_) | with_reducible (refine Blk.later_some (by assumption) ?_) | (intro s; (have hs : Blk.Later r s := ?_); clear_value s; rotate_left; unfold s) | (intro s; (have hs : Blk.Later r s.1 := ?_); clear_value s; rotate_left; unfold s) | (intro f; (have hc : _ → Blk := f); clear hc; (try unfold f); clear f) | (intro f; (have hc : _ → _ → Blk := f); clear hc; (try unfold f); clear f) | (intro f; (have hc : _ → _ → _ → Blk := f); clear hc; (try unfold f); clear f) | (intro x; (have hc : Cmp := x); clear hc) | (intro x; (have hc : Acc := x); clear hc) | (intro x; clear_value x) | split | (intro s x hs) | lift_lets | (show _ = _; rfl) | with_reducible apply Blk.foldl_fst_later | assumption | intro x)

theorem homeDone_later {r : Blk} {s : Blk} (n : ℕ) (hs : r.Later s) : r.Later (homeDone n s) := by
  unfold homeDone
  try lift_lets
  repeat' (first | with_reducible assumption | with_reducible (first | apply Blk.setActTarget_later | apply Blk.setAxPos_later | apply Blk.captureRef_later | apply Blk.setAx_later | apply Blk.raise_later | apply Blk.setAxState_later | apply Blk.setF_later) | with_reducible apply Blk.foldl_later | with_reducible (refine Blk.later_fst (by assumption) ?_) | with_reducible (refine Blk.later_some (by assumption) ?_) | (intro s; (have hs : Blk.Later r s := ?_); clear_value s; rotate_left; unfold s) | (intro s; (have hs : Blk.Later r s.1 := ?_); clear_value s; rotate_left; unfold s) | (intro f; (have hc : _ → Blk := f); clear hc; (try unfold f); clear f) | (intro f; (have hc : _ → _ → Blk := f); clear hc; (try unfold f); clear f) | (intro f; (have hc : _ → _ → _ → Blk := f); clear hc; (try unfold f); clear f) | (intro x; (have hc : Cmp := x); clear hc) | (intro x; (have hc : Acc := x); clear hc) | (intro x; clear_value x) | split | (intro s x hs) | lift_lets | (show _ = _; rfl) | with_reducible apply Blk.foldl_fst_later | assumption | intro x)

theorem Blk.axStall_later {r : Blk} {s : Blk} (n : ℕ) (dev : ℤ) (hs : r.Later s) : r.Later (Blk.axStall s n dev) := by
  unfold Blk.axStall
  try lift_lets
  repeat' (first | with_reducible assumption | with_reducible (first | apply Blk.setF_later | apply Blk.setAx_later | apply Blk.showVel_later | apply Blk.setAxState_later | apply Blk.count_later | apply Blk.raise_later) | with_reducible apply Blk.foldl_later | with_reducible (refine Blk.later_fst (by assumption) ?_) | with_reducible (refine Blk.later_some (by assumption) ?_) | (intro s; (have hs : Blk.Later r s := ?_); clear_value s; rotate_left; unfold s) | (intro s; (have hs : Blk.Later r s.1 := ?_); clear_value s; rotate_left; unfold s) | (intro f; (have hc : _ → Blk := f); clear hc; (try unfold f); clear f) | (intro f; (have hc : _ → _ → Blk := f); clear hc; (try unfold f); clear f) | (intro f; (have hc : _ → _ → _ → Blk := f); clear hc; (try unfold f); clear f) | (intro x; (have hc : Cmp := x); clear hc) | (intro x; (have hc : Acc := x); clear hc) | (intro x; clear_value x) | split | (intro s x hs) | lift_lets | (show _ = _; rfl) | with_reducible apply Blk.foldl_fst_later | assumption | intro x)

theorem Blk.gearFault_later {r : Blk} {s : Blk} (enc : ℕ) (n : ℕ) (hs : r.Later s) : r.Later (Blk.gearFault enc s n) := by
  unfold Blk.gearFault
  try lift_lets
  repeat' (first | with_reducible assumption | with_reducible (first | apply Blk.raise_later | apply Blk.axStop_later) | with_reducible apply Blk.foldl_later | with_reducible (refine Blk.later_fst (by assumption) ?_) | with_reducible (refine Blk.later_some (by assumption) ?_) | (intro s; (have hs : Blk.Later r s := ?_); clear_value s; rotate_left; unfold s) | (intro s; (have hs : Blk.Later r s.1 := ?_); clear_value s; rotate_left; unfold s) | (intro f; (have hc : _ → Blk := f); clear hc; (try unfold f); clear f) | (intro f; (have hc : _ → _ → Blk := f); clear hc; (try unfold f); clear f) | (intro f; (have hc : _ → _ → _ → Blk := f); clear hc; (try unfold f); clear f) | (intro x; (have hc : Cmp := x); clear hc) | (intro x; (have hc : Acc := x); clear hc) | (intro x; clear_value x) | split | (intro s x hs) | lift_lets | (show _ = _; rfl) | with_reducible apply Blk.foldl_fst_later | assumption | intro x)

theorem gearSlotWrite_later {r : Blk} {s : Blk} (n : ℕ) (w : Word) (hs : r.Later s) : r.Later (gearSlotWrite n w s) := by
  unfold gearSlotWrite
  try lift_lets
  repeat' (first | with_reducible assumption | with_reducible (first | apply Blk.wn_later | apply Blk.ratioChange_later) | with_reducible apply Blk.foldl_later | with_reducible (refine Blk.later_fst (by assumption) ?_) | with_reducible (refine Blk.later_some (by assumption) ?_) | (intro s; (have hs : Blk.Later r s := ?_); clear_value s; rotate_left; unfold s) | (intro s; (have hs : Blk.Later r s.1 := ?_); clear_value s; rotate_left; unfold s) | (intro f; (have hc : _ → Blk := f); clear hc; (try unfold f); clear f) | (intro f; (have hc : _ → _ → Blk := f); clear hc; (try unfold f); clear f) | (intro f; (have hc : _ → _ → _ → Blk := f); clear hc; (try unfold f); clear f) | (intro x; (have hc : Cmp := x); clear hc) | (intro x; (have hc : Acc := x); clear hc) | (intro x; clear_value x) | split | (intro s x hs) | lift_lets | (show _ = _; rfl) | with_reducible apply Blk.foldl_fst_later | assumption | intro x)

theorem chopBlankEnd_later {r : Blk} {s : Blk} (n : ℕ) (c : ℕ) (t : ℕ) (hs : r.Later s) : r.Later (chopBlankEnd n c t s) := by
  unfold chopBlankEnd
  try lift_lets
  repeat' (first | with_reducible assumption | with_reducible (first | apply Blk.advance_later | apply Blk.setCoil_later) | with_reducible apply Blk.foldl_later | with_reducible (refine Blk.later_fst (by assumption) ?_) | with_reducible (refine Blk.later_some (by assumption) ?_) | (intro s; (have hs : Blk.Later r s := ?_); clear_value s; rotate_left; unfold s) | (intro s; (have hs : Blk.Later r s.1 := ?_); clear_value s; rotate_left; unfold s) | (intro f; (have hc : _ → Blk := f); clear hc; (try unfold f); clear f) | (intro f; (have hc : _ → _ → Blk := f); clear hc; (try unfold f); clear f) | (intro f; (have hc : _ → _ → _ → Blk := f); clear hc; (try unfold f); clear f) | (intro x; (have hc : Cmp := x); clear hc) | (intro x; (have hc : Acc := x); clear hc) | (intro x; clear_value x) | split | (intro s x hs) | lift_lets | (show _ = _; rfl) | with_reducible apply Blk.foldl_fst_later | assumption | intro x)

theorem chopPeak_later {r : Blk} {s : Blk} (n : ℕ) (c : ℕ) (t : ℕ) (cur : ℕ) (hs : r.Later s) : r.Later (chopPeak n c t cur s) := by
  unfold chopPeak
  try lift_lets
  repeat' (first | with_reducible assumption | with_reducible (first | apply Blk.advance_later | apply Blk.setCoil_later) | with_reducible apply Blk.foldl_later | with_reducible (refine Blk.later_fst (by assumption) ?_) | with_reducible (refine Blk.later_some (by assumption) ?_) | (intro s; (have hs : Blk.Later r s := ?_); clear_value s; rotate_left; unfold s) | (intro s; (have hs : Blk.Later r s.1 := ?_); clear_value s; rotate_left; unfold s) | (intro f; (have hc : _ → Blk := f); clear hc; (try unfold f); clear f) | (intro f; (have hc : _ → _ → Blk := f); clear hc; (try unfold f); clear f) | (intro f; (have hc : _ → _ → _ → Blk := f); clear hc; (try unfold f); clear f) | (intro x; (have hc : Cmp := x); clear hc) | (intro x; (have hc : Acc := x); clear hc) | (intro x; clear_value x) | split | (intro s x hs) | lift_lets | (show _ = _; rfl) | with_reducible apply Blk.foldl_fst_later | assumption | intro x)

theorem chopFastDecayEnd_later {r : Blk} {s : Blk} (n : ℕ) (c : ℕ) (t : ℕ) (hs : r.Later s) : r.Later (chopFastDecayEnd n c t s) := by
  unfold chopFastDecayEnd
  try lift_lets
  repeat' (first | with_reducible assumption | with_reducible (first | apply Blk.advance_later | apply Blk.setCoil_later) | with_reducible apply Blk.foldl_later | with_reducible (refine Blk.later_fst (by assumption) ?_) | with_reducible (refine Blk.later_some (by assumption) ?_) | (intro s; (have hs : Blk.Later r s := ?_); clear_value s; rotate_left; unfold s) | (intro s; (have hs : Blk.Later r s.1 := ?_); clear_value s; rotate_left; unfold s) | (intro f; (have hc : _ → Blk := f); clear hc; (try unfold f); clear f) | (intro f; (have hc : _ → _ → Blk := f); clear hc; (try unfold f); clear f) | (intro f; (have hc : _ → _ → _ → Blk := f); clear hc; (try unfold f); clear f) | (intro x; (have hc : Cmp := x); clear hc) | (intro x; (have hc : Acc := x); clear hc) | (intro x; clear_value x) | split | (intro s x hs) | lift_lets | (show _ = _; rfl) | with_reducible apply Blk.foldl_fst_later | assumption | intro x)

theorem chopDecayEnd_later {r : Blk} {s : Blk} (n : ℕ) (c : ℕ) (t : ℕ) (cur : ℕ) (hs : r.Later s) : r.Later (chopDecayEnd n c t cur s) := by
  unfold chopDecayEnd
  try lift_lets
  repeat' (first | with_reducible assumption | with_reducible (first | apply Blk.advance_later | apply Blk.cycleStart_later) | with_reducible apply Blk.foldl_later | with_reducible (refine Blk.later_fst (by assumption) ?_) | with_reducible (refine Blk.later_some (by assumption) ?_) | (intro s; (have hs : Blk.Later r s := ?_); clear_value s; rotate_left; unfold s) | (intro s; (have hs : Blk.Later r s.1 := ?_); clear_value s; rotate_left; unfold s) | (intro f; (have hc : _ → Blk := f); clear hc; (try unfold f); clear f) | (intro f; (have hc : _ → _ → Blk := f); clear hc; (try unfold f); clear f) | (intro f; (have hc : _ → _ → _ → Blk := f); clear hc; (try unfold f); clear f) | (intro x; (have hc : Cmp := x); clear hc) | (intro x; (have hc : Acc := x); clear hc) | (intro x; clear_value x) | split | (intro s x hs) | lift_lets | (show _ = _; rfl) | with_reducible apply Blk.foldl_fst_later | assumption | intro x)

theorem chopZeroExit_later {r : Blk} {s : Blk} (n : ℕ) (c : ℕ) (t : ℕ) (cur : ℕ) (hs : r.Later s) : r.Later (chopZeroExit n c t cur s) := by
  unfold chopZeroExit
  try lift_lets
  repeat' (first | with_reducible assumption | with_reducible (first | apply Blk.advance_later | apply Blk.cycleStart_later) | with_reducible apply Blk.foldl_later | with_reducible (refine Blk.later_fst (by assumption) ?_) | with_reducible (refine Blk.later_some (by assumption) ?_) | (intro s; (have hs : Blk.Later r s := ?_); clear_value s; rotate_left; unfold s) | (intro s; (have hs : Blk.Later r s.1 := ?_); clear_value s; rotate_left; unfold s) | (intro f; (have hc : _ → Blk := f); clear hc; (try unfold f); clear f) | (intro f; (have hc : _ → _ → Blk := f); clear hc; (try unfold f); clear f) | (intro f; (have hc : _ → _ → _ → Blk := f); clear hc; (try unfold f); clear f) | (intro x; (have hc : Cmp := x); clear hc) | (intro x; (have hc : Acc := x); clear hc) | (intro x; clear_value x) | split | (intro s x hs) | lift_lets | (show _ = _; rfl) | with_reducible apply Blk.foldl_fst_later | assumption | intro x)

theorem adcSample_later {r : Blk} {s : Blk} (n : ℕ) (c : ℕ) (t : ℕ) (v : ℕ) (hs : r.Later s) : r.Later (adcSample n c t v s) := by
  unfold adcSample
  try lift_lets
  repeat' (first | with_reducible assumption | with_reducible (first | apply Blk.advance_later | apply Blk.setCoil_later | apply Blk.setF_later | apply Blk.showOfs_later) | with_reducible apply Blk.foldl_later | with_reducible (refine Blk.later_fst (by assumption) ?_) | with_reducible (refine Blk.later_some (by assumption) ?_) | (intro s; (have hs : Blk.Later r s := ?_); clear_value s; rotate_left; unfold s) | (intro s; (have hs : Blk.Later r s.1 := ?_); clear_value s; rotate_left; unfold s) | (intro f; (have hc : _ → Blk := f); clear hc; (try unfold f); clear f) | (intro f; (have hc : _ → _ → Blk := f); clear hc; (try unfold f); clear f) | (intro f; (have hc : _ → _ → _ → Blk := f); clear hc; (try unfold f); clear f) | (intro x; (have hc : Cmp := x); clear hc) | (intro x; (have hc : Acc := x); clear hc) | (intro x; clear_value x) | split | (intro s x hs) | lift_lets | (show _ = _; rfl) | with_reducible apply Blk.foldl_fst_later | assumption | intro x)

end Sys2Proof.Machine
end

