-- ==== Sys2Proof/Laws/LaterIngest.lean ====
section
/-!
SUPPORT. What a block can come to (`Blk.Later`) through the operations of Machine/Ingest.
-/

namespace Sys2Proof.Machine

theorem Blk.putStream_later {r : Blk} {s : Blk} (k : ℕ) (x2 : Stream) (hs : r.Later s) : r.Later (Blk.putStream s k x2) := by
  unfold Blk.putStream
  try lift_lets
  repeat' (first | with_reducible assumption | with_reducible (first | apply Blk.setF_later | apply Blk.setStream_later) | with_reducible apply Blk.foldl_later | with_reducible (refine Blk.later_fst (by assumption) ?_) | with_reducible (refine Blk.later_some (by assumption) ?_) | (intro s; (have hs : Blk.Later r s := ?_); clear_value s; rotate_left; unfold s) | (intro s; (have hs : Blk.Later r s.1 := ?_); clear_value s; rotate_left; unfold s) | (intro f; (have hc : _ → Blk := f); clear hc; (try unfold f); clear f) | (intro f; (have hc : _ → _ → Blk := f); clear hc; (try unfold f); clear f) | (intro f; (have hc : _ → _ → _ → Blk := f); clear hc; (try unfold f); clear f) | (intro x; (have hc : Cmp := x); clear hc) | (intro x; (have hc : Acc := x); clear hc) | (intro x; clear_value x) | split | (intro s x hs) | lift_lets | (show _ = _; rfl) | with_reducible apply Blk.foldl_fst_later | assumption | intro x)

theorem Blk.resetStream_later {r : Blk} {s : Blk} (k : ℕ) (seq : ℕ) (hs : r.Later s) : r.Later (Blk.resetStream s k seq) := by
  unfold Blk.resetStream
  try lift_lets
  repeat' (first | with_reducible assumption | with_reducible (first | apply Blk.putStream_later | apply Blk.setVal_later) | with_reducible apply Blk.foldl_later | with_reducible (refine Blk.later_fst (by assumption) ?_) | with_reducible (refine Blk.later_some (by assumption) ?_) | (intro s; (have hs : Blk.Later r s := ?_); clear_value s; rotate_left; unfold s) | (intro s; (have hs : Blk.Later r s.1 := ?_); clear_value s; rotate_left; unfold s) | (intro f; (have hc : _ → Blk := f); clear hc; (try unfold f); clear f) | (intro f; (have hc : _ → _ → Blk := f); clear hc; (try unfold f); clear f) | (intro f; (have hc : _ → _ → _ → Blk := f); clear hc; (try unfold f); clear f) | (intro x; (have hc : Cmp := x); clear hc) | (intro x; (have hc : Acc := x); clear hc) | (intro x; clear_value x) | split | (intro s x hs) | lift_lets | (show _ = _; rfl) | with_reducible apply Blk.foldl_fst_later | assumption | intro x)

theorem Blk.ingestDrop_later {r : Blk} {s : Blk} (k : ℕ) (hs : r.Later s) : r.Later (Blk.ingestDrop s k) := by
  unfold Blk.ingestDrop
  try lift_lets
  repeat' (first | with_reducible assumption | with_reducible (first | apply Blk.count_later | apply Blk.incSat_later) | with_reducible apply Blk.foldl_later | with_reducible (refine Blk.later_fst (by assumption) ?_) | with_reducible (refine Blk.later_some (by assumption) ?_) | (intro s; (have hs : Blk.Later r s := ?_); clear_value s; rotate_left; unfold s) | (intro s; (have hs : Blk.Later r s.1 := ?_); clear_value s; rotate_left; unfold s) | (intro f; (have hc : _ → Blk := f); clear hc; (try unfold f); clear f) | (intro f; (have hc : _ → _ → Blk := f); clear hc; (try unfold f); clear f) | (intro f; (have hc : _ → _ → _ → Blk := f); clear hc; (try unfold f); clear f) | (intro x; (have hc : Cmp := x); clear hc) | (intro x; (have hc : Acc := x); clear hc) | (intro x; clear_value x) | split | (intro s x hs) | lift_lets | (show _ = _; rfl) | with_reducible apply Blk.foldl_fst_later | assumption | intro x)

theorem Blk.remoteReset_later {r : Blk} {s : Blk} (k : ℕ) (src : Source) (seq : ℕ) (hs : r.Later s) : r.Later (Blk.remoteReset s k src seq) := by
  unfold Blk.remoteReset
  try lift_lets
  repeat' (first | with_reducible assumption | with_reducible (first | apply Blk.resetStream_later | apply Blk.ingestDrop_later) | with_reducible apply Blk.foldl_later | with_reducible (refine Blk.later_fst (by assumption) ?_) | with_reducible (refine Blk.later_some (by assumption) ?_) | (intro s; (have hs : Blk.Later r s := ?_); clear_value s; rotate_left; unfold s) | (intro s; (have hs : Blk.Later r s.1 := ?_); clear_value s; rotate_left; unfold s) | (intro f; (have hc : _ → Blk := f); clear hc; (try unfold f); clear f) | (intro f; (have hc : _ → _ → Blk := f); clear hc; (try unfold f); clear f) | (intro f; (have hc : _ → _ → _ → Blk := f); clear hc; (try unfold f); clear f) | (intro x; (have hc : Cmp := x); clear hc) | (intro x; (have hc : Acc := x); clear hc) | (intro x; clear_value x) | split | (intro s x hs) | lift_lets | (show _ = _; rfl) | with_reducible apply Blk.foldl_fst_later | assumption | intro x)

theorem Blk.takeDatagram_later {r : Blk} {s : Blk} (port : ℕ) (k : ℕ) (src : Source) (bs : List Byte) (hs : r.Later s) : r.Later (Blk.takeDatagram s port k src bs) := by
  unfold Blk.takeDatagram
  try lift_lets
  repeat' (first | with_reducible assumption | with_reducible (first | apply Blk.putStream_later | apply Blk.ingestDrop_later | apply Blk.imgWrite_later) | with_reducible apply Blk.foldl_later | with_reducible (refine Blk.later_fst (by assumption) ?_) | with_reducible (refine Blk.later_some (by assumption) ?_) | (intro s; (have hs : Blk.Later r s := ?_); clear_value s; rotate_left; unfold s) | (intro s; (have hs : Blk.Later r s.1 := ?_); clear_value s; rotate_left; unfold s) | (intro f; (have hc : _ → Blk := f); clear hc; (try unfold f); clear f) | (intro f; (have hc : _ → _ → Blk := f); clear hc; (try unfold f); clear f) | (intro f; (have hc : _ → _ → _ → Blk := f); clear hc; (try unfold f); clear f) | (intro x; (have hc : Cmp := x); clear hc) | (intro x; (have hc : Acc := x); clear hc) | (intro x; clear_value x) | split | (intro s x hs) | lift_lets | (show _ = _; rfl) | with_reducible apply Blk.foldl_fst_later | assumption | intro x)

theorem ingestReceive_later {r : Blk} {s : Blk} (port : ℕ) (d : Datagram) (hs : r.Later s) : r.Later (ingestReceive port d s) := by
  unfold ingestReceive
  try lift_lets
  repeat' (first | with_reducible assumption | with_reducible (first | apply Blk.ingestDrop_later | apply Blk.remoteReset_later | apply Blk.takeDatagram_later) | with_reducible apply Blk.foldl_later | with_reducible (refine Blk.later_fst (by assumption) ?_) | with_reducible (refine Blk.later_some (by assumption) ?_) | (intro s; (have hs : Blk.Later r s := ?_); clear_value s; rotate_left; unfold s) | (intro s; (have hs : Blk.Later r s.1 := ?_); clear_value s; rotate_left; unfold s) | (intro f; (have hc : _ → Blk := f); clear hc; (try unfold f); clear f) | (intro f; (have hc : _ → _ → Blk := f); clear hc; (try unfold f); clear f) | (intro f; (have hc : _ → _ → _ → Blk := f); clear hc; (try unfold f); clear f) | (intro x; (have hc : Cmp := x); clear hc) | (intro x; (have hc : Acc := x); clear hc) | (intro x; clear_value x) | split | (intro s x hs) | lift_lets | (show _ = _; rfl) | with_reducible apply Blk.foldl_fst_later | assumption | intro x)

theorem Blk.applyData_later {r : Blk} {s : Blk} (port : ℕ) (target : ℕ) (gen : ℕ) (offset : ℕ) (bs : List Byte) (hs : r.Later s) : ∀ t, (Blk.applyData s port target gen offset bs) = some t → r.Later t := by
  unfold Blk.applyData
  try lift_lets
  repeat' (first | with_reducible assumption | with_reducible (first | apply Blk.imgWrite_later) | with_reducible apply Blk.foldl_later | with_reducible (refine Blk.later_fst (by assumption) ?_) | with_reducible (refine Blk.later_some (by assumption) ?_) | (intro s; (have hs : Blk.Later r s := ?_); clear_value s; rotate_left; unfold s) | (intro s; (have hs : Blk.Later r s.1 := ?_); clear_value s; rotate_left; unfold s) | (intro o; (have hc : Option Blk := o); clear hc; (have ho : ∀ t, o = some t → Blk.Later r t := ?_); clear_value o; rotate_left; unfold o) | (refine Blk.later_some rfl ?_; assumption) | (intro f; (have hc : _ → Blk := f); clear hc; (try unfold f); clear f) | (intro f; (have hc : _ → _ → Blk := f); clear hc; (try unfold f); clear f) | (intro f; (have hc : _ → _ → _ → Blk := f); clear hc; (try unfold f); clear f) | (intro x; (have hc : Cmp := x); clear hc) | (intro x; (have hc : Acc := x); clear hc) | (intro x; clear_value x) | split | (intro t ht; first | contradiction | (injection ht with ht; subst ht) | (obtain ⟨k, -, ht⟩ := Option.map_eq_some_iff.1 ht; subst ht)) | (intro s x hs) | lift_lets | (show _ = _; rfl) | with_reducible apply Blk.foldl_fst_later | assumption | intro x)

theorem Blk.applyBdset_later {r : Blk} {s : Blk} (target : ℕ) (bs : List Byte) (hs : r.Later s) : ∀ t, (Blk.applyBdset s target bs) = some t → r.Later t := by
  unfold Blk.applyBdset
  try lift_lets
  repeat' (first | with_reducible assumption | with_reducible (first | apply Blk.wn_later) | with_reducible apply Blk.foldl_later | with_reducible (refine Blk.later_fst (by assumption) ?_) | with_reducible (refine Blk.later_some (by assumption) ?_) | (intro s; (have hs : Blk.Later r s := ?_); clear_value s; rotate_left; unfold s) | (intro s; (have hs : Blk.Later r s.1 := ?_); clear_value s; rotate_left; unfold s) | (intro o; (have hc : Option Blk := o); clear hc; (have ho : ∀ t, o = some t → Blk.Later r t := ?_); clear_value o; rotate_left; unfold o) | (refine Blk.later_some rfl ?_; assumption) | (intro f; (have hc : _ → Blk := f); clear hc; (try unfold f); clear f) | (intro f; (have hc : _ → _ → Blk := f); clear hc; (try unfold f); clear f) | (intro f; (have hc : _ → _ → _ → Blk := f); clear hc; (try unfold f); clear f) | (intro x; (have hc : Cmp := x); clear hc) | (intro x; (have hc : Acc := x); clear hc) | (intro x; clear_value x) | split | (intro t ht; first | contradiction | (injection ht with ht; subst ht) | (obtain ⟨k, -, ht⟩ := Option.map_eq_some_iff.1 ht; subst ht)) | (intro s x hs) | lift_lets | (show _ = _; rfl) | with_reducible apply Blk.foldl_fst_later | assumption | intro x)

theorem Blk.applyDesc_later {r : Blk} {s : Blk} (target : ℕ) (bs : List Byte) (hs : r.Later s) : ∀ t, (Blk.applyDesc s target bs) = some t → r.Later t := by
  unfold Blk.applyDesc
  try lift_lets
  repeat' (first | with_reducible assumption | with_reducible (first | apply Blk.ringPut_later) | with_reducible apply Blk.foldl_later | with_reducible (refine Blk.later_fst (by assumption) ?_) | with_reducible (refine Blk.later_some (by assumption) ?_) | (intro s; (have hs : Blk.Later r s := ?_); clear_value s; rotate_left; unfold s) | (intro s; (have hs : Blk.Later r s.1 := ?_); clear_value s; rotate_left; unfold s) | (intro o; (have hc : Option Blk := o); clear hc; (have ho : ∀ t, o = some t → Blk.Later r t := ?_); clear_value o; rotate_left; unfold o) | (refine Blk.later_some rfl ?_; assumption) | (intro f; (have hc : _ → Blk := f); clear hc; (try unfold f); clear f) | (intro f; (have hc : _ → _ → Blk := f); clear hc; (try unfold f); clear f) | (intro f; (have hc : _ → _ → _ → Blk := f); clear hc; (try unfold f); clear f) | (intro x; (have hc : Cmp := x); clear hc) | (intro x; (have hc : Acc := x); clear hc) | (intro x; clear_value x) | split | (intro t ht; first | contradiction | (injection ht with ht; subst ht) | (obtain ⟨k, -, ht⟩ := Option.map_eq_some_iff.1 ht; subst ht)) | (intro s x hs) | lift_lets | (show _ = _; rfl) | with_reducible apply Blk.foldl_fst_later | assumption | intro x)

theorem Blk.ingestReject_later {r : Blk} {s : Blk} (k : ℕ) (typ : ℕ) (seq : ℕ) (hs : r.Later s) : r.Later (Blk.ingestReject s k typ seq) := by
  unfold Blk.ingestReject
  try lift_lets
  repeat' (first | with_reducible assumption | with_reducible (first | apply Blk.raise_later | apply Blk.setF_later) | with_reducible apply Blk.foldl_later | with_reducible (refine Blk.later_fst (by assumption) ?_) | with_reducible (refine Blk.later_some (by assumption) ?_) | (intro s; (have hs : Blk.Later r s := ?_); clear_value s; rotate_left; unfold s) | (intro s; (have hs : Blk.Later r s.1 := ?_); clear_value s; rotate_left; unfold s) | (intro f; (have hc : _ → Blk := f); clear hc; (try unfold f); clear f) | (intro f; (have hc : _ → _ → Blk := f); clear hc; (try unfold f); clear f) | (intro f; (have hc : _ → _ → _ → Blk := f); clear hc; (try unfold f); clear f) | (intro x; (have hc : Cmp := x); clear hc) | (intro x; (have hc : Acc := x); clear hc) | (intro x; clear_value x) | split | (intro s x hs) | lift_lets | (show _ = _; rfl) | with_reducible apply Blk.foldl_fst_later | assumption | intro x)

theorem Blk.slotDone_later {r : Blk} {s : Blk} (k : ℕ) (d : Slot) (x3 : Option Blk) (hs : r.Later s) (hx3 : ∀ t, x3 = some t → r.Later t) : r.Later (Blk.slotDone s k d x3) := by
  unfold Blk.slotDone
  try lift_lets
  repeat' (first | with_reducible assumption | with_reducible (first | apply Blk.ingestReject_later | apply Blk.count_later | apply Blk.setVal_later | apply Blk.putStream_later) | (apply hx3; first | assumption | rfl) | with_reducible apply Blk.foldl_later | with_reducible (refine Blk.later_fst (by assumption) ?_) | with_reducible (refine Blk.later_some (by assumption) ?_) | (intro s; (have hs : Blk.Later r s := ?_); clear_value s; rotate_left; unfold s) | (intro s; (have hs : Blk.Later r s.1 := ?_); clear_value s; rotate_left; unfold s) | (intro o; (have hc : Option Blk := o); clear hc; (have ho : ∀ t, o = some t → Blk.Later r t := ?_); clear_value o; rotate_left; unfold o) | (refine Blk.later_some rfl ?_; assumption) | (intro f; (have hc : _ → Blk := f); clear hc; (try unfold f); clear f) | (intro f; (have hc : _ → _ → Blk := f); clear hc; (try unfold f); clear f) | (intro f; (have hc : _ → _ → _ → Blk := f); clear hc; (try unfold f); clear f) | (intro x; (have hc : Cmp := x); clear hc) | (intro x; (have hc : Acc := x); clear hc) | (intro x; clear_value x) | split | (intro t ht; first | contradiction | (injection ht with ht; subst ht) | (obtain ⟨k, -, ht⟩ := Option.map_eq_some_iff.1 ht; subst ht)) | (intro s x hs) | lift_lets | (show _ = _; rfl) | with_reducible apply Blk.foldl_fst_later | assumption | intro x)

theorem Blk.readStage_later {r : Blk} {s : Blk} (k : ℕ) (d : Slot) (hs : r.Later s) : r.Later (Blk.readStage s k d) := by
  unfold Blk.readStage
  try lift_lets
  repeat' (first | with_reducible assumption | with_reducible (first | apply Blk.access_later) | with_reducible apply Blk.foldl_later | with_reducible (refine Blk.later_fst (by assumption) ?_) | with_reducible (refine Blk.later_some (by assumption) ?_) | (intro s; (have hs : Blk.Later r s := ?_); clear_value s; rotate_left; unfold s) | (intro s; (have hs : Blk.Later r s.1 := ?_); clear_value s; rotate_left; unfold s) | (intro f; (have hc : _ → Blk := f); clear hc; (try unfold f); clear f) | (intro f; (have hc : _ → _ → Blk := f); clear hc; (try unfold f); clear f) | (intro f; (have hc : _ → _ → _ → Blk := f); clear hc; (try unfold f); clear f) | (intro x; (have hc : Cmp := x); clear hc) | (intro x; (have hc : Acc := x); clear hc) | (intro x; clear_value x) | split | (intro s x hs) | lift_lets | (show _ = _; rfl) | with_reducible apply Blk.foldl_fst_later | assumption | intro x)

theorem ingestData_later {r : Blk} {s : Blk} (k : ℕ) (err : MemErr) (hs : r.Later s) : r.Later (ingestData k err s) := by
  unfold ingestData
  try lift_lets
  repeat' (first | with_reducible assumption | with_reducible (first | apply Blk.ecc_later | apply Blk.readStage_later | apply Blk.slotDone_later) | (intro t ht; refine Blk.applyData_later _ _ _ _ _ ?_ t ht) | with_reducible apply Blk.foldl_later | with_reducible (refine Blk.later_fst (by assumption) ?_) | with_reducible (refine Blk.later_some (by assumption) ?_) | (intro s; (have hs : Blk.Later r s := ?_); clear_value s; rotate_left; unfold s) | (intro s; (have hs : Blk.Later r s.1 := ?_); clear_value s; rotate_left; unfold s) | (intro o; (have hc : Option Blk := o); clear hc; (have ho : ∀ t, o = some t → Blk.Later r t := ?_); clear_value o; rotate_left; unfold o) | (refine Blk.later_some rfl ?_; assumption) | (intro f; (have hc : _ → Blk := f); clear hc; (try unfold f); clear f) | (intro f; (have hc : _ → _ → Blk := f); clear hc; (try unfold f); clear f) | (intro f; (have hc : _ → _ → _ → Blk := f); clear hc; (try unfold f); clear f) | (intro x; (have hc : Cmp := x); clear hc) | (intro x; (have hc : Acc := x); clear hc) | (intro x; clear_value x) | split | (intro t ht; first | contradiction | (injection ht with ht; subst ht) | (obtain ⟨k, -, ht⟩ := Option.map_eq_some_iff.1 ht; subst ht)) | (intro s x hs) | lift_lets | (show _ = _; rfl) | with_reducible apply Blk.foldl_fst_later | assumption | intro x)

theorem ingestBdset_later {r : Blk} {s : Blk} (k : ℕ) (hs : r.Later s) : r.Later (ingestBdset k s) := by
  unfold ingestBdset
  try lift_lets
  repeat' (first | with_reducible assumption | with_reducible (first | apply Blk.readStage_later | apply Blk.slotDone_later) | (intro t ht; refine Blk.applyBdset_later _ _ ?_ t ht) | with_reducible apply Blk.foldl_later | with_reducible (refine Blk.later_fst (by assumption) ?_) | with_reducible (refine Blk.later_some (by assumption) ?_) | (intro s; (have hs : Blk.Later r s := ?_); clear_value s; rotate_left; unfold s) | (intro s; (have hs : Blk.Later r s.1 := ?_); clear_value s; rotate_left; unfold s) | (intro o; (have hc : Option Blk := o); clear hc; (have ho : ∀ t, o = some t → Blk.Later r t := ?_); clear_value o; rotate_left; unfold o) | (refine Blk.later_some rfl ?_; assumption) | (intro f; (have hc : _ → Blk := f); clear hc; (try unfold f); clear f) | (intro f; (have hc : _ → _ → Blk := f); clear hc; (try unfold f); clear f) | (intro f; (have hc : _ → _ → _ → Blk := f); clear hc; (try unfold f); clear f) | (intro x; (have hc : Cmp := x); clear hc) | (intro x; (have hc : Acc := x); clear hc) | (intro x; clear_value x) | split | (intro t ht; first | contradiction | (injection ht with ht; subst ht) | (obtain ⟨k, -, ht⟩ := Option.map_eq_some_iff.1 ht; subst ht)) | (intro s x hs) | lift_lets | (show _ = _; rfl) | with_reducible apply Blk.foldl_fst_later | assumption | intro x)

theorem ingestDesc_later {r : Blk} {s : Blk} (k : ℕ) (hs : r.Later s) : r.Later (ingestDesc k s) := by
  unfold ingestDesc
  try lift_lets
  repeat' (first | with_reducible assumption | with_reducible (first | apply Blk.readStage_later | apply Blk.slotDone_later) | (intro t ht; refine Blk.applyDesc_later _ _ ?_ t ht) | with_reducible apply Blk.foldl_later | with_reducible (refine Blk.later_fst (by assumption) ?_) | with_reducible (refine Blk.later_some (by assumption) ?_) | (intro s; (have hs : Blk.Later r s := ?_); clear_value s; rotate_left; unfold s) | (intro s; (have hs : Blk.Later r s.1 := ?_); clear_value s; rotate_left; unfold s) | (intro o; (have hc : Option Blk := o); clear hc; (have ho : ∀ t, o = some t → Blk.Later r t := ?_); clear_value o; rotate_left; unfold o) | (refine Blk.later_some rfl ?_; assumption) | (intro f; (have hc : _ → Blk := f); clear hc; (try unfold f); clear f) | (intro f; (have hc : _ → _ → Blk := f); clear hc; (try unfold f); clear f) | (intro f; (have hc : _ → _ → _ → Blk := f); clear hc; (try unfold f); clear f) | (intro x; (have hc : Cmp := x); clear hc) | (intro x; (have hc : Acc := x); clear hc) | (intro x; clear_value x) | split | (intro t ht; first | contradiction | (injection ht with ht; subst ht) | (obtain ⟨k, -, ht⟩ := Option.map_eq_some_iff.1 ht; subst ht)) | (intro s x hs) | lift_lets | (show _ = _; rfl) | with_reducible apply Blk.foldl_fst_later | assumption | intro x)

theorem Blk.sendIngest_later {r : Blk} {s : Blk} (k : ℕ) (bs : List Byte) (hs : r.Later s) : r.Later (Blk.sendIngest s k bs) := by
  unfold Blk.sendIngest
  try lift_lets
  repeat' (first | with_reducible assumption | with_reducible (first | apply Blk.emit_later) | with_reducible apply Blk.foldl_later | with_reducible (refine Blk.later_fst (by assumption) ?_) | with_reducible (refine Blk.later_some (by assumption) ?_) | (intro s; (have hs : Blk.Later r s := ?_); clear_value s; rotate_left; unfold s) | (intro s; (have hs : Blk.Later r s.1 := ?_); clear_value s; rotate_left; unfold s) | (intro f; (have hc : _ → Blk := f); clear hc; (try unfold f); clear f) | (intro f; (have hc : _ → _ → Blk := f); clear hc; (try unfold f); clear f) | (intro f; (have hc : _ → _ → _ → Blk := f); clear hc; (try unfold f); clear f) | (intro x; (have hc : Cmp := x); clear hc) | (intro x; (have hc : Acc := x); clear hc) | (intro x; clear_value x) | split | (intro s x hs) | lift_lets | (show _ = _; rfl) | with_reducible apply Blk.foldl_fst_later | assumption | intro x)

theorem ingestAck_later {r : Blk} {s : Blk} (k : ℕ) (t : ℕ) (hs : r.Later s) : r.Later (ingestAck k t s) := by
  unfold ingestAck
  try lift_lets
  repeat' (first | with_reducible assumption | with_reducible (first | apply Blk.advance_later | apply Blk.sendIngest_later | apply Blk.putStream_later) | with_reducible apply Blk.foldl_later | with_reducible (refine Blk.later_fst (by assumption) ?_) | with_reducible (refine Blk.later_some (by assumption) ?_) | (intro s; (have hs : Blk.Later r s := ?_); clear_value s; rotate_left; unfold s) | (intro s; (have hs : Blk.Later r s.1 := ?_); clear_value s; rotate_left; unfold s) | (intro f; (have hc : _ → Blk := f); clear hc; (try unfold f); clear f) | (intro f; (have hc : _ → _ → Blk := f); clear hc; (try unfold f); clear f) | (intro f; (have hc : _ → _ → _ → Blk := f); clear hc; (try unfold f); clear f) | (intro x; (have hc : Cmp := x); clear hc) | (intro x; (have hc : Acc := x); clear hc) | (intro x; clear_value x) | split | (intro s x hs) | lift_lets | (show _ = _; rfl) | with_reducible apply Blk.foldl_fst_later | assumption | intro x)

theorem retxReq_later {r : Blk} {s : Blk} (k : ℕ) (t : ℕ) (hs : r.Later s) : r.Later (retxReq k t s) := by
  unfold retxReq
  try lift_lets
  repeat' (first | with_reducible assumption | with_reducible (first | apply Blk.advance_later | apply Blk.count_later | apply Blk.incSat_later | apply Blk.sendIngest_later | apply Blk.putStream_later | apply Blk.raise_later | apply Blk.setF_later) | with_reducible apply Blk.foldl_later | with_reducible (refine Blk.later_fst (by assumption) ?_) | with_reducible (refine Blk.later_some (by assumption) ?_) | (intro s; (have hs : Blk.Later r s := ?_); clear_value s; rotate_left; unfold s) | (intro s; (have hs : Blk.Later r s.1 := ?_); clear_value s; rotate_left; unfold s) | (intro f; (have hc : _ → Blk := f); clear hc; (try unfold f); clear f) | (intro f; (have hc : _ → _ → Blk := f); clear hc; (try unfold f); clear f) | (intro f; (have hc : _ → _ → _ → Blk := f); clear hc; (try unfold f); clear f) | (intro x; (have hc : Cmp := x); clear hc) | (intro x; (have hc : Acc := x); clear hc) | (intro x; clear_value x) | split | (intro s x hs) | lift_lets | (show _ = _; rfl) | with_reducible apply Blk.foldl_fst_later | assumption | intro x)

end Sys2Proof.Machine
end

