-- ==== Sys2Proof/Tests/Slice0.lean ====
section
/-!
SUPPORT. Small tests: the operand checks refuse ill-formed commands, worked examples and tables of the spec come out as printed, and for each
statement that has hypotheses a concrete state and operands meet those of each of its clauses together.
-/

open Sys2Proof Sys2Proof.Machine

-- The tests are checked one after another: each thread of a parallel check would take a stack of its own.
set_option Elab.async false

namespace Sys2Proof.Tests

/-! ### The operand checks, each with a term that it refuses -/

theorem test_wf_pair : (Instr.snapReceived (List.replicate 8 0)).wf = true ∧ (Instr.snapReceived (List.replicate 7 0)).wf = false := by decide

theorem test_wf_wale : (Instr.beaconReceived 0 0 (List.replicate 11 0)).wf = true ∧ (Instr.beaconReceived 0 0 (List.replicate 3 0)).wf = false := by decide

theorem test_wf_nop : (Instr.nopReceived 0 (List.replicate 3 0)).wf = true ∧ (Instr.nopReceived 0 (List.replicate 11 0)).wf = false := by decide

theorem test_wf_sweep :
    (Instr.equaliserSweepDone 0 0 (List.replicate 32 (0, 0))).wf = true ∧ (Instr.equaliserSweepDone 0 0 (List.replicate 31 (0, 0))).wf = false := by decide

theorem test_wf_scan : (Instr.eyeScanDone 0 [1]).wf = true ∧ (Instr.eyeScanDone 0 (List.replicate 8193 0)).wf = false := by
  refine ⟨by decide, ?_⟩
  simp only [Instr.wf, scanOk, List.length_replicate]
  decide

theorem test_wf_temps :
    (Instr.dieTempConversion 0 (List.replicate 8 none)).wf = true ∧ (Instr.dieTempConversion 0 (List.replicate 9 none)).wf = false := by decide

theorem test_wf_ladder : (Instr.nandReadDone ⟨0, List.replicate 16 (0, none), List.replicate 16 none⟩).wf = true ∧
    (Instr.nandReadDone ⟨0, List.replicate 16 (0, none), []⟩).wf = false := by decide
/-- What an upsett finds, with the results of the self-test given. -/
def found (bist : List (Bool × BitVec 48)) : UpsettIn :=
  ⟨0, 0, 0, ⟨0, 0, 0, 0, false, false, 0⟩, none, ⟨[], true⟩, ⟨[], true⟩, bist, [], 0, false, true, ⟨[], ⟨false, false, 0, []⟩, ⟨false, false, 0, []⟩, none, false⟩⟩

theorem test_wf_upsett : (Instr.upsett (found (List.replicate 16 (true, 0)))).wf = true ∧ (Instr.upsett (found [])).wf = false := by decide

/-! ### Worked examples and tables of the spec -/

/-- A contone layer of a mode. -/
def contone (mode : Nat) : Layer := ⟨0, 0, 0, [mode * 16], true, false, none, [], [], [], [], false⟩

/-- R132, the example after R133: 0x90 OVER, 0x60 MAX and 0x40 KNOCKOUT give 578, 578 and 433. -/
theorem test_layers : blend (contone 0) (0, 0) (some 0x90) = (578, 0) ∧ blend (contone 2) (578, 0) (some 0x60) = (578, 0) ∧
    blend (contone 3) (578, 0) (some 0x40) = (433, 0) := by decide

/-- R60's example: the fallback at 400,500.00 after a switch at 1,000,000.00 and 400,000.00 with 6/5 gives 1,000,600.00 counts. -/
def bFallback : Blk :=
  let b := ((Blk.init.setF LCK_STATUS_FB_ACTIVE 1).setF LCK_MASTER_FB_SRC 1).setVal LCK_FB_OFFSET (1000000 * 256) 3
  let b := ((b.wn LCK_FB_NUM 6).wn LCK_FB_DEN 5).setVal (POS_COUNT 1) 400500 2
  { b with lck := { b.lck with fSw := 400000 * 256 } }

theorem test_fallback_position : bFallback.masterP = 1000600 * 256 := by decide

/-- R143, the reference bar: with BLEND 32 and TRIM 0, HP5 column 10 weighs 84 and HP4 column 2,026 of 2,048 weighs 172. -/
theorem test_edge_weights : edgeWeight (32 * 4096 + 32) 2048 10 = (84, false) ∧ edgeWeight (32 * 4096 + 32) 2048 2026 = (172, true) := by decide

/-- The register map's example: the nozzle word of HP4 slot 3,984 lies at 0x08_4F_90. -/
theorem test_nozzle_word_address : nozAddr 4 3984 = 0x084F90 := by decide

/-- The CRC-32 of IEEE 802.3 (R162): its published check value over "123456789". -/
theorem test_crc32_check : crc32 [0x31, 0x32, 0x33, 0x34, 0x35, 0x36, 0x37, 0x38, 0x39] = 0xCBF43926 := by decide +kernel

/-- The CRC-24 of RFC 9580 (R299, R321): its published check value over "123456789". -/
theorem test_crc24_check :
    ([0x31, 0x32, 0x33, 0x34, 0x35, 0x36, 0x37, 0x38, 0x39] : List Nat).foldl crc24Byte 0xB704CE = 0x21CF02 := by decide +kernel

/-- IEEE 802.3, table 36: at negative disparity K28.5 is 001111 1010 and D21.5 is 101010 1010; at positive disparity D0.0 is 011000 1011. -/
theorem test_light_code :
    symCode false k28x5 = (0x0FA, true) ∧ symCode false (false, 0xB5) = (0x2AA, false) ∧ symCode true (false, 0) = (0x18B, true) := by decide

/-- FIPS 180-4: SHA-256 of "abc" begins 0xba7816bf. -/
theorem test_sha256_abc : (sha256 [0x61, 0x62, 0x63]).take 4 = [0xba, 0x78, 0x16, 0xbf] := by decide +kernel

/-! ### One command each -/

/-- R68: a start with every track IDLE sets RUNNING. -/
theorem test_line_clock_start :
    (match exec .lineClockStart ⟨{ Blk.init with sys := { Sys.init with phase := .up } }, []⟩ with | .next t => t.blk.running | _ => false) = true := by
  decide +kernel

/-- R84: PRESET of the master of a running line clock sets PRESET_REJ. -/
theorem test_preset_refused :
    (match exec (.posPreset 0) ⟨({ Blk.init with sys := { Sys.init with phase := .up } } : Blk).setF LCK_STATUS_RUNNING 1, []⟩ with
      | .next t => t.blk.fb (POS_STATUS_PRESET_REJ 0)
      | _ => false) = true := by
  decide +kernel

/-- The model's choice: one POS clock passes on an empty queue. -/
theorem test_idle_step : step State.reset = .next ⟨State.reset.blk.advance 1, []⟩ := rfl

/-! ### What a hypothesis asks for can be had -/

/-! ### What a hypothesis asks for can be had -/

def live : Blk := { Blk.init with sys := { Sys.init with phase := .up } }

def q (b : Blk) : State := ⟨b, []⟩

def sLive : State := q live

def sRun : State := q (live.setF LCK_STATUS_RUNNING 1)

def sBusy : State := q (live.setF (PGE_TRK_STATUS_STATE 3) 2)

theorem witness_EncoderCommands :
    (sRun.blk.alive = true ∧ sRun.blk.running = true ∧ (sRun.blk.masterSrc = 0 ∨ sRun.blk.fb LCK_MASTER_FB_EN = true ∧
      sRun.blk.f LCK_MASTER_FB_SRC = 0)) ∧
    ((q ((live.setF LCK_STATUS_RUNNING 1).setF LCK_MASTER_FB_EN 1)).blk.alive = true ∧
      (q ((live.setF LCK_STATUS_RUNNING 1).setF LCK_MASTER_FB_EN 1)).blk.running = true ∧
      ((q ((live.setF LCK_STATUS_RUNNING 1).setF LCK_MASTER_FB_EN 1)).blk.masterSrc = 0 ∨ (q ((live.setF LCK_STATUS_RUNNING 1).setF LCK_MASTER_FB_EN 1)).blk.fb LCK_MASTER_FB_EN = true ∧
      (q ((live.setF LCK_STATUS_RUNNING 1).setF LCK_MASTER_FB_EN 1)).blk.f LCK_MASTER_FB_SRC = 0)) ∧
    (sRun.blk.alive = true ∧ (sRun.blk.running = false ∨ sRun.blk.masterSrc ≠ 7 ∧
      (sRun.blk.f LCK_MASTER_FB_SRC ≠ 7 ∨ sRun.blk.fb LCK_MASTER_FB_EN = false ∧ sRun.blk.fbActive = false))) ∧
    (sLive.blk.alive = true ∧ (sLive.blk.running = false ∨ sLive.blk.masterSrc ≠ 0 ∧
      (sLive.blk.f LCK_MASTER_FB_SRC ≠ 0 ∨ sLive.blk.fb LCK_MASTER_FB_EN = false ∧ sLive.blk.fbActive = false))) ∧
    (sLive.blk.alive = true ∧ (∀ x ∈ sLive.blk.held, x.addr ≠ POS_STATUS 7) ∧ sLive.blk.fb (POS_STATUS_FAULT 7) = false) ∧
    (sBusy.blk.alive = true ∧ sBusy.blk.fb (POS_STATUS_FAULT 7) = false ∧ sBusy.blk.running = false ∧ sBusy.blk.allIdle = false ∧
      (∀ k < 6, sBusy.blk.axState k ≠ 4)) ∧
    ((q (sBusy.blk.setF (POS_STATUS_FAULT 7) 1)).blk.alive = true ∧
      (q (sBusy.blk.setF (POS_STATUS_FAULT 7) 1)).blk.fb (POS_STATUS_FAULT 7) = true ∧
      (q (sBusy.blk.setF (POS_STATUS_FAULT 7) 1)).blk.allIdle = false) := by
  refine ⟨?_, ?_, ?_, ?_, ?_, ?_, ?_⟩ <;> decide +kernel

def sEnc (z pinZ armed : Bool) : State :=
  q (((live.setF (PGE_TRK_STATUS_STATE 3) 2).setF (POS_CFG_EN 7) 1).setEnc 7 { Enc.init with z := ⟨z, 0⟩, pinZ := pinZ, zArmed := armed })

theorem witness_EncoderInputs :
    sLive.blk.alive = true ∧
    ((sEnc true true false).blk.alive = true ∧ (sEnc true true false).blk.fb (POS_CFG_EN 7) = true ∧ (sEnc true true false).blk.filtN 7 ≤ 1 ∧
      ((sEnc true true false).blk.enc 7).a.run = 0 ∧ ((sEnc true true false).blk.enc 7).b.run = 0 ∧
      ((sEnc true true false).blk.enc 7).z.run = 0 ∧ ((sEnc true true false).blk.enc 7).z.out = ((sEnc true true false).blk.enc 7).pinZ ∧
      (sEnc true true false).blk.held = [] ∧
      ((sEnc true true false).blk.fb (POS_IDX_CFG_GATED 7) = false ∨ ((sEnc true true false).blk.enc 7).zArmed = false) ∧
      abStep ((sEnc true true false).blk.enc 7).ab (2 * b2n true + b2n false) = some (1 : Int)) ∧
    ((sEnc true true false).blk.alive = true ∧ (sEnc true true false).blk.fb (POS_CFG_EN 7) = true ∧ (sEnc true true false).blk.filtN 7 ≤ 1 ∧
      ((sEnc true true false).blk.enc 7).a.run = 0 ∧ ((sEnc true true false).blk.enc 7).b.run = 0 ∧
      ((sEnc true true false).blk.enc 7).z.run = 0 ∧ ((sEnc true true false).blk.enc 7).z.out = ((sEnc true true false).blk.enc 7).pinZ ∧
      (sEnc true true false).blk.held = [] ∧
      ((sEnc true true false).blk.fb (POS_IDX_CFG_GATED 7) = false ∨ ((sEnc true true false).blk.enc 7).zArmed = false) ∧
      true ≠ ((sEnc true true false).blk.enc 7).a.out ∧ true ≠ ((sEnc true true false).blk.enc 7).b.out) ∧
    ((sEnc true true true).blk.alive = true ∧ (sEnc true true true).blk.fb (POS_CFG_EN 7) = true ∧ (sEnc true true true).blk.filtN 7 ≤ 1 ∧
      ((sEnc true true true).blk.enc 7).a.run = 0 ∧ ((sEnc true true true).blk.enc 7).b.run = 0 ∧ ((sEnc true true true).blk.enc 7).z.run = 0 ∧
      ((sEnc true true true).blk.enc 7).z.out = !false ∧ ((sEnc true true true).blk.enc 7).zArmed = true ∧
      (sEnc true true true).blk.fb (POS_CFG_IDX_POL 7) = false ∧ (sEnc true true true).blk.held = [] ∧
      ((sEnc true true true).blk.fb (POS_IDX_CFG_GATED 7) = false ∨ ((sEnc true true true).blk.enc 7).ab = (sEnc true true true).blk.f (POS_IDX_CFG_GATE_AB 7))) ∧
    ((sEnc true true false).blk.alive = true ∧ (sEnc true true false).blk.fb (POS_CFG_EN 7) = true ∧ (sEnc true true false).blk.filtN 7 ≤ 1 ∧
      ((sEnc true true false).blk.enc 7).a.run = 0 ∧ ((sEnc true true false).blk.enc 7).b.run = 0 ∧
      ((sEnc true true false).blk.enc 7).z.run = 0 ∧ (sEnc true true false).blk.f (POS_CFG_FILT_N 7) ≤ 1 ∧
      (sEnc true true false).blk.fb (POS_CFG_INVERT 7) = false ∧ (sEnc true true false).blk.fb (POS_IDX_CFG_GATED 7) = false ∧
      ((sEnc true true false).blk.enc 7).a.out = false ∧ ((sEnc true true false).blk.enc 7).b.out = false ∧
      ((sEnc true true false).blk.enc 7).hist = [] ∧ (sEnc true true false).blk.running = false ∧ (sEnc true true false).blk.shuttle = false ∧
      (sEnc true true false).blk.allIdle = false ∧ ((sEnc true true false).blk.enc 7).z.out = ((sEnc true true false).blk.enc 7).pinZ) ∧
    ((sEnc true true true).blk.alive = true ∧ (sEnc true true true).blk.fb (POS_CFG_EN 7) = true ∧ (sEnc true true true).blk.filtN 7 ≤ 1 ∧
      ((sEnc true true true).blk.enc 7).a.run = 0 ∧ ((sEnc true true true).blk.enc 7).b.run = 0 ∧ ((sEnc true true true).blk.enc 7).z.run = 0 ∧
      (sEnc true true true).blk.f (POS_CFG_FILT_N 7) ≤ 1 ∧ (sEnc true true true).blk.fb (POS_CFG_INVERT 7) = false ∧
      (sEnc true true true).blk.fb (POS_IDX_CFG_GATED 7) = false ∧ ((sEnc true true true).blk.enc 7).a.out = false ∧
      ((sEnc true true true).blk.enc 7).b.out = false ∧ ((sEnc true true true).blk.enc 7).hist = [] ∧ (sEnc true true true).blk.running = false ∧
      (sEnc true true true).blk.shuttle = false ∧ (sEnc true true true).blk.allIdle = false ∧ ((sEnc true true true).blk.enc 7).z.out = !false ∧
      ((sEnc true true true).blk.enc 7).zArmed = true ∧ ((sEnc true true true).blk.enc 7).idxPrev = none ∧
      (sEnc true true true).blk.fb (POS_CFG_IDX_POL 7) = false) := by
  refine ⟨?_, ?_, ?_, ?_, ?_, ?_⟩ <;> decide +kernel

def bRest : Blk := { live with bst := { live.bst with phase := 1 } }

theorem witness_IdleWrites :
    ((q bRest).blk.alive = true ∧ (q bRest).blk.allIdle = true ∧ (q bRest).blk.Rested ∧ (q bRest).blk.fb SYS_COMMIT_HOLD = false ∧
      (q bRest).blk.running = false) ∧
    ((q (bRest.setF LCK_STATUS_RUNNING 1)).blk.alive = true ∧ (q (bRest.setF LCK_STATUS_RUNNING 1)).blk.allIdle = true ∧
      (q (bRest.setF LCK_STATUS_RUNNING 1)).blk.Rested ∧ (q (bRest.setF LCK_STATUS_RUNNING 1)).blk.fb SYS_COMMIT_HOLD = false ∧
      (q (bRest.setF LCK_STATUS_RUNNING 1)).blk.running = true) ∧
    (sLive.blk.alive = true ∧ (1 : Word).toNat % 2 = 1) ∧
    (sBusy.blk.alive = true ∧ (0 : Word).toNat % 2 = 0 ∧ sBusy.blk.allIdle = false ∧ sBusy.blk.held = [] ∧
      (∀ i < 8, sBusy.blk.laneState (32 + i) = 0 → sBusy.blk.laneEn (32 + i) = false)) := by
  simp only [Blk.Rested]
  refine ⟨?_, ?_, ?_, ?_⟩ <;> decide +kernel

def due (kind arg0 : Nat) : SchedEntry := ⟨0, kind, arg0, 1, 7, true, false⟩

def sSched (e : SchedEntry) : State := q ((live.setF LCK_STATUS_RUNNING 1).setSched 3 [e])

def gear0 : Gear := ⟨0, 0, 0, ⟨1, 2⟩, none, 0, none, false⟩

def sGearDue : State :=
  q (((sSched (due 4 61)).blk.setF (AXS_STATUS_STATE 5) 4).setAx 5 { Ax.init with gear := some gear0 })

def page1 : Page := { Blk.newPage Blk.init [0, 5, 0, 0, 0, 0, 0, 9] 0 0 0 none with bounded := false }

def sPage : State := q ((sSched (due 1 0)).blk.setTrk 3 { Trk.init with pages := [page1] })

theorem witness_ScheduleEntries :
    ((sSched (due 3 23)).blk.alive = true ∧ (sSched (due 3 23)).blk.sched 3 = [due 3 23] ∧ (∀ x ∈ [due 3 23], x.fromIns = false) ∧
      (due 3 23).pos ≤ (sSched (due 3 23)).blk.lck.h ∧ 0 ≤ (sSched (due 3 23)).blk.now ∧ (sSched (due 3 23)).blk.running = true ∧
      (sSched (due 3 23)).blk.lckHold = false ∧ (sSched (due 3 23)).blk.masterRev = false ∧ (sSched (due 3 23)).blk.ranNow < 4 ∧
      (∀ u < 3, (sSched (due 3 23)).blk.dueEntry u = none) ∧ ((sSched (due 3 23)).blk.trk 3).abortWait = false ∧
      (sSched (due 3 23)).blk.fb RING_TRACE_CFG_SCHED = false ∧ (due 3 23).kind = 3) ∧
    ((sSched (due 2 15)).blk.alive = true ∧ (sSched (due 2 15)).blk.sched 3 = [due 2 15] ∧ (∀ x ∈ [due 2 15], x.fromIns = false) ∧
      (due 2 15).pos ≤ (sSched (due 2 15)).blk.lck.h ∧ 0 ≤ (sSched (due 2 15)).blk.now ∧ (sSched (due 2 15)).blk.running = true ∧
      (sSched (due 2 15)).blk.lckHold = false ∧ (sSched (due 2 15)).blk.masterRev = false ∧ (sSched (due 2 15)).blk.ranNow < 4 ∧
      (∀ u < 3, (sSched (due 2 15)).blk.dueEntry u = none) ∧ ((sSched (due 2 15)).blk.trk 3).abortWait = false ∧
      (sSched (due 2 15)).blk.fb RING_TRACE_CFG_SCHED = false ∧ (due 2 15).kind = 2) ∧
    ((sSched (due 4 61)).blk.alive = true ∧ (sSched (due 4 61)).blk.sched 3 = [due 4 61] ∧ (∀ x ∈ [due 4 61], x.fromIns = false) ∧
      (due 4 61).pos ≤ (sSched (due 4 61)).blk.lck.h ∧ 0 ≤ (sSched (due 4 61)).blk.now ∧ (sSched (due 4 61)).blk.running = true ∧
      (sSched (due 4 61)).blk.lckHold = false ∧ (sSched (due 4 61)).blk.masterRev = false ∧ (sSched (due 4 61)).blk.ranNow < 4 ∧
      (∀ u < 3, (sSched (due 4 61)).blk.dueEntry u = none) ∧ ((sSched (due 4 61)).blk.trk 3).abortWait = false ∧
      (sSched (due 4 61)).blk.fb RING_TRACE_CFG_SCHED = false ∧ (due 4 61).kind = 4 ∧ bits (due 4 61).arg0 2 0 < 6 ∧
      (sSched (due 4 61)).blk.axState (bits (due 4 61).arg0 2 0) ≠ 4) ∧
    (sGearDue.blk.alive = true ∧ sGearDue.blk.sched 3 = [due 4 61] ∧ (∀ x ∈ [due 4 61], x.fromIns = false) ∧
      (due 4 61).pos ≤ sGearDue.blk.lck.h ∧ 0 ≤ sGearDue.blk.now ∧ sGearDue.blk.running = true ∧ sGearDue.blk.lckHold = false ∧
      sGearDue.blk.masterRev = false ∧ sGearDue.blk.ranNow < 4 ∧ (∀ u < 3, sGearDue.blk.dueEntry u = none) ∧
      (sGearDue.blk.trk 3).abortWait = false ∧ sGearDue.blk.fb RING_TRACE_CFG_SCHED = false ∧ (due 4 61).kind = 4 ∧
      bits (due 4 61).arg0 2 0 < 6 ∧ sGearDue.blk.axState (bits (due 4 61).arg0 2 0) = 4 ∧
      (sGearDue.blk.ax (bits (due 4 61).arg0 2 0)).gear = some gear0 ∧ gear0.r1 = none ∧
      sGearDue.blk.rn (AXS_GEAR_RAMP (bits (due 4 61).arg0 2 0)) = 0) ∧
    ((sSched (due 5 3)).blk.alive = true ∧ (sSched (due 5 3)).blk.sched 3 = [due 5 3] ∧ (∀ x ∈ [due 5 3], x.fromIns = false) ∧
      (due 5 3).pos ≤ (sSched (due 5 3)).blk.lck.h ∧ 0 ≤ (sSched (due 5 3)).blk.now ∧ (sSched (due 5 3)).blk.running = true ∧
      (sSched (due 5 3)).blk.lckHold = false ∧ (sSched (due 5 3)).blk.masterRev = false ∧ (sSched (due 5 3)).blk.ranNow < 4 ∧
      (∀ u < 3, (sSched (due 5 3)).blk.dueEntry u = none) ∧ ((sSched (due 5 3)).blk.trk 3).abortWait = false ∧
      (sSched (due 5 3)).blk.fb RING_TRACE_CFG_SCHED = false ∧ (due 5 3).kind = 5) ∧
    ((sSched (due 6 0)).blk.alive = true ∧ (sSched (due 6 0)).blk.sched 3 = [due 6 0] ∧ (∀ x ∈ [due 6 0], x.fromIns = false) ∧
      (due 6 0).pos ≤ (sSched (due 6 0)).blk.lck.h ∧ 0 ≤ (sSched (due 6 0)).blk.now ∧ (sSched (due 6 0)).blk.running = true ∧
      (sSched (due 6 0)).blk.lckHold = false ∧ (sSched (due 6 0)).blk.masterRev = false ∧ (sSched (due 6 0)).blk.ranNow < 4 ∧
      (∀ u < 3, (sSched (due 6 0)).blk.dueEntry u = none) ∧ ((sSched (due 6 0)).blk.trk 3).abortWait = false ∧
      (sSched (due 6 0)).blk.fb RING_TRACE_CFG_SCHED = false ∧ (due 6 0).kind = 6) ∧
    ((sSched (due 7 0)).blk.alive = true ∧ (sSched (due 7 0)).blk.sched 3 = [due 7 0] ∧ (∀ x ∈ [due 7 0], x.fromIns = false) ∧
      (due 7 0).pos ≤ (sSched (due 7 0)).blk.lck.h ∧ 0 ≤ (sSched (due 7 0)).blk.now ∧ (sSched (due 7 0)).blk.running = true ∧
      (sSched (due 7 0)).blk.lckHold = false ∧ (sSched (due 7 0)).blk.masterRev = false ∧ (sSched (due 7 0)).blk.ranNow < 4 ∧
      (∀ u < 3, (sSched (due 7 0)).blk.dueEntry u = none) ∧ ((sSched (due 7 0)).blk.trk 3).abortWait = false ∧
      (sSched (due 7 0)).blk.fb RING_TRACE_CFG_SCHED = false ∧ (due 7 0).kind = 7) ∧
    (sPage.blk.alive = true ∧ sPage.blk.sched 3 = [due 1 0] ∧ (∀ x ∈ [due 1 0], x.fromIns = false) ∧ (due 1 0).pos ≤ sPage.blk.lck.h ∧
      0 ≤ sPage.blk.now ∧ sPage.blk.running = true ∧ sPage.blk.lckHold = false ∧ sPage.blk.masterRev = false ∧ sPage.blk.ranNow < 4 ∧
      (∀ u < 3, sPage.blk.dueEntry u = none) ∧ (sPage.blk.trk 3).abortWait = false ∧ sPage.blk.fb RING_TRACE_CFG_SCHED = false ∧
      (due 1 0).kind = 1 ∧ (sPage.blk.trk 3).pages = [page1] ∧ page1.bounded = false ∧ q256 page1.cRaw = (due 1 0).pos ∧
      page1.start ≤ sPage.blk.lineIndex 3 + 3) := by
  refine ⟨?_, ?_, ?_, ?_, ?_, ?_, ?_, ?_⟩ <;> decide +kernel

def sPulse : State := q (live.setPev 7 ⟨false, some 0, some 0⟩)

def ringAt (b : Blk) (r : Nat) (ws : List Nat) : Blk :=
  let b := (((b.setF (RING_CFG_EN r) 1).setF (RING_CFG_SIZE_LOG2 r) 4).setVal (RING_BASE r) 4096 2).wn (RING_PROD r) 1
  b.memWrites (b.ringAddr r 0) (entryBytes ws)

def sIns (w0 : Nat) (h : Int) : State :=
  q { (ringAt (((live.setF LCK_STATUS_RUNNING 1).setF (PGE_TRK_CFG_EN 3) 1)) 11 [w0, 1, 0, 0, 0, 7, 0, 0]) with lck := { live.lck with h := h } }

theorem witness_PulsesAndInsertion :
    (sPulse.blk.alive = true ∧ (sPulse.blk.pev 7).endUs = some 0 ∧ 0 ≤ max sPulse.blk.now 0) ∧
    (sPulse.blk.alive = true ∧ (sPulse.blk.pev 7).endH = some (0 : Int) ∧ (0 : Int) ≤ sPulse.blk.lck.h ∧ 0 ≤ sPulse.blk.now) ∧
    ((sIns 13041664 (0 : Int)).blk.alive = true ∧ (sIns 13041664 (0 : Int)).blk.running = true ∧
      (sIns 13041664 (0 : Int)).blk.mayTake 11 = true ∧ bits (((sIns 13041664 (0 : Int)).blk.nextEntry 11).getD 0 0) 23 22 = 3 ∧
      2 ≤ (schedEntry ((sIns 13041664 (0 : Int)).blk.nextEntry 11)).kind ∧ (schedEntry ((sIns 13041664 (0 : Int)).blk.nextEntry 11)).kind ≤ 7 ∧
      (sIns 13041664 (0 : Int)).blk.trkEn 3 = true ∧ (List.filter (fun x ↦ x.fromRing) ((sIns 13041664 (0 : Int)).blk.sched 3)).length < 960 ∧
      ((sIns 13041664 (0 : Int)).blk.sched 3).length < 1024 ∧
      (sIns 13041664 (0 : Int)).blk.lck.h < (schedEntry ((sIns 13041664 (0 : Int)).blk.nextEntry 11)).pos) ∧
    ((sIns 12976128 (1000 : Int)).blk.alive = true ∧ (sIns 12976128 (1000 : Int)).blk.running = true ∧
      (sIns 12976128 (1000 : Int)).blk.mayTake 11 = true ∧ bits (((sIns 12976128 (1000 : Int)).blk.nextEntry 11).getD 0 0) 23 22 = 3 ∧
      2 ≤ (schedEntry ((sIns 12976128 (1000 : Int)).blk.nextEntry 11)).kind ∧
      (schedEntry ((sIns 12976128 (1000 : Int)).blk.nextEntry 11)).kind ≤ 7 ∧ (sIns 12976128 (1000 : Int)).blk.trkEn 3 = true ∧
      (List.filter (fun x ↦ x.fromRing) ((sIns 12976128 (1000 : Int)).blk.sched 3)).length < 960 ∧
      ((sIns 12976128 (1000 : Int)).blk.sched 3).length < 1024 ∧
      (schedEntry ((sIns 12976128 (1000 : Int)).blk.nextEntry 11)).pos ≤ (sIns 12976128 (1000 : Int)).blk.lck.h ∧
      (sIns 12976128 (1000 : Int)).blk.lckHold = false ∧ (sIns 12976128 (1000 : Int)).blk.masterRev = false ∧
      (schedEntry ((sIns 12976128 (1000 : Int)).blk.nextEntry 11)).kind = 6) ∧
    ((sIns 12648448 (0 : Int)).blk.alive = true ∧ (sIns 12648448 (0 : Int)).blk.running = true ∧
      (sIns 12648448 (0 : Int)).blk.mayTake 11 = true ∧ bits (((sIns 12648448 (0 : Int)).blk.nextEntry 11).getD 0 0) 23 22 = 3 ∧
      ((schedEntry ((sIns 12648448 (0 : Int)).blk.nextEntry 11)).kind < 2 ∨ 7 < (schedEntry ((sIns 12648448 (0 : Int)).blk.nextEntry 11)).kind ∨ (sIns 12648448 (0 : Int)).blk.trkEn 3 = false)) ∧
    ((sIns 13107200 (0 : Int)).blk.alive = true ∧ (sIns 13107200 (0 : Int)).blk.running = true ∧
      (sIns 13107200 (0 : Int)).blk.mayTake 11 = true ∧ bits (((sIns 13107200 (0 : Int)).blk.nextEntry 11).getD 0 0) 23 22 = 3 ∧
      ((schedEntry ((sIns 13107200 (0 : Int)).blk.nextEntry 11)).kind < 2 ∨ 7 < (schedEntry ((sIns 13107200 (0 : Int)).blk.nextEntry 11)).kind ∨ (sIns 13107200 (0 : Int)).blk.trkEn 3 = false)) ∧
    ((sIns 131072 (0 : Int)).blk.alive = true ∧ (sIns 131072 (0 : Int)).blk.running = true ∧ (sIns 131072 (0 : Int)).blk.mayTake 11 = true ∧
      bits (((sIns 131072 (0 : Int)).blk.nextEntry 11).getD 0 0) 23 22 = 0 ∧
      ((schedEntry ((sIns 131072 (0 : Int)).blk.nextEntry 11)).kind < 2 ∨ 7 < (schedEntry ((sIns 131072 (0 : Int)).blk.nextEntry 11)).kind ∨ (sIns 131072 (0 : Int)).blk.trkEn 0 = false)) := by
  refine ⟨?_, ?_, ?_, ?_, ?_, ?_, ?_⟩ <;> decide +kernel

def sTrk (st : Nat) (x : Trk) : State := q (((((live.setF (PGE_TRK_CFG_EN 3) 1).setF (PGE_TRK_STATUS_STATE 0) 1).setF LCK_STATUS_RUNNING 1).setF (PGE_TRK_STATUS_STATE 3) st).setTrk 3 x)

theorem witness_TrackCommands :
    ((sTrk 0 Trk.init).blk.alive = true ∧ (sTrk 0 Trk.init).blk.shuttle = false ∧ (sTrk 0 Trk.init).blk.mayArm 3 = true) ∧
    ((sTrk 0 Trk.init).blk.alive = true ∧ (sTrk 0 Trk.init).blk.shuttle = false ∧ (sTrk 0 Trk.init).blk.mayArm 3 = true ∧
      (sTrk 0 Trk.init).blk.scan = none ∧ (sTrk 0 Trk.init).blk.fb BST_STATUS_BUSY = false) ∧
    ((sTrk 1 Trk.init).blk.alive = true ∧ (sTrk 1 Trk.init).blk.shuttle = false ∧ (sTrk 1 Trk.init).blk.trkState 3 = 1 ∧
      ((sTrk 1 Trk.init).blk.trk 3).pages = [] ∧ ((sTrk 1 Trk.init).blk.trk 3).old = [] ∧ ((sTrk 1 Trk.init).blk.trk 3).first = none ∧
      (∃ u < 4, u ≠ 3 ∧ (sTrk 1 Trk.init).blk.trkState u ≠ 0)) ∧
    ((sTrk 2 ({ Trk.init with pages := [page1] })).blk.alive = true ∧ (sTrk 2 ({ Trk.init with pages := [page1] })).blk.shuttle = false ∧
      (sTrk 2 ({ Trk.init with pages := [page1] })).blk.trkState 3 = 2 ∧
      (sTrk 2 ({ Trk.init with pages := [page1] })).blk.currentPage 3 = some page1 ∧
      (sTrk 2 ({ Trk.init with pages := [page1] })).blk.lineIndex 3 < page1.endLine) ∧
    ((sTrk 2 ({ Trk.init with pages := [page1] })).blk.alive = true ∧ (sTrk 2 ({ Trk.init with pages := [page1] })).blk.shuttle = false ∧
      (sTrk 2 ({ Trk.init with pages := [page1] })).blk.trkState 3 = 2) ∧
    ((sTrk 2 ({ Trk.init with abortWait := true })).blk.alive = true ∧ (sTrk 2 ({ Trk.init with abortWait := true })).blk.shuttle = false ∧
      ((sTrk 2 ({ Trk.init with abortWait := true })).blk.trk 3).abortWait = true ∧
      ((sTrk 2 ({ Trk.init with abortWait := true })).blk.trk 3).pages = [] ∧
      ((sTrk 2 ({ Trk.init with abortWait := true })).blk.trk 3).old = [] ∧ (∃ u < 4, u ≠ 3 ∧
      (sTrk 2 ({ Trk.init with abortWait := true })).blk.trkState u ≠ 0)) := by
  refine ⟨?_, ?_, ?_, ?_, ?_, ?_⟩ <;> decide +kernel

def sDesc (len : Nat) : State := q (ringAt (live.setF (PGE_TRK_STATUS_STATE 3) 1) 3 [0, len, 0, 0, 0, 0, 0, 9])

def pageEnd : Page := { page1 with lastAt := some 0 }

def sEnd : State := q (live.setTrk 3 { Trk.init with pages := [pageEnd] })

def sOld : State := q ((((live.setF (RING_CFG_EN 4) 1).setF (RING_CFG_SIZE_LOG2 4) 4).setVal (RING_BASE 4) 4096 2).setTrk 3 { Trk.init with old := [page1] })

theorem witness_PagesAndReleases :
    ((sDesc 0).blk.alive = true ∧ (sDesc 0).blk.shuttle = false ∧ (sDesc 0).blk.descDue 3 = true ∧ (sDesc 0).blk.tpFor 3 = none ∧
      (sDesc 0).blk.mirrored 3 = none ∧ (sDesc 0).blk.mayTake 3 = true ∧ (sDesc 0).blk.twnState = 0 ∧ ((sDesc 0).blk.trk 3).follow = none ∧
      ((sDesc 0).blk.ringFront 3).getD 1 0 % 2 ^ 24 = 0) ∧
    ((sDesc 5).blk.alive = true ∧ (sDesc 5).blk.shuttle = false ∧ (sDesc 5).blk.descDue 3 = true ∧ (sDesc 5).blk.tpFor 3 = none ∧
      (sDesc 5).blk.mirrored 3 = none ∧ (sDesc 5).blk.mayTake 3 = true ∧ (sDesc 5).blk.twnState = 0 ∧ ((sDesc 5).blk.trk 3).follow = none ∧
      ((sDesc 5).blk.ringFront 3).getD 1 0 % 2 ^ 24 ≠ 0 ∧ (sDesc 5).blk.f (PGE_TRK_CFG_START_MODE 3) = 0) ∧
    (sEnd.blk.alive = true ∧ sEnd.blk.shuttle = false ∧ (sEnd.blk.trk 3).all = [pageEnd] ∧ pageEnd.doneRaised = false ∧
      pageEnd.lastAt = some (0 : Int) ∧
      (0 : Int) + (1000 : Int) * (↑(sEnd.blk.f LCK_FIRE_DELAY_NS) : Int) ≤ (4000 : Int) * (↑(max sEnd.blk.now 250) : Int)) ∧
    (sOld.blk.alive = true ∧ sOld.blk.shuttle = false ∧ List.find? Page.open (sOld.blk.trk 3).all = some page1 ∧
      ((sOld.blk.trk 3).old.contains page1 = true ∨ page1.aborted = true) ∧ sOld.blk.ringFull 4 = false ∧
      sOld.blk.ringAddr 4 (sOld.blk.rn (RING_PROD 4)) + 32 ≤ sOld.blk.capacity) ∧
    ((q (live.setTrk 3 ({ Trk.init with old := [page1] }))).blk.alive = true ∧
      (q (live.setTrk 3 ({ Trk.init with old := [page1] }))).blk.shuttle = false ∧
      List.find? Page.open ((q (live.setTrk 3 ({ Trk.init with old := [page1] }))).blk.trk 3).all = some page1 ∧
      (((q (live.setTrk 3 ({ Trk.init with old := [page1] }))).blk.trk 3).old.contains page1 = true ∨ page1.aborted = true) ∧
      (q (live.setTrk 3 ({ Trk.init with old := [page1] }))).blk.ringFull 4 = true ∧ page1.stalled = false) := by
  refine ⟨?_, ?_, ?_, ?_, ?_⟩ <;> decide +kernel

def bBuf (gen : Nat) : Blk :=
  (List.range 8).foldl (fun c i => c.wn (bdAddr 7 i) ([gen * 4096 + 2048, 4096, 0, 4096, 0, 200, 50, 10].getD i 0)) (live.setF (PGE_TRK_STATUS_STATE 3) 2)

def pageBuf : Page := (bBuf 3).newPage [65536, 30, 0, 7 + 3 * 4096, 0, 0, 0, 5] 1 0 0 none

def layer0 : Layer := { slot := 0, bd := 0, gen := 0, desc := [], live := false, stopped := false, endLine := none, chunks := [], badC := [], offs := [], refs := [], err := false }

def layerBuf : Layer := pageBuf.layers.headD layer0

def sBuf (gen : Nat) : State := q ((bBuf gen).setTrk 3 { Trk.init with pages := [pageBuf] })

def sGather : State := q { sRun.blk with cmp := { live.cmp with gathered := [(7, 4)] } }

theorem witness_FetchAndGather :
    ((sBuf 3).blk.alive = true ∧ ((sBuf 3).blk.trkState 3 = 1 ∨ (sBuf 3).blk.trkState 3 = 2) ∧ (sBuf 3).blk.settleTrack 3 = (sBuf 3).blk ∧
      List.findSome? (fun p ↦ if (p.aborted || p.bounded && (sBuf 3).blk.shuttle) = true then none else Option.map (fun i ↦ (p, i)) ((sBuf 3).blk.nextFetch p)) ((sBuf 3).blk.trk 3).pages = some (pageBuf, 0) ∧
      (sBuf 3).blk.fetchDue 3 pageBuf 0 = true ∧
      List.findSome? (fun l ↦ match (sBuf 3).blk.want l ((sBuf 3).blk.pageLine pageBuf 0) with | Want.burst b j => some (l, b, j) | x => none) pageBuf.layers = some (layerBuf, 0, 0) ∧
      layerBuf.coded ((sBuf 3).blk.pageLine pageBuf 0) = some 0 ∧ (sBuf 3).blk.gatherFrom 3 pageBuf layerBuf ≤ 0 * (1 + b2n layerBuf.yrep) ∧
      (bits ((sBuf 3).blk.rn (bdAddr layerBuf.bd 0)) 23 12 = layerBuf.gen ∧ bitOf ((sBuf 3).blk.rn (bdAddr layerBuf.bd 0)) 11 = true)) ∧
    ((sBuf 4).blk.alive = true ∧ ((sBuf 4).blk.trkState 3 = 1 ∨ (sBuf 4).blk.trkState 3 = 2) ∧ (sBuf 4).blk.settleTrack 3 = (sBuf 4).blk ∧
      List.findSome? (fun p ↦ if (p.aborted || p.bounded && (sBuf 4).blk.shuttle) = true then none else Option.map (fun i ↦ (p, i)) ((sBuf 4).blk.nextFetch p)) ((sBuf 4).blk.trk 3).pages = some (pageBuf, 0) ∧
      (sBuf 4).blk.fetchDue 3 pageBuf 0 = true ∧
      List.findSome? (fun l ↦ match (sBuf 4).blk.want l ((sBuf 4).blk.pageLine pageBuf 0) with | Want.burst b j => some (l, b, j) | x => none) pageBuf.layers = some (layerBuf, 0, 0) ∧
      layerBuf.coded ((sBuf 4).blk.pageLine pageBuf 0) = some 0 ∧ (sBuf 4).blk.gatherFrom 3 pageBuf layerBuf ≤ 0 * (1 + b2n layerBuf.yrep) ∧
      (¬(bits ((sBuf 4).blk.rn (bdAddr layerBuf.bd 0)) 23 12 = layerBuf.gen ∧ bitOf ((sBuf 4).blk.rn (bdAddr layerBuf.bd 0)) 11 = true))) ∧
    (sRun.blk.alive = true ∧ sRun.blk.running = true ∧ sRun.blk.gathered 7 + 1 ≤ sRun.blk.composedTo + 4 ∧
      (∀ q ∈ sRun.blk.parts (sRun.blk.gathered 7 + 1) 7, q.2.wait = false)) ∧
    (sGather.blk.alive = true ∧ sGather.blk.running = true ∧ sGather.blk.gathered 7 + 1 ≤ sGather.blk.composedTo + 4 ∧
      sGather.blk.parts (sGather.blk.gathered 7 + 1) 7 = [] ∧ sGather.blk.composedTo < sGather.blk.gathered 7 + 1) := by
  refine ⟨?_, ?_, ?_, ?_⟩ <;> decide +kernel

def bSht : Blk := { (((live.setF SHT_CFG_EN 1).setF LCK_STATUS_RUNNING 1).setF SHT_STATUS_STATE 2) with sht := { live.sht with below := true } }

def sSht : State := q ((bSht.setF SHT_STATUS_FEED_DONE 1).setSval SHT_ORIGIN 3 72 (bSht.passM * 65536))

def sShtLate : State := q ((bSht.setF SHT_STATUS_FEED_DONE 0).setSval SHT_ORIGIN 3 72 (bSht.passM * 65536))

def sFeed : State := q { bSht with sht := { live.sht with feeding := true, path := 256 } }

theorem witness_ShuttlePasses :
    (sSht.blk.alive = true ∧ sSht.blk.shuttle = true ∧ sSht.blk.running = true ∧ sSht.blk.lckHold = false ∧ sSht.blk.sht.below = true ∧
      0 ≤ sSht.blk.now ∧ (sSht.blk.masterRev == sSht.blk.passDirRev) = true ∧ sSht.blk.armM ≤ sSht.blk.passM ∧ sSht.blk.shtState = 2 ∧
      sSht.blk.fb SHT_STATUS_FEED_DONE = true) ∧
    (sShtLate.blk.alive = true ∧ sShtLate.blk.shuttle = true ∧ sShtLate.blk.running = true ∧ sShtLate.blk.lckHold = false ∧
      sShtLate.blk.sht.below = true ∧ 0 ≤ sShtLate.blk.now ∧ (sShtLate.blk.masterRev == sShtLate.blk.passDirRev) = true ∧
      sShtLate.blk.armM ≤ sShtLate.blk.passM ∧ sShtLate.blk.shtState = 2 ∧ sShtLate.blk.fb SHT_STATUS_FEED_DONE = false) ∧
    (sFeed.blk.alive = true ∧ sFeed.blk.shuttle = true ∧ sFeed.blk.sht.feeding = true ∧
      atLeast1 (sFeed.blk.rn SHT_FEED_SPAN) * 256 ≤ sFeed.blk.sht.path ∧
      sFeed.blk.axPos sFeed.blk.feedAxis = sFeed.blk.sht.feedFrom + sFeed.blk.sht.feedSteps ∧ sFeed.blk.axState sFeed.blk.feedAxis ≠ 5) := by
  refine ⟨?_, ?_, ?_⟩ <;> decide +kernel

def sDram : State := q ((((((live.wn PGE_LAT_TOL 0).setF DRM_REF_CFG_CRIT_US 1).setF DRM_STATUS_CRITICAL 1).setF DRM_REF_CFG_POSTPONE_MAX 1).setF DRM_CFG_PATROL 1).setF DRM_CFG_ECC 1)

theorem witness_ImageMemoryUpkeep :
    (sDram.blk.alive = true ∧ sDram.blk.rn PGE_LAT_TOL < sDram.blk.f DRM_REF_CFG_CRIT_US ∧ sDram.blk.fb DRM_STATUS_CRITICAL = true ∧
      sDram.blk.dram.sr = false ∧ sDram.blk.owed 7 < min 8 (sDram.blk.f DRM_REF_CFG_POSTPONE_MAX)) ∧
    sDram.blk.alive = true ∧
    (sDram.blk.alive = true ∧ sDram.blk.dram.windowAt + 250000 * atLeast1 (sDram.blk.f DRM_RD_CFG_WINDOW) ≤ max sDram.blk.now 250000) ∧
    (sDram.blk.alive = true ∧ sDram.blk.fb DRM_CFG_PATROL = true ∧ 64 * (sDram.blk.capacity / 64 - 1) < sDram.blk.capacity ∧
      sDram.blk.fb DRM_CFG_ECC = true ∧
      (sDram.blk.f DRM_RD_CFG_THRESH = 0 ∨ (trackRow (alook [] sDram.blk.dram.rows (bankKey (sDram.blk.place (64 * (sDram.blk.capacity / 64 - 1))))) (sDram.blk.place (64 * (sDram.blk.capacity / 64 - 1))).2.2.2).2 < sDram.blk.f DRM_RD_CFG_THRESH)) := by
  refine ⟨?_, ?_, ?_, ?_⟩ <;> decide +kernel

def sPower (sr : Bool) (tol : Nat) : State :=
  q { (((live.setF DRM_PWR_CFG_PD_EN 1).setF DRM_PWR_CFG_SR_EN 1).wn PGE_LAT_TOL tol) with now := 100000000, dram := { live.dram with sr := sr } }

def sWake : State := q ((sPower true 0).blk.setF DRM_PWR_CFG_SR_MARGIN 1)

theorem witness_ImageMemoryPower :
    ((sPower false 1).blk.alive = true ∧ 0 ≤ (sPower false 1).blk.now ∧ (sPower false 1).blk.fb DRM_PWR_CFG_PD_EN = true ∧
      (sPower false 1).blk.dram.sr = false ∧ 1 ≤ (sPower false 1).blk.rn PGE_LAT_TOL ∧
      atLeast1 ((sPower false 1).blk.f DRM_PWR_CFG_IDLE_PD) * (sPower false 1).blk.memClk ≤ ((sPower false 1).blk.now - (sPower false 1).blk.lastReq 7) * 4000) ∧
    ((sPower false 16777215).blk.alive = true ∧ 0 ≤ (sPower false 16777215).blk.now ∧ (sPower false 16777215).blk.fb DRM_PWR_CFG_SR_EN = true ∧
      (sPower false 16777215).blk.dram.sr = false ∧ (sPower false 16777215).blk.srAllowed = true ∧
      (∀ c < 8, atLeast1 ((sPower false 16777215).blk.f DRM_PWR_CFG_IDLE_SR) * 250 ≤ (sPower false 16777215).blk.now - (sPower false 16777215).blk.lastReq c)) ∧
    (sWake.blk.alive = true ∧ 0 ≤ sWake.blk.now ∧ sWake.blk.dram.sr = true ∧ sWake.blk.srAllowed = false) := by
  refine ⟨?_, ?_, ?_⟩ <;> decide +kernel

def sFc (valid : Nat) : State := q { live.wn (DRM_TSET0 3) (valid * 2 ^ 23 + 2 ^ 19) with dram := { live.dram with fc := some 3 } }

theorem witness_FrequencyChanges :
    ((sFc 1).blk.alive = true ∧ bitOf ((7 : Word).toNat) 2 = true ∧ bitOf ((7 : Word).toNat) 3 = false ∧
      bitOf ((sFc 1).blk.rn (DRM_TSET0 ((7 : Word).toNat % 4))) 23 = true) ∧
    ((sFc 0).blk.alive = true ∧ bitOf ((7 : Word).toNat) 2 = true ∧ bitOf ((7 : Word).toNat) 3 = false ∧
      bitOf ((sFc 0).blk.rn (DRM_TSET0 ((7 : Word).toNat % 4))) 23 = false) ∧
    ((sFc 1).blk.alive = true ∧ (sFc 1).blk.dram.fc = some 3 ∧ bitOf ((sFc 1).blk.rn (DRM_TSET0 3)) 19 = true ∧ (sFc 1).blk.allIdle = true) ∧
    ((sFc 1).blk.alive = true ∧ (sFc 1).blk.dram.trackAt + 250000 * atLeast1 ((sFc 1).blk.f DRM_CFG_TRACK_MS) ≤ max (sFc 1).blk.now 250000) := by
  refine ⟨?_, ?_, ?_, ?_⟩ <;> decide +kernel

def bHead (st : Nat) : Blk := (live.setF (HLK_PORT_STATUS_STATE 31) st).setF (LAN_STATUS_STATE 31) 2

def sHead (st : Nat) : State := q (bHead st)

def tEcho : Nat := 250000 * max 1 ((bHead 4).f HLK_CFG_ECHO_INT)

def tIdle : Nat := (bHead 4).claimWin

theorem witness_HeadTimers :
    ((sHead 2).blk.alive = true ∧ (sHead 2).blk.portState 31 = 2 ∧ ((sHead 2).blk.port 31).askAt + 250000 ≤ 250000 ∧
      ((sHead 2).blk.port 31).idents < 8 ∧ ((sHead 2).blk.advance 250000).otherMay 31 = true) ∧
    ((sHead 3).blk.alive = true ∧ ((sHead 3).blk.advance 25000).otherMay 31 = true ∧ (∀ (m : Mbx), (sHead 3).blk.mbx = some m → m.out = none) ∧
      ((sHead 3).blk.portState 31 = 3 ∧ ((sHead 3).blk.port 31).askAt + 25000 ≤ 25000 ∨ (sHead 3).blk.portState 31 = 4 ∧
      ((sHead 3).blk.port 31).askAt + 250000 * max 1 ((sHead 3).blk.f HLK_CFG_ECHO_INT) ≤ 25000)) ∧
    ((sHead 4).blk.alive = true ∧ ((sHead 4).blk.advance tEcho).otherMay 31 = true ∧ (∀ (m : Mbx), (sHead 4).blk.mbx = some m → m.out = none) ∧
      ((sHead 4).blk.portState 31 = 3 ∧ ((sHead 4).blk.port 31).askAt + 25000 ≤ tEcho ∨ (sHead 4).blk.portState 31 = 4 ∧
      ((sHead 4).blk.port 31).askAt + 250000 * max 1 ((sHead 4).blk.f HLK_CFG_ECHO_INT) ≤ tEcho)) ∧
    ((sHead 4).blk.alive = true ∧ ((sHead 4).blk.advance tIdle).otherMay 31 = true ∧ (∀ (m : Mbx), (sHead 4).blk.mbx = some m → m.out = none) ∧
      (sHead 4).blk.portState 31 ≠ 0 ∧
      ((sHead 4).blk.port 31).frameAt * 16 + ((sHead 4).blk.advance tIdle).claimWin * 10 ≤ max (sHead 4).blk.now tIdle * 16) := by
  refine ⟨?_, ?_, ?_, ?_⟩ <;> decide +kernel

def upFrame (typ : Nat) (payload : List Byte) : List Byte :=
  let bs := toBE typ 1 ++ [128, 0, 0, 0, 0, 0, 0] ++ payload
  bs ++ toBE (crc32 bs) 4

def caps (rows : Nat) : List Byte :=
  upFrame 0x42 ([1, 2, 3, 4, 1, 0] ++ toBE rows 1 ++ [0] ++ toBE ((bHead 2).npr 31) 2 ++ List.replicate 14 0)

def echo : List Byte := upFrame 0x43 [9, 0, 0, 0, 0, 0, 0, 0]

def sEcho (st : Nat) (n : Nat) : State := q ((bHead st).setPort 31 { Port.init with tag := 9, samples := List.replicate n 0 })

theorem witness_HeadAnswers :
    ((sHead 2).blk.alive = true ∧ upOk (caps 1) = true ∧ upType (caps 1) = 66 ∧ (sHead 2).blk.portState 31 = 2 ∧
      BitVec.toNat ((upPayload (caps 1)).getD 6 (0 : Byte)) = (sHead 2).blk.rows 31 ∧
      beNat (slice (upPayload (caps 1)) 8 2) = (sHead 2).blk.npr 31 ∧ (upPayload (caps 1)).getD 4 (0 : Byte) = (1 : Byte) ∧
      (sHead 2).blk.otherMay 31 = true) ∧
    ((sHead 2).blk.alive = true ∧ upOk (caps 2) = true ∧ upType (caps 2) = 66 ∧ (sHead 2).blk.portState 31 = 2 ∧
      BitVec.toNat ((upPayload (caps 2)).getD 6 (0 : Byte)) ≠ (sHead 2).blk.rows 31 ∧ (upPayload (caps 2)).getD 4 (0 : Byte) = (1 : Byte)) ∧
    ((sEcho 3 15).blk.alive = true ∧ upOk echo = true ∧ upType echo = 67 ∧
      BitVec.toNat ((upPayload echo).headD (0 : Byte)) = ((sEcho 3 15).blk.port 31).tag ∧ (sEcho 3 15).blk.portState 31 = 3 ∧
      ((sEcho 3 15).blk.port 31).samples.length = 15) ∧
    ((sEcho 4 0).blk.alive = true ∧ upOk echo = true ∧ upType echo = 67 ∧
      BitVec.toNat ((upPayload echo).headD (0 : Byte)) = ((sEcho 4 0).blk.port 31).tag ∧ (sEcho 4 0).blk.portState 31 = 4 ∧
      (((↑4000 : Int) - (↑(beNat (slice (upPayload echo) 4 4)) : Int)).tdiv (2 : Int) - (↑((sEcho 4 0).blk.rn (HLK_PORT_LATENCY 31)) : Int)).natAbs ≤ 2000) ∧
    ((sEcho 4 0).blk.alive = true ∧ upOk echo = true ∧ upType echo = 67 ∧
      BitVec.toNat ((upPayload echo).headD (0 : Byte)) = ((sEcho 4 0).blk.port 31).tag ∧ (sEcho 4 0).blk.portState 31 = 4 ∧
      2000 < (((↑4002 : Int) - (↑(beNat (slice (upPayload echo) 4 4)) : Int)).tdiv (2 : Int) - (↑((sEcho 4 0).blk.rn (HLK_PORT_LATENCY 31)) : Int)).natAbs) := by
  refine ⟨?_, ?_, ?_, ?_, ?_⟩ <;> decide +kernel

def wGo : Word := 0x08301f

def sBusyPort : State := q ((bHead 4).setPort 31 { Port.init with frame := some ⟨2, 0, 1, []⟩ })

def mbxOut : Mbx := ⟨31, 1, true, 0, some (6, [0, 0, 1, 0])⟩

def sMbxOut : State := q { ((bHead 4).setF HLK_MBX_CTRL_BUSY 1) with mbx := some mbxOut }

def mbx64 : Mbx := ⟨31, 64, true, 0, none⟩

def sMbx : State := q { ((bHead 4).setF HLK_MBX_CTRL_BUSY 1) with mbx := some mbx64 }

def heReply : List Byte := upFrame 0x44 ([0, 0, 0, 63, 0, 0, 0, 0] ++ List.replicate 192 7)

def line1 : PortLine := { fire := 1, port := 31, rung := 1, codes := [3], under := false, whole := [], frac := [0] }

def trig1 (tps : Int) : Trig := { fire := 1, lines := [], pos := 0, local16 := 0, cRaw := 0, tps := tps, clk := 0, skipped := false }

def bLine : Blk := { (bHead 4) with cmp := { live.cmp with lines := [line1] }, lck := { live.lck with trigs := [trig1 1000000000] } }

def dLine : Int := (bLine.depart 31 1).getD 0

def bFire : Blk := { ((bHead 4).setPort 31 { Port.init with lines := [(1, false)] }) with lck := { live.lck with trigs := [trig1 0] }, now := 10000000 }

def sFire : State := q bFire

def dFire : Int × Nat := bFire.departAt 31 (1000 * (bFire.f LCK_FIRE_DELAY_NS : Int))

theorem witness_LinesAndFire :
    ((q bLine).blk.alive = true ∧ 0 ≤ (q bLine).blk.now ∧ (q bLine).blk.inService 31 = true ∧
      (∀ (m : Mbx), (q bLine).blk.mbx = some m → m.out = none) ∧ (q bLine).blk.portFree 31 = true ∧ (q bLine).blk.wokenIdle 31 = true ∧
      (q bLine).blk.portLine 31 (((q bLine).blk.port 31).lastLine + 1) = some line1 ∧ (q bLine).blk.skippedLine line1.fire = false ∧
      (line1.fire ≤ 3 ∨ (q bLine).blk.departed 31 (line1.fire - 3) = true) ∧ (q bLine).blk.held? 31 line1.fire = false ∧
      (q bLine).blk.fb (HLK_PORT_CFG_BLANK_EN 31) = false ∧ line1.wholes = [] ∧ (q bLine).blk.depart 31 line1.fire = some dLine ∧
      (q bLine).blk.nowPs + (↑((q bLine).blk.framePs 31 (20 + (q bLine).blk.lineLen 31 line1.rung)) : Int) ≤ dLine) ∧
    (sFire.blk.alive = true ∧ 0 ≤ sFire.blk.now ∧ sFire.blk.inService 31 = true ∧ (∀ (m : Mbx), sFire.blk.mbx = some m → m.out = none) ∧
      sFire.blk.fb TWN_HEALTH_CLOCK = false ∧ sFire.blk.trig ((sFire.blk.port 31).lastFire + 1) = some (trig1 (0 : Int)) ∧
      (trig1 (0 : Int)).skipped = false ∧
      sFire.blk.departAt 31 ((trig1 (0 : Int)).tps + (1000 : Int) * (↑(sFire.blk.f LCK_FIRE_DELAY_NS) : Int)) = (dFire.1, dFire.2) ∧
      dFire.1 ≤ sFire.blk.nowPs ∧
      ((4000 : Int) * (↑(trig1 (0 : Int)).clk : Int) + (↑(symPs (sFire.blk.laneRate 31)) : Int) - (1 : Int)) / (↑(symPs (sFire.blk.laneRate 31)) : Int) * (↑(symPs (sFire.blk.laneRate 31)) : Int) ≤ dFire.1 ∧
      (sFire.blk.port 31).frame = none ∧ sFire.blk.held? 31 ((sFire.blk.port 31).lastFire + 1) = false ∧
      List.find? (fun l ↦ l.1 == (sFire.blk.port 31).lastFire + 1) (sFire.blk.port 31).lines = some ((sFire.blk.port 31).lastFire + 1, false)) := by
  refine ⟨?_, ?_⟩ <;> decide +kernel

def hot : List Byte := upFrame 0x41 (toBE ((bHead 4).f (HLK_THERM_LIMIT_LIMIT 31)) 2 ++ List.replicate 10 0)

def tStatus : Nat := 2500 * max 1 ((bHead 4).f HLK_CFG_STATUS_TO)

def sWarm : State := q (((bHead 4).setF (HLK_PORT_STATUS_THERM_WARN 31) 1).setPort 31 { Port.init with ownWarn := true })

theorem witness_ThermalSupervision :
    ((sHead 4).blk.alive = true ∧ (sHead 4).blk.twnState = 0 ∧ upOk hot = true ∧ upType hot = 65 ∧ (sHead 4).blk.portState 31 = 4 ∧
      ((sHead 4).blk.port 31).ownHold = false ∧ (sHead 4).blk.fb (HLK_PORT_STATUS_THERM_HOLD 31) = false ∧
      (sHead 4).blk.sf (HLK_THERM_LIMIT_LIMIT 31) ≤ satS 12 (sext 16 (beNat (slice (upPayload hot) 0 2)))) ∧
    ((sHead 4).blk.alive = true ∧ (sHead 4).blk.twnState = 0 ∧ (sHead 4).blk.portState 31 = 4 ∧ ((sHead 4).blk.port 31).silent = false ∧
      (sHead 4).blk.underTest 10 = false ∧ (sHead 4).blk.fb (LAN_STATUS_RX_SLEEP 31) = false ∧
      ((sHead 4).blk.port 31).lastStatus + 2500 * max 1 ((sHead 4).blk.f HLK_CFG_STATUS_TO) ≤ tStatus ∧ ((sHead 4).blk.port 31).ownHold = false ∧
      (sHead 4).blk.fb (HLK_PORT_STATUS_THERM_HOLD 31) = false) ∧
    (sWarm.blk.alive = true ∧ sWarm.blk.twnState = 0 ∧ bits ((0 : Word).toNat) 9 8 = 0 ∧ (sWarm.blk.port 31).ownWarn = true ∧
      sWarm.blk.fb (HLK_PORT_STATUS_THERM_WARN 31) = true) ∧
    (sWarm.blk.alive = true ∧ sWarm.blk.twnState = 0 ∧ bits ((768 : Word).toNat) 9 8 ≠ 0) := by
  refine ⟨?_, ?_, ?_, ?_⟩ <;> decide +kernel

theorem witness_MailboxAndPortCommands :
    ((sHead 4).blk.alive = true ∧ bitOf (BitVec.toNat wGo) 19 = true ∧ (sHead 4).blk.fb HLK_MBX_CTRL_BUSY = false ∧
      (sHead 4).blk.portState (bits (BitVec.toNat wGo) 4 0) = 4 ∧ ((sHead 4).blk.advance 0).otherMay (bits (BitVec.toNat wGo) 4 0) = true) ∧
    (sBusyPort.blk.alive = true ∧ bitOf (BitVec.toNat wGo) 19 = true ∧ sBusyPort.blk.fb HLK_MBX_CTRL_BUSY = false ∧
      sBusyPort.blk.portState (bits (BitVec.toNat wGo) 4 0) = 4 ∧ (sBusyPort.blk.advance 0).otherMay (bits (BitVec.toNat wGo) 4 0) = false) ∧
    ((sHead 3).blk.alive = true ∧ bitOf (BitVec.toNat wGo) 19 = true ∧ (sHead 3).blk.fb HLK_MBX_CTRL_BUSY = false ∧
      (sHead 3).blk.portState (bits (BitVec.toNat wGo) 4 0) ≠ 4) ∧
    (sMbxOut.blk.alive = true ∧ sMbxOut.blk.mbx = some mbxOut ∧ mbxOut.out = some (6, [(0 : Byte), (0 : Byte), (1 : Byte), (0 : Byte)]) ∧
      mbxOut.port = 31 ∧ sMbxOut.blk.portState 31 = 4 ∧ (sMbxOut.blk.advance 0).otherMay 31 = true) ∧
    (sMbx.blk.alive = true ∧ sMbx.blk.mbx = some mbx64 ∧ mbx64.port = 31 ∧ mbx64.count ≤ 64 ∧ upOk heReply = true ∧ upType heReply = 68) ∧
    (sMbx.blk.alive = true ∧ sMbx.blk.mbx = some mbx64 ∧ mbx64.port < 32 ∧ mbx64.start + 250000 ≤ 250000) ∧
    ((sHead 4).blk.alive = true ∧ (sHead 4).blk.portState 31 ≠ 0) ∧
    (sHead 4).blk.alive = true := by
  refine ⟨?_, ?_, ?_, ?_, ?_, ?_, ?_, ?_⟩ <;> decide +kernel

def sCam (st : Nat) : State := q (live.setF (INS_CAM_STATUS_STATE 3) st)

def tHb : Nat := 25000 * max 1 (live.f (INS_CAM_TIMING_HB_TO 3))

def bCam : Blk := ((((sCam 2).blk.setF LCK_STATUS_RUNNING 1).wn (POS_INTERVAL 0) 500).setEnc 0 { Enc.init with valid := true, edge := some 0 }).setCam 3 { Cam.init with cmp := some 0 }

def sCamTrig : State := q bCam

def sCamLine : State := q (((sCam 2).blk.wn (INS_CAM_WIDTH 3) 4).setCam 3 { Cam.init with outst := some (7, 0, 5) })

def tLine : Nat := 25 * live.f (INS_CAM_TIMING_MIN_LAT 3)

theorem witness_CamerasAndLines :
    ((sCam 1).blk.alive = true ∧ (sCam 1).blk.ins.regs = [] ∧ (sCam 1).blk.ins.tp = none ∧ (sCam 1).blk.camState 3 = 1) ∧
    ((sCam 2).blk.alive = true ∧ (sCam 2).blk.ins.regs = [] ∧ (sCam 2).blk.ins.tp = none ∧ (sCam 2).blk.camState 3 = 2 ∧
      ((sCam 2).blk.cam 3).outst = none ∧
      (true = true ∨ ((sCam 2).blk.cam 3).lastHeard + 25000 * max 1 ((sCam 2).blk.f (INS_CAM_TIMING_HB_TO 3)) ≤ max (sCam 2).blk.now 0)) ∧
    ((sCam 2).blk.alive = true ∧ (sCam 2).blk.ins.regs = [] ∧ (sCam 2).blk.ins.tp = none ∧ (sCam 2).blk.camState 3 = 2 ∧
      ((sCam 2).blk.cam 3).outst = none ∧
      (false = true ∨ ((sCam 2).blk.cam 3).lastHeard + 25000 * max 1 ((sCam 2).blk.f (INS_CAM_TIMING_HB_TO 3)) ≤ max (sCam 2).blk.now tHb)) ∧
    (sCamTrig.blk.alive = true ∧ sCamTrig.blk.ins.regs = [] ∧ sCamTrig.blk.ins.tp = none ∧ (sCamTrig.blk.cam 3).cmp = some (0 : Int) ∧
      sCamTrig.blk.camState 3 = 2 ∧ sCamTrig.blk.shuttle = false ∧ sCamTrig.blk.running = true ∧ sCamTrig.blk.lckHold = false ∧
      0 ≤ sCamTrig.blk.now ∧ sCamTrig.blk.lineDelta ≠ none ∧
      q256 (0 : Int) ≤ sCamTrig.blk.lineP + (↑(leadOf (sCamTrig.blk.f (INS_CAM_LEAD_NS 3)) sCamTrig.blk.lineDelta) : Int) ∧
      (sCamTrig.blk.cam 3).outst = none) ∧
    (sCamLine.blk.alive = true ∧ sCamLine.blk.ins.regs = [] ∧ sCamLine.blk.ins.tp = none ∧ (sCamLine.blk.cam 3).outst = some (7, 0, (5 : Int)) ∧
      sCamLine.blk.camState 3 = 2 ∧ sCamLine.blk.underTest 11 = false ∧
      0 + 25 * sCamLine.blk.f (INS_CAM_TIMING_MIN_LAT 3) ≤ max sCamLine.blk.now tLine ∧
      [(1 : Byte), (2 : Byte), (3 : Byte), (4 : Byte)].length = (if sCamLine.blk.f (INS_CAM_CFG_FORMAT 3) = 0 then 1 else 3) * sCamLine.blk.camWidth 3 ∧
      (sCamLine.blk.cam 3).queue.length < 2) ∧
    (sCamLine.blk.alive = true ∧ sCamLine.blk.ins.regs = [] ∧ sCamLine.blk.ins.tp = none ∧ (sCamLine.blk.cam 3).outst = some (7, 0, (5 : Int)) ∧
      sCamLine.blk.camState 3 = 2 ∧ sCamLine.blk.underTest 11 = false ∧
      0 + 25 * sCamLine.blk.f (INS_CAM_TIMING_MIN_LAT 3) ≤ max sCamLine.blk.now tLine ∧
      [(1 : Byte), (2 : Byte), (3 : Byte), (4 : Byte), (5 : Byte)].length ≠ (if sCamLine.blk.f (INS_CAM_CFG_FORMAT 3) = 0 then 1 else 3) * sCamLine.blk.camWidth 3) := by
  refine ⟨?_, ?_, ?_, ?_, ?_, ?_⟩ <;> decide +kernel

def bScore : Blk :=
  (((((((live.wn (INS_CAM_SCALE 3) 65536).setF (CMP_HEAD_CFG_NPR_M1 1) 1).wn INS_EXP_CFG 0).setF INS_MISS_CFG_MIN_EXP 1).setF INS_SCORE_CFG_DECLARE 255).setF
    INS_SCORE_CFG_INC 4).wn (INS_CODE_COV 0) 0xc8c8c8).setCam 3 { Cam.init with queue := [(0, 0, [3, 4])] }

def rec1 : ExpRec := { fire := 0, skipped := false, pages := [none, none, none, none], blank := 0, under := 0 }

def sMissed : State := q (bScore.setCam 3 { Cam.init with queue := [(1, 0, [3, 4])] })

def sScore (t : Nat) : State := q ((((bScore.setF (CMP_HEAD_CFG_EN 1) 1).setF INS_MISS_CFG_MISS_T t).putLine 11 (bScore.expSlot 3 0 + 1536) [0, 2]).putRec 3 rec1)

def pix1 : Pix := ⟨1, 200, 200, 4⟩

def sChevron (sh : Nat) : State := q (((sCam 2).blk.setF SHT_CFG_EN sh).setF ALN_TP_CFG_PATTERN 2)

def run1 (at0 : Option (Nat × Nat)) : TpRun := ⟨0, 9, at0, 8, [], [], []⟩

def sTp (at0 : Option (Nat × Nat)) : State := q { live with ins := { live.ins with tp := some (run1 at0) } }

theorem witness_ScoresAndTestPages :
    (sMissed.blk.alive = true ∧ sMissed.blk.ins.regs = [] ∧ sMissed.blk.ins.tp = none ∧ sMissed.blk.ins.due = [] ∧
      (sMissed.blk.cam 3).queue = [(1, (0 : Int), [3, 4])] ∧ (sMissed.blk.cam 3).mark = none ∧ (sMissed.blk.expRec 3 1).fire ≠ 1) ∧
    ((sScore 0).blk.alive = true ∧ (sScore 0).blk.ins.regs = [] ∧ (sScore 0).blk.ins.tp = none ∧ (sScore 0).blk.ins.due = [] ∧
      ((sScore 0).blk.cam 3).queue = [(0, (0 : Int), [3, 4])] ∧ ((sScore 0).blk.cam 3).mark = none ∧ ((sScore 0).blk.expRec 3 0).fire = 0 ∧
      (sScore 0).blk.inkSlots 3 ((sScore 0).blk.expRec 3 0) = [(4097, (1 : Int), 2)] ∧
      bitOf ((sScore 0).blk.expRec 3 0).blank (4097 / 4096 : Nat) = false ∧
      (sScore 0).blk.massMiss ((sScore 0).blk.correlate 3 [(4097, (1 : Int), 2)] [3, 4]) = false ∧
      List.find? (fun p ↦ p.x == (1 : Int)) ((sScore 0).blk.correlate 3 [(4097, (1 : Int), 2)] [3, 4]) = some pix1 ∧
      (sScore 0).blk.f INS_MISS_CFG_MIN_EXP ≤ pix1.e ∧ (↑((sScore 0).blk.f INS_MISS_CFG_MISS_T) : Int) ≤ pix1.dd ∧
      min 255 ((sScore 0).blk.score 4097 % 256 + (sScore 0).blk.f INS_SCORE_CFG_INC) < (sScore 0).blk.declareAt) ∧
    ((sScore 255).blk.alive = true ∧ (sScore 255).blk.ins.regs = [] ∧ (sScore 255).blk.ins.tp = none ∧ (sScore 255).blk.ins.due = [] ∧
      ((sScore 255).blk.cam 3).queue = [(0, (0 : Int), [3, 4])] ∧ ((sScore 255).blk.cam 3).mark = none ∧ ((sScore 255).blk.expRec 3 0).fire = 0 ∧
      (sScore 255).blk.inkSlots 3 ((sScore 255).blk.expRec 3 0) = [(4097, (1 : Int), 2)] ∧
      bitOf ((sScore 255).blk.expRec 3 0).blank (4097 / 4096 : Nat) = false ∧
      (sScore 255).blk.massMiss ((sScore 255).blk.correlate 3 [(4097, (1 : Int), 2)] [3, 4]) = false ∧
      List.find? (fun p ↦ p.x == (1 : Int)) ((sScore 255).blk.correlate 3 [(4097, (1 : Int), 2)] [3, 4]) = some pix1 ∧
      (sScore 255).blk.f INS_MISS_CFG_MIN_EXP ≤ pix1.e ∧ pix1.dd < (↑((sScore 255).blk.f INS_MISS_CFG_MISS_T) : Int)) ∧
    ((sCam 2).blk.alive = true ∧ (sCam 2).blk.ins.tp = none ∧ (sCam 2).blk.shuttle = false ∧ (∃ c < 4, (sCam 2).blk.camState c = 2) ∧
      (tpPattern ((sCam 2).blk.rn ALN_TP_CFG) = 2 → 1 < (sCam 2).blk.maxRows)) ∧
    ((sChevron 1).blk.alive = true ∧ (sChevron 1).blk.ins.tp = none ∧ (1 = 1 ∧ (sChevron 1).blk.shuttle = true ∨ (1 = 2 ∧
      (sChevron 1).blk.shuttle = false ∧ ∀ c < 4, (sChevron 1).blk.camState c ≠ 2) ∨ 1 = 3 ∧ (sChevron 1).blk.shuttle = false ∧
      (∃ c < 4, (sChevron 1).blk.camState c = 2) ∧ tpPattern ((sChevron 1).blk.rn ALN_TP_CFG) = 2 ∧ (sChevron 1).blk.maxRows ≤ 1)) ∧
    (sLive.blk.alive = true ∧ sLive.blk.ins.tp = none ∧ (2 = 1 ∧ sLive.blk.shuttle = true ∨ (2 = 2 ∧ sLive.blk.shuttle = false ∧
      ∀ c < 4, sLive.blk.camState c ≠ 2) ∨ 2 = 3 ∧ sLive.blk.shuttle = false ∧ (∃ c < 4, sLive.blk.camState c = 2) ∧
      tpPattern (sLive.blk.rn ALN_TP_CFG) = 2 ∧ sLive.blk.maxRows ≤ 1)) ∧
    ((sChevron 0).blk.alive = true ∧ (sChevron 0).blk.ins.tp = none ∧ (3 = 1 ∧ (sChevron 0).blk.shuttle = true ∨ (3 = 2 ∧
      (sChevron 0).blk.shuttle = false ∧ ∀ c < 4, (sChevron 0).blk.camState c ≠ 2) ∨ 3 = 3 ∧ (sChevron 0).blk.shuttle = false ∧
      (∃ c < 4, (sChevron 0).blk.camState c = 2) ∧ tpPattern ((sChevron 0).blk.rn ALN_TP_CFG) = 2 ∧ (sChevron 0).blk.maxRows ≤ 1)) ∧
    ((sTp (some (5, 5))).blk.alive = true ∧ (sTp (some (5, 5))).blk.ins.tp = some (run1 (some (5, 5))) ∧ (run1 (some (5, 5))).started ≠ none) ∧
    ((sTp none).blk.alive = true ∧ (sTp none).blk.ins.tp = some (run1 none) ∧ (run1 none).started = none) := by
  refine ⟨?_, ?_, ?_, ?_, ?_, ?_, ?_, ?_, ?_⟩ <;> decide +kernel

def sAx (st : Nat) (x : Ax) : State := q ((live.setF (AXS_STATUS_STATE 5) st).setAx 5 x)

def sAxGear : State := q ((sAx 1 Ax.init).blk.setF (AXS_CFG_MODE 5) 1)

theorem witness_AxisCommands :
    ((sAx 0 Ax.init).blk.alive = true ∧ (∀ x ∈ (sAx 0 Ax.init).blk.held, x.addr ≠ AXS_STATUS 5) ∧ (sAx 0 Ax.init).blk.axState 5 = 0) ∧
    ((sAx 1 Ax.init).blk.alive = true ∧ (∀ x ∈ (sAx 1 Ax.init).blk.held, x.addr ≠ AXS_STATUS 5) ∧ (sAx 1 Ax.init).blk.axState 5 ≠ 0) ∧
    ((sAx 1 Ax.init).blk.alive = true ∧ (sAx 1 Ax.init).blk.axState 5 = 1 ∧ (sAx 1 Ax.init).blk.axGear 5 = false ∧
      (sAx 1 Ax.init).blk.outsideSoft 5 ((sAx 1 Ax.init).blk.sval (AXS_TARGET 5) 2 48) = false ∧
      (sAx 1 Ax.init).blk.towardLimit 5 ((sAx 1 Ax.init).blk.axPos 5) ((sAx 1 Ax.init).blk.sval (AXS_TARGET 5) 2 48) = false) ∧
    (sAxGear.blk.alive = true ∧ sAxGear.blk.axState 5 = 1 ∧ sAxGear.blk.axGear 5 = true ∧ sAxGear.blk.limitAhead 5 true = false ∧
      sAxGear.blk.limitAhead 5 false = false) ∧
    ((sAx 2 Ax.init).blk.alive = true ∧ ((sAx 2 Ax.init).blk.axState 5 = 2 ∨ (sAx 2 Ax.init).blk.axState 5 = 4)) ∧
    ((sAx 4 Ax.init).blk.alive = true ∧ ((sAx 4 Ax.init).blk.axState 5 = 2 ∨ (sAx 4 Ax.init).blk.axState 5 = 4)) ∧
    ((sAx 1 Ax.init).blk.alive = true ∧ (sAx 1 Ax.init).blk.axState 5 = 1 ∧ (sAx 1 Ax.init).blk.axGear 5 = false) ∧
    ((sAx 1 Ax.init).blk.alive = true ∧ (sAx 1 Ax.init).blk.axState 5 = 1) ∧
    ((sAx 5 Ax.init).blk.alive = true ∧ (sAx 5 Ax.init).blk.axState 5 = 5) := by
  refine ⟨?_, ?_, ?_, ?_, ?_, ?_, ?_, ?_, ?_⟩ <;> decide +kernel

theorem witness_AxisRefusals :
    ((sAx 1 Ax.init).blk.alive = true ∧ (Instr.axisEnable (5 : Fin 6) = Instr.axisEnable (5 : Fin 6) ∧
      (sAx 1 Ax.init).blk.axState 5 ≠ 0 ∨ Instr.axisEnable (5 : Fin 6) = Instr.axisDisable (5 : Fin 6) ∧
      (sAx 1 Ax.init).blk.axState 5 = 0 ∨ Instr.axisEnable (5 : Fin 6) = Instr.axisGo (5 : Fin 6) ∧ (sAx 1 Ax.init).blk.axState 5 ≠ 1 ∧
      (sAx 1 Ax.init).blk.axState 5 ≠ 2 ∨ (Instr.axisEnable (5 : Fin 6) = Instr.axisStop (5 : Fin 6) ∨ Instr.axisEnable (5 : Fin 6) = Instr.axisEstop (5 : Fin 6)) ∧
      (sAx 1 Ax.init).blk.axState 5 ≠ 2 ∧ (sAx 1 Ax.init).blk.axState 5 ≠ 3 ∧
      (sAx 1 Ax.init).blk.axState 5 ≠ 4 ∨ Instr.axisEnable (5 : Fin 6) = Instr.axisHome (5 : Fin 6) ∧
      ((sAx 1 Ax.init).blk.axState 5 ≠ 1 ∨ (sAx 1 Ax.init).blk.axGear 5 = true) ∨ Instr.axisEnable (5 : Fin 6) = Instr.axisPreset (5 : Fin 6) ∧
      (sAx 1 Ax.init).blk.axState 5 ≠ 1 ∨ Instr.axisEnable (5 : Fin 6) = Instr.axisClear (5 : Fin 6) ∧ (sAx 1 Ax.init).blk.axState 5 ≠ 5)) ∧
    ((sAx 0 Ax.init).blk.alive = true ∧ (Instr.axisDisable (5 : Fin 6) = Instr.axisEnable (5 : Fin 6) ∧
      (sAx 0 Ax.init).blk.axState 5 ≠ 0 ∨ Instr.axisDisable (5 : Fin 6) = Instr.axisDisable (5 : Fin 6) ∧
      (sAx 0 Ax.init).blk.axState 5 = 0 ∨ Instr.axisDisable (5 : Fin 6) = Instr.axisGo (5 : Fin 6) ∧ (sAx 0 Ax.init).blk.axState 5 ≠ 1 ∧
      (sAx 0 Ax.init).blk.axState 5 ≠ 2 ∨ (Instr.axisDisable (5 : Fin 6) = Instr.axisStop (5 : Fin 6) ∨ Instr.axisDisable (5 : Fin 6) = Instr.axisEstop (5 : Fin 6)) ∧
      (sAx 0 Ax.init).blk.axState 5 ≠ 2 ∧ (sAx 0 Ax.init).blk.axState 5 ≠ 3 ∧
      (sAx 0 Ax.init).blk.axState 5 ≠ 4 ∨ Instr.axisDisable (5 : Fin 6) = Instr.axisHome (5 : Fin 6) ∧
      ((sAx 0 Ax.init).blk.axState 5 ≠ 1 ∨ (sAx 0 Ax.init).blk.axGear 5 = true) ∨ Instr.axisDisable (5 : Fin 6) = Instr.axisPreset (5 : Fin 6) ∧
      (sAx 0 Ax.init).blk.axState 5 ≠ 1 ∨ Instr.axisDisable (5 : Fin 6) = Instr.axisClear (5 : Fin 6) ∧ (sAx 0 Ax.init).blk.axState 5 ≠ 5)) ∧
    ((sAx 3 Ax.init).blk.alive = true ∧ (Instr.axisGo (5 : Fin 6) = Instr.axisEnable (5 : Fin 6) ∧
      (sAx 3 Ax.init).blk.axState 5 ≠ 0 ∨ Instr.axisGo (5 : Fin 6) = Instr.axisDisable (5 : Fin 6) ∧
      (sAx 3 Ax.init).blk.axState 5 = 0 ∨ Instr.axisGo (5 : Fin 6) = Instr.axisGo (5 : Fin 6) ∧ (sAx 3 Ax.init).blk.axState 5 ≠ 1 ∧
      (sAx 3 Ax.init).blk.axState 5 ≠ 2 ∨ (Instr.axisGo (5 : Fin 6) = Instr.axisStop (5 : Fin 6) ∨ Instr.axisGo (5 : Fin 6) = Instr.axisEstop (5 : Fin 6)) ∧
      (sAx 3 Ax.init).blk.axState 5 ≠ 2 ∧ (sAx 3 Ax.init).blk.axState 5 ≠ 3 ∧
      (sAx 3 Ax.init).blk.axState 5 ≠ 4 ∨ Instr.axisGo (5 : Fin 6) = Instr.axisHome (5 : Fin 6) ∧
      ((sAx 3 Ax.init).blk.axState 5 ≠ 1 ∨ (sAx 3 Ax.init).blk.axGear 5 = true) ∨ Instr.axisGo (5 : Fin 6) = Instr.axisPreset (5 : Fin 6) ∧
      (sAx 3 Ax.init).blk.axState 5 ≠ 1 ∨ Instr.axisGo (5 : Fin 6) = Instr.axisClear (5 : Fin 6) ∧ (sAx 3 Ax.init).blk.axState 5 ≠ 5)) ∧
    ((sAx 5 Ax.init).blk.alive = true ∧ (Instr.axisEstop (5 : Fin 6) = Instr.axisEnable (5 : Fin 6) ∧
      (sAx 5 Ax.init).blk.axState 5 ≠ 0 ∨ Instr.axisEstop (5 : Fin 6) = Instr.axisDisable (5 : Fin 6) ∧
      (sAx 5 Ax.init).blk.axState 5 = 0 ∨ Instr.axisEstop (5 : Fin 6) = Instr.axisGo (5 : Fin 6) ∧ (sAx 5 Ax.init).blk.axState 5 ≠ 1 ∧
      (sAx 5 Ax.init).blk.axState 5 ≠ 2 ∨ (Instr.axisEstop (5 : Fin 6) = Instr.axisStop (5 : Fin 6) ∨ Instr.axisEstop (5 : Fin 6) = Instr.axisEstop (5 : Fin 6)) ∧
      (sAx 5 Ax.init).blk.axState 5 ≠ 2 ∧ (sAx 5 Ax.init).blk.axState 5 ≠ 3 ∧
      (sAx 5 Ax.init).blk.axState 5 ≠ 4 ∨ Instr.axisEstop (5 : Fin 6) = Instr.axisHome (5 : Fin 6) ∧
      ((sAx 5 Ax.init).blk.axState 5 ≠ 1 ∨ (sAx 5 Ax.init).blk.axGear 5 = true) ∨ Instr.axisEstop (5 : Fin 6) = Instr.axisPreset (5 : Fin 6) ∧
      (sAx 5 Ax.init).blk.axState 5 ≠ 1 ∨ Instr.axisEstop (5 : Fin 6) = Instr.axisClear (5 : Fin 6) ∧ (sAx 5 Ax.init).blk.axState 5 ≠ 5)) ∧
    (sAxGear.blk.alive = true ∧ (Instr.axisHome (5 : Fin 6) = Instr.axisEnable (5 : Fin 6) ∧
      sAxGear.blk.axState 5 ≠ 0 ∨ Instr.axisHome (5 : Fin 6) = Instr.axisDisable (5 : Fin 6) ∧
      sAxGear.blk.axState 5 = 0 ∨ Instr.axisHome (5 : Fin 6) = Instr.axisGo (5 : Fin 6) ∧ sAxGear.blk.axState 5 ≠ 1 ∧
      sAxGear.blk.axState 5 ≠ 2 ∨ (Instr.axisHome (5 : Fin 6) = Instr.axisStop (5 : Fin 6) ∨ Instr.axisHome (5 : Fin 6) = Instr.axisEstop (5 : Fin 6)) ∧
      sAxGear.blk.axState 5 ≠ 2 ∧ sAxGear.blk.axState 5 ≠ 3 ∧
      sAxGear.blk.axState 5 ≠ 4 ∨ Instr.axisHome (5 : Fin 6) = Instr.axisHome (5 : Fin 6) ∧
      (sAxGear.blk.axState 5 ≠ 1 ∨ sAxGear.blk.axGear 5 = true) ∨ Instr.axisHome (5 : Fin 6) = Instr.axisPreset (5 : Fin 6) ∧
      sAxGear.blk.axState 5 ≠ 1 ∨ Instr.axisHome (5 : Fin 6) = Instr.axisClear (5 : Fin 6) ∧ sAxGear.blk.axState 5 ≠ 5)) ∧
    ((sAx 4 Ax.init).blk.alive = true ∧ (Instr.axisClear (5 : Fin 6) = Instr.axisEnable (5 : Fin 6) ∧
      (sAx 4 Ax.init).blk.axState 5 ≠ 0 ∨ Instr.axisClear (5 : Fin 6) = Instr.axisDisable (5 : Fin 6) ∧
      (sAx 4 Ax.init).blk.axState 5 = 0 ∨ Instr.axisClear (5 : Fin 6) = Instr.axisGo (5 : Fin 6) ∧ (sAx 4 Ax.init).blk.axState 5 ≠ 1 ∧
      (sAx 4 Ax.init).blk.axState 5 ≠ 2 ∨ (Instr.axisClear (5 : Fin 6) = Instr.axisStop (5 : Fin 6) ∨ Instr.axisClear (5 : Fin 6) = Instr.axisEstop (5 : Fin 6)) ∧
      (sAx 4 Ax.init).blk.axState 5 ≠ 2 ∧ (sAx 4 Ax.init).blk.axState 5 ≠ 3 ∧
      (sAx 4 Ax.init).blk.axState 5 ≠ 4 ∨ Instr.axisClear (5 : Fin 6) = Instr.axisHome (5 : Fin 6) ∧
      ((sAx 4 Ax.init).blk.axState 5 ≠ 1 ∨ (sAx 4 Ax.init).blk.axGear 5 = true) ∨ Instr.axisClear (5 : Fin 6) = Instr.axisPreset (5 : Fin 6) ∧
      (sAx 4 Ax.init).blk.axState 5 ≠ 1 ∨ Instr.axisClear (5 : Fin 6) = Instr.axisClear (5 : Fin 6) ∧ (sAx 4 Ax.init).blk.axState 5 ≠ 5)) := by
  refine ⟨?_, ?_, ?_, ?_, ?_, ?_⟩ <;> decide +kernel

def axThere : Ax := { Ax.init with goal := some 0 }

def gear1 : Gear := ⟨0, 1, 0, ⟨1, 1⟩, none, 0, none, false⟩

def sGeared : State := q { (sAx 4 { Ax.init with gear := some gear1 }).blk with now := 250 }

def sSw : State := sAx 0 { Ax.init with sw := [⟨false, 0⟩, ⟨false, 0⟩, ⟨false, 0⟩] }

def nSw : Nat := max 1 (sSw.blk.f (AXS_SW_CFG_SW_N 5))

def axHome (p : Nat) : Ax := { Ax.init with phase := p, hFrom := 256 }

def sLost : State := q ((sAx 3 (axHome 2)).blk.wn (AXS_HOME_MAX 5) 1)

def bStall : Blk := (((((sAx 2 { Ax.init with p0 := 5000000 }).blk.setF (AXS_CFG_ENC_EN 5) 1).setF (AXS_STALL_CFG_CONSEC 5) 1).wn (AXS_ENC_NUM 5) 1).wn (AXS_ENC_DEN 5) 1)

def sStall : State := q { (bStall.setF (PGE_TRK_STATUS_STATE 3) 2) with now := 100000000 }

def gear2 : Gear := ⟨0, 1, -256, ⟨1, 1⟩, some ⟨2, 1⟩, 1, none, true⟩

theorem witness_AxisMotion :
    ((sAx 2 axThere).blk.alive = true ∧ (sAx 2 axThere).blk.axState 5 = 2 ∧ ((sAx 2 axThere).blk.ax 5).goal = some (0 : Int) ∧
      (sAx 2 axThere).blk.axPos 5 = (0 : Int) ∧ ((sAx 2 axThere).blk.ax 5).v = (0 : Int) ∧ ((sAx 2 axThere).blk.ax 5).rem = (0 : Int) ∧
      ((sAx 2 axThere).blk.ax 5).final = none ∧ ((sAx 2 axThere).blk.ax 5).tick < max (sAx 2 axThere).blk.now 250 / 250) ∧
    (sGeared.blk.alive = true ∧ sGeared.blk.axState 5 = 4 ∧ (sGeared.blk.ax 5).gear = some gear1 ∧ 0 ≤ sGeared.blk.now ∧
      -(2 : Int) ^ 47 ≤ sGeared.blk.gearCmd 5 gear1 ∧ sGeared.blk.gearCmd 5 gear1 < (2 : Int) ^ 47 ∧
      (sGeared.blk.ax 5).tick < sGeared.blk.now / 250 ∧ (gear1.r1 = none ∨ sGeared.blk.srcPos 5 - gear1.pSw < (↑(gear1.ramp * 256) : Int)) ∧
      sGeared.blk.limitAhead 5 true = false ∧ sGeared.blk.limitAhead 5 false = false ∧
      (↑((sGeared.blk.gearFrac 5 gear1).1 * ustep / (↑(sGeared.blk.gearFrac 5 gear1).2 : Int) - (sGeared.blk.axAt 5 + (chase (sGeared.blk.axLim 5) (sGeared.blk.axAt 5) (sGeared.blk.ax 5).v (sGeared.blk.ax 5).a ((sGeared.blk.gearFrac 5 gear1).1 * ustep / (↑(sGeared.blk.gearFrac 5 gear1).2 : Int)) (sGeared.blk.gearVel 5 gear1)).1)).natAbs : Int) ≤ ustep) ∧
    (sSw.blk.alive = true ∧ sSw.blk.axState 5 = 0 ∧ (false == sSw.blk.fb (AXS_SW_CFG_POL_HOME 5)) = !sSw.blk.fb (AXS_STATUS_HOME_ACT 5) ∧
      max 1 (sSw.blk.f (AXS_SW_CFG_SW_N 5)) ≤ ((sSw.blk.ax 5).sw.getD 0 { out := false, run := 0 }).run + nSw) ∧
    ((sAx 3 (axHome 4)).blk.alive = true ∧ (sAx 3 (axHome 4)).blk.axState 5 = 3 ∧ ((sAx 3 (axHome 4)).blk.ax 5).phase = 4) ∧
    (sLost.blk.alive = true ∧ sLost.blk.axState 5 = 3 ∧ (sLost.blk.ax 5).phase = 2 ∧ sLost.blk.rn (AXS_HOME_MAX 5) ≠ 0 ∧
      sLost.blk.rn (AXS_HOME_MAX 5) * 256 ≤ (sLost.blk.axPos 5 - (sLost.blk.ax 5).hFrom).natAbs) ∧
    (sStall.blk.alive = true ∧ sStall.blk.stallOn 5 = true ∧ sStall.blk.f (AXS_STALL_CFG_CONSEC 5) = 1 ∧ sStall.blk.shuttle = false ∧
      sStall.blk.allIdle = false ∧ 100000000 ≤ sStall.blk.now ∧
      (sStall.blk.ax 5).lastCheck + 2500 * max 1 (sStall.blk.f (AXS_STALL_CFG_CHECK_INT 5)) ≤ 100000000 ∧
      sStall.blk.f (AXS_STALL_CFG_WINDOW 5) < (sStall.blk.stallDev 5).natAbs) ∧
    ((sAx 1 Ax.init).blk.alive = true ∧ (sAx 1 Ax.init).blk.axState 5 ≠ 4) ∧
    ((sAx 4 ({ Ax.init with gear := some gear2 })).blk.alive = true ∧ (sAx 4 ({ Ax.init with gear := some gear2 })).blk.axState 5 = 4 ∧
      ((sAx 4 ({ Ax.init with gear := some gear2 })).blk.ax 5).gear = some gear2 ∧ gear2.r1 = some { n := (2 : Int), d := 1 } ∧
      gear2.defer = none ∧ (↑gear2.ramp : Int) * (256 : Int) ≤ (sAx 4 ({ Ax.init with gear := some gear2 })).blk.srcPos 5 - gear2.pSw) := by
  refine ⟨?_, ?_, ?_, ?_, ?_, ?_, ?_, ?_⟩ <;> decide +kernel

def sCoil (c : Coil) : State := sAx 1 { Ax.init with coils := [Coil.init, c] }

def coil1 (st : Nat) : Coil := { Coil.init with st := st }

def tBlank : Nat := 10 * max 1 (live.f (AXS_CHOP_CFG_T_BLANK 5))

def sFast : State := q ((sCoil (coil1 2)).blk.setF (AXS_CHOP_CFG_DECAY 5) 2)

def tFast : Nat := 10 * live.f (AXS_CHOP_CFG_FAST_T 5)

def tOff : Nat := 10 * live.f (AXS_CHOP_CFG_T_OFF 5)

def sZero : State := q ((sCoil (coil1 3)).blk.setF (AXS_CURRENT_RUN 5) 1023)

def sOfs : State := q ((sCoil { (coil1 1) with t := 600 }).blk.setF (AXS_CHOP_CFG_OFS_EN 5) 1)

def accOfs : Int := max (-(63 * 2 ^ sOfs.blk.f (AXS_CHOP_CFG_OFS_K 5))) (min (63 * 2 ^ sOfs.blk.f (AXS_CHOP_CFG_OFS_K 5)) (1023 - 600))

theorem witness_Choppers :
    ((sCoil (coil1 0)).blk.alive = true ∧ (sCoil (coil1 0)).blk.chopOn 5 = true ∧ ((sCoil (coil1 0)).blk.coil 5 1).st = 0 ∧
      ((sCoil (coil1 0)).blk.coil 5 1).start + 10 * max 1 ((sCoil (coil1 0)).blk.f (AXS_CHOP_CFG_T_BLANK 5)) ≤ tBlank) ∧
    ((sCoil (coil1 1)).blk.alive = true ∧ (sCoil (coil1 1)).blk.chopOn 5 = true ∧ ((sCoil (coil1 1)).blk.coil 5 1).st = 1 ∧
      ((sCoil (coil1 1)).blk.coil 5 1).tHi ≤ BitVec.toNat (0 : BitVec 10)) ∧
    (sFast.blk.alive = true ∧ sFast.blk.chopOn 5 = true ∧ (sFast.blk.coil 5 1).st = 2 ∧ sFast.blk.f (AXS_CHOP_CFG_DECAY 5) = 2 ∧
      (sFast.blk.coil 5 1).fast = true ∧ (sFast.blk.coil 5 1).decayAt + 10 * sFast.blk.f (AXS_CHOP_CFG_FAST_T 5) ≤ tFast) ∧
    ((sCoil (coil1 2)).blk.alive = true ∧ (sCoil (coil1 2)).blk.chopOn 5 = true ∧ (sCoil (coil1 2)).blk.held = [] ∧
      (sCoil (coil1 2)).blk.trm.held = [] ∧ ((sCoil (coil1 2)).blk.coil 5 1).st = 2 ∧
      ((sCoil (coil1 2)).blk.coil 5 1).decayAt + 10 * (sCoil (coil1 2)).blk.f (AXS_CHOP_CFG_T_OFF 5) ≤ tOff ∧
      BitVec.toNat (0 : BitVec 10) ≤ ((sCoil (coil1 2)).blk.coil 5 1).tLo) ∧
    (sZero.blk.alive = true ∧ sZero.blk.chopOn 5 = true ∧ sZero.blk.held = [] ∧ sZero.blk.trm.held = [] ∧ (sZero.blk.coil 5 1).st = 3 ∧
      sZero.blk.coilTarget 5 1 ≠ (0 : Int) ∧
      BitVec.toNat (0 : BitVec 10) ≤ max (sZero.blk.coil 5 1).tLo (sZero.blk.f (AXS_CURRENT_HYST 5) / 2)) ∧
    ((sCoil (coil1 1)).blk.alive = true ∧ (sCoil (coil1 1)).blk.chopOn 5 = true ∧ ((sCoil (coil1 1)).blk.coil 5 1).st ≠ 3 ∧
      ((sCoil (coil1 1)).blk.coil 5 1).due ≤ max (sCoil (coil1 1)).blk.now 0 ∧
      max (sCoil (coil1 1)).blk.now 0 ≤ ((sCoil (coil1 1)).blk.coil 5 1).due + 100 ∧
      (∀ a : Nat, ((sCoil (coil1 1)).blk.coil 5 1).adcAt = some a → a < ((sCoil (coil1 1)).blk.coil 5 1).start) ∧
      ((sCoil (coil1 1)).blk.advance 0).adcFree (2 * 5 + 1) = true ∧ (sCoil (coil1 1)).blk.fb (AXS_CHOP_CFG_OFS_EN 5) = false) ∧
    (sOfs.blk.alive = true ∧ sOfs.blk.chopOn 5 = true ∧ (sOfs.blk.coil 5 1).st ≠ 3 ∧ (sOfs.blk.coil 5 1).due ≤ max sOfs.blk.now 0 ∧
      max sOfs.blk.now 0 ≤ (sOfs.blk.coil 5 1).due + 100 ∧ (∀ a : Nat, (sOfs.blk.coil 5 1).adcAt = some a → a < (sOfs.blk.coil 5 1).start) ∧
      (sOfs.blk.advance 0).adcFree (2 * 5 + 1) = true ∧ sOfs.blk.fb (AXS_CHOP_CFG_OFS_EN 5) = true ∧
      sOfs.blk.f (AXS_CURRENT_OFS_MIN 5) * 16 ≤ (sOfs.blk.coil 5 1).t.natAbs ∧ (sOfs.blk.ax 5).coils.length = 2 ∧
      accOfs = max (-((63 : Int) * (2 : Int) ^ sOfs.blk.f (AXS_CHOP_CFG_OFS_K 5))) (min ((63 : Int) * (2 : Int) ^ sOfs.blk.f (AXS_CHOP_CFG_OFS_K 5)) ((sOfs.blk.coil 5 1).acc + ((↑(BitVec.toNat (1023 : BitVec 10)) : Int) - (↑(sOfs.blk.coil 5 1).t.natAbs : Int))))) := by
  refine ⟨?_, ?_, ?_, ?_, ?_, ?_, ?_⟩ <;> decide +kernel

def bTwn (st : Nat) : Blk := (live.setF (PGE_TRK_STATUS_STATE 3) 2).setF TWN_STATUS_STATE st

def sTwn (st : Nat) : State := q (bTwn st)

def sUnseen : State := q ((bTwn 3).setF TWN_STATUS_CLAIM_IN 0)

def sSeen (st : Nat) : State := q ((bTwn st).setF TWN_STATUS_CLAIM_IN 1)

def tArb : Nat := 2 * live.tHb

def bHeard : Blk := { ((bTwn 2).setF TWN_STATUS_PARTNER_UP 1).wn TWN_PARTNER_HEALTH (2 ^ 23) with twn := { live.twn with ptState := 3, portsAt := [(31, 0)] } }

def sPorts : State := q (((bHeard.setF TWN_CFG_PORT_DIAG 1).setF TWN_CFG_PORT_LIM 1).setVal TWN_PARTNER_READY 0x80000000 2)

def tPorts : Nat := live.tHb

theorem witness_TwinRoles :
    ((sTwn 0).blk.alive = true ∧ (sTwn 0).blk.allIdle = false ∧ (sTwn 0).blk.sys.boot = none ∧ (sTwn 0).blk.twnState = 0 ∧
      (sTwn 0).blk.fb TWN_STATUS_CLAIM_IN = !false ∧ 0 < 1 ∧ (sTwn 0).blk.twn.claimRun + 1 < 16) ∧
    ((sTwn 0).blk.alive = true ∧ (sTwn 0).blk.allIdle = false ∧ (sTwn 0).blk.sys.boot = none ∧ (sTwn 0).blk.twnState = 0 ∧
      (sTwn 0).blk.fb TWN_STATUS_CLAIM_IN = !false ∧ 0 < 16 ∧ 16 ≤ (sTwn 0).blk.twn.claimRun + 16) ∧
    (sUnseen.blk.alive = true ∧ sUnseen.blk.allIdle = false ∧ sUnseen.blk.sys.boot = none ∧ sUnseen.blk.twnState = 3 ∧ sUnseen.blk.fit = true ∧
      sUnseen.blk.fb TWN_HEALTH_CLAIM_LINE_FAULT = false ∧ sUnseen.blk.fb TWN_HEALTH_CLAIM_HELD = false ∧
      sUnseen.blk.fb TWN_STATUS_CLAIM_IN = false ∧ 16 ≤ sUnseen.blk.twn.claimRun + 16 ∧ 0 < 16) ∧
    ((sSeen 1).blk.alive = true ∧ (sSeen 1).blk.allIdle = false ∧ (sSeen 1).blk.sys.boot = none ∧ (sSeen 1).blk.twnState = 1 ∧
      (sSeen 1).blk.fit = true ∧ (sSeen 1).blk.fb TWN_HEALTH_CLAIM_LINE_FAULT = false ∧ (sSeen 1).blk.fb TWN_HEALTH_CLAIM_HELD = false ∧
      (sSeen 1).blk.fb TWN_STATUS_CLAIM_IN = true ∧ (sSeen 1).blk.twn.arbAt + 2 * (sSeen 1).blk.tHb ≤ max (sSeen 1).blk.now tArb) ∧
    ((sSeen 4).blk.alive = true ∧ (sSeen 4).blk.allIdle = false ∧ (sSeen 4).blk.sys.boot = none ∧ (sSeen 4).blk.twnState = 4 ∧
      (sSeen 4).blk.fit = true ∧ (sSeen 4).blk.fb TWN_HEALTH_CLAIM_LINE_FAULT = false ∧ (sSeen 4).blk.fb TWN_HEALTH_CLAIM_HELD = false ∧
      (sSeen 4).blk.fb TWN_STATUS_CLAIM_IN = true) ∧
    ((sTwn 2).blk.alive = true ∧ (sTwn 2).blk.allIdle = false ∧ (sTwn 2).blk.sys.boot = none ∧ (sTwn 2).blk.twnState = 2 ∧
      (sTwn 2).blk.fb TWN_HEALTH_SUPERVISOR = false) ∧
    ((sTwn 2).blk.alive = true ∧ (sTwn 2).blk.allIdle = false ∧ (sTwn 2).blk.sys.boot = none ∧ (sTwn 2).blk.twnState = 2 ∧
      (sTwn 2).blk.fb TWN_HEALTH_FORCED = false) ∧
    (sPorts.blk.alive = true ∧ sPorts.blk.allIdle = false ∧ sPorts.blk.sys.boot = none ∧ sPorts.blk.twnState = 2 ∧
      (sPorts.blk.advance tPorts).portsOut = true ∧ sPorts.blk.fb TWN_HEALTH_PORTS = false) ∧
    ((q bHeard).blk.alive = true ∧ (q bHeard).blk.allIdle = false ∧ (q bHeard).blk.sys.boot = none ∧ (q bHeard).blk.twnState = 2 ∧
      (q bHeard).blk.heard = true ∧ (q bHeard).blk.twn.ptState = 3 ∧ bitOf ((q bHeard).blk.rn TWN_PARTNER_HEALTH) 23 = true) ∧
    ((sTwn 2).blk.alive = true ∧ (sTwn 2).blk.allIdle = false ∧ (sTwn 2).blk.sys.boot = none ∧ (sTwn 2).blk.heard = false) := by
  refine ⟨?_, ?_, ?_, ?_, ?_, ?_, ?_, ?_, ?_, ?_⟩ <;> decide +kernel

def sUpLink : State := q ((([36, 37, 38, 39].foldl (fun b n => b.setF (LAN_STATUS_STATE n) 2) (bTwn 3)).setF (WAL_LINK_STATUS_UP 2) 1).wn WAL_ID 0x123 |>.setLink 2
  { Link.init with sent := 255, freed := 300, ptFreed := 255 })

def words (l : List Nat) : List Word := l.map (BitVec.ofNat 24)

def heartbeat : List Word := words [0x100000, 1, 2, 3, 0, 0, 0, 0]

def half : List Word := words [0x400000, 1, 2, 3, 4, 5, 6, 7]

def agree : List Word := words [0x300000, 1, 2, 3, 4, 5, 0, 0]

def shadow (crc : Nat) : List Word := words [0x200000, 1, 0, crc, 0, 0, 0, 0]

def sShadow : State := q { (bTwn 2).setF TWN_STATUS_SHADOW_ON 1 with twn := { live.twn with own := [(1, 9)] } }

def snap10 : List Word := words [0x50000a, 0, 0, 0, 0, 0, 0, 0]

def nozcopy : List Word := words [0x600000, 131066, 1, 2, 3, 4, 5, 6]

def sResync : State := q ((bTwn 4).setF TWN_STATUS_RESYNC_STEP 3)

theorem witness_PairingMessages :
    (sUpLink.blk.alive = true ∧ sUpLink.blk.twnState = 3 ∧ sUpLink.blk.twn.sentAt + 2000 ≤ max sUpLink.blk.now 2000 ∧
      sUpLink.blk.fb (WAL_LINK_STATUS_UP 2) = true ∧ sUpLink.blk.chipId ≠ 0 ∧ (sUpLink.blk.advance 2000).linkAwake 2 = true ∧
      (sUpLink.blk.link 2).queue = [] ∧ (sUpLink.blk.link 2).credits ≠ 0) ∧
    ((sTwn 3).blk.alive = true ∧ (sTwn 3).blk.twnState ≠ 0 ∧ (wordsOf heartbeat).length = 8 ∧ kindOf (wordsOf heartbeat) = 1) ∧
    ((sTwn 2).blk.alive = true ∧ (sTwn 2).blk.twnState = 2 ∧ (sTwn 2).blk.twn.hbAt + (sTwn 2).blk.tHb ≤ max (sTwn 2).blk.now live.tHb) ∧
    ((q ((bTwn 3).setF TWN_STATUS_PARTNER_UP 1)).blk.alive = true ∧ (q ((bTwn 3).setF TWN_STATUS_PARTNER_UP 1)).blk.mirrors = true ∧
      kindOf (wordsOf half) = 4 ∧ wd (wordsOf half) 0 % 4 = 0) ∧
    ((sTwn 3).blk.alive = true ∧ (sTwn 3).blk.twnState ≠ 0 ∧ kindOf (wordsOf agree) = 3) ∧
    (sShadow.blk.alive = true ∧ sShadow.blk.twnState = 2 ∧ sShadow.blk.fb TWN_STATUS_SHADOW_ON = true ∧ sShadow.blk.allIdle = false ∧
      kindOf (wordsOf (shadow 9)) = 2 ∧ List.find? (fun e ↦ e.1 == wd2 (wordsOf (shadow 9)) 1) sShadow.blk.twn.own = some (1, 9) ∧
      (1, 9).2 = wd (wordsOf (shadow 9)) 3) ∧
    (sShadow.blk.alive = true ∧ sShadow.blk.twnState = 2 ∧ sShadow.blk.fb TWN_STATUS_SHADOW_ON = true ∧ sShadow.blk.allIdle = false ∧
      kindOf (wordsOf (shadow 8)) = 2 ∧ List.find? (fun e ↦ e.1 == wd2 (wordsOf (shadow 8)) 1) sShadow.blk.twn.own = some (1, 9) ∧
      (1, 9).2 ≠ wd (wordsOf (shadow 8)) 3) ∧
    ((sTwn 2).blk.alive = true ∧ (sTwn 2).blk.twnState = 2 ∧ kindOf (wordsOf snap10) = 5 ∧ wd (wordsOf snap10) 0 % 256 = 10) ∧
    (sResync.blk.alive = true ∧ sResync.blk.twnState = 4 ∧
      (sResync.blk.f TWN_STATUS_RESYNC_STEP = 2 ∨ sResync.blk.f TWN_STATUS_RESYNC_STEP = 3) ∧ kindOf (wordsOf nozcopy) = 6 ∧
      wd (wordsOf nozcopy) 1 + 6 ≤ 131072) := by
  refine ⟨?_, ?_, ?_, ?_, ?_, ?_, ?_, ?_, ?_⟩ <;> decide +kernel

def agr (typ addr : Nat) : Agr := ⟨3, typ, addr, 0x123456, true, 256⟩

def sAgr (a : Agr) : State := q { bTwn 2 with twn := { live.twn with agreed := [a] } }

def sAlone : State := q ((bTwn 0).wn TWN_PW_ADDR 0x080000)

theorem witness_AgreedChanges :
    ((sAgr (agr 0 655359)).blk.alive = true ∧ (sAgr (agr 0 655359)).blk.allIdle = false ∧ (sAgr (agr 0 655359)).blk.twn.agreed = [agr 0 655359] ∧
      (sAgr (agr 0 655359)).blk.agreedDue ((sAgr (agr 0 655359)).blk.fireNum + 3) (agr 0 655359) = true ∧ (agr 0 655359).typ = 0 ∧
      524288 ≤ (agr 0 655359).addr ∧ (agr 0 655359).addr < 655360) ∧
    ((sAgr (agr 2 0)).blk.alive = true ∧ (sAgr (agr 2 0)).blk.allIdle = false ∧ (sAgr (agr 2 0)).blk.twn.agreed = [agr 2 0] ∧
      (sAgr (agr 2 0)).blk.agreedDue ((sAgr (agr 2 0)).blk.fireNum + 3) (agr 2 0) = true ∧ (agr 2 0).typ = 2) ∧
    ((q bHeard).blk.alive = true ∧ (q bHeard).blk.allIdle = false ∧ (q bHeard).blk.fb TWN_PW_STATUS_BUSY = false ∧ (q bHeard).blk.twnState = 2 ∧
      (q bHeard).blk.heard = true ∧ (q bHeard).blk.twn.ptState = 3) ∧
    (sAlone.blk.alive = true ∧ sAlone.blk.allIdle = false ∧ sAlone.blk.fb TWN_PW_STATUS_BUSY = false ∧ sAlone.blk.twnState = 0 ∧
      524288 ≤ sAlone.blk.rn TWN_PW_ADDR ∧ sAlone.blk.rn TWN_PW_ADDR < 655360) := by
  refine ⟨?_, ?_, ?_, ?_⟩ <;> decide +kernel

def bTrig : Blk := ((live.setF LCK_STATUS_RUNNING 1).wn (POS_INTERVAL 0) 500).setEnc 0 { Enc.init with valid := true, edge := some 0 }

def sTrig : State := q (bTrig.setSval LCK_COMPARE 3 72 (bTrig.lineP * 65536))

theorem witness_LineTriggers :
    sTrig.blk.alive = true ∧ sTrig.blk.held = [] ∧ sTrig.blk.twn.agreed = [] ∧ sTrig.blk.shuttle = false ∧ (sTrig.blk.advance 0).trigDue = true := by
  decide +kernel

def sTone : State := q (live.setF (CMP_HEAD_TONE_PENDING 31) 1)

def sThr : State := q (live.setF SCR_STATUS_PENDING 1)

theorem witness_TablesAndSwaps :
    (sLive.blk.alive = true ∧ sLive.blk.agrees = false) ∧
    (sLive.blk.alive = true ∧ sLive.blk.fb (CMP_HEAD_TONE_PENDING 31) = false) ∧
    (sTone.blk.alive = true ∧ sTone.blk.fb (CMP_HEAD_TONE_PENDING 31) = true ∧
      (Instr.toneShadowWrite (31 : Fin 32) (1023 : Fin 1024) (1 : Word) = Instr.toneSwap (31 : Fin 32) ∨ Instr.toneShadowWrite (31 : Fin 32) (1023 : Fin 1024) (1 : Word) = Instr.toneShadowWrite (31 : Fin 32) (1023 : Fin 1024) (1 : Word))) ∧
    (sLive.blk.alive = true ∧ sLive.blk.fb SCR_STATUS_PENDING = false) ∧
    (sThr.blk.alive = true ∧ sThr.blk.fb SCR_STATUS_PENDING = true ∧
      (Instr.thresholdSwap = Instr.thresholdSwap ∨ Instr.thresholdSwap = Instr.thresholdWrite ThrWord.size (1 : Word))) := by
  refine ⟨?_, ?_, ?_, ?_, ?_⟩ <;> decide +kernel

def bRing : Blk := (live.setF (RING_CFG_EN 3) 1).setF (RING_CFG_SIZE_LOG2 3) 4

def sOut : State := q (((live.setF (RING_CFG_EN 5) 1).setF (RING_CFG_SIZE_LOG2 5) 4).wn (RING_PROD 5) 16)

theorem witness_RingIndices :
    (sLive.blk.alive = true ∧ sLive.blk.ringOn 15 = false ∧ bitOf ((8388608 : Word).toNat) 23 = true) ∧
    ((q bRing).blk.alive = true ∧ (q bRing).blk.ringOn 3 = true ∧ bitOf ((4 : Word).toNat) 23 = false) ∧
    ((q bRing).blk.alive = true ∧ (q bRing).blk.swProd 3 = true ∧ (q bRing).blk.twn.wait = [] ∧
      ((16 : Word).toNat + 2 ^ 24 - (q bRing).blk.rn (RING_CONS 3)) % 2 ^ 24 ≤ (q bRing).blk.ringSize 3) ∧
    ((q bRing).blk.alive = true ∧ (q bRing).blk.swProd 3 = true ∧ (q bRing).blk.twn.wait = [] ∧
      (q bRing).blk.ringSize 3 < ((17 : Word).toNat + 2 ^ 24 - (q bRing).blk.rn (RING_CONS 3)) % 2 ^ 24) ∧
    (sOut.blk.alive = true ∧ swCons 5 = true ∧ (sOut.blk.rn (RING_PROD 5) + 2 ^ 24 - (0 : Word).toNat) % 2 ^ 24 ≤ sOut.blk.ringSize 5) ∧
    (sOut.blk.alive = true ∧ swCons 5 = true ∧ sOut.blk.ringSize 5 < (sOut.blk.rn (RING_PROD 5) + 2 ^ 24 - (17 : Word).toNat) % 2 ^ 24) := by
  refine ⟨?_, ?_, ?_, ?_, ?_, ?_⟩ <;> decide +kernel

def sCopy : State := q (live.setF (RING_MCTRL_BUSY.on .spi) 1)

theorem witness_MemoryCopies :
    (sLive.blk.alive = true ∧ sLive.blk.fb (RING_MCTRL_BUSY.on Path.dgm) = false ∧
      sLive.blk.val (onPath Path.dgm RING_MADDR) 2 + min 191 (sLive.blk.f (RING_MCTRL_COUNT_M1.on Path.dgm)) + 1 ≤ sLive.blk.capacity) ∧
    (sCopy.blk.alive = true ∧ sCopy.blk.fb (RING_MCTRL_BUSY.on Path.spi) = true) := by
  refine ⟨?_, ?_⟩ <;> decide +kernel

def bLane (st : Nat) : Blk := (live.setF (PGE_TRK_STATUS_STATE 3) 2).setF (LAN_STATUS_STATE 39) st

def sLane (st : Nat) (x : Lane) : State := q ((bLane st).setLane 39 x)

def gainLine : List Bool := (lightCode false [k28x5, k28x5, k28x5, k28x5]).1

def lockedLane (n rate : Nat) (x : Lane) : State := q (((live.setF (LAN_STATUS_STATE n) 1).setF (LAN_STATUS_LOCK n) 1).setF (LAN_STATUS_RATE n) rate |>.setLane n x)

def sLocked : State := lockedLane 39 0 Lane.init

def frameBytes (typ flags rate : Byte) : List Byte := [typ, flags, 0x03, 0x07, rate] ++ List.replicate 11 3

def frameLine (bs : List Byte) : List Bool := (lightCode false (frameSyms (laneBytes bs))).1

def offer : List Byte := frameBytes 0xF1 0 2

def okFrame : List Byte := frameBytes 0xF0 1 0

def sEighth : State := lockedLane 31 0 { Lane.init with rxOk := true, okRun := 7, mask := 3 }

def ts2 (nx : Byte) : List Byte := frameBytes 0xF1 1 nx

def sTs2 (nx : Nat) : State := lockedLane 31 0 { Lane.init with next := some nx, tsRun := 7, tsNext := nx }

def sOn (st : Nat) : State := q ((bLane st).setF (LAN_CFG_EN 39) 1)

theorem witness_LaneTraining :
    (Rx.init.cnt = 0 ∧ (List.replicate 16 (240 : Byte)).length = 16 ∧ 240 ≤ BitVec.toNat ((List.replicate 16 (240 : Byte)).getD 0 (0 : Byte))) ∧
    (({ Rx.init with gen := some 5 }).cnt = 0 ∧ ({ Rx.init with gen := some 5 }).win = 0 ∧ ({ Rx.init with gen := some 5 }).spoilt = false ∧
      ({ Rx.init with gen := some 5 }).run < 40 ∧ ({ Rx.init with gen := some 5 }).gen = some 5 ∧
      ({ Rx.init with gen := some 5 }).badCount < 16 ∧ (List.replicate 16 (240 : Byte)).length = 16 ∧
      isAlign (payWords (bitsNat (scramble 5 (wordBits (laneWords (List.replicate 16 (240 : Byte))))).1)) = false) ∧
    ((sLane 1 Lane.init).blk.alive = true ∧ (sLane 1 Lane.init).blk.held = [] ∧ (sLane 1 Lane.init).blk.laneState 39 = 1 ∧
      ((sLane 1 Lane.init).blk.lane 39).target = none ∧ (sLane 1 Lane.init).blk.finds 39 gainLine = [RxEv.gain] ∧
      (sLane 1 Lane.init).blk.fb (LAN_STATUS_RX_SLEEP 39) = false) ∧
    (sLocked.blk.alive = true ∧ sLocked.blk.held = [] ∧ sLocked.blk.laneState 39 = 1 ∧ sLocked.blk.fb (LAN_STATUS_LOCK 39) = true ∧
      sLocked.blk.fb (LAN_EQ_FIXED 39) = false ∧ isCam 39 = false ∧ (List.replicate 32 ((7 : Int), (0 : Int))).length = 32 ∧
      (sLocked.blk.lane 39).lockAt + 32000 ≤ max sLocked.blk.now 32000) ∧
    (sLocked.blk.alive = true ∧ sLocked.blk.held = [] ∧ sLocked.blk.laneState 39 = 1 ∧ isCam 39 = false ∧
      sLocked.blk.fb (LAN_STATUS_LOCK 39) = true ∧ sLocked.blk.fb (LAN_STATUS_RX_SLEEP 39) = false ∧ (sLocked.blk.lane 39).target = none ∧
      sLocked.blk.finds 39 (frameLine offer) = [RxEv.frame offer] ∧ (sLocked.blk.lane 39).next = none ∧
      bitOf (BitVec.toNat (offer.getD 1 (0 : Byte))) 0 = false ∧
      (BitVec.toNat (offer.getD 0 (0 : Byte)) = 240 ∨ BitVec.toNat (offer.getD 0 (0 : Byte)) = 241 ∧
      sLocked.blk.laneRate 39 ≤ BitVec.toNat (offer.getD 4 (0 : Byte)) % 8)) ∧
    (sEighth.blk.alive = true ∧ sEighth.blk.held = [] ∧ sEighth.blk.laneState 31 = 1 ∧ isCam 31 = false ∧
      sEighth.blk.fb (LAN_STATUS_LOCK 31) = true ∧ sEighth.blk.fb (LAN_STATUS_RX_SLEEP 31) = false ∧ (sEighth.blk.lane 31).target = none ∧
      sEighth.blk.finds 31 (frameLine okFrame) = [RxEv.frame okFrame] ∧ isHead 31 = true ∧ (sEighth.blk.lane 31).next = none ∧
      (sEighth.blk.lane 31).falling = false ∧ (sEighth.blk.lane 31).rxOk = true ∧ 7 ≤ (sEighth.blk.lane 31).okRun ∧ sEighth.blk.scan = none ∧
      BitVec.toNat (okFrame.getD 0 (0 : Byte)) = 240 ∧ bitOf (BitVec.toNat (okFrame.getD 1 (0 : Byte))) 0 = true) ∧
    ((sTs2 7).blk.alive = true ∧ (sTs2 7).blk.held = [] ∧ (sTs2 7).blk.laneState 31 = 1 ∧ isCam 31 = false ∧
      (sTs2 7).blk.fb (LAN_STATUS_LOCK 31) = true ∧ (sTs2 7).blk.fb (LAN_STATUS_RX_SLEEP 31) = false ∧ ((sTs2 7).blk.lane 31).target = none ∧
      (sTs2 7).blk.finds 31 (frameLine (ts2 (7 : Byte))) = [RxEv.frame (ts2 (7 : Byte))] ∧ isHead 31 = true ∧
      ((sTs2 7).blk.lane 31).next = some 7 ∧ 7 < 8 ∧ ((sTs2 7).blk.lane 31).tsRun = 7 ∧ ((sTs2 7).blk.lane 31).tsNext = 7 ∧
      (sTs2 7).blk.scan = none ∧ BitVec.toNat ((ts2 (7 : Byte)).getD 0 (0 : Byte)) = 241 ∧
      BitVec.toNat ((ts2 (7 : Byte)).getD 4 (0 : Byte)) % 8 = 7 ∧
      8 * laneFramePs ((sTs2 7).blk.laneRate 31) ≤ 4000 * (max (sTs2 7).blk.now 4000 - ((sTs2 7).blk.lane 31).nextAt) ∧
      7 ≠ (sTs2 7).blk.laneRate 31) ∧
    ((sTs2 0).blk.alive = true ∧ (sTs2 0).blk.held = [] ∧ (sTs2 0).blk.laneState 31 = 1 ∧ isCam 31 = false ∧
      (sTs2 0).blk.fb (LAN_STATUS_LOCK 31) = true ∧ (sTs2 0).blk.fb (LAN_STATUS_RX_SLEEP 31) = false ∧ ((sTs2 0).blk.lane 31).target = none ∧
      (sTs2 0).blk.finds 31 (frameLine (ts2 (0 : Byte))) = [RxEv.frame (ts2 (0 : Byte))] ∧ isHead 31 = true ∧
      ((sTs2 0).blk.lane 31).next = some 0 ∧ 0 < 8 ∧ ((sTs2 0).blk.lane 31).tsRun = 7 ∧ ((sTs2 0).blk.lane 31).tsNext = 0 ∧
      (sTs2 0).blk.scan = none ∧ BitVec.toNat ((ts2 (0 : Byte)).getD 0 (0 : Byte)) = 241 ∧
      BitVec.toNat ((ts2 (0 : Byte)).getD 4 (0 : Byte)) % 8 = 0 ∧
      8 * laneFramePs ((sTs2 0).blk.laneRate 31) ≤ 4000 * (max (sTs2 0).blk.now 4000 - ((sTs2 0).blk.lane 31).nextAt) ∧
      0 = (sTs2 0).blk.laneRate 31) ∧
    ((sLane 1 ({ Lane.init with target := some 7 })).blk.alive = true ∧ (sLane 1 ({ Lane.init with target := some 7 })).blk.held = [] ∧
      ((sLane 1 ({ Lane.init with target := some 7 })).blk.lane 39).target = some 7 ∧ 7 < 8 ∧
      (sLane 1 ({ Lane.init with target := some 7 })).blk.laneState 39 = 1 ∧
      ((sLane 1 ({ Lane.init with target := some 7 })).blk.lane 39).stAt + 250 ≤ max (sLane 1 ({ Lane.init with target := some 7 })).blk.now 250) ∧
    ((sLane 1 Lane.init).blk.alive = true ∧ (sLane 1 Lane.init).blk.held = [] ∧ (sLane 1 Lane.init).blk.laneState 39 = 1 ∧
      (sLane 1 Lane.init).blk.scan = none ∧ ((sLane 1 Lane.init).blk.lane 39).target = none ∧ ((sLane 1 Lane.init).blk.lane 39).next = none ∧
      (sLane 1 Lane.init).blk.laneRate 39 = 0 ∧ ((sLane 1 Lane.init).blk.lane 39).since + 500000 ≤ max (sLane 1 Lane.init).blk.now 500000) ∧
    ((sOn 4).blk.alive = true ∧ (sOn 4).blk.held = [] ∧ (sOn 4).blk.laneEn 39 = true ∧ (sOn 4).blk.laneState 39 = 4 ∧
      ((sOn 4).blk.lane 39).stAt + 2500000 ≤ max (sOn 4).blk.now 2500000) ∧
    ((sOn 3).blk.alive = true ∧ (sOn 3).blk.held = [] ∧ (sOn 3).blk.laneEn 39 = true ∧ (sOn 3).blk.laneState 39 = 3 ∧
      (sOn 3).blk.fb (LAN_STATUS_LOCK 39) = false ∧ (sOn 3).blk.scanOn 39 = false ∧
      ((sOn 3).blk.lane 39).stAt + 25000 ≤ max (sOn 3).blk.now 25000) ∧
    ((sOn 5).blk.alive = true ∧ (sOn 5).blk.held = [] ∧ (sOn 5).blk.laneEn 39 = true ∧ (sOn 5).blk.laneState 39 ≠ 0 ∧
      (sOn 5).blk.laneState 39 ≠ 2) := by
  refine ⟨?_, ?_, ?_, ?_, ?_, ?_, ?_, ?_, ?_, ?_, ?_, ?_, ?_⟩ <;> decide +kernel

def threeBad : Rx := { Rx.init with bad := [true, false, true, true] }

def badLine : List Bool := msbBits 10 0

def sUp : State := q ((bLane 2).setF (LAN_STATUS_LOCK 39) 1 |>.setLane 39 { Lane.init with rx := threeBad })

def sBurst : State := q (((bLane 2).setF (LAN_STATUS_RX_SLEEP 39) 1).setLane 39 { Lane.init with burstAt := some 0 })

theorem witness_LaneRecovery :
    (threeBad.cnt = 0 ∧ 0 < 1024 ∧ symOf threeBad.rd 0 = none ∧ (List.filter id (List.take 63 threeBad.bad)).length = 3) ∧
    (Rx.init.cnt = 0 ∧ 0 < 1024 ∧ symOf Rx.init.rd 0 = none ∧ (List.filter id (List.take 63 Rx.init.bad)).length < 3) ∧
    (sUp.blk.alive = true ∧ sUp.blk.held = [] ∧ (sUp.blk.lane 39).target = none ∧ sUp.blk.laneState 39 = 2 ∧
      sUp.blk.fb (LAN_STATUS_LOCK 39) = true ∧ sUp.blk.fb (LAN_STATUS_RX_SLEEP 39) = false ∧
      sUp.blk.finds 39 badLine = [RxEv.error, RxEv.loss]) ∧
    (sBurst.blk.alive = true ∧ sBurst.blk.held = [] ∧ (sBurst.blk.lane 39).target = none ∧ (sBurst.blk.lane 39).burstAt = some 0 ∧
      sBurst.blk.laneState 39 = 2 ∧ sBurst.blk.fb (LAN_STATUS_RX_SLEEP 39) = true ∧ 0 + 1500 ≤ max sBurst.blk.now 1500) ∧
    ((sLane 3 Lane.init).blk.alive = true ∧ (sLane 3 Lane.init).blk.held = [] ∧ ((sLane 3 Lane.init).blk.lane 39).target = none ∧
      (sLane 3 Lane.init).blk.laneState 39 = 3 ∧ (sLane 3 Lane.init).blk.scan = none ∧
      (sLane 3 Lane.init).blk.fb (LAN_STATUS_RX_SLEEP 39) = false ∧ (sLane 3 Lane.init).blk.finds 39 gainLine = [RxEv.gain] ∧
      max (sLane 3 Lane.init).blk.now 25000 ≤ ((sLane 3 Lane.init).blk.lane 39).stAt + 25000) ∧
    ((sOn 3).blk.alive = true ∧ (sOn 3).blk.held = [] ∧ ((sOn 3).blk.lane 39).target = none ∧ (sOn 3).blk.laneState 39 = 3 ∧
      (sOn 3).blk.scan = none ∧ (sOn 3).blk.fb (LAN_STATUS_RX_SLEEP 39) = false ∧ (sOn 3).blk.finds 39 gainLine = [RxEv.gain] ∧
      ((sOn 3).blk.lane 39).stAt + 25000 < max (sOn 3).blk.now 25001 ∧ (sOn 3).blk.laneEn 39 = true) := by
  refine ⟨?_, ?_, ?_, ?_, ?_, ?_⟩ <;> decide +kernel

def sAsleep : State := q ((bLane 2).setF (LAN_STATUS_TX_SLEEP 39) 1)

def idleReq : List Byte := frameBytes 0xF2 0 0

def sFresh (st : Nat) : State := q ((bLane st).setF (LAN_STATUS_LOCK 39) 1)

def sRx : State := q ((bLane 2).setF (LAN_STATUS_RX_SLEEP 39) 1)

theorem witness_LaneSleep :
    (sUp.blk.alive = true ∧ sUp.blk.maySleep 39 = true ∧ sUp.blk.fb (LAN_STATUS_TX_SLEEP 39) = false) ∧
    (sAsleep.blk.alive = true ∧ sAsleep.blk.fb (LAN_STATUS_TX_SLEEP 39) = true ∧ isHead 39 = false) ∧
    (sUp.blk.alive = true ∧ sUp.blk.fb (LAN_STATUS_RX_SLEEP 39) = false ∧ sUp.blk.maySleep 39 = true) ∧
    ((sFresh 2).blk.alive = true ∧ (sFresh 2).blk.fb (LAN_STATUS_RX_SLEEP 39) = false ∧ (sFresh 2).blk.laneState 39 ≠ 0 ∧
      (sFresh 2).blk.laneState 39 ≠ 4 ∧ (sFresh 2).blk.laneState 39 < 5 ∧ isCam 39 = false ∧ (sFresh 2).blk.held = [] ∧
      ((sFresh 2).blk.lane 39).target = none ∧ (sFresh 2).blk.finds 39 (frameLine idleReq) = [RxEv.frame idleReq] ∧
      BitVec.toNat (idleReq.getD 0 (0 : Byte)) = 242 ∧ (sFresh 2).blk.maySleep 39 = true) ∧
    ((sFresh 3).blk.alive = true ∧ (sFresh 3).blk.fb (LAN_STATUS_RX_SLEEP 39) = false ∧ (sFresh 3).blk.laneState 39 ≠ 0 ∧
      (sFresh 3).blk.laneState 39 ≠ 4 ∧ (sFresh 3).blk.laneState 39 < 5 ∧ isCam 39 = false ∧ (sFresh 3).blk.held = [] ∧
      ((sFresh 3).blk.lane 39).target = none ∧ (sFresh 3).blk.finds 39 (frameLine idleReq) = [RxEv.frame idleReq] ∧
      BitVec.toNat (idleReq.getD 0 (0 : Byte)) = 242 ∧ (sFresh 3).blk.maySleep 39 = false) ∧
    ((sLane 1 Lane.init).blk.alive = true ∧ (sLane 1 Lane.init).blk.maySleep 39 = false) ∧
    (sRx.blk.alive = true ∧ sRx.blk.laneState 39 = 2 ∧ sRx.blk.fb (LAN_STATUS_RX_SLEEP 39) = true ∧ (sRx.blk.lane 39).burstAt = none) := by
  refine ⟨?_, ?_, ?_, ?_, ?_, ?_, ?_⟩ <;> decide +kernel

def sWarn (a : Option Nat) : State := q (((bLane 2).setF LAN_FOM_CFG_WARN 1).setLane 39 { Lane.init with lowAt := a })

def skipLine : List Bool := (lightCode false [k28x0]).1

def sEq : State := q { (sFresh 2).blk with held := [⟨LAN_EQ 39, 0x80001f, .skip, []⟩] }

def scan1 : Scan := ⟨39, 1, 0, some 0, 0, false, false, 0⟩

def sScan : State := q { bLane 2 with scan := some scan1 }

def tScan : Nat := 8192 * (2 ^ 16 * bitHalfPs 0)

theorem witness_EqualiserAndEye :
    ((sWarn none).blk.alive = true ∧ (sWarn none).blk.laneState 39 = 2 ∧ (sWarn none).blk.held = [] ∧
      fomOf ((0 : Int), (0 : Int)) < (sWarn none).blk.f LAN_FOM_CFG_WARN ∧ ((sWarn none).blk.lane 39).warned = false ∧
      ((sWarn none).blk.lane 39).lowAt = none) ∧
    ((sWarn (some 0)).blk.alive = true ∧ (sWarn (some 0)).blk.laneState 39 = 2 ∧ (sWarn (some 0)).blk.held = [] ∧
      fomOf ((0 : Int), (0 : Int)) < (sWarn (some 0)).blk.f LAN_FOM_CFG_WARN ∧ ((sWarn (some 0)).blk.lane 39).warned = false ∧
      ((sWarn (some 0)).blk.lane 39).lowAt = some 0 ∧ 0 + 250000 ≤ max (sWarn (some 0)).blk.now 250000) ∧
    (sEq.blk.alive = true ∧ sEq.blk.laneState 39 = 2 ∧ sEq.blk.fb SYS_COMMIT_HOLD = false ∧
      sEq.blk.held = [{ addr := LAN_EQ 39, val := (8388639 : Word), bnd := Bnd.skip, done := [] }] ∧ sEq.blk.trm.held = [] ∧
      sEq.blk.fb (LAN_STATUS_RX_SLEEP 39) = false ∧ (sEq.blk.lane 39).target = none ∧ sEq.blk.finds 39 skipLine = [RxEv.skip] ∧
      (Instr.laneFrameReceived (39 : Fin 44) 0 skipLine = Instr.laneFrameReceived (39 : Fin 44) 0 skipLine ∨ Instr.laneFrameReceived (39 : Fin 44) 0 skipLine = Instr.laneLockGain (39 : Fin 44) 0 skipLine ∨ Instr.laneFrameReceived (39 : Fin 44) 0 skipLine = Instr.laneLockLoss (39 : Fin 44) 0 skipLine)) ∧
    ((sLane 1 Lane.init).blk.alive = true ∧ (sLane 1 Lane.init).blk.scan = none ∧ bitOf ((8388647 : Word).toNat) 23 = true ∧
      (8388647 : Word).toNat % 64 = 39 ∧ ((sLane 1 Lane.init).blk.laneState 39 = 1 ∨ (sLane 1 Lane.init).blk.laneState 39 = 3)) ∧
    ((sLane 3 Lane.init).blk.alive = true ∧ (sLane 3 Lane.init).blk.scan = none ∧ bitOf ((8388647 : Word).toNat) 23 = true ∧
      (8388647 : Word).toNat % 64 = 39 ∧ ((sLane 3 Lane.init).blk.laneState 39 = 1 ∨ (sLane 3 Lane.init).blk.laneState 39 = 3)) ∧
    ((sLane 1 Lane.init).blk.alive = true ∧ (sLane 1 Lane.init).blk.scan = none ∧ bitOf ((8388652 : Word).toNat) 23 = true ∧
      44 ≤ (8388652 : Word).toNat % 64) ∧
    (sScan.blk.alive = true ∧ sScan.blk.scan = some scan1 ∧ scan1.aborted = false ∧ scan1.began = some 0 ∧ scan1.lane = 39 ∧
      [1].length * (2 ^ (16 + scan1.dwell) * bitHalfPs (sScan.blk.laneRate 39)) ≤ (max sScan.blk.now tScan - 0) * 8000 ∧
      sScan.blk.f LAN_EYE_STATUS_POINTS ≤ [1].length ∧ [1].length < 8192) ∧
    (sScan.blk.alive = true ∧ sScan.blk.scan = some scan1 ∧ scan1.aborted = false ∧ scan1.began = some 0 ∧ scan1.lane = 39 ∧
      (List.replicate 8192 0).length * (2 ^ (16 + scan1.dwell) * bitHalfPs (sScan.blk.laneRate 39)) ≤ (max sScan.blk.now tScan - 0) * 8000 ∧
      sScan.blk.f LAN_EYE_STATUS_POINTS ≤ (List.replicate 8192 0).length ∧ (List.replicate 8192 0).length = 8192 ∧
      sScan.blk.laneState 39 = 2) := by
  refine ⟨?_, ?_, ?_, ?_, ?_, ?_, ?_, ?_⟩ <;> decide +kernel

def bWale (l : Nat) : Blk :=
  let b := ((live.setF (PGE_TRK_STATUS_STATE 3) 2).setF (WAL_LINK_STATUS_UP l) 1).wn WAL_ID 0x123
  (b.linkLanes l).foldl (fun b n => b.setF (LAN_STATUS_STATE n) 2) b

def sWale (l : Nat) : State := q (bWale l)

def msg (typ : Nat) (l : List Nat) : List Word := words (typ * 65536 :: l)

def msgSeq (typ : Nat) (l : List Nat) : List Word := words ((typ * 65536 + 256) :: l)

def sOwes : State := q ((bWale 2).setLink 2 { Link.init with owes := true })

def sSwIn : State := q (((((bWale 2).setF (RING_CFG_EN 14) 1).setF (RING_CFG_SIZE_LOG2 14) 4).setVal (RING_BASE 14) 4096 2).setLink 2 { Link.init with sw := [(0, [1])] })

def sSend : State := q (ringAt (bWale 0) 13 [0x456000, 0, 1, 2, 3, 4, 5, 6])

theorem witness_WaleMessages :
    ((sWale 2).blk.alive = true ∧ (sWale 2).blk.linkUp 2 = true ∧ (sWale 2).blk.linkAligned 2 = true ∧ (sWale 2).blk.allIdle = false ∧
      0 ≠ (sWale 2).blk.waleCheck 2 (wordsNat (msg 6 [1, 2, 3]))) ∧
    ((sWale 2).blk.alive = true ∧ (sWale 2).blk.linkUp 2 = true ∧ ((sWale 2).blk.link 2).queue = [] ∧ mtypeOf (wordsNat (msg 0 [0, 0])) = 0) ∧
    (sOwes.blk.alive = true ∧ sOwes.blk.linkUp 2 = true ∧ (sOwes.blk.advance 250).linkAwake 2 = true ∧ (sOwes.blk.link 2).owes = true ∧
      (sOwes.blk.link 2).lastOut + 250 ≤ 250) ∧
    (sSwIn.blk.alive = true ∧ (sSwIn.blk.link 2).sw = [(0, [1])] ∧ sSwIn.blk.ringFull 14 = false) ∧
    (sSend.blk.alive = true ∧ sSend.blk.chipId ≠ 0 ∧ sSend.blk.fb WAL_STATUS_ID_CONFLICT = false ∧ sSend.blk.ringHas 13 = true ∧
      bits ((sSend.blk.ringFront 13).headD 0) 9 8 = 0 ∧ sSend.blk.linkUp 0 = true ∧ sSend.blk.linkAwake 0 = true ∧
      (sSend.blk.link 0).queue = [] ∧ (sSend.blk.link 0).credits ≠ 0) := by
  refine ⟨?_, ?_, ?_, ?_, ?_⟩ <;> decide +kernel

theorem witness_RingDiscovery :
    ((sWale 0).blk.alive = true ∧ (sWale 0).blk.chipId ≠ 0 ∧ (sWale 0).blk.wal.disc + 250000 ≤ 250000 ∧ (sWale 0).blk.linkUp 0 = true ∧
      ((sWale 0).blk.advance 250000).linkAwake 0 = true ∧ ((sWale 0).blk.link 0).queue = [] ∧ ((sWale 0).blk.link 0).credits ≠ 0 ∧
      (sWale 0).blk.linkUp 1 = false ∧ (sWale 0).blk.linkUp 2 = false) ∧
    ((sWale 2).blk.alive = true ∧ (sWale 2).blk.linkUp 2 = true ∧ (sWale 2).blk.linkAligned 2 = true ∧ (sWale 2).blk.allIdle = false ∧
      mtypeOf (wordsNat (msgSeq 3 [0, 31 * 2 ^ 19, 1110])) = 3 ∧ ((sWale 2).blk.link 2).early = [] ∧ ((sWale 2).blk.link 2).seqIn < 256 ∧
      bits ((wordsNat (msgSeq 3 [0, 31 * 2 ^ 19, 1110])).headD 0) 15 8 = (((sWale 2).blk.link 2).seqIn + 1) % 256 ∧
      bits ((wordsNat (msgSeq 3 [0, 31 * 2 ^ 19, 1110])).getD 2 0) 23 19 = 31 ∧
      (payloadOf (wordsNat (msgSeq 3 [0, 31 * 2 ^ 19, 1110]))).headD 0 % 4096 ≠ (sWale 2).blk.chipId) ∧
    ((sWale 2).blk.alive = true ∧ (sWale 2).blk.wal.heard.length < 4096) := by
  refine ⟨?_, ?_, ?_⟩ <;> decide +kernel

def sBeacon : State := q (((bWale 0).setF WAL_BCN_CFG_TX_EN 1).setF LCK_STATUS_RUNNING 1)

def tBeacon : Nat := 250 * (bWale 0).bcnInt

def bFollow : Blk := (bWale 2).setF LCK_MASTER_SRC 8

def sFollow : State := q bFollow

def sLostBcn : State := q ((bFollow.setF LCK_STATUS_FB_ACTIVE 1).setF WAL_BCN_STATUS_USING 1)

theorem witness_PositionBeacons :
    (sBeacon.blk.alive = true ∧ sBeacon.blk.fb WAL_BCN_CFG_TX_EN = true ∧ sBeacon.blk.running = true ∧ sBeacon.blk.chipId ≠ 0 ∧
      sBeacon.blk.fb WAL_STATUS_ID_CONFLICT = false ∧ sBeacon.blk.masterSrc ≠ 8 ∧ sBeacon.blk.wal.sent + 250 * sBeacon.blk.bcnInt ≤ tBeacon ∧
      sBeacon.blk.linkUp 0 = true ∧ (sBeacon.blk.advance tBeacon).linkAwake 0 = true ∧ (sBeacon.blk.link 0).queue = [] ∧
      (sBeacon.blk.link 0).credits ≠ 0 ∧ sBeacon.blk.linkUp 1 = false) ∧
    (sFollow.blk.alive = true ∧ sFollow.blk.masterSrc = 8 ∧ sFollow.blk.linkUp 2 = true ∧ sFollow.blk.linkAligned 2 = true ∧
      sFollow.blk.paired = false ∧ sFollow.blk.allIdle = false ∧
      mtypeOf (wordsNat (msgSeq 2 [sFollow.blk.f WAL_BCN_SRC_SRC, 0, 1, 2, 3, 4, 5, 0, 0, 0])) = 2 ∧ (sFollow.blk.link 2).early = [] ∧
      (sFollow.blk.link 2).seqIn < 256 ∧
      bits ((wordsNat (msgSeq 2 [sFollow.blk.f WAL_BCN_SRC_SRC, 0, 1, 2, 3, 4, 5, 0, 0, 0])).headD 0) 15 8 = ((sFollow.blk.link 2).seqIn + 1) % 256 ∧
      sFollow.blk.f WAL_BCN_STATUS_USING = 0 ∧
      (sFollow.blk.bcn.seq = none ∨ sFollow.blk.bcn.tb < beaconTime (sFollow.blk.advance 0).timNs (payloadOf (wordsNat (msgSeq 2 [sFollow.blk.f WAL_BCN_SRC_SRC, 0, 1, 2, 3, 4, 5, 0, 0, 0])))) ∧
      srcOf (wordsNat (msgSeq 2 [sFollow.blk.f WAL_BCN_SRC_SRC, 0, 1, 2, 3, 4, 5, 0, 0, 0])) = sFollow.blk.f WAL_BCN_SRC_SRC ∧
      bitOf ((payloadOf (wordsNat (msgSeq 2 [sFollow.blk.f WAL_BCN_SRC_SRC, 0, 1, 2, 3, 4, 5, 0, 0, 0]))).headD 0) 23 = false) ∧
    (sLostBcn.blk.alive = true ∧ sLostBcn.blk.masterSrc = 8 ∧ sLostBcn.blk.fbActive = true ∧ sLostBcn.blk.allIdle = false ∧
      sLostBcn.blk.wal.altAt = none ∧ sLostBcn.blk.wal.lost = false ∧
      sLostBcn.blk.bcn.heard + sLostBcn.blk.bcnTo ≤ max sLostBcn.blk.now bFollow.bcnTo) := by
  refine ⟨?_, ?_, ?_⟩ <;> decide +kernel

def sTime (src : Nat) (x : Link) : State := q (((bWale 2).setF TIM_CFG_SOURCE src).setLink 2 x)

def sAsked : State := sTime 5 { Link.init with t1 := some 0 }

theorem witness_WaleTime :
    ((sTime 5 Link.init).blk.alive = true ∧ (sTime 5 Link.init).blk.timSource = 3 + 2 ∧ (sTime 5 Link.init).blk.fb TIM_STATUS_ALT_USED = false ∧
      (∀ e ∈ (sTime 5 Link.init).blk.time.sentAt, e.1 ≠ 100) ∧ (sTime 5 Link.init).blk.linkUp 2 = true ∧
      ((sTime 5 Link.init).blk.advance 0).linkAwake 2 = true) ∧
    ((sTime 5 Link.init).blk.alive = true ∧ mtypeOf (wordsNat (msg 4 [0, 1])) = 4 ∧ (sTime 5 Link.init).blk.linkUp 2 = true ∧
      ((sTime 5 Link.init).blk.link 2).queue = [] ∧ (sTime 5 Link.init).blk.linkAwake 2 = true) ∧
    (sAsked.blk.alive = true ∧ mtypeOf (wordsNat (msg 5 [0, 0, 0, 0, 0, 0, 0, 0, 0, 0])) = 5 ∧ sAsked.blk.linkUp 2 = true ∧
      (sAsked.blk.link 2).queue = [] ∧ (sAsked.blk.link 2).t1 = some (0 : Int) ∧
      (wordsNat (msg 5 [0, 0, 0, 0, 0, 0, 0, 0, 0, 0])).getD 2 0 % 65536 = (sAsked.blk.link 2).tag ∧ (0 : Int) ≤ (↑655360000 : Int) ∧
      (↑655360000 : Int) ≤ (0 : Int) + (10000 : Int) * ns1) := by
  refine ⟨?_, ?_, ?_⟩ <;> decide +kernel

def tLost (s : State) : Nat := 8 * s.blk.parentInterval s.blk.timSource

def sAlt : State := q ((sTime 5 Link.init).blk.setF TIM_CFG_ALT 1)

def sRef : State := q (live.setF TIM_CFG_REF10 1)

theorem witness_TimeParents :
    ((sTime 5 Link.init).blk.alive = true ∧ (sTime 5 Link.init).blk.timSource ≠ 0 ∧ (sTime 5 Link.init).blk.fb TIM_STATUS_PARENT_LOST = false ∧
      (sTime 5 Link.init).blk.fb TIM_STATUS_ALT_USED = false ∧
      (sTime 5 Link.init).blk.time.main + 8 * (sTime 5 Link.init).blk.parentInterval (sTime 5 Link.init).blk.timSource ≤ max (sTime 5 Link.init).blk.now (tLost (sTime 5 Link.init)) ∧
      (sTime 5 Link.init).blk.timAlt = 0) ∧
    (sAlt.blk.alive = true ∧ sAlt.blk.timSource ≠ 0 ∧ sAlt.blk.fb TIM_STATUS_PARENT_LOST = false ∧ sAlt.blk.fb TIM_STATUS_ALT_USED = false ∧
      sAlt.blk.time.main + 8 * sAlt.blk.parentInterval sAlt.blk.timSource ≤ max sAlt.blk.now (tLost sAlt) ∧ sAlt.blk.timAlt ≠ 0) ∧
    (sLive.blk.alive = true ∧ sLive.blk.time.ttos = []) ∧
    ((sTime 2 Link.init).blk.alive = true ∧ (sTime 2 Link.init).blk.timSource = 2 ∧ (sTime 2 Link.init).blk.fb TIM_CFG_SERVO = false ∧
      (-500000000 : Int) * ns1 < (0 : Int) ∧ (0 : Int) ≤ (500000000 : Int) * ns1 ∧ (sTime 2 Link.init).blk.time.pps.out = false ∧
      8 ≤ (sTime 2 Link.init).blk.time.pps.run + 8 ∧ 8 ≠ 0 ∧
      ((sTime 2 Link.init).blk.fineAt (0 - (sTime 2 Link.init).blk.time.pps.run) + (0 : Int)) % ((1000000000 : Int) * ns1) = (0 : Int)) ∧
    (sRef.blk.alive = true ∧ sRef.blk.fb TIM_CFG_REF10 = true) := by
  refine ⟨?_, ?_, ?_, ?_, ?_⟩ <;> decide +kernel

def ptp (typ : Nat) : List Byte := toBE typ 1 ++ [0x12, 0, 44, 0, 0, 0, 0] ++ List.replicate 36 0

def sPtp (mode : Nat) : State := q { (live.setF TIM_PTP_CFG_MODE mode).setF TIM_CFG_SOURCE 1 with time := { live.time with path := some 5 } }

def owed1 : PtpOwed := ⟨false, [1], 5, 6, 7⟩

def sOwed : State := q { (sPtp 2).blk with time := { live.time with owed := [owed1] } }

theorem witness_PtpPort :
    ((sPtp 2).blk.alive = true ∧ 0 = (sPtp 2).blk.f TIM_PTP_CFG_PORT ∧ 34 ≤ (ptp 1).length ∧ BitVec.toNat ((ptp 1).getD 1 (0 : Byte)) = 18 ∧
      BitVec.toNat ((ptp 1).getD 4 (0 : Byte)) = (sPtp 2).blk.f TIM_PTP_CFG_DOMAIN ∧ ptpType (ptp 1) = 1 ∧ (sPtp 2).blk.ptpMode = 2 ∧
      (sPtp 2).blk.fb TIM_PTP_CFG_DELAY = false) ∧
    ((sPtp 1).blk.alive = true ∧ 0 = (sPtp 1).blk.f TIM_PTP_CFG_PORT ∧ 34 ≤ (ptp 0).length ∧ BitVec.toNat ((ptp 0).getD 1 (0 : Byte)) = 18 ∧
      BitVec.toNat ((ptp 0).getD 4 (0 : Byte)) = (sPtp 1).blk.f TIM_PTP_CFG_DOMAIN ∧ ptpType (ptp 0) = 0 ∧ (sPtp 1).blk.ptpMode = 1 ∧
      beNat (List.take 8 (ptpSrc (ptp 0))) = (sPtp 1).blk.val TIM_PTP_PARENT 3 ∧ ptpTwoStep (ptp 0) = false ∧
      (sPtp 1).blk.time.path = some (5 : Int) ∧ (sPtp 1).blk.timSource = 1 ∧ (sPtp 1).blk.fb TIM_CFG_SERVO = false) ∧
    (sOwed.blk.alive = true ∧ 0 = sOwed.blk.f TIM_PTP_CFG_PORT ∧ sOwed.blk.ptpMode ≠ 0 ∧ sOwed.blk.time.owed = [owed1] ∧ owed1.peer = false) := by
  refine ⟨?_, ?_, ?_⟩ <;> decide +kernel

def sArm : State := q ((live.setF (TTO_CFG_MODE 3) 1).wn (TTO_START 3) 1)

def tto1 : Tto := ⟨6553600, 0, 5, 1, false, true, 0, none, false⟩

def sTto : State := q (live.putTto 3 (some tto1))

def sTci : State := q { live.setF (TCI_CFG_EDGE 3) 3 with time := { live.time with fifos := [(3, List.replicate 15 0)] } }

def filt0 : Filt := ⟨false, 0⟩

theorem witness_TimeInputsAndOutputs :
    (sArm.blk.alive = true ∧ sArm.blk.f (TTO_CFG_MODE 3) = 1 ∧
      sArm.blk.timFine + (100 : Int) * ns1 ≤ recordTime (List.map (fun i ↦ sArm.blk.rn (TTO_START 3 + i)) (List.range 4))) ∧
    (sLive.blk.alive = true ∧ (sLive.blk.f (TTO_CFG_MODE 3) = 0 ∨ sLive.blk.f (TTO_CFG_MODE 3) = 3)) ∧
    (sTto.blk.alive = true ∧ sTto.blk.tto 3 = some tto1 ∧ tto1.endNs = none ∧ tto1.left tto1.k = true ∧
      (tto1.instant tto1.k + (32768 : Int)) / ns1 ≤ (sTto.blk.advance 1000).timFine / ns1) ∧
    (sTci.blk.alive = true ∧ alook { out := false, run := 0 } sTci.blk.time.tcis 3 = filt0 ∧
      (filt0.feed (atLeast1 (sTci.blk.f (TCI_CFG_FILT_N 3))) 4 300 true).2 = some 4 ∧
      (sTci.blk.f (TCI_CFG_EDGE 3) = 3 ∨ sTci.blk.f (TCI_CFG_EDGE 3) = if true = true then 1 else 2) ∧ (sTci.blk.fifo 3).length < 16) ∧
    (sLive.blk.alive = true ∧ sLive.blk.fifo 3 = []) ∧
    (sTci.blk.alive = true ∧ sTci.blk.fifo 3 = (0 : Int) :: List.replicate 14 (0 : Int) ∧ (List.replicate 14 (0 : Int)).length < 16) := by
  refine ⟨?_, ?_, ?_, ?_, ?_, ?_⟩ <;> decide +kernel

def src1 : Source := ⟨0x112233445566, .v4 0x01020304, 999⟩

def datagram (typ seq len : Nat) : Datagram :=
  ⟨src1, true, toBE 0x464E 2 ++ toBE 1 1 ++ toBE typ 1 ++ [3, 0] ++ toBE len 2 ++ toBE seq 4 ++ List.replicate 20 0 ++ List.replicate len 7⟩

def bIng : Blk :=
  ((((live.setF PGE_ING_CFG_EN 1).setF PGE_ING_CFG_REMOTE_RESET 1).setVal PGE_ING_STAGE 0x30000 2).setVal (PGE_ING_NEXT_SEQ 3) (2 ^ 32 - 1) 2).setF DRM_CFG_CAP_LOG2 6

def sStream : State := q (bIng.setStream 3 { Stream.init with bound := some (0, src1), slots := [⟨3, 1, 3, 4, 5, 6⟩], ackNow := true, gapSince := some 0 })

def tRetx : Nat := sStream.blk.retxDue (sStream.blk.stream 3) 0

theorem witness_IngestStreams :
    ((q bIng).blk.alive = true ∧ (q bIng).blk.fb PGE_ING_CFG_EN = true ∧ (datagram 1 62 4).sumOk = true ∧
      dgNat (datagram 1 62 4).bytes 0 2 = 17998 ∧ dgOk (datagram 1 62 4).bytes = true ∧ dgNat (datagram 1 62 4).bytes 4 1 % 4 = 3 ∧
      bitOf ((q bIng).blk.f STO_STATUS_PLAYING) 3 = false ∧ (q bIng).blk.underTest 9 = false ∧
      ((q bIng).blk.stream 3).from (datagram 1 62 4).src = true ∧ dgNat (datagram 1 62 4).bytes 3 1 ≠ 4 ∧
      (dgNat (datagram 1 62 4).bytes 8 4 + 2 ^ 32 - (q bIng).blk.nextSeq 3) % 2 ^ 32 < 64 ∧
      ((q bIng).blk.stream 3).held (dgNat (datagram 1 62 4).bytes 8 4) = none ∧
      (q bIng).blk.stageAddr 3 (dgNat (datagram 1 62 4).bytes 8 4) + dgNat (datagram 1 62 4).bytes 6 2 ≤ (q bIng).blk.capacity ∧
      ((q bIng).blk.stream 3).slots.length < 64) ∧
    ((q bIng).blk.alive = true ∧ (q bIng).blk.fb PGE_ING_CFG_EN = true ∧ (datagram 1 (2 ^ 32 - 1) 4).sumOk = true ∧
      dgNat (datagram 1 (2 ^ 32 - 1) 4).bytes 0 2 = 17998 ∧ dgOk (datagram 1 (2 ^ 32 - 1) 4).bytes = true ∧
      dgNat (datagram 1 (2 ^ 32 - 1) 4).bytes 4 1 % 4 = 3 ∧ bitOf ((q bIng).blk.f STO_STATUS_PLAYING) 3 = false ∧
      (q bIng).blk.underTest 9 = false ∧ ((q bIng).blk.stream 3).from (datagram 1 (2 ^ 32 - 1) 4).src = true ∧
      dgNat (datagram 1 (2 ^ 32 - 1) 4).bytes 3 1 ≠ 4 ∧
      (dgNat (datagram 1 (2 ^ 32 - 1) 4).bytes 8 4 + 2 ^ 32 - (q bIng).blk.nextSeq 3) % 2 ^ 32 < 64 ∧
      ((q bIng).blk.stream 3).held (dgNat (datagram 1 (2 ^ 32 - 1) 4).bytes 8 4) = none ∧
      (q bIng).blk.stageAddr 3 (dgNat (datagram 1 (2 ^ 32 - 1) 4).bytes 8 4) + dgNat (datagram 1 (2 ^ 32 - 1) 4).bytes 6 2 ≤ (q bIng).blk.capacity ∧
      ((q bIng).blk.stream 3).slots.length < 64) ∧
    ((q bIng).blk.alive = true ∧ (q bIng).blk.fb PGE_ING_CFG_EN = true ∧ (datagram 4 7 0).sumOk = true ∧
      dgNat (datagram 4 7 0).bytes 0 2 = 17998 ∧ dgOk (datagram 4 7 0).bytes = true ∧ dgNat (datagram 4 7 0).bytes 4 1 % 4 = 3 ∧
      bitOf ((q bIng).blk.f STO_STATUS_PLAYING) 3 = false ∧ (q bIng).blk.underTest 9 = false ∧
      ((q bIng).blk.stream 3).from (datagram 4 7 0).src = true ∧ dgNat (datagram 4 7 0).bytes 3 1 = 4 ∧
      (q bIng).blk.fb PGE_ING_CFG_REMOTE_RESET = true) ∧
    (sStream.blk.alive = true ∧ (sStream.blk.stream 3).bound = some (0, src1) ∧ (sStream.blk.stream 3).ackNow = true) ∧
    (sStream.blk.alive = true ∧ (sStream.blk.stream 3).bound = some (0, src1) ∧ (sStream.blk.stream 3).gapSince = some 0 ∧
      sStream.blk.retxDue (sStream.blk.stream 3) 0 ≤ max sStream.blk.now tRetx) := by
  refine ⟨?_, ?_, ?_, ?_, ?_⟩ <;> decide +kernel

def bSlot : Blk :=
  let b := (((bIng.wn (bdAddr 4095 0) (0x123 * 4096 + 2048)).wn (bdAddr 4095 1) 512).wn (bdAddr 4095 3) 8).setF (PGE_TRK_CFG_DESC_SRC 3) 1
  ((b.setF (RING_CFG_EN 3) 1).setF (RING_CFG_SIZE_LOG2 3) 4).setVal (RING_BASE 3) 4096 2

def sSlot (x : Slot) : State := q (bSlot.setStream 3 { Stream.init with bound := some (0, src1), slots := [x] })

def slotData : Slot := ⟨2 ^ 32 - 1, 1, 4095, 0x123, 4, 4⟩

def slotBdset : Slot := ⟨2 ^ 32 - 1, 2, 4095, 0, 0, 32⟩

def slotDesc : Slot := ⟨2 ^ 32 - 1, 3, 3, 0, 0, 32⟩

theorem witness_IngestApplying :
    ((sSlot slotData).blk.alive = true ∧ (sSlot slotData).blk.turn 3 1 = some slotData ∧ slotData.target < 4096 ∧
      bitOf ((sSlot slotData).blk.rn (bdAddr slotData.target 0)) 11 = true ∧
      bits ((sSlot slotData).blk.rn (bdAddr slotData.target 0)) 23 12 = slotData.gen ∧
      slotData.offset + slotData.len ≤ (sSlot slotData).blk.rn (bdAddr slotData.target 3) + (sSlot slotData).blk.rn (bdAddr slotData.target 4) % 4096 * 2 ^ 24 ∧
      (sSlot slotData).blk.rn (bdAddr slotData.target 1) + (sSlot slotData).blk.rn (bdAddr slotData.target 2) % 4096 * 2 ^ 24 + slotData.offset + slotData.len ≤ (sSlot slotData).blk.capacity) ∧
    ((sSlot slotBdset).blk.alive = true ∧ (sSlot slotBdset).blk.turn 3 2 = some slotBdset ∧ slotBdset.target < 4096 ∧ slotBdset.len = 32) ∧
    ((sSlot slotDesc).blk.alive = true ∧ (sSlot slotDesc).blk.turn 3 3 = some slotDesc ∧ slotDesc.target < 4 ∧ slotDesc.len = 32 ∧
      (sSlot slotDesc).blk.fb (PGE_TRK_CFG_DESC_SRC slotDesc.target) = true ∧ (sSlot slotDesc).blk.ringFull slotDesc.target = false ∧
      (sSlot slotDesc).blk.twn.wait = []) := by
  refine ⟨?_, ?_, ?_⟩ <;> decide +kernel

def bdset : List Byte := toBE 0x464E 2 ++ [1, 2, 0, 0, 0, 32, 0, 0, 0, 0, 0, 7] ++ List.replicate 18 0 ++ List.replicate 32 9

def reel1 (st : Nat) : Reel := ⟨9, [1, 2, 3], 5, st, bdset, [⟨0, 0, 64, 7, 3, false⟩], [], 0⟩

def geo1 : Geo := ⟨16, 4, 100, 20, 2, 1, [3], 4⟩

def prog1 : Prog := ⟨1, 7, 3, 3, true, [⟨5, 0, 0, 64, 0⟩]⟩

def sto1 (st : Nat) : Sto :=
  { Sto.init with geo := some geo1, reels := [reel1 st], bands := [(7, ⟨1, 3, true, 0, none⟩)], wrote := 10, progs := [prog1] }

def sStore (ws : List Nat) (x : Sto) : State :=
  q { (((((ringAt (live.setF DRM_CFG_CAP_LOG2 6) 8 ws).setF STO_STATUS_STATE 2).setF (RING_CFG_EN 9) 1).setF (RING_CFG_SIZE_LOG2 9) 4).setVal (RING_BASE 9) 8192 2) with sto := x }

def sOp (op st : Nat) : State := sStore [op * 65536, 7, 9, 4096, 0, 32, 0, 0] (sto1 st)

def sAppend : State := q ((sStore [2 * 65536, 7, 9, 65536, 0, 64] (sto1 0)).blk.memWrites 65536 bdset)

def sList : State := sStore [8 * 65536, 7, 0] (sto1 1)

theorem witness_StoreReels :
    ((sOp 1 1).blk.alive = true ∧ (sOp 1 1).blk.StoreTakes 1 ∧ (∀ r ∈ (sOp 1 1).blk.sto.reels, r.st ≠ 0) ∧ (sOp 1 1).blk.sto.live.length < 4096) ∧
    (sAppend.blk.alive = true ∧ sAppend.blk.StoreTakes 2 ∧ sAppend.blk.twnState ≠ 2 ∧ sAppend.blk.sto.reel sAppend.blk.reel8 = some (reel1 0) ∧
      (reel1 0).st = 0 ∧
      parseRecs (sAppend.blk.imgRead ((sAppend.blk.ringFront 8).getD 3 0 % 2 ^ 24 + (sAppend.blk.ringFront 8).getD 4 0 % 4096 * 2 ^ 24) ((sAppend.blk.ringFront 8).getD 5 0 % 2 ^ 24)) (reel1 0).hdr (reel1 0).rem = some ([], 0) ∧
      sAppend.blk.appendFull (sAppend.blk.appended (reel1 0) (sAppend.blk.imgRead ((sAppend.blk.ringFront 8).getD 3 0 % 2 ^ 24 + (sAppend.blk.ringFront 8).getD 4 0 % 4096 * 2 ^ 24) ((sAppend.blk.ringFront 8).getD 5 0 % 2 ^ 24)) [] 0) (reel1 0) ((sAppend.blk.ringFront 8).getD 5 0 % 2 ^ 24) = false) ∧
    ((sOp 3 0).blk.alive = true ∧ (sOp 3 0).blk.sto.reel (sOp 3 0).blk.reel8 = some (reel1 0) ∧ (sOp 3 0).blk.sto.progs = [prog1] ∧
      prog1.first < (sOp 3 0).blk.sto.wrote ∧ (sOp 3 0).blk.StoreTakes 3 ∧ (reel1 0).st = 0 ∧ (reel1 0).hdr = [] ∧ (reel1 0).rem = 0) ∧
    ((sOp 6 1).blk.alive = true ∧ (sOp 6 1).blk.sto.reel (sOp 6 1).blk.reel8 = some (reel1 1) ∧ (sOp 6 1).blk.sto.progs = [prog1] ∧
      prog1.first < (sOp 6 1).blk.sto.wrote ∧ (sOp 6 1).blk.StoreTakes 6 ∧ (reel1 1).st = 1 ∧ (sOp 6 1).blk.sto.plays = []) ∧
    ((sOp 7 2).blk.alive = true ∧ (sOp 7 2).blk.StoreTakes 7 ∧ (sOp 7 2).blk.sto.reel (sOp 7 2).blk.reel8 = some (reel1 2)) ∧
    (sList.blk.alive = true ∧ sList.blk.StoreTakes 8 ∧ sList.blk.sto.live[sList.blk.reel8]? = some (reel1 1)) ∧
    ((sOp 0 1).blk.alive = true ∧ (0 = 0 ∨ 10 < 0) ∧ (sOp 0 1).blk.StoreTakes 0) ∧
    ((sOp 11 1).blk.alive = true ∧ (11 = 0 ∨ 10 < 11) ∧ (sOp 11 1).blk.StoreTakes 11) := by
  simp only [Blk.StoreTakes]
  refine ⟨?_, ?_, ?_, ?_, ?_, ?_, ?_, ?_⟩ <;> decide +kernel

def play1 (stop held : Bool) : Play := ⟨9, 5, 3, 1, 0, 0, 1, 0, 0, 0, 0, 1, [0], [], none, stop, held⟩

def sPlay (op : Nat) (stop held : Bool) : State := sStore [op * 65536 + 3 * 4096, 7, 9] { sto1 1 with plays := [(3, play1 stop held)] }

def sPlayNew : State := sStore [4 * 65536 + 3 * 4096, 7, 9] (sto1 1)

def sNand : State := sStore [] { sto1 1 with plays := [(3, play1 false false)], reads := [(2, .play 3 0)] }

def read1 : ReadResult := ⟨2, [(4, none), (2, some 3)], []⟩

def sNandAt : State := q (sNand.blk.setF STO_RETRY_CFG_REFRESH_STEP 4 |>.setF STO_MAINT_CFG_REFRESH_T 9 |>.setF STO_RETRY_CFG_RETRY_MAX 3)

def cw1 : Cw := ⟨0, 0, 64, 7, 3, false⟩

def sRead : State := sStore [9 * 65536, 7, 9, 4096, 0, 64, 63, 0] (sto1 1)

theorem witness_StorePlaying :
    (sPlayNew.blk.alive = true ∧ sPlayNew.blk.StoreTakes 4 ∧ sPlayNew.blk.sto.reel sPlayNew.blk.reel8 = some (reel1 1) ∧ (reel1 1).st = 1 ∧
      bits ((sPlayNew.blk.ringFront 8).headD 0) 13 12 = 3 ∧ (∀ e ∈ sPlayNew.blk.sto.plays, e.1 ≠ 3)) ∧
    ((sPlay 5 false false).blk.alive = true ∧ (sPlay 5 false false).blk.StoreTakes 5 ∧
      (∃ e ∈ (sPlay 5 false false).blk.sto.plays, e.1 = bits (((sPlay 5 false false).blk.ringFront 8).headD 0) 13 12)) ∧
    ((sPlay 5 true false).blk.alive = true ∧ List.find? (fun e ↦ e.1 == 3) (sPlay 5 true false).blk.sto.plays = some (3, play1 true false) ∧
      (sPlay 5 true false).blk.sto.reel (play1 true false).reel = some (reel1 1) ∧ (sPlay 5 true false).blk.underTest 9 = false ∧
      (sPlay 5 true false).blk.twn.wait = [] ∧ (play1 true false).stop = true ∧ (play1 true false).rep = 0) ∧
    ((sPlay 5 false true).blk.alive = true ∧ List.find? (fun e ↦ e.1 == 3) (sPlay 5 false true).blk.sto.plays = some (3, play1 false true) ∧
      (sPlay 5 false true).blk.sto.reel (play1 false true).reel = some (reel1 1) ∧ (sPlay 5 false true).blk.underTest 9 = false ∧
      (sPlay 5 false true).blk.twn.wait = [] ∧ (play1 false true).stop = false ∧ (play1 false true).pass = 0 ∧
      (play1 false true).off + 64 ≤ (reel1 1).bytes.length ∧ recOk (slice (reel1 1).bytes (play1 false true).off 32) = true ∧
      dgNat (slice (reel1 1).bytes (play1 false true).off 32) 3 1 = 2 ∧ dgNat (slice (reel1 1).bytes (play1 false true).off 32) 6 2 = 32 ∧
      (∀ i ∈ (reel1 1).span (play1 false true).off 64, i ∈ (play1 false true).done ∧ i ∉ (play1 false true).bads) ∧
      (sPlay 5 false true).blk.leased ((dgNat (slice (reel1 1).bytes (play1 false true).off 32) 12 2 + (play1 false true).bdOfs) % 4096) = false ∧
      (Instr.leaseWaitEnd (3 : Fin 4) = Instr.playRecord (3 : Fin 4) ∨ (play1 false true).held = true ∧
      Instr.leaseWaitEnd (3 : Fin 4) = Instr.leaseWaitEnd (3 : Fin 4))) ∧
    (sNandAt.blk.alive = true ∧ List.find? (fun e ↦ e.1 == read1.tag) sNandAt.blk.sto.reads = some (read1.tag, ReadFor.play 3 0) ∧
      List.find? (fun e ↦ e.1 == 3) sNandAt.blk.sto.plays = some (3, play1 false false) ∧
      sNandAt.blk.sto.reel (play1 false false).reel = some (reel1 1) ∧ (reel1 1).cws[0]? = some cw1 ∧
      (ladderOf sNandAt.blk.retryMax read1).2 = some 3 ∧ cw1.bad = false ∧
      sNandAt.blk.refreshNow (ladderOf sNandAt.blk.retryMax read1) = false) ∧
    (sRead.blk.alive = true ∧ sRead.blk.StoreTakes 9 ∧ sRead.blk.sto.reel sRead.blk.reel8 = some (reel1 1) ∧ (reel1 1).st ≠ 2 ∧
      (reel1 1).span ((sRead.blk.ringFront 8).getD 6 0 % 2 ^ 24 + (sRead.blk.ringFront 8).getD 7 0 % 2 ^ 24 * 2 ^ 24) (min ((sRead.blk.ringFront 8).getD 5 0 % 2 ^ 24) ((reel1 1).bytes.length - ((sRead.blk.ringFront 8).getD 6 0 % 2 ^ 24 + (sRead.blk.ringFront 8).getD 7 0 % 2 ^ 24 * 2 ^ 24))) ≠ []) := by
  simp only [Blk.StoreTakes]
  refine ⟨?_, ?_, ?_, ?_, ?_, ?_⟩ <;> decide +kernel

def target1 : NandTarget := ⟨3, true, 16, 2208, 1152, 2048, 2, 1, 1600, 2, 4⟩

def copy1 : BbtCopy := ⟨true, true, 5, []⟩

def log1 : FoundLog := ⟨[⟨9, [1, 2, 3], 1, 1, [5], [(0, 1, 7, 2)]⟩], [⟨7, 1, 2, true⟩], 4, none, [], 0⟩

def open1 : OpenIn := ⟨[target1], copy1, copy1, some log1, true⟩

def sClosed : State := q (live.setVal STO_CE_MAP 8 2)

def sCpl : State := sStore [] { sto1 1 with cpls := [[1, 2, 3, 4, 5, 6, 7, 8]] }

def sFill : State := sStore [] { sto1 0 with head := some 7, fill := [⟨9, 0, 0, 10, 0⟩] }

def tFlush : Nat := 250 * atLeast1 (live.f STO_CFG_FLUSH_US)

def close1 : StoOp := ⟨1, 3, 5, 9, 0, 64, 0, 0, [], 10, false⟩

def sClose : State := sStore [] { sto1 0 with ops := [close1] }

def nand1 : NandBlk := ⟨3, 0, 1, 7⟩

def sQuiesce : State := sStore [] { sto1 1 with quiesce := true }

def sErase : State := sStore [] { sto1 1 with erasing := [(9, 8), (8, 7)] }

def sPatrol : State := q ((sStore [] (sto1 1)).blk.setF STO_MAINT_CFG_PATROL_DAYS 1)

def sFormat : State := sStore [10 * 65536, 7, 0x464D54] (sto1 1)

theorem witness_StoreMaintenance :
    (sClosed.blk.alive = true ∧ (sClosed.blk.stoState = 0 ∨ sClosed.blk.stoState = 4) ∧ open1.targets = [target1] ∧ target1.ce < 32 ∧
      bitOf (sClosed.blk.val STO_CE_MAP 2) target1.ce = true ∧ geoOk target1 = true ∧
      target1.luns * target1.planes * target1.blocks * target1.pages * target1.kib * 1024 ≤ 2 ^ 45 ∧ open1.copy0.magic = true ∧
      open1.copy0.ok = true ∧ open1.copy1.magic = true ∧ open1.copy1.ok = true ∧ open1.log = some log1 ∧ open1.keyOk = true ∧
      log1.wrapK = sClosed.blk.fuse.k) ∧
    (sCpl.blk.alive = true ∧ sCpl.blk.sto.cpls = [[1, 2, 3, 4, 5, 6, 7, 8]] ∧ sCpl.blk.ringFull 9 = false) ∧
    (sFill.blk.alive = true ∧ sFill.blk.sto.geo = some geo1 ∧ sFill.blk.sto.head = some 7 ∧ sFill.blk.sto.fill ≠ [] ∧
      sFill.blk.underTest 12 = false ∧ sFill.blk.sto.queue = [] ∧ sFill.blk.sto.mayHold sFill.blk.sto.fillRing = true ∧
      sFill.blk.sto.lastByte + 250 * atLeast1 (sFill.blk.f STO_CFG_FLUSH_US) ≤ max sFill.blk.now tFlush) ∧
    (sClose.blk.alive = true ∧ sClose.blk.sto.progs = [prog1] ∧ sClose.blk.sto.queue = [] ∧ sClose.blk.sto.ops = [close1] ∧ close1.op = 3 ∧
      close1.mark ≤ sClose.blk.sto.wrote - sClose.blk.sto.fill.length ∧ sClose.blk.sto.reel close1.reel = some (reel1 0) ∧ (reel1 0).st = 0) ∧
    (sQuiesce.blk.alive = true ∧ sQuiesce.blk.sto.progs = [prog1] ∧ sQuiesce.blk.sto.queue = [] ∧ sQuiesce.blk.sto.quiesce = true ∧
      sQuiesce.blk.sto.ops = []) ∧
    ((sStore [] (sto1 1)).blk.alive = true ∧ (sStore [] (sto1 1)).blk.sto.progs = [prog1] ∧ (sStore [] (sto1 1)).blk.sto.queue = [] ∧
      (sStore [] (sto1 1)).blk.stoState = 2) ∧
    ((sStore [] (sto1 1)).blk.alive = true ∧ (sStore [] (sto1 1)).blk.sto.progs = [prog1] ∧ (sStore [] (sto1 1)).blk.sto.queue = [] ∧
      (sStore [] (sto1 1)).blk.sto.geo = some geo1 ∧ nand1.block = prog1.band) ∧
    ((q (sErase.blk.setF STO_MAINT_CFG_WEAR_SPREAD 0)).blk.alive = true ∧ (q (sErase.blk.setF STO_MAINT_CFG_WEAR_SPREAD 0)).blk.stoState ≠ 5 ∧
      (q (sErase.blk.setF STO_MAINT_CFG_WEAR_SPREAD 0)).blk.sto.erasing = [(9, 8), (8, 7)] ∧
      (q (sErase.blk.setF STO_MAINT_CFG_WEAR_SPREAD 0)).blk.f STO_MAINT_CFG_WEAR_SPREAD = 0) ∧
    (sPatrol.blk.alive = true ∧ sPatrol.blk.stoState = 2 ∧ sPatrol.blk.f STO_MAINT_CFG_PATROL_DAYS ≠ 0 ∧ sPatrol.blk.underTest 12 = false ∧
      List.find? (fun e ↦ e.2.used && sPatrol.blk.sto.holds (fun r ↦ r.st != 2) e.1 && decide (e.2.patrolAt + sPatrol.blk.f STO_MAINT_CFG_PATROL_DAYS * dayClks ≤ max sPatrol.blk.now dayClks)) sPatrol.blk.sto.bands = some (7, { seq := 1, erase := 3, used := true, patrolAt := 0, cat := none })) ∧
    (sFormat.blk.alive = true ∧ sFormat.blk.StoreTakes 10 ∧ sFormat.blk.sto.geo.isSome = true ∧ sFormat.blk.reel8 = 4607316) := by
  simp only [Blk.StoreTakes]
  refine ⟨?_, ?_, ?_, ?_, ?_, ?_, ?_, ?_, ?_, ?_⟩ <;> decide +kernel

def bPhase (p : Phase) : Blk := { live with sys := { live.sys with phase := p } }

def sReset : State := q { live with sys := { live.sys with resetAt := some 0 } }

def sChange (t : Nat) : State := q ((bPhase .change).setF SEC_LC_TARGET_STATE t)

def fuseR : Fuse := { live.fuse with retire := true }

def fuse1 : Fuse := { live.fuse with k := 1, secret := (Config.secret (sChange 1).blk.freeN).toNat }

def fuse2 : Fuse := { live.fuse with k := 2 }

def sSecond : State := q { (sChange 1).blk with fuse := { live.fuse with k := 1 } }

theorem witness_Resets :
    sLive.blk.sys.phase = Phase.up ∧
    sReset.blk.sys.resetAt.isSome = true ∧
    (sChange 4).blk.sys.phase = Phase.change ∧
    ((sChange 4).blk.sys.phase = Phase.change ∧ (sChange 4).blk.f SEC_LC_TARGET_STATE = 4) ∧
    ((sChange 1).blk.sys.phase = Phase.change ∧ (sChange 1).blk.f SEC_LC_TARGET_STATE ≠ 4 ∧ (sChange 1).blk.fuse.k = 0) ∧
    (sSecond.blk.sys.phase = Phase.change ∧ sSecond.blk.f SEC_LC_TARGET_STATE ≠ 4 ∧ sSecond.blk.fuse.k ≠ 0) ∧
    (q (bPhase Phase.supply)).blk.sys.phase = Phase.supply ∧
    (sLive.blk.sys.phase = Phase.up ∧ (5395201 : Word).toNat % 2 = 1 ∧ (5395201 : Word).toNat / 256 = 21075 ∧
      sLive.blk.sys.resetAt = none) ∧
    (sLive.blk.sys.phase = Phase.up ∧ (5395457 : Word).toNat % 2 = 1 ∧ (5395457 : Word).toNat / 256 ≠ 21075) ∧
    (sBusy.blk.alive = true ∧ sBusy.blk.allIdle = false) := by
  refine ⟨?_, ?_, ?_, ?_, ?_, ?_, ?_, ?_, ?_, ?_⟩ <;> decide +kernel

def le (n k : Nat) : List Byte := (toBE n k).reverse

def header (count len : Nat) (table : List Byte) : List Byte :=
  let h := [0x46, 0x53, 0x4b, 0x4e, 1, 0] ++ le count 2 ++ le len 4 ++ List.replicate 16 0
  h ++ le (crc32 (h ++ table)) 4 ++ table

def skeinBare : List Byte := header 0 32 []

def body1 : List Byte := le (DRM_TSET0 0) 3 ++ [0] ++ le 0x800000 3

def skeinSet : List Byte := header 1 55 (le 1 2 ++ [1, 0] ++ le 48 4 ++ le 7 4 ++ le (crc32 body1) 4) ++ body1

def upsett (a b : List Byte) : UpsettIn :=
  ⟨0, 0, 0, ⟨1, 2, 3, 4, false, false, 0⟩, none, ⟨a, true⟩, ⟨b, true⟩, List.replicate 16 (true, 0), [], 0, false, true, ⟨[], ⟨false, false, 0, []⟩, ⟨false, false, 0, []⟩, none, false⟩⟩

def xNone : UpsettIn := upsett [] []

def xBare : UpsettIn := upsett skeinBare []

def xSet : UpsettIn := upsett [] skeinSet

def sReady : State := q (bPhase .ready)

def sRetired : State := q { bPhase .ready with fuse := fuseR }

theorem witness_StartUp :
    (sRetired.blk.sys.phase = Phase.ready ∧ sRetired.blk.fuse.retire = true) ∧
    (sReady.blk.sys.phase = Phase.ready ∧ sReady.blk.fuse.state ≠ 4 ∧
      copyCause (sReady.blk.upsettFirst xNone).fuse xNone (copyRoom xNone) xNone.copy0 ≠ 0 ∧
      copyCause (sReady.blk.upsettFirst xNone).fuse xNone (copyRoom xNone) xNone.copy1 ≠ 0) ∧
    (sReady.blk.sys.phase = Phase.ready ∧ sReady.blk.fuse.state ≠ 4 ∧ ((sReady.blk.upsettFirst xBare).loadSkein xBare).2 = some none ∧
      (((sReady.blk.upsettFirst xBare).loadSkein xBare).1.loaded.trainAndWipe xBare).2 = none) ∧
    (sReady.blk.sys.phase = Phase.ready ∧ sReady.blk.fuse.state ≠ 4 ∧ ((sReady.blk.upsettFirst xSet).loadSkein xSet).2 = some none ∧
      (((sReady.blk.upsettFirst xSet).loadSkein xSet).1.loaded.trainAndWipe xSet).2 = some 0) := by
  refine ⟨?_, ?_, ?_, ?_⟩ <;> decide +kernel

def sSpare (k t : Nat) : State := q { live.setF SEC_LC_TARGET_STATE t with fuse := { live.fuse with k := k } }

def sFlash (n : Nat) : State := q ((live.setVal SKN_FLASH_ADDR 255 2).setF SKN_FLASH_CTRL_COUNT_M1 n)

def cmd1 (op n : Nat) : FlashCmd := ⟨op, 0, n, 0⟩

def sCmd (op n : Nat) : State := q { live with sys := { live.sys with flash := some (cmd1 op n) } }

theorem witness_LifeCycleAndFlash :
    ((sSpare 0 1).blk.sys.phase = Phase.up ∧ (sSpare 0 1).blk.allIdle = true ∧ (∀ n < 6, (sSpare 0 1).blk.axState n = 0) ∧
      (sSpare 0 1).blk.twnState ≠ 2 ∧
      lcNext (sSpare 0 1).blk.fuse.state (sSpare 0 1).blk.fuse.k ((sSpare 0 1).blk.f SEC_LC_TARGET_STATE) = true) ∧
    ((sSpare 3 1).blk.sys.phase = Phase.up ∧
      lcNext (sSpare 3 1).blk.fuse.state (sSpare 3 1).blk.fuse.k ((sSpare 3 1).blk.f SEC_LC_TARGET_STATE) = false) ∧
    (sLive.blk.sys.phase = Phase.up ∧ sLive.blk.fb SKN_FLASH_CTRL_BUSY = false ∧ (Instr.sknFlashErase64k = Instr.sknFlashRead ∧
      3 = 0 ∨ Instr.sknFlashErase64k = Instr.sknFlashErase4k ∧ 3 = 2 ∨ Instr.sknFlashErase64k = Instr.sknFlashErase64k ∧ 3 = 3)) ∧
    ((sFlash 0).blk.sys.phase = Phase.up ∧ (sFlash 0).blk.fb SKN_FLASH_CTRL_BUSY = false ∧
      (sFlash 0).blk.val SKN_FLASH_ADDR 2 % 256 + (sFlash 0).blk.f SKN_FLASH_CTRL_COUNT_M1 + 1 ≤ 256) ∧
    ((sFlash 1).blk.sys.phase = Phase.up ∧ (sFlash 1).blk.fb SKN_FLASH_CTRL_BUSY = false ∧
      256 < (sFlash 1).blk.val SKN_FLASH_ADDR 2 % 256 + (sFlash 1).blk.f SKN_FLASH_CTRL_COUNT_M1 + 1) ∧
    ((sCmd 0 256).blk.sys.phase = Phase.up ∧ (sCmd 0 256).blk.sys.flash = some (cmd1 0 256) ∧ (cmd1 0 256).op = 0 ∧ (cmd1 0 256).n ≤ 256) ∧
    ((sCmd 3 1).blk.sys.phase = Phase.up ∧ (sCmd 3 1).blk.sys.flash = some (cmd1 3 1) ∧ (cmd1 3 1).op ≠ 0 ∧
      max (sCmd 3 1).blk.now (flashLimit 3) ≤ (cmd1 3 1).start + flashLimit (cmd1 3 1).op) ∧
    ((sCmd 1 1).blk.sys.phase = Phase.up ∧ (sCmd 1 1).blk.sys.flash = some (cmd1 1 1) ∧ (cmd1 1 1).op ≠ 0 ∧
      (cmd1 1 1).start + flashLimit (cmd1 1 1).op < max (sCmd 1 1).blk.now (flashLimit 1 + 1)) ∧
    ((sCmd 1 1).blk.sys.phase = Phase.up ∧ (sCmd 1 1).blk.sys.flash = some (cmd1 1 1) ∧
      max (sCmd 1 1).blk.now (flashLimit 1) ≤ (cmd1 1 1).start + flashLimit (cmd1 1 1).op) := by
  refine ⟨?_, ?_, ?_, ?_, ?_, ?_, ?_, ?_, ?_⟩ <;> decide +kernel

def bBst (f : Blk → Blk) (p n : Nat) : Blk := { f live with bst := { live.bst with phase := p, next := n } }

def sBst1 : State := q (bBst id 1 0)

def bRot (n : Nat) : Blk := bBst (fun b => (b.setF (PGE_TRK_STATUS_STATE 3) 2).setF BST_CFG_ROT_EN 1) 0 n

def sRot (n : Nat) : State := q (bRot n)

def tRest : Nat := 250000 * atLeast1 (live.f BST_CFG_REST_MS)

def hand1 : Handover := ⟨7, true, 1⟩

def sHand : State := q { live.wn HLK_FIRE_NUM 1 with cmp := { live.cmp with hand := some hand1 } }

def sUnit : State := q (((live.setF BST_STATUS_BUSY 1).setF BST_STATUS_UNIT 12).wn BST_REQ 4096)

theorem witness_StakesAndTests :
    (sBst1.blk.alive = true ∧ sBst1.blk.fuse.repair = none ∧ sBst1.blk.bst.phase ≠ 0) ∧
    (sLive.blk.alive = true ∧ sLive.blk.fuse.repair = none ∧ 8 < 9 ∧ (256 : Word).toNat = 2 ^ 8 ∧ sLive.blk.rn BST_REQ = 0 ∧
      sLive.blk.bst.phase = 0 ∧ sLive.blk.fb BST_STATUS_BUSY = false ∧ sLive.blk.allIdle = true) ∧
    (sLive.blk.alive = true ∧ sLive.blk.bst.phase = 0 ∧ sLive.blk.fb BST_STATUS_BUSY = false) ∧
    ((sRot 8).blk.alive = true ∧ (sRot 8).blk.bst.phase = 0 ∧ (sRot 8).blk.fb BST_STATUS_BUSY = false ∧
      (sRot 8).blk.fb BST_STATUS_ROT_STOPPED = false ∧ (sRot 8).blk.fb BST_CFG_ROT_EN = true ∧
      (sRot 8).blk.bst.restEnd + 250000 * atLeast1 ((sRot 8).blk.f BST_CFG_REST_MS) ≤ max (sRot 8).blk.now tRest ∧ (sRot 8).blk.allIdle = false ∧
      (sRot 8).blk.bst.next = 8) ∧
    ((sRot 7).blk.alive = true ∧ (sRot 7).blk.bst.phase = 0 ∧ (sRot 7).blk.fb BST_STATUS_BUSY = false ∧
      (sRot 7).blk.fb BST_STATUS_ROT_STOPPED = false ∧ (sRot 7).blk.fb BST_CFG_ROT_EN = true ∧
      (sRot 7).blk.bst.restEnd + 250000 * atLeast1 ((sRot 7).blk.f BST_CFG_REST_MS) ≤ max (sRot 7).blk.now tRest ∧ (sRot 7).blk.allIdle = false ∧
      (sRot 7).blk.bst.next < 8) ∧
    (sHand.blk.alive = true ∧ sHand.blk.cmp.hand = some hand1 ∧ hand1.toBye = true ∧ hand1.stake < 8 ∧ hand1.g ≠ 0 ∧ hand1.g ≤ sHand.blk.fireNum) ∧
    (sUnit.blk.alive = true ∧ sUnit.blk.fb BST_STATUS_BUSY = true ∧
      sUnit.blk.bst.startAt + sUnit.blk.testClks ≤ max sUnit.blk.now sUnit.blk.testClks ∧ sUnit.blk.f BST_STATUS_UNIT = 12 ∧ 9 ≤ 12 ∧ 12 < 13 ∧
      sUnit.blk.rn BST_REQ = 2 ^ 12 ∧ alook 0 sUnit.blk.bst.seeds 12 < 16) ∧
    ((sSpare 3 0).blk.alive = true ∧ (sSpare 3 0).blk.fuse.state = 3 ∧ (sSpare 3 0).blk.fuse.repair = none ∧
      (5394439 : Word).toNat % 16 ≤ 7 ∧ (5394439 : Word).toNat / 256 = 21072 ∧ (sSpare 3 0).blk.allIdle = true) ∧
    ((sSpare 3 0).blk.alive = true ∧ ((sSpare 3 0).blk.fuse.state ≠ 3 ∨ false = false)) := by
  refine ⟨?_, ?_, ?_, ?_, ?_, ?_, ?_, ?_, ?_⟩ <;> decide +kernel

def sDie : State := q ((live.setF TRM_DIE_LIM_SHUT 1000).setF TRM_DIE_LIM_WARN 999)

def trim1 : TrimVal := ⟨5, 0, 0, 1⟩

def sTrm : State := q (live.wn TRM_REQ 32)

def held1 (k : Nat) (v : Int) : HeldTrim := ⟨k, 39, 0, v, [], 0⟩

def sHeld (k : Nat) (v : Int) : State := q { live.setF (LAN_STATUS_STATE 39) 2 with now := 4096 * symPs 0, trm := { live.trm with held := [held1 k v] } }

theorem witness_TrimsAndCounters :
    (sDie.blk.alive = true ∧ sDie.blk.trm.convAt + 25000 ≤ max sDie.blk.now 25000 ∧ hottest [none, some (999 : Int)] = some (1, (999 : Int)) ∧
      (∀ h ∈ sDie.blk.trm.held, h.kind ≠ 4) ∧ (999 : Int) < (1000 : Int) ∧ (999 : Int) < sDie.blk.sf TRM_DIE_LIM_SHUT) ∧
    (sDie.blk.alive = true ∧ sDie.blk.trm.convAt + 25000 ≤ max sDie.blk.now 25000 ∧ hottest [some (1000 : Int)] = some (0, (1000 : Int)) ∧
      (∀ h ∈ sDie.blk.trm.held, h.kind ≠ 4) ∧ (1000 : Int) ≤ (1000 : Int)) ∧
    (sTrm.blk.alive = true ∧ sTrm.blk.trimWanted trim1 = true ∧ bitOf (sTrm.blk.rn TRM_REQ) (↑trim1.kind : Nat) = true) ∧
    ((sHeld 5 (1023 : Int)).blk.alive = true ∧ (sHeld 5 (1023 : Int)).blk.trm.held = [held1 5 (1023 : Int)] ∧ (held1 5 (1023 : Int)).kind = 5) ∧
    ((sHeld 0 (-126 : Int)).blk.alive = true ∧ (sHeld 0 (-126 : Int)).blk.trm.held = [held1 0 (-126 : Int)] ∧ (held1 0 (-126 : Int)).kind = 0 ∧
      (held1 0 (-126 : Int)).part = 0 ∧ (held1 0 (-126 : Int)).idx < 44 ∧ (sHeld 0 (-126 : Int)).blk.laneState (held1 0 (-126 : Int)).idx = 2 ∧
      (sHeld 0 (-126 : Int)).blk.skipWait (held1 0 (-126 : Int)).idx ≤ 4000 * ((sHeld 0 (-126 : Int)).blk.now - (held1 0 (-126 : Int)).since) ∧
      (-127 : Int) < (held1 0 (-126 : Int)).val ∧ (held1 0 (-126 : Int)).val < (127 : Int)) ∧
    (sLive.blk.alive = true ∧ (Instr.stopGroup = Instr.startGroup ∧ false = true ∨ Instr.stopGroup = Instr.stopGroup ∧ false = false)) := by
  refine ⟨?_, ?_, ?_, ?_, ?_, ?_⟩ <;> decide +kernel

def aTag : BitVec 24 := BitVec.ofNat 24 ALN_TP_TAG

def iTag : WordInfo := ⟨ALN_TP_TAG, 0, 1, .none, 0xffffff, 0, 0, 0, 0⟩

def aHead : BitVec 24 := BitVec.ofNat 24 (CMP_HEAD_CFG 0)

def iHead : WordInfo := ⟨CMP_HEAD_CFG 0, 0, 1, .idle, 0, 0xff8fff, 0, 0, 0⟩

theorem plain_tag : sBusy.blk.PlainWord aTag.toNat iTag := by
  refine ⟨?_, ?_, ?_, ?_, ?_, ?_, ?_, ?_, ?_, fun _ _ _ => rfl⟩ <;> decide +kernel

theorem plain_head : sBusy.blk.PlainWord aHead.toNat iHead := by
  refine ⟨?_, ?_, ?_, ?_, ?_, ?_, ?_, ?_, ?_, fun _ _ _ => rfl⟩ <;> decide +kernel

theorem witness_RegisterAccess :
    (sBusy.blk.PlainWord aTag.toNat iTag ∧ iTag.rwb = 0 ∧ iTag.word = 0 ∧ instOf TCI_FIFO 4 iTag.first = none) ∧
    (sBusy.blk.PlainWord aHead.toNat iHead ∧ iHead.rwb ≠ 0 ∧ iHead.rw = 0 ∧ iHead.w1c = 0 ∧ iHead.w1s = 0 ∧ iHead.bnd ≠ .cycle ∧
      perPath aHead.toNat = false) ∧
    (sBusy.blk.sys.phase = .up ∧ inBlock 0xffffff = false) ∧ sBusy.blk.spiOn = true := by
  refine ⟨⟨plain_tag, ?_⟩, ⟨plain_head, ?_⟩, ?_, ?_⟩ <;> decide +kernel

def bEth : Blk :=
  { (((((live.setF (ETH_CFG_EN 0) 1).setF (ETH_CFG_EN 1) 1).setF ETH_GCFG_MGMT_EN 1).setF ETH_GCFG_FWD 1).setVal (ETH_IP4 1) 0x0a000001 2) with
    fuse := { live.fuse with mgmtKey := 9 } }

def sEth : State := q bEth

def key9 : List Byte := toBE 9 32

def request (mac : List Byte) : List Byte := [0x46, 0x4d, 1, 1] ++ List.replicate 11 0 ++ [1] ++ mac

def mac9 : List Byte := hmac key9 (request [])

def local6 : BitVec 128 := BitVec.ofNat 128 (bEth.linkLocal 1)

def frame1 : EthFrame := ⟨List.replicate 60 255, true⟩

def fullEth : Blk := { bEth with acc := { bEth.acc with fwd := [(1, 9, 65536)] } }

theorem witness_ManagementAndEthernet :
    (sEth.blk.ethOn 1 = true ∧ (sEth.blk.holding || sEth.blk.fb ETH_GCFG_MGMT_EN) = true ∧ (request mac9).length = 48 ∧
      List.take 4 (request mac9) = [(70 : Byte), (77 : Byte), (1 : Byte), (1 : Byte)] ∧ BitVec.toNat ((request mac9).getD 4 (0 : Byte)) = 0 ∧
      beNat (slice (request mac9) 6 2) = 0 ∧ sEth.blk.mgmtKey 0 = some key9 ∧
      hmac key9 (List.take 16 (request mac9)) = List.drop 16 (request mac9) ∧
      beNat (slice (request mac9) 8 4) = sEth.blk.val ETH_MGMT_SESSION 2 ∧
      1 ≤ (beNat (slice (request mac9) 12 4) + 2 ^ 32 - alook 0 sEth.blk.acc.lastSeq 0) % 2 ^ 32 ∧
      (beNat (slice (request mac9) 12 4) + 2 ^ 32 - alook 0 sEth.blk.acc.lastSeq 0) % 2 ^ 32 < 2 ^ 31 ∧
      beNat (slice (request mac9) 12 4) ≠ alook 0 sEth.blk.acc.lastSeq 0) ∧
    (sEth.blk.ethOn 1 = true ∧ (sEth.blk.holding || sEth.blk.fb ETH_GCFG_MGMT_EN) = true ∧ (request (List.replicate 32 (0 : Byte))).length = 48 ∧
      List.take 4 (request (List.replicate 32 (0 : Byte))) = [(70 : Byte), (77 : Byte), (1 : Byte), (1 : Byte)] ∧
      BitVec.toNat ((request (List.replicate 32 (0 : Byte))).getD 4 (0 : Byte)) = 0 ∧
      beNat (slice (request (List.replicate 32 (0 : Byte))) 6 2) = 0 ∧ sEth.blk.mgmtKey 0 = some key9 ∧
      hmac key9 (List.take 16 (request (List.replicate 32 (0 : Byte)))) ≠ List.drop 16 (request (List.replicate 32 (0 : Byte)))) ∧
    (sEth.blk.ethOn 1 = true ∧ sEth.blk.ownIp4 1 (BitVec.toNat (167772161 : BitVec 32)) = true) ∧
    (sEth.blk.ethOn 1 = true ∧ sEth.blk.ownIp6 1 local6.toNat = true) ∧
    (sEth.blk.alive = true ∧ frame1.fcsOk = true ∧ sEth.blk.ethOn 0 = true ∧ sEth.blk.ethOn 1 = true ∧ sEth.blk.fb ETH_GCFG_FWD = true ∧
      (bitOf (BitVec.toNat (frame1.bytes.getD 0 (0 : Byte))) 0 = true ∨ beNat (List.take 6 frame1.bytes) ≠ sEth.blk.ethMac 0 ∧
      beNat (List.take 6 frame1.bytes) ≠ sEth.blk.ethMac 1) ∧
      (List.map (fun e ↦ e.2.2) (List.filter (fun e ↦ e.1 == 1 && decide (0 < e.2.1)) sEth.blk.acc.fwd)).sum + frame1.bytes.length ≤ 65536 ∧
      ptpOffset frame1.bytes = none) ∧
    ((q fullEth).blk.alive = true ∧ frame1.fcsOk = true ∧ (q fullEth).blk.ethOn 0 = true ∧ (q fullEth).blk.ethOn 1 = true ∧
      (q fullEth).blk.fb ETH_GCFG_FWD = true ∧
      (bitOf (BitVec.toNat (frame1.bytes.getD 0 (0 : Byte))) 0 = true ∨ beNat (List.take 6 frame1.bytes) ≠ (q fullEth).blk.ethMac 0 ∧
      beNat (List.take 6 frame1.bytes) ≠ (q fullEth).blk.ethMac 1) ∧
      65536 < (List.map (fun e ↦ e.2.2) (List.filter (fun e ↦ e.1 == 1 && decide (0 < e.2.1)) (q fullEth).blk.acc.fwd)).sum + frame1.bytes.length) ∧
    (sEth.blk.alive = true ∧ sEth.blk.ethOn 1 = true ∧ sEth.blk.ownIp4 1 (BitVec.toNat (167772161 : BitVec 32)) = true) ∧
    (sEth.blk.alive = true ∧ sEth.blk.ethOn 1 = true) := by
  refine ⟨?_, ?_, ?_, ?_, ?_, ?_, ?_, ?_⟩ <;> decide +kernel

def sTen (w0 w1 : Nat) (f : Blk → Blk) : State := q (f ((ringAt (live.setF (PGE_TRK_STATUS_STATE 3) 2) 10 [w0, w1, 0, 9, 9])))

def bst1 (b : Blk) : Blk := { b with bst := { b.bst with phase := 1 } }

def sSelf : State := sTen 0x100000 1 bst1

def sCancel : State := sTen 0x200000 0 id

def sPage10 : State := sTen 0x300000 0 fun b => (((b.setF (INS_CAM_STATUS_STATE 3) 2).setF (CMP_HEAD_CFG_EN 0) 1).setF (CMP_HEAD_CFG_ROWS_M1 0) 1)

def sTrim10 : State := sTen 0x400000 1 id

def sAxis10 (w1 : Nat) : State := sTen 0x500000 w1 id

def ev1 : Ev := ⟨0x903, 5, 6, 7, 8, 9, true, true, 1, 1, 3⟩

def bEv : Blk := { live with evq := [ev1] }

def sEv : State := q (((bEv.setF (RING_CFG_EN 5) 1).setF (RING_CFG_SIZE_LOG2 5) 4).setVal (RING_BASE 5) 4096 2)

theorem witness_CommandsAndEvents :
    (sSelf.blk.alive = true ∧ sSelf.blk.RingTen 1 ∧ sSelf.blk.fuse.repair = none ∧ sSelf.blk.bst.phase ≠ 0) ∧
    (sCancel.blk.alive = true ∧ sCancel.blk.RingTen 2 ∧ sCancel.blk.bst.phase = 0 ∧ sCancel.blk.fb BST_STATUS_BUSY = false) ∧
    (sPage10.blk.alive = true ∧ sPage10.blk.RingTen 3 ∧ sPage10.blk.ins.tp = none ∧ sPage10.blk.shuttle = false ∧
      (∃ c < 4, sPage10.blk.camUp c = true) ∧ 1 < sPage10.blk.maxRows) ∧
    (sTrim10.blk.alive = true ∧ sTrim10.blk.RingTen 4) ∧
    ((sAxis10 13).blk.alive = true ∧ (sAxis10 13).blk.RingTen 5 ∧ (sAxis10 13).blk.word10 1 % 8 < 6 ∧
      bitOf ((sAxis10 13).blk.word10 1) 3 = true ∧ (sAxis10 13).blk.word10 2 = 0) ∧
    ((sAxis10 6).blk.alive = true ∧ (sAxis10 6).blk.RingTen 5 ∧ 6 ≤ (sAxis10 6).blk.word10 1 % 8) ∧
    (sEv.blk.alive = true ∧ sEv.blk.evq = [ev1] ∧ sEv.blk.acc.lost = 0 ∧ bitOf (sEv.blk.rn (evtCode ev1.code)) 4 = false ∧
      sEv.blk.f EVT_CFG_REC_SEV ≤ sEv.blk.severity ev1.code ∧ sEv.blk.ringFull 5 = false) ∧
    ((q bEv).blk.alive = true ∧ (q bEv).blk.evq = [ev1] ∧ (q bEv).blk.acc.lost = 0 ∧ bitOf ((q bEv).blk.rn (evtCode ev1.code)) 4 = false ∧
      (q bEv).blk.f EVT_CFG_REC_SEV ≤ (q bEv).blk.severity ev1.code ∧ (q bEv).blk.ringFull 5 = true) ∧
    (sLive.blk.alive = true ∧ (∀ u < 4, sLive.blk.trkState u ≠ 1) ∧
      ((alook { out := false, run := 0 } sLive.blk.acc.gios 15).feed (atLeast1 (sLive.blk.f (PAD_GIO_CFG_FILT_N 15))) 4 300 true).2 = some 4) := by
  simp only [Blk.RingTen]
  refine ⟨?_, ?_, ?_, ?_, ?_, ?_, ?_, ?_, ?_⟩ <;> decide +kernel

theorem witness_QuietWhileDown : sRetired.blk.alive = false ∧ always (.trackArm 3) = false := by decide +kernel

def sQueue : State := ⟨live, [.trackArm 3]⟩

theorem witness_StepsKeepTheForm : sQueue.wf = true ∧ step sQueue = exec (.trackArm 3) ⟨live, []⟩ := ⟨by decide +kernel, rfl⟩

theorem witness_NothingIsUndone : ∃ t, step sQueue = .next t := ⟨_, rfl⟩

end Sys2Proof.Tests
end

section
/-!
PROOFS. Encoder commands, and an entry of ring 11 that comes late (R58, R77, R79, R84).
-/

namespace Sys2Proof.Machine

/-! ### Commands that act on the block alone -/

/-- A command that acts on the block alone completes with what its operation makes of a block at work. -/
theorem Completes.of_on {c : Instr} {s : State} {f : Blk → Blk} {p : Blk → Prop} (hc : exec c s = s.on f) (hs : s.blk.alive = true)
    (hp : p (f s.blk)) : Completes c s p :=
  ⟨{ s with blk := f s.blk }, by rw [hc, State.on, if_pos hs], rfl, hp⟩

/-- Where such a command completes, the block it leaves is what its operation makes of the one before. -/
theorem Completes.on {c : Instr} {s : State} {f : Blk → Blk} {p : Blk → Prop} (h : Completes c s p) (hc : exec c s = s.on f)
    (hs : s.blk.alive = true) : p (f s.blk) := by
  obtain ⟨t, ht, -, hp⟩ := h
  rw [hc, State.on, if_pos hs] at ht
  obtain rfl := Host.Outcome.next.inj ht
  exact hp

/-! ### A fault that stays -/

/-- Encoder `n` is faulted with cause 0, the events `q` stand first in the queue, and no value is held for the encoder's status word. Whatever
follows a FORCE_FAULT keeps this. -/
structure Blk.FaultKept (s : Blk) (n : Fin 8) (q : List Ev) : Prop where
  fault : s.f (POS_STATUS_FAULT n) = 1
  cause : s.f (POS_STATUS_FAULT_CAUSE n) = 0
  events : q <+: s.evq
  unheld : ∀ x ∈ s.held, x.addr ≠ POS_STATUS n

/-- From 0x020100 on lie the registers after those of the encoders. -/
theorem posStatus_lt {n : Fin 8} {a : Nat} (ha : 0x020100 ≤ a) : POS_STATUS n < a := by
  have := n.isLt
  show 0x020004 + 0x20 * n.val < a
  omega

namespace Blk.FaultKept

/-! Writes of words and fields, and what the operations are put together from. In the proofs below `s1`, `s2`, … name the states that an
operation passes through, in its own order, and `h1`, `h2`, … say that the fault stands in each. An address from 0x020100 on is written
`c + 0x020100`, that of an indexed register `c + 0x020100 + b * i`: so a lemma finds by itself that a register lies behind the encoders'. -/

variable {n : Fin 8} {q : List Ev} {s : Blk}

theorem setReg (h : s.FaultKept n q) {a : Nat} {w : Word} (ha : a ≠ POS_STATUS n) : (s.setReg a w).FaultKept n q := by
  obtain ⟨hf, hc, he, hh⟩ := h
  unfold Blk.f Blk.rn at hf hc
  rw [← Blk.reg_setReg_ne s w ha.symm] at hf hc
  exact ⟨hf, hc, he, hh⟩

theorem wn (h : s.FaultKept n q) {c v : Nat} : (s.wn (c + 0x020100) v).FaultKept n q :=
  h.setReg (posStatus_lt (Nat.le_add_left _ _)).ne'

theorem wn_indexed (h : s.FaultKept n q) {c b i v : Nat} : (s.wn (c + 0x020100 + b * i) v).FaultKept n q :=
  h.setReg (posStatus_lt (by omega)).ne'

theorem setF (h : s.FaultKept n q) {c hi lo v : Nat} : (s.setF ⟨c + 0x020100, hi, lo⟩ v).FaultKept n q := h.wn

theorem setF_indexed (h : s.FaultKept n q) {c b i hi lo v : Nat} : (s.setF ⟨c + 0x020100 + b * i, hi, lo⟩ v).FaultKept n q :=
  h.wn_indexed

theorem ite {c : Prop} [Decidable c] {a b : Blk} (ha : a.FaultKept n q) (hb : b.FaultKept n q) :
    (if c then a else b).FaultKept n q := by
  split
  · exact ha
  · exact hb

theorem foldl {α : Type} {f : Blk → α → Blk} (hf : ∀ t x, t.FaultKept n q → (f t x).FaultKept n q) (l : List α) (h : s.FaultKept n q) :
    (l.foldl f s).FaultKept n q := List.foldlRecOn l f h fun t g x _ => hf t x g

theorem setVal_beside (h : s.FaultKept n q) {a v k : Nat} (ha : a + k ≤ POS_STATUS n ∨ POS_STATUS n < a) :
    (s.setVal a v k).FaultKept n q := by
  induction k generalizing s a v with
  | zero => exact h
  | succ k ih => exact ih (h.setReg (by omega)) (by omega)

theorem setVal (h : s.FaultKept n q) {c v k : Nat} : (s.setVal (c + 0x020100) v k).FaultKept n q :=
  h.setVal_beside (.inr (posStatus_lt (Nat.le_add_left _ _)))

theorem setVal_indexed (h : s.FaultKept n q) {c b i v k : Nat} : (s.setVal (c + 0x020100 + b * i) v k).FaultKept n q :=
  h.setVal_beside (.inr (posStatus_lt (by omega)))

/-- A new value for fields other than the registers, the events and the held values keeps the fault. -/
theorem put (h : s.FaultKept n q) {now freeN mem out wires holding tim bcn encs lck scheds pevs trks cmp ports mbx cams ins sht axes twn
    dram lanes scan links wal time streams sto bst trm fuse sys acc} :
    Blk.FaultKept ⟨now, freeN, s.regs, s.held, mem, s.evq, out, wires, holding, tim, bcn, encs, lck, scheds, pevs, trks, cmp, ports, mbx, cams, ins,
      sht, axes, twn, dram, lanes, scan, links, wal, time, streams, sto, bst, trm, fuse, sys, acc⟩ n q := ⟨h.fault, h.cause, h.events, h.unheld⟩

theorem raiseL (h : s.FaultKept n q) {c i d0 d1 l : Nat} : (s.raiseL c i d0 d1 l).FaultKept n q :=
  ⟨h.fault, h.cause, h.events.trans (List.prefix_append _ _), h.unheld⟩

theorem raise (h : s.FaultKept n q) {c i d0 d1 : Nat} : (s.raise c i d0 d1).FaultKept n q := h.raiseL

/-! Axes and the fetch tolerance -/

theorem setAxState (h : s.FaultKept n q) {k v : Nat} : (s.setAxState k v).FaultKept n q := h.setF_indexed

theorem setActTarget (h : s.FaultKept n q) {k : Nat} {x : Int} : (s.setActTarget k x).FaultKept n q := h.setVal_indexed

theorem axStop (h : s.FaultKept n q) {k : Nat} {lim : Bool} : (s.axStop k lim).FaultKept n q :=
  (h.put.put : ((s.setAx k _).setAx k _).FaultKept n q).setActTarget.setAxState

theorem gearFault (h : s.FaultKept n q) {m k : Nat} : (Blk.gearFault m s k).FaultKept n q := h.axStop.raise.ite h

theorem updateLat (h : s.FaultKept n q) : s.updateLat.FaultKept n q := by
  unfold Blk.updateLat
  extract_lets tols
  split
  · exact h.wn
  · exact h.wn

/-! Tracks and schedules -/

theorem putTrk (h : s.FaultKept n q) {t : Nat} {x : Trk} : (s.putTrk t x).FaultKept n q :=
  (h.put : (s.setTrk t x).FaultKept n q).setF_indexed

theorem putSched (h : s.FaultKept n q) {t : Nat} {l : List SchedEntry} : (s.putSched t l).FaultKept n q :=
  (h.put : (s.setSched t l).FaultKept n q).setF_indexed

theorem mapPages (h : s.FaultKept n q) {t : Nat} {p : Page} {f : Page → Page} : (s.mapPages t p f).FaultKept n q := h.putTrk

theorem noteEmpty (h : s.FaultKept n q) {t : Nat} : (s.noteEmpty t).FaultKept n q := h.putTrk.ite h

/-! Counters, image memory and rings -/

theorem countOne (h : s.FaultKept n q) {src k i : Nat} : (Blk.countOne src k s i).FaultKept n q :=
  (h.setVal_indexed.ite h.setVal_indexed.setF.raise).ite h

theorem count (h : s.FaultKept n q) {src k : Nat} : (s.count src k).FaultKept n q := h.ite (foldl (fun _ _ g => g.countOne) _ h)

theorem memWrites (h : s.FaultKept n q) {a : Nat} {bs : List Byte} : (s.memWrites a bs).FaultKept n q := by
  induction bs generalizing s a with
  | nil => exact h
  | cons b r ih => exact ih h.put

theorem withDram (h : s.FaultKept n q) {f : Service → Dram → Dram} : (s.withDram f).FaultKept n q := h.put

theorem request (h : s.FaultKept n q) {c p cls bank : Nat} {write : Bool} : (s.request c p cls bank write).FaultKept n q := by
  unfold Blk.request
  extract_lets d1 s1 x s2 d2 s3 s4 s5
  have h1 : s1.FaultKept n q := h.put
  have h2 : s2.FaultKept n q := by
    unfold s2 x
    split
    · exact h1.setF.setF
    · exact h1.setF.setF
  have h3 : s3.FaultKept n q := h2.put.ite h1.setF
  have h5 : s5.FaultKept n q := h3.withDram.count.ite h3.withDram
  exact h5.withDram

theorem rowDisturb (h : s.FaultKept n q) {p : Nat} {w : Nat × Nat × Nat × Nat} : (s.rowDisturb p w).FaultKept n q := by
  unfold Blk.rowDisturb
  extract_lets s1 k s2 s3
  have h1 : s1.FaultKept n q := ite (h.put : (s.throttle p w).FaultKept n q) h
  have h2 : s2.showThrot.FaultKept n q := h1.withDram.setF
  exact h2.setF.count.raise

theorem activate (h : s.FaultKept n q) {p a : Nat} : (s.activate p a).FaultKept n q := by
  unfold Blk.activate
  extract_lets th w key r cross t d s1
  have h1 : s1.FaultKept n q := h.put
  exact h.ite (h1.rowDisturb.ite h1)

theorem burst (h : s.FaultKept n q) {p a : Nat} {write : Bool} : (Blk.burst p write s a).FaultKept n q :=
  h.raise.ite h.request.withDram.activate

theorem access (h : s.FaultKept n q) {p a k : Nat} {write : Bool} : (s.access p a k write).FaultKept n q :=
  foldl (fun _ _ g => g.burst) _ h

theorem ringPut (h : s.FaultKept n q) {r : Nat} {ws : List Nat} : (s.ringPut r ws).FaultKept n q :=
  (h.access.memWrites : (s.imgWrite _ _ _).FaultKept n q).wn_indexed

/-! The master's fault: releases, and tracks that are held or leave -/

theorem postRelease (h : s.FaultKept n q) {t : Nat} : (s.postRelease t).1.FaultKept n q := by
  unfold Blk.postRelease
  extract_lets x
  split
  · exact h
  · split
    · exact h
    · split
      · split
        · exact h
        · exact h.mapPages.wn
      · exact h.ringPut.mapPages.noteEmpty

theorem postReleases (h : s.FaultKept n q) {t k : Nat} : (s.postReleases t k).FaultKept n q := by
  induction k generalizing s with
  | zero => exact h
  | succ k ih => exact (ih h.postRelease).ite h.postRelease

theorem trackIdle (h : s.FaultKept n q) {t : Nat} : (s.trackIdle t).FaultKept n q := by
  unfold Blk.trackIdle
  extract_lets x atEnd left y s1 s2 s3 s4 mark i s5
  have h1 : s1.FaultKept n q := h.putTrk
  have h2 : s2.FaultKept n q := h1.putSched
  have h3 : s3.FaultKept n q := h2.setF_indexed.setF_indexed
  have h4 : s4.FaultKept n q := h3.setF.ite h3
  have h5 : s5.FaultKept n q := h4.put
  exact h5.postReleases

theorem trackHold (h : s.FaultKept n q) {t : Nat} : (s.trackHold t).FaultKept n q := by
  unfold Blk.trackHold
  extract_lets s1
  have h1 : s1.FaultKept n q := h.setF_indexed
  exact h.trackIdle.ite ((h1.setF.ite h1).ite h)

theorem masterFault (h : s.FaultKept n q) : s.masterFault.FaultKept n q := by
  unfold Blk.masterFault Blk.masterHold
  extract_lets fb p f s1 l s2
  have h1 : s1.FaultKept n q := h.setVal.setF
  have h2 : s2.FaultKept n q := h1.put
  exact h.ite (h2.raise.updateLat.ite (foldl (fun _ _ g => g.trackHold) _ h.setF))

/-! Encoders -/

/-- IDX_SEEN shares its word with the fault's fields. -/
theorem setF_idxSeen (h : s.FaultKept n q) {m v : Nat} : (s.setF (POS_STATUS_IDX_SEEN m) v).FaultKept n q := by
  refine ⟨?_, ?_, h.events, h.unheld⟩
  · rw [Blk.f_setF_ne s _ (POS_STATUS_FAULT n) v (by simp) (by simp) (by simp) (by simp), h.fault]
  · rw [Blk.f_setF_ne s _ (POS_STATUS_FAULT_CAUSE n) v (by simp) (by simp) (by simp) (by simp), h.cause]

/-- What follows an encoder's fault: geared axes and the line clock act (R59, R279). -/
theorem followers (h : s.FaultKept n q) {m : Nat} :
    (let t := (List.range 6).foldl (Blk.gearFault m) s; if t.masterEnc = some m then t.masterFault else t).FaultKept n q := by
  extract_lets t
  have ht : t.FaultKept n q := foldl (fun _ _ g => g.gearFault) _ h
  exact ht.masterFault.ite ht

theorem fb_fault (h : s.FaultKept n q) : s.fb (POS_STATUS_FAULT n) = true := by
  rw [Blk.fb, h.fault]
  rfl

/-- A fault of the same encoder changes nothing, one of another encoder writes another status word. -/
theorem encFault (h : s.FaultKept n q) {m cause : Nat} : (s.encFault m cause).FaultKept n q := by
  by_cases hm : m = n
  · subst hm
    rwa [Blk.encFault, if_pos h.fb_fault]
  · have hne : POS_STATUS m ≠ POS_STATUS n := by simpa using hm
    have hs : ((s.setF (POS_STATUS_FAULT m) 1).setF (POS_STATUS_FAULT_CAUSE m) cause).FaultKept n q := (h.setReg hne).setReg hne
    exact h.ite hs.raise.followers

theorem indexCapture (h : s.FaultKept n q) {m : Nat} : (s.indexCapture m).FaultKept n q := by
  unfold Blk.indexCapture
  extract_lets e cap rev s1 s2 keep cpr lim s3 e3
  have hkeep {t : Blk} {p : Int} (ht : t.FaultKept n q) : (keep t p).FaultKept n q :=
    (ht.put : (t.setEnc m { t.enc m with idxPrev := some (p, rev) }).FaultKept n q).setF_idxSeen
  have h1 : s1.FaultKept n q := h.setVal_beside (by simp only [POS_IDX_CAPTURE, POS_STATUS]; omega)
  have h2 : s2.FaultKept n q := h1.put
  split
  · exact hkeep h2
  · extract_lets want d s4 corr s5 w s6 k e6 s7
    have h3 : s3.FaultKept n q := hkeep h2
    have h4 : s4.FaultKept n q :=
      (h2.setVal_beside (a := POS_IDX_DEV m) (by simp only [POS_IDX_DEV, POS_STATUS]; omega)).raise.count
    have h5 : s5.FaultKept n q :=
      hkeep (h4.setVal_beside (a := POS_COUNT m) (by simp only [POS_COUNT, POS_STATUS]; omega))
    have h6 : s6.FaultKept n q := (ite h5.put h5).ite ((hkeep h4).encFault.ite (hkeep h4))
    have h7 : s7.FaultKept n q := h6.put
    exact (hkeep h2).ite (ite h3.put (h7.encFault.ite h7))

theorem gateCheck (h : s.FaultKept n q) {m : Nat} : (s.gateCheck m).FaultKept n q := h.indexCapture.ite h

theorem idxChanged (h : s.FaultKept n q) {m : Nat} : (s.idxChanged m).FaultKept n q :=
  (h.put : (s.setEnc m _).FaultKept n q).gateCheck

theorem encEnable (h : s.FaultKept n q) {m : Nat} : (s.encEnable m).FaultKept n q := h.setF_idxSeen.put

/-! Held values -/

theorem setRegs (h : s.FaultKept n q) {l : List Held} (hl : ∀ x ∈ l, x.addr ≠ POS_STATUS n) :
    (l.foldl (fun t x => t.setReg x.addr x.val) s).FaultKept n q := by
  induction l generalizing s with
  | nil => exact h
  | cons x l ih =>
    rw [List.forall_mem_cons] at hl
    exact ih (h.setReg hl.1) hl.2

theorem commit (h : s.FaultKept n q) {p : Held → Bool} : (s.commit p).FaultKept n q := by
  have hs : ({ s with held := s.held.filter fun x => !p x } : Blk).FaultKept n q :=
    ⟨h.fault, h.cause, h.events, fun x hx => h.unheld x (List.mem_of_mem_filter hx)⟩
  exact h.ite (hs.setRegs fun x hx => h.unheld x (List.mem_of_mem_filter hx))

/-! Lanes -/

theorem tsDone (h : s.FaultKept n q) {m : Nat} : (s.tsDone m).FaultKept n q := by
  unfold Blk.tsDone
  extract_lets x
  split
  · exact h
  · exact ite (h.put : (s.setTx m _).FaultKept n q) (h.put : (s.setTx m _).FaultKept n q)

theorem listSlot (h : s.FaultKept n q) {m k : Nat} {ctrl : Bool} {ws : List Nat} : (s.listSlot m k ctrl ws).FaultKept n q :=
  (h.put.put : ((s.setTx m _).putLineBits m _ _).FaultKept n q)

theorem putSlot (h : s.FaultKept n q) {m k : Nat} {ctrl : Bool} {ws : List Nat} : (s.putSlot m k ctrl ws).FaultKept n q :=
  (h.listSlot.ite h).listSlot

theorem tsSend (h : s.FaultKept n q) {m : Nat} : (s.tsSend m).FaultKept n q := by
  unfold Blk.tsSend
  extract_lets want s1 x k since
  have h1 : s1.FaultKept n q := h.tsDone
  split
  · exact h
  · clear_value want
    split
    · exact h1
    · exact ite (h1.put : (s1.setTx m _).FaultKept n q).putSlot (h1.put.put : ((s1.setTx m _).putLineBits m _ _).FaultKept n q)

theorem scanLeft (h : s.FaultKept n q) {m : Nat} : (s.scanLeft m).FaultKept n q := by
  have ha : s.scanAbort.FaultKept n q := by
    unfold Blk.scanAbort
    split
    · exact h.ite h.setF.put
    · exact h
  unfold Blk.scanLeft
  split
  · exact ha.ite h
  · exact h

theorem laneOff (h : s.FaultKept n q) {m : Nat} : (s.laneOff m).FaultKept n q := by
  unfold Blk.laneOff
  extract_lets s1 s2 s3
  have h1 : s1.FaultKept n q := h.setF_indexed.ite h
  have h2 : s2.FaultKept n q := h1.setF_indexed.setF_indexed.setF_indexed.setF_indexed
  have h3 : s3.FaultKept n q := h2.tsSend
  exact (h3.put : (s3.setLane m _).FaultKept n q).scanLeft

theorem eqTake (h : s.FaultKept n q) {m : Nat} : (s.eqTake m).FaultKept n q := h.ite h.commit.setF_indexed

theorem laneStep (h : s.FaultKept n q) {m r : Nat} : (s.laneStep m r).FaultKept n q := by
  unfold Blk.laneStep
  extract_lets s1 s2 log tried s3 start x tx
  have h1 : s1.FaultKept n q := (h.setF_indexed.setF_indexed : (s.showRate m r).FaultKept n q).setF_indexed.eqTake
  have h2 : s2.FaultKept n q := h1.setF_indexed.ite h1
  have h3 : s3.FaultKept n q := h2.wn_indexed
  exact (h3.put : (s3.setLane m _).FaultKept n q).tsSend

theorem laneTrain (h : s.FaultKept n q) {m : Nat} : (s.laneTrain m).FaultKept n q := by
  unfold Blk.laneTrain
  extract_lets s1 s2 s3 s4 s5 x y z s6
  have h1 : s1.FaultKept n q := h.commit
  have h2 : s2.FaultKept n q := h1.setF_indexed.ite h1
  have h3 : s3.FaultKept n q := h2.tsDone
  have h4 : s4.FaultKept n q := h3.setF_indexed.setF_indexed.setF_indexed
  have h5 : s5.FaultKept n q := h4.wn_indexed.scanLeft
  have h6 : s6.FaultKept n q := h5.put
  exact h1.laneOff.ite h6.laneStep

theorem laneEnable (h : s.FaultKept n q) {m : Nat} : (s.laneEnable m).FaultKept n q :=
  (h.laneTrain.ite h).ite (h.ite (h.ite h.laneOff))

/-! Ports, cameras and wale links -/

theorem txCut (h : s.FaultKept n q) {m : Nat} {ps : Int} : (s.txCut m ps).FaultKept n q := by
  have ht : (s.txTo m ps).FaultKept n q := by
    unfold Blk.txTo
    extract_lets x p k go c fill since f turns y t
    have h1 : t.FaultKept n q := h.put
    exact h1.ite h1.put
  exact ht.put

theorem abortLine (h : s.FaultKept n q) {k : Nat} : (s.abortLine k).FaultKept n q := by
  unfold Blk.abortLine
  extract_lets p
  split
  · have hp : (s.setPort k { p with frame := none }).FaultKept n q := h.put
    exact ite hp.txCut.put h
  · exact h

theorem portDrop (h : s.FaultKept n q) {k : Nat} : (s.portDrop k).FaultKept n q := h.put

theorem portEnable (h : s.FaultKept n q) {k : Nat} : (s.portEnable k).FaultKept n q := by
  unfold Blk.portEnable
  extract_lets t
  have ht : t.FaultKept n q := h.setF_indexed.ite h
  have hl : (s.portLane k).FaultKept n q := h.portDrop.setF_indexed.setF_indexed
  exact (hl.laneEnable.ite h).ite (h.ite ht.abortLine.portDrop.setF_indexed.laneEnable)

theorem camEnable (h : s.FaultKept n q) {c : Nat} : (s.camEnable c).FaultKept n q := by
  have hs : ((s.setF (INS_CAM_STATUS_STATE c) 0).setCam c { Cam.init with mark := (s.cam c).mark }).FaultKept n q := h.setF_indexed.put
  exact (h.setF_indexed.laneEnable.ite h).ite (h.ite hs.laneEnable)

theorem linkForm (h : s.FaultKept n q) {l m : Nat} : (s.linkForm l m).FaultKept n q := by
  unfold Blk.linkForm
  extract_lets ls up r hv s1 x s2 s3 s4
  have h1 : s1.FaultKept n q := h.setF_indexed.setF_indexed.setF_indexed
  have h2 : s2.FaultKept n q := (h1.put : (s1.setLink l _).FaultKept n q).setF_indexed
  have h3 : s3.FaultKept n q := h.setF_indexed.setF_indexed.setF_indexed
  have h4 : s4.FaultKept n q := (h3.setF_indexed.put : (Blk.setLink _ l _).FaultKept n q).setF_indexed
  exact h.ite (h2.raise.ite h4.raise)

theorem splitChanged (h : s.FaultKept n q) : s.splitChanged.FaultKept n q :=
  foldl (fun _ _ g => g.linkForm.setF_indexed.ite g.linkForm) _ h

/-! What waits for idle -/

theorem timCfgApplied (h : s.FaultKept n q) {old : Nat} : (s.timCfgApplied old).FaultKept n q := by
  unfold Blk.timCfgApplied
  extract_lets x s1 s2 s3
  have h1 : s1.FaultKept n q := h.put
  have h2 : s2.FaultKept n q := h1.setF.setF
  have h3 : s3.FaultKept n q := h2.ite h2.setF
  exact h3.setF.ite h3

theorem rateCheck (h : s.FaultKept n q) {k : Nat} : (s.rateCheck k).FaultKept n q := by
  unfold Blk.rateCheck
  extract_lets slow thin s1 s2
  have h1 : s1.FaultKept n q := h.setF_indexed
  have h2 : s2.FaultKept n q := h1.raise.ite h1
  refine h.setF_indexed.ite (h.ite ?_)
  clear_value thin
  split
  · exact h2.raise
  · exact h2

theorem rateRecheck (h : s.FaultKept n q) : s.rateRecheck.FaultKept n q := foldl (fun _ _ g => g.rateCheck.ite g) _ h

theorem idleHook (h : s.FaultKept n q) {old : Blk} {a : Nat} : (Blk.idleHook old s a).FaultKept n q := by
  refine h.setF.ite <| h.timCfgApplied.ite <| h.rateRecheck.ite <|
    (h.ite (h.idxChanged.ite h.encEnable)).ite <| (h.idxChanged.ite h).ite <|
    (h.setF.raise.ite h).ite <| h.portEnable.ite <| h.camEnable.ite <| (h.ite h.splitChanged).ite <| ite ?_ h
  exact foldl (fun _ _ g => g.put) _ h

theorem rejFlush (h : s.FaultKept n q) : s.rejFlush.FaultKept n q := by
  refine foldl (fun t k g => g.ite ?_) _ h
  extract_lets i t1
  have h1 : t1.FaultKept n q := g.put
  exact (h1.wn_indexed : (t1.showQueue k).FaultKept n q).raise

theorem linkStart (h : s.FaultKept n q) : s.linkStart.FaultKept n q :=
  (foldl (fun _ _ g => g.put) _ h).put.put

theorem clockStart (h : s.FaultKept n q) : s.clockStart.FaultKept n q := by
  unfold Blk.clockStart
  extract_lets s1 s2 s3 s4 i s5 s6 l s7 w s8
  have h1 : s1.FaultKept n q := h.setF.setF
  have h2 : s2.FaultKept n q := foldl (fun _ _ g => g.setVal_indexed) _ h1.setVal
  have h3 : s3.FaultKept n q := h2.rejFlush.linkStart
  have h4 : s4.FaultKept n q := foldl (fun _ _ g => g.put) _ h3
  have h5 : s5.FaultKept n q := h4.put
  have h6 : s6.FaultKept n q := h5.ite h5.setVal
  have h7 : s7.FaultKept n q := h6.put
  have h8 : s8.FaultKept n q := h7.put
  exact h.ite (h8.masterFault.ite h8)

theorem putPev (h : s.FaultKept n q) {k : Nat} {p : Pev} : (s.putPev k p).FaultKept n q := by
  unfold Blk.putPev
  extract_lets was s1
  have h1 : s1.FaultKept n q := (h.put : (s.setPev k p).FaultKept n q).setF
  exact h1.ite h1.put

theorem clockStop (h : s.FaultKept n q) : s.clockStop.FaultKept n q := by
  unfold Blk.clockStop
  extract_lets s1 s2
  have h1 : s1.FaultKept n q := h.setF.setF
  have h2 : s2.FaultKept n q := foldl (fun _ _ g => g.putSched) _ h1
  have h3 : s2.pevEndCounts.FaultKept n q := foldl (fun _ _ g => g.putPev.ite g) _ h2
  exact h.ite h3.rejFlush

theorem idleCommit (h : s.FaultKept n q) : s.idleCommit.FaultKept n q := by
  unfold Blk.idleCommit
  extract_lets go t
  have ht : t.FaultKept n q := foldl (fun _ _ g => g.idleHook) _ h.commit
  have hr : t.runHook.FaultKept n q := ht.clockStart.ite ht.clockStop
  exact h.ite (hr.ite ht)

/-! Self-test -/

theorem testUnit (h : s.FaultKept n q) {u : Nat} : (s.testUnit u).FaultKept n q := h.setF.setF.put

theorem handStart (h : s.FaultKept n q) {k : Nat} {toBye : Bool} : (s.handStart k toBye).FaultKept n q := by
  unfold Blk.handStart
  extract_lets b s1 s2
  have h1 : s1.FaultKept n q := h.put
  have h2 : s2.FaultKept n q := h1.setF
  exact h2.put

theorem bstGo (h : s.FaultKept n q) : s.bstGo.FaultKept n q := by
  unfold Blk.bstGo
  split
  · exact h
  · split
    · exact h
    · extract_lets s1 b s2
      have h1 : s1.FaultKept n q := h.put
      have h2 : s2.FaultKept n q := h1.put.ite h1
      exact h2.handStart.ite h2.testUnit

theorem restOver (h : s.FaultKept n q) : s.restOver.FaultKept n q := by
  unfold Blk.restOver
  extract_lets b s1 s2
  have h1 : s1.FaultKept n q := h.put
  have h2 : s2.FaultKept n q := h1.wn.ite h1
  exact h2.bstGo

theorem handDone (h : s.FaultKept n q) : s.handDone.FaultKept n q := by
  unfold Blk.handDone
  split
  · exact h
  · extract_lets line s1 b
    have he : s.handEnd.FaultKept n q := h.setF.put
    have h1 : s1.FaultKept n q := he.setF.wn.count.raise
    have h2 : ({ s1 with bst := { b with handed := true } } : Blk).FaultKept n q := h1.put
    exact h2.testUnit.ite h1.restOver

theorem settle (h : s.FaultKept n q) : s.settle.FaultKept n q :=
  ite (h.handDone.ite h : s.handAtIdle.FaultKept n q).idleCommit.bstGo h

end Blk.FaultKept

/-! ### FORCE_FAULT -/

/-- The status word of a sound encoder as its fault is entered, and the event of it (R58). -/
def Blk.faultEntered (s : Blk) (n cause : Nat) : Blk :=
  ((s.setF (POS_STATUS_FAULT n) 1).setF (POS_STATUS_FAULT_CAUSE n) cause).raise 0x122 n n cause

theorem Blk.encFault_of_sound {s : Blk} {n : Nat} (cause : Nat) (hf : s.fb (POS_STATUS_FAULT n) = false) :
    s.encFault n cause =
      let t := (List.range 6).foldl (Blk.gearFault n) (s.faultEntered n cause)
      if t.masterEnc = some n then t.masterFault else t := by
  rw [Blk.encFault, hf]
  rfl

theorem Blk.f_faultEntered_fault (s : Blk) (n cause : Nat) : (s.faultEntered n cause).f (POS_STATUS_FAULT n) = 1 := by
  rw [Blk.faultEntered, Blk.f_raise, Blk.f_setF_ne _ _ _ _ (by simp) (by simp) (by simp) (by simp),
    Blk.f_setF_same _ _ _ (by simp) (by simp)]
  rfl

theorem Blk.f_faultEntered_cause (s : Blk) (n : Nat) : (s.faultEntered n 0).f (POS_STATUS_FAULT_CAUSE n) = 0 := by
  rw [Blk.faultEntered, Blk.f_raise, Blk.f_setF_same _ _ _ (by simp) (by simp), Nat.zero_mod]

theorem Blk.reg_faultEntered_ne (s : Blk) (n cause : Nat) {a : Nat} (ha : a ≠ POS_STATUS n) :
    (s.faultEntered n cause).reg a = s.reg a := by
  rw [Blk.faultEntered, Blk.reg_raise, Blk.reg_setF_ne _ _ _ ha, Blk.reg_setF_ne _ _ _ ha]

theorem Blk.f_faultEntered_ne (s : Blk) (n cause : Nat) {x : Fld} (hx : x.addr ≠ POS_STATUS n) :
    (s.faultEntered n cause).f x = s.f x := by
  rw [Blk.f, Blk.f, Blk.rn, Blk.rn, s.reg_faultEntered_ne n cause hx]

/-- What keeps the queue of a fault just entered has raised ENCODER_FAULT. -/
theorem Blk.raised_of_faultEntered {s b : Blk} {n : Fin 8} (h : (s.faultEntered n 0).evq <+: b.evq) : s.Raised b 0x122 n n 0 := by
  obtain ⟨l, hl⟩ := h
  have hn := n.isLt
  refine ⟨_ :: l, _, by rw [← hl, Blk.faultEntered, Blk.raise, Blk.raiseL, List.append_assoc]; rfl, List.mem_cons_self, rfl, ?_, ?_, rfl⟩
  · exact Nat.mod_eq_of_lt (by omega)
  · exact Nat.mod_eq_of_lt (by omega)

/-- Whatever follows FORCE_FAULT of a sound encoder, the fault stays as it was entered. -/
theorem Blk.faultKept_forceFault {s : Blk} {n : Fin 8} (hh : ∀ x ∈ s.held, x.addr ≠ POS_STATUS n)
    (hf : s.fb (POS_STATUS_FAULT n) = false) : (posForce n s).settle.FaultKept n (s.faultEntered n 0).evq := by
  have h0 : (s.faultEntered n 0).FaultKept n (s.faultEntered n 0).evq :=
    ⟨s.f_faultEntered_fault n 0, s.f_faultEntered_cause n, List.prefix_rfl, hh⟩
  rw [posForce, Blk.encFault_of_sound 0 hf]
  exact h0.followers.settle

theorem Blk.settle_of_busy {s : Blk} (h : s.allIdle = false) : s.settle = s := by rw [Blk.settle, h]; rfl

theorem Blk.gearFault_of_not_geared {s : Blk} {k : Nat} (m : Nat) (h : s.axState k ≠ 4) : Blk.gearFault m s k = s :=
  if_neg fun g => h g.1

theorem Blk.masterFault_of_stopped {s : Blk} (h : s.running = false) : s.masterFault = s := by rw [Blk.masterFault, h]; rfl

/-- With no axis in GEAR and the line clock at rest a fault changes the status word and raises its event, nothing else. -/
theorem Blk.encFault_alone {s : Blk} {n : Fin 8} (cause : Nat) (hf : s.fb (POS_STATUS_FAULT n) = false) (hr : s.running = false)
    (hg : ∀ k, k < 6 → s.axState k ≠ 4) : s.encFault n cause = s.faultEntered n cause := by
  have hx {x : Fld} (hx : 0x020100 ≤ x.addr) : (s.faultEntered n cause).f x = s.f x :=
    s.f_faultEntered_ne n cause (posStatus_lt hx).ne'
  have hgear : ∀ k ∈ List.range 6, Blk.gearFault n (s.faultEntered n cause) k = s.faultEntered n cause := fun k hk =>
    Blk.gearFault_of_not_geared n fun h => hg k (List.mem_range.1 hk) ((hx (Nat.le_add_right_of_le (by decide))).symm.trans h)
  have hrun : (s.faultEntered n cause).running = false := (congrArg (· == 1) (hx (by decide))).trans hr
  have hfold : (List.range 6).foldl (Blk.gearFault n) (s.faultEntered n cause) = s.faultEntered n cause :=
    List.foldlRecOn (motive := (· = s.faultEntered n cause)) _ _ rfl fun _ ht k hk => ht ▸ hgear k hk
  simp only [Blk.encFault_of_sound cause hf, hfold, Blk.masterFault_of_stopped hrun, ite_self]

/-! ### PRESET -/

theorem wrapTo_sext (k v : Nat) : wrapTo k (sext k v) = v % 2 ^ k := by
  unfold wrapTo sext
  split
  · rw [← Int.natCast_emod, Int.toNat_natCast, Nat.mod_mod]
  · rw [Int.sub_emod_right, ← Int.natCast_emod, Int.toNat_natCast, Nat.mod_mod]

theorem Blk.val_lt (s : Blk) (a k : Nat) : s.val a k < 2 ^ (24 * k) := by
  induction k generalizing a with
  | zero => simp [Blk.val]
  | succ k ih =>
    have h1 := s.rn_lt a
    have h2 := ih (a + 1)
    rw [Blk.val, Nat.mul_succ, Nat.add_comm (24 * k), Nat.pow_add]
    omega

theorem Blk.setVal_eq (s : Blk) (a v k : Nat) : s.setVal a v k = { s with regs := (s.setVal a v k).regs } := by
  induction k generalizing s a v with
  | zero => rfl
  | succ k ih => exact ih _ _ _

theorem Blk.onlyRegs_setVal (s : Blk) (a v k : Nat) {p : Nat → Prop} (hp : ∀ c, ¬ p c → c < a ∨ a + k ≤ c) :
    s.OnlyRegs (s.setVal a v k) p := ⟨s.setVal_eq a v k, fun c hc => Blk.reg_setVal_ne k s a v c (hp c hc)⟩

theorem Blk.onlyRegs_setF (s : Blk) (x : Fld) (v : Nat) : s.OnlyRegs (s.setF x v) (· = x.addr) :=
  ⟨rfl, fun _ hc => Blk.reg_setF_ne s x v hc⟩

/-- PRESET of the master or the fallback of a running line clock sets PRESET_REJ alone (R84). -/
theorem posPreset_refused {s : Blk} {n : Nat} (hr : s.running = true)
    (h : s.masterSrc = n ∨ s.fb LCK_MASTER_FB_EN = true ∧ s.f LCK_MASTER_FB_SRC = n) :
    posPreset n s = s.setF (POS_STATUS_PRESET_REJ n) 1 := by
  refine if_pos ?_
  rcases h with h | ⟨he, h⟩
  · simp [hr, h]
  · simp [hr, he, h]

/-- PRESET of any other encoder loads POS_PRESET. -/
theorem posPreset_loads {s : Blk} {n : Nat} (h : s.running = false ∨
    (s.masterSrc ≠ n ∧ (s.f LCK_MASTER_FB_SRC ≠ n ∨ (s.fb LCK_MASTER_FB_EN = false ∧ s.fbActive = false)))) :
    posPreset n s = s.setVal (POS_COUNT n) (s.val (POS_PRESET n) 2) 2 := by
  have hw : wrapTo 48 (s.sval (POS_PRESET n) 2 48) = s.val (POS_PRESET n) 2 := by
    rw [Blk.sval, wrapTo_sext, Nat.mod_eq_of_lt (s.val_lt _ 2)]
  rw [← hw]
  refine if_neg ?_
  rcases h with h | ⟨hm, h | ⟨he, ha⟩⟩
  · simp [h]
  · simp [hm, h]
  · simp [hm, he, ha]

theorem exec_posPreset (n : Fin 8) (s : State) : exec (.posPreset n) s = s.on (posPreset n) := rfl

theorem exec_posForceFault (n : Fin 8) (s : State) : exec (.posForceFault n) s = s.on fun b => (posForce n b).settle := rfl

/-- Settles O1: PRESET by its two cases, and FORCE_FAULT by what keeps the fault through everything that follows it. -/
theorem encoderCommands : Obligations.EncoderCommands := by
  unfold Obligations.EncoderCommands
  intro s n hs
  refine ⟨fun hr h => .of_on (exec_posPreset n s) hs ?_, fun h => .of_on (exec_posPreset n s) hs ?_,
    fun hh hf => .of_on (exec_posForceFault n s) hs ?_, fun hf hr hi hg => .of_on (exec_posForceFault n s) hs ?_, fun hf hi => ?_⟩
  · rw [posPreset_refused hr h]
    exact ⟨Blk.f_setF_same _ _ _ (by simp) (by simp), s.blk.onlyRegs_setF _ _⟩
  · rw [posPreset_loads h]
    have hval := s.blk.val_setVal_same 2 (POS_COUNT n) (s.blk.val (POS_PRESET n) 2)
    rw [Nat.mod_eq_of_lt (s.blk.val_lt _ 2)] at hval
    exact ⟨hval, s.blk.onlyRegs_setVal _ _ 2 fun c hc => by omega⟩
  · obtain ⟨hfault, hcause, hq, -⟩ := Blk.faultKept_forceFault hh hf
    exact ⟨hfault, hcause, Blk.raised_of_faultEntered hq⟩
  · have hbusy : (s.blk.faultEntered n 0).allIdle = false := by
      have (t : Nat) : (s.blk.faultEntered n 0).trkState t = s.blk.trkState t :=
        s.blk.f_faultEntered_ne n 0 (posStatus_lt (Nat.le_add_right_of_le (by decide))).ne'
      simp only [Blk.allIdle, this]
      exact hi
    rw [posForce, Blk.encFault_alone 0 hf hr hg, Blk.settle_of_busy hbusy]
    exact ⟨s.blk.f_faultEntered_fault n 0, s.blk.f_faultEntered_cause n, Blk.raised_of_faultEntered List.prefix_rfl,
      fun a _ ha => s.blk.reg_faultEntered_ne n 0 ha, fun _ => rfl, rfl, rfl⟩
  · have hsame : (posForce n s.blk).settle = s.blk := by
      rw [posForce, Blk.encFault, if_pos hf, Blk.settle_of_busy hi]
    rw [Yields, exec_posForceFault, State.on, if_pos hs, hsame]

/-! ### Ring 11: a late entry that the schedule already holds -/

/-- An EVENT_MARK of ring 11 at position 256, with its tag. -/
def ringMark (tag : Nat) : SchedEntry := ⟨256, 6, 0, 0, tag, true, false⟩

/-- The line clock runs with H at 1000; the schedule of track 0 holds two EVENT_MARKs at 256, tags 7 and 8, and the front of ring 11 is the
one with tag 7 once more. -/
def markedTwice : State :=
  let b := (({ Blk.init with sys := { Sys.init with phase := .up }, lck := { Blk.init.lck with h := 1000 } } : Blk).setF LCK_STATUS_RUNNING 1).setF
    (PGE_TRK_CFG_EN 0) 1
  let b := (((b.setF (RING_CFG_EN 11) 1).setF (RING_CFG_SIZE_LOG2 11) 4).setVal (RING_BASE 11) 4096 2).wn (RING_PROD 11) 1
  ⟨(b.memWrites (b.ringAddr 11 0) (entryBytes [0x060000, 1, 0, 0, 0, 7, 0, 0])).setSched 0 [ringMark 7, ringMark 8], []⟩

theorem schedEntry_markedTwice : schedEntry (markedTwice.blk.nextEntry 11) = ringMark 7 := by decide +kernel

/-- The entry goes behind both, and what is taken out as it executes is its double in front: the two marks change places. -/
theorem sched_scheduleInsert_markedTwice : (scheduleInsert markedTwice.blk).sched 0 = [ringMark 8, ringMark 7] := by decide +kernel

/-- Refutes O5, by its clause on late entries: an entry equal to one that stands in its track's schedule before another at the same position
does not leave that schedule as it was. It is inserted behind both, and as it executes the first entry equal to it is taken out. -/
theorem not_pulsesAndInsertion : ¬ Obligations.PulsesAndInsertion := by
  unfold Obligations.PulsesAndInsertion
  intro h
  have hs : markedTwice.blk.alive = true := by decide +kernel
  obtain ⟨-, -, hring⟩ := h markedTwice 0 hs
  obtain ⟨hgood, -⟩ := hring 0 (by decide +kernel) (by decide +kernel) (by decide +kernel)
  rw [schedEntry_markedTwice] at hgood
  obtain ⟨-, hlate⟩ := hgood (by decide) (by decide) (by decide +kernel) (by decide +kernel) (by decide +kernel)
  obtain ⟨-, -, -, hsched, -⟩ := (hlate (by decide +kernel) (by decide +kernel) (by decide +kernel) rfl).on rfl hs
  exact absurd (sched_scheduleInsert_markedTwice.symm.trans hsched) (by decide +kernel)

end Sys2Proof.Machine
end

section
/-!
PROOFS. The machine as a whole: what a step does, that it always answers, what it keeps, and the state after reset.
-/

namespace Sys2Proof.Machine

/-- What a command is: an operation on the block, which it carries out in any state or on a block at work only, and after which the block
is one that can come after the block before. -/
inductive Acts (c : Instr) : Prop where
  | on {f : Blk → Blk} (later : ∀ {r s : Blk}, r.Later s → r.Later (f s)) (exec_eq : ∀ s, exec c s = s.on f := by exact fun _ => rfl)
  | always {f : Blk → Blk} (later : ∀ {r s : Blk}, r.Later s → r.Later (f s)) (exec_eq : ∀ s, exec c s = s.always f := by exact fun _ => rfl)
      (sort : always c = true := by exact rfl)

theorem acts (c : Instr) : Acts c := by
  cases c with
  | resetNAssert => exact .always fun h => resetNAssert_later h
  | upsett => exact .always fun h => upsett_later _ h
  | supplyMonitorReset => exact .always fun h => Blk.restart_later _ _ (Blk.cutShort_later h)
  | sysReset => exact .always fun h => sysReset_later _ h
  | softwareResetExpiry => exact .always fun h => softwareReset_later h
  | pllLockLoss => exact .on fun h => pllLockLoss_later h
  | storePllLockLoss => exact .on fun h => storePllLockLoss_later h
  | clk10InLoss => exact .on fun h => clk10InLoss_later h
  | sysCommitWrite => exact .on fun h => sysCommit_later _ h
  | registerWrite => exact .always fun h => Blk.writeWord_later _ _ _ h
  | quadratureTransition => exact .on fun h => Blk.settle_later (quadrature_later _ _ _ _ _ h)
  | indexCapture => exact .on fun h => Blk.settle_later (encLevels_later _ _ _ _ _ _ h)
  | posClearFault => exact .on fun h => posClear_later _ h
  | posPreset => exact .on fun h => posPreset_later _ h
  | posForceFault => exact .on fun h => Blk.settle_later (posForce_later _ h)
  | lineClockStart => exact .on fun h => Blk.writeIdle_later _ _ h
  | lineClockStop => exact .on fun h => Blk.writeIdle_later _ _ h
  | lineTrigger => exact .on fun h => lineTrigger_later _ h
  | scheduleInsert => exact .on fun h => scheduleInsert_later h
  | pageStart => exact .on fun h => Blk.execDue_later _ _ _ h
  | pevPulse => exact .on fun h => Blk.execDue_later _ _ _ h
  | pevLevel => exact .on fun h => Blk.execDue_later _ _ _ h
  | axisRatio => exact .on fun h => Blk.execDue_later _ _ _ h
  | cameraMark => exact .on fun h => Blk.execDue_later _ _ _ h
  | eventMark => exact .on fun h => Blk.execDue_later _ _ _ h
  | scheduleCancel => exact .on fun h => Blk.execDue_later _ _ _ h
  | pevPulseEndUs => exact .on fun h => pevEndUs_later _ _ h
  | pevPulseEndCounts => exact .on fun h => pevEndH_later _ _ h
  | trackArm => exact .on fun h => trackArm_later _ h
  | trackStop => exact .on fun h => trackStop_later _ h
  | trackAbort => exact .on fun h => trackAbort_later _ h
  | abortTakesEffect => exact .on fun h => Blk.settle_later (Blk.abortNow_later _ h)
  | descriptorConsume => exact .on fun h => descriptorConsume_later _ h
  | pageDone => exact .on fun h => pageDone_later _ _ h
  | fetchBurst => exact .on fun h => fetchBurst_later _ _ h
  | pageRelease => exact .on fun h => Blk.postRelease_later _ h
  | gatherLine => exact .on fun h => gatherLine_later _ h
  | ingestDatagramReceive => exact .on fun h => ingestReceive_later _ _ h
  | ingestData => exact .on fun h => ingestData_later _ _ h
  | ingestBdset => exact .on fun h => ingestBdset_later _ h
  | ingestDesc => exact .on fun h => Blk.catchUp_later (ingestDesc_later _ h)
  | ingestReset port d =>
    exact .on (f := fun b => if dgNat d.bytes 3 1 = 4 then ingestReceive port d b else b)
      fun h => Blk.ite_later (ingestReceive_later _ _ h) h
  | ingestAck => exact .on fun h => ingestAck_later _ _ h
  | retxReq => exact .on fun h => retxReq_later _ _ h
  | streamReset => exact .on fun h => Blk.resetStream_later _ _ h
  | nozzleWordWrite => exact .on fun h => Blk.putNozzle_later _ _ h
  | toneSwap => exact .on fun h => toneSwap_later _ h
  | toneShadowWrite => exact .on fun h => toneWrite_later _ _ _ h
  | thresholdSwap => exact .on fun h => thrSwap_later h
  | thresholdWrite a w =>
    cases a with
    | win u k => exact .on fun h => thrWin_later _ _ h
    | size => exact .on fun h => thrSize_later _ h
  | stakeHandover => exact .on fun h => stakeHandover_later _ h
  | identSend => exact .on fun h => identSend_later _ _ h
  | capsReceived => exact .on fun h => capsReceived_later _ _ h
  | echoReqSend => exact .on fun h => echoReqSend_later _ _ h
  | echoRspReceived => exact .on fun h => echoRsp_later _ _ _ h
  | heMailboxGo => exact .on fun h => mailboxGo_later _ _ h
  | heResultReceived => exact .on fun h => heResult_later _ _ h
  | heMailboxTimeout => exact .on fun h => mailboxTimeout_later _ h
  | headRetrain => exact .on fun h => headRetrain_later _ h
  | headClearCounts => exact .on fun h => headClear_later _ h
  | lineFrameSend => exact .on fun h => lineFrameSend_later _ _ _ _ h
  | fireSend => exact .on fun h => fireSend_later _ _ h
  | idleFrameSend => exact .on fun h => idleFrameSend_later _ _ h
  | statusReceived => exact .on fun h => statusReceived_later _ _ _ h
  | statusTimeout => exact .on fun h => statusTimeout_later _ _ h
  | thermWarnWrite => exact .on fun h => thermWarnWrite_later _ _ h
  | headFrameDiscard => exact .on fun h => Blk.upDiscard_later _ h
  | cameraHeartbeat => exact .on fun h => cameraHeartbeat_later _ _ h
  | cameraLost => exact .on fun h => cameraLost_later _ _ _ h
  | cameraTrigger => exact .on fun h => cameraTrigger_later _ _ h
  | cameraLine => exact .on fun h => cameraLine_later _ _ _ h
  | cameraLineScore => exact .on fun h => cameraLineScore_later _ _ h
  | cameraPacketDiscard => exact .on fun h => cameraDiscard_later _ _ h
  | cameraGpioMessage => exact .on fun h => cameraGpio_later _ _ _ h
  | scoreWrite => exact .on fun h => scoreWrite_later _ _ h
  | testPageGo => exact .on (f := fun b => b.tpRequest (b.rn ALN_TP_CFG) (b.rn ALN_TP_TAG)) fun h => Blk.tpRequest_later _ _ h
  | testPageCancel => exact .on fun h => tpCancel_later h
  | passArm => exact .on fun h => passArmCmd_later _ h
  | feedComplete => exact .on fun h => feedComplete_later h
  | axisEnable => exact .on fun h => axisEnable_later _ h
  | axisDisable => exact .on fun h => axisDisable_later _ h
  | axisGo => exact .on fun h => axisGo_later _ h
  | axisStop => exact .on fun h => axisStopCmd_later _ _ h
  | axisEstop => exact .on fun h => axisStopCmd_later _ _ h
  | axisHome => exact .on fun h => axisHome_later _ h
  | axisPreset => exact .on fun h => axisPreset_later _ h
  | axisClear => exact .on fun h => axisClear_later _ h
  | axisOfsReset => exact .on fun h => axisOfsReset_later _ h
  | profileTick => exact .on fun h => profileTick_later _ _ h
  | homingNotFound => exact .on fun h => homingNotFound_later _ h
  | switchChange => exact .on fun h => switchChange_later _ _ _ _ h
  | homeDone => exact .on fun h => homeDone_later _ h
  | stallCheck => exact .on fun h => Blk.settle_later (stallCheck_later _ _ h)
  | gearSlotWrite => exact .on fun h => gearSlotWrite_later _ _ h
  | gearRampEnd a => exact .on (f := fun b => if b.axState a = 4 then b.rampEnd a else b) fun h => Blk.ite_later (Blk.rampEnd_later _ h) h
  | chopBlankEnd => exact .on fun h => chopBlankEnd_later _ _ _ h
  | chopPeak => exact .on fun h => chopPeak_later _ _ _ _ h
  | chopFastDecayEnd => exact .on fun h => chopFastDecayEnd_later _ _ _ h
  | chopDecayEnd => exact .on fun h => chopDecayEnd_later _ _ _ _ h
  | chopZeroExit => exact .on fun h => chopZeroExit_later _ _ _ _ h
  | adcSample => exact .on fun h => adcSample_later _ _ _ _ h
  | claimNChange => exact .on fun h => Blk.settle_later (Blk.bootGo_later (claimNChange_later _ _ _ h))
  | supervisorTimeout => exact .on fun h => supervisorTimeout_later h
  | arbitrateTimeout => exact .on fun h => Blk.settle_later (Blk.bootGo_later (arbitrateTimeout_later _ h))
  | twnFault => exact .on fun h => twnFault_later h
  | twnRelease => exact .on fun h => twnRelease_later h
  | twnForceClaim => exact .on fun h => twnForce_later h
  | twnClear => exact .on fun h => Blk.settle_later (Blk.bootGo_later (twnClear_later h))
  | portsFault => exact .on fun h => portsFault_later _ h
  | heartbeatSend => exact .on fun h => heartbeatSend_later _ h
  | heartbeatReceived => exact .on fun h => heartbeatReceived_later _ _ h
  | partnerSilent => exact .on fun h => partnerSilent_later _ h
  | mirrorReceived => exact .on fun h => mirrorReceived_later _ h
  | agreeReceived => exact .on fun h => agreeReceived_later _ h
  | agreedChangeApply => exact .on fun h => agreedChangeApply_later h
  | pairedWrite w =>
    exact .on (f := fun b => (pairedWrite pairedHere w b).settle)
      fun h => Blk.settle_later (pairedWrite_later _ _ (fun _ _ _ => pairedHere_later _ _) h)
  | shadowReceived => exact .on fun h => Blk.settle_later (shadowReceived_later _ h)
  | snapReceived => exact .on fun h => snapReceived_later _ h
  | nozcopyReceived => exact .on fun h => nozcopyReceived_later _ h
  | laneLockGain => exact .on fun h => rxStretch_later _ _ _ h
  | laneLockLoss => exact .on fun h => rxStretch_later _ _ _ h
  | equaliserSweepDone => exact .on fun h => equaliserSweepDone_later _ _ _ h
  | laneFrameReceived => exact .on fun h => rxStretch_later _ _ _ h
  | rateStepRelock => exact .on fun h => rateStepRelock_later _ _ h
  | trainTimeout => exact .on fun h => trainTimeout_later _ _ h
  | laneFailedRetry => exact .on fun h => laneFailedRetry_later _ _ h
  | recoverTimeout => exact .on fun h => recoverTimeout_later _ _ h
  | laneRetrain => exact .on fun h => Blk.laneAgain_later _ h
  | laneClearCounts => exact .on fun h => laneClearCounts_later _ h
  | txSleep => exact .on fun h => txSleep_later _ h
  | txWake => exact .on fun h => txWake_later _ h
  | idleReqReceived => exact .on fun h => Blk.rxSleep_later _ h
  | wakeDetect => exact .on fun h => wakeDetect_later _ _ h
  | laneWakeFail => exact .on fun h => laneWakeFail_later _ _ h
  | laneMarginLow => exact .on fun h => laneMarginLow_later _ _ _ h
  | lanEqWrite => exact .on fun h => lanEqWrite_later _ _ h
  | eyeScanGo => exact .on fun h => eyeScanGo_later _ h
  | eyeScanCancel => exact .on fun h => Blk.scanAbort_later h
  | eyeScanDone => exact .on fun h => eyeScanDone_later _ _ h
  | waleMessageReceived => exact .on fun h => Blk.settle_later (waleReceived_later _ _ _ _ h)
  | swDeliver => exact .on fun h => swDeliver_later _ h
  | swSend => exact .on fun h => swSend_later h
  | nopSend => exact .on fun h => nopSend_later _ _ h
  | discoverSend => exact .on fun h => discoverSend_later _ h
  | discoverReceived l t m =>
    exact .on (f := fun b => if mtypeOf (wordsNat m) = 3 then waleReceived l t (wordsNat m) (b.waleCheck l (wordsNat m)) b else b)
      fun h => Blk.ite_later (waleReceived_later _ _ _ _ h) h
  | walIdWrite => exact .on fun h => walIdWrite_later _ h
  | beaconSend => exact .on fun h => beaconSend_later _ h
  | beaconReceived l t m =>
    exact .on (f := fun b => if mtypeOf (wordsNat m) = 2 then (waleReceived l t (wordsNat m) (b.waleCheck l (wordsNat m)) b).settle else b)
      fun h => Blk.ite_later (Blk.settle_later (waleReceived_later _ _ _ _ h)) h
  | beaconTimeout => exact .on fun h => Blk.settle_later (beaconTimeout_later _ h)
  | tsyncReqSend => exact .on fun h => tsyncReqSend_later _ h
  | tsyncReqReceived => exact .on fun h => tsyncReqReceived_later _ _ _ _ h
  | tsyncRspReceived => exact .on fun h => tsyncRspReceived_later _ _ _ h
  | parentLost => exact .on fun h => parentLost_later _ h
  | timStepWrite => exact .on fun h => timStepWrite_later _ h
  | ptpMessage => exact .on fun h => ptpMessage_later _ _ _ h
  | ptpSend => exact .on fun h => ptpSend_later _ _ h
  | ppsInEdge => exact .on fun h => ppsInEdge_later _ _ _ h
  | ttoArm => exact .on fun h => ttoArm_later _ h
  | ttoDisarm => exact .on fun h => ttoDisarm_later _ h
  | ttoEdge => exact .on fun h => ttoEdge_later _ _ h
  | tciCapture => exact .on fun h => tciCapture_later _ _ _ _ h
  | tciFifoRead => exact .on fun h => tciFifoRead_later _ _ h
  | refreshDue => exact .on fun h => refreshDue_later _ h
  | throttleEnd => exact .on fun h => throttleEnd_later _ _ h
  | trackerWindowClear => exact .on fun h => trackerWindow_later _ h
  | powerDownEntry => exact .on fun h => powerDownEntry_later _ _ h
  | selfRefreshEntry => exact .on fun h => selfRefreshEntry_later _ h
  | selfRefreshExit => exact .on fun h => selfRefreshExit_later _ h
  | fcGo => exact .on fun h => fcGo_later _ h
  | frequencyChange => exact .on fun h => frequencyChange_later _ h
  | wckTracking => exact .on fun h => wckTracking_later _ _ h
  | patrolScrub => exact .on fun h => patrolScrub_later _ _ h
  | drmClearCounts => exact .on fun h => drmClear_later h
  | create => exact .on (f := fun b => b.take8 (fun op => op == 1) create) fun h => Blk.take8_later _ _ h fun _ _ _ _ => create_later _ _ _
  | append err =>
    exact .on (f := fun b => b.take8 (fun op => op == 2) (append err))
      fun h => Blk.take8_later _ _ h fun _ _ _ _ => append_later _ _ _ _
  | close => exact .on (f := fun b => b.take8 (fun op => op == 3) close) fun h => Blk.take8_later _ _ h fun _ _ _ _ => close_later _ _ _
  | play => exact .on (f := fun b => b.take8 (fun op => op == 4) play) fun h => Blk.take8_later _ _ h fun _ _ _ _ => play_later _ _ _
  | stopPlay => exact .on (f := fun b => b.take8 (fun op => op == 5) stopPlay) fun h => Blk.take8_later _ _ h fun _ _ _ _ => stopPlay_later _ _ _
  | retire => exact .on (f := fun b => b.take8 (fun op => op == 6) retire) fun h => Blk.take8_later _ _ h fun _ _ _ _ => retire_later _ _ _
  | stat => exact .on (f := fun b => b.take8 (fun op => op == 7) statReel) fun h => Blk.take8_later _ _ h fun _ _ _ _ => statReel_later _ _ _
  | list => exact .on (f := fun b => b.take8 (fun op => op == 8) listReel) fun h => Blk.take8_later _ _ h fun _ _ _ _ => listReel_later _ _ _
  | storeRead => exact .on (f := fun b => b.take8 (fun op => op == 9) storeRead) fun h => Blk.take8_later _ _ h fun _ _ _ _ => storeRead_later _ _ _
  | format rand marks =>
    exact .on (f := fun b => b.take8 (fun op => op == 10) fun op tag e b => (format rand marks op tag e b).withSto
      fun x => { x with ops := x.ops.map fun o => if o.op = 10 then { o with mark := x.wrote + 1 } else o })
          fun h => Blk.take8_later _ _ h fun _ _ _ _ h => Blk.withSto_later _ (format_later _ _ _ _ _ h)
  | badOp =>
    exact .on (f := fun b => b.take8 (fun op => op == 0 || decide (10 < op)) fun op tag _ b => b.complete op 9 0 tag 0 0 [])
        fun h => Blk.take8_later _ _ h fun _ _ _ _ => Blk.complete_later _ _ _ _ _ _ _
  | storeOpen x =>
    exact .on (f := fun b => if b.stoState = 0 ∨ b.stoState = 1 ∨ b.stoState = 4 then b.openStore x else b)
      fun h => Blk.ite_later (Blk.openStore_later _ h) h
  | quiesce => exact .on fun h => quiesce_later h
  | flushTimer => exact .on fun h => flushTimer_later _ h
  | bandPageProgrammed => exact .on fun h => bandPageProgrammed_later h
  | programFail => exact .on fun h => programFail_later _ h
  | eraseDone => exact .on fun h => eraseDone_later _ h
  | nandReadDone => exact .on fun h => nandReadDone_later _ h
  | patrolRead => exact .on fun h => patrolRead_later _ h
  | playRecord => exact .on fun h => Blk.catchUp_later (Blk.stoGo_later (playRecord_later _ h))
  | leaseWaitEnd => exact .on fun h => leaseWaitEnd_later _ h
  | completionPost => exact .on fun h => completionPost_later h
  | sknFlashRead => exact .always fun h => flashGo_later _ h
  | sknFlashProgram => exact .always fun h => flashGo_later _ h
  | sknFlashErase4k => exact .always fun h => flashGo_later _ h
  | sknFlashErase64k => exact .always fun h => flashGo_later _ h
  | flashCommandEnd => exact .always fun h => flashEnd_later _ _ _ h
  | lifecycleChange => exact .always fun h => lifecycle_later _ _ h
  | bstReq => exact .on fun h => bstReq_later _ h
  | bstCancel => exact .on fun h => bstCancel_later h
  | restStart => exact .on fun h => restStart_later _ h
  | lbistTestEnd => exact .on fun h => lbistEnd_later _ _ _ h
  | stakeRepair => exact .on fun h => stakeRepair_later _ (Blk.vfuse_later _ h)
  | dieTempConversion t temps =>
    exact .always (f := fun b => if b.sys.phase = .thermal then tripCool t temps b else if b.alive then dieTemp t temps b else b)
      fun h => Blk.ite_later (tripCool_later _ _ h) (Blk.ite_later (dieTemp_later _ _ h) h)
  | trimRound => exact .on fun h => trimRound_later _ _ h
  | trmReq => exact .on fun h => trmReq_later _ h
  | trimApply => exact .on fun h => trimApply_later h
  | cntClear => exact .on fun h => cntClear_later _ h
  | startGroup => exact .on fun h => Blk.group_later _ h
  | stopGroup => exact .on fun h => Blk.group_later _ h
  | spiWrite => exact .always fun h => spiWrite_later _ _ h
  | spiRead => exact .always fun h => spiRead_later _ _ h
  | spiStatus => exact .always fun h => spiStatus_later h
  | frameErr => exact .always fun h => spiFrameErr_later h
  | load => exact .on fun h => copyGo_later _ _ _ h
  | store => exact .on fun h => copyGo_later _ _ _ h
  | mgmtRequest => exact .always fun h => mgmtRequest_later _ _ _ h
  | ethMgmtKey1Write => exact .on fun h => mgmtKey1_later _ h
  | arpRequest => exact .always fun h => arpRequest_later _ _ _ h
  | neighbourSolicitation => exact .always fun h => neighbour_later _ _ _ h
  | echoRequest => exact .on fun h => echoRequest_later _ _ _ _ h
  | ethForward => exact .on fun h => ethForward_later _ _ _ _ h
  | selfTest =>
    exact .on (f := fun b => b.take10 1 (fun ws => bstReq (BitVec.ofNat 24 (word24 ws 1))))
      fun h => Blk.take10_later _ _ h fun _ _ => bstReq_later _
  | cancelTest => exact .on (f := fun b => b.take10 2 (fun _ => bstCancel)) fun h => Blk.take10_later _ _ h fun _ _ => bstCancel_later
  | testPage => exact .on (f := fun b => b.take10 3 testPageEntry) fun h => Blk.take10_later _ _ h fun _ _ => testPageEntry_later _
  | trim =>
    exact .on (f := fun b => b.take10 4 (fun ws => trmReq (BitVec.ofNat 24 (word24 ws 1))))
      fun h => Blk.take10_later _ _ h fun _ _ => trmReq_later _
  | axis => exact .on (f := fun b => b.take10 5 axisEntry) fun h => Blk.take10_later _ _ h fun _ _ => axisEntry_later _
  | ringCfgWrite => exact .on fun h => ringCfg_later _ _ h
  | ringProdWrite => exact .on fun h => ringProd_later _ _ h
  | ringConsWrite => exact .on fun h => ringCons_later _ _ h
  | eventRecordPost => exact .on fun h => Blk.postEvent_later h
  | evtSummaryClear => exact .on fun h => summaryClear_later _ h
  | gioEdge => exact .on fun h => gioEdge_later _ _ _ _ h
  | discoverExpiry => exact .on fun h => Blk.ringView_later (Blk.advance_later _ h)
  | nopReceived l m =>
    exact .on (f := fun b => if mtypeOf (wordsNat m) = 0 && b.linkUp l then b.takeFreed l (wordsNat m) else b)
      fun h => Blk.ite_later (Blk.takeFreed_later _ _ h) h
  | supplyMonitorRelease => exact .always fun h => supplyRelease_later h
  | lifecycleReset => exact .always fun h => lifecycleReset_later _ h
  | copyEnd => exact .on fun h => copyEnd_later _ _ h
  | ethLinkChange => exact .on fun h => ethLink_later _ _ h
  | ethRxDrop => exact .on fun h => ethRxDrop_later _ h

theorem State.on_of_down {s : State} (hs : s.blk.alive = false) (f : Blk → Blk) : s.on f = .next s := by
  rw [State.on, hs]
  rfl

/-- Every command answers a next state with the queue as it was and a block that can come after the block before. -/
theorem exec_later (c : Instr) (s : State) : ∃ b, exec c s = .next { s with blk := b } ∧ s.blk.Later b := by
  cases acts c with
  | on later exec_eq => exact ⟨_, exec_eq s, Blk.ite_later (later (.refl _)) (.refl _)⟩
  | always later exec_eq => exact ⟨_, exec_eq s, later (.refl _)⟩

/-- A step takes the front of the queue, if there is one, and leaves a block that can come after the block before. -/
theorem step_later (s : State) : ∃ b, step s = .next ⟨b, s.pending.tail⟩ ∧ s.blk.Later b := by
  obtain ⟨b, pending⟩ := s
  cases pending with
  | nil => exact ⟨_, rfl, Blk.advance_later _ (.refl _)⟩
  | cons c rest => exact exec_later c ⟨b, rest⟩

/-- Settles O55, by the definition of a step. -/
theorem stepTakesTheFront : Obligations.StepTakesTheFront := ⟨fun _ _ _ => rfl, fun _ => rfl⟩

/-- Settles O56: each command is an operation on the block. -/
theorem everyCommandCompletes : Obligations.EveryCommandCompletes := by
  intro c s
  obtain ⟨b, hb, -⟩ := exec_later c s
  exact ⟨_, hb, rfl, trivial⟩

/-- Settles O57: a command that is not one of those that always act is carried out on a block at work only. -/
theorem quietWhileDown : Obligations.QuietWhileDown := by
  intro c s hs hc
  cases acts c with
  | on later exec_eq => rw [exec_eq, State.on_of_down hs]
  | always later exec_eq sort => rw [sort] at hc; cases hc

/-- Settles O58: one register word is listed, that of the cause. -/
theorem resetState : Obligations.ResetState := by
  refine ⟨by decide +kernel, rfl, rfl, rfl, fun a ha => ?_, rfl, rfl, rfl, rfl, rfl, rfl⟩
  exact Tab.get_put_ne resetWord [] 1 ha

/-- Settles O59: a step leaves a block that can come after the block before, and the rest of the queue. -/
theorem stepsKeepTheForm : Obligations.StepsKeepTheForm := by
  intro s t hst hs
  obtain ⟨b, hb, hlater⟩ := step_later s
  obtain rfl := Host.Outcome.next.inj (hst.symm.trans hb)
  simp only [State.wf, Bool.and_eq_true, List.all_eq_true] at hs ⊢
  exact ⟨hlater.1 hs.1, fun c hc => hs.2 c (List.mem_of_mem_tail hc)⟩

/-- Settles O60: a step leaves a block that can come after the block before. -/
theorem nothingIsUndone : Obligations.NothingIsUndone := by
  intro s t hst
  obtain ⟨b, hb, hlater⟩ := step_later s
  obtain rfl := Host.Outcome.next.inj (hst.symm.trans hb)
  exact hlater.2

end Sys2Proof.Machine
end

section
/-!
PROOFS. Reading a register word, a field or a value after other writes; what a chain of writes leaves (`RegsBut`, `OnlyRegs`, `Calm`);
which events it has raised (`Raised`); and what the passing of time and a counter leave.
-/

namespace Sys2Proof.Machine

variable {r s t : Blk} {p : Nat → Prop}

/-! ### Reads after writes to the other fields of the block -/

section

variable {now freeN held mem evq out wires holding tim bcn encs lck scheds pevs trks cmp ports mbx cams ins sht axes twn dram lanes scan links
    wal time streams sto bst trm fuse sys acc}

@[simp] theorem Blk.reg_put (a : Nat) :
    Blk.reg (⟨now, freeN, s.regs, held, mem, evq, out, wires, holding, tim, bcn, encs, lck, scheds, pevs, trks, cmp, ports, mbx, cams, ins,
    sht, axes, twn, dram, lanes, scan, links, wal, time, streams, sto, bst, trm, fuse, sys, acc⟩ : Blk) a =
      s.reg a := rfl

@[simp] theorem Blk.rn_put (a : Nat) :
    Blk.rn (⟨now, freeN, s.regs, held, mem, evq, out, wires, holding, tim, bcn, encs, lck, scheds, pevs, trks, cmp, ports, mbx, cams, ins,
    sht, axes, twn, dram, lanes, scan, links, wal, time, streams, sto, bst, trm, fuse, sys, acc⟩ : Blk) a =
      s.rn a := rfl

@[simp] theorem Blk.f_put (x : Fld) :
    Blk.f (⟨now, freeN, s.regs, held, mem, evq, out, wires, holding, tim, bcn, encs, lck, scheds, pevs, trks, cmp, ports, mbx, cams, ins,
    sht, axes, twn, dram, lanes, scan, links, wal, time, streams, sto, bst, trm, fuse, sys, acc⟩ : Blk) x =
      s.f x := rfl

@[simp] theorem Blk.fb_put (x : Fld) :
    Blk.fb (⟨now, freeN, s.regs, held, mem, evq, out, wires, holding, tim, bcn, encs, lck, scheds, pevs, trks, cmp, ports, mbx, cams, ins,
    sht, axes, twn, dram, lanes, scan, links, wal, time, streams, sto, bst, trm, fuse, sys, acc⟩ : Blk) x =
      s.fb x := rfl

@[simp] theorem Blk.val_put (a n : Nat) :
    Blk.val (⟨now, freeN, s.regs, held, mem, evq, out, wires, holding, tim, bcn, encs, lck, scheds, pevs, trks, cmp, ports, mbx, cams, ins,
    sht, axes, twn, dram, lanes, scan, links, wal, time, streams, sto, bst, trm, fuse, sys, acc⟩ : Blk) a n =
      s.val a n := Blk.val_eq n _ _ a fun _ _ _ => rfl

/-- Writing fields other than the registers leaves every word. -/
theorem Blk.RegsBut.put (h : r.RegsBut s p) :
    Blk.RegsBut r ⟨now, freeN, s.regs, held, mem, evq, out, wires, holding, tim, bcn, encs, lck, scheds, pevs, trks, cmp, ports, mbx, cams,
    ins, sht, axes, twn, dram, lanes, scan, links, wal, time, streams, sto, bst, trm, fuse, sys, acc⟩ p := h

end

/-- Writing fields other than the image memory, the fuses and the phase. -/
theorem Blk.Calm.put (h : r.Calm s) {now freeN regs held evq out wires holding tim bcn encs lck scheds pevs trks cmp ports mbx cams ins sht axes twn dram lanes scan links
    wal time streams sto bst trm acc} :
    Blk.Calm r ⟨now, freeN, regs, held, s.mem, evq, out, wires, holding, tim, bcn, encs, lck, scheds, pevs, trks, cmp, ports, mbx, cams,
    ins, sht, axes, twn, dram, lanes, scan, links, wal, time, streams, sto, bst, trm, s.fuse, s.sys, acc⟩ := h

/-! ### Reads after writes of registers -/

theorem bits_lt_two_pow_24 (v : Nat) {hi lo : Nat} (h : hi < 24) : bits v hi lo < 2 ^ 24 :=
  (bits_lt v hi lo).trans_le (Nat.pow_le_pow_right (by decide) (by omega))

theorem bitOf_eq (v i : Nat) : bitOf v i = (bits v i i == 1) := by simp [bitOf, bits]

/-- A bit of a register word is the field of that bit. -/
theorem Blk.bitOf_rn (s : Blk) (a i : Nat) : bitOf (s.rn a) i = s.fb ⟨a, i, i⟩ := bitOf_eq _ _

theorem Blk.f_lt (s : Blk) (x : Fld) : s.f x < 2 ^ (x.hi - x.lo + 1) := bits_lt _ _ _

theorem Blk.fb_setF_same (s : Blk) (x : Fld) (v : Nat) (hl : x.lo ≤ x.hi) (hh : x.hi < 24) :
    (s.setF x v).fb x = (v % 2 ^ (x.hi - x.lo + 1) == 1) := by
  rw [Blk.fb, Blk.f_setF_same _ _ _ hl hh]

theorem Blk.fb_setF_ne (s : Blk) (x y : Fld) (v : Nat) (hl : x.lo ≤ x.hi) (hy : y.lo ≤ y.hi) (hy' : y.hi < 24)
    (h : y.addr ≠ x.addr ∨ y.hi < x.lo ∨ x.hi < y.lo) : (s.setF x v).fb y = s.fb y := by
  rw [Blk.fb, Blk.f_setF_ne _ _ _ _ hl hy hy' h, Blk.fb]

theorem Blk.f_setVal_ne (s : Blk) (x : Fld) (a v n : Nat) (h : x.addr < a ∨ a + n ≤ x.addr) : (s.setVal a v n).f x = s.f x := by
  rw [Blk.f, Blk.rn_setVal_ne n s a v _ h, Blk.f]

theorem Blk.val_wn_ne (s : Blk) (a v b m : Nat) (h : a < b ∨ b + m ≤ a) : (s.wn a v).val b m = s.val b m :=
  Blk.val_eq m _ _ b fun c h1 h2 => Blk.rn_wn_ne s v (by omega)

theorem Blk.val_setF_ne (s : Blk) (x : Fld) (v b m : Nat) (h : x.addr < b ∨ b + m ≤ x.addr) : (s.setF x v).val b m = s.val b m :=
  Blk.val_wn_ne s _ _ b m h

theorem sext_mod (n v : Nat) : sext n (v % 2 ^ n) = sext n v := by rw [sext, Nat.mod_mod, sext]

theorem wrapTo_lt (n : Nat) (v : Int) : wrapTo n v < 2 ^ n := by
  have h := Int.emod_lt_of_pos v (b := ((2 ^ n : Nat) : Int)) (by exact_mod_cast Nat.two_pow_pos n)
  have h0 := Int.emod_nonneg v (b := ((2 ^ n : Nat) : Int)) (by exact_mod_cast (Nat.two_pow_pos n).ne')
  unfold wrapTo
  omega

/-- A signed value of whole words reads as what was written, wrapped to its width. -/
theorem Blk.sval_setSval_same (s : Blk) (a n w : Nat) (v : Int) (h : w ≤ 24 * n) :
    (s.setSval a n w v).sval a n w = sext w (wrapTo w v) := by
  rw [Blk.sval, Blk.setSval, Blk.val_setVal_same, Nat.mod_eq_of_lt]
  exact (wrapTo_lt w v).trans_le (Nat.pow_le_pow_right (by decide) h)

theorem Blk.sval_setSval_ne (s : Blk) (a n w b m u : Nat) (v : Int) (h : b + m ≤ a ∨ a + n ≤ b) :
    (s.setSval a n w v).sval b m u = s.sval b m u := by
  rw [Blk.sval, Blk.setSval, Blk.val_setVal_ne _ _ _ _ _ _ h, Blk.sval]

theorem Blk.f_setSval_ne (s : Blk) (x : Fld) (a n w : Nat) (v : Int) (h : x.addr < a ∨ a + n ≤ x.addr) : (s.setSval a n w v).f x = s.f x :=
  Blk.f_setVal_ne s x a _ n h

theorem Blk.sval_setF_ne (s : Blk) (x : Fld) (v b m u : Nat) (h : x.addr < b ∨ b + m ≤ x.addr) : (s.setF x v).sval b m u = s.sval b m u := by
  rw [Blk.sval, Blk.val_setF_ne _ _ _ _ _ h, Blk.sval]

theorem Blk.wn_eq (s : Blk) (a v : Nat) : s.wn a v = { s with regs := (s.wn a v).regs } := rfl

theorem Blk.setF_eq (s : Blk) (x : Fld) (v : Nat) : s.setF x v = { s with regs := (s.setF x v).regs } := rfl

theorem Blk.setF_setF_eq (s : Blk) (x y : Fld) (u v : Nat) : (s.setF x u).setF y v = { s with regs := ((s.setF x u).setF y v).regs } := rfl

theorem Blk.setSval_eq (s : Blk) (a k w : Nat) (v : Int) : s.setSval a k w v = { s with regs := (s.setSval a k w v).regs } := Blk.setVal_eq _ _ _ _

theorem Blk.rn_incSat_same (s : Blk) (a : Nat) : (s.incSat a).rn a = min (s.rn a + 1) u24max := by
  rw [Blk.incSat, Blk.addSat, Blk.rn_wn_same, satU24, Nat.mod_eq_of_lt]
  exact (Nat.min_le_right _ _).trans_lt (by decide)

theorem Blk.rn_incSat_ne (s : Blk) {a b : Nat} (h : b ≠ a) : (s.incSat a).rn b = s.rn b := Blk.rn_wn_ne s _ h

theorem Blk.f_incSat_ne (s : Blk) {a : Nat} {x : Fld} (h : x.addr ≠ a) : (s.incSat a).f x = s.f x := by
  rw [Blk.f, Blk.rn_incSat_ne _ h, Blk.f]

theorem alook_aput_same {α : Type} (d : α) (l : List (Nat × α)) (k : Nat) (v : α) : alook d (aput l k v) k = v := by
  simp [alook, aput]

theorem alook_aput_ne {α : Type} (d : α) (l : List (Nat × α)) {k j : Nat} (v : α) (h : j ≠ k) : alook d (aput l k v) j = alook d l j := by
  have hf : (l.filter fun e => e.1 != k).find? (fun e => e.1 == j) = l.find? fun e => e.1 == j := by
    rw [List.find?_filter]
    congr 1
    funext e
    by_cases he : e.1 = j <;> simp [he, h]
  simp only [alook, aput, List.find?_cons_of_neg (p := fun e : Nat × α => e.1 == j) (a := (k, v)) (by simpa using h.symm), hf]

theorem two_pow_eq {n : Nat} (hn : 0 < n) : 2 ^ n = 2 * 2 ^ (n - 1) := by
  rw [← Nat.pow_succ', Nat.succ_eq_add_one, Nat.sub_add_cancel hn]

theorem sext_lt {n : Nat} (hn : 0 < n) (v : Nat) : sext n v < ((2 ^ (n - 1) : Nat) : Int) := by
  have h := Nat.mod_lt v (Nat.two_pow_pos n)
  unfold sext
  rw [two_pow_eq hn] at h ⊢
  split <;> omega

theorem le_sext {n : Nat} (hn : 0 < n) (v : Nat) : -((2 ^ (n - 1) : Nat) : Int) ≤ sext n v := by
  unfold sext
  rw [two_pow_eq hn]
  split <;> omega

/-- A number in the range of its width reads back from that width unchanged. -/
theorem sext_wrapTo {n : Nat} (hn : 0 < n) {v : Int} (hl : -((2 ^ (n - 1) : Nat) : Int) ≤ v) (hu : v < ((2 ^ (n - 1) : Nat) : Int)) :
    sext n (wrapTo n v) = v := by
  have hp := Nat.two_pow_pos (n - 1)
  have hv : v % ((2 * 2 ^ (n - 1) : Nat) : Int) = if 0 ≤ v then v else v + (2 * 2 ^ (n - 1) : Nat) := by
    split
    · exact Int.emod_eq_of_lt (by omega) (by omega)
    · rw [← Int.add_emod_right]
      exact Int.emod_eq_of_lt (by omega) (by omega)
  have hlt := wrapTo_lt n v
  have hw : (wrapTo n v : Int) = v % ((2 * 2 ^ (n - 1) : Nat) : Int) := by
    rw [wrapTo, two_pow_eq hn, Int.toNat_of_nonneg (Int.emod_nonneg v (by omega))]
  rw [sext, Nat.mod_eq_of_lt hlt, two_pow_eq hn]
  rw [hv] at hw
  split at hw <;> split <;> omega

/-! ### Reads where the words are equal -/

theorem Blk.rn_of_reg {a : Nat} (h : s.reg a = r.reg a) : s.rn a = r.rn a := congrArg BitVec.toNat h

theorem Blk.f_of_reg {x : Fld} (h : s.reg x.addr = r.reg x.addr) : s.f x = r.f x := by rw [Blk.f, Blk.rn_of_reg h, Blk.f]

theorem Blk.fb_of_reg {x : Fld} (h : s.reg x.addr = r.reg x.addr) : s.fb x = r.fb x := by rw [Blk.fb, Blk.f_of_reg h, Blk.fb]

theorem Blk.val_of_reg {a n : Nat} (h : ∀ i, i < n → s.reg (a + i) = r.reg (a + i)) : s.val a n = r.val a n := by
  refine Blk.val_eq n s r a fun b h1 h2 => ?_
  obtain ⟨i, rfl⟩ := Nat.exists_eq_add_of_le h1
  exact Blk.rn_of_reg (h i (by omega))

theorem Blk.sval_of_reg {a n w : Nat} (h : ∀ i, i < n → s.reg (a + i) = r.reg (a + i)) : s.sval a n w = r.sval a n w := by
  rw [Blk.sval, Blk.val_of_reg h, Blk.sval]

/-! ### What a chain of writes leaves -/

theorem Blk.RegsBut.refl (r : Blk) (p : Nat → Prop) : r.RegsBut r p := fun _ _ _ => rfl

theorem Blk.RegsBut.trans (h : r.RegsBut s p) (g : s.RegsBut t p) : r.RegsBut t p := fun a hc hp => (g a hc hp).trans (h a hc hp)

theorem Blk.RegsBut.mono {q : Nat → Prop} (h : r.RegsBut s p) (hq : ∀ a, p a → q a) : r.RegsBut s q := fun a hc hp => h a hc fun g => hp (hq a g)

theorem Blk.RegsBut.setReg (h : r.RegsBut s p) {a : Nat} {w : Word} (ha : p a) : r.RegsBut (s.setReg a w) p := fun b hc hp =>
  (Blk.reg_setReg_ne s w (by rintro rfl; exact hp ha)).trans (h b hc hp)

theorem Blk.RegsBut.wn (h : r.RegsBut s p) {a v : Nat} (ha : p a) : r.RegsBut (s.wn a v) p := h.setReg ha

theorem Blk.RegsBut.setF (h : r.RegsBut s p) {x : Fld} {v : Nat} (hx : p x.addr) : r.RegsBut (s.setF x v) p := h.wn hx

theorem Blk.RegsBut.incSat (h : r.RegsBut s p) {a : Nat} (ha : p a) : r.RegsBut (s.incSat a) p := h.wn ha

theorem Blk.RegsBut.setVal (h : r.RegsBut s p) {a v n : Nat} (ha : ∀ i, i < n → p (a + i)) : r.RegsBut (s.setVal a v n) p := by
  induction n generalizing s a v with
  | zero => exact h
  | succ n ih =>
    refine ih (h.wn (ha 0 (by omega))) fun i hi => ?_
    rw [Nat.add_assoc, Nat.add_comm 1]
    exact ha (i + 1) (by omega)

theorem Blk.RegsBut.setSval (h : r.RegsBut s p) {a n w : Nat} {v : Int} (ha : ∀ i, i < n → p (a + i)) :
    r.RegsBut (s.setSval a n w v) p := h.setVal ha

/-- Writing the two words of a value. -/
theorem Blk.RegsBut.setSval2 (h : r.RegsBut s p) {a w : Nat} {v : Int} (h0 : p a) (h1 : p (a + 1)) : r.RegsBut (s.setSval a 2 w v) p :=
  (h.wn h0).wn h1

theorem Blk.RegsBut.setVal2 (h : r.RegsBut s p) {a v : Nat} (h0 : p a) (h1 : p (a + 1)) : r.RegsBut (s.setVal a v 2) p :=
  (h.wn h0).wn h1

theorem Blk.RegsBut.setSval1 (h : r.RegsBut s p) {a w : Nat} {v : Int} (h0 : p a) : r.RegsBut (s.setSval a 1 w v) p := h.wn h0

theorem Blk.RegsBut.count (h : r.RegsBut s p) {src n : Nat} : r.RegsBut (s.count src n) p := fun a hc hp =>
  (s.reg_count src n hc).trans (h a hc hp)

theorem Blk.RegsBut.advance (h : r.RegsBut s p) {u : Nat} : r.RegsBut (s.advance u) p := fun a hc hp =>
  (s.reg_advance u hc).trans (h a hc hp)

theorem Blk.OnlyRegs.regsBut (h : r.OnlyRegs s p) : r.RegsBut s p := fun a _ hp => h.2 a hp

theorem Blk.OnlyRegs.refl (r : Blk) (p : Nat → Prop) : r.OnlyRegs r p := ⟨rfl, fun _ _ => rfl⟩

theorem Blk.OnlyRegs.setReg (h : r.OnlyRegs s p) {a : Nat} {w : Word} (ha : p a) : r.OnlyRegs (s.setReg a w) p := by
  refine ⟨?_, fun b hp => (Blk.reg_setReg_ne s w (by rintro rfl; exact hp ha)).trans (h.2 b hp)⟩
  rw [Blk.setReg, h.1]

theorem Blk.OnlyRegs.wn (h : r.OnlyRegs s p) {a v : Nat} (ha : p a) : r.OnlyRegs (s.wn a v) p := h.setReg ha

theorem Blk.OnlyRegs.setF (h : r.OnlyRegs s p) {x : Fld} {v : Nat} (hx : p x.addr) : r.OnlyRegs (s.setF x v) p := h.wn hx

theorem Blk.OnlyRegs.setVal (h : r.OnlyRegs s p) {a v n : Nat} (ha : ∀ i, i < n → p (a + i)) : r.OnlyRegs (s.setVal a v n) p := by
  induction n generalizing s a v with
  | zero => exact h
  | succ n ih =>
    refine ih (h.wn (ha 0 (by omega))) fun i hi => ?_
    rw [Nat.add_assoc, Nat.add_comm 1]
    exact ha (i + 1) (by omega)

theorem Blk.Calm.refl (r : Blk) : r.Calm r := ⟨fun _ => rfl, rfl, rfl⟩

theorem Blk.Calm.trans (h : r.Calm s) (g : s.Calm t) : r.Calm t :=
  ⟨fun a => (g.1 a).trans (h.1 a), g.2.1.trans h.2.1, g.2.2.trans h.2.2⟩

theorem Blk.Calm.of_eq (hm : s.mem = r.mem) (hf : s.fuse = r.fuse) (hs : s.sys = r.sys) : r.Calm s :=
  ⟨fun a => by rw [Blk.memRead, hm, Blk.memRead], hf, by rw [hs]⟩

theorem Blk.OnlyRegs.calm (h : r.OnlyRegs s p) : r.Calm s := by
  rw [h.1]
  exact .refl r

/-! ### Events raised -/

/-- An event that is raised waits last. -/
theorem Blk.raised_raise (s : Blk) (c : Nat) {i d0 d1 : Nat} (hi : i < 256) (h0 : d0 < 2 ^ 24) (h1 : d1 < 2 ^ 24) :
    s.Raised (s.raise c i d0 d1) c i d0 d1 :=
  ⟨_, _, rfl, List.mem_singleton_self _, rfl, Nat.mod_eq_of_lt hi, Nat.mod_eq_of_lt h0, Nat.mod_eq_of_lt h1⟩

theorem Blk.raised_raiseT (s : Blk) (c : Nat) {i d0 d1 : Nat} (hi : i < 256) (h0 : d0 < 2 ^ 24) (h1 : d1 < 2 ^ 24) :
    s.Raised (s.raiseT c i d0 d1) c i d0 d1 :=
  ⟨_, _, rfl, List.mem_singleton_self _, rfl, Nat.mod_eq_of_lt hi, Nat.mod_eq_of_lt h0, Nat.mod_eq_of_lt h1⟩

theorem Blk.Raised.of_left {c i d0 d1 : Nat} (h : s.Raised t c i d0 d1) (hq : r.evq <+: s.evq) : r.Raised t c i d0 d1 := by
  obtain ⟨l, e, hl, he, hc⟩ := h
  obtain ⟨k, hk⟩ := hq
  exact ⟨k ++ l, e, by rw [hl, ← hk, List.append_assoc], List.mem_append_right _ he, hc⟩

theorem Blk.Raised.of_right {c i d0 d1 : Nat} (h : r.Raised s c i d0 d1) (hq : s.evq <+: t.evq) : r.Raised t c i d0 d1 := by
  obtain ⟨l, e, hl, he, hc⟩ := h
  obtain ⟨k, hk⟩ := hq
  exact ⟨l ++ k, e, by rw [← hk, hl, List.append_assoc], List.mem_append_left _ he, hc⟩

/-- An event raised after writes that raise none. -/
theorem Blk.Raised.raise (hq : s.evq = r.evq) (c : Nat) {i d0 d1 : Nat} (hi : i < 256) (h0 : d0 < 2 ^ 24) (h1 : d1 < 2 ^ 24) :
    r.Raised (s.raise c i d0 d1) c i d0 d1 := (s.raised_raise c hi h0 h1).of_left (by rw [hq])

theorem Blk.Raised.raiseT (hq : s.evq = r.evq) (c : Nat) {i d0 d1 : Nat} (hi : i < 256) (h0 : d0 < 2 ^ 24) (h1 : d1 < 2 ^ 24) :
    r.Raised (s.raiseT c i d0 d1) c i d0 d1 := (s.raised_raiseT c hi h0 h1).of_left (by rw [hq])

theorem Blk.evq_raise_prefix (s : Blk) (c i d0 d1 : Nat) : s.evq <+: (s.raise c i d0 d1).evq := List.prefix_append _ _

theorem Blk.evq_countOne_prefix (src n : Nat) (s : Blk) (i : Nat) : s.evq <+: (Blk.countOne src n s i).evq := by
  have hv (u : Blk) (a v k : Nat) : (u.setVal a v k).evq = u.evq := by rw [Blk.setVal_eq]
  unfold Blk.countOne
  split
  · dsimp only
    split
    · rw [hv]
    · exact ((hv s _ _ _).symm ▸ List.prefix_rfl : s.evq <+: _).trans (Blk.evq_raise_prefix _ _ _ _ _)
  · exact List.prefix_rfl

theorem Blk.evq_count_prefix (s : Blk) (src n : Nat) : s.evq <+: (s.count src n).evq := by
  unfold Blk.count
  split
  · exact List.prefix_rfl
  · exact List.foldlRecOn (motive := fun u => s.evq <+: u.evq) _ _ List.prefix_rfl fun u hu i _ => hu.trans (Blk.evq_countOne_prefix src n u i)

theorem Blk.evq_moved (s : Blk) : s.moved.evq = s.evq := by
  obtain ⟨lck, sht, e⟩ := s.moved_eq
  rw [e]

theorem Blk.evq_advance_prefix (s : Blk) (u : Nat) : s.evq <+: (s.advance u).evq := by
  unfold Blk.advance
  split
  · exact List.prefix_rfl
  · dsimp only
    rw [Blk.evq_moved]
    exact Blk.evq_count_prefix { s with now := u } _ _

/-! ### What the passing of time and a counter leave -/

theorem Blk.advance_eq (s : Blk) (u : Nat) : ∃ now regs evq lck sht,
    s.advance u = { s with now := now, regs := regs, evq := evq, lck := lck, sht := sht } := (s.advance_passed u).1

theorem Blk.count_eq (s : Blk) (src n : Nat) : ∃ regs evq, s.count src n = { s with regs := regs, evq := evq } := (s.count_counted src n).1

@[simp] theorem Blk.advance_freeN (s : Blk) (u : Nat) : (s.advance u).freeN = s.freeN := by
  obtain ⟨_, _, _, _, _, e⟩ := s.advance_eq u
  rw [e]

@[simp] theorem Blk.advance_held (s : Blk) (u : Nat) : (s.advance u).held = s.held := by
  obtain ⟨_, _, _, _, _, e⟩ := s.advance_eq u
  rw [e]

@[simp] theorem Blk.advance_mem (s : Blk) (u : Nat) : (s.advance u).mem = s.mem := by
  obtain ⟨_, _, _, _, _, e⟩ := s.advance_eq u
  rw [e]

@[simp] theorem Blk.advance_out (s : Blk) (u : Nat) : (s.advance u).out = s.out := by
  obtain ⟨_, _, _, _, _, e⟩ := s.advance_eq u
  rw [e]

@[simp] theorem Blk.advance_wires (s : Blk) (u : Nat) : (s.advance u).wires = s.wires := by
  obtain ⟨_, _, _, _, _, e⟩ := s.advance_eq u
  rw [e]

@[simp] theorem Blk.advance_holding (s : Blk) (u : Nat) : (s.advance u).holding = s.holding := by
  obtain ⟨_, _, _, _, _, e⟩ := s.advance_eq u
  rw [e]

@[simp] theorem Blk.advance_tim (s : Blk) (u : Nat) : (s.advance u).tim = s.tim := by
  obtain ⟨_, _, _, _, _, e⟩ := s.advance_eq u
  rw [e]

@[simp] theorem Blk.advance_bcn (s : Blk) (u : Nat) : (s.advance u).bcn = s.bcn := by
  obtain ⟨_, _, _, _, _, e⟩ := s.advance_eq u
  rw [e]

@[simp] theorem Blk.advance_encs (s : Blk) (u : Nat) : (s.advance u).encs = s.encs := by
  obtain ⟨_, _, _, _, _, e⟩ := s.advance_eq u
  rw [e]

@[simp] theorem Blk.advance_scheds (s : Blk) (u : Nat) : (s.advance u).scheds = s.scheds := by
  obtain ⟨_, _, _, _, _, e⟩ := s.advance_eq u
  rw [e]

@[simp] theorem Blk.advance_pevs (s : Blk) (u : Nat) : (s.advance u).pevs = s.pevs := by
  obtain ⟨_, _, _, _, _, e⟩ := s.advance_eq u
  rw [e]

@[simp] theorem Blk.advance_trks (s : Blk) (u : Nat) : (s.advance u).trks = s.trks := by
  obtain ⟨_, _, _, _, _, e⟩ := s.advance_eq u
  rw [e]

@[simp] theorem Blk.advance_cmp (s : Blk) (u : Nat) : (s.advance u).cmp = s.cmp := by
  obtain ⟨_, _, _, _, _, e⟩ := s.advance_eq u
  rw [e]

@[simp] theorem Blk.advance_ports (s : Blk) (u : Nat) : (s.advance u).ports = s.ports := by
  obtain ⟨_, _, _, _, _, e⟩ := s.advance_eq u
  rw [e]

@[simp] theorem Blk.advance_mbx (s : Blk) (u : Nat) : (s.advance u).mbx = s.mbx := by
  obtain ⟨_, _, _, _, _, e⟩ := s.advance_eq u
  rw [e]

@[simp] theorem Blk.advance_cams (s : Blk) (u : Nat) : (s.advance u).cams = s.cams := by
  obtain ⟨_, _, _, _, _, e⟩ := s.advance_eq u
  rw [e]

@[simp] theorem Blk.advance_ins (s : Blk) (u : Nat) : (s.advance u).ins = s.ins := by
  obtain ⟨_, _, _, _, _, e⟩ := s.advance_eq u
  rw [e]

@[simp] theorem Blk.advance_axes (s : Blk) (u : Nat) : (s.advance u).axes = s.axes := by
  obtain ⟨_, _, _, _, _, e⟩ := s.advance_eq u
  rw [e]

@[simp] theorem Blk.advance_twn (s : Blk) (u : Nat) : (s.advance u).twn = s.twn := by
  obtain ⟨_, _, _, _, _, e⟩ := s.advance_eq u
  rw [e]

@[simp] theorem Blk.advance_dram (s : Blk) (u : Nat) : (s.advance u).dram = s.dram := by
  obtain ⟨_, _, _, _, _, e⟩ := s.advance_eq u
  rw [e]

@[simp] theorem Blk.advance_lanes (s : Blk) (u : Nat) : (s.advance u).lanes = s.lanes := by
  obtain ⟨_, _, _, _, _, e⟩ := s.advance_eq u
  rw [e]

@[simp] theorem Blk.advance_scan (s : Blk) (u : Nat) : (s.advance u).scan = s.scan := by
  obtain ⟨_, _, _, _, _, e⟩ := s.advance_eq u
  rw [e]

@[simp] theorem Blk.advance_links (s : Blk) (u : Nat) : (s.advance u).links = s.links := by
  obtain ⟨_, _, _, _, _, e⟩ := s.advance_eq u
  rw [e]

@[simp] theorem Blk.advance_wal (s : Blk) (u : Nat) : (s.advance u).wal = s.wal := by
  obtain ⟨_, _, _, _, _, e⟩ := s.advance_eq u
  rw [e]

@[simp] theorem Blk.advance_time (s : Blk) (u : Nat) : (s.advance u).time = s.time := by
  obtain ⟨_, _, _, _, _, e⟩ := s.advance_eq u
  rw [e]

@[simp] theorem Blk.advance_streams (s : Blk) (u : Nat) : (s.advance u).streams = s.streams := by
  obtain ⟨_, _, _, _, _, e⟩ := s.advance_eq u
  rw [e]

@[simp] theorem Blk.advance_sto (s : Blk) (u : Nat) : (s.advance u).sto = s.sto := by
  obtain ⟨_, _, _, _, _, e⟩ := s.advance_eq u
  rw [e]

@[simp] theorem Blk.advance_bst (s : Blk) (u : Nat) : (s.advance u).bst = s.bst := by
  obtain ⟨_, _, _, _, _, e⟩ := s.advance_eq u
  rw [e]

@[simp] theorem Blk.advance_trm (s : Blk) (u : Nat) : (s.advance u).trm = s.trm := by
  obtain ⟨_, _, _, _, _, e⟩ := s.advance_eq u
  rw [e]

@[simp] theorem Blk.advance_fuse (s : Blk) (u : Nat) : (s.advance u).fuse = s.fuse := by
  obtain ⟨_, _, _, _, _, e⟩ := s.advance_eq u
  rw [e]

@[simp] theorem Blk.advance_sys (s : Blk) (u : Nat) : (s.advance u).sys = s.sys := by
  obtain ⟨_, _, _, _, _, e⟩ := s.advance_eq u
  rw [e]

@[simp] theorem Blk.advance_acc (s : Blk) (u : Nat) : (s.advance u).acc = s.acc := by
  obtain ⟨_, _, _, _, _, e⟩ := s.advance_eq u
  rw [e]

@[simp] theorem Blk.count_now (s : Blk) (src n : Nat) : (s.count src n).now = s.now := by
  obtain ⟨_, _, e⟩ := s.count_eq src n
  rw [e]

@[simp] theorem Blk.count_freeN (s : Blk) (src n : Nat) : (s.count src n).freeN = s.freeN := by
  obtain ⟨_, _, e⟩ := s.count_eq src n
  rw [e]

@[simp] theorem Blk.count_held (s : Blk) (src n : Nat) : (s.count src n).held = s.held := by
  obtain ⟨_, _, e⟩ := s.count_eq src n
  rw [e]

@[simp] theorem Blk.count_mem (s : Blk) (src n : Nat) : (s.count src n).mem = s.mem := by
  obtain ⟨_, _, e⟩ := s.count_eq src n
  rw [e]

@[simp] theorem Blk.count_out (s : Blk) (src n : Nat) : (s.count src n).out = s.out := by
  obtain ⟨_, _, e⟩ := s.count_eq src n
  rw [e]

@[simp] theorem Blk.count_wires (s : Blk) (src n : Nat) : (s.count src n).wires = s.wires := by
  obtain ⟨_, _, e⟩ := s.count_eq src n
  rw [e]

@[simp] theorem Blk.count_holding (s : Blk) (src n : Nat) : (s.count src n).holding = s.holding := by
  obtain ⟨_, _, e⟩ := s.count_eq src n
  rw [e]

@[simp] theorem Blk.count_tim (s : Blk) (src n : Nat) : (s.count src n).tim = s.tim := by
  obtain ⟨_, _, e⟩ := s.count_eq src n
  rw [e]

@[simp] theorem Blk.count_bcn (s : Blk) (src n : Nat) : (s.count src n).bcn = s.bcn := by
  obtain ⟨_, _, e⟩ := s.count_eq src n
  rw [e]

@[simp] theorem Blk.count_encs (s : Blk) (src n : Nat) : (s.count src n).encs = s.encs := by
  obtain ⟨_, _, e⟩ := s.count_eq src n
  rw [e]

@[simp] theorem Blk.count_scheds (s : Blk) (src n : Nat) : (s.count src n).scheds = s.scheds := by
  obtain ⟨_, _, e⟩ := s.count_eq src n
  rw [e]

@[simp] theorem Blk.count_pevs (s : Blk) (src n : Nat) : (s.count src n).pevs = s.pevs := by
  obtain ⟨_, _, e⟩ := s.count_eq src n
  rw [e]

@[simp] theorem Blk.count_trks (s : Blk) (src n : Nat) : (s.count src n).trks = s.trks := by
  obtain ⟨_, _, e⟩ := s.count_eq src n
  rw [e]

@[simp] theorem Blk.count_cmp (s : Blk) (src n : Nat) : (s.count src n).cmp = s.cmp := by
  obtain ⟨_, _, e⟩ := s.count_eq src n
  rw [e]

@[simp] theorem Blk.count_ports (s : Blk) (src n : Nat) : (s.count src n).ports = s.ports := by
  obtain ⟨_, _, e⟩ := s.count_eq src n
  rw [e]

@[simp] theorem Blk.count_mbx (s : Blk) (src n : Nat) : (s.count src n).mbx = s.mbx := by
  obtain ⟨_, _, e⟩ := s.count_eq src n
  rw [e]

@[simp] theorem Blk.count_cams (s : Blk) (src n : Nat) : (s.count src n).cams = s.cams := by
  obtain ⟨_, _, e⟩ := s.count_eq src n
  rw [e]

@[simp] theorem Blk.count_ins (s : Blk) (src n : Nat) : (s.count src n).ins = s.ins := by
  obtain ⟨_, _, e⟩ := s.count_eq src n
  rw [e]

@[simp] theorem Blk.count_axes (s : Blk) (src n : Nat) : (s.count src n).axes = s.axes := by
  obtain ⟨_, _, e⟩ := s.count_eq src n
  rw [e]

@[simp] theorem Blk.count_twn (s : Blk) (src n : Nat) : (s.count src n).twn = s.twn := by
  obtain ⟨_, _, e⟩ := s.count_eq src n
  rw [e]

@[simp] theorem Blk.count_dram (s : Blk) (src n : Nat) : (s.count src n).dram = s.dram := by
  obtain ⟨_, _, e⟩ := s.count_eq src n
  rw [e]

@[simp] theorem Blk.count_lanes (s : Blk) (src n : Nat) : (s.count src n).lanes = s.lanes := by
  obtain ⟨_, _, e⟩ := s.count_eq src n
  rw [e]

@[simp] theorem Blk.count_scan (s : Blk) (src n : Nat) : (s.count src n).scan = s.scan := by
  obtain ⟨_, _, e⟩ := s.count_eq src n
  rw [e]

@[simp] theorem Blk.count_links (s : Blk) (src n : Nat) : (s.count src n).links = s.links := by
  obtain ⟨_, _, e⟩ := s.count_eq src n
  rw [e]

@[simp] theorem Blk.count_wal (s : Blk) (src n : Nat) : (s.count src n).wal = s.wal := by
  obtain ⟨_, _, e⟩ := s.count_eq src n
  rw [e]

@[simp] theorem Blk.count_time (s : Blk) (src n : Nat) : (s.count src n).time = s.time := by
  obtain ⟨_, _, e⟩ := s.count_eq src n
  rw [e]

@[simp] theorem Blk.count_streams (s : Blk) (src n : Nat) : (s.count src n).streams = s.streams := by
  obtain ⟨_, _, e⟩ := s.count_eq src n
  rw [e]

@[simp] theorem Blk.count_sto (s : Blk) (src n : Nat) : (s.count src n).sto = s.sto := by
  obtain ⟨_, _, e⟩ := s.count_eq src n
  rw [e]

@[simp] theorem Blk.count_bst (s : Blk) (src n : Nat) : (s.count src n).bst = s.bst := by
  obtain ⟨_, _, e⟩ := s.count_eq src n
  rw [e]

@[simp] theorem Blk.count_trm (s : Blk) (src n : Nat) : (s.count src n).trm = s.trm := by
  obtain ⟨_, _, e⟩ := s.count_eq src n
  rw [e]

@[simp] theorem Blk.count_fuse (s : Blk) (src n : Nat) : (s.count src n).fuse = s.fuse := by
  obtain ⟨_, _, e⟩ := s.count_eq src n
  rw [e]

@[simp] theorem Blk.count_sys (s : Blk) (src n : Nat) : (s.count src n).sys = s.sys := by
  obtain ⟨_, _, e⟩ := s.count_eq src n
  rw [e]

@[simp] theorem Blk.count_acc (s : Blk) (src n : Nat) : (s.count src n).acc = s.acc := by
  obtain ⟨_, _, e⟩ := s.count_eq src n
  rw [e]

@[simp] theorem Blk.count_lck (s : Blk) (src n : Nat) : (s.count src n).lck = s.lck := by
  obtain ⟨_, _, e⟩ := s.count_eq src n
  rw [e]

@[simp] theorem Blk.count_sht (s : Blk) (src n : Nat) : (s.count src n).sht = s.sht := by
  obtain ⟨_, _, e⟩ := s.count_eq src n
  rw [e]

theorem Blk.advance_of_le (s : Blk) {u : Nat} (h : u ≤ s.now) : s.advance u = s := if_pos h

theorem Blk.val_advance (s : Blk) (u a n : Nat) (h : ∀ b, a ≤ b → b < a + n → cntWord b = false) : (s.advance u).val a n = s.val a n :=
  Blk.val_eq n _ _ a fun b h1 h2 => s.rn_advance u (h b h1 h2)

theorem Blk.fb_advance (s : Blk) (u : Nat) {x : Fld} (h : cntWord x.addr = false) : (s.advance u).fb x = s.fb x := by
  rw [Blk.fb, s.f_advance u h, Blk.fb]

theorem Blk.calm_advance (s : Blk) (u : Nat) : s.Calm (s.advance u) := .of_eq (by simp) (by simp) (by simp)

theorem Blk.calm_count (s : Blk) (src n : Nat) : s.Calm (s.count src n) := .of_eq (by simp) (by simp) (by simp)

theorem Blk.Calm.advance (h : r.Calm s) {u : Nat} : r.Calm (s.advance u) := h.trans (s.calm_advance u)

theorem Blk.Calm.count (h : r.Calm s) {src n : Nat} : r.Calm (s.count src n) := h.trans (s.calm_count src n)

/-- The registers below those of the counters are none of theirs. -/
theorem cntWord_low {a : Nat} (h : a < 0x180002) : cntWord a = false := by
  simp only [cntWord, Bool.or_eq_false_iff, beq_eq_false_iff_ne, ne_eq, decide_eq_false_iff_not, CNT_WRAP, CNT_VALUE]
  omega

/-- Those behind them neither. -/
theorem cntWord_high {a : Nat} (h : 0x180102 ≤ a) : cntWord a = false := by
  simp only [cntWord, Bool.or_eq_false_iff, beq_eq_false_iff_ne, ne_eq, decide_eq_false_iff_not, CNT_WRAP, CNT_VALUE]
  omega

/-! ### Reads outside the words of a frame -/

theorem Blk.RegsBut.f (h : r.RegsBut s p) {x : Fld} (hc : cntWord x.addr = false) (hp : ¬p x.addr) : s.f x = r.f x := Blk.f_of_reg (h _ hc hp)

theorem Blk.RegsBut.fb (h : r.RegsBut s p) {x : Fld} (hc : cntWord x.addr = false) (hp : ¬p x.addr) : s.fb x = r.fb x := Blk.fb_of_reg (h _ hc hp)

theorem Blk.RegsBut.rn (h : r.RegsBut s p) {a : Nat} (hc : cntWord a = false) (hp : ¬p a) : s.rn a = r.rn a := Blk.rn_of_reg (h _ hc hp)

/-- The states of the tracks stand where no status word of a track is written. -/
theorem Blk.RegsBut.allIdle (h : r.RegsBut s p) (hp : ∀ t, t < 4 → ¬p (PGE_TRK_STATUS t)) : s.allIdle = r.allIdle := by
  have ht (t : Nat) (h4 : t < 4) : s.trkState t = r.trkState t :=
    h.f (cntWord_low (by simp only [PGE_TRK_STATUS]; omega)) (hp t h4)
  simp only [Blk.allIdle, List.all_cons, List.all_nil, ht 0 (by decide), ht 1 (by decide), ht 2 (by decide), ht 3 (by decide)]

/-! ### Both frames at once -/

/-- What most claims say a command leaves: register words outside `p`, image memory, the fuses and the phase. -/
def Blk.Frame (r s : Blk) (p : Nat → Prop) : Prop := r.RegsBut s p ∧ r.Calm s

namespace Blk.Frame

theorem refl (r : Blk) (p : Nat → Prop) : r.Frame r p := ⟨.refl r p, .refl r⟩

theorem trans (h : r.Frame s p) (g : s.Frame t p) : r.Frame t p := ⟨h.1.trans g.1, h.2.trans g.2⟩

theorem mono {q : Nat → Prop} (h : r.Frame s p) (hq : ∀ a, p a → q a) : r.Frame s q := ⟨h.1.mono hq, h.2⟩

theorem setReg (h : r.Frame s p) {a : Nat} {w : Word} (ha : p a) : r.Frame (s.setReg a w) p := ⟨h.1.setReg ha, h.2⟩

theorem wn (h : r.Frame s p) {a v : Nat} (ha : p a) : r.Frame (s.wn a v) p := h.setReg ha

theorem setF (h : r.Frame s p) {x : Fld} {v : Nat} (hx : p x.addr) : r.Frame (s.setF x v) p := h.wn hx

theorem incSat (h : r.Frame s p) {a : Nat} (ha : p a) : r.Frame (s.incSat a) p := h.wn ha

theorem setVal (h : r.Frame s p) {a v n : Nat} (ha : ∀ i, i < n → p (a + i)) : r.Frame (s.setVal a v n) p :=
  ⟨h.1.setVal ha, by rw [Blk.setVal_eq]; exact h.2⟩

theorem setSval (h : r.Frame s p) {a n w : Nat} {v : Int} (ha : ∀ i, i < n → p (a + i)) : r.Frame (s.setSval a n w v) p := h.setVal ha

/-- Writing the two words of a value. -/
theorem setSval2 (h : r.Frame s p) {a w : Nat} {v : Int} (h0 : p a) (h1 : p (a + 1)) : r.Frame (s.setSval a 2 w v) p := (h.wn h0).wn h1

theorem setVal2 (h : r.Frame s p) {a v : Nat} (h0 : p a) (h1 : p (a + 1)) : r.Frame (s.setVal a v 2) p := (h.wn h0).wn h1

theorem setSval1 (h : r.Frame s p) {a w : Nat} {v : Int} (h0 : p a) : r.Frame (s.setSval a 1 w v) p := h.wn h0

theorem count (h : r.Frame s p) {src n : Nat} : r.Frame (s.count src n) p := ⟨h.1.count, h.2.count⟩

theorem advance (h : r.Frame s p) {u : Nat} : r.Frame (s.advance u) p := ⟨h.1.advance, h.2.advance⟩

theorem ite {c : Prop} [Decidable c] (hs : r.Frame s p) (ht : r.Frame t p) : r.Frame (if c then s else t) p := by
  split
  · exact hs
  · exact ht

theorem foldl {α : Type} {f : Blk → α → Blk} (hf : ∀ u x, r.Frame u p → r.Frame (f u x) p) (l : List α) (h : r.Frame s p) :
    r.Frame (l.foldl f s) p := List.foldlRecOn l f h fun u g x _ => hf u x g

/-- Writing fields other than the registers, the image memory, the fuses and the phase. -/
theorem put (h : r.Frame s p) {now freeN held evq out wires holding tim bcn encs lck scheds pevs trks cmp ports mbx cams ins sht axes twn dram
    lanes scan links wal time streams sto bst trm acc} :
    Blk.Frame r ⟨now, freeN, s.regs, held, s.mem, evq, out, wires, holding, tim, bcn, encs, lck, scheds, pevs, trks, cmp, ports, mbx, cams,
    ins, sht, axes, twn, dram, lanes, scan, links, wal, time, streams, sto, bst, trm, s.fuse, s.sys, acc⟩ p := ⟨h.1.put, h.2.put⟩

theorem raise (h : r.Frame s p) {c i d0 d1 : Nat} : r.Frame (s.raise c i d0 d1) p := h.put

theorem raiseT (h : r.Frame s p) {c i d0 d1 : Nat} : r.Frame (s.raiseT c i d0 d1) p := h.put

theorem emit (h : r.Frame s p) {o : Out} : r.Frame (s.emit o) p := h.put

end Blk.Frame

end Sys2Proof.Machine
end

section
/-!
PROOFS. The axes (R254 to R281): what their commands do in each state, what they refuse, motion, and the choppers.
-/

namespace Sys2Proof.Machine

variable {s : Blk} {n : Nat}

/-! ### What an axis reads after each write -/

@[simp] theorem Blk.ax_setAx (s : Blk) (n : Nat) (x : Ax) : (s.setAx n x).ax n = x := Tab.get_put_same _ _ _ _

@[simp] theorem Blk.axes_setAxState (s : Blk) (n v : Nat) : (s.setAxState n v).axes = s.axes := rfl

@[simp] theorem Blk.ax_setF (s : Blk) (x : Fld) (v n : Nat) : (s.setF x v).ax n = s.ax n := rfl

@[simp] theorem Blk.ax_setSval (s : Blk) (a k w : Nat) (v : Int) (n : Nat) : (s.setSval a k w v).ax n = s.ax n := by
  rw [Blk.setSval, Blk.setVal_eq]
  rfl

@[simp] theorem Blk.ax_raise (s : Blk) (c i d0 d1 n : Nat) : (s.raise c i d0 d1).ax n = s.ax n := rfl

@[simp] theorem Blk.f_setAx (s : Blk) (n : Nat) (x : Ax) (y : Fld) : (s.setAx n x).f y = s.f y := rfl

@[simp] theorem Blk.fb_setAx (s : Blk) (n : Nat) (x : Ax) (y : Fld) : (s.setAx n x).fb y = s.fb y := rfl

@[simp] theorem Blk.rn_setAx (s : Blk) (n : Nat) (x : Ax) (a : Nat) : (s.setAx n x).rn a = s.rn a := rfl

@[simp] theorem Blk.rn_setCoil (s : Blk) (n c : Nat) (x : Coil) (a : Nat) : (s.setCoil n c x).rn a = s.rn a := rfl

@[simp] theorem Blk.val_setAx (s : Blk) (n : Nat) (x : Ax) (a k : Nat) : (s.setAx n x).val a k = s.val a k :=
  Blk.val_eq k _ _ a fun _ _ _ => rfl

@[simp] theorem Blk.sval_setAx (s : Blk) (n : Nat) (x : Ax) (a k w : Nat) : (s.setAx n x).sval a k w = s.sval a k w := by
  rw [Blk.sval, Blk.val_setAx, Blk.sval]

@[simp] theorem Blk.axState_setAx (s : Blk) (n m : Nat) (x : Ax) : (s.setAx n x).axState m = s.axState m := rfl

@[simp] theorem Blk.axPos_setAx (s : Blk) (n m : Nat) (x : Ax) : (s.setAx n x).axPos m = s.axPos m := s.sval_setAx _ _ _ _ _

@[simp] theorem Blk.axState_setAxState (s : Blk) (n v : Nat) : (s.setAxState n v).axState n = v % 8 :=
  Blk.f_setF_same _ _ _ (by simp) (by simp)

/-- A field of the status word beside the state, and every other word, are left by a change of the state. -/
theorem Blk.f_setAxState (s : Blk) (n v : Nat) {y : Fld} (hy : y.lo ≤ y.hi) (hy' : y.hi < 24) (h : y.addr ≠ AXS_STATUS n ∨ 2 < y.lo) :
    (s.setAxState n v).f y = s.f y := Blk.f_setF_ne _ _ _ _ (by simp) hy hy' (h.imp_right .inr)

@[simp] theorem Blk.axState_captureRef (s : Blk) (n : Nat) : (s.captureRef n).axState n = s.axState n := rfl

@[simp] theorem Blk.held_setSval (s : Blk) (a k w : Nat) (v : Int) : (s.setSval a k w v).held = s.held := by rw [Blk.setSval, Blk.setVal_eq]

theorem sval48 (s : Blk) (a : Nat) : sext 48 (wrapTo 48 (s.sval a 2 48)) = s.sval a 2 48 := by
  rw [Blk.sval, wrapTo_sext, sext_mod]

@[simp] theorem Blk.axPos_setAxPos (s : Blk) (n : Nat) (p : Int) : (s.setAxPos n p).axPos n = sext 48 (wrapTo 48 p) :=
  Blk.sval_setSval_same _ _ _ _ _ (by decide)

@[simp] theorem Blk.actTarget_setActTarget (s : Blk) (n : Nat) (p : Int) :
    (s.setActTarget n p).sval (AXS_ACT_TARGET n) 2 48 = sext 48 (wrapTo 48 p) := Blk.sval_setSval_same _ _ _ _ _ (by decide)

section

variable {r : Blk} {p : Nat → Prop}

theorem Blk.Frame.setAx (h : r.Frame s p) {x : Ax} : r.Frame (s.setAx n x) p := h.put

theorem Blk.Frame.setAxState (h : r.Frame s p) {v : Nat} (hp : p (AXS_STATUS n)) : r.Frame (s.setAxState n v) p := h.setF hp

theorem Blk.Frame.setActTarget (h : r.Frame s p) {x : Int} (h0 : p (AXS_ACT_TARGET n)) (h1 : p (AXS_ACT_TARGET n + 1)) :
    r.Frame (s.setActTarget n x) p := h.setSval2 h0 h1

theorem Blk.Frame.setAxPos (h : r.Frame s p) {x : Int} (h0 : p (AXS_POS n)) (h1 : p (AXS_POS n + 1)) : r.Frame (s.setAxPos n x) p :=
  h.setSval2 h0 h1

theorem Blk.Frame.showVel (h : r.Frame s p) (hp : p (AXS_VEL n)) : r.Frame (s.showVel n) p := h.setSval1 hp

theorem Blk.Frame.setCoil (h : r.Frame s p) {c : Nat} {x : Coil} : r.Frame (s.setCoil n c x) p := h.put

theorem Blk.Frame.showOfs (h : r.Frame s p) (hp : p (AXS_CHOP_OFS n)) : r.Frame (s.showOfs n) p := h.wn hp

end

/-! ### Refusals -/

/-- The words that a command of an axis may write beside the status word. -/
def actWord (n a : Nat) : Prop := a = AXS_STATUS n ∨ a = AXS_ACT_TARGET n ∨ a = AXS_ACT_TARGET n + 1

/-- A refused command leaves REJ and its cause, raises its event, and changes nothing else (R256). -/
theorem Blk.axReject_spec (s : Blk) {n cause : Nat} (hn : n < 6) (hc : cause < 8) :
    (s.axReject n cause).fb (AXS_STATUS_REJ n) = true ∧ (s.axReject n cause).f (AXS_STATUS_REJ_CAUSE n) = cause ∧
      s.Raised (s.axReject n cause) 0x704 n n cause ∧ (s.axReject n cause).axes = s.axes ∧
      s.Frame (s.axReject n cause) (· = AXS_STATUS n) := by
  unfold Blk.axReject
  refine ⟨?_, ?_, .raise (by simp) 0x704 (by omega) (by omega) (by omega), by simp, (((Blk.Frame.refl s (· = AXS_STATUS n)).setF rfl).setF rfl).raise⟩
  · simp [Blk.fb, Blk.f_raise, Blk.f_setF_ne, Blk.f_setF_same]
  · rw [Blk.f_raise, Blk.f_setF_same _ _ _ (by simp) (by simp)]
    exact Nat.mod_eq_of_lt hc

theorem axisGo_of_other {s : Blk} {n : Nat} (h1 : s.axState n ≠ 1) (h2 : s.axState n ≠ 2) : axisGo n s = s.axReject n 3 := by
  unfold axisGo
  split
  · exact absurd ‹_› h1
  · exact absurd ‹_› h2
  · rfl

theorem axisStopCmd_of_other {s : Blk} {n : Nat} (lim : Bool) (h2 : s.axState n ≠ 2) (h3 : s.axState n ≠ 3) (h4 : s.axState n ≠ 4) :
    axisStopCmd lim n s = s.axReject n 3 := by
  unfold axisStopCmd
  split
  · exact absurd ‹_› h2
  · exact absurd ‹_› h3
  · exact absurd ‹_› h4
  · rfl

/-- Settles O21: each of the commands is refused where its state has no row for it. -/
theorem axisRefusals : Obligations.AxisRefusals := by
  unfold Obligations.AxisRefusals
  intro s n c hs hc
  have hrej := s.blk.axReject_spec (cause := 3) n.isLt (by decide)
  rcases hc with ⟨rfl, h⟩ | ⟨rfl, h⟩ | ⟨rfl, h1, h2⟩ | ⟨rfl | rfl, h2, h3, h4⟩ | ⟨rfl, h⟩ | ⟨rfl, h⟩ | ⟨rfl, h⟩
  · exact .of_on (f := axisEnable n) rfl hs (by rwa [axisEnable, if_pos h])
  · exact .of_on (f := axisDisable n) rfl hs (by rwa [axisDisable, if_pos h])
  · exact .of_on (f := axisGo n) rfl hs (by rwa [axisGo_of_other h1 h2])
  · exact .of_on (f := axisStopCmd false n) rfl hs (by rwa [axisStopCmd_of_other _ h2 h3 h4])
  · exact .of_on (f := axisStopCmd true n) rfl hs (by rwa [axisStopCmd_of_other _ h2 h3 h4])
  · exact .of_on (f := axisHome n) rfl hs (by rwa [axisHome, if_pos h])
  · exact .of_on (f := axisPreset n) rfl hs (by rwa [axisPreset, if_pos h])
  · exact .of_on (f := axisClear n) rfl hs (by rwa [axisClear, if_pos h])

/-! ### Held values and trims at a cycle start -/

theorem Blk.regs_foldl_setReg (l : List Held) (s : Blk) : ∃ regs, l.foldl (fun t x => t.setReg x.addr x.val) s = { s with regs := regs } := by
  induction l generalizing s with
  | nil => exact ⟨s.regs, rfl⟩
  | cons x l ih => exact ih (s.setReg x.addr x.val)

theorem Blk.reg_foldl_setReg_of_ne {a : Nat} {l : List Held} (h : ∀ x ∈ l, x.addr ≠ a) (s : Blk) :
    (l.foldl (fun t x => t.setReg x.addr x.val) s).reg a = s.reg a := by
  induction l generalizing s with
  | nil => rfl
  | cons x l ih =>
    rw [List.forall_mem_cons] at h
    exact (ih h.2 _).trans (Blk.reg_setReg_ne s _ h.1.symm)

theorem Blk.commit_eq (s : Blk) (p : Held → Bool) : ∃ regs held, s.commit p = { s with regs := regs, held := held } := by
  unfold Blk.commit
  split
  · exact ⟨s.regs, s.held, rfl⟩
  · obtain ⟨regs, h⟩ := Blk.regs_foldl_setReg (s.held.filter p) { s with held := s.held.filter fun x => !p x }
    exact ⟨regs, _, h⟩

/-- With nothing held nothing takes effect. -/
theorem Blk.commit_of_held_nil {s : Blk} (h : s.held = []) (p : Held → Bool) : s.commit p = s := by
  unfold Blk.commit
  split
  · rfl
  · rw [h]
    cases s
    simp only at h
    subst h
    rfl

theorem Blk.held_commit_subset (s : Blk) (p : Held → Bool) : ∀ x ∈ (s.commit p).held, x ∈ s.held := by
  unfold Blk.commit
  split
  · exact fun x hx => hx
  · obtain ⟨regs, h⟩ := Blk.regs_foldl_setReg (s.held.filter p) { s with held := s.held.filter fun x => !p x }
    rw [h]
    exact fun x hx => List.mem_of_mem_filter hx

/-- A word that no value is held for is left as held values take effect. -/
theorem Blk.reg_commit_of_unheld {s : Blk} {a : Nat} (h : ∀ x ∈ s.held, x.addr ≠ a) (p : Held → Bool) : (s.commit p).reg a = s.reg a := by
  unfold Blk.commit
  split
  · rfl
  · exact Blk.reg_foldl_setReg_of_ne (fun x hx => h x (List.mem_of_mem_filter hx)) _

/-- A trim that is applied writes words from the lanes' on, trims and events. -/
theorem Blk.applyTrim_spec (s : Blk) (x : HeldTrim) : (∃ regs evq trm, s.applyTrim x = { s with regs := regs, evq := evq, trm := trm }) ∧
    ∀ a, a < 0x100000 → (s.applyTrim x).reg a = s.reg a := by
  have hput (t : Blk) (v : Int) : (∃ regs trm, t.putTrim x v = { t with regs := regs, trm := trm }) ∧
      ∀ a, a < 0x100000 → (t.putTrim x v).reg a = t.reg a := by
    have hf (y : Fld) (u : Nat) (hy : 0x100000 ≤ y.addr) : (∃ regs trm, t.setF y u = { t with regs := regs, trm := trm }) ∧
        ∀ a, a < 0x100000 → (t.setF y u).reg a = t.reg a := ⟨⟨_, _, rfl⟩, fun a ha => Blk.reg_setF_ne _ _ _ (by omega)⟩
    unfold Blk.putTrim
    split
    · split
      · exact hf _ _ (by simp only [TRM_LANE]; omega)
      · exact hf _ _ (by simp only [TRM_LANE]; omega)
    · exact hf _ _ (by simp only [LAN_EQ]; omega)
    · exact hf _ _ (by simp only [TRM_LANE]; omega)
    · split
      · exact hf _ _ (by simp only [TRM_SNS]; omega)
      · exact hf _ _ (by simp only [TRM_SNS]; omega)
    · exact ⟨⟨_, _, rfl⟩, fun a ha => Blk.reg_wn_ne _ _ (by simp only [TRM_OSC]; omega)⟩
    · exact ⟨⟨t.regs, _, rfl⟩, fun a _ => rfl⟩
  have h0 (a : Nat) (ha : a < 0x100000) : ({ s with trm := { s.trm with held := s.trm.held.erase x } } : Blk).showHeld.reg a = s.reg a := by
    rw [Blk.showHeld, Blk.reg_setF_ne _ _ _ (by simp only [TRM_STATUS]; omega)]
    rfl
  unfold Blk.applyTrim
  extract_lets m s1 r s2
  have e1 : ∃ regs trm, s1 = { s with regs := regs, trm := trm } := ⟨_, _, rfl⟩
  have e2 : ∃ regs trm, s2 = { s with regs := regs, trm := trm } := by
    obtain ⟨⟨regs, trm, e⟩, -⟩ := hput s1 (max r.1 (min r.2 x.val))
    exact ⟨regs, trm, e⟩
  have g2 (a : Nat) (ha : a < 0x100000) : s2.reg a = s.reg a := ((hput s1 _).2 a ha).trans (h0 a ha)
  split
  · obtain ⟨regs, trm, e⟩ := e1
    exact ⟨⟨regs, s.evq, trm, e⟩, h0⟩
  · split
    · obtain ⟨⟨regs, trm, e⟩, g⟩ := hput s1 x.val
      exact ⟨⟨regs, s.evq, trm, e⟩, fun a ha => (g a ha).trans (h0 a ha)⟩
    · obtain ⟨regs, trm, e⟩ := e2
      split
      · exact ⟨⟨regs, s.evq, trm, e⟩, g2⟩
      · refine ⟨⟨_, _, trm, by rw [e]; rfl⟩, fun a ha => ?_⟩
        rw [Blk.reg_raise, Blk.reg_setF_ne _ _ _ (by simp only [TRM_STATUS]; omega), g2 a ha]

/-- What goes from `r` to `s` while held values and trims of axis `n` take effect and its coils begin new cycles: the status word, the stall
count, and what no cycle touches. -/
structure Blk.CycleKept (r s : Blk) (n : Nat) : Prop where
  status : s.reg (AXS_STATUS n) = r.reg (AXS_STATUS n)
  ax : ∃ coils, s.ax n = { r.ax n with coils := coils }
  unheld : ∀ x ∈ s.held, x.addr ≠ AXS_STATUS n
  calm : r.Calm s

namespace Blk.CycleKept

variable {r : Blk}

theorem refl (h : ∀ x ∈ s.held, x.addr ≠ AXS_STATUS n) : s.CycleKept s n := ⟨rfl, ⟨_, rfl⟩, h, .refl s⟩

theorem axState (h : r.CycleKept s n) : s.axState n = r.axState n := by rw [Blk.axState, Blk.f, Blk.rn, h.status]; rfl

theorem fb_status (h : r.CycleKept s n) (x : Fld) (hx : x.addr = AXS_STATUS n) : s.fb x = r.fb x := by
  rw [Blk.fb, Blk.f, Blk.rn, hx, h.status, Blk.fb, Blk.f, Blk.rn, hx]

theorem commit (h : r.CycleKept s n) {p : Held → Bool} : r.CycleKept (s.commit p) n := by
  obtain ⟨hs, ha, hu, hc⟩ := h
  obtain ⟨regs, held, e⟩ := s.commit_eq p
  refine ⟨(Blk.reg_commit_of_unheld hu p).trans hs, ?_, fun x hx => hu x (s.held_commit_subset p x hx), ?_⟩
  · rw [e]
    exact ha
  · rw [e]
    exact hc.put

theorem applyTrim (h : r.CycleKept s n) (hn : n < 6) {x : HeldTrim} : r.CycleKept (s.applyTrim x) n := by
  obtain ⟨hs, ha, hu, hc⟩ := h
  obtain ⟨⟨regs, evq, trm, e⟩, g⟩ := s.applyTrim_spec x
  refine ⟨(g _ (by simp only [AXS_STATUS]; omega)).trans hs, ?_, ?_, ?_⟩
  · rw [e]
    exact ha
  · rw [e]
    exact hu
  · rw [e]
    exact hc.put

theorem trimsDue (h : r.CycleKept s n) (hn : n < 6) {p : HeldTrim → Bool} : r.CycleKept (s.trimsDue p) n :=
  List.foldlRecOn (motive := fun t => r.CycleKept t n) _ _ h fun _ ht _ _ => ht.applyTrim hn

theorem setCoil (h : r.CycleKept s n) {c : Nat} {x : Coil} : r.CycleKept (s.setCoil n c x) n := by
  obtain ⟨hs, ⟨coils, ha⟩, hu, hc⟩ := h
  refine ⟨hs, ⟨(s.ax n).coils.set c x, ?_⟩, hu, hc.put⟩
  rw [Blk.setCoil, Blk.ax_setAx, ha]

theorem cycleStart (h : r.CycleKept s n) (hn : n < 6) {c t : Nat} : r.CycleKept (s.cycleStart n c t) n :=
  (h.commit.trimsDue hn : r.CycleKept ((s.cycleCommit n).trimsDue _) n).setCoil

theorem cycleNow (h : r.CycleKept s n) : r.CycleKept (s.cycleNow n) n := by
  unfold Blk.cycleNow
  split
  · exact h.commit
  · exact h

end Blk.CycleKept

/-! ### Commands (R256) -/

theorem axisEnable_spec {s : Blk} {n : Nat} (hn : n < 6) (hh : ∀ x ∈ s.held, x.addr ≠ AXS_STATUS n) (h0 : s.axState n = 0) :
    (axisEnable n s).axState n = 1 ∧ ((axisEnable n s).ax n).stalls = 0 ∧ s.Calm (axisEnable n s) := by
  unfold axisEnable
  rw [if_neg (not_not_intro h0)]
  extract_lets s1 s2 s3
  have h1 : s.CycleKept s1 n := (Blk.CycleKept.refl hh).commit
  have h2 : s2.CycleKept s2 n := .refl h1.unheld
  have e2 : s2.axState n = 1 := (s1.setAxState n 1).axState_captureRef n |>.trans (s1.axState_setAxState n 1)
  have z2 : (s2.ax n).stalls = 0 := congrArg Ax.stalls (Blk.ax_setAx _ n _)
  have c2 : s.Calm s2 := h1.calm.put
  suffices h : ∀ t, s2.CycleKept t n → t.axState n = 1 ∧ (t.ax n).stalls = 0 ∧ s.Calm t by
    split
    · exact h _ h2.cycleNow
    · exact h _ ((h2.cycleNow.cycleStart hn).cycleStart hn)
  intro t ht
  obtain ⟨coils, ha⟩ := ht.ax
  exact ⟨ht.axState.trans e2, by rw [ha]; exact z2, c2.trans ht.calm⟩

theorem axisDisable_spec {s : Blk} {n : Nat} (hh : ∀ x ∈ s.held, x.addr ≠ AXS_STATUS n) (h0 : s.axState n ≠ 0) :
    (axisDisable n s).axState n = 0 ∧ (axisDisable n s).fb (AXS_STATUS_STALLED n) = false ∧ ((axisDisable n s).ax n).v = 0 ∧
      ((axisDisable n s).ax n).goal = none ∧ ((axisDisable n s).ax n).gear = none ∧ s.Calm (axisDisable n s) := by
  unfold axisDisable
  rw [if_neg h0]
  extract_lets x off s1
  have hk : (((s1.setAxState n 0).setF (AXS_STATUS_STALLED n) 0).showVel n).CycleKept
      ((((s1.setAxState n 0).setF (AXS_STATUS_STALLED n) 0).showVel n).cycleNow n) n := (Blk.CycleKept.refl (by simpa [Blk.showVel, Blk.setAxState, s1, Blk.setAx] using hh)).cycleNow
  obtain ⟨coils, ha⟩ := hk.ax
  have hax : (((s1.setAxState n 0).setF (AXS_STATUS_STALLED n) 0).showVel n).ax n = s1.ax n := by
    rw [Blk.showVel, Blk.ax_setSval, Blk.ax_setF, Blk.setAxState, Blk.ax_setF]
  have hs1 := Blk.ax_setAx s n { x with v := 0, a := 0, rem := 0, goal := none, final := none, limDec := false, phase := 0, gear := none, coils := off }
  refine ⟨hk.axState.trans ?_, (hk.fb_status _ rfl).trans ?_, ?_, ?_, ?_, .trans ?_ hk.calm⟩
  · rw [Blk.showVel, Blk.axState, Blk.f_setSval_ne _ _ _ _ _ _ (by simp), Blk.f_setF_ne _ _ _ _ (by simp) (by simp) (by simp) (by simp)]
    exact s1.axState_setAxState n 0
  · rw [Blk.showVel, Blk.fb, Blk.f_setSval_ne _ _ _ _ _ _ (by simp), Blk.f_setF_same _ _ _ (by simp) (by simp)]
    rfl
  · rw [ha, hax]
    exact congrArg Ax.v hs1
  · rw [ha, hax]
    exact congrArg Ax.goal hs1
  · rw [ha, hax]
    exact congrArg Ax.gear hs1
  · exact ((((Blk.Frame.refl s fun _ => True).setAx.setAxState trivial).setF trivial).showVel trivial).2

/-- GO in HOLD to a target within the soft limits and away from an active limit starts the move (R256, R262). -/
theorem axisGo_move {s : Blk} {n : Nat} (h1 : s.axState n = 1) (hg : s.axGear n = false) (hs : s.outsideSoft n (s.sval (AXS_TARGET n) 2 48) = false)
    (ht : s.towardLimit n (s.axPos n) (s.sval (AXS_TARGET n) 2 48) = false) :
    axisGo n s = ((s.setAx n { s.ax n with goal := some (s.sval (AXS_TARGET n) 2 48), final := none, limDec := false }).setActTarget n
      (s.sval (AXS_TARGET n) 2 48)).setAxState n 2 := by
  simp only [axisGo, h1, hg, hs, ht]
  rfl

/-- GO in GEAR mode with no limit active couples the axis (R277). -/
theorem axisGo_gear {s : Blk} {n : Nat} (h1 : s.axState n = 1) (hg : s.axGear n = true) (hp : s.limitAhead n true = false)
    (hn : s.limitAhead n false = false) :
    ∃ sht, axisGo n s = ((({ s with sht := sht } : Blk).setAx n { s.ax n with
      gear := some ⟨s.axPos n, 1, s.srcPos n, s.slotRatio n (s.f (AXS_GEAR_SLOT n)), none, 0, none, false⟩
      limDec := false, goal := none, final := none }).setF (AXS_STATUS_SLOT_ACT n) (s.f (AXS_GEAR_SLOT n))).setAxState n 4 := by
  have hl (b : Bool) : s.limitAhead n b = false := by
    cases b
    · exact hn
    · exact hp
  simp only [axisGo, h1, hg, if_true, axisCouple, hl, Bool.false_and, Bool.false_eq_true, if_false]
  split
  · exact ⟨_, rfl⟩
  · exact ⟨s.sht, rfl⟩

/-- A stop decouples the axis and takes the point of rest as its goal (R256). -/
theorem Blk.axStop_spec (s : Blk) (n : Nat) (lim : Bool) :
    (s.axStop n lim).axState n = 2 ∧ ((s.axStop n lim).ax n).gear = none ∧ ((s.axStop n lim).ax n).limDec = lim ∧
      ((s.axStop n lim).ax n).v = (s.ax n).v ∧
      (∃ p, ((s.axStop n lim).ax n).goal = some p ∧ (s.axStop n lim).sval (AXS_ACT_TARGET n) 2 48 = sext 48 (wrapTo 48 p)) ∧
      s.Frame (s.axStop n lim) (actWord n) := by
  unfold Blk.axStop
  extract_lets x s1 p y
  refine ⟨Blk.axState_setAxState _ _ _, ?_, ?_, ?_, ⟨p, ?_, ?_⟩, ?_⟩
  · simp [Blk.setAxState, Blk.setActTarget, s1, x, y]
  · simp [Blk.setAxState, Blk.setActTarget, s1, x, y]
  · simp [Blk.setAxState, Blk.setActTarget, s1, x, y]
  · simp [Blk.setAxState, Blk.setActTarget, s1, x, y]
  · rw [Blk.setAxState, Blk.sval_setF_ne _ _ _ _ _ _ (by simp), Blk.actTarget_setActTarget]
  · exact (((Blk.Frame.refl s (actWord n)).setAx.setAx : s.Frame (s1.setAx n _) _).setActTarget (.inr (.inl rfl)) (.inr (.inr rfl))).setAxState
      (.inl rfl)

theorem axisStopCmd_eq {s : Blk} {n : Nat} (lim : Bool) (h : s.axState n = 2 ∨ s.axState n = 4) : axisStopCmd lim n s = s.axStop n lim := by
  rcases h with h | h <;> simp only [axisStopCmd, h]

theorem axisHome_spec {s : Blk} {n : Nat} (h1 : s.axState n = 1) (hg : s.axGear n = false) :
    (axisHome n s).axState n = 3 ∧ (axisHome n s).fb (AXS_STATUS_HOMED n) = false ∧
      ((axisHome n s).ax n).phase = (if s.swActive n (s.homeSrc n) then 1 else 2) ∧ ((axisHome n s).ax n).hFrom = s.axPos n ∧
      s.Frame (axisHome n s) (· = AXS_STATUS n) := by
  have hpos : ((s.setF (AXS_STATUS_HOMED n) 0).setAxState n 3).axPos n = s.axPos n := by
    rw [Blk.axPos, Blk.setAxState, Blk.sval_setF_ne _ _ _ _ _ _ (by simp), Blk.sval_setF_ne _ _ _ _ _ _ (by simp), Blk.axPos]
  unfold axisHome
  rw [if_neg (by simp [h1, hg])]
  extract_lets dir back s1 x
  refine ⟨(s1.axState_setAx n n _).trans (Blk.axState_setAxState _ _ _), ?_, by simp [back], ?_,
    (((Blk.Frame.refl s (· = AXS_STATUS n)).setF rfl).setAxState rfl).setAx⟩
  · rw [Blk.fb_setAx, Blk.fb, Blk.f_setAxState _ _ _ (by simp) (by simp) (.inr (by simp)), Blk.f_setF_same _ _ _ (by simp) (by simp)]
    rfl
  · simp only [Blk.ax_setAx]
    exact hpos

theorem axisPreset_spec {s : Blk} {n : Nat} (h1 : s.axState n = 1) :
    (axisPreset n s).axPos n = s.sval (AXS_TARGET n) 2 48 ∧ (axisPreset n s).fb (AXS_STATUS_HOMED n) = false ∧
      s.Frame (axisPreset n s) (fun a => a = AXS_STATUS n ∨ a = AXS_POS n ∨ a = AXS_POS n + 1) := by
  unfold axisPreset
  rw [if_neg (not_not_intro h1)]
  refine ⟨?_, ?_, (((Blk.Frame.refl s _).setAxPos (.inr (.inl rfl)) (.inr (.inr rfl))).setF (.inl rfl)).setAx⟩
  · rw [Blk.captureRef, Blk.axPos_setAx, Blk.axPos, Blk.sval_setF_ne _ _ _ _ _ _ (by simp), ← Blk.axPos, Blk.axPos_setAxPos, sval48]
  · rw [Blk.captureRef, Blk.fb_setAx, Blk.fb, Blk.f_setF_same _ _ _ (by simp) (by simp)]
    rfl

theorem axisClear_spec {s : Blk} {n : Nat} (h5 : s.axState n = 5) :
    (axisClear n s).axState n = 1 ∧ (axisClear n s).fb (AXS_STATUS_STALLED n) = false ∧ s.Frame (axisClear n s) (· = AXS_STATUS n) := by
  unfold axisClear
  rw [if_neg (not_not_intro h5)]
  refine ⟨?_, ?_, (((Blk.Frame.refl s (· = AXS_STATUS n)).setAxState rfl).setF rfl).setAx⟩
  · rw [Blk.axState_captureRef, Blk.axState, Blk.f_setF_ne _ _ _ _ (by simp) (by simp) (by simp) (by simp)]
    exact s.axState_setAxState n 1
  · rw [Blk.captureRef, Blk.fb_setAx, Blk.fb, Blk.f_setF_same _ _ _ (by simp) (by simp)]
    rfl

theorem axisOfsReset_spec (s : Blk) (n : Nat) :
    ((axisOfsReset n s).ax n).coils = (s.ax n).coils.map (fun c => { c with acc := 0, ofs := 0 }) ∧
      (axisOfsReset n s).rn (AXS_CHOP_OFS n) = 0 ∧ s.Frame (axisOfsReset n s) (· = AXS_CHOP_OFS n) := by
  have hofs (k : Nat) : (((s.ax n).coils.map fun c => { c with acc := 0, ofs := 0 : Coil }).getD k Coil.init).ofs = 0 := by
    rw [List.getD_eq_getElem?_getD, List.getElem?_map]
    cases (s.ax n).coils[k]? <;> rfl
  unfold axisOfsReset Blk.showOfs
  refine ⟨?_, ?_, (Blk.Frame.refl s (· = AXS_CHOP_OFS n)).setAx.wn rfl⟩
  · exact congrArg Ax.coils (Blk.ax_setAx _ _ _)
  · simp only [Blk.coil, Blk.ax_setAx, hofs]
    rw [Blk.rn_wn_same]
    rfl

/-- Settles O20, each command by what it does in its state. -/
theorem axisCommands : Obligations.AxisCommands := by
  unfold Obligations.AxisCommands
  intro s n hs
  refine ⟨fun hh => ⟨fun h0 => .of_on (f := axisEnable n) rfl hs (axisEnable_spec n.isLt hh h0),
      fun h0 => .of_on (f := axisDisable n) rfl hs (axisDisable_spec hh h0)⟩,
    fun h1 hg hsoft ht => .of_on (f := axisGo n) rfl hs ?_, fun h1 hg hp hn => .of_on (f := axisGo n) rfl hs ?_, fun h lim => ?_,
    fun h1 hg => .of_on (f := axisHome n) rfl hs (axisHome_spec h1 hg), fun h1 => .of_on (f := axisPreset n) rfl hs (axisPreset_spec h1),
    fun h5 => .of_on (f := axisClear n) rfl hs (axisClear_spec h5), .of_on (f := axisOfsReset n) rfl hs (axisOfsReset_spec s.blk n)⟩
  · rw [axisGo_move h1 hg hsoft ht]
    refine ⟨Blk.axState_setAxState _ _ _, ?_, ?_,
      ((Blk.Frame.refl s.blk (actWord n)).setAx.setActTarget (.inr (.inl rfl)) (.inr (.inr rfl))).setAxState (.inl rfl)⟩
    · rw [Blk.setAxState, Blk.sval_setF_ne _ _ _ _ _ _ (by simp), Blk.actTarget_setActTarget, sval48]
    · simp [Blk.setAxState, Blk.setActTarget]
  · obtain ⟨sht, e⟩ := axisGo_gear h1 hg hp hn
    rw [e]
    refine ⟨Blk.axState_setAxState _ _ _, ?_, ?_, (((Blk.Frame.refl s.blk (· = AXS_STATUS n)).put.setAx.setF rfl).setAxState rfl)⟩
    · rw [Blk.f_setAxState _ _ _ (by simp) (by simp) (.inr (by simp)), Blk.f_setF_same _ _ _ (by simp) (by simp)]
      exact Nat.mod_eq_of_lt (s.blk.f_lt _)
    · rw [Blk.setAxState, Blk.ax_setF, Blk.ax_setF, Blk.ax_setAx]
  · have hb : axisStopCmd lim n s.blk = s.blk.axStop n lim := axisStopCmd_eq lim h
    exact .of_on (f := axisStopCmd lim n) (by cases lim <;> rfl) hs (by rw [hb]; exact s.blk.axStop_spec n lim)

/-! ### Choppers (R266 to R268) -/

theorem Blk.ax_advance (s : Blk) (u n : Nat) : (s.advance u).ax n = s.ax n := by rw [Blk.ax, Blk.advance_axes, Blk.ax]

theorem Blk.coil_advance (s : Blk) (u n c : Nat) : (s.advance u).coil n c = s.coil n c := by rw [Blk.coil, Blk.ax_advance, Blk.coil]

/-- The registers of the axes, and all below the counters, stand as time passes. -/
theorem Blk.f_advance_low (s : Blk) (u : Nat) {x : Fld} (h : x.addr < 0x180002) : (s.advance u).f x = s.f x :=
  s.f_advance u (cntWord_low h)

theorem Blk.fb_advance_low (s : Blk) (u : Nat) {x : Fld} (h : x.addr < 0x180002) : (s.advance u).fb x = s.fb x :=
  s.fb_advance u (cntWord_low h)

theorem Blk.rn_advance_low (s : Blk) (u : Nat) {a : Nat} (h : a < 0x180002) : (s.advance u).rn a = s.rn a :=
  s.rn_advance u (cntWord_low h)

theorem Blk.sval_advance_low (s : Blk) (u : Nat) {a k w : Nat} (h : a + k ≤ 0x180002) : (s.advance u).sval a k w = s.sval a k w := by
  rw [Blk.sval, s.val_advance u a k fun b _ hb => cntWord_low (by omega), Blk.sval]

theorem Blk.chopOn_advance (s : Blk) (u : Nat) (hn : n < 6) : (s.advance u).chopOn n = s.chopOn n := by
  rw [Blk.chopOn, s.fb_advance_low u (by simp only [AXS_CFG]; omega), Blk.axState, s.f_advance_low u (by simp only [AXS_STATUS]; omega)]
  rfl

theorem Blk.sine_advance (s : Blk) (u e : Nat) : (s.advance u).sine e = s.sine e := by
  have h (i : Nat) : (if 256 ≤ i then 1023 else bits ((s.advance u).rn (0x0e1000 + i)) 9 0) =
      if 256 ≤ i then 1023 else bits (s.rn (0x0e1000 + i)) 9 0 := by
    split
    · rfl
    · rw [s.rn_advance_low u (by omega)]
  simp only [Blk.sine, h]

theorem Blk.coilTarget_advance (s : Blk) (u c : Nat) (hn : n < 6) : (s.advance u).coilTarget n c = s.coilTarget n c := by
  have hres := s.f_advance_low u (x := AXS_CFG_RES n) (by simp only [AXS_CFG]; omega)
  have hrun := s.f_advance_low u (x := AXS_CURRENT_RUN n) (by simp only [AXS_CURRENT]; omega)
  have hpos : (s.advance u).axPos n = s.axPos n := s.sval_advance_low u (by simp only [AXS_POS]; omega)
  simp only [Blk.coilTarget, hres, hrun, hpos, Blk.sine_advance]

/-- A coil that is set anew after time has passed is all that changes. -/
theorem Blk.setCoil_advance_spec (s : Blk) (u n c : Nat) (x : Coil) :
    ((s.advance u).setCoil n c x).ax n = { s.ax n with coils := (s.ax n).coils.set c x } ∧
      s.Frame ((s.advance u).setCoil n c x) fun _ => False := by
  refine ⟨?_, (Blk.Frame.refl s _).advance.setAx⟩
  rw [Blk.setCoil, Blk.ax_setAx, Blk.ax_advance]

/-- A cycle start with nothing held and no trim waiting sets its coil. -/
theorem Blk.cycleStart_advance_spec {s : Blk} {n : Nat} (c t : Nat) (hn : n < 6) (hh : s.held = []) (ht : s.trm.held = []) :
    (∃ x : Coil, ((s.advance t).cycleStart n c t).ax n = { s.ax n with coils := (s.ax n).coils.set c x } ∧ x.st = 0 ∧ x.fast = false ∧
      x.start = t ∧ x.t = s.coilTarget n c ∧ x.ofs = (s.coil n c).ofs) ∧ s.Frame ((s.advance t).cycleStart n c t) fun _ => False := by
  have hcommit : (s.advance t).cycleCommit n = s.advance t := Blk.commit_of_held_nil (by simp [hh]) _
  have htrims (p : HeldTrim → Bool) : (s.advance t).trimsDue p = s.advance t := by simp [Blk.trimsDue, ht]
  unfold Blk.cycleStart
  simp only [hcommit, htrims, Blk.coilTarget_advance s t c hn, Blk.coil_advance]
  have h (x : Coil) := s.setCoil_advance_spec t n c x
  exact ⟨⟨_, (h _).1, rfl, rfl, rfl, rfl, rfl⟩, (h _).2⟩

theorem chopBlankEnd_eq {s : Blk} {n c t : Nat} (hn : n < 6) (hon : s.chopOn n = true) (hst : (s.coil n c).st = 0)
    (ht : (s.coil n c).start + 10 * max 1 (s.f (AXS_CHOP_CFG_T_BLANK n)) ≤ t) :
    chopBlankEnd n c t s = (s.advance t).setCoil n c { s.coil n c with st := 1 } := by
  have hf := s.f_advance_low t (x := AXS_CHOP_CFG_T_BLANK n) (by simp only [AXS_CHOP_CFG]; omega)
  simp [chopBlankEnd, Blk.chopOn_advance s t hn, Blk.coil_advance, hf, atLeast1, hon, hst, ht]

theorem chopPeak_eq {s : Blk} {n c t i : Nat} (hn : n < 6) (hon : s.chopOn n = true) (hst : (s.coil n c).st = 1) (hi : (s.coil n c).tHi ≤ i) :
    chopPeak n c t i s = (s.advance t).setCoil n c { s.coil n c with
      st := 2, decayAt := t, prevDrive := t - (s.coil n c).start,
      fast := s.f (AXS_CHOP_CFG_DECAY n) == 1 || s.f (AXS_CHOP_CFG_DECAY n) == 2 } := by
  have hf := s.f_advance_low t (x := AXS_CHOP_CFG_DECAY n) (by simp only [AXS_CHOP_CFG]; omega)
  simp [chopPeak, Blk.chopOn_advance s t hn, Blk.coil_advance, hf, hon, hst, hi]

theorem chopFastDecayEnd_eq {s : Blk} {n c t : Nat} (hn : n < 6) (hon : s.chopOn n = true) (hst : (s.coil n c).st = 2)
    (hd : s.f (AXS_CHOP_CFG_DECAY n) = 2) (hfast : (s.coil n c).fast = true)
    (ht : (s.coil n c).decayAt + 10 * s.f (AXS_CHOP_CFG_FAST_T n) ≤ t) :
    chopFastDecayEnd n c t s = (s.advance t).setCoil n c { s.coil n c with fast := false } := by
  have hf := s.f_advance_low t (x := AXS_CHOP_CFG_DECAY n) (by simp only [AXS_CHOP_CFG]; omega)
  have hg := s.f_advance_low t (x := AXS_CHOP_CFG_FAST_T n) (by simp only [AXS_CHOP_CFG]; omega)
  simp [chopFastDecayEnd, Blk.chopOn_advance s t hn, Blk.coil_advance, hf, hg, hon, hst, hd, hfast, ht]

theorem chopDecayEnd_eq {s : Blk} {n c t i : Nat} (hn : n < 6) (hon : s.chopOn n = true) (hst : (s.coil n c).st = 2)
    (ht : (s.coil n c).decayAt + 10 * s.f (AXS_CHOP_CFG_T_OFF n) ≤ t) (hi : i ≤ (s.coil n c).tLo) :
    chopDecayEnd n c t i s = (s.advance t).cycleStart n c t := by
  have hf := s.f_advance_low t (x := AXS_CHOP_CFG_T_OFF n) (by simp only [AXS_CHOP_CFG]; omega)
  simp [chopDecayEnd, Blk.chopOn_advance s t hn, Blk.coil_advance, hf, hon, hst, ht, hi]

theorem chopZeroExit_eq {s : Blk} {n c t i : Nat} (hn : n < 6) (hon : s.chopOn n = true) (hst : (s.coil n c).st = 3)
    (ht : s.coilTarget n c ≠ 0) (hi : i ≤ max (s.coil n c).tLo (s.f (AXS_CURRENT_HYST n) / 2)) :
    chopZeroExit n c t i s = (s.advance t).cycleStart n c t := by
  have hf := s.f_advance_low t (x := AXS_CURRENT_HYST n) (by simp only [AXS_CURRENT]; omega)
  have hcond : (i ≤ max (s.coil n c).tLo (s.f (AXS_CURRENT_HYST n) / 2)) = True := eq_true hi
  simp only [chopZeroExit, Blk.chopOn_advance s t hn, Blk.coil_advance, Blk.coilTarget_advance s t c hn, hf, hon, hst, hcond]
  simp [ht]

theorem Blk.advance_now_eq (s : Blk) (t : Nat) : (s.advance t).now = max s.now t := Blk.now_advance s t

theorem Blk.adcDue_advance {s : Blk} {n c t : Nat} (hn : n < 6) (hon : s.chopOn n = true) (hst : (s.coil n c).st ≠ 3)
    (hd : (s.coil n c).due ≤ max s.now t) (hl : max s.now t ≤ (s.coil n c).due + 100)
    (ha : ∀ a, (s.coil n c).adcAt = some a → a < (s.coil n c).start) : (s.advance t).adcDue n c = true := by
  simp only [Blk.adcDue, Blk.chopOn_advance s t hn, Blk.coil_advance, Blk.now_advance, hon, hd, hl]
  split
  · next a hx => simp [hst, ha a hx]
  · simp [hst]

/-- The register that shows a coil's sample. -/
def adcFld (n c : Nat) : Fld := if c = 0 then AXS_ADC_C1 n else AXS_ADC_C2 n

theorem adcFld_addr (n c : Nat) : (adcFld n c).addr = AXS_ADC n := by unfold adcFld; split <;> rfl

theorem Blk.f_setF_adcFld (s : Blk) (n c : Nat) {v : Nat} (hv : v < 1024) : (s.setF (adcFld n c) v).f (adcFld n c) = v := by
  unfold adcFld
  split
  · exact (Blk.f_setF_same _ _ _ (by simp) (by simp)).trans (Nat.mod_eq_of_lt hv)
  · exact (Blk.f_setF_same _ _ _ (by simp) (by simp)).trans (Nat.mod_eq_of_lt hv)

/-- A sample that is taken, shown in its register (R267). -/
def Blk.sampled (s : Blk) (n c v : Nat) : Blk := (s.setCoil n c { s.coil n c with adcAt := some s.now }).setF (adcFld n c) v

theorem Blk.coil_setCoil_same {s : Blk} {n c : Nat} (h : c < (s.ax n).coils.length) (x : Coil) : (s.setCoil n c x).coil n c = x := by
  rw [Blk.coil, Blk.setCoil, Blk.ax_setAx, List.getD_eq_getElem?_getD, List.getElem?_set_self h]
  rfl

theorem Blk.coil_showOfs (s : Blk) (m n c : Nat) : (s.showOfs m).coil n c = s.coil n c := rfl

/-- The other registers are left by a sample. -/
theorem Blk.f_sampled (s : Blk) (n c v : Nat) {x : Fld} (hx : x.addr ≠ AXS_ADC n) : (s.sampled n c v).f x = s.f x := by
  rw [Blk.sampled, Blk.f, Blk.rn_setF_ne _ _ _ (by rwa [adcFld_addr])]
  rfl

theorem Blk.frame_sampled (s : Blk) (n c v : Nat) : s.Frame (s.sampled n c v) (· = AXS_ADC n) :=
  (Blk.Frame.refl s _).setAx.setF (adcFld_addr n c)

/-- A sample that is due, with the converter free, is taken, and goes to the offset loop where that is on (R267, R268). -/
theorem adcSample_eq {s : Blk} {n c t v : Nat} (hn : n < 6) (hdue : (s.advance t).adcDue n c = true)
    (hfree : (s.advance t).adcFree (2 * n + c) = true) :
    adcSample n c t v s =
      let b := (s.advance t).sampled n c v
      if s.fb (AXS_CHOP_CFG_OFS_EN n) && decide (s.f (AXS_CURRENT_OFS_MIN n) * 16 ≤ (s.coil n c).t.natAbs) then
        let r := ofsStep (s.f (AXS_CHOP_CFG_OFS_K n)) (s.coil n c).acc ((v : Int) - (s.coil n c).t.natAbs)
        (b.setCoil n c { s.coil n c with adcAt := some (max s.now t), acc := r.1, ofs := r.2 }).showOfs n
      else b := by
  have hen : ((s.advance t).sampled n c v).fb (AXS_CHOP_CFG_OFS_EN n) = s.fb (AXS_CHOP_CFG_OFS_EN n) := by
    rw [Blk.fb, Blk.f_sampled _ _ _ _ (by simp), s.f_advance_low t (by simp only [AXS_CHOP_CFG]; omega), Blk.fb]
  have hk : ((s.advance t).sampled n c v).f (AXS_CHOP_CFG_OFS_K n) = s.f (AXS_CHOP_CFG_OFS_K n) := by
    rw [Blk.f_sampled _ _ _ _ (by simp), s.f_advance_low t (by simp only [AXS_CHOP_CFG]; omega)]
  have hm : ((s.advance t).sampled n c v).f (AXS_CURRENT_OFS_MIN n) = s.f (AXS_CURRENT_OFS_MIN n) := by
    rw [Blk.f_sampled _ _ _ _ (by simp), s.f_advance_low t (by simp only [AXS_CURRENT]; omega)]
  rw [← hen, ← hk, ← hm, ← s.coil_advance t n c, ← s.now_advance t]
  exact if_neg (by simp [hdue, hfree])

/-- Settles O23, each state of a coil by the equation of the command that ends it. -/
theorem choppers : Obligations.Choppers := by
  unfold Obligations.Choppers
  intro s n c t hs hon
  have hn : n.val < 6 := n.isLt
  have hset (x : Coil) := s.blk.setCoil_advance_spec t n c x
  refine ⟨fun hst ht => .of_on (f := chopBlankEnd n c t) rfl hs ?_, fun i hst hi => .of_on (f := chopPeak n c t i.toNat) rfl hs ?_,
    fun hst hd hfast ht => .of_on (f := chopFastDecayEnd n c t) rfl hs ?_, fun i hh ht => ⟨fun hst htoff hi => .of_on (f := chopDecayEnd n c t i.toNat) rfl hs ?_,
      fun hst htg hi => .of_on (f := chopZeroExit n c t i.toNat) rfl hs ?_⟩, fun v hst hd hl ha hfree => ?_⟩
  · rw [chopBlankEnd_eq hn hon hst ht]
    exact hset _
  · rw [chopPeak_eq hn hon hst hi]
    exact hset _
  · rw [chopFastDecayEnd_eq hn hon hst hd hfast ht]
    exact hset _
  · rw [chopDecayEnd_eq hn hon hst htoff hi]
    exact Blk.cycleStart_advance_spec c t hn hh ht
  · rw [chopZeroExit_eq hn hon hst htg hi]
    exact Blk.cycleStart_advance_spec c t hn hh ht
  · have hdue := Blk.adcDue_advance hn hon hst hd hl ha
    have heq := adcSample_eq (v := v.toNat) hn hdue hfree
    have hfld : (if c = 0 then AXS_ADC_C1 n else AXS_ADC_C2 n) = adcFld n c := by fin_cases c <;> rfl
    rw [hfld]
    refine ⟨fun hen => .of_on (f := adcSample n c t v.toNat) rfl hs ?_, fun a hen hmin hlen hacc => .of_on (f := adcSample n c t v.toNat) rfl hs ?_⟩
    · rw [heq.trans (if_neg (by rw [hen]; exact Bool.false_ne_true))]
      refine ⟨Blk.f_setF_adcFld _ _ _ v.isLt, ?_, (Blk.Frame.refl s.blk _).advance.trans ((s.blk.advance t).frame_sampled n c _)⟩
      rw [← s.blk.coil_advance t n c, ← s.blk.ax_advance t n, ← s.blk.now_advance t]
      exact (Blk.ax_setF _ _ _ _).trans (Blk.ax_setAx _ _ _)
    · rw [heq.trans (if_pos (by rw [hen, decide_eq_true hmin]; rfl))]
      have hlt : c.val < (((s.blk.advance t).sampled n c v.toNat).ax n).coils.length := by
        rw [Blk.sampled, Blk.ax_setF, Blk.setCoil, Blk.ax_setAx, Blk.ax_advance, List.length_set, hlen]
        exact c.isLt
      subst hacc
      refine ⟨?_, congrArg Coil.acc ((Blk.coil_showOfs _ _ _ _).trans (Blk.coil_setCoil_same hlt _)),
        congrArg Coil.ofs ((Blk.coil_showOfs _ _ _ _).trans (Blk.coil_setCoil_same hlt _)), ?_⟩
      · rw [Blk.showOfs, Blk.f, Blk.rn_wn_ne _ _ (by rw [adcFld_addr]; simp), Blk.rn_setCoil, ← Blk.f]
        exact Blk.f_setF_adcFld _ _ _ v.isLt
      · have hf : s.blk.Frame ((s.blk.advance t).sampled n c v.toNat) fun a => a = (AXS_ADC_C1 n).addr ∨ a = AXS_CHOP_OFS n :=
          (Blk.Frame.refl s.blk _).advance.trans (((s.blk.advance t).frame_sampled n c v.toNat).mono fun _ => .inl)
        exact hf.setCoil.showOfs (.inr rfl)

end Sys2Proof.Machine
end

section
/-!
PROOFS. Motion of the axes (R258 to R278): the tick, switches, homing, stall, and the ratio of a geared axis.
-/

namespace Sys2Proof.Machine

variable {s : Blk} {n : Nat}

@[simp] theorem Blk.ax_emit (s : Blk) (o : Out) (n : Nat) : (s.emit o).ax n = s.ax n := rfl

theorem Blk.axState_raise (s : Blk) (c i d0 d1 n : Nat) : (s.raise c i d0 d1).axState n = s.axState n := s.f_raise c i d0 d1 _

theorem Blk.evq_setAx (s : Blk) (n : Nat) (x : Ax) : (s.setAx n x).evq = s.evq := rfl

theorem Blk.evq_captureRef (s : Blk) (n : Nat) : (s.captureRef n).evq = s.evq := rfl

theorem Blk.evq_setAxState (s : Blk) (n v : Nat) : (s.setAxState n v).evq = s.evq := Blk.setF_evq _ _ _

theorem Blk.evq_setSval (s : Blk) (a k w : Nat) (v : Int) : (s.setSval a k w v).evq = s.evq := by rw [Blk.setSval, Blk.setVal_eq]

/-! ### The planner at rest -/

/-- No choice of the planner with a jerk limit runs away from its goal (R259). -/
theorem planJerk_nonneg (l : Lim) (r : Nat) (v a : Int) : 0 ≤ (planJerk l r v a).1 := by
  unfold planJerk
  extract_lets dj step down ok back c
  have hstep (x : Int) : 0 ≤ (step x).1 := le_max_left _ _
  have hfind {q : Int × Int → Bool} {x y z : Int} {d : Int × Int} (h : [step x, step y, step z].find? q = some d) : 0 ≤ d.1 := by
    have := List.mem_of_find?_eq_some h
    simp only [List.mem_cons, List.not_mem_nil, or_false] at this
    rcases this with rfl | rfl | rfl <;> exact hstep _
  have hc : 0 ≤ c.1 := by
    unfold c
    split
    · split
      · next h => exact hfind h
      · split
        · exact hstep _
        · exact hstep _
    · split
      · next h => exact hfind h
      · exact hstep _
  have hj : 0 ≤ dj := Int.ediv_nonneg (by positivity) (by decide)
  split
  · exact hc
  · split
    · exact le_rfl
    · exact le_min (by positivity) (Int.add_nonneg (Int.ediv_nonneg hj (by decide)) (by decide))

/-- The planner does not move away from a point it does not move away from already. -/
theorem planTick_nonneg (l : Lim) (r : Nat) {v : Int} (a : Int) (hv : 0 ≤ v) : 0 ≤ (planTick l r v a).1 := by
  unfold planTick
  rw [if_neg (not_lt.2 hv)]
  split
  · exact Int.natCast_nonneg _
  · exact planJerk_nonneg l r v a

/-- An axis at rest on its goal stays there (R259). -/
theorem Blk.axAdvance_of_rest {s : Blk} {n : Nat} {g : Int} (hp : s.axPos n = g) (hv : (s.ax n).v = 0) (hr : (s.ax n).rem = 0) :
    s.axAdvance n g = (s.setAx n { s.ax n with v := 0, a := 0, rem := 0 }).setAxPos n g := by
  have he : g * ustep - s.axAt n = 0 := by rw [Blk.axAt, hp, hr]; ring
  unfold Blk.axAdvance
  extract_lets x e sg c
  have h0 : e = 0 := he
  have hc : 0 ≤ c.1 := planTick_nonneg _ _ _ (by simp [x, hv])
  exact if_pos ⟨hc, by rw [h0, zero_mul]; exact hc⟩

/-! ### The parts of a tick (R258) -/

/-- The start of a tick at the present instant. -/
def Blk.tickBegin (s : Blk) (n : Nat) : Blk := s.setAx n { s.ax n with tick := s.now / 250 }

/-- The motion of a tick toward a goal, by the state of the axis. -/
def Blk.tickMove (s : Blk) (n : Nat) (goal : Option Int) : Blk :=
  match s.axState n with
  | 2 =>
    match goal with
    | some g =>
      let s := s.axAdvance n g
      if s.axPos n = g ∧ (s.ax n).v = 0 then s.axArrive n else s
    | none => s
  | 3 =>
    match goal with
    | some g => (s.axAdvance n g).homeTick n
    | none => s
  | 4 =>
    let s := s.rampEnd n
    match (s.ax n).gear with
    | some g => (s.axFollow n g).lagCheck n g (s.gearCmd n g)
    | none => s
  | _ => s

/-- What follows the motion from position `p` at velocity `v`: step pulses, limits, and the choppers. -/
def Blk.tickEnd (s : Blk) (n : Nat) (p v : Int) : Blk :=
  let s := ((s.stepPulses n p (s.axPos n)).turned n v).showVel n
  if s.chopOn n then (Blk.chopZero n (Blk.chopZero n s 0) 1) else s

/-- A tick that is due is these three. -/
theorem profileTick_eq {s : Blk} {n t : Nat} (hn : n < 6) (h : (s.ax n).tick < max s.now t / 250) :
    profileTick n t s = (((s.advance t).tickBegin n).tickMove n (s.ax n).goal).tickEnd n (s.axPos n) (s.ax n).v := by
  have hp : ((s.advance t).tickBegin n).axPos n = s.axPos n :=
    (Blk.axPos_setAx _ _ _ _).trans (s.sval_advance_low t (by simp only [AXS_POS]; omega))
  have hlt : ¬(s.advance t).now / 250 ≤ ((s.advance t).ax n).tick := by
    rw [Blk.now_advance, Blk.ax_advance]
    omega
  rw [← hp, ← s.ax_advance t n]
  unfold profileTick
  exact if_neg hlt

/-- The choppers of a coil that enters ZERO write the coil alone. -/
theorem Blk.chopZero_spec (s : Blk) (n c : Nat) : (∃ axes, Blk.chopZero n s c = { s with axes := axes }) ∧ ((Blk.chopZero n s c).ax n).v = (s.ax n).v := by
  unfold Blk.chopZero
  extract_lets x t
  split
  · refine ⟨⟨_, rfl⟩, ?_⟩
    rw [Blk.setCoil, Blk.ax_setAx]
  · exact ⟨⟨s.axes, rfl⟩, rfl⟩

/-- Step pulses leave the registers and the velocity. -/
theorem Blk.stepPulses_spec (s : Blk) (n : Nat) (p q : Int) :
    (∃ axes out, s.stepPulses n p q = { s with axes := axes, out := out }) ∧ ((s.stepPulses n p q).ax n).v = (s.ax n).v := by
  unfold Blk.stepPulses
  extract_lets k c x dir w free dirAt at0 joined
  split
  · exact ⟨⟨s.axes, s.out, rfl⟩, rfl⟩
  · refine ⟨⟨_, _, rfl⟩, ?_⟩
    rw [Blk.ax_emit, Blk.ax_setAx]

/-- Where no limit stops the axis, what follows the motion writes AXS_VEL alone, and leaves the velocity. -/
theorem Blk.tickEnd_spec {s : Blk} {n : Nat} {p v : Int}
    (ht : ∀ b : Blk, b.regs = s.regs → (b.ax n).v = (s.ax n).v → b.turned n v = b) :
    (∃ regs axes out, s.tickEnd n p v = { s with regs := regs, axes := axes, out := out }) ∧
      (∀ a, a ≠ AXS_VEL n → (s.tickEnd n p v).reg a = s.reg a) ∧ ((s.tickEnd n p v).ax n).v = (s.ax n).v := by
  obtain ⟨⟨axes, out, e⟩, hv⟩ := s.stepPulses_spec n p (s.axPos n)
  have hs : (s.stepPulses n p (s.axPos n)).turned n v = s.stepPulses n p (s.axPos n) := ht _ (by rw [e]) hv
  unfold Blk.tickEnd
  rw [hs]
  extract_lets s1
  have h1 : (∃ regs axes out, s1 = { s with regs := regs, axes := axes, out := out }) ∧ (∀ a, a ≠ AXS_VEL n → s1.reg a = s.reg a) ∧
      (s1.ax n).v = (s.ax n).v := by
    refine ⟨⟨s1.regs, axes, out, ?_⟩, fun a ha => ?_, (congrArg Ax.v (Blk.ax_setSval _ _ _ _ _ _)).trans hv⟩
    · rw [show s1 = (s.stepPulses n p (s.axPos n)).showVel n from rfl, Blk.showVel, Blk.setSval, Blk.setVal_eq, e]
    · rw [show s1 = (s.stepPulses n p (s.axPos n)).showVel n from rfl, Blk.showVel, Blk.setSval, Blk.reg_setVal_ne _ _ _ _ _ (by omega), e]
      rfl
  split
  · obtain ⟨⟨a0, e0⟩, v0⟩ := s1.chopZero_spec n 0
    obtain ⟨⟨a1, e1⟩, v1⟩ := (Blk.chopZero n s1 0).chopZero_spec n 1
    obtain ⟨⟨regs, axes1, out1, h⟩, hr, hv1⟩ := h1
    refine ⟨⟨regs, a1, out1, ?_⟩, fun a ha => ?_, (v1.trans v0).trans hv1⟩
    · rw [e1, e0, h]
    · rw [e1, e0]
      exact hr a ha
  · exact h1

theorem Blk.reg_of_regs {r s : Blk} (h : s.regs = r.regs) (a : Nat) : s.reg a = r.reg a := by rw [Blk.reg, h, Blk.reg]

theorem Blk.axState_of_reg {r s : Blk} {n : Nat} (h : s.reg (AXS_STATUS n) = r.reg (AXS_STATUS n)) : s.axState n = r.axState n := Blk.f_of_reg h

theorem Blk.axPos_of_reg {r s : Blk} {n : Nat} (h : ∀ a, a = AXS_POS n ∨ a = AXS_POS n + 1 → s.reg a = r.reg a) : s.axPos n = r.axPos n :=
  Blk.sval_of_reg fun i hi => h _ (by omega)

/-- Only an axis in MOVE or GEAR that turned toward an active limit is stopped by it (R273). -/
theorem Blk.turned_of_state {s : Blk} {n : Nat} (v : Int) (h : s.axState n = 1) : s.turned n v = s := by
  rw [Blk.turned, h]
  rfl

theorem Blk.turned_of_free {s : Blk} {n : Nat} (v : Int) (hp : s.limitAhead n true = false) (hm : s.limitAhead n false = false) :
    s.turned n v = s := by simp [Blk.turned, hp, hm]

theorem Blk.limitAhead_of_reg {r s : Blk} {n : Nat} (b : Bool) (hc : s.reg (AXS_SW_CFG n) = r.reg (AXS_SW_CFG n))
    (hs : s.reg (AXS_STATUS n) = r.reg (AXS_STATUS n)) : s.limitAhead n b = r.limitAhead n b := by
  cases b <;> simp [Blk.limitAhead, Blk.swActive, Blk.fb_of_reg (x := AXS_SW_CFG_LIM_EN n) hc, Blk.fb_of_reg (x := AXS_STATUS_LIMP_ACT n) hs,
    Blk.fb_of_reg (x := AXS_STATUS_LIMN_ACT n) hs]

/-! ### A tick at rest on the goal (R261) -/

/-- The block of an axis whose move has come to its end at `g`. -/
def Blk.arrived (s : Blk) (n : Nat) (g : Int) : Blk :=
  (((s.setAx n { s.ax n with v := 0, a := 0, rem := 0 }).setAxPos n g).axArrive n)

theorem Blk.tickMove_of_rest {s : Blk} {n : Nat} {g : Int} (hst : s.axState n = 2) (hp : s.axPos n = g) (hv : (s.ax n).v = 0)
    (hr : (s.ax n).rem = 0) : s.tickMove n (some g) = s.arrived n g := by
  have hend : ((s.setAx n { s.ax n with v := 0, a := 0, rem := 0 }).setAxPos n g).axPos n = g := by
    rw [Blk.axPos_setAxPos, ← hp, Blk.axPos, sval48]
  have hv0 : (((s.setAx n { s.ax n with v := 0, a := 0, rem := 0 }).setAxPos n g).ax n).v = 0 := by
    rw [Blk.setAxPos, Blk.ax_setSval, Blk.ax_setAx]
  simp only [Blk.tickMove, hst, Blk.axAdvance_of_rest hp hv hr]
  exact if_pos ⟨hend, hv0⟩

/-- The words in which the end of a move shows. -/
def arriveWord (n a : Nat) : Prop := a = AXS_STATUS n ∨ a = AXS_POS n ∨ a = AXS_POS n + 1 ∨ a = AXS_VEL n

theorem Blk.arrived_spec {s : Blk} {n : Nat} (g : Int) (hf : (s.ax n).final = none) :
    (s.arrived n g).axState n = 1 ∧ (s.arrived n g).fb (AXS_STATUS_DONE n) = true ∧ (s.arrived n g).axPos n = sext 48 (wrapTo 48 g) ∧
      (s.arrived n g).now = s.now ∧ s.Frame (s.arrived n g) (arriveWord n) := by
  have e : s.arrived n g =
      ((((s.setAx n { s.ax n with v := 0, a := 0, rem := 0 }).setAxPos n g).setAx n
        { s.ax n with v := 0, a := 0, rem := 0, goal := none, limDec := false }).setAxState n 1).setF (AXS_STATUS_DONE n) 1 := by
    unfold Blk.arrived Blk.axArrive
    rw [Blk.setAxPos, Blk.ax_setSval, Blk.ax_setAx]
    simp only [hf]
  have hF : s.Frame ((s.setAx n { s.ax n with v := 0, a := 0, rem := 0 }).setAxPos n g) (arriveWord n) :=
    (Blk.Frame.refl s (arriveWord n)).setAx.setAxPos (.inr (.inl rfl)) (.inr (.inr (.inl rfl)))
  rw [e]
  refine ⟨?_, ?_, ?_, ?_, (hF.setAx.setAxState (.inl rfl)).setF (.inl rfl)⟩
  · rw [Blk.axState, Blk.f_setF_ne _ _ _ _ (by simp) (by simp) (by simp) (by simp)]
    exact Blk.axState_setAxState _ n 1
  · rw [Blk.fb, Blk.f_setF_same _ _ _ (by simp) (by simp)]
    rfl
  · rw [Blk.axPos, Blk.sval_setF_ne _ _ _ _ _ _ (by simp), Blk.setAxState, Blk.sval_setF_ne _ _ _ _ _ _ (by simp), Blk.sval_setAx]
    exact Blk.axPos_setAxPos _ n g
  · rw [Blk.setF_now, Blk.setAxState, Blk.setF_now, Blk.setAxPos, Blk.setSval, Blk.setVal_eq]
    rfl

theorem profileTick_arrives {s : Blk} {n t : Nat} {g : Int} (hn : n < 6) (hst : s.axState n = 2) (hg : (s.ax n).goal = some g)
    (hp : s.axPos n = g) (hv : (s.ax n).v = 0) (hr : (s.ax n).rem = 0) (hf : (s.ax n).final = none) (ht : (s.ax n).tick < max s.now t / 250) :
    (profileTick n t s).axState n = 1 ∧ (profileTick n t s).fb (AXS_STATUS_DONE n) = true ∧ (profileTick n t s).axPos n = g ∧
      (profileTick n t s).now = max s.now t ∧ s.Frame (profileTick n t s) (arriveWord n) := by
  have hax : ((s.advance t).tickBegin n).ax n = { s.ax n with tick := (s.advance t).now / 250 } := by
    rw [Blk.tickBegin, Blk.ax_setAx, Blk.ax_advance]
  have hst0 : ((s.advance t).tickBegin n).axState n = 2 := (s.f_advance_low t (by simp only [AXS_STATUS]; omega)).trans hst
  have hp0 : ((s.advance t).tickBegin n).axPos n = g :=
    (Blk.axPos_setAx _ _ _ _).trans ((s.sval_advance_low t (by simp only [AXS_POS]; omega)).trans hp)
  rw [profileTick_eq hn ht, hg, Blk.tickMove_of_rest hst0 hp0 (by rw [hax]; exact hv) (by rw [hax]; exact hr)]
  obtain ⟨h1, h2, h3, h4, h5⟩ := Blk.arrived_spec (s := (s.advance t).tickBegin n) g (by rw [hax]; exact hf)
  obtain ⟨⟨regs, axes, out, e⟩, hreg, -⟩ := Blk.tickEnd_spec (s := ((s.advance t).tickBegin n).arrived n g) (n := n) (p := s.axPos n)
    (v := (s.ax n).v) fun b hb _ => b.turned_of_state _ ((Blk.axState_of_reg (Blk.reg_of_regs hb _)).trans h1)
  have hst1 := hreg (AXS_STATUS n) (by simp)
  refine ⟨(Blk.axState_of_reg hst1).trans h1, (Blk.fb_of_reg hst1).trans h2, ?_, ?_, ?_⟩
  · rw [Blk.axPos_of_reg fun a ha => hreg a (by simp only [AXS_POS, AXS_VEL] at *; omega), h3, ← hp, Blk.axPos, sval48]
  · rw [e, show Blk.now _ = (((s.advance t).tickBegin n).arrived n g).now from rfl, h4, ← s.now_advance t]
    rfl
  · refine Blk.Frame.trans (((Blk.Frame.refl s (arriveWord n)).advance.setAx : s.Frame ((s.advance t).tickBegin n) _).trans h5)
      ⟨fun a _ ha => hreg a fun h => ha (.inr (.inr (.inr h))), ?_⟩
    rw [e]
    exact ⟨fun _ => rfl, rfl, rfl⟩

/-! ### A tick in GEAR (R277 to R279) -/

theorem Blk.gearCmd_setAx (s : Blk) (n m : Nat) (x : Ax) (g : Gear) : (s.setAx n x).gearCmd m g = s.gearCmd m g := rfl
theorem Blk.srcPos_setAx (s : Blk) (n m : Nat) (x : Ax) : (s.setAx n x).srcPos m = s.srcPos m := rfl
theorem Blk.gearFrac_setAx (s : Blk) (n m : Nat) (x : Ax) (g : Gear) : (s.setAx n x).gearFrac m g = s.gearFrac m g := rfl
theorem Blk.gearVel_setAx (s : Blk) (n m : Nat) (x : Ax) (g : Gear) : (s.setAx n x).gearVel m g = s.gearVel m g := rfl
theorem Blk.axLimits_setAx (s : Blk) (n m : Nat) (x : Ax) (l : Bool) : (s.setAx n x).axLimits m l = s.axLimits m l := rfl

/-- The profile of a geared axis at its limits toward its command (R277). -/
def Blk.followStep (s : Blk) (n : Nat) (g : Gear) : Int × Int :=
  chase (s.axLim n) (s.axAt n) (s.ax n).v (s.ax n).a ((s.gearFrac n g).1 * ustep / (s.gearFrac n g).2) (s.gearVel n g)

/-- The profile keeps within VMAX once it is within it. -/
theorem chase_bounded (l : Lim) (x v a g vg : Int) (h : v.natAbs ≤ l.v) : (chase l x v a g vg).1.natAbs ≤ l.v := by
  unfold chase
  extract_lets e sg ahead m c v1
  simp only [h, if_true]
  omega

theorem Blk.rampEnd_of_running {s : Blk} {n : Nat} {g : Gear} (hg : (s.ax n).gear = some g)
    (h : g.r1 = none ∨ s.srcPos n - g.pSw < (g.ramp * 256 : Nat)) : s.rampEnd n = s := by
  simp only [Blk.rampEnd, hg]
  split
  · rfl
  · next r1 hr =>
    rw [hr] at h
    exact if_pos (h.resolve_left (by simp))

/-- While its profile keeps within a microstep of the command a geared axis stands at it (R277). -/
theorem Blk.axFollow_near {s : Blk} {n : Nat} {g : Gear}
    (h : ((s.gearFrac n g).1 * ustep / (s.gearFrac n g).2 - (s.axAt n + (s.followStep n g).1)).natAbs ≤ ustep) :
    ∃ rem, s.axFollow n g =
      (s.setAx n { s.ax n with v := (s.followStep n g).1, a := (s.followStep n g).2, rem := rem }).setAxPos n (s.gearCmd n g) := by
  unfold Blk.axFollow
  extract_lets x q cmd c at1 p
  have hp : p = s.gearCmd n g := if_pos h
  rw [← hp]
  exact ⟨at1 - p * ustep, rfl⟩

/-- `s` is `r` with a lag of 0 shown: AXS_LAG, LAGGING and what stands behind the axis may differ, its velocity does not. -/
structure Blk.LagShown (r s : Blk) (n : Nat) : Prop where
  rest : ∃ regs axes, s = { r with regs := regs, axes := axes }
  reg : ∀ a, a ≠ AXS_STATUS n → a ≠ AXS_LAG n → s.reg a = r.reg a
  status : ∀ y : Fld, y.addr = AXS_STATUS n → y.lo ≤ y.hi → y.hi < 16 → s.f y = r.f y
  lag : s.sval (AXS_LAG n) 1 24 = 0
  vel : (s.ax n).v = (r.ax n).v

theorem Blk.LagShown.setAx {r s : Blk} {n : Nat} (h : r.LagShown s n) {x : Ax} (hx : x.v = (s.ax n).v) : r.LagShown (s.setAx n x) n := by
  obtain ⟨⟨regs, axes, e⟩, hr, hf, hl, hv⟩ := h
  refine ⟨⟨regs, (s.setAx n x).axes, ?_⟩, hr, hf, (Blk.sval_setAx _ _ _ _ _ _).trans hl, ?_⟩
  · rw [Blk.setAx, e]
  · rw [Blk.ax_setAx, hx, hv]

theorem Blk.LagShown.setLagging {r s : Blk} {n v : Nat} (h : r.LagShown s n) : r.LagShown (s.setF (AXS_STATUS_LAGGING n) v) n := by
  obtain ⟨⟨regs, axes, e⟩, hr, hf, hl, hv⟩ := h
  refine ⟨⟨(s.setF (AXS_STATUS_LAGGING n) v).regs, axes, ?_⟩, fun a ha ha' => (Blk.reg_setF_ne _ _ _ ha).trans (hr a ha ha'), fun y hy hy1 hy2 => ?_,
    ?_, (congrArg Ax.v (Blk.ax_setF _ _ _ _)).trans hv⟩
  · obtain ⟨w, hw⟩ : ∃ w, s.setF (AXS_STATUS_LAGGING n) v = { s with regs := w } := ⟨_, rfl⟩
    rw [hw, e]
  · exact (Blk.f_setF_ne _ _ _ _ (by simp) hy1 (by omega) (.inr (.inl hy2))).trans (hf y hy hy1 hy2)
  · exact (Blk.sval_setF_ne _ _ _ _ _ _ (by simp)).trans hl

/-- The lag of an axis at its command is 0 (R279). -/
theorem Blk.lagCheck_at {s : Blk} {n : Nat} (g : Gear) {cmd : Int} (h : s.axPos n = cmd) : s.LagShown (s.lagCheck n g cmd) n := by
  have hz : cmd - s.axPos n = 0 := by omega
  unfold Blk.lagCheck
  extract_lets lag s1 thr s2 x2 s3 x3
  have hlag : lag = 0 := hz
  have h1 : s.LagShown s1 n := by
    rw [show s1 = s.setSval (AXS_LAG n) 1 24 (satS 24 lag) from rfl, hlag]
    refine ⟨⟨_, s.axes, rfl⟩, fun a _ ha => Blk.reg_wn_ne _ _ ha, fun y hy _ _ => ?_, Blk.sval_setSval_same _ _ _ _ _ (by decide),
      congrArg Ax.v (Blk.ax_setSval _ _ _ _ _ _)⟩
    exact Blk.f_setSval_ne _ _ _ _ _ _ (by rw [hy]; simp)
  have h3 : s.LagShown s3 n := h1.setLagging
  split
  · exact h1
  · rw [if_neg (by rw [hlag]; omega)]
    split
    · exact h3.setAx rfl
    · exact h3

/-- The words in which a tick of a geared axis shows. -/
def gearWord (n a : Nat) : Prop := a = AXS_STATUS n ∨ a = AXS_POS n ∨ a = AXS_POS n + 1 ∨ a = AXS_VEL n ∨ a = AXS_LAG n

/-- An axis that has followed its command, before its lag is shown. -/
theorem Blk.followed_spec {s : Blk} {n : Nat} {p : Int} (x : Ax) (hl : -((2 ^ 47 : Nat) : Int) ≤ p) (hu : p < ((2 ^ 47 : Nat) : Int)) :
    ((s.setAx n x).setAxPos n p).axPos n = p ∧ (((s.setAx n x).setAxPos n p).ax n).v = x.v ∧
      (∀ a, a ≠ AXS_POS n → a ≠ AXS_POS n + 1 → ((s.setAx n x).setAxPos n p).reg a = s.reg a) ∧
      s.Frame ((s.setAx n x).setAxPos n p) (gearWord n) := by
  refine ⟨?_, ?_, fun a h0 h1 => ?_, (Blk.Frame.refl s (gearWord n)).setAx.setAxPos (.inr (.inl rfl)) (.inr (.inr (.inl rfl)))⟩
  · rw [Blk.axPos_setAxPos, sext_wrapTo (by decide) hl hu]
  · rw [Blk.setAxPos, Blk.ax_setSval, Blk.ax_setAx]
  · rw [Blk.setAxPos, Blk.setSval, Blk.reg_setVal_ne _ _ _ _ _ (by simp only [AXS_POS] at *; omega)]
    rfl

theorem profileTick_geared {s : Blk} {n t : Nat} {g : Gear} (hn : n < 6) (hst : s.axState n = 4) (hg : (s.ax n).gear = some g) (ht : t ≤ s.now)
    (hl : -(2 ^ 47 : Int) ≤ s.gearCmd n g) (hu : s.gearCmd n g < (2 ^ 47 : Int)) (htick : (s.ax n).tick < s.now / 250)
    (hr : g.r1 = none ∨ s.srcPos n - g.pSw < (g.ramp * 256 : Nat)) (hlp : s.limitAhead n true = false) (hlm : s.limitAhead n false = false)
    (hnear : ((s.gearFrac n g).1 * ustep / (s.gearFrac n g).2 - (s.axAt n + (s.followStep n g).1)).natAbs ≤ ustep) :
    (profileTick n t s).axState n = 4 ∧ (profileTick n t s).axPos n = s.gearCmd n g ∧
      ((s.ax n).v.natAbs ≤ (s.axLim n).v → ((profileTick n t s).ax n).v.natAbs ≤ (s.axLim n).v) ∧
      (profileTick n t s).sval (AXS_LAG n) 1 24 = 0 ∧ s.Frame (profileTick n t s) (gearWord n) := by
  have hb : (s.tickBegin n).ax n = { s.ax n with tick := s.now / 250 } := Blk.ax_setAx _ _ _
  have hstep : (s.tickBegin n).followStep n g = s.followStep n g := by
    simp only [Blk.followStep, Blk.axLim, Blk.axAt, hb]
    rfl
  have hramp : (s.tickBegin n).rampEnd n = s.tickBegin n := Blk.rampEnd_of_running (by rw [hb]; exact hg) hr
  obtain ⟨rem, hfollow⟩ := Blk.axFollow_near (s := s.tickBegin n) (n := n) (g := g) (by
    rw [hstep, Blk.axAt, hb]
    exact hnear)
  have hcmd : (s.tickBegin n).gearCmd n g = s.gearCmd n g := rfl
  have hmove : (s.tickBegin n).tickMove n (s.ax n).goal = ((s.tickBegin n).axFollow n g).lagCheck n g (s.gearCmd n g) := by
    have hst0 : (s.tickBegin n).axState n = 4 := hst
    simp only [Blk.tickMove, hst0, hramp, hb, hg, hcmd]
  obtain ⟨hpos, hv, hreg, hframe⟩ := Blk.followed_spec (s := s.tickBegin n) (n := n) (p := s.gearCmd n g)
    { (s.tickBegin n).ax n with v := ((s.tickBegin n).followStep n g).1, a := ((s.tickBegin n).followStep n g).2, rem := rem } hl hu
  rw [hcmd] at hfollow
  rw [← hfollow] at hpos hv hreg hframe
  obtain ⟨⟨regs, axes, he⟩, hreg1, hstat1, hlag, hv1⟩ := Blk.lagCheck_at g hpos
  have hfld {b : Blk} (hb : b.regs = (((s.tickBegin n).axFollow n g).lagCheck n g (s.gearCmd n g)).regs) {y : Fld}
      (hy : y.addr = AXS_STATUS n) (hy1 : y.lo ≤ y.hi) (hy2 : y.hi < 16) : b.f y = s.f y :=
    (Blk.f_of_reg (Blk.reg_of_regs hb _)).trans
      ((hstat1 y hy hy1 hy2).trans (Blk.f_of_reg (hreg _ (by rw [hy]; simp) (by rw [hy]; simp only [AXS_STATUS, AXS_POS]; omega))))
  have hlim {b : Blk} (hb : b.regs = (((s.tickBegin n).axFollow n g).lagCheck n g (s.gearCmd n g)).regs) (d : Bool) :
      b.limitAhead n d = s.limitAhead n d := by
    have hc : b.reg (AXS_SW_CFG n) = s.reg (AXS_SW_CFG n) := (Blk.reg_of_regs hb _).trans
      ((hreg1 _ (by simp) (by simp)).trans (hreg _ (by simp) (by simp only [AXS_SW_CFG, AXS_POS]; omega)))
    cases d <;> simp [Blk.limitAhead, Blk.swActive, Blk.fb, Blk.f_of_reg (x := AXS_SW_CFG_LIM_EN n) hc,
      hfld hb (y := AXS_STATUS_LIMP_ACT n) rfl (by simp) (by simp), hfld hb (y := AXS_STATUS_LIMN_ACT n) rfl (by simp) (by simp)]
  obtain ⟨⟨regs2, axes2, out2, he2⟩, hreg2, hv2⟩ := Blk.tickEnd_spec (s := ((s.tickBegin n).axFollow n g).lagCheck n g (s.gearCmd n g))
    (n := n) (p := s.axPos n) (v := (s.ax n).v) fun b hb _ => b.turned_of_free _ ((hlim hb _).trans hlp) ((hlim hb _).trans hlm)
  rw [profileTick_eq hn (by rw [Nat.max_eq_left ht]; exact htick), s.advance_of_le ht, hmove]
  refine ⟨?_, ?_, fun h => ?_, ?_, .trans (.trans (Blk.Frame.refl s (gearWord n)).setAx hframe)
    ⟨fun a _ ha => (hreg2 a fun h => ha (.inr (.inr (.inr (.inl h))))).trans
      (hreg1 a (fun h => ha (.inl h)) fun h => ha (.inr (.inr (.inr (.inr h))))), ?_⟩⟩
  · exact (Blk.axState_of_reg (hreg2 _ (by simp))).trans ((hfld rfl rfl (by simp) (by simp)).trans hst)
  · rw [Blk.axPos_of_reg fun a ha => (hreg2 a (by simp only [AXS_POS, AXS_VEL] at *; omega)).trans
      (hreg1 a (by simp only [AXS_POS, AXS_STATUS] at *; omega) (by simp only [AXS_POS, AXS_LAG] at *; omega)), hpos]
  · rw [hv2, hv1, hv, hstep]
    exact chase_bounded _ _ _ _ _ _ h
  · rw [Blk.sval_of_reg fun i hi => hreg2 _ (by simp only [AXS_LAG, AXS_VEL]; omega)]
    exact hlag
  · rw [he2, he]
    exact ⟨fun _ => rfl, rfl, rfl⟩

/-! ### Switches and homing (R272 to R275) -/

/-- A switch level that has held for SW_N samples while the axis is OFF is shown, and nothing else follows (R272). -/
theorem switchChange_home_off {s : Blk} {n k : Nat} {level : Bool} (h0 : s.axState n = 0)
    (hl : (level == s.fb (AXS_SW_CFG_POL_HOME n)) = !s.fb (AXS_STATUS_HOME_ACT n))
    (hk : max 1 (s.f (AXS_SW_CFG_SW_N n)) ≤ ((s.ax n).sw.getD 0 ⟨false, 0⟩).run + k) :
    switchChange n 0 level k s =
      (s.setAx n { s.ax n with sw := (s.ax n).sw.set 0 ⟨level, 0⟩ }).setF (AXS_STATUS_HOME_ACT n) (b2n (level == s.fb (AXS_SW_CFG_POL_HOME n))) := by
  have hne : ((level == s.fb (AXS_SW_CFG_POL_HOME n)) == s.swActive n 0) = false := by
    rw [hl]
    exact Bool.not_beq_self _
  have hst : ((s.setAx n { s.ax n with sw := (s.ax n).sw.set 0 ⟨level, 0⟩ }).setF (AXS_STATUS_HOME_ACT n)
      (b2n (level == s.fb (AXS_SW_CFG_POL_HOME n)))).axState n = 0 := by
    rw [Blk.axState, Blk.f_setF_ne _ _ _ _ (by simp) (by simp) (by simp) (by simp)]
    exact h0
  unfold switchChange
  simp only [hne, Bool.false_eq_true, if_false, atLeast1]
  rw [if_neg (Nat.not_lt.2 hk), hst]
  simp

theorem homeDone_spec {s : Blk} {n : Nat} (hn : n < 6) (h3 : s.axState n = 3) (h4 : (s.ax n).phase = 4) :
    (homeDone n s).axState n = 1 ∧ (homeDone n s).fb (AXS_STATUS_HOMED n) = true ∧
      (homeDone n s).axPos n = sext 48 (wrapTo 48 (s.axPos n + (s.sval (AXS_HOME_POS n) 2 48 - s.sval (AXS_HOME_CAP n) 2 48))) ∧
      s.Raised (homeDone n s) 0x708 n n (wrapTo 24 (s.sval (AXS_HOME_CAP n) 2 48)) ∧
      s.Frame (homeDone n s)
        (fun a => a = AXS_STATUS n ∨ a = AXS_POS n ∨ a = AXS_POS n + 1 ∨ a = AXS_ACT_TARGET n ∨ a = AXS_ACT_TARGET n + 1) := by
  unfold homeDone
  rw [if_neg (by simp [h3, h4])]
  extract_lets cap p s1 x s2
  refine ⟨?_, ?_, ?_, .raise ?_ 0x708 (by omega) (by omega) (wrapTo_lt 24 _), ?_⟩
  · rw [Blk.axState_raise]
    exact Blk.axState_setAxState _ n 1
  · rw [Blk.fb, Blk.f_raise, Blk.f_setAxState _ _ _ (by simp) (by simp) (.inr (by simp)), Blk.f_setF_same _ _ _ (by simp) (by simp)]
    rfl
  · have hp : s2.axPos n = sext 48 (wrapTo 48 p) := by
      refine (Blk.axPos_setAx _ _ _ _).trans ((Blk.axPos_setAx _ _ _ _).trans ?_)
      rw [show s1 = (s.setAxPos n p).setActTarget n p from rfl, Blk.setActTarget, Blk.axPos, Blk.sval_setSval_ne _ _ _ _ _ _ _ _
        (by simp only [AXS_POS, AXS_ACT_TARGET]; omega)]
      exact Blk.axPos_setAxPos s n p
    refine .trans (Blk.axPos_of_reg fun a ha => ?_) hp
    rw [Blk.reg_raise, Blk.setAxState, Blk.reg_setF_ne _ _ _ (by simp only [AXS_POS, AXS_STATUS] at *; omega),
      Blk.reg_setF_ne _ _ _ (by simp only [AXS_POS, AXS_STATUS] at *; omega)]
  · rw [Blk.evq_setAxState, Blk.setF_evq, show s2.evq = s1.evq from (Blk.evq_captureRef _ _).trans (Blk.evq_setAx _ _ _)]
    exact (Blk.evq_setSval _ _ _ _ _).trans (Blk.evq_setSval _ _ _ _ _)
  · have h1 : s.Frame s1
        (fun a => a = AXS_STATUS n ∨ a = AXS_POS n ∨ a = AXS_POS n + 1 ∨ a = AXS_ACT_TARGET n ∨ a = AXS_ACT_TARGET n + 1) :=
      ((Blk.Frame.refl s _).setAxPos (.inr (.inl rfl)) (.inr (.inr (.inl rfl)))).setActTarget (.inr (.inr (.inr (.inl rfl))))
        (.inr (.inr (.inr (.inr rfl))))
    have h2 : s.Frame s2
        (fun a => a = AXS_STATUS n ∨ a = AXS_POS n ∨ a = AXS_POS n + 1 ∨ a = AXS_ACT_TARGET n ∨ a = AXS_ACT_TARGET n + 1) := h1.setAx.setAx
    exact ((h2.setF (.inl rfl)).setAxState (.inl rfl)).raise

theorem homingNotFound_spec {s : Blk} {n : Nat} (hn : n < 6) (h3 : s.axState n = 3) (h2 : (s.ax n).phase = 2) (hm : s.rn (AXS_HOME_MAX n) ≠ 0)
    (hd : s.rn (AXS_HOME_MAX n) * 256 ≤ (s.axPos n - (s.ax n).hFrom).natAbs) :
    (homingNotFound n s).axState n = 2 ∧ (homingNotFound n s).f (AXS_STATUS_HOME_CAUSE n) = 2 ∧ s.Raised (homingNotFound n s) 0x702 n n 2 ∧
      s.Frame (homingNotFound n s) (actWord n) := by
  have e : homingNotFound n s = ((s.setF (AXS_STATUS_HOME_CAUSE n) 2).axStop n false).raise 0x702 n n 2 := if_pos ⟨h3, h2, hm, hd⟩
  obtain ⟨hst, -, -, -, -, hF⟩ := (s.setF (AXS_STATUS_HOME_CAUSE n) 2).axStop_spec n false
  rw [e]
  refine ⟨(Blk.axState_raise _ _ _ _ _ _).trans hst, ?_, .raise ?_ 0x702 (by omega) (by omega) (by decide), (((Blk.Frame.refl s (actWord n)).setF (.inl rfl)).trans hF).raise⟩
  · rw [Blk.f_raise, Blk.axStop, Blk.f_setAxState _ _ _ (by simp) (by simp) (.inr (by simp)), Blk.setActTarget,
      Blk.f_setSval_ne _ _ _ _ _ _ (by simp), Blk.f_setAx, Blk.f_setAx, Blk.f_setF_same _ _ _ (by simp) (by simp)]
    rfl
  · rw [Blk.axStop, Blk.evq_setAxState, Blk.setActTarget, Blk.evq_setSval, Blk.evq_setAx, Blk.evq_setAx, Blk.setF_evq]

/-! ### Stall (R270, R271) -/

theorem Blk.axState_count (s : Blk) (src k : Nat) {n : Nat} (hn : n < 6) : (s.count src k).axState n = s.axState n :=
  s.f_count src k (cntWord_low (by simp only [AXS_STATUS]; omega))

theorem Blk.ax_count (s : Blk) (src k n : Nat) : (s.count src k).ax n = s.ax n := by rw [Blk.ax, Blk.count_axes, Blk.ax]

theorem Blk.axStall_spec (s : Blk) {n : Nat} (hn : n < 6) (dev : Int) :
    (s.axStall n dev).axState n = 5 ∧ (s.axStall n dev).fb (AXS_STATUS_STALLED n) = true ∧ ((s.axStall n dev).ax n).v = 0 ∧
      ((s.axStall n dev).ax n).gear = none ∧ s.Raised (s.axStall n dev) 0x701 n n (wrapTo 24 dev) ∧
      s.Frame (s.axStall n dev) (fun a => a = AXS_STATUS n ∨ a = AXS_VEL n) := by
  unfold Blk.axStall
  extract_lets s1 x s2 s3
  have e1 : s1.evq = s.evq ∧ s.Frame s1 (fun a => a = AXS_STATUS n ∨ a = AXS_VEL n) := by
    unfold s1
    split
    · exact ⟨Blk.setF_evq _ _ _, (Blk.Frame.refl s _).setF (.inl rfl)⟩
    · exact ⟨rfl, .refl s _⟩
  obtain ⟨hq, hF⟩ := e1
  have h2 : s3.axState n = 5 ∧ s3.fb (AXS_STATUS_STALLED n) = true ∧ s3.ax n = s2.ax n := by
    refine ⟨?_, ?_, (Blk.ax_setSval _ _ _ _ _ _).trans ((Blk.ax_setF _ _ _ n).trans (Blk.ax_setF s2 _ _ n))⟩
    · rw [show s3 = ((s2.setAxState n 5).setF (AXS_STATUS_STALLED n) 1).showVel n from rfl, Blk.showVel, Blk.axState,
        Blk.f_setSval_ne _ _ _ _ _ _ (by simp), Blk.f_setF_ne _ _ _ _ (by simp) (by simp) (by simp) (by simp)]
      exact Blk.axState_setAxState _ n 5
    · rw [show s3 = ((s2.setAxState n 5).setF (AXS_STATUS_STALLED n) 1).showVel n from rfl, Blk.showVel, Blk.fb,
        Blk.f_setSval_ne _ _ _ _ _ _ (by simp), Blk.f_setF_same _ _ _ (by simp) (by simp)]
      rfl
  obtain ⟨hst, hfl, hax⟩ := h2
  refine ⟨?_, ?_, ?_, ?_, ?_, ?_⟩
  · rw [Blk.axState_count _ _ _ hn, Blk.axState_raise, hst]
  · rw [Blk.fb, Blk.f_count _ _ _ (cntWord_low (by simp only [AXS_STATUS]; omega)), Blk.f_raise]
    exact hfl
  · rw [Blk.ax_count, Blk.ax_raise, hax, show s2.ax n = _ from Blk.ax_setAx _ _ _]
  · rw [Blk.ax_count, Blk.ax_raise, hax, show s2.ax n = _ from Blk.ax_setAx _ _ _]
  · refine .of_right (.raise ?_ 0x701 (by omega) (by omega) (wrapTo_lt 24 _)) (Blk.evq_count_prefix _ _ _)
    rw [show s3 = ((s2.setAxState n 5).setF (AXS_STATUS_STALLED n) 1).showVel n from rfl, Blk.showVel, Blk.evq_setSval, Blk.setF_evq,
      Blk.evq_setAxState, show s2.evq = s1.evq from Blk.evq_setAx _ _ _, hq]
  · have hF3 : s.Frame s3 (fun a => a = AXS_STATUS n ∨ a = AXS_VEL n) := ((hF.setAx.setAxState (.inl rfl)).setF (.inl rfl)).showVel (.inr rfl)
    exact hF3.raise.count

/-- A deviation beyond the window at a check that is due, with CONSEC 1 and outside shuttle mode, is a stall (R271). -/
theorem stallCheck_stalls {s : Blk} {n t : Nat} (hn : n < 6) (hon : s.stallOn n = true) (hc : s.f (AXS_STALL_CFG_CONSEC n) = 1)
    (hsh : s.shuttle = false) (ht : t ≤ s.now) (hdue : (s.ax n).lastCheck + 2500 * max 1 (s.f (AXS_STALL_CFG_CHECK_INT n)) ≤ t)
    (hdev : s.f (AXS_STALL_CFG_WINDOW n) < (s.stallDev n).natAbs) :
    ∃ x y, stallCheck n t s = (((s.setAx n x).setSval (AXS_STALL_DEV n) 1 24 (s.stallDev n)).setAx n y).axStall n (s.stallDev n) := by
  have hon' := hon
  simp only [Blk.stallOn, Bool.and_eq_true, bne_iff_ne] at hon'
  obtain ⟨⟨⟨h0, h5⟩, hen⟩, hcn⟩ := hon'
  unfold stallCheck
  rw [s.advance_of_le ht]
  extract_lets b x int dev s2 c x2 s3
  have hint : ¬t < x.lastCheck + int := not_lt.2 hdue
  have hf (y : Fld) (hy : y.addr ≠ AXS_STALL_DEV n) : s2.f y = s.f y := (Blk.f_setSval_ne _ _ _ _ _ _ (by omega)).trans (Blk.f_setAx _ _ _ _)
  have hon2 : s2.stallOn n = true := by
    rw [Blk.stallOn, Blk.axState, hf _ (by simp), Blk.fb, hf _ (by simp), hf _ (by simp)]
    exact hon
  have hcount : s3.f (AXS_STALL_CFG_CONSEC n) ≤ c := by
    rw [show s3.f _ = s2.f (AXS_STALL_CFG_CONSEC n) from Blk.f_setAx _ _ _ _, hf _ (by simp), hc, show c = x.stalls + 1 from
      if_pos (by rw [hf _ (by simp)]; exact hdev)]
    omega
  have hsht : (s3.axStall n dev).shuttle = false := by
    have hr := (s3.axStall_spec hn dev).2.2.2.2.2.1 SHT_CFG (cntWord_low (by decide)) (by simp only [SHT_CFG, AXS_STATUS, AXS_VEL]; omega)
    rw [Blk.shuttle, Blk.fb_of_reg (x := SHT_CFG_EN) hr, Blk.fb, show s3.f SHT_CFG_EN = s2.f SHT_CFG_EN from Blk.f_setAx _ _ _ _,
      hf _ (by simp only [SHT_CFG, AXS_STALL_DEV]; omega)]
    exact hsh
  rw [if_neg (by simp [hint, show b = s from rfl, h0, hen, hcn]), if_neg (by simp [hon2]), if_pos hcount]
  exact ⟨_, _, if_neg (by simp [hsht])⟩

/-! ### The ratio of a geared axis (R278) -/

theorem gearSlotWrite_spec {s : Blk} {n : Nat} (w : Word) (h : s.axState n ≠ 4) :
    (gearSlotWrite n w s).reg (AXS_GEAR n) = w &&& 0xf70000 ∧ s.OnlyRegs (gearSlotWrite n w s) (· = AXS_GEAR n) := by
  have e : gearSlotWrite n w s = s.wn (AXS_GEAR n) (w.toNat &&& 0xf70000) := by
    refine if_neg fun g => h (Eq.trans ?_ g)
    rw [Blk.axState, Blk.axState, Blk.f, Blk.f, Blk.rn_wn_ne _ _ (by simp)]
  rw [e]
  refine ⟨?_, (Blk.OnlyRegs.refl s _).wn rfl⟩
  rw [Blk.wn, Blk.reg_setReg_same]
  refine BitVec.eq_of_toNat_eq ?_
  rw [BitVec.toNat_ofNat, BitVec.toNat_and, Nat.mod_eq_of_lt (Nat.and_lt_two_pow _ (by decide))]
  rfl

theorem gearRampEnd_spec {s : Blk} {n : Nat} {g : Gear} {r1 : Ratio} (hg : (s.ax n).gear = some g) (hr : g.r1 = some r1)
    (hd : g.defer = none) (hu : g.ramp * 256 ≤ s.srcPos n - g.pSw) :
    (∃ h, ((s.rampEnd n).ax n).gear = some h ∧ h.r0 = r1 ∧ h.r1 = none ∧ h.pSw = g.pSw + (g.ramp * 256 : Nat) ∧
      (h.aN, h.aD) = g.cmdAt (g.ramp * 256 : Nat)) ∧ (s.rampEnd n).regs = s.regs ∧ s.Calm (s.rampEnd n) := by
  have hlt : ¬s.srcPos n - g.pSw < (g.ramp * 256 : Nat) := not_lt.2 (by push_cast; exact hu)
  have e : s.rampEnd n = s.setAx n { s.ax n with gear := some { g with
      aN := (g.cmdAt (g.ramp * 256 : Nat)).1, aD := (g.cmdAt (g.ramp * 256 : Nat)).2, pSw := g.pSw + (g.ramp * 256 : Nat), r0 := r1,
      r1 := none, defer := none } } := by
    simp only [Blk.rampEnd, hg, hr, if_neg hlt, hd]
  rw [e]
  exact ⟨⟨_, congrArg Ax.gear (Blk.ax_setAx _ _ _), rfl, rfl, rfl, rfl⟩, rfl, (Blk.Calm.refl s).put⟩

/-- Settles O22, each way an axis moves or changes on its own by the lemma about it. -/
theorem axisMotion : Obligations.AxisMotion := by
  unfold Obligations.AxisMotion
  intro s n t hs
  have hn : n.val < 6 := n.isLt
  refine ⟨fun g hst hg hp hv hr hf ht => .of_on (f := profileTick n t) rfl hs (profileTick_arrives hn hst hg hp hv hr hf ht),
    fun g hst hg ht hl hu htick hr hlp hlm hnear => .of_on (f := profileTick n t) rfl hs
      (profileTick_geared hn hst hg ht hl hu htick hr hlp hlm hnear),
    fun level k h0 hl hk => .of_on (f := switchChange n 0 level k) rfl hs ?_,
    fun h3 h4 => .of_on (f := homeDone n) rfl hs (homeDone_spec hn h3 h4),
    fun h3 h2 hm hd => .of_on (f := homingNotFound n) rfl hs (homingNotFound_spec hn h3 h2 hm hd),
    fun hon hc hsh hi ht hdue hdev => .of_on (f := fun x => (stallCheck n t x).settle) rfl hs ?_,
    fun w h => .of_on (f := gearSlotWrite n w) rfl hs (gearSlotWrite_spec w h),
    fun g r1 hst hg hr hd hu => .of_on (f := fun b => if b.axState n = 4 then b.rampEnd n else b) rfl hs ?_⟩
  · rw [switchChange_home_off h0 hl hk]
    refine ⟨?_, ((Blk.Frame.refl s.blk (· = AXS_STATUS n)).setAx.setF rfl)⟩
    rw [Blk.fb, Blk.f_setF_same _ _ _ (by simp) (by simp)]
    cases level == s.blk.fb (AXS_SW_CFG_POL_HOME n) <;> rfl
  · obtain ⟨x, y, e⟩ := stallCheck_stalls hn hon hc hsh ht hdue hdev
    have hF : s.blk.Frame (((s.blk.setAx n x).setSval (AXS_STALL_DEV n) 1 24 (s.blk.stallDev n)).setAx n y) (fun a => a = AXS_STATUS n ∨ a = AXS_STALL_DEV n ∨ a = AXS_VEL n) :=
      ((Blk.Frame.refl s.blk _).setAx.setSval1 (.inr (.inl rfl))).setAx
    have hq : (((s.blk.setAx n x).setSval (AXS_STALL_DEV n) 1 24 (s.blk.stallDev n)).setAx n y).evq = s.blk.evq := by
      rw [Blk.evq_setAx, Blk.evq_setSval, Blk.evq_setAx]
    obtain ⟨h1, h2, h3, h4, h5, h6⟩ := (((s.blk.setAx n x).setSval (AXS_STALL_DEV n) 1 24 (s.blk.stallDev n)).setAx n y).axStall_spec hn (s.blk.stallDev n)
    have hF' : s.blk.Frame (stallCheck n t s.blk) (fun a => a = AXS_STATUS n ∨ a = AXS_STALL_DEV n ∨ a = AXS_VEL n) := by
      rw [e]
      exact hF.trans (h6.mono fun a ha => ha.imp_right .inr)
    have hbusy : (stallCheck n t s.blk).allIdle = false := by
      rw [hF'.1.allIdle fun k hk => by simp only [AXS_STATUS, AXS_STALL_DEV, AXS_VEL, PGE_TRK_STATUS]; omega]
      exact hi
    rw [Blk.settle_of_busy hbusy]
    rw [e] at hF' ⊢
    exact ⟨h1, h2, h3, h4, h5.of_left (by rw [hq]), hF'⟩
  · rw [if_pos hst]
    exact gearRampEnd_spec hg hr hd hu

end Sys2Proof.Machine
end

section
/-!
PROOFS. Image memory (R381 to R395): upkeep, power states, and changes of frequency.
-/

namespace Sys2Proof.Machine

variable {s : Blk}

theorem Blk.owed_of_dram {r s : Blk} (h : s.dram.owed = r.dram.owed) (c : Nat) : s.owed c = r.owed c := by rw [Blk.owed, h, Blk.owed]

/-- What is shown of the refreshes owed is one register. -/
theorem Blk.showOwed_eq (s : Blk) : s.showOwed = { s with regs := s.showOwed.regs } := s.setF_setF_eq _ _ _ _

theorem Blk.dram_showOwed (s : Blk) : s.showOwed.dram = s.dram := by rw [Blk.showOwed_eq]

theorem Blk.f_withDram (s : Blk) (f : Service → Dram → Dram) (x : Fld) : (s.withDram f).f x = s.f x := rfl

theorem Blk.reg_showOwed (s : Blk) {a : Nat} (h : a ≠ DRM_REF_OWED) : s.showOwed.reg a = s.reg a :=
  (Blk.reg_setF_ne _ _ _ h).trans (Blk.reg_setF_ne _ _ _ h)

theorem Blk.evq_showOwed (s : Blk) : s.showOwed.evq = s.evq := by rw [Blk.showOwed_eq]

theorem Blk.evq_withDram (s : Blk) (f : Service → Dram → Dram) : (s.withDram f).evq = s.evq := rfl

theorem Blk.evq_payOwed (s : Blk) (cls : Nat) : (s.payOwed cls).evq = s.evq := by rw [Blk.payOwed, Blk.evq_withDram]

theorem Blk.reg_withDram (s : Blk) (f : Service → Dram → Dram) (a : Nat) : (s.withDram f).reg a = s.reg a := rfl

theorem Blk.reg_payOwed (s : Blk) (cls a : Nat) : (s.payOwed cls).reg a = s.reg a := by rw [Blk.payOwed, Blk.reg_withDram]

theorem Blk.f_payOwed (s : Blk) (cls : Nat) (x : Fld) : (s.payOwed cls).f x = s.f x := by rw [Blk.payOwed, Blk.f_withDram]

section

variable {r : Blk} {p : Nat → Prop}

theorem Blk.Frame.showOwed (h : r.Frame s p) (hp : p DRM_REF_OWED) : r.Frame s.showOwed p := (h.setF hp).setF hp

theorem Blk.Frame.withDram (h : r.Frame s p) {f : Service → Dram → Dram} : r.Frame (s.withDram f) p := h.put

theorem Blk.Frame.setDram (h : r.Frame s p) {d : Dram} : r.Frame { s with dram := d } p := h.put

theorem Blk.Frame.payOwed (h : r.Frame s p) {cls : Nat} : r.Frame (s.payOwed cls) p := h.put

end

/-! ### Upkeep (R381 to R395) -/

theorem Blk.critical_of_critical {s : Blk} (h : s.rn PGE_LAT_TOL < s.f DRM_REF_CFG_CRIT_US) (hc : s.fb DRM_STATUS_CRITICAL = true) : s.critical = s := by
  simp only [Blk.critical, hc, h, decide_true]
  rfl

theorem refreshDue_owes {s : Blk} {c : Nat} (h : s.rn PGE_LAT_TOL < s.f DRM_REF_CFG_CRIT_US) (hc : s.fb DRM_STATUS_CRITICAL = true)
    (hsr : s.dram.sr = false) (ho : s.owed c < min 8 (s.f DRM_REF_CFG_POSTPONE_MAX)) :
    refreshDue c s = (({ s with dram := { s.dram with owed := aput s.dram.owed c (s.owed c + 1) } } : Blk).showOwed).count 0x71 := by
  simp only [refreshDue, Blk.critical_of_critical h hc, hsr, hc, ho, if_true]
  rfl

theorem refreshDue_spec {s : Blk} {c : Nat} (h : s.rn PGE_LAT_TOL < s.f DRM_REF_CFG_CRIT_US) (hc : s.fb DRM_STATUS_CRITICAL = true)
    (hsr : s.dram.sr = false) (ho : s.owed c < min 8 (s.f DRM_REF_CFG_POSTPONE_MAX)) :
    (refreshDue c s).owed c = s.owed c + 1 ∧ (∀ d, d ≠ c → (refreshDue c s).owed d = s.owed d) ∧
      s.Frame (refreshDue c s) (· = DRM_REF_OWED) := by
  rw [refreshDue_owes h hc hsr ho]
  have hd (d : Nat) (x : Blk) : (x.showOwed.count 0x71).owed d = x.owed d := Blk.owed_of_dram (by rw [Blk.count_dram, Blk.dram_showOwed]) d
  refine ⟨(hd _ _).trans (alook_aput_same _ _ _ _), fun d hne => (hd _ _).trans (alook_aput_ne _ _ _ hne), ?_⟩
  exact ((Blk.Frame.refl s (· = DRM_REF_OWED)).put.showOwed rfl).count

theorem throttleEnd_spec (s : Blk) (p t : Nat) :
    (∀ e, e ∈ (throttleEnd p t s).dram.throt ↔ e ∈ s.dram.throt ∧ (e.1 ≠ p ∨ max s.now t < e.2.2)) ∧
      s.Frame (throttleEnd p t s) (· = DRM_RD_STATUS) := by
  refine ⟨fun e => ?_, ((Blk.Frame.refl s (· = DRM_RD_STATUS)).advance.put.setF rfl : s.Frame (Blk.showThrot _) _)⟩
  have hd : (throttleEnd p t s).dram.throt = s.dram.throt.filter fun e => e.1 != p || decide (max s.now t < e.2.2) := by
    rw [← s.now_advance t, ← s.advance_dram t]
    rfl
  rw [hd, List.mem_filter]
  simp

theorem trackerWindow_spec {s : Blk} {t : Nat} (h : s.dram.windowAt + 250000 * atLeast1 (s.f DRM_RD_CFG_WINDOW) ≤ max s.now t) :
    (trackerWindow t s).dram = { s.dram with rows := [], windowAt := max s.now t } ∧ (trackerWindow t s).now = max s.now t ∧
      s.Frame (trackerWindow t s) fun _ => False := by
  have e : trackerWindow t s = { s.advance t with dram := { s.dram with rows := [], windowAt := max s.now t } } := by
    rw [← s.now_advance t, ← s.advance_dram t] at h ⊢
    exact if_neg (not_lt.2 (by rwa [s.f_advance t (cntWord_low (by decide))]))
  rw [e]
  exact ⟨rfl, s.now_advance t, (Blk.Frame.refl s fun _ => False).advance.put⟩

theorem drmClear_spec (s : Blk) :
    (drmClear s).rn DRM_ECC_CE = 0 ∧ (drmClear s).rn DRM_ECC_UE = 0 ∧ (drmClear s).dram = { s.dram with stalls := [] } ∧
      s.Frame (drmClear s) (fun a => a = DRM_ECC_CE ∨ a = DRM_ECC_UE) := by
  have hr (a : Nat) : (drmClear s).rn a = ((s.wn DRM_ECC_CE 0).wn DRM_ECC_UE 0).rn a := rfl
  refine ⟨?_, ?_, rfl, ((Blk.Frame.refl s fun a => a = DRM_ECC_CE ∨ a = DRM_ECC_UE).wn (.inl rfl)).wn (.inr rfl) |>.put⟩
  · rw [hr, Blk.rn_wn_ne _ _ (by decide), Blk.rn_wn_same, Nat.zero_mod]
  · rw [hr, Blk.rn_wn_same, Nat.zero_mod]

/-! ### Patrol (R392) -/

theorem Dram.rows_serve (v : Service) (c n : Nat) (d : Dram) : (Dram.serve v c n d).rows = d.rows := by
  induction n generalizing d with
  | zero => rfl
  | succ n ih =>
    unfold Dram.serve
    extract_lets mine
    split
    · rfl
    · extract_lets t
      split
      · rfl
      · split
        · rfl
        · exact ih _

theorem Dram.rows_enqueue (d : Dram) (v : Service) (c p cls bank : Nat) (write : Bool) : (d.enqueue v c p cls bank write).rows = d.rows := by
  unfold Dram.enqueue
  rw [Dram.rows_serve]
  exact Dram.rows_serve v c _ d

theorem Dram.rows_raaCount (d : Dram) (v : Service) (w : Nat × Nat × Nat × Nat) : (d.raaCount v w).rows = d.rows := by
  unfold Dram.raaCount
  extract_lets k n
  split
  · rw [Dram.rows_enqueue]
  · rfl

/-- A request shows in the power states alone, and no tracker is touched by it. -/
theorem Blk.request_spec (s : Blk) (c p cls bank : Nat) (write : Bool) :
    (s.request c p cls bank write).dram.rows = s.dram.rows ∧ s.Frame (s.request c p cls bank write) (· = DRM_PWR_STATUS) := by
  unfold Blk.request
  extract_lets d1 s1 x s2 d2 s3 s4 s5
  have h1 : s1.dram.rows = s.dram.rows ∧ s.Frame s1 (· = DRM_PWR_STATUS) := ⟨rfl, (Blk.Frame.refl s _).put⟩
  have h3 : s3.dram.rows = s.dram.rows ∧ s.Frame s3 (· = DRM_PWR_STATUS) := by
    unfold s3
    split
    · have h2 : s2.dram = s1.dram ∧ s.Frame s2 (· = DRM_PWR_STATUS) := by
        unfold s2 x
        split
        · exact ⟨by simp, (h1.2.setF rfl).setF rfl⟩
        · exact ⟨by simp, (h1.2.setF rfl).setF rfl⟩
      exact ⟨(congrArg Dram.rows h2.1).trans h1.1, h2.2.put⟩
    · exact ⟨h1.1, h1.2.setF rfl⟩
  have h5 : s5.dram.rows = s.dram.rows ∧ s.Frame s5 (· = DRM_PWR_STATUS) := by
    have h4 : s4.dram.rows = s.dram.rows ∧ s.Frame s4 (· = DRM_PWR_STATUS) := ⟨(Dram.rows_serve _ _ _ _).trans h3.1, h3.2.withDram⟩
    unfold s5
    split
    · exact ⟨by rw [Blk.count_dram]; exact h4.1, h4.2.count⟩
    · exact h4
  exact ⟨(Dram.rows_enqueue _ _ _ _ _ _ _).trans h5.1, h5.2.withDram⟩

theorem Blk.place_of_reg {r s : Blk} (h : s.reg DRM_CFG = r.reg DRM_CFG) (a : Nat) : s.place a = r.place a := by
  simp only [Blk.place, Blk.rowBits, Blk.ranks, Blk.f_of_reg (x := DRM_CFG_GRAIN_LOG2) h, Blk.fb_of_reg (x := DRM_CFG_ECC) h,
    Blk.f_of_reg (x := DRM_CFG_CAP_LOG2) h, Blk.f_of_reg (x := DRM_CFG_RANKS) h]

/-- An activation that keeps below the threshold moves its tracker alone (R383). -/
theorem Blk.activate_quiet {s : Blk} {p a : Nat} (h : s.f DRM_RD_CFG_THRESH = 0 ∨
    (trackRow (alook [] s.dram.rows (bankKey (s.place a))) (s.place a).2.2.2).2 < s.f DRM_RD_CFG_THRESH) :
    ∃ d, s.activate p a = { s with dram := d } := by
  unfold Blk.activate
  extract_lets th w key r cross t d s1
  split
  · exact ⟨s.dram, rfl⟩
  · next h0 =>
    have hc : cross = false := decide_eq_false (not_le.2 (h.resolve_left h0))
    rw [hc]
    exact ⟨_, rfl⟩

theorem Blk.eccCe_spec (s : Blk) (a : Nat) :
    (s.eccCe a).rn DRM_ECC_CE = min (s.rn DRM_ECC_CE + 1) u24max ∧ s.Frame (s.eccCe a) (· = DRM_ECC_CE) := by
  unfold Blk.eccCe
  extract_lets s1 due s2 d
  have h1 : s1.rn DRM_ECC_CE = min (s.rn DRM_ECC_CE + 1) u24max := by
    rw [show s1 = (s.incSat DRM_ECC_CE).count 0x72 from rfl, Blk.rn_count _ _ _ (cntWord_low (by decide)), Blk.rn_incSat_same]
  have hF : s.Frame s1 (· = DRM_ECC_CE) := ((Blk.Frame.refl s (· = DRM_ECC_CE)).incSat rfl).count
  split
  · exact ⟨h1, hF.raise.put⟩
  · exact ⟨h1, hF⟩

theorem patrolScrub_corrected {s : Blk} {b : Nat} (hp : s.fb DRM_CFG_PATROL = true) (hb : 64 * b < s.capacity) (he : s.fb DRM_CFG_ECC = true)
    (ht : s.f DRM_RD_CFG_THRESH = 0 ∨
      (trackRow (alook [] s.dram.rows (bankKey (s.place (64 * b)))) (s.place (64 * b)).2.2.2).2 < s.f DRM_RD_CFG_THRESH) :
    (patrolScrub b .corrected s).rn DRM_ECC_CE = min (s.rn DRM_ECC_CE + 1) u24max ∧
      s.Frame (patrolScrub b .corrected s) (fun a => a = DRM_ECC_CE ∨ a = DRM_PWR_STATUS) := by
  have hr : ((s.request (s.place (64 * b)).1 14 4 (bankKey (s.place (64 * b))) false).withDram fun v d =>
      d.raaCount v (s.place (64 * b))).dram.rows = s.dram.rows := (Dram.rows_raaCount _ _ _).trans (s.request_spec _ _ _ _ _).1
  have hF : s.Frame ((s.request (s.place (64 * b)).1 14 4 (bankKey (s.place (64 * b))) false).withDram fun v d =>
      d.raaCount v (s.place (64 * b))) (· = DRM_PWR_STATUS) := (s.request_spec _ _ _ _ _).2.withDram
  unfold patrolScrub
  rw [if_neg (by simp [hp, hb])]
  extract_lets w s1
  have e1 : s1 = (((s.request (s.place (64 * b)).1 14 4 (bankKey (s.place (64 * b))) false).withDram fun v d =>
      d.raaCount v (s.place (64 * b))).activate 14 (64 * b)) := rfl
  clear_value s1
  generalize ((s.request (s.place (64 * b)).1 14 4 (bankKey (s.place (64 * b))) false).withDram fun v d =>
    d.raaCount v (s.place (64 * b))) = q at hr hF e1
  obtain ⟨d, hd⟩ : ∃ d, s1 = { q with dram := d } := by
    rw [e1]
    refine Blk.activate_quiet ?_
    rw [Blk.place_of_reg (hF.1 DRM_CFG (cntWord_low (by decide)) (by decide)), hF.1.f (x := DRM_RD_CFG_THRESH) (cntWord_low (by decide)) (by simp), hr]
    exact ht
  have hF1 : s.Frame s1 (· = DRM_PWR_STATUS) := by
    rw [hd]
    exact hF.put
  rw [hF1.1.fb (x := DRM_CFG_ECC) (cntWord_low (by decide)) (by decide), he]
  obtain ⟨h1, h2⟩ := s1.eccCe_spec (64 * b)
  exact ⟨h1.trans (by rw [hF1.1.rn (cntWord_low (by decide)) (by decide)]), (hF1.mono fun _ => .inr).trans (h2.mono fun _ => .inl)⟩

/-- Settles O10, each clause by the lemma about its command. -/
theorem imageMemoryUpkeep : Obligations.ImageMemoryUpkeep := by
  unfold Obligations.ImageMemoryUpkeep
  intro s t hs
  exact ⟨fun c h hc hsr ho => .of_on (f := refreshDue c) rfl hs (refreshDue_spec h hc hsr ho),
    fun p => .of_on (f := throttleEnd p t) rfl hs (throttleEnd_spec s.blk p t),
    fun h => .of_on (f := trackerWindow t) rfl hs (trackerWindow_spec h),
    fun b hp hb he ht => .of_on (f := patrolScrub b .corrected) rfl hs (patrolScrub_corrected hp hb he ht),
    .of_on (f := drmClear) rfl hs (drmClear_spec s.blk)⟩

/-! ### Power states (R385, R386) -/

theorem powerDownEntry_eq {s : Blk} {c t : Nat} (ht : t ≤ s.now) (hpd : s.fb DRM_PWR_CFG_PD_EN = true) (hsr : s.dram.sr = false)
    (hl : 1 ≤ s.rn PGE_LAT_TOL) (hi : atLeast1 (s.f DRM_PWR_CFG_IDLE_PD) * s.memClk ≤ (s.now - s.lastReq c) * 4000) :
    powerDownEntry c t s = s.setF ⟨DRM_PWR_STATUS, c, c⟩ 1 := by
  unfold powerDownEntry
  rw [s.advance_of_le ht]
  exact if_pos (by simp [hpd, hsr, hl, hi])

theorem selfRefreshEntry_eq {s : Blk} {t : Nat} (ht : t ≤ s.now) (hen : s.fb DRM_PWR_CFG_SR_EN = true) (hsr : s.dram.sr = false)
    (ha : s.srAllowed = true) (hi : ∀ c, c < 8 → atLeast1 (s.f DRM_PWR_CFG_IDLE_SR) * 250 ≤ s.now - s.lastReq c) :
    selfRefreshEntry t s = ((((s.setF DRM_PWR_STATUS_LOW 255).count 0x75).payOwed 0).withDram fun _ d =>
      { d with sr := true, srAt := s.now + ((List.range 8).map s.owed).foldl max 0 * s.rfcPs / 4000 }).showOwed := by
  have hd : ((s.setF DRM_PWR_STATUS_LOW 255).count 0x75).dram = s.dram := Blk.count_dram _ _ _
  have hn : ((s.setF DRM_PWR_STATUS_LOW 255).count 0x75).now = s.now := Blk.count_now _ _ _
  have ho (c : Nat) : ((s.setF DRM_PWR_STATUS_LOW 255).count 0x75).owed c = s.owed c := Blk.owed_of_dram (by rw [hd]) c
  have hr : ((s.setF DRM_PWR_STATUS_LOW 255).count 0x75).rfcPs = s.rfcPs := by rw [Blk.rfcPs, Blk.memClk, Blk.tset, Blk.tset, hd]; rfl
  rw [← hn, ← hr, ← funext ho]
  unfold selfRefreshEntry
  rw [s.advance_of_le ht]
  exact if_pos (by simpa [hen, hsr, ha] using hi)

/-- With nothing owed the register shows 0. -/
theorem Blk.f_showOwed_count {s : Blk} (h : s.dram.owed = []) : s.showOwed.f DRM_REF_OWED_COUNT = 0 := by
  have ho : s.owed = fun _ => 0 := by
    funext c
    rw [Blk.owed, h]
    rfl
  rw [Blk.showOwed, Blk.f_setF_same _ _ _ (by decide) (by decide), ho]
  decide

theorem Blk.f_showOwed_ne (s : Blk) {x : Fld} (h : x.addr ≠ DRM_REF_OWED) : s.showOwed.f x = s.f x :=
  Blk.f_of_reg ((Blk.reg_setF_ne _ _ _ h).trans (Blk.reg_setF_ne _ _ _ h))

theorem selfRefreshExit_eq {s : Blk} {t : Nat} (ht : t ≤ s.now) (hsr : s.dram.sr = true) (ha : s.srAllowed = false) :
    selfRefreshExit t s = { s.setF DRM_PWR_STATUS_LOW 0 with dram := { s.dram with sr := false } } := by
  unfold selfRefreshExit
  rw [s.advance_of_le ht]
  exact if_pos (by simp [hsr, ha])

/-- Settles O11, each change of state by its equation. -/
theorem imageMemoryPower : Obligations.ImageMemoryPower := by
  unfold Obligations.ImageMemoryPower
  intro s t hs ht
  refine ⟨fun c hpd hsr hl hi => .of_on (f := powerDownEntry c t) rfl hs ?_,
    fun hen hsr ha hi => .of_on (f := selfRefreshEntry t) rfl hs ?_, fun hsr ha => .of_on (f := selfRefreshExit t) rfl hs ?_⟩
  · rw [powerDownEntry_eq ht hpd hsr hl hi]
    refine ⟨?_, (Blk.OnlyRegs.refl s.blk (· = DRM_PWR_STATUS)).setF rfl⟩
    rw [Blk.f_setF_same _ _ _ le_rfl (show c.val < 24 by omega)]
    simp
  · rw [selfRefreshEntry_eq ht hen hsr ha hi]
    refine ⟨?_, ?_, ?_, ?_, Blk.f_showOwed_count rfl, ?_⟩
    · rw [Blk.f_showOwed_ne _ (by decide)]
      rw [Blk.f_withDram, Blk.f_payOwed, Blk.f_count _ _ _ (cntWord_low (by decide)), Blk.f_setF_same _ _ _ (by decide) (by decide)]
      rfl
    · exact congrArg Dram.sr (Blk.dram_showOwed _)
    · exact congrArg Dram.owed (Blk.dram_showOwed _)
    · exact congrArg Dram.srAt (Blk.dram_showOwed _)
    · have hF : s.blk.Frame ((s.blk.setF DRM_PWR_STATUS_LOW 255).count 0x75) (fun a => a = DRM_PWR_STATUS ∨ a = DRM_REF_OWED) :=
        ((Blk.Frame.refl s.blk _).setF (.inl rfl)).count
      exact hF.payOwed.withDram.showOwed (.inr rfl)
  · rw [selfRefreshExit_eq ht hsr ha]
    refine ⟨?_, rfl, ((Blk.Frame.refl s.blk (· = DRM_PWR_STATUS)).setF rfl).put⟩
    rw [Blk.f_put, Blk.f_setF_same _ _ _ (by decide) (by decide)]
    rfl

/-! ### Frequency changes and tracking (R388, R389) -/

theorem bits_eq_zero_of_bitOf {v i : Nat} (h : bitOf v i = false) : bits v i i = 0 := by
  simp only [bitOf, beq_eq_false_iff_ne] at h
  simp only [bits, Nat.sub_self, Nat.zero_add, Nat.pow_one]
  omega

/-- A bit that is clear stays so as it is cleared. -/
theorem setBits_clear {v i : Nat} (h : bitOf v i = false) : setBits v i i 0 = v := by
  rw [setBits, bits_eq_zero_of_bitOf h, Nat.zero_mod]
  omega

theorem fcGo_valid {s : Blk} {w : Nat} (hgo : bitOf w 2 = true) (hv : bitOf (s.rn (DRM_TSET0 (w % 4))) 23 = true) :
    (fcGo w s).fb DRM_STATUS_FC_PENDING = true ∧ (fcGo w s).dram.fc = some (w % 4) ∧
      (fcGo w s).fb DRM_STATUS_MERGED = (s.dram.fc.isSome || s.fb DRM_STATUS_MERGED) ∧ s.Frame (fcGo w s) (· = DRM_STATUS) := by
  have hk : bits w 1 0 = w % 4 := by simp [bits]
  unfold fcGo
  extract_lets k s1 s2
  have hk' : k = w % 4 := hk
  have h1 : s1.fb DRM_STATUS_MERGED = (s.dram.fc.isSome || s.fb DRM_STATUS_MERGED) ∧ s.Frame s1 (· = DRM_STATUS) := by
    unfold s1
    split
    · next h =>
      rw [h, Bool.true_or, Blk.fb_setF_same _ _ _ (by decide) (by decide)]
      exact ⟨rfl, (Blk.Frame.refl s (· = DRM_STATUS)).setF rfl⟩
    · next h =>
      rw [Bool.not_eq_true] at h
      rw [h, Bool.false_or]
      exact ⟨rfl, .refl s _⟩
  rw [if_neg (by simp [hgo]), if_neg (by simp [hk', hv])]
  refine ⟨?_, congrArg some hk', ?_, (h1.2.setF rfl).put⟩
  · rw [Blk.fb_put, Blk.fb_setF_same _ _ _ (by decide) (by decide)]
    rfl
  · rw [Blk.fb_put, Blk.fb_setF_ne _ _ _ _ (by decide) (by decide) (by decide) (by decide)]
    exact h1.1

theorem fcGo_invalid {s : Blk} {w : Nat} (hgo : bitOf w 2 = true) (hv : bitOf (s.rn (DRM_TSET0 (w % 4))) 23 = false) :
    fcGo w s = s.setF DRM_STATUS_FC_REJ 1 := by
  have hk : bits w 1 0 = w % 4 := by simp [bits]
  unfold fcGo
  rw [hk, if_neg (by simp [hgo]), if_pos (by simp [hv])]

theorem wckTracking_fails {s : Blk} {t c : Nat} (hc : c < 8)
    (ht : s.dram.trackAt + 250000 * atLeast1 (s.f DRM_CFG_TRACK_MS) ≤ max s.now t) :
    bitOf ((wckTracking t (some c) s).rn (DRM_TSET0 (s.f DRM_STATUS_SET))) 19 = false ∧
      s.Raised (wckTracking t (some c) s) 0xB01 c (c * 2 ^ 8 + s.f DRM_STATUS_SET) 4 ∧
      s.Frame (wckTracking t (some c) s) (· = DRM_TSET0 (s.f DRM_STATUS_SET)) := by
  have hk : s.f DRM_STATUS_SET < 4 := s.f_lt _
  have e : wckTracking t (some c) s =
      ({ s.advance t with dram := { (s.advance t).dram with trackAt := (s.advance t).now } } : Blk).trainFail (s.f DRM_STATUS_SET) c 4 := by
    rw [← s.f_advance t (x := DRM_STATUS_SET) (cntWord_low (by decide))]
    unfold wckTracking
    refine if_neg (not_lt.2 ?_)
    rwa [s.f_advance t (cntWord_low (by decide)), s.now_advance, s.advance_dram]
  have hF := (Blk.Frame.refl s (· = DRM_TSET0 (s.f DRM_STATUS_SET))).advance (u := t)
  have hF1 : s.Frame ({ s.advance t with dram := { (s.advance t).dram with trackAt := (s.advance t).now } } : Blk)
    (· = DRM_TSET0 (s.f DRM_STATUS_SET)) := hF.put
  have hq1 : s.evq <+: ({ s.advance t with dram := { (s.advance t).dram with trackAt := (s.advance t).now } } : Blk).evq := s.evq_advance_prefix t
  rw [e, Blk.trainFail]
  generalize ({ s.advance t with dram := { (s.advance t).dram with trackAt := (s.advance t).now } } : Blk) = b at *
  refine ⟨?_, .of_left (.raise (Blk.wn_evq _ _ _) 0xB01 (by omega) (by omega) (by decide)) hq1, (hF1.wn rfl).raise⟩
  · rw [Blk.bitOf_rn, Blk.fb, Blk.f_raise]
    exact congrArg (· == 1) (Blk.f_setF_same _ ⟨DRM_TSET0 (s.f DRM_STATUS_SET), 19, 19⟩ 0 le_rfl (by simp))

theorem Blk.showBudget_eq (s : Blk) : s.showBudget = { s with regs := s.showBudget.regs } := s.setF_setF_eq _ _ _ _

theorem Blk.reg_showBudget (s : Blk) {a : Nat} (h : a ≠ DRM_LAT_BUDGET) : s.showBudget.reg a = s.reg a :=
  (Blk.reg_setF_ne _ _ _ h).trans (Blk.reg_setF_ne _ _ _ h)

theorem Blk.f_showBudget (s : Blk) {x : Fld} (h : x.addr ≠ DRM_LAT_BUDGET) : s.showBudget.f x = s.f x := Blk.f_of_reg (s.reg_showBudget h)

/-- A set that is loaded is the set in force, with its words as they stand (R387). -/
theorem Blk.loadSet_spec (s : Blk) {k : Nat} (hk : k < 4) :
    (s.loadSet k).f DRM_STATUS_SET = k ∧ (s.loadSet k).fb DRM_STATUS_FC_PENDING = s.fb DRM_STATUS_FC_PENDING ∧
      (∀ a, a ≠ DRM_STATUS → a ≠ DRM_LAT_BUDGET → (s.loadSet k).reg a = s.reg a) ∧
      (s.loadSet k).tset 0 = s.rn (DRM_TSET0 k) ∧ (s.loadSet k).dram.fc = s.dram.fc ∧ (s.loadSet k).evq = s.evq ∧ s.Calm (s.loadSet k) := by
  unfold Blk.loadSet
  extract_lets s1 d
  refine ⟨?_, ?_, fun a h1 h2 => (Blk.reg_showBudget _ h2).trans (Blk.reg_setF_ne s _ _ h1), ?_, ?_, ?_, ?_⟩
  · rw [Blk.f_showBudget _ (by decide), Blk.f_put, Blk.f_setF_same _ _ _ (by decide) (by decide)]
    exact Nat.mod_eq_of_lt hk
  · rw [Blk.fb, Blk.f_showBudget _ (by decide), Blk.f_put, Blk.f_setF_ne _ _ _ _ (by decide) (by decide) (by decide) (by decide), Blk.fb]
  · rw [Blk.tset, Blk.showBudget_eq]
    exact Blk.rn_setF_ne s _ _ (by simp only [DRM_TSET0, DRM_STATUS]; omega)
  · rw [Blk.showBudget_eq]
    rfl
  · rw [Blk.showBudget_eq]
    rfl
  · rw [Blk.showBudget_eq]
    exact (Blk.Calm.refl s).put

theorem Blk.setRate_of_reg {r s : Blk} {k : Nat} (h : bits (s.rn (DRM_TSET0 k)) 22 20 = bits (r.rn (DRM_TSET0 k)) 22 20) : s.setRate k = r.setRate k := by
  rw [Blk.setRate, h, Blk.setRate]

theorem Blk.setRate_le (s : Blk) (k : Nat) : s.setRate k ≤ 5 := Nat.min_le_left _ _

/-- The words in which a change of frequency shows. -/
def freqWord (k a : Nat) : Prop := a = DRM_STATUS ∨ a = DRM_TSET0 k ∨ a = DRM_LAT_BUDGET ∨ a = DRM_REF_OWED

theorem frequencyChange_trained {s : Blk} {k : Nat} (f : Option (Nat × Nat)) (hk : k < 4) (hfc : s.dram.fc = some k)
    (ht : bitOf (s.rn (DRM_TSET0 k)) 19 = true) (hi : s.allIdle = true) :
    (frequencyChange f s).f DRM_STATUS_SET = k ∧ (frequencyChange f s).fb DRM_STATUS_FC_PENDING = false ∧ (frequencyChange f s).dram.fc = none ∧
      (frequencyChange f s).tset 0 = (frequencyChange f s).rn (DRM_TSET0 k) ∧ s.Raised (frequencyChange f s) 0xB06 0 k (s.setRate k) ∧
      s.Frame (frequencyChange f s) (freqWord k) := by
  simp only [frequencyChange, hfc, ht, hi, Bool.true_or, Bool.not_true, Bool.or_self, Bool.false_eq_true, if_false, if_true]
  generalize hu : Blk.showOwed _ = u
  have hu0 : u.fb DRM_STATUS_FC_PENDING = false ∧ u.dram.fc = none ∧ u.evq = s.evq ∧ u.reg (DRM_TSET0 k) = s.reg (DRM_TSET0 k) ∧
      s.Frame u (freqWord k) := by
    rw [← hu]
    refine ⟨?_, congrArg Dram.fc (Blk.dram_showOwed _), ?_, ?_, ?_⟩
    · rw [Blk.fb, Blk.f_showOwed_ne _ (by decide), Blk.f_put, Blk.f_payOwed, Blk.f_setF_same _ _ _ (by decide) (by decide)]
      rfl
    · rw [Blk.evq_showOwed]
      dsimp only
      rw [Blk.evq_payOwed, Blk.setF_evq]
    · rw [Blk.reg_showOwed _ (by simp only [DRM_TSET0, DRM_REF_OWED]; omega), Blk.reg_put, Blk.reg_payOwed,
        Blk.reg_setF_ne _ _ _ (by simp only [DRM_TSET0, DRM_STATUS]; omega)]
    · have h := (Blk.Frame.refl s (freqWord k)).setF (x := DRM_STATUS_FC_PENDING) (v := 0) (.inl rfl)
      exact (h.payOwed (cls := 0)).setDram.showOwed (.inr (.inr (.inr rfl)))
  clear hu
  obtain ⟨hp, hnone, hq, htset, hF⟩ := hu0
  generalize hw : u.wn (DRM_TSET0 k) (setBits (u.rn (DRM_TSET0 k)) 19 19 1) = w
  have hw0 : w.fb DRM_STATUS_FC_PENDING = false ∧ w.dram.fc = none ∧ w.evq = s.evq ∧
      bits (w.rn (DRM_TSET0 k)) 22 20 = bits (s.rn (DRM_TSET0 k)) 22 20 ∧ s.Frame w (freqWord k) := by
    rw [← hw]
    refine ⟨?_, (congrArg Dram.fc (Blk.wn_dram u _ _)).trans hnone, (Blk.wn_evq u _ _).trans hq, ?_, hF.wn (.inr (.inl rfl))⟩
    · rw [Blk.fb, Blk.f, Blk.rn_wn_ne _ _ (by simp only [DRM_TSET0, DRM_STATUS]; omega)]
      exact hp
    · have := Blk.f_setF_ne u ⟨DRM_TSET0 k, 19, 19⟩ ⟨DRM_TSET0 k, 22, 20⟩ 1 le_rfl (by simp) (by simp) (by simp)
      exact this.trans (Blk.f_of_reg htset)
  clear hw hp hnone hq htset hF
  obtain ⟨hp, hnone, hq, hbits, hF⟩ := hw0
  obtain ⟨h1, h2, h3, h4, h5, h6, h7⟩ := w.loadSet_spec hk
  have hrn : (w.loadSet k).rn (DRM_TSET0 k) = w.rn (DRM_TSET0 k) :=
    Blk.rn_of_reg (h3 _ (by simp only [DRM_TSET0, DRM_STATUS]; omega) (by simp only [DRM_TSET0, DRM_LAT_BUDGET]; omega))
  have hrn2 : ((w.loadSet k).count 0x75).rn (DRM_TSET0 k) = w.rn (DRM_TSET0 k) :=
    (Blk.rn_count _ _ _ (cntWord_low (by simp only [DRM_TSET0]; omega))).trans hrn
  have hrate : ((w.loadSet k).count 0x75).setRate k = s.setRate k := Blk.setRate_of_reg (by rw [hrn2, hbits])
  rw [hrate]
  refine ⟨?_, ?_, ?_, ?_, ?_, ?_⟩
  · rw [Blk.f_raise, Blk.f_count _ _ _ (cntWord_low (by decide)), h1]
  · rw [Blk.fb, Blk.f_raise, Blk.f_count _ _ _ (cntWord_low (by decide))]
    exact h2.trans hp
  · rw [Blk.raise_dram, Blk.count_dram, h5, hnone]
  · rw [Blk.rn_raise, hrn2, Blk.tset, Blk.raise_dram, Blk.count_dram]
    exact h4
  · have := s.setRate_le k
    refine .of_left (Blk.raised_raise _ 0xB06 (by decide) (by omega) (by omega)) ?_
    rw [← hq, ← h6]
    exact Blk.evq_count_prefix _ _ _
  · have hl : s.Frame (w.loadSet k) (freqWord k) :=
      hF.trans ⟨fun a _ ha => h3 a (fun h => ha (.inl h)) fun h => ha (.inr (.inr (.inl h))), h7⟩
    exact hl.count.raise

/-- Settles O12: FC_GO by its two cases, the change by the state after the owed refreshes and after the set is loaded, and a failed tracking run. -/
theorem frequencyChanges : Obligations.FrequencyChanges := by
  unfold Obligations.FrequencyChanges
  intro s hs
  refine ⟨fun w hgo hcl => ?_, fun k f hfc ht hi => .of_on (f := frequencyChange (f.map fun p => (p.1.val, p.2.val))) rfl hs
      (frequencyChange_trained _ k.isLt hfc ht hi),
    fun t c ht => .of_on (f := wckTracking t (some c)) rfl hs (wckTracking_fails c.isLt ht)⟩
  have he : exec (.fcGo w) s = s.on (fcGo w.toNat) := congrArg (fun v => s.on (fcGo v)) (setBits_clear hcl)
  refine ⟨fun hv => .of_on he hs (fcGo_valid hgo hv), fun hv => .of_on he hs ?_⟩
  rw [fcGo_invalid hgo hv]
  refine ⟨?_, (Blk.OnlyRegs.refl s.blk (· = DRM_STATUS)).setF rfl⟩
  rw [Blk.fb_setF_same _ _ _ (by decide) (by decide)]
  rfl

end Sys2Proof.Machine
end

section
/-!
PROOFS. Accesses to image memory, tables and their swaps, rings, and memory copies (R34, R41, R136, R147, R150, R376 to R386, R476, R484, R485).
-/

namespace Sys2Proof.Machine

variable {r s : Blk}

/-! ### What an access to image memory leaves (R376 to R386) -/

/-- The words in which an access to image memory shows. -/
def memWord (a : Nat) : Prop := a = DRM_PWR_STATUS ∨ a = DRM_RD_STATUS

/-- What accesses of image memory take `r` to: the memory's own state, its status words, event counters and events. -/
structure Blk.Accessed (r s : Blk) : Prop where
  rest : ∃ regs evq dram, s = { r with regs := regs, evq := evq, dram := dram }
  regs : r.RegsBut s memWord
  events : r.evq <+: s.evq

namespace Blk.Accessed

theorem refl (r : Blk) : r.Accessed r := ⟨⟨r.regs, r.evq, r.dram, rfl⟩, .refl r _, List.prefix_rfl⟩

theorem trans {t : Blk} (h : r.Accessed s) (g : s.Accessed t) : r.Accessed t := by
  obtain ⟨⟨regs, evq, dram, e⟩, hr, hq⟩ := h
  obtain ⟨⟨regs', evq', dram', e'⟩, hr', hq'⟩ := g
  exact ⟨⟨regs', evq', dram', by rw [e', e]⟩, hr.trans hr', hq.trans hq'⟩

theorem setDram (h : r.Accessed s) {d : Dram} : r.Accessed { s with dram := d } := h.trans ⟨⟨s.regs, s.evq, d, rfl⟩, .refl s _, List.prefix_rfl⟩

theorem withDram (h : r.Accessed s) {f : Service → Dram → Dram} : r.Accessed (s.withDram f) := h.setDram

theorem setF (h : r.Accessed s) {x : Fld} {v : Nat} (hx : memWord x.addr) : r.Accessed (s.setF x v) :=
  h.trans ⟨⟨_, s.evq, s.dram, s.setF_eq x v⟩, (Blk.RegsBut.refl s _).setF hx, by rw [Blk.setF_evq]⟩

theorem count (h : r.Accessed s) {src n : Nat} : r.Accessed (s.count src n) := by
  obtain ⟨regs, evq, e⟩ := s.count_eq src n
  exact h.trans ⟨⟨regs, evq, s.dram, e⟩, (Blk.RegsBut.refl s _).count, s.evq_count_prefix src n⟩

theorem raise (h : r.Accessed s) {c i d0 d1 : Nat} : r.Accessed (s.raise c i d0 d1) :=
  h.trans ⟨⟨s.regs, _, s.dram, rfl⟩, .refl s _, s.evq_raise_prefix c i d0 d1⟩

theorem ite {c : Prop} [Decidable c] {t : Blk} (hs : r.Accessed s) (ht : r.Accessed t) : r.Accessed (if c then s else t) := by
  split
  · exact hs
  · exact ht

theorem request (h : r.Accessed s) {c p cls bank : Nat} {write : Bool} : r.Accessed (s.request c p cls bank write) := by
  unfold Blk.request
  extract_lets d1 s1 x s2 d2 s3 s4 s5
  have h1 : r.Accessed s1 := h.setDram
  have h2 : r.Accessed s2 := by
    unfold s2 x
    split
    · exact (h1.setF (.inl rfl)).setF (.inl rfl)
    · exact (h1.setF (.inl rfl)).setF (.inl rfl)
  have h3 : r.Accessed s3 := h2.setDram.ite (h1.setF (.inl rfl))
  have h5 : r.Accessed s5 := h3.withDram.count.ite h3.withDram
  exact h5.withDram

theorem rowDisturb (h : r.Accessed s) {p : Nat} {w : Nat × Nat × Nat × Nat} : r.Accessed (s.rowDisturb p w) := by
  unfold Blk.rowDisturb
  extract_lets s1 k s2 s3
  have h1 : r.Accessed s1 := ite (h.setDram : r.Accessed (s.throttle p w)) h
  have h2 : r.Accessed s2.showThrot := h1.withDram.setF (.inr rfl)
  exact (h2.setF (.inr rfl)).count.raise

theorem activate (h : r.Accessed s) {p a : Nat} : r.Accessed (s.activate p a) := by
  unfold Blk.activate
  extract_lets th w key q cross t d s1
  have h1 : r.Accessed s1 := h.setDram
  exact h.ite (h1.rowDisturb.ite h1)

theorem burst (h : r.Accessed s) {p a : Nat} {write : Bool} : r.Accessed (Blk.burst p write s a) :=
  h.raise.ite h.request.withDram.activate

theorem access (h : r.Accessed s) {p a n : Nat} {write : Bool} : r.Accessed (s.access p a n write) :=
  List.foldlRecOn (motive := fun t => r.Accessed t) _ _ h fun _ ht _ _ => ht.burst

theorem frame (h : r.Accessed s) {p : Nat → Prop} (hp : ∀ a, memWord a → p a) : r.Frame s p := by
  obtain ⟨⟨regs, evq, dram, e⟩, hr, -⟩ := h
  refine ⟨hr.mono hp, ?_⟩
  rw [e]
  exact ⟨fun _ => rfl, rfl, rfl⟩

end Blk.Accessed

theorem Blk.accessed_access (s : Blk) (p a n : Nat) (write : Bool) : s.Accessed (s.access p a n write) := (Blk.Accessed.refl s).access

/-! ### Held values and tables (R9, R34, R136, R147, R150) -/

theorem Blk.lastWritten_hold_same (s : Blk) (a : Nat) (w : Word) (b : Bnd) : (s.hold a w b).lastWritten a = w := by
  simp [Blk.lastWritten, Blk.hold]

theorem Blk.lastWritten_hold_ne (s : Blk) {a c : Nat} (w : Word) (b : Bnd) (h : c ≠ a) : (s.hold a w b).lastWritten c = s.lastWritten c := by
  have hf (l : List Held) : ((l.filter fun h => h.addr != a || !h.done.isEmpty).find? fun h => h.addr == c) = l.find? fun h => h.addr == c := by
    rw [List.find?_filter]
    congr 1
    funext e
    by_cases he : e.addr = c <;> simp [he, h]
  simp only [Blk.lastWritten, Blk.hold, List.reverse_append, List.reverse_singleton, List.singleton_append,
    List.find?_cons_of_neg (p := fun h : Held => h.addr == c) (a := ⟨a, w, b, []⟩) (by simpa using h.symm), ← List.filter_reverse, hf]
  rfl

theorem Blk.putNozzle_of_alone (h : s.agrees = false) (a : Nat) (w : Word) : s.putNozzle a w = s.hold a w .line := by
  rw [Blk.putNozzle, if_neg (by rw [h]; decide)]

theorem Blk.toneGet_tonePut_same (s : Blk) (bank : Bool) (h i v : Nat) : (s.tonePut bank h i v).toneGet bank h i = v := Tab.get_put_same _ _ _ _

/-- The two banks of the tone curves lie apart. -/
theorem toneKey_not_ne (bank : Bool) {h i j : Nat} (hi : i < 1024) (hj : j < 1024) : toneKey bank h j ≠ toneKey (!bank) h i := by
  cases bank <;> simp only [toneKey, b2n, Bool.not_true, Bool.not_false, if_true, if_false, reduceCtorEq] <;> omega

theorem Blk.toneGet_tonePut_not (s : Blk) (bank : Bool) {h i j : Nat} (v : Nat) (hi : i < 1024) (hj : j < 1024) :
    (s.tonePut (!bank) h i v).toneGet bank h j = s.toneGet bank h j := Tab.get_put_ne _ _ _ (toneKey_not_ne bank hi hj)

theorem Blk.thrGet_thrPut_same (s : Blk) (bank : Bool) (row n : Nat) (x : Word) : (s.thrPut bank row n x).thrGet bank row n = x :=
  Tab.get_put_same _ _ _ _

/-- So do those of the threshold array. -/
theorem thrKey_not_ne (bank : Bool) {r n q m : Nat} (hr : r < 128) (hn : n < 512) (hq : q < 128) (hm : m < 512) :
    thrKey bank r n ≠ thrKey (!bank) q m := by
  cases bank <;> simp only [thrKey, b2n, Bool.not_true, Bool.not_false, if_true, if_false, reduceCtorEq] <;> omega

theorem Blk.thrGet_thrPut_not (s : Blk) (bank : Bool) {r n q m : Nat} (x : Word) (hr : r < 128) (hn : n < 512) (hq : q < 128) (hm : m < 512) :
    (s.thrPut (!bank) q m x).thrGet bank r n = s.thrGet bank r n := Tab.get_put_ne _ _ _ (thrKey_not_ne bank hr hn hq hm)

/-- What a refused write or swap of a head's curves shows. -/
theorem Blk.toneRej_spec (s : Blk) {h a : Nat} (hh : h < 256) (ha : a < 2 ^ 24) :
    (s.toneRej h a).fb CMP_STATUS_TBL_REJ = true ∧ s.Raised (s.toneRej h a) 0x304 h 0 a ∧ (s.toneRej h a).cmp = s.cmp ∧
      s.RegsBut (s.toneRej h a) (· = CMP_STATUS) ∧ s.Calm (s.toneRej h a) := by
  have hF : s.Frame (s.toneRej h a) (· = CMP_STATUS) := ((Blk.Frame.refl s (· = CMP_STATUS)).setF rfl).raise
  exact ⟨Blk.fb_setF_same s _ _ (by decide) (by decide), .raise (by simp) _ hh (by decide) ha, by simp [Blk.toneRej], hF⟩

theorem Blk.thrRej_spec (s : Blk) {a : Nat} (ha : a < 2 ^ 24) :
    (s.thrRej a).fb SCR_STATUS_WR_REJ = true ∧ s.Raised (s.thrRej a) 0x304 0 1 a ∧ (s.thrRej a).cmp = s.cmp ∧
      s.RegsBut (s.thrRej a) (· = SCR_STATUS) ∧ s.Calm (s.thrRej a) := by
  have hF : s.Frame (s.thrRej a) (· = SCR_STATUS) := ((Blk.Frame.refl s (· = SCR_STATUS)).setF rfl).raise
  exact ⟨Blk.fb_setF_same s _ _ (by decide) (by decide), .raise (by simp) _ (by decide) (by decide) ha, by simp [Blk.thrRej], hF⟩

/-- Settles O28. -/
theorem tablesAndSwaps : Obligations.TablesAndSwaps := by
  intro s hs
  refine ⟨fun h i w ha => ?_, fun h => ⟨fun hp => ⟨?_, fun i w => ?_⟩, fun hp i w c hc => ?_⟩, fun hp => ⟨?_, fun w => ?_, fun u k w => ?_⟩,
    fun hp a w c hc => ?_⟩
  · refine .of_on (f := fun b => b.putNozzle (nozAddr h i) w) rfl hs ?_
    rw [Blk.putNozzle_of_alone ha]
    exact ⟨Blk.lastWritten_hold_same _ _ _ _, fun a h => Blk.lastWritten_hold_ne _ _ _ h, rfl, .refl _⟩
  · refine .of_on (f := toneSwap h) rfl hs ?_
    rw [toneSwap, if_neg (by rw [hp]; decide)]
    have hF : s.blk.Frame (s.blk.setF (CMP_HEAD_TONE_PENDING h) 1) (· = CMP_HEAD_TONE h) := (Blk.Frame.refl s.blk _).setF rfl
    exact ⟨Blk.fb_setF_same s.blk _ _ (by simp) (by simp), by simp, hF.put⟩
  · refine .of_on (f := toneWrite h i w.toNat) rfl hs ?_
    rw [toneWrite, if_neg (by rw [hp]; decide)]
    exact ⟨Blk.toneGet_tonePut_same _ _ _ _ _, fun j hj => Blk.toneGet_tonePut_not _ _ _ i.isLt hj, rfl, .refl _⟩
  · have hh := h.isLt
    have hi := i.isLt
    obtain rfl | rfl := hc
    · refine .of_on (f := toneSwap h) rfl hs ?_
      rw [toneSwap, if_pos hp]
      obtain ⟨hf, hr, hrest⟩ := s.blk.toneRej_spec (h := h) (a := CMP_HEAD_TONE h) (by omega) (by simp only [CMP_HEAD_TONE]; omega)
      exact ⟨hf, ⟨_, hr⟩, hrest⟩
    · refine .of_on (f := toneWrite h i w.toNat) rfl hs ?_
      rw [toneWrite, if_pos hp]
      obtain ⟨hf, hr, hrest⟩ := s.blk.toneRej_spec (h := h) (a := 0x058000 + h * 1024 + i) (by omega) (by omega)
      exact ⟨hf, ⟨_, hr⟩, hrest⟩
  · refine .of_on (f := thrSwap) rfl hs ?_
    rw [thrSwap, if_neg (by rw [hp]; decide)]
    exact ⟨Blk.fb_setF_same s.blk _ _ (by decide) (by decide), (Blk.OnlyRegs.refl _ _).setF rfl⟩
  · refine .of_on (f := thrSize w) rfl hs ?_
    rw [thrSize, if_neg (by rw [hp]; decide)]
    exact ⟨Blk.reg_setReg_same _ _ _, (Blk.OnlyRegs.refl _ _).setReg rfl⟩
  · refine .of_on (f := thrWin (4 * u + k) w) rfl hs ?_
    have hn : 4 * u.val + k.val < 512 := by omega
    have hk : (4 * u.val + k.val) % 4 = 3 ↔ k = 3 := by rw [Fin.ext_iff]; omega
    rw [thrWin, if_neg (by rw [hp]; decide)]
    refine ⟨?_, fun r n hr hn' => Blk.thrGet_thrPut_not _ _ _ hr hn' (s.blk.f_lt _) hn, rfl, .refl _⟩
    rw [Blk.thrGet_thrPut_same]
    simp only [hk]
  · obtain rfl | rfl := hc
    · refine .of_on (f := thrSwap) rfl hs ?_
      rw [thrSwap, if_pos hp]
      obtain ⟨hf, hr, hrest⟩ := s.blk.thrRej_spec (a := SCR_CTRL) (by decide)
      exact ⟨hf, ⟨_, hr⟩, hrest⟩
    · cases a with
      | win u k =>
        refine .of_on (f := thrWin (4 * u + k) w) rfl hs ?_
        rw [thrWin, if_pos hp]
        obtain ⟨hf, hr, hrest⟩ := s.blk.thrRej_spec (a := 0x061000 + (4 * u + k)) (by omega)
        exact ⟨hf, ⟨_, hr⟩, hrest⟩
      | size =>
        refine .of_on (f := thrSize w) rfl hs ?_
        rw [thrSize, if_pos hp]
        obtain ⟨hf, hr, hrest⟩ := s.blk.thrRej_spec (a := SCR_SHADOW_SIZE) (by decide)
        exact ⟨hf, ⟨_, hr⟩, hrest⟩

/-! ### Rings (R41, R484, R485) -/

theorem Blk.catchUp_of_none (h : s.twn.wait = []) : s.catchUp = s := by rw [Blk.catchUp, h]; rfl

theorem Blk.idxErr_spec (s : Blk) {k : Nat} {w : Word} (hk : k < 256) :
    (s.idxErr k w).fb (RING_STATUS_IDX_ERR k) = true ∧ s.Raised (s.idxErr k w) 0xE02 k k w.toNat ∧
      s.RegsBut (s.idxErr k w) (· = RING_STATUS k) ∧ s.Calm (s.idxErr k w) := by
  have hF : s.Frame (s.idxErr k w) (· = RING_STATUS k) := ((Blk.Frame.refl s (· = RING_STATUS k)).setF rfl).raise
  exact ⟨Blk.fb_setF_same s _ _ (by simp) (by simp), .raise (by simp) _ hk (by omega) w.isLt, hF⟩

/-- A write of RING_CFG that changes EN. -/
theorem ringCfg_of_ne {k : Nat} {w : Word} (h : s.ringOn k ≠ bitOf w.toNat 23) :
    ringCfg k w s =
      let t := (s.setF (RING_CFG_SIZE_LOG2 k) (w.toNat % 32)).setF (RING_CFG_EN k) (b2n (bitOf w.toNat 23))
      if bitOf w.toNat 23 then (t.wn (RING_PROD k) 0).wn (RING_CONS k) 0 else t := by
  unfold ringCfg
  cases ho : s.ringOn k <;> cases hn : bitOf w.toNat 23 <;> simp_all

/-- Settles O29. -/
theorem ringIndices : Obligations.RingIndices := by
  intro s k w hs
  have hk := k.isLt
  refine ⟨fun ho hn => ?_, fun ho hn => ?_, fun hp hw => ⟨fun hle => ?_, fun hlt => ?_⟩, fun hc => ⟨fun hle => ?_, fun hlt => ?_⟩⟩
  · refine .of_on (f := ringCfg k w) rfl hs ?_
    rw [ringCfg_of_ne (by rw [ho, hn]; decide), hn, if_pos rfl]
    refine ⟨?_, ?_, ?_, ?_, ((((Blk.OnlyRegs.refl _ _).setF (.inl rfl)).setF (.inl rfl)).wn (.inr (.inl rfl))).wn (.inr (.inr rfl))⟩
    · rw [Blk.ringOn, Blk.fb, Blk.f_wn_ne _ _ _ _ (by simp), Blk.f_wn_ne _ _ _ _ (by simp), Blk.f_setF_same _ _ _ (by simp) (by simp)]
      rfl
    · rw [Blk.f_wn_ne _ _ _ _ (by simp), Blk.f_wn_ne _ _ _ _ (by simp), Blk.f_setF_ne _ _ _ _ (by simp) (by simp) (by simp) (by simp),
        Blk.f_setF_same _ _ _ (by simp) (by simp)]
      simp
    · rw [Blk.rn_wn_ne _ _ (by simp), Blk.rn_wn_same]
      rfl
    · rw [Blk.rn_wn_same]
      rfl
  · refine .of_on (f := ringCfg k w) rfl hs ?_
    rw [ringCfg_of_ne (by rw [ho, hn]; decide), hn, if_neg (by decide)]
    refine ⟨by rw [Blk.ringOn, Blk.fb_setF_same _ _ _ (by simp) (by simp)]; rfl, ?_, ((Blk.OnlyRegs.refl s.blk (· = RING_CFG k)).setF rfl).setF rfl⟩
    rw [Blk.f_setF_ne _ _ _ _ (by simp) (by simp) (by simp) (by simp), Blk.f_setF_same _ _ _ (by simp) (by simp)]
    simp
  · refine .of_on (f := ringProd k w) rfl hs ?_
    rw [ringProd, if_neg (by rw [hp]; decide), if_neg (Nat.not_lt.2 hle), Blk.catchUp_of_none (s := s.blk.setReg (RING_PROD k) w) hw]
    exact ⟨Blk.reg_setReg_same _ _ _, (Blk.OnlyRegs.refl _ _).setReg rfl⟩
  · refine .of_on (f := ringProd k w) rfl hs ?_
    rw [ringProd, if_neg (by rw [hp]; decide), if_pos hlt]
    exact s.blk.idxErr_spec (by omega)
  · refine .of_on (f := ringCons k w) rfl hs ?_
    rw [ringCons, if_neg (by rw [hc]; decide), if_neg (Nat.not_lt.2 hle)]
    exact ⟨Blk.reg_setReg_same _ _ _, (Blk.OnlyRegs.refl _ _).setReg rfl⟩
  · refine .of_on (f := ringCons k w) rfl hs ?_
    rw [ringCons, if_neg (by rw [hc]; decide), if_pos hlt]
    exact s.blk.idxErr_spec (by omega)

/-! ### Runs of bytes in image memory -/

theorem Blk.memRead_memWrites (l : List Byte) (s : Blk) (a b : Nat) :
    (s.memWrites a l).memRead b = if a ≤ b ∧ b < a + l.length then l.getD (b - a) 0 else s.memRead b := by
  induction l generalizing s a with
  | nil => simp [Blk.memWrites]
  | cons x l ih =>
    rw [Blk.memWrites, ih, Blk.memRead_memWrite, List.length_cons]
    obtain hlt | rfl | hgt := Nat.lt_trichotomy b a
    · rw [if_neg (by omega), if_neg (by omega), if_neg (by omega)]
    · rw [if_neg (by omega), if_pos rfl, if_pos (by omega), Nat.sub_self, List.getD_cons_zero]
    · obtain ⟨k, rfl⟩ := Nat.exists_eq_add_of_lt hgt
      rw [show a + k + 1 - a = k + 1 by omega, List.getD_cons_succ, show a + k + 1 - (a + 1) = k by omega]
      by_cases hk : k < l.length
      · rw [if_pos (by omega), if_pos (by omega)]
      · rw [if_neg (by omega), if_neg (by omega), if_neg (by omega)]

theorem Blk.memWrites_eq (l : List Byte) (s : Blk) (a : Nat) : s.memWrites a l = { s with mem := (s.memWrites a l).mem } := by
  induction l generalizing s a with
  | nil => rfl
  | cons x l ih => exact ih _ _

theorem Blk.Accessed.mem_eq (h : r.Accessed s) : s.mem = r.mem := by
  obtain ⟨⟨regs, evq, dram, e⟩, -, -⟩ := h
  rw [e]

theorem Blk.Accessed.memRead (h : r.Accessed s) (a : Nat) : s.memRead a = r.memRead a := by rw [Blk.memRead, h.mem_eq, Blk.memRead]

/-- What a port writes in range is there afterwards, and nothing else has changed in image memory. -/
theorem Blk.memRead_imgWrite (s : Blk) (q a : Nat) {bs : List Byte} (h : a + bs.length ≤ s.capacity) (b : Nat) :
    (s.imgWrite q a bs).memRead b = if a ≤ b ∧ b < a + bs.length then bs.getD (b - a) 0 else s.memRead b := by
  rw [Blk.imgWrite, List.take_of_length_le (by omega), Blk.memRead_memWrites, (s.accessed_access _ _ _ _).memRead]

/-- Beside that it shows in the memory's status words, its counters and events. -/
theorem Blk.regsBut_imgWrite (s : Blk) (q a : Nat) (bs : List Byte) : s.RegsBut (s.imgWrite q a bs) memWord := by
  rw [Blk.imgWrite, Blk.memWrites_eq]
  exact (s.accessed_access q a bs.length true).regs

/-! ### Bytes of register words -/

/-- Lists of one length each, joined: entry `i` lies in the list `i / k`. -/
theorem getD_flatMap_range {α : Type} {g : Nat → List α} {k : Nat} (hg : ∀ i, (g i).length = k) (d : α) (n : Nat) {i : Nat} (hi : i < n * k) :
    ((List.range n).flatMap g).getD i d = (g (i / k)).getD (i % k) d := by
  have hlen (m : Nat) : ((List.range m).flatMap g).length = m * k := by simp [List.length_flatMap, hg]
  induction n with
  | zero => omega
  | succ n ih =>
    rw [List.range_succ, List.flatMap_append, List.flatMap_singleton]
    by_cases h : i < n * k
    · rw [List.getD_append _ _ _ _ (by rw [hlen]; exact h), ih h]
    · have hd : i / k = n := Nat.div_eq_of_lt_le (Nat.not_lt.1 h) hi
      have hm : i % k = i - n * k := by rw [← hd, Nat.mod_def, Nat.mul_comm]
      rw [List.getD_append_right _ _ _ _ (by rw [hlen]; omega), hlen, hd, hm]

theorem length_toLE (n v : Nat) : (toLE v n).length = n := by
  induction n generalizing v with
  | zero => rfl
  | succ n ih => rw [toLE, List.length_cons, ih]

theorem toLE_leNat (l : List Byte) : toLE (leNat l) l.length = l := by
  induction l with
  | nil => rfl
  | cons x l ih =>
    have hx := x.isLt
    have h0 : BitVec.ofNat 8 (x.toNat + 256 * leNat l) = x := BitVec.eq_of_toNat_eq (by rw [BitVec.toNat_ofNat]; omega)
    rw [leNat, List.length_cons, toLE, h0, show (x.toNat + 256 * leNat l) / 256 = leNat l by omega, ih]

theorem leNat_lt (l : List Byte) : leNat l < 256 ^ l.length := by
  induction l with
  | nil => decide
  | cons x l ih =>
    have hx := x.isLt
    rw [leNat, List.length_cons, Nat.pow_succ]
    omega

theorem length_slice (l : List Byte) (i n : Nat) : (slice l i n).length = n := by simp [slice]

theorem getD_slice (l : List Byte) {i n k : Nat} (hk : k < n) : (slice l i n).getD k 0 = l.getD (i + k) 0 := by
  rw [slice, List.getD_eq_getElem _ _ (by simpa using hk), List.getElem_map, List.getElem_range]

/-- Words written one after the other, at addresses that differ. -/
theorem Blk.rn_foldl_wn {a : Nat → Nat} (ha : ∀ i j, a i = a j → i = j) (v : Nat → Nat) (n : Nat) (s : Blk) {k : Nat} (hk : k < n) :
    ((List.range n).foldl (fun s i => s.wn (a i) (v i)) s).rn (a k) = v k % 2 ^ 24 := by
  induction n with
  | zero => omega
  | succ n ih =>
    rw [List.range_succ, List.foldl_append, List.foldl_cons, List.foldl_nil]
    by_cases h : k = n
    · rw [h, Blk.rn_wn_same]
    · rw [Blk.rn_wn_ne _ _ fun e => h (ha _ _ e), ih (by omega)]

/-- They leave every field but the registers, and every other word. -/
theorem Blk.onlyRegs_foldl_wn {a : Nat → Nat} (v : Nat → Nat) (l : List Nat) (ha : ∀ i ∈ l, p (a i)) (s : Blk) :
    s.OnlyRegs (l.foldl (fun s i => s.wn (a i) (v i)) s) p :=
  List.foldlRecOn (motive := fun t => s.OnlyRegs t p) l _ (.refl s p) fun _ ht i hi => ht.wn (ha i hi)

/-! ### Copies between image memory and a path's buffer (R476) -/

theorem onPath_inj (q : Path) {a b : Nat} (h : onPath q a = onPath q b) : a = b := by
  cases q
  · exact h
  · exact Nat.add_right_cancel h

theorem Blk.getD_mbuf (s : Blk) (q : Path) {i : Nat} (hi : i < 192) :
    (s.mbuf q).getD i 0 = (toLE (s.rn (onPath q (RING_MBUF (i / 3)))) 3).getD (i % 3) 0 :=
  getD_flatMap_range (fun _ => length_toLE _ _) _ _ hi

theorem Blk.length_mbuf (s : Blk) (q : Path) : (s.mbuf q).length = 192 := by simp [Blk.mbuf, List.length_flatMap, length_toLE]

theorem Blk.mbuf_of_reg {q : Path} (h : ∀ i, i < 64 → s.reg (onPath q (RING_MBUF i)) = r.reg (onPath q (RING_MBUF i))) : s.mbuf q = r.mbuf q :=
  congrArg List.flatten (List.map_congr_left fun i hi => by rw [Blk.rn_of_reg (h i (List.mem_range.1 hi))])

/-- Bytes put into a path's buffer are the first that it holds. -/
theorem Blk.getD_mbuf_putMbuf (s : Blk) (q : Path) {bs : List Byte} {i : Nat} (hi : i < bs.length) (hl : bs.length ≤ 192) :
    ((s.putMbuf q bs).mbuf q).getD i 0 = bs.getD i 0 := by
  rw [Blk.getD_mbuf _ _ (by omega), Blk.putMbuf]
  generalize hall : bs ++ (s.mbuf q).drop bs.length = all
  rw [Blk.rn_foldl_wn (a := fun i => onPath q (RING_MBUF i)) (fun i j h => by have := onPath_inj q h; simp only [RING_MBUF] at this; omega) _ _ _ (by omega)]
  have hlt := leNat_lt (slice all (3 * (i / 3)) 3)
  rw [length_slice] at hlt
  have hle := toLE_leNat (slice all (3 * (i / 3)) 3)
  rw [length_slice] at hle
  rw [Nat.mod_eq_of_lt (b := 2 ^ 24) hlt, hle, getD_slice _ (by omega), Nat.div_add_mod, ← hall, List.getD_append _ _ _ _ hi]

theorem Blk.onlyRegs_putMbuf (s : Blk) (q : Path) (bs : List Byte) : s.OnlyRegs (s.putMbuf q bs) fun a => ∃ i, i < 64 ∧ a = onPath q (RING_MBUF i) := by
  unfold Blk.putMbuf
  extract_lets all
  exact Blk.onlyRegs_foldl_wn (a := fun i => onPath q (RING_MBUF i)) _ _ (fun i hi => ⟨i, List.mem_range.1 hi, rfl⟩) s

/-- The words of a path's copy of a register below the counters' or of the second path lie beside the counters. -/
theorem cntWord_onPath (q : Path) {a : Nat} (h : 0x180102 ≤ a) : cntWord (onPath q a) = false := by
  cases q
  · exact cntWord_high h
  · exact cntWord_high (h.trans (Nat.le_add_right _ _))

theorem onPath_ge (q : Path) (a : Nat) : a ≤ onPath q a := by cases q <;> simp [onPath]

theorem not_memWord_onPath (q : Path) {a : Nat} (h : 0x180102 ≤ a) : ¬memWord (onPath q a) := by
  have := onPath_ge q a
  simp only [memWord, DRM_PWR_STATUS, DRM_RD_STATUS]
  omega

/-- A path's word after an access to image memory. -/
theorem Blk.Accessed.reg_onPath (h : r.Accessed s) (q : Path) {a : Nat} (ha : 0x180102 ≤ a) : s.reg (onPath q a) = r.reg (onPath q a) :=
  h.regs _ (cntWord_onPath q ha) (not_memWord_onPath q ha)

theorem Blk.capacity_of_reg (h : s.reg DRM_CFG = r.reg DRM_CFG) : s.capacity = r.capacity := by
  rw [Blk.capacity, Blk.f_of_reg h, Blk.fb_of_reg h, Blk.capacity]

/-- A copy under way: its direction and BUSY are shown. -/
def Blk.copying (s : Blk) (q : Path) (store : Bool) : Blk := (s.setF (RING_MCTRL_OP.on q) (b2n store)).setF (RING_MCTRL_BUSY.on q) 1

theorem Blk.fb_copying (s : Blk) (q : Path) (store : Bool) : (s.copying q store).fb (RING_MCTRL_BUSY.on q) = true :=
  Blk.fb_setF_same _ _ _ (by simp [Fld.on]) (by simp [Fld.on])

theorem Blk.onlyRegs_copying (s : Blk) (q : Path) (store : Bool) : s.OnlyRegs (s.copying q store) (· = onPath q RING_MCTRL) :=
  ((Blk.OnlyRegs.refl s (· = onPath q RING_MCTRL)).setF rfl).setF rfl

/-- A copy in range starts: all its bytes are copied. -/
theorem copyGo_of_fit {q : Path} (store : Bool) (hb : s.fb (RING_MCTRL_BUSY.on q) = false)
    (hc : s.val (onPath q RING_MADDR) 2 + min 191 (s.f (RING_MCTRL_COUNT_M1.on q)) + 1 ≤ s.capacity) :
    ∃ t acc, copyGo q store .none s = { t with acc := acc } ∧
      t = if store then (s.copying q store).imgWrite 12 (s.val (onPath q RING_MADDR) 2)
            (((s.copying q store).mbuf q).take (min 191 (s.f (RING_MCTRL_COUNT_M1.on q)) + 1))
          else
            ((s.copying q store).access 12 (s.val (onPath q RING_MADDR) 2) (min 191 (s.f (RING_MCTRL_COUNT_M1.on q)) + 1)).putMbuf q
              ((s.copying q store).imgRead (s.val (onPath q RING_MADDR) 2) (min 191 (s.f (RING_MCTRL_COUNT_M1.on q)) + 1)) := by
  rw [copyGo, if_neg (by rw [hb]; decide)]
  extract_lets n a m s1 t s2 s3
  have hm : m = n := Nat.min_eq_left (by omega)
  have h3 : s3 = s2 := if_neg (by omega)
  have h2 : s2 = if store then (s.copying q store).imgWrite 12 a (((s.copying q store).mbuf q).take n)
      else ((s.copying q store).access 12 a n).putMbuf q ((s.copying q store).imgRead a n) := by
    unfold s2 t
    rw [hm]
    cases store
    · simp [Blk.ecc, Blk.bad, s1, Blk.copying]
    · rfl
  exact ⟨s3, _, rfl, h3.trans h2⟩

theorem Blk.getD_imgRead (s : Blk) {a n i : Nat} (hi : i < n) (h : a + n ≤ s.capacity) : (s.imgRead a n).getD i 0 = s.memRead (a + i) := by
  rw [Blk.imgRead, List.getD_eq_getElem _ _ (by simpa using hi), List.getElem_map, List.getElem_range, if_pos (by omega)]

theorem Blk.memRead_of_mem (h : s.mem = r.mem) (a : Nat) : s.memRead a = r.memRead a := by rw [Blk.memRead, h, Blk.memRead]

theorem Blk.capacity_copying (s : Blk) (q : Path) (store : Bool) : (s.copying q store).capacity = s.capacity :=
  Blk.capacity_of_reg ((s.onlyRegs_copying q store).2 _ (by cases q <;> decide))

/-- A copy ends: BUSY falls, and ERR is set where it failed. -/
theorem copyEnd_spec {q : Path} (hb : s.fb (RING_MCTRL_BUSY.on q) = true) (err : Bool) :
    (copyEnd q err s).fb (RING_MCTRL_BUSY.on q) = false ∧
      (copyEnd q err s).fb (RING_MCTRL_ERR.on q) = (err || alook false s.acc.copies (onPath q 0) || s.fb (RING_MCTRL_ERR.on q)) ∧
      s.OnlyRegs (copyEnd q err s) (· = onPath q RING_MCTRL) := by
  have hne (t : Blk) (v : Nat) : (t.setF (RING_MCTRL_ERR.on q) v).fb (RING_MCTRL_BUSY.on q) = t.fb (RING_MCTRL_BUSY.on q) :=
    Blk.fb_setF_ne _ _ _ _ (by simp [Fld.on]) (by simp [Fld.on]) (by simp [Fld.on]) (by simp [Fld.on])
  have hbusy : (s.setF (RING_MCTRL_BUSY.on q) 0).fb (RING_MCTRL_BUSY.on q) = false := by
    rw [Blk.fb_setF_same _ _ _ (by simp [Fld.on]) (by simp [Fld.on]), Nat.zero_mod]
    rfl
  have hF : s.OnlyRegs (s.setF (RING_MCTRL_BUSY.on q) 0) (· = onPath q RING_MCTRL) := (Blk.OnlyRegs.refl s (· = onPath q RING_MCTRL)).setF rfl
  rw [copyEnd, if_neg (by rw [hb]; decide)]
  dsimp only
  rw [Blk.setF_acc]
  by_cases he : (err || alook false s.acc.copies (onPath q 0)) = true
  · rw [if_pos he, he, Bool.true_or]
    refine ⟨(hne _ _).trans hbusy, ?_, hF.setF rfl⟩
    rw [Blk.fb_setF_same _ _ _ (by simp [Fld.on]) (by simp [Fld.on])]
    simp [Fld.on]
  · rw [if_neg he, Bool.eq_false_of_not_eq_true he]
    exact ⟨hbusy, by rw [Blk.fb_setF_ne _ _ _ _ (by simp [Fld.on]) (by simp [Fld.on]) (by simp [Fld.on]) (by simp [Fld.on]), Bool.false_or], hF⟩

/-- A LOAD in range. -/
theorem copyGo_load_spec {q : Path} (hb : s.fb (RING_MCTRL_BUSY.on q) = false)
    (hc : s.val (onPath q RING_MADDR) 2 + min 191 (s.f (RING_MCTRL_COUNT_M1.on q)) + 1 ≤ s.capacity) :
    (copyGo q false .none s).fb (RING_MCTRL_BUSY.on q) = true ∧ (∀ a, (copyGo q false .none s).memRead a = s.memRead a) ∧
      ∀ i, i < min 191 (s.f (RING_MCTRL_COUNT_M1.on q)) + 1 →
        ((copyGo q false .none s).mbuf q).getD i 0 = s.memRead (s.val (onPath q RING_MADDR) 2 + i) := by
  obtain ⟨t, acc, e, ht⟩ := copyGo_of_fit false hb hc
  rw [if_neg (by decide)] at ht
  rw [e]
  generalize hn : min 191 (s.f (RING_MCTRL_COUNT_M1.on q)) + 1 = n at *
  generalize s.val (onPath q RING_MADDR) 2 = a at *
  have hC := s.onlyRegs_copying q false
  have hA := (s.copying q false).accessed_access 12 a n false
  have hP := Blk.onlyRegs_putMbuf ((s.copying q false).access 12 a n) q ((s.copying q false).imgRead a n)
  have hlen : ((s.copying q false).imgRead a n).length = n := by simp [Blk.imgRead]
  have hmem : (((s.copying q false).access 12 a n).putMbuf q ((s.copying q false).imgRead a n)).mem = s.mem := by
    rw [hP.1, hA.mem_eq, hC.1]
  have hbytes := fun i (hi : i < n) =>
    ((s.copying q false).access 12 a n).getD_mbuf_putMbuf q (bs := (s.copying q false).imgRead a n) (i := i) (by omega) (by omega)
  rw [← ht] at hP hmem hbytes
  refine ⟨?_, fun b => Blk.memRead_of_mem hmem b, fun i hi => ?_⟩
  · rw [← s.fb_copying q false]
    refine (Blk.fb_of_reg (s := t) (hP.2 _ ?_)).trans (Blk.fb_of_reg (hA.reg_onPath q (by decide)))
    rintro ⟨i, -, h⟩
    have := onPath_inj q h
    simp only [RING_MCTRL, RING_MBUF] at this
    omega
  · refine (hbytes i hi).trans ?_
    rw [Blk.getD_imgRead _ hi (by rw [Blk.capacity_copying]; omega)]
    exact Blk.memRead_of_mem (by rw [hC.1]) _

/-- A STORE in range. -/
theorem copyGo_store_spec {q : Path} (hb : s.fb (RING_MCTRL_BUSY.on q) = false)
    (hc : s.val (onPath q RING_MADDR) 2 + min 191 (s.f (RING_MCTRL_COUNT_M1.on q)) + 1 ≤ s.capacity) :
    (copyGo q true .none s).fb (RING_MCTRL_BUSY.on q) = true ∧ (copyGo q true .none s).mbuf q = s.mbuf q ∧
      ∀ a, (copyGo q true .none s).memRead a =
        if s.val (onPath q RING_MADDR) 2 ≤ a ∧ a ≤ s.val (onPath q RING_MADDR) 2 + min 191 (s.f (RING_MCTRL_COUNT_M1.on q)) then
          (s.mbuf q).getD (a - s.val (onPath q RING_MADDR) 2) 0
        else s.memRead a := by
  obtain ⟨t, acc, e, ht⟩ := copyGo_of_fit true hb hc
  rw [if_pos rfl] at ht
  rw [e]
  generalize hn : min 191 (s.f (RING_MCTRL_COUNT_M1.on q)) = n at *
  generalize s.val (onPath q RING_MADDR) 2 = a at *
  have hC := s.onlyRegs_copying q true
  have hbuf : (s.copying q true).mbuf q = s.mbuf q :=
    Blk.mbuf_of_reg fun i _ => hC.2 _ fun h => by have := onPath_inj q h; simp only [RING_MCTRL, RING_MBUF] at this; omega
  have hI := (s.copying q true).regsBut_imgWrite 12 a (((s.copying q true).mbuf q).take (n + 1))
  have hlen : (((s.copying q true).mbuf q).take (n + 1)).length = n + 1 := by rw [List.length_take, Blk.length_mbuf]; omega
  have hread := (s.copying q true).memRead_imgWrite 12 a (bs := ((s.copying q true).mbuf q).take (n + 1))
    (by rw [hlen, Blk.capacity_copying]; omega)
  rw [← ht] at hI hread
  have hreg (b : Nat) (hb : 0x180102 ≤ b) := hI _ (cntWord_onPath q hb) (not_memWord_onPath q hb)
  refine ⟨?_, ?_, fun b => ?_⟩
  · rw [← s.fb_copying q true]
    exact Blk.fb_of_reg (hreg RING_MCTRL (by decide))
  · rw [← hbuf]
    exact Blk.mbuf_of_reg fun i _ => hreg _ (by simp only [RING_MBUF]; omega)
  · refine (hread b).trans ?_
    rw [hlen, hbuf, Blk.memRead_of_mem (r := s) (by rw [hC.1])]
    by_cases h : a ≤ b ∧ b ≤ a + n
    · rw [if_pos (by omega), if_pos h, List.getD_eq_getElem?_getD, List.getElem?_take_of_lt (by omega), List.getD_eq_getElem?_getD]
    · rw [if_neg (by omega), if_neg h]

/-- Settles O30. -/
theorem memoryCopies : Obligations.MemoryCopies := by
  intro s q hs
  exact ⟨fun hb hc => ⟨.of_on (f := copyGo q false .none) rfl hs (copyGo_load_spec hb hc),
    .of_on (f := copyGo q true .none) rfl hs (copyGo_store_spec hb hc)⟩, fun hb err => .of_on (f := copyEnd q err) rfl hs (copyEnd_spec hb err)⟩

/-! ### Entries put on a ring and taken from it (R486) -/

theorem Blk.imgWrite_eq (s : Blk) (q a : Nat) (bs : List Byte) :
    ∃ regs evq dram mem, s.imgWrite q a bs = { s with regs := regs, evq := evq, dram := dram, mem := mem } := by
  obtain ⟨⟨regs, evq, dram, e⟩, -, -⟩ := s.accessed_access q a bs.length true
  exact ⟨regs, evq, dram, _, by rw [Blk.imgWrite, Blk.memWrites_eq, e]⟩

theorem Blk.ringPut_eq (s : Blk) (k : Nat) (ws : List Nat) :
    ∃ regs evq dram mem, s.ringPut k ws = { s with regs := regs, evq := evq, dram := dram, mem := mem } := by
  obtain ⟨regs, evq, dram, mem, e⟩ := s.imgWrite_eq (ringPort k) (s.ringAddr k (s.rn (RING_PROD k))) (entryBytes ws)
  exact ⟨_, evq, dram, mem, by rw [Blk.ringPut, e, Blk.wn_eq]⟩

theorem Blk.ringPop_eq (s : Blk) (k : Nat) : ∃ regs evq dram, s.ringPop k = { s with regs := regs, evq := evq, dram := dram } := by
  obtain ⟨⟨regs, evq, dram, e⟩, -, -⟩ := s.accessed_access (ringPort k) (s.ringAddr k (s.rn (RING_CONS k))) 32 false
  exact ⟨_, evq, dram, by rw [Blk.ringPop, e, Blk.wn_eq]⟩

theorem Blk.rn_ringPut_prod (s : Blk) (k : Nat) (ws : List Nat) : (s.ringPut k ws).rn (RING_PROD k) = (s.rn (RING_PROD k) + 1) % 2 ^ 24 := by
  rw [Blk.ringPut]
  exact (Blk.rn_wn_same _ _ _).trans (Nat.mod_mod _ _)

theorem Blk.rn_ringPop_cons (s : Blk) (k : Nat) : (s.ringPop k).rn (RING_CONS k) = (s.rn (RING_CONS k) + 1) % 2 ^ 24 := by
  rw [Blk.ringPop]
  exact (Blk.rn_wn_same _ _ _).trans (Nat.mod_mod _ _)

theorem Blk.regsBut_ringPut (s : Blk) (k : Nat) (ws : List Nat) : s.RegsBut (s.ringPut k ws) fun a => memWord a ∨ a = RING_PROD k := by
  rw [Blk.ringPut]
  exact ((s.regsBut_imgWrite _ _ _).mono fun _ => .inl).wn (.inr rfl)

theorem Blk.frame_ringPop (s : Blk) (k : Nat) : s.Frame (s.ringPop k) fun a => memWord a ∨ a = RING_CONS k := by
  rw [Blk.ringPop]
  exact ((s.accessed_access _ _ _ _).frame fun _ => .inl).wn (.inr rfl)

end Sys2Proof.Machine
end

section
/-!
PROOFS. What leaves on lanes and wale links; messages of a link, DISCOVER, beacons, and time over wale (R337 to R363).
-/

namespace Sys2Proof.Machine

variable {r s : Blk}

/-! ### What is put on a lane (R312 to R319) -/

/-- Symbols and blocks of a lane's transmitter change the lanes and the line alone. -/
def Blk.Lined (r s : Blk) : Prop := ∃ lanes wires, s = { r with lanes := lanes, wires := wires }

namespace Blk.Lined

theorem refl (r : Blk) : r.Lined r := ⟨r.lanes, r.wires, rfl⟩

theorem trans {t : Blk} (h : r.Lined s) (g : s.Lined t) : r.Lined t := by
  obtain ⟨lanes, wires, e⟩ := h
  obtain ⟨lanes', wires', e'⟩ := g
  exact ⟨lanes', wires', by rw [e', e]⟩

theorem setLane (h : r.Lined s) {n : Nat} {x : Lane} : r.Lined (s.setLane n x) := h.trans ⟨_, s.wires, rfl⟩

theorem setTx (h : r.Lined s) {n : Nat} {x : Tx} : r.Lined (s.setTx n x) := h.setLane

theorem putLineBits (h : r.Lined s) {n : Nat} {ps : Int} {bs : List Bool} : r.Lined (s.putLineBits n ps bs) := h.trans ⟨s.lanes, _, rfl⟩

theorem ite {c : Prop} [Decidable c] {t : Blk} (hs : r.Lined s) (ht : r.Lined t) : r.Lined (if c then s else t) := by
  split
  · exact hs
  · exact ht

theorem txTo (h : r.Lined s) {n : Nat} {ps : Int} : r.Lined (s.txTo n ps) := h.setTx.ite h.setTx.putLineBits

theorem txPut (h : r.Lined s) {n : Nat} {ps : Int} {cs : List Sym} : r.Lined (s.txPut n ps cs) := h.txTo.setTx

theorem listSlot (h : r.Lined s) {n k : Nat} {ctrl : Bool} {ws : List Nat} : r.Lined (s.listSlot n k ctrl ws) := h.setTx.putLineBits

theorem putSlot (h : r.Lined s) {n k : Nat} {ctrl : Bool} {ws : List Nat} : r.Lined (s.putSlot n k ctrl ws) := (h.listSlot.ite h).listSlot

end Blk.Lined

/-! ### A message on a link (R341 to R344) -/

/-- A link in a table of links. -/
def linkIn (links : List (Nat × Link)) (k : Nat) : Link := Tab.get (fun _ => Link.init) links k

/-- One table of links is another with link `l` replaced. -/
def LinkPut (links links' : List (Nat × Link)) (l : Nat) (x : Link) : Prop :=
  linkIn links' l = x ∧ ∀ k, k ≠ l → linkIn links' k = linkIn links k

theorem Blk.linkPut_setLink (s : Blk) (l : Nat) (x : Link) : LinkPut s.links (s.setLink l x).links l x :=
  ⟨s.link_setLink_same l x, fun _ h => s.link_setLink_ne x h⟩

theorem LinkPut.trans {a b c : List (Nat × Link)} {l : Nat} {x y : Link} (h : LinkPut a b l x) (g : LinkPut b c l y) : LinkPut a c l y :=
  ⟨g.1, fun k hk => (g.2 k hk).trans (h.2 k hk)⟩

/-- A message put on the line moves the turn of its link on. -/
theorem Blk.waleLine_spec (s : Blk) (l : Nat) (low : Bool) (ws : List Nat) :
    ∃ lanes wires links turn lane, s.waleLine l low ws = ({ s with lanes := lanes, wires := wires, links := links }, lane) ∧
      LinkPut s.links links l { s.link l with turn := turn } := by
  unfold Blk.waleLine
  extract_lets ns w x i lane s1 j i' lane'
  split
  · split
    · obtain ⟨lanes, wires, e⟩ : s.Lined s1 := (Blk.Lined.refl s).putSlot
      exact ⟨lanes, wires, _, i + 1, lane, by rw [e]; rfl, s.linkPut_setLink l _⟩
    · obtain ⟨lanes, wires, e⟩ : s.Lined (s1.putSlot (ns.getD (j % w) 0) (j / w) false (ws.drop 3)) := (Blk.Lined.refl s).putSlot.putSlot
      exact ⟨lanes, wires, _, j + 1, lane, by rw [e]; rfl, s.linkPut_setLink l _⟩
  · obtain ⟨lanes, wires, e⟩ : s.Lined (s.txPut lane' s.nowPs (frameSyms (waleBytes ws))) := (Blk.Lined.refl s).txPut
    exact ⟨lanes, wires, _, if low then x.turn else (i' + 1) % w, lane', by rw [e]; rfl, s.linkPut_setLink l _⟩

/-- What a message that leaves changes: its link, the lanes and the line, and the output log. -/
theorem Blk.waleOut_spec (s : Blk) (l seq : Nat) (ws : List Nat) :
    ∃ lanes wires links turn lane, s.waleOut l seq ws =
      { s with
        lanes := lanes, wires := wires, links := links,
        out := .wale l lane ((ws.headD 0 / 65536 * 65536 + seq * 256 + (s.link l).freed % 256) :: ws.drop 1) :: s.out } ∧
      LinkPut s.links links l { s.link l with lastOut := s.now, owes := false, turn := turn } := by
  unfold Blk.waleOut
  extract_lets x s1 ws' k q
  obtain ⟨lanes, wires, links, turn, lane, e, hl⟩ := s1.waleLine_spec l (k == 4 || k == 5) ws'
  have h1 : s1.link l = { s.link l with lastOut := s.now, owes := false } := s.link_setLink_same l _
  rw [h1] at hl
  exact ⟨lanes, wires, links, turn, lane, by unfold q; rw [e]; rfl, (s.linkPut_setLink l _).trans hl⟩

/-! ### Messages that leave as credits allow (R348, R349) -/

/-- The words in which messages that leave show. -/
def waleWord (a : Nat) : Prop := ∃ l, l < 3 ∧ (a = WAL_LINK_STATUS l ∨ a = WAL_CREDIT_STALLS l)

/-- What messages leaving on links take `r` to: the lines, the links but for what they have received, and the words and events that show it. -/
structure Blk.Sent (r s : Blk) : Prop where
  rest : ∃ regs evq out wires lanes links, s = { r with regs := regs, evq := evq, out := out, wires := wires, lanes := lanes, links := links }
  regs : r.RegsBut s waleWord
  events : r.evq <+: s.evq
  received : ∀ k, (s.link k).seqIn = (r.link k).seqIn ∧ (s.link k).early = (r.link k).early

namespace Blk.Sent

theorem refl (r : Blk) : r.Sent r := ⟨⟨_, _, _, _, _, _, rfl⟩, .refl r _, List.prefix_rfl, fun _ => ⟨rfl, rfl⟩⟩

theorem trans {t : Blk} (h : r.Sent s) (g : s.Sent t) : r.Sent t := by
  obtain ⟨⟨_, _, _, _, _, _, e⟩, hr, hq, hk⟩ := h
  obtain ⟨⟨_, _, _, _, _, _, e'⟩, hr', hq', hk'⟩ := g
  exact ⟨⟨_, _, _, _, _, _, by rw [e', e]⟩, hr.trans hr', hq.trans hq', fun k => ⟨(hk' k).1.trans (hk k).1, (hk' k).2.trans (hk k).2⟩⟩

theorem setLink (h : r.Sent s) {l : Nat} {x : Link} (hs : x.seqIn = (s.link l).seqIn) (he : x.early = (s.link l).early) :
    r.Sent (s.setLink l x) := by
  refine h.trans ⟨⟨s.regs, s.evq, s.out, s.wires, s.lanes, _, rfl⟩, .refl s _, List.prefix_rfl, fun k => ?_⟩
  by_cases hk : k = l
  · rw [hk, Blk.link_setLink_same]
    exact ⟨hs, he⟩
  · rw [Blk.link_setLink_ne _ _ hk]
    exact ⟨rfl, rfl⟩

theorem setF (h : r.Sent s) {x : Fld} {v : Nat} (hx : waleWord x.addr) : r.Sent (s.setF x v) :=
  h.trans ⟨⟨_, s.evq, s.out, s.wires, s.lanes, s.links, s.setF_eq x v⟩, (Blk.RegsBut.refl s _).setF hx, by rw [Blk.setF_evq],
    fun k => by rw [Blk.setF_eq]; exact ⟨rfl, rfl⟩⟩

theorem incSat (h : r.Sent s) {a : Nat} (ha : waleWord a) : r.Sent (s.incSat a) :=
  h.trans ⟨⟨_, s.evq, s.out, s.wires, s.lanes, s.links, s.wn_eq a _⟩, (Blk.RegsBut.refl s _).incSat ha, List.prefix_rfl, fun _ => ⟨rfl, rfl⟩⟩

theorem count (h : r.Sent s) {src n : Nat} : r.Sent (s.count src n) := by
  obtain ⟨regs, evq, e⟩ := s.count_eq src n
  refine h.trans ⟨⟨regs, evq, s.out, s.wires, s.lanes, s.links, e⟩, (Blk.RegsBut.refl s _).count, s.evq_count_prefix src n, fun k => ?_⟩
  rw [e]
  exact ⟨rfl, rfl⟩

theorem waleOut (h : r.Sent s) {l seq : Nat} {ws : List Nat} : r.Sent (s.waleOut l seq ws) := by
  obtain ⟨lanes, wires, links, turn, lane, e, hl, hk⟩ := s.waleOut_spec l seq ws
  rw [e]
  refine h.trans ⟨⟨s.regs, s.evq, _, wires, lanes, links, rfl⟩, .refl s _, List.prefix_rfl, fun k => ?_⟩
  by_cases hkl : k = l
  · subst hkl
    exact ⟨(congrArg Link.seqIn hl :), (congrArg Link.early hl :)⟩
  · exact ⟨(congrArg Link.seqIn (hk k hkl) :), (congrArg Link.early (hk k hkl) :)⟩

theorem ite {c : Prop} [Decidable c] {t : Blk} (hs : r.Sent s) (ht : r.Sent t) : r.Sent (if c then s else t) := by
  split
  · exact hs
  · exact ht

theorem freeBuf (h : r.Sent s) {l : Nat} : r.Sent (s.freeBuf l) := h.ite (h.setLink rfl rfl)

theorem drainLink {l : Nat} (hl : l < 3) (n : Nat) (h : r.Sent s) : r.Sent (drainLink l n s) := by
  induction n generalizing s with
  | zero => exact h
  | succ n ih =>
    unfold Machine.drainLink
    extract_lets x seq
    split
    · exact h.setLink rfl rfl
    · next m _ =>
      have hst : r.Sent (s.setLink l { x with stalled := true }) := h.setLink rfl rfl
      have hgo : r.Sent (s.setLink l { x with queue := x.queue.erase m, sent := seq, stalled := false }) := h.setLink rfl rfl
      exact h.ite (ite (h.ite (hst.incSat (a := WAL_CREDIT_STALLS l) ⟨l, hl, .inr rfl⟩).count) (ih hgo.waleOut.freeBuf))

theorem showCredits (h : r.Sent s) {l : Nat} (hl : l < 3) : r.Sent (s.showCredits l) := h.setF ⟨l, hl, .inl rfl⟩

theorem drain (h : r.Sent s) {l : Nat} (hl : l < 3) : r.Sent (s.drain l) := (h.drainLink hl 200).showCredits hl

theorem sendAll (h : r.Sent s) {l : Nat} (hl : l < 3) {ms : List Queued} : r.Sent (s.sendAll l ms) := by
  have hq : r.Sent (s.setLink l { s.link l with queue := (s.link l).queue ++ ms }) := h.setLink rfl rfl
  exact h.ite (hq.drain hl)

theorem broadcast (h : r.Sent s) {m p l : Nat} (hl : l < 3) {ws : List Nat} : r.Sent (s.broadcast m p l ws) := h.sendAll hl

theorem takeFreed (h : r.Sent s) {l : Nat} (hl : l < 3) {m : List Nat} : r.Sent (s.takeFreed l m) := by
  have hq : r.Sent (s.setLink l { s.link l with ptFreed := m.headD 0 % 256 }) := h.setLink rfl rfl
  exact hq.drain hl

theorem frame (h : r.Sent s) {p : Nat → Prop} (hp : ∀ a, waleWord a → p a) : r.Frame s p := by
  obtain ⟨⟨_, _, _, _, _, _, e⟩, hr, -, -⟩ := h
  refine ⟨hr.mono hp, ?_⟩
  rw [e]
  exact ⟨fun _ => rfl, rfl, rfl⟩

end Blk.Sent

/-! ### A link with nothing queued -/

theorem drainLink_of_empty {l n : Nat} (h : (s.link l).queue = []) : drainLink l (n + 1) s = s.setLink l { s.link l with stalled := false } := by
  have hn : nextQueued (s.link l).queue = none := by rw [h]; rfl
  simp only [drainLink, hn]

/-- The first message of a queue leaves. -/
theorem drainLink_of_credit {l n : Nat} {m : Queued} (h : nextQueued (s.link l).queue = some m) (ha : s.linkAwake l = true)
    (hc : (s.link l).credits ≠ 0) :
    drainLink l (n + 1) s = drainLink l n
      (((s.setLink l { s.link l with queue := (s.link l).queue.erase m, sent := ((s.link l).sent + 1) % 256, stalled := false }).waleOut l
        (((s.link l).sent + 1) % 256) m.words).freeBuf m.origin) := by
  simp only [drainLink, h, ha, hc, Bool.not_true, Bool.false_eq_true, if_false]

/-- Credits taken from a header, with nothing waiting for them. -/
theorem Blk.takeFreed_of_empty {l : Nat} (m : List Nat) (h : (s.link l).queue = []) :
    ∃ links, s.takeFreed l m = ({ s with links := links } : Blk).showCredits l ∧
      LinkPut s.links links l { s.link l with ptFreed := m.headD 0 % 256, stalled := false } := by
  unfold Blk.takeFreed
  extract_lets x
  have h1 : (s.setLink l { x with ptFreed := m.headD 0 % 256 }).link l = { x with ptFreed := m.headD 0 % 256 } := s.link_setLink_same l _
  have hp := (s.setLink l { x with ptFreed := m.headD 0 % 256 }).linkPut_setLink l { x with ptFreed := m.headD 0 % 256, stalled := false }
  refine ⟨_, ?_, (s.linkPut_setLink l _).trans hp⟩
  rw [Blk.drain, drainLink_of_empty (by rw [h1]; exact h), h1]
  rfl

/-- The link after a message that left at once. -/
def Link.sentOne (x : Link) (now turn : Nat) : Link :=
  { x with queue := [], sent := (x.sent + 1) % 256, stalled := false, lastOut := now, owes := false, turn := turn }

theorem Blk.freeBuf_own (s : Blk) : s.freeBuf 3 = s := rfl

/-- The only message of a queue leaves. -/
theorem drainLink_single {l n : Nat} {m : Queued} (hq : (s.link l).queue = [m]) (ha : s.linkAwake l = true) (hc : (s.link l).credits ≠ 0)
    (ho : m.origin = 3) :
    ∃ lanes wires links turn lane, drainLink l (n + 2) s =
      { s with
        lanes := lanes, wires := wires, links := links,
        out := .wale l lane ((m.words.headD 0 / 65536 * 65536 + ((s.link l).sent + 1) % 256 * 256 + (s.link l).freed % 256) :: m.words.drop 1) ::
          s.out } ∧
      LinkPut s.links links l ((s.link l).sentOne s.now turn) := by
  have he : (s.link l).queue.erase m = [] := by rw [hq]; simp
  rw [drainLink_of_credit (m := m) (by rw [hq]; rfl) ha hc, he, ho, Blk.freeBuf_own]
  obtain ⟨lanes, wires, links, turn, lane, e, hl⟩ :=
    (s.setLink l { s.link l with queue := [], sent := ((s.link l).sent + 1) % 256, stalled := false }).waleOut_spec l
      (((s.link l).sent + 1) % 256) m.words
  have hp := (s.linkPut_setLink l _).trans hl
  rw [Blk.link_setLink_same] at e hl hp
  rw [e]
  refine ⟨lanes, wires, _, turn, lane, drainLink_of_empty ?_, hp.trans ?_⟩
  · exact congrArg Link.queue hl.1
  · exact ⟨(Blk.link_setLink_same _ _ _).trans (by rw [show Blk.link _ l = linkIn links l from rfl, hl.1]; rfl), fun k hk => Blk.link_setLink_ne _ _ hk⟩

/-- A message given to a link that is up and awake, with credits and nothing queued, leaves at once. -/
theorem Blk.sendBuffered_at_once {l : Nat} {m : Queued} (hu : s.linkUp l = true) (ha : s.linkAwake l = true) (hq : (s.link l).queue = [])
    (hc : (s.link l).credits ≠ 0) (ho : m.origin = 3) :
    ∃ lanes wires links turn lane, s.sendBuffered l m =
      ({ s with
        lanes := lanes, wires := wires, links := links,
        out := .wale l lane ((m.words.headD 0 / 65536 * 65536 + ((s.link l).sent + 1) % 256 * 256 + (s.link l).freed % 256) :: m.words.drop 1) ::
          s.out } : Blk).showCredits l ∧
      LinkPut s.links links l ((s.link l).sentOne s.now turn) := by
  have h1 : (s.setLink l { s.link l with queue := [m] }).link l = { s.link l with queue := [m] } := s.link_setLink_same l _
  obtain ⟨lanes, wires, links, turn, lane, e, hl⟩ := drainLink_single (s := s.setLink l { s.link l with queue := [m] }) (n := 198) (by rw [h1]) ha
    (by rw [h1]; exact hc) ho
  rw [h1] at e hl
  refine ⟨lanes, wires, links, turn, lane, ?_, (s.linkPut_setLink l _).trans hl⟩
  rw [Blk.sendBuffered, Blk.sendAll, if_neg (by rw [hu]; decide)]
  have hx : (s.link l).queue ++ [m] = [m] := by rw [hq]; rfl
  dsimp only
  rw [hx, Blk.drain, e]
  rfl

/-! ### The state of links as the passing of time and accesses leave it -/

theorem Blk.linkUp_advance (s : Blk) (t l : Nat) (hl : l < 3) : (s.advance t).linkUp l = s.linkUp l :=
  s.fb_advance t (cntWord_low (by simp only [WAL_LINK_STATUS]; omega))

theorem Blk.link_advance (s : Blk) (t l : Nat) : (s.advance t).link l = s.link l := by rw [Blk.link, s.advance_links, Blk.link]

theorem Blk.chipId_advance (s : Blk) (t : Nat) : (s.advance t).chipId = s.chipId := by
  rw [Blk.chipId, s.rn_advance t (cntWord_low (by decide)), Blk.chipId]

theorem Blk.waleCheck_advance (s : Blk) (t l : Nat) (m : List Nat) (hl : l < 3) : (s.advance t).waleCheck l m = s.waleCheck l m := by
  rw [Blk.waleCheck, s.fb_advance t (cntWord_low (by simp only [WAL_LINK_STATUS]; omega)), Blk.waleCheck]

theorem Blk.linkLanes_of_reg (h : s.reg WAL_CFG = r.reg WAL_CFG) (l : Nat) : s.linkLanes l = r.linkLanes l := by
  simp only [Blk.linkLanes, Blk.fb_of_reg (x := WAL_CFG_SPLIT) h]

theorem Blk.linkLanes_advance (s : Blk) (t l : Nat) : (s.advance t).linkLanes l = s.linkLanes l :=
  Blk.linkLanes_of_reg (s.reg_advance t (cntWord_low (by decide))) l

theorem Blk.lane_advance (s : Blk) (t n : Nat) : (s.advance t).lane n = s.lane n := by rw [Blk.lane, s.advance_lanes, Blk.lane]

theorem Blk.linkAligned_advance (s : Blk) (t l : Nat) (hl : l < 3) : (s.advance t).linkAligned l = s.linkAligned l := by
  simp only [Blk.linkAligned, s.linkLanes_advance, s.lane_advance, s.fb_advance t (x := WAL_LINK_STATUS_HEAVY l) (cntWord_low (by simp only [WAL_LINK_STATUS]; omega))]

theorem Blk.allIdle_advance (s : Blk) (t : Nat) : (s.advance t).allIdle = s.allIdle :=
  ((Blk.RegsBut.refl s fun _ => False).advance (u := t)).allIdle fun _ _ h => h

/-- The lanes of a link are those of the wale. -/
theorem Blk.linkLanes_lt (s : Blk) (l : Nat) : ∀ n ∈ s.linkLanes l, 32 ≤ n ∧ n < 40 := by
  unfold Blk.linkLanes
  intro n hn
  split at hn <;> (try split at hn) <;> simp at hn <;> omega

/-- A link is as awake as the lanes, the time and the registers below those of image memory say. -/
theorem Blk.linkAwake_of_reg (hreg : ∀ a, a < 0x140000 → s.reg a = r.reg a) (hlanes : s.lanes = r.lanes) (hnow : s.now = r.now) (l : Nat) :
    s.linkAwake l = r.linkAwake l := by
  have hlane (n : Nat) : s.lane n = r.lane n := by rw [Blk.lane, hlanes, Blk.lane]
  rw [Blk.linkAwake, Blk.linkLanes_of_reg (hreg _ (by decide)), Blk.linkAwake]
  rw [Bool.eq_iff_iff, List.all_eq_true, List.all_eq_true]
  refine forall₂_congr fun n hn => ?_
  obtain ⟨hn1, hn2⟩ := r.linkLanes_lt l n hn
  have hs : s.reg (LAN_STATUS n) = r.reg (LAN_STATUS n) := hreg _ (by simp only [LAN_STATUS]; omega)
  have hh : isHead n = false := by simpa [isHead] using hn1
  simp only [Blk.canSend, Blk.laneUp, Blk.laneState, Blk.f_of_reg (s := s) (r := r) (x := LAN_STATUS_STATE n) hs,
    Blk.fb_of_reg (s := s) (r := r) (x := LAN_STATUS_TX_SLEEP n) hs, hh, Bool.false_and, hlane, hnow]

/-! ### Messages of a link (R347 to R350) -/

theorem Blk.waleDrop_spec (s : Blk) {l c : Nat} (hl : l < 3) (hc : c < 2 ^ 24) :
    (s.waleDrop l c).rn (WAL_RX_DROPS l) = min (s.rn (WAL_RX_DROPS l) + 1) u24max ∧ s.Raised (s.waleDrop l c) 0xA03 l l c ∧
      s.Frame (s.waleDrop l c) (· = WAL_RX_DROPS l) := by
  refine ⟨?_, ?_, ((Blk.Frame.refl s (· = WAL_RX_DROPS l)).incSat rfl).count.raise⟩
  · rw [← s.rn_incSat_same]
    exact Blk.rn_of_reg ((s.incSat (WAL_RX_DROPS l)).reg_count 0x6C 1 (cntWord_low (by simp only [WAL_RX_DROPS]; omega)))
  · exact (Blk.raised_raise ((s.incSat (WAL_RX_DROPS l)).count 0x6C) 0xA03 (by omega) (by omega) hc).of_left
      ((s.incSat (WAL_RX_DROPS l)).evq_count_prefix 0x6C 1)

theorem Blk.link_of_links {links : List (Nat × Link)} (h : s.links = links) (k : Nat) : s.link k = linkIn links k := by rw [← h]; rfl

theorem Blk.links_showCredits (s : Blk) (l : Nat) : (s.showCredits l).links = s.links := by rw [Blk.showCredits, Blk.setF_links]

theorem Link.credits_le (x : Link) : x.credits ≤ 64 := by unfold Link.credits; omega

theorem Blk.f_showCredits {l : Nat} (hu : s.linkUp l = true) : (s.showCredits l).f (WAL_LINK_STATUS_CREDITS l) = (s.link l).credits := by
  have := (s.link l).credits_le
  rw [Blk.showCredits, if_pos hu, Blk.f_setF_same _ _ _ (by simp) (by simp)]
  exact Nat.mod_eq_of_lt (by simp; omega)

theorem Blk.Frame.showCredits {p : Nat → Prop} (h : r.Frame s p) {l : Nat} (hp : p (WAL_LINK_STATUS l)) : r.Frame (s.showCredits l) p := h.setF hp

theorem waleReceived_of_bad {l t : Nat} {m : List Nat} {crc : Nat} (hl : l < 3) (hu : s.linkUp l = true) (ha : s.linkAligned l = true)
    (hc : crc ≠ s.waleCheck l m) : waleReceived l t m crc s = (s.advance t).waleDrop l 0 := by
  have h1 : (s.advance t).linkUp l = true := (s.linkUp_advance t l hl).trans hu
  have h2 : (s.advance t).linkAligned l = true := (s.linkAligned_advance t l hl).trans ha
  rw [waleReceived, if_neg (by simp [h1, h2]), if_pos (by rw [s.waleCheck_advance t l m hl]; exact hc)]

/-- A message whose check fails is discarded. -/
theorem waleReceived_of_bad_spec {l t : Nat} {m : List Nat} {crc : Nat} (hl : l < 3) (hu : s.linkUp l = true) (ha : s.linkAligned l = true)
    (hi : s.allIdle = false) (hc : crc ≠ s.waleCheck l m) :
    (waleReceived l t m crc s).settle.rn (WAL_RX_DROPS l) = min (s.rn (WAL_RX_DROPS l) + 1) u24max ∧
      s.Raised (waleReceived l t m crc s).settle 0xA03 l l 0 ∧ s.Frame (waleReceived l t m crc s).settle (· = WAL_RX_DROPS l) := by
  obtain ⟨hn, hr, hF⟩ := (s.advance t).waleDrop_spec hl (c := 0) (by decide)
  have hF' : s.Frame ((s.advance t).waleDrop l 0) (· = WAL_RX_DROPS l) := ((Blk.Frame.refl s _).advance).trans hF
  rw [waleReceived_of_bad hl hu ha hc, Blk.settle_of_busy ((hF'.1.allIdle fun k hk => by simp only [PGE_TRK_STATUS, WAL_RX_DROPS]; omega).trans hi)]
  exact ⟨by rw [hn, s.rn_advance t (cntWord_low (by simp only [WAL_RX_DROPS]; omega))], hr.of_left (s.evq_advance_prefix t), hF'⟩

/-- A NOP returns credits to a link with nothing queued. -/
theorem Blk.takeFreed_spec {l : Nat} {m : List Nat} (hu : s.linkUp l = true) (hq : (s.link l).queue = []) :
    ((s.takeFreed l m).link l).ptFreed = m.headD 0 % 256 ∧
      (s.takeFreed l m).f (WAL_LINK_STATUS_CREDITS l) = ((s.takeFreed l m).link l).credits ∧
      s.OnlyRegs { s.takeFreed l m with links := s.links } (· = WAL_LINK_STATUS l) := by
  obtain ⟨links, e, hp⟩ := Blk.takeFreed_of_empty m hq
  have hk : (s.takeFreed l m).link l = linkIn links l := Blk.link_of_links (by rw [e, Blk.links_showCredits]) l
  refine ⟨by rw [hk, hp.1], ?_, ?_⟩
  · rw [hk, e]
    exact Blk.f_showCredits (s := { s with links := links }) hu
  · have h := (Blk.OnlyRegs.refl s (· = WAL_LINK_STATUS l)).setF (x := WAL_LINK_STATUS_CREDITS l)
      (v := if s.linkUp l then (linkIn links l).credits else 0) rfl
    rw [e]
    exact h

/-- A NOP is sent when credits are owed. -/
theorem nopSend_spec {l t : Nat} (hl : l < 3) (hu : s.linkUp l = true) (ha : (s.advance t).linkAwake l = true) (ho : (s.link l).owes = true)
    (hd : (s.link l).lastOut + 250 ≤ t) :
    (∃ lane, (nopSend l t s).out = .wale l lane [(s.link l).sent * 256 + (s.link l).freed % 256, s.chipId, 0] :: s.out) ∧
      ((nopSend l t s).link l).owes = false ∧ s.Frame (nopSend l t s) fun _ => False := by
  have hx := s.link_advance t l
  have hgo : nopSend l t s = (s.advance t).waleOut l (s.link l).sent ((s.advance t).header 0 0 0 0) := by
    rw [nopSend, s.linkUp_advance t l hl, hu, ha, hx, ho, if_pos (by simpa using hd)]
  obtain ⟨lanes, wires, links, turn, lane, e, hp⟩ := (s.advance t).waleOut_spec l (s.link l).sent ((s.advance t).header 0 0 0 0)
  rw [hgo, e]
  refine ⟨⟨lane, ?_⟩, ?_, ((Blk.Frame.refl s _).advance).put⟩
  · simp [Blk.header, hx, s.chipId_advance]
  · exact congrArg Link.owes hp.1

/-- A SW message that waits goes to ring 14 and frees its buffer. -/
theorem swDeliver_spec {l : Nat} (hl : l < 3) {x : Nat × List Nat} {q : List (Nat × List Nat)} (hx : (s.link l).sw = x :: q) (hf : s.ringFull 14 = false) :
    ((swDeliver l s).link l).sw = q ∧ ((swDeliver l s).link l).freed = ((s.link l).freed + 1) % 256 ∧
      (swDeliver l s).rn (RING_PROD 14) = (s.rn (RING_PROD 14) + 1) % 2 ^ 24 := by
  obtain ⟨ns, m⟩ := x
  have hgo : ∃ ws, swDeliver l s = (((s.ringPut 14 ws).setLink l { s.link l with sw := q }).freeBuf l).showR14 := by
    simp only [swDeliver, hx, hf, Bool.false_eq_true, if_false]
    exact ⟨_, rfl⟩
  obtain ⟨ws, e⟩ := hgo
  have hk : (swDeliver l s).link l = { s.link l with sw := q, freed := ((s.link l).freed + 1) % 256, owes := true } := by
    have h2 : ¬2 < l := by omega
    rw [e, Blk.showR14, Blk.link_of_links (Blk.setF_links _ _ _), Blk.freeBuf, if_neg h2, Blk.link_setLink_same]
    exact Blk.link_setLink_same _ _ _
  have hr : (((s.ringPut 14 ws).setLink l { s.link l with sw := q }).freeBuf l).regs = (s.ringPut 14 ws).regs := by
    unfold Blk.freeBuf
    split <;> rfl
  refine ⟨by rw [hk], by rw [hk], ?_⟩
  rw [e, Blk.showR14, Blk.rn_setF_ne _ _ _ (by decide), ← s.rn_ringPut_prod 14 ws, Blk.rn_of_reg (Blk.reg_of_regs hr _)]

/-- Taking an entry from a ring leaves a link as it was, and awake. -/
theorem Blk.link_ringPop (s : Blk) (k l : Nat) : (s.ringPop k).link l = s.link l := by
  obtain ⟨regs, evq, dram, e⟩ := s.ringPop_eq k
  exact Blk.link_of_links (by rw [e]) l

theorem Blk.reg_ringPop (s : Blk) (k : Nat) {a : Nat} (ha : a < 0x140000) : (s.ringPop k).reg a = s.reg a :=
  (s.frame_ringPop k).1 a (cntWord_low (by omega)) (by simp only [memWord, DRM_PWR_STATUS, DRM_RD_STATUS, RING_CONS]; omega)

theorem Blk.linkAwake_ringPop (s : Blk) (k l : Nat) : (s.ringPop k).linkAwake l = s.linkAwake l := by
  obtain ⟨regs, evq, dram, e⟩ := s.ringPop_eq k
  exact Blk.linkAwake_of_reg (fun a => s.reg_ringPop k) (by rw [e]) (by rw [e]) l

/-- A ring-13 entry leaves on a link that takes it at once. -/
theorem swSend_spec (hid : s.chipId ≠ 0) (hcf : s.fb WAL_STATUS_ID_CONFLICT = false) (hh : s.ringHas 13 = true)
    (hr : bits ((s.ringFront 13).headD 0) 9 8 = 0) (hu : s.linkUp 0 = true) (ha : s.linkAwake 0 = true) (hq : (s.link 0).queue = [])
    (hc : (s.link 0).credits ≠ 0) :
    (swSend s).rn (RING_CONS 13) = (s.rn (RING_CONS 13) + 1) % 2 ^ 24 ∧ ((swSend s).link 0).sent = ((s.link 0).sent + 1) % 256 ∧
      ∃ lane, (swSend s).out = .wale 0 lane ([65536 + ((s.link 0).sent + 1) % 256 * 256 + (s.link 0).freed % 256,
        bits ((s.ringFront 13).headD 0) 23 12 * 4096 + s.chipId, 31 * 2 ^ 19] ++
        (List.range 6).map (fun i => (s.ringFront 13).getD (i + 2) 0 % 2 ^ 24) ++ [0, 0]) :: s.out := by
  have hgo : swSend s = (s.ringPop 13).sendBuffered 0 ⟨4, 3, s.header 1 (bits ((s.ringFront 13).headD 0) 23 12) 31 0 ++
      ((List.range 6).map (fun i => (s.ringFront 13).getD (i + 2) 0 % 2 ^ 24) ++ [0, 0])⟩ := by
    simp only [swSend, hr, hid, hcf, hh, hu, hc, Bool.not_true, Bool.false_eq_true, or_self, if_false, reduceCtorEq, Bool.false_or,
      Nat.reduceBEq, Bool.false_and]
  obtain ⟨lanes, wires, links, turn, lane, e, hp⟩ := Blk.sendBuffered_at_once (s := s.ringPop 13) (l := 0)
    (m := ⟨4, 3, s.header 1 (bits ((s.ringFront 13).headD 0) 23 12) 31 0 ++
      ((List.range 6).map (fun i => (s.ringFront 13).getD (i + 2) 0 % 2 ^ 24) ++ [0, 0])⟩)
    ((Blk.fb_of_reg (s.reg_ringPop 13 (by decide))).trans hu) ((s.linkAwake_ringPop 13 0).trans ha) (by rw [s.link_ringPop]; exact hq)
    (by rw [s.link_ringPop]; exact hc) rfl
  rw [s.link_ringPop] at e hp
  have hl : (swSend s).link 0 = linkIn links 0 := Blk.link_of_links (by rw [hgo, e, Blk.links_showCredits]) 0
  have ho : (s.ringPop 13).out = s.out := by
    obtain ⟨regs, evq, dram, e⟩ := s.ringPop_eq 13
    rw [e]
  refine ⟨?_, by rw [hl, hp.1]; rfl, lane, ?_⟩
  · rw [← s.rn_ringPop_cons 13, hgo, e]
    exact Blk.rn_setF_ne _ _ _ (by decide)
  · rw [hgo, e, Blk.showCredits, Blk.setF_out, ho]
    simp [Blk.header]

/-- Settles O35. -/
theorem waleMessages : Obligations.WaleMessages := by
  intro s l t hs
  have hl := l.isLt
  refine ⟨fun m crc hu ha hi hc => ?_, fun m hu hq hm => ?_, fun hu ha ho hd => .of_on (f := nopSend l t) rfl hs (nopSend_spec hl hu ha ho hd),
    fun x r hx hf => .of_on (f := swDeliver l) rfl hs (swDeliver_spec hl hx hf),
    fun hid hcf hh hr hu ha hq hc => .of_on (f := swSend) rfl hs (swSend_spec hid hcf hh hr hu ha hq hc)⟩
  · exact .of_on (f := fun x => (waleReceived l t (wordsNat m) crc x).settle) rfl hs (waleReceived_of_bad_spec hl hu ha hi hc)
  · refine .of_on (f := fun b => if mtypeOf (wordsNat m) = 0 && b.linkUp l then b.takeFreed l (wordsNat m) else b) rfl hs ?_
    rw [hm, hu, if_pos (by rfl)]
    exact Blk.takeFreed_spec hu hq

/-! ### The ring view (R340) -/

/-- The chip IDs heard in the last 4 ms, and the own DISCOVER if it came back in them. -/
def Blk.viewNow (s : Blk) : Wal :=
  { s.wal with heard := s.wal.heard.filter fun e => decide (s.now < e.2 + 1000000), ownBack := s.wal.ownBack.filter fun t => decide (s.now < t + 1000000) }

theorem Blk.ringView_of_same (h : s.rn WAL_RING_SIZE = s.viewNow.heard.length + 1 ∧ s.f WAL_STATUS_RING_CLOSED = b2n s.viewNow.ownBack.isSome) :
    s.ringView = { s with wal := s.viewNow } := if_pos h

theorem Blk.ringView_of_change (h : ¬(s.rn WAL_RING_SIZE = s.viewNow.heard.length + 1 ∧ s.f WAL_STATUS_RING_CLOSED = b2n s.viewNow.ownBack.isSome)) :
    s.ringView = ((({ s with wal := s.viewNow } : Blk).wn WAL_RING_SIZE (s.viewNow.heard.length + 1)).setF WAL_STATUS_RING_CLOSED
      (b2n s.viewNow.ownBack.isSome)).raise 0xA08 0 (s.viewNow.heard.length + 1) (b2n s.viewNow.ownBack.isSome) := if_neg h

theorem Blk.ringView_eq (s : Blk) : ∃ regs evq, s.ringView = { s with regs := regs, evq := evq, wal := s.viewNow } := by
  by_cases h : s.rn WAL_RING_SIZE = s.viewNow.heard.length + 1 ∧ s.f WAL_STATUS_RING_CLOSED = b2n s.viewNow.ownBack.isSome
  · exact ⟨_, _, Blk.ringView_of_same h⟩
  · exact ⟨_, _, Blk.ringView_of_change h⟩

theorem Blk.Frame.ringView {p : Nat → Prop} (h : r.Frame s p) (h1 : p WAL_RING_SIZE) (h2 : p WAL_STATUS) : r.Frame s.ringView p := by
  by_cases hc : s.rn WAL_RING_SIZE = s.viewNow.heard.length + 1 ∧ s.f WAL_STATUS_RING_CLOSED = b2n s.viewNow.ownBack.isSome
  · rw [Blk.ringView_of_same hc]
    exact h.put
  · rw [Blk.ringView_of_change hc]
    exact ((h.put.wn h1).setF (x := WAL_STATUS_RING_CLOSED) h2).raise

/-- The view's words, once written. -/
theorem Blk.rn_showRing (s : Blk) (n c : Nat) :
    (((s.wn WAL_RING_SIZE n).setF WAL_STATUS_RING_CLOSED c).raise 0xA08 0 n c).rn WAL_RING_SIZE = n % 2 ^ 24 := by
  rw [Blk.rn_of_reg (Blk.reg_of_regs (Blk.raise_regs _ _ _ _ _) _), Blk.rn_setF_ne _ _ _ (by decide), Blk.rn_wn_same]

theorem Blk.fb_showRing (s : Blk) (n c : Nat) :
    (((s.wn WAL_RING_SIZE n).setF WAL_STATUS_RING_CLOSED c).raise 0xA08 0 n c).fb WAL_STATUS_RING_CLOSED = (c % 2 == 1) := by
  rw [Blk.fb_of_reg (Blk.reg_of_regs (Blk.raise_regs _ _ _ _ _) _), Blk.fb_setF_same _ _ _ (by decide) (by decide)]
  rfl

/-- The size of the ring and whether it is closed are shown as the view has them. -/
theorem Blk.ringView_shown (hl : s.viewNow.heard.length + 1 < 2 ^ 24) :
    s.ringView.rn WAL_RING_SIZE = s.viewNow.heard.length + 1 ∧ s.ringView.fb WAL_STATUS_RING_CLOSED = s.viewNow.ownBack.isSome := by
  have hb (b : Bool) : (b2n b == 1) = b := by cases b <;> rfl
  by_cases hc : s.rn WAL_RING_SIZE = s.viewNow.heard.length + 1 ∧ s.f WAL_STATUS_RING_CLOSED = b2n s.viewNow.ownBack.isSome
  · rw [Blk.ringView_of_same hc]
    exact ⟨hc.1, (congrArg (· == 1) hc.2).trans (hb _)⟩
  · rw [Blk.ringView_of_change hc]
    exact ⟨(Blk.rn_showRing _ _ _).trans (Nat.mod_eq_of_lt hl), (Blk.fb_showRing _ _ _).trans (by cases s.viewNow.ownBack.isSome <;> rfl)⟩

theorem discoverExpiry_spec {t : Nat} (hl : s.wal.heard.length < 4096) :
    (s.advance t).ringView.wal.heard = s.wal.heard.filter (fun e => decide (max s.now t < e.2 + 1000000)) ∧
      (s.advance t).ringView.rn WAL_RING_SIZE = (s.advance t).ringView.wal.heard.length + 1 ∧
      (s.advance t).ringView.fb WAL_STATUS_RING_CLOSED = (s.advance t).ringView.wal.ownBack.isSome ∧
      s.Frame (s.advance t).ringView fun a => a = WAL_RING_SIZE ∨ a = WAL_STATUS := by
  obtain ⟨regs, evq, e⟩ := (s.advance t).ringView_eq
  have hw : (s.advance t).ringView.wal = (s.advance t).viewNow := by rw [e]
  have hh : (s.advance t).viewNow.heard = s.wal.heard.filter (fun e => decide (max s.now t < e.2 + 1000000)) := by
    rw [Blk.viewNow, s.advance_wal, s.now_advance]
  have hlen : (s.advance t).viewNow.heard.length + 1 < 2 ^ 24 := by
    have := List.length_filter_le (fun e : Nat × Nat => decide (max s.now t < e.2 + 1000000)) s.wal.heard
    rw [hh]
    omega
  rw [hw]
  exact ⟨hh, (Blk.ringView_shown hlen).1, (Blk.ringView_shown hlen).2, ((Blk.Frame.refl s _).advance).ringView (.inl rfl) (.inr rfl)⟩

/-! ### DISCOVER (R338 to R340) -/

theorem Blk.broadcast_of_down {l : Nat} (h : s.linkUp l = false) (m q : Nat) (ws : List Nat) : s.broadcast m q l ws = s := by
  rw [Blk.broadcast, Blk.sendBuffered, Blk.sendAll, if_pos (by rw [h]; rfl)]

theorem Blk.linkUp_showCredits_ne (s : Blk) {l k : Nat} (h : k ≠ l) : (s.showCredits l).linkUp k = s.linkUp k :=
  Blk.fb_setF_ne _ _ _ _ (by simp) (by simp) (by simp) (.inl (by simp only [WAL_LINK_STATUS]; omega))

/-- A broadcast leaves at once on a link that is up and awake, with credits and nothing queued. -/
theorem Blk.broadcast_at_once {m q l : Nat} {ws : List Nat} (hu : s.linkUp l = true) (ha : s.linkAwake l = true) (hq : (s.link l).queue = [])
    (hc : (s.link l).credits ≠ 0) :
    ∃ lanes wires links lane, s.broadcast m q l ws =
      ({ s with
        lanes := lanes, wires := wires, links := links,
        out := .wale l lane ([m * 65536 + ((s.link l).sent + 1) % 256 * 256 + (s.link l).freed % 256, s.chipId, 31 * 2 ^ 19] ++ ws) :: s.out } : Blk).showCredits l := by
  obtain ⟨lanes, wires, links, turn, lane, e, -⟩ := Blk.sendBuffered_at_once (m := ⟨q, 3, s.header m 0 31 0 ++ ws⟩) hu ha hq hc rfl
  refine ⟨lanes, wires, links, lane, ?_⟩
  rw [Blk.broadcast, e]
  simp [Blk.header]

theorem discoverSend_spec {t : Nat} (hid : s.chipId ≠ 0) (hd : s.wal.disc + 250000 ≤ t) (hu : s.linkUp 0 = true)
    (ha : (s.advance t).linkAwake 0 = true) (hq : (s.link 0).queue = []) (hc : (s.link 0).credits ≠ 0) (h1 : s.linkUp 1 = false) (h2 : s.linkUp 2 = false) :
    (∃ lane, (discoverSend t s).out = .wale 0 lane ([3 * 65536 + ((s.link 0).sent + 1) % 256 * 256 + (s.link 0).freed % 256, s.chipId, 31 * 2 ^ 19,
      s.chipId] ++ s.dieWords ++ [s.twnState, 0, 0, 0]) :: s.out) ∧
      (discoverSend t s).wal.disc = max s.now t ∧ s.Frame (discoverSend t s) fun a => a / 2 ^ 16 = 0x11 := by
  have hdie : (s.advance t).dieWords = s.dieWords := List.map_congr_left fun i _ => s.rn_advance t (cntWord_high (by simp only [SEC_DIE_ID]; omega))
  have htwn : (s.advance t).twnState = s.twnState := s.f_advance t (cntWord_low (by decide))
  generalize hs1 : ({ s.advance t with wal := { (s.advance t).wal with disc := (s.advance t).now } } : Blk) = s1
  have hF1 : s.Frame s1 fun a => a / 2 ^ 16 = 0x11 := hs1 ▸ ((Blk.Frame.refl s _).advance).put
  have hid1 : s1.chipId = s.chipId := hs1 ▸ s.chipId_advance t
  have hup (l : Nat) (hl : l < 3) : s1.linkUp l = s.linkUp l := hs1 ▸ s.linkUp_advance t l hl
  have hl1 : s1.link 0 = s.link 0 := hs1 ▸ s.link_advance t 0
  have ha1 : s1.linkAwake 0 = true := hs1 ▸ ha
  have hd1 : s1.wal.disc = max s.now t := hs1 ▸ s.now_advance t
  have ho1 : s1.out = s.out := hs1 ▸ s.advance_out t
  obtain ⟨lanes, wires, links, lane, e⟩ := Blk.broadcast_at_once (m := 3) (q := 4) (l := 0) (ws := [s.chipId] ++ s.dieWords ++ [s.twnState, 0, 0, 0])
    ((hup 0 (by decide)).trans hu) ha1 (by rw [hl1]; exact hq) (by rw [hl1]; exact hc)
  generalize hs2 : s1.broadcast 3 4 0 ([s.chipId] ++ s.dieWords ++ [s.twnState, 0, 0, 0]) = s2 at e
  have hs2l (l : Nat) (hl : l < 3) (h0 : l ≠ 0) : s2.linkUp l = s.linkUp l := by
    rw [e, Blk.linkUp_showCredits_ne _ h0]
    exact hup l hl
  have hgo : discoverSend t s = s2.ringView := by
    have hd1 : s1.dieWords = s.dieWords := hs1 ▸ hdie
    have ht1 : s1.twnState = s.twnState := hs1 ▸ htwn
    have hn : ¬((s.advance t).chipId = 0 ∨ t < (s.advance t).wal.disc + 250000) := by
      rw [s.chipId_advance, s.advance_wal]
      omega
    unfold discoverSend
    dsimp only
    rw [if_neg hn, hs1, hid1, hd1, ht1]
    simp only [List.foldl_cons, List.foldl_nil, Nat.reduceBEq, Bool.false_and, Bool.false_eq_true, if_false, hs2,
      Blk.broadcast_of_down ((hs2l 1 (by decide) (by decide)).trans h1), Blk.broadcast_of_down ((hs2l 2 (by decide) (by decide)).trans h2), ite_self]
  obtain ⟨regs, evq, ev⟩ := s2.ringView_eq
  have hF2 : s.Frame s2 fun a => a / 2 ^ 16 = 0x11 := by
    rw [e]
    exact hF1.put.showCredits (by decide)
  have hw2 : s2.wal = s1.wal := by rw [e, Blk.showCredits, Blk.setF_wal]
  refine ⟨⟨lane, ?_⟩, ?_, hgo ▸ hF2.ringView (by decide) (by decide)⟩
  · rw [hgo, ev]
    dsimp only
    rw [e, Blk.showCredits, Blk.setF_out, hid1, hl1, ho1]
    rfl
  · rw [hgo, ev, ← hd1, ← hw2]
    rfl

/-! ### A message whose turn it is (R344, R347) -/

theorem Blk.Sent.now_eq (h : r.Sent s) : s.now = r.now := by
  obtain ⟨⟨_, _, _, _, _, _, e⟩, -, -, -⟩ := h
  rw [e]

theorem Blk.Sent.wal_eq (h : r.Sent s) : s.wal = r.wal := by
  obtain ⟨⟨_, _, _, _, _, _, e⟩, -, -, -⟩ := h
  rw [e]

/-- A word that no message shows in. -/
theorem Blk.Sent.reg (h : r.Sent s) {a : Nat} (hc : cntWord a = false) (ha : ¬waleWord a) : s.reg a = r.reg a := h.regs a hc ha

theorem not_waleWord {a : Nat} (h : a < 0x110100 ∨ 0x110144 ≤ a) : ¬waleWord a := by
  rintro ⟨l, hl, h1 | h1⟩
  · simp only [WAL_LINK_STATUS] at h1
    omega
  · simp only [WAL_CREDIT_STALLS] at h1
    omega

theorem Blk.Sent.chipId (h : r.Sent s) : s.chipId = r.chipId := by
  rw [Blk.chipId, Blk.rn_of_reg (h.reg (cntWord_low (by decide)) (not_waleWord (by decide))), Blk.chipId]

theorem Blk.inOrder_of_none {l w n : Nat} (h : (s.link l).early = []) : Blk.inOrder l w (n + 1) s = (s, []) := by
  simp [Blk.inOrder, h]

/-- The next message of a link, with none received ahead of it, is handled alone. -/
theorem Blk.takeSeq_of_next {l : Nat} {m : List Nat} (he : (s.link l).early = []) (hs : (s.link l).seqIn < 256)
    (hm : bits (m.headD 0) 15 8 = ((s.link l).seqIn + 1) % 256) : ∃ links, s.takeSeq l m = ({ s with links := links }, [m]) := by
  have hd : ((((s.link l).seqIn + 1) % 256 + 256 - (s.link l).seqIn) % 256) = 1 := by omega
  unfold Blk.takeSeq
  extract_lets x seq d w
  have hd' : d = 1 := by unfold d seq x; rw [hm]; exact hd
  rw [if_neg (by omega)]
  have h1 : (s.setLink l { x with early := x.early ++ [(seq, m)] }).link l = { x with early := [(seq, m)] } := by
    rw [Blk.link_setLink_same, he]
    rfl
  unfold Blk.inOrder
  rw [h1]
  extract_lets y next
  have hf : y.early.find? (fun e => e.1 == next) = some (seq, m) := by simp [y, next, seq, hm, x]
  rw [hf]
  dsimp only
  rw [Blk.inOrder_of_none (by rw [Blk.link_setLink_same]; simp [y])]
  exact ⟨_, rfl⟩

theorem waleReceived_of_next {l t : Nat} {m : List Nat} (hl : l < 3) (hu : s.linkUp l = true) (ha : s.linkAligned l = true)
    (h0 : mtypeOf m ≠ 0) (h4 : mtypeOf m ≠ 4) (h5 : mtypeOf m ≠ 5) (he : (s.link l).early = []) (hs : (s.link l).seqIn < 256)
    (hm : bits (m.headD 0) 15 8 = ((s.link l).seqIn + 1) % 256) :
    ∃ u links, (s.advance t).Sent u ∧ waleReceived l t m (s.waleCheck l m) s = Blk.waleHandle l { u with links := links } m := by
  have h1 : (s.advance t).linkUp l = true := (s.linkUp_advance t l hl).trans hu
  have h2 : (s.advance t).linkAligned l = true := (s.linkAligned_advance t l hl).trans ha
  have hS : (s.advance t).Sent ((s.advance t).takeFreed l m) := (Blk.Sent.refl _).takeFreed hl
  obtain ⟨hr1, hr2⟩ := hS.received l
  rw [s.link_advance] at hr1 hr2
  obtain ⟨links, e⟩ := Blk.takeSeq_of_next (s := (s.advance t).takeFreed l m) (hr2.trans he) (by rw [hr1]; exact hs) (by rw [hr1]; exact hm)
  refine ⟨_, links, hS, ?_⟩
  rw [waleReceived, if_neg (by simp [h1, h2]), if_neg (by rw [s.waleCheck_advance t l m hl]; exact not_not.2 rfl)]
  dsimp only
  split
  · exact absurd ‹_› h0
  · exact absurd ‹_› h4
  · exact absurd ‹_› h5
  · rw [e]
    rfl

theorem Blk.Sent.forward (h : r.Sent s) {l : Nat} {m : List Nat} : r.Sent (s.forward l m).1 := by
  unfold Blk.forward
  split
  · exact h
  · next o ho =>
    have ho3 : o < 3 := by
      unfold otherLink at ho
      split at ho
      · rw [← Option.some.inj ho]; decide
      · split at ho
        · rw [← Option.some.inj ho]; decide
        · exact absurd ho (by simp)
    dsimp only
    split
    · exact h
    · exact h.sendAll ho3

theorem Blk.Sent.passBroadcast (h : r.Sent s) {l : Nat} {m : List Nat} : r.Sent (s.passBroadcast l m) :=
  h.freeBuf.ite (h.forward.ite h.freeBuf)

/-- The registers of the wale. -/
def walReg (a : Nat) : Prop := a / 2 ^ 16 = 0x11

theorem walReg_of_range {a : Nat} (h : 0x110000 ≤ a) (h' : a < 0x120000) : walReg a := by
  unfold walReg
  omega

theorem walReg_of_waleWord {a : Nat} (h : waleWord a) : walReg a := by
  unfold walReg
  obtain ⟨k, hk, h | h⟩ := h
  · simp only [WAL_LINK_STATUS] at h
    omega
  · simp only [WAL_CREDIT_STALLS] at h
    omega

/-- A DISCOVER of another controller is remembered and, received directly, names the neighbour. -/
theorem Blk.discovered_of_other {l : Nat} {m : List Nat} (hn : (payloadOf m).headD 0 % 4096 ≠ s.chipId) (hd : bits (m.getD 2 0) 23 19 = 31) :
    s.discovered l m = { s.wn (WAL_NEIGHBOUR l) ((payloadOf m).headD 0 % 4096) with
      wal := if l < 2 then { s.wal with heard := aput s.wal.heard ((payloadOf m).headD 0 % 4096) s.now } else s.wal } := by
  have hc : (s.wn (WAL_NEIGHBOUR l) ((payloadOf m).headD 0 % 4096)).chipId = s.chipId := by
    rw [Blk.chipId, Blk.rn_wn_ne _ _ (by simp only [WAL_ID, WAL_NEIGHBOUR]; omega), Blk.chipId]
  rw [Blk.discovered, if_pos hd]
  extract_lets p id s1
  rw [if_neg fun h => hn (h.1.trans hc)]
  split <;> rfl

/-- A DISCOVER handled on a link. -/
theorem Blk.waleHandle_discover {l : Nat} {m : List Nat} (hl : l < 3) (hm : mtypeOf m = 3) (hd : bits (m.getD 2 0) 23 19 = 31)
    (hn : (payloadOf m).headD 0 % 4096 ≠ s.chipId) :
    (Blk.waleHandle l s m).rn (WAL_NEIGHBOUR l) = (payloadOf m).headD 0 % 4096 ∧
      (l < 2 → ((payloadOf m).headD 0 % 4096, s.now) ∈ (Blk.waleHandle l s m).wal.heard) ∧ s.Frame (Blk.waleHandle l s m) walReg := by
  have hgo : Blk.waleHandle l s m = ((s.discovered l m).ringView).passBroadcast l m := by
    unfold Blk.waleHandle
    rw [hm]
    rfl
  have hS : ((s.discovered l m).ringView).Sent (((s.discovered l m).ringView).passBroadcast l m) := (Blk.Sent.refl _).passBroadcast
  have hF1 : s.Frame (s.wn (WAL_NEIGHBOUR l) ((payloadOf m).headD 0 % 4096)) walReg :=
    (Blk.Frame.refl s walReg).wn (walReg_of_range (by simp only [WAL_NEIGHBOUR]; omega) (by simp only [WAL_NEIGHBOUR]; omega))
  have hF0 : s.Frame (s.discovered l m) walReg := by
    rw [Blk.discovered_of_other hn hd]
    exact hF1.put
  have hV : (s.discovered l m).Frame (s.discovered l m).ringView fun a => a = WAL_RING_SIZE ∨ a = WAL_STATUS := (Blk.Frame.refl _ _).ringView (.inl rfl) (.inr rfl)
  rw [hgo]
  refine ⟨?_, fun h2 => ?_, (hF0.ringView (walReg_of_range (by decide) (by decide)) (walReg_of_range (by decide) (by decide))).trans (hS.frame fun _ => walReg_of_waleWord)⟩
  · have hc : cntWord (WAL_NEIGHBOUR l) = false := cntWord_low (by simp only [WAL_NEIGHBOUR]; omega)
    have hw : ¬waleWord (WAL_NEIGHBOUR l) := by
      rintro ⟨k, -, h | h⟩
      · simp only [WAL_NEIGHBOUR, WAL_LINK_STATUS] at h
        omega
      · simp only [WAL_NEIGHBOUR, WAL_CREDIT_STALLS] at h
        omega
    rw [Blk.rn_of_reg (hS.reg hc hw), hV.1.rn hc (by simp only [WAL_NEIGHBOUR, WAL_RING_SIZE, WAL_STATUS]; omega), Blk.discovered_of_other hn hd]
    exact (Blk.rn_wn_same _ _ _).trans (Nat.mod_eq_of_lt (by omega))
  · obtain ⟨regs, evq, e⟩ := (s.discovered l m).ringView_eq
    have hwal : (((s.discovered l m).ringView).passBroadcast l m).wal = (s.discovered l m).viewNow := by rw [hS.wal_eq, e]
    rw [hwal, Blk.viewNow, Blk.discovered_of_other hn hd, if_pos h2]
    exact List.mem_filter.2 ⟨List.mem_cons_self, decide_eq_true (Nat.lt_add_of_pos_right (by decide))⟩

theorem discoverReceived_spec {l t : Nat} {m : List Nat} (hl : l < 3) (hu : s.linkUp l = true) (ha : s.linkAligned l = true) (hm : mtypeOf m = 3)
    (he : (s.link l).early = []) (hs : (s.link l).seqIn < 256) (hq : bits (m.headD 0) 15 8 = ((s.link l).seqIn + 1) % 256)
    (hd : bits (m.getD 2 0) 23 19 = 31) (hn : (payloadOf m).headD 0 % 4096 ≠ s.chipId) :
    (waleReceived l t m (s.waleCheck l m) s).rn (WAL_NEIGHBOUR l) = (payloadOf m).headD 0 % 4096 ∧
      (l < 2 → ((payloadOf m).headD 0 % 4096, max s.now t) ∈ (waleReceived l t m (s.waleCheck l m) s).wal.heard) ∧
      s.Frame (waleReceived l t m (s.waleCheck l m) s) walReg := by
  obtain ⟨u, links, hS, e⟩ := waleReceived_of_next (t := t) hl hu ha (by omega) (by omega) (by omega) he hs hq
  have hid : ({ u with links := links } : Blk).chipId = s.chipId := hS.chipId.trans (s.chipId_advance t)
  obtain ⟨h1, h2, hF⟩ := Blk.waleHandle_discover (s := { u with links := links }) hl hm hd (by rw [hid]; exact hn)
  have hnow : ({ u with links := links } : Blk).now = max s.now t := hS.now_eq.trans (s.now_advance t)
  have hF0 : s.Frame u walReg := ((Blk.Frame.refl s walReg).advance).trans (hS.frame fun _ => walReg_of_waleWord)
  rw [e]
  exact ⟨h1, fun h => hnow ▸ h2 h, hF0.put.trans hF⟩

/-- Settles O36. -/
theorem ringDiscovery : Obligations.RingDiscovery := by
  intro s t hs
  refine ⟨fun hid hd hu ha hq hc h1 h2 => .of_on (f := discoverSend t) rfl hs (discoverSend_spec hid hd hu ha hq hc h1 h2),
    fun l m hu ha _ hm he hq hb hd hn => ?_,
    fun hl => .of_on (f := fun b => (b.advance t).ringView) rfl hs (discoverExpiry_spec hl)⟩
  refine .of_on (f := fun b => if mtypeOf (wordsNat m) = 3 then waleReceived l t (wordsNat m) (b.waleCheck l (wordsNat m)) b else b) rfl hs ?_
  rw [if_pos hm]
  exact discoverReceived_spec l.isLt hu ha hm he hq hb hd hn

end Sys2Proof.Machine
end

section
/-!
PROOFS. Position beacons (R351 to R356).
-/

namespace Sys2Proof.Machine

variable {r s : Blk}

/-! ### What the beacons' conditions read -/

theorem Blk.f_lt_word (s : Blk) (x : Fld) (h : x.hi < 24) : s.f x < 2 ^ 24 := bits_lt_two_pow_24 _ h


theorem Blk.masterSrc_of_reg (h : s.reg LCK_MASTER = r.reg LCK_MASTER) : s.masterSrc = r.masterSrc := by
  rw [Blk.masterSrc, Blk.f_of_reg h, Blk.masterSrc]

theorem Blk.masterSrc_advance (s : Blk) (t : Nat) : (s.advance t).masterSrc = s.masterSrc :=
  Blk.masterSrc_of_reg (s.reg_advance t (cntWord_low (by decide)))

theorem Blk.running_advance (s : Blk) (t : Nat) : (s.advance t).running = s.running := s.fb_advance t (cntWord_low (by decide))

theorem Blk.bcnInt_of_reg (h : s.reg WAL_BCN_CFG = r.reg WAL_BCN_CFG) : s.bcnInt = r.bcnInt := by rw [Blk.bcnInt, Blk.f_of_reg h, Blk.bcnInt]

theorem Blk.bcnTo_of_reg (h : s.reg WAL_BCN_CFG = r.reg WAL_BCN_CFG) : s.bcnTo = r.bcnTo := by
  rw [Blk.bcnTo, Blk.bcnInt_of_reg h, Blk.f_of_reg h, Blk.bcnTo]

theorem Blk.beaconWords_sent (s : Blk) (n : Nat) : ({ s with wal := { s.wal with sent := n } } : Blk).beaconWords = s.beaconWords := rfl

/-! ### Beacons sent (R351, R352) -/

theorem beaconSend_spec {t : Nat} (hx : s.fb WAL_BCN_CFG_TX_EN = true) (hr : s.running = true) (hid : s.chipId ≠ 0)
    (hcf : s.fb WAL_STATUS_ID_CONFLICT = false) (hm : s.masterSrc ≠ 8) (hd : s.wal.sent + 250 * s.bcnInt ≤ t) (hu : s.linkUp 0 = true)
    (ha : (s.advance t).linkAwake 0 = true) (hq : (s.link 0).queue = []) (hc : (s.link 0).credits ≠ 0) (h1 : s.linkUp 1 = false) :
    (∃ lane, (beaconSend t s).out = .wale 0 lane ([2 * 65536 + ((s.link 0).sent + 1) % 256 * 256 + (s.link 0).freed % 256, s.chipId, 31 * 2 ^ 19] ++
      (s.advance t).beaconWords) :: s.out) ∧
      (beaconSend t s).wal.sent = max s.now t ∧ s.Frame (beaconSend t s) (· = WAL_LINK_STATUS 0) := by
  generalize hs1 : ({ s.advance t with wal := { (s.advance t).wal with sent := (s.advance t).now } } : Blk) = s1
  have hF1 : s.Frame s1 (· = WAL_LINK_STATUS 0) := hs1 ▸ ((Blk.Frame.refl s _).advance).put
  have hreg {a : Nat} (hc : cntWord a = false) : s1.reg a = s.reg a := hs1 ▸ s.reg_advance t hc
  have hid1 : s1.chipId = s.chipId := hs1 ▸ s.chipId_advance t
  have hup (l : Nat) (hl : l < 3) : s1.linkUp l = s.linkUp l := hs1 ▸ s.linkUp_advance t l hl
  have hl1 : s1.link 0 = s.link 0 := hs1 ▸ s.link_advance t 0
  have hd1 : s1.wal.sent = max s.now t := hs1 ▸ s.now_advance t
  have ho1 : s1.out = s.out := hs1 ▸ s.advance_out t
  have hb1 : s1.beaconWords = (s.advance t).beaconWords := hs1 ▸ (s.advance t).beaconWords_sent _
  have hm1 : s1.masterSrc ≠ 8 := by rw [Blk.masterSrc_of_reg (hreg (cntWord_low (by decide)))]; exact hm
  obtain ⟨lanes, wires, links, lane, e⟩ := Blk.broadcast_at_once (m := 2) (q := 2) (l := 0) (ws := (s.advance t).beaconWords)
    ((hup 0 (by decide)).trans hu) (hs1 ▸ ha) (by rw [hl1]; exact hq) (by rw [hl1]; exact hc)
  generalize hs2 : s1.broadcast 2 2 0 (s.advance t).beaconWords = s2 at e
  have h21 : s2.linkUp 1 = false := by
    rw [e, Blk.linkUp_showCredits_ne _ (by decide)]
    exact (hup 1 (by decide)).trans h1
  have hgo : beaconSend t s = s2 := by
    unfold beaconSend
    dsimp only
    rw [if_neg, hs1, if_neg hm1, hb1, hs2, Blk.broadcast_of_down h21]
    rw [s.fb_advance t (cntWord_low (by decide)), s.fb_advance t (x := WAL_STATUS_ID_CONFLICT) (cntWord_low (by decide)), s.running_advance, s.chipId_advance,
      s.advance_wal, Blk.bcnInt_of_reg (s.reg_advance t (cntWord_low (by decide))), hx, hr, hcf]
    simp
    omega
  have hw2 : s2.wal = s1.wal := by rw [e, Blk.showCredits, Blk.setF_wal]
  refine ⟨⟨lane, ?_⟩, by rw [hgo, hw2, hd1], ?_⟩
  · rw [hgo, e, Blk.showCredits, Blk.setF_out, hid1, hl1, ho1]
  · rw [hgo, e]
    exact hF1.put.showCredits rfl

/-! ### Beacons that stay away (R353, R356) -/

theorem beaconTimeout_spec {t : Nat} (hm : s.masterSrc = 8) (hf : s.fbActive = true) (hi : s.allIdle = false) (ha : s.wal.altAt = none)
    (hl : s.wal.lost = false) (hd : s.bcn.heard + s.bcnTo ≤ max s.now t) :
    (beaconTimeout t s).settle.fb WAL_BCN_STATUS_LOST = true ∧ (beaconTimeout t s).settle.f WAL_BCN_STATUS_USING = 0 ∧
      s.Raised (beaconTimeout t s).settle 0xA05 0 (s.f WAL_BCN_SRC_SRC) (s.f WAL_BCN_SRC_ALT) ∧ s.Frame (beaconTimeout t s).settle (· = WAL_BCN_STATUS) := by
  generalize hs1 : ({ s.advance t with wal := { (s.advance t).wal with lost := true } } : Blk) = s1
  have hF1 : s.Frame s1 (· = WAL_BCN_STATUS) := hs1 ▸ ((Blk.Frame.refl s _).advance).put
  have hgo : beaconTimeout t s = ((s1.setF WAL_BCN_STATUS_LOST 1).setF WAL_BCN_STATUS_USING 0).raise 0xA05 0 (s.f WAL_BCN_SRC_SRC) (s.f WAL_BCN_SRC_ALT) := by
    have hn : ¬((s.advance t).masterSrc ≠ 8 ∨ (s.advance t).now < (s.advance t).bcn.heard + (s.advance t).bcnTo) := by
      rw [s.masterSrc_advance, s.now_advance, s.advance_bcn, Blk.bcnTo_of_reg (s.reg_advance t (cntWord_low (by decide)))]
      omega
    have hreg {a : Nat} (h1 : cntWord a = false) (h2 : a ≠ WAL_BCN_STATUS) : ((s1.setF WAL_BCN_STATUS_LOST 1).setF WAL_BCN_STATUS_USING 0).reg a = s.reg a :=
      ((hF1.setF (x := WAL_BCN_STATUS_LOST) rfl).setF (x := WAL_BCN_STATUS_USING) rfl).1 a h1 h2
    have ha1 : (s.advance t).wal.altAt = none := by rw [s.advance_wal, ha]
    have hl1 : (s.advance t).wal.lost = false := by rw [s.advance_wal, hl]
    unfold beaconTimeout
    dsimp only
    rw [if_neg hn, if_neg (by rw [ha1]; exact Bool.false_ne_true), if_neg (by rw [hl1]; decide), hs1, Blk.f_of_reg (x := WAL_BCN_SRC_SRC) (hreg (cntWord_low (by decide)) (by decide)),
      Blk.f_of_reg (x := WAL_BCN_SRC_ALT) (hreg (cntWord_low (by decide)) (by decide)), if_pos]
    rw [Blk.fbActive, Blk.fb_of_reg (Blk.reg_of_regs (Blk.raise_regs _ _ _ _ _) _)]
    exact (Blk.fb_of_reg (x := LCK_STATUS_FB_ACTIVE) (hreg (cntWord_low (by decide)) (by decide))).trans hf
  have hq1 : s.evq <+: s1.evq := hs1 ▸ s.evq_advance_prefix t
  have hF : s.Frame (beaconTimeout t s) (· = WAL_BCN_STATUS) := by
    rw [hgo]
    exact ((hF1.setF rfl).setF rfl).raise
  rw [Blk.settle_of_busy ((hF.1.allIdle fun k hk => by simp only [PGE_TRK_STATUS, WAL_BCN_STATUS]; omega).trans hi)]
  refine ⟨?_, ?_, ?_, hF⟩
  · rw [hgo, Blk.fb_of_reg (Blk.reg_of_regs (Blk.raise_regs _ _ _ _ _) _), Blk.fb_setF_ne _ _ _ _ (by decide) (by decide) (by decide) (by decide),
      Blk.fb_setF_same _ _ _ (by decide) (by decide)]
    rfl
  · rw [hgo, Blk.f_of_reg (Blk.reg_of_regs (Blk.raise_regs _ _ _ _ _) _), Blk.f_setF_same _ _ _ (by decide) (by decide)]
    rfl
  · rw [hgo]
    exact (Blk.Raised.raise (r := s1) (by simp) _ (by decide) (s.f_lt_word _ (by decide)) (s.f_lt_word _ (by decide))).of_left hq1

/-! ### Beacons received (R353 to R357) -/

theorem Blk.updateLat_eq (s : Blk) : ∃ v, s.updateLat = s.wn PGE_LAT_TOL v := by
  unfold Blk.updateLat
  extract_lets tols
  split
  · exact ⟨_, rfl⟩
  · exact ⟨_, rfl⟩

theorem Blk.timNs_of (hn : s.now = r.now) (ht : s.tim = r.tim) (ha : ∀ a, a = TIM_ADDEND ∨ a = TIM_ADDEND + 1 → s.reg a = r.reg a) : s.timNs = r.timNs := by
  have hv : s.val TIM_ADDEND 2 = r.val TIM_ADDEND 2 := Blk.val_of_reg fun i hi => ha _ (by omega)
  rw [Blk.timNs, Blk.timUnits, hn, ht, hv, Blk.timNs, Blk.timUnits]

/-- The state of a master that a beacon of its first kind gives: position, speed and time, with nothing to slew. -/
def bcnFirst (p : List Nat) (tb ta now : Nat) : Bcn :=
  { pb := sext 56 (p.getD 1 0 + p.getD 2 0 * 2 ^ 24 + p.getD 3 0 % 256 * 2 ^ 48), vel := sext 32 (p.getD 4 0 + p.getD 5 0 % 256 * 2 ^ 24), tb := tb,
    seq := some (bits (p.headD 0) 15 8), slewE := 0, ta := ta, ts := 0, heard := now }

/-- The first beacon accepted, of a master that is not held. -/
theorem Blk.bcnAccept_first {id tb : Nat} {p : List Nat} (hp : bitOf (p.headD 0) 23 = false) :
    ∃ wal, s.bcnAccept id tb true p =
      let t := (({ s with bcn := bcnFirst p tb s.timNs s.now, wal := wal } : Blk).count 0x6E).moved
      if t.running then t.updateLat else t := by
  unfold Blk.bcnAccept
  simp only [hp, Bool.true_or, Bool.not_true, Bool.false_and, if_true, Bool.false_eq_true, if_false]
  exact ⟨_, rfl⟩

/-- What it leaves: the master in use, and the words that show it. -/
theorem Blk.bcnAccept_first_spec {id tb : Nat} {p : List Nat} (hp : bitOf (p.headD 0) 23 = false) :
    (s.bcnAccept id tb true p).bcn = bcnFirst p tb s.timNs s.now ∧ s.Frame (s.bcnAccept id tb true p) fun a => a = PGE_LAT_TOL ∧ s.running = true := by
  obtain ⟨wal, e⟩ := Blk.bcnAccept_first (s := s) (id := id) (tb := tb) hp
  generalize hv : (({ s with bcn := bcnFirst p tb s.timNs s.now, wal := wal } : Blk).count 0x6E).moved = v at e
  have hvb : v.bcn = bcnFirst p tb s.timNs s.now := by
    obtain ⟨lck, sht, em⟩ := Blk.moved_eq (({ s with bcn := bcnFirst p tb s.timNs s.now, wal := wal } : Blk).count 0x6E)
    rw [← hv, em, Blk.count_bcn]
  have hvF : s.Frame v fun a => a = PGE_LAT_TOL ∧ s.running = true := by
    obtain ⟨lck, sht, em⟩ := Blk.moved_eq (({ s with bcn := bcnFirst p tb s.timNs s.now, wal := wal } : Blk).count 0x6E)
    rw [← hv, em]
    exact ((Blk.Frame.refl s _).put.count).put
  obtain ⟨y, el⟩ := v.updateLat_eq
  dsimp only at e
  rw [e]
  split
  · have hr : s.running = true := by
      rw [← ‹v.running = true›]
      exact (hvF.1.fb (x := LCK_STATUS_RUNNING) (cntWord_low (by decide)) fun h => absurd h.1 (by decide)).symm
    rw [el]
    exact ⟨hvb, hvF.wn ⟨rfl, hr⟩⟩
  · exact ⟨hvb, hvF⟩

theorem Blk.Sent.bcn_eq (h : r.Sent s) : s.bcn = r.bcn := by
  obtain ⟨⟨_, _, _, _, _, _, e⟩, -, -, -⟩ := h
  rw [e]

theorem Blk.useSource_first (hu : s.f WAL_BCN_STATUS_USING = 0) (id : Nat) : s.useSource 1 id = s.setF WAL_BCN_STATUS_USING 1 := by
  rw [Blk.useSource]
  exact if_pos (.inr ⟨hu, rfl⟩)

/-- A beacon from SRC while none is in use comes into use. -/
theorem Blk.bcnReceived_first {m : List Nat} (hm : s.masterSrc = 8) (hu : s.f WAL_BCN_STATUS_USING = 0)
    (hl : s.bcn.seq = none ∨ s.bcn.tb < beaconTime s.timNs (payloadOf m)) (hs : srcOf m = s.f WAL_BCN_SRC_SRC) :
    s.bcnReceived m = (s.setF WAL_BCN_STATUS_USING 1).bcnAccept (srcOf m) (beaconTime s.timNs (payloadOf m)) true (payloadOf m) := by
  have hlater : (s.bcn.seq.isNone || decide (s.bcn.tb < beaconTime s.timNs (payloadOf m))) = true := by
    rcases hl with h | h
    · rw [h]; rfl
    · rw [decide_eq_true h, Bool.or_true]
  unfold Blk.bcnReceived
  extract_lets p id tb use later
  have h1 : ¬(s.masterSrc ≠ 8 ∨ (!later) = true) := by
    rw [show later = true from hlater, hm]
    simp
  rw [if_neg h1, if_pos hs, Blk.useSource_first hu, show use = 0 from hu]
  rfl

theorem beaconReceived_spec {t : Nat} {m : List Nat} (hm : s.masterSrc = 8) (hu : s.linkUp 2 = true) (ha : s.linkAligned 2 = true) (hp : s.paired = false)
    (hi : s.allIdle = false) (h2 : mtypeOf m = 2) (he : (s.link 2).early = []) (hs : (s.link 2).seqIn < 256)
    (hq : bits (m.headD 0) 15 8 = ((s.link 2).seqIn + 1) % 256) (hus : s.f WAL_BCN_STATUS_USING = 0)
    (hl : s.bcn.seq = none ∨ s.bcn.tb < beaconTime (s.advance t).timNs (payloadOf m)) (hsrc : srcOf m = s.f WAL_BCN_SRC_SRC)
    (h23 : bitOf ((payloadOf m).headD 0) 23 = false) :
    let b := (waleReceived 2 t m (s.waleCheck 2 m) s).settle
    b.f WAL_BCN_STATUS_USING = 1 ∧ (∃ tb ta, b.bcn = bcnFirst (payloadOf m) tb ta (max s.now t)) ∧
      s.Frame b fun a => a / 2 ^ 16 = 0x11 ∨ (a = PGE_LAT_TOL ∧ s.running = true) := by
  intro b
  obtain ⟨u, links, hS, e⟩ := waleReceived_of_next (t := t) (by decide) hu ha (by omega) (by omega) (by omega) he hs hq
  generalize hv : ({ u with links := links } : Blk) = v at e
  have hreg {a : Nat} (hc : cntWord a = false) (hw : a < 0x110100 ∨ 0x110144 ≤ a) : v.reg a = s.reg a := by
    rw [← hv]
    exact (hS.reg hc (not_waleWord hw)).trans (s.reg_advance t hc)
  have hFv : s.Frame v fun a => a / 2 ^ 16 = 0x11 ∨ (a = PGE_LAT_TOL ∧ s.running = true) := by
    rw [← hv]
    exact (((Blk.Frame.refl s _).advance).trans (hS.frame fun a h => .inl (walReg_of_waleWord h))).put
  have hbcn : v.bcn = s.bcn := by
    rw [← hv, ← s.advance_bcn t]
    exact hS.bcn_eq
  have hnow : v.now = max s.now t := by
    rw [← hv, ← s.now_advance t]
    exact hS.now_eq
  have htim : u.tim = (s.advance t).tim := by
    obtain ⟨⟨_, _, _, _, _, _, eu⟩, -, -, -⟩ := hS
    rw [eu]
  have hns : v.timNs = (s.advance t).timNs := by
    rw [← hv]
    exact Blk.timNs_of hS.now_eq htim fun a ha => by
      rcases ha with rfl | rfl <;> exact hS.reg (cntWord_low (by decide)) (not_waleWord (by decide))
  have hrec : v.bcnReceived m = _ := Blk.bcnReceived_first ((Blk.masterSrc_of_reg (hreg (cntWord_low (by decide)) (by decide))).trans hm)
    ((Blk.f_of_reg (hreg (cntWord_low (by decide)) (by decide))).trans hus) (by rw [hbcn, hns]; exact hl)
    (hsrc.trans (Blk.f_of_reg (hreg (cntWord_low (by decide)) (by decide))).symm)
  obtain ⟨hab, haF⟩ := Blk.bcnAccept_first_spec (s := v.setF WAL_BCN_STATUS_USING 1) (id := srcOf m) (tb := beaconTime v.timNs (payloadOf m)) h23
  have hgo : waleReceived 2 t m (s.waleCheck 2 m) s = (v.bcnReceived m).passBroadcast 2 m := by
    have hpv : v.paired = false := by
      rw [← hp, Blk.paired, Blk.twnState, Blk.f_of_reg (hreg (cntWord_low (by decide)) (by decide))]
      rfl
    rw [e]
    unfold Blk.waleHandle
    rw [h2]
    exact if_neg (by rw [hpv]; simp)
  have hrun : (v.setF WAL_BCN_STATUS_USING 1).running = s.running := by
    rw [Blk.running, Blk.fb_setF_ne _ _ _ _ (by decide) (by decide) (by decide) (by decide), Blk.fb_of_reg (hreg (cntWord_low (by decide)) (by decide))]
    rfl
  have hP : (v.bcnReceived m).Sent ((v.bcnReceived m).passBroadcast 2 m) := (Blk.Sent.refl _).passBroadcast
  have hF2 : (v.setF WAL_BCN_STATUS_USING 1).Frame (v.bcnReceived m) fun a => a = PGE_LAT_TOL ∧ s.running = true := by
    rw [hrec, ← hrun]
    exact haF
  have hF : s.Frame ((v.bcnReceived m).passBroadcast 2 m) fun a => a / 2 ^ 16 = 0x11 ∨ (a = PGE_LAT_TOL ∧ s.running = true) :=
    ((hFv.setF (x := WAL_BCN_STATUS_USING) (v := 1) (.inl (by decide))).trans (hF2.mono fun _ => .inr)).trans
      (hP.frame fun a h => .inl (walReg_of_waleWord h))
  have hb : b = (v.bcnReceived m).passBroadcast 2 m := by
    unfold b
    rw [hgo]
    refine Blk.settle_of_busy ((hF.1.allIdle fun k hk => ?_).trans hi)
    simp only [PGE_TRK_STATUS, PGE_LAT_TOL]
    omega
  rw [hb]
  refine ⟨?_, ⟨beaconTime v.timNs (payloadOf m), (v.setF WAL_BCN_STATUS_USING 1).timNs, ?_⟩, hF⟩
  · rw [Blk.f_of_reg (hP.reg (cntWord_low (by decide)) (not_waleWord (by decide))),
      hF2.1.f (x := WAL_BCN_STATUS_USING) (cntWord_low (by decide)) fun h => absurd h.1 (by decide), Blk.f_setF_same _ _ _ (by decide) (by decide)]
    rfl
  · rw [hP.bcn_eq, hrec, hab, ← hnow]
    rfl

/-- Settles O37. -/
theorem positionBeacons : Obligations.PositionBeacons := by
  intro s t hs
  refine ⟨fun hx hr hid hcf hm hd hu ha hq hc h1 => .of_on (f := beaconSend t) rfl hs (beaconSend_spec hx hr hid hcf hm hd hu ha hq hc h1),
    fun m hm hu ha hp hi h2 he hq hb hus hl hsrc h23 => ?_,
    fun hm hf hi ha hl hd => .of_on (f := fun x => (beaconTimeout t x).settle) rfl hs (beaconTimeout_spec hm hf hi ha hl hd)⟩
  refine .of_on (f := fun x => if mtypeOf (wordsNat m) = 2 then (waleReceived 2 t (wordsNat m) (x.waleCheck 2 (wordsNat m)) x).settle else x) rfl hs ?_
  rw [if_pos h2]
  obtain ⟨h1, ⟨tb, ta, hbcn⟩, hF⟩ := beaconReceived_spec (t := t) hm hu ha hp hi h2 he hq hb hus hl hsrc h23
  exact ⟨h1, by rw [hbcn]; rfl, by rw [hbcn]; rfl, by rw [hbcn]; rfl, by rw [hbcn]; rfl, hF⟩

end Sys2Proof.Machine
end

section
/-!
PROOFS. Time: parents, steps and references, the IEEE 1588 port, timed outputs and captures (R359 to R371, R529); and a table of outputs that
refutes what is claimed of time over wale.
-/

namespace Sys2Proof.Machine

variable {r s : Blk}

/-! ### Reads after writes that leave them -/

theorem Blk.timSource_of_reg (h : s.reg TIM_CFG = r.reg TIM_CFG) : s.timSource = r.timSource := by
  rw [Blk.timSource, Blk.f_of_reg h, Blk.timSource]

theorem Blk.timAlt_of_reg (h : s.reg TIM_CFG = r.reg TIM_CFG) : s.timAlt = r.timAlt := by
  rw [Blk.timAlt, Blk.f_of_reg h, Blk.timAlt]

theorem parentCode_lt (v : Nat) : parentCode v < 6 := by
  unfold parentCode
  split <;> omega

theorem Blk.timParent_lt (s : Blk) : s.timParent < 6 := by
  unfold Blk.timParent
  split
  · exact parentCode_lt _
  · exact parentCode_lt _

theorem Blk.timParent_of_reg (h : s.reg TIM_CFG = r.reg TIM_CFG) (hu : s.fb TIM_STATUS_ALT_USED = r.fb TIM_STATUS_ALT_USED) :
    s.timParent = r.timParent := by
  rw [Blk.timParent, Blk.timSource_of_reg h, Blk.timAlt_of_reg h, hu, Blk.timParent]

/-! ### LOCKED (R362) -/

/-- The run of good measurements over. -/
def Blk.noGood (s : Blk) : Blk := { s with time := { s.time with good := 0 } }

theorem Blk.unlock_def (s : Blk) (c : Nat) : s.unlock c =
    if !s.fb TIM_STATUS_LOCKED || s.timSource == 0 then s.noGood else (s.noGood.setF TIM_STATUS_LOCKED 0).raise 0xA11 0 s.timParent c := rfl

theorem Blk.unlock_eq (s : Blk) (c : Nat) : ∃ regs evq time, s.unlock c = { s with regs := regs, evq := evq, time := time } := by
  rw [Blk.unlock_def]
  split
  · exact ⟨_, _, _, rfl⟩
  · exact ⟨_, _, _, rfl⟩

theorem Blk.Frame.unlock {p : Nat → Prop} (h : r.Frame s p) {c : Nat} (hp : p TIM_STATUS) : r.Frame (s.unlock c) p := by
  have hF : r.Frame s.noGood p := h.put
  rw [Blk.unlock_def]
  exact hF.ite ((hF.setF (x := TIM_STATUS_LOCKED) hp).raise)

/-- With a parent, LOCKED is 0 after it is left. -/
theorem Blk.fb_unlock_locked (s : Blk) (c : Nat) (h : s.timSource ≠ 0) : (s.unlock c).fb TIM_STATUS_LOCKED = false := by
  rw [Blk.unlock_def]
  split
  · next hc =>
    have hl : s.fb TIM_STATUS_LOCKED = false := by simpa [h] using hc
    exact hl
  · rw [Blk.fb_of_reg (Blk.reg_of_regs (Blk.raise_regs _ _ _ _ _) _), Blk.fb_setF_same _ _ _ (by decide) (by decide)]
    rfl

/-- The other fields of TIM_STATUS stand. -/
theorem Blk.fb_unlock_ne (s : Blk) (c : Nat) {x : Fld} (hx : x.lo ≤ x.hi) (hx' : x.hi < 24) (h : x.addr ≠ TIM_STATUS ∨ 0 < x.lo) :
    (s.unlock c).fb x = s.fb x := by
  rw [Blk.unlock_def]
  split
  · rfl
  · rw [Blk.fb_of_reg (Blk.reg_of_regs (Blk.raise_regs _ _ _ _ _) _), Blk.fb_setF_ne _ _ _ _ (by decide) hx hx' (h.imp id .inr)]
    rfl

/-- LOCK_LOST where LOCKED was 1. -/
theorem Blk.raised_unlock (s : Blk) {c : Nat} (hc : c < 2 ^ 24) (h : s.timSource ≠ 0) (hl : s.fb TIM_STATUS_LOCKED = true) :
    s.Raised (s.unlock c) 0xA11 0 s.timParent c := by
  have hp := s.timParent_lt
  rw [Blk.unlock_def, if_neg (by simp [h, hl])]
  exact .raise (Blk.setF_evq _ _ _) _ (by decide) (by omega) hc

theorem Blk.evq_unlock_prefix (s : Blk) (c : Nat) : s.evq <+: (s.unlock c).evq := by
  rw [Blk.unlock_def]
  split
  · exact List.prefix_rfl
  · have h := (s.noGood.setF TIM_STATUS_LOCKED 0).evq_raise_prefix 0xA11 0 s.timParent c
    rwa [Blk.setF_evq] at h

/-! ### Parents and references (R359 to R362, R368, R529) -/

theorem Blk.parentInterval_advance (s : Blk) (t k : Nat) : (s.advance t).parentInterval k = s.parentInterval k := by
  have h1 : (s.advance t).f TIM_PTP_INT_SYNC = s.f TIM_PTP_INT_SYNC := s.f_advance t (cntWord_low (by decide))
  have h2 : (s.advance t).rn WAL_TS_CFG = s.rn WAL_TS_CFG := s.rn_advance t (cntWord_low (by decide))
  simp only [Blk.parentInterval, Blk.tsInterval, h1, h2]

theorem Blk.timSource_advance (s : Blk) (t : Nat) : (s.advance t).timSource = s.timSource := Blk.timSource_of_reg (s.reg_advance t (cntWord_low (by decide)))

theorem Blk.timAlt_advance (s : Blk) (t : Nat) : (s.advance t).timAlt = s.timAlt := Blk.timAlt_of_reg (s.reg_advance t (cntWord_low (by decide)))

section

variable {t : Nat} (hs : s.timSource ≠ 0) (hl : s.fb TIM_STATUS_PARENT_LOST = false) (hu : s.fb TIM_STATUS_ALT_USED = false)
  (hd : s.time.main + 8 * s.parentInterval s.timSource ≤ max s.now t)

include hs hl hu hd in
/-- SOURCE is lost, with ALT not in use. -/
theorem parentLost_of_source : parentLost t s =
    if s.timAlt = 0 then ((s.advance t).setF TIM_STATUS_PARENT_LOST 1).unlock 1
    else ({ s.advance t with time := { (s.advance t).time with alt := (s.advance t).now } } : Blk).setF TIM_STATUS_ALT_USED 1 := by
  have h1 : (s.advance t).fb TIM_STATUS_PARENT_LOST = false := (s.fb_advance t (cntWord_low (by decide))).trans hl
  have h2 : (s.advance t).fb TIM_STATUS_ALT_USED = false := (s.fb_advance t (cntWord_low (by decide))).trans hu
  have h3 : (s.advance t).time.main + 8 * s.parentInterval s.timSource ≤ (s.advance t).now := by rw [s.advance_time, s.now_advance]; exact hd
  simp only [parentLost, s.timSource_advance, s.timAlt_advance, s.parentInterval_advance, h1, h2, hs, h3, decide_true, Bool.not_true, Bool.false_eq_true,
    or_self, if_false]

include hs hl hu hd in
theorem parentLost_without_alt (ha : s.timAlt = 0) :
    (parentLost t s).fb TIM_STATUS_PARENT_LOST = true ∧ (parentLost t s).fb TIM_STATUS_LOCKED = false ∧
      (s.fb TIM_STATUS_LOCKED = true → s.Raised (parentLost t s) 0xA11 0 s.timSource 1) ∧ s.Frame (parentLost t s) (· = TIM_STATUS) := by
  have hF : s.Frame ((s.advance t).setF TIM_STATUS_PARENT_LOST 1) (· = TIM_STATUS) := ((Blk.Frame.refl s _).advance).setF rfl
  have hsrc : ((s.advance t).setF TIM_STATUS_PARENT_LOST 1).timSource = s.timSource := Blk.timSource_of_reg (hF.1 _ (cntWord_low (by decide)) (by decide))
  rw [parentLost_of_source hs hl hu hd, if_pos ha]
  refine ⟨?_, Blk.fb_unlock_locked _ _ (by rw [hsrc]; exact hs), fun h => ?_, hF.unlock rfl⟩
  · rw [Blk.fb_unlock_ne _ _ (by decide) (by decide) (by decide), Blk.fb_setF_same _ _ _ (by decide) (by decide)]
    rfl
  · have hlk : ((s.advance t).setF TIM_STATUS_PARENT_LOST 1).fb TIM_STATUS_LOCKED = true := by
      rw [Blk.fb_setF_ne _ _ _ _ (by decide) (by decide) (by decide) (by decide), s.fb_advance t (cntWord_low (by decide))]
      exact h
    have hpar : ((s.advance t).setF TIM_STATUS_PARENT_LOST 1).timParent = s.timSource := by
      rw [Blk.timParent, Blk.fb_setF_ne _ _ _ _ (by decide) (by decide) (by decide) (by decide), s.fb_advance t (cntWord_low (by decide)), hu, hsrc]
      rfl
    have h := Blk.raised_unlock _ (c := 1) (by decide) (by rw [hsrc]; exact hs) hlk
    rw [hpar] at h
    exact h.of_left (by rw [Blk.setF_evq]; exact s.evq_advance_prefix t)

include hs hl hu hd in
theorem parentLost_with_alt (ha : s.timAlt ≠ 0) :
    (parentLost t s).fb TIM_STATUS_ALT_USED = true ∧ (parentLost t s).timParent = s.timAlt ∧ s.Frame (parentLost t s) (· = TIM_STATUS) := by
  have hF0 : s.Frame { s.advance t with time := { (s.advance t).time with alt := (s.advance t).now } } (· = TIM_STATUS) := ((Blk.Frame.refl s _).advance).put
  have hF := hF0.setF (x := TIM_STATUS_ALT_USED) (v := 1) rfl
  rw [parentLost_of_source hs hl hu hd, if_neg ha]
  have hb : (({ s.advance t with time := { (s.advance t).time with alt := (s.advance t).now } } : Blk).setF TIM_STATUS_ALT_USED 1).fb TIM_STATUS_ALT_USED = true := by
    rw [Blk.fb_setF_same _ _ _ (by decide) (by decide)]
    rfl
  exact ⟨hb, by rw [Blk.timParent, hb, if_pos rfl]; exact Blk.timAlt_of_reg (hF.1 _ (cntWord_low (by decide)) (by decide)), hF⟩

end

/-! ### Steps of local time (R360) -/

/-- Local time taken to another value, from now on. -/
def Blk.timTo (s : Blk) (d : Int) : Blk :=
  { s with tim := ⟨(((s.timUnits : Int) + d * 65536) % (2 ^ 48 * 1000000000 * 2 ^ 32)).toNat, s.now⟩ }

theorem Blk.timUnits_timTo (s : Blk) (d : Int) : ((s.timTo d).timUnits : Int) = ((s.timUnits : Int) + d * 65536) % (2 ^ 48 * 1000000000 * 2 ^ 32) := by
  have h : (s.timTo d).timUnits = (((s.timUnits : Int) + d * 65536) % (2 ^ 48 * 1000000000 * 2 ^ 32)).toNat := by
    rw [Blk.timUnits]
    show _ + 2 * (s.now - s.now) * _ = _
    rw [Nat.sub_self, Nat.mul_zero, Nat.zero_mul, Nat.add_zero]
    rfl
  rw [h, Int.toNat_of_nonneg (Int.emod_nonneg _ (by decide))]

/-- A step with no output armed. -/
theorem Blk.stepTime_of_none (h : s.time.ttos = []) (d : Int) (k : Nat) :
    s.stepTime d k = (((s.timTo d).setF TIM_STATUS_STEPPED 1).raise 0xA12 0 k (nsS24 d)).unlock 2 := by
  unfold Blk.stepTime
  extract_lets m s1 s2 s3
  have h2 : s2 = s.timTo d := by
    unfold s2
    split
    · rw [show s1.time.ttos = [] from h]; rfl
    · rfl
  unfold s3
  rw [h2]

theorem Blk.timUnits_of_reg (hr : ∀ a, a = TIM_ADDEND ∨ a = TIM_ADDEND + 1 → s.reg a = r.reg a) (ht : s.tim = r.tim) (hn : s.now = r.now) :
    s.timUnits = r.timUnits := by
  rw [Blk.timUnits, ht, hn, Blk.val_of_reg (r := r) (a := TIM_ADDEND) fun i hi => hr _ (by omega), Blk.timUnits]

theorem Blk.evq_timTo (s : Blk) (d : Int) : (s.timTo d).evq = s.evq := rfl

theorem timStepWrite_spec {v : BitVec 48} (h : s.time.ttos = []) :
    (timStepWrite v s).fb TIM_STATUS_STEPPED = true ∧
      ((timStepWrite v s).timUnits : Int) = ((s.timUnits : Int) + v.toInt * 2 ^ 32) % (2 ^ 48 * 1000000000 * 2 ^ 32) ∧
      (s.timSource ≠ 0 → (timStepWrite v s).fb TIM_STATUS_LOCKED = false) ∧ s.Raised (timStepWrite v s) 0xA12 0 15 (wrapTo 24 (satS 24 v.toInt)) ∧
      s.Frame (timStepWrite v s) (· = TIM_STATUS) := by
  generalize hu : ((s.timTo (v.toInt * ns1)).setF TIM_STATUS_STEPPED 1).raise 0xA12 0 15 (nsS24 (v.toInt * ns1)) = u
  have hgo : timStepWrite v s = u.unlock 2 := by rw [timStepWrite, Blk.stepTime_of_none h, hu]
  have hT : s.Frame (s.timTo (v.toInt * ns1)) (· = TIM_STATUS) := (Blk.Frame.refl s _).put
  have hF : s.Frame u (· = TIM_STATUS) := by
    rw [← hu]
    exact (hT.setF rfl).raise
  have hns : nsS24 (v.toInt * ns1) = wrapTo 24 (satS 24 v.toInt) := by
    rw [nsS24, Int.mul_tdiv_cancel _ (by decide)]
  obtain ⟨regs, evq, time, e⟩ := u.unlock_eq 2
  rw [hgo]
  refine ⟨?_, ?_, fun hs => ?_, ?_, hF.unlock rfl⟩
  · rw [Blk.fb_unlock_ne _ _ (by decide) (by decide) (by decide), ← hu, Blk.fb_of_reg (Blk.reg_of_regs (Blk.raise_regs _ _ _ _ _) _),
      Blk.fb_setF_same _ _ _ (by decide) (by decide)]
    rfl
  · have hreg := (hF.unlock (c := 2) rfl).1
    have ht : (u.unlock 2).timUnits = (s.timTo (v.toInt * ns1)).timUnits := by
      refine Blk.timUnits_of_reg (fun a ha => ?_) (by rw [e, ← hu]; rfl) (by rw [e, ← hu]; rfl)
      rcases ha with rfl | rfl <;> exact hreg _ (cntWord_low (by decide)) (by decide)
    rw [ht, Blk.timUnits_timTo]
    congr 1
    rw [ns1]
    ring_nf
  · exact Blk.fb_unlock_locked _ _ (by rw [Blk.timSource_of_reg (hF.1 _ (cntWord_low (by decide)) (by decide))]; exact hs)
  · rw [← hns]
    refine Blk.Raised.of_right (s := u) ?_ (u.evq_unlock_prefix 2)
    rw [← hu]
    have hd : nsS24 (v.toInt * ns1) < 2 ^ 24 := by rw [hns]; exact wrapTo_lt _ _
    generalize nsS24 (v.toInt * ns1) = d at hd ⊢
    exact .raise ((Blk.setF_evq _ _ _).trans (Blk.evq_timTo _ _)) _ (by decide) (by decide) hd

/-- The reference that is lost clears LOCKED. -/
theorem clk10InLoss_spec (h : s.fb TIM_CFG_REF10 = true) :
    (clk10InLoss s).fb TIM_STATUS_LOCKED = false ∧ s.Raised (clk10InLoss s) 0xA11 0 s.timParent 1 ∧ s.Frame (clk10InLoss s) (· = TIM_STATUS) := by
  have hp := s.timParent_lt
  have hF : s.Frame (s.setF TIM_STATUS_LOCKED 0) (· = TIM_STATUS) := (Blk.Frame.refl s _).setF rfl
  rw [clk10InLoss, if_pos h]
  refine ⟨?_, .raise (Blk.setF_evq _ _ _) _ (by decide) (by omega) (by decide), hF.raise⟩
  rw [Blk.fb_of_reg (Blk.reg_of_regs (Blk.raise_regs _ _ _ _ _) _), Blk.fb_setF_same _ _ _ (by decide) (by decide)]
  rfl

/-! ### Measurements (R361, R362) -/

theorem satS_lower (n : Nat) (v : Int) : -((2 ^ (n - 1) : Nat) : Int) ≤ satS n v := by
  have h := Nat.two_pow_pos (n - 1)
  unfold satS
  split
  · omega
  · split <;> omega

theorem satS_upper (n : Nat) (v : Int) : satS n v < ((2 ^ (n - 1) : Nat) : Int) := by
  have h := Nat.two_pow_pos (n - 1)
  unfold satS
  split
  · omega
  · split <;> omega

theorem sext_wrapTo_satS {n : Nat} (hn : 0 < n) (v : Int) : sext n (wrapTo n (satS n v)) = satS n v :=
  sext_wrapTo hn (satS_lower n v) (satS_upper n v)

/-- The words in which a measurement shows. -/
def offsetWord (a : Nat) : Prop := a = TIM_OFFSET ∨ a = TIM_OFFSET + 1 ∨ a = TIM_STATUS

/-- What a measurement makes of LOCKED. -/
def Blk.lockBy (s : Blk) (o : Int) : Blk :=
  if o.natAbs ≤ s.f TIM_LOCK_CFG_LOCK_NS * 65536 then
    let s := { s with time := { s.time with good := min 16 (s.time.good + 1) } }
    if s.time.good = 16 ∧ !s.fb TIM_STATUS_LOCKED then (s.setF TIM_STATUS_LOCKED 1).raise 0xA10 0 s.timParent (nsS24 o) else s
  else if s.f TIM_LOCK_CFG_UNLOCK_NS * 65536 < o.natAbs then s.unlock 0
  else { s with time := { s.time with good := 0 } }

theorem Blk.offset_def (s : Blk) (o : Int) : s.offset o = ((s.setSval TIM_OFFSET 2 48 (satS 48 o)).lockBy (satS 48 o)).servo (satS 48 o) := rfl

theorem Blk.Frame.lockBy {p : Nat → Prop} (h : r.Frame s p) {o : Int} (hp : p TIM_STATUS) : r.Frame (s.lockBy o) p := by
  have hg : r.Frame { s with time := { s.time with good := min 16 (s.time.good + 1) } } p := h.put
  unfold Blk.lockBy
  exact (((hg.setF (x := TIM_STATUS_LOCKED) hp).raise).ite hg).ite ((h.unlock hp).ite h.put)

/-- LOCKED apart, the fields of TIM_STATUS stand. -/
theorem Blk.fb_lockBy_ne (s : Blk) (o : Int) {x : Fld} (hx : x.lo ≤ x.hi) (hx' : x.hi < 24) (h : x.addr ≠ TIM_STATUS ∨ 0 < x.lo) :
    (s.lockBy o).fb x = s.fb x := by
  unfold Blk.lockBy
  split
  · extract_lets s1
    split
    · rw [Blk.fb_of_reg (Blk.reg_of_regs (Blk.raise_regs _ _ _ _ _) _), Blk.fb_setF_ne _ _ _ _ (by decide) hx hx' (h.imp id .inr)]
      rfl
    · rfl
  · split
    · exact s.fb_unlock_ne 0 hx hx' h
    · rfl

theorem Blk.servo_of_off (h : s.fb TIM_CFG_SERVO = false) (o : Int) : s.servo o = s := by rw [Blk.servo, if_pos (by rw [h]; rfl)]

/-- A measurement with the servo off. -/
theorem Blk.offset_spec (h : s.fb TIM_CFG_SERVO = false) (o : Int) :
    (s.offset o).sval TIM_OFFSET 2 48 = satS 48 o ∧ (s.offset o).fb TIM_STATUS_ALT_USED = s.fb TIM_STATUS_ALT_USED ∧
      (s.offset o).fb TIM_STATUS_PARENT_LOST = s.fb TIM_STATUS_PARENT_LOST ∧ s.Frame (s.offset o) offsetWord := by
  have hF1 : s.Frame (s.setSval TIM_OFFSET 2 48 (satS 48 o)) offsetWord := (Blk.Frame.refl s offsetWord).setSval2 (.inl rfl) (.inr (.inl rfl))
  have hF := hF1.lockBy (o := satS 48 o) (.inr (.inr rfl))
  have hL : (s.setSval TIM_OFFSET 2 48 (satS 48 o)).Frame ((s.setSval TIM_OFFSET 2 48 (satS 48 o)).lockBy (satS 48 o)) (· = TIM_STATUS) :=
    (Blk.Frame.refl _ (· = TIM_STATUS)).lockBy rfl
  have hne {x : Fld} (hx : x.addr = TIM_STATUS) : (s.setSval TIM_OFFSET 2 48 (satS 48 o)).fb x = s.fb x := by
    rw [Blk.fb, Blk.f_setSval_ne _ _ _ _ _ _ (by rw [hx]; decide), Blk.fb]
  rw [Blk.offset_def, Blk.servo_of_off ((hF.1.fb (x := TIM_CFG_SERVO) (cntWord_low (by decide)) (by unfold offsetWord; decide)).trans h)]
  refine ⟨?_, (Blk.fb_lockBy_ne _ _ (by decide) (by decide) (by decide)).trans (hne rfl),
    (Blk.fb_lockBy_ne _ _ (by decide) (by decide) (by decide)).trans (hne rfl), hF⟩
  rw [Blk.sval_of_reg (r := s.setSval TIM_OFFSET 2 48 (satS 48 o)), Blk.sval_setSval_same _ _ _ _ _ (by decide), sext_wrapTo_satS (by decide)]
  intro i hi
  exact hL.1 _ (cntWord_low (by simp only [TIM_OFFSET]; omega)) (by simp only [TIM_OFFSET, TIM_STATUS]; omega)

/-- A measurement of SOURCE with the servo off. -/
theorem Blk.measure_spec {k : Nat} (hk : s.timSource = k) (h0 : k ≠ 0) (h : s.fb TIM_CFG_SERVO = false) (o : Int) :
    (s.measure k o).sval TIM_OFFSET 2 48 = satS 48 o ∧ (s.measure k o).fb TIM_STATUS_ALT_USED = false ∧
      (s.measure k o).fb TIM_STATUS_PARENT_LOST = false ∧ s.Frame (s.measure k o) offsetWord := by
  generalize hu : (Blk.setF { s with time := { s.time with main := s.now } } TIM_STATUS_ALT_USED 0).setF TIM_STATUS_PARENT_LOST 0 = u
  have hgo : s.measure k o = u.offset o := by
    rw [Blk.measure, if_neg (by omega), if_pos hk.symm]
    exact congrArg (·.offset o) hu
  have hF0 : s.Frame { s with time := { s.time with main := s.now } } offsetWord := (Blk.Frame.refl s _).put
  have hF : s.Frame u offsetWord := hu ▸ (hF0.setF (x := TIM_STATUS_ALT_USED) (.inr (.inr rfl))).setF (.inr (.inr rfl))
  obtain ⟨h1, h2, h3, h4⟩ := Blk.offset_spec (s := u) ((hF.1.fb (x := TIM_CFG_SERVO) (cntWord_low (by decide)) (by unfold offsetWord; decide)).trans h) o
  rw [hgo]
  refine ⟨h1, h2.trans ?_, h3.trans ?_, hF.trans h4⟩
  · rw [← hu, Blk.fb_setF_ne _ _ _ _ (by decide) (by decide) (by decide) (by decide), Blk.fb_setF_same _ _ _ (by decide) (by decide)]
    rfl
  · rw [← hu, Blk.fb_setF_same _ _ _ (by decide) (by decide)]
    rfl

theorem Blk.fineAt_advance (s : Blk) (u t : Nat) : (s.advance u).fineAt t = s.fineAt t := by
  rw [Blk.fineAt, s.advance_tim, s.val_advance u TIM_ADDEND 2 fun b h1 h2 => cntWord_low (by simp only [TIM_ADDEND] at h1 h2; omega), Blk.fineAt]

/-- The offset that brings an instant to a whole second is what the PPS input measures. -/
theorem pps_offset {x o : Int} (h1 : -500000000 * ns1 < o) (h2 : o ≤ 500000000 * ns1) (hx : (x + o) % (1000000000 * ns1) = 0) :
    -(if 500000000 * ns1 ≤ x % (1000000000 * ns1) then x % (1000000000 * ns1) - 1000000000 * ns1 else x % (1000000000 * ns1)) = o := by
  unfold ns1 at *
  split <;> omega

/-- A rising edge of PPS_IN that has held for 8 ns. -/
theorem ppsInEdge_spec {t k : Nat} {o : Int} (hs : s.timSource = 2) (hsv : s.fb TIM_CFG_SERVO = false) (h1 : -500000000 * ns1 < o) (h2 : o ≤ 500000000 * ns1)
    (hout : s.time.pps.out = false) (hr : 8 ≤ s.time.pps.run + k) (hk : k ≠ 0)
    (ho : (s.fineAt (t - s.time.pps.run) + o) % (1000000000 * ns1) = 0) :
    (ppsInEdge t true k s).sval TIM_OFFSET 2 48 = satS 48 (o + sext 16 (s.f TIM_CFG_PPS_DLY) * ns1) ∧ (ppsInEdge t true k s).fb TIM_STATUS_ALT_USED = false ∧
      (ppsInEdge t true k s).fb TIM_STATUS_PARENT_LOST = false ∧ s.Frame (ppsInEdge t true k s) offsetWord := by
  have hfeed : s.time.pps.feed 8 t k true = (⟨true, 0⟩, some (t + (8 - s.time.pps.run) - 1)) := by
    rw [Filt.feed, if_neg hk, if_neg (by rw [hout]; decide), if_pos hr]
  have hgo : ∃ time, ppsInEdge t true k s =
      ({ s.advance ((t + k - 1) / 4) with time := time } : Blk).measure 2 (o + sext 16 (s.f TIM_CFG_PPS_DLY) * ns1) := by
    refine ⟨{ (s.advance ((t + k - 1) / 4)).time with pps := ⟨true, 0⟩ }, ?_⟩
    unfold ppsInEdge
    extract_lets s1 run x tm s2 n n'
    have hx : x = (⟨true, 0⟩, some (t + (8 - s.time.pps.run) - 1)) := by
      unfold x s1
      rw [s.advance_time]
      exact hfeed
    have hrun : run = s.time.pps.run := by unfold run s1; rw [s.advance_time]
    have hfine : s2.fineAt (t - run) = s.fineAt (t - s.time.pps.run) := by
      rw [hrun]
      exact s.fineAt_advance _ _
    have hn : -n' = o := by
      unfold n' n
      rw [hfine]
      exact pps_offset h1 h2 ho
    have hdly : s2.f TIM_CFG_PPS_DLY = s.f TIM_CFG_PPS_DLY := s.f_advance _ (cntWord_low (by decide))
    have hs2 : s2 = { s1 with time := { s1.time with pps := ⟨true, 0⟩ } } := by
      unfold s2 tm
      rw [hx]
    rw [if_neg (by rw [hx]; exact Bool.false_ne_true), hn, hdly, hs2]
  obtain ⟨time, e⟩ := hgo
  have hF : s.Frame { s.advance ((t + k - 1) / 4) with time := time } offsetWord := ((Blk.Frame.refl s _).advance).put
  obtain ⟨m1, m2, m3, m4⟩ := Blk.measure_spec (s := { s.advance ((t + k - 1) / 4) with time := time })
    ((Blk.timSource_of_reg (s.reg_advance _ (cntWord_low (by decide)))).trans hs) (by decide) ((s.fb_advance _ (cntWord_low (by decide))).trans hsv)
    (o + sext 16 (s.f TIM_CFG_PPS_DLY) * ns1)
  rw [e]
  exact ⟨m1, m2, m3, hF.trans m4⟩

/-- Settles O39. -/
theorem timeParents : Obligations.TimeParents := by
  intro s t hs
  exact ⟨fun hs0 hl hu hd => ⟨fun ha => .of_on (f := parentLost t) rfl hs (parentLost_without_alt hs0 hl hu hd ha),
      fun ha => .of_on (f := parentLost t) rfl hs (parentLost_with_alt hs0 hl hu hd ha)⟩,
    fun v h => .of_on (f := timStepWrite v) rfl hs (timStepWrite_spec h),
    fun o k hs0 hsv h1 h2 hout hr hk ho => .of_on (f := ppsInEdge t true k) rfl hs (ppsInEdge_spec hs0 hsv h1 h2 hout hr hk ho),
    fun h => .of_on (f := clk10InLoss) rfl hs (clk10InLoss_spec h)⟩

/-! ### The IEEE 1588 port (R365, R366) -/

theorem Blk.ptpMode_of_reg (h : s.reg TIM_PTP_CFG = r.reg TIM_PTP_CFG) : s.ptpMode = r.ptpMode := by rw [Blk.ptpMode, Blk.f_of_reg h, Blk.ptpMode]

theorem Blk.ptpMode_advance (s : Blk) (t : Nat) : (s.advance t).ptpMode = s.ptpMode := Blk.ptpMode_of_reg (s.reg_advance t (cntWord_low (by decide)))

/-- A message that the port takes. -/
theorem ptpMessage_taken {q t : Nat} {m : List Byte} (hq : q = s.f TIM_PTP_CFG_PORT) (hl : 34 ≤ m.length) (hv : (m.getD 1 0).toNat = 0x12)
    (hd : (m.getD 4 0).toNat = s.f TIM_PTP_CFG_DOMAIN) (h0 : s.ptpMode ≠ 0) :
    ptpMessage q t m s =
      let u := (s.advance (t / 4)).ptpAsked (s.fineAt t) m
      if u.ptpMode = 1 then u.ptpSlave (s.fineAt t) m else u := by
  have h1 : (s.advance (t / 4)).f TIM_PTP_CFG_PORT = s.f TIM_PTP_CFG_PORT := s.f_advance _ (cntWord_low (by decide))
  have h2 : (s.advance (t / 4)).f TIM_PTP_CFG_DOMAIN = s.f TIM_PTP_CFG_DOMAIN := s.f_advance _ (cntWord_low (by decide))
  unfold ptpMessage
  extract_lets s1 rx u
  have hrx : rx = s.fineAt t := s.fineAt_advance _ _
  have hn : ¬(m.length < 34 ∨ (m.getD 1 0).toNat % 16 ≠ 2 ∨ 1 < (m.getD 1 0).toNat / 16 ∨ (m.getD 4 0).toNat ≠ s1.f TIM_PTP_CFG_DOMAIN ∨
      s1.ptpMode = 0 ∨ q ≠ s1.f TIM_PTP_CFG_PORT) := by
    unfold s1
    rw [hv, hd, h2, s.ptpMode_advance, h1, ← hq]
    omega
  rw [if_neg hn]
  unfold u
  rw [hrx]

/-- A master owes a Delay_Req its answer. -/
theorem ptpMessage_delayReq {q t : Nat} {m : List Byte} (hq : q = s.f TIM_PTP_CFG_PORT) (hl : 34 ≤ m.length) (hv : (m.getD 1 0).toNat = 0x12)
    (hd : (m.getD 4 0).toNat = s.f TIM_PTP_CFG_DOMAIN) (ht : ptpType m = 1) (hm : s.ptpMode = 2) (hp : s.fb TIM_PTP_CFG_DELAY = false) :
    (ptpMessage q t m s).time.owed = s.time.owed ++ [⟨false, ptpSrc m, ptpSeq m, s.fineAt t, ptpCorr m⟩] ∧
      s.Frame (ptpMessage q t m s) fun _ => False := by
  have hF : s.Frame (s.advance (t / 4)) fun _ => False := (Blk.Frame.refl s _).advance
  have ha : (s.advance (t / 4)).ptpAsked (s.fineAt t) m = { s.advance (t / 4) with
      time := { (s.advance (t / 4)).time with owed := (s.advance (t / 4)).time.owed ++ [⟨false, ptpSrc m, ptpSeq m, s.fineAt t, ptpCorr m⟩] } } := by
    unfold Blk.ptpAsked
    rw [ht]
    exact if_pos ⟨(s.ptpMode_advance _).trans hm, by rw [s.fb_advance _ (cntWord_low (by decide)), hp]; rfl⟩
  rw [ptpMessage_taken hq hl hv hd (by omega), ha]
  dsimp only
  rw [if_neg]
  · exact ⟨by rw [s.advance_time], hF.put⟩
  · have h2 : (s.advance (t / 4)).ptpMode = 2 := (s.ptpMode_advance _).trans hm
    intro h
    have h1 : (s.advance (t / 4)).ptpMode = 1 := h
    omega

theorem Blk.syncMeasured_of_path {d : Int} (h : s.time.path = some d) (x : Int) :
    s.syncMeasured x = ({ s with time := { s.time with ms := some x, sync := none } } : Blk).measure 1 (-(x - d)) := by
  simp only [Blk.syncMeasured, h]

/-- A one-step Sync of the parent gives a slave its offset. -/
theorem ptpMessage_sync {q t : Nat} {m : List Byte} {d : Int} (hq : q = s.f TIM_PTP_CFG_PORT) (hl : 34 ≤ m.length) (hv : (m.getD 1 0).toNat = 0x12)
    (hd : (m.getD 4 0).toNat = s.f TIM_PTP_CFG_DOMAIN) (ht : ptpType m = 0) (hm : s.ptpMode = 1)
    (hpar : beNat ((ptpSrc m).take 8) = s.val TIM_PTP_PARENT 3) (h1 : ptpTwoStep m = false) (hpath : s.time.path = some d) (hsrc : s.timSource = 1)
    (hsv : s.fb TIM_CFG_SERVO = false) :
    (ptpMessage q t m s).sval TIM_OFFSET 2 48 = satS 48 (d - (s.fineAt t - stampTime (m.drop 34) - ptpCorr m)) ∧ s.Frame (ptpMessage q t m s) offsetWord := by
  have hF : s.Frame (s.advance (t / 4)) offsetWord := (Blk.Frame.refl s _).advance
  have ha : (s.advance (t / 4)).ptpAsked (s.fineAt t) m = s.advance (t / 4) := by
    unfold Blk.ptpAsked
    rw [ht]
    rfl
  have hmode : (s.advance (t / 4)).ptpMode = 1 := (s.ptpMode_advance _).trans hm
  have hv3 : (s.advance (t / 4)).val TIM_PTP_PARENT 3 = s.val TIM_PTP_PARENT 3 :=
    s.val_advance _ _ _ fun b h1 h2 => cntWord_low (by simp only [TIM_PTP_PARENT] at h1 h2; omega)
  generalize hx : s.fineAt t - stampTime (m.drop 34) - ptpCorr m = x
  have hgo : ptpMessage q t m s = ({ s.advance (t / 4) with
      time := { (s.advance (t / 4)).time with ms := some x, sync := none } } : Blk).measure 1 (-(x - d)) := by
    rw [ptpMessage_taken hq hl hv hd (by omega), ha]
    dsimp only
    rw [if_pos hmode]
    unfold Blk.ptpSlave
    rw [ht]
    dsimp only
    rw [hv3, hpar, h1, hx, beq_self_eq_true, if_neg (by decide), if_neg (by decide)]
    exact Blk.syncMeasured_of_path (by rw [s.advance_time]; exact hpath) x
  have hF1 : s.Frame { s.advance (t / 4) with time := { (s.advance (t / 4)).time with ms := some x, sync := none } } offsetWord := hF.put
  obtain ⟨m1, -, -, m4⟩ := Blk.measure_spec (s := { s.advance (t / 4) with time := { (s.advance (t / 4)).time with ms := some x, sync := none } })
    ((Blk.timSource_of_reg (s.reg_advance _ (cntWord_low (by decide)))).trans hsrc) (by decide) ((s.fb_advance _ (cntWord_low (by decide))).trans hsv) (-(x - d))
  rw [hgo]
  exact ⟨by rw [m1]; congr 1; omega, hF1.trans m4⟩

theorem Blk.ptpBytes_advance (s : Blk) (t typ seq : Nat) (corr : Int) (n : Nat) (body : List Byte) :
    (s.advance t).ptpBytes typ seq corr n body = s.ptpBytes typ seq corr n body := by
  have h1 : (s.advance t).f TIM_PTP_CFG_DOMAIN = s.f TIM_PTP_CFG_DOMAIN := s.f_advance t (cntWord_low (by decide))
  have h2 : (s.advance t).val SEC_MAC 2 = s.val SEC_MAC 2 := s.val_advance _ _ _ fun b h1 h2 => cntWord_high (by simp only [SEC_MAC] at h1; omega)
  simp only [Blk.ptpBytes, Blk.portId, Blk.clockId, h1, h2]

/-- The port sends the answer to a Delay_Req that it owes first. -/
theorem ptpSend_owed {q t : Nat} {o : PtpOwed} {l : List PtpOwed} (hq : q = s.f TIM_PTP_CFG_PORT) (h0 : s.ptpMode ≠ 0) (ho : s.time.owed = o :: l)
    (hp : o.peer = false) :
    (ptpSend q t s).time.owed = l ∧
      (ptpSend q t s).out = .ptp q s.ptpTransport (s.ptpBytes 9 o.seq o.corr (logOctet (s.f TIM_PTP_INT_DREQ)) (ptpStamp o.t2 ++ o.id)) :: s.out ∧
      s.Frame (ptpSend q t s) fun _ => False := by
  have hF : s.Frame (s.advance (t / 4)) fun _ => False := (Blk.Frame.refl s _).advance
  have h1 : (s.advance (t / 4)).f TIM_PTP_CFG_PORT = s.f TIM_PTP_CFG_PORT := s.f_advance _ (cntWord_low (by decide))
  have h2 : (s.advance (t / 4)).f TIM_PTP_INT_DREQ = s.f TIM_PTP_INT_DREQ := s.f_advance _ (cntWord_low (by decide))
  have h3 : (s.advance (t / 4)).ptpTransport = s.ptpTransport := by
    rw [Blk.ptpTransport, s.f_advance _ (cntWord_low (by decide)), Blk.ptpTransport]
  have hw : (s.advance (t / 4)).time.owed = o :: l := by rw [s.advance_time, ho]
  have hn : ¬((s.advance (t / 4)).ptpMode = 0 ∨ q ≠ (s.advance (t / 4)).f TIM_PTP_CFG_PORT) := by
    rw [s.ptpMode_advance, h1]
    omega
  have hgo : ptpSend q t s = ({ s.advance (t / 4) with time := { (s.advance (t / 4)).time with owed := l } } : Blk).emit
      (.ptp q s.ptpTransport (s.ptpBytes 9 o.seq o.corr (logOctet (s.f TIM_PTP_INT_DREQ)) (ptpStamp o.t2 ++ o.id))) := by
    unfold ptpSend
    extract_lets u tx
    rw [if_neg hn]
    have hu : u.time.owed = o :: l := hw
    rw [hu]
    dsimp only
    rw [if_neg (by rw [hp]; decide), ← s.ptpBytes_advance (t / 4), ← h2, ← h3]
    simp only [Blk.ptpOut, List.append_nil]
    rfl
  rw [hgo]
  exact ⟨rfl, by rw [Blk.emit, s.advance_out], hF.put.emit⟩

/-- Settles O40. -/
theorem ptpPort : Obligations.PtpPort := by
  intro s p t m hs hp
  refine ⟨fun hl hv hd => ⟨fun ht hm hdl => .of_on (f := ptpMessage p t m) rfl hs (ptpMessage_delayReq hp hl hv hd ht hm hdl),
      fun d ht hm hpar h1 hpath hsrc hsv => .of_on (f := ptpMessage p t m) rfl hs (ptpMessage_sync hp hl hv hd ht hm hpar h1 hpath hsrc hsv)⟩,
    fun o r h0 ho hpe => .of_on (f := ptpSend p t) rfl hs (ptpSend_owed hp h0 ho hpe)⟩

/-! ### Timed outputs (R369, R370) -/

theorem Blk.tto_putTto_some (s : Blk) (n : Nat) (x : Tto) : (s.putTto n (some x)).tto n = some x := by
  have h : (s.putTto n (some x)).time.ttos = (n, x) :: s.time.ttos.filter fun e => e.1 != n := by
    simp only [Blk.putTto, Blk.setF_time]
  rw [Blk.tto, h]
  simp

theorem Blk.tto_putTto_none (s : Blk) (n : Nat) : (s.putTto n none).tto n = none := by
  have h : (s.putTto n none).time.ttos = s.time.ttos.filter fun e => e.1 != n := by
    simp only [Blk.putTto, Blk.setF_time]
  rw [Blk.tto, h, List.find?_eq_none.2]
  · rfl
  · intro e he
    have := (List.mem_filter.1 he).2
    simpa using this

theorem Blk.fb_putTto (s : Blk) (n : Nat) (x : Option Tto) : (s.putTto n x).fb (TTO_STATUS_ARMED n) = x.any fun v => !v.ending := by
  unfold Blk.putTto
  extract_lets l l' on tm
  have h : on = x.any fun v => !v.ending := by cases x <;> rfl
  rw [Blk.fb_setF_same _ _ _ (by simp) (by simp), h]
  cases x.any fun v => !v.ending <;> rfl

theorem Blk.Frame.putTto {p : Nat → Prop} (h : r.Frame s p) {n : Nat} {x : Option Tto} (hp : p (TTO_STATUS n)) : r.Frame (s.putTto n x) p := by
  have hF (l : List (Nat × Tto)) : r.Frame { s with time := { s.time with ttos := l } } p := h.put
  exact (hF _).setF hp

/-- A pulse whose instant is still ahead is not missed. -/
theorem Blk.ttoMiss_of_ahead {n : Nat} {x : Tto} {t : Int} (hk : x.k = 0) (he : x.ending = false) (hp : x.periodic = false) (ht : t ≤ x.start) :
    s.ttoMiss n x t = s.putTto n (some x) := by
  obtain ⟨start, period, width, count, periodic, pol, k, endNs, ending⟩ := x
  obtain rfl : k = 0 := hk
  obtain rfl : ending = false := he
  obtain rfl : periodic = false := hp
  have hf : t ≤ start := ht
  simp [Blk.ttoMiss, Tto.firstFrom, Tto.left, hf]

/-- A single pulse armed at least 100 ns ahead. -/
theorem ttoArm_spec {n : Nat} (hm : s.f (TTO_CFG_MODE n) = 1)
    (ht : s.timFine + 100 * ns1 ≤ recordTime ((List.range 4).map fun i => s.rn (TTO_START n + i))) :
    (ttoArm n s).fb (TTO_STATUS_ARMED n) = true ∧
      (∃ x, (ttoArm n s).tto n = some x ∧ x.start = recordTime ((List.range 4).map fun i => s.rn (TTO_START n + i)) ∧ x.periodic = false ∧ x.k = 0 ∧
        x.width = (if s.rn (TTO_WIDTH n) = 0 then 2 else s.rn (TTO_WIDTH n)) ∧ x.pol = s.fb (TTO_CFG_POL n)) ∧
      s.Frame (ttoArm n s) (· = TTO_STATUS n) := by
  have hgo : ∃ x : Tto, ttoArm n s = (s.putTto n (some x)).ttoMiss n x (s.timFine + 100 * ns1) ∧
      x.start = recordTime ((List.range 4).map fun i => s.rn (TTO_START n + i)) ∧ x.periodic = false ∧ x.k = 0 ∧
      x.width = (if s.rn (TTO_WIDTH n) = 0 then 2 else s.rn (TTO_WIDTH n)) ∧ x.pol = s.fb (TTO_CFG_POL n) ∧ x.ending = false := by
    unfold ttoArm
    extract_lets mode period w w' old x
    rw [if_neg (by unfold mode; omega)]
    refine ⟨x, rfl, rfl, ?_, rfl, ?_, rfl, rfl⟩
    · show (mode == 2) = false
      rw [show mode = 1 from hm]
      rfl
    · show w' = _
      unfold w'
      rw [if_neg (by rw [show mode = 1 from hm]; decide)]
  obtain ⟨x, e, h1, h2, h3, h4, h5, h6⟩ := hgo
  have he := Blk.ttoMiss_of_ahead (s := s.putTto n (some x)) (n := n) (t := s.timFine + 100 * ns1) h3 h6 h2 (by rw [h1]; exact ht)
  rw [e, he]
  refine ⟨?_, ⟨x, Blk.tto_putTto_some _ _ _, h1, h2, h3, h4, h5⟩, ((Blk.Frame.refl s (· = TTO_STATUS n)).putTto rfl).putTto rfl⟩
  rw [Blk.fb_putTto, Option.any_some, h6]
  rfl

theorem ttoDisarm_spec {n : Nat} {x : Tto} (hx : s.tto n = some x) (he : x.endNs = none) :
    (ttoDisarm n s).fb (TTO_STATUS_ARMED n) = false ∧ (ttoDisarm n s).tto n = none ∧ s.Frame (ttoDisarm n s) (· = TTO_STATUS n) := by
  have hgo : ttoDisarm n s = s.putTto n none := by simp [ttoDisarm, hx, he]
  rw [hgo]
  exact ⟨Blk.fb_putTto _ _ _, Blk.tto_putTto_none _ _, (Blk.Frame.refl s (· = TTO_STATUS n)).putTto rfl⟩

theorem Blk.tto_advance (s : Blk) (t n : Nat) : (s.advance t).tto n = s.tto n := by rw [Blk.tto, s.advance_time, Blk.tto]

/-- The edge leaves at the nanosecond nearest the instant. -/
theorem ttoEdge_spec {n t : Nat} {x : Tto} (hx : s.tto n = some x) (he : x.endNs = none) (hl : x.left x.k = true)
    (ht : (x.instant x.k + 32768) / ns1 ≤ (s.advance t).timFine / ns1) :
    (ttoEdge n t s).out = .tto n x.pol ((x.instant x.k + 32768) / ns1) :: s.out ∧
      (ttoEdge n t s).tto n = some { x with k := x.k + 1, endNs := some ((x.instant x.k + 32768) / ns1 + x.width) } ∧
      s.Frame (ttoEdge n t s) (· = TTO_STATUS n) := by
  have hgo : ttoEdge n t s = ((s.advance t).putTto n (some { x with k := x.k + 1, endNs := some ((x.instant x.k + 32768) / ns1 + x.width) })).emit
      (.tto n x.pol ((x.instant x.k + 32768) / ns1)) := by
    have hx' : (s.advance t).tto n = some x := (s.tto_advance t n).trans hx
    have hn : ¬(!x.left x.k || decide ((s.advance t).timFine / ns1 < (x.instant x.k + 32768) / ns1)) = true := by
      rw [hl, decide_eq_false (by omega)]
      decide
    simp only [ttoEdge, hx', he, if_neg hn]
  have hF : s.Frame (s.advance t) (· = TTO_STATUS n) := (Blk.Frame.refl s _).advance
  rw [hgo]
  refine ⟨?_, Blk.tto_putTto_some _ _ _, (hF.putTto rfl).emit⟩
  rw [Blk.emit]
  simp only [Blk.putTto, Blk.setF_out, s.advance_out]

/-! ### Captures (R371) -/

theorem Blk.fifo_putFifo (s : Blk) (n : Nat) (l : List Int) : (s.putFifo n l).fifo n = l := by
  have h : (s.putFifo n l).time.fifos = aput s.time.fifos n l := by simp only [Blk.putFifo, Blk.setF_time]
  rw [Blk.fifo, h, alook_aput_same]

theorem Blk.f_putFifo (s : Blk) {n : Nat} {l : List Int} (h : l.length ≤ 16) : (s.putFifo n l).f (TCI_STATUS_HELD n) = l.length := by
  unfold Blk.putFifo
  rw [Blk.f_setF_same _ _ _ (by simp) (by simp)]
  exact Nat.mod_eq_of_lt (by simp; omega)

theorem Blk.Frame.putFifo {p : Nat → Prop} (h : r.Frame s p) {n : Nat} {l : List Int} (hp : p (TCI_STATUS n)) : r.Frame (s.putFifo n l) p := by
  have hF (t : Time) : r.Frame { s with time := t } p := h.put
  exact (hF _).setF hp

/-- A filtered edge that is selected. -/
theorem tciCapture_spec {n t k q : Nat} {level : Bool} (hn : n < 4)
    (hf : ((alook ⟨false, 0⟩ s.time.tcis n : Filt).feed (atLeast1 (s.f (TCI_CFG_FILT_N n))) t k level).2 = some q)
    (he : s.f (TCI_CFG_EDGE n) = 3 ∨ s.f (TCI_CFG_EDGE n) = (if level then 1 else 2)) (hl : (s.fifo n).length < 16) :
    (tciCapture n t level k s).fifo n = s.fifo n ++ [s.fineAt (t - (alook ⟨false, 0⟩ s.time.tcis n : Filt).run)] ∧
      (tciCapture n t level k s).f (TCI_STATUS_HELD n) = (s.fifo n).length + 1 ∧
      (s.fb (TCI_CFG_EVT n) = true → ∃ d, s.Raised (tciCapture n t level k s) 0xA21 n n d) ∧ s.Frame (tciCapture n t level k s) (· = TCI_STATUS n) := by
  have hc {a : Nat} (h : a < 0x180002) : (s.advance ((t + k - 1) / 4)).reg a = s.reg a := s.reg_advance _ (cntWord_low h)
  have hgo : ∃ tcis, tciCapture n t level k s =
      let u := (({ s.advance ((t + k - 1) / 4) with time := { s.time with tcis := tcis } } : Blk).putFifo n
        (s.fifo n ++ [s.fineAt (t - (alook ⟨false, 0⟩ s.time.tcis n : Filt).run)])).count 0x7B
      if s.fb (TCI_CFG_EVT n) then u.raise 0xA21 n n (nsOf (s.fineAt (t - (alook ⟨false, 0⟩ s.time.tcis n : Filt).run) / ns1).toNat % 2 ^ 24) else u := by
    refine ⟨aput s.time.tcis n ((alook ⟨false, 0⟩ s.time.tcis n : Filt).feed (atLeast1 (s.f (TCI_CFG_FILT_N n))) t k level).1, ?_⟩
    unfold tciCapture
    extract_lets s1 fr run tm s2 edge x l u src v
    have ht : s1.time = s.time := s.advance_time _
    have hfr : fr = (alook ⟨false, 0⟩ s.time.tcis n : Filt).feed (atLeast1 (s.f (TCI_CFG_FILT_N n))) t k level := by
      unfold fr
      rw [ht, Blk.f_of_reg (x := TCI_CFG_FILT_N n) (hc (by simp only [TCI_CFG]; omega))]
    have hs2 : s2 = { s1 with time := { s.time with tcis := aput s.time.tcis n fr.1 } } := by
      unfold s2 tm
      rw [ht]
    have hedge : edge = s.f (TCI_CFG_EDGE n) := Blk.f_of_reg (x := TCI_CFG_EDGE n) (hc (by simp only [TCI_CFG]; omega))
    have hx : x = s.fineAt (t - (alook ⟨false, 0⟩ s.time.tcis n : Filt).run) := by
      unfold x run
      rw [ht]
      exact s.fineAt_advance _ _
    have hfifo : l = s.fifo n := by
      unfold l s2 tm
      rw [ht]
      rfl
    have hu : u = v := by
      unfold u v src
      rw [hfifo, hx, hs2, hfr]
    have hsel : (fr.2.isNone || !(if level then edge == 1 || edge == 3 else edge == 2 || edge == 3)) = false := by
      rw [hfr, hf, hedge]
      cases level <;> rcases he with h | h <;> simp [h]
    have hevt : u.fb (TCI_CFG_EVT n) = s.fb (TCI_CFG_EVT n) := by
      have hr : u.reg (TCI_CFG n) = s.reg (TCI_CFG n) := by
        unfold u
        rw [Blk.reg_count _ _ _ (cntWord_low (by simp only [TCI_CFG]; omega)), Blk.putFifo, Blk.reg_setF_ne _ _ _ (by simp only [TCI_CFG, TCI_STATUS]; omega)]
        exact hc (by simp only [TCI_CFG]; omega)
      exact Blk.fb_of_reg hr
    rw [if_neg (by rw [hsel]; exact Bool.false_ne_true), if_neg (by rw [hfifo]; omega), hevt, hu, hx]
  obtain ⟨tcis, e⟩ := hgo
  generalize hv : ({ s.advance ((t + k - 1) / 4) with time := { s.time with tcis := tcis } } : Blk) = v at e
  generalize hx : s.fineAt (t - (alook ⟨false, 0⟩ s.time.tcis n : Filt).run) = x at *
  have hF0 : s.Frame v (· = TCI_STATUS n) := hv ▸ ((Blk.Frame.refl s _).advance).put
  have hF : s.Frame ((v.putFifo n (s.fifo n ++ [x])).count 0x7B) (· = TCI_STATUS n) := (hF0.putFifo rfl).count
  have hfifo : ((v.putFifo n (s.fifo n ++ [x])).count 0x7B).fifo n = s.fifo n ++ [x] := by
    rw [Blk.fifo, Blk.count_time]
    exact Blk.fifo_putFifo _ _ _
  have hheld : ((v.putFifo n (s.fifo n ++ [x])).count 0x7B).f (TCI_STATUS_HELD n) = (s.fifo n).length + 1 := by
    rw [Blk.f_of_reg (Blk.reg_count _ _ _ (cntWord_low (by simp only [TCI_STATUS]; omega))), Blk.f_putFifo _ (by rw [List.length_append]; exact hl),
      List.length_append]
    rfl
  rw [e]
  dsimp only
  split
  · refine ⟨hfifo, hheld, fun _ => ⟨nsOf (x / ns1).toNat % 2 ^ 24, ?_⟩, hF.raise⟩
    refine (Blk.raised_raise _ _ (by omega) (by omega) (Nat.mod_lt _ (by decide))).of_left ?_
    refine List.IsPrefix.trans ?_ (Blk.evq_count_prefix _ _ _)
    have hq : (v.putFifo n (s.fifo n ++ [x])).evq = v.evq := by rw [Blk.putFifo, Blk.setF_evq]
    rw [hq, ← hv]
    exact s.evq_advance_prefix _
  · exact ⟨hfifo, hheld, fun h => absurd h ‹_›, hF⟩

/-- The words of a record are register words. -/
theorem getD_timeRecord_lt (x : Int) (v : Bool) (i : Nat) : (timeRecord x v).getD i 0 < 2 ^ 24 := by
  have hn : (x % (2 ^ 48 * 1000000000 * 65536)).toNat < 2 ^ 48 * 1000000000 * 65536 := by omega
  generalize hnn : (x % (2 ^ 48 * 1000000000 * 65536)).toNat = n at hn
  have hv : b2n v ≤ 1 := by cases v <;> decide
  have hw : timeRecord x v = [secOf (n / 65536) % 2 ^ 24, secOf (n / 65536) / 2 ^ 24, nsOf (n / 65536) % 2 ^ 24,
      b2n v * 2 ^ 23 + nsOf (n / 65536) / 2 ^ 24 * 65536 + n % 65536] := by rw [← hnn]; rfl
  have h1 : secOf (n / 65536) < 2 ^ 48 := Nat.mod_lt _ (by decide)
  have h2 : nsOf (n / 65536) < 1000000000 := Nat.mod_lt _ (by decide)
  rw [hw]
  match i with
  | 0 => exact Nat.mod_lt _ (by decide)
  | 1 => simp; omega
  | 2 => exact Nat.mod_lt _ (by decide)
  | 3 => simp; omega
  | _ + 4 => simp

/-- The words of a path's snapshot of the FIFO, and what they leave. -/
theorem Blk.rn_snapshot (s : Blk) (p : Path) (n : Nat) {ws : List Nat} (hw : ∀ i, ws.getD i 0 < 2 ^ 24) {i : Nat} (hi : i < 4) :
    ((List.range 4).foldl (fun s i => s.wn (onPath p (TCI_FIFO n + i)) (ws.getD i 0)) s).rn (onPath p (TCI_FIFO n + i)) = ws.getD i 0 := by
  rw [Blk.rn_foldl_wn (a := fun i => onPath p (TCI_FIFO n + i)) (fun i j h => Nat.add_left_cancel (onPath_inj p h)) (fun i => ws.getD i 0) 4 s hi]
  exact Nat.mod_eq_of_lt (hw i)

theorem Blk.onlyRegs_snapshot (s : Blk) (p : Path) (n : Nat) (ws : List Nat) :
    s.OnlyRegs ((List.range 4).foldl (fun s i => s.wn (onPath p (TCI_FIFO n + i)) (ws.getD i 0)) s) fun a => ∃ i, i < 4 ∧ a = onPath p (TCI_FIFO n + i) :=
  Blk.onlyRegs_foldl_wn (a := fun i => onPath p (TCI_FIFO n + i)) (fun i => ws.getD i 0) _ (fun i hi => ⟨i, List.mem_range.1 hi, rfl⟩) s

theorem tciFifoRead_empty {p : Path} {n : Nat} (h : s.fifo n = []) :
    (∀ i, i < 4 → (tciFifoRead p n s).rn (onPath p (TCI_FIFO n + i)) = 0) ∧
      s.OnlyRegs (tciFifoRead p n s) fun a => ∃ i, i < 4 ∧ a = onPath p (TCI_FIFO n + i) := by
  have h0 (i : Nat) : [0, 0, 0, 0].getD i 0 = 0 := match i with
    | 0 | 1 | 2 | 3 => rfl
    | _ + 4 => by simp
  have hgo : tciFifoRead p n s = (List.range 4).foldl (fun s i => s.wn (onPath p (TCI_FIFO n + i)) ([0, 0, 0, 0].getD i 0)) s := by
    simp only [tciFifoRead, h]
  rw [hgo]
  exact ⟨fun i hi => (s.rn_snapshot p n (fun i => by rw [h0]; decide) hi).trans (h0 i), s.onlyRegs_snapshot p n _⟩

theorem tciFifoRead_oldest {p : Path} {n : Nat} {x : Int} {l : List Int} (h : s.fifo n = x :: l) (hl : l.length < 16) :
    (tciFifoRead p n s).fifo n = l ∧ (tciFifoRead p n s).f (TCI_STATUS_HELD n) = l.length ∧
      (∀ i, i < 4 → (tciFifoRead p n s).rn (onPath p (TCI_FIFO n + i)) = (timeRecord x true).getD i 0) ∧
      s.Frame (tciFifoRead p n s) fun a => a = TCI_STATUS n ∨ ∃ i, i < 4 ∧ a = onPath p (TCI_FIFO n + i) := by
  have hgo : tciFifoRead p n s = (List.range 4).foldl (fun s i => s.wn (onPath p (TCI_FIFO n + i)) ((timeRecord x true).getD i 0)) (s.putFifo n l) := by
    simp only [tciFifoRead, h]
  have hO := (s.putFifo n l).onlyRegs_snapshot p n (timeRecord x true)
  have hF : s.Frame (s.putFifo n l) (· = TCI_STATUS n) := (Blk.Frame.refl s (· = TCI_STATUS n)).putFifo rfl
  rw [← hgo] at hO
  refine ⟨?_, ?_, fun i hi => ?_, (hF.mono fun _ => .inl).trans ⟨hO.regsBut.mono fun _ => .inr, hO.calm⟩⟩
  · rw [hO.1]
    exact Blk.fifo_putFifo s n l
  · rw [Blk.f_of_reg (hO.2 _ ?_), Blk.f_putFifo _ (by omega)]
    rintro ⟨i, hi, he⟩
    have := onPath_ge p (TCI_FIFO n + i)
    simp only [TCI_STATUS, TCI_FIFO] at he this
    omega
  · rw [hgo]
    exact Blk.rn_snapshot _ p n (getD_timeRecord_lt x true) hi

/-- Settles O41. -/
theorem timeInputsAndOutputs : Obligations.TimeInputsAndOutputs := by
  intro s n hs
  have hn := n.isLt
  refine ⟨fun hm ht => .of_on (f := ttoArm n) rfl hs (ttoArm_spec hm ht), fun hm => .of_on (f := ttoArm n) rfl hs ?_,
    fun x hx he => ⟨.of_on (f := ttoDisarm n) rfl hs (ttoDisarm_spec hx he), fun t hl ht => .of_on (f := ttoEdge n t) rfl hs (ttoEdge_spec hx he hl ht)⟩,
    fun t k q level x hx hf he hl => ?_,
    fun p => ⟨fun h => .of_on (f := tciFifoRead p n) rfl hs (tciFifoRead_empty h),
      fun x r h hl => .of_on (f := tciFifoRead p n) rfl hs (tciFifoRead_oldest h hl)⟩⟩
  · exact if_pos hm
  · subst hx
    exact .of_on (f := tciCapture n t level k) rfl hs (tciCapture_spec hn hf he hl)

/-! ### A step of time with an output that no register shows (R363) -/

/-- An output armed for an instant a hundred seconds on. -/
def farOutput : Tto :=
  { start := 100000000000 * ns1, period := 262144, width := 2, count := 0, periodic := false, pol := false, k := 0, endNs := none, ending := false }

/-- Link 2 is up, awaits the answer to a TSYNC_REQ sent at 0, and is the parent of a servo that steps at once. The outputs are listed with one
under number 4096, whose TTO_STATUS would stand at 0x130102. -/
def strayOutput : State :=
  let b := (({ Blk.init with sys := { Sys.init with phase := .up }, time := { Time.init with ttos := [(4096, farOutput)] } } : Blk).setF
    (WAL_LINK_STATUS_UP 2) 1).setF TIM_CFG_SOURCE 5
  ⟨(b.setF TIM_CFG_SERVO 1).setLink 2 { Link.init with t1 := some 0 }, []⟩

/-- A TSYNC_RSP that says the request came in at 1 s. -/
def answerOneSecond : List Word := [0x050000, 0, 0, 1, 0, 0, 0, 0, 0, 0, 0]

theorem reg_strayOutput_before : strayOutput.blk.reg 0x130102 = 0 := by decide +kernel

theorem reg_strayOutput_after : (tsyncRspReceived 2 0 (wordsNat answerOneSecond) strayOutput.blk).reg 0x130102 = 1 := by decide +kernel

/-- Refutes O38, by its clause on answers: where the servo steps local time, the outputs whose instants it may pass over are gone through, and
each shows its state in the TTO_STATUS of its number. For a number that no output has, that word lies outside the registers of wale and time. -/
theorem not_waleTime : ¬ Obligations.WaleTime := by
  unfold Obligations.WaleTime
  intro h
  have hs : strayOutput.blk.alive = true := by decide +kernel
  obtain ⟨-, -, hrsp⟩ := h strayOutput 2 hs
  obtain ⟨-, -, -, hregs, -⟩ := (hrsp 0 0 answerOneSecond (by decide +kernel) (by decide +kernel) (by decide +kernel) (by decide +kernel)
    (by decide +kernel) (by decide) (by decide)).on rfl hs
  have h130 := hregs 0x130102 (by decide) (by decide)
  exact absurd (reg_strayOutput_after.symm.trans (h130.trans reg_strayOutput_before)) (by decide)

end Sys2Proof.Machine
end

section
/-!
PROOFS. Self-test of stakes and units, the rotation, and stake repair (R152, R451 to R459).
-/

namespace Sys2Proof.Machine

variable {r s : Blk} {p : Nat → Prop}

/-! ### What the parts of a test do -/

theorem Blk.Frame.testUnit (h : r.Frame s p) {u : Nat} (hp : p BST_STATUS) : r.Frame (s.testUnit u) p :=
  ((h.setF (x := BST_STATUS_BUSY) hp).setF (x := BST_STATUS_UNIT) hp).put

theorem Blk.testUnit_eq (s : Blk) (u : Nat) :
    ∃ bst, s.testUnit u = { (s.setF BST_STATUS_BUSY 1).setF BST_STATUS_UNIT u with bst := bst } := by
  unfold Blk.testUnit
  extract_lets t
  exact ⟨_, rfl⟩

theorem Blk.fb_testUnit_busy (s : Blk) (u : Nat) : (s.testUnit u).fb BST_STATUS_BUSY = true := by
  obtain ⟨bst, h⟩ := s.testUnit_eq u
  rw [h, Blk.fb_put, Blk.fb_setF_ne _ _ _ _ (by decide) (by decide) (by decide) (by decide), Blk.fb_setF_same _ _ _ (by decide) (by decide)]
  rfl

theorem Blk.f_testUnit_unit (s : Blk) {u : Nat} (hu : u < 16) : (s.testUnit u).f BST_STATUS_UNIT = u := by
  obtain ⟨bst, h⟩ := s.testUnit_eq u
  rw [h, Blk.f_put, Blk.f_setF_same _ _ _ (by decide) (by decide)]
  exact Nat.mod_eq_of_lt hu

theorem Blk.reg_testUnit_ne (s : Blk) (u : Nat) {a : Nat} (h : a ≠ BST_STATUS) : (s.testUnit u).reg a = s.reg a := by
  obtain ⟨bst, hb⟩ := s.testUnit_eq u
  rw [hb, Blk.reg_put, Blk.reg_setF_ne, Blk.reg_setF_ne]
  · exact h
  · exact h

theorem Blk.Frame.handStart (h : r.Frame s p) {k : Nat} {toBye : Bool} (hp : p CMP_STAKE_STATUS) : r.Frame (s.handStart k toBye) p := by
  have h1 : r.Frame ({ s with bst := { s.bst with phase := if toBye then 1 else 3 } } : Blk) p := h.put
  exact (h1.setF (x := CMP_STAKE_STATUS_HANDOVER) hp).put

theorem Blk.handStart_eq (s : Blk) (k : Nat) (toBye : Bool) : ∃ bst regs, s.handStart k toBye =
    { s with bst := bst, regs := regs, cmp := { s.cmp with hand := some ⟨k, toBye, 0⟩ } } := ⟨_, _, rfl⟩

theorem Blk.f_handStart_handover (s : Blk) {k : Nat} (toBye : Bool) (hk : k < 16) :
    (s.handStart k toBye).f CMP_STAKE_STATUS_HANDOVER = k := by
  simp [Blk.handStart, Blk.f_setF_same, Nat.mod_eq_of_lt hk]

theorem Blk.Frame.handEnd (h : r.Frame s p) (hp : p CMP_STAKE_STATUS) : r.Frame s.handEnd p :=
  (h.setF (x := CMP_STAKE_STATUS_HANDOVER) hp).put

theorem Blk.Frame.handed (h : r.Frame s p) {k line : Nat} {toBye : Bool} (hp : p CMP_STAKE_STATUS) (hq : p CMP_HANDOVERS) :
    r.Frame (s.handed k toBye line) p :=
  ((h.setF (x := CMP_STAKE_STATUS_BYE_FOR) hp).incSat hq).count.raise

theorem Blk.handEnd_eq (s : Blk) : ∃ regs cmp, s.handEnd = { s with regs := regs, cmp := cmp } := ⟨_, _, rfl⟩

theorem Blk.handed_def (s : Blk) (k : Nat) (toBye : Bool) (line : Nat) : s.handed k toBye line =
    (((s.setF CMP_STAKE_STATUS_BYE_FOR (if toBye then k else 15)).incSat CMP_HANDOVERS).count 0x1B).raise 0x301 k
      (if toBye then k * 16 + 8 else 8 * 16 + k) (line % 2 ^ 24) := rfl

theorem Blk.reg_handed (s : Blk) (k : Nat) (toBye : Bool) (line : Nat) {a : Nat} (hc : cntWord a = false) :
    (s.handed k toBye line).reg a = ((s.setF CMP_STAKE_STATUS_BYE_FOR (if toBye then k else 15)).incSat CMP_HANDOVERS).reg a := by
  rw [Blk.handed_def]
  generalize (s.setF CMP_STAKE_STATUS_BYE_FOR (if toBye then k else 15)).incSat CMP_HANDOVERS = u
  exact (Blk.reg_of_regs (Blk.raise_regs _ _ _ _ _) _).trans (Blk.reg_count _ _ _ hc)

/-- The span goes to S8: STAKE_HANDOVER is raised. -/
theorem Blk.raised_handed (s : Blk) {k : Nat} (hk : k < 8) (line : Nat) :
    s.Raised (s.handed k true line) 0x301 k (k * 16 + 8) (line % 2 ^ 24) := by
  rw [Blk.handed_def]
  simp only [if_true]
  have hu : ((s.setF CMP_STAKE_STATUS_BYE_FOR k).incSat CMP_HANDOVERS).evq = s.evq := (Blk.wn_evq _ _ _).trans (Blk.setF_evq _ _ _)
  generalize (s.setF CMP_STAKE_STATUS_BYE_FOR k).incSat CMP_HANDOVERS = u at hu ⊢
  exact (Blk.raised_raise _ 0x301 (by omega) (by omega) (Nat.mod_lt _ (by decide))).of_left (hu ▸ u.evq_count_prefix 0x1B 1)

/-! ### Requests and their cancellation -/

theorem Blk.bstGo_of_under_way (h : s.bst.phase ≠ 0) : s.bstGo = s := by rw [Blk.bstGo, if_pos (.inl h)]

theorem Blk.bstGo_of_none (h : s.rn BST_REQ = 0) : s.bstGo = s := by
  have hf : ∀ l : List Nat, l.find? (fun u => bitOf 0 u) = none := fun l => List.find?_eq_none.2 fun u _ => by simp [bitOf]
  have hp : s.bstPick = none := by
    have h0 : ∀ u : Nat, bitOf 0 u = false := fun u => by simp [bitOf]
    rw [Blk.bstPick, h, hf]
    simp [h0]
  rw [Blk.bstGo, hp]
  split <;> rfl

/-- What a request does, before a test may start. -/
def Blk.requested (s : Blk) (m : Nat) : Blk :=
  (if m &&& s.rn BST_REQ = 0 then s else s.setF BST_STATUS_MERGED 1).wn BST_REQ (s.rn BST_REQ ||| m)

theorem bstReq_eq (w : Word) (h : s.fuse.repair = none) : bstReq w s = (s.requested (w.toNat % 2 ^ 13)).bstGo := by
  simp [bstReq, h, Blk.requested]

theorem Blk.onlyRegs_requested (s : Blk) (m : Nat) : s.OnlyRegs (s.requested m) fun a => a = BST_REQ ∨ a = BST_STATUS := by
  unfold Blk.requested
  split
  · exact (Blk.OnlyRegs.refl s _).wn (.inl rfl)
  · exact ((Blk.OnlyRegs.refl s (fun a => a = BST_REQ ∨ a = BST_STATUS)).setF (x := BST_STATUS_MERGED) (.inr rfl)).wn (.inl rfl)

theorem Blk.rn_requested {m : Nat} (hm : m < 2 ^ 24) : (s.requested m).rn BST_REQ = s.rn BST_REQ ||| m :=
  (Blk.rn_wn_same _ _ _).trans (Nat.mod_eq_of_lt (Nat.or_lt_two_pow (Blk.rn_lt s _) hm))

theorem Blk.fb_requested_merged (s : Blk) (m : Nat) :
    (s.requested m).fb BST_STATUS_MERGED = (s.fb BST_STATUS_MERGED || m &&& s.rn BST_REQ != 0) := by
  unfold Blk.requested
  split
  case isTrue h => simp [h, Blk.fb, Blk.f_wn_ne]
  case isFalse h => simp [h, Blk.fb, Blk.f_wn_ne, Blk.f_setF_same]

theorem bstReq_waits (w : Word) (hr : s.fuse.repair = none) (hp : s.bst.phase ≠ 0) :
    (bstReq w s).rn BST_REQ = s.rn BST_REQ ||| w.toNat % 2 ^ 13 ∧
      (bstReq w s).fb BST_STATUS_MERGED = (s.fb BST_STATUS_MERGED || w.toNat % 2 ^ 13 &&& s.rn BST_REQ != 0) ∧
      s.OnlyRegs (bstReq w s) fun a => a = BST_REQ ∨ a = BST_STATUS := by
  have ho := s.onlyRegs_requested (w.toNat % 2 ^ 13)
  have hb : (s.requested (w.toNat % 2 ^ 13)).bst = s.bst := by rw [ho.1]
  rw [bstReq_eq w hr, Blk.bstGo_of_under_way (by rw [hb]; exact hp)]
  exact ⟨Blk.rn_requested (by omega), s.fb_requested_merged _, ho⟩

theorem Blk.bstGo_of_pick {u : Nat} (hp : s.bst.phase = 0) (hb : s.fb BST_STATUS_BUSY = false) (hu : u ≤ 8) (hk : s.bstPick = some (u, false)) :
    ∃ bst, s.bstGo = ({ s with bst := bst } : Blk).testUnit u := by
  rw [Blk.bstGo, if_neg (by simp [hp, hb]), hk]
  simp only [hu, if_true, Bool.false_eq_true, if_false]
  exact ⟨_, rfl⟩

theorem Blk.bstPick_of_stake {u : Nat} (hu : u < 9) (hq : s.rn BST_REQ = 2 ^ u) (hi : s.allIdle = true) : s.bstPick = some (u, false) := by
  have hf : ∀ u : Nat, u < 9 → (List.range 9).find? (fun v => bitOf (2 ^ u) v) = some u := by decide
  rw [Blk.bstPick, hq, hf u hu, hi]
  rfl

theorem bstReq_starts (w : Word) {u : Nat} (hr : s.fuse.repair = none) (hu : u < 9) (hw : w.toNat = 2 ^ u) (hq : s.rn BST_REQ = 0)
    (hp : s.bst.phase = 0) (hb : s.fb BST_STATUS_BUSY = false) (hi : s.allIdle = true) :
    (bstReq w s).fb BST_STATUS_BUSY = true ∧ (bstReq w s).f BST_STATUS_UNIT = u ∧ (bstReq w s).rn BST_REQ = 2 ^ u ∧
      s.Frame (bstReq w s) fun a => a = BST_REQ ∨ a = BST_STATUS := by
  have hlt : 2 ^ u < 2 ^ 13 := Nat.pow_lt_pow_right (by decide) (by omega)
  have heq : s.requested (w.toNat % 2 ^ 13) = s.wn BST_REQ (2 ^ u) := by
    rw [hw, Nat.mod_eq_of_lt hlt, Blk.requested, hq, Nat.and_zero, if_pos rfl, Nat.zero_or]
  have hF : s.Frame (s.wn BST_REQ (2 ^ u)) fun a => a = BST_REQ ∨ a = BST_STATUS :=
    (Blk.Frame.refl s (fun a => a = BST_REQ ∨ a = BST_STATUS)).wn (.inl rfl)
  have hq1 : (s.wn BST_REQ (2 ^ u)).rn BST_REQ = 2 ^ u := (Blk.rn_wn_same _ _ _).trans (Nat.mod_eq_of_lt (hlt.trans (by decide)))
  have hi1 : (s.wn BST_REQ (2 ^ u)).allIdle = true := (hF.1.allIdle fun t ht => by simp only [PGE_TRK_STATUS, BST_REQ, BST_STATUS]; omega).trans hi
  have hb1 : (s.wn BST_REQ (2 ^ u)).fb BST_STATUS_BUSY = false := by rw [Blk.fb, Blk.f_wn_ne _ _ _ _ (by decide)]; exact hb
  obtain ⟨bst, hgo⟩ := Blk.bstGo_of_pick (s := s.wn BST_REQ (2 ^ u)) hp hb1 (by omega) (Blk.bstPick_of_stake hu hq1 hi1)
  rw [bstReq_eq w hr, heq, hgo]
  exact ⟨Blk.fb_testUnit_busy _ _, Blk.f_testUnit_unit _ (by omega),
    (Blk.rn_of_reg (Blk.reg_testUnit_ne _ _ (by decide))).trans hq1, hF.put.testUnit (.inr rfl)⟩

theorem Blk.Frame.bstDone (h : r.Frame s p) : r.Frame s.bstDone p := by
  rw [Blk.bstDone]
  refine h.ite ?_
  exact Blk.Frame.raise (s := { s with bst := { s.bst with tested := 0, failed := 0 } }) h.put

theorem Blk.reg_bstDone (s : Blk) (a : Nat) : s.bstDone.reg a = s.reg a := by
  rw [Blk.bstDone]
  split
  · rfl
  · exact Blk.reg_of_regs (Blk.raise_regs _ _ _ _ _) _

theorem Blk.raised_bstDone (h : s.rn BST_REQ = 0) : ∃ t f, s.Raised s.bstDone 0xD03 0 t f := by
  rw [Blk.bstDone, if_neg (by simp [h])]
  exact ⟨_, _, _, _, rfl, List.mem_singleton.2 rfl, rfl, rfl, rfl, rfl⟩

theorem Blk.bstDone_bst_phase (s : Blk) : s.bstDone.bst.phase = s.bst.phase := by
  rw [Blk.bstDone]
  split <;> rfl

theorem bstCancel_clears (hp : s.bst.phase = 0) (hb : s.fb BST_STATUS_BUSY = false) :
    (bstCancel s).rn BST_REQ = 0 ∧ (s.rn BST_REQ ≠ 0 → ∃ t f, s.Raised (bstCancel s) 0xD03 0 t f) ∧ s.Frame (bstCancel s) (· = BST_REQ) := by
  have hF : s.Frame (s.wn BST_REQ 0) (· = BST_REQ) := (Blk.Frame.refl s (· = BST_REQ)).wn rfl
  have hq : (s.wn BST_REQ 0).rn BST_REQ = 0 := Blk.rn_wn_same _ _ _
  have heq : bstCancel s = if s.rn BST_REQ ≠ 0 then (s.wn BST_REQ 0).bstDone else s.wn BST_REQ 0 := by
    simp [bstCancel, hp, hb]
  rw [heq]
  split
  · exact ⟨(Blk.rn_of_reg (Blk.reg_bstDone _ _)).trans hq, fun _ => Blk.raised_bstDone (s := s.wn BST_REQ 0) hq, hF.bstDone⟩
  case isFalse h => exact ⟨hq, fun g => absurd g h, hF⟩

/-! ### The rotation (R152, R454) -/

/-- What a rest does once it may begin. -/
def Blk.restBegun (s : Blk) : Blk :=
  { s with bst := { s.takePat.bst with stake := s.bst.next, asked := false, handed := false, retry := 0 } }

theorem restStart_of_due (t : Nat) (hp : s.bst.phase = 0) (hb : s.fb BST_STATUS_BUSY = false) (hr : s.fb BST_STATUS_ROT_STOPPED = false)
    (he : s.fb BST_CFG_ROT_EN = true) (hn : s.bst.restEnd + 250000 * atLeast1 (s.f BST_CFG_REST_MS) ≤ max s.now t) :
    restStart t s = if s.bst.next = 8 then (s.advance t).restBegun.testUnit 8
      else ((s.advance t).restBegun.handStart s.bst.next true).handAtIdle := by
  have hb1 : (s.advance t).fb BST_STATUS_BUSY = false := (s.fb_advance t (by decide)).trans hb
  have hr1 : (s.advance t).fb BST_STATUS_ROT_STOPPED = false := (s.fb_advance t (by decide)).trans hr
  have he1 : (s.advance t).fb BST_CFG_ROT_EN = true := (s.fb_advance t (by decide)).trans he
  have hm : (s.advance t).f BST_CFG_REST_MS = s.f BST_CFG_REST_MS := s.f_advance t (by decide)
  have hnow : (s.advance t).now = max s.now t := s.now_advance t
  have hwait : ¬(s.advance t).now < (s.advance t).bst.restEnd +
      (if (s.advance t).twnState = 3 then 0 else 250000 * atLeast1 ((s.advance t).f BST_CFG_REST_MS)) := by
    rw [hnow, hm, Blk.advance_bst]
    split <;> omega
  unfold restStart
  extract_lets u wait k v x
  rw [if_neg (by simp only [u, wait, hb1, hr1, he1, Blk.advance_bst, hp]; simpa [wait] using hwait)]
  have hk : k = s.bst.next := by simp [k, u]
  rw [hk]
  rfl

theorem Blk.evq_testUnit (s : Blk) (u : Nat) : (s.testUnit u).evq = s.evq := by
  obtain ⟨bst, h⟩ := s.testUnit_eq u
  generalize ht : (s.setF BST_STATUS_BUSY 1).setF BST_STATUS_UNIT u = t at h
  have he : t.evq = s.evq := by rw [← ht, Blk.setF_evq, Blk.setF_evq]
  rw [h]
  exact he

theorem Blk.cmp_testUnit (s : Blk) (u : Nat) : (s.testUnit u).cmp = s.cmp := by
  obtain ⟨bst, h⟩ := s.testUnit_eq u
  generalize ht : (s.setF BST_STATUS_BUSY 1).setF BST_STATUS_UNIT u = t at h
  have he : t.cmp = s.cmp := by rw [← ht, Blk.setF_cmp, Blk.setF_cmp]
  rw [h]
  exact he

theorem Blk.cmp_handed (s : Blk) (k : Nat) (toBye : Bool) (line : Nat) : (s.handed k toBye line).cmp = s.cmp := by
  rw [Blk.handed_def, Blk.raise_cmp, Blk.count_cmp, Blk.incSat, Blk.addSat, Blk.wn_cmp, Blk.setF_cmp]

theorem Blk.hand_handEnd (s : Blk) : s.handEnd.cmp.hand = none := rfl

theorem Blk.evq_handEnd (s : Blk) : s.handEnd.evq = s.evq := by
  obtain ⟨regs, cmp, h⟩ := s.handEnd_eq
  rw [h]

theorem Blk.f_handEnd_handover (s : Blk) : s.handEnd.f CMP_STAKE_STATUS_HANDOVER = 15 := by
  rw [Blk.handEnd, Blk.f_put, Blk.f_setF_same _ _ _ (by decide) (by decide)]
  rfl

theorem Blk.reg_handEnd_ne (s : Blk) {a : Nat} (h : a ≠ CMP_STAKE_STATUS) : s.handEnd.reg a = s.reg a := by
  rw [Blk.handEnd, Blk.reg_put]
  exact Blk.reg_setF_ne s CMP_STAKE_STATUS_HANDOVER 15 h

theorem restStart_bye (t : Nat) (hp : s.bst.phase = 0) (hb : s.fb BST_STATUS_BUSY = false) (hr : s.fb BST_STATUS_ROT_STOPPED = false)
    (he : s.fb BST_CFG_ROT_EN = true) (hn : s.bst.restEnd + 250000 * atLeast1 (s.f BST_CFG_REST_MS) ≤ max s.now t) (h8 : s.bst.next = 8) :
    (restStart t s).fb BST_STATUS_BUSY = true ∧ (restStart t s).f BST_STATUS_UNIT = 8 ∧ s.Frame (restStart t s) (· = BST_STATUS) := by
  have hF : s.Frame (s.advance t).restBegun (· = BST_STATUS) := (Blk.Frame.refl s _).advance.put
  rw [restStart_of_due t hp hb hr he hn, if_pos h8]
  exact ⟨Blk.fb_testUnit_busy _ _, Blk.f_testUnit_unit _ (by decide), hF.testUnit rfl⟩

theorem restStart_stake (t : Nat) (hp : s.bst.phase = 0) (hb : s.fb BST_STATUS_BUSY = false) (hr : s.fb BST_STATUS_ROT_STOPPED = false)
    (he : s.fb BST_CFG_ROT_EN = true) (hn : s.bst.restEnd + 250000 * atLeast1 (s.f BST_CFG_REST_MS) ≤ max s.now t) (hi : s.allIdle = false)
    (h8 : s.bst.next < 8) :
    (restStart t s).f CMP_STAKE_STATUS_HANDOVER = s.bst.next ∧ (restStart t s).cmp.hand = some ⟨s.bst.next, true, 0⟩ ∧
      s.Frame (restStart t s) (· = CMP_STAKE_STATUS) := by
  have hF : s.Frame ((s.advance t).restBegun.handStart s.bst.next true) (· = CMP_STAKE_STATUS) :=
    Blk.Frame.handStart ((Blk.Frame.refl s _).advance.put) rfl
  have hi1 := (hF.1.allIdle fun t ht => by simp only [PGE_TRK_STATUS, CMP_STAKE_STATUS]; omega).trans hi
  rw [restStart_of_due t hp hb hr he hn, if_neg (by omega), Blk.handAtIdle, hi1]
  exact ⟨Blk.f_handStart_handover _ _ (by omega), rfl, hF⟩

/-- The line from which the new stake of a handover composes. -/
def Blk.handFrom (s : Blk) (x : Handover) : Nat :=
  if x.g ≠ 0 then s.indexOf 0 (x.g + 2) else if s.running then s.indexOf 0 (s.composedTo + 1) else if s.shuttle then 1 else 3

/-- The span has gone over; what is next is noted. -/
def Blk.handMarked (s : Blk) : Blk := { s with bst := { s.bst with handed := true } }

theorem handDone_to_bye {x : Handover} (hx : s.cmp.hand = some x) (hb : x.toBye = true) :
    s.handDone = ((s.handEnd.handed x.stake true (s.handFrom x)).handMarked).testUnit x.stake := by
  simp only [Blk.handDone, hx, hb, if_true]
  rfl

theorem stakeHandover_done {x : Handover} (hx : s.cmp.hand = some x) (hg : x.g ≠ 0) (hn : x.g ≤ s.fireNum) :
    stakeHandover none s = s.handDone := by
  simp only [stakeHandover, hx]
  rw [if_neg (by omega), if_neg (by omega)]

theorem stakeHandover_to_bye {x : Handover} (hx : s.cmp.hand = some x) (hb : x.toBye = true) (h8 : x.stake < 8) (hg : x.g ≠ 0)
    (hn : x.g ≤ s.fireNum) :
    (stakeHandover none s).cmp.hand = none ∧ (stakeHandover none s).f CMP_STAKE_STATUS_HANDOVER = 15 ∧
      (stakeHandover none s).f CMP_STAKE_STATUS_BYE_FOR = x.stake ∧
      (stakeHandover none s).rn CMP_HANDOVERS = min (s.rn CMP_HANDOVERS + 1) u24max ∧
      (∃ l, s.Raised (stakeHandover none s) 0x301 x.stake (x.stake * 16 + 8) l) ∧
      (stakeHandover none s).fb BST_STATUS_BUSY = true ∧ (stakeHandover none s).f BST_STATUS_UNIT = x.stake ∧
      s.Frame (stakeHandover none s) fun a => a = CMP_STAKE_STATUS ∨ a = CMP_HANDOVERS ∨ a = BST_STATUS := by
  rw [stakeHandover_done hx hg hn, handDone_to_bye hx hb]
  have hreg : ∀ a, cntWord a = false → a ≠ BST_STATUS → (((s.handEnd.handed x.stake true (s.handFrom x)).handMarked).testUnit x.stake).reg a =
      ((s.handEnd.setF CMP_STAKE_STATUS_BYE_FOR x.stake).incSat CMP_HANDOVERS).reg a := fun a hc ha =>
    (Blk.reg_testUnit_ne _ _ ha).trans (Blk.reg_handed s.handEnd x.stake true (s.handFrom x) hc)
  have hF : s.Frame (s.handEnd.handed x.stake true (s.handFrom x)) fun a => a = CMP_STAKE_STATUS ∨ a = CMP_HANDOVERS ∨ a = BST_STATUS :=
    Blk.Frame.handed (Blk.Frame.handEnd (.refl s _) (.inl rfl)) (.inl rfl) (.inr (.inl rfl))
  have hh : (((s.handEnd.handed x.stake true (s.handFrom x)).handMarked).testUnit x.stake).cmp.hand = none := by
    rw [Blk.cmp_testUnit]
    exact (congrArg Cmp.hand (Blk.cmp_handed s.handEnd x.stake true (s.handFrom x))).trans s.hand_handEnd
  refine ⟨hh, ?_, ?_, ?_, ⟨s.handFrom x % 2 ^ 24, ?_⟩, Blk.fb_testUnit_busy _ _, Blk.f_testUnit_unit _ (by omega), (hF.put).testUnit (.inr (.inr rfl))⟩
  · rw [Blk.f_of_reg (hreg _ (by decide) (by decide)), Blk.f_incSat_ne _ (by decide),
      Blk.f_setF_ne _ _ _ _ (by decide) (by decide) (by decide) (by decide)]
    exact s.f_handEnd_handover
  · rw [Blk.f_of_reg (hreg _ (by decide) (by decide)), Blk.f_incSat_ne _ (by decide), Blk.f_setF_same _ _ _ (by decide) (by decide)]
    exact Nat.mod_eq_of_lt (h8.trans (by decide))
  · rw [Blk.rn_of_reg (hreg _ (by decide) (by decide)), Blk.rn_incSat_same, Blk.rn_of_reg (Blk.reg_setF_ne _ _ _ (by decide)),
      Blk.rn_of_reg (s.reg_handEnd_ne (by decide))]
  · have hq : (((s.handEnd.handed x.stake true (s.handFrom x)).handMarked).testUnit x.stake).evq = (s.handEnd.handed x.stake true (s.handFrom x)).evq :=
      Blk.evq_testUnit _ _
    have hl : s.evq <+: s.handEnd.evq := s.evq_handEnd ▸ List.prefix_refl _
    exact ((Blk.raised_handed s.handEnd h8 (s.handFrom x)).of_left hl).of_right (hq ▸ List.prefix_refl _)

/-! ### The end of a unit's test (R451, R459) -/

theorem Blk.testOver_eq (s : Blk) :
    ∃ ports, s.testOver = (({ s with ports := ports } : Blk).setF BST_STATUS_BUSY 0).setF BST_STATUS_UNIT 15 := by
  have hfold : ∀ (l : List Nat) (d : Nat), ∃ ports,
      l.foldl (fun s h => s.setPort h { s.port h with lastStatus := (s.port h).lastStatus + d }) s = { s with ports := ports } := by
    intro l d
    refine List.foldlRecOn (motive := fun t : Blk => ∃ ports, t = { s with ports := ports }) l _ ⟨s.ports, rfl⟩ ?_
    rintro u ⟨ports, rfl⟩ h _
    exact ⟨_, rfl⟩
  unfold Blk.testOver
  extract_lets d t
  have ht : ∃ ports, t = { s with ports := ports } := by
    show ∃ ports, (if s.underTest 10 then _ else s) = { s with ports := ports }
    split
    · exact hfold _ _
    · exact ⟨s.ports, rfl⟩
  obtain ⟨ports, ht⟩ := ht
  exact ⟨ports, by rw [ht]⟩

theorem Blk.Frame.testOver (h : r.Frame s p) (hp : p BST_STATUS) : r.Frame s.testOver p := by
  obtain ⟨ports, ht⟩ := s.testOver_eq
  rw [ht]
  exact ((h.put).setF (x := BST_STATUS_BUSY) hp).setF (x := BST_STATUS_UNIT) hp

theorem Blk.fb_testOver_busy (s : Blk) : s.testOver.fb BST_STATUS_BUSY = false := by
  obtain ⟨ports, ht⟩ := s.testOver_eq
  rw [ht, Blk.fb_setF_ne _ _ _ _ (by decide) (by decide) (by decide) (by decide), Blk.fb_setF_same _ _ _ (by decide) (by decide)]
  rfl

theorem Blk.reg_testOver_ne (s : Blk) {a : Nat} (h : a ≠ BST_STATUS) : s.testOver.reg a = s.reg a := by
  obtain ⟨ports, ht⟩ := s.testOver_eq
  rw [ht, Blk.reg_setF_ne, Blk.reg_setF_ne, Blk.reg_put]
  · exact h
  · exact h

theorem Blk.evq_testOver (s : Blk) : s.testOver.evq = s.evq := by
  obtain ⟨ports, ht⟩ := s.testOver_eq
  rw [ht, Blk.setF_evq, Blk.setF_evq]

/-- The registers of a test's result. -/
def Blk.resultShown (s : Blk) (u sig : Nat) (pass : Bool) : Blk :=
  ((s.setVal BST_SIG sig 2).wn BST_LAST (u * 2 ^ 20 + alook 0 s.bst.seeds u * 2 ^ 16 + b2n pass)).setF ⟨BST_FAIL, u, u⟩ (b2n !pass)

theorem Blk.testResult_eq (s : Blk) (u sig : Nat) (pass : Bool) :
    ∃ bst, s.testResult u sig pass = { s.resultShown u sig pass with bst := bst } := by
  unfold Blk.testResult
  extract_lets seed t v
  exact ⟨_, rfl⟩

theorem Blk.Frame.resultShown (h : r.Frame s p) {u sig : Nat} {pass : Bool} (h0 : p BST_SIG) (h1 : p (BST_SIG + 1)) (h2 : p BST_LAST)
    (h3 : p BST_FAIL) : r.Frame (s.resultShown u sig pass) p :=
  ((h.setVal2 h0 h1).wn h2).setF (x := ⟨BST_FAIL, u, u⟩) h3

theorem Blk.val_resultShown_sig (s : Blk) (u : Nat) (sig : BitVec 48) (pass : Bool) :
    (s.resultShown u sig.toNat pass).val BST_SIG 2 = sig.toNat := by
  rw [Blk.resultShown, Blk.val_setF_ne _ _ _ _ _ (.inl (show BST_FAIL < BST_SIG by decide)), Blk.val_wn_ne _ _ _ _ _ (.inr (by decide)), Blk.val_setVal_same]
  exact Nat.mod_eq_of_lt sig.isLt

theorem Blk.rn_resultShown_last (s : Blk) {u : Nat} (sig : Nat) (pass : Bool) (hu : u < 16) (hs : alook 0 s.bst.seeds u < 16) :
    (s.resultShown u sig pass).rn BST_LAST = u * 2 ^ 20 + alook 0 s.bst.seeds u * 2 ^ 16 + b2n pass := by
  have hp : b2n pass ≤ 1 := by cases pass <;> decide
  rw [Blk.resultShown, Blk.rn_of_reg (Blk.reg_setF_ne _ _ _ (by simp)), Blk.rn_wn_same, Nat.mod_eq_of_lt]
  omega

theorem Blk.reg_resultShown_ne (s : Blk) (u sig : Nat) (pass : Bool) {a : Nat} (h0 : a ≠ BST_SIG) (h1 : a ≠ BST_SIG + 1) (h2 : a ≠ BST_LAST)
    (h3 : a ≠ BST_FAIL) : (s.resultShown u sig pass).reg a = s.reg a := by
  have hF : s.OnlyRegs (s.resultShown u sig pass) fun a => a = BST_SIG ∨ a = BST_SIG + 1 ∨ a = BST_LAST ∨ a = BST_FAIL :=
    (((Blk.OnlyRegs.refl s (fun a => a = BST_SIG ∨ a = BST_SIG + 1 ∨ a = BST_LAST ∨ a = BST_FAIL)).setVal (n := 2)
      fun i hi => by omega).wn (.inr (.inr (.inl rfl)))).setF (x := ⟨BST_FAIL, u, u⟩) (.inr (.inr (.inr rfl)))
  exact hF.2 a (by simp [h0, h1, h2, h3])

/-- A passed test of a unit: what is shown before the request is cleared. -/
def Blk.unitPassed (s : Blk) (u : Nat) (sig : Nat) : Blk := s.testOver.testResult u sig true

theorem lbistEnd_of_unit (t : Nat) (sig : BitVec 48) {u : Nat} (hb : s.fb BST_STATUS_BUSY = true)
    (hn : s.bst.startAt + s.testClks ≤ max s.now t) (hu : s.f BST_STATUS_UNIT = u) (h9 : 9 ≤ u) :
    lbistEnd t sig true s = (((s.advance t).unitPassed u sig.toNat).requestDone u true).bstGo := by
  have hb1 : (s.advance t).fb BST_STATUS_BUSY = true := (s.fb_advance t (by decide)).trans hb
  have hu1 : (s.advance t).f BST_STATUS_UNIT = u := (s.f_advance t (by decide)).trans hu
  have hn1 : ¬(s.advance t).now < (s.advance t).bst.startAt + (s.advance t).testClks := by
    rw [s.now_advance t, Blk.testClks, Blk.advance_bst, ← Blk.testClks]
    omega
  unfold lbistEnd
  extract_lets v u' b w x
  have hu' : u' = u := hu1
  have hx : x = v.unitPassed u sig.toNat := by simp only [x, w, if_true, hu', Blk.unitPassed]
  rw [if_neg (by simpa [v, hb1] using hn1), if_pos (hu' ▸ h9), hx, hu']

theorem Blk.requestDone_def (s : Blk) (u : Nat) (pass : Bool) : ∃ bst, s.requestDone u pass = ({ s.setF ⟨BST_REQ, u, u⟩ 0 with bst := bst } : Blk).bstDone := by
  unfold Blk.requestDone
  extract_lets t b
  exact ⟨_, rfl⟩

/-- The only request is carried out. -/
theorem Blk.requestDone_last {u : Nat} (pass : Bool) (hu : u < 13) (hq : s.rn BST_REQ = 2 ^ u) :
    (s.requestDone u pass).rn BST_REQ = 0 ∧ (∃ t f, s.Raised (s.requestDone u pass) 0xD03 0 t f) ∧
      (∀ a, a ≠ BST_REQ → (s.requestDone u pass).reg a = s.reg a) := by
  obtain ⟨bst, h⟩ := s.requestDone_def u pass
  have hreq : (s.setF ⟨BST_REQ, u, u⟩ 0).rn BST_REQ = 0 := by
    have hset : ∀ u : Nat, u < 13 → setBits (2 ^ u) u u 0 % 2 ^ 24 = 0 := by decide
    rw [Blk.rn_setF, if_pos rfl, hq]
    exact hset u hu
  generalize ht : ({ s.setF ⟨BST_REQ, u, u⟩ 0 with bst := bst } : Blk) = t at h
  have htr : ∀ a, t.reg a = (s.setF ⟨BST_REQ, u, u⟩ 0).reg a := fun a => by rw [← ht, Blk.reg_put]
  have hte : t.evq = s.evq := by rw [← ht, Blk.setF_evq]
  have hq0 : t.rn BST_REQ = 0 := (Blk.rn_of_reg (htr _)).trans hreq
  rw [h]
  refine ⟨(Blk.rn_of_reg (Blk.reg_bstDone _ _)).trans hq0, ?_, fun a ha => ?_⟩
  · obtain ⟨n, f, hr⟩ := Blk.raised_bstDone hq0
    exact ⟨n, f, hr.of_left (hte ▸ List.prefix_refl _)⟩
  · exact (Blk.reg_bstDone _ _).trans ((htr a).trans (Blk.reg_setF_ne s ⟨BST_REQ, u, u⟩ 0 ha))

theorem Blk.Frame.requestDone (h : r.Frame s p) {u : Nat} {pass : Bool} (hp : p BST_REQ) : r.Frame (s.requestDone u pass) p := by
  obtain ⟨bst, hd⟩ := s.requestDone_def u pass
  rw [hd]
  exact ((h.setF (x := ⟨BST_REQ, u, u⟩) hp).put).bstDone

theorem Blk.unitPassed_spec (s : Blk) {u : Nat} (sig : BitVec 48) (hu : u < 13) (hs : alook 0 s.bst.seeds u < 16) :
    (s.unitPassed u sig.toNat).fb BST_STATUS_BUSY = false ∧ (s.unitPassed u sig.toNat).rn BST_REQ = s.rn BST_REQ ∧
      (s.unitPassed u sig.toNat).val BST_SIG 2 = sig.toNat ∧
      (s.unitPassed u sig.toNat).rn BST_LAST = u * 2 ^ 20 + alook 0 s.bst.seeds u * 2 ^ 16 + 1 ∧
      bitOf ((s.unitPassed u sig.toNat).rn BST_FAIL) u = false ∧ (s.unitPassed u sig.toNat).evq = s.evq ∧
      s.Frame (s.unitPassed u sig.toNat) fun a =>
        a = BST_STATUS ∨ a = BST_REQ ∨ a = BST_SIG ∨ a = BST_SIG + 1 ∨ a = BST_LAST ∨ a = BST_FAIL := by
  obtain ⟨bst, h⟩ := s.testOver.testResult_eq u sig.toNat true
  have hbst : s.testOver.bst = s.bst := by
    obtain ⟨ports, ht⟩ := s.testOver_eq
    rw [ht, Blk.setF_bst, Blk.setF_bst]
  have hF : s.Frame (s.testOver.resultShown u sig.toNat true) fun a =>
      a = BST_STATUS ∨ a = BST_REQ ∨ a = BST_SIG ∨ a = BST_SIG + 1 ∨ a = BST_LAST ∨ a = BST_FAIL :=
    Blk.Frame.resultShown (Blk.Frame.testOver (.refl s _) (.inl rfl)) (by simp) (by simp) (by simp) (by simp)
  have hreg : ∀ a, a ≠ BST_SIG → a ≠ BST_SIG + 1 → a ≠ BST_LAST → a ≠ BST_FAIL →
      (s.testOver.resultShown u sig.toNat true).reg a = s.testOver.reg a := fun a h0 h1 h2 h3 =>
    s.testOver.reg_resultShown_ne u sig.toNat true h0 h1 h2 h3
  have hev : (s.testOver.resultShown u sig.toNat true).evq = s.evq := by
    rw [Blk.resultShown, Blk.setF_evq, Blk.wn_evq, Blk.setVal_eq]
    exact s.evq_testOver
  have hevP : (s.unitPassed u sig.toNat).evq = s.evq := by
    rw [Blk.unitPassed, h]
    generalize s.testOver.resultShown u sig.toNat true = x at hev
    exact hev
  refine ⟨?_, ?_, ?_, ?_, ?_, hevP, ?_⟩ <;> rw [Blk.unitPassed, h]
  · rw [Blk.fb_put, Blk.fb_of_reg (hreg _ (by decide) (by decide) (by decide) (by decide))]
    exact s.fb_testOver_busy
  · rw [Blk.rn_put, Blk.rn_of_reg (hreg _ (by decide) (by decide) (by decide) (by decide))]
    exact Blk.rn_of_reg (s.reg_testOver_ne (by decide))
  · rw [Blk.val_put]
    exact Blk.val_resultShown_sig _ _ _ _
  · rw [Blk.rn_put, Blk.rn_resultShown_last _ _ _ (by omega) (hbst ▸ hs), hbst]
    rfl
  · rw [Blk.rn_put, Blk.bitOf_rn, Blk.resultShown, Blk.fb_setF_same _ _ _ (le_refl _) (show u < 24 by omega)]
    rfl
  · exact hF.put

theorem lbistEnd_passed (t : Nat) (sig : BitVec 48) {u : Nat} (hb : s.fb BST_STATUS_BUSY = true)
    (hn : s.bst.startAt + s.testClks ≤ max s.now t) (hu : s.f BST_STATUS_UNIT = u) (h9 : 9 ≤ u) (h13 : u < 13) (hq : s.rn BST_REQ = 2 ^ u)
    (hs : alook 0 s.bst.seeds u < 16) :
    (lbistEnd t sig true s).fb BST_STATUS_BUSY = false ∧ (lbistEnd t sig true s).rn BST_REQ = 0 ∧
      (lbistEnd t sig true s).val BST_SIG 2 = sig.toNat ∧ (lbistEnd t sig true s).f BST_LAST_UNIT = u ∧
      (lbistEnd t sig true s).f BST_LAST_SEED = alook 0 s.bst.seeds u ∧ (lbistEnd t sig true s).fb BST_LAST_PASS = true ∧
      bitOf ((lbistEnd t sig true s).rn BST_FAIL) u = false ∧ (∃ t' f, s.Raised (lbistEnd t sig true s) 0xD03 0 t' f) ∧
      s.Frame (lbistEnd t sig true s) fun a =>
        a = BST_STATUS ∨ a = BST_REQ ∨ a = BST_SIG ∨ a = BST_SIG + 1 ∨ a = BST_LAST ∨ a = BST_FAIL := by
  obtain ⟨hbusy, hreq, hsig, hlast, hfail, hev, hF⟩ := (s.advance t).unitPassed_spec sig h13 (by rw [Blk.advance_bst]; exact hs)
  rw [Blk.advance_bst] at hlast
  rw [lbistEnd_of_unit t sig hb hn hu h9]
  generalize hv : (s.advance t).unitPassed u sig.toNat = v at hbusy hreq hsig hlast hfail hev hF
  have hq' : v.rn BST_REQ = 2 ^ u := (hreq.trans (s.rn_advance t (by decide))).trans hq
  obtain ⟨hq0, ⟨n, f, hr⟩, hreg⟩ := v.requestDone_last true h13 hq'
  have hF2 := ((Blk.Frame.refl s _).advance.trans hF).requestDone (u := u) (pass := true) (.inr (.inl rfl))
  rw [Blk.bstGo_of_none hq0]
  have hlast' : (v.requestDone u true).rn BST_LAST = u * 2 ^ 20 + alook 0 s.bst.seeds u * 2 ^ 16 + 1 := (Blk.rn_of_reg (hreg _ (by decide))).trans hlast
  refine ⟨(Blk.fb_of_reg (hreg _ (by decide))).trans hbusy, hq0, ?_, ?_, ?_, ?_, ?_, ⟨n, f, ?_⟩, hF2⟩
  · exact (Blk.val_of_reg fun i hi => hreg _ (by simp only [BST_SIG, BST_REQ]; omega)).trans hsig
  · rw [Blk.f, hlast']
    simp only [bits]
    omega
  · rw [Blk.f, hlast']
    simp only [bits]
    omega
  · rw [Blk.fb, Blk.f, hlast']
    simp only [bits, beq_iff_eq]
    omega
  · rw [Blk.rn_of_reg (hreg _ (by decide))]
    exact hfail
  · exact hr.of_left (hev ▸ s.evq_advance_prefix t)

/-! ### Stake repair (R444, R457) -/

theorem Blk.showFuses_repair {k : Nat} (hk : k < 8) (h : s.fuse.repair = some k) :
    s.showFuses.rn BST_FUSE = 16 + k ∧ s.showFuses.evq = s.evq ∧ s.showFuses.fuse = s.fuse := by
  unfold Blk.showFuses
  extract_lets a b c
  have hc : s.OnlyRegs c fun _ => True :=
    (((((((Blk.OnlyRegs.refl s _).setF trivial).setF trivial).setF trivial).setF trivial).setF trivial).setVal fun _ _ => trivial).setVal fun _ _ => trivial
  clear_value c
  rw [hc.1]
  simp only [h]
  refine ⟨(Blk.rn_wn_same _ _ _).trans (Nat.mod_eq_of_lt (by omega)), ?_, ?_⟩
  · rw [Blk.wn_evq]
  · rw [Blk.wn_fuse]

theorem stakeRepair_blows (w : Word) (h3 : s.fuse.state = 3) (hr : s.fuse.repair = none) (h7 : w.toNat % 16 ≤ 7)
    (hk : w.toNat / 256 = 0x5250) (hi : s.allIdle = true) :
    (stakeRepair w.toNat (s.vfuse true)).fuse = { s.fuse with repair := some (w.toNat % 16) } ∧
      (stakeRepair w.toNat (s.vfuse true)).rn BST_FUSE = 16 + w.toNat % 16 ∧
      s.Raised (stakeRepair w.toNat (s.vfuse true)) 0xD08 (w.toNat % 16) (w.toNat % 16) 0 := by
  have hv : (s.vfuse true).fb SEC_LC_STATUS_VFUSE_OK = true := Blk.fb_setF_same _ _ _ (by decide) (by decide)
  have hkey : bits w.toNat 23 8 = 0x5250 := by
    have := w.isLt
    simp only [bits]
    omega
  have hF : s.Frame (s.vfuse true) (· = SEC_LC_STATUS) := (Blk.Frame.refl s (· = SEC_LC_STATUS)).setF (x := SEC_LC_STATUS_VFUSE_OK) rfl
  have hi1 : (s.vfuse true).allIdle = true := (hF.1.allIdle fun t ht => by simp only [PGE_TRK_STATUS, SEC_LC_STATUS]; omega).trans hi
  have hf : (s.vfuse true).fuse = s.fuse := Blk.setF_fuse _ _ _
  have hev : (s.vfuse true).evq = s.evq := Blk.setF_evq _ _ _
  generalize s.vfuse true = v at hv hi1 hf hev
  generalize ht : ({ v with fuse := { v.fuse with repair := some (w.toNat % 16) } } : Blk) = t
  have htf : t.fuse = { s.fuse with repair := some (w.toNat % 16) } := by rw [← ht, ← hf]
  have hte : t.evq = s.evq := by rw [← ht, ← hev]
  obtain ⟨hrn, he, hfu⟩ := t.showFuses_repair (k := w.toNat % 16) (by omega) (by rw [htf])
  have heq : stakeRepair w.toNat v = t.showFuses.raise 0xD08 (w.toNat % 16) (w.toNat % 16) 0 := by
    rw [← ht]
    simp [stakeRepair, hf, h3, hv, hr, hkey, hi1, show ¬7 < w.toNat % 16 by omega]
  rw [heq]
  exact ⟨hfu.trans htf, (Blk.rn_of_reg (Blk.reg_of_regs (Blk.raise_regs _ _ _ _ _) _)).trans hrn,
    .raise (he.trans hte) _ (by omega) (by omega) (by decide)⟩

theorem stakeRepair_refused (w : Nat) (v : Bool) (h : s.fuse.state ≠ 3 ∨ v = false) :
    (stakeRepair w (s.vfuse v)).fb BST_STATUS_REP_REJ = true ∧ (stakeRepair w (s.vfuse v)).f BST_STATUS_REP_CAUSE = 1 ∧
      s.OnlyRegs (stakeRepair w (s.vfuse v)) fun a => a = BST_STATUS ∨ a = SEC_LC_STATUS := by
  have hv : (s.vfuse v).fb SEC_LC_STATUS_VFUSE_OK = v := by
    rw [Blk.vfuse, Blk.fb_setF_same _ _ _ (by decide) (by decide)]
    cases v <;> rfl
  have hc : (s.vfuse v).fuse.state ≠ 3 ∨ !(s.vfuse v).fb SEC_LC_STATUS_VFUSE_OK := by
    rw [hv]
    exact h.imp id fun g => by rw [g]; rfl
  have heq : stakeRepair w (s.vfuse v) = ((s.vfuse v).setF BST_STATUS_REP_REJ 1).setF BST_STATUS_REP_CAUSE 1 := by
    unfold stakeRepair
    extract_lets cause k
    have h1 : cause = 1 := if_pos hc
    rw [h1]
    rfl
  have hO : s.OnlyRegs (s.vfuse v) fun a => a = BST_STATUS ∨ a = SEC_LC_STATUS :=
    (Blk.OnlyRegs.refl s (fun a => a = BST_STATUS ∨ a = SEC_LC_STATUS)).setF (x := SEC_LC_STATUS_VFUSE_OK) (.inr rfl)
  rw [heq]
  refine ⟨?_, Blk.f_setF_same _ _ _ (by decide) (by decide), (hO.setF (x := BST_STATUS_REP_REJ) (.inl rfl)).setF (x := BST_STATUS_REP_CAUSE) (.inl rfl)⟩
  rw [Blk.fb_setF_ne _ _ _ _ (by decide) (by decide) (by decide) (by decide)]
  exact Blk.fb_setF_same _ _ _ (by decide) (by decide)

/-- Settles O50: a lemma for each clause. -/
theorem stakesAndTests : Obligations.StakesAndTests := by
  unfold Obligations.StakesAndTests
  intro s hs
  refine ⟨fun w hr => ⟨fun hp => ?_, fun u hu hw hq hp hb hi => ?_⟩, fun hp hb => ?_, fun t hp hb hr he hn hi => ⟨fun h8 => ?_, fun h8 => ?_⟩,
    fun x hx hb h8 hg hn => ?_, fun t sig u hb hn hu h9 h13 hq hseed => ?_, fun w v => ⟨fun h3 hv hr h7 hk hi => ?_, fun h => ?_⟩⟩
  · exact .of_on (f := bstReq w) rfl hs (bstReq_waits w hr hp)
  · exact .of_on (f := bstReq w) rfl hs (bstReq_starts w hr hu hw hq hp hb hi)
  · exact .of_on (f := bstCancel) rfl hs (bstCancel_clears hp hb)
  · exact .of_on (f := restStart t) rfl hs (restStart_bye t hp hb hr he hn h8)
  · exact .of_on (f := restStart t) rfl hs (restStart_stake t hp hb hr he hn hi h8)
  · exact .of_on (f := stakeHandover none) rfl hs (stakeHandover_to_bye hx hb h8 hg hn)
  · exact .of_on (f := lbistEnd t sig true) rfl hs (lbistEnd_passed t sig hb hn hu h9 h13 hq hseed)
  · subst hv
    exact .of_on (f := fun b => stakeRepair w.toNat (b.vfuse true)) rfl hs (stakeRepair_blows w h3 hr h7 hk hi)
  · exact .of_on (f := fun b => stakeRepair w.toNat (b.vfuse v)) rfl hs (stakeRepair_refused w.toNat v h)

end Sys2Proof.Machine
end

section
/-!
PROOFS. A trim round for a lane that the part does not have, which refutes what is claimed of trims and counters (R463, R464).
-/

namespace Sys2Proof.Machine

/-- Counter 0 counts CTL clocks, and a round of kind 1 is asked for. -/
def countingTrim : State :=
  let b := (({ Blk.init with sys := { Sys.init with phase := .up } } : Blk).setF (CNT_CFG_EN 0) 1).setF (CNT_CFG_SRC 0) 1
  ⟨b.wn TRM_REQ 2, []⟩

/-- A peaking code for lane 8,192: its LAN_EQ would stand at the upper word of counter 0. -/
def strayTrim : TrimVal := ⟨1, 8192, 0, 0⟩

theorem trimValue_strayTrim_before : countingTrim.blk.trimValue strayTrim = 0 := by decide +kernel

theorem held_trimRound_strayTrim : (trimRound (2 ^ 33) ⟨[strayTrim]⟩ countingTrim.blk).trm.held.map HeldTrim.val = [2] := by decide +kernel

/-- Refutes O51, by its clause on rounds: a round reads the code in force after time has moved on to it, and for a lane that the part does not
have the word read as its LAN_EQ is one in which a counter counts meanwhile. -/
theorem not_trimsAndCounters : ¬ Obligations.TrimsAndCounters := by
  unfold Obligations.TrimsAndCounters
  intro h
  have hs : countingTrim.blk.alive = true := by decide +kernel
  obtain ⟨-, hround, -⟩ := h countingTrim (2 ^ 33) hs
  obtain ⟨-, -, ⟨x, hx, -, -, -, hv⟩, -⟩ := (hround strayTrim (by decide +kernel) (by decide +kernel)).on rfl hs
  have hmem : x.val ∈ (trimRound (2 ^ 33) ⟨[strayTrim]⟩ countingTrim.blk).trm.held.map HeldTrim.val := List.mem_map_of_mem hx
  rw [held_trimRound_strayTrim, hv, trimValue_strayTrim_before] at hmem
  exact absurd hmem (by decide)

end Sys2Proof.Machine
end

section
/-!
PROOFS. A partner's epoch beyond 24 bits, which refutes what is claimed of roles (R287, R289).
-/

namespace Sys2Proof.Machine

/-- A unit in RESYNC that sees CLAIM_N released, with track 0 at work; the newest epoch it has heard of is noted as 2^24 + 4, which TWN_EPOCH cannot
hold. -/
def farEpoch : State :=
  let b := (({ Blk.init with sys := { Sys.init with phase := .up }, twn := { Twn.init with epoch := 2 ^ 24 + 4 } } : Blk).setF TWN_STATUS_STATE 4).setF
    TWN_STATUS_CLAIM_IN 1
  ⟨b.setF (PGE_TRK_STATUS_STATE 0) 1, []⟩

theorem nextEpoch_farEpoch : farEpoch.blk.nextEpoch = 2 ^ 24 + 5 := by decide +kernel

/-- Refutes O24, by its clause on FORCE_CLAIM: TWN_EPOCH does not take an epoch of more than 24 bits. -/
theorem not_twinRoles : ¬ Obligations.TwinRoles := by
  unfold Obligations.TwinRoles
  intro h
  obtain ⟨-, -, -, hforce, -⟩ := h farEpoch 0 (by decide +kernel) (by decide +kernel) (by decide +kernel)
  obtain ⟨b, -, -, -, -, hepoch, -⟩ := hforce (by decide +kernel) (by decide +kernel) (by decide +kernel) (by decide +kernel) (by decide +kernel)
  have hlt := b.blk.rn_lt TWN_EPOCH
  rw [hepoch, nextEpoch_farEpoch] at hlt
  exact absurd hlt (by decide)

end Sys2Proof.Machine
end

section
/-!
PROOFS. Shuttle passes armed and fed (R239, R247, R248).
-/

namespace Sys2Proof.Machine

variable {r s : Blk} {p : Nat → Prop}

/-- An event raised with a second datum of any size. -/
theorem Blk.exists_raised (hq : s.evq = r.evq) (c : Nat) {i d0 d1 : Nat} (hi : i < 256) (h0 : d0 < 2 ^ 24) :
    ∃ d, r.Raised (s.raise c i d0 d1) c i d0 d :=
  ⟨d1 % 2 ^ 24, _, _, congrArg (· ++ _) hq, List.mem_singleton.2 rfl, rfl, Nat.mod_eq_of_lt hi, Nat.mod_eq_of_lt h0, rfl⟩

/-- In PASS_WAIT the carriage has no pass to fall back in. -/
theorem Blk.passCheck_of_waiting (h : s.shtState = 2) : s.passCheck = s := by
  rw [Blk.passCheck, h]
  simp

theorem Blk.Frame.putTrk (h : r.Frame s p) {t : Nat} {x : Trk} (hp : p (PGE_TRK_STATUS t)) : r.Frame (s.putTrk t x) p :=
  Blk.Frame.setF (x := PGE_TRK_STATUS_STARTED t) (Blk.Frame.put h) hp

theorem Blk.Frame.putPage (h : r.Frame s p) {t : Nat} {x y : Page} (hp : p (PGE_TRK_STATUS t)) : r.Frame (s.putPage t x y) p := h.putTrk hp

/-- What arming a pass may write beside its compare and its state: the words of track 0 that show the page. -/
def passWord (a : Nat) : Prop :=
  a = PGE_TRK_STATUS 0 ∨ a = PGE_TRK_PAGE_TAG 0 ∨ a = PGE_TRK_PAGE_FIRST 0 ∨ a = PGE_TRK_PAGE_FIRST 0 + 1

/-- The page of a pass that arms. -/
def Blk.passPage (s : Blk) (k : Nat) : Blk :=
  match s.shtPage with
  | none => s
  | some p =>
    let q := { p with start := if k = 0 then s.lineIndex 0 + 1 else p.start, fetched := 0,
                      layers := p.layers.map fun l => { l with chunks := [], badC := [], offs := [], endLine := l.endLine.map fun _ => 0 } }
    let s := s.putPage 0 p q
    if k = 0 then
      let s := ((s.setF (PGE_TRK_STATUS_STATE 0) 2).wn (PGE_TRK_PAGE_TAG 0) p.tag).setVal (PGE_TRK_PAGE_FIRST 0) q.start 2
      s.raiseT 0x200 0 0 p.tag
    else s

theorem Blk.frame_passPage (s : Blk) (k : Nat) : s.Frame (s.passPage k) passWord := by
  have hS : passWord (PGE_TRK_STATUS 0) := .inl rfl
  unfold Blk.passPage
  split
  · exact .refl s _
  · next x hx =>
    extract_lets q t u
    have hF : s.Frame t passWord := (Blk.Frame.refl s passWord).putPage hS
    exact Blk.Frame.ite ((((hF.setF (x := PGE_TRK_STATUS_STATE 0) hS).wn (.inr (.inl rfl))).setVal2 (.inr (.inr (.inl rfl))) (.inr (.inr (.inr rfl)))).raiseT)
      hF

theorem Blk.evq_passPage_prefix (s : Blk) (k : Nat) : s.evq <+: (s.passPage k).evq := by
  unfold Blk.passPage
  split
  · exact List.prefix_rfl
  · next x hx =>
    extract_lets q t u
    have ht : t.evq = s.evq := by
      simp only [t, Blk.putPage, Blk.putTrk, Blk.setF_evq]
      rfl
    clear_value t
    have hu : u.evq = s.evq := by
      simp only [u]
      rw [Blk.setVal_eq, Blk.wn_evq, Blk.setF_evq]
      exact ht
    clear_value u
    split
    · exact hu ▸ List.prefix_append _ _
    · rw [ht]

/-- The registers, the state and the event of a pass that arms, before its page. -/
def Blk.passShown (s : Blk) : Blk :=
  let k := s.shtPass
  let rev := s.passDirRev
  let s := s.setSval LCK_COMPARE 3 72 s.passC0
  let noRev := rev && (List.range 32).any fun h => s.headOn h && !s.alignedRev h
  let s := if noRev then s.setF SHT_STATUS_NO_REV_DLY 1 else s
  let s := s.setF SHT_STATUS_STATE 3
  let s := { s with sht := { s.sht with i := 0, fired := 0, cols := 0, hiM := s.passM, below := false, firstFire := s.fireNum + 1 } }
  let s := { s with cmp := { s.cmp with gathered := (List.range 8).map fun j => (j, s.fireNum), store := [] } }
  s.raiseL 0x601 0 (b2n rev * 2 ^ 23 + k % 65536) (s.rn SHT_ROW_OFS) (s.lineIndex 0)

theorem Blk.passArm_eq (s : Blk) : s.passArm = s.passShown.passPage s.shtPass := rfl

theorem Blk.passShown_spec (s : Blk) :
    s.passShown.shtState = 3 ∧ s.passShown.val LCK_COMPARE 3 = wrapTo 72 s.passC0 ∧
      s.Raised s.passShown 0x601 0 ((b2n s.passDirRev * 2 ^ 23 + s.shtPass % 65536) % 2 ^ 24) (s.rn SHT_ROW_OFS) ∧ s.Calm s.passShown := by
  unfold Blk.passShown
  extract_lets k rev s1 noRev s2 s3 e s4 c s5
  have hF1 : s.Frame s1 fun a => a = SHT_STATUS ∨ LCK_COMPARE ≤ a ∧ a < LCK_COMPARE + 3 :=
    (Blk.Frame.refl s _).setSval fun i hi => .inr ⟨by omega, by omega⟩
  have hF2 : s.Frame s2 fun a => a = SHT_STATUS ∨ LCK_COMPARE ≤ a ∧ a < LCK_COMPARE + 3 :=
    Blk.Frame.ite (hF1.setF (x := SHT_STATUS_NO_REV_DLY) (.inl rfl)) hF1
  have hF3 : s.Frame s3 fun a => a = SHT_STATUS ∨ LCK_COMPARE ≤ a ∧ a < LCK_COMPARE + 3 := hF2.setF (x := SHT_STATUS_STATE) (.inl rfl)
  have hstate : s3.f SHT_STATUS_STATE = 3 := Blk.f_setF_same _ _ _ (by decide) (by decide)
  have hcmp : s3.val LCK_COMPARE 3 = wrapTo 72 s.passC0 := by
    have h1 : s1.val LCK_COMPARE 3 = wrapTo 72 s.passC0 := (Blk.val_setVal_same _ _ _ _).trans (Nat.mod_eq_of_lt (wrapTo_lt _ _))
    have h2 : s2.val LCK_COMPARE 3 = s1.val LCK_COMPARE 3 := by
      simp only [s2]
      split
      · exact Blk.val_setF_ne _ _ _ _ _ (.inr (by decide))
      · rfl
    exact (Blk.val_setF_ne _ _ _ _ _ (.inr (by decide))).trans (h2.trans h1)
  have hev : s3.evq = s.evq := by
    have h1 : s1.evq = s.evq := by rw [show s1 = _ from Blk.setSval_eq _ _ _ _ _]
    have h2 : s2.evq = s.evq := by
      simp only [s2]
      split
      · exact (Blk.setF_evq _ _ _).trans h1
      · exact h1
    exact (Blk.setF_evq s2 SHT_STATUS_STATE 3).trans h2
  clear_value s3
  have hrow : s5.rn SHT_ROW_OFS = s.rn SHT_ROW_OFS := hF3.1.rn (by decide) (by decide)
  have hreg : ∀ a, (s5.raiseL 0x601 0 (b2n rev * 2 ^ 23 + k % 65536) (s5.rn SHT_ROW_OFS) (s5.lineIndex 0)).reg a = s3.reg a := fun a => rfl
  have hF5 : s.Frame s5 fun a => a = SHT_STATUS ∨ LCK_COMPARE ≤ a ∧ a < LCK_COMPARE + 3 := hF3.put
  refine ⟨(Blk.f_of_reg (hreg _)).trans hstate, (Blk.val_of_reg fun i _ => hreg _).trans hcmp, ?_, hF5.2⟩
  rw [hrow]
  exact ⟨_, _, by rw [← hev]; rfl, List.mem_singleton.2 rfl, rfl, rfl, rfl, Nat.mod_eq_of_lt (s.rn_lt _)⟩

theorem passWord_ne {a : Nat} (h : a < 0x040000 ∨ 0x050000 ≤ a) : ¬passWord a := by
  simp only [passWord, PGE_TRK_STATUS, PGE_TRK_PAGE_TAG, PGE_TRK_PAGE_FIRST]
  omega

theorem Blk.passArm_spec (s : Blk) :
    s.passArm.shtState = 3 ∧ s.passArm.val LCK_COMPARE 3 = wrapTo 72 s.passC0 ∧
      s.Raised s.passArm 0x601 0 ((b2n s.passDirRev * 2 ^ 23 + s.shtPass % 65536) % 2 ^ 24) (s.rn SHT_ROW_OFS) ∧ s.Calm s.passArm := by
  obtain ⟨hstate, hcmp, hraised, hcalm⟩ := s.passShown_spec
  have hF := s.passShown.frame_passPage s.shtPass
  rw [Blk.passArm_eq]
  refine ⟨(hF.1.f (by decide) (passWord_ne (.inr (by decide)))).trans hstate, ?_, hraised.of_right (Blk.evq_passPage_prefix _ _), hcalm.trans hF.2⟩
  refine (Blk.val_of_reg fun i hi => hF.1 _ (cntWord_low ?_) (passWord_ne (.inl ?_))).trans hcmp
  · simp only [LCK_COMPARE]; omega
  · simp only [LCK_COMPARE]; omega

/-- Arming with the feed complete. -/
theorem passArmCmd_arms (t : Nat) (hs : s.shuttle = true) (hr : s.running = true) (hh : s.lckHold = false) (hb : s.sht.below = true)
    (ht : t ≤ s.now) (hd : (s.masterRev == s.passDirRev) = true) (ha : s.armM ≤ s.passM) (hw : s.shtState = 2)
    (hf : s.fb SHT_STATUS_FEED_DONE = true) : passArmCmd t s = s.passArm := by
  have ha' : ¬s.passM < s.armM := by omega
  simp only [passArmCmd, Blk.advance_of_le s ht, Blk.passCheck_of_waiting hw, hs, hr, hh, hb, hd, hw, hf, ha', decide_false, Bool.not_true,
    Bool.or_self, Bool.false_eq_true, if_false, if_true]

theorem Blk.shtPass_lt (s : Blk) : s.shtPass % 65536 < 2 ^ 24 := by omega

/-- An idle sweep begins. -/
def Blk.swept (s : Blk) : Blk := { s with sht := { s.sht with below := false } }

theorem passArmCmd_sweeps (t : Nat) (hs : s.shuttle = true) (hr : s.running = true) (hh : s.lckHold = false) (hb : s.sht.below = true)
    (ht : t ≤ s.now) (hd : (s.masterRev == s.passDirRev) = true) (ha : s.armM ≤ s.passM) (hw : s.shtState = 2)
    (hf : s.fb SHT_STATUS_FEED_DONE = false) :
    ∃ d, passArmCmd t s = ((s.swept.setF SHT_STATUS_FEED_LATE 1).incSat SHT_IDLE_SWEEPS).raise 0x603 0
      (((s.swept.setF SHT_STATUS_FEED_LATE 1).incSat SHT_IDLE_SWEEPS).shtPass % 65536) d := by
  have hu : (s.advance t).passCheck = s := by rw [Blk.advance_of_le s ht, Blk.passCheck_of_waiting hw]
  have ha' : ¬s.passM < s.armM := by omega
  unfold passArmCmd
  rw [hu]
  extract_lets u fwd x y w
  rw [if_neg (by simp [u, fwd, hs, hr, hh, hb, hd, ha']), if_pos hw, if_neg (by rw [hf]; exact Bool.false_ne_true)]
  exact ⟨satU24 (w.sht.path / 256), rfl⟩

theorem Blk.frame_shown_idle {v : Blk} (hF : s.Frame v fun a => a = SHT_STATUS ∨ a = SHT_IDLE_SWEEPS) :
    s.Frame ((v.setF SHT_STATUS_FEED_LATE 1).incSat SHT_IDLE_SWEEPS) fun a => a = SHT_STATUS ∨ a = SHT_IDLE_SWEEPS :=
  (hF.setF (x := SHT_STATUS_FEED_LATE) (.inl rfl)).incSat (.inr rfl)

theorem Blk.shown_idle {v : Blk} (hv : ∀ a, v.reg a = s.reg a) (hw : s.shtState = 2) :
    ((v.setF SHT_STATUS_FEED_LATE 1).incSat SHT_IDLE_SWEEPS).f SHT_STATUS_STATE = 2 ∧
      ((v.setF SHT_STATUS_FEED_LATE 1).incSat SHT_IDLE_SWEEPS).fb SHT_STATUS_FEED_LATE = true ∧
      ((v.setF SHT_STATUS_FEED_LATE 1).incSat SHT_IDLE_SWEEPS).rn SHT_IDLE_SWEEPS = min (s.rn SHT_IDLE_SWEEPS + 1) u24max := by
  refine ⟨?_, ?_, ?_⟩
  · rw [Blk.f_incSat_ne _ (by decide), Blk.f_setF_ne _ _ _ _ (by decide) (by decide) (by decide) (by decide), Blk.f_of_reg (hv _)]
    exact hw
  · rw [Blk.fb, Blk.f_incSat_ne _ (by decide), Blk.f_setF_same _ _ _ (by decide) (by decide)]
    rfl
  · rw [Blk.rn_incSat_same, Blk.rn_of_reg (Blk.reg_setF_ne _ _ _ (by decide)), Blk.rn_of_reg (hv _)]

theorem Blk.evq_shown_idle (v : Blk) : ((v.setF SHT_STATUS_FEED_LATE 1).incSat SHT_IDLE_SWEEPS).evq = v.evq :=
  (Blk.wn_evq _ _ _).trans (Blk.setF_evq _ _ _)

theorem Blk.idle_raised {w : Blk} {d : Nat} (hF : s.Frame w fun a => a = SHT_STATUS ∨ a = SHT_IDLE_SWEEPS) (hq : w.evq = s.evq)
    (hstate : w.f SHT_STATUS_STATE = 2) (hlate : w.fb SHT_STATUS_FEED_LATE = true)
    (hidle : w.rn SHT_IDLE_SWEEPS = min (s.rn SHT_IDLE_SWEEPS + 1) u24max) :
    (w.raise 0x603 0 (w.shtPass % 65536) d).shtState = 2 ∧ (w.raise 0x603 0 (w.shtPass % 65536) d).fb SHT_STATUS_FEED_LATE = true ∧
      (w.raise 0x603 0 (w.shtPass % 65536) d).rn SHT_IDLE_SWEEPS = min (s.rn SHT_IDLE_SWEEPS + 1) u24max ∧
      (∃ d', s.Raised (w.raise 0x603 0 (w.shtPass % 65536) d) 0x603 0 (s.shtPass % 65536) d') ∧
      s.Frame (w.raise 0x603 0 (w.shtPass % 65536) d) fun a => a = SHT_STATUS ∨ a = SHT_IDLE_SWEEPS := by
  have hpass : w.shtPass = s.shtPass := hF.1.rn (by decide) (by decide)
  rw [hpass]
  have hreg : ∀ a, (w.raise 0x603 0 (s.shtPass % 65536) d).reg a = w.reg a := fun _ => rfl
  exact ⟨(Blk.f_of_reg (hreg _)).trans hstate, (Blk.fb_of_reg (hreg _)).trans hlate, (Blk.rn_of_reg (hreg _)).trans hidle,
    Blk.exists_raised hq _ (by decide) s.shtPass_lt, hF.raise⟩

theorem passArmCmd_idle (t : Nat) (hs : s.shuttle = true) (hr : s.running = true) (hh : s.lckHold = false) (hb : s.sht.below = true)
    (ht : t ≤ s.now) (hd : (s.masterRev == s.passDirRev) = true) (ha : s.armM ≤ s.passM) (hw : s.shtState = 2)
    (hf : s.fb SHT_STATUS_FEED_DONE = false) :
    (passArmCmd t s).shtState = 2 ∧ (passArmCmd t s).fb SHT_STATUS_FEED_LATE = true ∧
      (passArmCmd t s).rn SHT_IDLE_SWEEPS = min (s.rn SHT_IDLE_SWEEPS + 1) u24max ∧
      (∃ d, s.Raised (passArmCmd t s) 0x603 0 (s.shtPass % 65536) d) ∧
      s.Frame (passArmCmd t s) fun a => a = SHT_STATUS ∨ a = SHT_IDLE_SWEEPS := by
  obtain ⟨d, heq⟩ := passArmCmd_sweeps t hs hr hh hb ht hd ha hw hf
  have hF := Blk.frame_shown_idle (s := s) (v := s.swept) (Blk.Frame.put (.refl s _))
  obtain ⟨hstate, hlate, hidle⟩ := Blk.shown_idle (v := s.swept) (fun _ => rfl) hw
  have hq : ((s.swept.setF SHT_STATUS_FEED_LATE 1).incSat SHT_IDLE_SWEEPS).evq = s.evq := s.swept.evq_shown_idle
  rw [heq]
  exact Blk.idle_raised hF hq hstate hlate hidle

theorem feedComplete_spec (hf : s.sht.feeding = true) (hp : atLeast1 (s.rn SHT_FEED_SPAN) * 256 ≤ s.sht.path)
    (hx : s.axPos s.feedAxis = s.sht.feedFrom + s.sht.feedSteps) (ha : s.axState s.feedAxis ≠ 5) :
    (feedComplete s).fb SHT_STATUS_FEED_DONE = true ∧ (feedComplete s).sht.feeding = false ∧ s.Frame (feedComplete s) (· = SHT_STATUS) := by
  have heq : feedComplete s = { s.setF SHT_STATUS_FEED_DONE 1 with sht := { s.sht with feeding := false } } := by
    rw [feedComplete, if_pos (by simp [hf, hp, hx, ha])]
  rw [heq, Blk.fb_put]
  exact ⟨Blk.fb_setF_same _ _ _ (by decide) (by decide), rfl, ((Blk.Frame.refl s (· = SHT_STATUS)).setF (x := SHT_STATUS_FEED_DONE) rfl).put⟩

/-- Settles O9: a lemma for each clause. -/
theorem shuttlePasses : Obligations.ShuttlePasses := by
  unfold Obligations.ShuttlePasses
  intro s t ha hs
  refine ⟨fun hr hh hb ht hd hm hw => ⟨fun hf => ?_, fun hf => ?_⟩, fun hf hp hx hax => ?_⟩
  · exact .of_on (f := passArmCmd t) rfl ha (by rw [passArmCmd_arms t hs hr hh hb ht hd hm hw hf]; exact s.blk.passArm_spec)
  · exact .of_on (f := passArmCmd t) rfl ha (passArmCmd_idle t hs hr hh hb ht hd hm hw hf)
  · exact .of_on (f := feedComplete) rfl ha (feedComplete_spec hf hp hx hax)

end Sys2Proof.Machine
end

section
/-!
PROOFS. What a change of role and the release of the claim leave alone (R286, R288, R301).
-/

namespace Sys2Proof.Machine

variable {r s t : Blk} {p : Nat → Prop}

/-- The words in which a unit's role, its health and its pairing messages show. -/
def roleWord (a : Nat) : Prop := a = TWN_STATUS ∨ a = TWN_HEALTH ∨ pairWord a

theorem roleWord_pair {a : Nat} (h : pairWord a) : roleWord a := .inr (.inr h)

theorem pairWord_ne {a : Nat} (h : a < 0x110140 ∨ 0x110144 ≤ a) : ¬pairWord a := by
  simp only [pairWord, WAL_LINK_STATUS, WAL_CREDIT_STALLS]
  omega

theorem roleWord_ne {a : Nat} (h0 : a ≠ TWN_STATUS) (h1 : a ≠ TWN_HEALTH) (h : a < 0x110140 ∨ 0x110144 ≤ a) : ¬roleWord a := by
  rintro (g | g | g)
  · exact h0 g
  · exact h1 g
  · exact pairWord_ne h g

/-- What changes of role take `r` to, in the words of `p`: everything but the words, the events, the lines, the ports, the links and the pairing's own
state is as it was. -/
structure Blk.Roled (p : Nat → Prop) (r s : Blk) : Prop where
  rest : ∃ regs evq out wires ports twn lanes links,
    s = { r with regs := regs, evq := evq, out := out, wires := wires, ports := ports, twn := twn, lanes := lanes, links := links }
  regs : r.RegsBut s p
  events : r.evq <+: s.evq

namespace Blk.Roled

theorem refl (r : Blk) : r.Roled p r := ⟨⟨_, _, _, _, _, _, _, _, rfl⟩, .refl r _, List.prefix_rfl⟩

theorem trans (h : r.Roled p s) (g : s.Roled p t) : r.Roled p t := by
  obtain ⟨⟨_, _, _, _, _, _, _, _, e⟩, hr, hq⟩ := h
  obtain ⟨⟨_, _, _, _, _, _, _, _, e'⟩, hr', hq'⟩ := g
  exact ⟨⟨_, _, _, _, _, _, _, _, by rw [e', e]⟩, hr.trans hr', hq.trans hq'⟩

theorem mono {q : Nat → Prop} (h : r.Roled p s) (hq : ∀ a, p a → q a) : r.Roled q s := ⟨h.rest, h.regs.mono hq, h.events⟩

theorem frame (h : r.Roled p s) : r.Frame s p := by
  obtain ⟨⟨_, _, _, _, _, _, _, _, e⟩, hr, -⟩ := h
  refine ⟨hr, ?_⟩
  rw [e]
  exact ⟨fun _ => rfl, rfl, rfl⟩

theorem setF (h : r.Roled p s) {x : Fld} {v : Nat} (hx : p x.addr) : r.Roled p (s.setF x v) :=
  h.trans ⟨⟨_, s.evq, s.out, s.wires, s.ports, s.twn, s.lanes, s.links, s.setF_eq x v⟩, (Blk.RegsBut.refl s _).setF hx, by rw [Blk.setF_evq]⟩

theorem ite {c : Prop} [Decidable c] (hs : r.Roled p s) (ht : r.Roled p t) : r.Roled p (if c then s else t) := by
  split
  · exact hs
  · exact ht

theorem foldl {α : Type} {f : Blk → α → Blk} (hf : ∀ u x, r.Roled p u → r.Roled p (f u x)) (l : List α) (h : r.Roled p s) :
    r.Roled p (l.foldl f s) := List.foldlRecOn l f h fun u g x _ => hf u x g

theorem put (h : r.Roled p s) {out wires ports twn lanes links} :
    r.Roled p { s with out := out, wires := wires, ports := ports, twn := twn, lanes := lanes, links := links } :=
  h.trans ⟨⟨s.regs, s.evq, out, wires, ports, twn, lanes, links, rfl⟩, .refl s _, List.prefix_rfl⟩

theorem raise (h : r.Roled p s) {c i d0 d1 : Nat} : r.Roled p (s.raise c i d0 d1) :=
  h.trans ⟨⟨s.regs, _, s.out, s.wires, s.ports, s.twn, s.lanes, s.links, rfl⟩, .refl s _, s.evq_raise_prefix c i d0 d1⟩

theorem lined (h : r.Roled p s) (g : s.Lined t) : r.Roled p t := by
  obtain ⟨lanes, wires, e⟩ := g
  rw [e]
  exact h.put

theorem incSat (h : r.Roled p s) {a : Nat} (ha : p a) : r.Roled p (s.incSat a) :=
  h.trans ⟨⟨_, s.evq, s.out, s.wires, s.ports, s.twn, s.lanes, s.links, s.wn_eq a _⟩, (Blk.RegsBut.refl s _).incSat ha, List.prefix_rfl⟩

theorem count (h : r.Roled p s) {src n : Nat} : r.Roled p (s.count src n) := by
  obtain ⟨regs, evq, e⟩ := s.count_eq src n
  exact h.trans ⟨⟨regs, evq, s.out, s.wires, s.ports, s.twn, s.lanes, s.links, e⟩, (Blk.RegsBut.refl s _).count, s.evq_count_prefix src n⟩

/-! #### Messages to the partner -/

theorem setLink (h : r.Roled p s) {l : Nat} {x : Link} : r.Roled p (s.setLink l x) := h.put

theorem waleOut (h : r.Roled p s) {l seq : Nat} {ws : List Nat} : r.Roled p (s.waleOut l seq ws) := by
  obtain ⟨lanes, wires, links, turn, lane, e, -⟩ := s.waleOut_spec l seq ws
  rw [e]
  exact h.put

theorem drainLink {l : Nat} (hp : p (WAL_CREDIT_STALLS l)) (n : Nat) (h : r.Roled p s) : r.Roled p (drainLink l n s) := by
  induction n generalizing s with
  | zero => exact h
  | succ n ih =>
    unfold Machine.drainLink
    extract_lets x seq
    split
    · exact h.setLink
    · next m _ =>
      have hst : r.Roled p (s.setLink l { x with stalled := true }) := h.setLink
      have hgo : r.Roled p (s.setLink l { x with queue := x.queue.erase m, sent := seq, stalled := false }) := h.setLink
      exact h.ite (ite (h.ite (hst.incSat hp).count) (ih (hgo.waleOut.ite hgo.waleOut.setLink)))

theorem sendAll {l : Nat} (hl : p (WAL_LINK_STATUS l)) (hp : p (WAL_CREDIT_STALLS l)) (h : r.Roled p s) {ms : List Queued} :
    r.Roled p (s.sendAll l ms) := by
  have hq : r.Roled p (s.setLink l { s.link l with queue := (s.link l).queue ++ ms }) := h.setLink
  exact h.ite ((hq.drainLink hp 200).setF hl)

theorem pairAll (h : r.Roled p s) (hp : ∀ a, pairWord a → p a) {ms : List (List Nat)} : r.Roled p (s.pairAll ms) :=
  h.ite (h.sendAll (hp _ (.inl rfl)) (hp _ (.inr rfl)))

theorem pairOut (h : r.Roled p s) (hp : ∀ a, pairWord a → p a) {ws : List Nat} : r.Roled p (s.pairOut ws) := h.pairAll hp

theorem sendHb (h : r.Roled p s) (hp : ∀ a, pairWord a → p a) : r.Roled p s.sendHb := h.ite (h.pairOut hp).put

/-! #### Roles -/

theorem abortLine (h : r.Roled p s) {n : Nat} : r.Roled p (s.abortLine n) := by
  unfold Blk.abortLine
  extract_lets x
  split
  · have hc : (s.setPort n { x with frame := none }).Lined ((s.setPort n { x with frame := none }).txCut n s.nowPs) := (Blk.Lined.refl _).txTo.setTx
    exact ite (((h.put (ports := _)).lined hc).put) h
  · exact h

theorem release (h : r.Roled p s) (hp : ∀ a, roleWord a → p a) : r.Roled p s.release := by
  unfold Blk.release
  extract_lets u v
  have hu : r.Roled p u := foldl (fun _ _ g => g.abortLine) _ h
  have hv : r.Roled p v := (hu.setF (x := TWN_HEALTH_CLAIM_HELD) (hp _ (.inr (.inl rfl)))).setF (x := TWN_STATUS_DRIVING) (hp _ (.inl rfl))
  exact hv.sendHb fun a g => hp a (roleWord_pair g)

theorem setRole (h : r.Roled p s) {k : Nat} (hp : ∀ a, roleWord a → p a) : r.Roled p (s.setRole k) := by
  have hS := hp _ (.inl rfl)
  have hH := hp _ (.inr (.inl rfl))
  have h0 := h.setF (x := TWN_STATUS_STATE) (v := k) hS
  exact (((h0.setF (x := TWN_HEALTH_SYNCED) hH).ite (h0.ite (h0.setF (x := TWN_HEALTH_SYNCED) hH))).setF (x := TWN_HEALTH_LBIST_ACTIVE) hH).setF
    (x := TWN_STATUS_RESYNC_STEP) hS

theorem faultBit (h : r.Roled p s) {x : Fld} (hp : ∀ a, roleWord a → p a) (hx : x.addr = TWN_HEALTH) : r.Roled p (s.faultBit x) := by
  have h1 : r.Roled p (s.setF x 1) := h.setF (hx ▸ hp _ (.inr (.inl rfl)))
  have hq : ∀ a, pairWord a → p a := fun a g => hp a (roleWord_pair g)
  unfold Blk.faultBit
  extract_lets u v
  refine h.ite ?_
  split
  · exact (((h1.put (twn := _)).setRole hp).release hp).raise
  · exact (h1.setRole hp).sendHb hq
  · exact h1.sendHb hq

end Blk.Roled

/-! ### What a change of role shows -/

theorem Blk.reg_sendHb (s : Blk) {a : Nat} (hc : cntWord a = false) (ha : ¬pairWord a) : s.sendHb.reg a = s.reg a :=
  ((Blk.Roled.refl s).sendHb (p := pairWord) fun _ => id).regs a hc ha

theorem Blk.reg_abortLines (s : Blk) {a : Nat} (hc : cntWord a = false) : ((List.range 32).foldl Blk.abortLine s).reg a = s.reg a :=
  (Blk.Roled.foldl (p := fun _ => False) (fun _ _ g => g.abortLine) _ (.refl s)).regs a hc id

/-- The registers of a release, before the heartbeat that says so. -/
def Blk.letGo (s : Blk) : Blk := (((List.range 32).foldl Blk.abortLine s).setF TWN_HEALTH_CLAIM_HELD 0).setF TWN_STATUS_DRIVING 0

theorem Blk.release_eq (s : Blk) : s.release = s.letGo.sendHb := rfl

theorem Blk.release_spec (s : Blk) : s.release.fb TWN_HEALTH_CLAIM_HELD = false ∧ s.release.fb TWN_STATUS_DRIVING = false := by
  rw [Blk.release_eq, Blk.fb_of_reg (s.letGo.reg_sendHb (by decide) (pairWord_ne (by decide))),
    Blk.fb_of_reg (s.letGo.reg_sendHb (by decide) (pairWord_ne (by decide)))]
  unfold Blk.letGo
  rw [Blk.fb_setF_ne _ _ _ _ (by decide) (by decide) (by decide) (by decide), Blk.fb_setF_same _ _ _ (by decide) (by decide),
    Blk.fb_setF_same _ _ _ (by decide) (by decide)]
  exact ⟨rfl, rfl⟩

theorem Blk.f_release (s : Blk) (x : Fld) (hl : x.lo ≤ x.hi) (hh : x.hi < 24) (hc : cntWord x.addr = false) (hp : ¬pairWord x.addr)
    (h0 : x.addr ≠ TWN_HEALTH ∨ x.hi < 22 ∨ 22 < x.lo) (h1 : x.addr ≠ TWN_STATUS ∨ x.hi < 12 ∨ 12 < x.lo) : s.release.f x = s.f x := by
  rw [Blk.release_eq, Blk.f_of_reg (s.letGo.reg_sendHb hc hp)]
  unfold Blk.letGo
  rw [Blk.f_setF_ne _ _ _ _ (by decide) hl hh h1, Blk.f_setF_ne _ _ _ _ (by decide) hl hh h0, Blk.f_of_reg (s.reg_abortLines hc)]

theorem Blk.twnState_setRole (s : Blk) {k : Nat} (hk : k < 8) : (s.setRole k).twnState = k := by
  unfold Blk.setRole Blk.twnState
  extract_lets u v
  have hu : u.f TWN_STATUS_STATE = k := (Blk.f_setF_same _ _ _ (by decide) (by decide)).trans (Nat.mod_eq_of_lt hk)
  have hv : v.f TWN_STATUS_STATE = u.f TWN_STATUS_STATE := by
    simp only [v]
    split
    · exact Blk.f_setF_ne _ _ _ _ (by decide) (by decide) (by decide) (by decide)
    · split
      · rfl
      · exact Blk.f_setF_ne _ _ _ _ (by decide) (by decide) (by decide) (by decide)
  rw [Blk.f_setF_ne _ _ _ _ (by decide) (by decide) (by decide) (by decide), Blk.f_setF_ne _ _ _ _ (by decide) (by decide) (by decide) (by decide)]
  exact hv.trans hu

/-- The fault bits are below the bits of a role. -/
theorem Blk.f_setRole_low (s : Blk) (k : Nat) (x : Fld) (ha : x.addr = TWN_HEALTH) (hl : x.lo ≤ x.hi) (hh : x.hi < 7) : (s.setRole k).f x = s.f x := by
  unfold Blk.setRole
  extract_lets u v
  have hu : u.f x = s.f x := Blk.f_setF_ne _ _ _ _ (by decide) hl (by omega) (.inl (by rw [ha]; decide))
  have hv : v.f x = u.f x := by
    simp only [v]
    split
    · exact Blk.f_setF_ne _ _ _ _ (by decide) hl (by omega) (.inr (.inl (by simp; omega)))
    · split
      · rfl
      · exact Blk.f_setF_ne _ _ _ _ (by decide) hl (by omega) (.inr (.inl (by simp; omega)))
  rw [Blk.f_setF_ne _ _ _ _ (by decide) hl (by omega) (.inl (by rw [ha]; decide)),
    Blk.f_setF_ne _ _ _ _ (by decide) hl (by omega) (.inr (.inl (by simp; omega)))]
  exact hv.trans hu

/-- What a fault bit that sets in ACTIVE comes to. -/
def Blk.faulted (s : Blk) (x : Fld) : Blk :=
  let s := s.setF x 1
  ({ s with twn := { s.twn with refused := true } } : Blk).setRole 5

theorem Blk.faultBit_active (x : Fld) (h : s.fb x = false) (ha : x.addr = TWN_HEALTH) (h2 : s.twnState = 2) :
    ∃ d0 d1, s.faultBit x = (s.faulted x).release.raise 0x808 0 d0 d1 := by
  have hs : (s.setF x 1).twnState = 2 := (Blk.f_of_reg (Blk.reg_setF_ne _ _ _ (by rw [ha]; decide))).trans h2
  unfold Blk.faultBit
  extract_lets u v
  rw [if_neg (by rw [h]; decide)]
  rw [show u.twnState = 2 from hs]
  exact ⟨_, _, rfl⟩

theorem Blk.f_faulted (s : Blk) (x : Fld) (ha : x.addr = TWN_HEALTH) (hl : x.lo = x.hi) (hh : x.hi < 7) : (s.faulted x).fb x = true := by
  unfold Blk.faulted
  extract_lets u v
  rw [Blk.fb, Blk.f_setRole_low _ _ _ ha hl.le hh, ← Blk.fb, Blk.fb_put]
  rw [show u = s.setF x 1 from rfl, Blk.fb_setF_same _ _ _ hl.le (by omega), hl]
  simp

theorem Blk.released_raised (s : Blk) (x : Fld) (hx : s.fb x = true) (ha : x.addr = TWN_HEALTH) (hl : x.lo = x.hi) (hh : x.hi < 7) (c d0 d1 : Nat) :
    (s.release.raise c 0 d0 d1).twnState = s.twnState ∧ (s.release.raise c 0 d0 d1).fb x = true ∧
      (s.release.raise c 0 d0 d1).fb TWN_HEALTH_CLAIM_HELD = false ∧ (s.release.raise c 0 d0 d1).fb TWN_STATUS_DRIVING = false := by
  have hreg : ∀ a, (s.release.raise c 0 d0 d1).reg a = s.release.reg a := fun _ =>
    Blk.reg_of_regs (Blk.raise_regs _ _ _ _ _) _
  obtain ⟨hheld, hdrv⟩ := s.release_spec
  refine ⟨(Blk.f_of_reg (hreg _)).trans (s.f_release _ (by decide) (by decide) (by decide) (pairWord_ne (by decide)) (by decide) (by decide)),
    ?_, (Blk.fb_of_reg (hreg _)).trans hheld, (Blk.fb_of_reg (hreg _)).trans hdrv⟩
  rw [Blk.fb_of_reg (hreg _), Blk.fb, s.f_release x hl.le (by omega) (by rw [ha]; decide) (pairWord_ne (by rw [ha]; decide)) (.inr (.inl (by omega)))
    (.inl (by rw [ha]; decide))]
  exact hx

theorem Blk.faultBit_active_spec (x : Fld) (h : s.fb x = false) (ha : x.addr = TWN_HEALTH) (hl : x.lo = x.hi) (hh : x.hi < 7)
    (h2 : s.twnState = 2) :
    (s.faultBit x).twnState = 5 ∧ (s.faultBit x).fb x = true ∧ (s.faultBit x).fb TWN_HEALTH_CLAIM_HELD = false ∧
      (s.faultBit x).fb TWN_STATUS_DRIVING = false := by
  obtain ⟨d0, d1, heq⟩ := Blk.faultBit_active x h ha h2
  obtain ⟨hst, hrest⟩ := (s.faulted x).released_raised x (s.f_faulted x ha hl hh) ha hl hh 0x808 d0 d1
  rw [heq]
  exact ⟨hst.trans (Blk.twnState_setRole _ (by decide)), hrest⟩

/-- A fault bit reads 1 once it has been set, whatever the role. -/
theorem Blk.fb_faultBit (s : Blk) (x : Fld) (ha : x.addr = TWN_HEALTH) (hl : x.lo = x.hi) (hh : x.hi < 7) : (s.faultBit x).fb x = true := by
  by_cases h : s.fb x = true
  · rw [Blk.faultBit, if_pos h]
    exact h
  have h' : s.fb x = false := by simpa using h
  by_cases h2 : s.twnState = 2
  · exact (Blk.faultBit_active_spec x h' ha hl hh h2).2.1
  have hc : cntWord x.addr = false := by rw [ha]; decide
  have hp : ¬pairWord x.addr := pairWord_ne (by rw [ha]; decide)
  have hset : (s.setF x 1).fb x = true := by
    rw [Blk.fb_setF_same _ _ _ hl.le (by omega), hl]
    simp
  have hs : (s.setF x 1).twnState = s.twnState := Blk.f_of_reg (Blk.reg_setF_ne _ _ _ (by rw [ha]; decide))
  unfold Blk.faultBit
  extract_lets u v
  rw [if_neg h]
  split
  · next g => exact absurd (hs.symm.trans g) h2
  · rw [Blk.fb_of_reg (Blk.reg_sendHb _ hc hp), Blk.fb, Blk.f_setRole_low _ _ _ ha hl.le hh]
    exact hset
  · rw [Blk.fb_of_reg (Blk.reg_sendHb _ hc hp)]
    exact hset

end Sys2Proof.Machine
end

section
/-!
PROOFS. Reset, and the loss of a PLL's lock (R46, R427, R504, R505).
-/

namespace Sys2Proof.Machine

variable {r s b : Blk} {p : Nat → Prop}

/-- A command that acts in any state completes with what its operation makes of the block. -/
theorem Completes.of_always {c : Instr} {s : State} {f : Blk → Blk} {p : Blk → Prop} (hc : exec c s = s.always f) (hp : p (f s.blk)) :
    Completes c s p := ⟨{ s with blk := f s.blk }, hc, rfl, hp⟩

theorem Blk.alive_phase (h : s.alive = true) : s.sys.phase = .up := by
  simp only [Blk.alive, Bool.and_eq_true, beq_iff_eq] at h
  exact h.1

/-! ### What a reset leaves (R427, R505) -/

/-- What a reset makes of `s`: reset values and the cause, with the time, the fuses and what has left the part. -/
structure Blk.Restarted (s b : Blk) (ph : Phase) (cause : Nat) : Prop where
  phase : b.sys.phase = ph
  cause : b.rn SYS_RESET_CAUSE = cause
  regs : ∀ a, a ≠ SYS_RESET_CAUSE → b.reg a = resetWord a
  fuse : b.fuse = s.fuse
  out : b.out = s.out
  held : b.held = []
  evq : b.evq = []
  now : b.now = s.now

/-- A part in reset, before the pins' levels and the cause. -/
def Blk.blank (s : Blk) (ph : Phase) : Blk :=
  { Blk.init with now := s.now, freeN := s.freeN, out := s.out, fuse := s.fuse, tim := ⟨0, s.now⟩, sys := { Sys.init with phase := ph } }

theorem Blk.restart_eq (s : Blk) (ph : Phase) (cause : Nat) :
    ∃ encs, s.restart ph cause = ({ s.blank ph with encs := encs } : Blk).wn SYS_RESET_CAUSE cause := by
  have hfold : ∀ l : List (Nat × Enc), ∃ encs, l.foldl (fun b e =>
      b.setEnc e.1 { Enc.init with pinA := e.2.pinA, pinB := e.2.pinB, pinZ := e.2.pinZ }) (s.blank ph) = { s.blank ph with encs := encs } := by
    intro l
    refine List.foldlRecOn (motive := fun t : Blk => ∃ encs, t = { s.blank ph with encs := encs }) l _ ⟨(s.blank ph).encs, rfl⟩ ?_
    rintro u ⟨encs, rfl⟩ e _
    exact ⟨_, rfl⟩
  obtain ⟨encs, h⟩ := hfold s.encs
  refine ⟨encs, ?_⟩
  rw [← h]
  rfl

theorem Blk.restarted_restart (s : Blk) (ph : Phase) {cause : Nat} (hc : cause < 2 ^ 24) : s.Restarted (s.restart ph cause) ph cause := by
  obtain ⟨encs, h⟩ := s.restart_eq ph cause
  rw [h]
  exact ⟨rfl, (Blk.rn_wn_same _ _ _).trans (Nat.mod_eq_of_lt hc), fun a ha => Tab.get_put_ne resetWord _ _ ha, rfl, rfl, rfl, rfl, rfl⟩

/-! ### Ways into reset (R427, R504, R520) -/

theorem Blk.cutShort_of_up (h : s.sys.phase = .up) : s.cutShort = s := by
  rw [Blk.cutShort, if_pos (by rw [h]; decide)]

theorem resetNAssert_of_up (h : s.sys.phase = .up) : resetNAssert s = s.restart .ready 1 := by
  rw [resetNAssert, if_neg (by rw [h]; decide), if_neg (by rw [h]; decide), Blk.cutShort_of_up h]

/-- The part at the end of the 100 µs after a valid write. -/
def Blk.resetLater (s : Blk) (t : Nat) : Blk := { s with now := max s.now (t + 25000) }

theorem softwareReset_of_some {t : Nat} (h : s.sys.resetAt = some t) : softwareReset s = (s.resetLater t).restart .ready 2 := by
  rw [softwareReset, h]
  rfl

theorem lifecycleReset_of_change {ok : Bool} (h : s.sys.phase = .change) :
    lifecycleReset ok s = { (if ok then s.blow else s).restart .ready 8 with
      sys := { ((if ok then s.blow else s).restart .ready 8).sys with lcFrom := s.sys.lcFrom } } := by
  rw [lifecycleReset, if_neg (by rw [h]; decide)]

theorem Blk.restarted_lifecycleReset {ok : Bool} {fu : Fuse} (h : s.sys.phase = .change) (hf : (if ok then s.blow else s).fuse = fu)
    (ho : (if ok then s.blow else s).out = s.out) (hn : (if ok then s.blow else s).now = s.now) :
    ({ s with fuse := fu } : Blk).Restarted (lifecycleReset ok s) .ready 8 := by
  rw [lifecycleReset_of_change h]
  obtain ⟨h0, h1, h2, h3, h4, h5, h6, h7⟩ := (if ok then s.blow else s).restarted_restart .ready (cause := 8) (by decide)
  generalize (if ok then s.blow else s).restart .ready 8 = b at h0 h1 h2 h3 h4 h5 h6 h7
  exact ⟨h0, h1, h2, h3.trans hf, h4.trans ho, h5, h6, h7.trans hn⟩

theorem Blk.restarted_blown {t : Blk} (h : s.sys.phase = .change) (hb : s.blow = t) (ho : t.out = s.out) (hn : t.now = s.now) :
    ({ s with fuse := t.fuse } : Blk).Restarted (lifecycleReset true s) .ready 8 := by
  subst hb
  exact Blk.restarted_lifecycleReset (ok := true) h rfl ho hn

theorem Blk.blow_retire (h : s.f SEC_LC_TARGET_STATE = 4) : s.blow = { s with fuse := { s.fuse with retire := true } } := if_pos h

theorem Blk.blow_step (h : s.f SEC_LC_TARGET_STATE ≠ 4) (hk : s.fuse.k ≠ 0) : s.blow = { s with fuse := { s.fuse with k := s.fuse.k + 1 } } := by
  rw [Blk.blow, if_neg h, if_neg hk]

theorem Blk.blow_first (h : s.f SEC_LC_TARGET_STATE ≠ 4) (hk : s.fuse.k = 0) :
    s.blow = ({ s with fuse := { s.fuse with k := 1, secret := (Config.secret s.freeN).toNat } } : Blk).fresh := by
  rw [Blk.blow, if_neg h, if_pos hk]

/-- What is claimed of a reset, of the block it leaves. -/
theorem Blk.Restarted.claim {ph : Phase} {cause : Nat} {fu : Fuse} (h : r.Restarted b ph cause) (hf : r.fuse = fu) (ho : r.out = s.out)
    (hn : s.now ≤ r.now) :
    b.sys.phase = ph ∧ b.rn SYS_RESET_CAUSE = cause ∧ (∀ a, a ≠ SYS_RESET_CAUSE → b.reg a = resetWord a) ∧ b.fuse = fu ∧
      b.out = s.out ∧ b.held = [] ∧ b.evq = [] ∧ s.now ≤ b.now :=
  ⟨h.phase, h.cause, h.regs, h.fuse.trans hf, h.out.trans ho, h.held, h.evq, h.now ▸ hn⟩

/-! ### A write of SYS_RESET -/

theorem bits_key (w : Word) : bits w.toNat 23 8 = w.toNat / 256 := by
  have := w.isLt
  simp only [bits]
  omega

theorem sysReset_valid (w : Word) (hp : s.sys.phase = .up) (ho : w.toNat % 2 = 1) (hk : w.toNat / 256 = 0x5253) (hr : s.sys.resetAt = none) :
    sysReset w s = { s with sys := { s.sys with resetAt := some s.now } } := by
  simp [sysReset, bits_key, hp, ho, hk, hr]

theorem sysReset_wrong_key (w : Word) (hp : s.sys.phase = .up) (ho : w.toNat % 2 = 1) (hk : w.toNat / 256 ≠ 0x5253) :
    sysReset w s = s.setF SYS_ERR_RESET_KEY 1 := by
  simp [sysReset, bits_key, hp, ho, hk]

/-! ### Loss of a PLL's lock (R46) -/

/-- A clock fault raised at a unit that is at work is not followed by anything. -/
theorem Blk.settle_raise_fault {x : Fld} (hx : x.addr = TWN_HEALTH) (hi : s.allIdle = false) (c d0 d1 : Nat) :
    ((s.faultBit x).raise c 0 d0 d1).settle = (s.faultBit x).raise c 0 d0 d1 := by
  have hF : s.Frame ((s.faultBit x).raise c 0 d0 d1) roleWord := (((Blk.Roled.refl s).faultBit (fun _ => id) hx).raise).frame
  refine Blk.settle_of_busy ((hF.1.allIdle fun t ht => roleWord_ne ?_ ?_ (.inl ?_)).trans hi) <;>
    simp only [PGE_TRK_STATUS, TWN_STATUS, TWN_HEALTH] <;> omega

theorem pllLockLoss_eq (hi : s.allIdle = false) : ∃ d0 d1, pllLockLoss s = (s.fresh.faultBit TWN_HEALTH_CLOCK).raise 0x010 0 d0 d1 ∧
    d0 < 2 ^ 24 ∧ d1 < 2 ^ 24 := by
  have hi' : s.fresh.allIdle = false := hi
  refine ⟨_, _, Blk.settle_raise_fault rfl hi' _ _ _, Nat.mod_lt _ (by decide), ?_⟩
  have := (Config.clockDetail s.freeN).isLt
  omega

theorem pllLockLoss_spec (hi : s.allIdle = false) :
    (pllLockLoss s).fb TWN_HEALTH_CLOCK = true ∧ (∃ d0 d1, s.Raised (pllLockLoss s) 0x010 0 d0 d1) ∧
      (s.twnState = 2 → s.fb TWN_HEALTH_CLOCK = false → (pllLockLoss s).twnState = 5 ∧ (pllLockLoss s).fb TWN_HEALTH_CLAIM_HELD = false) := by
  obtain ⟨d0, d1, heq, h0, h1⟩ := pllLockLoss_eq hi
  have hfresh : s.fresh.evq = s.evq ∧ s.fresh.twnState = s.twnState ∧ s.fresh.fb TWN_HEALTH_CLOCK = s.fb TWN_HEALTH_CLOCK := ⟨rfl, rfl, rfl⟩
  obtain ⟨hev, hst, hfb⟩ := hfresh
  rw [heq]
  generalize s.fresh = u at hev hst hfb
  have hR : u.Roled roleWord (u.faultBit TWN_HEALTH_CLOCK) := (Blk.Roled.refl u).faultBit (fun _ => id) rfl
  have hreg : ∀ a, ((u.faultBit TWN_HEALTH_CLOCK).raise 0x010 0 d0 d1).reg a = (u.faultBit TWN_HEALTH_CLOCK).reg a := fun _ =>
    Blk.reg_of_regs (Blk.raise_regs _ _ _ _ _) _
  refine ⟨(Blk.fb_of_reg (hreg _)).trans (u.fb_faultBit _ rfl rfl (by decide)), ⟨d0, d1, ?_⟩, fun h2 hc => ?_⟩
  · exact ((Blk.raised_raise _ _ (by decide) h0 h1).of_left hR.events).of_left (hev ▸ List.prefix_rfl)
  · obtain ⟨h5, -, hheld, -⟩ := u.faultBit_active_spec TWN_HEALTH_CLOCK (hfb.trans hc) rfl rfl (by decide) (hst.trans h2)
    exact ⟨(Blk.f_of_reg (hreg _)).trans h5, (Blk.fb_of_reg (hreg _)).trans hheld⟩

/-- Settles O47: each way into reset restarts the part, with the fuses as they are or as they have been blown. -/
theorem resets : Obligations.Resets := by
  unfold Obligations.Resets
  intro s
  refine ⟨?_, fun h => ?_, fun w hp ho => ⟨fun hk hr => ?_, fun hk => ?_⟩, fun p hs hi => ?_⟩
  · rintro c ph cause fu (⟨hp, rfl, rfl, rfl, rfl⟩ | ⟨hp, rfl, rfl, rfl, rfl⟩ | ⟨hr, rfl, rfl, rfl, rfl⟩ | ⟨hp, rfl, rfl, rfl, rfl⟩ |
      ⟨hp, ht, rfl, rfl, rfl, rfl⟩ | ⟨hp, ht, hk, rfl, rfl, rfl, rfl⟩ | ⟨hp, ht, hk, rfl, rfl, rfl, rfl⟩)
    · refine .of_always (f := resetNAssert) rfl ?_
      rw [resetNAssert_of_up hp]
      exact (s.blk.restarted_restart .ready (by decide)).claim rfl rfl (le_refl _)
    · refine .of_always (f := fun b => b.cutShort.restart .supply 1) rfl ?_
      rw [Blk.cutShort_of_up hp]
      exact (s.blk.restarted_restart .supply (by decide)).claim rfl rfl (le_refl _)
    · obtain ⟨t, ht⟩ := Option.isSome_iff_exists.1 hr
      refine .of_always (f := softwareReset) rfl ?_
      rw [softwareReset_of_some ht]
      exact ((s.blk.resetLater t).restarted_restart .ready (by decide)).claim rfl rfl (le_max_left _ _)
    · exact .of_always (f := lifecycleReset false) rfl
        ((Blk.restarted_lifecycleReset (ok := false) hp rfl rfl rfl).claim rfl rfl (le_refl _))
    · exact .of_always (f := lifecycleReset true) rfl ((Blk.restarted_blown hp (Blk.blow_retire ht) rfl rfl).claim rfl rfl (le_refl _))
    · exact .of_always (f := lifecycleReset true) rfl ((Blk.restarted_blown hp (Blk.blow_step ht hk) rfl rfl).claim rfl rfl (le_refl _))
    · exact .of_always (f := lifecycleReset true) rfl ((Blk.restarted_blown hp (Blk.blow_first ht hk) rfl rfl).claim rfl rfl (le_refl _))
  · exact .of_always (f := supplyRelease) rfl (if_pos h)
  · exact .of_always (f := sysReset w) rfl (sysReset_valid w hp ho hk hr)
  · refine .of_always (f := sysReset w) rfl ?_
    rw [sysReset_wrong_key w hp ho hk]
    exact ⟨Blk.fb_setF_same _ _ _ (by decide) (by decide), rfl, (Blk.OnlyRegs.refl s.blk (· = SYS_ERR)).setF (x := SYS_ERR_RESET_KEY) rfl⟩
  · exact .of_on (f := pllLockLoss) rfl hs (pllLockLoss_spec hi)

end Sys2Proof.Machine
end

section
/-!
PROOFS. Lanes switched off, life-cycle changes, and the skein flash (R322, R440, R444, R445).
-/

namespace Sys2Proof.Machine

variable {r s t : Blk} {p : Nat → Prop}

/-! ### Training frames and lanes switched off (R322) -/

theorem Blk.Lined.tsDone (h : r.Lined s) {n : Nat} : r.Lined (s.tsDone n) := by
  unfold Blk.tsDone
  extract_lets
  split
  · exact h
  · exact h.setTx.ite h.setTx

theorem Blk.Lined.tsSend (h : r.Lined s) {n : Nat} : r.Lined (s.tsSend n) := by
  unfold Blk.tsSend
  extract_lets want s1 x k since
  have h1 : r.Lined s1 := h.tsDone
  split
  · exact h
  · clear_value want
    split
    · exact h1
    · exact ite h1.setTx.putSlot h1.setTx.putLineBits

theorem Blk.Lined.reg (h : r.Lined s) (a : Nat) : s.reg a = r.reg a := by
  obtain ⟨lanes, wires, e⟩ := h
  rw [e, Blk.reg_put]

theorem Blk.Lined.frame (h : r.Lined s) (p : Nat → Prop) : r.Frame s p := by
  obtain ⟨lanes, wires, e⟩ := h
  rw [e]
  exact (Blk.Frame.refl r p).put

/-- The words of a lane and of the eye scan. -/
def laneWord (n a : Nat) : Prop := a = LAN_STATUS n ∨ a = LAN_EYE_STATUS

/-- What steps of a lane take `r` to, in the words of `p`: the words, the lanes, the line and the eye scan are new. -/
structure Blk.Laned (p : Nat → Prop) (r s : Blk) : Prop where
  rest : ∃ regs lanes wires scan, s = { r with regs := regs, lanes := lanes, wires := wires, scan := scan }
  regs : r.RegsBut s p

namespace Blk.Laned

theorem refl (r : Blk) : r.Laned p r := ⟨⟨_, _, _, _, rfl⟩, .refl r _⟩

theorem trans (h : r.Laned p s) (g : s.Laned p t) : r.Laned p t := by
  obtain ⟨⟨_, _, _, _, e⟩, hr⟩ := h
  obtain ⟨⟨_, _, _, _, e'⟩, hr'⟩ := g
  exact ⟨⟨_, _, _, _, by rw [e', e]⟩, hr.trans hr'⟩

theorem mono {q : Nat → Prop} (h : r.Laned p s) (hq : ∀ a, p a → q a) : r.Laned q s := ⟨h.rest, h.regs.mono hq⟩

theorem frame (h : r.Laned p s) : r.Frame s p := by
  obtain ⟨⟨_, _, _, _, e⟩, hr⟩ := h
  refine ⟨hr, ?_⟩
  rw [e]
  exact ⟨fun _ => rfl, rfl, rfl⟩

theorem setF (h : r.Laned p s) {x : Fld} {v : Nat} (hx : p x.addr) : r.Laned p (s.setF x v) :=
  h.trans ⟨⟨_, s.lanes, s.wires, s.scan, s.setF_eq x v⟩, (Blk.RegsBut.refl s _).setF hx⟩

theorem ite {c : Prop} [Decidable c] (hs : r.Laned p s) (ht : r.Laned p t) : r.Laned p (if c then s else t) := by
  split
  · exact hs
  · exact ht

theorem put (h : r.Laned p s) {lanes wires scan} : r.Laned p { s with lanes := lanes, wires := wires, scan := scan } :=
  h.trans ⟨⟨s.regs, lanes, wires, scan, rfl⟩, .refl s _⟩

theorem lined (h : r.Laned p s) (g : s.Lined t) : r.Laned p t := by
  obtain ⟨lanes, wires, e⟩ := g
  rw [e]
  exact h.put

theorem scanAbort (h : r.Laned p s) (hp : p LAN_EYE_STATUS) : r.Laned p s.scanAbort := by
  unfold Blk.scanAbort
  split
  · exact h.ite (h.setF (x := LAN_EYE_STATUS_ABORTED) hp).put
  · exact h

theorem scanLeft (h : r.Laned p s) (hp : p LAN_EYE_STATUS) {n : Nat} : r.Laned p (s.scanLeft n) := by
  unfold Blk.scanLeft
  split
  · exact (h.scanAbort hp).ite h
  · exact h

end Blk.Laned

theorem Blk.reg_scanLeft (s : Blk) (n : Nat) {a : Nat} (ha : a ≠ LAN_EYE_STATUS) (hc : cntWord a = false) : (s.scanLeft n).reg a = s.reg a :=
  ((Blk.Laned.refl s).scanLeft (p := (· = LAN_EYE_STATUS)) rfl).regs a hc ha

/-- The status of a lane that is switched off, before its last frame. -/
def Blk.laneShut (s : Blk) (n : Nat) : Blk :=
  let s := if s.laneUp n then s.setF (LAN_STATUS_DOWN n) 1 else s
  (((s.setF (LAN_STATUS_STATE n) 0).setF (LAN_STATUS_LOCK n) 0).setF (LAN_STATUS_TX_SLEEP n) 0).setF (LAN_STATUS_RX_SLEEP n) 0

theorem Blk.laneOff_eq (s : Blk) (n : Nat) : s.laneOff n = (((s.laneShut n).tsSend n).setLane n
    { Lane.init with tx := { Tx.init with seq := (((s.laneShut n).tsSend n).lane n).tx.seq } }).scanLeft n := rfl

theorem Blk.laned_laneShut (s : Blk) (n : Nat) : s.Laned (laneWord n) (s.laneShut n) := by
  unfold Blk.laneShut
  extract_lets u
  have hu : s.Laned (laneWord n) u := ((Blk.Laned.refl s).setF (x := LAN_STATUS_DOWN n) (.inl rfl)).ite (.refl s)
  exact (((hu.setF (x := LAN_STATUS_STATE n) (.inl rfl)).setF (x := LAN_STATUS_LOCK n) (.inl rfl)).setF
    (x := LAN_STATUS_TX_SLEEP n) (.inl rfl)).setF (x := LAN_STATUS_RX_SLEEP n) (.inl rfl)

theorem Blk.laneState_laneShut (s : Blk) (n : Nat) : (s.laneShut n).laneState n = 0 := by
  unfold Blk.laneShut Blk.laneState
  extract_lets u
  rw [Blk.f_setF_ne _ _ _ _ (by simp) (by simp) (by simp) (by simp), Blk.f_setF_ne _ _ _ _ (by simp) (by simp) (by simp) (by simp),
    Blk.f_setF_ne _ _ _ _ (by simp) (by simp) (by simp) (by simp), Blk.f_setF_same _ _ _ (by simp) (by simp)]
  simp

theorem Blk.laned_laneOff (s : Blk) (n : Nat) : s.Laned (laneWord n) (s.laneOff n) := by
  have h1 : s.Laned (laneWord n) ((s.laneShut n).tsSend n) := (s.laned_laneShut n).lined ((Blk.Lined.refl _).tsSend)
  rw [Blk.laneOff_eq]
  generalize (s.laneShut n).tsSend n = u at h1
  exact Blk.Laned.scanLeft (h1.put (lanes := _) (wires := u.wires) (scan := u.scan)) (.inr rfl)

theorem Blk.laneState_laneOff (s : Blk) {n : Nat} (hn : n < 44) : (s.laneOff n).laneState n = 0 := by
  have h1 : ((s.laneShut n).tsSend n).laneState n = 0 :=
    (Blk.f_of_reg (((Blk.Lined.refl (s.laneShut n)).tsSend (n := n)).reg _)).trans (s.laneState_laneShut n)
  rw [Blk.laneOff_eq]
  generalize (s.laneShut n).tsSend n = u at h1
  refine (Blk.f_of_reg (Blk.reg_scanLeft _ n ?_ (cntWord_low ?_))).trans ((Blk.f_put _).trans h1)
  · simp only [LAN_STATUS, LAN_EYE_STATUS]; omega
  · simp only [LAN_STATUS]; omega

/-- Lanes that are off stay off as others are switched off. -/
theorem Blk.laneState_laneOff_zero (s : Blk) {n m : Nat} (hn : n < 44) (hm : m < 44) (h : s.laneState m = 0) : (s.laneOff n).laneState m = 0 := by
  by_cases he : m = n
  · subst he
    exact s.laneState_laneOff hn
  · refine ((s.laned_laneOff n).regs.f (cntWord_low ?_) ?_).trans h
    · simp only [LAN_STATUS]; omega
    · simp only [laneWord, LAN_STATUS, LAN_EYE_STATUS]; omega

/-- Every lane switched off. -/
theorem Blk.laneState_lanesOff (s : Blk) {k : Nat} (hk : k ≤ 44) {m : Nat} (hm : m < k) : ((List.range k).foldl Blk.laneOff s).laneState m = 0 := by
  induction k with
  | zero => omega
  | succ k ih =>
    rw [List.range_succ, List.foldl_append, List.foldl_cons, List.foldl_nil]
    by_cases he : m = k
    · subst he
      exact Blk.laneState_laneOff _ (by omega)
    · exact Blk.laneState_laneOff_zero _ (by omega) (by omega) (ih (by omega) (by omega))

/-- The words of the lanes and of the eye scan. -/
def lanesWord (a : Nat) : Prop := (∃ n, n < 44 ∧ a = LAN_STATUS n) ∨ a = LAN_EYE_STATUS

theorem lanesWord_ne {a : Nat} (h : a < 0x100000 ∨ 0x101003 ≤ a) : ¬lanesWord a := by
  rintro (⟨n, hn, rfl⟩ | rfl)
  · simp only [LAN_STATUS] at h
    omega
  · simp only [LAN_EYE_STATUS] at h
    omega

theorem Blk.laned_lanesOff (s : Blk) {k : Nat} (hk : k ≤ 44) : s.Laned lanesWord ((List.range k).foldl Blk.laneOff s) := by
  refine List.foldlRecOn (motive := fun t : Blk => s.Laned lanesWord t) _ _ (.refl s) fun u hu n hn => ?_
  have hn' := List.mem_range.1 hn
  exact hu.trans ((u.laned_laneOff n).mono fun a h => h.imp (fun h => ⟨n, by omega, h⟩) id)

/-! ### Life-cycle changes (R444, R445) -/

theorem Blk.allIdle_vfuse (s : Blk) (v : Bool) : (s.vfuse v).allIdle = s.allIdle :=
  ((Blk.RegsBut.refl s (· = SEC_LC_STATUS)).setF (x := SEC_LC_STATUS_VFUSE_OK) rfl).allIdle fun t ht => by
    simp only [PGE_TRK_STATUS, SEC_LC_STATUS]; omega

theorem Blk.fb_vfuse (s : Blk) (v : Bool) : (s.vfuse v).fb SEC_LC_STATUS_VFUSE_OK = v := by
  rw [Blk.vfuse, Blk.fb_setF_same _ _ _ (by decide) (by decide)]
  cases v <;> rfl

theorem Blk.f_vfuse_ne (s : Blk) (v : Bool) {x : Fld} (h : x.addr ≠ SEC_LC_STATUS) : (s.vfuse v).f x = s.f x :=
  Blk.f_of_reg (Blk.reg_setF_ne _ _ _ h)

theorem Blk.lcCause_not_allowed (w : Word) (hp : s.sys.phase = .up) (hn : lcNext s.fuse.state s.fuse.k (s.f SEC_LC_TARGET_STATE) = false) :
    s.lcCause w = 1 := by
  rw [Blk.lcCause, if_neg (by rw [hp]; decide), if_pos (by rw [hn]; rfl)]

theorem Blk.lcCause_allowed (hp : s.sys.phase = .up) (hn : lcNext s.fuse.state s.fuse.k (s.f SEC_LC_TARGET_STATE) = true)
    (hv : s.fb SEC_LC_STATUS_VFUSE_OK = true) (hi : s.allIdle = true) (hx : ∀ n, n < 6 → s.axState n = 0) (h2 : s.twnState ≠ 2) :
    s.lcCause 0x4c4321 = 0 := by
  have hany : ((List.range 6).any fun n => s.axState n != 0) = false := by
    rw [List.any_eq_false]
    intro n hn
    simp [hx n (List.mem_range.1 hn)]
  rw [Blk.lcCause, if_neg (by rw [hp]; decide), if_neg (by rw [hn]; decide), if_neg (by rw [hv]; decide), if_neg (by rw [hi]; decide),
    if_neg (by rw [hany]; decide), if_neg h2, if_neg (by decide)]

theorem lifecycle_refused (w : Word) (v : Bool) (hp : s.sys.phase = .up)
    (hn : lcNext s.fuse.state s.fuse.k (s.f SEC_LC_TARGET_STATE) = false) :
    (lifecycle w v s).fb SEC_LC_STATUS_LC_REJ = true ∧ (lifecycle w v s).f SEC_LC_STATUS_REJ_CAUSE = 1 ∧
      (lifecycle w v s).fb SEC_LC_STATUS_VFUSE_OK = v ∧ s.OnlyRegs (lifecycle w v s) (· = SEC_LC_STATUS) := by
  have hc : (s.vfuse v).lcCause w = 1 := Blk.lcCause_not_allowed w hp (by rw [Blk.f_vfuse_ne _ _ (by decide)]; exact hn)
  have heq : lifecycle w v s = ((s.vfuse v).setF SEC_LC_STATUS_LC_REJ 1).setF SEC_LC_STATUS_REJ_CAUSE 1 := by
    unfold lifecycle
    extract_lets u c
    have hc' : c = 1 := hc
    rw [if_neg (by rw [hp]; decide), hc']
    rfl
  rw [heq]
  refine ⟨?_, Blk.f_setF_same _ _ _ (by decide) (by decide), ?_, ?_⟩
  · rw [Blk.fb_setF_ne _ _ _ _ (by decide) (by decide) (by decide) (by decide)]
    exact Blk.fb_setF_same _ _ _ (by decide) (by decide)
  · rw [Blk.fb_setF_ne _ _ _ _ (by decide) (by decide) (by decide) (by decide), Blk.fb_setF_ne _ _ _ _ (by decide) (by decide) (by decide) (by decide)]
    exact s.fb_vfuse v
  · exact (((Blk.OnlyRegs.refl s (· = SEC_LC_STATUS)).setF (x := SEC_LC_STATUS_VFUSE_OK) rfl).setF (x := SEC_LC_STATUS_LC_REJ) rfl).setF
      (x := SEC_LC_STATUS_REJ_CAUSE) rfl

/-- A life-cycle change under way, the lanes still as they were. -/
def Blk.lcBusy (s : Blk) : Blk :=
  let s := if s.fb TWN_STATUS_DRIVING then s.release else s
  (s.setF SEC_LC_STATUS_LC_BUSY 1).withSto fun x => { x with plays := [] }

theorem Blk.lcStart_eq (s : Blk) : ∃ t, t = (List.range 44).foldl Blk.laneOff s.lcBusy ∧
    s.lcStart = { t with streams := [], sys := { t.sys with phase := .change, lcFrom := some t.fuse.state } } := ⟨_, rfl, rfl⟩

theorem Blk.lcBusy_spec (s : Blk) : s.lcBusy.fb SEC_LC_STATUS_LC_BUSY = true ∧ s.lcBusy.sto.plays = [] ∧ s.lcBusy.fuse = s.fuse := by
  unfold Blk.lcBusy
  extract_lets u
  have hu : s.Roled roleWord u := ((Blk.Roled.refl s).release fun _ => id).ite (.refl s)
  have hf : u.fuse = s.fuse := hu.frame.2.2.1
  clear_value u
  have hb : (u.setF SEC_LC_STATUS_LC_BUSY 1).fb SEC_LC_STATUS_LC_BUSY = true := Blk.fb_setF_same _ _ _ (by decide) (by decide)
  have hf' : (u.setF SEC_LC_STATUS_LC_BUSY 1).fuse = s.fuse := (Blk.setF_fuse u _ _).trans hf
  generalize u.setF SEC_LC_STATUS_LC_BUSY 1 = v at hb hf'
  exact ⟨hb, rfl, hf'⟩

theorem Blk.lcStart_spec (s : Blk) :
    s.lcStart.sys.phase = .change ∧ s.lcStart.sys.lcFrom = some s.fuse.state ∧ s.lcStart.fb SEC_LC_STATUS_LC_BUSY = true ∧
      (∀ n, n < 44 → s.lcStart.laneState n = 0) ∧ s.lcStart.sto.plays = [] ∧ s.lcStart.fuse = s.fuse := by
  obtain ⟨t, ht, heq⟩ := s.lcStart_eq
  obtain ⟨hbusy, hplays, hfuse⟩ := s.lcBusy_spec
  have hL : s.lcBusy.Laned lanesWord t := ht ▸ s.lcBusy.laned_lanesOff (le_refl _)
  have hoff : ∀ n, n < 44 → t.laneState n = 0 := fun n hn => ht ▸ s.lcBusy.laneState_lanesOff (le_refl _) hn
  have hreg : t.fb SEC_LC_STATUS_LC_BUSY = true := (hL.regs.fb (by decide) (lanesWord_ne (.inr (by decide)))).trans hbusy
  have hf : t.fuse = s.fuse := hL.frame.2.2.1.trans hfuse
  have hp : t.sto.plays = [] := by
    obtain ⟨⟨_, _, _, _, e⟩, -⟩ := hL
    rw [e]
    exact hplays
  clear ht hL
  rw [heq, hf]
  exact ⟨rfl, rfl, hreg, hoff, hp, rfl⟩

theorem lifecycle_starts (hp : s.sys.phase = .up) (hi : s.allIdle = true) (hx : ∀ n, n < 6 → s.axState n = 0) (h2 : s.twnState ≠ 2)
    (hn : lcNext s.fuse.state s.fuse.k (s.f SEC_LC_TARGET_STATE) = true) : lifecycle 0x4c4321 true s = (s.vfuse true).lcStart := by
  have hp' : (s.vfuse true).sys.phase = .up := by rw [Blk.vfuse, Blk.setF_sys]; exact hp
  have hn' : lcNext (s.vfuse true).fuse.state (s.vfuse true).fuse.k ((s.vfuse true).f SEC_LC_TARGET_STATE) = true := by
    rw [Blk.f_vfuse_ne _ _ (by decide), Blk.vfuse, Blk.setF_fuse]; exact hn
  have hc : (s.vfuse true).lcCause 0x4c4321 = 0 :=
    Blk.lcCause_allowed hp' hn' (s.fb_vfuse true) ((s.allIdle_vfuse true).trans hi)
      (fun n h => (s.f_vfuse_ne true (by simp only [AXS_STATUS, SEC_LC_STATUS]; omega)).trans (hx n h))
      (by rw [show (s.vfuse true).twnState = s.twnState from s.f_vfuse_ne true (by decide)]; exact h2)
  unfold lifecycle
  extract_lets u c
  have hc' : c = 0 := hc
  rw [if_neg (by rw [hp]; decide), hc']
  rfl

/-! ### The skein flash (R440) -/

/-- A command on its way to the flash, from the block that shows BUSY. -/
def Blk.flashOn (s : Blk) (op a n : Nat) (data : List Byte) : Blk :=
  ({ s with sys := { s.sys with flash := some ⟨op, a, n, s.now⟩ } } : Blk).emit (.flash op a data)

theorem Blk.flashOn_spec (hO : s.OnlyRegs t (· = SKN_FLASH_CTRL)) (hb : t.fb SKN_FLASH_CTRL_BUSY = true) (op a n : Nat) (data : List Byte) :
    (t.flashOn op a n data).fb SKN_FLASH_CTRL_BUSY = true ∧ (t.flashOn op a n data).out = .flash op a data :: s.out ∧
      (t.flashOn op a n data).sys.flash = some ⟨op, a, n, s.now⟩ ∧ s.Frame (t.flashOn op a n data) (· = SKN_FLASH_CTRL) := by
  have ho : t.out = s.out := by rw [hO.1]
  have hn : t.now = s.now := by rw [hO.1]
  refine ⟨hb, congrArg (_ :: ·) ho, by rw [← hn]; rfl, hO.regsBut.put, ?_⟩
  exact hO.calm.trans ⟨fun _ => rfl, rfl, rfl⟩

/-- The block that shows an operation, and BUSY. -/
def Blk.flashBusy (s : Blk) (op : Nat) : Blk := (s.setF SKN_FLASH_CTRL_OP op).setF SKN_FLASH_CTRL_BUSY 1

theorem Blk.flashBusy_spec (s : Blk) (op : Nat) :
    s.OnlyRegs (s.flashBusy op) (· = SKN_FLASH_CTRL) ∧ (s.flashBusy op).fb SKN_FLASH_CTRL_BUSY = true :=
  ⟨((Blk.OnlyRegs.refl s (· = SKN_FLASH_CTRL)).setF (x := SKN_FLASH_CTRL_OP) rfl).setF (x := SKN_FLASH_CTRL_BUSY) rfl,
    Blk.fb_setF_same _ _ _ (by decide) (by decide)⟩

theorem Blk.flashData_of_reg (h : ∀ i, i < 86 → s.reg (SKN_FLASH_DATA i) = r.reg (SKN_FLASH_DATA i)) (n : Nat) : s.flashData n = r.flashData n := by
  have hmap : (List.range 86).flatMap (fun i => toLE (s.rn (SKN_FLASH_DATA i)) 3) = (List.range 86).flatMap fun i => toLE (r.rn (SKN_FLASH_DATA i)) 3 :=
    List.flatMap_congr fun i hi => by rw [Blk.rn_of_reg (h i (List.mem_range.1 hi))]
  rw [Blk.flashData, hmap, Blk.flashData]

/-- What a write of OP leaves of what a command is made of. -/
theorem Blk.flash_setOp (s : Blk) (op : Nat) :
    (s.setF SKN_FLASH_CTRL_OP op).fb SKN_FLASH_CTRL_BUSY = s.fb SKN_FLASH_CTRL_BUSY ∧
      (s.setF SKN_FLASH_CTRL_OP op).val SKN_FLASH_ADDR 2 = s.val SKN_FLASH_ADDR 2 ∧
      (s.setF SKN_FLASH_CTRL_OP op).f SKN_FLASH_CTRL_COUNT_M1 = s.f SKN_FLASH_CTRL_COUNT_M1 :=
  ⟨Blk.fb_setF_ne _ _ _ _ (by decide) (by decide) (by decide) (by decide), Blk.val_setF_ne _ _ _ _ _ (.inl (by decide)),
    Blk.f_setF_ne _ _ _ _ (by decide) (by decide) (by decide) (by decide)⟩

theorem flashGo_sent {op : Nat} (hp : s.sys.phase = .up) (hb : s.fb SKN_FLASH_CTRL_BUSY = false)
    (h : op ≠ 1 ∨ s.val SKN_FLASH_ADDR 2 % 256 + s.f SKN_FLASH_CTRL_COUNT_M1 + 1 ≤ 256) :
    flashGo op s = (s.flashBusy op).flashOn op (s.val SKN_FLASH_ADDR 2) (s.f SKN_FLASH_CTRL_COUNT_M1 + 1)
      (if op = 1 then (s.flashBusy op).flashData (s.f SKN_FLASH_CTRL_COUNT_M1 + 1) else []) := by
  obtain ⟨hb', ha, hn⟩ := s.flash_setOp op
  unfold flashGo
  extract_lets u a n w y v
  have ha' : a = s.val SKN_FLASH_ADDR 2 := ha
  have hn' : n = s.f SKN_FLASH_CTRL_COUNT_M1 + 1 := congrArg (· + 1) hn
  clear_value a n
  subst ha' hn'
  rw [if_neg (by rw [hp]; decide), if_neg (by rw [hb', hb]; decide), if_neg (by omega)]
  have hw : w = s.flashBusy op := rfl
  have hu : w.now = u.now := Blk.setF_now u SKN_FLASH_CTRL_BUSY 1
  have hy : w.sys = y := Blk.setF_sys u SKN_FLASH_CTRL_BUSY 1
  clear_value w y
  subst hw hy
  have hv : v = { s.flashBusy op with sys := { (s.flashBusy op).sys with flash := some ⟨op, s.val SKN_FLASH_ADDR 2, s.f SKN_FLASH_CTRL_COUNT_M1 + 1, (s.flashBusy op).now⟩ } } := by
    simp only [v, ← hu]
  have hd : ∀ n, v.flashData n = (s.flashBusy op).flashData n := Blk.flashData_of_reg fun i _ => by rw [hv, Blk.reg_put]
  rw [hd, hv, Blk.flashOn]

theorem flashGo_spec {op : Nat} (hp : s.sys.phase = .up) (hb : s.fb SKN_FLASH_CTRL_BUSY = false)
    (h : op ≠ 1 ∨ s.val SKN_FLASH_ADDR 2 % 256 + s.f SKN_FLASH_CTRL_COUNT_M1 + 1 ≤ 256) :
    (flashGo op s).fb SKN_FLASH_CTRL_BUSY = true ∧
      (flashGo op s).out = .flash op (s.val SKN_FLASH_ADDR 2) (if op = 1 then s.flashData (s.f SKN_FLASH_CTRL_COUNT_M1 + 1) else []) :: s.out ∧
      (flashGo op s).sys.flash = some ⟨op, s.val SKN_FLASH_ADDR 2, s.f SKN_FLASH_CTRL_COUNT_M1 + 1, s.now⟩ ∧
      s.Frame (flashGo op s) (· = SKN_FLASH_CTRL) := by
  obtain ⟨hO, hbusy⟩ := s.flashBusy_spec op
  have hd : ∀ n, (s.flashBusy op).flashData n = s.flashData n := Blk.flashData_of_reg fun i _ =>
    hO.2 _ (by simp only [SKN_FLASH_DATA, SKN_FLASH_CTRL]; omega)
  rw [flashGo_sent hp hb h, hd]
  exact Blk.flashOn_spec hO hbusy _ _ _ _

theorem flashGo_across (hp : s.sys.phase = .up) (hb : s.fb SKN_FLASH_CTRL_BUSY = false)
    (h : 256 < s.val SKN_FLASH_ADDR 2 % 256 + s.f SKN_FLASH_CTRL_COUNT_M1 + 1) :
    (flashGo 1 s).fb SKN_FLASH_CTRL_ERR = true ∧ s.OnlyRegs (flashGo 1 s) (· = SKN_FLASH_CTRL) := by
  obtain ⟨hb', ha, hn⟩ := s.flash_setOp 1
  have heq : flashGo 1 s = (s.setF SKN_FLASH_CTRL_OP 1).setF SKN_FLASH_CTRL_ERR 1 := by
    unfold flashGo
    extract_lets u a n y v
    have ha' : a = s.val SKN_FLASH_ADDR 2 := ha
    have hn' : n = s.f SKN_FLASH_CTRL_COUNT_M1 + 1 := congrArg (· + 1) hn
    rw [if_neg (by rw [hp]; decide), if_neg (by rw [hb', hb]; decide), if_pos]
    exact ⟨rfl, by rw [ha', hn']; omega⟩
  rw [heq]
  exact ⟨Blk.fb_setF_same _ _ _ (by decide) (by decide),
    ((Blk.OnlyRegs.refl s (· = SKN_FLASH_CTRL)).setF (x := SKN_FLASH_CTRL_OP) rfl).setF (x := SKN_FLASH_CTRL_ERR) rfl⟩

/-! #### The end of a command -/

/-- The part at the POS clock of the flash's answer. -/
def Blk.flashAt (s : Blk) (t : Nat) : Blk := if t ≤ s.now then s else if s.alive then s.advance t else { s with now := t }

theorem Blk.flashAt_spec (s : Blk) (t : Nat) : (s.flashAt t).now = max s.now t ∧ (s.flashAt t).sys = s.sys ∧ s.Frame (s.flashAt t) fun _ => False := by
  unfold Blk.flashAt
  split
  · exact ⟨by omega, rfl, .refl s _⟩
  · split
    · exact ⟨s.now_advance t, s.advance_sys t, (Blk.Frame.refl s _).advance⟩
    · exact ⟨(max_eq_right (Nat.le_of_not_le ‹_›)).symm, rfl, (Blk.Frame.refl s _).put⟩

/-- The command under way is over. -/
def Blk.flashIdle (s : Blk) : Blk := { s.setF SKN_FLASH_CTRL_BUSY 0 with sys := { s.sys with flash := none } }

theorem flashEnd_goes_on {x : FlashCmd} {t : Nat} (data : List Byte) (hx : s.sys.flash = some x)
    (h : x.op = 0 ∨ max s.now t ≤ x.start + flashLimit x.op) : flashEnd t false data s = s.flashAt t := by
  obtain ⟨hn, hs, -⟩ := s.flashAt_spec t
  have hx' : (s.flashAt t).sys.flash = some x := by rw [hs]; exact hx
  unfold flashEnd
  extract_lets u
  have hu : u = s.flashAt t := rfl
  clear_value u
  subst hu
  simp only [hx', hn]
  rw [if_pos]
  rcases h with h | h
  · simp [h]
  · simp [Nat.not_lt.2 h]

theorem flashEnd_over {x : FlashCmd} {t : Nat} {done : Bool} (data : List Byte) (hx : s.sys.flash = some x)
    (h : done = true ∨ x.op ≠ 0 ∧ x.start + flashLimit x.op < max s.now t) :
    flashEnd t done data s =
      if x.op = 0 then (s.flashAt t).flashIdle.putFlashData (slice data 0 x.n ++ ((s.flashAt t).flashIdle.flashData 258).drop x.n)
      else if x.start + flashLimit x.op < max s.now t then (s.flashAt t).flashIdle.setF SKN_FLASH_CTRL_ERR 1
      else (s.flashAt t).flashIdle := by
  obtain ⟨hn, hs, -⟩ := s.flashAt_spec t
  have hx' : (s.flashAt t).sys.flash = some x := by rw [hs]; exact hx
  unfold flashEnd
  extract_lets u
  have hu : u = s.flashAt t := rfl
  clear_value u
  subst hu
  simp only [hx', hn]
  rw [if_neg]
  · by_cases h0 : x.op = 0
    · rw [if_pos h0, if_pos h0]
      rfl
    · simp only [h0, if_false, ne_eq, not_false_eq_true, true_and]
      rfl
  · rintro ⟨h1, h2⟩
    rcases h with rfl | h
    · simp at h1
    · simp [h] at h2

/-- Writing the host side of the part without its phase. -/
theorem Blk.Frame.putSys {p : Nat → Prop} (h : r.Frame s p) {y : Sys} (hy : y.phase = s.sys.phase) : r.Frame { s with sys := y } p :=
  ⟨h.1.put, h.2.1, h.2.2.1, hy.trans h.2.2.2⟩

theorem Blk.frame_flashIdle (s : Blk) : s.Frame s.flashIdle (· = SKN_FLASH_CTRL) := by
  have hF := (Blk.Frame.refl s (· = SKN_FLASH_CTRL)).setF (x := SKN_FLASH_CTRL_BUSY) (v := 0) rfl
  exact hF.putSys (y := { s.sys with flash := none }) (by rw [Blk.setF_sys])

theorem Blk.flashIdle_spec (s : Blk) : s.flashIdle.fb SKN_FLASH_CTRL_BUSY = false ∧ s.flashIdle.fb SKN_FLASH_CTRL_ERR = s.fb SKN_FLASH_CTRL_ERR ∧
    s.flashIdle.sys.flash = none := by
  refine ⟨?_, ?_, rfl⟩
  · rw [Blk.flashIdle, Blk.fb_put]
    exact Blk.fb_setF_same _ _ _ (by decide) (by decide)
  · rw [Blk.flashIdle, Blk.fb_put]
    exact Blk.fb_setF_ne _ _ _ _ (by decide) (by decide) (by decide) (by decide)

/-- Bytes put into SKN_FLASH_DATA are read back from it. -/
theorem Blk.flashData_putFlashData (s : Blk) {bs : List Byte} (hl : bs.length = 258) (n : Nat) :
    (s.putFlashData bs).flashData n = bs.take n := by
  have hw : ∀ i, i < 86 → (s.putFlashData bs).rn (SKN_FLASH_DATA i) = leNat (slice bs (3 * i) 3) := fun i hi => by
    have h := Blk.rn_foldl_wn (a := SKN_FLASH_DATA) (fun i j h => by simp only [SKN_FLASH_DATA] at h; omega) (fun i => leNat (slice bs (3 * i) 3)) 86 s hi
    have hlt := leNat_lt (slice bs (3 * i) 3)
    rw [length_slice] at hlt
    exact h.trans (Nat.mod_eq_of_lt hlt)
  have hmap : (List.range 86).flatMap (fun i => toLE ((s.putFlashData bs).rn (SKN_FLASH_DATA i)) 3) = (List.range 86).flatMap fun i => slice bs (3 * i) 3 :=
    List.flatMap_congr fun i hi => by
      rw [hw i (List.mem_range.1 hi)]
      have h3 := toLE_leNat (slice bs (3 * i) 3)
      rwa [length_slice] at h3
  have hall : (List.range 86).flatMap (fun i => slice bs (3 * i) 3) = bs := by
    have hlen : ((List.range 86).flatMap fun i => slice bs (3 * i) 3).length = 258 := by simp [List.length_flatMap, length_slice]
    refine List.ext_getElem (by rw [hlen, hl]) fun i hi _ => ?_
    have h := getD_flatMap_range (g := fun i => slice bs (3 * i) 3) (k := 3) (fun i => length_slice _ _ _) 0 86 (i := i) (by omega)
    rw [getD_slice _ (Nat.mod_lt _ (by decide)), show 3 * (i / 3) + i % 3 = i by omega, List.getD_eq_getElem _ _ hi,
      List.getD_eq_getElem _ _ (by omega)] at h
    exact h
  rw [Blk.flashData, hmap, hall]

/-- The words of a flash command and its data. -/
def flashWord (a : Nat) : Prop := a = SKN_FLASH_CTRL ∨ ∃ i, i < 86 ∧ a = SKN_FLASH_DATA i

theorem Blk.onlyRegs_putFlashData (s : Blk) (bs : List Byte) : s.OnlyRegs (s.putFlashData bs) fun a => ∃ i, i < 86 ∧ a = SKN_FLASH_DATA i :=
  Blk.onlyRegs_foldl_wn (a := SKN_FLASH_DATA) _ _ (fun i hi => ⟨i, List.mem_range.1 hi, rfl⟩) s

theorem Blk.length_flashData (s : Blk) {n : Nat} (hn : n ≤ 258) : (s.flashData n).length = n := by
  simp [Blk.flashData, List.length_flatMap, length_toLE]
  omega

theorem flashEnd_read {x : FlashCmd} {t : Nat} (data : List Byte) (hx : s.sys.flash = some x) (h0 : x.op = 0) (hn : x.n ≤ 256) :
    (flashEnd t true data s).fb SKN_FLASH_CTRL_BUSY = false ∧ (flashEnd t true data s).flashData x.n = slice data 0 x.n ∧
      (flashEnd t true data s).sys.flash = none ∧ s.Frame (flashEnd t true data s) flashWord := by
  obtain ⟨-, -, hF⟩ := s.flashAt_spec t
  have hF2 := (s.flashAt t).frame_flashIdle
  obtain ⟨hb, -, hf⟩ := (s.flashAt t).flashIdle_spec
  rw [flashEnd_over data hx (.inl rfl), if_pos h0]
  generalize (s.flashAt t).flashIdle = u at hb hf hF2
  have hO := u.onlyRegs_putFlashData (slice data 0 x.n ++ (u.flashData 258).drop x.n)
  have hF3 : s.Frame u flashWord := (hF.mono fun _ h => h.elim).trans (hF2.mono fun _ h => .inl h)
  refine ⟨?_, ?_, by rw [hO.1]; exact hf, hF3.trans ⟨hO.regsBut.mono fun _ h => .inr h, hO.calm⟩⟩
  · rw [Blk.fb_of_reg (hO.2 _ ?_)]
    · exact hb
    · rintro ⟨i, hi, h⟩
      simp only [SKN_FLASH_CTRL, SKN_FLASH_DATA] at h
      omega
  · rw [Blk.flashData_putFlashData _ (by rw [List.length_append, length_slice, List.length_drop, u.length_flashData (le_refl _)]; omega)]
    exact List.take_left' (length_slice _ _ _)

theorem flashEnd_done {x : FlashCmd} {t : Nat} (data : List Byte) (hx : s.sys.flash = some x) (h0 : x.op ≠ 0)
    (hl : max s.now t ≤ x.start + flashLimit x.op) :
    (flashEnd t true data s).fb SKN_FLASH_CTRL_BUSY = false ∧ (flashEnd t true data s).fb SKN_FLASH_CTRL_ERR = s.fb SKN_FLASH_CTRL_ERR ∧
      (flashEnd t true data s).sys.flash = none ∧ s.Frame (flashEnd t true data s) (· = SKN_FLASH_CTRL) := by
  obtain ⟨-, -, hF⟩ := s.flashAt_spec t
  have hF2 := (s.flashAt t).frame_flashIdle
  obtain ⟨hb, he, hf⟩ := (s.flashAt t).flashIdle_spec
  rw [flashEnd_over data hx (.inl rfl), if_neg h0, if_neg (by omega)]
  exact ⟨hb, he.trans (hF.1.fb (by decide) id), hf, (hF.mono fun _ h => h.elim).trans hF2⟩

theorem flashEnd_late {x : FlashCmd} {t : Nat} (done : Bool) (data : List Byte) (hx : s.sys.flash = some x) (h0 : x.op ≠ 0)
    (hl : x.start + flashLimit x.op < max s.now t) :
    (flashEnd t done data s).fb SKN_FLASH_CTRL_BUSY = false ∧ (flashEnd t done data s).fb SKN_FLASH_CTRL_ERR = true ∧
      (flashEnd t done data s).sys.flash = none ∧ s.Frame (flashEnd t done data s) (· = SKN_FLASH_CTRL) := by
  obtain ⟨-, -, hF⟩ := s.flashAt_spec t
  have hF2 := (s.flashAt t).frame_flashIdle
  obtain ⟨hb, -, hf⟩ := (s.flashAt t).flashIdle_spec
  rw [flashEnd_over data hx (.inr ⟨h0, hl⟩), if_neg h0, if_pos hl]
  generalize (s.flashAt t).flashIdle = u at hb hf hF2
  refine ⟨?_, Blk.fb_setF_same _ _ _ (by decide) (by decide), by rw [Blk.setF_sys]; exact hf,
    ((hF.mono fun _ h => h.elim).trans hF2).setF (x := SKN_FLASH_CTRL_ERR) rfl⟩
  rw [Blk.fb_setF_ne _ _ _ _ (by decide) (by decide) (by decide) (by decide)]
  exact hb

/-- Settles O49: a lemma for each clause. -/
theorem lifeCycleAndFlash : Obligations.LifeCycleAndFlash := by
  unfold Obligations.LifeCycleAndFlash
  intro s hp
  refine ⟨fun hi hx h2 hn => .of_always (f := lifecycle 0x4c4321 true) rfl ?_,
    fun w v hn => .of_always (f := lifecycle w v) rfl (lifecycle_refused w v hp hn), fun hb => ⟨?_, fun h => ?_, fun h => ?_⟩,
    fun x t data hx => ⟨fun h0 hn => ?_, fun h0 hl => ?_, fun done h0 hl => ?_, fun h => ?_⟩⟩
  · rw [lifecycle_starts hp hi hx h2 hn]
    have hf : (s.blk.vfuse true).fuse = s.blk.fuse := Blk.setF_fuse _ _ _
    have h := (s.blk.vfuse true).lcStart_spec
    rw [hf] at h
    exact h
  · rintro c op (⟨rfl, rfl⟩ | ⟨rfl, rfl⟩ | ⟨rfl, rfl⟩)
    · exact .of_always (f := flashGo 0) rfl (flashGo_spec hp hb (.inl (by decide)))
    · exact .of_always (f := flashGo 2) rfl (flashGo_spec hp hb (.inl (by decide)))
    · exact .of_always (f := flashGo 3) rfl (flashGo_spec hp hb (.inl (by decide)))
  · exact .of_always (f := flashGo 1) rfl (flashGo_spec hp hb (.inr h))
  · exact .of_always (f := flashGo 1) rfl (flashGo_across hp hb h)
  · exact .of_always (f := flashEnd t true data) rfl (flashEnd_read data hx h0 hn)
  · exact .of_always (f := flashEnd t true data) rfl (flashEnd_done data hx h0 hl)
  · exact .of_always (f := flashEnd t done data) rfl (flashEnd_late done data hx h0 hl)
  · refine .of_always (f := flashEnd t false data) rfl ?_
    obtain ⟨-, hs, hF⟩ := s.blk.flashAt_spec t
    rw [flashEnd_goes_on data hx h]
    exact ⟨by rw [hs]; exact hx, hF⟩

end Sys2Proof.Machine
end

section
/-!
PROOFS. The upsett: the fuses sensed, the copies of the skein checked, the sets trained, and what holds the part (R429 to R443).
-/

namespace Sys2Proof.Machine

variable {r s : Blk} {p : Nat → Prop}

/-! ### The fuses and the tests of step 1 leave what has been blown (R443, R452) -/

/-- Any register word. -/
def anyWord (_ : Nat) : Prop := True

theorem Blk.Frame.setAny (h : r.Frame s anyWord) {x : Fld} {v : Nat} : r.Frame (s.setF x v) anyWord := h.setF trivial

theorem Blk.Frame.showFuses (h : r.Frame s anyWord) : r.Frame s.showFuses anyWord := by
  unfold Blk.showFuses
  extract_lets a b c
  have ha : r.Frame a anyWord := h.setAny.setAny.setAny
  have hb : r.Frame b anyWord := ha.setAny.setAny
  have hc : r.Frame c anyWord := (hb.setVal fun _ _ => trivial).setVal fun _ _ => trivial
  split
  · exact hc.wn trivial
  · exact hc

theorem Blk.Frame.repaired (h : r.Frame s anyWord) : r.Frame s.repaired anyWord := by
  unfold Blk.repaired
  split
  · exact h
  · exact h.put.setAny.setAny.setAny

theorem Blk.Frame.faultStake (h : r.Frame s anyWord) : r.Frame (s.faultBit TWN_HEALTH_STAKE) anyWord :=
  h.trans ((Blk.Roled.refl s).faultBit (p := anyWord) (fun _ _ => trivial) rfl).frame

theorem Blk.Frame.retireStake (h : r.Frame s anyWord) {k why : Nat} : r.Frame (s.retireStake k why) anyWord := by
  have h1 : r.Frame ((s.raise 0xD01 k k why).setF BST_STATUS_ROT_STOPPED 1) anyWord := h.raise.setAny
  unfold Blk.retireStake
  extract_lets a by0 b free q c
  have hb : r.Frame b anyWord := h1.setAny.setAny
  have hc : r.Frame c anyWord := h1.setAny
  exact (hb.faultStake.ite hb).ite (hc.setAny.ite (hc.ite hc.faultStake))

theorem Blk.Frame.testResult (h : r.Frame s anyWord) {u sig : Nat} {pass : Bool} : r.Frame (s.testResult u sig pass) anyWord := by
  obtain ⟨bst, e⟩ := s.testResult_eq u sig pass
  rw [e]
  exact (h.resultShown trivial trivial trivial trivial).put

theorem Blk.Frame.upsettTest (h : r.Frame s anyWord) {l : List (Bool × BitVec 48)} {u : Nat} : r.Frame (s.upsettTest l u) anyWord := by
  unfold Blk.upsettTest
  extract_lets q t
  have ht : r.Frame t anyWord := h.testResult
  exact h.ite (ht.ite (ht.retireStake.ite ht.raise))

theorem Blk.fuse_showFuses (s : Blk) : s.showFuses.fuse = s.fuse := (Blk.Frame.refl s anyWord).showFuses.2.2.1

/-- The fuses after step 0: what has been programmed from outside is taken in, as far as the life cycle lets a field be (R443). -/
def Fuse.sensed (f : Fuse) (x : FuseIn) : Fuse :=
  { f with
    dieId := blown (f.state == 0) f.dieId x.dieId.toNat
    mac := blown (f.state == 0) f.mac x.mac.toNat
    mgmtKey := blown (f.state == 0) f.mgmtKey x.mgmtKey.toNat
    keyHash := blown (f.state ≤ 1) f.keyHash x.keyHash.toNat
    signEn := f.signEn || (decide (f.state ≤ 1) && x.signEn && blown (f.state ≤ 1) f.keyHash x.keyHash.toNat != 0)
    holdEth := f.holdEth || (f.state == 0 && x.holdEth)
    qspiClk := blown (f.state ≤ 1) f.qspiClk x.qspiClk.val }

theorem Blk.fuse_senseFuses (s : Blk) (x : FuseIn) : (s.senseFuses x).fuse = s.fuse.sensed x := by
  unfold Blk.senseFuses
  extract_lets f blank early hash u
  exact (Blk.Frame.refl u anyWord).showFuses.setAny.2.2.1

theorem Blk.fuse_upsettFirst (s : Blk) (x : UpsettIn) : (s.upsettFirst x).fuse = s.fuse.sensed x.fuses := by
  unfold Blk.upsettFirst
  extract_lets t _ u
  have htests : (u.senseFuses x.fuses).Frame ((List.range 16).foldl (Blk.upsettTest x.bist) (u.senseFuses x.fuses).repaired) anyWord :=
    Blk.Frame.foldl (fun _ _ h => h.upsettTest) _ (Blk.Frame.refl _ _).repaired
  rw [htests.2.2.1, Blk.fuse_senseFuses]

/-- A retired part takes no fuse in. -/
theorem Fuse.sensed_of_retire (x : FuseIn) {f : Fuse} (h : f.retire = true) : f.sensed x = f := by
  have hs : f.state = 4 := by simp [Fuse.state, h]
  simp [Fuse.sensed, hs, blown]

theorem Fuse.dieId_sensed (f : Fuse) (x : FuseIn) (h : f.state ≠ 4) :
    (f.sensed x).dieId = if f.k = 0 then f.dieId ||| x.dieId.toNat else f.dieId := by
  have hr : f.retire = false := by
    by_contra hr
    exact h (by simp [Fuse.state, hr])
  have hk : (f.state == 0) = decide (f.k = 0) := by
    unfold Fuse.state
    by_cases h0 : f.k = 0
    · simp [hr, h0]
    · by_cases h1 : f.k = 1
      · simp [hr, h1]
      · by_cases h2 : f.k % 2 = 0 <;> simp [hr, h0, h1, h2]
  simp only [Fuse.sensed, hk, blown, decide_eq_true_eq]

/-! ### The part held (R441) -/

theorem Blk.f_hold15 (s : Blk) (cause : Nat) (x : Fld) : (s.hold15 cause).f x = ((s.setF SKN_STATUS_STEP 15).setF SKN_STATUS_HOLD_CAUSE cause).f x :=
  Blk.f_put x

theorem Blk.hold15_spec (s : Blk) {cause : Nat} (hc : cause < 4) :
    (s.hold15 cause).f SKN_STATUS_STEP = 15 ∧ (s.hold15 cause).f SKN_STATUS_HOLD_CAUSE = cause := by
  rw [Blk.f_hold15, Blk.f_hold15]
  refine ⟨?_, (Blk.f_setF_same _ _ _ (by decide) (by decide)).trans (Nat.mod_eq_of_lt hc)⟩
  rw [Blk.f_setF_ne _ _ _ _ (by decide) (by decide) (by decide) (by decide)]
  exact Blk.f_setF_same _ _ _ (by decide) (by decide)

/-- The other fields, after the part is held. -/
theorem Blk.f_hold15_ne (s : Blk) (cause : Nat) (x : Fld) (hl : x.lo ≤ x.hi) (hh : x.hi < 24)
    (hx : x.addr ≠ SKN_STATUS ∨ (x.hi < SKN_STATUS_STEP.lo ∨ SKN_STATUS_STEP.hi < x.lo) ∧ (x.hi < SKN_STATUS_HOLD_CAUSE.lo ∨ SKN_STATUS_HOLD_CAUSE.hi < x.lo)) :
    (s.hold15 cause).f x = s.f x := by
  rw [Blk.f_hold15, Blk.f_setF_ne _ _ _ _ (by decide) hl hh, Blk.f_setF_ne _ _ _ _ (by decide) hl hh]
  · rcases hx with h | ⟨h, -⟩
    · exact .inl h
    · tauto
  · rcases hx with h | ⟨-, h⟩
    · exact .inl h
    · tauto

theorem Blk.drawSession_regs (s : Blk) : s.drawSession.regs = (s.setVal ETH_MGMT_SESSION ((Config.session s.freeN).val + 1) 2).regs := rfl

theorem Blk.f_drawSession (s : Blk) (x : Fld) (hx : x.addr < ETH_MGMT_SESSION ∨ ETH_MGMT_SESSION + 2 ≤ x.addr) : s.drawSession.f x = s.f x := by
  rw [Blk.f_of_reg (Blk.reg_of_regs s.drawSession_regs _)]
  exact Blk.f_setVal_ne _ _ _ _ _ hx

/-- SESSION is drawn from 1 up (R483). -/
theorem Blk.val_drawSession (s : Blk) : s.drawSession.val ETH_MGMT_SESSION 2 ≠ 0 := by
  have h : s.drawSession.val ETH_MGMT_SESSION 2 = (s.setVal ETH_MGMT_SESSION ((Config.session s.freeN).val + 1) 2).val ETH_MGMT_SESSION 2 :=
    Blk.val_eq 2 _ _ _ fun _ _ _ => Blk.rn_of_reg (Blk.reg_of_regs s.drawSession_regs _)
  have hlt := (Config.session s.freeN).isLt
  rw [h, Blk.val_setVal_same, Nat.mod_eq_of_lt (by omega)]
  omega

theorem Blk.drawSession_eq (s : Blk) : ∃ regs n, s.drawSession = { s with regs := regs, freeN := n } := by
  unfold Blk.drawSession
  rw [Blk.setVal_eq]
  exact ⟨_, _, rfl⟩

theorem Blk.rest_drawSession (s : Blk) :
    s.drawSession.holding = s.holding ∧ s.drawSession.sys = s.sys ∧ s.drawSession.fuse = s.fuse := by
  obtain ⟨regs, n, e⟩ := s.drawSession_eq
  rw [e]
  exact ⟨rfl, rfl, rfl⟩

theorem Blk.rest_putHold (u : Blk) (y : Sys) :
    ({ u with holding := true, sys := y } : Blk).holding = true ∧ ({ u with holding := true, sys := y } : Blk).sys = y ∧
      ({ u with holding := true, sys := y } : Blk).fuse = u.fuse := ⟨rfl, rfl, rfl⟩

theorem Blk.rest_hold15 (s : Blk) (cause : Nat) :
    (s.hold15 cause).holding = true ∧ (s.hold15 cause).sys.phase = .up ∧ (s.hold15 cause).fuse = s.fuse := by
  rw [Blk.hold15]
  obtain ⟨h1, h2, h3⟩ := Blk.rest_putHold ((s.setF SKN_STATUS_STEP 15).setF SKN_STATUS_HOLD_CAUSE cause) { s.sys with phase := .up }
  refine ⟨h1, congrArg Sys.phase h2, h3.trans ?_⟩
  rw [Blk.setF_fuse, Blk.setF_fuse]

/-- What a held part shows at the end of its upsett. -/
theorem Blk.held_upsett (s : Blk) {cause : Nat} (hc : cause < 4) :
    (s.hold15 cause).drawSession.holding = true ∧ (s.hold15 cause).drawSession.f SKN_STATUS_STEP = 15 ∧
      (s.hold15 cause).drawSession.f SKN_STATUS_HOLD_CAUSE = cause ∧ (s.hold15 cause).drawSession.sys.phase = .up ∧
      (s.hold15 cause).drawSession.fuse = s.fuse := by
  obtain ⟨hstep, hcause⟩ := s.hold15_spec hc
  obtain ⟨hh, hp, hf⟩ := s.rest_hold15 cause
  obtain ⟨eh, es, ef⟩ := (s.hold15 cause).rest_drawSession
  rw [Blk.f_drawSession _ SKN_STATUS_STEP (by decide), Blk.f_drawSession _ SKN_STATUS_HOLD_CAUSE (by decide), eh, es, ef]
  exact ⟨hh, hstep, hcause, hp, hf⟩

/-! ### The checks of the copies (R437) -/

theorem copyForm_lt (c : Nat) (bs : List Byte) : copyForm c bs < 4 := by
  unfold copyForm
  extract_lets l tab
  split_ifs <;> decide

theorem copySigned_lt (h : Nat) (bs : List Byte) : copySigned h bs < 6 := by
  unfold copySigned
  extract_lets l
  split
  · extract_lets k g n
    split_ifs <;> decide
  · decide

theorem copyCause_lt (f : Fuse) (x : UpsettIn) (c : Nat) (k : SkeinCopy) : copyCause f x c k < 2 ^ 4 := by
  unfold copyCause
  extract_lets n
  have h1 : n < 4 := copyForm_lt c k.bytes
  have h2 := copySigned_lt f.keyHash k.bytes
  have h4 : 6 < 2 ^ 4 := by decide
  split_ifs
  · exact h4
  · omega
  · omega

theorem Blk.skeinChecked_spec (s : Blk) (x : UpsettIn) :
    (s.skeinChecked x).f SKN_STATUS_CAUSE0 = copyCause s.fuse x (copyRoom x) x.copy0 ∧
      (s.skeinChecked x).f SKN_STATUS_CAUSE1 = copyCause s.fuse x (copyRoom x) x.copy1 ∧ (s.skeinChecked x).fuse = s.fuse := by
  have h0 := copyCause_lt s.fuse x (copyRoom x) x.copy0
  have h1 := copyCause_lt s.fuse x (copyRoom x) x.copy1
  unfold Blk.skeinChecked
  extract_lets c n0 n1 u v
  have hu0 : u.f SKN_STATUS_CAUSE0 = n0 := by
    show (((s.wn SKN_FLASH_INFO _).setF SKN_STATUS_CAUSE0 n0).setF SKN_STATUS_CAUSE1 n1).f _ = _
    rw [Blk.f_setF_ne _ _ _ _ (by decide) (by decide) (by decide) (by decide)]
    exact (Blk.f_setF_same _ _ _ (by decide) (by decide)).trans (Nat.mod_eq_of_lt h0)
  have hu1 : u.f SKN_STATUS_CAUSE1 = n1 := (Blk.f_setF_same _ _ _ (by decide) (by decide)).trans (Nat.mod_eq_of_lt h1)
  have hr : (if n1 = 0 then v else v.raise 0x002 0 1 n1).regs = u.regs := by
    have hv : v.regs = u.regs := by
      simp only [v]
      split_ifs
      · rfl
      · exact Blk.raise_regs _ _ _ _ _
    clear_value v
    split_ifs
    · exact hv
    · exact (Blk.raise_regs _ _ _ _ _).trans hv
  refine ⟨?_, ?_, ?_⟩
  · rw [Blk.f_of_reg (Blk.reg_of_regs hr _), hu0]
  · rw [Blk.f_of_reg (Blk.reg_of_regs hr _), hu1]
  · have hu : u.fuse = s.fuse := rfl
    have hv : v.fuse = s.fuse := by
      clear_value u
      simp only [v]
      split_ifs
      · exact hu
      · exact (Blk.raise_fuse _ _ _ _ _).trans hu
    clear_value v
    split_ifs
    · exact hv
    · exact (Blk.raise_fuse _ _ _ _ _).trans hv

theorem skeinOrder_nil {f : Fuse} {x : UpsettIn} (h0 : copyCause f x (copyRoom x) x.copy0 ≠ 0) (h1 : copyCause f x (copyRoom x) x.copy1 ≠ 0) :
    skeinOrder f x = [] := by
  unfold skeinOrder
  extract_lets c c0 c1
  have e0 : c0 = [] := if_neg h0
  have e1 : c1 = [] := if_neg h1
  rw [e0, e1]
  split <;> rfl

/-- A part neither copy of whose skein passes its checks is held with cause SKEIN. -/
theorem Blk.upsettLoad_no_skein (x : UpsettIn) (hs : s.fuse.state ≠ 4) (h0 : copyCause s.fuse x (copyRoom x) x.copy0 ≠ 0)
    (h1 : copyCause s.fuse x (copyRoom x) x.copy1 ≠ 0) : s.upsettLoad x = (s.skeinChecked x).hold15 1 := by
  rw [Blk.upsettLoad, if_neg hs, Blk.loadSkein, skeinOrder_nil h0 h1]
  rfl

/-! ### Training and the wipe (R389, R441, R442) -/

theorem Blk.fb_memFatal (s : Blk) (cause : Nat) : (s.memFatal cause).fb DRM_STATUS_FATAL = true := by
  unfold Blk.memFatal
  split
  · next h => exact h
  · have hR : Blk.Roled roleWord _ _ := (Blk.Roled.refl ((s.setF DRM_STATUS_FATAL 1).raise 0xB07 0 cause (s.rn DRM_ECC_UE))).faultBit
      (x := TWN_HEALTH_MEMORY) (fun _ h => h) rfl
    rw [Blk.fb_of_reg (hR.regs _ (by decide) (roleWord_ne (by decide) (by decide) (by decide))), Blk.fb_of_reg (Blk.reg_of_regs (Blk.raise_regs _ _ _ _ _) _)]
    exact Blk.fb_setF_same _ _ _ (by decide) (by decide)

theorem Blk.trainAndWipe_fatal {x : UpsettIn} (h : (s.trainAndWipe x).2 = none) : (s.trainAndWipe x).1.fb DRM_STATUS_FATAL = true := by
  unfold Blk.trainAndWipe at h ⊢
  extract_lets a k w at h ⊢
  split
  · exact a.fb_memFatal 0
  · next hw =>
    rw [if_neg hw] at h
    cases h

/-- The words that the posting of an event writes. -/
def postWord (a : Nat) : Prop := memWord a ∨ a = RING_PROD 5 ∨ a = EVT_SUMMARY ∨ a = RING_DROPS 5 ∨ a = EVT_DROPS

theorem Blk.regsBut_postRecord (s : Blk) (e : Ev) : s.RegsBut (s.postRecord e) postWord := by
  have h := ((s.regsBut_ringPut 5 (e.words (s.severity e.code))).mono (q := postWord) fun _ h => h.imp_right .inl).count (src := 0x7C) (n := 1)
  unfold Blk.postRecord
  extract_lets sev u bit
  split
  · exact h.setF (x := ⟨EVT_SUMMARY, bit, bit⟩) (.inr (.inr (.inl rfl)))
  · exact h

theorem Blk.regsBut_postLost (s : Blk) : s.RegsBut s.postLost postWord := by
  unfold Blk.postLost
  split
  · exact .refl s _
  · split
    · next e _ => exact (Blk.RegsBut.refl s postWord).put.trans (Blk.regsBut_postRecord _ e)
    · exact .refl s _

theorem Blk.regsBut_recordEvent (s : Blk) (e : Ev) : s.RegsBut (s.recordEvent e) postWord := by
  unfold Blk.recordEvent
  extract_lets w u v
  have hu : s.RegsBut u postWord := s.regsBut_postLost
  split
  · exact .refl s _
  · split
    · have hv : s.RegsBut v postWord := ((hu.incSat (.inr (.inr (.inr (.inl rfl))))).incSat (.inr (.inr (.inr (.inr rfl))))).setF
        (x := EVT_SUMMARY_LOST) (.inr (.inr (.inl rfl)))
      exact hv.put
    · exact hu.trans (u.regsBut_postRecord e)

theorem Blk.regsBut_postEvent (s : Blk) : s.RegsBut s.postEvent postWord := by
  unfold Blk.postEvent
  split
  · exact s.regsBut_postLost
  · next e _ => exact (Blk.RegsBut.refl s postWord).put.trans (Blk.regsBut_recordEvent _ e)

theorem Blk.regsBut_postEvents (n : Nat) (s : Blk) : s.RegsBut (Blk.postEvents n s) postWord := by
  induction n generalizing s with
  | zero => exact .refl s _
  | succ n ih =>
    rw [Blk.postEvents]
    split
    · exact .refl s _
    · exact s.regsBut_postEvent.trans (ih _)

theorem Blk.trainAndWipe_wiped {x : UpsettIn} {k : Nat} (h : (s.trainAndWipe x).2 = some k) : (s.trainAndWipe x).1.fb DRM_STATUS_WIPED = true := by
  unfold Blk.trainAndWipe at h ⊢
  extract_lets a l w at h ⊢
  split
  · next hw =>
    rw [if_pos hw] at h
    cases h
  · have hc : ¬postWord DRM_STATUS := by
      unfold postWord memWord
      decide
    rw [Blk.fb_of_reg (Blk.regsBut_postEvents 16 _ _ (by decide) hc), Blk.fb_put]
    exact Blk.fb_setF_same _ _ _ (by decide) (by decide)

theorem Blk.held_fatal (h : s.fb DRM_STATUS_FATAL = true) : (s.hold15 2).drawSession.holding = true ∧
    (s.hold15 2).drawSession.f SKN_STATUS_HOLD_CAUSE = 2 ∧ (s.hold15 2).drawSession.fb DRM_STATUS_FATAL = true := by
  obtain ⟨hhold, -, hcause, -, -⟩ := s.held_upsett (cause := 2) (by decide)
  refine ⟨hhold, hcause, ?_⟩
  rw [Blk.fb] at h ⊢
  rwa [Blk.f_drawSession _ _ (by decide), Blk.f_hold15_ne _ _ _ (by decide) (by decide) (.inl (by decide))]

theorem Blk.upsettLoad_skein (x : UpsettIn) {st : Option (Bool × Nat)} (hs : s.fuse.state ≠ 4) (h : (s.loadSkein x).2 = some st) :
    s.upsettLoad x = (s.loadSkein x).1.upsettWipe x st := by
  rw [Blk.upsettLoad, if_neg hs]
  generalize s.loadSkein x = l at h
  obtain ⟨u, o⟩ := l
  subst h
  rfl

theorem Blk.upsettWipe_none (x : UpsettIn) (st : Option (Bool × Nat)) (h : (s.loaded.trainAndWipe x).2 = none) :
    s.upsettWipe x st = (s.loaded.trainAndWipe x).1.hold15 2 := by
  rw [Blk.upsettWipe]
  generalize s.loaded.trainAndWipe x = w at h
  obtain ⟨u, o⟩ := w
  subst h
  rfl

theorem Blk.upsettWipe_some (x : UpsettIn) (st : Option (Bool × Nat)) {k : Nat} (h : (s.loaded.trainAndWipe x).2 = some k) :
    s.upsettWipe x st = (s.loaded.trainAndWipe x).1.upsettEnd x st k := by
  rw [Blk.upsettWipe]
  generalize s.loaded.trainAndWipe x = w at h
  obtain ⟨u, o⟩ := w
  subst h
  rfl

theorem upsett_ready (x : UpsettIn) (h : s.sys.phase = .ready) : upsett x s = ((s.upsettFirst x).upsettLoad x).drawSession :=
  if_neg (not_not.2 h)

theorem Fuse.state_sensed (f : Fuse) (x : FuseIn) : (f.sensed x).state = f.state := rfl

/-- The end of the upsett of a retired part. -/
theorem Blk.upsettLoad_retired (x : UpsettIn) (h : s.fuse.state = 4) : s.upsettLoad x = s.hold15 3 := if_pos h

/-- What a part with neither copy valid shows at the end of its upsett. -/
theorem Blk.held_no_skein (u : Blk) (x : UpsettIn) :
    ((u.skeinChecked x).hold15 1).drawSession.holding = true ∧ ((u.skeinChecked x).hold15 1).drawSession.f SKN_STATUS_STEP = 15 ∧
      ((u.skeinChecked x).hold15 1).drawSession.f SKN_STATUS_HOLD_CAUSE = 1 ∧
      ((u.skeinChecked x).hold15 1).drawSession.f SKN_STATUS_CAUSE0 = copyCause u.fuse x (copyRoom x) x.copy0 ∧
      ((u.skeinChecked x).hold15 1).drawSession.f SKN_STATUS_CAUSE1 = copyCause u.fuse x (copyRoom x) x.copy1 ∧
      ((u.skeinChecked x).hold15 1).drawSession.sys.phase = .up ∧ ((u.skeinChecked x).hold15 1).drawSession.fuse = u.fuse := by
  obtain ⟨hc0, hc1, hcf⟩ := u.skeinChecked_spec x
  generalize u.skeinChecked x = v at hc0 hc1 hcf
  obtain ⟨hhold, hstep, hcause, hup, hfu⟩ := v.held_upsett (cause := 1) (by decide)
  rw [Blk.f_drawSession _ SKN_STATUS_CAUSE0 (by decide), Blk.f_drawSession _ SKN_STATUS_CAUSE1 (by decide),
    Blk.f_hold15_ne _ _ SKN_STATUS_CAUSE0 (by decide) (by decide) (.inr (by decide)),
    Blk.f_hold15_ne _ _ SKN_STATUS_CAUSE1 (by decide) (by decide) (.inr (by decide))]
  exact ⟨hhold, hstep, hcause, hc0, hc1, hup, hfu.trans hcf⟩

theorem completes_upsett {x : UpsettIn} {s : State} {p : Blk → Prop} (h : p (upsett x s.blk)) : Completes (.upsett x) s p :=
  .of_always (f := upsett x) rfl h

section

variable {x : UpsettIn} {z : State} {u : Blk} (hgo : upsett x z.blk = (u.upsettLoad x).drawSession)
include hgo

theorem upsett_retired (h : u.fuse.state = 4) : Completes (.upsett x) z fun b =>
    b.holding = true ∧ b.f SKN_STATUS_STEP = 15 ∧ b.f SKN_STATUS_HOLD_CAUSE = 3 ∧ b.sys.phase = .up ∧ b.fuse = u.fuse ∧
      b.val ETH_MGMT_SESSION 2 ≠ 0 := by
  refine completes_upsett ?_
  rw [hgo, u.upsettLoad_retired x h]
  obtain ⟨hhold, hstep, hcause, hup, hfu⟩ := u.held_upsett (cause := 3) (by decide)
  exact ⟨hhold, hstep, hcause, hup, hfu, Blk.val_drawSession _⟩

theorem upsett_no_skein (h : u.fuse.state ≠ 4) (h0 : copyCause u.fuse x (copyRoom x) x.copy0 ≠ 0)
    (h1 : copyCause u.fuse x (copyRoom x) x.copy1 ≠ 0) : Completes (.upsett x) z fun b =>
      b.holding = true ∧ b.f SKN_STATUS_STEP = 15 ∧ b.f SKN_STATUS_HOLD_CAUSE = 1 ∧ b.f SKN_STATUS_CAUSE0 = copyCause u.fuse x (copyRoom x) x.copy0 ∧
        b.f SKN_STATUS_CAUSE1 = copyCause u.fuse x (copyRoom x) x.copy1 ∧ b.sys.phase = .up ∧ b.fuse = u.fuse := by
  refine completes_upsett ?_
  rw [hgo, Blk.upsettLoad_no_skein x h h0 h1]
  exact u.held_no_skein x

theorem upsett_fatal {st : Option (Bool × Nat)} (h : u.fuse.state ≠ 4) (hl : (u.loadSkein x).2 = some st)
    (hw : ((u.loadSkein x).1.loaded.trainAndWipe x).2 = none) : Completes (.upsett x) z fun b =>
      b.holding = true ∧ b.f SKN_STATUS_HOLD_CAUSE = 2 ∧ b.fb DRM_STATUS_FATAL = true := by
  refine completes_upsett ?_
  rw [hgo, Blk.upsettLoad_skein x h hl, Blk.upsettWipe_none x st hw]
  exact Blk.held_fatal (Blk.trainAndWipe_fatal hw)

theorem upsett_to_work {st : Option (Bool × Nat)} {k : Nat} (h : u.fuse.state ≠ 4) (hl : (u.loadSkein x).2 = some st)
    (hw : ((u.loadSkein x).1.loaded.trainAndWipe x).2 = some k) : Completes (.upsett x) z fun b =>
      b = (((u.loadSkein x).1.loaded.trainAndWipe x).1.upsettEnd x st k).drawSession ∧ b.val ETH_MGMT_SESSION 2 ≠ 0 := by
  refine completes_upsett ?_
  rw [hgo, Blk.upsettLoad_skein x h hl, Blk.upsettWipe_some x st hw]
  exact ⟨rfl, Blk.val_drawSession _⟩

end

/-- Settles O48: the fuses after step 0, and a lemma for each end of the upsett. -/
theorem startUp : Obligations.StartUp := by
  intro s x hph
  have hfuse := s.blk.fuse_upsettFirst x
  have hgo := upsett_ready x hph
  generalize s.blk.upsettFirst x = u at hfuse hgo ⊢
  constructor
  · intro hret
    have hf : u.fuse = s.blk.fuse := hfuse.trans (Fuse.sensed_of_retire x.fuses hret)
    have h := upsett_retired hgo (by rw [hf, Fuse.state, if_pos hret])
    rwa [hf] at h
  · intro hne
    have hst : u.fuse.state ≠ 4 := by rwa [hfuse, Fuse.state_sensed]
    exact ⟨(congrArg Fuse.dieId hfuse).trans (Fuse.dieId_sensed s.blk.fuse x.fuses hne), upsett_no_skein hgo hst, fun st hl =>
      ⟨upsett_fatal hgo hst hl, fun k hw => ⟨Blk.trainAndWipe_wiped hw, upsett_to_work hgo hst hl hw⟩⟩⟩

end Sys2Proof.Machine
end

section
/-!
PROOFS. Entries taken from a ring (R486, R290), the entries of ring 10 (R487), event records (R489 to R492) and GIO edges (R493).
-/

namespace Sys2Proof.Machine

variable {r s t : Blk} {p : Nat → Prop}

/-! ### An entry taken from a ring -/

theorem Blk.evq_imgWrite_prefix (s : Blk) (q a : Nat) (bs : List Byte) : s.evq <+: (s.imgWrite q a bs).evq := by
  rw [Blk.imgWrite, Blk.memWrites_eq]
  exact (s.accessed_access q a bs.length true).events

theorem Blk.evq_ringPut_prefix (s : Blk) (k : Nat) (ws : List Nat) : s.evq <+: (s.ringPut k ws).evq := by
  rw [Blk.ringPut, Blk.wn_evq]
  exact s.evq_imgWrite_prefix _ _ _

theorem Blk.evq_ringPop_prefix (s : Blk) (k : Nat) : s.evq <+: (s.ringPop k).evq := by
  rw [Blk.ringPop, Blk.wn_evq]
  exact (s.accessed_access _ _ _ _).events

/-- The words that taking an entry of ring `k` writes: the memory's status, the index, the mirror of the entry and the messages to the partner. -/
def takenWord (k a : Nat) : Prop := memWord a ∨ pairWord a ∨ a = RING_CONS k ∨ a = RING_PROD 12 ∨ a = RING_CONS 12

/-- Below the credits of WALE1 no word but one of the memory's is written. -/
theorem not_takenWord_low (k : Nat) {a : Nat} (h : a < 0x110140) : ¬takenWord k a := by
  simp only [takenWord, memWord, pairWord, DRM_PWR_STATUS, DRM_RD_STATUS, WAL_LINK_STATUS, WAL_CREDIT_STALLS, RING_CONS, RING_PROD]
  omega

/-- What taking entries of ring `k` takes `r` to. -/
structure Blk.Taken (k : Nat) (r s : Blk) : Prop where
  rest : ∃ regs evq out wires ports twn lanes links dram mem,
    s = { r with regs := regs, evq := evq, out := out, wires := wires, ports := ports, twn := twn, lanes := lanes, links := links, dram := dram, mem := mem }
  regs : r.RegsBut s (takenWord k)
  events : r.evq <+: s.evq

namespace Blk.Taken

variable {k : Nat}

theorem trans (h : r.Taken k s) (g : s.Taken k t) : r.Taken k t := by
  obtain ⟨⟨_, _, _, _, _, _, _, _, _, _, e⟩, hr, hq⟩ := h
  obtain ⟨⟨_, _, _, _, _, _, _, _, _, _, e'⟩, hr', hq'⟩ := g
  exact ⟨⟨_, _, _, _, _, _, _, _, _, _, by rw [e', e]⟩, hr.trans hr', hq.trans hq'⟩

theorem ringPop (s : Blk) {j : Nat} (hj : j = k ∨ j = 12) : s.Taken k (s.ringPop j) := by
  obtain ⟨regs, evq, dram, e⟩ := s.ringPop_eq j
  refine ⟨⟨regs, evq, s.out, s.wires, s.ports, s.twn, s.lanes, s.links, dram, s.mem, e⟩, (s.frame_ringPop j).1.mono fun a h => ?_, s.evq_ringPop_prefix j⟩
  rcases h with h | rfl
  · exact .inl h
  · rcases hj with rfl | rfl
    · exact .inr (.inr (.inl rfl))
    · exact .inr (.inr (.inr (.inr rfl)))

theorem ringPut (s : Blk) (ws : List Nat) : s.Taken k (s.ringPut 12 ws) := by
  obtain ⟨regs, evq, dram, mem, e⟩ := s.ringPut_eq 12 ws
  exact ⟨⟨regs, evq, s.out, s.wires, s.ports, s.twn, s.lanes, s.links, dram, mem, e⟩,
    (s.regsBut_ringPut 12 ws).mono fun a h => h.imp_right fun h => .inr (.inr (.inl h)), s.evq_ringPut_prefix 12 ws⟩

theorem roled (h : s.Roled pairWord t) : s.Taken k t := by
  obtain ⟨⟨regs, evq, out, wires, ports, twn, lanes, links, e⟩, hr, hq⟩ := h
  exact ⟨⟨regs, evq, out, wires, ports, twn, lanes, links, s.dram, s.mem, e⟩, hr.mono fun _ h => .inr (.inl h), hq⟩

/-- The pieces of state that stay. -/
theorem kept (h : r.Taken k s) : s.fuse = r.fuse ∧ s.sys = r.sys ∧ s.bst = r.bst ∧ s.ins = r.ins ∧ s.cmp = r.cmp ∧ s.held = r.held ∧ s.now = r.now ∧
    s.sto = r.sto ∧ s.acc = r.acc ∧ s.axes = r.axes ∧ s.streams = r.streams := by
  obtain ⟨⟨_, _, _, _, _, _, _, _, _, _, e⟩, -, -⟩ := h
  rw [e]
  exact ⟨rfl, rfl, rfl, rfl, rfl, rfl, rfl, rfl, rfl, rfl, rfl⟩

theorem reg_low (h : r.Taken k s) {a : Nat} (ha : a < 0x110140) : s.reg a = r.reg a :=
  h.regs a (cntWord_low (by omega)) (not_takenWord_low k ha)

theorem reg (h : r.Taken k s) {a : Nat} (hc : cntWord a = false) (hp : ¬takenWord k a) : s.reg a = r.reg a := h.regs a hc hp

theorem allIdle (h : r.Taken k s) : s.allIdle = r.allIdle :=
  h.regs.allIdle fun t ht => not_takenWord_low k (by simp only [PGE_TRK_STATUS]; omega)

end Blk.Taken

theorem Blk.taken_takeFront {k : Nat} (h : s.mirrored k = none) : s.Taken k (s.takeFront k) := by
  have h0 : s.Taken k (s.ringPop k) := .ringPop s (.inl rfl)
  simp only [Blk.takeFront, h]
  split
  · refine ((h0.trans (.ringPut _ (s.ringFront k))).trans (.ringPop _ (.inr rfl))).trans (.roled ?_)
    exact ((Blk.Roled.refl _).pairOut fun _ h => h).pairOut fun _ h => h
  · exact h0

/-- The index moves on by one. -/
theorem Blk.rn_takeFront_cons {k : Nat} (h : s.mirrored k = none) (hk : k < 12) :
    (s.takeFront k).rn (RING_CONS k) = (s.rn (RING_CONS k) + 1) % 2 ^ 24 := by
  have hc : cntWord (RING_CONS k) = false := cntWord_high (by simp only [RING_CONS]; omega)
  simp only [Blk.takeFront, h]
  split
  · have hm : ¬(memWord (RING_CONS k) ∨ RING_CONS k = RING_PROD 12) ∧ ¬(memWord (RING_CONS k) ∨ RING_CONS k = RING_CONS 12) ∧ ¬pairWord (RING_CONS k) := by
      simp only [memWord, pairWord, RING_CONS, RING_PROD, DRM_PWR_STATUS, DRM_RD_STATUS, WAL_LINK_STATUS, WAL_CREDIT_STALLS]
      omega
    obtain ⟨h1, h2, h3⟩ := hm
    generalize hu : s.ringPop k = u
    have hR := ((Blk.Roled.refl ((u.ringPut 12 (s.ringFront k)).ringPop 12)).pairOut (ws := mirrorWords k u.fireNum (s.ringFront k) 0)
      fun a (h : pairWord a) => h).pairOut (ws := mirrorWords k u.fireNum (s.ringFront k) 1) fun a h => h
    rw [hR.regs.rn hc h3, (Blk.frame_ringPop _ 12).1.rn hc h2, (u.regsBut_ringPut 12 _).rn hc h1, ← hu]
    exact s.rn_ringPop_cons k
  · exact s.rn_ringPop_cons k

/-! ### Entries of ring 10 (R487) -/

theorem Blk.take10_of {k : Nat} (h : s.RingTen k) (act : List Nat → Blk → Blk) :
    s.take10 k act = (act (s.ringFront 10) (s.takeFront 10)).settle := by
  obtain ⟨hm, hmay, hk, -⟩ := h
  have hn : s.nextEntry 10 = s.ringFront 10 := by rw [Blk.nextEntry, hm]
  simp only [Blk.take10, hmay, Bool.not_true, Bool.false_eq_true, if_false, hn, hk, if_true]

/-- An entry is taken by an operation that leaves the tracks and the index alone. -/
theorem Completes.take10 {c : Instr} {z : State} {k : Nat} {act : List Nat → Blk → Blk} {q : Blk → Prop}
    (hc : exec c z = z.on fun b => b.take10 k act) (ha : z.blk.alive = true) (h : z.blk.RingTen k)
    (hp : ∀ t, z.blk.Taken 10 t → q (act (z.blk.ringFront 10) t) ∧
      t.RegsBut (act (z.blk.ringFront 10) t) fun a => ∀ j, j < 4 → a ≠ PGE_TRK_STATUS j ∧ a ≠ RING_CONS 10) :
    Completes c z fun b => z.blk.Took10 b ∧ q b := by
  have hT := Blk.taken_takeFront h.1
  have hcons := Blk.rn_takeFront_cons h.1 (by decide)
  obtain ⟨hq, hR⟩ := hp _ hT
  have hi : (act (z.blk.ringFront 10) (z.blk.takeFront 10)).allIdle = false :=
    (hR.allIdle fun j hj g => (g j hj).1 rfl).trans (hT.allIdle.trans h.2.2.2)
  refine .of_on (f := fun b => b.take10 k act) hc ha ?_
  show z.blk.Took10 (z.blk.take10 k act) ∧ q (z.blk.take10 k act)
  rw [Blk.take10_of h, Blk.settle_of_busy hi]
  exact ⟨(hR.rn (by decide) fun g => (g 0 (by decide)).2 rfl).trans hcons, hq⟩

theorem word24_lt (ws : List Nat) (i : Nat) : word24 ws i < 2 ^ 24 := Nat.mod_lt _ (by decide)

theorem Blk.word10_eq (s : Blk) (i : Nat) : s.word10 i = word24 (s.ringFront 10) i := rfl

theorem selfTest_taken {z : State} (ha : z.blk.alive = true) (h : z.blk.RingTen 1) (hr : z.blk.fuse.repair = none) (hp : z.blk.bst.phase ≠ 0) :
    Completes .selfTest z fun b => z.blk.Took10 b ∧ b.rn BST_REQ = z.blk.rn BST_REQ ||| z.blk.word10 1 % 2 ^ 13 := by
  refine .take10 (act := fun ws => bstReq (BitVec.ofNat 24 (word24 ws 1))) rfl ha h fun t hT => ?_
  obtain ⟨hf, -, hb, -⟩ := hT.kept
  obtain ⟨hrn, -, hO⟩ := bstReq_waits (s := t) (BitVec.ofNat 24 (word24 (z.blk.ringFront 10) 1)) (by rw [hf]; exact hr) (by rw [hb]; exact hp)
  refine ⟨?_, hO.regsBut.mono fun a ha j hj => ?_⟩
  · rw [hrn, BitVec.toNat_ofNat, Nat.mod_eq_of_lt (word24_lt _ _), Blk.rn_of_reg (hT.reg (by decide) (by unfold takenWord memWord pairWord; decide)),
      Blk.word10_eq]
  · simp only [BST_REQ, BST_STATUS, PGE_TRK_STATUS, RING_CONS] at *
    omega

theorem cancelTest_taken {z : State} (ha : z.blk.alive = true) (h : z.blk.RingTen 2) (hp : z.blk.bst.phase = 0)
    (hb : z.blk.fb BST_STATUS_BUSY = false) : Completes .cancelTest z fun b => z.blk.Took10 b ∧ b.rn BST_REQ = 0 := by
  refine .take10 (act := fun _ => bstCancel) rfl ha h fun t hT => ?_
  obtain ⟨-, -, hbst, -⟩ := hT.kept
  obtain ⟨hrn, -, hF⟩ := bstCancel_clears (s := t) (by rw [hbst]; exact hp)
    ((Blk.fb_of_reg (hT.reg (by decide) (by unfold takenWord memWord pairWord; decide))).trans hb)
  refine ⟨hrn, hF.1.mono fun a ha j hj => ?_⟩
  simp only [BST_REQ, PGE_TRK_STATUS, RING_CONS] at *
  omega

theorem trim_taken {z : State} (ha : z.blk.alive = true) (h : z.blk.RingTen 4) :
    Completes .trim z fun b => z.blk.Took10 b ∧ b.rn TRM_REQ = z.blk.rn TRM_REQ ||| z.blk.word10 1 % 64 := by
  refine .take10 (act := fun ws => trmReq (BitVec.ofNat 24 (word24 ws 1))) rfl ha h fun t hT => ⟨?_, ?_⟩
  · have hlt : word24 (z.blk.ringFront 10) 1 % 64 < 2 ^ 24 := by omega
    rw [trmReq, Blk.rn_wn_same, BitVec.toNat_ofNat, Nat.mod_eq_of_lt (word24_lt _ _), Nat.mod_eq_of_lt (Nat.or_lt_two_pow (Blk.rn_lt t _) hlt),
      Blk.rn_of_reg (hT.reg (by decide) (by unfold takenWord memWord pairWord; decide)), Blk.word10_eq]
  · refine ((Blk.RegsBut.refl t (· = TRM_REQ)).wn rfl).mono fun a ha j hj => ?_
    simp only [TRM_REQ, PGE_TRK_STATUS, RING_CONS] at *
    omega

/-- A write of AXS_CTRL with no bit set does nothing. -/
theorem axisCtrl_zero (n : Nat) (s : Blk) : axisCtrl n 0 s = s := rfl

theorem axis_taken {z : State} (ha : z.blk.alive = true) (h : z.blk.RingTen 5) (hn : z.blk.word10 1 % 8 < 6) (hb : bitOf (z.blk.word10 1) 3 = true)
    (h0 : z.blk.word10 2 = 0) : Completes .axis z fun b =>
      z.blk.Took10 b ∧ b.val (AXS_TARGET (z.blk.word10 1 % 8)) 2 = z.blk.word10 3 + 2 ^ 24 * z.blk.word10 4 := by
  refine .take10 (act := axisEntry) rfl ha h fun t _ => ?_
  have h3 := word24_lt (z.blk.ringFront 10) 3
  have h4 := word24_lt (z.blk.ringFront 10) 4
  simp only [Blk.word10_eq] at hn hb h0 ⊢
  have heq : axisEntry (z.blk.ringFront 10) t = t.setVal (AXS_TARGET (word24 (z.blk.ringFront 10) 1 % 8))
      (word24 (z.blk.ringFront 10) 3 + 2 ^ 24 * word24 (z.blk.ringFront 10) 4) 2 := by
    simp only [axisEntry, if_neg (show ¬5 < word24 (z.blk.ringFront 10) 1 % 8 by omega), hb, if_true, h0, axisCtrl_zero]
  rw [heq]
  refine ⟨(Blk.val_setVal_same _ _ _ _).trans (Nat.mod_eq_of_lt (by omega)), ?_⟩
  refine ((Blk.RegsBut.refl t fun a => a = AXS_TARGET _ ∨ a = AXS_TARGET _ + 1).setVal2 (.inl rfl) (.inr rfl)).mono fun a ha j hj => ?_
  simp only [AXS_TARGET, PGE_TRK_STATUS, RING_CONS] at *
  omega

theorem axis_rejected {z : State} (ha : z.blk.alive = true) (h : z.blk.RingTen 5) (hn : 6 ≤ z.blk.word10 1 % 8) :
    Completes .axis z fun b => z.blk.Took10 b ∧ ∃ d0 d1, z.blk.Raised b 0xE03 0 d0 d1 := by
  refine .take10 (act := axisEntry) rfl ha h fun t hT => ?_
  have heq : axisEntry (z.blk.ringFront 10) t = t.commandReject (z.blk.ringFront 10) := if_pos (show 5 < z.blk.word10 1 % 8 by omega)
  rw [heq, Blk.commandReject]
  have hk : bits ((z.blk.ringFront 10).getD 0 0) 23 20 < 2 ^ 4 := bits_lt _ _ _
  obtain ⟨d, hd⟩ := Blk.exists_raised (s := t) (r := t) rfl 0xE03 (i := 0)
    (d0 := bits ((z.blk.ringFront 10).getD 0 0) 23 20 * 2 ^ 20 + (z.blk.ringFront 10).getD 1 0 % 8) (d1 := (z.blk.ringFront 10).getD 7 0) (by decide) (by omega)
  exact ⟨⟨_, d, hd.of_left hT.events⟩, (Blk.RegsBut.refl t _).put⟩

/-! #### TEST_PAGE -/

theorem wordInfo_tpCfg : wordInfo ALN_TP_CFG = some ⟨ALN_TP_CFG, 0, 1, .none, 0xf7ff07, 0, 0, 0, 0⟩ := by decide

theorem wordInfo_tpTag : wordInfo ALN_TP_TAG = some ⟨ALN_TP_TAG, 0, 1, .none, 0xffffff, 0, 0, 0, 0⟩ := by decide

/-- A write of a word whose bits are all RW or nothing. -/
theorem Blk.putWord_of_rw {a v : Nat} {i : WordInfo} (h : wordInfo a = some i) (hb : i.rwb = 0) (hc : i.w1c = 0) (hs : i.w1s = 0) :
    s.OnlyRegs (s.putWord a v) (· = a) ∧ (s.putWord a v).reg a = mixBits (s.reg a) (BitVec.ofNat 24 v) i.rw := by
  have h0 : ∀ x y : Word, (x &&& ~~~(y &&& 0#24)) ||| (y &&& 0#24) = x := fun x y => by
    rw [BitVec.and_zero, BitVec.or_zero, show ~~~(0#24) = BitVec.allOnes 24 by decide, BitVec.and_allOnes]
  have heq : s.putWord a v = if mixBits (s.reg a) (BitVec.ofNat 24 v) i.rw = s.reg a then s
      else s.setReg a (mixBits (s.reg a) (BitVec.ofNat 24 v) i.rw) := by
    simp only [Blk.putWord, h, Blk.applyWord, hb, hc, hs, if_true]
    erw [h0]
  rw [heq]
  split
  case isTrue g => exact ⟨.refl s _, g.symm⟩
  case isFalse g => exact ⟨(Blk.OnlyRegs.refl s (· = a)).setReg rfl, Blk.reg_setReg_same _ _ _⟩

theorem mixBits_allOnes (x y : Word) : mixBits x y 0xffffff = y := by
  rw [mixBits, show (0xffffff : Word) = BitVec.allOnes 24 by decide, BitVec.and_allOnes, BitVec.not_allOnes, BitVec.and_zero, BitVec.zero_or]

/-- The track of a TEST_PAGE entry is its two top bits. -/
theorem bits_mixBits_track (x y : Word) : bits (mixBits x y 0xf7ff07).toNat 23 22 = y.toNat / 2 ^ 22 := by
  have hy : y >>> 22 &&& 3#24 = y >>> 22 := BitVec.eq_of_toNat_eq (by
    have hlt := y.isLt
    rw [BitVec.toNat_and, BitVec.toNat_ushiftRight, Nat.shiftRight_eq_div_pow, show (3#24).toNat = 2 ^ 2 - 1 by decide, Nat.and_two_pow_sub_one_eq_mod]
    omega)
  have h : mixBits x y 0xf7ff07 >>> 22 = y >>> 22 := by
    rw [mixBits, BitVec.ushiftRight_or_distrib, BitVec.ushiftRight_and_distrib, BitVec.ushiftRight_and_distrib,
      show (~~~(0xf7ff07 : Word)) >>> 22 = 0#24 by decide, show (0xf7ff07 : Word) >>> 22 = 3#24 by decide, hy, BitVec.and_zero, BitVec.zero_or]
  have hn := congrArg BitVec.toNat h
  rw [BitVec.toNat_ushiftRight, BitVec.toNat_ushiftRight, Nat.shiftRight_eq_div_pow, Nat.shiftRight_eq_div_pow] at hn
  have hlt := y.isLt
  rw [bits, hn, Nat.mod_eq_of_lt (by omega)]

/-- The registers of a test page with an entry's words. -/
def Blk.tpWritten (s : Blk) (w tag : Nat) : Blk := (s.putWord ALN_TP_CFG w).putWord ALN_TP_TAG tag

theorem Blk.tpWritten_spec (s : Blk) {w tag : Nat} (hw : w < 2 ^ 24) (ht : tag < 2 ^ 24) :
    (s.tpWritten w tag).f ALN_TP_CFG_TRACK = w / 2 ^ 22 ∧ (s.tpWritten w tag).rn ALN_TP_TAG = tag ∧
      s.OnlyRegs (s.tpWritten w tag) fun a => a = ALN_TP_CFG ∨ a = ALN_TP_TAG := by
  obtain ⟨hO, hc⟩ := s.putWord_of_rw (v := w) wordInfo_tpCfg rfl rfl rfl
  obtain ⟨hO', ht'⟩ := (s.putWord ALN_TP_CFG w).putWord_of_rw (v := tag) wordInfo_tpTag rfl rfl rfl
  refine ⟨?_, ?_, ?_⟩
  · have hreg : (s.tpWritten w tag).reg ALN_TP_CFG = mixBits (s.reg ALN_TP_CFG) (BitVec.ofNat 24 w) 0xf7ff07 := (hO'.2 _ (by decide)).trans hc
    rw [Blk.f, Blk.rn, hreg, bits_mixBits_track, BitVec.toNat_ofNat, Nat.mod_eq_of_lt hw]
  · have hreg : (s.tpWritten w tag).reg ALN_TP_TAG = BitVec.ofNat 24 tag := ht'.trans (mixBits_allOnes _ _)
    rw [Blk.rn, hreg, BitVec.toNat_ofNat, Nat.mod_eq_of_lt ht]
  · have h1 : (s.tpWritten w tag) = { s.putWord ALN_TP_CFG w with regs := (s.tpWritten w tag).regs } := hO'.1
    refine ⟨by rw [h1, hO.1], fun a ha => ?_⟩
    rw [not_or] at ha
    exact (hO'.2 a ha.2).trans (hO.2 a ha.1)

/-- A request that nothing stands against. -/
theorem Blk.tpRequest_accepted (w tag : Nat) (hn : s.ins.tp = none) (hs : s.shuttle = false) (hc : ∃ c, c < 4 ∧ s.camUp c = true) (hr : 1 < s.maxRows) :
    s.tpRequest w tag = ({ s with ins := { s.ins with tp := some ⟨w, tag, none, 0, [], [], []⟩ } } : Blk).setF ALN_TP_STATUS_PENDING 1 := by
  have hup : [0, 1, 2, 3].any s.camUp = true := by
    obtain ⟨c, h4, hc⟩ := hc
    exact List.any_eq_true.2 ⟨c, by simp only [List.mem_cons, List.not_mem_nil, or_false]; omega, hc⟩
  simp only [Blk.tpRequest, hn, hs, hup, Option.isSome_none, Bool.false_eq_true, if_false, Bool.not_true]
  rw [if_neg (by omega)]

theorem Blk.maxRows_of_reg (h : ∀ n, n < 32 → s.reg (CMP_HEAD_CFG n) = r.reg (CMP_HEAD_CFG n)) : s.maxRows = r.maxRows := by
  have hr {n : Nat} (hn : n < 32) : s.rows n = r.rows n := by rw [Blk.rows, Blk.f_of_reg (h n hn), Blk.rows]
  have ho {n : Nat} (hn : n < 32) : s.headOn n = r.headOn n := by
    rw [Blk.headOn, Blk.fb_of_reg (h n hn), Blk.slots, hr hn, Blk.npr, Blk.f_of_reg (h n hn), Blk.headOn, Blk.slots, Blk.npr]
  rw [Blk.maxRows, List.filter_congr fun n hn => ho (List.mem_range.1 hn), List.map_congr_left fun n hn => hr (List.mem_range.1 (List.mem_filter.1 hn).1),
    Blk.maxRows]

theorem testPage_taken {z : State} (ha : z.blk.alive = true) (h : z.blk.RingTen 3) (hn : z.blk.ins.tp = none) (hs : z.blk.shuttle = false)
    (hc : ∃ c, c < 4 ∧ z.blk.camUp c = true) (hr : 1 < z.blk.maxRows) : Completes .testPage z fun b =>
      z.blk.Took10 b ∧ b.fb ALN_TP_STATUS_PENDING = true ∧ b.f ALN_TP_CFG_TRACK = z.blk.word10 1 / 2 ^ 22 ∧ b.rn ALN_TP_TAG = z.blk.word10 2 ∧
        b.ins.tp = some ⟨b.rn ALN_TP_CFG, b.rn ALN_TP_TAG, none, 0, [], [], []⟩ := by
  refine .take10 (act := testPageEntry) rfl ha h fun t hT => ?_
  have hreg {a : Nat} (h0 : a < 0x110140) (hc : a ≠ ALN_TP_CFG) (ht : a ≠ ALN_TP_TAG) :
      (t.tpWritten (z.blk.word10 1) (z.blk.word10 2)).reg a = z.blk.reg a :=
    ((t.tpWritten_spec (word24_lt _ _) (word24_lt _ _)).2.2.2 a (not_or.2 ⟨hc, ht⟩)).trans (hT.reg_low h0)
  obtain ⟨htrack, htag, hO⟩ := t.tpWritten_spec (w := z.blk.word10 1) (tag := z.blk.word10 2) (word24_lt _ _) (word24_lt _ _)
  obtain ⟨-, -, -, hins, -⟩ := hT.kept
  have hu : testPageEntry (z.blk.ringFront 10) t = (t.tpWritten (z.blk.word10 1) (z.blk.word10 2)).tpRequest
    ((t.tpWritten (z.blk.word10 1) (z.blk.word10 2)).rn ALN_TP_CFG) ((t.tpWritten (z.blk.word10 1) (z.blk.word10 2)).rn ALN_TP_TAG) := rfl
  have hinsu : (t.tpWritten (z.blk.word10 1) (z.blk.word10 2)).ins.tp = none := by rw [hO.1]; exact (congrArg Ins.tp hins).trans hn
  rw [hu]
  have hR := hO.regsBut
  generalize t.tpWritten (z.blk.word10 1) (z.blk.word10 2) = u at *
  have hcam : ∃ c, c < 4 ∧ u.camUp c = true := by
    obtain ⟨c, h4, hc⟩ := hc
    refine ⟨c, h4, ?_⟩
    rwa [Blk.camUp, Blk.camState, Blk.f_of_reg (hreg (by simp only [INS_CAM_STATUS]; omega) (by simp only [INS_CAM_STATUS, ALN_TP_CFG]; omega)
      (by simp only [INS_CAM_STATUS, ALN_TP_TAG]; omega))]
  have hrows : u.maxRows = z.blk.maxRows := Blk.maxRows_of_reg fun n hn =>
    hreg (by simp only [CMP_HEAD_CFG]; omega) (by simp only [CMP_HEAD_CFG, ALN_TP_CFG]; omega) (by simp only [CMP_HEAD_CFG, ALN_TP_TAG]; omega)
  rw [Blk.tpRequest_accepted _ _ hinsu ((Blk.fb_of_reg (hreg (by decide) (by decide) (by decide))).trans hs) hcam (by rwa [hrows])]
  generalize hv : ({ u with ins := { u.ins with tp := some ⟨u.rn ALN_TP_CFG, u.rn ALN_TP_TAG, none, 0, [], [], []⟩ } } : Blk) = v
  have hvr : ∀ a, v.reg a = u.reg a := fun a => by rw [← hv, Blk.reg_put]
  have hvi : v.ins.tp = some ⟨u.rn ALN_TP_CFG, u.rn ALN_TP_TAG, none, 0, [], [], []⟩ := by rw [← hv]
  have hne {a : Nat} (h : a ≠ ALN_TP_STATUS) : (v.setF ALN_TP_STATUS_PENDING 1).reg a = u.reg a := (Blk.reg_setF_ne _ _ _ h).trans (hvr a)
  rw [Blk.rn_of_reg (hne (a := ALN_TP_CFG) (by decide)), Blk.rn_of_reg (hne (a := ALN_TP_TAG) (by decide)),
    Blk.f_of_reg (x := ALN_TP_CFG_TRACK) (hne (by decide)), Blk.setF_ins]
  refine ⟨⟨Blk.fb_setF_same _ _ _ (by decide) (by decide), htrack, htag, hvi⟩, fun a hc ha => ?_⟩
  have hq {c : Nat} (h : ∀ j, j < 4 → c ≠ PGE_TRK_STATUS j ∧ c ≠ RING_CONS 10) : a ≠ c := fun e => ha (e ▸ h)
  refine (hne (hq fun j hj => ?_)).trans (hR a hc (not_or.2 ⟨hq fun j hj => ?_, hq fun j hj => ?_⟩)) <;>
    simp only [PGE_TRK_STATUS, RING_CONS, ALN_TP_STATUS, ALN_TP_CFG, ALN_TP_TAG] <;> omega

/-! ### Event records (R489 to R492) -/

theorem leNat_toLE (n v : Nat) : leNat (toLE v n) = v % 256 ^ n := by
  induction n generalizing v with
  | zero => simp [toLE, leNat, Nat.mod_one]
  | succ n ih => 
    rw [toLE, leNat, ih, BitVec.toNat_ofNat, show 256 ^ (n + 1) = 256 * 256 ^ n from Nat.pow_succ']
    exact (Nat.mod_mul (x := v) (a := 256) (b := 256 ^ n)).symm

theorem Blk.memReads_eq (s : Blk) (a n : Nat) : s.memReads a n = (List.range n).map fun i => s.memRead (a + i) := by
  induction n generalizing a with
  | zero => rfl
  | succ n ih =>
    rw [Blk.memReads, ih, List.range_succ_eq_map, List.map_cons, List.map_map]
    exact congrArg _ (List.map_congr_left fun i _ => by simp only [Function.comp, Nat.succ_eq_add_one]; congr 1; omega)

theorem length_entryBytes (ws : List Nat) : (entryBytes ws).length = 32 := by simp [entryBytes, List.length_flatMap, length_toLE]

/-- A ring entry written in range reads back. -/
theorem Blk.readEntry_imgWrite (s : Blk) (q : Nat) {a : Nat} (ws : List Nat) (h : a + 32 ≤ s.capacity) :
    (s.imgWrite q a (entryBytes ws)).readEntry a = (List.range 8).map fun i => ws.getD i 0 % 2 ^ 32 := by
  refine List.map_congr_left fun i hi => ?_
  have hi := List.mem_range.1 hi
  have hbytes : (s.imgWrite q a (entryBytes ws)).memReads (a + 4 * i) 4 = toLE (ws.getD i 0) 4 := by
    rw [Blk.memReads_eq]
    refine List.ext_getElem (by simp [length_toLE]) fun j hj _ => ?_
    rw [List.length_map, List.length_range] at hj
    rw [List.getElem_map, List.getElem_range, Blk.memRead_imgWrite _ _ _ (by rw [length_entryBytes]; exact h), if_pos (by rw [length_entryBytes]; omega),
      show a + 4 * i + j - a = 4 * i + j by omega, entryBytes, getD_flatMap_range (fun _ => length_toLE 4 _) 0 8 (by omega),
      show (4 * i + j) / 4 = i by omega, show (4 * i + j) % 4 = j by omega, List.getD_eq_getElem]
  rw [hbytes, leNat_toLE, show 256 ^ 4 = 2 ^ 32 by decide]

theorem Blk.readEntry_of_mem (h : s.mem = r.mem) (a : Nat) : s.readEntry a = r.readEntry a := by
  simp only [Blk.readEntry, Blk.memReads_eq, Blk.memRead_of_mem h]

/-- Words of the rings' addresses. -/
theorem Blk.ringAddr_of_regs (h : s.regs = r.regs) (k i : Nat) : s.ringAddr k i = r.ringAddr k i := by
  have hr : ∀ a, s.reg a = r.reg a := Blk.reg_of_regs h
  rw [Blk.ringAddr, Blk.ringSize, Blk.f_of_reg (hr _), Blk.val_of_reg fun _ _ => hr _, Blk.ringAddr, Blk.ringSize]

theorem Ev.words_map (e : Ev) (sev : Nat) :
    ((List.range 8).map fun i => (e.words sev).getD i 0 % 2 ^ 32) = (e.words sev).map (· % 2 ^ 32) := rfl

/-- What the posting of a record on ring 5 leaves. -/
theorem Blk.postRecord_spec (s : Blk) (e : Ev) :
    (s.postRecord e).rn (RING_PROD 5) = (s.rn (RING_PROD 5) + 1) % 2 ^ 24 ∧
      (s.ringAddr 5 (s.rn (RING_PROD 5)) + 32 ≤ s.capacity →
        (s.postRecord e).readEntry (s.ringAddr 5 (s.rn (RING_PROD 5))) = (e.words (s.severity e.code)).map (· % 2 ^ 32)) ∧
      (s.f EVT_CFG_IRQ_SEV ≤ s.severity e.code → bitOf ((s.postRecord e).rn EVT_SUMMARY) (e.code % 4096 / 256) = true) := by
  have hcfg : ((s.ringPut 5 (e.words (s.severity e.code))).count 0x7C 1).f EVT_CFG_IRQ_SEV = s.f EVT_CFG_IRQ_SEV := by
    refine ((s.regsBut_ringPut 5 (e.words (s.severity e.code))).count (src := 0x7C) (n := 1)).f (by decide) ?_
    unfold memWord
    decide
  have hprod : ((s.ringPut 5 (e.words (s.severity e.code))).count 0x7C 1).rn (RING_PROD 5) = (s.rn (RING_PROD 5) + 1) % 2 ^ 24 :=
    (Blk.rn_of_reg (Blk.reg_count _ _ _ (by decide))).trans (s.rn_ringPut_prod 5 _)
  have hmem : ((s.ringPut 5 (e.words (s.severity e.code))).count 0x7C 1).mem =
      (s.imgWrite (ringPort 5) (s.ringAddr 5 (s.rn (RING_PROD 5))) (entryBytes (e.words (s.severity e.code)))).mem := by
    rw [Blk.count_mem, Blk.ringPut, Blk.wn_mem]
  have hread {b : Blk} (hb : b.mem = ((s.ringPut 5 (e.words (s.severity e.code))).count 0x7C 1).mem)
      (h : s.ringAddr 5 (s.rn (RING_PROD 5)) + 32 ≤ s.capacity) :
      b.readEntry (s.ringAddr 5 (s.rn (RING_PROD 5))) = (e.words (s.severity e.code)).map (· % 2 ^ 32) := by
    rw [Blk.readEntry_of_mem (hb.trans hmem), Blk.readEntry_imgWrite _ _ _ h, Ev.words_map]
  unfold Blk.postRecord
  extract_lets sev u bit
  have hu : u = (s.ringPut 5 (e.words (s.severity e.code))).count 0x7C 1 := rfl
  rw [← hu] at hcfg hprod hread
  clear_value u
  split
  · exact ⟨(Blk.rn_of_reg (Blk.reg_setF_ne _ _ _ (show RING_PROD 5 ≠ EVT_SUMMARY by decide))).trans hprod, hread (Blk.setF_mem _ _ _), fun _ => by
      rw [Blk.bitOf_rn]
      refine (Blk.fb_setF_same u ⟨EVT_SUMMARY, bit, bit⟩ 1 (le_refl _) (show e.code % 4096 / 256 < 24 by omega)).trans ?_
      simp⟩
  · next h => exact ⟨hprod, hread rfl, fun g => absurd (hcfg.symm ▸ g) h⟩

/-- A record that finds ring 5 full. -/
def Blk.recordDropped (s : Blk) : Blk :=
  let s := ((s.incSat (RING_DROPS 5)).incSat EVT_DROPS).setF EVT_SUMMARY_LOST 1
  { s with acc := { s.acc with lost := s.acc.lost + 1 } }

/-- With no record lost an event is recorded, or dropped where ring 5 is full. -/
theorem Blk.recordEvent_eq (e : Ev) (hl : s.acc.lost = 0) (hw : bitOf (s.rn (evtCode e.code)) 4 = false) (hs : s.f EVT_CFG_REC_SEV ≤ s.severity e.code) :
    s.recordEvent e = if s.ringFull 5 then s.recordDropped else s.postRecord e := by
  have hp : s.postLost = s := if_pos (.inl hl)
  rw [Blk.recordDropped]
  simp only [Blk.recordEvent, hw, hp, Bool.false_or, decide_eq_true_eq, if_neg (Nat.not_lt.2 hs)]

theorem Blk.evq_putAcc (s : Blk) (x : Acc) : ({ s with acc := x } : Blk).evq = s.evq := rfl

theorem Blk.recordDropped_spec (s : Blk) (hl : s.acc.lost = 0) :
    s.recordDropped.evq = s.evq ∧ s.recordDropped.rn (RING_DROPS 5) = min (s.rn (RING_DROPS 5) + 1) u24max ∧
      s.recordDropped.rn EVT_DROPS = min (s.rn EVT_DROPS + 1) u24max ∧ s.recordDropped.fb EVT_SUMMARY_LOST = true ∧ s.recordDropped.acc.lost = 1 ∧
      s.Frame s.recordDropped fun a => a = RING_DROPS 5 ∨ a = EVT_DROPS ∨ a = EVT_SUMMARY := by
  have h1 : ((s.incSat (RING_DROPS 5)).incSat EVT_DROPS).rn (RING_DROPS 5) = min (s.rn (RING_DROPS 5) + 1) u24max := by
    rw [Blk.rn_incSat_ne _ (by decide), Blk.rn_incSat_same]
  have h2 : ((s.incSat (RING_DROPS 5)).incSat EVT_DROPS).rn EVT_DROPS = min (s.rn EVT_DROPS + 1) u24max := by
    rw [Blk.rn_incSat_same, Blk.rn_incSat_ne _ (by decide)]
  have hF : s.Frame ((s.incSat (RING_DROPS 5)).incSat EVT_DROPS) fun a => a = RING_DROPS 5 ∨ a = EVT_DROPS ∨ a = EVT_SUMMARY :=
    ((Blk.Frame.refl s _).incSat (.inl rfl)).incSat (.inr (.inl rfl))
  have hq : ((s.incSat (RING_DROPS 5)).incSat EVT_DROPS).evq = s.evq :=
    (Blk.wn_evq _ _ _).trans (Blk.wn_evq _ _ _)
  have ha : ((s.incSat (RING_DROPS 5)).incSat EVT_DROPS).acc = s.acc := rfl
  unfold Blk.recordDropped
  generalize (s.incSat (RING_DROPS 5)).incSat EVT_DROPS = u at h1 h2 hF hq ha ⊢
  have hF' := (hF.setF (x := EVT_SUMMARY_LOST) (v := 1) (.inr (.inr rfl)))
  have hq' : (u.setF EVT_SUMMARY_LOST 1).evq = s.evq := (Blk.setF_evq _ _ _).trans hq
  refine ⟨(Blk.evq_putAcc _ _).trans hq', ?_, ?_, ?_, ?_, hF'.put⟩
  · rw [Blk.rn_put, Blk.rn_setF_ne _ _ _ (by decide), h1]
  · rw [Blk.rn_put, Blk.rn_setF_ne _ _ _ (by decide), h2]
  · rw [Blk.fb_put]
    exact Blk.fb_setF_same _ _ _ (by decide) (by decide)
  · show u.acc.lost + 1 = 1
    rw [ha, hl]

theorem Blk.postEvent_single {e : Ev} (h : s.evq = [e]) : s.postEvent = ({ s with evq := [] } : Blk).recordEvent e := by
  have hn : nextEvent s.evq = some e := by rw [h]; rfl
  simp only [Blk.postEvent, hn]
  rw [h, List.erase_cons_head]

section

variable {e : Ev} (hq : s.evq = [e]) (hl : s.acc.lost = 0) (hw : bitOf (s.rn (evtCode e.code)) 4 = false)
  (hs : s.f EVT_CFG_REC_SEV ≤ s.severity e.code)
include hq hl hw hs

theorem Blk.postEvent_recorded (hf : s.ringFull 5 = false) :
    s.postEvent.rn (RING_PROD 5) = (s.rn (RING_PROD 5) + 1) % 2 ^ 24 ∧
      (s.ringAddr 5 (s.rn (RING_PROD 5)) + 32 ≤ s.capacity →
        s.postEvent.readEntry (s.ringAddr 5 (s.rn (RING_PROD 5))) = (e.words (s.severity e.code)).map (· % 2 ^ 32)) ∧
      (s.f EVT_CFG_IRQ_SEV ≤ s.severity e.code → bitOf (s.postEvent.rn EVT_SUMMARY) (e.code % 4096 / 256) = true) := by
  have h := Blk.recordEvent_eq (s := { s with evq := [] }) e hl hw hs
  have hf' : ({ s with evq := [] } : Blk).ringFull 5 = false := hf
  rw [hf'] at h
  rw [Blk.postEvent_single hq, h]
  exact Blk.postRecord_spec { s with evq := [] } e

theorem Blk.postEvent_dropped (hf : s.ringFull 5 = true) :
    s.postEvent.evq = [] ∧ s.postEvent.rn (RING_DROPS 5) = min (s.rn (RING_DROPS 5) + 1) u24max ∧
      s.postEvent.rn EVT_DROPS = min (s.rn EVT_DROPS + 1) u24max ∧ s.postEvent.fb EVT_SUMMARY_LOST = true ∧ s.postEvent.acc.lost = 1 ∧
      s.Frame s.postEvent fun a => a = RING_DROPS 5 ∨ a = EVT_DROPS ∨ a = EVT_SUMMARY := by
  have h := Blk.recordEvent_eq (s := { s with evq := [] }) e hl hw hs
  have hf' : ({ s with evq := [] } : Blk).ringFull 5 = true := hf
  rw [hf'] at h
  rw [Blk.postEvent_single hq, h]
  obtain ⟨h1, h2, h3, h4, h5, h6⟩ := Blk.recordDropped_spec { s with evq := [] } hl
  exact ⟨h1, h2, h3, h4, h5, (Blk.Frame.refl s _).put.trans h6⟩

end

/-! ### GIO edges (R493) -/

theorem Blk.startCue_of_not_armed {n j : Nat} (level : Bool) (x : Int) (h : s.trkState j ≠ 1) : Blk.startCue n level x s j = s := if_pos (.inl h)

theorem Blk.raise_eq (s : Blk) (c i d0 d1 : Nat) : ∃ e : Ev, s.raise c i d0 d1 = { s with evq := s.evq ++ [e] } ∧ e.code = c ∧ e.inst = i % 256 ∧
    e.d0 = d0 % 2 ^ 24 ∧ e.d1 = d1 % 2 ^ 24 := ⟨_, rfl, rfl, rfl, rfl, rfl⟩

/-- An event stamped with an instant of its own is raised all the same. -/
theorem Blk.raiseAt_eq (s : Blk) (c i d0 d1 ns : Nat) (x : Int) : ∃ e : Ev, s.raiseAt c i d0 d1 ns x = { s with evq := s.evq ++ [e] } ∧ e.code = c ∧
    e.inst = i % 256 ∧ e.d0 = d0 % 2 ^ 24 ∧ e.d1 = d1 % 2 ^ 24 := by
  obtain ⟨e, he, hc, hi, h0, h1⟩ := s.raise_eq c i d0 d1
  have hl : (s.raise c i d0 d1).evq.getLast? = some e := by rw [he, List.getLast?_concat]
  have hd : (s.raise c i d0 d1).evq.dropLast = s.evq := by rw [he, List.dropLast_concat]
  simp only [Blk.raiseAt, hl, hd]
  rw [he]
  exact ⟨_, rfl, hc, hi, h0, h1⟩

/-- What an edge shows and raises, before the tracks that wait for a cue are looked at. -/
def Blk.gioShown (s : Blk) (n : Nat) (level : Bool) (ns : Nat) (x : Int) : Blk :=
  if (s.setF ⟨PAD_GIO_IN, n, n⟩ (b2n level)).fb (PAD_GIO_CFG_EVT n) then (s.setF ⟨PAD_GIO_IN, n, n⟩ (b2n level)).raiseAt 0xE05 n n (b2n level) ns x
  else s.setF ⟨PAD_GIO_IN, n, n⟩ (b2n level)

theorem b2n_lt (b : Bool) : b2n b < 2 := by cases b <;> decide

theorem Blk.gioShown_spec (s : Blk) {n : Nat} (level : Bool) (ns : Nat) (x : Int) (hn : n < 16) :
    bitOf ((s.gioShown n level ns x).rn PAD_GIO_IN) n = level ∧
      (s.fb (PAD_GIO_CFG_EVT n) = true → s.Raised (s.gioShown n level ns x) 0xE05 n n (b2n level)) ∧ s.Frame (s.gioShown n level ns x) (· = PAD_GIO_IN) := by
  have hbit : bitOf ((s.setF ⟨PAD_GIO_IN, n, n⟩ (b2n level)).rn PAD_GIO_IN) n = level := by
    rw [Blk.bitOf_rn]
    refine (Blk.fb_setF_same s ⟨PAD_GIO_IN, n, n⟩ _ (le_refl _) (show n < 24 by omega)).trans ?_
    cases level <;> simp [b2n]
  have hcfg : (s.setF ⟨PAD_GIO_IN, n, n⟩ (b2n level)).fb (PAD_GIO_CFG_EVT n) = s.fb (PAD_GIO_CFG_EVT n) :=
    Blk.fb_of_reg (Blk.reg_setF_ne _ _ _ (by simp only [PAD_GIO_CFG, PAD_GIO_IN]; omega))
  have hF : s.Frame (s.setF ⟨PAD_GIO_IN, n, n⟩ (b2n level)) (· = PAD_GIO_IN) := (Blk.Frame.refl s (· = PAD_GIO_IN)).setF (x := ⟨PAD_GIO_IN, n, n⟩) rfl
  have hev : (s.setF ⟨PAD_GIO_IN, n, n⟩ (b2n level)).evq = s.evq := Blk.setF_evq _ _ _
  unfold Blk.gioShown
  rw [hcfg]
  generalize s.setF ⟨PAD_GIO_IN, n, n⟩ (b2n level) = u at hbit hF hev
  split
  · obtain ⟨e, he, hc, hi, h0, h1⟩ := u.raiseAt_eq 0xE05 n n (b2n level) ns x
    have hl := b2n_lt level
    rw [he]
    refine ⟨hbit, fun _ => ⟨[e], e, ?_, List.mem_singleton.2 rfl, hc, ?_, ?_, ?_⟩, hF.put⟩
    · rw [← hev]
    · rw [hi, Nat.mod_eq_of_lt (by omega)]
    · rw [h0, Nat.mod_eq_of_lt (by omega)]
    · rw [h1, Nat.mod_eq_of_lt (by omega)]
  · next h => exact ⟨hbit, fun g => absurd g h, hF⟩

theorem Blk.startCues_of_not_armed {n : Nat} (level : Bool) (x : Int) (h : ∀ u, u < 4 → s.trkState u ≠ 1) :
    [0, 1, 2, 3].foldl (Blk.startCue n level x) s = s := by
  simp only [List.foldl_cons, List.foldl_nil, Blk.startCue_of_not_armed level x (h 0 (by decide)), Blk.startCue_of_not_armed level x (h 1 (by decide)),
    Blk.startCue_of_not_armed level x (h 2 (by decide)), Blk.startCue_of_not_armed level x (h 3 (by decide))]

theorem gioEdge_eq {n t k q : Nat} {level : Bool}
    (hq : ((alook ⟨false, 0⟩ (s.advance t).acc.gios n : Filt).feed (atLeast1 ((s.advance t).f (PAD_GIO_CFG_FILT_N n))) t k level).2 = some q) :
    ∃ acc ns x, gioEdge n t level k s =
      [0, 1, 2, 3].foldl (Blk.startCue n level x) ((({ s.advance t with acc := acc } : Blk).advance q).gioShown n level ns x) := by
  simp only [gioEdge, hq]
  exact ⟨_, _, _, rfl⟩

/-- The tracks, none of them ARMED, make nothing of an edge. -/
theorem Blk.gioCues_spec {u : Blk} {n : Nat} (level : Bool) (ns : Nat) (x : Int) (hn : n < 16) (ht : ∀ j, j < 4 → s.trkState j ≠ 1)
    (hF : s.Frame u (· = PAD_GIO_IN)) (hE : s.evq <+: u.evq) :
    let b := [0, 1, 2, 3].foldl (Blk.startCue n level x) (u.gioShown n level ns x)
    bitOf (b.rn PAD_GIO_IN) n = level ∧ (s.fb (PAD_GIO_CFG_EVT n) = true → s.Raised b 0xE05 n n (b2n level)) ∧ s.Frame b (· = PAD_GIO_IN) := by
  intro b
  obtain ⟨hbit, hev, hFu⟩ := u.gioShown_spec level ns x hn
  have hcues : ∀ j, j < 4 → (u.gioShown n level ns x).trkState j ≠ 1 := fun j hj => by
    rw [Blk.trkState, (hF.trans hFu).1.f (cntWord_low (by simp only [PGE_TRK_STATUS]; omega)) (by simp only [PGE_TRK_STATUS, PAD_GIO_IN]; omega)]
    exact ht j hj
  have hb : b = u.gioShown n level ns x := Blk.startCues_of_not_armed level x hcues
  have hcfg : cntWord (PAD_GIO_CFG n) = false := cntWord_high (by simp only [PAD_GIO_CFG]; omega)
  rw [hb]
  exact ⟨hbit, fun h => (hev ((hF.1.fb hcfg (by simp only [PAD_GIO_CFG, PAD_GIO_IN]; omega)).trans h)).of_left hE, hF.trans hFu⟩

/-- A filtered edge: what it shows and raises. -/
theorem gioEdge_edge {n t k q : Nat} {level : Bool} (hn : n < 16) (ht : ∀ u, u < 4 → s.trkState u ≠ 1)
    (hq : ((alook ⟨false, 0⟩ s.acc.gios n : Filt).feed (atLeast1 (s.f (PAD_GIO_CFG_FILT_N n))) t k level).2 = some q) :
    bitOf ((gioEdge n t level k s).rn PAD_GIO_IN) n = level ∧
      (s.fb (PAD_GIO_CFG_EVT n) = true → s.Raised (gioEdge n t level k s) 0xE05 n n (b2n level)) ∧ s.Frame (gioEdge n t level k s) (· = PAD_GIO_IN) := by
  have hcfg : cntWord (PAD_GIO_CFG n) = false := cntWord_high (by simp only [PAD_GIO_CFG]; omega)
  obtain ⟨acc, ns, x, heq⟩ := gioEdge_eq (s := s) (n := n) (t := t) (k := k) (q := q) (level := level) (by rw [s.advance_acc, s.f_advance t hcfg]; exact hq)
  have hF : s.Frame (({ s.advance t with acc := acc } : Blk).advance q) (· = PAD_GIO_IN) := ((Blk.Frame.refl s _).advance.put (acc := acc)).advance
  have hE : s.evq <+: (({ s.advance t with acc := acc } : Blk).advance q).evq := by
    refine List.IsPrefix.trans ?_ (Blk.evq_advance_prefix _ q)
    rw [Blk.evq_putAcc]
    exact s.evq_advance_prefix t
  rw [heq]
  exact Blk.gioCues_spec level ns x hn ht hF hE

/-- Settles O54: a lemma for each kind of entry, for each end of a record, and for an edge. -/
theorem commandsAndEvents : Obligations.CommandsAndEvents := by
  intro z ha
  refine ⟨selfTest_taken ha, cancelTest_taken ha, testPage_taken ha, trim_taken ha, fun h => ⟨axis_taken ha h, axis_rejected ha h⟩,
    fun e hq hl hw hs => ⟨fun hf => .of_on (f := Blk.postEvent) rfl ha (Blk.postEvent_recorded hq hl hw hs hf),
      fun hf => .of_on (f := Blk.postEvent) rfl ha ?_⟩,
    fun w => .of_on (f := summaryClear w) rfl ha ⟨Blk.reg_setReg_same _ _ _, (Blk.OnlyRegs.refl z.blk (· = EVT_SUMMARY)).setReg rfl⟩,
    fun n t k q level ht hq => .of_on (f := gioEdge n t level k) rfl ha ?_⟩
  · obtain ⟨h1, h2, h3, h4, h5, h6⟩ := Blk.postEvent_dropped hq hl hw hs hf
    exact ⟨h1, h2, h3, h4, h5, h6.1, h6.2⟩
  · obtain ⟨h1, h2, h3⟩ := gioEdge_edge n.isLt ht hq
    exact ⟨h1, h2, h3.1, h3.2⟩

end Sys2Proof.Machine
end

section
/-!
PROOFS. Register writes and reads of a path and the SPI frames (R9, R473 to R475, R501).
-/

namespace Sys2Proof.Machine

variable {r s : Blk} {p : Nat → Prop}

/-! ### A word written under its access codes -/

/-- What the access codes make of a word. -/
def WordInfo.apply (i : WordInfo) (old w : Word) : Word := (mixBits old w i.rw &&& ~~~ (w &&& i.w1c)) ||| (w &&& i.w1s)

theorem Blk.applyWord_eq (a : Nat) (w : Word) {i : WordInfo} (h : i.rwb = 0) :
    s.applyWord a w i = if i.apply (s.reg a) w = s.reg a then s else s.setReg a (i.apply (s.reg a) w) := by
  simp only [Blk.applyWord, h, if_true]
  rfl

theorem Blk.applyWord_spec (a : Nat) (w : Word) {i : WordInfo} (h : i.rwb = 0) :
    (s.applyWord a w i).reg a = i.apply (s.reg a) w ∧ s.OnlyRegs (s.applyWord a w i) (· = a) := by
  rw [Blk.applyWord_eq a w h]
  split
  case isTrue g => exact ⟨g.symm, .refl s _⟩
  case isFalse => exact ⟨Blk.reg_setReg_same _ _ _, (Blk.OnlyRegs.refl s (· = a)).setReg rfl⟩

theorem mixBits_zero (x y : Word) : mixBits x y 0#24 = x := by
  rw [mixBits, BitVec.and_zero, BitVec.or_zero, show ~~~(0#24) = BitVec.allOnes 24 by decide, BitVec.and_allOnes]

theorem apply_of_no_codes {i : WordInfo} (hw : i.rw = 0) (hc : i.w1c = 0) (hs : i.w1s = 0) (x w : Word) : i.apply x w = x := by
  rw [WordInfo.apply, hw, hc, hs]
  show (mixBits x w 0#24 &&& ~~~(w &&& 0#24)) ||| (w &&& 0#24) = x
  rw [mixBits_zero, BitVec.and_zero, BitVec.or_zero, show ~~~(0#24) = BitVec.allOnes 24 by decide, BitVec.and_allOnes]

/-- A word of RWB bits alone is held. -/
theorem Blk.applyWord_held (a : Nat) (w : Word) {i : WordInfo} (h : i.rwb ≠ 0) (hw : i.rw = 0) (hc : i.w1c = 0) (hs : i.w1s = 0) :
    s.applyWord a w i = s.hold a (mixBits (s.lastWritten a) w i.rwb) i.bnd := by
  have h0 : i.apply (s.reg a) w = s.reg a := apply_of_no_codes hw hc hs _ _
  rw [WordInfo.apply] at h0
  simp only [Blk.applyWord, h0, if_true, if_neg h]

/-! ### The state of a track is no writable field -/

theorem and_not_and_three (x z : Word) (h : z &&& 3#24 = 0#24) : x &&& ~~~z &&& 3#24 = x &&& 3#24 := by
  refine BitVec.eq_of_getLsbD_eq fun i hi => ?_
  have hb := congrArg (BitVec.getLsbD · i) h
  simp only [BitVec.getLsbD_and, BitVec.getLsbD_not, BitVec.getLsbD_zero, hi, decide_true, Bool.true_and] at hb ⊢
  cases hx : x.getLsbD i <;> cases hz : z.getLsbD i <;> simp_all

theorem toNat_mod_four (x y : Word) (h : x &&& 3#24 = y &&& 3#24) : x.toNat % 4 = y.toNat % 4 := by
  have hn := congrArg BitVec.toNat h
  rwa [BitVec.toNat_and, BitVec.toNat_and, show (3#24).toNat = 2 ^ 2 - 1 by decide, Nat.and_two_pow_sub_one_eq_mod, Nat.and_two_pow_sub_one_eq_mod] at hn

theorem wordInfo_trkStatus {t : Nat} (ht : t < 4) : wordInfo (PGE_TRK_STATUS t) = some ⟨PGE_TRK_STATUS t, 0, 1, .none, 0, 0, 4032, 0, 0⟩ := by
  interval_cases t <;> decide

theorem pathAddr_trkStatus {q : Path} {a t : Nat} (ht : t < 4) (h : pathAddr q a = PGE_TRK_STATUS t) : a = PGE_TRK_STATUS t := by
  unfold pathAddr at h
  split at h
  case isTrue g =>
    simp only [perPath, Bool.or_eq_true, beq_iff_eq, decide_eq_true_eq, RING_MCTRL, RING_MADDR, RING_MBUF] at g
    simp only [PGE_TRK_STATUS] at h
    cases q <;> simp only [onPath] at h <;> omega
  case isFalse => exact h

/-- A write of a word leaves the state of every track. -/
theorem Blk.trkState_applyWord {a : Nat} {q : Path} (w : Word) {i : WordInfo} (hi : wordInfo a = some i) (hb : i.rwb = 0) {t : Nat} (ht : t < 4) :
    (s.applyWord (pathAddr q a) w i).trkState t = s.trkState t := by
  obtain ⟨hreg, hO⟩ := s.applyWord_spec (pathAddr q a) w hb
  by_cases ha : pathAddr q a = PGE_TRK_STATUS t
  · obtain rfl := pathAddr_trkStatus ht ha
    obtain rfl := Option.some.inj ((wordInfo_trkStatus ht).symm.trans hi)
    have hm : WordInfo.apply ⟨PGE_TRK_STATUS t, 0, 1, .none, 0, 0, 4032, 0, 0⟩ (s.reg (pathAddr q (PGE_TRK_STATUS t))) w &&& 3#24 =
        s.reg (pathAddr q (PGE_TRK_STATUS t)) &&& 3#24 := by
      show ((mixBits _ w 0#24 &&& ~~~(w &&& 4032#24)) ||| (w &&& 0#24)) &&& 3#24 = _
      rw [mixBits_zero, BitVec.and_zero, BitVec.or_zero]
      exact and_not_and_three _ _ (by rw [BitVec.and_assoc, show (4032#24 &&& 3#24) = 0#24 by decide, BitVec.and_zero])
    rw [ha] at hreg hm
    have h4 := toNat_mod_four _ _ (hreg ▸ hm)
    rw [ha]
    rw [Blk.trkState, Blk.trkState, Blk.f, Blk.f, Blk.rn, Blk.rn, bits, bits]
    simpa using h4
  · exact Blk.f_of_reg (hO.2 _ fun e => ha e.symm)

theorem Blk.allIdle_of_trkState (h : ∀ t, t < 4 → s.trkState t = r.trkState t) : s.allIdle = r.allIdle := by
  simp only [Blk.allIdle, List.all_cons, List.all_nil, h 0 (by decide), h 1 (by decide), h 2 (by decide), h 3 (by decide)]

/-! ### Writes of a path -/

/-- What `PlainWord` asks of the block. -/
structure Blk.Plain (s : Blk) : Prop where
  alive : s.alive = true
  busy : s.allIdle = false
  quiet : s.fb RING_TRACE_CFG_REGS = false

theorem Blk.opens_of_alive (h : s.alive = true) (a : Nat) (write : Bool) : s.opens a write = true := by
  simp only [Blk.alive, Bool.and_eq_true, beq_iff_eq, Bool.not_eq_true'] at h
  simp [Blk.opens, h.1, h.2]

theorem Blk.traceWrite_of_quiet (h : s.fb RING_TRACE_CFG_REGS = false) (q : Option Path) (a : Nat) (w : Word) : s.traceWrite q a w = s := by
  cases q <;> simp [Blk.traceWrite, h]

/-- What the words of `PlainWord` are. -/
structure Plain (a : Nat) (i : WordInfo) : Prop where
  block : inBlock a = true
  noReset : a ≠ SYS_RESET
  noLc : a ≠ SEC_LC_CTRL
  noPair : a ≠ TWN_PW_DATA
  info : wordInfo a = some i
  one : i.words = 1
  plain : ∀ (r : Blk) (p : Option Path) (w : Word), r.special p a w = none

theorem Blk.PlainWord.plain {a : Nat} {i : WordInfo} (h : s.PlainWord a i) : s.Plain ∧ Machine.Plain a i := by
  obtain ⟨h1, h2, h3, h4, h5, h6, h7, h8, h9, h10⟩ := h
  exact ⟨⟨h1, h2, h3⟩, h4, h5, h6, h7, h8, h9, h10⟩

theorem Blk.writeWord_of_plain {a : Nat} {i : WordInfo} (hs : s.Plain) (h : Machine.Plain a i) (q : Path) (w : Word) :
    s.writeWord q a w = if (s.plainWrite (some q) a w i).alive then (s.plainWrite (some q) a w i).settle else s.plainWrite (some q) a w i := by
  simp only [Blk.writeWord, h.block, Bool.not_true, Bool.false_eq_true, if_false, if_neg h.noReset, if_neg h.noLc, Blk.opens_of_alive hs.alive, h.info,
    Blk.traceWrite_of_quiet hs.quiet, if_neg h.noPair, Blk.wordWrite, h.one, lt_irrefl, h.plain]

theorem Blk.writeWord_rw {a : Nat} {i : WordInfo} (hs : s.Plain) (h : Machine.Plain a i) (q : Path) (w : Word) (hb : i.rwb = 0) :
    s.writeWord q a w = s.applyWord (pathAddr q a) w i := by
  have hp : s.plainWrite (some q) a w i = s.applyWord (pathAddr q a) w i := if_pos hb
  have hi : (s.applyWord (pathAddr q a) w i).allIdle = false :=
    (Blk.allIdle_of_trkState fun t ht => Blk.trkState_applyWord w h.info hb ht).trans hs.busy
  rw [Blk.writeWord_of_plain hs h, hp, Blk.settle_of_busy hi, ite_self]

theorem Blk.writeWord_rwb {a : Nat} {i : WordInfo} (hs : s.Plain) (h : Machine.Plain a i) (q : Path) (w : Word) (hb : i.rwb ≠ 0) (hw : i.rw = 0)
    (hc : i.w1c = 0) (h1 : i.w1s = 0) (hn : i.bnd ≠ .cycle) (hq : perPath a = false) :
    s.writeWord q a w = s.hold a (mixBits (s.lastWritten a) w i.rwb) i.bnd := by
  have ha : pathAddr q a = a := by simp [pathAddr, hq]
  have hp : s.plainWrite (some q) a w i = s.hold a (mixBits (s.lastWritten a) w i.rwb) i.bnd := by
    simp only [Blk.plainWrite, ha, Blk.applyWord_held a w hb hw hc h1, if_neg hb]
    unfold Blk.afterHold
    split
    · exact absurd (by assumption) hn
    · rfl
  have hi : (s.hold a (mixBits (s.lastWritten a) w i.rwb) i.bnd).allIdle = false := hs.busy
  rw [Blk.writeWord_of_plain hs h, hp, Blk.settle_of_busy hi, ite_self]

theorem Blk.noBlock_spec (h : s.sys.phase = .up) {a : Nat} (ha : a < 2 ^ 24) :
    (s.noBlock a).fb SYS_ERR_NO_BLOCK = true ∧ (s.noBlock a).rn SYS_ERR_ADDR = a ∧ s.OnlyRegs (s.noBlock a) fun x => x = SYS_ERR ∨ x = SYS_ERR_ADDR := by
  rw [Blk.noBlock, if_pos h]
  refine ⟨?_, (Blk.rn_wn_same _ _ _).trans (Nat.mod_eq_of_lt ha),
    ((Blk.OnlyRegs.refl s fun x => x = SYS_ERR ∨ x = SYS_ERR_ADDR).setF (x := SYS_ERR_NO_BLOCK) (.inl rfl)).wn (.inr rfl)⟩
  exact (Blk.fb_of_reg (Blk.reg_wn_ne _ _ (by decide))).trans (Blk.fb_setF_same s SYS_ERR_NO_BLOCK 1 (by decide) (by decide))

/-! ### SPI frames -/

theorem Blk.spiOn_of_alive (h : s.alive = true) : s.spiOn = true := by
  rw [Blk.spiOn, Blk.alive_phase h]
  rfl

theorem Blk.Plain.miso (h : s.Plain) (bs : List Byte) : (s.miso bs).Plain := ⟨h.alive, h.busy, h.quiet⟩

theorem spiWrite_one (h : s.alive = true) (a : BitVec 24) (w : Word) :
    spiWrite a.toNat [w] s = (s.miso (s.statusByte :: List.replicate (3 + 3 * 1) 0)).writeWord .spi a.toNat w := by
  rw [spiWrite, Blk.spiOn_of_alive h, Blk.writeWords, Blk.writeWords, Nat.mod_eq_of_lt a.isLt]
  rfl

theorem spiRead_one {a : BitVec 24} {i : WordInfo} (hs : s.alive = true) (h : Machine.Plain a.toNat i) (hw : i.word = 0)
    (hf : instOf TCI_FIFO 4 i.first = none) :
    spiRead a.toNat 1 s = s.miso (s.statusByte :: [0, 0, 0, 0] ++ toBE (s.shown .spi a.toNat i).toNat 3) := by
  have hr : s.readWord .spi (a.toNat % 2 ^ 24) = (s, s.shown .spi a.toNat i) := by
    rw [Nat.mod_eq_of_lt a.isLt]
    simp only [Blk.readWord, h.block, Bool.not_true, Bool.false_eq_true, if_false, Blk.opens_of_alive hs, h.info, hf, hw, ne_eq, not_true_eq_false, h.one,
      if_true]
  simp only [spiRead, Blk.spiOn_of_alive hs, Bool.not_true, Bool.false_eq_true, if_false, Blk.readWords, hr]
  simp [wordsBE]

/-- A word written by a path, or by an SPI WRITE of one word: what a write leaves of any block that differs in nothing but the bytes answered. -/
theorem Completes.write {z : State} {q : Path} {a : BitVec 24} {w : Word} {c : Instr} {g : Blk → Prop} (ha : z.blk.alive = true)
    (hc : c = .registerWrite q a w ∨ (q = .spi ∧ c = .spiWrite a [w])) (h : ∀ x, g (({ z.blk with acc := x } : Blk).writeWord q a.toNat w)) :
    Completes c z g := by
  obtain rfl | ⟨rfl, rfl⟩ := hc
  · exact .of_always (f := fun b => b.writeWord q a.toNat w) rfl (h z.blk.acc)
  · refine .of_always (f := spiWrite a.toNat [w]) rfl ?_
    rw [spiWrite_one ha]
    exact h _

/-- Settles O52: a lemma for each clause. -/
theorem registerAccess : Obligations.RegisterAccess := by
  intro z q a w
  refine ⟨fun i hi => ?_, fun hp hb => .of_always (f := fun b => b.writeWord q a.toNat w) rfl ?_, fun hon => ⟨.of_always (f := spiFrameErr) rfl ?_,
    .of_always (f := spiStatus) rfl ?_⟩⟩
  · obtain ⟨hs, h⟩ := hi.plain
    have hput (x : Acc) : ({ z.blk with acc := x } : Blk).Plain := ⟨hs.alive, hs.busy, hs.quiet⟩
    refine ⟨fun hb c hc => .write hs.alive hc fun x => ?_, fun hb hw h1 h2 hn hq c hc => .write hs.alive hc fun x => ?_, fun hw hf =>
      .of_always (f := spiRead a.toNat 1) rfl (spiRead_one hs.alive h hw hf)⟩
    · rw [Blk.writeWord_rw (hput x) h q w hb]
      obtain ⟨hreg, hO⟩ := Blk.applyWord_spec (s := { z.blk with acc := x }) (pathAddr q a.toNat) w hb
      have hF : z.blk.Frame _ (· = pathAddr q a.toNat) := ((Blk.Frame.refl z.blk _).put (acc := x)).trans ⟨hO.regsBut, hO.calm⟩
      exact ⟨hreg, by rw [hO.1], hF.1, hF.2⟩
    · rw [Blk.writeWord_rwb (hput x) h q w hb hw h1 h2 hn hq]
      exact ⟨Blk.lastWritten_hold_same _ _ _ _, fun y hy => Blk.lastWritten_hold_ne _ _ _ hy, rfl, fun _ => rfl, rfl, rfl⟩
  · have hw : z.blk.writeWord q a.toNat w = z.blk.noBlock a.toNat := by simp only [Blk.writeWord, hb, Bool.not_false, if_true]
    show _ ∧ _
    rw [hw]
    exact Blk.noBlock_spec hp a.isLt
  · exact if_pos hon
  · exact if_neg (by simp [hon])

end Sys2Proof.Machine
end

section
/-!
PROOFS. Management datagrams (R481 to R483), and the Ethernet ports with what they answer, forward and drop (R367, R478, R480, R499).
-/

namespace Sys2Proof.Machine

variable {r s : Blk} {p : Nat → Prop}

/-! ### Management datagrams -/

/-- What a request with an empty body is. -/
structure MgmtHead (s : Blk) (port : Nat) (d key : List Byte) (k : Nat) : Prop where
  on : s.ethOn port = true
  may : (s.holding || s.fb ETH_GCFG_MGMT_EN) = true
  len : d.length = 48
  head : d.take 4 = [0x46, 0x4d, 1, 1]
  slot : (d.getD 4 0).toNat = k
  body : beNat (slice d 6 2) = 0
  key : s.mgmtKey k = some key

theorem MgmtHead.bytes {port k : Nat} {d key : List Byte} (h : MgmtHead s port d key k) :
    (d.getD 0 0).toNat = 0x46 ∧ (d.getD 1 0).toNat = 0x4d ∧ (d.getD 2 0).toNat = 1 ∧ (d.getD 3 0).toNat = 1 := by
  have hd (i : Nat) (hi : i < 4) : d.getD i 0 = ([0x46, 0x4d, 1, 1] : List Byte).getD i 0 := by
    rw [← h.head, List.getD_eq_getElem?_getD, List.getD_eq_getElem?_getD, List.getElem?_take, if_pos hi]
  rw [hd 0 (by decide), hd 1 (by decide), hd 2 (by decide), hd 3 (by decide)]
  decide

/-- A request whose code is wrong is counted (R483). -/
theorem MgmtHead.wrong {port k : Nat} {d key : List Byte} (h : MgmtHead s port d key k) (src : Source) (hc : hmac key (d.take 16) ≠ d.drop 16) :
    mgmtRequest port src d s = s.mgmtFail port 0 := by
  obtain ⟨h0, h1, h2, h3⟩ := h.bytes
  simp only [mgmtRequest, h.on, h.may, h0, h1, h2, h3, h.len, h.slot, h.body, h.key, Bool.not_true, Bool.false_eq_true, if_false, ne_eq, not_true_eq_false,
    or_self, Nat.add_zero]
  rw [if_pos hc]

/-- The state once a request numbered `seq` of key `k` has been accepted and answered with `bs`. -/
def Blk.mgmtAnswered (s : Blk) (port k seq : Nat) (src : Source) (bs : List Byte) : Blk :=
  { s with acc := { s.acc with lastSeq := aput s.acc.lastSeq k seq, resp := aput s.acc.resp k bs },
           out := .udp port (s.f ETH_GCFG_MGMT_PORT) src bs :: s.out }

theorem MgmtHead.answered {port k : Nat} {d key : List Byte} (h : MgmtHead s port d key k) (src : Source) (hc : hmac key (d.take 16) = d.drop 16)
    (hs : beNat (slice d 8 4) = s.val ETH_MGMT_SESSION 2) (h1 : 1 ≤ (beNat (slice d 12 4) + 2 ^ 32 - alook 0 s.acc.lastSeq k) % 2 ^ 32)
    (h31 : (beNat (slice d 12 4) + 2 ^ 32 - alook 0 s.acc.lastSeq k) % 2 ^ 32 < 2 ^ 31) (hn : beNat (slice d 12 4) ≠ alook 0 s.acc.lastSeq k) :
    mgmtRequest port src d s =
      s.mgmtAnswered port k (beNat (slice d 12 4)) src (s.mgmtReply key k 0x81 0 (beNat (slice d 12 4)) []) := by
  obtain ⟨g0, g1, g2, g3⟩ := h.bytes
  have hops : mgmtOps 0 (slice d 16 0) = some [] := rfl
  have hnew : (1 ≤ (beNat (slice d 12 4) + 2 ^ 32 - alook 0 s.acc.lastSeq k) % 2 ^ 32 ∧
      (beNat (slice d 12 4) + 2 ^ 32 - alook 0 s.acc.lastSeq k) % 2 ^ 32 < 2 ^ 31) = True := eq_true ⟨h1, h31⟩
  simp only [mgmtRequest, h.on, h.may, g0, g1, g2, g3, h.len, h.slot, h.body, h.key, Bool.not_true, Bool.false_eq_true, if_false, ne_eq, not_true_eq_false,
    or_self, Nat.add_zero, hc, hs, hn, hnew, decide_true, Nat.not_lt_zero, hops, List.map_nil, List.sum_nil, Blk.mgmtRun]
  rfl

/-- A datagram dropped is counted; its event is all else that may come of it. -/
theorem Blk.mgmtFail_spec (s : Blk) (port why : Nat) : (s.mgmtFail port why).rn ETH_MGMT_FAIL = min (s.rn ETH_MGMT_FAIL + 1) u24max ∧
    (s.mgmtFail port why).out = s.out ∧ s.Frame (s.mgmtFail port why) (· = ETH_MGMT_FAIL) := by
  have hF : s.Frame (s.incSat ETH_MGMT_FAIL) (· = ETH_MGMT_FAIL) := (Blk.Frame.refl s _).incSat rfl
  have hn := s.rn_incSat_same ETH_MGMT_FAIL
  have ho : (s.incSat ETH_MGMT_FAIL).out = s.out := rfl
  unfold Blk.mgmtFail
  extract_lets u due _
  have hu : u = s.incSat ETH_MGMT_FAIL := rfl
  rw [← hu] at hF hn ho
  clear_value u
  split
  · exact ⟨hn, ho, (hF.put).raise⟩
  · exact ⟨hn, ho, hF⟩

theorem mgmtKey1_spec (s : Blk) (k : BitVec 256) :
    (mgmtKey1 k.toNat s).acc.key1 = (if k = 0 then none else some k.toNat) ∧ (mgmtKey1 k.toNat s).fb ETH_MGMT_STATUS_KEY1_SET = decide (k ≠ 0) ∧
      s.Frame (mgmtKey1 k.toNat s) (· = ETH_MGMT_STATUS) := by
  have hk : k.toNat % 2 ^ 256 = k.toNat := Nat.mod_eq_of_lt k.isLt
  have h0 : (k.toNat = 0) = (k = 0) := propext ⟨fun h => BitVec.eq_of_toNat_eq h, fun h => by rw [h]; rfl⟩
  unfold mgmtKey1
  extract_lets v u
  have hv : v = k.toNat := hk
  refine ⟨?_, ?_, (Blk.Frame.refl s (· = ETH_MGMT_STATUS)).put.setF (x := ETH_MGMT_STATUS_KEY1_SET) rfl⟩
  · rw [Blk.setF_acc]
    show (if v = 0 then none else some v) = _
    simp only [hv, h0]
  · rw [Blk.fb_setF_same _ _ _ (by decide) (by decide), hv]
    by_cases h : k = 0
    · simp [h, b2n]
    · have hn : k.toNat ≠ 0 := fun g => h (h0.mp g)
      rw [decide_eq_true (show k ≠ 0 from h)]
      simp [hn, b2n]

/-! ### Frames forwarded (R367, R480) -/

/-- The other port of the two. -/
theorem ethOn_other {port : Fin 2} (h0 : s.ethOn 0 = true) (h1 : s.ethOn 1 = true) : s.ethOn port = true ∧ s.ethOn (1 - port.val) = true := by
  fin_cases port
  · exact ⟨h0, h1⟩
  · exact ⟨h1, h0⟩

section

variable {port : Fin 2} {tIn tOut : Nat} {x : EthFrame} (hf : x.fcsOk = true) (h0 : s.ethOn 0 = true) (h1 : s.ethOn 1 = true)
  (hw : s.fb ETH_GCFG_FWD = true)
  (hd : bitOf (x.bytes.getD 0 0).toNat 0 = true ∨ (beNat (x.bytes.take 6) ≠ s.ethMac 0 ∧ beNat (x.bytes.take 6) ≠ s.ethMac 1))
include hf h0 h1 hw hd

theorem ethForward_eq : ethForward port tIn tOut x s =
    if 65536 < ((s.acc.fwd.filter fun e => e.1 == port.val && decide (tIn < e.2.1)).map fun e => e.2.2).sum + x.bytes.length then
      s.incSat (ETH_FWD_DROPS port)
    else
      let u : Blk := { s with acc := { s.acc with fwd := (s.acc.fwd.filter fun e => e.1 != port.val || decide (tIn < e.2.1)) ++ [(port.val, tOut, x.bytes.length)] } }
      match (u.transparent port ((tOut : Int) - tIn) x.bytes).2 with
      | some bs => (u.transparent port ((tOut : Int) - tIn) x.bytes).1.emit (.forward (1 - port.val) bs)
      | none => (u.transparent port ((tOut : Int) - tIn) x.bytes).1 := by
  obtain ⟨hp, hq⟩ := ethOn_other (port := port) h0 h1
  have hown : (!bitOf (x.bytes.getD 0 0).toNat 0 && (beNat (x.bytes.take 6) == s.ethMac 0 || beNat (x.bytes.take 6) == s.ethMac 1)) = false := by
    obtain h | ⟨ha, hb⟩ := hd
    · rw [h]; rfl
    · rw [beq_false_of_ne ha, beq_false_of_ne hb, Bool.or_self, Bool.and_false]
  simp only [ethForward, hf, hp, hq, hw, hown, Bool.not_true, Bool.or_self, Bool.false_eq_true, if_false] <;> rfl

theorem ethForward_sent (hr : ((s.acc.fwd.filter fun e => e.1 == port.val && decide (tIn < e.2.1)).map fun e => e.2.2).sum + x.bytes.length ≤ 65536)
    (ho : ptpOffset x.bytes = none) : ethForward port tIn tOut x s =
      { s with acc := { s.acc with fwd := (s.acc.fwd.filter fun e => e.1 != port.val || decide (tIn < e.2.1)) ++ [(port.val, tOut, x.bytes.length)] },
               out := .forward (1 - port.val) x.bytes :: s.out } := by
  rw [ethForward_eq hf h0 h1 hw hd, if_neg (Nat.not_lt.2 hr)]
  have ht (u : Blk) (d : Int) : u.transparent port d x.bytes = (u, some x.bytes) := by
    simp only [Blk.transparent, ho, ite_self]
  simp only [ht]
  rfl

end

/-! ### Links -/

theorem ethLink_spec (s : Blk) (port : Nat) (up : Bool) : (ethLink port up s).fb (ETH_STATUS_LINK port) = up ∧
    (ethLink port up s).fb (ETH_STATUS_DOWN port) = (!up || s.fb (ETH_STATUS_DOWN port)) ∧ s.OnlyRegs (ethLink port up s) (· = ETH_STATUS port) := by
  have hl : (s.setF (ETH_STATUS_LINK port) (b2n up)).fb (ETH_STATUS_LINK port) = up := by
    rw [Blk.fb_setF_same _ _ _ (le_refl _) (show 0 < 24 by decide)]
    cases up <;> rfl
  have hd : (s.setF (ETH_STATUS_LINK port) (b2n up)).fb (ETH_STATUS_DOWN port) = s.fb (ETH_STATUS_DOWN port) :=
    Blk.fb_setF_ne _ _ _ _ (le_refl _) (le_refl _) (show 1 < 24 by decide) (.inr (.inr (show 0 < 1 by decide)))
  have hO : s.OnlyRegs (s.setF (ETH_STATUS_LINK port) (b2n up)) (· = ETH_STATUS port) :=
    (Blk.OnlyRegs.refl s (· = ETH_STATUS port)).setF (x := ETH_STATUS_LINK port) rfl
  cases up
  · refine ⟨(Blk.fb_setF_ne _ _ _ _ (le_refl _) (le_refl _) (show 0 < 24 by decide) (.inr (.inl (show 0 < 1 by decide)))).trans hl, ?_,
      hO.setF (x := ETH_STATUS_DOWN port) rfl⟩
    exact Blk.fb_setF_same _ _ _ (le_refl _) (show 1 < 24 by decide)
  · exact ⟨hl, hd, hO⟩

/-- Settles O53: a lemma for each clause. -/
theorem managementAndEthernet : Obligations.ManagementAndEthernet := by
  intro z port src
  refine ⟨fun d key k hon hmay hlen hhead hslot hbody hkey => ?_, fun target hon ho => .of_always (f := arpRequest port src target.toNat) rfl ?_,
    fun target hon ho => .of_always (f := neighbour port src target.toNat) rfl ?_, fun ha => ⟨fun q k => .of_on (f := mgmtKey1 k.toNat) rfl ha ?_,
    fun target body hon ho => .of_on (f := echoRequest port src (.v4 target) body) rfl ha ?_, fun tIn tOut x hf h0 h1 hw hd => ⟨fun hr ho =>
      .of_on (f := ethForward port tIn tOut x) rfl ha (ethForward_sent hf h0 h1 hw hd hr ho), fun hr => .of_on (f := ethForward port tIn tOut x) rfl ha ?_⟩,
    fun up => .of_on (f := ethLink port up) rfl ha (ethLink_spec _ _ _), fun hon => .of_on (f := ethRxDrop port) rfl ha ?_⟩⟩
  · have h : MgmtHead z.blk port d key k := ⟨hon, hmay, hlen, hhead, hslot, hbody, hkey⟩
    refine ⟨fun hc hs h1 h31 hn => .of_always (f := mgmtRequest port src d) rfl ?_, fun hc => .of_always (f := mgmtRequest port src d) rfl ?_⟩
    · rw [h.answered src hc hs h1 h31 hn]
      exact ⟨rfl, alook_aput_same _ _ _ _, rfl, fun _ => rfl, rfl, rfl⟩
    · rw [h.wrong src hc]
      obtain ⟨hn, ho, hF⟩ := z.blk.mgmtFail_spec port 0
      exact ⟨hn, ho, hF.1, hF.2⟩
  · exact if_pos (by rw [hon, ho]; rfl)
  · exact if_pos (by rw [hon, ho]; rfl)
  · obtain ⟨h1, h2, h3⟩ := mgmtKey1_spec z.blk k
    exact ⟨h1, h2, h3.1, h3.2⟩
  · exact if_pos (show (z.blk.ethOn port && z.blk.ownIp4 port target.toNat) = true by rw [hon, ho]; rfl)
  · rw [ethForward_eq hf h0 h1 hw hd, if_pos hr]
    exact ⟨Blk.rn_incSat_same _ _, (Blk.OnlyRegs.refl z.blk (· = ETH_FWD_DROPS port)).wn rfl⟩
  · have he : ethRxDrop port z.blk = z.blk.incSat (ETH_RX_DROPS port) := if_pos hon
    rw [he]
    exact ⟨Blk.rn_incSat_same _ _, (Blk.OnlyRegs.refl z.blk (· = ETH_RX_DROPS port)).wn rfl⟩

end Sys2Proof.Machine
end

section
/-!
PROOFS. Changes that a pairing agrees and paired writes (R295, R297), and the messages of a pairing (R291 to R300, R306).
-/

namespace Sys2Proof.Machine

variable {r s t : Blk} {p : Nat → Prop}

theorem pairWord_lt {a : Nat} (h : a < 0x110000) : ¬pairWord a := pairWord_ne (.inl (by omega))

/-! ### Agreed changes come into force -/

theorem Blk.agreedApply_single {g : Agr} {n : Nat} (h : s.twn.agreed = [g]) (hd : s.agreedDue n g = true) :
    s.agreedApply n = (s.withTwn fun x => { x with agreed := [] }).applyAgreed g n := by
  have hgo : s.twn.agreed.filter (s.agreedDue n) = [g] := by rw [h, List.filter_cons_of_pos hd, List.filter_nil]
  have hleft : ([g].filter fun x => !([g].contains x)) = [] := by simp
  simp only [Blk.agreedApply, hgo, List.foldl_cons, List.foldl_nil]
  simp only [Blk.withTwn, h, hleft]

theorem Blk.applyAgreed_nozzle {g : Agr} (n : Nat) (h : g.typ = 0) : s.applyAgreed g n = s.wn g.addr g.val := by simp only [Blk.applyAgreed, h]

theorem Blk.applyAgreed_rung {g : Agr} (n : Nat) (h : g.typ = 2) : s.applyAgreed g n = s.rungChange (g.val % 4) n := by simp only [Blk.applyAgreed, h]

theorem agreedChangeApply_nozzle {g : Agr} (hi : s.allIdle = false) (h : s.twn.agreed = [g]) (hd : s.agreedDue (s.fireNum + 3) g = true) (ht : g.typ = 0)
    (hl : 0x080000 ≤ g.addr) (hu : g.addr < 0x0a0000) :
    (agreedChangeApply s).twn.agreed = [] ∧ (agreedChangeApply s).rn g.addr = g.val % 2 ^ 24 ∧ s.Frame (agreedChangeApply s) (· = g.addr) := by
  have heq : s.agreedApply (s.fireNum + 3) = (s.withTwn fun x => { x with agreed := [] }).wn g.addr g.val := by
    rw [Blk.agreedApply_single h hd, Blk.applyAgreed_nozzle _ ht]
  have hF : s.Frame ((s.withTwn fun x => { x with agreed := [] }).wn g.addr g.val) (· = g.addr) := ((Blk.Frame.refl s _).put).wn rfl
  have hb : ((s.withTwn fun x => { x with agreed := [] }).wn g.addr g.val).allIdle = false :=
    (hF.1.allIdle fun j hj => by simp only [PGE_TRK_STATUS]; omega).trans hi
  rw [agreedChangeApply, heq, Blk.settle_of_busy hb]
  exact ⟨rfl, Blk.rn_wn_same _ _ _, hF⟩

theorem Blk.rungChange_spec (s : Blk) {k : Nat} (n : Nat) (hk : k < 4) :
    (s.rungChange k n).f LCK_STATUS_RUNG = k ∧ (s.rungChange k n).twn = s.twn ∧ s.Frame (s.rungChange k n) (· = LCK_STATUS) := by
  unfold Blk.rungChange
  split
  case isTrue h => exact ⟨h, rfl, .refl s _⟩
  case isFalse =>
    have hf : (s.setF LCK_STATUS_RUNG k).f LCK_STATUS_RUNG = k := (Blk.f_setF_same _ _ _ (by decide) (by decide)).trans (Nat.mod_eq_of_lt hk)
    have hF : s.Frame (s.setF LCK_STATUS_RUNG k) (· = LCK_STATUS) := (Blk.Frame.refl s (· = LCK_STATUS)).setF (x := LCK_STATUS_RUNG) rfl
    have ht : (s.setF LCK_STATUS_RUNG k).twn = s.twn := Blk.setF_twn _ _ _
    generalize s.setF LCK_STATUS_RUNG k = u at hf hF ht
    refine ⟨(Blk.f_of_reg (Blk.reg_count _ _ _ (by decide))).trans hf, ?_, hF.put.count⟩
    rw [Blk.count_twn]
    exact ht

theorem agreedChangeApply_rung {g : Agr} (hi : s.allIdle = false) (h : s.twn.agreed = [g]) (hd : s.agreedDue (s.fireNum + 3) g = true) (ht : g.typ = 2) :
    (agreedChangeApply s).twn.agreed = [] ∧ (agreedChangeApply s).f LCK_STATUS_RUNG = g.val % 4 ∧ s.Frame (agreedChangeApply s) (· = LCK_STATUS) := by
  have heq : s.agreedApply (s.fireNum + 3) = (s.withTwn fun x => { x with agreed := [] }).rungChange (g.val % 4) (s.fireNum + 3) := by
    rw [Blk.agreedApply_single h hd, Blk.applyAgreed_rung _ ht]
  obtain ⟨hf, htw, hF⟩ := (s.withTwn fun x => { x with agreed := [] }).rungChange_spec (k := g.val % 4) (s.fireNum + 3) (Nat.mod_lt _ (by decide))
  have hFs : s.Frame _ (· = LCK_STATUS) := ((Blk.Frame.refl s _).put).trans hF
  have hb : ((s.withTwn fun x => { x with agreed := [] }).rungChange (g.val % 4) (s.fireNum + 3)).allIdle = false :=
    (hFs.1.allIdle fun j hj => by simp only [PGE_TRK_STATUS, LCK_STATUS]; omega).trans hi
  rw [agreedChangeApply, heq, Blk.settle_of_busy hb]
  exact ⟨(congrArg Twn.agreed htw).trans rfl, hf, hFs⟩

/-! ### Paired writes -/

theorem Blk.twn_pairOut (s : Blk) (ws : List Nat) : (s.pairOut ws).twn = s.twn := by
  rw [Blk.pairOut, Blk.pairAll]
  split
  · rfl
  · obtain ⟨_, _, _, _, _, _, e⟩ := ((Blk.Sent.refl s).sendAll (l := 2) (by decide) (ms := [ws].map fun ws => ⟨1, 3, s.header 8 0 0 0 ++ ws⟩)).rest
    rw [e]

theorem Blk.roled_pairOut (s : Blk) (ws : List Nat) : s.Roled pairWord (s.pairOut ws) := (Blk.Roled.refl s).pairOut fun _ h => h

theorem pairedWrite_agreed (alone : Nat → Word → Blk → Blk) (w : Word) (hb : s.fb TWN_PW_STATUS_BUSY = false) (h2 : s.twnState = 2) (hh : s.heard = true)
    (h3 : s.twn.ptState = 3) : pairedWrite alone w s = (s.setF TWN_PW_STATUS_BUSY 1).agree 3 (s.rn TWN_PW_ADDR) w.toNat := by
  rw [pairedWrite, hb]
  exact (if_neg Bool.false_ne_true).trans (if_pos ⟨by rw [h2]; decide, hh, .inr h3⟩)

theorem Blk.agree_spec (s : Blk) (typ a v : Nat) : (s.agree typ a v).twn.agreed =
      s.twn.agreed ++ [⟨(s.fireNum + s.twnLead) % 2 ^ 48, typ, a, v, false, s.twn.seq⟩] ∧ s.Frame (s.agree typ a v) pairWord := by
  unfold Blk.agree
  extract_lets n x u
  exact ⟨congrArg Twn.agreed (u.twn_pairOut _), ((Blk.Frame.refl s _).put (twn := u.twn)).trans (u.roled_pairOut _).frame⟩

theorem execPaired_agreed (w : Word) (hi : s.allIdle = false) (hb : s.fb TWN_PW_STATUS_BUSY = false) (h2 : s.twnState = 2) (hh : s.heard = true)
    (h3 : s.twn.ptState = 3) :
    let b := (pairedWrite pairedHere w s).settle
    b.fb TWN_PW_STATUS_BUSY = true ∧
      b.twn.agreed = s.twn.agreed ++ [⟨(s.fireNum + s.twnLead) % 2 ^ 48, 3, s.rn TWN_PW_ADDR, w.toNat, false, s.twn.seq⟩] ∧
      s.Frame b fun a => a = TWN_PW_STATUS ∨ pairWord a := by
  obtain ⟨ha, hF⟩ := (s.setF TWN_PW_STATUS_BUSY 1).agree_spec 3 (s.rn TWN_PW_ADDR) w.toNat
  have hO : s.OnlyRegs (s.setF TWN_PW_STATUS_BUSY 1) (· = TWN_PW_STATUS) := (Blk.OnlyRegs.refl s (· = TWN_PW_STATUS)).setF (x := TWN_PW_STATUS_BUSY) rfl
  have hbusy : (s.setF TWN_PW_STATUS_BUSY 1).fb TWN_PW_STATUS_BUSY = true := Blk.fb_setF_same _ _ _ (by decide) (by decide)
  rw [pairedWrite_agreed pairedHere w hb h2 hh h3]
  generalize s.setF TWN_PW_STATUS_BUSY 1 = u at ha hF hO hbusy
  have hfire : u.fireNum = s.fireNum := Blk.val_of_reg fun i hi => hO.2 _ (by simp only [HLK_FIRE_NUM, TWN_PW_STATUS]; omega)
  have hlead : u.twnLead = s.twnLead := by rw [Blk.twnLead, Blk.f_of_reg (hO.2 _ (by decide)), Blk.twnLead]
  have htwn : u.twn = s.twn := by rw [hO.1]
  have hFs : s.Frame (u.agree 3 (s.rn TWN_PW_ADDR) w.toNat) fun a => a = TWN_PW_STATUS ∨ pairWord a :=
    Blk.Frame.trans ⟨hO.regsBut.mono fun _ => .inl, hO.calm⟩ (hF.mono fun _ => .inr)
  have hb : (u.agree 3 (s.rn TWN_PW_ADDR) w.toNat).allIdle = false :=
    (hFs.1.allIdle fun j hj => by
      rintro (h | h)
      · simp only [PGE_TRK_STATUS, TWN_PW_STATUS] at h
        omega
      · exact pairWord_lt (by simp only [PGE_TRK_STATUS]; omega) h).trans hi
  rw [hfire, hlead, htwn] at ha
  rw [Blk.settle_of_busy hb]
  exact ⟨(hF.1.fb (by decide) (pairWord_lt (by decide))).trans hbusy, ha, hFs⟩

theorem wordInfo_nozzle {a : Nat} (hl : 0x080000 ≤ a) (hu : a < 0x0a0000) : wordInfo a = some (winOf a .line 0 0xffffff) := by
  have hk : a / 2 ^ 16 = 8 ∨ a / 2 ^ 16 = 9 := by omega
  have hw : winWord a = some (winOf a .line 0 0xffffff) := by
    obtain h | h := hk <;> simp only [winWord, h]
  rw [wordInfo, hw]

/-- A nozzle word written on this unit alone is held for the line boundary. -/
theorem pairedHere_nozzle {a : Nat} (w : Word) (hl : 0x080000 ≤ a) (hu : a < 0x0a0000) : pairedHere a w s = s.hold a w .line := by
  have hk : a / 2 ^ 16 = 8 ∨ a / 2 ^ 16 = 9 := by omega
  have hs : s.special none a w = some (s.hold a w .line) := by
    obtain h | h := hk <;> simp only [Blk.special, h] <;> rfl
  have hne : a ≠ TWN_PW_DATA := by simp only [TWN_PW_DATA]; omega
  rw [pairedHere, wordInfo_nozzle hl hu]
  simp only [if_neg hne, Blk.wordWrite, hs]
  rfl

theorem pairedWrite_alone (alone : Nat → Word → Blk → Blk) (w : Word) (hb : s.fb TWN_PW_STATUS_BUSY = false) (h0 : s.twnState = 0) :
    pairedWrite alone w s = alone (s.rn TWN_PW_ADDR) w (s.setF TWN_PW_STATUS_LOCAL 1) := by
  rw [pairedWrite, hb]
  exact (if_neg Bool.false_ne_true).trans (if_neg fun h => h.1 h0)

theorem Blk.holdNozzle_spec {u : Blk} {a : Nat} (w : Word) (hi : s.allIdle = false) (hF : s.Frame u (· = TWN_PW_STATUS))
    (hf : u.fb TWN_PW_STATUS_LOCAL = true) :
    (u.hold a w .line).settle.fb TWN_PW_STATUS_LOCAL = true ∧ (u.hold a w .line).settle.lastWritten a = w ∧
      s.Frame (u.hold a w .line).settle (· = TWN_PW_STATUS) := by
  have hF' : s.Frame (u.hold a w .line) (· = TWN_PW_STATUS) := hF.put
  rw [Blk.settle_of_busy ((hF'.1.allIdle fun j hj => by simp only [PGE_TRK_STATUS, TWN_PW_STATUS]; omega).trans hi)]
  exact ⟨hf, Blk.lastWritten_hold_same _ _ _ _, hF'⟩

theorem execPaired_alone (w : Word) (hi : s.allIdle = false) (hb : s.fb TWN_PW_STATUS_BUSY = false) (h0 : s.twnState = 0)
    (hl : 0x080000 ≤ s.rn TWN_PW_ADDR) (hu : s.rn TWN_PW_ADDR < 0x0a0000) :
    let b := (pairedWrite pairedHere w s).settle
    b.fb TWN_PW_STATUS_LOCAL = true ∧ b.lastWritten (s.rn TWN_PW_ADDR) = w ∧ s.Frame b (· = TWN_PW_STATUS) := by
  rw [pairedWrite_alone pairedHere w hb h0, pairedHere_nozzle w hl hu]
  exact Blk.holdNozzle_spec w hi ((Blk.Frame.refl s (· = TWN_PW_STATUS)).setF (x := TWN_PW_STATUS_LOCAL) rfl)
    (Blk.fb_setF_same _ _ _ (by decide) (by decide))

/-- Settles O26: a lemma for each kind of change and each way of a paired write. -/
theorem agreedChanges : Obligations.AgreedChanges := by
  intro z ha hi
  refine ⟨fun g hg hd => ⟨fun ht hl hu => .of_on (f := agreedChangeApply) rfl ha ?_, fun ht => .of_on (f := agreedChangeApply) rfl ha ?_⟩,
    fun w hb => ⟨fun h2 hh h3 => .of_on (f := fun b => (pairedWrite pairedHere w b).settle) rfl ha ?_,
      fun h0 hl hu => .of_on (f := fun b => (pairedWrite pairedHere w b).settle) rfl ha ?_⟩⟩
  · obtain ⟨h1, h2, h3⟩ := agreedChangeApply_nozzle hi hg hd ht hl hu
    exact ⟨h1, h2, h3.1, h3.2⟩
  · obtain ⟨h1, h2, h3⟩ := agreedChangeApply_rung hi hg hd ht
    exact ⟨h1, h2, h3.1, h3.2⟩
  · obtain ⟨h1, h2, h3⟩ := execPaired_agreed w hi hb h2 hh h3
    exact ⟨h1, h2, h3.1, h3.2⟩
  · obtain ⟨h1, h2, h3⟩ := execPaired_alone w hi hb h0 hl hu
    exact ⟨h1, h2, h3.1, h3.2⟩

end Sys2Proof.Machine
end

section
/-!
PROOFS. The messages of a pairing: heartbeats, the mirror, agreed changes, the shadow compare and resynchronisation (R291 to R300, R306).
-/

namespace Sys2Proof.Machine

variable {r s t : Blk} {p : Nat → Prop}

/-! ### Heartbeats sent -/

/-- A heartbeat that leaves at once (R292, R349). -/
theorem Blk.sendHb_at_once (h3 : s.twnState ≠ 0) (hu : s.linkUp 2 = true) (hid : s.chipId ≠ 0) (ha : s.linkAwake 2 = true) (hq : (s.link 2).queue = [])
    (hc : (s.link 2).credits ≠ 0) :
    (∃ lane, s.sendHb.out = .wale 2 lane ([8 * 2 ^ 16 + ((s.link 2).sent + 1) % 256 * 256 + (s.link 2).freed % 256, s.chipId, 0] ++ s.hbWords) :: s.out) ∧
      (s.sendHb.link 2).sent = ((s.link 2).sent + 1) % 256 ∧ s.sendHb.twn.seq = (s.twn.seq + 1) % 256 ∧ s.sendHb.twn.sentAt = s.now ∧
      s.Frame s.sendHb (· = WAL_LINK_STATUS 2) := by
  obtain ⟨lanes, wires, links, turn, lane, e, hl⟩ := s.sendBuffered_at_once (l := 2) (m := ⟨1, 3, s.header 8 0 0 0 ++ s.hbWords⟩) hu ha hq hc rfl
  have hp : s.pairOut s.hbWords = s.sendBuffered 2 ⟨1, 3, s.header 8 0 0 0 ++ s.hbWords⟩ := if_neg hid
  have hs : ∃ x : Twn, s.sendHb = { s.pairOut s.hbWords with twn := x } ∧ x.seq = (s.twn.seq + 1) % 256 ∧ x.sentAt = s.now :=
    ⟨_, if_neg h3, rfl, rfl⟩
  obtain ⟨x, hx, hseq, hat⟩ := hs
  have hF : s.Frame (s.pairOut s.hbWords) (· = WAL_LINK_STATUS 2) := by
    rw [hp, e]
    exact ((Blk.Frame.refl s _).put).showCredits rfl
  have hlink : (s.pairOut s.hbWords).links = links := by rw [hp, e, Blk.links_showCredits]
  have hout : ∃ lane, (s.pairOut s.hbWords).out =
      .wale 2 lane ([8 * 2 ^ 16 + ((s.link 2).sent + 1) % 256 * 256 + (s.link 2).freed % 256, s.chipId, 0] ++ s.hbWords) :: s.out := by
    rw [hp, e, Blk.showCredits, Blk.setF_out]
    exact ⟨lane, by simp [Blk.header]⟩
  rw [hx]
  refine ⟨hout, ?_, hseq, hat, hF.put⟩
  show ((s.pairOut s.hbWords).link 2).sent = _
  rw [Blk.link_of_links hlink, hl.1]
  rfl

theorem heartbeatSend_due (t : Nat) (h3 : s.twnState = 3) (hd : s.twn.sentAt + 2000 ≤ max s.now t) (hu : s.fb (WAL_LINK_STATUS_UP 2) = true)
    (hid : s.chipId ≠ 0) (ha : (s.advance t).linkAwake 2 = true) (hq : (s.link 2).queue = []) (hc : (s.link 2).credits ≠ 0) :
    (∃ lane, (heartbeatSend t s).out = .wale 2 lane ([8 * 2 ^ 16 + ((s.link 2).sent + 1) % 256 * 256 + (s.link 2).freed % 256, s.chipId, 0] ++
        (s.advance t).hbWords) :: s.out) ∧ ((heartbeatSend t s).link 2).sent = ((s.link 2).sent + 1) % 256 ∧
      (heartbeatSend t s).twn.seq = (s.twn.seq + 1) % 256 ∧ (heartbeatSend t s).twn.sentAt = max s.now t ∧
      s.Frame (heartbeatSend t s) (· = WAL_LINK_STATUS 2) := by
  have hst : (s.advance t).twnState = 3 := (s.f_advance t (by decide)).trans h3
  obtain ⟨hout, hsent, hseq, hat, hF⟩ := (s.advance t).sendHb_at_once (by rw [hst]; decide) ((s.linkUp_advance t 2 (by decide)).trans hu)
    (by rw [s.chipId_advance]; exact hid) ha (by rw [s.link_advance]; exact hq) (by rw [s.link_advance]; exact hc)
  have heq : heartbeatSend t s = (s.advance t).sendHb := by
    have hst' : (s.advance t).sendHb.twnState = 3 := (hF.1.f (x := TWN_STATUS_STATE) (by decide) (by decide)).trans hst
    unfold heartbeatSend
    extract_lets a b
    have ha : a = s.advance t := rfl
    have hb : b = (s.advance t).sendHb := rfl
    rw [if_neg (by rw [ha, s.now_advance, s.advance_twn]; omega), if_neg (by rw [hb, hst']; simp)]
  rw [s.link_advance, s.chipId_advance, s.advance_out] at hout
  rw [s.link_advance] at hsent
  rw [s.advance_twn] at hseq
  rw [s.now_advance] at hat
  rw [heq]
  exact ⟨hout, hsent, hseq, hat, (Blk.Frame.refl s _).advance.trans hF⟩

/-! ### Heartbeats received -/

/-- What later steps of a received heartbeat leave of what it showed: that the partner is heard, its words, and when it was heard. -/
structure Blk.PtKept (r s : Blk) : Prop where
  up : s.fb TWN_STATUS_PARTNER_UP = r.fb TWN_STATUS_PARTNER_UP
  silent : s.fb TWN_HEALTH_PARTNER_SILENT = r.fb TWN_HEALTH_PARTNER_SILENT
  health : s.rn TWN_PARTNER_HEALTH = r.rn TWN_PARTNER_HEALTH
  epoch : s.rn TWN_PARTNER_EPOCH = r.rn TWN_PARTNER_EPOCH
  sum : s.rn TWN_PARTNER_SUM = r.rn TWN_PARTNER_SUM
  hbAt : s.twn.hbAt = r.twn.hbAt
  calm : r.Calm s

/-- The words that `PtKept` reads whole. -/
def ptWord (a : Nat) : Prop := a = TWN_PARTNER_HEALTH ∨ a = TWN_PARTNER_EPOCH ∨ a = TWN_PARTNER_SUM

theorem Blk.twn_abortLine (s : Blk) (n : Nat) : (s.abortLine n).twn = s.twn := by
  unfold Blk.abortLine
  extract_lets x
  split
  · have hc : (s.setPort n { x with frame := none }).Lined ((s.setPort n { x with frame := none }).txCut n s.nowPs) := (Blk.Lined.refl _).txTo.setTx
    obtain ⟨lanes, wires, e⟩ := hc
    split
    · rw [e]
      rfl
    · rfl
  · rfl

theorem Blk.twn_abortLines (s : Blk) : ((List.range 32).foldl Blk.abortLine s).twn = s.twn :=
  List.foldlRecOn (motive := fun u : Blk => u.twn = s.twn) (List.range 32) Blk.abortLine rfl fun u h n _ => (u.twn_abortLine n).trans h

namespace Blk.PtKept

theorem refl (r : Blk) : r.PtKept r := ⟨rfl, rfl, rfl, rfl, rfl, rfl, .refl r⟩

theorem trans (h : r.PtKept s) (g : s.PtKept t) : r.PtKept t :=
  ⟨g.up.trans h.up, g.silent.trans h.silent, g.health.trans h.health, g.epoch.trans h.epoch, g.sum.trans h.sum, g.hbAt.trans h.hbAt, h.calm.trans g.calm⟩

/-- A step that writes none of the words, and no time of a heartbeat. -/
theorem frame (h : r.PtKept s) {q : Nat → Prop} (hF : s.Frame t q) (ht : t.twn.hbAt = s.twn.hbAt) (hS : ¬q TWN_STATUS) (hH : ¬q TWN_HEALTH)
    (hP : ∀ a, ptWord a → ¬q a) : r.PtKept t :=
  h.trans ⟨hF.1.fb (by decide) hS, hF.1.fb (by decide) hH, hF.1.rn (by decide) (hP _ (.inl rfl)), hF.1.rn (by decide) (hP _ (.inr (.inl rfl))),
    hF.1.rn (by decide) (hP _ (.inr (.inr rfl))), ht, hF.2⟩

/-- A field of TWN_STATUS or TWN_HEALTH beside the two that are read. -/
theorem setF (h : r.PtKept s) {x : Fld} {v : Nat} (hl : x.lo ≤ x.hi)
    (hx : x.addr = TWN_STATUS ∧ (x.hi < 14 ∨ 14 < x.lo) ∨ x.addr = TWN_HEALTH ∧ (x.hi < 21 ∨ 21 < x.lo)) : r.PtKept (s.setF x v) := by
  have hp : ∀ a, ptWord a → a ≠ x.addr := by
    rintro a (rfl | rfl | rfl) e <;> obtain ⟨h, -⟩ | ⟨h, -⟩ := hx <;> rw [h] at e <;> exact absurd e (by decide)
  refine h.trans ⟨?_, ?_, Blk.rn_setF_ne _ _ _ (hp _ (.inl rfl)), Blk.rn_setF_ne _ _ _ (hp _ (.inr (.inl rfl))), Blk.rn_setF_ne _ _ _ (hp _ (.inr (.inr rfl))),
    congrArg Twn.hbAt (Blk.setF_twn _ _ _), ((Blk.OnlyRegs.refl s (· = x.addr)).setF rfl).calm⟩
  · refine Blk.fb_setF_ne _ _ _ _ hl (by decide) (by decide) ?_
    obtain ⟨-, g⟩ | ⟨g, -⟩ := hx
    · exact .inr g.symm
    · exact .inl (by rw [g]; decide)
  · refine Blk.fb_setF_ne _ _ _ _ hl (by decide) (by decide) ?_
    obtain ⟨g, -⟩ | ⟨-, g⟩ := hx
    · exact .inl (by rw [g]; decide)
    · exact .inr g.symm

theorem withTwn (h : r.PtKept s) {f : Twn → Twn} (hf : (f s.twn).hbAt = s.twn.hbAt) : r.PtKept (s.withTwn f) :=
  h.trans ⟨rfl, rfl, rfl, rfl, rfl, hf, fun _ => rfl, rfl, rfl⟩

theorem raise (h : r.PtKept s) {c i d0 d1 : Nat} : r.PtKept (s.raise c i d0 d1) := h.trans ⟨rfl, rfl, rfl, rfl, rfl, rfl, fun _ => rfl, rfl, rfl⟩

theorem ite {c : Prop} [Decidable c] (hs : r.PtKept s) (ht : r.PtKept t) : r.PtKept (if c then s else t) := by
  split
  · exact hs
  · exact ht

theorem pairOut (h : r.PtKept s) {ws : List Nat} : r.PtKept (s.pairOut ws) :=
  h.frame (s.roled_pairOut ws).frame (congrArg Twn.hbAt (s.twn_pairOut ws)) (pairWord_lt (by decide)) (pairWord_lt (by decide))
    fun _ ha => pairWord_lt (by obtain rfl | rfl | rfl := ha <;> decide)

theorem sendHb (h : r.PtKept s) : r.PtKept s.sendHb := by
  refine h.ite (h.pairOut.trans ⟨rfl, rfl, rfl, rfl, rfl, ?_, fun _ => rfl, rfl, rfl⟩)
  exact (congrArg Twn.hbAt (s.twn_pairOut _)).symm

theorem setRole (h : r.PtKept s) {k : Nat} : r.PtKept (s.setRole k) := by
  have h0 : r.PtKept (s.setF TWN_STATUS_STATE k) := h.setF (by decide) (by decide)
  have h1 : r.PtKept ((s.setF TWN_STATUS_STATE k).setF TWN_HEALTH_SYNCED 1) := h0.setF (by decide) (by decide)
  have h2 : r.PtKept ((s.setF TWN_STATUS_STATE k).setF TWN_HEALTH_SYNCED 0) := h0.setF (by decide) (by decide)
  exact ((h1.ite (h0.ite h2)).setF (x := TWN_HEALTH_LBIST_ACTIVE) (by decide) (by decide)).setF (x := TWN_STATUS_RESYNC_STEP) (by decide) (by decide)

theorem release (h : r.PtKept s) : r.PtKept s.release := by
  have h0 : r.PtKept ((List.range 32).foldl Blk.abortLine s) := by
    have hR : s.Roled (fun _ => False) ((List.range 32).foldl Blk.abortLine s) := Blk.Roled.foldl (fun _ _ g => g.abortLine) _ (.refl s)
    exact h.frame hR.frame (congrArg Twn.hbAt s.twn_abortLines) id id fun _ _ => id
  exact ((h0.setF (x := TWN_HEALTH_CLAIM_HELD) (by decide) (by decide)).setF (x := TWN_STATUS_DRIVING) (by decide) (by decide)).sendHb

theorem faultPorts (h : r.PtKept s) : r.PtKept (s.faultBit TWN_HEALTH_PORTS) := by
  have h1 : r.PtKept (s.setF TWN_HEALTH_PORTS 1) := h.setF (by decide) (by decide)
  unfold Blk.faultBit
  extract_lets u v
  refine h.ite ?_
  split
  · exact (PtKept.setRole (h1.withTwn (f := fun x => { x with refused := true }) rfl)).release.raise
  · exact h1.setRole.sendHb
  · exact h1.sendHb

theorem conflict (h : r.PtKept s) {why : Nat} : r.PtKept (s.conflict why) := (h.setF (x := TWN_STATUS_CONFLICT) (by decide) (by decide)).raise

theorem ackAgreed (h : r.PtKept s) {a : Nat} : r.PtKept (s.ackAgreed a) := by
  unfold Blk.ackAgreed
  extract_lets got u
  have hu : r.PtKept u := h.withTwn rfl
  split
  · refine ite ?_ hu
    exact (hu.withTwn (f := fun x => { x with pwSeq := none }) rfl).frame
      ((Blk.Frame.refl _ (· = TWN_PW_STATUS)).setF (x := TWN_PW_STATUS_BUSY) rfl) (congrArg Twn.hbAt (Blk.setF_twn _ _ _)) (by decide) (by decide)
      fun a ha => by obtain rfl | rfl | rfl := ha <;> decide
  · exact hu

theorem sumCheck (h : r.PtKept s) : r.PtKept s.sumCheck := by
  unfold Blk.sumCheck
  extract_lets own n u
  have hu : r.PtKept u := h.withTwn rfl
  exact ite ((h.setF (x := TWN_HEALTH_SUM_MIS) (by decide) (by decide)).withTwn rfl) (ite (hu.setF (x := TWN_HEALTH_SUM_MIS) (by decide) (by decide)).raise hu)

theorem clashCheck (h : r.PtKept s) : r.PtKept s.clashCheck := by
  unfold Blk.clashCheck
  extract_lets x u own pt keep
  have hu : r.PtKept u := (h.withTwn (f := fun x => { x with clash := true }) rfl).conflict
  exact ite (h.withTwn rfl) (ite h (ite hu (hu.setF (x := TWN_HEALTH_CLAIM_LINE_FAULT) (by decide) (by decide)).setRole.release))

theorem portsCheck (h : r.PtKept s) : r.PtKept s.portsCheck := by
  unfold Blk.portsCheck
  extract_lets u
  have hu : r.PtKept u := h.withTwn rfl
  exact ite hu.faultPorts hu

end Blk.PtKept

/-- A received heartbeat's words, as they show. -/
def Blk.hbShown (s : Blk) (m : List Nat) : Blk :=
  (((((s.setF TWN_STATUS_PARTNER_UP 1).setF TWN_HEALTH_PARTNER_SILENT 0).wn TWN_PARTNER_HEALTH (wd m 1)).wn TWN_PARTNER_EPOCH (wd m 2)).wn TWN_PARTNER_SUM
    (wd m 3)).setVal TWN_PARTNER_READY (wd m 6 + 2 ^ 24 * (wd m 7 % 256)) 2

/-- What a received heartbeat shows, heard at `n`. -/
structure Blk.HbSeen (s : Blk) (m : List Nat) (n : Nat) (b : Blk) : Prop where
  heard : b.heard = true
  silent : b.fb TWN_HEALTH_PARTNER_SILENT = false
  health : b.rn TWN_PARTNER_HEALTH = wd m 1
  epoch : b.rn TWN_PARTNER_EPOCH = wd m 2
  sum : b.rn TWN_PARTNER_SUM = wd m 3
  hbAt : b.twn.hbAt = n
  calm : s.Calm b

theorem Blk.HbSeen.kept {m : List Nat} {n : Nat} {b c : Blk} (h : s.HbSeen m n b) (g : b.PtKept c) : s.HbSeen m n c :=
  ⟨g.up.trans h.heard, g.silent.trans h.silent, g.health.trans h.health, g.epoch.trans h.epoch, g.sum.trans h.sum, g.hbAt.trans h.hbAt, h.calm.trans g.calm⟩

theorem Blk.HbSeen.withTwn {u : Blk} {m : List Nat} {n : Nat} {f : Twn → Twn} (h1 : u.heard = true) (h2 : u.fb TWN_HEALTH_PARTNER_SILENT = false)
    (h3 : u.rn TWN_PARTNER_HEALTH = wd m 1) (h4 : u.rn TWN_PARTNER_EPOCH = wd m 2) (h5 : u.rn TWN_PARTNER_SUM = wd m 3) (hf : (f u.twn).hbAt = n)
    (hc : r.Calm u) : r.HbSeen m n (u.withTwn f) := ⟨h1, h2, h3, h4, h5, hf, hc⟩

/-- The words that a received heartbeat shows. -/
def hbWord (a : Nat) : Prop := a = TWN_STATUS ∨ a = TWN_HEALTH ∨ ptWord a ∨ a = TWN_PARTNER_READY ∨ a = TWN_PARTNER_READY + 1

theorem Blk.onlyRegs_hbShown (s : Blk) (m : List Nat) : s.OnlyRegs (s.hbShown m) hbWord := by
  have h0 := ((Blk.OnlyRegs.refl s hbWord).setF (x := TWN_STATUS_PARTNER_UP) (v := 1) (.inl rfl)).setF (x := TWN_HEALTH_PARTNER_SILENT) (v := 0)
    (.inr (.inl rfl))
  have h1 := ((h0.wn (a := TWN_PARTNER_HEALTH) (v := wd m 1) (.inr (.inr (.inl (.inl rfl))))).wn (a := TWN_PARTNER_EPOCH) (v := wd m 2)
    (.inr (.inr (.inl (.inr (.inl rfl)))))).wn (a := TWN_PARTNER_SUM) (v := wd m 3) (.inr (.inr (.inl (.inr (.inr rfl)))))
  refine h1.setVal fun i hi => ?_
  obtain rfl | rfl : i = 0 ∨ i = 1 := by omega
  · exact .inr (.inr (.inr (.inl rfl)))
  · exact .inr (.inr (.inr (.inr rfl)))

theorem Blk.hbShown_spec (s : Blk) {m : List Nat} (hm : ∀ i, wd m i < 2 ^ 24) :
    (s.hbShown m).heard = true ∧ (s.hbShown m).fb TWN_HEALTH_PARTNER_SILENT = false ∧ (s.hbShown m).rn TWN_PARTNER_HEALTH = wd m 1 ∧
      (s.hbShown m).rn TWN_PARTNER_EPOCH = wd m 2 ∧ (s.hbShown m).rn TWN_PARTNER_SUM = wd m 3 := by
  have hval {a : Nat} (u : Blk) (v : Nat) (ha : a < TWN_PARTNER_READY) : (u.setVal TWN_PARTNER_READY v 2).reg a = u.reg a :=
    ((Blk.OnlyRegs.refl u (TWN_PARTNER_READY ≤ ·)).setVal fun i _ => Nat.le_add_right _ _).2 a (Nat.not_le.2 ha)
  unfold Blk.hbShown
  refine ⟨?_, ?_, ?_, ?_, ?_⟩
  · rw [Blk.heard, Blk.fb_of_reg (hval _ _ (by decide)), Blk.fb_of_reg (Blk.reg_wn_ne _ _ (by decide)), Blk.fb_of_reg (Blk.reg_wn_ne _ _ (by decide)),
      Blk.fb_of_reg (Blk.reg_wn_ne _ _ (by decide)), Blk.fb_setF_ne _ _ _ _ (by decide) (by decide) (by decide) (by decide)]
    exact Blk.fb_setF_same _ _ _ (by decide) (by decide)
  · rw [Blk.fb_of_reg (hval _ _ (by decide)), Blk.fb_of_reg (Blk.reg_wn_ne _ _ (by decide)), Blk.fb_of_reg (Blk.reg_wn_ne _ _ (by decide)),
      Blk.fb_of_reg (Blk.reg_wn_ne _ _ (by decide))]
    exact Blk.fb_setF_same _ _ _ (by decide) (by decide)
  · rw [Blk.rn_of_reg (hval _ _ (by decide)), Blk.rn_wn_ne _ _ (by decide), Blk.rn_wn_ne _ _ (by decide), Blk.rn_wn_same, Nat.mod_eq_of_lt (hm 1)]
  · rw [Blk.rn_of_reg (hval _ _ (by decide)), Blk.rn_wn_ne _ _ (by decide), Blk.rn_wn_same, Nat.mod_eq_of_lt (hm 2)]
  · rw [Blk.rn_of_reg (hval _ _ (by decide)), Blk.rn_wn_same, Nat.mod_eq_of_lt (hm 3)]

theorem wd_wordsOf_lt (m : List Word) (i : Nat) : wd (wordsOf m) i < 2 ^ 24 := by
  rw [wd, wordsOf, List.getD_eq_getElem?_getD, List.getElem?_map]
  cases m[i]? with
  | none => decide
  | some w => exact w.isLt

/-- A received heartbeat: the words shown, the time kept, and what follows from them. -/
theorem heartbeatReceived_seen {m : List Nat} (t : Nat) (h0 : s.twnState ≠ 0) (hl : m.length = 8) (hk : kindOf m = 1) (hm : ∀ i, wd m i < 2 ^ 24) :
    s.HbSeen m (max s.now t) (heartbeatReceived t m s) := by
  have hst : (s.advance t).twnState ≠ 0 := by rwa [Blk.twnState, s.f_advance t (by decide)]
  have hca : s.Calm (s.advance t) := s.calm_advance t
  have hna : (s.advance t).now = max s.now t := s.now_advance t
  unfold heartbeatReceived
  extract_lets a first b old health c d e f g i j step
  have ha : a = s.advance t := rfl
  rw [← ha] at hst hca hna
  clear_value a
  rw [if_neg (by rintro (h | h | h); exacts [hst h, h hl, h hk])]
  have hb : s.Calm b ∧ b.now = a.now := by
    have hO : a.OnlyRegs (a.setF TWN_STATUS_SHADOW_ON 0) (· = TWN_STATUS) := (Blk.OnlyRegs.refl a (· = TWN_STATUS)).setF (x := TWN_STATUS_SHADOW_ON) rfl
    have hn : (a.setF TWN_STATUS_SHADOW_ON 0).now = a.now := Blk.setF_now _ _ _
    simp only [b]
    split
    · exact ⟨(hca.trans hO.calm).put, hn⟩
    · exact ⟨hca, rfl⟩
  have hdn : (b.hbShown m).now = max s.now t := by
    rw [(b.onlyRegs_hbShown m).1, ← hna, ← hb.2]
  have hd : d = b.hbShown m := rfl
  rw [← hd] at hdn
  have he : s.HbSeen m (max s.now t) e := by
    obtain ⟨h1, h2, h3, h4, h5⟩ := b.hbShown_spec hm
    have hcd : s.Calm d := hb.1.trans (b.onlyRegs_hbShown m).calm
    rw [← hd] at h1 h2 h3 h4 h5
    clear_value d
    exact .withTwn h1 h2 h3 h4 h5 hdn hcd
  have hf : s.HbSeen m (max s.now t) f := he.kept (Blk.PtKept.refl e).ackAgreed
  clear_value f
  have hg : s.HbSeen m (max s.now t) g := hf.kept ((Blk.PtKept.refl f).raise.ite (.refl f))
  clear_value g
  have hi : s.HbSeen m (max s.now t) i := hg.kept ((Blk.PtKept.refl g).conflict.ite (.refl g))
  clear_value i
  have hj : s.HbSeen m (max s.now t) j := hi.kept (Blk.PtKept.refl i).sumCheck.clashCheck.portsCheck
  clear_value j
  refine hj.kept (Blk.PtKept.ite (Blk.PtKept.pairOut ?_) (.refl j))
  exact ((Blk.PtKept.refl j).setF (x := TWN_STATUS_RESYNC_STEP) (by decide) (by decide)).withTwn rfl

/-! ### A partner that has fallen silent -/

/-- The paired write under way, if there is one, is over with LOCAL. -/
def Blk.pwOver (s : Blk) : Blk :=
  match s.twn.pwSeq with
  | some _ => ((s.withTwn fun x => { x with pwSeq := none }).setF TWN_PW_STATUS_BUSY 0).setF TWN_PW_STATUS_LOCAL 1
  | none => s

theorem Blk.pwOver_spec (s : Blk) :
    (∀ q, s.twn.pwSeq = some q → s.pwOver.twn.pwSeq = none ∧ s.pwOver.fb TWN_PW_STATUS_BUSY = false ∧ s.pwOver.fb TWN_PW_STATUS_LOCAL = true) ∧
      s.pwOver.evq = s.evq ∧ s.Frame s.pwOver fun a => s.twn.pwSeq ≠ none ∧ a = TWN_PW_STATUS := by
  unfold Blk.pwOver
  split
  · next q hq =>
    have hv : (s.withTwn fun x => { x with pwSeq := none }).twn.pwSeq = none := rfl
    have hF : s.Frame (s.withTwn fun x => { x with pwSeq := none }) fun a => s.twn.pwSeq ≠ none ∧ a = TWN_PW_STATUS := (Blk.Frame.refl s _).put
    have he : (s.withTwn fun x => { x with pwSeq := none }).evq = s.evq := rfl
    generalize s.withTwn (fun x => { x with pwSeq := none }) = u at hv hF he
    have hn : s.twn.pwSeq ≠ none := by rw [hq]; exact Option.some_ne_none q
    refine ⟨fun _ _ => ⟨(congrArg Twn.pwSeq ((Blk.setF_twn _ _ _).trans (Blk.setF_twn _ _ _))).trans hv, ?_,
      Blk.fb_setF_same _ _ _ (by decide) (by decide)⟩, ((Blk.setF_evq _ _ _).trans (Blk.setF_evq _ _ _)).trans he,
      (hF.setF (x := TWN_PW_STATUS_BUSY) ⟨hn, rfl⟩).setF (x := TWN_PW_STATUS_LOCAL) ⟨hn, rfl⟩⟩
    rw [Blk.fb_setF_ne _ _ _ _ (by decide) (by decide) (by decide) (by decide)]
    exact Blk.fb_setF_same _ _ _ (by decide) (by decide)
  · next hq => exact ⟨fun q h => (by rw [hq] at h; cases h), rfl, .refl s _⟩

/-- The words of a silence. -/
def silentWord (a : Nat) : Prop := a = TWN_STATUS ∨ a = TWN_HEALTH ∨ a = TWN_HB_MISSED

/-- The heartbeat counted as missed. -/
def Blk.hbMissed (s : Blk) : Blk :=
  ((s.incSat TWN_HB_MISSED).count 0x70).withTwn fun x => { x with hbAt := s.now, ptHeld := 0 }

theorem Blk.hbMissed_spec (s : Blk) : s.hbMissed.rn TWN_HB_MISSED = min (s.rn TWN_HB_MISSED + 1) u24max ∧ s.hbMissed.twn.pwSeq = s.twn.pwSeq ∧
    s.hbMissed.twn.ptSeq = s.twn.ptSeq ∧ s.evq <+: s.hbMissed.evq ∧ s.Frame s.hbMissed (· = TWN_HB_MISSED) := by
  have hF : s.Frame ((s.incSat TWN_HB_MISSED).count 0x70) (· = TWN_HB_MISSED) := ((Blk.Frame.refl s (· = TWN_HB_MISSED)).incSat rfl).count
  have hn : ((s.incSat TWN_HB_MISSED).count 0x70).rn TWN_HB_MISSED = min (s.rn TWN_HB_MISSED + 1) u24max :=
    (Blk.rn_of_reg (Blk.reg_count _ _ _ (by decide))).trans (s.rn_incSat_same _)
  have ht : ((s.incSat TWN_HB_MISSED).count 0x70).twn = s.twn := (Blk.count_twn _ _ _).trans (Blk.wn_twn _ _ _)
  have hq : s.evq <+: ((s.incSat TWN_HB_MISSED).count 0x70).evq := Blk.evq_count_prefix (s.incSat TWN_HB_MISSED) 0x70 1
  have hp := congrArg Twn.pwSeq ht
  have hs := congrArg Twn.ptSeq ht
  unfold Blk.hbMissed
  generalize (s.incSat TWN_HB_MISSED).count 0x70 = v at hF hn hp hs hq ⊢
  exact ⟨hn, hp, hs, hq, hF.put⟩

/-- The silence shown and counted. -/
def Blk.silenced (s : Blk) : Blk := ((s.setF TWN_HEALTH_PARTNER_SILENT 1).setF TWN_STATUS_PARTNER_UP 0).hbMissed

theorem Blk.silenced_spec (s : Blk) : s.silenced.heard = false ∧ s.silenced.fb TWN_HEALTH_PARTNER_SILENT = true ∧
    s.silenced.rn TWN_HB_MISSED = min (s.rn TWN_HB_MISSED + 1) u24max ∧ s.silenced.twn.pwSeq = s.twn.pwSeq ∧ s.silenced.twn.ptSeq = s.twn.ptSeq ∧
    s.evq <+: s.silenced.evq ∧ s.Frame s.silenced silentWord := by
  have h1 : ((s.setF TWN_HEALTH_PARTNER_SILENT 1).setF TWN_STATUS_PARTNER_UP 0).fb TWN_STATUS_PARTNER_UP = false :=
    Blk.fb_setF_same _ _ _ (by decide) (by decide)
  have h2 : ((s.setF TWN_HEALTH_PARTNER_SILENT 1).setF TWN_STATUS_PARTNER_UP 0).fb TWN_HEALTH_PARTNER_SILENT = true := by
    rw [Blk.fb_setF_ne _ _ _ _ (by decide) (by decide) (by decide) (by decide)]
    exact Blk.fb_setF_same _ _ _ (by decide) (by decide)
  have hO : s.OnlyRegs ((s.setF TWN_HEALTH_PARTNER_SILENT 1).setF TWN_STATUS_PARTNER_UP 0) fun a => a = TWN_STATUS ∨ a = TWN_HEALTH :=
    ((Blk.OnlyRegs.refl s fun a => a = TWN_STATUS ∨ a = TWN_HEALTH).setF (x := TWN_HEALTH_PARTNER_SILENT) (.inr rfl)).setF
      (x := TWN_STATUS_PARTNER_UP) (.inl rfl)
  unfold Blk.silenced
  generalize (s.setF TWN_HEALTH_PARTNER_SILENT 1).setF TWN_STATUS_PARTNER_UP 0 = u at h1 h2 hO
  obtain ⟨hn, hp, hs, hq, hF⟩ := u.hbMissed_spec
  have hu : u.twn = s.twn := by rw [hO.1]
  have hue : u.evq = s.evq := by rw [hO.1]
  have hFs : s.Frame u silentWord := ⟨hO.regsBut.mono fun a h => h.imp_right .inl, hO.calm⟩
  generalize u.hbMissed = v at hn hp hs hq hF
  exact ⟨(hF.1.fb (x := TWN_STATUS_PARTNER_UP) (by decide) (by decide)).trans h1,
    (hF.1.fb (x := TWN_HEALTH_PARTNER_SILENT) (by decide) (by decide)).trans h2,
    by rw [← Blk.rn_of_reg (s := u) (r := s) (hO.2 _ (by decide))]; exact hn, hp.trans (congrArg Twn.pwSeq hu), hs.trans (congrArg Twn.ptSeq hu),
    hue ▸ hq, hFs.trans (hF.mono fun a h => .inr (.inr h))⟩

/-- PARTNER_SILENT, raised unless it was set. -/
def Blk.silentEvent (u : Blk) (b : Bool) : Blk := if b then u else u.raise 0x802 0 u.twn.ptSeq 0

theorem partnerSilent_eq (t : Nat) (h2 : s.twnState = 2) (hd : s.twn.hbAt + s.tHb ≤ max s.now t) :
    partnerSilent t s = ((s.advance t).silenced.silentEvent (s.fb TWN_HEALTH_PARTNER_SILENT)).pwOver := by
  have hst : (s.advance t).twnState = 2 := (s.f_advance t (by decide)).trans h2
  have hl : (s.advance t).follows = false := by
    have h3 : (s.advance t).inStep = false := by rw [Blk.inStep, hst]; rfl
    rw [Blk.follows, h3, hst]
    simp
  have hhb : (s.advance t).tHb = s.tHb := by rw [Blk.tHb, s.f_advance t (by decide), Blk.tHb]
  have hw : (s.advance t).fb TWN_HEALTH_PARTNER_SILENT = s.fb TWN_HEALTH_PARTNER_SILENT := s.fb_advance t (by decide)
  have hdue : ¬((s.advance t).twnState = 0 ∨ (s.advance t).now < (s.advance t).twn.hbAt + (s.advance t).tHb) := by
    rw [hst, s.now_advance, s.advance_twn, hhb]
    omega
  unfold partnerSilent
  extract_lets a was led b c d e
  have ha : a = s.advance t := rfl
  rw [← ha] at hl hw hdue ⊢
  clear_value a
  have hled : led = false := hl
  have hc : c = a.silenced := rfl
  have he : e = d.pwOver := rfl
  have hd' : d = c.silentEvent (a.fb TWN_HEALTH_PARTNER_SILENT) := rfl
  clear_value e d c led
  rw [if_neg hdue, hled, he, hd', hc, hw]
  exact if_neg Bool.false_ne_true

theorem Blk.silentEvent_spec (u : Blk) (b : Bool) : (u.silentEvent b).regs = u.regs ∧ (u.silentEvent b).twn = u.twn ∧ u.evq <+: (u.silentEvent b).evq ∧
    u.Calm (u.silentEvent b) ∧ (b = false → u.Raised (u.silentEvent b) 0x802 0 (u.twn.ptSeq % 2 ^ 24) 0) := by
  unfold Blk.silentEvent
  split
  · next h => exact ⟨rfl, rfl, List.prefix_refl _, .refl u, fun g => by rw [h] at g; cases g⟩
  · exact ⟨rfl, rfl, List.prefix_append _ _, ((Blk.Frame.refl u fun _ => False).raise).2, fun _ => ⟨_, _, rfl, List.mem_singleton_self _, rfl, rfl, rfl, rfl⟩⟩

theorem Blk.pwOver_silentEvent_spec (u : Blk) (b : Bool) : (u.silentEvent b).pwOver.fb TWN_STATUS_PARTNER_UP = u.fb TWN_STATUS_PARTNER_UP ∧
    (u.silentEvent b).pwOver.fb TWN_HEALTH_PARTNER_SILENT = u.fb TWN_HEALTH_PARTNER_SILENT ∧
    (u.silentEvent b).pwOver.rn TWN_HB_MISSED = u.rn TWN_HB_MISSED ∧
    (b = false → u.Raised (u.silentEvent b).pwOver 0x802 0 (u.twn.ptSeq % 2 ^ 24) 0) ∧
    (∀ q, u.twn.pwSeq = some q → (u.silentEvent b).pwOver.twn.pwSeq = none ∧ (u.silentEvent b).pwOver.fb TWN_PW_STATUS_BUSY = false ∧
      (u.silentEvent b).pwOver.fb TWN_PW_STATUS_LOCAL = true) ∧
    u.Frame (u.silentEvent b).pwOver fun a => u.twn.pwSeq ≠ none ∧ a = TWN_PW_STATUS := by
  obtain ⟨hr, ht, hq, hc, he⟩ := u.silentEvent_spec b
  generalize u.silentEvent b = v at hr ht hq hc he
  obtain ⟨hp, hpe, hpF⟩ := v.pwOver_spec
  rw [ht] at hp hpF
  generalize v.pwOver = w at hp hpe hpF
  have hne {a : Nat} (hc : cntWord a = false) (ha : a ≠ TWN_PW_STATUS) : w.reg a = u.reg a :=
    (hpF.1 a hc fun h => ha h.2).trans (Blk.reg_of_regs hr a)
  exact ⟨Blk.fb_of_reg (x := TWN_STATUS_PARTNER_UP) (hne (by decide) (by decide)),
    Blk.fb_of_reg (x := TWN_HEALTH_PARTNER_SILENT) (hne (by decide) (by decide)), Blk.rn_of_reg (hne (by decide) (by decide)),
    fun g => (he g).of_right (hpe ▸ List.prefix_refl _), hp, ⟨fun a hc ha => (hpF.1 a hc ha).trans (Blk.reg_of_regs hr a), hc.trans hpF.2⟩⟩

theorem partnerSilent_spec (t : Nat) (h2 : s.twnState = 2) (hd : s.twn.hbAt + s.tHb ≤ max s.now t) :
    (partnerSilent t s).heard = false ∧ (partnerSilent t s).fb TWN_HEALTH_PARTNER_SILENT = true ∧
      (partnerSilent t s).rn TWN_HB_MISSED = min (s.rn TWN_HB_MISSED + 1) u24max ∧
      (s.fb TWN_HEALTH_PARTNER_SILENT = false → s.Raised (partnerSilent t s) 0x802 0 (s.twn.ptSeq % 2 ^ 24) 0) ∧
      (∀ q, s.twn.pwSeq = some q → (partnerSilent t s).twn.pwSeq = none ∧ (partnerSilent t s).fb TWN_PW_STATUS_BUSY = false ∧
        (partnerSilent t s).fb TWN_PW_STATUS_LOCAL = true) ∧
      s.Frame (partnerSilent t s) fun a => a = TWN_STATUS ∨ a = TWN_HEALTH ∨ a = TWN_HB_MISSED ∨ s.twn.pwSeq ≠ none ∧ a = TWN_PW_STATUS := by
  rw [partnerSilent_eq t h2 hd]
  obtain ⟨h1, h2, h3, h4, h5, h6, h7⟩ := (s.advance t).silenced_spec
  rw [s.advance_twn] at h4 h5
  rw [s.rn_advance t (by decide)] at h3
  have hq := (s.evq_advance_prefix t).trans h6
  have hF : s.Frame (s.advance t).silenced silentWord := (Blk.Frame.refl s _).advance.trans h7
  generalize (s.advance t).silenced = u at h1 h2 h3 h4 h5 hq hF
  obtain ⟨g1, g2, g3, g4, g5, g6⟩ := u.pwOver_silentEvent_spec (s.fb TWN_HEALTH_PARTNER_SILENT)
  rw [h4] at g5 g6
  rw [h5] at g4
  refine ⟨g1.trans h1, g2.trans h2, g3.trans h3, fun g => (g4 g).of_left hq, g5, ?_⟩
  exact (hF.mono fun a h => by obtain h | h | h := h; exacts [.inl h, .inr (.inl h), .inr (.inr (.inl h))]).trans
    (g6.mono fun a h => .inr (.inr (.inr h)))

/-! ### Lines compared with the partner's -/

section

variable {n crc : Nat} {a : Nat × Nat}

/-- The partner's CRC of a line, beside the own one. -/
def Blk.shadowSeen (s : Blk) (n crc : Nat) (a : Nat × Nat) : Blk :=
  s.withTwn fun x => { x with own := x.own.erase a, pt := ((n, crc) :: x.pt.take 1023).erase (n, crc) }

theorem Blk.shadowCompare_eq (h : s.twn.own.find? (fun e => e.1 == n) = some a) :
    (s.withTwn fun x => { x with pt := (n, crc) :: x.pt.take 1023 }).shadowCompare n =
      if a.2 = crc then ((s.shadowSeen n crc a).withTwn fun x => { x with good := x.good + 1 }).syncCheck else (s.shadowSeen n crc a).mismatch n crc := by
  have h2 : ((n, crc) :: s.twn.pt.take 1023).find? (fun e => e.1 == n) = some (n, crc) := List.find?_cons_of_pos (by simp)
  simp only [Blk.shadowCompare, Blk.withTwn, h, h2]
  rfl

theorem Blk.syncCheck_of_active (h : s.twnState = 2) : s.syncCheck = s := if_neg fun g => by rw [h] at g; exact absurd g.1 (by decide)

theorem Blk.mismatch_spec (s : Blk) (n crc : Nat) (h : s.twnState = 2) :
    (s.mismatch n crc).twn.good = 0 ∧ (s.mismatch n crc).rn TWN_SHADOW_MIS = min (s.rn TWN_SHADOW_MIS + 1) u24max ∧
      s.Frame (s.mismatch n crc) (· = TWN_SHADOW_MIS) := by
  have hF : s.Frame ((s.incSat TWN_SHADOW_MIS).count 0x6F) (· = TWN_SHADOW_MIS) := ((Blk.Frame.refl s (· = TWN_SHADOW_MIS)).incSat rfl).count
  have hn : ((s.incSat TWN_SHADOW_MIS).count 0x6F).rn TWN_SHADOW_MIS = min (s.rn TWN_SHADOW_MIS + 1) u24max :=
    (Blk.rn_of_reg (Blk.reg_count _ _ _ (by decide))).trans (s.rn_incSat_same _)
  have hst : ((s.incSat TWN_SHADOW_MIS).count 0x6F).twnState = 2 := (hF.1.f (x := TWN_STATUS_STATE) (by decide) (by decide)).trans h
  unfold Blk.mismatch
  extract_lets win seen recent u v
  have hu : ∃ f, (f ((s.incSat TWN_SHADOW_MIS).count 0x6F).twn).good = 0 ∧ u = ((s.incSat TWN_SHADOW_MIS).count 0x6F).withTwn f := ⟨_, rfl, rfl⟩
  obtain ⟨f, hg, hu⟩ := hu
  generalize (s.incSat TWN_SHADOW_MIS).count 0x6F = w at hF hn hst hg hu
  have hv : v = u ∨ ∃ c i d0 d1, v = u.raise c i d0 d1 := by
    simp only [v]
    split
    · exact .inl rfl
    · exact .inr ⟨_, _, _, _, rfl⟩
  clear_value u v
  subst hu
  have hvs : v.twn.good = 0 ∧ v.regs = w.regs ∧ w.Frame v (· = TWN_SHADOW_MIS) := by
    obtain rfl | ⟨c, i, d0, d1, rfl⟩ := hv
    · exact ⟨hg, rfl, (Blk.Frame.refl w _).put⟩
    · exact ⟨hg, rfl, ((Blk.Frame.refl w _).put (twn := f w.twn)).raise⟩
  obtain ⟨hvg, hvr, hvF⟩ := hvs
  have hvst : v.twnState = 2 := (Blk.f_of_reg (Blk.reg_of_regs hvr _)).trans hst
  rw [if_neg fun g => by rw [hvst] at g; exact absurd g.1 (by decide)]
  exact ⟨hvg, (Blk.rn_of_reg (Blk.reg_of_regs hvr _)).trans hn, hF.trans hvF⟩

end

/-! ### Nozzle words copied (R306, step 3) -/

theorem nozcopyReceived_spec {m : List Nat} (h4 : s.twnState = 4) (hs : s.f TWN_STATUS_RESYNC_STEP = 2 ∨ s.f TWN_STATUS_RESYNC_STEP = 3)
    (hk : kindOf m = 6) (hm : ∀ i, wd m i < 2 ^ 24) (hr : wd m 1 + 6 ≤ 131072) :
    (∀ k, k < 6 → (nozcopyReceived m s).rn (0x080000 + wd m 1 + k) = wd m (2 + k)) ∧
      (nozcopyReceived m s).f TWN_STATUS_RESYNC_STEP = (if 131072 ≤ wd m 1 + 6 then 4 else 3) ∧
      s.OnlyRegs (nozcopyReceived m s) fun a => a = TWN_STATUS ∨ ∃ k, k < 6 ∧ a = 0x080000 + wd m 1 + k := by
  have heq : nozcopyReceived m s = ((List.range 6).foldl (fun s k => s.wn (0x080000 + wd m 1 + k) (wd m (2 + k))) s).setF TWN_STATUS_RESYNC_STEP
      (if 131072 ≤ wd m 1 + 6 then 4 else 3) := by
    unfold nozcopyReceived
    extract_lets step i u
    have hu : u = (List.range 6).foldl (fun s k => s.wn (0x080000 + wd m 1 + k) (wd m (2 + k))) s :=
      List.foldl_ext _ _ _ fun v k hk => if_pos (by have := List.mem_range.1 hk; show wd m 1 + k < 131072; omega)
    rw [if_neg, ← hu]
    rintro (h | h | h | h)
    · exact h hk
    · exact h h4
    · have : s.f TWN_STATUS_RESYNC_STEP < 2 := h
      omega
    · have : 3 < s.f TWN_STATUS_RESYNC_STEP := h
      omega
  have hrn (k : Nat) (hk : k < 6) : ((List.range 6).foldl (fun s k => s.wn (0x080000 + wd m 1 + k) (wd m (2 + k))) s).rn (0x080000 + wd m 1 + k) =
      wd m (2 + k) := by
    rw [Blk.rn_foldl_wn (a := fun k => 0x080000 + wd m 1 + k) (fun i j h => by omega) (fun k => wd m (2 + k)) 6 s hk, Nat.mod_eq_of_lt (hm _)]
  have hO : s.OnlyRegs ((List.range 6).foldl (fun s k => s.wn (0x080000 + wd m 1 + k) (wd m (2 + k))) s) fun a =>
      a = TWN_STATUS ∨ ∃ k, k < 6 ∧ a = 0x080000 + wd m 1 + k :=
    Blk.onlyRegs_foldl_wn (a := fun k => 0x080000 + wd m 1 + k) _ _ (fun k hk => .inr ⟨k, List.mem_range.1 hk, rfl⟩) s
  rw [heq]
  generalize (List.range 6).foldl (fun s k => s.wn (0x080000 + wd m 1 + k) (wd m (2 + k))) s = u at hrn hO
  refine ⟨fun k hk => (Blk.rn_setF_ne _ _ _ (by simp only [TWN_STATUS]; omega)).trans (hrn k hk), ?_, hO.setF (x := TWN_STATUS_RESYNC_STEP) (.inl rfl)⟩
  rw [Blk.f_setF_same _ _ _ (by decide) (by decide)]
  split <;> rfl

/-- Settles O25: a lemma for each message. -/
theorem pairingMessages : Obligations.PairingMessages := by
  intro z t m ha
  have hm := wd_wordsOf_lt m
  refine ⟨fun h3 hd hu hid hw hq hc => .of_on (f := heartbeatSend t) rfl ha ?_, fun h0 hl hk => .of_on (f := heartbeatReceived t (wordsOf m)) rfl ha ?_,
    fun h2 hd => .of_on (f := partnerSilent t) rfl ha ?_, fun hi hk hp => .of_on (f := mirrorReceived (wordsOf m)) rfl ha ?_,
    fun h0 hk => .of_on (f := agreeReceived (wordsOf m)) rfl ha ?_, fun a h2 hon hi hk hown => ?_,
    fun h2 hk hx => .of_on (f := snapReceived (wordsOf m)) rfl ha ?_, fun h4 hs hk hr => .of_on (f := nozcopyReceived (wordsOf m)) rfl ha
      (nozcopyReceived_spec h4 hs hk hm hr)⟩
  · obtain ⟨h1, h2, h3, h4, h5⟩ := heartbeatSend_due t h3 hd hu hid hw hq hc
    exact ⟨h1, h2, h3, h4, h5.1, h5.2⟩
  · obtain ⟨h1, h2, h3, h4, h5, h6, h7⟩ := heartbeatReceived_seen t h0 (by exact hl) hk hm
    exact ⟨h1, h2, h3, h4, h5, h6, h7⟩
  · obtain ⟨h1, h3, h4, h5, h6, h7⟩ := partnerSilent_spec t h2 hd
    exact ⟨h1, h3, h4, h5, h6, h7.1, h7.2⟩
  · simp only [mirrorReceived, hi, hk, hp]
    rfl
  · simp only [agreeReceived, h0, hk]
    rfl
  · have heq : shadowReceived (wordsOf m) z.blk =
        (z.blk.withTwn fun x => { x with pt := (wd2 (wordsOf m) 1, wd (wordsOf m) 3) :: x.pt.take 1023 }).shadowCompare (wd2 (wordsOf m) 1) := by
      rw [shadowReceived, if_neg (by rw [hon, hk]; decide)]
    rw [Blk.shadowCompare_eq hown] at heq
    refine ⟨fun he => .of_on (f := fun x => (shadowReceived (wordsOf m) x).settle) rfl ha ?_,
      fun hne => .of_on (f := fun x => (shadowReceived (wordsOf m) x).settle) rfl ha ?_⟩
    · rw [if_pos he, Blk.syncCheck_of_active (by exact h2)] at heq
      show _ ∧ _
      have hg : ((z.blk.shadowSeen (wd2 (wordsOf m) 1) (wd (wordsOf m) 3) a).withTwn fun x => { x with good := x.good + 1 }).twn.good = z.blk.twn.good + 1 := rfl
      have ho : ((z.blk.shadowSeen (wd2 (wordsOf m) 1) (wd (wordsOf m) 3) a).withTwn fun x => { x with good := x.good + 1 }).twn.own = z.blk.twn.own.erase a := rfl
      have hF : z.blk.Frame ((z.blk.shadowSeen (wd2 (wordsOf m) 1) (wd (wordsOf m) 3) a).withTwn fun x => { x with good := x.good + 1 }) fun _ => False :=
        (Blk.Frame.refl _ _).put.put
      have hr : ((z.blk.shadowSeen (wd2 (wordsOf m) 1) (wd (wordsOf m) 3) a).withTwn fun x => { x with good := x.good + 1 }).regs = z.blk.regs := rfl
      rw [heq]
      generalize ((z.blk.shadowSeen (wd2 (wordsOf m) 1) (wd (wordsOf m) 3) a).withTwn fun x => { x with good := x.good + 1 }) = w at hg ho hF hr
      rw [Blk.settle_of_busy ((hF.1.allIdle fun _ _ h => h).trans hi)]
      exact ⟨hg, ho, hr, hF.2⟩
    · rw [if_neg hne] at heq
      obtain ⟨h1, h3, hF⟩ := (z.blk.shadowSeen (wd2 (wordsOf m) 1) (wd (wordsOf m) 3) a).mismatch_spec (wd2 (wordsOf m) 1) (wd (wordsOf m) 3) h2
      have hb := (hF.1.allIdle fun j hj => by simp only [PGE_TRK_STATUS, TWN_SHADOW_MIS]; omega).trans hi
      show _ ∧ _
      rw [heq, Blk.settle_of_busy hb]
      exact ⟨h1, h3, hF.1, hF.2⟩
  · have heq : snapReceived (wordsOf m) z.blk = z.blk.setF TWN_STATUS_SHADOW_ON 1 := by
      rw [snapReceived, if_neg (by rw [hk]; decide)]
      simp only [hx, h2]
      rfl
    rw [heq]
    exact ⟨Blk.fb_setF_same _ _ _ (by decide) (by decide), (Blk.OnlyRegs.refl z.blk (· = TWN_STATUS)).setF (x := TWN_STATUS_SHADOW_ON) rfl⟩

end Sys2Proof.Machine
end

section
/-!
PROOFS. A page that waits for its boundary on a track armed anew, which refutes what is claimed of descriptors (R76, R94).
-/

namespace Sys2Proof.Machine

/-- A page of the track that still waits for its boundary at compare value 9 * 2^16. -/
def waitingPage : Page :=
  { words := [], start := 0, len := 1, gap := 0, last := false, tag := 0, cRaw := 9 * 2 ^ 16, layers := [], bounded := false, fetched := 0,
    violation := false, codec := false, underrun := false, aborted := false, released := false, stalled := false, lastAt := none, doneRaised := false,
    test := none, theta := [] }

/-- Track 0 is ARMED and holds a page that waits for its boundary; H lies beyond where the first page of ring 0 will start. -/
def waitingState : State :=
  let b : Blk := { Blk.init with sys := { Sys.init with phase := .up }, lck := { Blk.init.lck with h := 1000 }, mem := [(4, 1)] }
  let b := (((b.setF LCK_STATUS_RUNNING 1).setF (RING_CFG_EN 0) 1).wn (RING_PROD 0) 1).setF (PGE_TRK_STATUS_STATE 0) 1
  ⟨b.setTrk 0 { Trk.init with pages := [waitingPage] }, []⟩

/-- The boundary that the new page's PAGE_START entry brings is that of the page that waits. -/
theorem head_descriptorConsume_waitingState :
    (((descriptorConsume 0 waitingState.blk).trk 0).pages.map fun p => p.bounded).head? = some true := by decide +kernel

/-- Refutes O7, by its clause on the first page of a track that starts at once: a page that is there already changes. -/
theorem not_pagesAndReleases : ¬ Obligations.PagesAndReleases := by
  unfold Obligations.PagesAndReleases
  intro h
  obtain ⟨hdesc, -, -⟩ := h waitingState 0 (by decide +kernel) (by decide +kernel)
  obtain ⟨-, hstart⟩ := hdesc (by decide +kernel) (by decide +kernel) (by decide +kernel) (by decide +kernel) (by decide +kernel) (by decide +kernel)
  obtain ⟨-, p, hp, -⟩ := (hstart (by decide +kernel) (by decide +kernel)).on (f := descriptorConsume 0) rfl (by decide +kernel)
  have hb : ((descriptorConsume 0 waitingState.blk).trk 0).pages = [waitingPage] ++ [p] := hp
  have hh := head_descriptorConsume_waitingState
  rw [hb] at hh
  exact absurd (show some false = some true from hh) (by decide)

end Sys2Proof.Machine
end

section
/-!
PROOFS. A PLAY of a stream and a page under check of a track that the part does not have: each writes a word of another block, which
refutes what is claimed of the store PLL (R46) and of a lane that loses lock (R322).
-/

namespace Sys2Proof.Machine

/-- A PLAY bound to a stream whose next-number word is STO_STATUS. -/
def strayPlayState : State :=
  ⟨{ Blk.init with sys := { Sys.init with phase := .up },
                   sto := { Sto.init with plays := [(0x21FDC, ⟨0, 0, 0, 0, 0, 0, 0, 0, 0, 0, 0, 0, [], [], none, false, false⟩)] } }, []⟩

theorem stoState_storePllLockLoss_strayPlayState : (storePllLockLoss strayPlayState.blk).stoState = 0 := by decide +kernel

/-- Refutes O46, by its clause on the store PLL: the end of the PLAY empties its stream, which writes 0 over STO_STATUS. -/
theorem not_storeMaintenance : ¬ Obligations.StoreMaintenance := by
  unfold Obligations.StoreMaintenance
  intro h
  obtain ⟨-, -, -, -, -, -, -, hpll⟩ := h strayPlayState 0 (by decide +kernel)
  have hst := (hpll.on (f := storePllLockLoss) rfl (by decide +kernel)).1
  rw [stoState_storePllLockLoss_strayPlayState] at hst
  exact absurd hst (by decide)

/-- A camera lane about to lose lock while a failed page is under check of a track whose queue word is LAN_STATUS of that lane. -/
def strayCheckState : State :=
  let b := (((({ Blk.init with sys := { Sys.init with phase := .up } }).setF (LAN_STATUS_STATE 40) 2).setF (LAN_STATUS_LOCK 40) 1).setF
    (INS_CAM_STATUS_STATE 0) 2).setLane 40 { Lane.init with rx := { Rx.init with bad := [true, false, true, true] } }
  let b := b.wn INS_REJ_CFG (2 ^ 23)
  ⟨{ b with ins := { b.ins with
      regs := [⟨0x508EE, 0, 0, 0, 0, 0, 0, false, false, [⟨0, 0, 0, 0, 0, 0, false, false, false, some 1⟩]⟩],
      markers := [(0x508EE, ⟨0, 0, 0, 0, 0, false, false⟩)] } }, []⟩

theorem laneState_rxStretch_strayCheckState :
    (rxStretch 40 0 (msbBits 10 0) strayCheckState.blk).laneState 40 = 2 := by decide +kernel

/-- Refutes O32, by its clause on a lane that loses lock: the verdict of the page writes the length of its marker queue over LAN_STATUS. -/
theorem not_laneRecovery : ¬ Obligations.LaneRecovery := by
  unfold Obligations.LaneRecovery
  intro h
  obtain ⟨hloss, -, -⟩ := h.2 strayCheckState 40 0 (by decide +kernel) (by decide +kernel) (by decide +kernel)
  have hl := (hloss (msbBits 10 0) (by decide +kernel) (by decide +kernel) (by decide +kernel) (by decide +kernel)).on
    (f := rxStretch 40 0 (msbBits 10 0)) rfl (by decide +kernel)
  have hst : (rxStretch 40 0 (msbBits 10 0) strayCheckState.blk).laneState 40 = 3 := hl.1
  rw [laneState_rxStretch_strayCheckState] at hst
  exact absurd hst (by decide)

end Sys2Proof.Machine
end

section
/-!
PROOFS. A tone curve that waits for a head that the part does not have refutes what is claimed of line triggers (R61).
-/

namespace Sys2Proof.Machine

variable {r s : Blk} {p : Nat → Prop}

/-- The words that a line composed on ports without a head, and the upkeep after it, leave changed. -/
def lineWord (a : Nat) : Prop := memWord a ∨ a = PGE_LAT_TOL ∨ a = DRM_STATUS ∨ a = DRM_REF_OWED

theorem Blk.RegsBut.putLine (h : r.RegsBut s memWord) {q a : Nat} {cs : List Nat} : r.RegsBut (s.putLine q a cs) memWord := by
  unfold Blk.putLine Blk.imgWrite
  split
  · exact h.trans (s.accessed_access q a 1536 true).regs
  · exact h.trans fun b hc hb => (Blk.reg_of_regs (congrArg Blk.regs (Blk.memWrites_eq _ _ _)) b).trans ((s.accessed_access q a _ true).regs b hc hb)

theorem Blk.RegsBut.foldl {α : Type} {f : Blk → α → Blk} (hf : ∀ (s : Blk) (x : α), r.RegsBut s p → r.RegsBut (f s x) p) (l : List α)
    (h : r.RegsBut s p) : r.RegsBut (l.foldl f s) p := by
  induction l generalizing s with
  | nil => exact h
  | cons x l ih => exact ih (hf s x h)

theorem Blk.RegsBut.marRegions (h : r.RegsBut s p) {n : Nat} {q : RegCheck → Bool} : r.RegsBut (s.marRegions n q) p := h

/-- A line with no head in use writes zeros to the delay store and nothing else. -/
theorem Blk.regsBut_composeLine (hh : ∀ h, h < 32 → s.headOn h = false) (n : Nat) : s.RegsBut (s.composeLine n) memWord := by
  have hcodes : ∀ (ctx : LineCtx) (m rung h : Nat), h < 32 → (s.headCodes ctx m rung h).2 = [] := fun ctx m rung h hlt => by
    rw [Blk.headCodes, hh h hlt]
    rfl
  have hnone : (List.range 32).filter s.headOn = [] := List.filter_eq_nil_iff.2 fun h hm => by simp [hh h (List.mem_range.1 hm)]
  unfold Blk.composeLine
  extract_lets rung ctx res unders lines s1 s2 keep store s3 s4
  have hres : ∀ x ∈ res, x.2.2 = [] := fun x hx => by
    obtain ⟨h, hm, rfl⟩ := List.mem_map.1 hx
    exact hcodes _ _ _ _ (List.mem_range.1 hm)
  have hunders : unders = [] := List.filterMap_eq_nil_iff.2 fun t _ => List.find?_eq_none.2 fun u hu => by
    obtain ⟨x, hx, hm⟩ := List.mem_flatMap.1 hu
    exact absurd hm (by simp [hres x hx])
  have h1 : s1 = s := by
    show List.foldl _ s ((List.range 32).filter s.headOn) = s
    rw [hnone, List.foldl_nil]
  have h2 : s2 = s := by
    show List.foldl _ s1 unders = s
    rw [hunders, h1, List.foldl_nil]
  have hregs : s3.regs = s.regs := show s2.regs = s.regs by rw [h2]
  have h3 : s.RegsBut s3 memWord := fun a _ _ => Blk.reg_of_regs hregs a
  have h4 : s.RegsBut s4 memWord := .foldl (fun _ _ h => h.marRegions) _ h3
  exact .foldl (fun _ _ h => h.putLine) _ h4

theorem Blk.RegsBut.withDram (h : r.RegsBut s p) {f : Service → Dram → Dram} : r.RegsBut (s.withDram f) p := h

theorem Blk.RegsBut.setDram (h : r.RegsBut s p) {d : Dram} : r.RegsBut { s with dram := d } p := h

theorem Blk.RegsBut.showOwed (h : r.RegsBut s p) (hp : p DRM_REF_OWED) : r.RegsBut s.showOwed p := (h.setF hp).setF hp

theorem Blk.RegsBut.emit (h : r.RegsBut s p) {o : Out} : r.RegsBut (s.emit o) p := h

theorem Blk.regsBut_critical (s : Blk) : s.RegsBut s.critical lineWord := by
  have h0 := Blk.RegsBut.refl s lineWord
  have h1 : ∀ v, s.RegsBut (s.setF DRM_STATUS_CRITICAL v) lineWord := fun v => h0.setF (.inr (.inr (.inl rfl)))
  rw [Blk.critical]
  split
  · exact h0
  · split
    · exact h1 1
    · exact ((h1 0).withDram.setDram).showOwed (.inr (.inr (.inr rfl)))

theorem Blk.regsBut_gioTrigger (s : Blk) : s.RegsBut s.gioTrigger p := .foldl (fun _ _ h => h.emit) _ (.refl s p)

/-- The state after the boundaries of a trigger, before its line is composed. -/
def Blk.beforeLine (s : Blk) : Blk :=
  let cRaw := s.compare
  let tps := s.trigPs
  let s := s.token
  let n := s.fireNum
  let s := ((s.count 2).rateWarn (s.rn LCK_LINE_RATE)).rungDecide (s.rn LCK_LINE_RATE)
  let s := (s.insTrigger n cRaw false).tracksTrigger tps false
  (([0, 1, 2, 3].foldl Blk.abortNow s).agreedApply (n + 2)).boundaries

/-- A trigger that is not skipped, outside shuttle mode, with no head in use, no pairing and a track at work: the words it leaves after its
boundaries. -/
theorem Blk.regsBut_trigger_beforeLine (hs : s.shuttle = false) (hk : s.tooSoon = false) (hsh : s.beforeLine.shuttle = false)
    (htw : s.beforeLine.twnState = 0) (hi : s.beforeLine.allIdle = false) (hh : ∀ h, h < 32 → s.beforeLine.headOn h = false) :
    s.beforeLine.RegsBut s.trigger.settle lineWord := by
  have ht : s.trigger = (([s.token.fireNum + 2].foldl (fun s m => (s.composeLine m).shadowLine m) s.beforeLine).resyncLine).updateLat.critical.gioTrigger := by
    rw [Blk.trigger, hs, hk]
    show (List.foldl _ s.beforeLine (s.beforeLine.toCompose s.token.fireNum)).resyncLine.updateLat.critical.gioTrigger = _
    rw [Blk.toCompose, hsh]
    rfl
  generalize s.token.fireNum + 2 = n at ht
  generalize s.beforeLine = b at *
  have h1 := b.regsBut_composeLine hh n
  have hst : (b.composeLine n).twnState = 0 := (h1.f (x := TWN_STATUS_STATE) rfl (by unfold memWord; decide)).trans htw
  have hsl : (b.composeLine n).shadowLine n = b.composeLine n := by
    rw [Blk.shadowLine, hst]
    rfl
  have hrl : (b.composeLine n).resyncLine = b.composeLine n := by
    rw [Blk.resyncLine, hst]
    rfl
  rw [List.foldl_cons, List.foldl_nil, hsl, hrl] at ht
  obtain ⟨v, hv⟩ := (b.composeLine n).updateLat_eq
  have h2 : b.RegsBut s.trigger lineWord := by
    rw [ht, hv]
    exact (((h1.mono fun _ => .inl).wn (.inr (.inl rfl))).trans (Blk.regsBut_critical _)).trans (Blk.regsBut_gioTrigger _)
  rw [Blk.settle_of_busy ((h2.allIdle fun t ht => by simp only [lineWord, memWord, PGE_TRK_STATUS, DRM_PWR_STATUS, DRM_RD_STATUS, PGE_LAT_TOL, DRM_STATUS, DRM_REF_OWED]; omega).trans hi)]
  exact h2

/-- A line trigger is due while a tone curve waits for a head whose tone word is HLK_FIRE_NUM; the fire number is 1. -/
def strayToneState : State :=
  let b := ((({ Blk.init with sys := { Sys.init with phase := .up } }).setF LCK_STATUS_RUNNING 1).wn (POS_INTERVAL 0) 500).setEnc 0
    { Enc.init with valid := true, edge := some 0 }
  let b := ((b.setSval LCK_COMPARE 3 72 (b.lineP * 65536)).wn HLK_FIRE_NUM 1).setF (PGE_TRK_STATUS_STATE 1) 1
  ⟨{ b with cmp := { b.cmp with tonePend := [0xA3E0] } }, []⟩

theorem fireNum_beforeLine_strayToneState :
    (strayToneState.blk.advance 0).passCheck.beforeLine.fireNum = 0 ∧ (strayToneState.blk.fireNum + 1) % 2 ^ 48 = 2 := by decide +kernel

theorem fireNum_strayToneState : (lineTrigger 0 strayToneState.blk).fireNum = 0 := by
  have ht : lineTrigger 0 strayToneState.blk = ((strayToneState.blk.advance 0).passCheck.trigger).settle := by
    have hd : (strayToneState.blk.advance 0).passCheck.trigDue = true := by decide +kernel
    rw [lineTrigger]
    exact if_pos hd
  have hr := Blk.regsBut_trigger_beforeLine (s := (strayToneState.blk.advance 0).passCheck) (by decide +kernel) (by decide +kernel) (by decide +kernel)
    (by decide +kernel) (by decide +kernel) (by decide +kernel)
  rw [ht]
  refine Eq.trans (Blk.val_of_reg fun i hi => hr _ ?_ ?_) fireNum_beforeLine_strayToneState.1
  · exact cntWord_low (by simp only [HLK_FIRE_NUM]; omega)
  · simp only [lineWord, memWord, HLK_FIRE_NUM, DRM_PWR_STATUS, DRM_RD_STATUS, PGE_LAT_TOL, DRM_STATUS, DRM_REF_OWED]; omega

/-- Refutes O27: the swap of the tone curve at the line boundary clears bit 1 of HLK_FIRE_NUM. -/
theorem not_lineTriggers : ¬ Obligations.LineTriggers := by
  unfold Obligations.LineTriggers
  intro h
  have ht := h strayToneState 0 (by decide +kernel) (by decide +kernel) (by decide +kernel) (by decide +kernel) (by decide +kernel)
  have hf : (lineTrigger 0 strayToneState.blk).fireNum = _ := (ht.on (f := lineTrigger 0) rfl (by decide +kernel)).1
  rw [fireNum_strayToneState, fireNum_beforeLine_strayToneState.2] at hf
  exact absurd hf (by decide)

end Sys2Proof.Machine
end

section
/-!
PROOFS. ARM, STOP and ABORT of a track (R87 to R90).
-/

namespace Sys2Proof.Machine

variable {r s : Blk} {p : Nat → Prop}

/-! ### A track's state word and its pages -/

theorem Blk.trk_putTrk_same (s : Blk) (t : Nat) (x : Trk) : (s.putTrk t x).trk t = x := s.trk_setTrk_same t x

theorem Blk.trk_putTrk_ne (s : Blk) {t u : Nat} (x : Trk) (h : u ≠ t) : (s.putTrk t x).trk u = s.trk u := s.trk_setTrk_ne x h

theorem Blk.trk_of_trks (h : s.trks = r.trks) (t : Nat) : s.trk t = r.trk t := by rw [Blk.trk, h, Blk.trk]

theorem Blk.trk_setF (s : Blk) (x : Fld) (v t : Nat) : (s.setF x v).trk t = s.trk t := Blk.trk_of_trks (Blk.setF_trks _ _ _) t

theorem Blk.trkState_putTrk (s : Blk) (t u : Nat) (x : Trk) : (s.putTrk t x).trkState u = s.trkState u :=
  Blk.f_setF_ne _ _ _ _ (show 2 ≤ 5 by decide) (show 0 ≤ 1 by decide) (show 1 < 24 by decide) (.inr (.inl (show 1 < 2 by decide)))

theorem Blk.trkState_setF_state (s : Blk) (t : Nat) {v : Nat} (h : v < 4) : (s.setF (PGE_TRK_STATUS_STATE t) v).trkState t = v :=
  (Blk.f_setF_same _ _ _ (show 0 ≤ 1 by decide) (show 1 < 24 by decide)).trans (Nat.mod_eq_of_lt h)

theorem Blk.shuttle_of_regsBut (h : r.RegsBut s p) (hp : ¬p SHT_CFG) : s.shuttle = r.shuttle := h.fb (x := SHT_CFG_EN) rfl hp

theorem Blk.stopPending_putTrk (s : Blk) (t : Nat) (x : Trk) :
    (s.putTrk t x).fb (PGE_TRK_STATUS_STOP_PENDING t) = s.fb (PGE_TRK_STATUS_STOP_PENDING t) :=
  Blk.fb_setF_ne _ _ _ _ (show 2 ≤ 5 by decide) (show 12 ≤ 12 by decide) (show 12 < 24 by decide) (.inr (.inr (show 5 < 12 by decide)))

/-- The state of a track whose status word is not written. -/
theorem Blk.RegsBut.trkState (h : r.RegsBut s p) {t : Nat} (ht : t < 4) (hp : ¬p (PGE_TRK_STATUS t)) : s.trkState t = r.trkState t :=
  h.f (cntWord_low (by simp only [PGE_TRK_STATUS]; omega)) hp

/-- The line index of a track whose two words are not written. -/
theorem Blk.RegsBut.lineIndex (h : r.RegsBut s p) {t : Nat} (ht : t < 4) (hp : ∀ i, i < 2 → ¬p (LCK_LINE_INDEX t + i)) : s.lineIndex t = r.lineIndex t :=
  Blk.val_of_reg fun i hi => h _ (cntWord_low (by simp only [LCK_LINE_INDEX]; omega)) (hp i hi)

/-! ### ARM (R87) -/

/-- A test that only runs at idle, and a scan in UP, are over before a track is armed (R330, R459). -/
def Blk.beforeArm (s : Blk) : Blk :=
  match s.bstArm.scan with
  | some x => if x.st = 2 then s.bstArm.scanAbort else s.bstArm
  | none => s.bstArm

theorem Blk.frame_bstArm (s : Blk) : s.Frame s.bstArm (· = BST_STATUS) := by
  unfold Blk.bstArm
  extract_lets u t
  have ht : s.Frame t (· = BST_STATUS) := ((Blk.Frame.refl s (· = BST_STATUS)).testOver rfl).setF (x := BST_STATUS_ABORTED) rfl
  exact (ht.put.ite ht).ite (.refl s _)

theorem Blk.Frame.scanAbort (h : r.Frame s p) (hp : p LAN_EYE_STATUS) : r.Frame s.scanAbort p := by
  unfold Blk.scanAbort
  split
  · exact h.ite (h.setF (x := LAN_EYE_STATUS_ABORTED) hp).put
  · exact h

theorem Blk.frame_beforeArm (s : Blk) : s.Frame s.beforeArm (fun a => a = BST_STATUS ∨ a = LAN_EYE_STATUS) := by
  have h := s.frame_bstArm.mono (q := fun a => a = BST_STATUS ∨ a = LAN_EYE_STATUS) fun _ => .inl
  unfold Blk.beforeArm
  split
  · exact (h.scanAbort (.inr rfl)).ite h
  · exact h

theorem Blk.beforeArm_eq (hscan : s.scan = none) (hb : s.fb BST_STATUS_BUSY = false) : s.beforeArm = s := by
  have h : s.bstArm = s := by
    rw [Blk.bstArm, hb]
    rfl
  rw [Blk.beforeArm, h, hscan]

theorem trackArm_eq {t : Nat} (ht : t < 4) (hs : s.shuttle = false) (hm : s.mayArm t = true) :
    trackArm t s = (s.beforeArm.putTrk t { Trk.init with old := (s.beforeArm.trk t).old, armAt := s.lineIndex t }).setF (PGE_TRK_STATUS_STATE t) 1 := by
  have hF := s.frame_beforeArm
  have hl : s.beforeArm.lineIndex t = s.lineIndex t :=
    hF.1.lineIndex ht fun i hi => by simp only [LCK_LINE_INDEX, BST_STATUS, LAN_EYE_STATUS]; omega
  have hG : s.Frame ((s.beforeArm.putTrk t { Trk.init with old := (s.beforeArm.trk t).old, armAt := s.lineIndex t }).setF (PGE_TRK_STATUS_STATE t) 1)
      (fun a => (a = BST_STATUS ∨ a = LAN_EYE_STATUS) ∨ a = PGE_TRK_STATUS t) :=
    ((hF.mono fun _ => .inl).putTrk (.inr rfl)).setF (x := PGE_TRK_STATUS_STATE t) (.inr rfl)
  have hsh := (Blk.shuttle_of_regsBut hG.1 (by simp only [BST_STATUS, LAN_EYE_STATUS, PGE_TRK_STATUS, SHT_CFG]; omega)).trans hs
  rw [← hl] at hsh ⊢
  unfold trackArm
  rw [hs, hm]
  exact if_neg (Bool.not_eq_true _ ▸ hsh)

theorem trackArm_arms {t : Nat} (ht : t < 4) (hs : s.shuttle = false) (hm : s.mayArm t = true) :
    (trackArm t s).trkState t = 1 ∧ ((trackArm t s).trk t).armAt = s.lineIndex t ∧ ((trackArm t s).trk t).pages = [] := by
  rw [trackArm_eq ht hs hm]
  have hk : ∀ (b : Blk) (x : Trk), ((b.putTrk t x).setF (PGE_TRK_STATUS_STATE t) 1).trk t = x := fun b x =>
    (Blk.trk_setF _ _ _ _).trans (b.trk_putTrk_same t x)
  exact ⟨Blk.trkState_setF_state _ t (by decide), congrArg Trk.armAt (hk _ _), congrArg Trk.pages (hk _ _)⟩

theorem trackArm_alone {t : Nat} (ht : t < 4) (hs : s.shuttle = false) (hm : s.mayArm t = true) (hscan : s.scan = none)
    (hb : s.fb BST_STATUS_BUSY = false) :
    (∀ u, u ≠ t → (trackArm t s).trk u = s.trk u) ∧ s.Frame (trackArm t s) (· = PGE_TRK_STATUS t) := by
  rw [trackArm_eq ht hs hm, Blk.beforeArm_eq hscan hb]
  exact ⟨fun u hu => (Blk.trk_setF _ _ _ _).trans (s.trk_putTrk_ne _ hu), ((Blk.Frame.refl s (· = PGE_TRK_STATUS t)).putTrk rfl).setF (x := PGE_TRK_STATUS_STATE t) rfl⟩

/-! ### A track that goes to IDLE with no page (R88, R89) -/

theorem Blk.postReleases_nil {t : Nat} (h : (s.trk t).all = []) (n : Nat) : s.postReleases t n = s := by
  cases n with
  | zero => rfl
  | succ n =>
    have hp : s.postRelease t = (s, false) := by
      unfold Blk.postRelease
      extract_lets x
      have hx : x.all = [] := h
      rw [hx]
      rfl
    unfold Blk.postReleases
    rw [hp]
    rfl

/-- The words of a track that goes to IDLE. -/
def idleWord (t a : Nat) : Prop := a = PGE_TRK_STATUS t ∨ a = LCK_SCHED_STATUS t ∨ a = SHT_STATUS

/-- A track with no page goes to IDLE; with another one at work nothing that waits for idle goes ahead. -/
theorem Blk.trackIdle_settle {t u : Nat} (ht : t < 4) (hp : (s.trk t).pages = []) (ho : (s.trk t).old = []) (hu : u < 4) (hne : u ≠ t)
    (hw : s.trkState u ≠ 0) :
    ((s.trackIdle t).settle).trkState t = 0 ∧ ((s.trackIdle t).settle).trk t = Trk.init ∧ s.Calm (s.trackIdle t).settle := by
  have hE : ∃ b : Blk, s.trackIdle t = b ∧ s.Frame b (idleWord t) ∧ b.trk t = Trk.init ∧ b.trkState t = 0 := by
    unfold Blk.trackIdle
    extract_lets x atEnd left src s1 s2 s3 s4 mark ins s5
    have hleft : ({ Trk.init with old := x.old ++ left } : Trk) = Trk.init := by
      have hl : left = [] := by
        show List.filterMap _ (s.trk t).pages = []
        rw [hp]
        rfl
      have hx : x.old = [] := ho
      rw [hl, hx]
      rfl
    have h1 : s.Frame s1 (idleWord t) := (Blk.Frame.refl s _).putTrk (.inl rfl)
    have hk1 : s1.trk t = Trk.init := (s.trk_putTrk_same t _).trans hleft
    have h2 : s.Frame s2 (idleWord t) := (h1.put).setF (x := LCK_SCHED_STATUS_COUNT t) (.inr (.inl rfl))
    have hk2 : s2.trk t = Trk.init := (Blk.trk_setF _ _ _ _).trans hk1
    have h3 : s.Frame s3 (idleWord t) := (h2.setF (x := PGE_TRK_STATUS_STATE t) (.inl rfl)).setF (x := PGE_TRK_STATUS_STOP_PENDING t) (.inl rfl)
    have hst3 : s3.trkState t = 0 :=
      (Blk.f_setF_ne _ (PGE_TRK_STATUS_STOP_PENDING t) (PGE_TRK_STATUS_STATE t) _ (show 12 ≤ 12 by decide) (show 0 ≤ 1 by decide)
        (show 1 < 24 by decide) (.inr (.inl (show 1 < 12 by decide)))).trans
        (Blk.trkState_setF_state _ t (by decide))
    have hk3 : s3.trk t = Trk.init := ((Blk.trk_setF _ _ _ _).trans (Blk.trk_setF _ _ _ _)).trans hk2
    clear_value s3
    have h4 : s.Frame s4 (idleWord t) := (h3.setF (x := SHT_STATUS_STATE) (.inr (.inr rfl))).ite h3
    have hst4 : s4.trkState t = 0 := by
      show (if t = 0 then _ else s3).trkState t = 0
      split
      · exact (Blk.f_setF_ne _ _ _ _ (by decide) (show 0 ≤ 1 by decide) (show 1 < 24 by decide) (.inl (by simp only [PGE_TRK_STATUS, SHT_STATUS]; omega))).trans hst3
      · exact hst3
    have hk4 : s4.trk t = Trk.init := by
      show (if t = 0 then _ else s3).trk t = _
      split
      · exact (Blk.trk_setF _ _ _ _).trans hk3
      · exact hk3
    clear_value s4
    have h5 : s.Frame s5 (idleWord t) := h4.put
    refine ⟨_, rfl, ?_, ?_, ?_⟩ <;> rw [Blk.postReleases_nil (show (s5.trk t).all = [] from (congrArg Trk.all hk4).trans rfl)]
    · exact h5
    · exact hk4
    · exact hst4
  obtain ⟨b, hb, hF, hk, hst⟩ := hE
  have hbusy : b.allIdle = false := by
    have hbu : b.trkState u ≠ 0 := by
      rw [hF.1.trkState hu (by simp only [idleWord, PGE_TRK_STATUS, LCK_SCHED_STATUS, SHT_STATUS]; omega)]
      exact hw
    rw [Blk.allIdle, List.all_eq_false]
    exact ⟨u, by simp; omega, by simpa using hbu⟩
  rw [hb, Blk.settle_of_busy hbusy]
  exact ⟨hst, hk, hF.2⟩

/-! ### STOP and ABORT (R88 to R90) -/

theorem Blk.currentPage_nil {t : Nat} (h : (s.trk t).pages = []) : s.currentPage t = none := by
  rw [Blk.currentPage, h]
  rfl

theorem trackStop_armed {t : Nat} (hs : s.shuttle = false) (h1 : s.trkState t = 1) (hp : (s.trk t).pages = []) (hf : (s.trk t).first = none) :
    trackStop t s = (s.trackIdle t).settle := by
  rw [trackStop, h1]
  simp only [hs, Blk.currentPage_nil hp, hf]
  rfl

theorem trackAbort_armed {t : Nat} (h1 : s.trkState t = 1) : trackAbort t s = (s.trackIdle t).settle := by
  unfold trackAbort
  rw [h1]
  rfl

/-- STOP of a printing track whose current page has lines to come. -/
theorem trackStop_printing {t : Nat} (ht : t < 4) (hs : s.shuttle = false) (h2 : s.trkState t = 2) {q : Page} (hq : s.currentPage t = some q)
    (hl : s.lineIndex t < q.endLine) :
    (trackStop t s).fb (PGE_TRK_STATUS_STOP_PENDING t) = true ∧ ((trackStop t s).trk t).ended = true ∧
      ((trackStop t s).trk t).pages = (s.trk t).pages.map (fun x => if x = q then { q with last := true } else x) ∧
      s.Frame (trackStop t s) (· = PGE_TRK_STATUS t) := by
  have he : trackStop t s = (s.setF (PGE_TRK_STATUS_STOP_PENDING t) 1).stopAfter t q := by
    rw [trackStop, h2]
    simp only [hs, hq]
    rfl
  have hpend : (s.setF (PGE_TRK_STATUS_STOP_PENDING t) 1).fb (PGE_TRK_STATUS_STOP_PENDING t) = true := by
    rw [Blk.fb_setF_same _ _ _ (show 12 ≤ 12 by decide) (show 12 < 24 by decide)]
    rfl
  have hF0 : s.Frame (s.setF (PGE_TRK_STATUS_STOP_PENDING t) 1) (· = PGE_TRK_STATUS t) :=
    (Blk.Frame.refl s _).setF (x := PGE_TRK_STATUS_STOP_PENDING t) rfl
  have hk0 : (s.setF (PGE_TRK_STATUS_STOP_PENDING t) 1).trk t = s.trk t := Blk.trk_setF _ _ _ _
  rw [he]
  generalize s.setF (PGE_TRK_STATUS_STOP_PENDING t) 1 = b at *
  unfold Blk.stopAfter
  extract_lets b1 src b2
  have hp1 : (b1.trk t).pages = (s.trk t).pages.map (fun x => if x = q then { q with last := true } else x) := by
    show ((b.putTrk t _).trk t).pages = _
    rw [Blk.trk_putTrk_same, hk0]
  have hb1 : s.Frame b1 (· = PGE_TRK_STATUS t) := hF0.putPage rfl
  have hb2 : s.Frame b2 (· = PGE_TRK_STATUS t) := hb1.putTrk rfl
  have hk2 : b2.trk t = { b1.trk t with ended := true } := b1.trk_putTrk_same t _
  have hst2 : b2.fb (PGE_TRK_STATUS_STOP_PENDING t) = b.fb (PGE_TRK_STATUS_STOP_PENDING t) :=
    (Blk.stopPending_putTrk b1 t _).trans (Blk.stopPending_putTrk b t _)
  have hl2 : b2.lineIndex t = s.lineIndex t := hb2.1.lineIndex ht fun i hi => by simp only [LCK_LINE_INDEX, PGE_TRK_STATUS]; omega
  rw [if_neg (by omega)]
  exact ⟨hst2.trans hpend, by rw [hk2], by rw [hk2]; exact hp1, hb2⟩

theorem trackAbort_printing {t : Nat} (h2 : s.trkState t = 2) :
    ((trackAbort t s).trk t).abortWait = true ∧ (trackAbort t s).trkState t = 2 ∧ s.Frame (trackAbort t s) (· = PGE_TRK_STATUS t) := by
  have he : trackAbort t s = s.putTrk t { s.trk t with abortWait := true } := by
    unfold trackAbort
    rw [h2]
    rfl
  rw [he, Blk.trk_putTrk_same, Blk.trkState_putTrk]
  exact ⟨rfl, h2, (Blk.Frame.refl s _).putTrk rfl⟩

/-- Settles O6, command by command. -/
theorem trackCommands : Obligations.TrackCommands := by
  unfold Obligations.TrackCommands
  intro s t hs hsh
  refine ⟨fun hm => .of_on (f := trackArm t) rfl hs (trackArm_arms t.isLt hsh hm), fun hm hscan hb => .of_on (f := trackArm t) rfl hs ?_,
    fun h1 hp ho hf hu => ⟨.of_on (f := trackStop t) rfl hs ?_, .of_on (f := trackAbort t) rfl hs ?_⟩,
    fun h2 => ⟨fun q hq hl => .of_on (f := trackStop t) rfl hs (trackStop_printing t.isLt hsh h2 hq hl),
      .of_on (f := trackAbort t) rfl hs (trackAbort_printing h2)⟩,
    fun hw hp ho hu => .of_on (f := fun b => (b.abortNow t).settle) rfl hs ?_⟩
  · obtain ⟨h1, h2, h3⟩ := trackArm_arms t.isLt hsh hm
    obtain ⟨h4, h5, h6⟩ := trackArm_alone t.isLt hsh hm hscan hb
    exact ⟨h1, h2, h3, h4, h5, h6⟩
  · obtain ⟨u, hu4, hne, hw⟩ := hu
    obtain ⟨hst, -, hc⟩ := Blk.trackIdle_settle t.isLt hp ho hu4 hne hw
    rw [trackStop_armed hsh h1 hp hf]
    exact ⟨hst, hc⟩
  · obtain ⟨u, hu4, hne, hw⟩ := hu
    obtain ⟨hst, -, hc⟩ := Blk.trackIdle_settle t.isLt hp ho hu4 hne hw
    rw [trackAbort_armed h1]
    exact ⟨hst, hc⟩
  · obtain ⟨u, hu4, hne, hwu⟩ := hu
    obtain ⟨hst, hk, hc⟩ := Blk.trackIdle_settle t.isLt hp ho hu4 hne hwu
    have he : s.blk.abortNow t = s.blk.trackIdle t := by rw [Blk.abortNow, if_pos hw]
    show (s.blk.abortNow t).settle.trkState t = 0 ∧ _
    rw [he]
    exact ⟨hst, by rw [hk]; rfl, hc⟩

end Sys2Proof.Machine
end

section
/-!
PROOFS. A port that becomes READY passes over the lines that have fired, and each goes into the record of its camera line: image memory
changes, which refutes what is claimed of the sixteenth sample (R173, R190, R204).
-/

namespace Sys2Proof.Machine

/-- An ECHO_RSP with TAG 0. -/
def zeroEcho : List Byte :=
  let bs := toBE 0x43 1 ++ List.replicate 15 0
  bs ++ toBE (crc32 bs) 4

/-- Port 0 in MEASURE with fifteen samples, fire number 1, and camera 0 whose record of line 1 stands in image memory. -/
def missedLineState : State :=
  let b := (((({ Blk.init with sys := { Sys.init with phase := .up }, mem := [(0x1c000, 1)] }).setF (HLK_PORT_STATUS_STATE 0) 3).wn HLK_FIRE_NUM 1).setF
    (INS_CAM_STATUS_STATE 0) 1).setPort 0 { Port.init with samples := List.replicate 15 0 }
  ⟨b, []⟩

theorem memRead_echoRsp_missedLineState :
    (echoRsp 0 zeroEcho 0 missedLineState.blk).memRead 0x1c030 = 1 ∧ missedLineState.blk.memRead 0x1c030 = 0 := by decide +kernel

/-- Refutes O14, by its clause on the sixteenth sample: the record of line 1 says that port 0 fired blank. -/
theorem not_headAnswers : ¬ Obligations.HeadAnswers := by
  unfold Obligations.HeadAnswers
  intro h
  obtain ⟨-, hecho, -⟩ := h missedLineState 0 zeroEcho (by decide +kernel)
  obtain ⟨hready, -⟩ := hecho 0 (by decide +kernel) (by decide +kernel) (by decide +kernel)
  obtain ⟨-, -, hcalm⟩ := (hready (by decide +kernel) (by decide +kernel)).on (f := echoRsp 0 zeroEcho 0) rfl (by decide +kernel)
  have hm : (echoRsp 0 zeroEcho 0 missedLineState.blk).memRead 0x1c030 = _ := hcalm.1 0x1c030
  rw [memRead_echoRsp_missedLineState.1, memRead_echoRsp_missedLineState.2] at hm
  exact absurd hm (by decide)

end Sys2Proof.Machine
end

section
/-!
PROOFS. Frames of a head port, and those it sends on its timers (R162 to R165, R173, R177, R184).
-/

namespace Sys2Proof.Machine

variable {r s : Blk} {p : Nat → Prop}

/-! ### A frame that starts on a port (R162, R164) -/

theorem length_toBE (v n : Nat) : (toBE v n).length = n := by rw [toBE, List.length_reverse, length_toLE]

theorem toBE_one (v : Nat) : toBE v 1 = [BitVec.ofNat 8 v] := rfl

/-- The header of a downstream frame. -/
def Blk.downHead (s : Blk) (h typ flags fnum n : Nat) : List Byte :=
  toBE typ 1 ++ toBE (flags + (if s.claims then 128 else 0)) 1 ++ toBE s.epochOut 3 ++ toBE fnum 6 ++ toBE h 1 ++ toBE s.claimWin 2 ++ toBE n 2

theorem Blk.length_downHead (s : Blk) (h typ flags fnum n : Nat) : (s.downHead h typ flags fnum n).length = 16 := by
  simp only [Blk.downHead, List.length_append, length_toBE]

theorem Blk.downFrame_eq (s : Blk) (h typ flags fnum : Nat) (payload : List Byte) :
    s.downFrame h typ flags fnum payload = (s.downHead h typ flags fnum payload.length ++ payload) ++
      toBE (crc32 (s.downHead h typ flags fnum payload.length ++ payload)) 4 := rfl

theorem Blk.length_downFrame (s : Blk) (h typ flags fnum : Nat) (payload : List Byte) :
    (s.downFrame h typ flags fnum payload).length = 20 + payload.length := by
  rw [Blk.downFrame_eq, List.length_append, List.length_append, Blk.length_downHead, length_toBE]
  omega

/-- A port after a frame has started on it now. -/
def Blk.framed (s : Blk) (h typ flags fnum : Nat) (payload : List Byte) : Port :=
  { s.port h with frame := some ⟨typ, fnum, s.nowPs + s.framePs h (s.downFrame h typ flags fnum payload).length, payload⟩, frameAt := s.now }

section

variable {h typ flags fnum : Nat} {payload : List Byte}

theorem Blk.framed_idents : (s.framed h typ flags fnum payload).idents = (s.port h).idents := rfl

theorem Blk.framed_tag : (s.framed h typ flags fnum payload).tag = (s.port h).tag := rfl

theorem Blk.framed_askAt : (s.framed h typ flags fnum payload).askAt = (s.port h).askAt := rfl

theorem Blk.framed_frameAt : (s.framed h typ flags fnum payload).frameAt = s.now := rfl

theorem Blk.framed_frame : (s.framed h typ flags fnum payload).frame =
    some ⟨typ, fnum, s.nowPs + s.framePs h (s.downFrame h typ flags fnum payload).length, payload⟩ := rfl

end

/-- A frame changes its port, the line, and what has left the part. -/
theorem Blk.sendFrame_eq (s : Blk) (h typ flags fnum : Nat) (payload : List Byte) :
    ∃ lanes wires, s.sendFrame h typ flags fnum payload =
      { s with ports := (s.setPort h (s.framed h typ flags fnum payload)).ports, lanes := lanes, wires := wires,
               out := .down h s.nowPs (s.downFrame h typ flags fnum payload) :: s.out } := by
  unfold Blk.sendFrame
  extract_lets bs q t
  obtain ⟨lanes, wires, e⟩ : t.Lined (t.txPut h t.nowPs (frameSyms bs)) := (Blk.Lined.refl t).txPut
  rw [e]
  exact ⟨lanes, wires, rfl⟩

theorem Blk.port_put {now freeN regs held mem evq out wires holding tim bcn encs lck scheds pevs trks cmp mbx cams ins sht axes twn dram lanes scan
    links wal time streams sto bst trm fuse sys acc} (h : Nat) :
    Blk.port (⟨now, freeN, regs, held, mem, evq, out, wires, holding, tim, bcn, encs, lck, scheds, pevs, trks, cmp, s.ports, mbx, cams, ins,
      sht, axes, twn, dram, lanes, scan, links, wal, time, streams, sto, bst, trm, fuse, sys, acc⟩ : Blk) h = s.port h := rfl

theorem Blk.port_sendFrame (s : Blk) (h typ flags fnum : Nat) (payload : List Byte) :
    (s.sendFrame h typ flags fnum payload).port h = s.framed h typ flags fnum payload := by
  obtain ⟨lanes, wires, e⟩ := s.sendFrame_eq h typ flags fnum payload
  rw [e, Blk.port_put (s := s.setPort h _)]
  exact s.port_setPort_same h _

theorem Blk.frame_sendFrame (s : Blk) (h typ flags fnum : Nat) (payload : List Byte) : s.Frame (s.sendFrame h typ flags fnum payload) p := by
  obtain ⟨lanes, wires, e⟩ := s.sendFrame_eq h typ flags fnum payload
  rw [e]
  exact (Blk.Frame.refl s p).put

theorem Blk.evq_sendFrame (s : Blk) (h typ flags fnum : Nat) (payload : List Byte) : (s.sendFrame h typ flags fnum payload).evq = s.evq := by
  obtain ⟨lanes, wires, e⟩ := s.sendFrame_eq h typ flags fnum payload
  rw [e]

theorem Blk.mbx_sendFrame (s : Blk) (h typ flags fnum : Nat) (payload : List Byte) : (s.sendFrame h typ flags fnum payload).mbx = s.mbx := by
  obtain ⟨lanes, wires, e⟩ := s.sendFrame_eq h typ flags fnum payload
  rw [e]

/-- The frame that has left is header, payload and the CRC of both. -/
theorem Blk.sentDown_of_out {b : Blk} {h typ flags fnum : Nat} {payload : List Byte}
    (ho : b.out = .down h s.nowPs (s.downFrame h typ flags fnum payload) :: r.out) : r.SentDown b h typ payload := by
  have hl := s.length_downHead h typ flags fnum payload.length
  refine ⟨_, _, ho, s.length_downFrame h typ flags fnum payload, ?_, ?_, ?_⟩ <;> rw [Blk.downFrame_eq]
  · simp only [Blk.downHead, toBE_one, List.cons_append, List.take_succ_cons, List.take_zero, List.nil_append]
  · rw [List.append_assoc, List.drop_append_of_le_length (by omega), ← hl, List.drop_length, List.nil_append, List.take_left']
    rfl
  · generalize s.downHead h typ flags fnum payload.length = hd at *
    have hlen : 16 + payload.length = (hd ++ payload).length := by rw [List.length_append, hl]
    rw [hlen, List.drop_left, List.take_left]

theorem Blk.out_sendFrame (s : Blk) (h typ flags fnum : Nat) (payload : List Byte) :
    (s.sendFrame h typ flags fnum payload).out = .down h s.nowPs (s.downFrame h typ flags fnum payload) :: s.out := by
  obtain ⟨lanes, wires, e⟩ := s.sendFrame_eq h typ flags fnum payload
  rw [e]

theorem Blk.sentDown_sendFrame (ho : s.out = r.out) (h typ flags fnum : Nat) (payload : List Byte) :
    r.SentDown (s.sendFrame h typ flags fnum payload) h typ payload :=
  Blk.sentDown_of_out (s := s) (flags := flags) (fnum := fnum) (by rw [Blk.out_sendFrame, ho])

theorem Blk.mbxPump_none {h : Nat} (hm : ∀ m, s.mbx = some m → m.out = none) : s.mbxPump h = s := by
  unfold Blk.mbxPump
  split
  · rfl
  · next m hs => rw [hm m hs]

/-! ### Reads after time has passed -/

theorem Blk.portState_advance (s : Blk) (t : Nat) {h : Nat} (hh : h < 32) : (s.advance t).portState h = s.portState h :=
  s.f_advance t (cntWord_low (by simp only [HLK_PORT_STATUS]; omega))

theorem Blk.port_advance (s : Blk) (t h : Nat) : (s.advance t).port h = s.port h := by rw [Blk.port, Blk.advance_ports, Blk.port]

theorem Blk.laneRate_advance (s : Blk) (t : Nat) {h : Nat} (hh : h < 44) : (s.advance t).laneRate h = s.laneRate h :=
  s.f_advance t (cntWord_low (by simp only [LAN_STATUS]; omega))

/-! ### The frames sent on a port's timers (R173, R177, R184) -/

/-- IDENT after its millisecond. -/
theorem identSend_spec {h t : Nat} (hh : h < 32) (h2 : s.portState h = 2) (ha : (s.port h).askAt + 250000 ≤ t) (hi : (s.port h).idents < 8)
    (hm : (s.advance t).otherMay h = true) :
    s.SentDown (identSend h t s) h 3 (toBE (bits (s.rn WAL_ID) 11 0) 2 ++ [1, BitVec.ofNat 8 (s.laneRate h), 0, 0, 0, 0]) ∧
      ((identSend h t s).port h).idents = (s.port h).idents + 1 ∧ ((identSend h t s).port h).askAt = max s.now t ∧
      s.Frame (identSend h t s) (fun _ => False) := by
  have hst := (s.portState_advance t hh).trans h2
  have hp := s.port_advance t h
  have hid : (s.advance t).rn WAL_ID = s.rn WAL_ID := s.rn_advance t (by decide)
  have hr := s.laneRate_advance t (h := h) (by omega)
  have hF : s.Frame (s.advance t) (fun _ => False) := (Blk.Frame.refl s _).advance
  have ho : (s.advance t).out = s.out := s.advance_out t
  have hn := s.now_advance t
  have he : identSend h t s = (s.advance t).sendIdent h := by
    unfold identSend
    rw [if_neg (by rw [hst, hp]; omega), if_neg (by rw [hp]; omega), if_pos hm]
  rw [he, ← hp, ← hid, ← hr, ← hn]
  generalize s.advance t = b at *
  have hs : b.sendIdent h = (b.setPort h { b.port h with idents := (b.port h).idents + 1, askAt := b.now }).sendFrame h 3 0 b.fireNum
      (toBE (bits (b.rn WAL_ID) 11 0) 2 ++ [1, BitVec.ofNat 8 (b.laneRate h), 0, 0, 0, 0]) := rfl
  rw [hs, Blk.port_sendFrame, Blk.framed_idents, Blk.framed_askAt, b.port_setPort_same]
  exact ⟨Blk.sentDown_sendFrame ((Blk.setPort_out _ _ _).trans ho) _ _ _ _ _, rfl, rfl, (hF.put).trans (Blk.frame_sendFrame _ _ _ _ _ _)⟩

theorem Blk.sendEcho_spec (ho : s.out = r.out) (h : Nat) :
    r.SentDown (s.sendEcho h) h 4 [BitVec.ofNat 8 (((s.port h).tag + 1) % 256), 0, 0, 0] ∧
      ((s.sendEcho h).port h).tag = ((s.port h).tag + 1) % 256 ∧ s.Frame (s.sendEcho h) p := by
  have hs : s.sendEcho h = (s.setPort h { s.port h with tag := ((s.port h).tag + 1) % 256, askAt := s.now }).sendFrame h 4 0 s.fireNum
      [BitVec.ofNat 8 ((s.setPort h { s.port h with tag := ((s.port h).tag + 1) % 256, askAt := s.now }).port h).tag, 0, 0, 0] := rfl
  rw [hs, Blk.port_sendFrame, Blk.framed_tag, s.port_setPort_same]
  exact ⟨Blk.sentDown_sendFrame ((Blk.setPort_out _ _ _).trans ho) _ _ _ _ _, rfl, ((Blk.Frame.refl s p).put).trans (Blk.frame_sendFrame _ _ _ _ _ _)⟩

/-- ECHO_REQ in MEASURE and in READY. -/
theorem echoReqSend_spec {h t : Nat} (hh : h < 32) (hm : (s.advance t).otherMay h = true) (hx : ∀ m, s.mbx = some m → m.out = none)
    (hw : s.portState h = 3 ∧ (s.port h).askAt + 25000 ≤ t ∨ s.portState h = 4 ∧ (s.port h).askAt + 250000 * max 1 (s.f HLK_CFG_ECHO_INT) ≤ t) :
    s.SentDown (echoReqSend h t s) h 4 [BitVec.ofNat 8 (((s.port h).tag + 1) % 256), 0, 0, 0] ∧
      ((echoReqSend h t s).port h).tag = ((s.port h).tag + 1) % 256 ∧ s.Frame (echoReqSend h t s) (fun _ => False) := by
  have hst := s.portState_advance t hh
  have hp := s.port_advance t h
  have hc : (s.advance t).f HLK_CFG_ECHO_INT = s.f HLK_CFG_ECHO_INT := s.f_advance t (by decide)
  have he : echoReqSend h t s = (s.advance t).sendEcho h := by
    unfold echoReqSend
    rw [Blk.mbxPump_none (s := s.advance t) (by rw [s.advance_mbx]; exact hx)]
    rw [← hp, ← hst, ← hc] at hw
    generalize s.advance t = b at *
    rcases hw with ⟨h3, ha⟩ | ⟨h4, ha⟩
    · simp only [h3]
      exact if_pos ⟨ha, hm⟩
    · simp only [h4]
      exact if_pos ⟨ha, hm⟩
  obtain ⟨h1, h2, h3⟩ := Blk.sendEcho_spec (p := fun _ => False) (s.advance_out t) h
  rw [hp] at h1 h2
  rw [he]
  exact ⟨h1, h2, ((Blk.Frame.refl s _).advance).trans h3⟩

/-- IDLE where no frame has started for a quarter of CLAIM_WIN. -/
theorem idleFrameSend_spec {h t : Nat} (hh : h < 32) (hm : (s.advance t).otherMay h = true) (hx : ∀ m, s.mbx = some m → m.out = none)
    (h0 : s.portState h ≠ 0) (hd : (s.port h).frameAt * 16 + (s.advance t).claimWin * 10 ≤ max s.now t * 16) :
    s.SentDown (idleFrameSend h t s) h 2 [] ∧ ((idleFrameSend h t s).port h).frameAt = max s.now t ∧ s.Frame (idleFrameSend h t s) (fun _ => False) := by
  have he : idleFrameSend h t s = (s.advance t).sendFrame h 2 0 (s.advance t).fireNum [] := by
    unfold idleFrameSend
    rw [Blk.mbxPump_none (s := s.advance t) (by rw [s.advance_mbx]; exact hx)]
    refine if_pos ?_
    rw [s.portState_advance t hh, s.port_advance t h, s.now_advance t, decide_eq_true hd, hm]
    simpa using h0
  rw [he, Blk.port_sendFrame]
  exact ⟨Blk.sentDown_sendFrame (s.advance_out t) _ _ _ _ _, s.now_advance t, ((Blk.Frame.refl s _).advance).trans (Blk.frame_sendFrame _ _ _ _ _ _)⟩

/-- Settles O13, timer by timer. -/
theorem headTimers : Obligations.HeadTimers := by
  unfold Obligations.HeadTimers
  intro s h t hs
  exact ⟨fun h2 ha hi hm => .of_on (f := identSend h t) rfl hs (identSend_spec h.isLt h2 ha hi hm),
    fun hm hx hw => .of_on (f := echoReqSend h t) rfl hs (echoReqSend_spec h.isLt hm hx hw),
    fun hm hx h0 hd => .of_on (f := idleFrameSend h t) rfl hs (idleFrameSend_spec h.isLt hm hx h0 hd)⟩

end Sys2Proof.Machine
end

section
/-!
PROOFS. The LINE and the FIRE frame of a line (R165, R167, R168, R175, R178).
-/

namespace Sys2Proof.Machine

variable {r s : Blk} {p : Nat → Prop}

/-! ### LINE (R165 to R168) -/

theorem PortLine.whole_of_wholes {l : PortLine} (h : l.wholes = []) (i : Nat) : l.whole.getD i 0 = 0 := by
  have hf : l.whole.filter (fun w => w != 0) = [] := by
    by_contra hne
    obtain ⟨w, hw⟩ := List.exists_mem_of_ne_nil _ hne
    have hd : w ∈ l.wholes := List.mem_eraseDups.2 hw
    rw [h] at hd
    exact List.not_mem_nil hd
  rw [List.getD_eq_getElem?_getD]
  cases hi : l.whole[i]? with
  | none => rfl
  | some w => simpa using List.filter_eq_nil_iff.1 hf w (List.mem_of_getElem? hi)

/-- A line without delays of whole lines carries its codes as they were composed. -/
theorem Blk.lineCodes_of_wholes {l : PortLine} (h : l.wholes = []) (unread : Nat) (bad : Option Nat) :
    s.lineCodes l unread bad = (List.range (s.slots l.port)).map fun i => l.codes.getD i 0 := by
  refine List.map_congr_left fun i _ => ?_
  unfold Blk.slotSend
  rw [PortLine.whole_of_wholes h]
  rfl

theorem Blk.delayRows_of_wholes {l : PortLine} (h : l.wholes = []) : s.delayRows l = [] := by
  refine List.filter_eq_nil_iff.2 fun q _ => ?_
  rw [Bool.not_eq_true, List.any_eq_false]
  intro c _
  rw [PortLine.whole_of_wholes h]
  decide

theorem Blk.goesBlank_of_blankEn {h : Nat} (hb : s.fb (HLK_PORT_CFG_BLANK_EN h) = false) (codes : List Nat) : s.goesBlank h codes = false := by
  rw [Blk.goesBlank, hb]
  rfl

/-- The payload of a LINE frame that is neither held nor blank: the offsets of the rows, and the codes. -/
def Blk.linePayload (s : Blk) (l : PortLine) : List Byte :=
  (List.range (s.rows l.port)).flatMap (fun r => toBE (s.rowOffsetNs (l.frac.getD r 0)) 3) ++
    wordBytes (packWords (packing l.rung).1 (packing l.rung).2 (s.slots l.port) ((List.range (s.slots l.port)).map fun i => l.codes.getD i 0))

theorem Blk.lineStart_spec {l : PortLine} {unread : Nat} {e : MemErr} (hw : l.wholes = []) (hh : s.held? l.port l.fire = false)
    (hb : s.fb (HLK_PORT_CFG_BLANK_EN l.port) = false) :
    s.SentDown (s.lineStart l.port l unread e) l.port 1 (s.linePayload l) ∧ ((s.lineStart l.port l unread e).port l.port).lastLine = l.fire ∧
      s.Frame (s.lineStart l.port l unread e) p ∧ (s.lineStart l.port l unread e).mbx = s.mbx := by
  have hrd : s.readDelayed l.port l e = s := by
    unfold Blk.readDelayed
    rw [hw]
  unfold Blk.lineStart
  extract_lets n hold late t codes blank pk payload t1 q t2
  have ht : t = s := hrd
  have hhold : hold = false := hh
  have hcodes : codes = (List.range (s.slots l.port)).map fun i => l.codes.getD i 0 := by
    show t.lineCodes l unread _ = _
    rw [ht, Blk.lineCodes_of_wholes hw]
  have hblank : blank = false := by
    show (!hold && t.goesBlank l.port codes) = false
    rw [ht, Blk.goesBlank_of_blankEn hb, Bool.and_false]
  have hlen : codes.length = s.slots l.port := by rw [hcodes, List.length_map, List.length_range]
  have hpay : payload = s.linePayload l := by
    show (if (hold || blank) = true then [] else _ ++ wordBytes (packWords _ _ codes.length codes)) = _
    rw [hhold, hblank, hlen, hcodes, ht]
    rfl
  have hlate : late = false := by
    show (s.delayRows l).any _ = false
    rw [Blk.delayRows_of_wholes hw]
    rfl
  have h1 : s.SentDown t1 l.port 1 payload := by
    show s.SentDown (t.sendFrame l.port 1 _ n payload) l.port 1 payload
    rw [ht]
    exact Blk.sentDown_sendFrame rfl _ _ _ _ _
  have hF : s.Frame t1 p := by
    show s.Frame (t.sendFrame l.port 1 _ n payload) p
    rw [ht]
    exact Blk.frame_sendFrame _ _ _ _ _ _
  have hm : t1.mbx = s.mbx := (Blk.mbx_sendFrame _ _ _ _ _ _).trans (congrArg Blk.mbx ht)
  rw [hlate, if_neg Bool.false_ne_true, ← hpay]
  clear_value t1 payload
  refine ⟨h1, ?_, hF.put, hm⟩
  show (t2.port l.port).lastLine = n
  rw [show t2 = t1.setPort l.port _ from rfl, t1.port_setPort_same]

/-- The next line of a port, neither skipped nor too late. -/
theorem lineNext_starts {h unread k : Nat} {e : MemErr} {l : PortLine} {d : Int} (hl : s.portLine h ((s.port h).lastLine + 1) = some l)
    (hsk : s.skippedLine l.fire = false) (hd : l.fire ≤ 3 ∨ s.departed h (l.fire - 3) = true) (hh : s.held? h l.fire = false)
    (hb : s.fb (HLK_PORT_CFG_BLANK_EN h) = false) (hw : l.wholes = []) (hdep : s.depart h l.fire = some d)
    (hin : s.nowPs + (s.framePs h (20 + s.lineLen h l.rung) : Nat) ≤ d) :
    l.port = h ∧ l.fire = (s.port h).lastLine + 1 ∧ lineNext h unread e (k + 1) s = s.lineStart h l unread e := by
  obtain ⟨hport, hfire⟩ : l.port = h ∧ l.fire = (s.port h).lastLine + 1 := by
    simpa using List.find?_some hl
  refine ⟨hport, hfire, ?_⟩
  have hlen : s.linePs l unread = s.framePs h (20 + s.lineLen h l.rung) := by
    unfold Blk.linePs
    rw [hport, hh, Blk.goesBlank_of_blankEn hb]
    rfl
  have hwait : ¬(3 < (s.port h).lastLine + 1 ∧ (!s.departed h ((s.port h).lastLine + 1 - 3)) = true) := by
    rw [← hfire]
    rcases hd with hd | hd
    · omega
    · simp [hd]
  unfold lineNext
  simp only [hl]
  rw [← hfire] at hwait ⊢
  simp only [hsk, hdep]
  rw [if_neg Bool.false_ne_true, if_neg hwait, hlen, if_neg (by omega), Blk.delayRows_of_wholes hw]
  simp

theorem lineFrameSend_spec {h t unread : Nat} {e : MemErr} {l : PortLine} {d : Int} (ht : t ≤ s.now) (hs : s.inService h = true)
    (hx : ∀ m, s.mbx = some m → m.out = none) (hf : s.portFree h = true) (hwk : s.wokenIdle h = true)
    (hl : s.portLine h ((s.port h).lastLine + 1) = some l)
    (hsk : s.skippedLine l.fire = false) (hd : l.fire ≤ 3 ∨ s.departed h (l.fire - 3) = true) (hh : s.held? h l.fire = false)
    (hb : s.fb (HLK_PORT_CFG_BLANK_EN h) = false) (hw : l.wholes = []) (hdep : s.depart h l.fire = some d)
    (hin : s.nowPs + (s.framePs h (20 + s.lineLen h l.rung) : Nat) ≤ d) :
    s.SentDown (lineFrameSend h t unread e s) h 1 ((List.range (s.rows h)).flatMap (fun r => toBE (s.rowOffsetNs (l.frac.getD r 0)) 3) ++
        wordBytes (packWords (packing l.rung).1 (packing l.rung).2 (s.slots h) ((List.range (s.slots h)).map fun i => l.codes.getD i 0))) ∧
      ((lineFrameSend h t unread e s).port h).lastLine = l.fire ∧ s.Frame (lineFrameSend h t unread e s) (fun _ => False) := by
  obtain ⟨hport, -, hnext⟩ := lineNext_starts (unread := unread) (k := 1099) (e := e) hl hsk hd hh hb hw hdep hin
  subst hport
  obtain ⟨h1, h2, h3, h4⟩ := Blk.lineStart_spec (p := fun _ => False) (unread := unread) (e := e) hw hh hb
  have he : lineFrameSend l.port t unread e s = s.lineStart l.port l unread e := by
    unfold lineFrameSend
    rw [Blk.advance_of_le s ht]
    simp only [hs, hf, hwk]
    show (lineNext l.port unread e 1100 s).mbxPump l.port = _
    rw [hnext, Blk.mbxPump_none (by rw [h4]; exact hx)]
  rw [he]
  exact ⟨h1, h2, h3⟩

/-! ### FIRE (R178) -/

theorem Blk.lined_txIn (s : Blk) (n : Nat) (ps : Int) (cs : List Sym) : s.Lined (s.txIn n ps cs) := (Blk.Lined.refl s).txTo.setTx

theorem Blk.abortLineOf_of_frame {h : Nat} (hf : (s.port h).frame = none) (n : Nat) (ps : Int) : s.abortLineOf h n ps = (s, false) := by
  unfold Blk.abortLineOf
  extract_lets q
  rw [show q.frame = none from hf]

/-- FIRE of a triggered line whose codes the port has sent. -/
theorem fireNext_fires {h k : Nat} {x : Trig} {d : Int} {f : Nat} (htr : s.trig ((s.port h).lastFire + 1) = some x) (hsk : x.skipped = false)
    (hdep : s.departAt h (x.tps + 1000 * (s.f LCK_FIRE_DELAY_NS : Int)) = (d, f)) (hd : d ≤ s.nowPs)
    (hfirst : (4000 * (x.clk : Int) + symPs (s.laneRate h) - 1) / symPs (s.laneRate h) * symPs (s.laneRate h) ≤ d)
    (hfr : (s.port h).frame = none) (hh : s.held? h ((s.port h).lastFire + 1) = false)
    (hln : (s.port h).lines.find? (fun l => l.1 == (s.port h).lastFire + 1) = some ((s.port h).lastFire + 1, false)) :
    (fireNext h (k + 1) s).out = .fire h (((s.port h).lastFire + 1) % 256) f (fflags (((s.port h).lastFire + 1) % 256) f false) d :: s.out ∧
      ((fireNext h (k + 1) s).port h).lastFire = (s.port h).lastFire + 1 ∧ s.Frame (fireNext h (k + 1) s) p ∧ (fireNext h (k + 1) s).mbx = s.mbx := by
  have he : fireNext h (k + 1) s = ((s.setPort h { s.port h with lastFire := (s.port h).lastFire + 1 }).txIn h d
      [k28x3, (false, ((s.port h).lastFire + 1) % 256), (false, f), (false, fflags (((s.port h).lastFire + 1) % 256) f false)]).emit
        (.fire h (((s.port h).lastFire + 1) % 256) f (fflags (((s.port h).lastFire + 1) % 256) f false) d) := by
    have hq := s.port_setPort_same h { s.port h with lastFire := (s.port h).lastFire + 1 }
    have hfr' : ((s.setPort h { s.port h with lastFire := (s.port h).lastFire + 1 }).port h).frame = none := (congrArg Port.frame hq).trans hfr
    have hh' : (s.setPort h { s.port h with lastFire := (s.port h).lastFire + 1 }).held? h ((s.port h).lastFire + 1) = false := by
      unfold Blk.held?
      rw [hq]
      exact hh
    have hln' : ((s.setPort h { s.port h with lastFire := (s.port h).lastFire + 1 }).port h).lines.find? (fun l => l.1 == (s.port h).lastFire + 1) =
        some ((s.port h).lastFire + 1, false) := by
      rw [hq]
      exact hln
    have hr' : (s.setPort h { s.port h with lastFire := (s.port h).lastFire + 1 }).laneRate h = s.laneRate h := rfl
    unfold fireNext
    simp only [htr, hdep, hsk]
    rw [if_neg (by omega), if_neg Bool.false_ne_true, hr', if_neg (by omega), Blk.abortLineOf_of_frame hfr']
    simp only [Bool.false_eq_true, if_false, hh', hln', Bool.or_false]
  rw [he]
  obtain ⟨lanes, wires, e⟩ := Blk.lined_txIn (s.setPort h { s.port h with lastFire := (s.port h).lastFire + 1 }) h d
    [k28x3, (false, ((s.port h).lastFire + 1) % 256), (false, f), (false, fflags (((s.port h).lastFire + 1) % 256) f false)]
  rw [e]
  refine ⟨rfl, ?_, ((Blk.Frame.refl s p).put).put, rfl⟩
  show ((s.setPort h { s.port h with lastFire := (s.port h).lastFire + 1 }).port h).lastFire = _
  rw [s.port_setPort_same]

theorem fireSend_spec {h t : Nat} {x : Trig} {d : Int} {f : Nat} (ht : t ≤ s.now) (hs : s.inService h = true)
    (hx : ∀ m, s.mbx = some m → m.out = none) (hc : s.fb TWN_HEALTH_CLOCK = false)
    (htr : s.trig ((s.port h).lastFire + 1) = some x) (hsk : x.skipped = false)
    (hdep : s.departAt h (x.tps + 1000 * (s.f LCK_FIRE_DELAY_NS : Int)) = (d, f)) (hd : d ≤ s.nowPs)
    (hfirst : (4000 * (x.clk : Int) + symPs (s.laneRate h) - 1) / symPs (s.laneRate h) * symPs (s.laneRate h) ≤ d)
    (hfr : (s.port h).frame = none) (hh : s.held? h ((s.port h).lastFire + 1) = false)
    (hln : (s.port h).lines.find? (fun l => l.1 == (s.port h).lastFire + 1) = some ((s.port h).lastFire + 1, false)) :
    (fireSend h t s).out = .fire h (((s.port h).lastFire + 1) % 256) f (fflags (((s.port h).lastFire + 1) % 256) f false) d :: s.out ∧
      ((fireSend h t s).port h).lastFire = (s.port h).lastFire + 1 ∧ s.Frame (fireSend h t s) (fun _ => False) := by
  obtain ⟨h1, h2, h3, h4⟩ := fireNext_fires (p := fun _ => False) (k := 1099) htr hsk hdep hd hfirst hfr hh hln
  have he : fireSend h t s = fireNext h 1100 s := by
    unfold fireSend
    rw [Blk.advance_of_le s ht]
    simp only [hs, hc]
    show (fireNext h 1100 s).mbxPump h = _
    rw [Blk.mbxPump_none (by rw [h4]; exact hx)]
  rw [he]
  exact ⟨h1, h2, h3⟩

/-- Settles O16. -/
theorem linesAndFire : Obligations.LinesAndFire := by
  unfold Obligations.LinesAndFire
  intro s h t hs ht hsv hx
  exact ⟨fun l u e d hf hwk hl hsk hd hh hb hw hdep hin => .of_on (f := lineFrameSend h t u.toNat e) rfl hs
      (lineFrameSend_spec ht hsv hx hf hwk hl hsk hd hh hb hw hdep hin),
    fun x d f hc htr hsk hdep hd hfirst hfr hh hln => .of_on (f := fireSend h t) rfl hs
      (fireSend_spec ht hsv hx hc htr hsk hdep hd hfirst hfr hh hln)⟩

end Sys2Proof.Machine
end

section
/-!
PROOFS. What the entry of a lane to TRAIN leaves (R322, R323, R327).
-/

namespace Sys2Proof.Machine

variable {r s : Blk} {p : Nat → Prop}

/-- The words of a lane that its training writes, and that of the eye scan. -/
def trainWord (n a : Nat) : Prop :=
  a = LAN_STATUS n ∨ a = LAN_TRAIN_LOG n ∨ a = LAN_EQ n ∨ a = LAN_CFG n ∨ a = LAN_EYE_STATUS

theorem trainWord_ge {n a : Nat} (h : trainWord n a) : 0x100000 ≤ a := by
  simp only [trainWord, LAN_STATUS, LAN_TRAIN_LOG, LAN_EQ, LAN_CFG, LAN_EYE_STATUS] at h
  omega

namespace Blk.Frame

theorem commit (h : r.Frame s p) {q : Held → Bool} (hq : ∀ x, q x = true → p x.addr) : r.Frame (s.commit q) p := by
  unfold Blk.commit
  extract_lets go
  have h0 : r.Frame { s with held := s.held.filter fun x => !q x } p := h.put
  have hfold : r.Frame (go.foldl (fun t x => t.setReg x.addr x.val) { s with held := s.held.filter fun x => !q x }) p :=
    List.foldlRecOn (motive := fun u : Blk => r.Frame u p) go _ h0 fun u g x hx => g.setReg (hq x (List.mem_filter.1 hx).2)
  exact h.ite hfold

theorem lined {t : Blk} (h : r.Frame s p) (g : s.Lined t) : r.Frame t p := h.trans (g.frame p)

theorem scanLeft (h : r.Frame s p) (hp : p LAN_EYE_STATUS) {n : Nat} : r.Frame (s.scanLeft n) p :=
  h.trans ((Blk.Laned.refl s).scanLeft hp).frame

theorem laneOff (h : r.Frame s p) {n : Nat} (hp : ∀ a, laneWord n a → p a) : r.Frame (s.laneOff n) p :=
  h.trans ((s.laned_laneOff n).mono hp).frame

theorem eqTake (h : r.Frame s p) {n : Nat} (hp : p (LAN_EQ n)) : r.Frame (s.eqTake n) p := by
  unfold Blk.eqTake
  extract_lets pk t
  have ht : r.Frame t p := h.commit fun x hx => by
    simp only [Bool.and_eq_true, beq_iff_eq] at hx
    rw [hx.2]
    exact hp
  exact h.ite (ht.setF (x := LAN_EQ_PEAK n) hp)

theorem showRate (h : r.Frame s p) {n k : Nat} (hp : p (LAN_STATUS n)) : r.Frame (s.showRate n k) p :=
  (h.setF (x := LAN_STATUS_RATE n) hp).setF (x := LAN_STATUS_HEAVY n) hp

theorem laneStep (h : r.Frame s p) {n k : Nat} (hp : ∀ a, trainWord n a → p a) : r.Frame (s.laneStep n k) p := by
  have hS := hp _ (.inl rfl)
  have hE := hp _ (.inr (.inr (.inl rfl)))
  unfold Blk.laneStep
  extract_lets t1 t2 log tried t3 start x tx
  have h1 : r.Frame t1 p := ((h.showRate hS).setF (x := LAN_STATUS_LOCK n) hS).eqTake hE
  have h2 : r.Frame t2 p := (h1.setF (x := LAN_EQ_PEAK n) hE).ite h1
  have h3 : r.Frame t3 p := h2.wn (hp _ (.inr (.inl rfl)))
  exact (h3.put).lined (Blk.Lined.refl _).tsSend

theorem laneTrain (h : r.Frame s p) {n : Nat} (hp : ∀ a, trainWord n a → p a) : r.Frame (s.laneTrain n) p := by
  have hS := hp _ (.inl rfl)
  have hX := hp _ (.inr (.inr (.inr (.inr rfl))))
  unfold Blk.laneTrain
  extract_lets t1 t2 t3 t4 t5 x src src' t6
  have h1 : r.Frame t1 p := h.commit fun y hy => by
    simp only [Bool.and_eq_true, beq_iff_eq] at hy
    rw [hy.2]
    exact hp _ (.inr (.inr (.inr (.inl rfl))))
  have h2 : r.Frame t2 p := (h1.setF (x := LAN_STATUS_DOWN n) hS).ite h1
  have h3 : r.Frame t3 p := h2.lined (Blk.Lined.refl _).tsDone
  have h4 : r.Frame t4 p := ((h3.setF (x := LAN_STATUS_STATE n) hS).setF (x := LAN_STATUS_TX_SLEEP n) hS).setF (x := LAN_STATUS_RX_SLEEP n) hS
  have h5 : r.Frame t5 p := (h4.wn (hp _ (.inr (.inl rfl)))).scanLeft hX
  have h6 : r.Frame t6 p := h5.put
  exact (h1.laneOff fun a ha => hp a (ha.elim .inl fun g => .inr (.inr (.inr (.inr g))))).ite (h6.laneStep hp)

theorem laneRetrain (h : r.Frame s p) {n : Nat} (hp : ∀ a, trainWord n a → p a) : r.Frame (s.laneRetrain n) p := by
  have hr : r.Frame (if s.laneUp n then s.raise 0x902 n n 1 else s) p := h.raise.ite h
  exact h.ite (hr.laneTrain hp)

end Blk.Frame

/-! ### The events that wait -/

theorem Blk.evq_commit (s : Blk) (q : Held → Bool) : (s.commit q).evq = s.evq := by
  obtain ⟨regs, held, e⟩ := s.commit_eq q
  rw [e]

theorem Blk.Laned.evq (h : r.Laned p s) : s.evq = r.evq := by
  obtain ⟨_, _, _, _, e⟩ := h.rest
  rw [e]

theorem Blk.Lined.evq (h : r.Lined s) : s.evq = r.evq := by
  obtain ⟨_, _, e⟩ := h
  rw [e]

theorem Blk.evq_scanLeft (s : Blk) (n : Nat) : (s.scanLeft n).evq = s.evq :=
  ((Blk.Laned.refl s).scanLeft (p := fun _ => True) trivial).evq

theorem Blk.evq_ite {c : Prop} [Decidable c] {t : Blk} (hs : s.evq = r.evq) (ht : t.evq = r.evq) : (if c then s else t).evq = r.evq := by
  split
  · exact hs
  · exact ht

theorem Blk.evq_eqTake (s : Blk) (n : Nat) : (s.eqTake n).evq = s.evq := by
  unfold Blk.eqTake
  extract_lets pk t
  exact Blk.evq_ite rfl ((Blk.setF_evq _ _ _).trans (s.evq_commit _))

theorem Blk.evq_showRate (s : Blk) (n k : Nat) : (s.showRate n k).evq = s.evq := by rw [Blk.showRate, Blk.setF_evq, Blk.setF_evq]

theorem Blk.evq_laneStep (s : Blk) (n k : Nat) : (s.laneStep n k).evq = s.evq := by
  unfold Blk.laneStep
  extract_lets t1 t2 log tried t3 start x tx
  have h1 : t1.evq = s.evq := by
    rw [show t1 = ((s.showRate n k).setF (LAN_STATUS_LOCK n) 0).eqTake n from rfl, Blk.evq_eqTake, Blk.setF_evq, Blk.evq_showRate]
  clear_value t1
  have h2 : t2.evq = s.evq := Blk.evq_ite ((Blk.setF_evq _ _ _).trans h1) h1
  clear_value t2
  have h3 : t3.evq = s.evq := (Blk.wn_evq t2 _ _).trans h2
  have h4 (y : Lane) : ((t3.setLane n y).tsSend n).evq = s.evq := by
    rw [((Blk.Lined.refl _).tsSend (n := n)).evq, Blk.setLane_evq, h3]
  exact h4 _

theorem Blk.evq_laneTrain (s : Blk) (n : Nat) : (s.laneTrain n).evq = s.evq := by
  unfold Blk.laneTrain
  extract_lets t1 t2 t3 t4 t5 x src src' t6
  have h1 : t1.evq = s.evq := s.evq_commit _
  have h2 : t2.evq = s.evq := Blk.evq_ite ((Blk.setF_evq _ _ _).trans h1) h1
  have h3 : t3.evq = s.evq := ((Blk.Lined.refl t2).tsDone (n := n)).evq.trans h2
  have h4 : t4.evq = s.evq := ((Blk.setF_evq _ _ _).trans ((Blk.setF_evq _ _ _).trans (Blk.setF_evq _ _ _))).trans h3
  have h5 : t5.evq = s.evq := (Blk.evq_scanLeft _ _).trans ((Blk.wn_evq _ _ _).trans h4)
  exact Blk.evq_ite ((t1.laned_laneOff n).evq.trans h1) ((Blk.evq_laneStep _ _ _).trans ((Blk.setLane_evq _ _ _).trans h5))

theorem Blk.evq_laneRetrain_prefix (s : Blk) (n : Nat) : s.evq <+: (s.laneRetrain n).evq := by
  unfold Blk.laneRetrain
  split
  · exact List.prefix_rfl
  · rw [Blk.evq_laneTrain]
    split
    · exact s.evq_raise_prefix _ _ _ _
    · exact List.prefix_rfl

end Sys2Proof.Machine
end

section
/-!
PROOFS. The head-end mailbox, RETRAIN and CLEAR_COUNTS of a head port (R172, R173, R176, R196, R197).
-/

namespace Sys2Proof.Machine

variable {r s : Blk} {p : Nat → Prop}

/-! ### What a frame waits for does not read the mailbox (R176) -/

/-- The block with other registers and another access in the mailbox. -/
def Blk.remailed (s : Blk) (regs : List (Nat × Word)) (m : Option Mbx) : Blk := { s with regs := regs, mbx := m }

section

variable {regs : List (Nat × Word)} {m : Option Mbx} (hr : ∀ a, a ≠ HLK_MBX_CTRL → (s.remailed regs m).reg a = s.reg a)
include hr

theorem Blk.f_remailed {x : Fld} (hx : x.addr ≠ HLK_MBX_CTRL) : (s.remailed regs m).f x = s.f x := Blk.f_of_reg (hr _ hx)

theorem Blk.fb_remailed {x : Fld} (hx : x.addr ≠ HLK_MBX_CTRL) : (s.remailed regs m).fb x = s.fb x := Blk.fb_of_reg (hr _ hx)

theorem Blk.rn_remailed {a : Nat} (ha : a ≠ HLK_MBX_CTRL) : (s.remailed regs m).rn a = s.rn a := Blk.rn_of_reg (hr _ ha)

theorem Blk.val_remailed {a n : Nat} (ha : a + n ≤ HLK_MBX_CTRL ∨ HLK_MBX_CTRL < a) : (s.remailed regs m).val a n = s.val a n :=
  Blk.val_of_reg fun i hi => hr _ (by omega)

theorem Blk.portState_remailed {h : Nat} (hh : h < 32) : (s.remailed regs m).portState h = s.portState h :=
  Blk.f_remailed hr (by simp only [HLK_PORT_STATUS, HLK_MBX_CTRL]; omega)

theorem Blk.laneRate_remailed (h : Nat) : (s.remailed regs m).laneRate h = s.laneRate h :=
  Blk.f_remailed hr (by simp only [LAN_STATUS, HLK_MBX_CTRL]; omega)

theorem Blk.twnState_remailed : (s.remailed regs m).twnState = s.twnState := Blk.f_remailed hr (by decide)

theorem Blk.claims_remailed : (s.remailed regs m).claims = s.claims := by
  rw [Blk.claims, Blk.twnState_remailed hr, Blk.fb_remailed hr (by decide), Blk.claims]

theorem Blk.canSend_remailed (h : Nat) : (s.remailed regs m).canSend h = s.canSend h := by
  have hu : (s.remailed regs m).laneUp h = s.laneUp h := by
    rw [Blk.laneUp, Blk.laneState, Blk.f_remailed hr (by simp only [LAN_STATUS, HLK_MBX_CTRL]; omega), Blk.laneUp, Blk.laneState]
  have ht : (s.remailed regs m).underTest 10 = s.underTest 10 := by
    rw [Blk.underTest, Blk.fb_remailed hr (by decide), Blk.f_remailed hr (by decide), Blk.underTest]
  have hs : (s.remailed regs m).fb (LAN_STATUS_TX_SLEEP h) = s.fb (LAN_STATUS_TX_SLEEP h) :=
    Blk.fb_remailed hr (by simp only [LAN_STATUS, HLK_MBX_CTRL]; omega)
  rw [Blk.canSend, hu, ht, hs]
  rfl

theorem Blk.inService_remailed {h : Nat} (hh : h < 32) : (s.remailed regs m).inService h = s.inService h := by
  rw [Blk.inService, Blk.portState_remailed hr hh, Blk.canSend_remailed hr, Blk.claims_remailed hr, Blk.inService]

theorem Blk.fireNum_remailed : (s.remailed regs m).fireNum = s.fireNum := Blk.val_remailed hr (.inl (by decide))

theorem Blk.encRaw_remailed (n : Nat) (hn : n ≤ 8) : (s.remailed regs m).encRaw n = s.encRaw n := by
  rw [Blk.encRaw, Blk.rn_remailed hr (by simp only [POS_INTERVAL, HLK_MBX_CTRL]; omega)]
  rfl

theorem Blk.encRev_remailed (n : Nat) (hn : n ≤ 8) : (s.remailed regs m).encRev n = s.encRev n :=
  Blk.fb_remailed hr (by simp only [POS_STATUS, HLK_MBX_CTRL]; omega)

theorem Blk.fbActive_remailed : (s.remailed regs m).fbActive = s.fbActive := Blk.fb_remailed hr (by decide)

theorem Blk.masterEnc_remailed : (s.remailed regs m).masterEnc = s.masterEnc := by
  have hsrc : (s.remailed regs m).masterSrc = s.masterSrc := by
    rw [Blk.masterSrc, Blk.f_remailed hr (by decide), Blk.masterSrc]
  rw [Blk.masterEnc, Blk.fbActive_remailed hr, hsrc, Blk.f_remailed hr (by decide), Blk.masterEnc]

omit hr in
theorem Blk.masterSrc_le (s : Blk) : s.masterSrc ≤ 8 := by
  unfold Blk.masterSrc
  split <;> omega

omit hr in
theorem Blk.masterEnc_le {n : Nat} (h : s.masterEnc = some n) : n ≤ 8 := by
  unfold Blk.masterEnc at h
  have hf : s.f LCK_MASTER_FB_SRC < 2 ^ 3 := s.f_lt LCK_MASTER_FB_SRC
  have hs := s.masterSrc_le
  split at h
  · obtain rfl := Option.some.inj h
    omega
  · split at h
    · cases h
    · obtain rfl := Option.some.inj h
      exact hs

theorem Blk.lineDelta_remailed : (s.remailed regs m).lineDelta = s.lineDelta := by
  have hrev : (s.remailed regs m).masterRev = s.masterRev := by
    unfold Blk.masterRev
    rw [Blk.masterEnc_remailed hr]
    split
    · next n hn => exact Blk.encRev_remailed hr n (Blk.masterEnc_le hn)
    · rfl
  have hraw : (s.remailed regs m).masterRaw = s.masterRaw := by
    unfold Blk.masterRaw
    rw [Blk.masterEnc_remailed hr]
    split
    · next n hn =>
      rw [Blk.encRaw_remailed hr n (Blk.masterEnc_le hn), Blk.fbActive_remailed hr, Blk.rn_remailed hr (by decide), Blk.rn_remailed hr (by decide)]
    · rfl
  have hpass : (s.remailed regs m).passRev = s.passRev := by
    rw [Blk.passRev, Blk.fb_remailed hr (by decide), Blk.f_remailed hr (by decide), Blk.fb_remailed hr (by decide), Blk.passRev]
  rw [Blk.lineDelta, Blk.lineFwd, hrev, hpass, hraw, Blk.lineDelta, Blk.lineFwd]

theorem Blk.pitch_remailed : (s.remailed regs m).pitch = s.pitch := by
  rw [Blk.pitch, Blk.val_remailed hr (.inl (by decide)), Blk.pitch]

theorem Blk.lEff_remailed {h : Nat} (hh : h < 32) : (s.remailed regs m).lEff h = s.lEff h := by
  rw [Blk.lEff, Blk.rn_remailed hr (by simp only [HLK_PORT_LATENCY, HLK_MBX_CTRL]; omega),
    Blk.rn_remailed hr (by simp only [HLK_PORT_SKEW, HLK_MBX_CTRL]; omega), Blk.f_remailed hr (by simp only [TRM_LANE, HLK_MBX_CTRL]; omega), Blk.lEff]

theorem Blk.departAt_remailed {h : Nat} (hh : h < 32) (a : Int) : (s.remailed regs m).departAt h a = s.departAt h a := by
  have hc : (s.remailed regs m).capsVal h 19 3 = s.capsVal h 19 3 := by
    have hb (i : Nat) (hi : i < 24) : (s.remailed regs m).caps h i = s.caps h i := by
      rw [Blk.caps, Blk.rn_remailed hr (by simp only [HLK_CAPS, HLK_MBX_CTRL]; omega), Blk.caps]
    simp only [Blk.capsVal, List.range_succ, List.range_zero, List.nil_append, List.foldl_append, List.foldl_cons, List.foldl_nil,
      hb 19 (by decide), hb 20 (by decide), hb 21 (by decide)]
  rw [Blk.departAt, Blk.lEff_remailed hr hh, hc, Blk.laneRate_remailed hr, Blk.departAt]

theorem Blk.depart_remailed {h : Nat} (hh : h < 32) (n : Nat) : (s.remailed regs m).depart h n = s.depart h n := by
  have ha : (s.remailed regs m).aligned n = s.aligned n := by
    unfold Blk.aligned
    rw [Blk.f_remailed hr (by decide), Blk.lineDelta_remailed hr, Blk.pitch_remailed hr]
    rfl
  rw [Blk.depart, ha, Blk.depart]
  simp only [Blk.departAt_remailed hr hh]

theorem Blk.departed_remailed {h : Nat} (hh : h < 32) (n : Nat) : (s.remailed regs m).departed h n = s.departed h n := by
  unfold Blk.departed
  rw [Blk.fireNum_remailed hr, Blk.f_remailed hr (by decide)]
  simp only [Blk.departAt_remailed hr hh]
  rfl

theorem Blk.slots_remailed {h : Nat} (hh : h < 32) :
    (s.remailed regs m).slots h = s.slots h ∧ (s.remailed regs m).rows h = s.rows h ∧ (s.remailed regs m).npr h = s.npr h := by
  have hrows : (s.remailed regs m).rows h = s.rows h := by
    rw [Blk.rows, Blk.f_remailed hr (by simp only [CMP_HEAD_CFG, HLK_MBX_CTRL]; omega), Blk.rows]
  have hnpr : (s.remailed regs m).npr h = s.npr h := by
    rw [Blk.npr, Blk.f_remailed hr (by simp only [CMP_HEAD_CFG, HLK_MBX_CTRL]; omega), Blk.npr]
  exact ⟨by rw [Blk.slots, hrows, hnpr, Blk.slots], hrows, hnpr⟩

theorem Blk.slotSend_remailed {l : PortLine} (hh : l.port < 32) (i : Nat) : (s.remailed regs m).slotSend l 0 none i = s.slotSend l 0 none i := by
  have hdepth : (s.remailed regs m).depth = s.depth := by rw [Blk.depth, Blk.f_remailed hr (by decide), Blk.depth]
  have hdly (k : Nat) : (s.remailed regs m).dlyAddr l.port k = s.dlyAddr l.port k := by
    rw [Blk.dlyAddr, Blk.val_remailed hr (.inl (by decide)), hdepth, Blk.dlyAddr]
  have hmem (a : Nat) (n : Nat) : (s.remailed regs m).memReads a n = s.memReads a n := by
    induction n generalizing a with
    | zero => rfl
    | succ n ih => exact congrArg (s.memRead a :: ·) (ih (a + 1))
  have hdel (k n : Nat) : (s.remailed regs m).delayed l.port k n = s.delayed l.port k n := by
    unfold Blk.delayed
    rw [hdly, hmem, Blk.shuttle, Blk.fb_remailed hr (by decide)]
    rfl
  unfold Blk.slotSend
  simp only [hdel, (Blk.slots_remailed hr hh).1, show ∀ k, bitOf 0 k = false from fun k => by simp [bitOf]]
  rfl

theorem Blk.linePs_remailed {l : PortLine} (hh : l.port < 32) : (s.remailed regs m).linePs l 0 = s.linePs l 0 := by
  obtain ⟨hsl, hro, -⟩ := Blk.slots_remailed hr hh
  have hheld : (s.remailed regs m).held? l.port l.fire = s.held? l.port l.fire := by
    rw [Blk.held?, Blk.fb_remailed hr (by simp only [HLK_PORT_STATUS, HLK_MBX_CTRL]; omega)]
    rfl
  have hcodes : (s.remailed regs m).lineCodes l 0 none = s.lineCodes l 0 none := by
    rw [Blk.lineCodes, hsl, Blk.lineCodes]
    exact List.map_congr_left fun i _ => Blk.slotSend_remailed hr hh i
  have hblank : (s.remailed regs m).goesBlank l.port (s.lineCodes l 0 none) = s.goesBlank l.port (s.lineCodes l 0 none) := by
    rw [Blk.goesBlank, Blk.fb_remailed hr (by simp only [HLK_PORT_CFG, HLK_MBX_CTRL]; omega), Blk.goesBlank]
  have hlen : (s.remailed regs m).lineLen l.port l.rung = s.lineLen l.port l.rung := by rw [Blk.lineLen, hsl, hro, Blk.lineLen]
  rw [Blk.linePs, hheld, hcodes, hblank, hlen, Blk.framePs, Blk.laneRate_remailed hr, Blk.linePs, Blk.framePs]

theorem Blk.nextLine_remailed {h : Nat} (hh : h < 32) (k n : Nat) : (s.remailed regs m).nextLine h k n = s.nextLine h k n := by
  induction k generalizing n with
  | zero => rfl
  | succ k ih =>
    have hl : (s.remailed regs m).portLine h n = s.portLine h n := rfl
    have hsk : (s.remailed regs m).skippedLine n = s.skippedLine n := rfl
    unfold Blk.nextLine
    rw [hl, hsk]
    cases hq : s.portLine h n with
    | none => simp only [Blk.fireNum_remailed hr, ih]
    | some l =>
      have hport : l.port = h := by
        have := List.find?_some hq
        simp only [Bool.and_eq_true, beq_iff_eq] at this
        exact this.1
      have hlate : (s.remailed regs m).tooLate l = s.tooLate l := by
        unfold Blk.tooLate
        rw [Blk.depart_remailed hr (by omega), Blk.linePs_remailed hr (by omega)]
        rfl
      simp only [Blk.departed_remailed hr hh, hlate, ih]

theorem Blk.otherMay_remailed {h : Nat} (hh : h < 32) : (s.remailed regs m).otherMay h = s.otherMay h := by
  have hf : (s.remailed regs m).portFree h = s.portFree h := rfl
  have hw : (s.remailed regs m).wokenIdle h = s.wokenIdle h := rfl
  have hp : (s.remailed regs m).port h = s.port h := rfl
  rw [Blk.otherMay, hf, hw, Blk.canSend_remailed hr, Blk.lineWaits, Blk.inService_remailed hr hh, hp, Blk.nextLine_remailed hr hh, Blk.otherMay,
    Blk.lineWaits]

end

/-! ### GO (R172, R197) -/

/-- The frame of the access that HLK_MBX_CTRL asks for. -/
def Blk.mailFrame (s : Blk) (w : Nat) : Nat × List Byte :=
  (if bitOf w 18 then 6 else 5, toBE (s.rn HLK_MBX_ADDR) 3 ++ toBE (bits w 17 12) 1 ++
    if bitOf w 18 then [] else (List.range (bits w 17 12 + 1)).flatMap fun i => toBE (s.rn (HLK_MBX_DATA i)) 3)

/-- The access that HLK_MBX_CTRL asks for, with its frame. -/
def Blk.mail (s : Blk) (w : Nat) (out : Option (Nat × List Byte)) : Mbx := ⟨bits w 4 0, bits w 17 12 + 1, bitOf w 18, s.now, out⟩

/-- HLK_MBX_CTRL with its fields written. -/
def Blk.mailSet (s : Blk) (w : Nat) : Blk :=
  ((s.setF HLK_MBX_CTRL_OP (bits w 18 18)).setF HLK_MBX_CTRL_COUNT_M1 (bits w 17 12)).setF HLK_MBX_CTRL_PORT (bits w 4 0)

theorem Blk.onlyRegs_mailSet (s : Blk) (w : Nat) : s.OnlyRegs (s.mailSet w) (· = HLK_MBX_CTRL) :=
  (((Blk.OnlyRegs.refl s (· = HLK_MBX_CTRL)).setF (x := HLK_MBX_CTRL_OP) rfl).setF (x := HLK_MBX_CTRL_COUNT_M1) rfl).setF (x := HLK_MBX_CTRL_PORT) rfl

theorem Blk.busy_mailSet (s : Blk) (w : Nat) : (s.mailSet w).fb HLK_MBX_CTRL_BUSY = s.fb HLK_MBX_CTRL_BUSY := by
  rw [Blk.mailSet, Blk.fb_setF_ne _ _ _ _ (by decide) (by decide) (by decide) (by decide),
    Blk.fb_setF_ne _ _ _ _ (by decide) (by decide) (by decide) (by decide), Blk.fb_setF_ne _ _ _ _ (by decide) (by decide) (by decide) (by decide)]

/-- GO outside BUSY, once the fields are written. -/
theorem mailboxGo_eq {w t : Nat} (hg : bitOf w 19 = true) (hb : s.fb HLK_MBX_CTRL_BUSY = false) :
    mailboxGo w t s = ((s.advance t).mailSet w).mbxStart w := by
  have h0 : ((s.advance t).mailSet w).fb HLK_MBX_CTRL_BUSY = false := by rw [Blk.busy_mailSet, s.fb_advance t (by decide), hb]
  have hno : ¬(!bitOf w 19 || ((s.advance t).mailSet w).fb HLK_MBX_CTRL_BUSY) = true := by
    rw [hg, h0]
    decide
  exact if_neg hno

theorem Blk.mailFrame_mailSet (s : Blk) (w : Nat) : (s.mailSet w).mailFrame w = s.mailFrame w := by
  have hr (a : Nat) (h : a ≠ HLK_MBX_CTRL) : (s.mailSet w).rn a = s.rn a := Blk.rn_of_reg ((s.onlyRegs_mailSet w).2 a h)
  have hd (i : Nat) : (s.mailSet w).rn (HLK_MBX_DATA i) = s.rn (HLK_MBX_DATA i) := hr _ (by simp only [HLK_MBX_DATA, HLK_MBX_CTRL]; omega)
  rw [Blk.mailFrame, hr _ (by decide), Blk.mailFrame]
  simp only [hd]

theorem Blk.mbxStart_ready {w : Nat} (h4 : s.portState (bits w 4 0) = 4) :
    s.mbxStart w = (({ s with mbx := some (s.mail w (some (s.mailFrame w))) } : Blk).setF HLK_MBX_CTRL_BUSY 1).mbxPump (bits w 4 0) := by
  unfold Blk.mbxStart
  extract_lets h count read words f t
  exact if_neg (not_not.2 h4)

theorem Blk.mbxStart_unready {w : Nat} (h4 : s.portState (bits w 4 0) ≠ 4) :
    s.mbxStart w = ({ s with mbx := some (s.mail w (some (s.mailFrame w))) } : Blk).mbxDone 3 := by
  unfold Blk.mbxStart
  extract_lets h count read words f t
  exact if_pos h4

theorem Blk.setF_setMbx (s : Blk) (x : Fld) (v : Nat) (m : Option Mbx) :
    ({ s with mbx := m } : Blk).setF x v = { s.setF x v with mbx := m } := rfl

/-- The block while an access waits for its port. -/
theorem Blk.mail_waits (s : Blk) (w : Nat) (m : Mbx) : ∃ regs,
    (({ s.mailSet w with mbx := some m } : Blk).setF HLK_MBX_CTRL_BUSY 1) = s.remailed regs (some m) ∧
      (∀ n a, a ≠ HLK_MBX_CTRL → (s.remailed regs n).reg a = s.reg a) ∧ ∀ n, (s.remailed regs n).fb HLK_MBX_CTRL_BUSY = true := by
  have hB := (s.onlyRegs_mailSet w).setF (x := HLK_MBX_CTRL_BUSY) (v := 1) rfl
  have hs := Blk.fb_setF_same (s.mailSet w) HLK_MBX_CTRL_BUSY 1 (by decide) (by decide)
  rw [Blk.setF_setMbx]
  generalize (s.mailSet w).setF HLK_MBX_CTRL_BUSY 1 = c at *
  obtain ⟨regs, rfl⟩ : ∃ regs, c = { s with regs := regs } := ⟨_, hB.1⟩
  exact ⟨regs, rfl, fun n a ha => hB.2 a ha, fun n => hs⟩

theorem Blk.frame_remailed {regs : List (Nat × Word)} {m : Option Mbx} (hr : ∀ a, a ≠ HLK_MBX_CTRL → (s.remailed regs m).reg a = s.reg a) :
    s.Frame (s.remailed regs m) (· = HLK_MBX_CTRL) := ⟨fun a _ ha => hr a ha, fun _ => rfl, rfl, rfl⟩

theorem Blk.mbxPump_eq {h : Nat} {m : Mbx} {f : Nat × List Byte} (hm : s.mbx = some m) (ho : m.out = some f) :
    s.mbxPump h = if m.port == h && s.portState h == 4 && s.otherMay h then ({ s with mbx := some { m with out := none } } : Blk).sendOther h f.1 f.2 else s := by
  unfold Blk.mbxPump
  rw [hm]
  simp only [ho]

/-- An access that waits goes once nothing goes before it. -/
theorem Blk.mbxPump_remailed {regs : List (Nat × Word)} {h : Nat} {m : Mbx} {f : Nat × List Byte} (hh : h < 32)
    (hr : ∀ n a, a ≠ HLK_MBX_CTRL → (s.remailed regs n).reg a = s.reg a) (ho : m.out = some f) (hp : m.port = h) (h4 : s.portState h = 4) :
    (s.remailed regs (some m)).mbxPump h = if s.otherMay h = true then
        (s.remailed regs (some { m with out := none })).sendFrame h f.1 0 (s.remailed regs (some { m with out := none })).fireNum f.2
      else s.remailed regs (some m) := by
  rw [Blk.mbxPump_eq (m := m) rfl ho, Blk.otherMay_remailed (hr _) hh, Blk.portState_remailed (hr _) hh, h4, hp]
  simp only [beq_self_eq_true, Bool.true_and]
  rfl

theorem Blk.mailFrame_advance (s : Blk) (t w : Nat) : (s.advance t).mailFrame w = s.mailFrame w := by
  have hd (i : Nat) (hi : i < 64) : (s.advance t).rn (HLK_MBX_DATA i) = s.rn (HLK_MBX_DATA i) :=
    s.rn_advance t (cntWord_low (by simp only [HLK_MBX_DATA]; omega))
  have hn : bits w 17 12 < 64 := bits_lt _ _ _
  rw [Blk.mailFrame, s.rn_advance t (by decide), Blk.mailFrame]
  rw [List.flatMap_congr fun i hi => by rw [hd i (by have := List.mem_range.1 hi; omega)]]

/-- The block that GO leaves before the access's frame. -/
theorem mailboxGo_waits {w t : Nat} (hg : bitOf w 19 = true) (hb : s.fb HLK_MBX_CTRL_BUSY = false) (h4 : s.portState (bits w 4 0) = 4) : ∃ regs,
    mailboxGo w t s = ((s.advance t).remailed regs (some ⟨bits w 4 0, bits w 17 12 + 1, bitOf w 18, max s.now t, some (s.mailFrame w)⟩)).mbxPump (bits w 4 0) ∧
      (∀ n a, a ≠ HLK_MBX_CTRL → ((s.advance t).remailed regs n).reg a = (s.advance t).reg a) ∧
      ∀ n, ((s.advance t).remailed regs n).fb HLK_MBX_CTRL_BUSY = true := by
  have hlt : bits w 4 0 < 32 := bits_lt _ _ _
  have hO := (s.advance t).onlyRegs_mailSet w
  have h4' : ((s.advance t).mailSet w).portState (bits w 4 0) = 4 :=
    (Blk.f_of_reg (hO.2 _ (by simp only [HLK_PORT_STATUS, HLK_MBX_CTRL]; omega))).trans ((s.portState_advance t hlt).trans h4)
  have hnow : ((s.advance t).mailSet w).now = max s.now t := (congrArg Blk.now hO.1).trans (s.now_advance t)
  obtain ⟨regs, he, hr, hbusy⟩ := (s.advance t).mail_waits w (((s.advance t).mailSet w).mail w (some (((s.advance t).mailSet w).mailFrame w)))
  rw [mailboxGo_eq hg hb, Blk.mbxStart_ready h4', he, Blk.mail, hnow, Blk.mailFrame_mailSet, Blk.mailFrame_advance]
  exact ⟨regs, rfl, hr, hbusy⟩

/-- GO to a port that is READY: the access goes at once, or waits for its port. -/
theorem mailboxGo_ready {w t : Nat} (hg : bitOf w 19 = true) (hb : s.fb HLK_MBX_CTRL_BUSY = false) (h4 : s.portState (bits w 4 0) = 4) :
    (mailboxGo w t s).fb HLK_MBX_CTRL_BUSY = true ∧ s.Frame (mailboxGo w t s) (· = HLK_MBX_CTRL) ∧
      ((s.advance t).otherMay (bits w 4 0) = true → (mailboxGo w t s).mbx = some ⟨bits w 4 0, bits w 17 12 + 1, bitOf w 18, max s.now t, none⟩ ∧
        s.SentDown (mailboxGo w t s) (bits w 4 0) (s.mailFrame w).1 (s.mailFrame w).2) ∧
      ((s.advance t).otherMay (bits w 4 0) = false → (∃ m, (mailboxGo w t s).mbx = some m ∧ m.out.isSome = true) ∧ (mailboxGo w t s).out = s.out) := by
  have hlt : bits w 4 0 < 32 := bits_lt _ _ _
  have h4' : (s.advance t).portState (bits w 4 0) = 4 := (s.portState_advance t hlt).trans h4
  obtain ⟨regs, he, hr, hbusy⟩ := mailboxGo_waits (t := t) hg hb h4
  have hF0 : s.Frame (s.advance t) (· = HLK_MBX_CTRL) := (Blk.Frame.refl s _).advance
  have ho : (s.advance t).out = s.out := s.advance_out t
  rw [he, Blk.mbxPump_remailed hlt hr rfl rfl h4']
  generalize s.advance t = b at *
  cases hmay : b.otherMay (bits w 4 0) with
  | true =>
    rw [if_pos rfl]
    have hF1 := hF0.trans (Blk.frame_remailed (hr (some ⟨bits w 4 0, bits w 17 12 + 1, bitOf w 18, max s.now t, none⟩)))
    have hb1 := hbusy (some ⟨bits w 4 0, bits w 17 12 + 1, bitOf w 18, max s.now t, none⟩)
    have ho1 : (b.remailed regs (some ⟨bits w 4 0, bits w 17 12 + 1, bitOf w 18, max s.now t, none⟩)).out = s.out := ho
    have hm1 : (b.remailed regs (some ⟨bits w 4 0, bits w 17 12 + 1, bitOf w 18, max s.now t, none⟩)).mbx =
      some ⟨bits w 4 0, bits w 17 12 + 1, bitOf w 18, max s.now t, none⟩ := rfl
    show Blk.fb ((b.remailed regs (some ⟨bits w 4 0, bits w 17 12 + 1, bitOf w 18, max s.now t, none⟩)).sendFrame _ _ _ _ _) _ = _ ∧ _
    generalize b.remailed regs (some ⟨bits w 4 0, bits w 17 12 + 1, bitOf w 18, max s.now t, none⟩) = c at *
    have hsend := Blk.frame_sendFrame (p := fun _ => False) c (bits w 4 0) (s.mailFrame w).1 0 c.fireNum (s.mailFrame w).2
    exact ⟨(hsend.1.fb (x := HLK_MBX_CTRL_BUSY) rfl not_false).trans hb1, hF1.trans (hsend.mono fun _ => False.elim),
      fun _ => ⟨(Blk.mbx_sendFrame _ _ _ _ _ _).trans hm1, Blk.sentDown_sendFrame ho1 _ _ _ _ _⟩, fun h => by cases h⟩
  | false =>
    rw [if_neg Bool.false_ne_true]
    exact ⟨hbusy _, hF0.trans (Blk.frame_remailed (hr _)), (fun h => by cases h), fun _ => ⟨⟨_, rfl, rfl⟩, ho⟩⟩

/-! ### The end of an access (R172, R197) -/

theorem Blk.mbxDone_spec {m : Mbx} (hm : s.mbx = some m) (hp : m.port < 32) {k : Nat} (hk : k < 8) :
    (s.mbxDone k).fb HLK_MBX_CTRL_BUSY = false ∧ (s.mbxDone k).f HLK_MBX_CTRL_RESULT = k ∧ (s.mbxDone k).mbx = none ∧
      s.Raised (s.mbxDone k) 0x40C m.port m.port k ∧ s.Frame (s.mbxDone k) (· = HLK_MBX_CTRL) := by
  have he : s.mbxDone k = (({ (s.setF HLK_MBX_CTRL_BUSY 0).setF HLK_MBX_CTRL_RESULT k with mbx := none } : Blk).raise 0x40C m.port m.port k) := by
    unfold Blk.mbxDone
    extract_lets port t
    have hport : port = m.port := by
      show (match s.mbx with | some m => m.port | none => s.f HLK_MBX_CTRL_PORT) = m.port
      rw [hm]
    rw [hport]
  have hb : ((s.setF HLK_MBX_CTRL_BUSY 0).setF HLK_MBX_CTRL_RESULT k).fb HLK_MBX_CTRL_BUSY = false := by
    rw [Blk.fb_setF_ne _ _ _ _ (by decide) (by decide) (by decide) (by decide), Blk.fb_setF_same _ _ _ (by decide) (by decide)]
    rfl
  have hr : ((s.setF HLK_MBX_CTRL_BUSY 0).setF HLK_MBX_CTRL_RESULT k).f HLK_MBX_CTRL_RESULT = k :=
    (Blk.f_setF_same _ _ _ (by decide) (by decide)).trans (Nat.mod_eq_of_lt hk)
  have hF : s.Frame ((s.setF HLK_MBX_CTRL_BUSY 0).setF HLK_MBX_CTRL_RESULT k) (· = HLK_MBX_CTRL) :=
    ((Blk.Frame.refl s (· = HLK_MBX_CTRL)).setF (x := HLK_MBX_CTRL_BUSY) rfl).setF (x := HLK_MBX_CTRL_RESULT) rfl
  have hq : ((s.setF HLK_MBX_CTRL_BUSY 0).setF HLK_MBX_CTRL_RESULT k).evq = s.evq := (Blk.setF_evq _ _ _).trans (Blk.setF_evq _ _ _)
  rw [he]
  generalize (s.setF HLK_MBX_CTRL_BUSY 0).setF HLK_MBX_CTRL_RESULT k = c at *
  have hd : ∃ d : Blk, d = { c with mbx := none } ∧ d.fb HLK_MBX_CTRL_BUSY = false ∧ d.f HLK_MBX_CTRL_RESULT = k ∧ d.mbx = none ∧ d.evq = s.evq ∧
      s.Frame d (· = HLK_MBX_CTRL) := ⟨_, rfl, (Blk.fb_put _).trans hb, (Blk.f_put _).trans hr, rfl, hq, hF.put⟩
  obtain ⟨d, hd, hb, hr, hn, hq, hF⟩ := hd
  rw [← hd]
  have hreg (a : Nat) : (d.raise 0x40C m.port m.port k).reg a = d.reg a := Blk.reg_of_regs (Blk.raise_regs _ _ _ _ _) a
  exact ⟨(Blk.fb_of_reg (hreg _)).trans hb, (Blk.f_of_reg (hreg _)).trans hr, hn, Blk.Raised.raise hq _ (by omega) (by omega) (by omega), hF.raise⟩

/-- GO to a port that is not READY. -/
theorem mailboxGo_unready {w t : Nat} (hg : bitOf w 19 = true) (hb : s.fb HLK_MBX_CTRL_BUSY = false) (h4 : s.portState (bits w 4 0) ≠ 4) :
    (mailboxGo w t s).fb HLK_MBX_CTRL_BUSY = false ∧ (mailboxGo w t s).f HLK_MBX_CTRL_RESULT = 3 ∧ (mailboxGo w t s).mbx = none ∧
      s.Raised (mailboxGo w t s) 0x40C (bits w 4 0) (bits w 4 0) 3 ∧ s.Frame (mailboxGo w t s) (· = HLK_MBX_CTRL) := by
  have hlt : bits w 4 0 < 32 := bits_lt _ _ _
  have hO := (s.advance t).onlyRegs_mailSet w
  have h4' : ((s.advance t).mailSet w).portState (bits w 4 0) ≠ 4 := by
    rw [show ((s.advance t).mailSet w).portState (bits w 4 0) = (s.advance t).portState (bits w 4 0) from
      Blk.f_of_reg (hO.2 _ (by simp only [HLK_PORT_STATUS, HLK_MBX_CTRL]; omega)), s.portState_advance t hlt]
    exact h4
  have hF : s.Frame ((s.advance t).mailSet w) (· = HLK_MBX_CTRL) := ((Blk.Frame.refl s _).advance).trans ⟨hO.regsBut, hO.calm⟩
  have hq : s.evq <+: ((s.advance t).mailSet w).evq := by
    rw [congrArg Blk.evq hO.1]
    exact s.evq_advance_prefix t
  rw [mailboxGo_eq hg hb, Blk.mbxStart_unready h4']
  generalize (s.advance t).mailSet w = c at *
  obtain ⟨h1, h2, h3, h5, h6⟩ := Blk.mbxDone_spec (s := { c with mbx := some (c.mail w (some (c.mailFrame w))) }) rfl hlt (k := 3) (by decide)
  exact ⟨h1, h2, h3, h5.of_left hq, (hF.put).trans h6⟩

/-- What a frame that passes its checks does before its type matters. -/
theorem Blk.follow_spec (s : Blk) (h : Nat) (bs : List Byte) :
    s.Frame (s.follow h bs) (· = HLK_PORT_STATUS h) ∧ s.evq <+: (s.follow h bs).evq ∧ (s.follow h bs).mbx = s.mbx := by
  unfold Blk.follow
  extract_lets f e x t
  have ht : s.Frame t (· = HLK_PORT_STATUS h) ∧ t.evq = s.evq ∧ t.mbx = s.mbx := by
    show s.Frame (if e = 0 then s else _) _ ∧ (if e = 0 then s else _).evq = _ ∧ (if e = 0 then s else _).mbx = _
    split
    · exact ⟨.refl s _, rfl, rfl⟩
    · exact ⟨(Blk.Frame.refl s _).put, rfl, rfl⟩
  clear_value t
  obtain ⟨hF, hq, hm⟩ := ht
  split
  · exact ⟨hF, hq ▸ List.prefix_rfl, hm⟩
  · refine ⟨(hF.setF (x := HLK_PORT_STATUS_FOLLOWED h) rfl).raise, ?_, (Blk.raise_mbx _ _ _ _ _).trans ((Blk.setF_mbx _ _ _).trans hm)⟩
    have hp := (t.setF (HLK_PORT_STATUS_FOLLOWED h) (b2n f)).evq_raise_prefix 0x40B h h (b2n f * 2 ^ 23)
    rwa [Blk.setF_evq, hq] at hp

theorem beNat_lt (l : List Byte) : beNat l < 256 ^ l.length := by
  have h : ∀ (l : List Byte) (v : Nat), l.foldl (fun v b => v * 256 + b.toNat) v < (v + 1) * 256 ^ l.length := by
    intro l
    induction l with
    | nil => intro v; simp
    | cons b l ih =>
      intro v
      have hb : b.toNat < 256 := b.isLt
      refine (ih _).trans_le ?_
      rw [List.length_cons, pow_succ', ← Nat.mul_assoc]
      have hv : v * 256 + b.toNat + 1 ≤ (v + 1) * 256 := by omega
      exact Nat.mul_le_mul_right _ hv
  simpa [beNat] using h l 0

/-- The words of a read access are written. -/
def Blk.mailWords (s : Blk) (n : Nat) (c : List Byte) : Blk :=
  (List.range n).foldl (fun s i => s.wn (HLK_MBX_DATA i) (beNat (slice c (8 + 3 * i) 3))) s

theorem Blk.mailWords_spec (s : Blk) {n : Nat} (hn : n ≤ 64) (c : List Byte) :
    s.Frame (s.mailWords n c) (fun a => ∃ i, i < 64 ∧ a = HLK_MBX_DATA i) ∧ (s.mailWords n c).evq = s.evq ∧ (s.mailWords n c).mbx = s.mbx ∧
      ∀ i, i < n → (s.mailWords n c).rn (HLK_MBX_DATA i) = beNat (slice c (8 + 3 * i) 3) := by
  induction n with
  | zero => exact ⟨.refl s _, rfl, rfl, fun i hi => absurd hi (Nat.not_lt_zero i)⟩
  | succ n ih =>
    obtain ⟨hF, hq, hm, hr⟩ := ih (by omega)
    have he : s.mailWords (n + 1) c = (s.mailWords n c).wn (HLK_MBX_DATA n) (beNat (slice c (8 + 3 * n) 3)) := by
      rw [Blk.mailWords, List.range_succ, List.foldl_append]
      rfl
    have hlt : beNat (slice c (8 + 3 * n) 3) < 2 ^ 24 := by
      have h := beNat_lt (slice c (8 + 3 * n) 3)
      rw [length_slice] at h
      exact h
    rw [he]
    generalize s.mailWords n c = b at *
    refine ⟨hF.wn ⟨n, by omega, rfl⟩, (Blk.wn_evq _ _ _).trans hq, (Blk.wn_mbx _ _ _).trans hm, fun i hi => ?_⟩
    by_cases hin : i = n
    · rw [hin, Blk.rn_wn_same, Nat.mod_eq_of_lt hlt]
    · rw [Blk.rn_wn_ne _ _ (by simp only [HLK_MBX_DATA]; omega)]
      exact hr i (by omega)

/-- HE_RESULT for the access in the mailbox. -/
theorem heResult_spec {m : Mbx} {h : Nat} {bs : List Byte} (hh : h < 32) (hm : s.mbx = some m) (hp : m.port = h) (hn : m.count ≤ 64)
    (hok : upOk bs = true) (ht : upType bs = 0x44) :
    (heResult h bs s).fb HLK_MBX_CTRL_BUSY = false ∧ (heResult h bs s).mbx = none ∧
      (heResult h bs s).f HLK_MBX_CTRL_RESULT = b2n ((upPayload bs).getD 4 0 != 0) ∧
      s.Raised (heResult h bs s) 0x40C h h (b2n ((upPayload bs).getD 4 0 != 0)) ∧
      (∀ i, i < m.count → m.read = true → (upPayload bs).getD 4 0 = 0 →
        (heResult h bs s).rn (HLK_MBX_DATA i) = beNat (slice (upPayload bs) (8 + 3 * i) 3)) ∧
      s.Frame (heResult h bs s) (fun a => a = HLK_MBX_CTRL ∨ a = HLK_PORT_STATUS h ∨ ∃ i, i < 64 ∧ a = HLK_MBX_DATA i) := by
  have hbad : (((upPayload bs).getD 4 0).toNat != 0) = ((upPayload bs).getD 4 0 != 0) := by
    rw [Bool.eq_iff_iff, bne_iff_ne, bne_iff_ne, ne_eq, ne_eq, ← BitVec.toNat_inj]
    rfl
  obtain ⟨hF, hq, hm'⟩ := s.follow_spec h bs
  have he : heResult h bs s = (if m.read && !((upPayload bs).getD 4 0 != 0) then (s.follow h bs).mailWords m.count (upPayload bs)
      else s.follow h bs).mbxDone (b2n ((upPayload bs).getD 4 0 != 0)) := by
    unfold heResult
    rw [hok, ht, ← hbad]
    simp only [hm', hm, hp]
    rw [if_neg (by decide), if_neg (by simp)]
    rfl
  rw [he]
  generalize s.follow h bs = c at *
  obtain ⟨hW, hWq, hWm, hWr⟩ := c.mailWords_spec hn (upPayload bs)
  have hk : b2n ((upPayload bs).getD 4 0 != 0) < 8 := by
    unfold b2n
    split <;> decide
  generalize b2n ((upPayload bs).getD 4 0 != 0) = k at *
  have hc : ∃ d : Blk, d = (if m.read && !((upPayload bs).getD 4 0 != 0) then c.mailWords m.count (upPayload bs) else c) ∧
      s.Frame d (fun a => a = HLK_MBX_CTRL ∨ a = HLK_PORT_STATUS h ∨ ∃ i, i < 64 ∧ a = HLK_MBX_DATA i) ∧ s.evq <+: d.evq ∧ d.mbx = some m ∧
      ∀ i, i < m.count → m.read = true → (upPayload bs).getD 4 0 = 0 → d.rn (HLK_MBX_DATA i) = beNat (slice (upPayload bs) (8 + 3 * i) 3) := by
    have hF' := hF.mono (q := fun a => a = HLK_MBX_CTRL ∨ a = HLK_PORT_STATUS h ∨ ∃ i, i < 64 ∧ a = HLK_MBX_DATA i) fun _ g => .inr (.inl g)
    refine ⟨_, rfl, ?_⟩
    split
    · exact ⟨hF'.trans (hW.mono fun _ g => .inr (.inr g)), hWq ▸ hq, hWm.trans (hm'.trans hm), fun i hi _ _ => hWr i hi⟩
    · next hno => exact ⟨hF', hq, hm'.trans hm, fun i _ hrd h0 => absurd (by rw [hrd, h0]; rfl) hno⟩
  obtain ⟨d, hd, hF2, hq2, hm2, hr2⟩ := hc
  rw [← hd]
  obtain ⟨h1, h2, h3, h5, h6⟩ := Blk.mbxDone_spec hm2 (hp ▸ hh) hk
  refine ⟨h1, h3, h2, hp ▸ h5.of_left hq2, fun i hi hrd h0 => ?_, hF2.trans (h6.mono fun _ => .inl)⟩
  rw [h6.1.rn (cntWord_low (by simp only [HLK_MBX_DATA]; omega)) (by simp only [HLK_MBX_DATA, HLK_MBX_CTRL]; omega)]
  exact hr2 i hi hrd h0

theorem mailboxTimeout_spec {m : Mbx} {t : Nat} (hm : s.mbx = some m) (hp : m.port < 32) (ht : m.start + 250000 ≤ t) :
    (mailboxTimeout t s).fb HLK_MBX_CTRL_BUSY = false ∧ (mailboxTimeout t s).mbx = none ∧ (mailboxTimeout t s).f HLK_MBX_CTRL_RESULT = 2 ∧
      s.Raised (mailboxTimeout t s) 0x40C m.port m.port 2 ∧ s.Frame (mailboxTimeout t s) (· = HLK_MBX_CTRL) := by
  have hm' : (s.advance t).mbx = some m := (s.advance_mbx t).trans hm
  have he : mailboxTimeout t s = (s.advance t).mbxDone 2 := by
    unfold mailboxTimeout
    simp only [hm']
    exact if_pos ht
  obtain ⟨h1, h2, h3, h5, h6⟩ := Blk.mbxDone_spec hm' hp (k := 2) (by decide)
  rw [he]
  exact ⟨h1, h3, h2, h5.of_left (s.evq_advance_prefix t), ((Blk.Frame.refl s _).advance).trans h6⟩

/-! ### An access that waited (R172, R176) -/

theorem symPs_pos (r : Nat) : 0 < symPs r := by
  unfold symPs
  split <;> decide

/-- While a frame is on a port no other may start on it. -/
theorem Blk.otherMay_sendFrame (s : Blk) (h typ flags fnum : Nat) (payload : List Byte) : (s.sendFrame h typ flags fnum payload).otherMay h = false := by
  have hp := s.port_sendFrame h typ flags fnum payload
  have hnow : (s.sendFrame h typ flags fnum payload).nowPs = s.nowPs := by
    obtain ⟨lanes, wires, e⟩ := s.sendFrame_eq h typ flags fnum payload
    rw [e]
    rfl
  have hlen : 0 < s.framePs h (s.downFrame h typ flags fnum payload).length := Nat.mul_pos (by omega) (symPs_pos _)
  have hf : (s.sendFrame h typ flags fnum payload).portFree h = false := by
    unfold Blk.portFree
    rw [hp, Blk.framed_frame, hnow]
    simp only [decide_eq_false_iff_not]
    omega
  rw [Blk.otherMay, hf]
  rfl

/-- The access that has waited for its port goes with the next frame command. -/
theorem idleFrameSend_mail {m : Mbx} {h t typ : Nat} {c : List Byte} (hh : h < 32) (hm : s.mbx = some m) (ho : m.out = some (typ, c)) (hp : m.port = h)
    (h4 : s.portState h = 4) (hmay : (s.advance t).otherMay h = true) :
    (idleFrameSend h t s).mbx = some { m with out := none } ∧ s.SentDown (idleFrameSend h t s) h typ c ∧ s.Frame (idleFrameSend h t s) (fun _ => False) := by
  have hpump : (s.advance t).mbxPump h = ((s.advance t).remailed (s.advance t).regs (some { m with out := none })).sendFrame h typ 0
      ((s.advance t).remailed (s.advance t).regs (some { m with out := none })).fireNum c := by
    rw [Blk.mbxPump_eq ((s.advance_mbx t).trans hm) ho, s.portState_advance t hh, h4, hp, hmay]
    simp only [beq_self_eq_true, Bool.true_and]
    rfl
  have hidle : idleFrameSend h t s = (s.advance t).mbxPump h := by
    unfold idleFrameSend
    extract_lets b due
    have hb : b.otherMay h = false := by
      show ((s.advance t).mbxPump h).otherMay h = false
      rw [hpump, Blk.otherMay_sendFrame]
    refine if_neg ?_
    rw [hb, Bool.and_false]
    exact Bool.false_ne_true
  have hF : s.Frame ((s.advance t).remailed (s.advance t).regs (some { m with out := none })) (fun _ => False) := ((Blk.Frame.refl s _).advance).put
  have ho' : ((s.advance t).remailed (s.advance t).regs (some { m with out := none })).out = s.out := s.advance_out t
  have hm' : ((s.advance t).remailed (s.advance t).regs (some { m with out := none })).mbx = some { m with out := none } := rfl
  rw [hidle, hpump]
  generalize (s.advance t).remailed (s.advance t).regs (some { m with out := none }) = b at *
  exact ⟨(Blk.mbx_sendFrame _ _ _ _ _ _).trans hm', Blk.sentDown_sendFrame ho' _ _ _ _ _, hF.trans (Blk.frame_sendFrame _ _ _ _ _ _)⟩

/-! ### RETRAIN and CLEAR_COUNTS (R173, R196) -/

/-- A port that RETRAIN has taken to LANE, before its lane trains. -/
def Blk.relaned (s : Blk) (h : Nat) : Blk := ((s.setF (HLK_PORT_STATUS_CAPS_MIS h) 0).portLoss h).portLane h

theorem Blk.portLane_spec (s : Blk) (h : Nat) :
    s.Frame (s.portLane h) (· = HLK_PORT_STATUS h) ∧ (s.portLane h).evq = s.evq ∧ (s.portLane h).portState h = 1 ∧
      (s.portLane h).fb (HLK_PORT_STATUS_RATE_LOW h) = false ∧
      (s.portLane h).fb (HLK_PORT_STATUS_CAPS_MIS h) = s.fb (HLK_PORT_STATUS_CAPS_MIS h) ∧
      (s.portLane h).fb (HLK_PORT_STATUS_DOWN h) = s.fb (HLK_PORT_STATUS_DOWN h) := by
  have hd : s.Frame (s.portDrop h) (· = HLK_PORT_STATUS h) := (Blk.Frame.refl s _).put
  have hq : (s.portDrop h).evq = s.evq := rfl
  have hc : (s.portDrop h).fb (HLK_PORT_STATUS_CAPS_MIS h) = s.fb (HLK_PORT_STATUS_CAPS_MIS h) := Blk.fb_of_reg (Blk.reg_of_regs rfl _)
  have hw : (s.portDrop h).fb (HLK_PORT_STATUS_DOWN h) = s.fb (HLK_PORT_STATUS_DOWN h) := Blk.fb_of_reg (Blk.reg_of_regs rfl _)
  unfold Blk.portLane
  generalize s.portDrop h = c at *
  refine ⟨(hd.setF (x := HLK_PORT_STATUS_STATE h) rfl).setF (x := HLK_PORT_STATUS_RATE_LOW h) rfl,
    (Blk.setF_evq _ _ _).trans ((Blk.setF_evq _ _ _).trans hq), ?_, ?_, ?_, ?_⟩
  · rw [Blk.portState, Blk.f_setF_ne _ _ _ _ (show 18 ≤ 18 by decide) (show 0 ≤ 2 by decide) (show 2 < 24 by decide) (.inr (.inl (show 2 < 18 by decide))),
      Blk.f_setF_same _ _ _ (show 0 ≤ 2 by decide) (show 2 < 24 by decide)]
    rfl
  · rw [Blk.fb_setF_same _ _ _ (show 18 ≤ 18 by decide) (show 18 < 24 by decide)]
    rfl
  · rw [Blk.fb_setF_ne _ _ _ _ (show 18 ≤ 18 by decide) (show 17 ≤ 17 by decide) (show 17 < 24 by decide) (.inr (.inl (show 17 < 18 by decide))),
      Blk.fb_setF_ne _ _ _ _ (show 0 ≤ 2 by decide) (show 17 ≤ 17 by decide) (show 17 < 24 by decide) (.inr (.inr (show 2 < 17 by decide))), hc]
  · rw [Blk.fb_setF_ne _ _ _ _ (show 18 ≤ 18 by decide) (show 14 ≤ 14 by decide) (show 14 < 24 by decide) (.inr (.inl (show 14 < 18 by decide))),
      Blk.fb_setF_ne _ _ _ _ (show 0 ≤ 2 by decide) (show 14 ≤ 14 by decide) (show 14 < 24 by decide) (.inr (.inr (show 2 < 14 by decide))), hw]

/-- A READY port that is lost shows DOWN and says so; another port stays as it is. -/
theorem Blk.portLoss_spec (s : Blk) {h : Nat} (hh : h < 32) :
    s.Frame (s.portLoss h) (· = HLK_PORT_STATUS h) ∧ s.evq <+: (s.portLoss h).evq ∧
      (s.portLoss h).fb (HLK_PORT_STATUS_CAPS_MIS h) = s.fb (HLK_PORT_STATUS_CAPS_MIS h) ∧
      (s.portState h = 4 → (s.portLoss h).fb (HLK_PORT_STATUS_DOWN h) = true ∧ s.Raised (s.portLoss h) 0x402 h h (s.laneRate h)) := by
  unfold Blk.portLoss
  by_cases h4 : s.portState h = 4
  · rw [if_pos h4]
    have hA : s.Roled (fun _ => False) (s.abortLine h) := (Blk.Roled.refl s).abortLine
    have hF := hA.frame
    have hrate : (s.abortLine h).laneRate h = s.laneRate h := hF.1.f (x := LAN_STATUS_RATE h) (cntWord_low (by simp only [LAN_STATUS]; omega)) not_false
    have hc : (s.abortLine h).fb (HLK_PORT_STATUS_CAPS_MIS h) = s.fb (HLK_PORT_STATUS_CAPS_MIS h) :=
      hF.1.fb (x := HLK_PORT_STATUS_CAPS_MIS h) (cntWord_low (by simp only [HLK_PORT_STATUS]; omega)) not_false
    have hq := hA.events
    have hlt : s.laneRate h < 8 := s.f_lt (LAN_STATUS_RATE h)
    have he : (let t := s.abortLine h; (t.setF (HLK_PORT_STATUS_DOWN h) 1).raise 0x402 h h (t.laneRate h)) =
        ((s.abortLine h).setF (HLK_PORT_STATUS_DOWN h) 1).raise 0x402 h h (s.laneRate h) := by
      rw [← hrate]
    rw [he]
    generalize s.abortLine h = b at *
    have hdown : (b.setF (HLK_PORT_STATUS_DOWN h) 1).fb (HLK_PORT_STATUS_DOWN h) = true := by
      rw [Blk.fb_setF_same _ _ _ (show 14 ≤ 14 by decide) (show 14 < 24 by decide)]
      rfl
    have hcm := (Blk.fb_setF_ne b (HLK_PORT_STATUS_DOWN h) (HLK_PORT_STATUS_CAPS_MIS h) 1 (show 14 ≤ 14 by decide) (show 17 ≤ 17 by decide)
      (show 17 < 24 by decide) (.inr (.inr (show 14 < 17 by decide)))).trans hc
    have hF1 := (hF.mono (q := (· = HLK_PORT_STATUS h)) fun _ => False.elim).setF (x := HLK_PORT_STATUS_DOWN h) (v := 1) rfl
    have hq1 : s.evq <+: (b.setF (HLK_PORT_STATUS_DOWN h) 1).evq := by rw [Blk.setF_evq]; exact hq
    generalize b.setF (HLK_PORT_STATUS_DOWN h) 1 = c at *
    have hreg (a : Nat) : (c.raise 0x402 h h (s.laneRate h)).reg a = c.reg a := Blk.reg_of_regs rfl a
    exact ⟨hF1.raise, hq1.trans (c.evq_raise_prefix _ _ _ _), (Blk.fb_of_reg (hreg _)).trans hcm, fun _ =>
      ⟨(Blk.fb_of_reg (hreg _)).trans hdown, (Blk.raised_raise c _ (by omega) (by omega) (by omega)).of_left hq1⟩⟩
  · rw [if_neg h4]
    exact ⟨.refl s _, List.prefix_rfl, rfl, fun g => absurd g h4⟩

theorem Blk.relaned_spec (s : Blk) {h : Nat} (hh : h < 32) :
    s.Frame (s.relaned h) (· = HLK_PORT_STATUS h) ∧ (s.relaned h).portState h = 1 ∧ (s.relaned h).fb (HLK_PORT_STATUS_CAPS_MIS h) = false ∧
      (s.relaned h).fb (HLK_PORT_STATUS_RATE_LOW h) = false ∧
      (s.portState h = 4 → (s.relaned h).fb (HLK_PORT_STATUS_DOWN h) = true ∧ s.Raised (s.relaned h) 0x402 h h (s.laneRate h)) := by
  have hF0 : s.Frame (s.setF (HLK_PORT_STATUS_CAPS_MIS h) 0) (· = HLK_PORT_STATUS h) := (Blk.Frame.refl s _).setF (x := HLK_PORT_STATUS_CAPS_MIS h) rfl
  have hm0 : (s.setF (HLK_PORT_STATUS_CAPS_MIS h) 0).fb (HLK_PORT_STATUS_CAPS_MIS h) = false := by
    rw [Blk.fb_setF_same _ _ _ (show 17 ≤ 17 by decide) (show 17 < 24 by decide)]
    rfl
  have hst : (s.setF (HLK_PORT_STATUS_CAPS_MIS h) 0).portState h = s.portState h :=
    Blk.f_setF_ne _ _ _ _ (show 17 ≤ 17 by decide) (show 0 ≤ 2 by decide) (show 2 < 24 by decide) (.inr (.inl (show 2 < 17 by decide)))
  have hrate : (s.setF (HLK_PORT_STATUS_CAPS_MIS h) 0).laneRate h = s.laneRate h :=
    hF0.1.f (x := LAN_STATUS_RATE h) (cntWord_low (by simp only [LAN_STATUS]; omega)) (by simp only [LAN_STATUS, HLK_PORT_STATUS]; omega)
  have hq0 : (s.setF (HLK_PORT_STATUS_CAPS_MIS h) 0).evq = s.evq := Blk.setF_evq _ _ _
  unfold Blk.relaned
  generalize s.setF (HLK_PORT_STATUS_CAPS_MIS h) 0 = b at *
  obtain ⟨hF1, hq1, hm1, hd1⟩ := b.portLoss_spec hh
  obtain ⟨hF2, hq2, h1, hrl, hm2, hd2⟩ := (b.portLoss h).portLane_spec h
  refine ⟨(hF0.trans hF1).trans hF2, h1, hm2.trans (hm1.trans hm0), hrl, fun h4 => ?_⟩
  obtain ⟨hdown, hraised⟩ := hd1 (hst.trans h4)
  rw [hrate] at hraised
  exact ⟨hd2.trans hdown, (hraised.of_left (by rw [hq0])).of_right (by rw [hq2])⟩

/-- RETRAIN of a port. -/
theorem headRetrain_spec {h : Nat} (hh : h < 32) (h0 : s.portState h ≠ 0) :
    (headRetrain h s).portState h = 1 ∧ (headRetrain h s).fb (HLK_PORT_STATUS_CAPS_MIS h) = false ∧
      (headRetrain h s).fb (HLK_PORT_STATUS_RATE_LOW h) = false ∧
      (s.portState h = 4 → (headRetrain h s).fb (HLK_PORT_STATUS_DOWN h) = true ∧ s.Raised (headRetrain h s) 0x402 h h (s.laneRate h)) ∧
      s.Calm (headRetrain h s) := by
  have he : headRetrain h s = (s.relaned h).laneRetrain h := if_neg h0
  obtain ⟨hF, h1, hm, hrl, hd⟩ := s.relaned_spec hh
  rw [he]
  generalize s.relaned h = b at *
  have hL : b.Frame (b.laneRetrain h) (trainWord h) := (Blk.Frame.refl b _).laneRetrain fun _ => id
  have hkeep : (b.laneRetrain h).reg (HLK_PORT_STATUS h) = b.reg (HLK_PORT_STATUS h) :=
    hL.1 _ (cntWord_low (by simp only [HLK_PORT_STATUS]; omega)) fun g => by
      have := trainWord_ge g
      simp only [HLK_PORT_STATUS] at this
      omega
  refine ⟨(Blk.f_of_reg (x := HLK_PORT_STATUS_STATE h) hkeep).trans h1, (Blk.fb_of_reg (x := HLK_PORT_STATUS_CAPS_MIS h) hkeep).trans hm,
    (Blk.fb_of_reg (x := HLK_PORT_STATUS_RATE_LOW h) hkeep).trans hrl, fun h4 => ?_, (hF.2).trans hL.2⟩
  obtain ⟨hdown, hraised⟩ := hd h4
  exact ⟨(Blk.fb_of_reg (x := HLK_PORT_STATUS_DOWN h) hkeep).trans hdown, hraised.of_right (b.evq_laneRetrain_prefix h)⟩

theorem headClear_spec (s : Blk) (h : Nat) :
    (headClear h s).rn (HLK_LATE_COUNT h) = 0 ∧ (headClear h s).rn (HLK_ERR_COUNT h) = 0 ∧
      s.OnlyRegs (headClear h s) fun a => a = HLK_LATE_COUNT h ∨ a = HLK_ERR_COUNT h := by
  refine ⟨?_, (Blk.rn_wn_same _ _ _).trans (Nat.zero_mod _), ((Blk.OnlyRegs.refl s _).wn (.inl rfl)).wn (.inr rfl)⟩
  rw [headClear, Blk.rn_wn_ne _ _ (by simp only [HLK_LATE_COUNT, HLK_ERR_COUNT]; omega), Blk.rn_wn_same, Nat.zero_mod]

/-- Settles O15. -/
theorem mailboxAndPortCommands : Obligations.MailboxAndPortCommands := by
  unfold Obligations.MailboxAndPortCommands
  intro s hs
  refine ⟨fun w t hg hb => ⟨fun h4 hmay => .of_on (f := mailboxGo w.toNat t) rfl hs ?_, fun h4 hmay => .of_on (f := mailboxGo w.toNat t) rfl hs ?_,
      fun h4 => .of_on (f := mailboxGo w.toNat t) rfl hs (mailboxGo_unready hg hb h4)⟩,
    fun m h hm => ⟨fun bs hp hn hok ht => .of_on (f := heResult h bs) rfl hs (heResult_spec h.isLt hm hp hn hok ht),
      fun t typ c ho hp h4 hmay => .of_on (f := idleFrameSend h t) rfl hs (idleFrameSend_mail h.isLt hm ho hp h4 hmay),
      fun t hp ht => .of_on (f := mailboxTimeout t) rfl hs (mailboxTimeout_spec hm hp ht)⟩,
    fun h => ⟨fun h0 => .of_on (f := headRetrain h) rfl hs (headRetrain_spec h.isLt h0), .of_on (f := headClear h) rfl hs (headClear_spec s.blk h)⟩⟩
  · obtain ⟨h1, h2, h3, -⟩ := mailboxGo_ready (t := t) hg hb h4
    obtain ⟨h5, h6⟩ := h3 hmay
    exact ⟨h1, h5, h6, h2⟩
  · obtain ⟨h1, h2, -, h3⟩ := mailboxGo_ready (t := t) hg hb h4
    obtain ⟨h5, h6⟩ := h3 hmay
    exact ⟨h1, h5, h6, h2⟩

end Sys2Proof.Machine
end

section
/-!
PROOFS. Thermal hold and warning of a head outside a pairing (R191 to R194).
-/

namespace Sys2Proof.Machine

variable {r s : Blk} {p : Nat → Prop}

/-! ### A decision outside a pairing -/

theorem thermWord_hold {cause temp : Nat} (hc : cause < 4) (ht : temp < 4096) :
    bits (thermWord true false cause temp) 15 4 = temp ∧ bitOf (thermWord true false cause temp) 1 = false ∧
      bitOf (thermWord true false cause temp) 0 = true ∧ bits (thermWord true false cause temp) 3 2 = cause := by
  simp only [bits, bitOf, thermWord, b2n, beq_eq_false_iff_ne, beq_iff_eq]
  simp only [if_true, Bool.false_eq_true, if_false]
  omega

theorem thermWord_warn {on : Bool} {temp : Nat} (ht : temp < 4096) :
    bits (thermWord on true 0 temp) 15 4 = temp ∧ bitOf (thermWord on true 0 temp) 1 = true ∧ bitOf (thermWord on true 0 temp) 0 = on := by
  cases on <;> simp only [bits, bitOf, thermWord, b2n, beq_eq_false_iff_ne, beq_iff_eq, if_true, Bool.false_eq_true, if_false] <;> omega

/-- Outside a pairing a decision takes effect at once. -/
theorem Blk.thermDecide_alone (h0 : s.twnState = 0) (h v : Nat) : s.thermDecide h v = s.thermApply h v (s.fireNum + 3) := by
  have hf : s.follows = false := by
    rw [Blk.follows, Blk.inStep, h0]
    simp
  have ha : s.agrees = false := by
    rw [Blk.agrees, h0]
    rfl
  unfold Blk.thermDecide
  rw [hf, ha]
  rfl

/-! ### A hold starts (R191) -/

theorem bitOf_eq_testBit (v i : Nat) : bitOf v i = v.testBit i := by
  rw [bitOf, Nat.testBit_eq_decide_div_mod_eq]
  rfl

/-- The map of the holds shows the head. -/
theorem bitOf_holdMap {m h : Nat} (hh : h < 32) : bitOf ((if bitOf m h then m else m + 2 ^ h) % 2 ^ 48) h = true := by
  rw [bitOf_eq_testBit (_ % _), Nat.testBit_mod_two_pow, decide_eq_true (by omega : h < 48), Bool.true_and]
  split
  · next hm => rw [← bitOf_eq_testBit, hm]
  · next hm =>
    have hm' : bitOf m h = false := by simpa using hm
    rw [Nat.add_comm, Nat.testBit_two_pow_add_eq, ← bitOf_eq_testBit, hm']
    rfl

/-- The words of a head's hold. -/
def thermHoldWord (h a : Nat) : Prop := a = HLK_PORT_STATUS h ∨ a = HLK_HOLD_MAP ∨ a = HLK_HOLD_MAP + 1

theorem Blk.holdStart_spec {h cause temp : Nat} (hh : h < 32) (hno : s.fb (HLK_PORT_STATUS_THERM_HOLD h) = false) (hc : cause < 4) (ht : temp < 4096) :
    (s.holdStart h cause temp).fb (HLK_PORT_STATUS_THERM_HOLD h) = true ∧ (s.holdStart h cause temp).f (HLK_PORT_STATUS_HOLD_CAUSE h) = cause ∧
      bitOf ((s.holdStart h cause temp).val HLK_HOLD_MAP 2) h = true ∧ s.Raised (s.holdStart h cause temp) 0x401 h h (cause * 2 ^ 12 + temp) ∧
      s.Frame (s.holdStart h cause temp) (thermHoldWord h) ∧
      (s.holdStart h cause temp).fb (HLK_PORT_STATUS_STATUS_LOST h) = s.fb (HLK_PORT_STATUS_STATUS_LOST h) := by
  unfold Blk.holdStart
  rw [hno, if_neg Bool.false_ne_true]
  extract_lets c m d
  have hF1 : s.Frame c (thermHoldWord h) := ((Blk.Frame.refl s _).setF (x := HLK_PORT_STATUS_THERM_HOLD h) (.inl rfl)).setF (x := HLK_PORT_STATUS_HOLD_CAUSE h) (.inl rfl)
  have hq1 : c.evq = s.evq := (Blk.setF_evq _ _ _).trans (Blk.setF_evq _ _ _)
  have hhold : c.fb (HLK_PORT_STATUS_THERM_HOLD h) = true := by
    show ((s.setF _ 1).setF _ cause).fb _ = true
    rw [Blk.fb_setF_ne _ _ _ _ (show 10 ≤ 11 by decide) (show 12 ≤ 12 by decide) (show 12 < 24 by decide) (.inr (.inr (show 11 < 12 by decide))),
      Blk.fb_setF_same _ _ _ (show 12 ≤ 12 by decide) (show 12 < 24 by decide)]
    rfl
  have hcause : c.f (HLK_PORT_STATUS_HOLD_CAUSE h) = cause :=
    (Blk.f_setF_same _ _ _ (show 10 ≤ 11 by decide) (show 11 < 24 by decide)).trans (Nat.mod_eq_of_lt hc)
  have hlost : c.fb (HLK_PORT_STATUS_STATUS_LOST h) = s.fb (HLK_PORT_STATUS_STATUS_LOST h) :=
    (Blk.fb_setF_ne _ _ _ _ (show 10 ≤ 11 by decide) (show 16 ≤ 16 by decide) (show 16 < 24 by decide) (.inr (.inr (show 11 < 16 by decide)))).trans
      (Blk.fb_setF_ne _ _ _ _ (show 12 ≤ 12 by decide) (show 16 ≤ 16 by decide) (show 16 < 24 by decide) (.inr (.inr (show 12 < 16 by decide))))
  clear_value c
  have hF2 : s.Frame d (thermHoldWord h) := hF1.setVal2 (.inr (.inl rfl)) (.inr (.inr rfl))
  have hq2 : d.evq = s.evq := (congrArg Blk.evq (Blk.setVal_eq _ _ _ _)).trans hq1
  have hreg : d.reg (HLK_PORT_STATUS h) = c.reg (HLK_PORT_STATUS h) := by
    have hs : c.RegsBut d (fun a => a = HLK_HOLD_MAP ∨ a = HLK_HOLD_MAP + 1) := (Blk.RegsBut.refl c _).setVal2 (.inl rfl) (.inr rfl)
    exact hs _ (cntWord_low (by simp only [HLK_PORT_STATUS]; omega)) (by simp only [HLK_PORT_STATUS, HLK_HOLD_MAP]; omega)
  have hmap : bitOf (d.val HLK_HOLD_MAP 2) h = true := by
    rw [show d.val HLK_HOLD_MAP 2 = _ from Blk.val_setVal_same 2 c HLK_HOLD_MAP _]
    exact bitOf_holdMap hh
  clear_value d
  have hr (a : Nat) : (d.raise 0x401 h h (cause * 2 ^ 12 + temp)).reg a = d.reg a := Blk.reg_of_regs (Blk.raise_regs _ _ _ _ _) a
  exact ⟨(Blk.fb_of_reg ((hr _).trans hreg)).trans hhold, (Blk.f_of_reg ((hr _).trans hreg)).trans hcause,
    (congrArg (bitOf · h) (Blk.val_of_reg fun i _ => hr _)).trans hmap, Blk.Raised.raise hq2 _ (by omega) (by omega) (by omega), hF2.raise,
    (Blk.fb_of_reg ((hr _).trans hreg)).trans hlost⟩

theorem Blk.headTemp_lt (s : Blk) (h : Nat) : s.headTemp h < 4096 := s.f_lt (HLK_TEMP_TEMP h)

/-- Outside a pairing the unit's decision to hold a head starts the hold. -/
theorem Blk.decideHold_spec {h cause : Nat} (h0 : s.twnState = 0) (hh : h < 32) (ho : (s.port h).ownHold = false)
    (hno : s.fb (HLK_PORT_STATUS_THERM_HOLD h) = false) (hc : cause < 4) :
    (s.decideHold h true cause).fb (HLK_PORT_STATUS_THERM_HOLD h) = true ∧ (s.decideHold h true cause).f (HLK_PORT_STATUS_HOLD_CAUSE h) = cause ∧
      bitOf ((s.decideHold h true cause).val HLK_HOLD_MAP 2) h = true ∧
      s.Raised (s.decideHold h true cause) 0x401 h h (cause * 2 ^ 12 + s.headTemp h) ∧ s.Frame (s.decideHold h true cause) (thermHoldWord h) ∧
      (s.decideHold h true cause).fb (HLK_PORT_STATUS_STATUS_LOST h) = s.fb (HLK_PORT_STATUS_STATUS_LOST h) := by
  have ht := s.headTemp_lt h
  obtain ⟨hv1, hv2, hv3, hv4⟩ := thermWord_hold hc ht
  have he : s.decideHold h true cause = ({ s.setPort h { s.port h with ownHold := true, coolHold := 0 } with
      cmp := { s.cmp with hold := if bitOf s.cmp.hold h then s.cmp.hold else s.cmp.hold + 2 ^ h } } : Blk).holdStart h cause (s.headTemp h) := by
    have hd : s.decideHold h true cause =
        (s.setPort h { s.port h with ownHold := true, coolHold := 0 }).thermDecide h (thermWord true false cause (s.headTemp h)) := by
      unfold Blk.decideHold
      extract_lets q
      have hq : q.ownHold = false := ho
      rw [hq]
      rfl
    rw [hd, Blk.thermDecide_alone (s := s.setPort h { s.port h with ownHold := true, coolHold := 0 }) h0]
    unfold Blk.thermApply
    rw [hv1, hv2, hv3, hv4]
    rfl
  rw [he]
  have hF : s.Frame ({ s.setPort h { s.port h with ownHold := true, coolHold := 0 } with
      cmp := { s.cmp with hold := if bitOf s.cmp.hold h then s.cmp.hold else s.cmp.hold + 2 ^ h } } : Blk) (thermHoldWord h) := (Blk.Frame.refl s _).put
  have hb (x : Fld) : ({ s.setPort h { s.port h with ownHold := true, coolHold := 0 } with
      cmp := { s.cmp with hold := if bitOf s.cmp.hold h then s.cmp.hold else s.cmp.hold + 2 ^ h } } : Blk).fb x = s.fb x := Blk.fb_put x
  have hq : ({ s.setPort h { s.port h with ownHold := true, coolHold := 0 } with
      cmp := { s.cmp with hold := if bitOf s.cmp.hold h then s.cmp.hold else s.cmp.hold + 2 ^ h } } : Blk).evq = s.evq := rfl
  generalize ({ s.setPort h { s.port h with ownHold := true, coolHold := 0 } with
      cmp := { s.cmp with hold := if bitOf s.cmp.hold h then s.cmp.hold else s.cmp.hold + 2 ^ h } } : Blk) = c at *
  obtain ⟨g1, g2, g3, g4, g5, g6⟩ := Blk.holdStart_spec hh ((hb _).trans hno) hc ht
  exact ⟨g1, g2, g3, g4.of_left (by rw [hq]), hF.trans g5, g6.trans (hb _)⟩

/-! ### A warning starts or ends (R193) -/

/-- The words of a head's warning. -/
def warnWord (h a : Nat) : Prop := a = HLK_PORT_STATUS h ∨ a = LCK_STATUS

theorem Blk.onlyRegs_refloor (s : Blk) : s.OnlyRegs s.refloor (· = LCK_STATUS) := (Blk.OnlyRegs.refl s _).setF (x := LCK_STATUS_FLOOR) rfl

/-- A warning leaves the fields of the port's status below its own. -/
theorem Blk.warnSet_spec (s : Blk) {h temp : Nat} (on : Bool) : s.Frame (s.warnSet h temp on) (warnWord h) ∧ s.evq <+: (s.warnSet h temp on).evq ∧
    ∀ x : Fld, x.addr = HLK_PORT_STATUS h → x.lo ≤ x.hi → x.hi < 13 → (s.warnSet h temp on).f x = s.f x := by
  unfold Blk.warnSet
  split
  · exact ⟨.refl s _, List.prefix_rfl, fun _ _ _ _ => rfl⟩
  · extract_lets c
    have hF : s.Frame c (warnWord h) := ((Blk.Frame.refl s (warnWord h)).setF (x := HLK_PORT_STATUS_THERM_WARN h) (.inl rfl)).setF (x := LCK_STATUS_FLOOR) (.inr rfl)
    have hq : c.evq = s.evq := (Blk.setF_evq _ _ _).trans (Blk.setF_evq _ _ _)
    have hx (x : Fld) (ha : x.addr = HLK_PORT_STATUS h) (hl : x.lo ≤ x.hi) (hi : x.hi < 13) : c.f x = s.f x :=
      (Blk.f_setF_ne _ _ _ _ (by decide) hl (by omega) (.inl (by rw [ha]; simp only [HLK_PORT_STATUS, LCK_STATUS]; omega))).trans
        (Blk.f_setF_ne _ _ _ _ (show 13 ≤ 13 by decide) hl (by omega) (.inr (.inl hi)))
    clear_value c
    have hr (i d0 d1 d2 : Nat) (x : Fld) : (c.raise i d0 d1 d2).f x = c.f x := Blk.f_of_reg (Blk.reg_of_regs (Blk.raise_regs _ _ _ _ _) _)
    split
    · exact ⟨hF.raise, hq ▸ c.evq_raise_prefix _ _ _ _, fun x ha hl hi => (hr _ _ _ _ x).trans (hx x ha hl hi)⟩
    · exact ⟨hF.raise, hq ▸ c.evq_raise_prefix _ _ _ _, fun x ha hl hi => (hr _ _ _ _ x).trans (hx x ha hl hi)⟩

theorem Blk.decideWarn_eq {h : Nat} (h0 : s.twnState = 0) {on : Bool} (ho : (s.port h).ownWarn ≠ on) :
    s.decideWarn h on = (s.setPort h { s.port h with ownWarn := on, coolWarn := 0 }).warnSet h (s.headTemp h) on := by
  obtain ⟨hv1, hv2, hv3⟩ := thermWord_warn (on := on) (s.headTemp_lt h)
  have hd : s.decideWarn h on = (s.setPort h { s.port h with ownWarn := on, coolWarn := 0 }).thermDecide h (thermWord on true 0 (s.headTemp h)) :=
    if_neg (by simpa using ho)
  rw [hd, Blk.thermDecide_alone (s := s.setPort h { s.port h with ownWarn := on, coolWarn := 0 }) h0]
  unfold Blk.thermApply
  rw [hv1, hv2, hv3]
  rfl

theorem Blk.decideWarn_spec {h : Nat} (h0 : s.twnState = 0) (on : Bool) : s.Frame (s.decideWarn h on) (warnWord h) ∧ s.evq <+: (s.decideWarn h on).evq ∧
    ∀ x : Fld, x.addr = HLK_PORT_STATUS h → x.lo ≤ x.hi → x.hi < 13 → (s.decideWarn h on).f x = s.f x := by
  by_cases ho : (s.port h).ownWarn = on
  · have he : s.decideWarn h on = s := if_pos (by simpa using ho)
    rw [he]
    exact ⟨.refl s _, List.prefix_rfl, fun _ _ _ _ => rfl⟩
  · rw [Blk.decideWarn_eq h0 ho]
    have hF : s.Frame (s.setPort h { s.port h with ownWarn := on, coolWarn := 0 }) (warnWord h) := (Blk.Frame.refl s _).put
    have hx (x : Fld) : (s.setPort h { s.port h with ownWarn := on, coolWarn := 0 }).f x = s.f x := Blk.f_put x
    have hq : (s.setPort h { s.port h with ownWarn := on, coolWarn := 0 }).evq = s.evq := rfl
    generalize s.setPort h { s.port h with ownWarn := on, coolWarn := 0 } = c at *
    obtain ⟨g1, g2, g3⟩ := c.warnSet_spec (h := h) (temp := s.headTemp h) on
    exact ⟨hF.trans g1, hq ▸ g2, fun x ha hl hi => (g3 x ha hl hi).trans (hx x)⟩

/-! ### STATUS (R191, R194) -/

/-- The registers that a STATUS fills, its port's counts, and the event of a changed health. -/
def Blk.statusNoted (s : Blk) (h t ch cw : Nat) (c : List Byte) : Blk :=
  let health := (c.getD 5 0).toNat
  let was := s.f (HLK_HE_HEALTH_HEALTH h)
  let p := s.port h
  let s := s.wn (HLK_TEMP h) (2 ^ 23 + wrapTo 12 (satS 12 (sext 16 (beNat (slice c 0 2)))))
  let s := s.wn (HLK_HE_COUNTS h) ((c.getD 2 0).toNat * 2 ^ 16 + (c.getD 3 0).toNat * 2 ^ 8 + (c.getD 4 0).toNat)
  let s := s.wn (HLK_HE_HEALTH h) health
  let s := s.setPort h { p with lastStatus := t, seq := some (c.getD 2 0).toNat, silent := false, coolHold := ch, coolWarn := cw }
  if health ≠ was ∧ (bitOf health 0 || bitOf health 1 || bitOf health 3) then s.raise 0x409 h h health else s

/-- The words that a STATUS fills. -/
def statusWord (h a : Nat) : Prop := a = HLK_TEMP h ∨ a = HLK_HE_COUNTS h ∨ a = HLK_HE_HEALTH h

theorem Blk.statusNoted_spec (s : Blk) (h t ch cw : Nat) (c : List Byte) :
    s.Frame (s.statusNoted h t ch cw c) (statusWord h) ∧ s.evq <+: (s.statusNoted h t ch cw c).evq ∧
      (s.statusNoted h t ch cw c).rn (HLK_TEMP h) = 2 ^ 23 + wrapTo 12 (satS 12 (sext 16 (beNat (slice c 0 2)))) ∧
      ((s.statusNoted h t ch cw c).port h).ownHold = (s.port h).ownHold := by
  unfold Blk.statusNoted
  extract_lets health was q c1 c2 c3 c4
  have hw := wrapTo_lt 12 (satS 12 (sext 16 (beNat (slice c 0 2))))
  have hF3 : s.Frame c3 (statusWord h) := (((Blk.Frame.refl s _).wn (.inl rfl)).wn (.inr (.inl rfl))).wn (.inr (.inr rfl))
  have hq3 : c3.evq = s.evq := (Blk.wn_evq _ _ _).trans ((Blk.wn_evq _ _ _).trans (Blk.wn_evq _ _ _))
  have ht3 : c3.rn (HLK_TEMP h) = 2 ^ 23 + wrapTo 12 (satS 12 (sext 16 (beNat (slice c 0 2)))) := by
    show ((c1.wn _ _).wn _ _).rn _ = _
    rw [Blk.rn_wn_ne _ _ (by simp only [HLK_TEMP, HLK_HE_HEALTH]; omega), Blk.rn_wn_ne _ _ (by simp only [HLK_TEMP, HLK_HE_COUNTS]; omega)]
    show (s.wn _ _).rn _ = _
    rw [Blk.rn_wn_same, Nat.mod_eq_of_lt (by omega)]
  clear_value c3
  have hF4 : s.Frame c4 (statusWord h) := hF3.put
  have hq4 : c4.evq = s.evq := hq3
  have ht4 : c4.rn (HLK_TEMP h) = 2 ^ 23 + wrapTo 12 (satS 12 (sext 16 (beNat (slice c 0 2)))) := ht3
  have hp4 : (c4.port h).ownHold = (s.port h).ownHold := by
    have hp : c4.port h = { q with lastStatus := t, seq := some (c.getD 2 0).toNat, silent := false, coolHold := ch, coolWarn := cw } := c3.port_setPort_same h _
    rw [hp]
  clear_value c4
  split
  · exact ⟨hF4.raise, hq4 ▸ c4.evq_raise_prefix _ _ _ _, (Blk.rn_of_reg (Blk.reg_of_regs (Blk.raise_regs _ _ _ _ _) _)).trans ht4, hp4⟩
  · exact ⟨hF4, hq4 ▸ List.prefix_rfl, ht4, hp4⟩

/-- A STATUS at or above LIMIT: its words are noted, the head is held, and a warning may start or end. -/
theorem Blk.useStatus_hot {h t : Nat} {c : List Byte} (hl : s.sf (HLK_THERM_LIMIT_LIMIT h) ≤ satS 12 (sext 16 (beNat (slice c 0 2)))) :
    ∃ ch cw, s.useStatus h t c = (s.statusNoted h t ch cw c).decideHold h true 0 ∨
      ∃ on, s.useStatus h t c = ((s.statusNoted h t ch cw c).decideHold h true 0).decideWarn h on := by
  have hlim (a b d : Nat) : (((s.wn (HLK_TEMP h) a).wn (HLK_HE_COUNTS h) b).wn (HLK_HE_HEALTH h) d).sf (HLK_THERM_LIMIT_LIMIT h) = s.sf (HLK_THERM_LIMIT_LIMIT h) := by
    have hr : (((s.wn (HLK_TEMP h) a).wn (HLK_HE_COUNTS h) b).wn (HLK_HE_HEALTH h) d).reg (HLK_THERM_LIMIT h) = s.reg (HLK_THERM_LIMIT h) := by
      rw [Blk.reg_wn_ne _ _ (by simp only [HLK_THERM_LIMIT, HLK_HE_HEALTH]; omega), Blk.reg_wn_ne _ _ (by simp only [HLK_THERM_LIMIT, HLK_HE_COUNTS]; omega),
        Blk.reg_wn_ne _ _ (by simp only [HLK_THERM_LIMIT, HLK_TEMP]; omega)]
    rw [Blk.sf, Blk.f_of_reg hr, Blk.sf]
  unfold Blk.useStatus
  extract_lets temp seq health q inSeq was c1 c2 c3 sensor limit warn hyst ch cw c4 c5 c6
  have h6 : c6 = (s.statusNoted h t ch cw c).decideHold h true 0 := by
    have hle : limit ≤ temp := (hlim _ _ _).trans_le hl
    exact if_pos hle
  refine ⟨ch, cw, ?_⟩
  rw [← h6]
  split
  · exact .inr ⟨true, rfl⟩
  · split
    · exact .inr ⟨false, rfl⟩
    · exact .inl rfl

/-- What a frame from the head end leaves of its port. -/
theorem Blk.follow_keeps (s : Blk) (h : Nat) (bs : List Byte) : (s.follow h bs).ports = s.ports ∧
    ∀ x : Fld, x.addr = HLK_PORT_STATUS h → x.lo ≤ x.hi → x.hi < 19 → (s.follow h bs).f x = s.f x := by
  unfold Blk.follow
  extract_lets f e x c
  have hc : c.ports = s.ports ∧ c.regs = s.regs := by
    show (if e = 0 then s else _).ports = _ ∧ (if e = 0 then s else _).regs = _
    split
    · exact ⟨rfl, rfl⟩
    · exact ⟨rfl, rfl⟩
  clear_value c
  obtain ⟨hp, hr⟩ := hc
  have hx (x : Fld) : c.f x = s.f x := Blk.f_of_reg (Blk.reg_of_regs hr _)
  split
  · exact ⟨hp, fun x _ _ _ => hx x⟩
  · exact ⟨(Blk.raise_ports _ _ _ _ _).trans ((Blk.setF_ports _ _ _).trans hp), fun x ha hl hi =>
      ((Blk.f_of_reg (Blk.reg_of_regs (Blk.raise_regs _ _ _ _ _) _)).trans
        (Blk.f_setF_ne _ _ _ _ (show 19 ≤ 19 by decide) hl (by omega) (.inr (.inl hi)))).trans (hx x)⟩

/-- The words of a STATUS at or above LIMIT. -/
def hotWord (h a : Nat) : Prop := a = HLK_TEMP h ∨ a = HLK_HE_COUNTS h ∨ a = HLK_HE_HEALTH h ∨ a = HLK_PORT_STATUS h ∨ a = HLK_HOLD_MAP ∨
  a = HLK_HOLD_MAP + 1 ∨ a = LCK_STATUS

theorem hotWord_of_hold {h a : Nat} (g : thermHoldWord h a) : hotWord h a := g.elim (fun g => .inr (.inr (.inr (.inl g))))
  fun g => g.elim (fun g => .inr (.inr (.inr (.inr (.inl g))))) fun g => .inr (.inr (.inr (.inr (.inr (.inl g)))))

theorem hotWord_of_warn {h a : Nat} (g : warnWord h a) : hotWord h a := g.elim (fun g => .inr (.inr (.inr (.inl g))))
  fun g => .inr (.inr (.inr (.inr (.inr (.inr g)))))

theorem hotWord_of_status {h a : Nat} (g : statusWord h a) : hotWord h a := g.elim .inl fun g => g.elim (fun g => .inr (.inl g)) fun g => .inr (.inr (.inl g))

theorem twnState_of_regs (hF : r.RegsBut s p) (hp : ¬ p TWN_STATUS) : s.twnState = r.twnState := hF.f (x := TWN_STATUS_STATE) (by decide) hp

/-- What a STATUS at or above LIMIT shows. -/
def Blk.HotShown (r s : Blk) (h : Nat) (temp : Int) : Prop :=
  s.rn (HLK_TEMP h) = 2 ^ 23 + wrapTo 12 temp ∧ s.fb (HLK_PORT_STATUS_THERM_HOLD h) = true ∧ s.f (HLK_PORT_STATUS_HOLD_CAUSE h) = 0 ∧
    bitOf (s.val HLK_HOLD_MAP 2) h = true ∧ r.Raised s 0x401 h h (wrapTo 12 temp) ∧ r.Frame s (hotWord h)

theorem Blk.HotShown.decideWarn {h : Nat} {temp : Int} (hh : h < 32) (g : r.HotShown s h temp) (h0 : s.twnState = 0) (on : Bool) :
    r.HotShown (s.decideWarn h on) h temp := by
  obtain ⟨g1, g2, g3, g4, g5, g6⟩ := g
  obtain ⟨w1, w2, w3⟩ := Blk.decideWarn_spec (h := h) h0 on
  have hf (x : Fld) (ha : x.addr = HLK_PORT_STATUS h) (hl : x.lo ≤ x.hi) (hi : x.hi < 13) := w3 x ha hl hi
  have hmap : (s.decideWarn h on).val HLK_HOLD_MAP 2 = s.val HLK_HOLD_MAP 2 := Blk.val_of_reg fun i hi =>
    w1.1 _ (cntWord_low (by simp only [HLK_HOLD_MAP]; omega)) (by simp only [warnWord, HLK_PORT_STATUS, LCK_STATUS, HLK_HOLD_MAP]; omega)
  refine ⟨(w1.1.rn (cntWord_low (by simp only [HLK_TEMP]; omega)) (by simp only [warnWord, HLK_PORT_STATUS, LCK_STATUS, HLK_TEMP]; omega)).trans g1,
    ?_, (hf _ rfl (show 10 ≤ 11 by decide) (show 11 < 13 by decide)).trans g3, by rw [hmap]; exact g4, g5.of_right w2, g6.trans (w1.mono fun _ => hotWord_of_warn)⟩
  rw [Blk.fb, hf (HLK_PORT_STATUS_THERM_HOLD h) rfl (show 12 ≤ 12 by decide) (show 12 < 13 by decide)]
  exact g2

/-- A STATUS at or above LIMIT holds its head. -/
theorem Blk.useStatus_spec {h t : Nat} {c : List Byte} (hh : h < 32) (h0 : s.twnState = 0) (ho : (s.port h).ownHold = false)
    (hno : s.fb (HLK_PORT_STATUS_THERM_HOLD h) = false) (hl : s.sf (HLK_THERM_LIMIT_LIMIT h) ≤ satS 12 (sext 16 (beNat (slice c 0 2)))) :
    s.HotShown (s.useStatus h t c) h (satS 12 (sext 16 (beNat (slice c 0 2)))) := by
  obtain ⟨ch, cw, he⟩ := Blk.useStatus_hot (t := t) hl
  obtain ⟨n1, n2, n3, n4⟩ := s.statusNoted_spec h t ch cw c
  generalize s.statusNoted h t ch cw c = b at *
  generalize satS 12 (sext 16 (beNat (slice c 0 2))) = temp at *
  have ht := wrapTo_lt 12 temp
  have hb0 : b.twnState = 0 := (twnState_of_regs n1.1 (by simp only [statusWord, HLK_TEMP, HLK_HE_COUNTS, HLK_HE_HEALTH, TWN_STATUS]; omega)).trans h0
  have hbno : b.fb (HLK_PORT_STATUS_THERM_HOLD h) = false :=
    (n1.1.fb (cntWord_low (by simp only [HLK_PORT_STATUS]; omega)) (by simp only [statusWord, HLK_TEMP, HLK_HE_COUNTS, HLK_HE_HEALTH, HLK_PORT_STATUS]; omega)).trans hno
  have htemp : b.headTemp h = wrapTo 12 temp := by
    rw [Blk.headTemp, Blk.f, n3, bits]
    show (2 ^ 23 + wrapTo 12 temp) / 2 ^ 0 % 2 ^ 12 = _
    omega
  obtain ⟨g1, g2, g3, g4, g5, -⟩ := Blk.decideHold_spec hb0 hh (n4.trans ho) hbno (cause := 0) (by decide)
  rw [htemp, Nat.zero_mul, Nat.zero_add] at g4
  have hH : s.HotShown (b.decideHold h true 0) h temp :=
    ⟨(g5.1.rn (cntWord_low (by simp only [HLK_TEMP]; omega)) (by simp only [thermHoldWord, HLK_PORT_STATUS, HLK_HOLD_MAP, HLK_TEMP]; omega)).trans n3,
      g1, g2, g3, g4.of_left n2, (n1.mono fun _ => hotWord_of_status).trans (g5.mono fun _ => hotWord_of_hold)⟩
  have hd0 : (b.decideHold h true 0).twnState = 0 :=
    (twnState_of_regs g5.1 (by simp only [thermHoldWord, HLK_PORT_STATUS, HLK_HOLD_MAP, TWN_STATUS]; omega)).trans hb0
  rcases he with he | ⟨on, he⟩
  · rw [he]
    exact hH
  · rw [he]
    exact hH.decideWarn hh hd0 on

/-- A STATUS received in READY at or above LIMIT (R191). -/
theorem statusReceived_spec {h t : Nat} {bs : List Byte} (hh : h < 32) (h0 : s.twnState = 0) (hok : upOk bs = true) (hty : upType bs = 0x41)
    (h4 : s.portState h = 4) (ho : (s.port h).ownHold = false) (hno : s.fb (HLK_PORT_STATUS_THERM_HOLD h) = false)
    (hl : s.sf (HLK_THERM_LIMIT_LIMIT h) ≤ satS 12 (sext 16 (beNat (slice (upPayload bs) 0 2)))) :
    s.HotShown (statusReceived h t bs s) h (satS 12 (sext 16 (beNat (slice (upPayload bs) 0 2)))) := by
  have hF1 : s.Frame (s.advance t) (· = HLK_PORT_STATUS h) := (Blk.Frame.refl s (· = HLK_PORT_STATUS h)).advance
  obtain ⟨hF2, hq2, -⟩ := (s.advance t).follow_spec h bs
  obtain ⟨hp2, hx2⟩ := (s.advance t).follow_keeps h bs
  have hF : s.Frame ((s.advance t).follow h bs) (· = HLK_PORT_STATUS h) := hF1.trans hF2
  have hx (x : Fld) (ha : x.addr = HLK_PORT_STATUS h) (hl : x.lo ≤ x.hi) (hi : x.hi < 19) : ((s.advance t).follow h bs).f x = s.f x :=
    (hx2 x ha hl hi).trans (s.f_advance t (cntWord_low (by rw [ha]; simp only [HLK_PORT_STATUS]; omega)))
  have hport : ((s.advance t).follow h bs).port h = s.port h := by
    rw [Blk.port, hp2]
    exact s.port_advance t h
  have hq : s.evq <+: ((s.advance t).follow h bs).evq := (s.evq_advance_prefix t).trans hq2
  have he : statusReceived h t bs s = ((s.advance t).follow h bs).useStatus h ((s.advance t).follow h bs).now (upPayload bs) := by
    unfold statusReceived
    rw [hok]
    refine (if_neg Bool.false_ne_true).trans (if_neg ?_)
    rw [hty, show ((s.advance t).follow h bs).portState h = 4 from (hx _ rfl (show 0 ≤ 2 by decide) (show 2 < 19 by decide)).trans h4]
    decide
  rw [he]
  generalize (s.advance t).follow h bs = b at *
  have hlim : b.sf (HLK_THERM_LIMIT_LIMIT h) = s.sf (HLK_THERM_LIMIT_LIMIT h) := by
    rw [Blk.sf, hF.1.f (cntWord_low (by simp only [HLK_THERM_LIMIT]; omega)) (by simp only [HLK_THERM_LIMIT, HLK_PORT_STATUS]; omega), Blk.sf]
  have hbno : b.fb (HLK_PORT_STATUS_THERM_HOLD h) = false := by
    rw [Blk.fb, hx (HLK_PORT_STATUS_THERM_HOLD h) rfl (show 12 ≤ 12 by decide) (show 12 < 19 by decide)]
    exact hno
  obtain ⟨g1, g2, g3, g4, g5, g6⟩ := Blk.useStatus_spec (t := b.now) hh ((twnState_of_regs hF.1 (by simp only [HLK_PORT_STATUS, TWN_STATUS]; omega)).trans h0)
    (hport ▸ ho) hbno (hlim.trans_le hl)
  exact ⟨g1, g2, g3, g4, g5.of_left hq, (hF.mono fun _ g => .inr (.inr (.inr (.inl g)))).trans g6⟩

/-! ### A STATUS that stays away (R194) -/

theorem statusTimeout_spec {h t : Nat} (hh : h < 32) (h0 : s.twnState = 0) (h4 : s.portState h = 4) (hsi : (s.port h).silent = false)
    (hu : s.underTest 10 = false) (hsl : s.fb (LAN_STATUS_RX_SLEEP h) = false)
    (ht : (s.port h).lastStatus + 2500 * max 1 (s.f HLK_CFG_STATUS_TO) ≤ t) (ho : (s.port h).ownHold = false)
    (hno : s.fb (HLK_PORT_STATUS_THERM_HOLD h) = false) :
    (statusTimeout h t s).fb (HLK_PORT_STATUS_STATUS_LOST h) = true ∧ (statusTimeout h t s).fb (HLK_PORT_STATUS_THERM_HOLD h) = true ∧
      (statusTimeout h t s).f (HLK_PORT_STATUS_HOLD_CAUSE h) = 2 ∧ s.Raised (statusTimeout h t s) 0x408 h h ((s.port h).seq.getD 0 % 2 ^ 24) ∧
      s.Frame (statusTimeout h t s) (thermHoldWord h) := by
  have hF1 : s.Frame (s.advance t) (thermHoldWord h) := (Blk.Frame.refl s (thermHoldWord h)).advance
  have hq1 := s.evq_advance_prefix t
  have hport : (s.advance t).port h = s.port h := s.port_advance t h
  have hst : (s.advance t).portState h = 4 := (s.portState_advance t hh).trans h4
  have hlow : cntWord (HLK_PORT_STATUS h) = false := cntWord_low (by simp only [HLK_PORT_STATUS]; omega)
  have hno1 : (s.advance t).fb (HLK_PORT_STATUS_THERM_HOLD h) = false := (s.fb_advance t hlow).trans hno
  have hu1 : (s.advance t).underTest 10 = false := by
    rw [Blk.underTest, s.fb_advance t (by decide), s.f_advance t (by decide)]
    exact hu
  have hsl1 : (s.advance t).fb (LAN_STATUS_RX_SLEEP h) = false := (s.fb_advance t (cntWord_low (by simp only [LAN_STATUS]; omega))).trans hsl
  have hto : (s.advance t).f HLK_CFG_STATUS_TO = s.f HLK_CFG_STATUS_TO := s.f_advance t (by decide)
  unfold statusTimeout
  generalize s.advance t = b at *
  extract_lets x q c d
  have hq : q = s.port h := hport
  rw [if_neg (by
    rw [hst, hq, hsi, hu1, hsl1, hto, atLeast1]
    rintro (g | g | g | g | g)
    · exact g rfl
    · exact Bool.false_ne_true g
    · exact Bool.false_ne_true g
    · exact Bool.false_ne_true g
    · generalize 2500 * max 1 (s.f HLK_CFG_STATUS_TO) = k at ht g
      exact Nat.not_le.2 g ht)]
  have hF2 : s.Frame c (thermHoldWord h) := (hF1.put).setF (x := HLK_PORT_STATUS_STATUS_LOST h) (.inl rfl)
  have hq2 : c.evq = b.evq := (Blk.setF_evq _ _ _)
  have hlost : c.fb (HLK_PORT_STATUS_STATUS_LOST h) = true := (Blk.fb_setF_same _ _ _ (show 16 ≤ 16 by decide) (show 16 < 24 by decide)).trans rfl
  have hnoc : c.fb (HLK_PORT_STATUS_THERM_HOLD h) = false :=
    (Blk.fb_setF_ne _ _ _ _ (show 16 ≤ 16 by decide) (show 12 ≤ 12 by decide) (show 12 < 24 by decide) (.inr (.inl (show 12 < 16 by decide)))).trans
      ((Blk.fb_put _).trans hno1)
  have hpc : (c.port h).ownHold = false := by
    have hs : c.port h = (b.setPort h { q with silent := true }).port h := congrArg (fun g : List (Nat × Port) => Tab.get (fun _ => Port.init) g h) (Blk.setF_ports _ _ _)
    rw [hs, Blk.port_setPort_same, hq]
    exact ho
  clear_value c
  have hF3 : s.Frame d (thermHoldWord h) := hF2.raise
  have hR3 : s.Raised d 0x408 h h ((s.port h).seq.getD 0 % 2 ^ 24) := by
    have hd : d = c.raise 0x408 h h ((s.port h).seq.getD 0) := by rw [← hq]
    rw [hd]
    refine Blk.Raised.of_left (⟨_, _, rfl, List.mem_singleton_self _, rfl, Nat.mod_eq_of_lt (by omega), Nat.mod_eq_of_lt (by omega), rfl⟩ :
      c.Raised (c.raise 0x408 h h ((s.port h).seq.getD 0)) 0x408 h h _) (hq2 ▸ hq1)
  have hdx (x : Fld) : d.fb x = c.fb x := Blk.fb_of_reg (Blk.reg_of_regs (Blk.raise_regs _ _ _ _ _) _)
  have hdp : d.port h = c.port h := rfl
  clear_value d
  have hF4 : s.Frame (d.setPort h { d.port h with coolHold := 0, coolWarn := 0 }) (thermHoldWord h) := hF3.put
  have hx4 (x : Fld) : (d.setPort h { d.port h with coolHold := 0, coolWarn := 0 }).fb x = c.fb x := (Blk.fb_put x).trans (hdx x)
  have hp4 : ((d.setPort h { d.port h with coolHold := 0, coolWarn := 0 }).port h).ownHold = false := by
    rw [Blk.port_setPort_same, hdp]
    exact hpc
  have hq4 : (d.setPort h { d.port h with coolHold := 0, coolWarn := 0 }).evq = d.evq := rfl
  generalize d.setPort h { d.port h with coolHold := 0, coolWarn := 0 } = e at *
  obtain ⟨g1, g2, -, g4, g5, g6⟩ := Blk.decideHold_spec
    ((twnState_of_regs hF4.1 (by simp only [thermHoldWord, HLK_PORT_STATUS, HLK_HOLD_MAP, TWN_STATUS]; omega)).trans h0) hh hp4 ((hx4 _).trans hnoc) (cause := 2) (by decide)
  refine ⟨g6.trans ((hx4 _).trans hlost), g1, g2, (hR3.of_right (by rw [hq4])).of_right ?_, hF4.trans g5⟩
  obtain ⟨l, _, hl, _⟩ := g4
  exact ⟨l, hl.symm⟩

/-! ### A write of HLK_THERM_WARN (R193) -/

/-- The rung floor is at least the WARN_RUNG of each head in warning. -/
theorem le_foldl_max (g : Nat → Nat) (l : List Nat) (m : Nat) : m ≤ l.foldl (fun m k => max m (g k)) m ∧ ∀ k ∈ l, g k ≤ l.foldl (fun m k => max m (g k)) m := by
  induction l generalizing m with
  | nil => exact ⟨le_rfl, fun k hk => absurd hk List.not_mem_nil⟩
  | cons a l ih =>
    obtain ⟨h1, h2⟩ := ih (max m (g a))
    refine ⟨(le_max_left _ _).trans h1, fun k hk => ?_⟩
    rcases List.mem_cons.1 hk with rfl | hk
    · exact (le_max_right _ _).trans h1
    · exact h2 k hk

theorem foldl_max_le {g : Nat → Nat} {n : Nat} (hg : ∀ k, g k ≤ n) (l : List Nat) {m : Nat} (hm : m ≤ n) : l.foldl (fun m k => max m (g k)) m ≤ n := by
  induction l generalizing m with
  | nil => exact hm
  | cons a l ih => exact ih (max_le hm (hg a))

theorem Blk.refloor_floor (s : Blk) {k : Nat} (hk : k < 32) (hwarn : s.fb (HLK_PORT_STATUS_THERM_WARN k) = true) :
    min 2 (s.f (HLK_THERM_WARN_WARN_RUNG k)) ≤ s.refloor.f LCK_STATUS_FLOOR := by
  have hle := foldl_max_le (g := fun h => min 2 (s.f (HLK_THERM_WARN_WARN_RUNG h))) (n := 2) (fun _ => min_le_left _ _)
    ((List.range 32).filter fun h => s.fb (HLK_PORT_STATUS_THERM_WARN h)) (m := 0) (by decide)
  have hmem : k ∈ (List.range 32).filter fun h => s.fb (HLK_PORT_STATUS_THERM_WARN h) := List.mem_filter.2 ⟨List.mem_range.2 hk, hwarn⟩
  rw [Blk.refloor, Blk.f_setF_same _ _ _ (show 6 ≤ 7 by decide) (show 7 < 24 by decide)]
  refine ((le_foldl_max (fun h => min 2 (s.f (HLK_THERM_WARN_WARN_RUNG h))) _ 0).2 k hmem).trans_eq (Nat.mod_eq_of_lt ?_).symm
  show _ < 2 ^ 2
  omega

/-- The written word's WARN_RUNG. -/
theorem Blk.warnRung_wn (s : Blk) (h : Nat) (w : Nat) :
    (s.wn (HLK_THERM_WARN h) (w / 4096 * 4096 + bits w 9 8 * 256)).f (HLK_THERM_WARN_WARN_RUNG h) = bits w 9 8 := by
  rw [Blk.f, Blk.rn_wn_same]
  simp only [bits]
  omega

/-- WARN_RUNG 0 ends a warning. -/
theorem thermWarnWrite_zero {h w : Nat} (hh : h < 32) (h0 : s.twnState = 0) (hw : bits w 9 8 = 0) (ho : (s.port h).ownWarn = true)
    (hin : s.fb (HLK_PORT_STATUS_THERM_WARN h) = true) :
    (thermWarnWrite h w s).fb (HLK_PORT_STATUS_THERM_WARN h) = false ∧ s.Raised (thermWarnWrite h w s) 0x405 h h (2 ^ 12 + s.headTemp h) ∧
      s.Frame (thermWarnWrite h w s) (fun a => a = HLK_THERM_WARN h ∨ a = HLK_PORT_STATUS h ∨ a = LCK_STATUS) := by
  have ht := s.headTemp_lt h
  have hO : s.OnlyRegs (s.wn (HLK_THERM_WARN h) (w / 4096 * 4096 + bits w 9 8 * 256)) (· = HLK_THERM_WARN h) := (Blk.OnlyRegs.refl s _).wn rfl
  have hr0 := (s.warnRung_wn h w).trans hw
  unfold thermWarnWrite
  extract_lets b
  rw [if_pos hr0]
  have hF1 : s.Frame b (fun a => a = HLK_THERM_WARN h ∨ a = HLK_PORT_STATUS h ∨ a = LCK_STATUS) := (Blk.Frame.refl s _).wn (.inl rfl)
  have hO : s.OnlyRegs b (· = HLK_THERM_WARN h) := hO
  clear_value b
  have hb0 : b.twnState = 0 := (twnState_of_regs hO.regsBut (by simp only [HLK_THERM_WARN, TWN_STATUS]; omega)).trans h0
  have hport : b.port h = s.port h := (congrArg (fun g : Blk => g.port h) hO.1).trans rfl
  have hbin : b.fb (HLK_PORT_STATUS_THERM_WARN h) = true :=
    (Blk.fb_of_reg (hO.2 _ (by simp only [HLK_THERM_WARN, HLK_PORT_STATUS]; omega))).trans hin
  have htemp : b.headTemp h = s.headTemp h := Blk.f_of_reg (hO.2 _ (by simp only [HLK_THERM_WARN, HLK_TEMP]; omega))
  have hbq : b.evq = s.evq := (congrArg Blk.evq hO.1).trans rfl
  rw [Blk.decideWarn_eq hb0 (by rw [hport, ho]; decide), htemp]
  have hF2 : s.Frame (b.setPort h { b.port h with ownWarn := false, coolWarn := 0 }) (fun a => a = HLK_THERM_WARN h ∨ a = HLK_PORT_STATUS h ∨ a = LCK_STATUS) := hF1.put
  have hcin : (b.setPort h { b.port h with ownWarn := false, coolWarn := 0 }).fb (HLK_PORT_STATUS_THERM_WARN h) = true := (Blk.fb_put _).trans hbin
  have hq2 : (b.setPort h { b.port h with ownWarn := false, coolWarn := 0 }).evq = s.evq := hbq
  generalize b.setPort h { b.port h with ownWarn := false, coolWarn := 0 } = c at *
  unfold Blk.warnSet
  rw [hcin, if_neg (by decide)]
  extract_lets d
  have hF3 : s.Frame d (fun a => a = HLK_THERM_WARN h ∨ a = HLK_PORT_STATUS h ∨ a = LCK_STATUS) :=
    ((hF2.setF (x := HLK_PORT_STATUS_THERM_WARN h) (.inr (.inl rfl))).setF (x := LCK_STATUS_FLOOR) (.inr (.inr rfl)))
  have hq3 : d.evq = s.evq := (Blk.setF_evq _ _ _).trans ((Blk.setF_evq _ _ _).trans hq2)
  have hoff : d.fb (HLK_PORT_STATUS_THERM_WARN h) = false :=
    (Blk.fb_of_reg ((Blk.onlyRegs_refloor _).2 _ (by simp only [HLK_PORT_STATUS, LCK_STATUS]; omega))).trans
      ((Blk.fb_setF_same _ _ _ (show 13 ≤ 13 by decide) (show 13 < 24 by decide)).trans rfl)
  clear_value d
  rw [if_neg Bool.false_ne_true]
  exact ⟨(Blk.fb_of_reg (Blk.reg_of_regs (Blk.raise_regs _ _ _ _ _) _)).trans hoff, .raise hq3 _ (by omega) (by omega) (by omega), hF3.raise⟩

/-- Another WARN_RUNG moves the floor. -/
theorem thermWarnWrite_rung {h w : Nat} (h0 : s.twnState = 0) (hw : bits w 9 8 ≠ 0) :
    (thermWarnWrite h w s).f (HLK_THERM_WARN_WARN_RUNG h) = bits w 9 8 ∧
      (∀ k, k < 32 → (thermWarnWrite h w s).fb (HLK_PORT_STATUS_THERM_WARN k) = true →
        min 2 ((thermWarnWrite h w s).f (HLK_THERM_WARN_WARN_RUNG k)) ≤ (thermWarnWrite h w s).f LCK_STATUS_FLOOR) ∧
      s.Frame (thermWarnWrite h w s) (fun a => a = HLK_THERM_WARN h ∨ a = LCK_STATUS) := by
  have hr := s.warnRung_wn h w
  unfold thermWarnWrite
  extract_lets b
  have hr : b.f (HLK_THERM_WARN_WARN_RUNG h) = bits w 9 8 := hr
  have hF1 : s.Frame b (fun a => a = HLK_THERM_WARN h ∨ a = LCK_STATUS) := (Blk.Frame.refl s _).wn (.inl rfl)
  clear_value b
  have hb0 : b.twnState = 0 := (twnState_of_regs hF1.1 (by simp only [HLK_THERM_WARN, LCK_STATUS, TWN_STATUS]; omega)).trans h0
  have ha : b.agrees = false := by
    rw [Blk.agrees, hb0]
    rfl
  rw [hr, if_neg hw, ha, if_neg Bool.false_ne_true]
  have hO := b.onlyRegs_refloor
  refine ⟨(Blk.f_of_reg (hO.2 _ (by simp only [HLK_THERM_WARN, LCK_STATUS]; omega))).trans hr, fun k hk hwk => ?_, hF1.trans (Blk.Frame.mono (p := (· = LCK_STATUS)) ⟨hO.regsBut, hO.calm⟩ fun _ => .inr)⟩
  rw [Blk.fb_of_reg (hO.2 _ (by simp only [HLK_PORT_STATUS, LCK_STATUS]; omega))] at hwk
  rw [Blk.f_of_reg (x := HLK_THERM_WARN_WARN_RUNG k) (hO.2 _ (by simp only [HLK_THERM_WARN, LCK_STATUS]; omega))]
  exact b.refloor_floor hk hwk

/-- Settles O17. -/
theorem thermalSupervision : Obligations.ThermalSupervision := by
  unfold Obligations.ThermalSupervision
  intro s h t hs h0
  exact ⟨fun bs hok hty h4 ho hno hl => .of_on (f := statusReceived h t bs) rfl hs (statusReceived_spec h.isLt h0 hok hty h4 ho hno hl),
    fun h4 hsi hu hsl ht ho hno => .of_on (f := statusTimeout h t) rfl hs (statusTimeout_spec h.isLt h0 h4 hsi hu hsl ht ho hno),
    fun w => ⟨fun hw ho hin => .of_on (f := thermWarnWrite h w.toNat) rfl hs (thermWarnWrite_zero h.isLt h0 hw ho hin),
      fun hw => .of_on (f := thermWarnWrite h w.toNat) rfl hs (thermWarnWrite_rung h0 hw)⟩⟩

end Sys2Proof.Machine
end

section
/-!
PROOFS. The receiver of a lane, and its sleep and wake (R313, R331 to R334).
-/

namespace Sys2Proof.Machine

variable {r s : Blk} {p : Nat → Prop}

/-! ### Bits of one word -/

theorem Blk.fb_setF_bit (s : Blk) (a : Nat) {i j : Nat} (v : Nat) (hi : i < 24 ∧ j < 24 ∧ i ≠ j) : (s.setF ⟨a, i, i⟩ v).fb ⟨a, j, j⟩ = s.fb ⟨a, j, j⟩ := by
  obtain ⟨_, hj, hn⟩ := hi
  exact Blk.fb_setF_ne _ _ _ _ (le_refl i) (le_refl j) hj (.inr (Nat.lt_or_gt_of_ne hn).symm)

theorem Blk.fb_setF_bit_same (s : Blk) (a : Nat) {i v : Nat} {b : Bool} (hi : i < 24 ∧ v = b2n b) : (s.setF ⟨a, i, i⟩ v).fb ⟨a, i, i⟩ = b := by
  obtain ⟨h, rfl⟩ := hi
  rw [Blk.fb_setF_same _ _ _ (le_refl i) h]
  simp only [Nat.sub_self, Nat.zero_add]
  cases b <;> rfl

/-- A bit above STATE leaves the state of the lane. -/
theorem Blk.laneState_setF (s : Blk) (n : Nat) {i : Nat} (v : Nat) (hi : 2 < i) : (s.setF ⟨LAN_STATUS n, i, i⟩ v).laneState n = s.laneState n :=
  Blk.f_setF_ne _ _ _ _ (le_refl i) (show 0 ≤ 2 by decide) (show 2 < 24 by decide) (.inr (.inl hi))

theorem lan_low {n a : Nat} (hn : n < 44) (ha : a < 0x101003 + 0x40 * n) : cntWord a = false := cntWord_low (by omega)

theorem Blk.laneState_advance (s : Blk) (t : Nat) {n : Nat} (hn : n < 44) : (s.advance t).laneState n = s.laneState n :=
  s.f_advance t (lan_low hn (by simp only [LAN_STATUS]; omega))

/-! ### A stretch that brings one finding (R313, R320, R321) -/

/-- Without a LAN_EQ value that waits nothing comes into force. -/
theorem Blk.eqTake_of_held_nil (h : s.held = []) (n : Nat) : s.eqTake n = s := by
  unfold Blk.eqTake
  rw [h, List.any_nil, Bool.not_false, Bool.or_true]
  exact if_pos rfl

theorem Blk.eqCheck_of_held_nil (h : s.held = []) (n : Nat) : s.eqCheck n = s := by
  rw [Blk.eqCheck, Blk.eqTake_of_held_nil h, ite_self]

/-- What the receiver finds in a stretch rests on the lane and its status and polarity. -/
theorem Blk.finds_of_reg {n : Nat} (hl : s.lane n = r.lane n) (hs : s.reg (LAN_STATUS n) = r.reg (LAN_STATUS n)) (hc : s.reg (LAN_CFG n) = r.reg (LAN_CFG n))
    (line : List Bool) : s.finds n line = r.finds n line := by
  have hh : s.laneHeavy n = r.laneHeavy n := congrArg (fun k => decide (5 ≤ k)) (Blk.f_of_reg (x := LAN_STATUS_RATE n) hs)
  rw [Blk.finds, hl, hh, Blk.fb_of_reg (x := LAN_STATUS_LOCK n) hs, Blk.fb_of_reg (x := LAN_CFG_RX_POL n) hc, Blk.finds]

/-- A stretch in which an open receiver finds one thing. -/
theorem rxStretch_single {n t : Nat} {line : List Bool} {e : RxEv} (hon : ((s.advance t).eqCheck n).rxOn n = true)
    (hf : ((s.advance t).eqCheck n).finds n line = [e]) :
    ∃ x : Rx, rxStretch n t line s =
      (((s.advance t).eqCheck n).setLane n { ((s.advance t).eqCheck n).lane n with rx := x }).rxEvent n e := by
  unfold rxStretch
  extract_lets c x bits res
  have hf : c.finds n line = [e] := hf
  have hon : c.rxOn n = true := hon
  show ∃ x : Rx, _ = (c.setLane n { c.lane n with rx := x }).rxEvent n e
  clear_value c
  have hr : res.2 = [e] := hf
  refine ⟨res.1, ?_⟩
  have hlane : (c.setLane n { x with rx := res.1 }).lane n = { x with rx := res.1 } := c.lane_setLane_same n _
  have hon2 : (c.setLane n { x with rx := res.1 }).rxOn n = true := by
    rw [← hon, Blk.rxOn, hlane]
    rfl
  rw [hon, hr, List.foldl_cons, List.foldl_nil, hon2, hlane, beq_self_eq_true]
  rfl

/-- The receiver of a lane that is on and neither asleep nor changing its rate listens. -/
theorem Blk.rxOn_awake {n : Nat} (h0 : s.laneState n ≠ 0) (h4 : s.laneState n ≠ 4) (h5 : s.laneState n < 5) (ht : (s.lane n).target = none)
    (hs : s.fb (LAN_STATUS_RX_SLEEP n) = false) : s.rxOn n = true := by
  rw [Blk.rxOn, ht, hs]
  have h : s.laneState n = 1 ∨ s.laneState n = 2 ∨ s.laneState n = 3 := by omega
  rcases h with h | h | h <;> rw [h] <;> rfl

/-- A stretch with one finding, on an open receiver with nothing held. -/
theorem rxStretch_open {n t : Nat} {line : List Bool} {e : RxEv} (hn : n < 44) (hh : s.held = []) (hon : s.rxOn n = true) (hf : s.finds n line = [e]) :
    ∃ x : Rx, rxStretch n t line s = ((s.advance t).setLane n { s.lane n with rx := x }).rxEvent n e := by
  have hc : (s.advance t).eqCheck n = s.advance t := Blk.eqCheck_of_held_nil ((s.advance_held t).trans hh) n
  have hlane : (s.advance t).lane n = s.lane n := s.lane_advance t n
  have hS : (s.advance t).reg (LAN_STATUS n) = s.reg (LAN_STATUS n) := s.reg_advance t (lan_low hn (by simp only [LAN_STATUS]; omega))
  have hC : (s.advance t).reg (LAN_CFG n) = s.reg (LAN_CFG n) := s.reg_advance t (lan_low hn (by simp only [LAN_CFG]; omega))
  have hon' : (s.advance t).rxOn n = true := by
    rw [← hon, Blk.rxOn, hlane, Blk.fb_of_reg (x := LAN_STATUS_RX_SLEEP n) hS, Blk.laneState, Blk.f_of_reg (x := LAN_STATUS_STATE n) hS, Blk.rxOn, Blk.laneState]
  obtain ⟨x, hx⟩ := rxStretch_single (t := t) (line := line) (e := e) (by rw [hc]; exact hon') (by rw [hc, Blk.finds_of_reg hlane hS hC]; exact hf)
  rw [hc, hlane] at hx
  exact ⟨x, hx⟩

/-! ### Sleep (R331, R332) -/

theorem Blk.maySleep_up {n : Nat} (h : s.maySleep n = true) : s.laneState n = 2 := by
  rw [Blk.maySleep, Bool.and_eq_true, Bool.and_eq_true, Bool.and_eq_true] at h
  obtain ⟨⟨⟨hu, -⟩, -⟩, -⟩ := h
  exact beq_iff_eq.1 hu

theorem Blk.rxSleep_takes {n : Nat} (hm : s.maySleep n = true) (hs : s.fb (LAN_STATUS_RX_SLEEP n) = false) :
    (s.rxSleep n).fb (LAN_STATUS_RX_SLEEP n) = true ∧ (s.rxSleep n).fb (LAN_STATUS_LOCK n) = false ∧ (s.rxSleep n).laneState n = 2 ∧
      s.Frame (s.rxSleep n) (· = LAN_STATUS n) := by
  unfold Blk.rxSleep
  rw [hm, hs, if_neg (by decide), if_neg (by decide)]
  extract_lets c y d
  have hFc : s.Frame c (· = LAN_STATUS n) := ((Blk.Frame.refl s (· = LAN_STATUS n)).setF (x := LAN_STATUS_RX_SLEEP n) rfl).setF (x := LAN_STATUS_LOCK n) rfl
  have h1 : c.fb (LAN_STATUS_RX_SLEEP n) = true := (Blk.fb_setF_bit _ _ _ (by decide)).trans (Blk.fb_setF_bit_same _ _ (by decide))
  have h2 : c.fb (LAN_STATUS_LOCK n) = false := Blk.fb_setF_bit_same _ _ (by decide)
  have h3 : c.laneState n = 2 := (Blk.laneState_setF _ _ _ (by decide)).trans ((Blk.laneState_setF _ _ _ (by decide)).trans (Blk.maySleep_up hm))
  clear_value c
  have hFd : s.Frame d (· = LAN_STATUS n) := hFc.put
  have hd (x : Fld) : d.f x = c.f x := Blk.f_put x
  have hdb (x : Fld) : d.fb x = c.fb x := Blk.fb_put x
  clear_value d
  split
  · exact ⟨(Blk.fb_put _).trans ((hdb _).trans h1), (Blk.fb_put _).trans ((hdb _).trans h2), (Blk.f_put _).trans ((hd _).trans h3), hFd.put⟩
  · exact ⟨(hdb _).trans h1, (hdb _).trans h2, (hd _).trans h3, hFd⟩

theorem Blk.rxSleep_refused {n : Nat} (hm : s.maySleep n = false) (hs : s.fb (LAN_STATUS_RX_SLEEP n) = false) :
    (s.rxSleep n).fb (LAN_STATUS_SLEEP_REJ n) = true ∧ (s.rxSleep n).fb (LAN_STATUS_RX_SLEEP n) = false ∧ s.Frame (s.rxSleep n) (· = LAN_STATUS n) := by
  unfold Blk.rxSleep
  rw [hm, Bool.not_false, if_pos rfl]
  exact ⟨Blk.fb_setF_bit_same _ _ (by decide), (Blk.fb_setF_bit _ _ _ (by decide)).trans hs,
    (Blk.Frame.refl s (· = LAN_STATUS n)).setF (x := LAN_STATUS_SLEEP_REJ n) rfl⟩

/-- An IDLE_REQ in the line is the command. -/
theorem rxStretch_idleReq {n t : Nat} {line : List Bool} {bs : List Byte} (hn : n < 44) (hh : s.held = []) (hon : s.rxOn n = true)
    (hf : s.finds n line = [.frame bs]) (hb : (bs.getD 0 0).toNat = 0xF2) :
    ∃ c : Blk, rxStretch n t line s = c.rxSleep n ∧ s.Frame c (· = LAN_STATUS n) ∧ c.fb (LAN_STATUS_RX_SLEEP n) = s.fb (LAN_STATUS_RX_SLEEP n) ∧
      c.maySleep n = s.maySleep n := by
  obtain ⟨x, hx⟩ := rxStretch_open (t := t) hn hh hon hf
  refine ⟨(s.advance t).setLane n { s.lane n with rx := x }, hx.trans ?_, ((Blk.Frame.refl s (· = LAN_STATUS n)).advance).put, ?_, ?_⟩
  · rw [Blk.rxEvent, Blk.laneFrameIn]
    simp only [hb]
  · exact (Blk.fb_put _).trans (s.fb_advance t (lan_low hn (by simp only [LAN_STATUS]; omega)))
  · have hf' (y : Fld) (hy : cntWord y.addr = false) : ((s.advance t).setLane n { s.lane n with rx := x }).f y = s.f y := (Blk.f_put y).trans (s.f_advance t hy)
    rw [Blk.maySleep, Blk.laneUp, Blk.laneState, Blk.paired, Blk.twnState, hf' (LAN_STATUS_STATE n) (lan_low hn (by simp only [LAN_STATUS]; omega)),
      hf' TWN_STATUS_STATE (by decide), Blk.maySleep, Blk.laneUp, Blk.laneState, Blk.paired, Blk.twnState]

theorem Blk.lined_sendIdleReq (s : Blk) (n : Nat) : s.Lined (s.sendIdleReq n) := by
  unfold Blk.sendIdleReq
  refine List.foldlRecOn (motive := fun t : Blk => s.Lined t) _ _ (.refl s) fun t ht _ _ => ?_
  exact (ht.setTx.putSlot).ite ht.setTx.txPut

theorem txSleep_takes {n : Nat} (hm : s.maySleep n = true) (hs : s.fb (LAN_STATUS_TX_SLEEP n) = false) :
    (txSleep n s).fb (LAN_STATUS_TX_SLEEP n) = true ∧ (txSleep n s).laneState n = 2 ∧ s.Frame (txSleep n s) (· = LAN_STATUS n) := by
  unfold txSleep
  rw [hm, hs, if_neg (by decide), if_neg (by decide)]
  extract_lets idle c y
  have hL := s.lined_sendIdleReq n
  have hF : s.Frame c (· = LAN_STATUS n) := ((Blk.Frame.refl s (· = LAN_STATUS n)).lined hL).setF (x := LAN_STATUS_TX_SLEEP n) rfl
  have h1 : c.fb (LAN_STATUS_TX_SLEEP n) = true := Blk.fb_setF_bit_same _ _ (by decide)
  have h2 : c.laneState n = 2 := by
    refine (Blk.laneState_setF _ _ _ (by decide)).trans ?_
    rw [Blk.laneState, Blk.f_of_reg (hL.reg _)]
    exact Blk.maySleep_up hm
  clear_value c
  exact ⟨(Blk.fb_put _).trans h1, (Blk.f_put _).trans h2, hF.put⟩

/-! ### Wake (R333) -/

/-- What a burst and the fill after it leave of a lane: all but its transmitter; and of the rest only the line and the links. -/
theorem Blk.wakeLine_spec (s : Blk) (n : Nat) (ps : Int) : s.Frame (s.wakeLine n ps) (fun _ => False) ∧
    (∀ x, (s.wakeLine n ps).fb x = s.fb x) ∧ ((s.wakeLine n ps).lane n).sendFrom = (s.lane n).sendFrom := by
  have hset (t : Blk) (x : Tx) : ((t.setTx n x).lane n).sendFrom = (t.lane n).sendFrom := by
    have h : (t.setTx n x).lane n = { t.lane n with tx := x } := t.lane_setLane_same n _
    rw [h]
  have htx : ((s.txTo n ps).lane n).sendFrom = (s.lane n).sendFrom := by
    unfold Blk.txTo
    extract_lets x p k go c fill since q turns y t
    split
    · exact hset s y
    · exact hset s y
  unfold Blk.wakeLine
  extract_lets rate t u x a b k l
  have hL : s.Lined u := ((Blk.Lined.refl s).txTo (n := n) (ps := ps)).putLineBits
  have hu : (u.lane n).sendFrom = (s.lane n).sendFrom := htx
  clear_value u
  have hF : s.Frame u (fun _ => False) := (Blk.Frame.refl s _).lined hL
  have hb (x : Fld) : u.fb x = s.fb x := Blk.fb_of_reg (hL.reg _)
  split
  · exact ⟨(hF.put).put, fun y => (Blk.fb_put y).trans ((Blk.fb_put y).trans (hb y)), (hset u _).trans hu⟩
  · exact ⟨hF.put, fun y => (Blk.fb_put y).trans (hb y), (hset u _).trans hu⟩

theorem txWake_wakes {n : Nat} (hs : s.fb (LAN_STATUS_TX_SLEEP n) = true) (hh : isHead n = false) :
    (txWake n s).fb (LAN_STATUS_TX_SLEEP n) = false ∧ ((txWake n s).lane n).sendFrom = max s.now ((s.lane n).idleAt + 25) + 1500 ∧
      s.Frame (txWake n s) (· = LAN_STATUS n) := by
  unfold txWake
  rw [hs, hh, if_neg (by decide)]
  extract_lets x start c
  rw [if_neg Bool.false_ne_true]
  have h0 : (s.setF (LAN_STATUS_TX_SLEEP n) 0).fb (LAN_STATUS_TX_SLEEP n) = false := Blk.fb_setF_bit_same _ _ (by decide)
  have hF0 : s.Frame (s.setF (LAN_STATUS_TX_SLEEP n) 0) (· = LAN_STATUS n) := (Blk.Frame.refl s (· = LAN_STATUS n)).setF (x := LAN_STATUS_TX_SLEEP n) rfl
  have hc : c = ((s.setF (LAN_STATUS_TX_SLEEP n) 0).setLane n { x with sendFrom := start + 1500 }).wakeLine n (4000 * start : Nat) := rfl
  rw [hc]
  clear hc
  clear_value c
  generalize s.setF (LAN_STATUS_TX_SLEEP n) 0 = b at *
  have hF1 : s.Frame (b.setLane n { x with sendFrom := start + 1500 }) (· = LAN_STATUS n) := hF0.put
  have h1 : (b.setLane n { x with sendFrom := start + 1500 }).fb (LAN_STATUS_TX_SLEEP n) = false := (Blk.fb_put _).trans h0
  have h2 : ((b.setLane n { x with sendFrom := start + 1500 }).lane n).sendFrom = start + 1500 := congrArg Lane.sendFrom (b.lane_setLane_same n _)
  generalize b.setLane n { x with sendFrom := start + 1500 } = d at *
  obtain ⟨g1, g2, g3⟩ := d.wakeLine_spec n (4000 * start : Nat)
  exact ⟨(g2 _).trans h1, g3.trans h2, hF1.trans (g1.mono fun _ => False.elim)⟩

theorem wakeDetect_notes {n t : Nat} (hn : n < 44) (hu : s.laneState n = 2) (hs : s.fb (LAN_STATUS_RX_SLEEP n) = true) (hb : (s.lane n).burstAt = none) :
    ((wakeDetect n t s).lane n).burstAt = some (max s.now t) ∧ s.Frame (wakeDetect n t s) (fun _ => False) := by
  have hst := (s.laneState_advance t hn).trans hu
  have hsl : (s.advance t).fb (LAN_STATUS_RX_SLEEP n) = true := (s.fb_advance t (lan_low hn (by simp only [LAN_STATUS]; omega))).trans hs
  have hF : s.Frame (s.advance t) (fun _ => False) := (Blk.Frame.refl s (fun _ => False)).advance
  have hc : ((s.advance t).laneUp n && (s.advance t).fb (LAN_STATUS_RX_SLEEP n) && ((s.advance t).lane n).burstAt.isNone) = true := by
    rw [Blk.laneUp, hst, hsl, s.lane_advance, hb]
    rfl
  have he : wakeDetect n t s = (s.advance t).setLane n { (s.advance t).lane n with burstAt := some (s.advance t).now } := if_pos hc
  rw [he, s.now_advance]
  exact ⟨congrArg Lane.burstAt ((s.advance t).lane_setLane_same n _), hF.put⟩

/-- Settles O33. -/
theorem laneSleep : Obligations.LaneSleep := by
  unfold Obligations.LaneSleep
  intro s n t hs
  have hn : n.val < 44 := n.isLt
  refine ⟨fun hm h0 => .of_on (f := txSleep n) rfl hs (txSleep_takes hm h0), fun h1 hh => .of_on (f := txWake n) rfl hs (txWake_wakes h1 hh),
    fun c h0 hc => ?_, fun hm => .of_on (f := txSleep n) rfl hs ?_,
    fun hu hsl hb => .of_on (f := wakeDetect n t) rfl hs (wakeDetect_notes hn hu hsl hb)⟩
  · rcases hc with rfl | ⟨line, bs, hst, hst4, hst5, hcam, hh, ht, hf, hb, rfl⟩
    · exact ⟨fun hm => .of_on (f := fun b => b.rxSleep n) rfl hs (Blk.rxSleep_takes hm h0),
        fun hm => .of_on (f := fun b => b.rxSleep n) rfl hs (Blk.rxSleep_refused hm h0)⟩
    · obtain ⟨c, hc, hF, hsl, hmay⟩ := rxStretch_idleReq (t := t) hn hh (Blk.rxOn_awake hst hst4 hst5 ht h0) hf hb
      refine ⟨fun hm => .of_on (f := rxStretch n t line) rfl hs ?_, fun hm => .of_on (f := rxStretch n t line) rfl hs ?_⟩
      · rw [hc]
        obtain ⟨h1, h2, h3, h4⟩ := Blk.rxSleep_takes (hmay.trans hm) (hsl.trans h0)
        exact ⟨h1, h2, h3, hF.trans h4⟩
      · rw [hc]
        obtain ⟨h1, h2, h3⟩ := Blk.rxSleep_refused (hmay.trans hm) (hsl.trans h0)
        exact ⟨h1, h2, hF.trans h3⟩
  · have he : txSleep n s.blk = s.blk.setF (LAN_STATUS_SLEEP_REJ n) 1 := if_pos (by rw [hm]; rfl)
    rw [he]
    exact ⟨Blk.fb_setF_bit_same _ _ (by decide), (Blk.OnlyRegs.refl s.blk (· = LAN_STATUS n)).setF (x := LAN_STATUS_SLEEP_REJ n) rfl⟩

end Sys2Proof.Machine
end

section
/-!
PROOFS. Figures of merit, equaliser codes and eye scans of a lane (R326 to R330).
-/

namespace Sys2Proof.Machine

variable {r s : Blk} {p : Nat → Prop}

/-! ### Figures of merit (R326, R328) -/

theorem fomOf_lt (th : Int × Int) : fomOf th < 256 := by
  rw [fomOf]
  omega

/-- The figure of merit that is shown. -/
theorem Blk.showFom_spec (s : Blk) (n : Nat) {fom : Nat} (h : fom < 256) :
    (s.showFom n fom).f (LAN_FOM_CURRENT n) = fom ∧ s.Frame (s.showFom n fom) (· = LAN_FOM n) ∧ (s.showFom n fom).evq = s.evq ∧
      ((s.showFom n fom).lane n).lowAt = (s.lane n).lowAt ∧ ((s.showFom n fom).lane n).warned = (s.lane n).warned := by
  unfold Blk.showFom
  extract_lets x low
  have hF : s.Frame ((s.setF (LAN_FOM_LOWEST n) low).setF (LAN_FOM_CURRENT n) fom) (· = LAN_FOM n) :=
    ((Blk.Frame.refl s (· = LAN_FOM n)).setF (x := LAN_FOM_LOWEST n) rfl).setF (x := LAN_FOM_CURRENT n) rfl
  have hf : ((s.setF (LAN_FOM_LOWEST n) low).setF (LAN_FOM_CURRENT n) fom).f (LAN_FOM_CURRENT n) = fom :=
    (Blk.f_setF_same _ _ _ (show 0 ≤ 7 by decide) (show 7 < 24 by decide)).trans (Nat.mod_eq_of_lt h)
  have hq : ((s.setF (LAN_FOM_LOWEST n) low).setF (LAN_FOM_CURRENT n) fom).evq = s.evq := (Blk.setF_evq _ _ _).trans (Blk.setF_evq _ _ _)
  generalize (s.setF (LAN_FOM_LOWEST n) low).setF (LAN_FOM_CURRENT n) fom = c at *
  have hl : (c.setLane n { x with lowSet := true }).lane n = { x with lowSet := true } := c.lane_setLane_same n _
  exact ⟨(Blk.f_put _).trans hf, hF.put, (Blk.setLane_evq _ _ _).trans hq, by rw [hl], by rw [hl]⟩

/-- A figure of merit below WARN, before the lane was warned of: what has been shown so far, and the fall that goes on. -/
theorem laneMarginLow_low {n t : Nat} {th : Int × Int} (hn : n < 44) (hu : s.laneState n = 2) (hh : s.held = []) (hlow : fomOf th < s.f LAN_FOM_CFG_WARN)
    (hw : (s.lane n).warned = false) :
    ∃ (c : Blk) (x : Lane) (from0 : Nat), from0 = (s.lane n).lowAt.getD (max s.now t) ∧ x.lowAt = some from0 ∧
      x.warned = decide (from0 + 250000 ≤ max s.now t) ∧ s.evq <+: c.evq ∧ c.f (LAN_FOM_CURRENT n) = fomOf th ∧ s.Frame c (· = LAN_FOM n) ∧
      laneMarginLow n t th s = if from0 + 250000 ≤ max s.now t then ((c.setLane n x).setF (LAN_STATUS_MARGIN_LOW n) 1).raise 0x905 n n (fomOf th)
        else c.setLane n x := by
  have hc : (s.advance t).eqCheck n = s.advance t := Blk.eqCheck_of_held_nil ((s.advance_held t).trans hh) n
  have hst : (s.advance t).laneUp n = true := by rw [Blk.laneUp, s.laneState_advance t hn, hu]; rfl
  have hF0 : s.Frame (s.advance t) (· = LAN_FOM n) := (Blk.Frame.refl s (· = LAN_FOM n)).advance
  obtain ⟨h1, h2, h3, h4, h5⟩ := (s.advance t).showFom_spec n (fomOf_lt th)
  have hwarn : ((s.advance t).showFom n (fomOf th)).f LAN_FOM_CFG_WARN = s.f LAN_FOM_CFG_WARN :=
    (hF0.trans h2).1.f (x := LAN_FOM_CFG_WARN) (by decide) (by simp only [LAN_FOM_CFG, LAN_FOM]; omega)
  have hnow : ((s.advance t).showFom n (fomOf th)).now = max s.now t := s.now_advance t
  rw [s.lane_advance] at h4 h5
  have hq : s.evq <+: ((s.advance t).showFom n (fomOf th)).evq := by rw [h3]; exact s.evq_advance_prefix t
  unfold laneMarginLow
  rw [hc]
  extract_lets a fom c x from0 due d
  rw [show a.laneUp n = true from hst, if_neg (by decide)]
  refine ⟨c, { x with lowAt := some from0, warned := x.warned || due }, from0, by rw [← h4, ← hnow], rfl, ?_, hq, h1, hF0.trans h2, ?_⟩
  · show ((c.lane n).warned || (!(c.lane n).warned && decide (from0 + 250000 ≤ c.now))) = _
    rw [h5, hw, hnow]
    rfl
  · rw [if_neg (by rw [hwarn]; exact Nat.not_le.2 hlow)]
    have hdue : due = decide (from0 + 250000 ≤ max s.now t) := by
      show (!(c.lane n).warned && decide (from0 + 250000 ≤ c.now)) = _
      rw [h5, hw, hnow]
      rfl
    have hd : d = c.setLane n { x with lowAt := some from0, warned := x.warned || due } := rfl
    rw [← hd, hdue]
    simp only [decide_eq_true_eq]
    rfl

theorem laneMarginLow_begins {n t : Nat} {th : Int × Int} (hn : n < 44) (hu : s.laneState n = 2) (hh : s.held = []) (hlow : fomOf th < s.f LAN_FOM_CFG_WARN)
    (hw : (s.lane n).warned = false) (ha : (s.lane n).lowAt = none) :
    (laneMarginLow n t th s).f (LAN_FOM_CURRENT n) = fomOf th ∧ ((laneMarginLow n t th s).lane n).lowAt = some (max s.now t) ∧
      ((laneMarginLow n t th s).lane n).warned = false ∧ s.Frame (laneMarginLow n t th s) (· = LAN_FOM n) := by
  obtain ⟨c, x, from0, h0, h1, h2, -, h3, h4, he⟩ := laneMarginLow_low (t := t) hn hu hh hlow hw
  rw [ha, Option.getD_none] at h0
  subst h0
  rw [he, if_neg (by omega)]
  have hl : (c.setLane n x).lane n = x := c.lane_setLane_same n _
  exact ⟨(Blk.f_put _).trans h3, by rw [hl, h1], by rw [hl, h2]; exact decide_eq_false (by omega), h4.put⟩

theorem laneMarginLow_warns {n t a : Nat} {th : Int × Int} (hn : n < 44) (hu : s.laneState n = 2) (hh : s.held = []) (hlow : fomOf th < s.f LAN_FOM_CFG_WARN)
    (hw : (s.lane n).warned = false) (ha : (s.lane n).lowAt = some a) (hd : a + 250000 ≤ max s.now t) :
    (laneMarginLow n t th s).fb (LAN_STATUS_MARGIN_LOW n) = true ∧ (laneMarginLow n t th s).f (LAN_FOM_CURRENT n) = fomOf th ∧
      ((laneMarginLow n t th s).lane n).warned = true ∧ s.Raised (laneMarginLow n t th s) 0x905 n n (fomOf th) ∧
      s.Frame (laneMarginLow n t th s) (fun a => a = LAN_STATUS n ∨ a = LAN_FOM n) := by
  obtain ⟨c, x, from0, h0, -, h2, hq, h3, h4, he⟩ := laneMarginLow_low (t := t) hn hu hh hlow hw
  rw [ha, Option.getD_some] at h0
  subst h0
  have hlt := fomOf_lt th
  rw [he, if_pos hd]
  generalize fomOf th = fom at *
  have hF : s.Frame (c.setLane n x) (fun a => a = LAN_STATUS n ∨ a = LAN_FOM n) := (h4.mono fun _ => .inr).put
  have hl : ((c.setLane n x).lane n).warned = true := by
    rw [c.lane_setLane_same n x, h2]
    exact decide_eq_true hd
  have hf : (c.setLane n x).f (LAN_FOM_CURRENT n) = fom := (Blk.f_put _).trans h3
  have hq2 : s.evq <+: (c.setLane n x).evq := hq
  generalize c.setLane n x = d at *
  have hr (y : Fld) : ((d.setF (LAN_STATUS_MARGIN_LOW n) 1).raise 0x905 n n fom).f y = (d.setF (LAN_STATUS_MARGIN_LOW n) 1).f y :=
    Blk.f_of_reg (Blk.reg_of_regs (Blk.raise_regs _ _ _ _ _) _)
  refine ⟨?_, ?_, ?_, ?_, (hF.setF (x := LAN_STATUS_MARGIN_LOW n) (.inl rfl)).raise⟩
  · rw [Blk.fb, hr]
    exact Blk.fb_setF_bit_same (b := true) _ _ (by decide)
  · exact (hr _).trans ((Blk.f_setF_ne _ _ _ _ (show 16 ≤ 16 by decide) (show 0 ≤ 7 by decide) (show 7 < 24 by decide)
      (.inl (by simp only [LAN_FOM, LAN_STATUS]; omega))).trans hf)
  · have he : ((d.setF (LAN_STATUS_MARGIN_LOW n) 1).raise 0x905 n n fom).lane n = d.lane n :=
      congrArg (fun g : List (Nat × Lane) => Tab.get (fun _ => Lane.init) g n) ((Blk.raise_lanes _ _ _ _ _).trans (Blk.setF_lanes d _ _))
    rw [he]
    exact hl
  · exact (Blk.raised_raise _ _ (by omega) (by omega) (by omega)).of_left (by rw [Blk.setF_evq]; exact hq2)

/-! ### Equaliser codes (R327, R328) -/

theorem lanEqWrite_spec (s : Blk) (n : Nat) (w : Word) :
    bitOf ((lanEqWrite n w s).lastWritten (LAN_EQ n)).toNat 23 = bitOf w.toNat 23 ∧
      ((lanEqWrite n w s).lastWritten (LAN_EQ n)).toNat % 32 = w.toNat % 32 ∧ (lanEqWrite n w s).regs = s.regs ∧
      ((lanEqWrite n w s).lane n).eqAt = s.now ∧ s.Calm (lanEqWrite n w s) := by
  unfold lanEqWrite
  extract_lets v src
  have hl := (s.lastWritten (LAN_EQ n)).isLt
  have hw := w.isLt
  have hv : v = setBits (setBits (s.lastWritten (LAN_EQ n)).toNat 23 23 (bits w.toNat 23 23)) 4 0 (bits w.toNat 4 0) := rfl
  have hlw : ((s.hold (LAN_EQ n) (BitVec.ofNat 24 v) .skip).setLane n { src with eqAt := s.now }).lastWritten (LAN_EQ n) = BitVec.ofNat 24 v :=
    s.lastWritten_hold_same _ _ _
  rw [hlw, BitVec.toNat_ofNat]
  generalize (s.lastWritten (LAN_EQ n)).toNat = m at *
  generalize w.toNat = k at *
  simp only [setBits, bits] at hv
  refine ⟨?_, by omega, rfl, congrArg Lane.eqAt (Blk.lane_setLane_same _ n _), fun a => rfl, rfl, rfl⟩
  simp only [bitOf]
  have h : v % 2 ^ 24 / 2 ^ 23 % 2 = k / 2 ^ 23 % 2 := by omega
  rw [h]

/-- A LAN_EQ value `v` has come into force. -/
def Blk.EqTaken (r s : Blk) (n : Nat) (v : Word) : Prop :=
  s.held = [] ∧ s.fb (LAN_EQ_FIXED n) = bitOf v.toNat 23 ∧ s.f (LAN_EQ_FIXED_CODE n) = v.toNat % 32 ∧
    s.f (LAN_EQ_PEAK n) = (if bitOf v.toNat 23 then v.toNat % 32 else r.f (LAN_EQ_PEAK n)) ∧ r.Frame s (· = LAN_EQ n)

theorem Blk.EqTaken.setLane {n m : Nat} {v : Word} {x : Lane} (h : r.EqTaken s n v) : r.EqTaken (s.setLane m x) n v := by
  obtain ⟨h1, h2, h3, h4, h5⟩ := h
  exact ⟨h1, (Blk.fb_put _).trans h2, (Blk.f_put _).trans h3, (Blk.f_put _).trans h4, h5.put⟩

/-- The one value that waits comes into force. -/
theorem Blk.eqTake_one {n : Nat} {v : Word} (hh : s.held = [⟨LAN_EQ n, v, .skip, []⟩]) (hc : s.fb SYS_COMMIT_HOLD = false) (hF : r.Frame s (· = LAN_EQ n))
    (hpk : s.f (LAN_EQ_PEAK n) = r.f (LAN_EQ_PEAK n)) : r.EqTaken (s.eqTake n) n v ∧
      ∃ regs, s.eqTake n = { s with regs := regs, held := [] } := by
  have hcommit : (s.commit fun h => h.bnd == .skip && h.addr == LAN_EQ n) = ({ s with held := [] } : Blk).setReg (LAN_EQ n) v := by
    unfold Blk.commit
    rw [hc, hh]
    simp
  have hv := v.isLt
  unfold Blk.eqTake
  rw [hc, hh, hcommit]
  extract_lets pk c
  have hno : (false || !List.any [({ addr := LAN_EQ n, val := v, bnd := .skip, done := [] } : Held)] fun h => h.bnd == .skip && h.addr == LAN_EQ n) = false := by
    simp
  rw [hno, if_neg Bool.false_ne_true]
  have hFc : r.Frame c (· = LAN_EQ n) := (hF.put).setReg rfl
  have hheld : c.held = [] := rfl
  have hreg : c.reg (LAN_EQ n) = v := Blk.reg_setReg_same _ _ _
  have hcs : ∃ regs, c = { s with regs := regs, held := [] } := ⟨_, rfl⟩
  clear_value c
  have hfix : c.fb (LAN_EQ_FIXED n) = bitOf v.toNat 23 := by
    rw [Blk.fb, Blk.f, Blk.rn, hreg]
    show (v.toNat / 2 ^ 23 % 2 ^ 1 == 1) = (v.toNat / 2 ^ 23 % 2 == 1)
    rfl
  have hcode : c.f (LAN_EQ_FIXED_CODE n) = v.toNat % 32 := by
    rw [Blk.f, Blk.rn, hreg]
    show v.toNat / 2 ^ 0 % 2 ^ 5 = _
    omega
  have hlt : (if bitOf v.toNat 23 then v.toNat % 32 else pk) < 32 := by
    have := s.f_lt (LAN_EQ_PEAK n)
    change pk < 2 ^ 5 at this
    split <;> omega
  have hval : (if c.fb (LAN_EQ_FIXED n) then c.f (LAN_EQ_FIXED_CODE n) else pk) = if bitOf v.toNat 23 then v.toNat % 32 else pk := by rw [hfix, hcode]
  have hpk : pk = r.f (LAN_EQ_PEAK n) := hpk
  rw [hval]
  rw [hpk] at hlt ⊢
  refine ⟨⟨(Blk.setF_held _ _ _).trans hheld, ?_, ?_, ?_, hFc.setF (x := LAN_EQ_PEAK n) rfl⟩, ?_⟩
  · exact (Blk.fb_setF_ne _ _ _ _ (show 8 ≤ 12 by decide) (show 23 ≤ 23 by decide) (show 23 < 24 by decide) (.inr (.inr (show 12 < 23 by decide)))).trans hfix
  · exact (Blk.f_setF_ne _ _ _ _ (show 8 ≤ 12 by decide) (show 0 ≤ 4 by decide) (show 4 < 24 by decide) (.inr (.inl (show 4 < 8 by decide)))).trans hcode
  · exact (Blk.f_setF_same _ _ _ (show 8 ≤ 12 by decide) (show 12 < 24 by decide)).trans (Nat.mod_eq_of_lt hlt)
  · obtain ⟨regs, e⟩ := hcs
    rw [e]
    exact ⟨_, rfl⟩

/-- A Skip or an ALIGN with a LAN_EQ value waiting: it comes into force, with the Skip or, where the longest wait has passed already, before it. -/
theorem rxStretch_skip {n t : Nat} {v : Word} {line : List Bool} (hn : n < 44) (hu : s.laneState n = 2) (hc : s.fb SYS_COMMIT_HOLD = false)
    (hh : s.held = [⟨LAN_EQ n, v, .skip, []⟩]) (htrm : s.trm.held = []) (hs : s.fb (LAN_STATUS_RX_SLEEP n) = false) (ht : (s.lane n).target = none)
    (hf : s.finds n line = [.skip]) : s.EqTaken (rxStretch n t line s) n v := by
  have hF : s.Frame (s.advance t) (· = LAN_EQ n) := (Blk.Frame.refl s (· = LAN_EQ n)).advance
  have hh' : (s.advance t).held = [⟨LAN_EQ n, v, .skip, []⟩] := (s.advance_held t).trans hh
  have hc' : (s.advance t).fb SYS_COMMIT_HOLD = false := (s.fb_advance t (by decide)).trans hc
  have hpk : (s.advance t).f (LAN_EQ_PEAK n) = s.f (LAN_EQ_PEAK n) := s.f_advance t (lan_low hn (by simp only [LAN_EQ]; omega))
  have hstate : (s.advance t).reg (LAN_STATUS n) = s.reg (LAN_STATUS n) := s.reg_advance t (lan_low hn (by simp only [LAN_STATUS]; omega))
  have hcfg : (s.advance t).reg (LAN_CFG n) = s.reg (LAN_CFG n) := s.reg_advance t (lan_low hn (by simp only [LAN_CFG]; omega))
  have hlane : (s.advance t).lane n = s.lane n := s.lane_advance t n
  have htrm' : (s.advance t).trm.held = [] := by rw [s.advance_trm]; exact htrm
  have hsingle := @rxStretch_single s n t line .skip
  generalize s.advance t = A at *
  have htake := Blk.eqTake_one hh' hc' hF hpk
  have hdue (c : Blk) (h0 : c.trm.held = []) (q : HeldTrim → Bool) : c.trimsDue q = c := by
    rw [Blk.trimsDue, h0]
    rfl
  have hgo (c : Blk) (hl : c.lane n = s.lane n) (hS : c.reg (LAN_STATUS n) = s.reg (LAN_STATUS n)) (hC : c.reg (LAN_CFG n) = s.reg (LAN_CFG n)) :
      c.rxOn n = true ∧ c.finds n line = [.skip] := by
    have hst : c.laneState n = 2 := (Blk.f_of_reg (x := LAN_STATUS_STATE n) hS).trans hu
    exact ⟨Blk.rxOn_awake (by rw [hst]; decide) (by rw [hst]; decide) (by rw [hst]; decide) (by rw [hl]; exact ht)
      ((Blk.fb_of_reg (x := LAN_STATUS_RX_SLEEP n) hS).trans hs), (Blk.finds_of_reg hl hS hC line).trans hf⟩
  have hcheck : A.eqCheck n = A.eqTake n ∨ A.eqCheck n = A := by
    unfold Blk.eqCheck
    split
    · exact .inl rfl
    · exact .inr rfl
  rcases hcheck with hk | hk
  · obtain ⟨hT, regs, he⟩ := htake
    rw [hk] at hsingle
    have hN : ∀ a, a ≠ LAN_EQ n → cntWord a = false → (A.eqTake n).reg a = s.reg a := fun a ha hw => hT.2.2.2.2.1 a hw ha
    obtain ⟨h1, h2⟩ := hgo (A.eqTake n) (by rw [he]; exact hlane)
      (hN _ (by simp only [LAN_STATUS, LAN_EQ]; omega) (lan_low hn (by simp only [LAN_STATUS]; omega)))
      (hN _ (by simp only [LAN_CFG, LAN_EQ]; omega) (lan_low hn (by simp only [LAN_CFG]; omega)))
    obtain ⟨x, hx⟩ := hsingle h1 h2
    have htr : (A.eqTake n).trm.held = [] := by rw [he]; exact htrm'
    rw [hx]
    generalize A.eqTake n = c at *
    have hnil : (c.setLane n { c.lane n with rx := x }).held = [] := hT.1
    rw [Blk.rxEvent, Blk.eqTake_of_held_nil hnil, hdue (c.setLane n { c.lane n with rx := x }) htr]
    exact hT.setLane
  · rw [hk] at hsingle
    obtain ⟨h1, h2⟩ := hgo A hlane hstate hcfg
    obtain ⟨x, hx⟩ := hsingle h1 h2
    rw [hx]
    have h3 : s.EqTaken ((A.setLane n { A.lane n with rx := x }).eqTake n) n v ∧
        ∃ regs, (A.setLane n { A.lane n with rx := x }).eqTake n = { A.setLane n { A.lane n with rx := x } with regs := regs, held := [] } :=
      Blk.eqTake_one hh' ((Blk.fb_put _).trans hc') hF.put ((Blk.f_put _).trans hpk)
    obtain ⟨hT, regs, he⟩ := h3
    have htr : ((A.setLane n { A.lane n with rx := x }).eqTake n).trm.held = [] := by rw [he]; exact htrm'
    rw [Blk.rxEvent, hdue _ htr]
    exact hT

/-! ### Eye scans (R329, R330) -/

/-- The words of a request. -/
def eyeWord (a : Nat) : Prop := a = LAN_EYE_CTRL ∨ a = LAN_EYE_STATUS

/-- What a request with GO shows of itself before it is taken or refused. -/
def Blk.eyeAsked (s : Blk) (w : Word) : Blk := (s.setF LAN_EYE_CTRL_DWELL_LOG2 (bits w.toNat 15 12)).setF LAN_EYE_CTRL_LANE (bits w.toNat 5 0)

theorem Blk.eyeAsked_spec (s : Blk) (w : Word) : s.OnlyRegs (s.eyeAsked w) eyeWord ∧ (s.eyeAsked w).f LAN_EYE_CTRL_LANE = w.toNat % 64 ∧
    (s.eyeAsked w).f LAN_EYE_CTRL_DWELL_LOG2 = w.toNat / 4096 % 16 ∧ ∀ a, a ≠ LAN_EYE_CTRL → (s.eyeAsked w).reg a = s.reg a := by
  have hO : s.OnlyRegs (s.eyeAsked w) (· = LAN_EYE_CTRL) := ((Blk.OnlyRegs.refl s (· = LAN_EYE_CTRL)).setF (x := LAN_EYE_CTRL_DWELL_LOG2) rfl).setF (x := LAN_EYE_CTRL_LANE) rfl
  refine ⟨⟨hO.1, fun a ha => hO.2 a fun g => ha (.inl g)⟩, ?_, ?_, hO.2⟩
  · refine (Blk.f_setF_same _ _ _ (by decide) (by decide)).trans ?_
    simp only [bits]
    omega
  · refine (Blk.f_setF_ne _ _ _ _ (by decide) (by decide) (by decide) (by decide)).trans ((Blk.f_setF_same _ _ _ (by decide) (by decide)).trans ?_)
    simp only [bits]
    omega

/-- A scan of a lane in TRAIN or RECOVER starts. -/
theorem eyeScanGo_starts {n : Nat} {w : Word} (hn : n < 44) (hsc : s.scan = none) (hgo : bitOf w.toNat 23 = true) (hw : w.toNat % 64 = n)
    (hst : s.laneState n = 1 ∨ s.laneState n = 3) :
    (eyeScanGo w s).fb LAN_EYE_STATUS_BUSY = true ∧ (eyeScanGo w s).fb LAN_EYE_STATUS_ABORTED = false ∧ (eyeScanGo w s).f LAN_EYE_STATUS_POINTS = 0 ∧
      (∃ x, (eyeScanGo w s).scan = some x ∧ x.lane = n ∧ x.st = s.laneState n ∧ x.start = s.now ∧ x.dwell = w.toNat / 4096 % 16 ∧
        x.aborted = false ∧ x.refused = false ∧ x.began = (if s.laneState n = 1 ∧ (s.lane n).swept = false then none else some s.now)) ∧
      s.Frame (eyeScanGo w s) eyeWord := by
  obtain ⟨hO, h1, h2, h3⟩ := s.eyeAsked_spec w
  unfold eyeScanGo
  extract_lets c m st ok rej d began
  have hc : c = s.eyeAsked w := rfl
  rw [← hc] at hO h1 h2 h3
  have hm : m = n := h1.trans hw
  have hF : s.Frame c eyeWord := ⟨hO.regsBut, hO.calm⟩
  have hstate : st = s.laneState n := by
    rw [show st = c.laneState m from rfl, hm]
    exact Blk.f_of_reg (h3 _ (by simp only [LAN_STATUS, LAN_EYE_CTRL]; omega))
  have hlane : c.lane m = s.lane n := by rw [hm]; rfl
  have hnow : c.now = s.now := rfl
  have hscan : c.scan = none := hsc
  clear_value c
  have hok : ok = true := by
    show (decide (m < 44) && (st == 1 || st == 3 || (st == 2 && c.allIdle))) = true
    rw [hm, hstate, decide_eq_true hn]
    rcases hst with h | h <;> rw [h] <;> rfl
  clear_value m st ok
  subst hm hstate hok
  rw [hgo, if_neg (by decide)]
  simp only [hscan]
  rw [if_neg (by decide)]
  have hFd : s.Frame d eyeWord := ((hF.setF (x := LAN_EYE_STATUS_BUSY) (.inr rfl)).setF (x := LAN_EYE_STATUS_ABORTED) (.inr rfl)).setF (x := LAN_EYE_STATUS_POINTS) (.inr rfl)
  have hb : d.fb LAN_EYE_STATUS_BUSY = true := (Blk.fb_setF_ne _ _ _ _ (by decide) (by decide) (by decide) (by decide)).trans
    ((Blk.fb_setF_bit _ _ _ (by decide)).trans (Blk.fb_setF_bit_same _ _ (by decide)))
  have ha : d.fb LAN_EYE_STATUS_ABORTED = false := (Blk.fb_setF_ne _ _ _ _ (by decide) (by decide) (by decide) (by decide)).trans
    (Blk.fb_setF_bit_same _ _ (by decide))
  have hp : d.f LAN_EYE_STATUS_POINTS = 0 := (Blk.f_setF_same _ _ _ (by decide) (by decide)).trans (Nat.zero_mod _)
  have hdw : d.f LAN_EYE_CTRL_DWELL_LOG2 = w.toNat / 4096 % 16 :=
    (Blk.f_setF_ne _ _ _ _ (by decide) (by decide) (by decide) (by decide)).trans ((Blk.f_setF_ne _ _ _ _ (by decide) (by decide) (by decide) (by decide)).trans
      ((Blk.f_setF_ne _ _ _ _ (by decide) (by decide) (by decide) (by decide)).trans h2))
  have hdl : d.lane m = s.lane m := by
    refine (congrArg (fun g : List (Nat × Lane) => Tab.get (fun _ => Lane.init) g m) ?_).trans hlane
    show (((c.setF LAN_EYE_STATUS_BUSY 1).setF LAN_EYE_STATUS_ABORTED 0).setF LAN_EYE_STATUS_POINTS 0).lanes = c.lanes
    rw [Blk.setF_lanes, Blk.setF_lanes, Blk.setF_lanes]
  have hdn : d.now = s.now := by
    show (((c.setF LAN_EYE_STATUS_BUSY 1).setF LAN_EYE_STATUS_ABORTED 0).setF LAN_EYE_STATUS_POINTS 0).now = s.now
    rw [Blk.setF_now, Blk.setF_now, Blk.setF_now, hnow]
  have hbegan : began = if s.laneState m = 1 ∧ (s.lane m).swept = false then none else some s.now := by
    show (if s.laneState m = 1 ∧ (!(d.lane m).swept) = true then none else some d.now) = _
    rw [hdl, hdn]
    simp only [Bool.not_eq_true']
  clear_value d began
  exact ⟨(Blk.fb_put _).trans hb, (Blk.fb_put _).trans ha, (Blk.f_put _).trans hp, ⟨_, rfl, rfl, rfl, hdn, hdw, rfl, rfl, hbegan⟩, hFd.put⟩

/-- A scan of no lane is refused. -/
theorem eyeScanGo_refused {w : Word} (hsc : s.scan = none) (hgo : bitOf w.toNat 23 = true) (hw : 44 ≤ w.toNat % 64) :
    (eyeScanGo w s).fb LAN_EYE_STATUS_REJ = true ∧ s.OnlyRegs (eyeScanGo w s) eyeWord := by
  obtain ⟨hO, h1, -, -⟩ := s.eyeAsked_spec w
  unfold eyeScanGo
  extract_lets c m st ok rej d began
  have hc : c = s.eyeAsked w := rfl
  rw [← hc] at hO h1
  have hscan : c.scan = none := hsc
  have hok : ok = false := by
    show (decide (m < 44) && _) = false
    rw [decide_eq_false (by rw [show m = c.f LAN_EYE_CTRL_LANE from rfl, h1]; omega)]
    rfl
  clear_value c m st ok
  subst hok
  rw [hgo, if_neg (by decide)]
  simp only [hscan]
  rw [if_pos (by decide)]
  exact ⟨Blk.fb_setF_bit_same _ _ (by decide), hO.setF (x := LAN_EYE_STATUS_REJ) (.inr rfl)⟩

theorem Blk.scanAbort_spec {x : Scan} (hx : s.scan = some x) (ha : x.aborted = false) :
    s.scanAbort.fb LAN_EYE_STATUS_ABORTED = true ∧ s.scanAbort.scan = some { x with aborted := true, stop := s.now } ∧
      s.Frame s.scanAbort (· = LAN_EYE_STATUS) := by
  have he : s.scanAbort = { s.setF LAN_EYE_STATUS_ABORTED 1 with scan := some { x with aborted := true, stop := s.now } } := by
    unfold Blk.scanAbort
    simp only [hx, ha]
    rfl
  rw [he]
  have hb : (s.setF LAN_EYE_STATUS_ABORTED 1).fb LAN_EYE_STATUS_ABORTED = true := Blk.fb_setF_bit_same _ _ (by decide)
  exact ⟨(Blk.fb_put _).trans hb, rfl, ((Blk.Frame.refl s (· = LAN_EYE_STATUS)).setF (x := LAN_EYE_STATUS_ABORTED) rfl).put⟩

/-- The counts in the window. -/
theorem Blk.putPoints_spec (l : List Nat) : ∀ (k : Nat) (s : Blk), s.OnlyRegs (s.putPoints k l) (fun a => ∃ i, i < l.length ∧ a = eyePoint (k + i)) ∧
    ∀ i, i < l.length → (s.putPoints k l).rn (eyePoint (k + i)) = min 65535 (l.getD i 0) := by
  induction l with
  | nil => exact fun k s => ⟨.refl s _, fun i hi => absurd hi (Nat.not_lt_zero i)⟩
  | cons a l ih =>
    intro k s
    obtain ⟨h1, h2⟩ := ih (k + 1) (s.wn (eyePoint k) (min 65535 a))
    have hO : s.OnlyRegs (s.wn (eyePoint k) (min 65535 a)) (fun b => ∃ i, i < (a :: l).length ∧ b = eyePoint (k + i)) :=
      (Blk.OnlyRegs.refl s _).wn ⟨0, Nat.succ_pos _, rfl⟩
    refine ⟨⟨h1.1.trans ?_, fun b hb => (h1.2 b fun ⟨i, hi, e⟩ => hb ⟨i + 1, Nat.succ_lt_succ hi, by rw [e, Nat.add_right_comm, Nat.add_assoc]⟩).trans (hO.2 b hb)⟩, fun i hi => ?_⟩
    · rfl
    · cases i with
      | zero =>
        rw [Blk.putPoints, Blk.rn, h1.2 _ (by rintro ⟨i, -, e⟩; simp only [eyePoint] at e; omega), ← Blk.rn, Nat.add_zero, Blk.rn_wn_same,
          Nat.mod_eq_of_lt (by omega), List.getD_cons_zero]
      | succ i =>
        have h := h2 i (Nat.lt_of_succ_lt_succ hi)
        rw [Nat.add_assoc, Nat.add_comm 1 i] at h
        rw [List.getD_cons_succ]
        exact h

theorem bitHalfPs_pos (k : Nat) : 0 < bitHalfPs k := by
  unfold bitHalfPs
  split <;> decide

/-- The words of a scan that has measured `k` points. -/
def scanWord (k a : Nat) : Prop := a = LAN_EYE_STATUS ∨ ∃ i, i < k ∧ a = eyePoint i

/-- Counts that are measured by now: they are shown, and the rest is as it was. -/
theorem eyeScanDone_shows {n t b0 : Nat} {x : Scan} {ps : List Nat} (hn : n < 44) (hx : s.scan = some x) (ha : x.aborted = false) (hb : x.began = some b0)
    (hl : x.lane = n) (ht : ps.length * (2 ^ (16 + x.dwell) * bitHalfPs (s.laneRate n)) ≤ (max s.now t - b0) * 8000)
    (hold : s.f LAN_EYE_STATUS_POINTS ≤ ps.length) (hlen : ps.length ≤ 8192) :
    ∃ c : Blk, eyeScanDone t ps s = (if ps.length = 8192 then (c.scanShow x).scanFree x else c) ∧ c.f LAN_EYE_STATUS_POINTS = ps.length ∧ c.scan = some x ∧
      (∀ k, k < ps.length → c.rn (eyePoint k) = min 65535 (ps.getD k 0)) ∧ s.Frame c (scanWord ps.length) ∧ s.evq <+: c.evq := by
  have hF0 : s.Frame (s.advance t) (scanWord ps.length) := (Blk.Frame.refl s (scanWord ps.length)).advance
  have hsc : (s.advance t).scan = some x := (s.advance_scan t).trans hx
  have hold' : (s.advance t).f LAN_EYE_STATUS_POINTS ≤ ps.length := by rw [s.f_advance t (by decide)]; exact hold
  have htake : ps.take ((s.advance t).scanPoints x) = ps := by
    refine List.take_of_length_le ?_
    rw [Blk.scanPoints, hb, ha, hl, if_neg Bool.false_ne_true, s.now_advance, s.laneRate_advance t hn]
    refine le_min hlen ((Nat.le_div_iff_mul_le ?_).2 ht)
    exact Nat.mul_pos (Nat.two_pow_pos _) (bitHalfPs_pos _)
  have hq := s.evq_advance_prefix t
  unfold eyeScanDone
  generalize s.advance t = A at *
  simp only [hsc, htake, ha, Bool.false_or, beq_iff_eq]
  obtain ⟨hO, hr⟩ := Blk.putPoints_spec ps 0 A
  simp only [Nat.zero_add] at hO hr
  have hF1 : s.Frame (A.putPoints 0 ps) (scanWord ps.length) := hF0.trans ⟨hO.regsBut.mono fun _ => .inr, hO.calm⟩
  have hpts : (A.putPoints 0 ps).f LAN_EYE_STATUS_POINTS = A.f LAN_EYE_STATUS_POINTS :=
    Blk.f_of_reg (hO.2 _ (by rintro ⟨i, -, e⟩; simp only [eyePoint, LAN_EYE_STATUS] at e; omega))
  have hsc1 : (A.putPoints 0 ps).scan = some x := ((congrArg Blk.scan hO.1).trans rfl).trans hsc
  have hq1 : (A.putPoints 0 ps).evq = A.evq := (congrArg Blk.evq hO.1).trans rfl
  rw [← hpts] at hold'
  generalize A.putPoints 0 ps = c at *
  rw [← hpts, max_eq_right hold']
  refine ⟨c.setF LAN_EYE_STATUS_POINTS ps.length, rfl, (Blk.f_setF_same _ _ _ (by decide) (by decide)).trans (Nat.mod_eq_of_lt ?_), (Blk.setF_scan _ _ _).trans hsc1,
    fun k hk => ?_, hF1.setF (x := LAN_EYE_STATUS_POINTS) (.inl rfl), ?_⟩
  · show _ < 2 ^ 14
    omega
  · exact (Blk.rn_setF_ne _ _ _ (by simp only [eyePoint, LAN_EYE_STATUS]; omega)).trans (hr k hk)
  · rw [Blk.setF_evq, hq1]
    exact hq

/-- The end of a scan on a lane that is UP. -/
theorem Blk.scanShow_spec {c : Blk} {x : Scan} {n : Nat} (hn : n < 44) (hl : x.lane = n) (ha : x.aborted = false) (hu : c.laneState n = 2) :
    (c.scanShow x).scanFree x = c.scanShow x ∧ (c.scanShow x).fb LAN_EYE_STATUS_BUSY = false ∧ (c.scanShow x).fb LAN_EYE_STATUS_DONE = true ∧
      (c.scanShow x).f LAN_EYE_STATUS_POINTS = c.f LAN_EYE_STATUS_POINTS ∧ (c.scanShow x).scan = none ∧
      c.Raised (c.scanShow x) 0x906 n n (2 * b2n x.refused) ∧ c.Frame (c.scanShow x) (· = LAN_EYE_STATUS) := by
  have hF0 : c.Frame c.endScan (· = LAN_EYE_STATUS) := (Blk.Frame.refl c (· = LAN_EYE_STATUS)).put
  have hp0 : c.endScan.f LAN_EYE_STATUS_POINTS = c.f LAN_EYE_STATUS_POINTS := Blk.f_put _
  have hs0 : c.endScan.scan = none := rfl
  have hq0 : c.endScan.evq = c.evq := rfl
  unfold Blk.scanShow
  generalize c.endScan = e at *
  extract_lets d
  have hF : c.Frame d (· = LAN_EYE_STATUS) :=
    (hF0.setF (x := LAN_EYE_STATUS_BUSY) rfl).setF (x := LAN_EYE_STATUS_DONE) rfl
  have hb : d.fb LAN_EYE_STATUS_BUSY = false := (Blk.fb_setF_bit _ _ _ (by decide)).trans (Blk.fb_setF_bit_same _ _ (by decide))
  have hdone : d.fb LAN_EYE_STATUS_DONE = true := Blk.fb_setF_bit_same _ _ (by decide)
  have hp : d.f LAN_EYE_STATUS_POINTS = c.f LAN_EYE_STATUS_POINTS :=
    (Blk.f_setF_ne _ _ _ _ (by decide) (by decide) (by decide) (by decide)).trans
      ((Blk.f_setF_ne _ _ _ _ (by decide) (by decide) (by decide) (by decide)).trans hp0)
  have hsc : d.scan = none := by
    show ((e.setF LAN_EYE_STATUS_BUSY 0).setF LAN_EYE_STATUS_DONE 1).scan = none
    rw [Blk.setF_scan, Blk.setF_scan, hs0]
  have hq : d.evq = c.evq := by
    show ((e.setF LAN_EYE_STATUS_BUSY 0).setF LAN_EYE_STATUS_DONE 1).evq = c.evq
    rw [Blk.setF_evq, Blk.setF_evq, hq0]
  have hst : d.laneState n = 2 := (hF.1.f (x := LAN_STATUS_STATE n) (lan_low hn (by simp only [LAN_STATUS]; omega))
    (by simp only [LAN_STATUS, LAN_EYE_STATUS]; omega)).trans hu
  clear_value d
  rw [hl, ha, show b2n false = 0 from rfl, Nat.zero_add]
  have hr (y : Fld) (i j k m : Nat) : (d.raise i j k m).f y = d.f y := Blk.f_of_reg (Blk.reg_of_regs (Blk.raise_regs _ _ _ _ _) _)
  have hrb (y : Fld) (i j k m : Nat) : (d.raise i j k m).fb y = d.fb y := Blk.fb_of_reg (Blk.reg_of_regs (Blk.raise_regs _ _ _ _ _) _)
  refine ⟨?_, (hrb _ _ _ _ _).trans hb, (hrb _ _ _ _ _).trans hdone, (hr _ _ _ _ _).trans hp, (Blk.raise_scan _ _ _ _ _).trans hsc, .raise hq _ (by omega) (by omega) ?_, hF.raise⟩
  · have h2 : (d.raise 0x906 n n (2 * b2n x.refused)).laneState x.lane = 2 := by
      rw [hl]
      exact (hr _ _ _ _ _).trans hst
    unfold Blk.scanFree
    simp only [h2]
  · unfold b2n
    split <;> decide

/-- Settles O34. -/
theorem equaliserAndEye : Obligations.EqualiserAndEye := by
  unfold Obligations.EqualiserAndEye
  intro s n t hs
  have hn : n.val < 44 := n.isLt
  refine ⟨fun one zero hu hh hlow hw => ⟨fun ha => .of_on (f := laneMarginLow n t (one, zero)) rfl hs (laneMarginLow_begins hn hu hh hlow hw ha),
      fun a ha hd => .of_on (f := laneMarginLow n t (one, zero)) rfl hs (laneMarginLow_warns hn hu hh hlow hw ha hd)⟩,
    fun w => .of_on (f := lanEqWrite n w) rfl hs (lanEqWrite_spec s.blk n w), fun v line c hu hc hh htrm hsl ht hf hcmd => ?_,
    fun w hsc hgo => ⟨fun hw hst => .of_on (f := eyeScanGo w) rfl hs (eyeScanGo_starts hn hsc hgo hw hst),
      fun hw => .of_on (f := eyeScanGo w) rfl hs (eyeScanGo_refused hsc hgo hw)⟩,
    fun x hx ha => ⟨.of_on (f := fun b => b.scanAbort) rfl hs (Blk.scanAbort_spec hx ha), fun b0 ps hb hl ht hold => ⟨fun hlen => ?_, fun hlen hu => ?_⟩⟩⟩
  · have h := rxStretch_skip (t := t) hn hu hc hh htrm hsl ht hf
    rcases hcmd with rfl | rfl | rfl
    · exact .of_on (f := rxStretch n t line) rfl hs h
    · exact .of_on (f := rxStretch n t line) rfl hs h
    · exact .of_on (f := rxStretch n t line) rfl hs h
  · refine .of_on (f := eyeScanDone t ps) rfl hs ?_
    obtain ⟨c, he, h1, h2, h3, h4, -⟩ := eyeScanDone_shows hn hx ha hb hl ht hold hlen.le
    rw [he, if_neg hlen.ne]
    exact ⟨h1, h2, h3, h4⟩
  · refine .of_on (f := eyeScanDone t ps) rfl hs ?_
    obtain ⟨c, he, h1, -, h3, h4, hq⟩ := eyeScanDone_shows hn hx ha hb hl ht hold hlen.le
    have huc : c.laneState n = 2 := (h4.1.f (x := LAN_STATUS_STATE n) (lan_low hn (by simp only [LAN_STATUS]; omega)) (by
      rintro (e | ⟨i, -, e⟩)
      · simp only [LAN_STATUS, LAN_EYE_STATUS] at e
        omega
      · simp only [LAN_STATUS, eyePoint] at e
        omega)).trans hu
    obtain ⟨g0, g1, g2, g3, g4, g5, g6⟩ := Blk.scanShow_spec hn hl ha huc
    rw [he, if_pos hlen, g0]
    rw [hlen] at h1 h3 h4
    refine ⟨g1, g2, g3.trans h1, g4, fun k hk => ?_, g5.of_left hq, h4.trans (g6.mono fun _ => .inl)⟩
    exact (g6.1.rn (cntWord_low (by simp only [eyePoint]; omega)) (by simp only [eyePoint, LAN_EYE_STATUS]; omega)).trans (h3 k hk)

end Sys2Proof.Machine
end

section
/-!
PROOFS. Cameras while no page is under check and no test page runs (R198 to R203).
-/

namespace Sys2Proof.Machine

variable {r s : Blk} {p : Nat → Prop}

/-! ### Nothing to settle -/

theorem Ins.eta_regs {x : Ins} (h : x.regs = []) : { x with regs := [] } = x := by
  cases x
  simp only at h
  rw [h]

/-- No page is under check and no test page runs. -/
def Blk.Unchecked (s : Blk) : Prop := s.ins.regs = [] ∧ s.ins.tp = none

theorem Blk.Unchecked.regSettle (h : s.Unchecked) : s.regSettle = s := by
  unfold Blk.regSettle
  extract_lets regs done x t
  have hregs : regs = [] := by rw [show regs = s.ins.regs.map fun r => { r with checks := r.checks.map (s.regDecide r) } from rfl, h.1, List.map_nil]
  have ht : t = s := by
    show ({ s with ins := { s.ins with regs := regs.filter fun r => !done r } } : Blk) = s
    rw [hregs, List.filter_nil, Ins.eta_regs h.1]
  rw [hregs, List.filter_nil, List.foldl_nil, ht]

theorem Blk.Unchecked.tpSettle (h : s.Unchecked) (c : Nat) : s.tpSettle c = s := by
  unfold Blk.tpSettle
  rw [h.2]

theorem Blk.Unchecked.settled (h : s.Unchecked) (c : Nat) : s.regSettle.tpSettle c = s := by rw [h.regSettle, h.tpSettle]

theorem Blk.Unchecked.of_ins (h : r.Unchecked) (e : s.ins = r.ins) : s.Unchecked := by
  rw [Blk.Unchecked, e]
  exact h

/-! ### Lost lines -/

theorem cam_low {a : Nat} (h : a < 0x0b0100) : cntWord a = false := cntWord_low (by omega)

theorem Blk.cam_advance (s : Blk) (t c : Nat) : (s.advance t).cam c = s.cam c := by rw [Blk.cam, s.advance_cams, Blk.cam]

theorem Blk.cam_of_cams {c : Nat} (h : s.cams = r.cams) : s.cam c = r.cam c := by rw [Blk.cam, h, Blk.cam]

/-- A lost line: the words of the camera that show it. -/
def lostWord (c a : Nat) : Prop := a = INS_CAM_STATUS c ∨ a = INS_CAM_LOST c

theorem Blk.camLose_spec (s : Blk) {c : Nat} (f : Nat) (hc : c < 4) (h : s.Unchecked) :
    (s.camLose c f).rn (INS_CAM_LOST c) = min (s.rn (INS_CAM_LOST c) + 1) u24max ∧ (s.camLose c f).cams = s.cams ∧ (s.camLose c f).Unchecked ∧
      (∀ i, i < 24 → i ≠ 7 → (s.camLose c f).fb ⟨INS_CAM_STATUS c, i, i⟩ = s.fb ⟨INS_CAM_STATUS c, i, i⟩) ∧ s.Frame (s.camLose c f) (lostWord c) := by
  unfold Blk.camLose
  extract_lets t hit upd
  have h0 : s.Frame (s.incSat (INS_CAM_LOST c)) (lostWord c) := (Blk.Frame.refl s _).incSat (.inr rfl)
  have h1 : s.Frame ((s.incSat (INS_CAM_LOST c)).setF (INS_CAM_STATUS_LOST_LINES c) 1) (lostWord c) := h0.setF (x := INS_CAM_STATUS_LOST_LINES c) (.inl rfl)
  have hn : ((s.incSat (INS_CAM_LOST c)).setF (INS_CAM_STATUS_LOST_LINES c) 1).rn (INS_CAM_LOST c) = min (s.rn (INS_CAM_LOST c) + 1) u24max :=
    (Blk.rn_setF_ne _ _ _ (by simp only [INS_CAM_STATUS, INS_CAM_LOST]; omega)).trans (s.rn_incSat_same _)
  have hb (i : Nat) (hi : i < 24) (h7 : i ≠ 7) :
      ((s.incSat (INS_CAM_LOST c)).setF (INS_CAM_STATUS_LOST_LINES c) 1).fb ⟨INS_CAM_STATUS c, i, i⟩ = s.fb ⟨INS_CAM_STATUS c, i, i⟩ := by
    rw [Blk.fb_setF_bit _ _ _ ⟨by decide, hi, h7.symm⟩, Blk.fb, Blk.f_incSat_ne _ (by simp only [INS_CAM_STATUS, INS_CAM_LOST]; omega), Blk.fb]
  have hcams : ((s.incSat (INS_CAM_LOST c)).setF (INS_CAM_STATUS_LOST_LINES c) 1).cams = s.cams := (Blk.setF_cams _ _ _).trans rfl
  have hins : ((s.incSat (INS_CAM_LOST c)).setF (INS_CAM_STATUS_LOST_LINES c) 1).ins = s.ins := (Blk.setF_ins _ _ _).trans rfl
  have ht : t = ((s.incSat (INS_CAM_LOST c)).setF (INS_CAM_STATUS_LOST_LINES c) 1).count (0x64 + c) := rfl
  clear_value t
  generalize (s.incSat (INS_CAM_LOST c)).setF (INS_CAM_STATUS_LOST_LINES c) 1 = u at *
  have hlow {a : Nat} (ha : a < 0x0b0100) : t.reg a = u.reg a := by rw [ht]; exact (Blk.RegsBut.refl u (fun _ => False)).count a (cam_low ha) not_false
  have hti : t.ins = s.ins := by rw [ht, Blk.count_ins, hins]
  have htc : t.cams = s.cams := by rw [ht, Blk.count_cams, hcams]
  have h2 : s.Frame t (lostWord c) := ht ▸ h1.count
  have hmap : t.ins.regs.map upd = [] := by rw [hti, h.1, List.map_nil]
  rw [hmap]
  refine ⟨(Blk.rn_put _).trans ((Blk.rn_of_reg (hlow (by simp only [INS_CAM_LOST]; omega))).trans hn), htc, ⟨rfl, ?_⟩,
    fun i hi h7 => (Blk.fb_put _).trans ((Blk.fb_of_reg (hlow (by simp only [INS_CAM_STATUS]; omega))).trans (hb i hi h7)), h2.put⟩
  rw [← h.2, ← hti]

/-! ### Heartbeats (R198, R200) -/

theorem Blk.camState_advance (s : Blk) (t : Nat) {c : Nat} (hc : c < 4) : (s.advance t).camState c = s.camState c :=
  s.f_advance t (cam_low (by simp only [INS_CAM_STATUS]; omega))

theorem cameraHeartbeat_first {c t : Nat} (hc : c < 4) (h1 : s.camState c = 1) :
    (cameraHeartbeat c t s).out = .camBeat c (max s.now t) :: s.out ∧ (cameraHeartbeat c t s).camState c = 2 ∧
      ((cameraHeartbeat c t s).cam c).lastHeard = max s.now t ∧ ((cameraHeartbeat c t s).cam c).cmp = none ∧ ((cameraHeartbeat c t s).cam c).queue = [] ∧
      s.Raised (cameraHeartbeat c t s) 0x504 c c (s.f (INS_CAM_CFG_FORMAT c)) ∧ s.Frame (cameraHeartbeat c t s) (· = INS_CAM_STATUS c) := by
  have hF0 : s.Frame (s.advance t) (· = INS_CAM_STATUS c) := (Blk.Frame.refl s (· = INS_CAM_STATUS c)).advance
  have hst := (s.camState_advance t hc).trans h1
  have hnow := s.now_advance t
  have hout := s.advance_out t
  have hq := s.evq_advance_prefix t
  have hfmt : (s.advance t).f (INS_CAM_CFG_FORMAT c) = s.f (INS_CAM_CFG_FORMAT c) := s.f_advance t (cam_low (by simp only [INS_CAM_CFG]; omega))
  have hlt := s.f_lt (INS_CAM_CFG_FORMAT c)
  change _ < 2 ^ 1 at hlt
  unfold cameraHeartbeat
  generalize s.advance t = a at *
  extract_lets a' x b y d
  have hbs : b.camState c = 1 := (Blk.f_put _).trans hst
  have hFb : s.Frame b (· = INS_CAM_STATUS c) := (hF0.put).put
  have hbo : b.out = .camBeat c (max s.now t) :: s.out := by
    rw [← hnow, ← hout]
    rfl
  have hbq : b.evq = a.evq := rfl
  have hbc : b.cam c = { a.cam c with lastHeard := a.now } := a.cam_setCam_same c _
  have hbf : b.f (INS_CAM_CFG_FORMAT c) = s.f (INS_CAM_CFG_FORMAT c) := (Blk.f_put _).trans hfmt
  rw [if_neg (by rw [hst]; decide), if_pos hbs]
  clear_value b
  have hF1 : s.Frame (b.setF (INS_CAM_STATUS_STATE c) 2) (· = INS_CAM_STATUS c) := hFb.setF (x := INS_CAM_STATUS_STATE c) rfl
  have h2 : (b.setF (INS_CAM_STATUS_STATE c) 2).camState c = 2 := Blk.f_setF_same _ _ _ (show 0 ≤ 1 by decide) (show 1 < 24 by decide)
  have hcams : (b.setF (INS_CAM_STATUS_STATE c) 2).cam c = { a.cam c with lastHeard := a.now } := (Blk.cam_of_cams (Blk.setF_cams _ _ _)).trans hbc
  have hf2 : (b.setF (INS_CAM_STATUS_STATE c) 2).f (INS_CAM_CFG_FORMAT c) = s.f (INS_CAM_CFG_FORMAT c) :=
    (Blk.f_setF_ne _ _ _ _ (show 0 ≤ 1 by decide) (show 22 ≤ 22 by decide) (show 22 < 24 by decide)
      (.inl (by simp only [INS_CAM_CFG, INS_CAM_STATUS]; omega))).trans hbf
  have hq2 : (b.setF (INS_CAM_STATUS_STATE c) 2).evq = a.evq := (Blk.setF_evq _ _ _).trans hbq
  have ho2 : (b.setF (INS_CAM_STATUS_STATE c) 2).out = .camBeat c (max s.now t) :: s.out := (Blk.setF_out _ _ _).trans hbo
  have hd : d = (b.setF (INS_CAM_STATUS_STATE c) 2).setCam c { (b.setF (INS_CAM_STATUS_STATE c) 2).cam c with cmp := none, outst := none, queue := [] } := rfl
  clear_value d
  generalize b.setF (INS_CAM_STATUS_STATE c) 2 = e at *
  have hF3 : s.Frame d (· = INS_CAM_STATUS c) := by rw [hd]; exact hF1.put
  have hd2 : d.camState c = 2 := by rw [hd]; exact (Blk.f_put _).trans h2
  have hdc : d.cam c = { e.cam c with cmp := none, outst := none, queue := [] } := by rw [hd]; exact e.cam_setCam_same c _
  have hdf : d.f (INS_CAM_CFG_FORMAT c) = s.f (INS_CAM_CFG_FORMAT c) := by rw [hd]; exact (Blk.f_put _).trans hf2
  have hdq : d.evq = a.evq := by rw [hd]; exact hq2
  have hdo : d.out = .camBeat c (max s.now t) :: s.out := by rw [hd]; exact ho2
  have hdl : (d.cam c).lastHeard = max s.now t := by rw [hdc, ← hnow]; exact congrArg Cam.lastHeard hcams
  have hdcam : (d.cam c).cmp = none ∧ (d.cam c).queue = [] := by rw [hdc]; exact ⟨rfl, rfl⟩
  clear hd hdc
  rw [hdf]
  refine ⟨hdo, (Blk.f_of_reg (Blk.reg_of_regs (Blk.raise_regs _ _ _ _ _) _)).trans hd2, hdl, hdcam.1, hdcam.2, ?_, hF3.raise⟩
  exact (Blk.raised_raise d _ (by omega) (by omega) (by omega)).of_left (by rw [hdq]; exact hq)

/-! ### A camera that is lost (R200) -/

theorem Blk.camDown_spec {c k : Nat} (hc : c < 4) (hk : k < 2 ^ 24) (hu : s.camState c = 2) (ho : (s.cam c).outst = none) (h : s.Unchecked) :
    (s.camDown c k).camState c = 1 ∧ ((s.camDown c k).cam c).cmp = none ∧ ((s.camDown c k).cam c).queue = [] ∧ s.Raised (s.camDown c k) 0x503 c c k ∧
      s.Frame (s.camDown c k) (· = INS_CAM_STATUS c) := by
  have hup : s.camUp c = true := by rw [Blk.camUp, hu]; rfl
  have he : s.camDown c k = ((((s.setF (INS_CAM_STATUS_STATE c) 1).setCam c
      { s.cam c with cmp := none, outst := none, queue := [] }).raise 0x503 c c k).regSettle).tpSettle c := by
    unfold Blk.camDown
    rw [hup, if_neg (by decide)]
    extract_lets s' hit upd x t y u
    have hs' : s = s' := by simp only [s', ho]
    clear_value s'
    subst hs'
    have hins : ({ s.ins with regs := s.ins.regs.map upd } : Ins) = s.ins := by rw [h.1, List.map_nil, Ins.eta_regs h.1]
    have ht : t = s := by
      show ({ s with ins := { s.ins with regs := s.ins.regs.map upd } } : Blk) = s
      rw [hins]
    rw [show u = (t.setF (INS_CAM_STATUS_STATE c) 1).setCam c { t.cam c with cmp := none, outst := none, queue := [] } from rfl, ht]
  rw [he]
  have hF1 : s.Frame (s.setF (INS_CAM_STATUS_STATE c) 1) (· = INS_CAM_STATUS c) := (Blk.Frame.refl s (· = INS_CAM_STATUS c)).setF (x := INS_CAM_STATUS_STATE c) rfl
  have h1 : (s.setF (INS_CAM_STATUS_STATE c) 1).camState c = 1 := Blk.f_setF_same _ _ _ (show 0 ≤ 1 by decide) (show 1 < 24 by decide)
  have hq : (s.setF (INS_CAM_STATUS_STATE c) 1).evq = s.evq := Blk.setF_evq _ _ _
  have hi : (s.setF (INS_CAM_STATUS_STATE c) 1).ins = s.ins := Blk.setF_ins _ _ _
  generalize s.setF (INS_CAM_STATUS_STATE c) 1 = a at *
  have hF2 : s.Frame (a.setCam c { s.cam c with cmp := none, outst := none, queue := [] }) (· = INS_CAM_STATUS c) := hF1.put
  have h2 : (a.setCam c { s.cam c with cmp := none, outst := none, queue := [] }).camState c = 1 := (Blk.f_put _).trans h1
  have hq2 : (a.setCam c { s.cam c with cmp := none, outst := none, queue := [] }).evq = s.evq := hq
  have hi2 : (a.setCam c { s.cam c with cmp := none, outst := none, queue := [] }).ins = s.ins := hi
  have hcam : (a.setCam c { s.cam c with cmp := none, outst := none, queue := [] }).cam c = { s.cam c with cmp := none, outst := none, queue := [] } :=
    a.cam_setCam_same c _
  generalize a.setCam c { s.cam c with cmp := none, outst := none, queue := [] } = b at *
  rw [Blk.Unchecked.settled (s := b.raise 0x503 c c k) (h.of_ins hi2)]
  exact ⟨(Blk.f_of_reg (Blk.reg_of_regs (Blk.raise_regs _ _ _ _ _) _)).trans h2, congrArg Cam.cmp hcam, congrArg Cam.queue hcam,
    .raise hq2 _ (by omega) (by omega) hk, hF2.raise⟩

theorem cameraLost_spec {c t : Nat} {lane : Bool} (hc : c < 4) (hu : s.camState c = 2) (ho : (s.cam c).outst = none) (h : s.Unchecked)
    (hl : lane = true ∨ (s.cam c).lastHeard + 25000 * max 1 (s.f (INS_CAM_TIMING_HB_TO c)) ≤ max s.now t) :
    (cameraLost c t lane s).camState c = 1 ∧ ((cameraLost c t lane s).cam c).cmp = none ∧ ((cameraLost c t lane s).cam c).queue = [] ∧
      s.Raised (cameraLost c t lane s) 0x503 c c (b2n lane) ∧ s.Frame (cameraLost c t lane s) (· = INS_CAM_STATUS c) := by
  have hk : b2n lane < 2 ^ 24 := by cases lane <;> decide
  have he : cameraLost c t lane s = (s.advance t).camDown c (b2n lane) := by
    unfold cameraLost
    cases lane with
    | true => rfl
    | false =>
      have hle := hl.resolve_left Bool.false_ne_true
      rw [if_neg Bool.false_ne_true]
      refine if_pos ?_
      rw [Blk.cam_advance, s.f_advance t (cam_low (by simp only [INS_CAM_TIMING]; omega)), s.now_advance]
      exact hle
  obtain ⟨h1, h2, h3, h4, h5⟩ := Blk.camDown_spec hc hk ((s.camState_advance t hc).trans hu) ((congrArg Cam.outst (s.cam_advance t c)).trans ho)
    (h.of_ins (s.advance_ins t))
  rw [he]
  exact ⟨h1, h2, h3, h4.of_left (s.evq_advance_prefix t), ((Blk.Frame.refl s (· = INS_CAM_STATUS c)).advance).trans h5⟩

/-! ### Triggers and lines (R201 to R203) -/

/-- A camera whose compare at `q` has been reached in the POS clock at hand (R202). -/
def Blk.camFired (s : Blk) (c : Nat) (q : Int) : Cam :=
  { s.cam c with outst := some ((s.cam c).nextFire, s.now, q256 q), cmp := some (q + s.camDiv c * s.pitch), nextFire := (s.cam c).nextFire + s.camDiv c }

theorem cameraTrigger_spec {c t : Nat} {q : Int} (hq : (s.cam c).cmp = some q) (hu : s.camState c = 2) (hsh : s.shuttle = false) (hrun : s.running = true)
    (hh : s.lckHold = false) (ht : t ≤ s.now) (hd : s.lineDelta ≠ none) (hp : q256 q ≤ s.lineP + leadOf (s.f (INS_CAM_LEAD_NS c)) s.lineDelta)
    (ho : (s.cam c).outst = none) (h : s.Unchecked) :
    (cameraTrigger c t s).out = .cam c (s.f (INS_CAM_CFG_PULSE_CH c)) (s.cam c).nextFire s.now :: s.out ∧
      (cameraTrigger c t s).cam c = s.camFired c q ∧
      s.Frame (cameraTrigger c t s) (fun _ => False) := by
  have hup : s.camUp c = true := by rw [Blk.camUp, hu]; rfl
  have hgo : (!s.camUp c || s.shuttle || !s.running || s.lckHold || s.lineDelta.isNone ||
      decide (s.lineP + leadOf (s.f (INS_CAM_LEAD_NS c)) s.lineDelta < q256 q)) = false := by
    rw [hup, hsh, hrun, hh, decide_eq_false (not_lt.2 hp), Option.isNone_eq_false_iff.2 (Option.isSome_iff_ne_none.2 hd)]
    rfl
  have he : cameraTrigger c t s = (((s.setCam c (s.camFired c q)).emit (.cam c (s.f (INS_CAM_CFG_PULSE_CH c)) (s.cam c).nextFire s.now)).regSettle).tpSettle c := by
    unfold cameraTrigger
    rw [s.advance_of_le ht]
    simp only [hq, hgo, ho]
    rw [if_neg Bool.false_ne_true]
    rfl
  rw [he]
  have hun : ((s.setCam c (s.camFired c q)).emit (.cam c (s.f (INS_CAM_CFG_PULSE_CH c)) (s.cam c).nextFire s.now)).Unchecked := h
  rw [hun.settled]
  exact ⟨rfl, (Blk.cam_of_cams (r := s.setCam c (s.camFired c q)) rfl).trans (s.cam_setCam_same c _), ((Blk.Frame.refl s _).put).put⟩

/-- A line heard while the camera is UP and owed one, not too early: what is left is to check its width. -/
theorem cameraLine_heard {c t f t0 : Nat} {q : Int} {bs : List Byte} (hc : c < 4) (hx : (s.cam c).outst = some (f, t0, q)) (hu : s.camState c = 2)
    (ht : s.underTest 11 = false) (hm : t0 + 25 * s.f (INS_CAM_TIMING_MIN_LAT c) ≤ max s.now t) :
    ∃ d : Blk, d.cam c = { s.cam c with lastHeard := max s.now t, outst := none } ∧ d.ins = s.ins ∧ s.Frame d (fun _ => False) ∧ d.evq = (s.advance t).evq ∧
      cameraLine c t bs s = if bs.length ≠ (if s.f (INS_CAM_CFG_FORMAT c) = 0 then 1 else 3) * s.camWidth c then
          (((d.setF (INS_CAM_STATUS_WIDTH_ERR c) 1).camLose c f).regSettle).tpSettle c
        else if 2 ≤ (s.cam c).queue.length then ((d.camLose c f).regSettle).tpSettle c
        else d.setCam c { d.cam c with queue := (s.cam c).queue ++ [(f, q, s.pixels c bs)] } := by
  have hF0 : s.Frame (s.advance t) (fun _ => False) := (Blk.Frame.refl s (fun _ => False)).advance
  have hup : (s.advance t).camUp c = true := by rw [Blk.camUp, s.camState_advance t hc, hu]; rfl
  have hnow := s.now_advance t
  have hcam : (s.advance t).cam c = s.cam c := s.cam_advance t c
  have hins := s.advance_ins t
  have hf (x : Fld) (hx : x.addr < 0x0b0100) : (s.advance t).f x = s.f x := s.f_advance t (cam_low hx)
  have hw : (s.advance t).camWidth c = s.camWidth c := s.rn_advance t (cam_low (by simp only [INS_CAM_WIDTH]; omega))
  have ht' : (s.advance t).underTest 11 = false := by rw [Blk.underTest, s.fb_advance t (by decide), s.f_advance t (by decide)]; exact ht
  have hpix : (s.advance t).pixels c bs = s.pixels c bs := by
    rw [Blk.pixels, hf (INS_CAM_CFG_FORMAT c) (by simp only [INS_CAM_CFG]; omega), hf (INS_CAM_CFG_CHAN c) (by simp only [INS_CAM_CFG]; omega), Blk.pixels]
  have hfmt := hf (INS_CAM_CFG_FORMAT c) (by simp only [INS_CAM_CFG]; omega)
  have hlat := hf (INS_CAM_TIMING_MIN_LAT c) (by simp only [INS_CAM_TIMING]; omega)
  unfold cameraLine
  generalize s.advance t = a at *
  extract_lets y0 a' y b x n d z
  have hb : b.cam c = { s.cam c with lastHeard := max s.now t } := by
    rw [← hcam, ← hnow]
    exact a.cam_setCam_same c _
  have hbF : s.Frame b (fun _ => False) := hF0.put
  have hbi : b.ins = s.ins := hins
  have hbq : b.evq = a.evq := rfl
  have hbf (z : Fld) : b.f z = a.f z := Blk.f_put z
  have hbw : b.camWidth c = s.camWidth c := (Blk.rn_put _).trans hw
  have hbt : b.underTest 11 = false := ht'
  have hbn : b.now = max s.now t := hnow
  have hbp : b.pixels c bs = s.pixels c bs := hpix
  have hxx : x = b.cam c := rfl
  rw [if_neg (by rw [hup]; decide)]
  clear_value b x
  have hxo : x.outst = some (f, t0, q) := by rw [hxx, hb]; exact hx
  simp only [hxo, hbt]
  rw [if_neg Bool.false_ne_true, if_neg (by rw [hbf, hlat, hbn]; exact Nat.not_lt.2 hm)]
  have hn : n = if s.f (INS_CAM_CFG_FORMAT c) = 0 then 1 else 3 := by
    show (if b.f (INS_CAM_CFG_FORMAT c) = 0 then 1 else 3) = _
    rw [hbf, hfmt]
  have hqx : x.queue = (s.cam c).queue := by rw [hxx, hb]
  have hdw : d.camWidth c = s.camWidth c := (Blk.rn_put _).trans hbw
  have hdp : d.pixels c bs = s.pixels c bs := hbp
  have hh : d.cam c = { x with outst := none } := b.cam_setCam_same c _
  refine ⟨d, by rw [hh, hxx, hb], hbi, hbF.put, hbq, ?_⟩
  rw [hn, hqx, hdw, hdp]

theorem cameraLine_joins {c t f t0 : Nat} {q : Int} {bs : List Byte} (hc : c < 4) (hx : (s.cam c).outst = some (f, t0, q)) (hu : s.camState c = 2)
    (ht : s.underTest 11 = false) (hm : t0 + 25 * s.f (INS_CAM_TIMING_MIN_LAT c) ≤ max s.now t)
    (hw : bs.length = (if s.f (INS_CAM_CFG_FORMAT c) = 0 then 1 else 3) * s.camWidth c) (hl : (s.cam c).queue.length < 2) :
    ((cameraLine c t bs s).cam c).queue = (s.cam c).queue ++ [(f, q, s.pixels c bs)] ∧ ((cameraLine c t bs s).cam c).outst = none ∧
      ((cameraLine c t bs s).cam c).lastHeard = max s.now t ∧ s.Frame (cameraLine c t bs s) (fun _ => False) := by
  obtain ⟨d, hd, -, hF, -, he⟩ := cameraLine_heard (bs := bs) hc hx hu ht hm
  rw [he, if_neg (fun g => g hw), if_neg (Nat.not_le.2 hl)]
  have hh : (d.setCam c { d.cam c with queue := (s.cam c).queue ++ [(f, q, s.pixels c bs)] }).cam c =
    { d.cam c with queue := (s.cam c).queue ++ [(f, q, s.pixels c bs)] } := d.cam_setCam_same c _
  rw [hh, hd]
  exact ⟨rfl, rfl, rfl, hF.put⟩

theorem cameraLine_wide {c t f t0 : Nat} {q : Int} {bs : List Byte} (hc : c < 4) (hx : (s.cam c).outst = some (f, t0, q)) (hu : s.camState c = 2)
    (ht : s.underTest 11 = false) (hm : t0 + 25 * s.f (INS_CAM_TIMING_MIN_LAT c) ≤ max s.now t)
    (hw : bs.length ≠ (if s.f (INS_CAM_CFG_FORMAT c) = 0 then 1 else 3) * s.camWidth c) (h : s.Unchecked) :
    (cameraLine c t bs s).fb (INS_CAM_STATUS_WIDTH_ERR c) = true ∧ (cameraLine c t bs s).rn (INS_CAM_LOST c) = min (s.rn (INS_CAM_LOST c) + 1) u24max ∧
      ((cameraLine c t bs s).cam c).queue = (s.cam c).queue ∧ ((cameraLine c t bs s).cam c).outst = none ∧
      s.Frame (cameraLine c t bs s) (lostWord c) := by
  obtain ⟨d, hd, hi, hF, -, he⟩ := cameraLine_heard (bs := bs) hc hx hu ht hm
  rw [he, if_pos hw]
  have hF1 : s.Frame (d.setF (INS_CAM_STATUS_WIDTH_ERR c) 1) (lostWord c) := (hF.mono fun _ => False.elim).setF (x := INS_CAM_STATUS_WIDTH_ERR c) (.inl rfl)
  have hb : (d.setF (INS_CAM_STATUS_WIDTH_ERR c) 1).fb (INS_CAM_STATUS_WIDTH_ERR c) = true := Blk.fb_setF_bit_same _ _ (by decide)
  have hn : (d.setF (INS_CAM_STATUS_WIDTH_ERR c) 1).rn (INS_CAM_LOST c) = s.rn (INS_CAM_LOST c) :=
    (Blk.rn_setF_ne _ _ _ (by simp only [INS_CAM_STATUS, INS_CAM_LOST]; omega)).trans (hF.1.rn (cam_low (by simp only [INS_CAM_LOST]; omega)) not_false)
  have hcam : (d.setF (INS_CAM_STATUS_WIDTH_ERR c) 1).cam c = { s.cam c with lastHeard := max s.now t, outst := none } :=
    (Blk.cam_of_cams (Blk.setF_cams _ _ _)).trans hd
  have hun : (d.setF (INS_CAM_STATUS_WIDTH_ERR c) 1).Unchecked := h.of_ins ((Blk.setF_ins _ _ _).trans hi)
  generalize d.setF (INS_CAM_STATUS_WIDTH_ERR c) 1 = e at *
  obtain ⟨g1, g2, g3, g4, g5⟩ := e.camLose_spec f hc hun
  rw [g3.settled]
  have hc2 := (Blk.cam_of_cams (c := c) g2).trans hcam
  rw [hc2]
  exact ⟨(g4 4 (by decide) (by decide)).trans hb, by rw [g1, hn], rfl, rfl, hF1.trans g5⟩

/-- Settles O18. -/
theorem camerasAndLines : Obligations.CamerasAndLines := by
  unfold Obligations.CamerasAndLines
  intro s c t hs hr htp
  have hc : c.val < 4 := c.isLt
  have hun : s.blk.Unchecked := ⟨hr, htp⟩
  refine ⟨fun h1 => .of_on (f := cameraHeartbeat c t) rfl hs (cameraHeartbeat_first hc h1),
    fun lane hu ho hl => .of_on (f := cameraLost c t lane) rfl hs (cameraLost_spec hc hu ho hun hl),
    fun q hq hu hsh hrun hh ht hd hp ho => .of_on (f := cameraTrigger c t) rfl hs (cameraTrigger_spec hq hu hsh hrun hh ht hd hp ho hun),
    fun f t0 q bs hx hu ht hm => ⟨fun hw hl => .of_on (f := cameraLine c t bs) rfl hs (cameraLine_joins hc hx hu ht hm hw hl),
      fun hw => .of_on (f := cameraLine c t bs) rfl hs (cameraLine_wide hc hx hu ht hm hw hun)⟩,
    .of_on (f := cameraDiscard c t) rfl hs ?_, fun lv => .of_on (f := cameraGpio c t lv.toNat) rfl hs ?_⟩
  · have hF : s.blk.Frame (s.blk.advance t) (· = INS_CAM_DISCARDS c) := (Blk.Frame.refl s.blk (· = INS_CAM_DISCARDS c)).advance
    have hn : (s.blk.advance t).rn (INS_CAM_DISCARDS c) = s.blk.rn (INS_CAM_DISCARDS c) :=
      s.blk.rn_advance t (cam_low (by simp only [INS_CAM_DISCARDS]; omega))
    have hcam := s.blk.cam_advance t c
    have hnow := s.blk.now_advance t
    unfold cameraDiscard
    generalize s.blk.advance t = a at *
    rw [← hcam, ← hnow, ← hn]
    exact ⟨(Blk.rn_put _).trans (a.rn_incSat_same _), (a.incSat _).cam_setCam_same c _, (hF.incSat rfl).put⟩
  · have hF : s.blk.Frame (s.blk.advance t) (· = INS_CAM_GPIO c) := (Blk.Frame.refl s.blk (· = INS_CAM_GPIO c)).advance
    have hcam := s.blk.cam_advance t c
    have hnow := s.blk.now_advance t
    have hlv := lv.isLt
    unfold cameraGpio
    generalize s.blk.advance t = a at *
    rw [← hcam, ← hnow]
    refine ⟨(Blk.f_put _).trans ((Blk.f_setF_same _ _ _ (show 8 ≤ 15 by decide) (show 15 < 24 by decide)).trans (Nat.mod_eq_of_lt ?_)),
      (a.setF (INS_CAM_GPIO_RX c) lv.toNat).cam_setCam_same c _, (hF.setF (x := INS_CAM_GPIO_RX c) rfl).put⟩
    exact hlv

end Sys2Proof.Machine
end

section
/-!
PROOFS. Nozzle scores of a matched line, and test pages (R204, R208, R212, R220).
-/

namespace Sys2Proof.Machine

variable {r s : Blk} {p : Nat → Prop}

/-! ### What the correlator reads -/

/-- Two states that agree in what the expected store and the geometry of the heads read: the words below the power status of image memory, its bytes,
the held values and the inspection. -/
structure Blk.Inked (r s : Blk) : Prop where
  regs : ∀ a, a < 0x140005 → s.reg a = r.reg a
  mem : s.mem = r.mem
  held : s.held = r.held
  ins : s.ins = r.ins

namespace Blk.Inked

theorem rn (h : r.Inked s) {a : Nat} (ha : a < 0x140005) : s.rn a = r.rn a := Blk.rn_of_reg (h.regs a ha)

theorem f (h : r.Inked s) {x : Fld} (hx : x.addr < 0x140005) : s.f x = r.f x := Blk.f_of_reg (h.regs _ hx)

theorem fb (h : r.Inked s) {x : Fld} (hx : x.addr < 0x140005) : s.fb x = r.fb x := Blk.fb_of_reg (h.regs _ hx)

theorem memRead (h : r.Inked s) (a : Nat) : s.memRead a = r.memRead a := by rw [Blk.memRead, h.mem, Blk.memRead]

theorem head (h : r.Inked s) {k : Nat} (hk : k < 32) : s.npr k = r.npr k ∧ s.rows k = r.rows k ∧ s.slots k = r.slots k ∧ s.headOn k = r.headOn k := by
  have ha : CMP_HEAD_CFG k < 0x140005 := by simp only [CMP_HEAD_CFG]; omega
  have h1 : s.npr k = r.npr k := congrArg (· + 1) (h.f (x := CMP_HEAD_CFG_NPR_M1 k) ha)
  have h2 : s.rows k = r.rows k := congrArg (· + 1) (h.f (x := CMP_HEAD_CFG_ROWS_M1 k) ha)
  have h3 : s.slots k = r.slots k := by rw [Blk.slots, h1, h2, Blk.slots]
  exact ⟨h1, h2, h3, by rw [Blk.headOn, h3, h.fb (x := CMP_HEAD_CFG_EN k) ha, Blk.headOn]⟩

theorem slotBase (h : r.Inked s) {k : Nat} (hk : k < 32) (i : Nat) : s.slotBase k i = r.slotBase k i := by
  have ha : CMP_HEAD_CFG k < 0x140005 := by simp only [CMP_HEAD_CFG]; omega
  have ho : CMP_HEAD_ROWOFS k < 0x140005 := by simp only [CMP_HEAD_ROWOFS]; omega
  simp only [Blk.slotBase, Blk.colOf, Blk.strideOf, Blk.rowOfs, (h.head hk).1, h.fb (x := CMP_HEAD_CFG_DIR k) ha, h.f (x := CMP_HEAD_CFG_STRIDE k) ha, h.rn ho]

theorem owner (h : r.Inked s) (x : Int) : s.owner x = r.owner x := by
  have hp (t : Nat) (ht : t < 4) :
      (s.trkEn t && decide ((s.rn (PGE_TRK_RANGE_FIRST t) : Int) ≤ x ∧ x ≤ (s.rn (PGE_TRK_RANGE_LAST t) : Int))) =
        (r.trkEn t && decide ((r.rn (PGE_TRK_RANGE_FIRST t) : Int) ≤ x ∧ x ≤ (r.rn (PGE_TRK_RANGE_LAST t) : Int))) := by
    rw [Blk.trkEn, h.fb (by simp only [PGE_TRK_CFG]; omega), h.rn (by simp only [PGE_TRK_RANGE_FIRST]; omega), h.rn (by simp only [PGE_TRK_RANGE_LAST]; omega), Blk.trkEn]
  have hfind : ([0, 1, 2, 3].find? fun t => s.trkEn t && decide ((s.rn (PGE_TRK_RANGE_FIRST t) : Int) ≤ x ∧ x ≤ (s.rn (PGE_TRK_RANGE_LAST t) : Int))) =
      [0, 1, 2, 3].find? fun t => r.trkEn t && decide ((r.rn (PGE_TRK_RANGE_FIRST t) : Int) ≤ x ∧ x ≤ (r.rn (PGE_TRK_RANGE_LAST t) : Int)) := by
    refine List.find?_congr fun t ht => hp t ?_
    simp only [List.mem_cons, List.not_mem_nil, or_false] at ht
    omega
  unfold Blk.owner
  rw [hfind]

theorem slotPos (h : r.Inked s) {k : Nat} (hk : k < 32) (i : Nat) : s.slotPos k i = r.slotPos k i := by
  have hx : CMP_HEAD_X k < 0x140005 := by simp only [CMP_HEAD_X]; omega
  have hv : s.alnVers k = r.alnVers k := by rw [Blk.alnVers, h.ins, Blk.alnVers]
  have ho : s.owner = r.owner := funext h.owner
  unfold Blk.slotPos Blk.slotPlace
  rw [hv, ho, h.slotBase hk, h.held, h.rn hx]

theorem imgRead (h : r.Inked s) (a n : Nat) : s.imgRead a n = r.imgRead a n := by
  have hc : s.capacity = r.capacity := by
    rw [Blk.capacity, h.f (x := DRM_CFG_CAP_LOG2) (by decide), h.fb (x := DRM_CFG_ECC) (by decide), Blk.capacity]
  simp only [Blk.imgRead, hc, h.memRead]

theorem expSlot (h : r.Inked s) {c : Nat} (hc : c < 4) (f : Nat) : s.expSlot c f = r.expSlot c f := by
  have hv : s.val INS_EXP_BASE 2 = r.val INS_EXP_BASE 2 := Blk.val_of_reg fun i hi => h.regs _ (by simp only [INS_EXP_BASE]; omega)
  rw [Blk.expSlot, hv, Blk.camDiv, h.f (x := INS_CAM_CFG_DIV_M1 c) (by simp only [INS_CAM_CFG]; omega), h.f (x := INS_EXP_CFG_DEPTH_LOG2) (by decide),
    Blk.expSlot, Blk.camDiv]

theorem expRec (h : r.Inked s) {c : Nat} (hc : c < 4) (f : Nat) : s.expRec c f = r.expRec c f := by rw [Blk.expRec, h.expSlot hc, h.imgRead, Blk.expRec]

theorem inkSlots (h : r.Inked s) {c : Nat} (hc : c < 4) (e : ExpRec) : s.inkSlots c e = r.inkSlots c e := by
  have hf : (List.range 32).filter s.headOn = (List.range 32).filter r.headOn :=
    List.filter_congr fun k hk => (h.head (List.mem_range.1 hk)).2.2.2
  unfold Blk.inkSlots
  rw [hf]
  split
  · rfl
  · refine List.flatMap_congr fun k hk => ?_
    have hk' : k < 32 := List.mem_range.1 (List.mem_filter.1 hk).1
    have hs := (h.head hk').2.2.1
    simp only [Blk.expCodes, h.expSlot hc, h.imgRead, hs, h.slotPos hk']

theorem correlate (h : r.Inked s) {c : Nat} (hc : c < 4) (l : List (Nat × Int × Nat)) (px : List Nat) (hl : ∀ e ∈ l, e.2.2 < 256) :
    s.correlate c l px = r.correlate c l px := by
  have hpix (u : Nat) : s.pixPos c u = r.pixPos c u := by
    rw [Blk.pixPos, h.rn (by simp only [INS_CAM_X0]; omega), h.rn (by simp only [INS_CAM_SCALE]; omega), Blk.pixPos]
  have hcov (k : Nat) (hk : k < 256) : s.codeCov k = r.codeCov k := by
    rw [Blk.codeCov, h.rn (by simp only [INS_CODE_COV]; omega), Blk.codeCov]
  have hink (x : Int) : s.ink l x = r.ink l x := by
    unfold Blk.ink
    refine congrArg (min 255) (List.foldl_ext _ _ _ fun a e he => ?_)
    rw [hcov _ (hl e (List.mem_filter.1 he).1)]
  have hL : INS_CAM_LEVELS c < 0x140005 := by simp only [INS_CAM_LEVELS]; omega
  have hC : INS_CAM_CFG c < 0x140005 := by simp only [INS_CAM_CFG]; omega
  simp only [Blk.correlate, hpix, hink, h.f (x := INS_CAM_LEVELS_WHITE c) hL, h.f (x := INS_CAM_LEVELS_BLACK c) hL, h.fb (x := INS_CAM_CFG_BLUR c) hC]

theorem massMiss (h : r.Inked s) (px : List Pix) : s.massMiss px = r.massMiss px := by
  simp only [Blk.massMiss, h.f (x := INS_MISS_CFG_MIN_EXP) (by decide), h.f (x := INS_MISS_CFG_MISS_T) (by decide), h.f (x := INS_MISS_CFG_MASS_PCT) (by decide)]

theorem expCode_lt {c f k e : Nat} (he : e ∈ s.expCodes c f k) : e < 8 := by
  rw [Blk.expCodes, bytesLine] at he
  obtain ⟨i, -, hi⟩ := List.mem_flatMap.1 (List.mem_of_mem_take he)
  obtain ⟨j, -, rfl⟩ := List.mem_map.1 hi
  exact Nat.mod_lt _ (by decide)

theorem inkSlots_code_lt {c : Nat} {e : ExpRec} : ∀ x ∈ s.inkSlots c e, x.2.2 < 256 := by
  intro x hx
  unfold Blk.inkSlots at hx
  split at hx
  · exact absurd hx List.not_mem_nil
  · obtain ⟨k, -, hk⟩ := List.mem_flatMap.1 hx
    obtain ⟨y, hy, rfl⟩ := List.mem_map.1 hk
    have hm := List.fst_mem_of_mem_zipIdx (List.mem_filter.1 hy).1
    have := expCode_lt hm
    show y.1 < 256
    omega

theorem trans {t : Blk} (h : r.Inked s) (g : s.Inked t) : r.Inked t :=
  ⟨fun a ha => (g.regs a ha).trans (h.regs a ha), g.mem.trans h.mem, g.held.trans h.held, g.ins.trans h.ins⟩

end Blk.Inked

theorem Blk.Accessed.inked (h : r.Accessed s) : r.Inked s := by
  obtain ⟨⟨regs, evq, dram, e⟩, hr, -⟩ := h
  exact ⟨fun a ha => hr a (cntWord_low (by omega)) (by simp only [memWord, DRM_PWR_STATUS, DRM_RD_STATUS]; omega), by rw [e], by rw [e], by rw [e]⟩

/-! ### Scores -/

theorem Blk.score_setScore_same (s : Blk) (q v : Nat) : (s.setScore q v).score q = v := by
  unfold Blk.setScore Blk.score
  split
  · next h =>
    subst h
    have hn : (s.ins.scores.filter fun e => e.1 != q).find? (fun e => e.1 == q) = none :=
      List.find?_eq_none.2 fun e he => by
        have := (List.mem_filter.1 he).2
        simpa using this
    rw [alook, hn]
  · exact alook_aput_same _ _ _ _

theorem Blk.score_setScore_ne (s : Blk) {q k : Nat} (v : Nat) (h : k ≠ q) : (s.setScore q v).score k = s.score k := by
  unfold Blk.setScore Blk.score
  split
  · have hf : (s.ins.scores.filter fun e => e.1 != q).find? (fun e => e.1 == k) = s.ins.scores.find? fun e => e.1 == k := by
      rw [List.find?_filter]
      refine List.find?_congr fun e _ => ?_
      by_cases he : e.1 = k <;> simp [he, h]
    rw [alook, hf, ← alook]
  · exact alook_aput_ne _ _ _ h

theorem Blk.score_of_ins (h : s.ins = r.ins) (k : Nat) : s.score k = r.score k := by rw [Blk.score, h, Blk.score]

/-! ### A matched line (R204, R206 to R211) -/

theorem Blk.regPixels_of_none (h : s.ins.regs = []) (e : ExpRec) (px : List Pix) : s.regPixels e px = s := by
  unfold Blk.regPixels
  extract_lets f upd
  have hins : ({ s.ins with regs := s.ins.regs.map upd } : Ins) = s.ins := by rw [h, List.map_nil, Ins.eta_regs h]
  rw [hins]

theorem Blk.tpSample_of_none (h : s.ins.tp = none) (c : Nat) (e : ExpRec) (l : List (Nat × Int × Nat)) (px : List Nat) : s.tpSample c e l px = s := by
  unfold Blk.tpSample
  rw [h]

theorem Ins.eta_due {x : Ins} (h : x.due = []) : { x with due := [] } = x := by
  cases x
  simp only at h
  rw [h]

/-- Without a slot at DECLARE, on this line or kept from an earlier one, nothing is declared. -/
theorem Blk.declareLine_of_none (h : s.ins.due = []) (c f : Nat) : s.declareLine c f [] = s := by
  unfold Blk.declareLine
  simp only [List.filter_nil, List.foldl_nil, h, List.append_nil, sortBy]
  rw [Ins.eta_due h]

/-- A line that waits first in the queue of a camera whose mark is not looked for: the record it meets, and what is done with it. -/
theorem cameraLineScore_matched {c f : Nat} {pos : Int} {px : List Nat} {rest : List (Nat × Int × List Nat)} (h : s.Unchecked)
    (hq : (s.cam c).queue = (f, pos, px) :: rest) (hm : (s.cam c).mark = none) :
    ∃ d : Blk, s.Inked d ∧ (d.cam c).queue = rest ∧ d.rn INS_EXP_MISS = s.rn INS_EXP_MISS ∧
      cameraLineScore c .none s =
        ((if (d.expRec c f).fire ≠ f then d.incSat INS_EXP_MISS
          else if d.massMiss (d.correlate c (d.inkSlots c (d.expRec c f)) px) then d.incSat INS_MASS_LINES
          else ((d.scoreLine (d.expRec c f) (d.inkSlots c (d.expRec c f)) (d.correlate c (d.inkSlots c (d.expRec c f)) px)).1.count (0x60 + c)).declareLine c f
            (d.scoreLine (d.expRec c f) (d.inkSlots c (d.expRec c f)) (d.correlate c (d.inkSlots c (d.expRec c f)) px)).2).regSettle).tpSettle c := by
  have hcam : (s.setCam c { s.cam c with queue := rest }).cam c = { s.cam c with queue := rest } := s.cam_setCam_same c _
  have hmark : (s.setCam c { s.cam c with queue := rest }).markLine c pos px = s.setCam c { s.cam c with queue := rest } := by
    unfold Blk.markLine
    rw [hcam]
    simp only [hm]
  have hI0 : s.Inked (s.setCam c { s.cam c with queue := rest }) := ⟨fun _ _ => Blk.reg_put _, rfl, rfl, rfl⟩
  have heccn (t : Blk) (a : Nat) : t.ecc 11 a .none = t := by
    unfold Blk.ecc
    exact ite_self _
  have hbad (t : Blk) : t.bad .none = false := by
    unfold Blk.bad
    exact Bool.and_false _
  have hA := (s.setCam c { s.cam c with queue := rest }).accessed_access 11 ((s.setCam c { s.cam c with queue := rest }).expSlot c f) 65536 false
  have he : cameraLineScore c .none s = cameraLineScore c .none s := rfl
  conv at he =>
    rhs
    unfold cameraLineScore
    simp only [hq, hmark, heccn, hbad]
  generalize s.setCam c { s.cam c with queue := rest } = b at *
  have hI := hI0.trans hA.inked
  have hcams : (b.access 11 (b.expSlot c f) 65536 false).cam c = b.cam c := by
    obtain ⟨_, _, _, e⟩ := hA.rest
    rw [e]
    rfl
  rw [he]
  generalize b.access 11 (b.expSlot c f) 65536 false = d at *
  have hr : d.ins.regs = [] := by rw [hI.ins]; exact h.1
  have ht : d.ins.tp = none := by rw [hI.ins]; exact h.2
  refine ⟨d, hI, by rw [hcams, hcam], hI.rn (by decide), ?_⟩
  simp only [Blk.regPixels_of_none hr, Blk.tpSample_of_none ht, Bool.false_eq_true, or_false]

theorem cameraLineScore_missing {c f : Nat} {pos : Int} {px : List Nat} {rest : List (Nat × Int × List Nat)} (hc : c < 4) (h : s.Unchecked)
    (hq : (s.cam c).queue = (f, pos, px) :: rest) (hm : (s.cam c).mark = none) (hf : (s.expRec c f).fire ≠ f) :
    ((cameraLineScore c .none s).cam c).queue = rest ∧ (cameraLineScore c .none s).rn INS_EXP_MISS = min (s.rn INS_EXP_MISS + 1) u24max ∧
      (cameraLineScore c .none s).ins = s.ins ∧ ∀ a, (cameraLineScore c .none s).memRead a = s.memRead a := by
  obtain ⟨d, hI, hd, hn, he⟩ := cameraLineScore_matched h hq hm
  have hun : (d.incSat INS_EXP_MISS).Unchecked := h.of_ins hI.ins
  rw [he, hI.expRec hc, if_pos hf, hun.settled]
  exact ⟨hd, by rw [d.rn_incSat_same, hn], hI.ins, hI.memRead⟩

/-- The score of the one slot that was asked to fire. -/
theorem cameraLineScore_scored {c f q code v : Nat} {pos x : Int} {px : List Nat} {rest : List (Nat × Int × List Nat)} (hc : c < 4)
    (h : s.Unchecked) (hdue : s.ins.due = []) (hq : (s.cam c).queue = (f, pos, px) :: rest) (hm : (s.cam c).mark = none)
    (hf : (s.expRec c f).fire = f) (hink : s.inkSlots c (s.expRec c f) = [(q, x, code)])
    (hmass : s.massMiss (s.correlate c [(q, x, code)] px) = false)
    (hv : ∀ d : Blk, s.Inked d → d.scoreLine (s.expRec c f) [(q, x, code)] (s.correlate c [(q, x, code)] px) = (d.setScore q v, [])) :
    ((cameraLineScore c .none s).cam c).queue = rest ∧ (cameraLineScore c .none s).score q = v ∧
      ∀ k, k ≠ q → (cameraLineScore c .none s).score k = s.score k := by
  obtain ⟨d, hI, hd, -, he⟩ := cameraLineScore_matched h hq hm
  have hlt : ∀ e ∈ [(q, x, code)], e.2.2 < 256 := by
    rw [← hink]
    exact Blk.Inked.inkSlots_code_lt
  rw [hI.expRec hc, hI.inkSlots hc, hink, hI.correlate hc _ _ hlt, hI.massMiss, hmass, if_neg (fun k => k hf), if_neg Bool.false_ne_true, hv d hI] at he
  have hins : ((d.setScore q v).count (0x60 + c)).ins = (d.setScore q v).ins := by rw [Blk.count_ins]
  have hdue2 : ((d.setScore q v).count (0x60 + c)).ins.due = [] := by rw [hins, ← hdue, ← hI.ins]; rfl
  have hun : ((d.setScore q v).count (0x60 + c)).Unchecked := by
    rw [Blk.Unchecked, hins]
    have hun := h.of_ins hI.ins
    exact hun
  rw [Blk.declareLine_of_none hdue2, hun.settled] at he
  have hcam : ((d.setScore q v).count (0x60 + c)).cam c = d.cam c := by rw [Blk.cam, Blk.count_cams]; rfl
  rw [he, hcam]
  refine ⟨hd, (Blk.score_of_ins hins q).trans (d.score_setScore_same q v), fun k hk => ?_⟩
  rw [Blk.score_of_ins hins, d.score_setScore_ne v hk, Blk.score_of_ins hI.ins]

/-- What `scoreLine` does with one slot whose expected ink is looked at. -/
theorem Blk.scoreLine_single {e : ExpRec} {q code : Nat} {x : Int} {px : List Pix} {g : Pix} (hb : bitOf e.blank (q / 4096) = false)
    (hp : px.find? (fun p => p.x == x) = some g) (hmin : s.f INS_MISS_CFG_MIN_EXP ≤ g.e) :
    s.scoreLine e [(q, x, code)] px =
      if (s.f INS_MISS_CFG_MISS_T : Int) ≤ g.dd then
        (s.setScore q (s.score q / 256 * 256 + min 255 (s.score q % 256 + s.f INS_SCORE_CFG_INC)),
          if s.declareAt ≤ min 255 (s.score q % 256 + s.f INS_SCORE_CFG_INC) then [q] else [])
      else (s.setScore q (if s.score q % 256 - s.f INS_SCORE_CFG_DEC = 0 then 0 else s.score q / 256 * 256 + (s.score q % 256 - s.f INS_SCORE_CFG_DEC)), []) := by
  unfold Blk.scoreLine
  simp only [List.foldl_cons, List.foldl_nil, hb, hp, List.nil_append]
  rw [if_neg Bool.false_ne_true, if_neg (Nat.not_lt.2 hmin)]

/-! ### Test pages (R220) -/

theorem Blk.tpRequest_refused {w tag cause : Nat} (hcause : cause < 16)
    (he : s.tpRequest w tag = (s.setF ALN_TP_STATUS_REJ_CAUSE cause).raise 0x50A (bits w 23 22) (bits w 23 22) cause) :
    (s.tpRequest w tag).f ALN_TP_STATUS_REJ_CAUSE = cause ∧ s.Raised (s.tpRequest w tag) 0x50A (bits w 23 22) (bits w 23 22) cause ∧
      (s.tpRequest w tag).ins = s.ins ∧ s.Frame (s.tpRequest w tag) (· = ALN_TP_STATUS) := by
  have ht : bits w 23 22 < 4 := bits_lt w 23 22
  rw [he]
  generalize bits w 23 22 = t at *
  have hF : s.Frame (s.setF ALN_TP_STATUS_REJ_CAUSE cause) (· = ALN_TP_STATUS) := (Blk.Frame.refl s (· = ALN_TP_STATUS)).setF (x := ALN_TP_STATUS_REJ_CAUSE) rfl
  have hf : (s.setF ALN_TP_STATUS_REJ_CAUSE cause).f ALN_TP_STATUS_REJ_CAUSE = cause := (Blk.f_setF_same _ _ _ (by decide) (by decide)).trans (Nat.mod_eq_of_lt hcause)
  have hq : (s.setF ALN_TP_STATUS_REJ_CAUSE cause).evq = s.evq := Blk.setF_evq _ _ _
  have hi : (s.setF ALN_TP_STATUS_REJ_CAUSE cause).ins = s.ins := Blk.setF_ins _ _ _
  generalize s.setF ALN_TP_STATUS_REJ_CAUSE cause = b at *
  exact ⟨(Blk.f_of_reg (Blk.reg_of_regs (Blk.raise_regs _ _ _ _ _) _)).trans hf, .raise hq _ (by omega) (by omega) (by omega), (Blk.raise_ins _ _ _ _ _).trans hi, hF.raise⟩

/-- Some camera is UP. -/
theorem Blk.anyCamUp (s : Blk) : [0, 1, 2, 3].any s.camUp = true ↔ ∃ c, c < 4 ∧ s.camState c = 2 := by
  rw [List.any_eq_true]
  constructor
  · rintro ⟨c, hc, hu⟩
    simp only [List.mem_cons, List.not_mem_nil, or_false] at hc
    exact ⟨c, by omega, beq_iff_eq.1 hu⟩
  · rintro ⟨c, hc, hu⟩
    refine ⟨c, ?_, beq_iff_eq.2 hu⟩
    simp only [List.mem_cons, List.not_mem_nil, or_false]
    omega

theorem Blk.tpRequest_taken {w tag : Nat} (htp : s.ins.tp = none) (hsh : s.shuttle = false) (hcam : ∃ c, c < 4 ∧ s.camState c = 2)
    (hrows : tpPattern w = 2 → 1 < s.maxRows) :
    (s.tpRequest w tag).ins = { s.ins with tp := some ⟨w, tag, none, 0, [], [], []⟩ } ∧ (s.tpRequest w tag).fb ALN_TP_STATUS_PENDING = true ∧
      s.Frame (s.tpRequest w tag) (· = ALN_TP_STATUS) := by
  have he : s.tpRequest w tag = ({ s with ins := { s.ins with tp := some ⟨w, tag, none, 0, [], [], []⟩ } } : Blk).setF ALN_TP_STATUS_PENDING 1 := by
    unfold Blk.tpRequest
    rw [htp, hsh, s.anyCamUp.2 hcam, if_neg (by decide), if_neg (by decide), if_neg (by decide), if_neg fun g => absurd (hrows g.1) (Nat.not_lt.2 g.2)]
  rw [he]
  have hF : s.Frame ({ s with ins := { s.ins with tp := some ⟨w, tag, none, 0, [], [], []⟩ } } : Blk) (· = ALN_TP_STATUS) := (Blk.Frame.refl s _).put
  exact ⟨Blk.setF_ins _ _ _, Blk.fb_setF_bit_same _ _ (by decide), hF.setF (x := ALN_TP_STATUS_PENDING) rfl⟩

theorem Blk.tpRequest_eq_refused {w tag cause : Nat} (htp : s.ins.tp = none)
    (hr : cause = 1 ∧ s.shuttle = true ∨ cause = 2 ∧ s.shuttle = false ∧ (∀ c, c < 4 → s.camState c ≠ 2) ∨
      cause = 3 ∧ s.shuttle = false ∧ (∃ c, c < 4 ∧ s.camState c = 2) ∧ tpPattern w = 2 ∧ s.maxRows ≤ 1) :
    s.tpRequest w tag = (s.setF ALN_TP_STATUS_REJ_CAUSE cause).raise 0x50A (bits w 23 22) (bits w 23 22) cause := by
  unfold Blk.tpRequest
  rw [htp, if_neg (by decide)]
  rcases hr with ⟨rfl, hsh⟩ | ⟨rfl, hsh, hno⟩ | ⟨rfl, hsh, hcam, hp, hrows⟩
  · rw [hsh, if_pos rfl]
  · have hany : [0, 1, 2, 3].any s.camUp = false := by
      rw [← Bool.not_eq_true, s.anyCamUp]
      rintro ⟨c, hc, hu⟩
      exact hno c hc hu
    rw [hsh, hany, if_neg (by decide), if_pos (by decide)]
  · rw [hsh, s.anyCamUp.2 hcam, if_neg (by decide), if_neg (by decide), if_pos ⟨hp, hrows⟩]

theorem tpCancel_spec {e : TpRun} (htp : s.ins.tp = some e) (hs : e.started = none) :
    (tpCancel s).ins = { s.ins with tp := none } ∧ (tpCancel s).fb ALN_TP_STATUS_PENDING = false ∧ s.Frame (tpCancel s) (· = ALN_TP_STATUS) := by
  have he : tpCancel s = ({ s with ins := { s.ins with tp := none } } : Blk).setF ALN_TP_STATUS_PENDING 0 := by
    unfold tpCancel
    simp only [htp, hs]
    rfl
  rw [he]
  have hF : s.Frame ({ s with ins := { s.ins with tp := none } } : Blk) (· = ALN_TP_STATUS) := (Blk.Frame.refl s _).put
  exact ⟨Blk.setF_ins _ _ _, Blk.fb_setF_bit_same _ _ (by decide), hF.setF (x := ALN_TP_STATUS_PENDING) rfl⟩

theorem scoreWrite_spec (s : Blk) (i w : Nat) :
    (scoreWrite i w s).score (s.rn INS_SCORE_PORT % 32 * 4096 + i) % 256 = w % 256 ∧
      (∀ k, k ≠ s.rn INS_SCORE_PORT % 32 * 4096 + i → (scoreWrite i w s).score k = s.score k) ∧ s.Frame (scoreWrite i w s) (fun _ => False) := by
  unfold scoreWrite
  extract_lets q v
  refine ⟨?_, fun k hk => s.score_setScore_ne _ hk, (Blk.Frame.refl s _).put⟩
  rw [s.score_setScore_same]
  split
  · next h => exact (Nat.zero_mod _).trans h.symm
  · omega

/-- Settles O19. -/
theorem scoresAndTestPages : Obligations.ScoresAndTestPages := by
  unfold Obligations.ScoresAndTestPages
  intro s hs
  refine ⟨fun c f pos px rest hr htp hdue hq hm => ⟨fun hf => .of_on (f := cameraLineScore c .none) rfl hs (cameraLineScore_missing c.isLt ⟨hr, htp⟩ hq hm hf),
      fun q x code g hf hink hb hmass hp hmin => ⟨fun hT hlt => .of_on (f := cameraLineScore c .none) rfl hs ?_,
        fun hT => .of_on (f := cameraLineScore c .none) rfl hs ?_⟩⟩,
    fun i w => .of_on (f := scoreWrite i w.toNat) rfl hs (scoreWrite_spec s.blk i w.toNat),
    fun htp hsh hcam hrows => .of_on (f := fun b => b.tpRequest (b.rn ALN_TP_CFG) (b.rn ALN_TP_TAG)) rfl hs (Blk.tpRequest_taken htp hsh hcam hrows),
    fun cause htp hr => .of_on (f := fun b => b.tpRequest (b.rn ALN_TP_CFG) (b.rn ALN_TP_TAG)) rfl hs
      (Blk.tpRequest_refused (by omega) (Blk.tpRequest_eq_refused htp hr)),
    fun e htp hst => .of_on (f := tpCancel) rfl hs ?_, fun e htp hst => .of_on (f := tpCancel) rfl hs (tpCancel_spec htp hst)⟩
  · obtain ⟨h1, h2, h3⟩ := cameraLineScore_scored (v := s.blk.score q / 256 * 256 + min 255 (s.blk.score q % 256 + s.blk.f INS_SCORE_CFG_INC))
      c.isLt ⟨hr, htp⟩ hdue hq hm hf hink hmass fun d hI => by
        rw [Blk.scoreLine_single hb hp (by rw [hI.f (by decide)]; exact hmin), hI.f (by decide), hI.f (by decide), Blk.score_of_ins hI.ins, Blk.declareAt,
          hI.f (by decide), if_pos hT, ← Blk.declareAt, if_neg (Nat.not_le.2 hlt)]
    refine ⟨h1, ?_, h3⟩
    rw [h2]
    omega
  · obtain ⟨h1, h2, h3⟩ := cameraLineScore_scored (v := if s.blk.score q % 256 - s.blk.f INS_SCORE_CFG_DEC = 0 then 0
        else s.blk.score q / 256 * 256 + (s.blk.score q % 256 - s.blk.f INS_SCORE_CFG_DEC))
      c.isLt ⟨hr, htp⟩ hdue hq hm hf hink hmass fun d hI => by
        rw [Blk.scoreLine_single hb hp (by rw [hI.f (by decide)]; exact hmin), hI.f (x := INS_MISS_CFG_MISS_T) (by decide),
          hI.f (x := INS_SCORE_CFG_DEC) (by decide), Blk.score_of_ins hI.ins, if_neg (not_le.2 hT)]
    refine ⟨h1, ?_, h3⟩
    rw [h2]
    split
    · next h => rw [h]
    · omega
  · unfold tpCancel
    simp only [htp]
    rw [if_neg]
    rw [Option.isNone_iff_eq_none]
    exact hst

end Sys2Proof.Machine
end

section
/-!
PROOFS. Ingest: datagrams received, acknowledged, asked for again, and applied (R115 to R122).
-/

namespace Sys2Proof.Machine

variable {r s : Blk} {p : Nat → Prop}

/-! ### A stream as changed (R119, R121) -/

/-- A stream with its gap begun, going on or ended. -/
def Blk.gapped (s : Blk) (k : Nat) (x : Stream) : Stream :=
  { x with gapSince := if !(!x.slots.isEmpty && (x.held (s.nextSeq k)).isNone) then none else if x.gapSince.isSome then x.gapSince else some s.now }

theorem Blk.putStream_def (s : Blk) (k : Nat) (x : Stream) : s.putStream k x =
    ((s.setStream k (s.gapped k x)).setF (PGE_ING_STATUS_BOUND k) (b2n x.bound.isSome)).setF (PGE_ING_STATUS_CREDIT k) x.credit := rfl

theorem Blk.stream_setF (s : Blk) (x : Fld) (v k : Nat) : (s.setF x v).stream k = s.stream k :=
  congrArg (fun g => Tab.get (fun _ => Stream.init) g k) (Blk.setF_streams s x v)

theorem Blk.stream_wn (s : Blk) (a v k : Nat) : (s.wn a v).stream k = s.stream k :=
  congrArg (fun g => Tab.get (fun _ => Stream.init) g k) (Blk.wn_streams s a v)

theorem Blk.stream_setVal (s : Blk) (a v n k : Nat) : (s.setVal a v n).stream k = s.stream k := by rw [Blk.setVal_eq]; rfl

theorem Blk.stream_of_streams (h : s.streams = r.streams) (k : Nat) : s.stream k = r.stream k := by rw [Blk.stream, h, Blk.stream]

theorem Blk.stream_count (s : Blk) (src n k : Nat) : (s.count src n).stream k = s.stream k := Blk.stream_of_streams (Blk.count_streams _ _ _) k

theorem Blk.stream_putStream (s : Blk) (k : Nat) (x : Stream) : (s.putStream k x).stream k = s.gapped k x := by
  rw [Blk.putStream_def, Blk.stream_setF, Blk.stream_setF, Blk.stream_setStream_same]

theorem Blk.evq_putStream (s : Blk) (k : Nat) (x : Stream) : (s.putStream k x).evq = s.evq := by
  rw [Blk.putStream_def, Blk.setF_evq, Blk.setF_evq, Blk.setStream_evq]

theorem Blk.mem_putStream (s : Blk) (k : Nat) (x : Stream) : (s.putStream k x).mem = s.mem := by
  rw [Blk.putStream_def, Blk.setF_mem, Blk.setF_mem, Blk.setStream_mem]

theorem Blk.twn_putStream (s : Blk) (k : Nat) (x : Stream) : (s.putStream k x).twn = s.twn := by
  rw [Blk.putStream_def, Blk.setF_twn, Blk.setF_twn, Blk.setStream_twn]

theorem Blk.out_putStream (s : Blk) (k : Nat) (x : Stream) : (s.putStream k x).out = s.out := by
  rw [Blk.putStream_def, Blk.setF_out, Blk.setF_out, Blk.setStream_out]

theorem Blk.Frame.putStream (h : r.Frame s p) {k : Nat} {x : Stream} (hp : p (PGE_ING_STATUS k)) : r.Frame (s.putStream k x) p := by
  rw [Blk.putStream_def]
  exact ((h.put (streams := (s.setStream k (s.gapped k x)).streams)).setF (x := PGE_ING_STATUS_BOUND k) hp).setF (x := PGE_ING_STATUS_CREDIT k) hp

theorem Blk.fb_bound_putStream (s : Blk) (k : Nat) (x : Stream) : (s.putStream k x).fb (PGE_ING_STATUS_BOUND k) = x.bound.isSome := by
  rw [Blk.putStream_def, Blk.fb_setF_ne _ _ _ _ (by simp) (by simp) (by simp) (by simp), Blk.fb_setF_same _ _ _ (by simp) (by simp)]
  cases x.bound.isSome <;> rfl

theorem Blk.f_credit_putStream (s : Blk) (k : Nat) (x : Stream) : (s.putStream k x).f (PGE_ING_STATUS_CREDIT k) = 64 - x.slots.length := by
  rw [Blk.putStream_def, Blk.f_setF_same _ _ _ (by simp) (by simp)]
  exact Nat.mod_eq_of_lt (show 64 - x.slots.length < 2 ^ 7 by omega)

theorem Blk.nextSeq_putStream (s : Blk) {k : Nat} (x : Stream) : (s.putStream k x).nextSeq k = s.nextSeq k := by
  rw [Blk.putStream_def, Blk.nextSeq, Blk.val_setF_ne _ _ _ _ _ (by simp only [PGE_ING_STATUS, PGE_ING_NEXT_SEQ]; omega),
    Blk.val_setF_ne _ _ _ _ _ (by simp only [PGE_ING_STATUS, PGE_ING_NEXT_SEQ]; omega)]
  rfl

theorem Stream.gapped_init (s : Blk) (k : Nat) : s.gapped k Stream.init = Stream.init := rfl

/-! ### Resets (R118) -/

/-- The words a stream shows itself in. -/
def streamWord (k a : Nat) : Prop := a = PGE_ING_STATUS k ∨ a = PGE_ING_NEXT_SEQ k ∨ a = PGE_ING_NEXT_SEQ k + 1

theorem Blk.resetStream_spec (s : Blk) (k : Nat) {q : Nat} (hq : q < 2 ^ 32) :
    (s.resetStream k q).nextSeq k = q ∧ (s.resetStream k q).stream k = Stream.init ∧ (s.resetStream k q).fb (PGE_ING_STATUS_BOUND k) = false ∧
      (s.resetStream k q).f (PGE_ING_STATUS_CREDIT k) = 64 ∧ s.Frame (s.resetStream k q) (streamWord k) := by
  rw [Blk.resetStream]
  refine ⟨?_, Blk.stream_putStream _ _ _, Blk.fb_bound_putStream _ _ _, Blk.f_credit_putStream _ _ _,
    ((Blk.Frame.refl s _).setVal2 (.inr (.inl rfl)) (.inr (.inr rfl))).putStream (.inl rfl)⟩
  rw [Blk.nextSeq_putStream, Blk.nextSeq, Blk.val_setVal_same]
  exact Nat.mod_eq_of_lt (by omega)

theorem dgNat_lt (bs : List Byte) (i n : Nat) : dgNat bs i n < 256 ^ n := by
  have h := beNat_lt (slice bs i n)
  rwa [length_slice] at h

/-! ### Datagrams received (R115, R118, R119) -/

/-- What a datagram has to be to reach its stream. -/
structure Blk.Receives (s : Blk) (k : Nat) (d : Datagram) : Prop where
  en : s.fb PGE_ING_CFG_EN = true
  sum : d.sumOk = true
  magic : dgNat d.bytes 0 2 = 0x464E
  ok : dgOk d.bytes = true
  stream : dgNat d.bytes 4 1 % 4 = k
  idle : bitOf (s.f STO_STATUS_PLAYING) k = false
  untested : s.underTest 9 = false
  source : (s.stream k).from d.src = true

theorem length_of_dgOk {bs : List Byte} (h : dgOk bs = true) : bs.length = 32 + dgNat bs 6 2 := by
  simp only [dgOk, Bool.and_eq_true, beq_iff_eq] at h
  exact h.2

theorem ingestReceive_of {k port : Nat} {d : Datagram} (h : s.Receives k d) : ingestReceive port d s =
    if dgNat d.bytes 3 1 = 4 then s.remoteReset k d.src (dgNat d.bytes 8 4) else s.takeDatagram port k d.src d.bytes := by
  obtain ⟨he, hs, hm, ho, rfl, hi, hu, hf⟩ := h
  have hl := length_of_dgOk ho
  unfold ingestReceive
  extract_lets bs k
  have hb : decide (bs.length < 32) = false := decide_eq_false (by simp only [bs]; omega)
  have hm' : (dgNat bs 0 2 != 0x464E) = false := by rw [show dgNat bs 0 2 = 0x464E from hm]; exact bne_self_eq_false _
  rw [if_neg (by rw [he, hs, hb, hm']; exact Bool.false_ne_true), if_neg (by rw [ho, show bitOf (s.f STO_STATUS_PLAYING) k = false from hi, hu]; exact Bool.false_ne_true),
    if_neg (c := (!(s.stream k).from d.src) = true) (by rw [show (s.stream k).from d.src = true from hf]; exact Bool.false_ne_true)]

theorem ingestReceive_reset {k port : Nat} {d : Datagram} (h : s.Receives k d) (ht : dgNat d.bytes 3 1 = 4)
    (hr : s.fb PGE_ING_CFG_REMOTE_RESET = true) : ingestReceive port d s = s.resetStream k (dgNat d.bytes 8 4) := by
  rw [ingestReceive_of h, if_pos ht, Blk.remoteReset, if_pos (by rw [hr, h.source]; rfl)]

/-- A datagram in the window whose number is not held takes a slot. -/
theorem Blk.takeDatagram_spec {port k : Nat} {src : Source} {bs : List Byte} (hl : bs.length = 32 + dgNat bs 6 2)
    (hw : (dgNat bs 8 4 + 2 ^ 32 - s.nextSeq k) % 2 ^ 32 < 64) (hh : (s.stream k).held (dgNat bs 8 4) = none)
    (hc : s.stageAddr k (dgNat bs 8 4) + dgNat bs 6 2 ≤ s.capacity) :
    ((s.takeDatagram port k src bs).stream k).slots = (s.stream k).slots ++ [⟨dgNat bs 8 4, dgNat bs 3 1, dgNat bs 12 2,
        dgNat bs 14 2 % 4096, dgNat bs 16 8, dgNat bs 6 2⟩] ∧
      ((s.takeDatagram port k src bs).stream k).bound = some (port, src) ∧ (s.takeDatagram port k src bs).fb (PGE_ING_STATUS_BOUND k) = true ∧
      (s.takeDatagram port k src bs).f (PGE_ING_STATUS_CREDIT k) = 63 - (s.stream k).slots.length ∧
      ∀ a, (s.takeDatagram port k src bs).memRead a =
        if s.stageAddr k (dgNat bs 8 4) ≤ a ∧ a < s.stageAddr k (dgNat bs 8 4) + dgNat bs 6 2 then
          bs.getD (32 + (a - s.stageAddr k (dgNat bs 8 4))) 0
        else s.memRead a := by
  unfold Blk.takeDatagram
  extract_lets x q d via slot t x'
  rw [if_neg (by omega), if_neg (by omega), if_neg (by rw [hh]; exact Bool.false_ne_true)]
  refine ⟨congrArg Stream.slots (t.stream_putStream k x'), congrArg Stream.bound (t.stream_putStream k x'), t.fb_bound_putStream k x', ?_, fun a => ?_⟩
  · rw [t.f_credit_putStream k x', show x'.slots = x.slots ++ [slot] from rfl, List.length_append, List.length_singleton,
      show x = s.stream k from rfl]
    omega
  · have hd : (bs.drop 32).length = dgNat bs 6 2 := by rw [List.length_drop]; omega
    rw [Blk.memRead_of_mem (t.mem_putStream k x'), Blk.memRead_imgWrite _ _ _ (by rw [hd]; exact hc), hd, List.getD_eq_getElem?_getD,
      List.getElem?_drop, ← List.getD_eq_getElem?_getD]

/-! ### Answers (R120, R121) -/

theorem Blk.sendIngest_of_bound {k port : Nat} {src : Source} (h : (s.stream k).bound = some (port, src)) (bs : List Byte) :
    s.sendIngest k bs = s.emit (.udp port (s.f PGE_ING_CFG_UDP_PORT) src bs) := by
  rw [Blk.sendIngest, h]

theorem Blk.stream_advance (s : Blk) (t k : Nat) : (s.advance t).stream k = s.stream k := Blk.stream_of_streams (Blk.advance_streams _ _) k

theorem Blk.nextSeq_of_regsBut {k : Nat} (hk : k < 4) (h : r.RegsBut s p) (h0 : ¬p (PGE_ING_NEXT_SEQ k)) (h1 : ¬p (PGE_ING_NEXT_SEQ k + 1)) :
    s.nextSeq k = r.nextSeq k :=
  Blk.val_of_reg fun i hi => h _ (cntWord_low (by simp only [PGE_ING_NEXT_SEQ]; omega)) (by
    obtain rfl | rfl : i = 0 ∨ i = 1 := by omega
    · exact h0
    · exact h1)

theorem Blk.nextSeq_advance {k : Nat} (hk : k < 4) (t : Nat) : (s.advance t).nextSeq k = s.nextSeq k :=
  Blk.nextSeq_of_regsBut (p := fun _ => False) hk (Blk.RegsBut.refl s _).advance id id

theorem Blk.nextSeq_lt (s : Blk) (k : Nat) : s.nextSeq k < 2 ^ 48 := Blk.val_lt _ _ _

theorem ingestAck_spec {k t port : Nat} {src : Source} (hk : k < 4) (hb : (s.stream k).bound = some (port, src)) (ha : (s.stream k).ackNow = true) :
    (ingestAck k t s).out = .udp port (s.f PGE_ING_CFG_UDP_PORT) src (ingestHeader 0x81 k (s.nextSeq k) (s.stream k).credit
        (bitmap (fun i => ((s.stream k).held ((s.nextSeq k + 1 + i) % 2 ^ 32)).isSome) 64)) :: s.out ∧
      ((ingestAck k t s).stream k).ackNow = false ∧ ((ingestAck k t s).stream k).changed = false ∧
      ((ingestAck k t s).stream k).lastAck = max s.now t ∧ s.Frame (ingestAck k t s) (· = PGE_ING_STATUS k) := by
  have hx := s.stream_advance t k
  have hn := s.nextSeq_advance hk t
  have hu := s.f_advance_low t (x := PGE_ING_CFG_UDP_PORT) (by decide)
  have hF : s.Frame (s.advance t) (· = PGE_ING_STATUS k) := (Blk.Frame.refl s _).advance
  have ho : (s.advance t).out = s.out := Blk.advance_out _ _
  have hnow : (s.advance t).now = max s.now t := s.now_advance t
  unfold ingestAck
  generalize s.advance t = b at hx hn hu hF ho hnow ⊢
  extract_lets b' x e m c
  rw [if_neg (by simp [x, b', hx, hb, ha])]
  have hc : c = b.emit (.udp port (s.f PGE_ING_CFG_UDP_PORT) src (ingestHeader 0x81 k e x.credit m)) := by
    rw [← hu]
    exact Blk.sendIngest_of_bound (by rw [hx, hb]) _
  have hm : m = bitmap (fun i => ((s.stream k).held ((s.nextSeq k + 1 + i) % 2 ^ 32)).isSome) 64 := by
    simp only [m, x, e, b', hx, hn]
  have hcF : s.Frame c (· = PGE_ING_STATUS k) := by rw [hc]; exact hF.emit
  have hco : c.out = .udp port (s.f PGE_ING_CFG_UDP_PORT) src (ingestHeader 0x81 k e x.credit m) :: s.out := by
    rw [hc, ← ho]
    rfl
  have hcn : c.now = max s.now t := by rw [hc, ← hnow]; rfl
  rw [hm, show e = s.nextSeq k from hn, show x.credit = (s.stream k).credit from congrArg _ hx] at hco
  clear_value c
  refine ⟨(Blk.out_putStream _ _ _).trans hco, congrArg Stream.ackNow (c.stream_putStream k _), congrArg Stream.changed (c.stream_putStream k _),
    (congrArg Stream.lastAck (c.stream_putStream k _)).trans hcn, hcF.putStream rfl⟩

theorem retxReq_spec {k t port since : Nat} {src : Source} (hk : k < 4) (hb : (s.stream k).bound = some (port, src))
    (hg : (s.stream k).gapSince = some since) (hd : s.retxDue (s.stream k) since ≤ max s.now t) :
    (∃ m, (retxReq k t s).out = .udp port (s.f PGE_ING_CFG_UDP_PORT) src (ingestHeader 0x82 k (s.nextSeq k) 0 m) :: s.out) ∧
      (retxReq k t s).rn (PGE_ING_RETX_REQS k) = min (s.rn (PGE_ING_RETX_REQS k) + 1) u24max ∧
      ((retxReq k t s).stream k).reqs = (s.stream k).reqs + 1 ∧
      ((s.stream k).reqs + 1 = atLeast1 (s.f PGE_ING_RETX_MAX) →
        (retxReq k t s).fb (PGE_ING_STATUS_GAP k) = true ∧ s.Raised (retxReq k t s) 0x20A k k (s.nextSeq k % 2 ^ 24)) ∧
      s.Frame (retxReq k t s) fun a => a = PGE_ING_STATUS k ∨ a = PGE_ING_RETX_REQS k := by
  have hx := s.stream_advance t k
  have hn := s.nextSeq_advance hk t
  have hu (x : Fld) (h : x.addr < 0x180002) := s.f_advance_low t h
  have hrq : (s.advance t).rn (PGE_ING_RETX_REQS k) = s.rn (PGE_ING_RETX_REQS k) :=
    Blk.rn_of_reg (s.reg_advance t (cntWord_low (by simp only [PGE_ING_RETX_REQS]; omega)))
  have hF : s.Frame (s.advance t) fun a => a = PGE_ING_STATUS k ∨ a = PGE_ING_RETX_REQS k := (Blk.Frame.refl s _).advance
  have ho : (s.advance t).out = s.out := Blk.advance_out _ _
  have hnow : (s.advance t).now = max s.now t := s.now_advance t
  have hq := s.evq_advance_prefix t
  unfold retxReq
  generalize s.advance t = b at hx hn hu hF ho hnow hrq hq ⊢
  extract_lets b' x e top m c y
  have hxs : x = s.stream k := hx
  have hdue : ¬b.now < b.retxDue x since := by
    rw [hnow, hxs, Blk.retxDue, hu _ (by decide), hu _ (by decide), hu _ (by decide), ← Blk.retxDue]
    omega
  have hgx : x.gapSince = some since := by rw [hxs]; exact hg
  simp only [hgx]
  rw [if_neg hdue]
  have hc0 : b.sendIngest k (ingestHeader 0x82 k e 0 m) = b.emit (.udp port (s.f PGE_ING_CFG_UDP_PORT) src (ingestHeader 0x82 k e 0 m)) := by
    rw [← hu _ (by decide)]
    exact Blk.sendIngest_of_bound (by rw [hx, hb]) _
  have hc : c = ((b.emit (.udp port (s.f PGE_ING_CFG_UDP_PORT) src (ingestHeader 0x82 k e 0 m))).incSat (PGE_ING_RETX_REQS k)).count 0x1A := by
    rw [← hc0]
  have hcF : s.Frame c fun a => a = PGE_ING_STATUS k ∨ a = PGE_ING_RETX_REQS k := by
    rw [hc]
    exact (hF.emit.incSat (.inr rfl)).count
  have hco : c.out = .udp port (s.f PGE_ING_CFG_UDP_PORT) src (ingestHeader 0x82 k e 0 m) :: s.out := by
    rw [hc, Blk.count_out, ← ho]
    rfl
  have hcr : c.rn (PGE_ING_RETX_REQS k) = min (s.rn (PGE_ING_RETX_REQS k) + 1) u24max := by
    rw [hc, Blk.rn_of_reg (Blk.reg_count _ _ _ (cntWord_low (by simp only [PGE_ING_RETX_REQS]; omega))), Blk.rn_incSat_same, ← hrq]
    rfl
  have hcq : s.evq <+: c.evq := by
    rw [hc]
    refine hq.trans (.trans ?_ (Blk.evq_count_prefix _ 0x1A 1))
    rw [Blk.incSat, Blk.addSat, Blk.wn_evq]
    exact List.prefix_rfl
  have hen : e = s.nextSeq k := hn
  clear_value c e x
  subst hen hxs
  have hyF : s.Frame y fun a => a = PGE_ING_STATUS k ∨ a = PGE_ING_RETX_REQS k := hcF.putStream (.inl rfl)
  have hyo : y.out = _ := (Blk.out_putStream _ _ _).trans hco
  have hyr : y.rn (PGE_ING_RETX_REQS k) = min (s.rn (PGE_ING_RETX_REQS k) + 1) u24max := by
    rw [← hcr]
    exact ((Blk.Frame.refl c (· = PGE_ING_STATUS k)).putStream rfl).1.rn (cntWord_low (by simp only [PGE_ING_RETX_REQS]; omega))
      (by simp only [PGE_ING_RETX_REQS, PGE_ING_STATUS]; omega)
  have hys : (y.stream k).reqs = (s.stream k).reqs + 1 := congrArg Stream.reqs (c.stream_putStream k _)
  have hyq : s.evq <+: y.evq := (Blk.evq_putStream c k _).symm ▸ hcq
  have hmax : y.f PGE_ING_RETX_MAX = s.f PGE_ING_RETX_MAX :=
    hyF.1.f (cntWord_low (by decide)) (by simp only [PGE_ING_RETX, PGE_ING_STATUS, PGE_ING_RETX_REQS]; omega)
  clear_value y
  rw [hmax]
  split
  · have hzF := hyF.setF (x := PGE_ING_STATUS_GAP k) (v := 1) (.inl rfl)
    have hzq : s.evq <+: (y.setF (PGE_ING_STATUS_GAP k) 1).evq := (Blk.setF_evq y _ _).symm ▸ hyq
    have hzr : (y.setF (PGE_ING_STATUS_GAP k) 1).rn (PGE_ING_RETX_REQS k) = y.rn (PGE_ING_RETX_REQS k) :=
      Blk.rn_setF_ne _ _ _ (by simp only [PGE_ING_RETX_REQS, PGE_ING_STATUS]; omega)
    have hzb : (y.setF (PGE_ING_STATUS_GAP k) 1).fb (PGE_ING_STATUS_GAP k) = true := Blk.fb_setF_same _ _ _ (by simp) (by simp)
    have hzs := Blk.stream_setF y (PGE_ING_STATUS_GAP k) 1 k
    have hzo := Blk.setF_out y (PGE_ING_STATUS_GAP k) 1
    generalize y.setF (PGE_ING_STATUS_GAP k) 1 = z at hzF hzq hzr hzb hzs hzo ⊢
    refine ⟨⟨m, (Blk.raise_out _ _ _ _ _).trans (hzo.trans hyo)⟩, (Blk.rn_of_reg (Blk.reg_of_regs (Blk.raise_regs _ _ _ _ _) _)).trans (hzr.trans hyr),
      (congrArg Stream.reqs ((Blk.stream_of_streams (Blk.raise_streams _ _ _ _ _) k).trans hzs)).trans hys,
      fun _ => ⟨(Blk.fb_of_reg (Blk.reg_of_regs (Blk.raise_regs _ _ _ _ _) _)).trans hzb,
        (z.raised_raise 0x20A (by omega) (by omega) (Nat.mod_lt _ (by decide))).of_left hzq⟩, hzF.raise⟩
  · next hne => exact ⟨⟨m, hyo⟩, hyr, hys, fun h => absurd h hne, hyF⟩

/-- Settles O42. -/
theorem ingestStreams : Obligations.IngestStreams := by
  unfold Obligations.IngestStreams
  intro s k t hs
  have hk : k.val < 4 := k.isLt
  refine ⟨fun port d he hsum hm ho hst hi hu hf => ⟨fun ht hw hh hc _ => .of_on (f := ingestReceive port d) rfl hs ?_,
    fun ht hr => .of_on (f := fun b => if dgNat d.bytes 3 1 = 4 then ingestReceive port d b else b) rfl hs ?_⟩,
    .of_on (f := fun b => b.resetStream k 0) rfl hs ?_,
    fun port src hb => ⟨fun ha => .of_on (f := ingestAck k t) rfl hs (ingestAck_spec hk hb ha),
      fun since hg hd => .of_on (f := retxReq k t) rfl hs (retxReq_spec hk hb hg hd)⟩⟩
  · rw [ingestReceive_of ⟨he, hsum, hm, ho, hst, hi, hu, hf⟩, if_neg ht]
    exact Blk.takeDatagram_spec (length_of_dgOk ho) hw hh hc
  · rw [if_pos ht, ingestReceive_reset ⟨he, hsum, hm, ho, hst, hi, hu, hf⟩ ht hr]
    obtain ⟨hn, hx, hb, -, hF⟩ := s.blk.resetStream_spec k (dgNat_lt d.bytes 8 4)
    exact ⟨hn, hx, hb, hF⟩
  · exact s.blk.resetStream_spec k (by decide)

/-! ### Datagrams applied (R116, R122) -/

theorem Blk.Accessed.stream_eq (h : r.Accessed s) (k : Nat) : s.stream k = r.stream k := by
  obtain ⟨⟨regs, evq, dram, e⟩, -, -⟩ := h
  rw [e]
  rfl

theorem Blk.Accessed.frameMem (h : r.Accessed s) : r.Frame s memWord := h.frame fun _ => id

theorem Blk.ecc_none (s : Blk) (p a : Nat) : s.ecc p a .none = s := by
  unfold Blk.ecc
  split <;> rfl

theorem Blk.bad_none (s : Blk) : s.bad .none = false := by simp [Blk.bad]

theorem length_imgRead (s : Blk) (a n : Nat) : (s.imgRead a n).length = n := by simp [Blk.imgRead]

theorem Blk.frame_regsBut_count (s : Blk) (src n : Nat) : s.Frame (s.count src n) p := (Blk.Frame.refl s p).count

/-- A datagram that is applied: its number moves on and its slot is free; memory is as the payload left it. -/
theorem Blk.slotDone_spec (s : Blk) {k : Nat} (hk : k < 4) (d : Slot) (t : Blk) :
    (s.slotDone k d (some t)).nextSeq k = (d.seq + 1) % 2 ^ 32 ∧
      ((s.slotDone k d (some t)).stream k).slots = (t.stream k).slots.filter (fun y => y.seq != d.seq) ∧
      (s.slotDone k d (some t)).mem = t.mem ∧ (s.slotDone k d (some t)).twn = t.twn ∧ t.Frame (s.slotDone k d (some t)) (streamWord k) := by
  unfold Blk.slotDone
  extract_lets u v x n
  have hv : v = (t.setVal (PGE_ING_NEXT_SEQ k) ((d.seq + 1) % 2 ^ 32) 2).count 0x18 := rfl
  have hF : t.Frame v (streamWord k) := by
    rw [hv]
    exact ((Blk.Frame.refl t (streamWord k)).setVal2 (.inr (.inl rfl)) (.inr (.inr rfl))).count
  have hn : v.nextSeq k = (d.seq + 1) % 2 ^ 32 := by
    rw [hv, Blk.nextSeq_of_regsBut (p := fun _ => False) hk (Blk.frame_regsBut_count _ _ _).1 id id, Blk.nextSeq, Blk.val_setVal_same]
    exact Nat.mod_eq_of_lt (by omega)
  have hs : v.stream k = t.stream k := by rw [hv, Blk.stream_count, Blk.stream_setVal]
  have hm : v.mem = t.mem := by
    rw [hv, Blk.count_mem, Blk.setVal_eq]
  have htw : v.twn = t.twn := by
    rw [hv, Blk.count_twn, Blk.setVal_eq]
  have hx : x = t.stream k := hs
  clear_value v
  refine ⟨(Blk.nextSeq_putStream _ _).trans hn, (congrArg Stream.slots (v.stream_putStream k _)).trans ?_, (Blk.mem_putStream _ _ _).trans hm, (Blk.twn_putStream _ _ _).trans htw, hF.putStream (.inl rfl)⟩
  rw [← hx]
  rfl

theorem bdWords_getD (s : Blk) {i w : Nat} (hw : w < 8) : (s.bdWords i).getD w 0 = s.rn (bdAddr i w) := by
  rw [Blk.bdWords, List.getD_eq_getElem _ _ (by simpa using hw), List.getElem_map, List.getElem_range]

theorem rn_bdAddr (h : r.Accessed s) {i w : Nat} (hi : i < 4096) (hw : w < 8) : s.rn (bdAddr i w) = r.rn (bdAddr i w) :=
  h.regs.rn (cntWord_low (by simp only [bdAddr]; omega)) (by unfold memWord; simp only [bdAddr, DRM_PWR_STATUS, DRM_RD_STATUS]; omega)

theorem ingestData_eq {k : Nat} {d : Slot} (h : s.turn k 1 = some d) : ingestData k .none s =
    (s.readStage k d).slotDone k d ((s.readStage k d).applyData ingestPort d.target d.gen d.offset (s.staged k d)) := by
  unfold ingestData
  rw [h]
  simp only [Blk.ecc_none, Blk.bad_none, Bool.false_eq_true, if_false]

theorem ingestData_spec {k : Nat} {d : Slot} (hk : k < 4) (h : s.turn k 1 = some d) (ht : d.target < 4096) (hv : bitOf (s.rn (bdAddr d.target 0)) 11 = true)
    (hg : bits (s.rn (bdAddr d.target 0)) 23 12 = d.gen)
    (hl : d.offset + d.len ≤ s.rn (bdAddr d.target 3) + s.rn (bdAddr d.target 4) % 4096 * 2 ^ 24) {a : Nat}
    (ha : s.rn (bdAddr d.target 1) + s.rn (bdAddr d.target 2) % 4096 * 2 ^ 24 + d.offset = a) (hc : a + d.len ≤ s.capacity) :
    (ingestData k .none s).nextSeq k = (d.seq + 1) % 2 ^ 32 ∧
      ((ingestData k .none s).stream k).slots = (s.stream k).slots.filter (fun y => y.seq != d.seq) ∧
      ∀ b, (ingestData k .none s).memRead b = if a ≤ b ∧ b < a + d.len then (s.staged k d).getD (b - a) 0 else s.memRead b := by
  have hA : s.Accessed (s.readStage k d) := s.accessed_access _ _ _ _
  have hlen : (s.staged k d).length = d.len := length_imgRead _ _ _
  rw [ingestData_eq h]
  generalize s.readStage k d = u at hA ⊢
  have happ : u.applyData ingestPort d.target d.gen d.offset (s.staged k d) = some (u.imgWrite ingestPort a (s.staged k d)) := by
    have h0 : (u.bdWords d.target).headD 0 = s.rn (bdAddr d.target 0) := rn_bdAddr hA ht (by decide)
    rw [Blk.applyData, h0, bdWords_getD _ (by decide), bdWords_getD _ (by decide), bdWords_getD _ (by decide), bdWords_getD _ (by decide),
      rn_bdAddr hA ht (by decide), rn_bdAddr hA ht (by decide), rn_bdAddr hA ht (by decide), rn_bdAddr hA ht (by decide), hv, hg, hlen, ha]
    exact if_neg (by simp; omega)
  rw [happ]
  obtain ⟨hn, hs, hm, -, -⟩ := u.slotDone_spec hk d (u.imgWrite ingestPort a (s.staged k d))
  refine ⟨hn, ?_, fun b => ?_⟩
  · obtain ⟨regs, evq, dram, mem, e⟩ := u.imgWrite_eq ingestPort a (s.staged k d)
    rw [hs, Blk.stream_of_streams (r := u) (by rw [e]), hA.stream_eq]
  · have hcap : u.capacity = s.capacity := Blk.capacity_of_reg (hA.regs _ (by decide) (by unfold memWord; decide))
    rw [Blk.memRead_of_mem hm, Blk.memRead_imgWrite _ _ _ (by rw [hlen, hcap]; exact hc), hlen, hA.memRead]

/-- The words of a BDSET are written one by one. -/
def Blk.bdsetTo (s : Blk) (target : Nat) (ws : List Nat) : Blk :=
  (List.range 8).foldl (fun s i => s.wn (bdAddr target i) (ws.getD i 0 % 2 ^ 24 &&& bdMask i)) s

theorem ingestBdset_eq {k : Nat} {d : Slot} (h : s.turn k 2 = some d) (ht : d.target < 4096) (hl : d.len = 32) : ingestBdset k s =
    (s.readStage k d).slotDone k d (some ((s.readStage k d).bdsetTo d.target (leWords (s.staged k d)))) := by
  have hlen : (s.staged k d).length = 32 := (length_imgRead _ _ _).trans hl
  unfold ingestBdset
  rw [h]
  simp only [Blk.applyBdset, hlen]
  rw [if_neg (by omega)]
  rfl

theorem ingestBdset_spec {k : Nat} {d : Slot} (hk : k < 4) (h : s.turn k 2 = some d) (ht : d.target < 4096) (hl : d.len = 32) :
    (ingestBdset k s).nextSeq k = (d.seq + 1) % 2 ^ 32 ∧
      ((ingestBdset k s).stream k).slots = (s.stream k).slots.filter (fun y => y.seq != d.seq) ∧
      (∀ i, i < 8 → (ingestBdset k s).rn (bdAddr d.target i) = (leWords (s.staged k d)).getD i 0 % 2 ^ 24 &&& bdMask i) ∧
      s.Frame (ingestBdset k s) fun a => a / 2 ^ 16 = 0x14 ∨ a = PGE_ING_STATUS k ∨ a = PGE_ING_NEXT_SEQ k ∨ a = PGE_ING_NEXT_SEQ k + 1 ∨
        ∃ i, i < 8 ∧ a = bdAddr d.target i := by
  have hA : s.Accessed (s.readStage k d) := s.accessed_access _ _ _ _
  rw [ingestBdset_eq h ht hl]
  generalize s.readStage k d = u at hA ⊢
  generalize leWords (s.staged k d) = ws
  have hO : u.OnlyRegs (u.bdsetTo d.target ws) fun a => ∃ i, i < 8 ∧ a = bdAddr d.target i :=
    Blk.onlyRegs_foldl_wn _ _ (fun i hi => ⟨i, List.mem_range.1 hi, rfl⟩) u
  have hw : ∀ i, i < 8 → (u.bdsetTo d.target ws).rn (bdAddr d.target i) = ws.getD i 0 % 2 ^ 24 &&& bdMask i := fun i hi => by
    refine (Blk.rn_foldl_wn (a := bdAddr d.target) (fun i j h => by simp only [bdAddr] at h; omega) _ 8 u hi).trans (Nat.mod_eq_of_lt ?_)
    exact lt_of_le_of_lt Nat.and_le_left (Nat.mod_lt _ (by decide))
  obtain ⟨hn, hs, hm, -, hF⟩ := u.slotDone_spec hk d (u.bdsetTo d.target ws)
  refine ⟨hn, ?_, fun i hi => ?_, ?_⟩
  · rw [hs, Blk.stream_of_streams (r := u) (by rw [hO.1]), hA.stream_eq]
  · rw [hF.1.rn (cntWord_low (by simp only [bdAddr]; omega)) (by simp only [streamWord, bdAddr, PGE_ING_STATUS, PGE_ING_NEXT_SEQ]; omega), hw i hi]
  · refine ((hA.frame fun a ha => ?_).trans ⟨hO.regsBut.mono fun a ha => .inr (.inr (.inr (.inr ha))), hO.calm⟩).trans
      (hF.mono fun a ha => .inr (ha.imp_right fun ha => ha.imp_right .inl))
    left
    rcases ha with rfl | rfl <;> decide

theorem leWords_map_mod (bs : List Byte) : ((List.range 8).map fun i => (leWords bs).getD i 0 % 2 ^ 32) = leWords bs := by
  refine List.map_congr_left fun i hi => ?_
  have hi := List.mem_range.1 hi
  rw [leWords, List.getD_eq_getElem _ _ (by simpa using hi), List.getElem_map, List.getElem_range]
  refine Nat.mod_eq_of_lt ((leNat_lt _).trans_eq ?_)
  rw [length_slice]
  decide

theorem ingestDesc_eq {k : Nat} {d : Slot} (h : s.turn k 3 = some d) (ht : d.target < 4) (hl : d.len = 32)
    (hsrc : s.fb (PGE_TRK_CFG_DESC_SRC d.target) = true) (hr : s.ringFull d.target = false) : ingestDesc k s =
    (s.readStage k d).slotDone k d (some ((s.readStage k d).ringPut d.target (leWords (s.staged k d)))) := by
  have hA : s.Accessed (s.readStage k d) := s.accessed_access _ _ _ _
  have hlen : (s.staged k d).length = 32 := (length_imgRead _ _ _).trans hl
  have hsrc' : (s.readStage k d).fb (PGE_TRK_CFG_DESC_SRC d.target) = true :=
    (hA.regs.fb (cntWord_low (by simp only [PGE_TRK_CFG]; omega)) (by unfold memWord; simp only [PGE_TRK_CFG, DRM_PWR_STATUS, DRM_RD_STATUS]; omega)).trans hsrc
  unfold ingestDesc
  rw [h]
  simp only
  rw [if_neg (by rw [Blk.descWaits, hr, Bool.and_false]; exact Bool.false_ne_true), Blk.applyDesc,
    if_neg (by rw [hsrc', hlen]; simp; omega)]

theorem ingestDesc_spec {k : Nat} {d : Slot} (hk : k < 4) (h : s.turn k 3 = some d) (ht : d.target < 4) (hl : d.len = 32)
    (hsrc : s.fb (PGE_TRK_CFG_DESC_SRC d.target) = true) (hr : s.ringFull d.target = false) :
    (ingestDesc k s).nextSeq k = (d.seq + 1) % 2 ^ 32 ∧
      (ingestDesc k s).rn (RING_PROD d.target) = (s.rn (RING_PROD d.target) + 1) % 2 ^ 24 ∧
      (s.ringAddr d.target (s.rn (RING_PROD d.target)) + 32 ≤ s.capacity →
        (ingestDesc k s).readEntry (s.ringAddr d.target (s.rn (RING_PROD d.target))) = leWords (s.staged k d)) := by
  have hA : s.Accessed (s.readStage k d) := s.accessed_access _ _ _ _
  rw [ingestDesc_eq h ht hl hsrc hr]
  generalize s.readStage k d = u at hA ⊢
  generalize hws : leWords (s.staged k d) = ws
  have hring (a : Nat) (h : 0x180102 ≤ a) : u.reg a = s.reg a :=
    hA.regs _ (cntWord_high h) (by unfold memWord; simp only [DRM_PWR_STATUS, DRM_RD_STATUS]; omega)
  have hprod : u.rn (RING_PROD d.target) = s.rn (RING_PROD d.target) := Blk.rn_of_reg (hring _ (by simp only [RING_PROD]; omega))
  have haddr : u.ringAddr d.target (s.rn (RING_PROD d.target)) = s.ringAddr d.target (s.rn (RING_PROD d.target)) := by
    rw [Blk.ringAddr, Blk.ringSize, Blk.f_of_reg (hring _ (by simp only [RING_CFG]; omega)),
      Blk.val_of_reg fun _ _ => hring _ (by simp only [RING_BASE]; omega), Blk.ringAddr, Blk.ringSize]
  have hcap : u.capacity = s.capacity := Blk.capacity_of_reg (hA.regs _ (by decide) (by unfold memWord; decide))
  obtain ⟨hn, hs, hm, -, hF⟩ := u.slotDone_spec hk d (u.ringPut d.target ws)
  refine ⟨hn, ?_, fun hc => ?_⟩
  · rw [hF.1.rn (cntWord_high (by simp only [RING_PROD]; omega)) (by simp only [streamWord, RING_PROD, PGE_ING_STATUS, PGE_ING_NEXT_SEQ]; omega),
      Blk.rn_ringPut_prod, hprod]
  · have hm' : (u.ringPut d.target ws).mem = (u.imgWrite (ringPort d.target) (s.ringAddr d.target (s.rn (RING_PROD d.target))) (entryBytes ws)).mem := by
      rw [Blk.ringPut, Blk.wn_mem, hprod, haddr]
    rw [Blk.readEntry_of_mem (hm.trans hm'), Blk.readEntry_imgWrite _ _ _ (by rw [hcap]; exact hc), ← hws, leWords_map_mod]

/-- Settles O43: each type of datagram by what its payload writes, and what the end of its turn leaves. -/
theorem ingestApplying : Obligations.IngestApplying := by
  unfold Obligations.IngestApplying
  intro s k d hs
  have hk : k.val < 4 := k.isLt
  refine ⟨fun h ht hv hg hl hc => .of_on (f := ingestData k .none) rfl hs (ingestData_spec hk h ht hv hg hl rfl hc),
    fun h ht hl => .of_on (f := ingestBdset k) rfl hs (ingestBdset_spec hk h ht hl),
    fun h ht hl hsrc hr hw => .of_on (f := fun b => (ingestDesc k b).catchUp) rfl hs ?_⟩
  have htw : (ingestDesc k s.blk).twn.wait = [] := by
    obtain ⟨-, -, -, ht', -⟩ := (s.blk.readStage k d).slotDone_spec hk d ((s.blk.readStage k d).ringPut d.target (leWords (s.blk.staged k d)))
    obtain ⟨⟨regs, evq, dram, e⟩, -, -⟩ := s.blk.accessed_access ingestPort (s.blk.stageAddr k d.seq) d.len false
    obtain ⟨regs', evq', dram', mem', e'⟩ := (s.blk.readStage k d).ringPut_eq d.target (leWords (s.blk.staged k d))
    have he : (s.blk.readStage k d).twn = s.blk.twn := by rw [Blk.readStage, e]
    rw [ingestDesc_eq h ht hl hsrc hr, ht', e']
    exact (congrArg Twn.wait he).trans hw
  rw [Blk.catchUp_of_none htw]
  exact ingestDesc_spec hk h ht hl hsrc hr

end Sys2Proof.Machine
end

section
/-!
PROOFS. The entries of the position schedule, executed (R75, R81, R82).
-/

namespace Sys2Proof.Machine

variable {r s : Blk} {p : Nat → Prop}

/-! ### The entry at the front leaves its schedule (R75) -/

/-- `u` is `r` with the front entry of track `t` gone, `rest` left, and the execution counted. -/
structure Blk.Fronted (r u : Blk) (t : Nat) (rest : List SchedEntry) : Prop where
  eq : ∃ regs evq lck scheds, u = { r with regs := regs, evq := evq, lck := lck, scheds := scheds }
  h : u.lck.h = r.lck.h
  sched : u.sched t = rest
  frame : r.Frame u (· = LCK_SCHED_STATUS t)
  events : r.evq <+: u.evq

theorem Blk.sched_of_scheds (h : s.scheds = r.scheds) (t : Nat) : s.sched t = r.sched t := by rw [Blk.sched, h, Blk.sched]

theorem Blk.sched_putSched (s : Blk) (t : Nat) (l : List SchedEntry) : (s.putSched t l).sched t = l := by
  rw [Blk.putSched, Blk.sched_of_scheds (Blk.setF_scheds _ _ _), Blk.sched_setSched_same]

theorem Blk.putSched_eq (s : Blk) (t : Nat) (l : List SchedEntry) : ∃ regs scheds, s.putSched t l = { s with regs := regs, scheds := scheds } := ⟨_, _, rfl⟩

theorem Blk.Frame.putSched (h : r.Frame s p) {t : Nat} {l : List SchedEntry} (hp : p (LCK_SCHED_STATUS t)) : r.Frame (s.putSched t l) p := by
  rw [Blk.putSched]
  exact (h.put (scheds := (s.setSched t l).scheds)).setF (x := LCK_SCHED_STATUS_COUNT t) hp

theorem Blk.takeEntry_fst {t : Nat} (ht : t < 4) {e : SchedEntry} {rest : List SchedEntry} (hs : s.sched t = e :: rest)
    (htr : s.fb RING_TRACE_CFG_SCHED = false) (hi : e.fromIns = false) :
    ∃ u, s.takeEntry t e = (u, none) ∧ s.Fronted u t rest := by
  unfold Blk.takeEntry
  extract_lets src a b c
  obtain ⟨regs, scheds, hp⟩ := a.putSched_eq t ((a.sched t).erase e)
  have hb : b = (a.putSched t ((a.sched t).erase e)).count 0x09 := rfl
  obtain ⟨regs', evq, hc⟩ := (a.putSched t ((a.sched t).erase e)).count_eq 0x09 1
  have hF : s.Frame b (· = LCK_SCHED_STATUS t) := by
    rw [hb]
    exact (((Blk.Frame.refl s (· = LCK_SCHED_STATUS t)).put (s := s) (lck := a.lck)).putSched rfl).count
  have hfb : b.fb RING_TRACE_CFG_SCHED = false :=
    (hF.1.fb (by decide) (show ¬RING_TRACE_CFG = LCK_SCHED_STATUS t by simp only [RING_TRACE_CFG, LCK_SCHED_STATUS]; omega)).trans htr
  have hsch : b.sched t = rest := by
    rw [hb, Blk.sched_of_scheds (Blk.count_scheds _ _ _), Blk.sched_putSched, show a.sched t = e :: rest from hs, List.erase_cons_head]
  have hev : s.evq <+: b.evq := by
    rw [hb]
    refine .trans ?_ (Blk.evq_count_prefix _ 0x09 1)
    rw [hp]
  have hcb : c = b := if_neg (by rw [hfb]; exact Bool.false_ne_true)
  have heq : ∃ regs evq lck scheds, b = { s with regs := regs, evq := evq, lck := lck, scheds := scheds } := ⟨regs', evq, a.lck, scheds, by rw [hb, hc, hp]⟩
  have hh : b.lck.h = s.lck.h := by rw [hb, hc, hp]
  rw [hcb]
  clear_value b
  exact ⟨b, by rw [hi]; rfl, heq, hh, hsch, hF, hev⟩

namespace Blk.Fronted

variable {u : Blk} {t : Nat} {rest : List SchedEntry} (h : r.Fronted u t rest)
include h

theorem now : u.now = r.now := by obtain ⟨_, _, _, _, e⟩ := h.eq; rw [e]
theorem pev (n : Nat) : u.pev n = r.pev n := by obtain ⟨_, _, _, _, e⟩ := h.eq; rw [e]; rfl
theorem ax (n : Nat) : u.ax n = r.ax n := by obtain ⟨_, _, _, _, e⟩ := h.eq; rw [e]; rfl
theorem trk (n : Nat) : u.trk n = r.trk n := by obtain ⟨_, _, _, _, e⟩ := h.eq; rw [e]; rfl

end Blk.Fronted

/-! ### The entry that is due is the one that executes (R75) -/

/-- What makes the front entry of a track the one that executes now. -/
structure Blk.Due (s : Blk) (trk t : Nat) (e : SchedEntry) (rest : List SchedEntry) : Prop where
  sched : s.sched trk = e :: rest
  own : e.fromIns = false
  pos : e.pos ≤ s.lck.h
  now : t ≤ s.now
  runs : s.running = true
  free : s.lckHold = false
  ahead : s.masterRev = false
  room : s.ranNow < 4
  lower : ∀ u, u < trk → s.dueEntry u = none
  abort : (s.trk trk).abortWait = false
  trace : s.fb RING_TRACE_CFG_SCHED = false

theorem le_foldl_add {α : Type} (f : α → Nat) (l : List α) (n : Nat) : n ≤ l.foldl (fun n u => n + f u) n := by
  induction l generalizing n with
  | nil => exact le_refl _
  | cons x l ih => exact (Nat.le_add_right _ _).trans (ih _)

theorem Blk.Due.exec {trk t : Nat} (ht : trk < 4) {e : SchedEntry} {rest : List SchedEntry} (h : s.Due trk t e rest) :
    ∃ u, s.Fronted u trk rest ∧ s.execDue trk t e.kind = u.entryAct trk e := by
  obtain ⟨hs, hi, hpos, hnow, hrun, hfree, hrev, hroom, hlow, hab, htr⟩ := h
  obtain ⟨u, hu, hF⟩ := s.takeEntry_fst ht hs htr hi
  refine ⟨u, hF, ?_⟩
  have hdue : s.dueEntry trk = some e := by
    rw [Blk.dueEntry, hs]
    simp [hrun, hfree, hrev, hpos]
  have hfind : ((List.range trk).find? fun u => (s.dueEntry u).isSome) = none :=
    List.find?_eq_none.2 fun v hv => by rw [hlow v (List.mem_range.1 hv)]; exact Bool.false_ne_true
  have hrunE : s.runEntry trk e markerFuel = u.entryAct trk e := by
    rw [markerFuel, Blk.runEntry, if_neg (by rw [Blk.startDropped, hab, Bool.and_false, Bool.false_and]; exact Bool.false_ne_true), hu]
  obtain ⟨n, hn⟩ : ∃ n, (List.range trk).foldl (fun n u => n + (s.sched u).length) markerFuel = n + 1 := by
    have hle : 160 ≤ (List.range trk).foldl (fun n u => n + (s.sched u).length) markerFuel := le_foldl_add _ _ _
    exact ⟨_, (Nat.sub_add_cancel (show 1 ≤ _ by omega)).symm⟩
  rw [Blk.execDue, Blk.advance_of_le _ hnow, hdue]
  simp only [if_true]
  rw [hn, Blk.runDue, if_pos hroom]
  simp only [hfind, hdue]
  exact hrunE

/-! ### PEV outputs (R82, R494) -/

theorem Blk.pev_of_pevs (h : s.pevs = r.pevs) (n : Nat) : s.pev n = r.pev n := by rw [Blk.pev, h, Blk.pev]

theorem Blk.putPev_spec (s : Blk) {n : Nat} (hn : n < 8) (x : Pev) :
    (s.putPev n x).pev n = x ∧ (s.putPev n x).f ⟨PAD_PEV_STATE, n, n⟩ = b2n x.active ∧ (s.putPev n x).scheds = s.scheds ∧
      s.Frame (s.putPev n x) (· = PAD_PEV_STATE) := by
  unfold Blk.putPev
  extract_lets was u
  have hp : u.pev n = x := (Blk.pev_of_pevs (Blk.setF_pevs _ _ _) n).trans (Blk.pev_setPev_same _ _ _)
  have hf : u.f ⟨PAD_PEV_STATE, n, n⟩ = b2n x.active := by
    refine (Blk.f_setF_same _ _ _ (le_refl _) (show n < 24 by omega)).trans ?_
    rw [Nat.sub_self]
    cases x.active <;> rfl
  have hs : u.scheds = s.scheds := Blk.setF_scheds _ _ _
  have hF : s.Frame u (· = PAD_PEV_STATE) := ((Blk.Frame.refl s (· = PAD_PEV_STATE)).put (pevs := (s.setPev n x).pevs)).setF (x := ⟨PAD_PEV_STATE, n, n⟩) rfl
  clear_value u
  split
  · exact ⟨hp, hf, hs, hF⟩
  · exact ⟨hp, hf, hs, hF.emit⟩

/-- What a pulse makes of an output. -/
def Blk.pulsed (s : Blk) (n : Nat) (us : Bool) (width : Nat) : Pev :=
  if us then ⟨false, some ((s.pev n).endUs.elim (s.now + 250 * max 1 width) (max · (s.now + 250 * max 1 width))), (s.pev n).endH⟩
  else ⟨false, (s.pev n).endUs, some ((s.pev n).endH.elim (s.lck.h + 256 * max 1 width) (max · (s.lck.h + 256 * max 1 width)))⟩

theorem Blk.pevPulse_eq (s : Blk) (n : Nat) (us : Bool) (width : Nat) : s.pevPulse n us width = (s.putPev n (s.pulsed n us width)).count 0x6A := by
  unfold Blk.pevPulse
  extract_lets x w mx mxI q
  have hq : q = s.pulsed n us width := by
    unfold Blk.pulsed
    cases us
    · simp only [q, x, mxI, w, atLeast1, Bool.false_eq_true, if_false]
      cases (s.pev n).endH <;> simp [Int.mul_comm]
    · simp only [q, x, mx, w, atLeast1, if_true]
      cases (s.pev n).endUs <;> simp [Nat.mul_comm]
  rw [hq]

theorem Blk.active_pulsed (s : Blk) (n : Nat) (us : Bool) (width : Nat) : (s.pulsed n us width).active = true := by
  cases us <;> simp [Blk.pulsed, Pev.active]

/-! ### Ratios and marks (R218, R278) -/

theorem Blk.cameraMark_spec (s : Blk) (c : Nat) (pos : Int) :
    (s.cameraMark c pos).fb (INS_CAM_STATUS_MARK_ARMED c) = true ∧ ((s.cameraMark c pos).cam c).mark = some pos ∧
      (s.cameraMark c pos).scheds = s.scheds ∧ s.Frame (s.cameraMark c pos) (· = INS_CAM_STATUS c) := by
  have hb : (s.setF (INS_CAM_STATUS_MARK_ARMED c) 1).fb (INS_CAM_STATUS_MARK_ARMED c) = true := Blk.fb_setF_same _ _ _ (by simp) (by simp)
  have hF : s.Frame (s.setF (INS_CAM_STATUS_MARK_ARMED c) 1) (· = INS_CAM_STATUS c) := (Blk.Frame.refl s _).setF rfl
  have hs := Blk.setF_scheds s (INS_CAM_STATUS_MARK_ARMED c) 1
  unfold Blk.cameraMark
  extract_lets u
  have hu : u = s.setF (INS_CAM_STATUS_MARK_ARMED c) 1 := rfl
  rw [← hu] at hb hF hs
  clear_value u
  exact ⟨hb, congrArg Cam.mark (Blk.cam_setCam_same _ _ _), hs, hF.put⟩

/-! ### The boundary that a PAGE_START brings (R76) -/

/-- What a page boundary may touch: register words, held values, the composition's tables, alignment versions, held trims and events. -/
def Blk.Bounded (r s : Blk) : Prop :=
  ∃ regs held cmp ins evq trm, s = { r with regs := regs, held := held, cmp := cmp, ins := ins, evq := evq, trm := trm }

namespace Blk.Bounded

theorem refl (r : Blk) : r.Bounded r := ⟨r.regs, r.held, r.cmp, r.ins, r.evq, r.trm, rfl⟩

theorem trans {t : Blk} (h : r.Bounded s) (g : s.Bounded t) : r.Bounded t := by
  obtain ⟨_, _, _, _, _, _, rfl⟩ := h
  obtain ⟨_, _, _, _, _, _, rfl⟩ := g
  exact ⟨_, _, _, _, _, _, rfl⟩

theorem put (h : r.Bounded s) {regs held cmp ins evq trm} :
    r.Bounded { s with regs := regs, held := held, cmp := cmp, ins := ins, evq := evq, trm := trm } :=
  h.trans ⟨_, _, _, _, _, _, rfl⟩

theorem wn (h : r.Bounded s) {a v : Nat} : r.Bounded (s.wn a v) := h.put
theorem setF (h : r.Bounded s) {x : Fld} {v : Nat} : r.Bounded (s.setF x v) := h.wn
theorem raise (h : r.Bounded s) {c i d0 d1 : Nat} : r.Bounded (s.raise c i d0 d1) := h.put

theorem ite {t : Blk} {c : Prop} [Decidable c] (hs : r.Bounded s) (ht : r.Bounded t) : r.Bounded (if c then s else t) := by
  split
  · exact hs
  · exact ht

theorem foldl {α : Type} {f : Blk → α → Blk} (hf : ∀ u x, r.Bounded u → r.Bounded (f u x)) (l : List α) (h : r.Bounded s) :
    r.Bounded (l.foldl f s) :=
  List.foldlRecOn (motive := fun u => r.Bounded u) l f h fun u hu x _ => hf u x hu

theorem commit (h : r.Bounded s) (q : Held → Bool) : r.Bounded (s.commit q) := by
  obtain ⟨regs, held, e⟩ := s.commit_eq q
  rw [e]
  exact h.put

theorem commitView (h : r.Bounded s) (v : Nat) : r.Bounded (s.commitView v) := by
  unfold Blk.commitView
  exact ite h (commit h.put _)

theorem toneStep (h : r.Bounded s) (v k : Nat) : r.Bounded (Blk.toneStep v s k) := by
  unfold Blk.toneStep
  extract_lets d s1 x
  exact ite h (ite (h.setF.put (s := s1)) h.put)

theorem thrStep (h : r.Bounded s) (v : Nat) : r.Bounded (s.thrStep v) := by
  unfold Blk.thrStep
  extract_lets d a b s1 x
  exact ite h (ite (((h.setF (x := SCR_STATUS_PENDING) (v := 0)).wn.wn).put (s := s1)) h.put)

theorem takeTheta (h : r.Bounded s) (k : Nat) : r.Bounded (s.takeTheta k) := by
  unfold Blk.takeTheta
  extract_lets temp last set0
  split
  · exact h.wn
  · exact ite h.wn h

theorem alnTake (h : r.Bounded s) (v k : Nat) : r.Bounded (Blk.alnTake v s k) := by
  unfold Blk.alnTake
  extract_lets a old x b src c
  have ha : r.Bounded a := ite (h.takeTheta k) h
  have hb : r.Bounded b := ite ha.setF ha
  clear_value a old x b
  have hc : r.Bounded c := hb.put
  clear_value c
  exact ite h (ite hb (ite hc hc.raise))

theorem viewBoundary (h : r.Bounded s) (v : Nat) : r.Bounded (s.viewBoundary v) := by
  unfold Blk.viewBoundary
  extract_lets a b c d
  have ha : r.Bounded a := h.put
  have hb : r.Bounded b := ha.commitView v
  have hc : r.Bounded c := foldl (fun u x hu => hu.toneStep v x) _ hb
  have hd : r.Bounded d := hc.thrStep v
  exact foldl (fun u x hu => hu.alnTake v x) _ hd

theorem pageBoundary (h : r.Bounded s) (t : Nat) : r.Bounded (s.pageBoundary t) := (h.commit _).viewBoundary t

theorem trks (h : r.Bounded s) : s.trks = r.trks := by obtain ⟨_, _, _, _, _, _, rfl⟩ := h; rfl
theorem scheds (h : r.Bounded s) : s.scheds = r.scheds := by obtain ⟨_, _, _, _, _, _, rfl⟩ := h; rfl

end Blk.Bounded

theorem Blk.boundaryOf_keeps (s : Blk) (t : Nat) (x : Page) : (s.boundaryOf t x).trks = s.trks ∧ (s.boundaryOf t x).scheds = s.scheds := by
  unfold Blk.boundaryOf
  extract_lets src b src'
  have h : ({ s with twn := { s.twn with thetas := x.theta } } : Blk).Bounded b := (Blk.Bounded.refl _).pageBoundary t
  exact ⟨h.trks, h.scheds⟩

theorem Blk.startBoundary_spec {t : Nat} {e : SchedEntry} {x : Page} (hp : (s.trk t).pages = [x]) (hb : x.bounded = false)
    (he : q256 x.cRaw = e.pos) (hl : x.start ≤ s.lineIndex t + 3) :
    (s.startBoundary t e).scheds = s.scheds ∧ ((s.startBoundary t e).trk t).pages = [{ x with bounded := true }] := by
  unfold Blk.startBoundary
  extract_lets y
  have hf : (y.pages.find? fun p => !p.bounded && decide (q256 p.cRaw = e.pos ∧ p.start ≤ s.lineIndex t + 3)) = some x := by
    rw [show y.pages = [x] from hp, List.find?_cons_of_pos (by simp [hb, he, hl])]
  rw [hf]
  simp only
  obtain ⟨ht, hsc⟩ := Blk.boundaryOf_keeps (s.setTrk t { y with pages := y.pages.map fun q => if q = x then { q with bounded := true } else q }) t x
  refine ⟨hsc, ?_⟩
  rw [Blk.trk, ht, ← Blk.trk, Blk.trk_setTrk_same, show y.pages = [x] from hp]
  simp

/-! ### The obligation -/

theorem Blk.axisRatio_kept {n k : Nat} (hn : n < 6) (hk : k < 8) (ha : s.axState n ≠ 4) :
    (s.axisRatio n k).f (AXS_GEAR_SLOT n) = k ∧ (s.axisRatio n k).scheds = s.scheds ∧ s.Frame (s.axisRatio n k) (· = AXS_GEAR n) := by
  have hs : (s.setF (AXS_GEAR_SLOT n) k).axState n = s.axState n :=
    Blk.f_setF_ne _ _ _ _ (by simp) (by simp) (by simp) (.inl (by simp only [AXS_STATUS, AXS_GEAR]; omega))
  rw [Blk.axisRatio, if_neg (by omega)]
  simp only [hs, if_neg ha]
  exact ⟨(Blk.f_setF_same _ _ _ (by simp) (by simp)).trans (Nat.mod_eq_of_lt hk), Blk.setF_scheds _ _ _, (Blk.Frame.refl s (· = AXS_GEAR n)).setF (x := AXS_GEAR_SLOT n) rfl⟩

/-- The axis whose gear takes slot `k` at once. -/
def Blk.regeared (s : Blk) (n k : Nat) (g : Gear) : Ax :=
  let q : Gear := { g with aN := s.gearCmd n g, aD := 1, pSw := s.srcPos n, ramp := 0 }
  { s.ax n with gear := some { q with r0 := s.slotRatio n k, r1 := none } }

theorem Blk.ratioChange_taken (s : Blk) {n k : Nat} {g : Gear} (hg : (s.ax n).gear = some g) (h1 : g.r1 = none) (hr : s.rn (AXS_GEAR_RAMP n) = 0) :
    s.ratioChange n k = (s.setAx n (s.regeared n k g)).setF (AXS_STATUS_SLOT_ACT n) k := by
  unfold Blk.ratioChange
  rw [hg]
  simp only [h1, Option.isSome_none, Bool.false_eq_true, if_false, hr, if_true, Blk.regeared]

theorem Blk.axisRatio_taken {n k : Nat} {g : Gear} (hn : n < 6) (hk : k < 8) (ha : s.axState n = 4) (hg : (s.ax n).gear = some g) (h1 : g.r1 = none)
    (hr : s.rn (AXS_GEAR_RAMP n) = 0) :
    (s.axisRatio n k).f (AXS_GEAR_SLOT n) = k ∧ (s.axisRatio n k).f (AXS_STATUS_SLOT_ACT n) = k ∧
      (∃ h : Gear, ((s.axisRatio n k).ax n).gear = some h ∧ h.r0 = s.slotRatio n k ∧ h.r1 = none) ∧ (s.axisRatio n k).scheds = s.scheds := by
  have hs : (s.setF (AXS_GEAR_SLOT n) k).axState n = s.axState n :=
    Blk.f_setF_ne _ _ _ _ (by simp) (by simp) (by simp) (.inl (by simp only [AXS_STATUS, AXS_GEAR]; omega))
  have hf : (s.setF (AXS_GEAR_SLOT n) k).f (AXS_GEAR_SLOT n) = k := (Blk.f_setF_same _ _ _ (by simp) (by simp)).trans (Nat.mod_eq_of_lt hk)
  have hg' : ((s.setF (AXS_GEAR_SLOT n) k).ax n).gear = some g := (congrArg Ax.gear (Blk.ax_setF _ _ _ _)).trans hg
  have hr' : (s.setF (AXS_GEAR_SLOT n) k).rn (AXS_GEAR_RAMP n) = 0 := (Blk.rn_setF_ne _ _ _ (by simp)).trans hr
  have hq : (s.setF (AXS_GEAR_SLOT n) k).slotRatio n k = s.slotRatio n k := by
    rw [Blk.slotRatio, Blk.rn_setF_ne _ _ _ (by simp only [AXS_RATIO_NUM, AXS_GEAR]; omega),
      Blk.rn_setF_ne _ _ _ (by simp only [AXS_RATIO_DEN, AXS_GEAR]; omega), Blk.slotRatio]
  have hsch : (s.setF (AXS_GEAR_SLOT n) k).scheds = s.scheds := Blk.setF_scheds _ _ _
  have heq : s.axisRatio n k = (s.setF (AXS_GEAR_SLOT n) k).ratioChange n k := by
    rw [Blk.axisRatio, if_neg (by omega)]
    simp only [hs, if_pos ha]
  rw [heq, ← hq, ← hsch]
  generalize s.setF (AXS_GEAR_SLOT n) k = u at hf hg' hr' ⊢
  rw [u.ratioChange_taken hg' h1 hr']
  obtain ⟨h, hxg, hr0, hr1⟩ : ∃ h, (u.regeared n k g).gear = some h ∧ h.r0 = u.slotRatio n k ∧ h.r1 = none := ⟨_, rfl, rfl, rfl⟩
  generalize u.regeared n k g = x at hxg ⊢
  refine ⟨?_, ?_, ⟨h, ?_, hr0, hr1⟩, (Blk.setF_scheds _ _ _).trans (show (u.setAx n x).scheds = u.scheds by rw [Blk.setAx])⟩
  · rw [Blk.f_setF_ne _ _ _ _ (by simp) (by simp) (by simp) (.inl (by simp only [AXS_STATUS, AXS_GEAR]; omega)), Blk.f_setAx]
    exact hf
  · exact (Blk.f_setF_same _ _ _ (by simp) (by simp)).trans (Nat.mod_eq_of_lt hk)
  · rw [Blk.ax_setF, Blk.ax_setAx, hxg]

/-- Settles O4: the entry at the front leaves its schedule, and its action is that of its kind. -/
theorem scheduleEntries : Obligations.ScheduleEntries := by
  unfold Obligations.ScheduleEntries
  intro s trk t e rest hs hsc hins hpos hnow hrun hfree hrev hroom hlow hab htr
  have hD : s.blk.Due trk t e rest := ⟨hsc, hins e (by simp), hpos, hnow, hrun, hfree, hrev, hroom, hlow, hab, htr⟩
  obtain ⟨u, hF, hex⟩ := hD.exec trk.isLt
  have h3 : bits e.arg0 2 0 < 8 := bits_lt _ _ _
  have h5 : bits e.arg0 5 3 < 8 := bits_lt _ _ _
  refine ⟨fun hk => .of_on (f := fun b => b.execDue trk t 3) rfl hs ?_, fun hk => .of_on (f := fun b => b.execDue trk t 2) rfl hs ?_,
    fun hk hn ha => .of_on (f := fun b => b.execDue trk t 4) rfl hs ?_,
    fun hk hn ha g hg h1 hr => .of_on (f := fun b => b.execDue trk t 4) rfl hs ?_,
    fun hk => .of_on (f := fun b => b.execDue trk t 5) rfl hs ?_, fun hk => .of_on (f := fun b => b.execDue trk t 6) rfl hs ?_,
    fun hk => .of_on (f := fun b => b.execDue trk t 7) rfl hs ?_,
    fun hk x hx hb he hl => .of_on (f := fun b => b.execDue trk t 1) rfl hs ?_⟩
  all_goals rw [hk] at hex
  all_goals simp only [hex, Blk.entryAct, hk]
  · obtain ⟨hp, hf, hsch, hP⟩ := u.putPev_spec h3 ⟨bitOf e.arg0 4, none, none⟩
    refine ⟨hp, (Blk.sched_of_scheds hsch _).trans hF.sched, hf.trans ?_, (hF.frame.mono fun a h => .inr h).trans (hP.mono fun a h => .inl h)⟩
    simp [Pev.active]
  · have hn := hF.now
    have hpv := hF.pev (bits e.arg0 2 0)
    rw [u.pevPulse_eq]
    obtain ⟨hp, hf, hsch, hP⟩ := u.putPev_spec h3 (u.pulsed (bits e.arg0 2 0) (bitOf e.arg0 3) e.arg1)
    generalize u.putPev (bits e.arg0 2 0) (u.pulsed (bits e.arg0 2 0) (bitOf e.arg0 3) e.arg1) = w at hp hf hsch hP ⊢
    rw [Blk.active_pulsed] at hf
    have hp' : (w.count 0x6A).pev (bits e.arg0 2 0) = s.blk.pulsed (bits e.arg0 2 0) (bitOf e.arg0 3) e.arg1 := by
      rw [Blk.pev_of_pevs (Blk.count_pevs _ _ _), hp, Blk.pulsed, hpv, hn, hF.h, Blk.pulsed]
    refine ⟨fun hu => hp'.trans (by rw [hu]; rfl), fun hu => hp'.trans (by rw [hu]; rfl), (Blk.sched_of_scheds ((Blk.count_scheds _ _ _).trans hsch) _).trans hF.sched,
      (Blk.f_of_reg (Blk.reg_count _ _ _ (cntWord_high (show 0x180102 ≤ PAD_PEV_STATE by decide)))).trans hf,
      (hF.frame.mono fun a h => .inr h).trans (hP.count.mono fun a h => .inl h)⟩
  · have ha' : u.axState (bits e.arg0 2 0) ≠ 4 := by
      rw [Blk.axState, hF.frame.1.f (cntWord_low (by simp only [AXS_STATUS]; omega)) (by simp only [AXS_STATUS, LCK_SCHED_STATUS]; omega)]
      exact ha
    obtain ⟨hf, hsch, hP⟩ := Blk.axisRatio_kept hn h5 ha'
    exact ⟨hf, (Blk.sched_of_scheds hsch _).trans hF.sched, (hF.frame.mono fun a h => .inr h).trans (hP.mono fun a h => .inl h)⟩
  · have hlow (a : Nat) (h : 0xe0000 ≤ a) (h' : a < 0x180002) : u.reg a = s.blk.reg a :=
      hF.frame.1 a (cntWord_low h') (by simp only [LCK_SCHED_STATUS]; omega)
    have ha' : u.axState (bits e.arg0 2 0) = 4 := (Blk.f_of_reg (hlow _ (by simp only [AXS_STATUS]; omega) (by simp only [AXS_STATUS]; omega))).trans ha
    have hr' : u.rn (AXS_GEAR_RAMP (bits e.arg0 2 0)) = 0 :=
      (Blk.rn_of_reg (hlow _ (by simp only [AXS_GEAR_RAMP]; omega) (by simp only [AXS_GEAR_RAMP]; omega))).trans hr
    have hq : u.slotRatio (bits e.arg0 2 0) (bits e.arg0 5 3) = s.blk.slotRatio (bits e.arg0 2 0) (bits e.arg0 5 3) := by
      rw [Blk.slotRatio, Blk.rn_of_reg (hlow _ (by simp only [AXS_RATIO_NUM]; omega) (by simp only [AXS_RATIO_NUM]; omega)),
        Blk.rn_of_reg (hlow _ (by simp only [AXS_RATIO_DEN]; omega) (by simp only [AXS_RATIO_DEN]; omega)), Blk.slotRatio]
    obtain ⟨hf, hact, hgear, hsch⟩ := Blk.axisRatio_taken hn h5 ha' (by rw [hF.ax, hg]) h1 hr'
    exact ⟨hf, hact, hq ▸ hgear, (Blk.sched_of_scheds hsch _).trans hF.sched⟩
  · obtain ⟨hb, hm, hsch, hP⟩ := u.cameraMark_spec (bits e.arg0 1 0) e.pos
    exact ⟨hb, hm, (Blk.sched_of_scheds hsch _).trans hF.sched, (hF.frame.mono fun a h => .inr h).trans (hP.mono fun a h => .inl h)⟩
  · refine ⟨Blk.Raised.of_left ⟨_, _, rfl, List.mem_singleton.2 rfl, rfl, ?_, ?_, rfl⟩ hF.events, hF.sched, hF.frame.raise⟩
    · exact Nat.mod_eq_of_lt (by omega)
    · exact Nat.mod_eq_of_lt (by omega)
  · rw [hF.sched]
    exact ⟨u.sched_putSched _ _, hF.frame.putSched rfl⟩
  · have hl' : x.start ≤ u.lineIndex trk + 3 := by
      rw [hF.frame.1.lineIndex trk.isLt (fun i hi => by simp only [LCK_LINE_INDEX, LCK_SCHED_STATUS]; omega)]
      exact hl
    obtain ⟨hsch, hpg⟩ := Blk.startBoundary_spec (by rw [hF.trk]; exact hx) hb he hl'
    exact ⟨(Blk.sched_of_scheds hsch _).trans hF.sched, hpg⟩

end Sys2Proof.Machine
end

section
/-!
PROOFS. Fetch bursts of layers, and the gather of a cell (R103, R107, R112, R126, R127).
-/

namespace Sys2Proof.Machine

variable {r s : Blk} {p : Nat → Prop}

/-! ### Lines counted on (R107, R111, R112) -/

/-- `s` is `r` with pages of track `t` counted on: what shows is the status word, events and counters. -/
structure Blk.Settling (t : Nat) (r s : Blk) : Prop where
  rest : ∃ regs evq trks, s = { r with regs := regs, evq := evq, trks := trks }
  regs : r.RegsBut s (· = PGE_TRK_STATUS t)
  events : r.evq <+: s.evq
  viol : s.fb (PGE_TRK_STATUS_VIOLATION t) = r.fb (PGE_TRK_STATUS_VIOLATION t)

namespace Blk.Settling

variable {t : Nat}

theorem refl (r : Blk) (t : Nat) : r.Settling t r := ⟨⟨_, _, _, rfl⟩, .refl r _, List.prefix_rfl, rfl⟩

theorem trans {u : Blk} (h : r.Settling t s) (g : s.Settling t u) : r.Settling t u := by
  obtain ⟨⟨_, _, _, e⟩, hr, hq, hv⟩ := h
  obtain ⟨⟨_, _, _, e'⟩, hr', hq', hv'⟩ := g
  exact ⟨⟨_, _, _, by rw [e', e]⟩, hr.trans hr', hq.trans hq', hv'.trans hv⟩

theorem cmp (h : r.Settling t s) : s.cmp = r.cmp := by
  obtain ⟨⟨_, _, _, e⟩, -, -, -⟩ := h
  rw [e]

theorem calm (h : r.Settling t s) : r.Calm s := by
  obtain ⟨⟨_, _, _, e⟩, -, -, -⟩ := h
  exact .of_eq (by rw [e]) (by rw [e]) (by rw [e])

theorem putTrk (s : Blk) (t : Nat) (x : Trk) : s.Settling t (s.putTrk t x) := by
  have hr : s.Frame (s.putTrk t x) (· = PGE_TRK_STATUS t) := (Blk.Frame.refl s _).putTrk rfl
  refine ⟨⟨_, s.evq, _, rfl⟩, hr.1, ?_, ?_⟩
  · rw [Blk.putTrk, Blk.setF_evq]
    exact List.prefix_rfl
  · rw [Blk.putTrk, Blk.fb_setF_ne _ _ _ _ (by simp) (by simp) (by simp) (by simp)]
    exact Blk.fb_of_reg rfl

theorem codecError (s : Blk) {t : Nat} (ht : t < 4) (slot cell bd : Nat) : s.Settling t (s.codecError t slot cell bd) := by
  unfold Blk.codecError
  have hF : s.Frame (s.setF (PGE_TRK_STATUS_CODEC t) 1) (· = PGE_TRK_STATUS t) := (Blk.Frame.refl s _).setF rfl
  have hv : (s.setF (PGE_TRK_STATUS_CODEC t) 1).fb (PGE_TRK_STATUS_VIOLATION t) = s.fb (PGE_TRK_STATUS_VIOLATION t) :=
    s.fb_setF_bit _ _ (by decide)
  have hq := Blk.setF_evq s (PGE_TRK_STATUS_CODEC t) 1
  have he := s.setF_eq (PGE_TRK_STATUS_CODEC t) 1
  generalize s.setF (PGE_TRK_STATUS_CODEC t) 1 = a at hF hv hq he ⊢
  obtain ⟨regs, evq, hc⟩ := (a.raiseT 0x207 t (t * 2 ^ 22 + cell % 16 * 4 + slot) bd).count_eq 0x17 1
  refine ⟨⟨regs, evq, s.trks, ?_⟩, hF.raiseT.count.1, ?_, ?_⟩
  · rw [hc, he]
    rfl
  · refine .trans ?_ (Blk.evq_count_prefix _ 0x17 1)
    rw [← hq]
    exact List.prefix_append _ _
  · rw [← hv]
    exact Blk.fb_of_reg (Blk.reg_count _ _ _ (cntWord_low (by simp only [PGE_TRK_STATUS]; omega)))

end Blk.Settling

/-- What the counting on of lines keeps of a page. -/
structure Blk.SettleKeeps (t : Nat) (r : Blk) (q : Page → Prop) : Prop where
  fetched : ∀ p n, q p → q { p with fetched := n }
  ended : ∀ p l e, q p → q { p with codec := true, layers := p.layers.map fun k => if k = l then { k with endLine := e } else k }
  noted : ∀ s p y n, r.Settling t s → q p → q { p with layers := p.layers.map fun l => s.noteNext t p l y, fetched := n }

theorem Blk.SettleKeeps.settleLines {t : Nat} (ht : t < 4) {q : Page → Prop} (hk : r.SettleKeeps t q) (n : Nat) {s : Blk} {x : Page} (hs : r.Settling t s)
    (hx : q x) : r.Settling t (Blk.settleLines t n s x).1 ∧ q (Blk.settleLines t n s x).2 := by
  induction n generalizing s x with
  | zero => exact ⟨hs, hx⟩
  | succ n ih =>
    unfold Blk.settleLines
    split
    · exact ⟨hs, hk.fetched _ _ hx⟩
    · next i _ =>
      extract_lets x' y
      have hx' : q x' := hk.fetched _ _ hx
      clear_value x'
      split
      · exact ⟨hs, hx'⟩
      · split
        · exact ih (hs.trans (.codecError s ht _ _ _)) (hk.ended _ _ _ hx')
        · split
          · exact ih hs (hk.noted s x' y (i + 1) hs hx')
          · exact ⟨hs, hx'⟩

theorem Blk.settling_settleLines {t : Nat} (ht : t < 4) (n : Nat) (s : Blk) (x : Page) : s.Settling t (Blk.settleLines t n s x).1 :=
  (Blk.SettleKeeps.settleLines (q := fun _ => True) ht ⟨fun _ _ _ => trivial, fun _ _ _ _ => trivial, fun _ _ _ _ _ _ => trivial⟩ n (.refl s t) trivial).1

theorem Blk.pages_of_settling {t : Nat} {x y : Page} {q : Page → Prop} (hx : ∃ z ∈ (s.trk t).pages, q z) (hy : q x → q y) :
    ∃ z ∈ ((s.putPage t x y).trk t).pages, q z := by
  obtain ⟨z, hz, hq⟩ := hx
  rw [Blk.putPage, Blk.trk_putTrk_same]
  refine ⟨if z = x then y else z, List.mem_map_of_mem (f := fun r => if r = x then y else r) hz, ?_⟩
  split
  · next h => exact hy (h ▸ hq)
  · exact hq

theorem Blk.trks_raiseT (s : Blk) (c t d0 d1 : Nat) : (s.raiseT c t d0 d1).trks = s.trks := rfl

theorem Blk.trks_codecError (s : Blk) (t slot cell bd : Nat) : (s.codecError t slot cell bd).trks = s.trks := by
  rw [Blk.codecError, Blk.count_trks, Blk.trks_raiseT, Blk.setF_trks]

/-- Settling of lines leaves what the track holds; only `settleTrack` writes the pages back. -/
theorem Blk.trks_settleLines (t n : Nat) (s : Blk) (x : Page) : (Blk.settleLines t n s x).1.trks = s.trks := by
  induction n generalizing s x with
  | zero => rfl
  | succ n ih =>
    unfold Blk.settleLines
    split
    · rfl
    · extract_lets x' y
      split
      · rfl
      · split
        · exact (ih _ _).trans (Blk.trks_codecError _ _ _ _ _)
        · split
          · exact ih _ _
          · rfl

theorem Blk.SettleKeeps.settleTrack {t : Nat} (ht : t < 4) {q : Page → Prop} (hk : r.SettleKeeps t q) (h : r.Settling t s) (hx : ∃ x ∈ (s.trk t).pages, q x) :
    r.Settling t (s.settleTrack t) ∧ ∃ x ∈ ((s.settleTrack t).trk t).pages, q x := by
  unfold Blk.settleTrack
  refine List.foldlRecOn (motive := fun u => r.Settling t u ∧ ∃ x ∈ (u.trk t).pages, q x) _ _ ⟨h, hx⟩ ?_
  rintro u ⟨hu, hq⟩ y -
  extract_lets z
  have hz : r.Settling t z.1 := hu.trans (Blk.settling_settleLines ht 256 u y)
  have hzq : ∃ x ∈ (z.1.trk t).pages, q x := by
    rw [Blk.trk_of_trks (Blk.trks_settleLines t 256 u y) t]
    exact hq
  have hzy : q y → q z.2 := fun g => (hk.settleLines ht 256 hu g).2
  clear_value z
  split
  · exact ⟨hz, hzq⟩
  · exact ⟨hz.trans (.putTrk _ _ _), Blk.pages_of_settling hzq hzy⟩

/-! ### What a burst has brought is kept (R103, R107) -/

theorem Blk.gatherFrom_congr {t : Nat} {x y : Page} {k l : Layer} (hc : s.cmp = r.cmp) (hl : s.lineIndex t = r.lineIndex t) (hf : s.fireNum = r.fireNum)
    (hs : x.start = y.start) (hd : k.desc = l.desc) : s.gatherFrom t x k = r.gatherFrom t y l := by
  have hcells : k.cells = l.cells := by
    cases k
    cases l
    cases hd
    rfl
  rw [Blk.gatherFrom, hcells, hc, hl, hf, hs, Blk.gatherFrom]

theorem noteNext_spec (s : Blk) (t : Nat) (x : Page) (l : Layer) (y : Nat) :
    (s.noteNext t x l y).slot = l.slot ∧ (s.noteNext t x l y).desc = l.desc ∧ (s.noteNext t x l y).stopped = l.stopped ∧
      ∃ low, low ≤ s.gatherFrom t x l / (1 + b2n l.yrep) ∧
        ((s.noteNext t x l y).chunks = l.chunks ∨ (s.noteNext t x l y).chunks = l.chunks.filter fun e => low ≤ e.1) := by
  unfold Blk.noteNext
  split
  · exact ⟨rfl, rfl, rfl, 0, Nat.zero_le _, .inl rfl⟩
  · split
    · split
      · exact ⟨rfl, rfl, rfl, 0, Nat.zero_le _, .inl rfl⟩
      · exact ⟨rfl, rfl, rfl, _, min_le_right _ _, .inr rfl⟩
    · exact ⟨rfl, rfl, rfl, 0, Nat.zero_le _, .inl rfl⟩

/-- A layer that has just read burst `b` for coded line `c`. -/
structure Layer.Brought (l k : Layer) (c b : Nat) (bytes : List Byte) : Prop where
  slot : k.slot = l.slot
  desc : k.desc = l.desc
  head : k.chunks.head? = some (c, b, bytes)

theorem head?_filter_of {α : Type} {l : List α} {x : α} {f : α → Bool} (h : l.head? = some x) (hf : f x = true) : (l.filter f).head? = some x := by
  cases l with
  | nil => cases h
  | cons y l =>
    obtain rfl : y = x := Option.some.inj h
    rw [List.filter_cons_of_pos hf]
    rfl

theorem Layer.Brought.noteNext {l k : Layer} {c b t : Nat} {bytes : List Byte} (h : l.Brought k c b bytes) {x : Page} {y : Nat}
    (hg : s.gatherFrom t x k ≤ c * (1 + b2n k.yrep)) : l.Brought (s.noteNext t x k y) c b bytes := by
  obtain ⟨hs, hd, -, low, hlow, hch⟩ := noteNext_spec s t x k y
  refine ⟨hs.trans h.slot, hd.trans h.desc, ?_⟩
  obtain hch | hch := hch
  · rw [hch, h.head]
  · rw [hch]
    refine head?_filter_of h.head (decide_eq_true ?_)
    exact hlow.trans (Nat.div_le_of_le_mul (by rw [Nat.mul_comm]; exact hg))

/-- A page that holds what a burst brought. -/
def Page.Has (start : Nat) (l : Layer) (c b : Nat) (bytes : List Byte) (x : Page) : Prop := x.start = start ∧ ∃ k ∈ x.layers, l.Brought k c b bytes

/-- The bits of the words that place the gather. -/
theorem Blk.Settling.gatherFrom {t : Nat} (ht : t < 4) (h : r.Settling t s) {x y : Page} {k l : Layer} (hs : x.start = y.start) (hd : k.desc = l.desc) :
    s.gatherFrom t x k = r.gatherFrom t y l := by
  refine Blk.gatherFrom_congr h.cmp (h.regs.lineIndex ht fun i hi => ?_) (Blk.val_of_reg fun i hi => h.regs _ (cntWord_low ?_) ?_) hs hd
  · simp only [LCK_LINE_INDEX, PGE_TRK_STATUS]; omega
  · simp only [HLK_FIRE_NUM]; omega
  · simp only [HLK_FIRE_NUM, PGE_TRK_STATUS]; omega

theorem Blk.settleKeeps_has {t : Nat} (ht : t < 4) {x : Page} {l : Layer} {c b : Nat} {bytes : List Byte}
    (hg : r.gatherFrom t x l ≤ c * (1 + b2n l.yrep)) : r.SettleKeeps t (Page.Has x.start l c b bytes) where
  fetched _ _ h := h
  ended := by
    rintro y m e ⟨hs, k, hk, hB⟩
    refine ⟨hs, _, List.mem_map_of_mem (f := fun k => if k = m then { k with endLine := e } else k) hk, ?_⟩
    split
    · exact ⟨hB.slot, hB.desc, hB.head⟩
    · exact hB
  noted := by
    rintro s y z n h ⟨hs, k, hk, hB⟩
    refine ⟨hs, _, List.mem_map_of_mem (f := fun l => s.noteNext t y l z) hk, hB.noteNext ?_⟩
    rw [h.gatherFrom ht hs hB.desc, Layer.yrep, hB.desc, ← Layer.yrep]
    exact hg

/-- A page that shows a violation, a layer of it stopped. -/
def Page.Stopped (slot : Nat) (x : Page) : Prop := x.violation = true ∧ ∃ k ∈ x.layers, k.slot = slot ∧ k.stopped = true

theorem Blk.settleKeeps_stopped (t slot : Nat) : r.SettleKeeps t (Page.Stopped slot) where
  fetched _ _ h := h
  ended := by
    rintro y m e ⟨hs, k, hk, hB⟩
    refine ⟨hs, _, List.mem_map_of_mem (f := fun k => if k = m then { k with endLine := e } else k) hk, ?_⟩
    split
    · exact hB
    · exact hB
  noted := by
    rintro s y z n h ⟨hs, k, hk, hB⟩
    obtain ⟨h1, -, h2, -⟩ := noteNext_spec s t y k z
    exact ⟨hs, _, List.mem_map_of_mem (f := fun l => s.noteNext t y l z) hk, h1.trans hB.1, h2.trans hB.2⟩

/-! ### What error correction leaves (R391, R392) -/

/-- The words in which a checked read may show. -/
def checkWord (a : Nat) : Prop := a = DRM_ECC_CE ∨ a = DRM_ECC_UE ∨ a = DRM_ECC_ADDR ∨ a = DRM_ECC_ADDR + 1 ∨ a = DRM_STATUS ∨ roleWord a

/-- `s` is `r` with a read checked: pages and composition are as they were. -/
structure Blk.Checked (r s : Blk) : Prop where
  trks : s.trks = r.trks
  cmp : s.cmp = r.cmp
  frame : r.Frame s checkWord

namespace Blk.Checked

theorem refl (r : Blk) : r.Checked r := ⟨rfl, rfl, .refl r _⟩

theorem raise (h : r.Checked s) {c i d0 d1 : Nat} : r.Checked (s.raise c i d0 d1) :=
  ⟨(Blk.raise_trks s c i d0 d1).trans h.trks, (Blk.raise_cmp s c i d0 d1).trans h.cmp, h.frame.raise⟩

theorem setDram (h : r.Checked s) {d : Dram} : r.Checked { s with dram := d } := ⟨h.trks, h.cmp, h.frame.put⟩

theorem memFatal (h : r.Checked s) (c : Nat) : r.Checked (s.memFatal c) := by
  obtain ⟨ht, hc, hF⟩ := h
  unfold Blk.memFatal
  split
  · exact ⟨ht, hc, hF⟩
  · have hF' := (hF.setF (x := DRM_STATUS_FATAL) (v := 1) (.inr (.inr (.inr (.inr (.inl rfl)))))).raise (c := 0xB07) (i := 0) (d0 := c) (d1 := s.rn DRM_ECC_UE)
    have ht' : ((s.setF DRM_STATUS_FATAL 1).raise 0xB07 0 c (s.rn DRM_ECC_UE)).trks = r.trks := by rw [Blk.raise_trks, Blk.setF_trks, ht]
    have hc' : ((s.setF DRM_STATUS_FATAL 1).raise 0xB07 0 c (s.rn DRM_ECC_UE)).cmp = r.cmp := by rw [Blk.raise_cmp, Blk.setF_cmp, hc]
    generalize (s.setF DRM_STATUS_FATAL 1).raise 0xB07 0 c (s.rn DRM_ECC_UE) = u at hF' ht' hc' ⊢
    have hR : u.Roled checkWord (u.faultBit TWN_HEALTH_MEMORY) := (Blk.Roled.refl u).faultBit (fun a h => .inr (.inr (.inr (.inr (.inr h))))) rfl
    obtain ⟨_, _, _, _, _, _, _, _, e⟩ := hR.rest
    exact ⟨by rw [e, ← ht'], by rw [e, ← hc'], hF'.trans hR.frame⟩

theorem eccUe (h : r.Checked s) (q : Nat) (host : Bool) (a : Nat) : r.Checked (s.eccUe q host a) := by
  obtain ⟨ht, hc, hF⟩ := h
  unfold Blk.eccUe
  extract_lets b s1 s2 src ues s3
  have h1 : r.Frame s1 checkWord := (hF.incSat (.inr (.inl rfl))).setVal2 (.inr (.inr (.inl rfl))) (.inr (.inr (.inr (.inl rfl))))
  have t1 : s1.trks = r.trks := by rw [show s1 = (s.incSat DRM_ECC_UE).setVal DRM_ECC_ADDR b 2 from rfl, Blk.setVal_eq]; exact ht
  have c1 : s1.cmp = r.cmp := by rw [show s1 = (s.incSat DRM_ECC_UE).setVal DRM_ECC_ADDR b 2 from rfl, Blk.setVal_eq]; exact hc
  clear_value s1
  have h3 : r.Checked s3 := (Blk.Checked.raise (s := s1) ⟨t1, c1, h1⟩).setDram
  clear_value s3
  split
  · exact h3.memFatal 1
  · split
    · exact h3.memFatal 2
    · exact h3

theorem eccCe (h : r.Checked s) (a : Nat) : r.Checked (s.eccCe a) := by
  obtain ⟨ht, hc, hF⟩ := h
  unfold Blk.eccCe
  extract_lets s1 due src
  have h1 : r.Checked s1 := by
    rw [show s1 = (s.incSat DRM_ECC_CE).count 0x72 from rfl]
    refine ⟨?_, ?_, (hF.incSat (.inl rfl)).count⟩
    · rw [Blk.count_trks, Blk.incSat, Blk.addSat, Blk.wn_trks, ht]
    · rw [Blk.count_cmp, Blk.incSat, Blk.addSat, Blk.wn_cmp, hc]
  clear_value s1
  split
  · exact h1.raise.setDram
  · exact h1

theorem ecc (h : r.Checked s) (q a : Nat) (e : MemErr) : r.Checked (s.ecc q a e) := by
  unfold Blk.ecc
  split
  · exact h
  · cases e with
    | none => exact h
    | corrected => exact h.eccCe a
    | uncorrectable => exact h.eccUe q _ a

end Blk.Checked

/-! ### Fetch bursts (R103, R112) -/

/-- The layer with a burst read, and its page. -/
def Layer.read (l : Layer) (c b : Nat) (bytes : List Byte) (bad : Bool) : Layer :=
  { l with chunks := (c, b, bytes) :: l.chunks, badC := if bad then (c, b) :: l.badC else l.badC }

def Page.relayer (p : Page) (l k : Layer) (v : Bool) : Page :=
  { p with violation := p.violation || v, layers := p.layers.map fun x => if x = l then k else x }

theorem Page.mem_relayer {p : Page} {l k : Layer} (v : Bool) (h : l ∈ p.layers) : k ∈ (p.relayer l k v).layers :=
  List.mem_map.2 ⟨l, h, if_pos rfl⟩

theorem readBurst_ok {t : Nat} {x : Page} {l : Layer} {c b cell : Nat} {e : MemErr}
    (hv : bits (s.rn (bdAddr l.bd 0)) 23 12 = l.gen ∧ bitOf (s.rn (bdAddr l.bd 0)) 11 = true) :
    s.readBurst t x l c b cell e =
      ((s.access (s.cellPort cell) (l.base + 64 * b) 64).putPage t x
        (x.relayer l (l.read c b ((s.access (s.cellPort cell) (l.base + 64 * b) 64).imgRead (l.base + 64 * b) 64)
          ((s.access (s.cellPort cell) (l.base + 64 * b) 64).bad e)) false)).ecc (s.cellPort cell) (l.base + 64 * b) e := by
  unfold Blk.readBurst
  extract_lets w put
  exact if_neg (by simp [w, hv])

theorem readBurst_stale {t : Nat} {x : Page} {l : Layer} {c b cell : Nat} {e : MemErr}
    (hv : ¬(bits (s.rn (bdAddr l.bd 0)) 23 12 = l.gen ∧ bitOf (s.rn (bdAddr l.bd 0)) 11 = true)) :
    s.readBurst t x l c b cell e =
      (((s.putPage t x (x.relayer l { l with stopped := true } true)).setF (PGE_TRK_STATUS_VIOLATION t) 1).raiseT 0x205 t
        (t * 2 ^ 22 + l.slot) l.bd).count 0x16 := by
  unfold Blk.readBurst
  extract_lets w put
  refine if_pos ?_
  simp only [w]
  by_contra h
  simp only [not_or, not_not, Bool.not_eq_true', Bool.not_eq_false] at h
  exact hv h

/-- What makes a burst the next of a track, with its lines counted on. -/
structure Blk.Bursts (s : Blk) (t : Nat) (x : Page) (l : Layer) (i c b cell : Nat) : Prop where
  state : s.trkState t = 1 ∨ s.trkState t = 2
  settled : s.settleTrack t = s
  page : (s.trk t).pages.findSome? (fun p => if p.aborted || p.bounded && s.shuttle then none else (s.nextFetch p).map fun i => (p, i)) = some (x, i)
  due : s.fetchDue t x i = true
  layer : x.layers.findSome? (fun l => match s.want l (s.pageLine x i) with
        | .burst b j => some (l, b, j)
        | _ => none) = some (l, b, cell)
  coded : l.coded (s.pageLine x i) = some c
  ahead : s.gatherFrom t x l ≤ c * (1 + b2n l.yrep)

namespace Blk.Bursts

variable {t i c b cell : Nat} {x : Page} {l : Layer} (h : s.Bursts t x l i c b cell)
include h

theorem mem_page : x ∈ (s.trk t).pages := by
  obtain ⟨y, hy, he⟩ := List.exists_of_findSome?_eq_some h.page
  split at he
  · cases he
  · obtain ⟨n, -, hn⟩ := Option.map_eq_some_iff.1 he
    cases hn
    exact hy

theorem mem_layer : l ∈ x.layers := by
  obtain ⟨y, hy, he⟩ := List.exists_of_findSome?_eq_some h.layer
  split at he
  · cases he
    exact hy
  · cases he

theorem fetchBurst_eq (e : MemErr) : fetchBurst t e s = (s.readBurst t x l c b cell e).settleTrack t := by
  have hst : ¬(s.trkState t ≠ 1 ∧ s.trkState t ≠ 2) := fun g => h.state.elim g.1 g.2
  unfold fetchBurst
  rw [if_neg hst, h.settled]
  extract_lets u
  have hu : u = s := rfl
  clear_value u
  subst hu
  simp only [h.page, h.due, Bool.not_true, Bool.false_eq_true, if_false]
  split
  · next hn => exact absurd (hn.symm.trans h.layer) (Option.some_ne_none _).symm
  · next y hy =>
    obtain rfl := Option.some.inj (hy.symm.trans h.layer)
    simp only [h.coded, Option.getD_some]

end Blk.Bursts

theorem Blk.Checked.memRead (h : r.Checked s) (a : Nat) : s.memRead a = r.memRead a := h.frame.2.1 a

theorem Blk.memRead_putPage (s : Blk) (t : Nat) (x y : Page) (a : Nat) : (s.putPage t x y).memRead a = s.memRead a :=
  ((Blk.Frame.refl s (· = PGE_TRK_STATUS t)).putPage rfl).2.1 a

theorem imgRead_access (s : Blk) (q a n k : Nat) : (s.access q a n false).imgRead a k = s.imgRead a k := by
  have hA := s.accessed_access q a n false
  rw [Blk.imgRead, Blk.capacity_of_reg (hA.regs _ (by decide) (by unfold memWord; decide)), Blk.imgRead]
  simp only [hA.memRead]

theorem fetchBurst_brings {t i c b cell : Nat} {x : Page} {l : Layer} (ht : t < 4) (h : s.Bursts t x l i c b cell) (e : MemErr)
    (hv : bits (s.rn (bdAddr l.bd 0)) 23 12 = l.gen ∧ bitOf (s.rn (bdAddr l.bd 0)) 11 = true) :
    (∃ q ∈ ((fetchBurst t e s).trk t).pages, ∃ k ∈ q.layers, k.slot = l.slot ∧ k.chunks.head? = some (c, b, s.imgRead (l.base + 64 * b) 64)) ∧
      ∀ a, (fetchBurst t e s).memRead a = s.memRead a := by
  rw [h.fetchBurst_eq, readBurst_ok hv, imgRead_access]
  have hA := s.accessed_access (s.cellPort cell) (l.base + 64 * b) 64 false
  generalize s.access (s.cellPort cell) (l.base + 64 * b) 64 = u at hA ⊢
  generalize s.cellPort cell = port
  generalize u.bad e = bad
  generalize hbytes : s.imgRead (l.base + 64 * b) 64 = bytes
  have hut : u.trk t = s.trk t := by
    obtain ⟨⟨_, _, _, eq⟩, -, -⟩ := hA
    rw [eq]
    rfl
  have huc : u.cmp = s.cmp := by
    obtain ⟨⟨_, _, _, eq⟩, -, -⟩ := hA
    rw [eq]
  have hS : u.Settling t (u.putPage t x (x.relayer l (l.read c b bytes bad) false)) := .putTrk u t _
  have hP : ∃ q ∈ ((u.putPage t x (x.relayer l (l.read c b bytes bad) false)).trk t).pages, Page.Has x.start l c b bytes q := by
    rw [Blk.putPage, Blk.trk_putTrk_same]
    refine ⟨_, List.mem_map.2 ⟨x, by rw [hut]; exact h.mem_page, if_pos rfl⟩, rfl, _, Page.mem_relayer _ h.mem_layer, rfl, rfl, rfl⟩
  have hm (a : Nat) : (u.putPage t x (x.relayer l (l.read c b bytes bad) false)).memRead a = s.memRead a := (hS.calm.1 a).trans (hA.memRead a)
  generalize u.putPage t x (x.relayer l (l.read c b bytes bad) false) = v at hS hP hm ⊢
  have hE : v.Checked (v.ecc port (l.base + 64 * b) e) := (Blk.Checked.refl v).ecc _ _ _
  generalize v.ecc port (l.base + 64 * b) e = w at hE ⊢
  have hG : w.gatherFrom t x l ≤ c * (1 + b2n l.yrep) := by
    have hw (a : Nat) (ha : a < 0x0f0000) (hp : a ≠ PGE_TRK_STATUS t) : w.reg a = s.reg a := by
      have h1 := hE.frame.1 a (cntWord_low (by omega)) (by
        simp only [checkWord, roleWord, pairWord, DRM_ECC_CE, DRM_ECC_UE, DRM_ECC_ADDR, DRM_STATUS, TWN_STATUS, TWN_HEALTH, WAL_LINK_STATUS, WAL_CREDIT_STALLS]
        omega)
      have h2 := hS.regs a (cntWord_low (by omega)) hp
      have h3 := hA.regs a (cntWord_low (by omega)) (by simp only [memWord, DRM_PWR_STATUS, DRM_RD_STATUS]; omega)
      exact h1.trans (h2.trans h3)
    rw [Blk.gatherFrom_congr (r := s) (hE.cmp.trans (hS.cmp.trans huc)) (Blk.val_of_reg fun i hi => hw _ ?_ ?_) (Blk.val_of_reg fun i hi => hw _ ?_ ?_) rfl rfl]
    · exact h.ahead
    · simp only [LCK_LINE_INDEX]; omega
    · simp only [LCK_LINE_INDEX, PGE_TRK_STATUS]; omega
    · simp only [HLK_FIRE_NUM]; omega
    · simp only [HLK_FIRE_NUM, PGE_TRK_STATUS]; omega
  have hwt : w.trk t = v.trk t := Blk.trk_of_trks hE.trks t
  obtain ⟨hF, q, hq, -, k, hk, hB⟩ := (Blk.settleKeeps_has ht hG).settleTrack ht (.refl w t) (by rw [hwt]; exact hP)
  exact ⟨⟨q, hq, k, hk, hB.slot, hB.head⟩, fun a => (hF.calm.1 a).trans ((hE.memRead a).trans (hm a))⟩

theorem fetchBurst_stops {t i c b cell : Nat} {x : Page} {l : Layer} (ht : t < 4) (h : s.Bursts t x l i c b cell) (e : MemErr)
    (hv : ¬(bits (s.rn (bdAddr l.bd 0)) 23 12 = l.gen ∧ bitOf (s.rn (bdAddr l.bd 0)) 11 = true)) :
    (∃ q ∈ ((fetchBurst t e s).trk t).pages, q.violation = true ∧ ∃ k ∈ q.layers, k.slot = l.slot ∧ k.stopped = true) ∧
      (fetchBurst t e s).fb (PGE_TRK_STATUS_VIOLATION t) = true ∧ s.Raised (fetchBurst t e s) 0x205 t ((t * 2 ^ 22 + l.slot) % 2 ^ 24) (l.bd % 2 ^ 24) ∧
      s.Calm (fetchBurst t e s) := by
  rw [h.fetchBurst_eq, readBurst_stale hv]
  have hS : s.Settling t (s.putPage t x (x.relayer l { l with stopped := true } true)) := .putTrk s t _
  have hP : ∃ q ∈ ((s.putPage t x (x.relayer l { l with stopped := true } true)).trk t).pages, Page.Stopped l.slot q := by
    rw [Blk.putPage, Blk.trk_putTrk_same]
    exact ⟨_, List.mem_map.2 ⟨x, h.mem_page, if_pos rfl⟩, Bool.or_true _, _, Page.mem_relayer _ h.mem_layer, rfl, rfl⟩
  have hq : (s.putPage t x (x.relayer l { l with stopped := true } true)).evq = s.evq := by
    rw [Blk.putPage, Blk.putTrk, Blk.setF_evq]
    rfl
  generalize s.putPage t x (x.relayer l { l with stopped := true } true) = u at hS hP hq ⊢
  have hb : (u.setF (PGE_TRK_STATUS_VIOLATION t) 1).fb (PGE_TRK_STATUS_VIOLATION t) = true := Blk.fb_setF_same _ _ _ (by simp) (by simp)
  have hF : s.Frame (u.setF (PGE_TRK_STATUS_VIOLATION t) 1) (· = PGE_TRK_STATUS t) := Blk.Frame.setF ⟨hS.regs, hS.calm⟩ rfl
  have hq' := (Blk.setF_evq u (PGE_TRK_STATUS_VIOLATION t) 1).trans hq
  have htr := Blk.setF_trks u (PGE_TRK_STATUS_VIOLATION t) 1
  generalize u.setF (PGE_TRK_STATUS_VIOLATION t) 1 = v at hb hF hq' htr ⊢
  have hR : s.Raised (v.raiseT 0x205 t (t * 2 ^ 22 + l.slot) l.bd) 0x205 t ((t * 2 ^ 22 + l.slot) % 2 ^ 24) (l.bd % 2 ^ 24) :=
    ⟨_, _, congrArg (· ++ _) hq', List.mem_singleton.2 rfl, rfl, Nat.mod_eq_of_lt (by omega), rfl, rfl⟩
  have hF2 := (hF.raiseT (c := 0x205) (i := t) (d0 := t * 2 ^ 22 + l.slot) (d1 := l.bd)).count (src := 0x16) (n := 1)
  have hR2 := hR.of_right (Blk.evq_count_prefix (v.raiseT 0x205 t (t * 2 ^ 22 + l.slot) l.bd) 0x16 1)
  have hb2 : ((v.raiseT 0x205 t (t * 2 ^ 22 + l.slot) l.bd).count 0x16).fb (PGE_TRK_STATUS_VIOLATION t) = true :=
    (Blk.fb_of_reg (Blk.reg_count _ _ _ (cntWord_low (by simp only [PGE_TRK_STATUS]; omega)))).trans hb
  have ht2 : ((v.raiseT 0x205 t (t * 2 ^ 22 + l.slot) l.bd).count 0x16).trks = u.trks := by rw [Blk.count_trks, Blk.trks_raiseT, htr]
  generalize (v.raiseT 0x205 t (t * 2 ^ 22 + l.slot) l.bd).count 0x16 = w at hF2 hR2 hb2 ht2 ⊢
  obtain ⟨hW, q, hqm, hvio, hk⟩ := (Blk.settleKeeps_stopped (r := w) t l.slot).settleTrack ht (.refl w t) (by rw [Blk.trk_of_trks ht2 t]; exact hP)
  exact ⟨⟨q, hqm, hvio, hk⟩, hW.viol.trans hb2, hR2.of_right hW.events, hF2.2.trans hW.calm⟩

/-! ### The gather (R126, R127) -/

/-- A line gathered up to a position, and stored where its nozzle phase is still to come. -/
def Blk.gatheredTo (s : Blk) (j n upto : Nat) (vals : List (Nat × Nat)) : Blk :=
  let mine := fun g : Gather => g.cell == j && g.line == n
  let t := if n ≤ s.composedTo then s else { s with cmp := { s.cmp with store := (s.cmp.store.filter fun g => !mine g) ++ [(⟨n, j, upto, vals⟩ : Gather)] } }
  let t := if s.cmp.store.any mine then t else t.handLine j n
  { t with cmp := { t.cmp with gathered := aput t.cmp.gathered j n } }

theorem foldl_min_const {n : Nat} (l : List Nat) (h : ∀ x ∈ l, x = n) : l.foldl min n = n := by
  induction l with
  | nil => rfl
  | cons x l ih =>
    rw [List.foldl_cons, h x (by simp), min_self]
    exact ih fun y hy => h y (by simp [hy])

theorem gatherLine_eq {j : Nat} (hr : s.running = true) (hc : s.gathered j + 1 ≤ s.composedTo + 4)
    (hp : ∀ q ∈ s.parts (s.gathered j + 1) j, q.2.wait = false) :
    ∃ vals, gatherLine j s = (if s.deadSpan j then [] else s.parts (s.gathered j + 1) j).foldl (Blk.keepPart j) (s.gatheredTo j (s.gathered j + 1) cellSize vals) := by
  have hw : (if s.deadSpan j then [] else s.parts (s.gathered j + 1) j).any (fun q => q.2.wait) = false := by
    rw [List.any_eq_false]
    intro q hq
    split at hq
    · cases hq
    · rw [hp q hq]
      exact Bool.false_ne_true
  unfold gatherLine
  extract_lets n qs base ends upto extent vals mine store begun src t u src'
  have hqs : ∀ q ∈ qs, q.2.wait = false := fun q hq => by
    have := List.any_eq_false.1 hw q hq
    simpa using this
  have hupto : upto = cellSize := by
    refine foldl_min_const _ fun y hy => ?_
    obtain ⟨q, hq, rfl⟩ := List.mem_map.1 hy
    rw [hqs q hq]
    rfl
  rw [if_neg (by rw [hr, show qs.any (fun q => q.2.wait) = false from hw]; simp; omega), if_neg (by rw [show qs.any (fun q => q.2.wait) = false from hw]; exact Bool.false_ne_true)]
  refine ⟨vals, ?_⟩
  rw [← hupto]
  rfl

theorem Blk.cmp_raiseT (s : Blk) (c t d0 d1 : Nat) : (s.raiseT c t d0 d1).cmp = s.cmp := rfl

theorem Blk.cmp_keepPart (j : Nat) (s : Blk) (q : Nat × Part) : (Blk.keepPart j s q).cmp = s.cmp := by
  unfold Blk.keepPart
  extract_lets l k x f u
  have hu : u.cmp = s.cmp := (Blk.setF_cmp _ _ _).trans rfl
  clear_value u
  split
  · rw [Blk.codecError, Blk.count_cmp, Blk.cmp_raiseT, Blk.setF_cmp, hu]
  · exact hu

theorem Blk.cmp_foldl_keepPart (j : Nat) (l : List (Nat × Part)) (s : Blk) : (l.foldl (Blk.keepPart j) s).cmp = s.cmp :=
  List.foldlRecOn (motive := fun u => u.cmp = s.cmp) l _ rfl fun u h q _ => (Blk.cmp_keepPart j u q).trans h

theorem Blk.handLine_eq (s : Blk) (j n : Nat) : ∃ hand, s.handLine j n = { s with cmp := { s.cmp with hand := hand } } := by
  unfold Blk.handLine
  split
  · split
    · exact ⟨_, rfl⟩
    · exact ⟨s.cmp.hand, rfl⟩
  · exact ⟨s.cmp.hand, rfl⟩

theorem Blk.gatheredTo_spec (s : Blk) (j n upto : Nat) (vals : List (Nat × Nat)) :
    (s.gatheredTo j n upto vals).gathered j = n ∧
      (s.composedTo < n → ∃ g ∈ (s.gatheredTo j n upto vals).cmp.store, g.cell = j ∧ g.line = n ∧ g.upto = upto) ∧
      ∃ cmp, s.gatheredTo j n upto vals = { s with cmp := cmp } := by
  unfold Blk.gatheredTo
  extract_lets mine src t u src'
  have ht : ∃ store, t = { s with cmp := { s.cmp with store := store } } ∧ (s.composedTo < n → (⟨n, j, upto, vals⟩ : Gather) ∈ store) := by
    by_cases hn : n ≤ s.composedTo
    · exact ⟨s.cmp.store, if_pos hn, fun h => absurd h (Nat.not_lt.2 hn)⟩
    · exact ⟨_, if_neg hn, fun _ => List.mem_append_right _ (List.mem_singleton.2 rfl)⟩
  obtain ⟨store, ht, hg⟩ := ht
  have hu : ∃ hand, u = { s with cmp := { s.cmp with store := store, hand := hand } } := by
    by_cases hb : s.cmp.store.any mine
    · exact ⟨s.cmp.hand, (if_pos hb).trans ht⟩
    · obtain ⟨hand, hh⟩ := t.handLine_eq j n
      exact ⟨hand, (if_neg hb).trans (by rw [hh, ht])⟩
  obtain ⟨hand, hu⟩ := hu
  clear_value u
  subst hu
  exact ⟨alook_aput_same _ _ _ _, fun h => ⟨_, hg h, rfl, rfl, rfl⟩, _, rfl⟩

theorem gatherLine_spec {j : Nat} (hr : s.running = true) (hc : s.gathered j + 1 ≤ s.composedTo + 4)
    (hp : ∀ q ∈ s.parts (s.gathered j + 1) j, q.2.wait = false) :
    (gatherLine j s).gathered j = s.gathered j + 1 ∧
      (s.composedTo < s.gathered j + 1 → ∃ g ∈ (gatherLine j s).cmp.store, g.cell = j ∧ g.line = s.gathered j + 1 ∧ g.upto = cellSize) ∧
      (s.parts (s.gathered j + 1) j = [] → ∃ cmp, gatherLine j s = { s with cmp := cmp }) := by
  obtain ⟨vals, he⟩ := gatherLine_eq hr hc hp
  obtain ⟨hg, hs, cmp, hcmp⟩ := s.gatheredTo_spec j (s.gathered j + 1) cellSize vals
  have hk := Blk.cmp_foldl_keepPart j (if s.deadSpan j then [] else s.parts (s.gathered j + 1) j) (s.gatheredTo j (s.gathered j + 1) cellSize vals)
  rw [he]
  refine ⟨?_, fun h => ?_, fun h => ⟨cmp, ?_⟩⟩
  · rw [Blk.gathered, hk]
    exact hg
  · rw [hk]
    exact hs h
  · rw [h, ite_self]
    exact hcmp

/-- Settles O8: the burst by what the counting on of lines keeps, the gather by its stored line. -/
theorem fetchAndGather : Obligations.FetchAndGather := by
  unfold Obligations.FetchAndGather
  intro s hs
  refine ⟨fun t e x l i c b cell hst hset hpage hdue hlayer hcoded hahead => ?_, fun j hr hc => ⟨fun hp => .of_on (f := gatherLine j) rfl hs ?_,
    fun hp hn => .of_on (f := gatherLine j) rfl hs ?_⟩⟩
  · have h : s.blk.Bursts t x l i c b cell := ⟨hst, hset, hpage, hdue, hlayer, hcoded, hahead⟩
    exact ⟨fun hv => .of_on (f := fetchBurst t e) rfl hs (fetchBurst_brings t.isLt h e hv),
      fun hv => .of_on (f := fetchBurst t e) rfl hs (fetchBurst_stops t.isLt h e hv)⟩
  · obtain ⟨hg, hst, -⟩ := gatherLine_spec hr hc hp
    exact ⟨hg, hst⟩
  · obtain ⟨hg, hst, heq⟩ := gatherLine_spec hr hc (by rw [hp]; exact fun _ h => absurd h List.not_mem_nil)
    obtain ⟨cmp, hcmp⟩ := heq hp
    have hF : s.blk.Frame (gatherLine j s.blk) fun _ => False := by
      rw [hcmp]
      exact (Blk.Frame.refl s.blk _).put
    exact ⟨hg, hst hn, hF⟩

end Sys2Proof.Machine
end

section
/-!
PROOFS. The engine of the job store: what taking tags, and writing at the log head, leave as it was (R400 to R403, R411).
-/

namespace Sys2Proof.Machine

variable {r s : Blk} {p : Nat → Prop}

/-! ### Tags are taken (R411) -/

/-- `y` is `x` with operations under way: reels and completions stay, a PLAY may have issued more reads, and an operation may have fewer to do. -/
structure Sto.Worked (x y : Sto) : Prop where
  reels : y.reels = x.reels
  cpls : y.cpls = x.cpls
  wrote : y.wrote = x.wrote
  keys : y.plays.map Prod.fst = x.plays.map Prod.fst
  plays : ∀ e ∈ y.plays, ∃ p n, (e.1, p) ∈ x.plays ∧ e.2 = { p with issued := n }
  ops : ∀ o ∈ x.ops, ∃ l, { o with todo := l } ∈ y.ops

namespace Sto.Worked

variable {x y z : Sto}

theorem refl (x : Sto) : x.Worked x := ⟨rfl, rfl, rfl, rfl, fun e he => ⟨e.2, e.2.issued, he, rfl⟩, fun o ho => ⟨o.todo, ho⟩⟩

theorem trans (h : x.Worked y) (g : y.Worked z) : x.Worked z := by
  refine ⟨g.reels.trans h.reels, g.cpls.trans h.cpls, g.wrote.trans h.wrote, g.keys.trans h.keys, fun e he => ?_, fun o ho => ?_⟩
  · obtain ⟨q, n, hq, hn⟩ := g.plays e he
    obtain ⟨q', m, hq', hm⟩ := h.plays _ hq
    exact ⟨q', n, hq', hn.trans (by rw [show q = _ from hm])⟩
  · obtain ⟨l, hl⟩ := h.ops o ho
    obtain ⟨l', hl'⟩ := g.ops _ hl
    exact ⟨l', hl'⟩

theorem same (h : x.Worked y) (hr : z.reels = y.reels) (hc : z.cpls = y.cpls) (hw : z.wrote = y.wrote) (hp : z.plays = y.plays) (ho : z.ops = y.ops) :
    x.Worked z :=
  h.trans ⟨hr, hc, hw, by rw [hp], fun e he => ⟨e.2, e.2.issued, hp ▸ he, rfl⟩, fun o h => ⟨o.todo, ho ▸ h⟩⟩

theorem ringRead (h : x.ringRead = some y) : x.Worked y := by
  unfold Sto.ringRead at h
  extract_lets want at h
  split at h
  · next k q hw =>
    obtain rfl := Option.some.inj h
    refine ⟨rfl, rfl, rfl, ?_, ?_, fun o ho => ⟨o.todo, ho⟩⟩
    · refine (List.map_map (l := x.plays)).trans ?_
      refine List.map_congr_left fun e _ => ?_
      simp only [Function.comp]
      split
      · next he => exact he.symm
      · rfl
    · intro e he
      obtain ⟨d, hd, rfl⟩ := List.mem_map.1 he
      split
      · exact ⟨q, _, List.mem_of_find?_eq_some hw, rfl⟩
      · exact ⟨d.2, d.2.issued, hd, rfl⟩
  · next o _ ho =>
    obtain rfl := Option.some.inj h
    refine ⟨rfl, rfl, rfl, rfl, fun e he => ⟨e.2, e.2.issued, he, rfl⟩, fun q hq => ?_⟩
    refine ⟨if q.num = o.num then o.todo.drop 1 else q.todo, List.mem_map.2 ⟨q, hq, ?_⟩⟩
    split <;> rfl
  · cases h

theorem careRead (h : x.careRead = some y) : x.Worked y := by
  unfold Sto.careRead at h
  split at h
  · obtain rfl := Option.some.inj h
    exact (refl x).same rfl rfl rfl rfl rfl
  · extract_lets waits at h
    split at h
    · cases h
    · split at h
      · cases h
      · obtain rfl := Option.some.inj h
        exact (refl x).same rfl rfl rfl rfl rfl

end Sto.Worked

/-- The words in which the store's work shows. -/
def stoWord (a : Nat) : Prop := a = STO_STATUS ∨ a = STO_REELS ∨ a = STO_TAGS ∨ a = STO_TAG_STALLS ∨ a = STO_BAD_BLOCKS ∨ a = STO_BANDS_FREE ∨ a = STO_BANDS_TOTAL ∨
  a = STO_ERASE_MIN ∨ a = STO_ERASE_MAX

/-- `s` is `r` with operations of the store under way. -/
structure Blk.StoGone (r s : Blk) : Prop where
  rest : ∃ regs evq out sto, s = { r with regs := regs, evq := evq, out := out, sto := sto }
  regs : r.RegsBut s stoWord
  worked : r.sto.Worked s.sto

namespace Blk.StoGone

theorem refl (r : Blk) : r.StoGone r := ⟨⟨_, _, _, _, rfl⟩, .refl r _, .refl r.sto⟩

theorem trans {t : Blk} (h : r.StoGone s) (g : s.StoGone t) : r.StoGone t := by
  obtain ⟨⟨_, _, _, _, e⟩, hr, hw⟩ := h
  obtain ⟨⟨_, _, _, _, e'⟩, hr', hw'⟩ := g
  exact ⟨⟨_, _, _, _, by rw [e', e]⟩, hr.trans hr', hw.trans hw'⟩

theorem setSto (h : r.StoGone s) {x : Sto} (hx : s.sto.Worked x) : r.StoGone { s with sto := x } :=
  h.trans ⟨⟨s.regs, s.evq, s.out, x, rfl⟩, .refl s _, hx⟩

theorem withSto (h : r.StoGone s) {f : Sto → Sto} (hf : s.sto.Worked (f s.sto)) : r.StoGone (s.withSto f) := h.setSto hf

theorem wn (h : r.StoGone s) {a v : Nat} (ha : stoWord a) : r.StoGone (s.wn a v) :=
  h.trans ⟨⟨_, s.evq, s.out, s.sto, s.wn_eq a v⟩, (Blk.RegsBut.refl s _).wn ha, by rw [Blk.wn_eq]; exact .refl s.sto⟩

theorem setF (h : r.StoGone s) {x : Fld} {v : Nat} (hx : stoWord x.addr) : r.StoGone (s.setF x v) := h.wn hx

theorem count (h : r.StoGone s) {src n : Nat} : r.StoGone (s.count src n) := by
  obtain ⟨regs, evq, e⟩ := s.count_eq src n
  exact h.trans ⟨⟨regs, evq, s.out, s.sto, e⟩, (Blk.RegsBut.refl s _).count, by rw [e]; exact .refl s.sto⟩

theorem emit (h : r.StoGone s) {o : Out} : r.StoGone (s.emit o) := h.trans ⟨⟨s.regs, s.evq, _, s.sto, rfl⟩, .refl s _, .refl s.sto⟩

theorem ite {t : Blk} {c : Prop} [Decidable c] (hs : r.StoGone s) (ht : r.StoGone t) : r.StoGone (if c then s else t) := by
  split
  · exact hs
  · exact ht

theorem foldl {α : Type} {f : Blk → α → Blk} (hf : ∀ u x, r.StoGone u → r.StoGone (f u x)) (l : List α) (h : r.StoGone s) : r.StoGone (l.foldl f s) :=
  List.foldlRecOn (motive := fun u => r.StoGone u) l f h fun u hu x _ => hf u x hu

theorem tagPause (h : r.StoGone s) : r.StoGone s.tagPause := by
  unfold Blk.tagPause
  have h1 : r.StoGone ((s.incSat STO_TAG_STALLS).count 0x78) := (h.wn (.inr (.inr (.inr (.inl rfl))))).count
  generalize (s.incSat STO_TAG_STALLS).count 0x78 = t at h1 ⊢
  exact ite h (h1.setSto ((Sto.Worked.refl t.sto).same rfl rfl rfl rfl rfl))

theorem issueProgs (n : Nat) (h : r.StoGone s) : r.StoGone (Blk.issueProgs n s) := by
  induction n generalizing s with
  | zero => exact h
  | succ n ih =>
    unfold Blk.issueProgs
    split
    · exact h
    · split
      · exact ite h.tagPause h
      · exact ih (h.withSto ((Sto.Worked.refl s.sto).same rfl rfl rfl rfl rfl)).emit

theorem queueErase (h : r.StoGone s) (n m : Nat) : r.StoGone (s.queueErase n m) := h.setSto ((Sto.Worked.refl s.sto).same rfl rfl rfl rfl rfl)

theorem collect (h : r.StoGone s) : r.StoGone s.collect := by
  unfold Blk.collect
  extract_lets x ns
  exact foldl (fun u n hu => ite hu (hu.queueErase n 0)) ns h

theorem issueErases (n : Nat) (h : r.StoGone s) : r.StoGone (Blk.issueErases n s) := by
  induction n generalizing s with
  | zero => exact h
  | succ n ih =>
    unfold Blk.issueErases
    extract_lets d
    split
    · exact h
    · split
      · exact h
      · exact ih (h.setSto ((Sto.Worked.refl s.sto).same rfl rfl rfl rfl rfl))

theorem issueReads (n : Nat) (h : r.StoGone s) : r.StoGone (Blk.issueReads n s) := by
  induction n generalizing s with
  | zero => exact h
  | succ n ih =>
    have hcare {t : Blk} (ht : r.StoGone t) : r.StoGone (match t.sto.careRead with
        | some y => if t.sto.mayHold false then Blk.issueReads n { t with sto := y } else t
        | none => t) := by
      split
      · next y hy => exact ite (ih (ht.setSto (.careRead hy))) ht
      · exact ht
    unfold Blk.issueReads
    split
    · next x hx =>
      split
      · exact ih (h.setSto (.ringRead hx))
      · exact hcare h.tagPause
    · exact hcare h

theorem showSto (h : r.StoGone s) : r.StoGone s.showSto := by
  unfold Blk.showSto
  extract_lets x s1 s2 s3
  have h1 : r.StoGone s1 := (h.wn (.inr (.inl rfl))).wn (.inr (.inr (.inl rfl)))
  have h2 : r.StoGone s2 := h1.setF (x := STO_STATUS_PLAYING) (.inl rfl)
  have h3 : r.StoGone s3 := h2.wn (.inr (.inr (.inr (.inr (.inl rfl)))))
  clear_value s3
  split
  · exact h3
  · extract_lets us er s4 s5
    have h4 : r.StoGone s4 := (h3.wn (.inr (.inr (.inr (.inr (.inr (.inl rfl))))))).wn (.inr (.inr (.inr (.inr (.inr (.inr (.inl rfl)))))))
    have h5 : r.StoGone s5 := (h4.wn (.inr (.inr (.inr (.inr (.inr (.inr (.inr (.inl rfl))))))))).wn (.inr (.inr (.inr (.inr (.inr (.inr (.inr (.inr rfl))))))))
    exact h5.setF (x := STO_STATUS_LOW_SPACE) (.inl rfl)

theorem stoGo (h : r.StoGone s) : r.StoGone s.stoGo := by
  unfold Blk.stoGo
  exact ite h.showSto (issueReads 512 (issueErases 512 (issueProgs 512 h).collect)).showSto

theorem mem (h : r.StoGone s) : s.mem = r.mem := by
  obtain ⟨_, _, _, _, e⟩ := h.rest
  rw [e]

theorem streams (h : r.StoGone s) : s.streams = r.streams := by
  obtain ⟨_, _, _, _, e⟩ := h.rest
  rw [e]

theorem twn (h : r.StoGone s) : s.twn = r.twn := by
  obtain ⟨_, _, _, _, e⟩ := h.rest
  rw [e]

end Blk.StoGone

theorem Blk.stoGone_stoGo (s : Blk) : s.StoGone s.stoGo := (Blk.StoGone.refl s).stoGo

/-! ### The log head (R400, R401, R403) -/

/-- A reel that may have got codewords. -/
def Reel.Same (a b : Reel) : Prop := ∃ cws, b = { a with cws := cws }

/-- `y` is `x` with codewords written at the log head: completions, PLAYs and operations stay, what is being programmed stays in front, and reels change in
their codewords alone, and not at all unless `d`. -/
structure Sto.Logged (d : Prop) (x y : Sto) : Prop where
  cpls : y.cpls = x.cpls
  plays : y.plays = x.plays
  ops : y.ops = x.ops
  num : y.num = x.num
  wrote : x.wrote ≤ y.wrote
  progs : x.progs <+: y.progs
  reels : ∃ f : Reel → Reel, (∀ a, f a = a ∨ d ∧ a.Same (f a)) ∧ y.reels = x.reels.map f

namespace Sto.Logged

variable {d : Prop} {x y z : Sto}

theorem refl (x : Sto) : x.Logged d x :=
  ⟨rfl, rfl, rfl, rfl, le_refl _, List.prefix_rfl, id, fun _ => .inl rfl, (List.map_id _).symm⟩

theorem trans (h : x.Logged d y) (g : y.Logged d z) : x.Logged d z := by
  obtain ⟨f, hf, hr⟩ := h.reels
  obtain ⟨f', hf', hr'⟩ := g.reels
  refine ⟨g.cpls.trans h.cpls, g.plays.trans h.plays, g.ops.trans h.ops, g.num.trans h.num, h.wrote.trans g.wrote, h.progs.trans g.progs,
    f' ∘ f, fun a => ?_, by rw [hr', hr, List.map_map]⟩
  rcases hf' (f a) with e | ⟨hd, c, e⟩
  · rw [Function.comp, e]
    exact hf a
  · rcases hf a with e' | ⟨-, c', e'⟩
    · exact .inr ⟨hd, c, by rw [Function.comp, e, e']⟩
    · exact .inr ⟨hd, c, by rw [Function.comp, e, e']⟩

theorem same (h : x.Logged d y) (hc : z.cpls = y.cpls) (hp : z.plays = y.plays) (ho : z.ops = y.ops) (hn : z.num = y.num) (hw : y.wrote ≤ z.wrote)
    (hg : y.progs <+: z.progs) (hr : z.reels = y.reels) : x.Logged d z :=
  h.trans ⟨hc, hp, ho, hn, hw, hg, id, fun _ => .inl rfl, by rw [hr, List.map_id]⟩

theorem reels_eq (h : x.Logged False y) : y.reels = x.reels := by
  obtain ⟨f, hf, hr⟩ := h.reels
  rw [hr, show f = id from funext fun a => (hf a).resolve_right fun g => g.1, List.map_id]

theorem mono {e : Prop} (h : x.Logged d y) (hd : d → e) : x.Logged e y := by
  obtain ⟨f, hf, hr⟩ := h.reels
  exact ⟨h.cpls, h.plays, h.ops, h.num, h.wrote, h.progs, f, fun a => (hf a).imp_right fun g => ⟨hd g.1, g.2⟩, hr⟩

end Sto.Logged

/-- `s` is `r` with codewords written at the log head. -/
structure Blk.Logged (d : Prop) (r s : Blk) : Prop where
  rest : ∃ regs evq out sto, s = { r with regs := regs, evq := evq, out := out, sto := sto }
  regs : r.RegsBut s (· = STO_TAG_STALLS)
  logged : r.sto.Logged d s.sto

namespace Blk.Logged

variable {d : Prop}

theorem refl (r : Blk) : r.Logged d r := ⟨⟨_, _, _, _, rfl⟩, .refl r _, .refl r.sto⟩

theorem trans {t : Blk} (h : r.Logged d s) (g : s.Logged d t) : r.Logged d t := by
  obtain ⟨⟨_, _, _, _, e⟩, hr, hw⟩ := h
  obtain ⟨⟨_, _, _, _, e'⟩, hr', hw'⟩ := g
  exact ⟨⟨_, _, _, _, by rw [e', e]⟩, hr.trans hr', hw.trans hw'⟩

theorem withSto (h : r.Logged d s) {f : Sto → Sto} (hf : s.sto.Logged d (f s.sto)) : r.Logged d (s.withSto f) :=
  h.trans ⟨⟨s.regs, s.evq, s.out, _, rfl⟩, .refl s _, hf⟩

theorem emit (h : r.Logged d s) {o : Out} : r.Logged d (s.emit o) := h.trans ⟨⟨s.regs, s.evq, _, s.sto, rfl⟩, .refl s _, .refl s.sto⟩

theorem raise (h : r.Logged d s) {c i d0 d1 : Nat} : r.Logged d (s.raise c i d0 d1) := h.trans ⟨⟨s.regs, _, s.out, s.sto, rfl⟩, .refl s _, .refl s.sto⟩

theorem ite {t : Blk} {c : Prop} [Decidable c] (hs : r.Logged d s) (ht : r.Logged d t) : r.Logged d (if c then s else t) := by
  split
  · exact hs
  · exact ht

theorem tagPause (h : r.Logged d s) : r.Logged d s.tagPause := by
  unfold Blk.tagPause
  have h1 : s.Logged d ((s.incSat STO_TAG_STALLS).count 0x78) := by
    obtain ⟨regs, evq, e⟩ := (s.incSat STO_TAG_STALLS).count_eq 0x78 1
    have hs : ((s.incSat STO_TAG_STALLS).count 0x78).sto = s.sto := by
      rw [Blk.count_sto, Blk.incSat, Blk.addSat, Blk.wn_sto]
    refine ⟨⟨regs, evq, s.out, s.sto, ?_⟩, ((Blk.RegsBut.refl s (· = STO_TAG_STALLS)).incSat rfl).count, by rw [hs]; exact .refl s.sto⟩
    rw [e, Blk.incSat, Blk.addSat, Blk.wn_eq]
  generalize (s.incSat STO_TAG_STALLS).count 0x78 = t at h1 ⊢
  exact ite h ((h.trans h1).withSto ((Sto.Logged.refl t.sto).same rfl rfl rfl rfl (le_refl _) List.prefix_rfl rfl))

theorem issueProgs (n : Nat) (h : r.Logged d s) : r.Logged d (Blk.issueProgs n s) := by
  induction n generalizing s with
  | zero => exact h
  | succ n ih =>
    unfold Blk.issueProgs
    split
    · exact h
    · split
      · exact ite h.tagPause h
      · exact ih (h.withSto ((Sto.Logged.refl s.sto).same rfl rfl rfl rfl (le_refl _) (List.prefix_append _ _) rfl)).emit

theorem lowSpace (h : r.Logged d s) (n : Nat) : r.Logged d (Blk.lowSpace n s) := by
  unfold Blk.lowSpace
  split
  · exact h
  · exact ite h.raise h

theorem openBand (h : r.Logged d s) : r.Logged d s.openBand := by
  unfold Blk.openBand
  split
  · exact h
  · extract_lets free
    split
    · exact h
    · exact (h.withSto ((Sto.Logged.refl s.sto).same rfl rfl rfl rfl (Nat.le_succ _) List.prefix_rfl rfl)).lowSpace _

theorem issuePage (h : r.Logged d s) : r.Logged d s.issuePage := by
  unfold Blk.issuePage
  split
  · refine (h.withSto ?_).issueProgs 1
    split
    · exact .refl _
    · exact (Sto.Logged.refl s.sto).same rfl rfl rfl rfl (le_refl _) List.prefix_rfl rfl
  · exact h

theorem putCw (h : r.Logged d s) {c : LogCw} (hc : c.kind = 0 → d) (bad ring : Bool) : r.Logged d (s.putCw c bad ring) := by
  unfold Blk.putCw
  extract_lets t
  have ht : r.Logged d t := ite h.openBand h
  clear_value t
  split
  · next g n _ _ =>
    extract_lets u
    have hu : r.Logged d u := by
      refine ht.withSto ⟨rfl, rfl, rfl, rfl, Nat.le_succ _, List.prefix_rfl, _, fun a => ?_, rfl⟩
      split
      · next hk => exact .inr ⟨hc hk.1, _, rfl⟩
      · exact .inl rfl
    exact ite hu.issuePage hu
  · exact ht

theorem catalogue (h : r.Logged d s) : r.Logged d s.catalogue := by
  unfold Blk.catalogue
  exact (h.putCw (fun g => absurd g (by decide)) false false).withSto ((Sto.Logged.refl _).same rfl rfl rfl rfl (le_refl _) List.prefix_rfl rfl)

theorem logCw (h : r.Logged d s) {c : LogCw} (hc : c.kind = 0 → d) (bad ring : Bool) : r.Logged d (s.logCw c bad ring) := by
  unfold Blk.logCw
  exact (ite h.catalogue h).putCw hc bad ring

theorem logBytes (h : r.Logged True s) (seq n off m : Nat) : r.Logged True (s.logBytes seq n off m) := by
  induction n generalizing s off m with
  | zero => exact h
  | succ n ih =>
    unfold Blk.logBytes
    split
    · exact h
    · split
      · extract_lets k t
        refine ih (h.withSto ⟨rfl, rfl, rfl, rfl, le_refl _, List.prefix_rfl, _, fun a => ?_, rfl⟩) _ _
        split
        · exact .inr ⟨trivial, _, rfl⟩
        · exact .inl rfl
      · extract_lets k
        exact ih (h.logCw (fun _ => trivial) _ _) _ _

theorem twn (h : r.Logged d s) : s.twn = r.twn := by
  obtain ⟨_, _, _, _, e⟩ := h.rest
  rw [e]

end Blk.Logged

end Sys2Proof.Machine
end

section
/-!
PROOFS. Operations of the job store on reels (R402, R405 to R410).
-/

namespace Sys2Proof.Machine

variable {r s : Blk} {p : Nat → Prop}

/-! ### An entry of ring 8 is taken (R406 to R411) -/

/-- `t` is `r` with the front entry of ring 8 taken, before it is acted on. -/
structure Blk.Ready8 (r t : Blk) : Prop where
  regs : r.RegsBut t (takenWord 8)
  cons : r.Took8 t
  sto : t.sto = { r.sto with tagStall := false }
  now : t.now = r.now
  mem : r.twnState ≠ 2 → t.mem = r.mem
  open_ : t.stoState = 2

theorem Blk.ringFront_withSto (s : Blk) (f : Sto → Sto) (k : Nat) : (s.withSto f).ringFront k = s.ringFront k := rfl

theorem Blk.mem_takeFront {k : Nat} (h : s.mirrored k = none) (ht : s.twnState ≠ 2) : (s.takeFront k).mem = s.mem := by
  have hF := (s.frame_ringPop k).1
  have hst : (s.ringPop k).twnState = s.twnState := hF.f (x := TWN_STATUS_STATE) (by decide) (by
    simp only [memWord, TWN_STATUS, DRM_PWR_STATUS, DRM_RD_STATUS, RING_CONS]
    omega)
  obtain ⟨regs, evq, dram, e⟩ := s.ringPop_eq k
  simp only [Blk.takeFront, h]
  rw [if_neg (by rw [hst]; simpa using ht), e]

theorem Blk.take8_of {op : Nat} (h : s.StoreTakes op) {q : Nat → Bool} (hq : q op = true) (act : Nat → Nat → List Nat → Blk → Blk) :
    ∃ t, s.Ready8 t ∧ s.take8 q act = (act op s.tag8 (s.ringFront 8) t).stoGo := by
  obtain ⟨hm, hmay, htest, hop, hwait, hhold, hfull, hq8, hst⟩ := h
  have hn : s.nextEntry 8 = s.ringFront 8 := by rw [Blk.nextEntry, hm]
  have hpause : s.stoPause = (s.withSto fun x => { x with tagStall := false }, false) := by
    unfold Blk.stoPause
    rw [if_neg (by rw [hhold]; exact Bool.false_ne_true)]
    extract_lets u
    have hu : u.ringFull 9 = false := hfull
    rw [if_neg (by rw [hu]; exact Bool.false_ne_true)]
    exact congrArg (Prod.mk u) hq8
  have hm' : (s.withSto fun x => { x with tagStall := false }).mirrored 8 = none := hm
  have hT := Blk.taken_takeFront hm'
  have hc := Blk.rn_takeFront_cons hm' (by decide)
  have hmem := Blk.mem_takeFront hm'
  have hst' : ((s.withSto fun x => { x with tagStall := false }).takeFront 8).stoState = 2 :=
    (hT.regs.f (x := STO_STATUS_STATE) (by decide) (by
      simp only [takenWord, memWord, pairWord, STO_STATUS, DRM_PWR_STATUS, DRM_RD_STATUS, WAL_LINK_STATUS, WAL_CREDIT_STALLS, RING_CONS, RING_PROD]
      omega)).trans hst
  refine ⟨_, ⟨hT.regs, hc, hT.kept.2.2.2.2.2.2.2.1, hT.kept.2.2.2.2.2.2.1, hmem, hst'⟩, ?_⟩
  unfold Blk.take8
  rw [if_neg (by rw [hmay, htest]; exact Bool.false_ne_true), hn]
  extract_lets e o tag v w
  have ho : o = op := hop
  have hv : v = (s.withSto fun x => { x with tagStall := false }, false) := hpause
  have hw : w = (s.withSto fun x => { x with tagStall := false }).takeFront 8 := congrArg (fun y => Blk.takeFront (Prod.fst y) 8) hv
  clear_value v w
  subst hv hw
  rw [ho, if_neg (by rw [hq, show s.sto.waitsFor op (e.getD 2 0 % 2 ^ 24) = false from hwait]; exact Bool.false_ne_true)]
  simp only [Bool.false_eq_true, if_false]
  rw [if_neg (by rw [hst']; simp)]
  rfl

/-- An entry is taken by an operation that leaves the index alone; the engine that goes on after it is done with `q`. -/
theorem Completes.take8 {c : Instr} {z : State} {op : Nat} {f : Nat → Bool} {act : Nat → Nat → List Nat → Blk → Blk} {q : Blk → Prop}
    (hc : exec c z = z.on fun b => b.take8 f act) (ha : z.blk.alive = true) (h : z.blk.StoreTakes op) (hf : f op = true)
    (hp : ∀ t, z.blk.Ready8 t → t.RegsBut (act op z.blk.tag8 (z.blk.ringFront 8) t) (fun a => a ≠ RING_CONS 8) ∧
      ∀ u, (act op z.blk.tag8 (z.blk.ringFront 8) t).StoGone u → u = (act op z.blk.tag8 (z.blk.ringFront 8) t).stoGo → q u) :
    Completes c z fun b => z.blk.Took8 b ∧ q b := by
  obtain ⟨t, hT, he⟩ := Blk.take8_of h hf act
  obtain ⟨hR, hq⟩ := hp t hT
  have hG := Blk.stoGone_stoGo (act op z.blk.tag8 (z.blk.ringFront 8) t)
  refine .of_on (f := fun b => b.take8 f act) hc ha ?_
  show z.blk.Took8 (z.blk.take8 f act) ∧ q (z.blk.take8 f act)
  rw [he]
  refine ⟨?_, hq _ hG rfl⟩
  rw [Blk.Took8, hG.regs.rn (by decide) (by unfold stoWord; decide), hR.rn (by decide) (fun h => h rfl)]
  exact hT.cons

theorem Blk.sto_complete (s : Blk) (op status st tag reel val : Nat) (tail : List Nat) :
    (s.complete op status st tag reel val tail).sto = { s.sto with cpls := s.sto.cpls ++
      [[op * 65536 + status * 256 + (if op = 1 ∨ op = 7 then st else 0), tag, reel, val % 2 ^ 24, val / 2 ^ 24 % 2 ^ 24] ++ (List.range 3).map fun i => tail.getD i 0] } := rfl

theorem Blk.regsBut_complete (s : Blk) (op status st tag reel val : Nat) (tail : List Nat) : s.RegsBut (s.complete op status st tag reel val tail) p :=
  .refl s p

/-! ### Operations whose log position is programmed (R403, R408) -/

theorem find?_filter_of {α : Type} {l : List α} {f g : α → Bool} {x : α} (h : l.find? f = some x) (hg : g x = true) : (l.filter g).find? f = some x := by
  induction l with
  | nil => cases h
  | cons y l ih =>
    by_cases hy : f y = true
    · rw [List.find?_cons_of_pos hy] at h
      obtain rfl := Option.some.inj h
      rw [List.filter_cons_of_pos hg, List.find?_cons_of_pos hy]
    · rw [List.find?_cons_of_neg hy] at h
      by_cases hgy : g y = true
      · rw [List.filter_cons_of_pos hgy, List.find?_cons_of_neg hy]
        exact ih h
      · rw [List.filter_cons_of_neg hgy]
        exact ih h

theorem Sto.id_of_reel {x : Sto} {id : Nat} {a : Reel} (h : x.reel id = some a) : a.id = id := by
  simpa using List.find?_some h

/-- Reels mapped by what keeps their numbers. -/
theorem Sto.reel_map {x y : Sto} {f : Reel → Reel} (hf : ∀ a, (f a).id = a.id) (hy : y.reels = x.reels.map f) {id : Nat} {a : Reel} (h : x.reel id = some a) :
    y.reel id = some (f a) := by
  rw [Sto.reel, hy, List.find?_map, show ((fun r : Reel => r.id == id) ∘ f) = fun r => r.id == id from funext fun b => by rw [Function.comp, hf], ← Sto.reel, h]
  rfl

/-- One operation that is over. -/
def Blk.opOver (s : Blk) (o : StoOp) : Blk :=
  match o.op with
  | 3 =>
    let s := s.withSto fun x => { x with reels := x.reels.map fun r => if r.id = o.reel ∧ r.st = 0 then { r with st := 1 } else r }
    s.complete 3 0 1 o.tag o.reel o.len []
  | 6 =>
    let s := s.withSto fun x => { x with reels := x.reels.filter fun r => r.id != o.reel || r.st != 2 || !r.cws.isEmpty }
    s.complete 6 0 2 o.tag o.reel 0 []
  | _ => s.complete o.op 0 0 o.tag o.reel o.len []

theorem Blk.settleOps_eq (s : Blk) : s.settleOps = (s.sto.ops.filter fun o => o.op != 9 && decide (o.mark ≤ s.sto.progd)).foldl Blk.opOver
    (s.withSto fun x => { x with ops := x.ops.filter fun o => o.op == 9 || decide (s.sto.progd < o.mark) }) := rfl

/-- What ends of operations leave. -/
structure Blk.Over (r s : Blk) : Prop where
  rest : ∃ sto, s = { r with sto := sto }
  wrote : s.sto.wrote = r.sto.wrote
  ops : s.sto.ops = r.sto.ops

theorem Blk.over_opOver (s : Blk) (o : StoOp) : s.Over (s.opOver o) := by
  unfold Blk.opOver
  split
  · exact ⟨⟨_, rfl⟩, rfl, rfl⟩
  · exact ⟨⟨_, rfl⟩, rfl, rfl⟩
  · exact ⟨⟨_, rfl⟩, rfl, rfl⟩

theorem Blk.Over.trans {t : Blk} (h : r.Over s) (g : s.Over t) : r.Over t := by
  obtain ⟨⟨_, e⟩, hw, ho⟩ := h
  obtain ⟨⟨_, e'⟩, hw', ho'⟩ := g
  exact ⟨⟨_, by rw [e', e]⟩, hw'.trans hw, ho'.trans ho⟩

theorem Blk.settleOps_spec (s : Blk) : (∃ sto, s.settleOps = { s with sto := sto }) ∧ s.settleOps.sto.wrote = s.sto.wrote ∧
    ∀ o ∈ s.sto.ops, s.sto.progd < o.mark → o ∈ s.settleOps.sto.ops := by
  rw [Blk.settleOps_eq]
  generalize hu : (s.withSto fun x => { x with ops := x.ops.filter fun o => o.op == 9 || decide (s.sto.progd < o.mark) }) = u
  have hO : u.Over ((s.sto.ops.filter fun o => o.op != 9 && decide (o.mark ≤ s.sto.progd)).foldl Blk.opOver u) :=
    List.foldlRecOn (motive := fun v => u.Over v) _ _ ⟨⟨u.sto, rfl⟩, rfl, rfl⟩ fun v hv o _ => hv.trans (v.over_opOver o)
  obtain ⟨⟨sto, e⟩, hw, ho⟩ := hO
  refine ⟨⟨sto, by rw [e, ← hu]; rfl⟩, hw.trans (by rw [← hu]; rfl), fun o hm hlt => ?_⟩
  rw [ho, ← hu]
  exact List.mem_filter.2 ⟨hm, by simp [hlt]⟩

/-- A reel stays in the table, unless a RETIRE of it is over; it may have been closed. -/
theorem Blk.reel_opOver {o : StoOp} {id : Nat} {a : Reel} (h : s.sto.reel id = some a) (h6 : a.st = 2 → o.op = 6 → o.reel ≠ id) :
    ∃ st, (s.opOver o).sto.reel id = some { a with st := st } ∧ (st = a.st ∨ a.st = 0 ∧ st = 1) := by
  have hid := Sto.id_of_reel h
  unfold Blk.opOver
  split
  · refine ⟨if a.id = o.reel ∧ a.st = 0 then 1 else a.st, ?_, ?_⟩
    · refine (Sto.reel_map (x := s.sto) (f := fun r => if r.id = o.reel ∧ r.st = 0 then { r with st := 1 } else r) (fun b => ?_) rfl h).trans ?_
      · split <;> rfl
      · split <;> rfl
    · split
      · next hc => exact .inr ⟨hc.2, rfl⟩
      · exact .inl rfl
  · next hop =>
    refine ⟨a.st, find?_filter_of h ?_, .inl rfl⟩
    by_cases h2 : a.st = 2
    · simp [hid, (h6 h2 hop).symm]
    · simp [h2]
  · exact ⟨a.st, h, .inl rfl⟩

theorem Blk.reel_settleOps {id : Nat} {a : Reel} (h : s.sto.reel id = some a)
    (h6 : a.st = 2 → ∀ o ∈ s.sto.ops, o.mark ≤ s.sto.progd → o.op = 6 → o.reel ≠ id) :
    ∃ st, s.settleOps.sto.reel id = some { a with st := st } ∧ (st = a.st ∨ a.st = 0 ∧ st = 1) := by
  rw [Blk.settleOps_eq]
  refine List.foldlRecOn (motive := fun (v : Blk) => ∃ st, v.sto.reel id = some { a with st := st } ∧ (st = a.st ∨ a.st = 0 ∧ st = 1)) _ _ ⟨a.st, h, .inl rfl⟩ ?_
  rintro v ⟨st, hv, hst⟩ o ho
  obtain ⟨hom, hoc⟩ := List.mem_filter.1 ho
  simp only [Bool.and_eq_true, decide_eq_true_eq] at hoc
  obtain ⟨st', hv', hst'⟩ := Blk.reel_opOver (o := o) hv fun h2 hop => h6 (by simp only at h2; omega) o hom hoc.2 hop
  exact ⟨st', hv', by simp only at hst'; omega⟩

/-! ### CREATE, STAT, LIST and unknown operations (R405 to R410) -/

/-- An operation that only completes. -/
theorem Blk.StoGone.completed {t u : Blk} {op status st tag reel val : Nat} {tail : List Nat} (h : (t.complete op status st tag reel val tail).StoGone u) :
    u.sto.cpls = t.sto.cpls ++
      [[op * 65536 + status * 256 + (if op = 1 ∨ op = 7 then st else 0), tag, reel, val % 2 ^ 24, val / 2 ^ 24 % 2 ^ 24] ++ (List.range 3).map fun i => tail.getD i 0] ∧
      u.sto.reels = t.sto.reels := ⟨h.worked.cpls, h.worked.reels⟩

namespace Blk.Ready8

variable {t : Blk} (h : s.Ready8 t)
include h

theorem reel (id : Nat) : t.sto.reel id = s.sto.reel id := by rw [h.sto]; rfl
theorem reels : t.sto.reels = s.sto.reels := by rw [h.sto]
theorem cpls : t.sto.cpls = s.sto.cpls := by rw [h.sto]
theorem plays : t.sto.plays = s.sto.plays := by rw [h.sto]
theorem live : t.sto.live = s.sto.live := by rw [h.sto]; rfl

end Blk.Ready8

theorem create_spec {t : Blk} (op tag : Nat) (e : List Nat) (h0 : ∀ r ∈ t.sto.reels, r.st ≠ 0) (hl : t.sto.live.length < 4096) :
    t.RegsBut (create op tag e t) (fun a => a ≠ RING_CONS 8) ∧ ∃ id : Nat, (create op tag e t).sto.cpls = t.sto.cpls ++ [[65536, tag, id, 0, 0, 0, 0, 0]] ∧
      (create op tag e t).sto.reels =
        t.sto.reels ++ [⟨id, (List.range 3).map fun i => e.getD (i + 2) 0 % 2 ^ 24, t.sto.reelSeq + 1, 0, [], [], [], 0⟩] := by
  have hany : (t.sto.reels.any fun r => r.st == 0) = false := List.any_eq_false.2 fun r hr => by simpa using h0 r hr
  unfold create
  rw [if_neg (by rw [hany]; exact Bool.false_ne_true), if_neg (Nat.not_le.2 hl)]
  extract_lets id u
  have hL : u.Logged False (u.logCw ⟨u.sto.reelSeq, 0, 0, 0, 1⟩ false true) := (Blk.Logged.refl u).logCw (fun g => absurd g Nat.one_ne_zero) _ _
  have hu : t.RegsBut u fun a => a ≠ RING_CONS 8 := .refl t _
  refine ⟨hu.trans (hL.regs.mono fun a ha => by rw [ha]; decide), id, ?_, hL.logged.reels_eq⟩
  rw [Blk.sto_complete]
  exact congrArg (· ++ _) hL.logged.cpls

/-! ### APPEND (R402, R405, R417) -/

/-- The stores of `a` and `b` are alike but for the mark of a pause, and it is the same time. -/
def Blk.Alike (a b : Blk) : Prop := ∃ q, b.sto = { a.sto with tagStall := q } ∧ b.now = a.now

namespace Blk.Alike

variable {a b : Blk}

theorem withSto (h : a.Alike b) {f : Sto → Sto} (hf : ∀ x q, f { x with tagStall := q } = { f x with tagStall := q }) : (a.withSto f).Alike (b.withSto f) := by
  obtain ⟨q, e, hn⟩ := h
  exact ⟨q, (congrArg f e).trans (hf a.sto q), hn⟩

theorem emit (h : a.Alike b) (o u : Out) : (a.emit o).Alike (b.emit u) := h

theorem raise (h : a.Alike b) (c i d0 d1 c' i' d0' d1' : Nat) : (a.raise c i d0 d1).Alike (b.raise c' i' d0' d1') := h

theorem tagPause (s : Blk) : s.Alike s.tagPause := by
  unfold Blk.tagPause
  split
  · exact ⟨s.sto.tagStall, rfl, rfl⟩
  · have hs : ((s.incSat STO_TAG_STALLS).count 0x78).sto = s.sto := by
      rw [Blk.count_sto, Blk.incSat, Blk.addSat, Blk.wn_sto]
    have hn : ((s.incSat STO_TAG_STALLS).count 0x78).now = s.now := by
      rw [Blk.count_now, Blk.incSat, Blk.addSat, Blk.wn_now]
    exact ⟨true, by rw [Blk.withSto, hs], hn⟩

theorem refl (a : Blk) : a.Alike a := ⟨a.sto.tagStall, rfl, rfl⟩

theorem symm (h : a.Alike b) : b.Alike a := by
  obtain ⟨q, e, hn⟩ := h
  exact ⟨a.sto.tagStall, by rw [e], hn.symm⟩

theorem trans {c : Blk} (h : a.Alike b) (g : b.Alike c) : a.Alike c := by
  obtain ⟨q, e, hn⟩ := h
  obtain ⟨q', e', hn'⟩ := g
  exact ⟨q', by rw [e', e], hn'.trans hn⟩

theorem issueProgs (n : Nat) (h : a.Alike b) : (Blk.issueProgs n a).Alike (Blk.issueProgs n b) := by
  induction n generalizing a b with
  | zero => exact h
  | succ n ih =>
    obtain ⟨q, e, hn⟩ := h
    unfold Blk.issueProgs
    rw [e]
    cases hq : a.sto.queue with
    | nil => exact ⟨q, e, hn⟩
    | cons x xs =>
      simp only
      by_cases hm : (!a.sto.mayHold x.ring) = true
      · rw [if_pos hm, if_pos (show (!({ a.sto with tagStall := q } : Sto).mayHold x.ring) = true from hm)]
        split
        · exact (tagPause a).symm.trans ((show a.Alike b from ⟨q, e, hn⟩).trans (tagPause b))
        · exact ⟨q, e, hn⟩
      · rw [if_neg hm, if_neg (show ¬(!({ a.sto with tagStall := q } : Sto).mayHold x.ring) = true from hm)]
        exact ih ((withSto ⟨q, e, hn⟩ fun _ _ => rfl).emit _ _)

theorem lowSpace (h : a.Alike b) (n : Nat) : (Blk.lowSpace n a).Alike (Blk.lowSpace n b) := by
  have hs (u : Blk) : (Blk.lowSpace n u).sto = u.sto ∧ (Blk.lowSpace n u).now = u.now := by
    unfold Blk.lowSpace
    split
    · exact ⟨rfl, rfl⟩
    · extract_lets k low
      split
      · exact ⟨rfl, rfl⟩
      · exact ⟨rfl, rfl⟩
  obtain ⟨q, e, hn⟩ := h
  exact ⟨q, (hs b).1.trans (e.trans (by rw [(hs a).1])), (hs b).2.trans (hn.trans (hs a).2.symm)⟩

theorem openBand (h : a.Alike b) : a.openBand.Alike b.openBand := by
  obtain ⟨q, e, hn⟩ := h
  unfold Blk.openBand
  rw [e, hn]
  cases hg : a.sto.geo with
  | none => exact ⟨q, e, hn⟩
  | some g =>
    simp only
    have hf : ({ a.sto with tagStall := q } : Sto).free g = a.sto.free g := rfl
    rw [hf]
    have hb (n : Nat) : ({ a.sto with tagStall := q } : Sto).band n = a.sto.band n := rfl
    simp only [hb]
    split
    · exact ⟨q, e, hn⟩
    · exact (withSto ⟨q, e, hn⟩ fun _ _ => rfl).lowSpace _

theorem issuePage (h : a.Alike b) : a.issuePage.Alike b.issuePage := by
  obtain ⟨q, e, hn⟩ := h
  unfold Blk.issuePage
  rw [e]
  simp only
  split
  · refine (withSto ⟨q, e, hn⟩ fun x c => ?_).issueProgs 1
    by_cases hx : x.fill.isEmpty = true
    · rw [if_pos hx, if_pos hx]
    · rw [if_neg hx, if_neg hx]
      rfl
  · exact ⟨q, e, hn⟩

theorem putCw (h : a.Alike b) (c : LogCw) (bad ring : Bool) : (a.putCw c bad ring).Alike (b.putCw c bad ring) := by
  unfold Blk.putCw
  extract_lets a1 b1
  have h1 : a1.Alike b1 := by
    obtain ⟨q, e, hn⟩ := h
    simp only [a1, b1, e]
    split
    · exact openBand ⟨q, e, hn⟩
    · exact ⟨q, e, hn⟩
  clear_value a1 b1
  have hp (q : Bool) (x : Sto) (g : Geo) (n : Nat) : ({ x with tagStall := q } : Sto).pageCws g n = x.pageCws g n := rfl
  rw [show b1.sto.geo = a1.sto.geo from by obtain ⟨q, e, hn⟩ := h1; rw [e], show b1.sto.head = a1.sto.head from by obtain ⟨q, e, hn⟩ := h1; rw [e]]
  split
  · next g n _ _ =>
    extract_lets a2 b2
    have h2 : a2.Alike b2 := by
      obtain ⟨q, e, hn⟩ := h1
      simp only [a2, b2, hn]
      exact withSto ⟨q, e, hn⟩ fun _ _ => rfl
    clear_value a2 b2
    have hc : (b2.sto.pageCws g n ≤ b2.sto.fill.length) = (a2.sto.pageCws g n ≤ a2.sto.fill.length) := by
      obtain ⟨q, e, hn⟩ := h2
      rw [e, hp]
    simp only [hc]
    split
    · exact issuePage h2
    · exact h2
  · exact h1

theorem catalogue (h : a.Alike b) : a.catalogue.Alike b.catalogue := (h.putCw _ _ _).withSto fun _ _ => rfl

theorem logCw (h : a.Alike b) (c : LogCw) (bad ring : Bool) : (a.logCw c bad ring).Alike (b.logCw c bad ring) := by
  unfold Blk.logCw
  obtain ⟨q, e, hn⟩ := h
  rw [e]
  simp only
  refine putCw ?_ c bad ring
  split
  · exact catalogue ⟨q, e, hn⟩
  · exact ⟨q, e, hn⟩

theorem logBytes (h : a.Alike b) (seq n off m : Nat) : (a.logBytes seq n off m).Alike (b.logBytes seq n off m) := by
  induction n generalizing a b off m with
  | zero => exact h
  | succ n ih =>
    obtain ⟨q, e, hn⟩ := h
    unfold Blk.logBytes
    split
    · exact ⟨q, e, hn⟩
    · rw [e]
      simp only
      split
      · exact ih (withSto ⟨q, e, hn⟩ fun _ _ => rfl) _ _
      · exact ih (logCw ⟨q, e, hn⟩ _ _ _) _ _

theorem appended (h : a.Alike b) (x : Reel) (bs hd : List Byte) (m : Nat) : (a.appended x bs hd m).Alike (b.appended x bs hd m) := by
  unfold Blk.appended
  obtain ⟨q, e, hn⟩ := h
  rw [hn]
  exact (withSto ⟨q, e, hn⟩ fun _ _ => rfl).logBytes _ _ _ _

end Blk.Alike

/-- A log that is alike is as full. -/
theorem Blk.appendFull_of_alike {a b c d : Blk} (h : a.Alike b) (g : c.Alike d) (hf : b.f STO_SPACE_CFG_OP_BANDS = a.f STO_SPACE_CFG_OP_BANDS) (x : Reel) (n : Nat) :
    b.appendFull d x n = a.appendFull c x n := by
  obtain ⟨q, e, -⟩ := h
  obtain ⟨q', e', -⟩ := g
  unfold Blk.appendFull
  rw [hf, e, e']
  rfl

/-- The reels of a store with a reel replaced. -/
theorem Sto.reel_putReel {x : Sto} {id : Nat} {a b : Reel} (h : x.reel id = some a) (hi : b.id = a.id) (hq : b.seq = a.seq) :
    (x.putReel b).reel id = some b := by
  have hid := Sto.id_of_reel h
  show (x.reels.map fun q => if q.seq = b.seq then b else q).find? (fun r => r.id == id) = some b
  have h' : x.reels.find? (fun r => r.id == id) = some a := h
  generalize x.reels = l at h'
  induction l with
  | nil => cases h'
  | cons y l ih =>
    by_cases hs : y.seq = b.seq
    · rw [List.map_cons, if_pos hs, List.find?_cons_of_pos (by simp [hi, hid])]
    · rw [List.map_cons, if_neg hs]
      by_cases hy : y.id = id
      · rw [List.find?_cons_of_pos (by simpa using hy)] at h'
        obtain rfl := Option.some.inj h'
        exact absurd hq.symm hs
      · rw [List.find?_cons_of_neg (by simpa using hy)] at h' ⊢
        exact ih h'

theorem Reel.Same.of_logged {d : Prop} {x y : Sto} (h : x.Logged d y) {id : Nat} {a : Reel} (ha : x.reel id = some a) : ∃ b, y.reel id = some b ∧ a.Same b := by
  obtain ⟨f, hf, hr⟩ := h.reels
  have hs (c : Reel) : c.Same (f c) := (hf c).elim (fun e => ⟨c.cws, e⟩) fun g => g.2
  refine ⟨f a, Sto.reel_map (fun c => ?_) hr ha, hs a⟩
  obtain ⟨cws, e⟩ := hs c
  rw [e]

namespace Blk.Ready8

variable {t : Blk} (h : s.Ready8 t)
include h

theorem imgRead (hm : s.twnState ≠ 2) (a n : Nat) : t.imgRead a n = s.imgRead a n := by
  have hw : ¬takenWord 8 DRM_CFG := by
    simp only [takenWord, memWord, pairWord, DRM_CFG, DRM_PWR_STATUS, DRM_RD_STATUS, WAL_LINK_STATUS, WAL_CREDIT_STALLS, RING_CONS, RING_PROD]
    omega
  rw [Blk.imgRead, Blk.capacity_of_reg (h.regs _ (by decide) hw), Blk.imgRead]
  simp only [Blk.memRead, h.mem hm]

theorem alike : s.Alike t := ⟨false, h.sto, h.now⟩

end Blk.Ready8

theorem appended_spec {x : Reel} {id : Nat} (h : s.sto.reel id = some x) (bs hd : List Byte) (m : Nat) :
    s.RegsBut (s.appended x bs hd m) (· = STO_TAG_STALLS) ∧
      ∃ y, (s.appended x bs hd m).sto.reel id = some y ∧ y.st = x.st ∧ y.bytes = x.bytes ++ bs ∧ y.hdr = hd ∧ y.rem = m := by
  unfold Blk.appended
  generalize hb : ({ x with bytes := x.bytes ++ bs, hdr := hd, rem := m } : Reel) = b
  generalize hu : (s.withSto fun y => { y.putReel b with lastByte := s.now }) = u
  have hL : u.Logged True (u.logBytes x.seq (bs.length + 1) x.bytes.length bs.length) := (Blk.Logged.refl u).logBytes _ _ _ _
  have hR : u.sto.reel id = some b := by
    rw [← hu]
    exact Sto.reel_putReel h (by rw [← hb]) (by rw [← hb])
  obtain ⟨y, hy, cws, e⟩ := Reel.Same.of_logged hL.logged hR
  have hr : s.RegsBut u (· = STO_TAG_STALLS) := by
    rw [← hu]
    exact .refl s _
  exact ⟨hr.trans hL.regs, y, hy, by rw [e, ← hb], by rw [e, ← hb], by rw [e, ← hb], by rw [e, ← hb]⟩

theorem Blk.regsBut_settleOps (s : Blk) : s.RegsBut s.settleOps p := by
  obtain ⟨⟨sto, e⟩, -⟩ := s.settleOps_spec
  rw [e]
  exact .refl s p

theorem append_spec {t : Blk} {tag m : Nat} {e : List Nat} {h : List Byte} {x : Reel} (hr : t.sto.reel (e.getD 2 0 % 2 ^ 24) = some x) (hx : x.st = 0)
    (hp : parseRecs (t.imgRead (e.getD 3 0 % 2 ^ 24 + e.getD 4 0 % 4096 * 2 ^ 24) (e.getD 5 0 % 2 ^ 24)) x.hdr x.rem = some (h, m))
    (hfull : t.appendFull (t.appended x (t.imgRead (e.getD 3 0 % 2 ^ 24 + e.getD 4 0 % 4096 * 2 ^ 24) (e.getD 5 0 % 2 ^ 24)) h m) x
      (e.getD 5 0 % 2 ^ 24) = false) (op : Nat) :
    t.RegsBut (append .none op tag e t) (fun a => a ≠ RING_CONS 8) ∧ ∃ y, (append .none op tag e t).sto.reel (e.getD 2 0 % 2 ^ 24) = some y ∧
      y.hdr = h ∧ y.rem = m ∧ y.bytes = x.bytes ++ t.imgRead (e.getD 3 0 % 2 ^ 24 + e.getD 4 0 % 4096 * 2 ^ 24) (e.getD 5 0 % 2 ^ 24) := by
  unfold append
  extract_lets id src n bs u w
  have hu : u = t.access storePort src n := Blk.ecc_none _ _ _
  have hA : t.Accessed u := hu ▸ t.accessed_access storePort src n false
  clear_value w u
  rw [show t.sto.reel id = some x from hr]
  dsimp only
  rw [if_neg (not_not.2 hx), Blk.bad_none]
  have hal : t.Alike u := by
    obtain ⟨⟨regs, evq, dram, e⟩, -, -⟩ := hA
    rw [e]
    exact .refl t
  have hru : u.sto.reel id = some x := by
    obtain ⟨q, e, -⟩ := hal
    rw [e]
    exact hr
  rw [if_neg Bool.false_ne_true, show parseRecs bs x.hdr x.rem = some (h, m) from hp]
  dsimp only
  rw [Blk.appendFull_of_alike hal (hal.appended x bs h m) (hA.regs.f (by decide) (by unfold memWord; decide)),
    show t.appendFull (t.appended x bs h m) x n = false from hfull, if_neg Bool.false_ne_true]
  obtain ⟨hR, y, hy, hst, hby, hhd, hrem⟩ := appended_spec hru bs h m
  generalize u.appended x bs h m = v at hR hy ⊢
  obtain ⟨st, hs, -⟩ := Blk.reel_settleOps (s := v.defer 2 tag id (x.bytes.length + n)) hy fun g => absurd (hst.symm.trans g) (by rw [hx]; decide)
  refine ⟨?_, _, hs, hhd, hrem, hby⟩
  refine (hA.regs.mono fun a ha => ?_).trans ((hR.mono fun a ha => by rw [ha]; decide).trans
    ((show v.RegsBut (v.defer 2 tag id (x.bytes.length + n)) fun a => a ≠ RING_CONS 8 from .refl v _).trans (Blk.regsBut_settleOps _)))
  rcases ha with rfl | rfl <;> decide

/-! ### CLOSE and RETIRE (R406, R408, R415) -/

/-- What is being programmed stands in front of the mark of an operation that is deferred now. -/
theorem Sto.progd_lt {x y : Sto} {d : Prop} (h : x.Logged d y) {p : Prog} {q : List Prog} (hp : x.progs = p :: q) (hw : p.first < x.wrote) : y.progd < y.wrote := by
  obtain ⟨l, hl⟩ := h.progs
  have hy : y.pages = p :: (q ++ l ++ y.queue) := by rw [Sto.pages, ← hl, hp]; simp
  rw [Sto.progd, hy]
  exact hw.trans_le h.wrote

/-- An operation deferred while a page is being programmed waits. -/
theorem deferred_spec {t u : Blk} {d : Prop} (h : t.Logged d u) {p : Prog} {q : List Prog} (hp : t.sto.progs = p :: q) (hw : p.first < t.sto.wrote)
    (op tag reel len : Nat) :
    t.RegsBut (u.defer op tag reel len).settleOps (fun a => a ≠ RING_CONS 8) ∧ ∃ o ∈ (u.defer op tag reel len).settleOps.sto.ops,
      o.op = op ∧ o.tag = tag ∧ o.reel = reel ∧ o.mark = (u.defer op tag reel len).settleOps.sto.wrote := by
  obtain ⟨-, hwr, hops⟩ := (u.defer op tag reel len).settleOps_spec
  refine ⟨(h.regs.mono fun a ha => by rw [ha]; decide).trans
    ((show u.RegsBut (u.defer op tag reel len) fun a => a ≠ RING_CONS 8 from .refl u _).trans (Blk.regsBut_settleOps _)), _,
    hops _ (List.mem_append_right _ (List.mem_singleton.2 rfl)) (show u.sto.progd < u.sto.wrote from Sto.progd_lt h.logged hp hw), rfl, rfl, rfl, hwr.symm⟩

theorem Blk.StoGone.deferred {t u : Blk} (h : t.StoGone u) {op tag reel : Nat} (ho : ∃ o ∈ t.sto.ops, o.op = op ∧ o.tag = tag ∧ o.reel = reel ∧ o.mark = t.sto.wrote) :
    ∃ o ∈ u.sto.ops, o.op = op ∧ o.tag = tag ∧ o.reel = reel ∧ o.mark = u.sto.wrote := by
  obtain ⟨o, hm, h1, h2, h3, h4⟩ := ho
  obtain ⟨l, hl⟩ := h.worked.ops o hm
  exact ⟨_, hl, h1, h2, h3, h4.trans h.worked.wrote.symm⟩

theorem close_spec {t : Blk} {tag : Nat} {e : List Nat} {x : Reel} (hr : t.sto.reel (e.getD 2 0 % 2 ^ 24) = some x) (hx : x.st = 0) (hh : x.hdr = [])
    (hm : x.rem = 0) {p : Prog} {q : List Prog} (hp : t.sto.progs = p :: q) (hw : p.first < t.sto.wrote) (op : Nat) :
    t.RegsBut (close op tag e t) (fun a => a ≠ RING_CONS 8) ∧ ∃ o ∈ (close op tag e t).sto.ops,
      o.op = 3 ∧ o.tag = tag ∧ o.reel = e.getD 2 0 % 2 ^ 24 ∧ o.mark = (close op tag e t).sto.wrote := by
  unfold close
  extract_lets id
  rw [show t.sto.reel id = some x from hr]
  dsimp only
  rw [if_neg (not_not.2 hx), if_neg (by simp [hh, hm])]
  exact deferred_spec (((Blk.Logged.refl t).logCw (d := False) (fun g => absurd g Nat.one_ne_zero) false true).catalogue) hp hw _ _ _ _

theorem retire_spec {t : Blk} {tag : Nat} {e : List Nat} {x : Reel} (hr : t.sto.reel (e.getD 2 0 % 2 ^ 24) = some x) (hx : x.st = 1) (hpl : t.sto.plays = [])
    (hwait : t.sto.waitsFor 6 (e.getD 2 0 % 2 ^ 24) = false) {p : Prog} {q : List Prog} (hp : t.sto.progs = p :: q) (hw : p.first < t.sto.wrote) (op : Nat) :
    t.RegsBut (retire op tag e t) (fun a => a ≠ RING_CONS 8) ∧ (∃ o ∈ (retire op tag e t).sto.ops,
      o.op = 6 ∧ o.tag = tag ∧ o.reel = e.getD 2 0 % 2 ^ 24 ∧ o.mark = (retire op tag e t).sto.wrote) ∧
      ∃ y, (retire op tag e t).sto.reel (e.getD 2 0 % 2 ^ 24) = some y ∧ y.st = 2 := by
  unfold retire
  extract_lets id
  rw [show t.sto.reel id = some x from hr]
  dsimp only
  rw [if_neg (by rw [hx]; decide), if_neg (by rw [hpl]; exact Bool.false_ne_true)]
  generalize hb : ({ x with st := 2 } : Reel) = b
  generalize hu : (t.withSto fun y => y.putReel b) = u
  have hR : u.sto.reel id = some b := by
    rw [← hu]
    exact Sto.reel_putReel hr (by rw [← hb]) (by rw [← hb])
  have hL : u.Logged False u.catalogue := (Blk.Logged.refl u).catalogue
  obtain ⟨y, hy, cws, ey⟩ := Reel.Same.of_logged hL.logged hR
  have hy2 : y.st = 2 := by rw [ey, ← hb]
  obtain ⟨hreg, ho⟩ := deferred_spec hL (by rw [← hu]; exact hp) (by rw [← hu]; exact hw) 6 tag id 0
  have hops : u.catalogue.sto.ops = t.sto.ops := hL.logged.ops.trans (by rw [← hu]; rfl)
  have hlt : u.catalogue.sto.progd < u.catalogue.sto.wrote := Sto.progd_lt hL.logged (by rw [← hu]; exact hp) (by rw [← hu]; exact hw)
  obtain ⟨st, hs, hst⟩ := Blk.reel_settleOps (s := u.catalogue.defer 6 tag id 0) hy fun _ o hm hle h6 => by
    rcases List.mem_append.1 (show o ∈ u.catalogue.sto.ops ++ [_] from hm) with hold | hnew
    · intro he
      refine Bool.false_ne_true (hwait.symm.trans (Bool.and_eq_true_iff.2 ⟨rfl, List.any_eq_true.2 ⟨o, hops ▸ hold, ?_⟩⟩))
      rw [h6, he]
      exact beq_self_eq_true id
    · exact absurd hlt (Nat.not_lt.2 (by rw [List.mem_singleton.1 hnew] at hle; exact hle))
  refine ⟨?_, ho, _, hs, ?_⟩
  · have h0 : t.RegsBut u fun a => a ≠ RING_CONS 8 := by
      rw [← hu]
      exact .refl t _
    exact h0.trans hreg
  · rcases hst with g | ⟨g, -⟩
    · exact g.trans hy2
    · exact absurd (g.symm.trans hy2) (by decide)

/-! ### The obligation -/

theorem Blk.StoGone.reel {t u : Blk} (h : t.StoGone u) (id : Nat) : u.sto.reel id = t.sto.reel id := by
  rw [Sto.reel, h.worked.reels, Sto.reel]

theorem statReel_spec {t : Blk} {tag : Nat} {e : List Nat} {x : Reel} (hr : t.sto.reel (e.getD 2 0 % 2 ^ 24) = some x) (op : Nat) :
    statReel op tag e t = t.complete 7 0 x.st tag (e.getD 2 0 % 2 ^ 24) x.bytes.length x.name := by
  unfold statReel
  extract_lets id
  rw [show t.sto.reel id = some x from hr]

theorem listReel_spec {t : Blk} {e : List Nat} {x : Reel} (hr : t.sto.live[e.getD 2 0 % 2 ^ 24]? = some x) (op tag : Nat) :
    listReel op tag e t = t.complete 8 0 0 tag x.id 0 [] := by
  unfold listReel
  extract_lets id
  rw [show id = x.id by simp only [id, hr]]

/-- Settles O44: what an operation does to the store's state is stated once, and the engine that goes on after it leaves reels and completions alone. -/
theorem storeReels : Obligations.StoreReels := by
  unfold Obligations.StoreReels
  intro s ha
  refine ⟨?_, ?_, ?_, ?_, ?_, ?_⟩
  · intro h h0 hl
    refine .take8 rfl ha h rfl fun t hT => ?_
    obtain ⟨hreg, id, hc, hr⟩ := create_spec (t := t) 1 s.blk.tag8 (s.blk.ringFront 8) (hT.reels ▸ h0) (hT.live ▸ hl)
    refine ⟨hreg, fun u hu _ => ⟨id, ?_, ?_⟩⟩
    · rw [hu.worked.cpls, hc, hT.cpls]
    · rw [hu.worked.reels, hr, hT.reels, hT.sto]
  · intro x hd m h htw hr hx hp hf
    refine .take8 rfl ha h rfl fun t hT => ?_
    rw [← hT.imgRead htw] at hp hf ⊢
    have hw : ¬takenWord 8 STO_SPACE_CFG := by
      simp only [takenWord, memWord, pairWord, STO_SPACE_CFG, DRM_PWR_STATUS, DRM_RD_STATUS, WAL_LINK_STATUS, WAL_CREDIT_STALLS, RING_CONS, RING_PROD]
      omega
    have hfull bs := Blk.appendFull_of_alike hT.alike (hT.alike.appended x bs hd m)
      (hT.regs.f (x := STO_SPACE_CFG_OP_BANDS) (by decide) hw) x ((s.blk.ringFront 8).getD 5 0 % 2 ^ 24)
    obtain ⟨hreg, y, hy, hrest⟩ := append_spec (tag := s.blk.tag8) ((hT.reel _).trans hr) hx hp ((hfull _).trans hf) 2
    exact ⟨hreg, fun u hu _ => ⟨y, (hu.reel _).trans hy, hrest⟩⟩
  · intro x p q hr hp hw
    refine ⟨fun h hx hh hm => .take8 rfl ha h rfl fun t hT => ?_, fun h hx hpl => .take8 rfl ha h rfl fun t hT => ?_⟩
    · obtain ⟨hreg, ho⟩ := close_spec (tag := s.blk.tag8) ((hT.reel _).trans hr) hx hh hm (p := p) (q := q) (by rw [hT.sto]; exact hp) (by rw [hT.sto]; exact hw) 3
      exact ⟨hreg, fun u hu _ => hu.deferred ho⟩
    · obtain ⟨hreg, ho, y, hy, hy2⟩ := retire_spec (tag := s.blk.tag8) ((hT.reel _).trans hr) hx (hT.plays.trans hpl)
        (by rw [hT.sto]; exact h.2.2.2.2.1) (p := p) (q := q) (by rw [hT.sto]; exact hp) (by rw [hT.sto]; exact hw) 6
      exact ⟨hreg, fun u hu _ => ⟨hu.deferred ho, y, (hu.reel _).trans hy, hy2⟩⟩
  · intro x h hr
    refine .take8 rfl ha h rfl fun t hT => ?_
    rw [statReel_spec ((hT.reel _).trans hr)]
    refine ⟨t.regsBut_complete _ _ _ _ _ _ _, fun u hu _ => ?_⟩
    obtain ⟨hc, hrs⟩ := hu.completed
    exact ⟨by rw [hc, hT.cpls]; rfl, hrs.trans hT.reels⟩
  · intro x h hr
    refine .take8 rfl ha h rfl fun t hT => ?_
    rw [listReel_spec (by rw [hT.live]; exact hr)]
    refine ⟨t.regsBut_complete _ _ _ _ _ _ _, fun u hu _ => ?_⟩
    obtain ⟨hc, hrs⟩ := hu.completed
    exact ⟨by rw [hc, hT.cpls]; rfl, hrs.trans hT.reels⟩
  · intro op hop h
    refine .take8 (f := fun op => op == 0 || decide (10 < op)) (act := fun op tag _ b => b.complete op 9 0 tag 0 0 []) rfl ha h (by simpa using hop) fun t hT => ?_
    refine ⟨t.regsBut_complete _ _ _ _ _ _ _, fun u hu _ => ?_⟩
    obtain ⟨hc, hrs⟩ := hu.completed
    refine ⟨?_, hrs.trans hT.reels⟩
    rw [hc, hT.cpls, if_neg (by omega)]
    rfl

end Sys2Proof.Machine
end

section
/-!
PROOFS. PLAY, its records, and READ (R407, R412, R421 to R423).
-/

namespace Sys2Proof.Machine

variable {r s : Blk} {p : Nat → Prop}

/-! ### STO_STATUS_PLAYING -/

/-- A bit that is added where there was none leaves the others. -/
theorem bitOf_add_two_pow {m j k : Nat} (hj : bitOf m j = false) (hk : bitOf m k = true) : bitOf (m + 2 ^ j) k = true := by
  rw [bitOf_eq_testBit] at hj hk ⊢
  rcases Nat.lt_trichotomy k j with h | rfl | h
  · rw [Nat.add_comm, Nat.testBit_two_pow_add_gt h, hk]
  · rw [hj] at hk
    cases hk
  · obtain ⟨d, rfl⟩ := Nat.exists_eq_add_of_lt h
    have he : (m + 2 ^ j) / 2 ^ (j + 1) = m / 2 ^ (j + 1) := by
      rw [Nat.testBit_eq_decide_div_mod_eq, decide_eq_false_iff_not] at hj
      rw [Nat.pow_succ, ← Nat.div_div_eq_div_mul, ← Nat.div_div_eq_div_mul, Nat.add_div_right _ (Nat.two_pow_pos j)]
      omega
    have hd (v : Nat) : v.testBit (j + d + 1) = (v / 2 ^ (j + 1)).testBit d := by rw [← Nat.testBit_add]; congr 1; omega
    rw [hd, he, ← hd, hk]

/-- The streams with a PLAY as a mask. -/
def playMask (l : List (Nat × Play)) (m : Nat) : Nat := l.foldl (fun m p => if bitOf m p.1 then m else m + 2 ^ p.1) m

theorem bitOf_step_playMask {m j k : Nat} (hk : bitOf m k = true) : bitOf (if bitOf m j then m else m + 2 ^ j) k = true := by
  split
  · exact hk
  · next h => exact bitOf_add_two_pow (by simpa using h) hk

theorem bitOf_playMask_of_bit (l : List (Nat × Play)) {m k : Nat} (hk : bitOf m k = true) : bitOf (playMask l m) k = true :=
  List.foldlRecOn (motive := fun m => bitOf m k = true) l _ hk fun _ h _ _ => bitOf_step_playMask h

theorem bitOf_playMask {l : List (Nat × Play)} {k : Nat} (h : ∃ e ∈ l, e.1 = k) (m : Nat) : bitOf (playMask l m) k = true := by
  induction l generalizing m with
  | nil =>
    obtain ⟨e, he, -⟩ := h
    cases he
  | cons x l ih =>
    obtain ⟨e, he, hk⟩ := h
    rcases List.mem_cons.1 he with rfl | he
    · refine bitOf_playMask_of_bit l ?_
      show bitOf (if bitOf m e.1 then m else m + 2 ^ e.1) k = true
      rw [hk]
      split
      · next hb => exact hb
      · next hb =>
        rw [bitOf_eq_testBit, Bool.not_eq_true] at hb
        rw [bitOf_eq_testBit, Nat.add_comm, Nat.testBit_two_pow_add_eq, hb]
        rfl
    · exact ih ⟨e, he, hk⟩ _

theorem Blk.f_playing_showSto (s : Blk) : s.showSto.f STO_STATUS_PLAYING = playMask s.sto.plays 0 % 16 := by
  unfold Blk.showSto
  extract_lets x s1 s2 s3
  have h3 : s3.f STO_STATUS_PLAYING = playMask s.sto.plays 0 % 16 := by
    rw [show s3 = s2.wn STO_BAD_BLOCKS (min u24max x.bad.length) from rfl, Blk.f_wn_ne _ _ _ _ (by decide)]
    exact Blk.f_setF_same _ _ _ (by decide) (by decide)
  clear_value s3
  split
  · exact h3
  · extract_lets us er s4 s5
    have h5 : s5.f STO_STATUS_PLAYING = playMask s.sto.plays 0 % 16 := by
      simp only [s5, s4]
      rw [Blk.f_wn_ne _ _ _ _ (by decide), Blk.f_wn_ne _ _ _ _ (by decide), Blk.f_wn_ne _ _ _ _ (by decide), Blk.f_wn_ne _ _ _ _ (by decide), h3]
    rw [Blk.f_setF_ne _ _ _ _ (by decide) (by decide) (by decide) (by decide), h5]

theorem Blk.stoGo_eq_showSto (s : Blk) : ∃ u : Blk, s.stoGo = u.showSto ∧ u.sto = s.stoGo.sto := by
  have hs (u : Blk) : u.sto = u.showSto.sto := by
    unfold Blk.showSto
    extract_lets x s1 s2 s3
    have h3 : s3.sto = u.sto := by rw [Blk.wn_sto, Blk.setF_sto, Blk.wn_sto, Blk.wn_sto]
    clear_value s3
    split
    · exact h3.symm
    · rw [Blk.setF_sto, Blk.wn_sto, Blk.wn_sto, Blk.wn_sto, Blk.wn_sto, h3]
  unfold Blk.stoGo
  split
  · exact ⟨_, rfl, hs _⟩
  · exact ⟨_, rfl, hs _⟩

/-- A PLAY that is there shows. -/
theorem Blk.playing_stoGo {k : Nat} (hk : k < 4) (h : ∃ e ∈ s.stoGo.sto.plays, e.1 = k) : bitOf (s.stoGo.f STO_STATUS_PLAYING) k = true := by
  obtain ⟨u, he, hu⟩ := s.stoGo_eq_showSto
  rw [he, Blk.f_playing_showSto, hu, bitOf_eq_testBit, show (16 : Nat) = 2 ^ 4 from rfl, Nat.testBit_mod_two_pow, decide_eq_true hk, ← bitOf_eq_testBit,
    bitOf_playMask h]
  rfl

/-! ### PLAYs found again -/

/-- A PLAY that is the only one of its stream is found after the engine has gone on, with more reads issued. -/
theorem Sto.Worked.find_play {x y : Sto} (h : x.Worked y) {k : Nat} {q : Play} (hk : ∃ e ∈ x.plays, e.1 = k) (hq : ∀ e ∈ x.plays, e.1 = k → e.2 = q) :
    ∃ n, y.plays.find? (fun e => e.1 == k) = some (k, { q with issued := n }) := by
  have hy : ∃ e ∈ y.plays, e.1 = k := by
    obtain ⟨e, he, hek⟩ := hk
    obtain ⟨d, hd, hdk⟩ := List.mem_map.1 (h.keys ▸ List.mem_map_of_mem (f := Prod.fst) he)
    exact ⟨d, hd, hdk.trans hek⟩
  obtain ⟨e, he, hek⟩ := hy
  obtain ⟨d, hd⟩ := Option.isSome_iff_exists.1 (List.find?_isSome.2 ⟨e, he, beq_iff_eq.2 hek⟩ : (y.plays.find? fun e => e.1 == k).isSome = true)
  have hdk : d.1 = k := by simpa using List.find?_some hd
  obtain ⟨p, n, hp, hn⟩ := h.plays d (List.mem_of_find?_eq_some hd)
  refine ⟨n, hd.trans (congrArg some (Prod.ext hdk ?_))⟩
  rw [hn, show p = q from hq _ hp hdk]

/-- The plays with those of a stream replaced. -/
theorem mem_putPlays {l : List (Nat × Play)} {k : Nat} {q : Play} {e : Nat × Play} (he : e ∈ l.map fun e => if e.1 = k then (k, q) else e) (hk : e.1 = k) :
    e.2 = q := by
  obtain ⟨d, -, rfl⟩ := List.mem_map.1 he
  by_cases h : d.1 = k
  · rw [if_pos h]
  · rw [if_neg h] at hk
    exact absurd hk h

theorem exists_putPlays {l : List (Nat × Play)} {k : Nat} (q : Play) (h : ∃ e ∈ l, e.1 = k) : ∃ e ∈ l.map fun e => if e.1 = k then (k, q) else e, e.1 = k := by
  obtain ⟨e, he, hk⟩ := h
  exact ⟨(k, q), List.mem_map.2 ⟨e, he, if_pos hk⟩, rfl⟩

theorem exists_play_of_find {l : List (Nat × Play)} {k : Nat} {p : Play} (h : l.find? (fun e => e.1 == k) = some (k, p)) : ∃ e ∈ l, e.1 = k :=
  ⟨_, List.mem_of_find?_eq_some h, rfl⟩

/-! ### PLAY, STOP_PLAY and READ are taken (R407, R421, R423) -/

theorem Blk.startPlay_spec (s : Blk) (k : Nat) (p : Play) : (s.startPlay k p).nextSeq k = 0 ∧ (s.startPlay k p).fb (PGE_ING_STATUS_BOUND k) = true ∧
    s.RegsBut (s.startPlay k p) (streamWord k) ∧ (s.startPlay k p).sto = { s.sto with plays := s.sto.plays ++ [(k, p)] } := by
  obtain ⟨hn, -, -, -, hF⟩ := s.resetStream_spec k (q := 0) (by decide)
  have hsto : (s.resetStream k 0).sto = s.sto := by
    rw [Blk.resetStream, Blk.putStream_def, Blk.setF_sto, Blk.setF_sto, Blk.setStream_sto, Blk.setVal_eq]
  unfold Blk.startPlay
  extract_lets u
  have hu : s.RegsBut u (streamWord k) := hF.1.setF (x := PGE_ING_STATUS_BOUND k) (.inl rfl)
  have hnu : u.nextSeq k = 0 := by
    refine Eq.trans ?_ hn
    rw [Blk.nextSeq, Blk.val_setF_ne _ _ _ _ _ (by simp only [PGE_ING_STATUS, PGE_ING_NEXT_SEQ]; omega), Blk.nextSeq]
  have hbu : u.fb (PGE_ING_STATUS_BOUND k) = true := Blk.fb_setF_same _ _ _ (by simp) (by simp)
  have hsu : u.sto = s.sto := (Blk.setF_sto _ _ _).trans hsto
  clear_value u
  exact ⟨hnu, hbu, hu, congrArg (fun x : Sto => { x with plays := x.plays ++ [(k, p)] }) hsu⟩

/-- The PLAY that an entry of ring 8 asks for. -/
def playOf (tag : Nat) (e : List Nat) : Play :=
  { reel := e.getD 2 0 % 2 ^ 24, tag := tag, track := bits (e.headD 0) 9 8, genBias := bits (e.getD 3 0) 23 12, bdOfs := bits (e.getD 3 0) 11 0,
    baseOfs := e.getD 4 0 % 2 ^ 24, loops := e.getD 5 0 % 2 ^ 24, pass := 0, off := 0, rep := 0, applied := 0, issued := 0, done := [],
    bads := [], unc := none, stop := false, held := false }

theorem play_eq {t : Blk} {tag : Nat} {e : List Nat} {x : Reel} (hr : t.sto.reel (e.getD 2 0 % 2 ^ 24) = some x) (hx : x.st = 1)
    (hn : ∀ d ∈ t.sto.plays, d.1 ≠ bits (e.headD 0) 13 12) (op : Nat) : play op tag e t = t.startPlay (bits (e.headD 0) 13 12) (playOf tag e) := by
  have hany : (t.sto.plays.any fun d => d.1 == bits (e.headD 0) 13 12) = false := List.any_eq_false.2 fun d hd => by simpa using hn d hd
  show t.submitPlay (bits (e.headD 0) 13 12) (playOf tag e) = _
  unfold Blk.submitPlay
  rw [show t.sto.reel (playOf tag e).reel = some x from hr]
  dsimp only
  rw [if_neg (not_not.2 hx), if_neg (by rw [hany]; exact Bool.false_ne_true)]

theorem stopPlay_eq {t : Blk} {tag : Nat} {e : List Nat} (h : ∃ d ∈ t.sto.plays, d.1 = bits (e.headD 0) 13 12) (op : Nat) : stopPlay op tag e t =
    (t.withSto fun x => { x with plays := x.plays.map fun p => if p.1 = bits (e.headD 0) 13 12 then (bits (e.headD 0) 13 12, { p.2 with stop := true }) else p }).complete
      5 0 0 tag 0 0 [] := by
  obtain ⟨d, hd, hk⟩ := h
  unfold stopPlay
  extract_lets k
  exact if_pos (List.any_eq_true.2 ⟨d, hd, decide_eq_true hk⟩)

/-- The operation that a READ waits as. -/
def readOp (num tag : Nat) (e : List Nat) (x : Reel) : StoOp :=
  let off := e.getD 6 0 % 2 ^ 24 + e.getD 7 0 % 2 ^ 24 * 2 ^ 24
  let n := min (e.getD 5 0 % 2 ^ 24) (x.bytes.length - off)
  { num := num, op := 9, tag := tag, reel := e.getD 2 0 % 2 ^ 24, mark := 0, len := n, dest := e.getD 3 0 % 2 ^ 24 + e.getD 4 0 % 4096 * 2 ^ 24,
    off := off, todo := x.span off n, left := (x.span off n).length, unc := false }

theorem storeRead_eq {t : Blk} {tag : Nat} {e : List Nat} {x : Reel} (hr : t.sto.reel (e.getD 2 0 % 2 ^ 24) = some x) (hx : x.st ≠ 2)
    (hs : (readOp t.sto.num tag e x).todo ≠ []) (op : Nat) :
    storeRead op tag e t = t.withSto fun y => { y with num := y.num + 1, ops := y.ops ++ [readOp t.sto.num tag e x] } := by
  have hl : (readOp t.sto.num tag e x).left ≠ 0 := fun h => hs (List.length_eq_zero_iff.1 h)
  unfold storeRead
  extract_lets id off
  rw [show t.sto.reel id = some x from hr]
  dsimp only
  rw [if_neg hx]
  exact if_pos hl

/-! ### A record of a PLAY (R413, R421 to R423) -/

theorem Blk.endPlay_spec (s : Blk) (k : Nat) (p : Play) (status : Nat) : (s.endPlay k p status none).nextSeq k = 0 ∧
    (s.endPlay k p status none).fb (PGE_ING_STATUS_BOUND k) = false ∧ (s.endPlay k p status none).twn = s.twn ∧
    (s.endPlay k p status none).sto.plays = s.sto.plays.filter (fun e => e.1 != k) ∧ (s.endPlay k p status none).sto.cpls =
      s.sto.cpls ++ [[4 * 65536 + status * 256, p.tag, p.reel, p.applied % 2 ^ 24, p.applied / 2 ^ 24 % 2 ^ 24, 0, 0, 0]] := by
  unfold Blk.endPlay
  extract_lets o u
  have hsto (v : Blk) : (v.resetStream k 0).sto = v.sto ∧ (v.resetStream k 0).twn = v.twn := by
    rw [Blk.resetStream, Blk.putStream_def, Blk.setF_sto, Blk.setF_sto, Blk.setStream_sto, Blk.setF_twn, Blk.setF_twn, Blk.setStream_twn, Blk.setVal_eq]
    exact ⟨rfl, rfl⟩
  obtain ⟨hn, -, hb, -⟩ := (u.complete 4 status 0 p.tag p.reel p.applied [o % 2 ^ 24, o / 2 ^ 24]).resetStream_spec k (q := 0) (by decide)
  obtain ⟨hs, ht⟩ := hsto (u.complete 4 status 0 p.tag p.reel p.applied [o % 2 ^ 24, o / 2 ^ 24])
  refine ⟨hn, hb, ht, by rw [hs]; rfl, ?_⟩
  rw [hs, Blk.sto_complete, if_neg (by omega)]
  simp [o, List.range_succ]
  rfl

theorem playRecord_stop {k : Nat} {p : Play} {x : Reel} (h : s.sto.plays.find? (fun e => e.1 == k) = some (k, p)) (hr : s.sto.reel p.reel = some x)
    (hu : s.underTest 9 = false) (hs : p.stop = true) (h0 : p.rep = 0) : playRecord k s = s.endPlay k p 7 none := by
  unfold playRecord
  rw [if_neg (by rw [hu]; exact Bool.false_ne_true), h]
  dsimp only
  rw [hr]
  exact if_pos ⟨hs, h0⟩

/-- The codewords of a stretch hold those of any part of it. -/
theorem Reel.span_mono (x : Reel) {a n m i : Nat} (h : n ≤ m) (hi : i ∈ x.span a n) : i ∈ x.span a m := by
  unfold Reel.span at hi ⊢
  obtain ⟨hm, hc⟩ := List.mem_filter.1 hi
  refine List.mem_filter.2 ⟨hm, ?_⟩
  cases hg : x.cws[i]? with
  | none => rw [hg] at hc; exact hc
  | some c =>
    rw [hg] at hc
    simp only [decide_eq_true_eq] at hc ⊢
    exact ⟨hc.1.trans_le (Nat.add_le_add_left h a), hc.2⟩

/-- The descriptor that a BDSET record of a PLAY sets. -/
def Play.bdOf (p : Play) (x : Reel) : Nat := (dgNat (slice x.bytes p.off 32) 12 2 + p.bdOfs) % 4096

theorem Play.bdOf_lt (p : Play) (x : Reel) : p.bdOf x < 4096 := by
  unfold Play.bdOf
  omega

theorem playRecord_bdset {k : Nat} {p : Play} {x : Reel} (h : s.sto.plays.find? (fun e => e.1 == k) = some (k, p)) (hr : s.sto.reel p.reel = some x)
    (hu : s.underTest 9 = false) (hs : p.stop = false) (h0 : p.pass = 0) (hlen : p.off + 64 ≤ x.bytes.length) (hok : recOk (slice x.bytes p.off 32) = true)
    (htyp : dgNat (slice x.bytes p.off 32) 3 1 = 2) (hn : dgNat (slice x.bytes p.off 32) 6 2 = 32) (hcw : ∀ i ∈ x.span p.off 64, i ∈ p.done ∧ i ∉ p.bads)
    (hl : s.leased (p.bdOf x) = false) :
    playRecord k s = (s.bdsetTo (p.bdOf x) (leWords (biasBdset p (slice x.bytes (p.off + 32) 32)))).putPlay k (p.next 64 1) := by
  have hspan {n : Nat} (hn : n ≤ 64) : (!(x.span p.off n).all p.done.contains) = false ∧ (x.span p.off n).any p.bads.contains = false := by
    constructor
    · rw [Bool.not_eq_false', List.all_eq_true]
      exact fun i hi => by simpa using (hcw i (x.span_mono hn hi)).1
    · rw [List.any_eq_false]
      exact fun i hi => by simpa using (hcw i (x.span_mono hn hi)).2
  have hb : (biasBdset p (slice x.bytes (p.off + 32) 32)).length = 32 := by
    unfold biasBdset mapWords
    simp [length_toLE]
  have happ : s.playApply p (slice x.bytes p.off 32) (slice x.bytes (p.off + 32) 32) (p.bdOf x) =
      some (s.bdsetTo (p.bdOf x) (leWords (biasBdset p (slice x.bytes (p.off + 32) 32)))) := by
    unfold Blk.playApply
    rw [htyp]
    show s.applyBdset (p.bdOf x) (biasBdset p (slice x.bytes (p.off + 32) 32)) = _
    unfold Blk.applyBdset
    rw [if_neg (by rw [hb]; unfold Play.bdOf; omega)]
    rfl
  unfold playRecord
  rw [if_neg (by rw [hu]; exact Bool.false_ne_true), h]
  dsimp only
  rw [hr]
  dsimp only
  rw [if_neg (by rw [hs]; simp), if_neg (by omega), htyp, hn, if_neg (by rw [(hspan (n := 32) (by omega)).1]; exact Bool.false_ne_true),
    if_neg (by rw [(hspan (n := 32) (by omega)).2]; exact Bool.false_ne_true), if_neg (by rw [hok]; simp; omega),
    if_neg (by rw [(hspan (n := 32 + 32) (by omega)).1]; exact Bool.false_ne_true), if_neg (by rw [h0]; simp),
    if_neg (by rw [show s.leased ((dgNat (slice x.bytes p.off 32) 12 2 + p.bdOfs) % 4096) = false from hl]; simp),
    if_neg (by rw [(hspan (n := 32 + 32) (by omega)).2]; exact Bool.false_ne_true), if_neg (by simp)]
  rw [show (dgNat (slice x.bytes p.off 32) 12 2 + p.bdOfs) % 4096 = p.bdOf x from rfl, happ]
  unfold Blk.played
  dsimp only
  rw [if_neg (by simp)]

/-! ### A NAND read completes (R412) -/

theorem nandReadDone_play {x : ReadResult} {k i n : Nat} {p : Play} {a : Reel} {c : Cw} (hx : s.sto.reads.find? (fun e => e.1 == x.tag) = some (x.tag, .play k i))
    (hp : s.sto.plays.find? (fun e => e.1 == k) = some (k, p)) (hr : s.sto.reel p.reel = some a) (hc : a.cws[i]? = some c)
    (hn : (ladderOf s.retryMax x).2 = some n) (hb : c.bad = false) (hf : s.refreshNow (ladderOf s.retryMax x) = false) :
    ∃ u : Blk, nandReadDone x s = u.stoGo ∧ u.rn STO_CE_BITS = min (s.rn STO_CE_BITS + n) u24max ∧
      u.sto.plays = s.sto.plays.map fun e => if e.1 = k then (k, { p with done := i :: p.done }) else e := by
  unfold nandReadDone
  rw [hx]
  dsimp only
  generalize hv : (s.withSto fun o => { o with reads := o.reads.filter (fun e => e.1 != x.tag), tagStall := false }) = v
  have hvf : v.retryMax = s.retryMax := by rw [← hv]; rfl
  rw [hvf, hn]
  generalize hw : ((v.count 0x76).count 0x77 ((some n).getD 0)).addSat STO_CE_BITS ((some n).getD 0) = w
  have hreg : s.RegsBut ((v.count 0x76).count 0x77 ((some n).getD 0)) fun _ => False := by
    have h0 : s.RegsBut v fun _ => False := by
      rw [← hv]
      exact .refl s _
    exact h0.count.count
  have hsto : w.sto = { s.sto with reads := s.sto.reads.filter (fun e => e.1 != x.tag), tagStall := false } := by
    rw [← hw, Blk.addSat, Blk.wn_sto, Blk.count_sto, Blk.count_sto, ← hv]
    rfl
  have hce : w.rn STO_CE_BITS = min (s.rn STO_CE_BITS + n) u24max := by
    rw [← hw, Blk.addSat, Blk.rn_wn_same, hreg.rn (by decide) id, satU24, Nat.mod_eq_of_lt ((Nat.min_le_right _ _).trans_lt (by decide))]
    rfl
  have hfw : w.refreshNow (ladderOf s.retryMax x) = false := by
    have he (y : Fld) (hy : y.addr ≠ STO_CE_BITS) (hl : cntWord y.addr = false) : w.f y = s.f y := by
      rw [← hw, Blk.addSat, Blk.f_wn_ne _ _ _ _ hy]
      exact hreg.f hl id
    rw [← hf, Blk.refreshNow, Blk.refreshNow, he _ (by decide) (by decide), he _ (by decide) (by decide)]
  clear hw
  have hends : w.readEnds (ladderOf s.retryMax x) (.play k i) =
      w.withSto fun o => { o with plays := o.plays.map fun e => if e.1 = k then (k, { p with done := i :: p.done }) else e } := by
    have hps : w.sto.plays = s.sto.plays := by rw [hsto]
    have hrs : w.sto.reel p.reel = some a := by
      rw [hsto]
      exact hr
    unfold Blk.readEnds
    dsimp only
    rw [hps, hp]
    dsimp only
    rw [hrs]
    dsimp only
    rw [hc]
    dsimp only
    unfold Blk.playCw
    rw [hn, hb]
    simp only [Option.isSome_some, Bool.not_false, Bool.and_true, if_true, Bool.true_and]
    have h0 : (w.withSto fun o => { o with plays := o.plays.map fun e => if e.1 = k then (k, { p with done := i :: p.done }) else e }).refreshNow
        (ladderOf s.retryMax x) = false := hfw
    exact if_neg (by rw [h0]; exact Bool.false_ne_true)
  refine ⟨_, rfl, ?_, ?_⟩
  · rw [hends]
    exact hce
  · rw [hends]
    exact congrArg (fun y : Sto => y.plays.map fun e => if e.1 = k then (k, { p with done := i :: p.done }) else e) hsto

/-! ### The obligation -/

theorem Blk.StoGone.rn {t u : Blk} (h : t.StoGone u) {a : Nat} (h0 : cntWord a = false) (h1 : ¬stoWord a) : u.rn a = t.rn a := h.regs.rn h0 h1

theorem not_stoWord {a : Nat} (h : a < 0x150002) : ¬stoWord a := by
  simp only [stoWord, STO_STATUS, STO_REELS, STO_TAGS, STO_TAG_STALLS, STO_BAD_BLOCKS, STO_BANDS_FREE, STO_BANDS_TOTAL, STO_ERASE_MIN, STO_ERASE_MAX]
  omega

theorem Blk.StoGone.shown {t u : Blk} (h : t.StoGone u) {k : Nat} (hk : k < 4) :
    u.nextSeq k = t.nextSeq k ∧ u.fb (PGE_ING_STATUS_BOUND k) = t.fb (PGE_ING_STATUS_BOUND k) :=
  ⟨Blk.nextSeq_of_regsBut hk h.regs (not_stoWord (by simp only [PGE_ING_NEXT_SEQ]; omega)) (not_stoWord (by simp only [PGE_ING_NEXT_SEQ]; omega)),
    h.regs.fb (cntWord_low (by simp only [PGE_ING_STATUS]; omega)) (not_stoWord (by simp only [PGE_ING_STATUS]; omega))⟩

/-- A record is applied, or the PLAY ends, at its own command and, for one that waited, at the end of the wait. -/
theorem Completes.of_playRecord {z : State} {k : Fin 4} {p : Play} {c : Instr} {q : Blk → Prop} {t : Blk} (ha : z.blk.alive = true)
    (hf : z.blk.sto.plays.find? (fun e => e.1 == k.val) = some (k.val, p)) (hc : c = .playRecord k ∨ p.held = true ∧ c = .leaseWaitEnd k)
    (he : playRecord k z.blk = t) (hw : t.twn.wait = []) (hq : q t.stoGo) : Completes c z q := by
  subst he
  rcases hc with rfl | ⟨hh, rfl⟩
  · refine .of_on (f := fun b => (playRecord k b).stoGo.catchUp) rfl ha ?_
    rw [Blk.catchUp_of_none (by rw [(Blk.stoGone_stoGo _).twn]; exact hw)]
    exact hq
  · refine .of_on (f := leaseWaitEnd k) rfl ha ?_
    unfold leaseWaitEnd
    rw [hf]
    dsimp only
    rw [if_pos hh]
    exact hq

theorem Blk.bdsetTo_spec (s : Blk) (bd : Nat) (ws : List Nat) : s.OnlyRegs (s.bdsetTo bd ws) (fun a => ∃ i, i < 8 ∧ a = bdAddr bd i) ∧
    ∀ i, i < 8 → (s.bdsetTo bd ws).rn (bdAddr bd i) = ws.getD i 0 % 2 ^ 24 &&& bdMask i := by
  refine ⟨Blk.onlyRegs_foldl_wn _ _ (fun i hi => ⟨i, List.mem_range.1 hi, rfl⟩) s, fun i hi => ?_⟩
  refine (Blk.rn_foldl_wn (a := bdAddr bd) (fun i j h => by simp only [bdAddr] at h; omega) _ 8 s hi).trans (Nat.mod_eq_of_lt ?_)
  exact lt_of_le_of_lt Nat.and_le_left (Nat.mod_lt _ (by decide))

theorem Blk.twn_putPlay (s : Blk) (k : Nat) (p : Play) : (s.putPlay k p).twn = s.twn := rfl

theorem Blk.rn_putPlay (s : Blk) (k : Nat) (p : Play) (a : Nat) : (s.putPlay k p).rn a = s.rn a := rfl

theorem Blk.plays_putPlay (s : Blk) (k : Nat) (p : Play) : (s.putPlay k p).sto.plays = s.sto.plays.map fun e => if e.1 = k then (k, p) else e := rfl

section
variable {z : State} {k : Fin 4} {p : Play} {x : Reel} (ha : z.blk.alive = true)
  (hf : z.blk.sto.plays.find? (fun e => e.1 == k.val) = some (k.val, p)) (hr : z.blk.sto.reel p.reel = some x) (hu : z.blk.underTest 9 = false) (hw : z.blk.twn.wait = [])
include ha hf hr hu hw

theorem playRecord_stopped (hs : p.stop = true) (h0 : p.rep = 0) : Completes (.playRecord k) z fun b =>
    (∀ e ∈ b.sto.plays, e.1 ≠ k.val) ∧ b.nextSeq k = 0 ∧ b.fb (PGE_ING_STATUS_BOUND k) = false ∧
      b.sto.cpls = z.blk.sto.cpls ++ [[4 * 65536 + 7 * 256, p.tag, p.reel, p.applied % 2 ^ 24, p.applied / 2 ^ 24 % 2 ^ 24, 0, 0, 0]] := by
  obtain ⟨hns, hb, ht, hpl, hcp⟩ := z.blk.endPlay_spec k.val p 7
  refine .of_playRecord ha hf (.inl rfl) (playRecord_stop hf hr hu hs h0) (by rw [ht]; exact hw) ?_
  have hG := Blk.stoGone_stoGo (z.blk.endPlay k.val p 7 none)
  refine ⟨fun e hm hek => ?_, (hG.shown k.isLt).1.trans hns, (hG.shown k.isLt).2.trans hb, hG.worked.cpls.trans hcp⟩
  obtain ⟨q, n, hq, -⟩ := hG.worked.plays e hm
  rw [hpl] at hq
  exact absurd (List.mem_filter.1 hq).2 (by simp [hek])

theorem playRecord_sets (hs : p.stop = false) (h0 : p.pass = 0) (hlen : p.off + 64 ≤ x.bytes.length) (hok : recOk (slice x.bytes p.off 32) = true)
    (htyp : dgNat (slice x.bytes p.off 32) 3 1 = 2) (hn : dgNat (slice x.bytes p.off 32) 6 2 = 32) (hcw : ∀ i ∈ x.span p.off 64, i ∈ p.done ∧ i ∉ p.bads)
    (hl : z.blk.leased (p.bdOf x) = false) {c : Instr} (hc : c = .playRecord k ∨ p.held = true ∧ c = .leaseWaitEnd k) : Completes c z fun b =>
    (∀ i, i < 8 → b.rn (bdAddr (p.bdOf x) i) = (leWords (biasBdset p (slice x.bytes (p.off + 32) 32))).getD i 0 % 2 ^ 24 &&& bdMask i) ∧
      ∃ q, b.sto.plays.find? (fun e => e.1 == k.val) = some (k.val, q) ∧ q.off = p.off + 64 ∧ q.applied = p.applied + 1 ∧ q.held = false := by
  have he := playRecord_bdset hf hr hu hs h0 hlen hok htyp hn hcw hl
  have hbd := p.bdOf_lt x
  obtain ⟨hO, hws⟩ := z.blk.bdsetTo_spec (p.bdOf x) (leWords (biasBdset p (slice x.bytes (p.off + 32) 32)))
  generalize z.blk.bdsetTo (p.bdOf x) (leWords (biasBdset p (slice x.bytes (p.off + 32) 32))) = v at he hO hws
  have hv : v.sto.plays = z.blk.sto.plays := by rw [hO.1]
  have ht : v.twn = z.blk.twn := by rw [hO.1]
  refine .of_playRecord ha hf hc he (by rw [Blk.twn_putPlay, ht, hw]) ?_
  have hpl := v.plays_putPlay k (p.next 64 1)
  have hrn := v.rn_putPlay k (p.next 64 1)
  generalize v.putPlay k (p.next 64 1) = w at hpl hrn ⊢
  have hG := Blk.stoGone_stoGo w
  obtain ⟨n, hfind⟩ := hG.worked.find_play (k := k.val) (q := p.next 64 1) (hpl ▸ exists_putPlays _ (hv ▸ exists_play_of_find hf))
    fun e he hek => mem_putPlays (hpl ▸ he) hek
  refine ⟨fun i hi => ?_, _, hfind, rfl, rfl, rfl⟩
  rw [hG.rn (cntWord_low (by simp only [bdAddr]; omega)) (not_stoWord (by simp only [bdAddr]; omega)), hrn, hws i hi]

end

/-- Settles O45: the entries of ring 8 by what they leave for the engine, a record by the branch of R421 that it takes, and the engine by what it keeps. -/
theorem storePlaying : Obligations.StorePlaying := by
  unfold Obligations.StorePlaying
  intro s ha
  refine ⟨?_, ?_, ?_, ?_, ?_⟩
  · intro x k h hr hx hk hn
    have hk4 : k < 4 := by
      rw [← hk]
      exact bits_lt _ _ _
    refine .take8 rfl ha h rfl fun t hT => ?_
    rw [play_eq ((hT.reel _).trans hr) hx (by rw [hT.plays, hk]; exact hn), hk]
    generalize hp : playOf s.blk.tag8 (s.blk.ringFront 8) = p
    have hpf : p.reel = s.blk.reel8 ∧ p.tag = s.blk.tag8 ∧ p.off = 0 ∧ p.pass = 0 ∧ p.track = bits ((s.blk.ringFront 8).headD 0) 9 8 := by
      rw [← hp]
      exact ⟨rfl, rfl, rfl, rfl, rfl⟩
    clear hp
    obtain ⟨hns, hb, hreg, hsto⟩ := t.startPlay_spec k p
    generalize t.startPlay k p = v at hns hb hreg hsto ⊢
    have hpl : v.sto.plays = s.blk.sto.plays ++ [(k, p)] := by rw [hsto, hT.plays]
    refine ⟨hreg.mono fun a ha => by
      simp only [streamWord, PGE_ING_STATUS, PGE_ING_NEXT_SEQ, RING_CONS] at ha ⊢
      omega, fun u hu hgo => ?_⟩
    obtain ⟨n, hfind⟩ := hu.worked.find_play (k := k) (q := p)
      ⟨_, hpl ▸ List.mem_append_right _ (List.mem_singleton.2 rfl), rfl⟩ fun e he hek => by
        rcases List.mem_append.1 (hpl ▸ he) with hm | hm
        · exact absurd hek (hn e hm)
        · rw [List.mem_singleton.1 hm]
    refine ⟨(hu.shown hk4).1.trans hns, (hu.shown hk4).2.trans hb, ?_, _, hfind, hpf⟩
    rw [hgo] at hfind ⊢
    exact Blk.playing_stoGo hk4 (exists_play_of_find hfind)
  · intro h hd
    refine .take8 rfl ha h rfl fun t hT => ?_
    rw [stopPlay_eq (by rw [hT.plays]; exact hd)]
    refine ⟨.refl t _, fun u hu _ => ⟨?_, fun e he hek => ?_⟩⟩
    · rw [hu.completed.1, if_neg (by omega)]
      exact congrArg (fun l => l ++ _) hT.cpls
    · obtain ⟨q, n, hq, hn⟩ := hu.worked.plays e he
      obtain ⟨d, -, hd⟩ := List.mem_map.1 hq
      rw [hn]
      by_cases hdk : d.1 = bits ((s.blk.ringFront 8).headD 0) 13 12
      · rw [if_pos hdk] at hd
        exact (congrArg (fun e : Nat × Play => e.2.stop) hd).symm
      · rw [if_neg hdk] at hd
        exact absurd ((congrArg Prod.fst hd).trans hek) hdk
  · intro k p x hf hr hu hw
    exact ⟨playRecord_stopped ha hf hr hu hw, fun hs h0 hlen hok htyp hn hcw hl c => playRecord_sets ha hf hr hu hw hs h0 hlen hok htyp hn hcw hl⟩
  · intro x k i n p a c hx hp hr hc hn hb hf
    refine .of_on (f := nandReadDone x) rfl ha ?_
    obtain ⟨u, he, hce, hpl⟩ := nandReadDone_play hx hp hr hc hn hb hf
    rw [he]
    have hG := Blk.stoGone_stoGo u
    obtain ⟨m, hfind⟩ := hG.worked.find_play (k := k) (q := { p with done := i :: p.done }) (hpl ▸ exists_putPlays _ (exists_play_of_find hp))
      fun e he hek => mem_putPlays (hpl ▸ he) hek
    exact ⟨(hG.rn (by decide) (by unfold stoWord; decide)).trans hce, _, hfind, rfl, rfl⟩
  · intro x h hr hx hs
    refine .take8 rfl ha h rfl fun t hT => ?_
    rw [storeRead_eq ((hT.reel _).trans hr) hx hs]
    refine ⟨.refl t _, fun u hu _ => ?_⟩
    obtain ⟨l, hl⟩ := hu.worked.ops (readOp t.sto.num s.blk.tag8 (s.blk.ringFront 8) x) (List.mem_append_right _ (List.mem_singleton.2 rfl))
    exact ⟨_, hl, rfl, rfl, rfl, rfl, rfl, rfl⟩

end Sys2Proof.Machine
end

section
/-!
PROOFS. The line code read back (R312, R313, R316 to R321): bits as numbers, symbols, stuffed and scrambled blocks, and lane frames.
-/

namespace Sys2Proof.Machine

/-! ### Bits and bytes as numbers -/

theorem b2n_bitOf (v i : Nat) : b2n (bitOf v i) = v / 2 ^ i % 2 := by
  rw [b2n, bitOf]
  rcases Nat.mod_two_eq_zero_or_one (v / 2 ^ i) with h | h <;> simp [h]

theorem foldl_bitsNat (l : List Bool) (w : Nat) : l.foldl (fun v b => 2 * v + b2n b) w = w * 2 ^ l.length + bitsNat l := by
  induction l generalizing w with
  | nil => simp [bitsNat]
  | cons b l ih =>
    rw [bitsNat, List.foldl_cons, List.foldl_cons, ih, ih (2 * 0 + b2n b), List.length_cons, Nat.pow_succ]
    ring

theorem bitsNat_cons (b : Bool) (l : List Bool) : bitsNat (b :: l) = b2n b * 2 ^ l.length + bitsNat l := by
  rw [bitsNat, List.foldl_cons, foldl_bitsNat, Nat.mul_zero, Nat.zero_add]

theorem bitsNat_append (l m : List Bool) : bitsNat (l ++ m) = bitsNat l * 2 ^ m.length + bitsNat m := by
  rw [bitsNat, List.foldl_append, foldl_bitsNat, ← bitsNat]

theorem bitsNat_lt (l : List Bool) : bitsNat l < 2 ^ l.length := by
  induction l with
  | nil => decide
  | cons b l ih =>
    have hb : b2n b ≤ 1 := by cases b <;> decide
    have := Nat.mul_le_mul_right (2 ^ l.length) hb
    rw [bitsNat_cons, List.length_cons, Nat.pow_succ]
    omega

theorem length_msbBits (n v : Nat) : (msbBits n v).length = n := by simp [msbBits]

theorem msbBits_succ (n v : Nat) : msbBits (n + 1) v = bitOf v n :: msbBits n v := by
  rw [msbBits, List.range_succ_eq_map, List.map_cons, List.map_map, msbBits]
  refine congrArg₂ List.cons rfl (List.map_congr_left fun i _ => congrArg (bitOf v) ?_)
  show n + 1 - 1 - (i + 1) = n - 1 - i
  omega

theorem bitsNat_msbBits (n v : Nat) : bitsNat (msbBits n v) = v % 2 ^ n := by
  induction n with
  | zero => simp [msbBits, bitsNat, Nat.mod_one]
  | succ n ih =>
    rw [msbBits_succ, bitsNat_cons, ih, length_msbBits, b2n_bitOf, Nat.pow_succ, Nat.mod_mul]
    ring

theorem msbBits_bitsNat (l : List Bool) (w : Nat) : msbBits l.length (w * 2 ^ l.length + bitsNat l) = l := by
  induction l generalizing w with
  | nil => rfl
  | cons b l ih =>
    have he : w * 2 ^ (b :: l).length + bitsNat (b :: l) = (2 * w + b2n b) * 2 ^ l.length + bitsNat l := by
      rw [bitsNat_cons, List.length_cons, Nat.pow_succ]
      ring
    rw [he, List.length_cons, msbBits_succ, ih]
    refine congrArg (· :: l) ?_
    rw [bitOf, Nat.add_comm, Nat.add_mul_div_right _ _ (Nat.two_pow_pos _), Nat.div_eq_of_lt (bitsNat_lt l), Nat.zero_add]
    cases b <;> simp [b2n]

theorem beNat_append (l m : List Byte) : beNat (l ++ m) = beNat l * 256 ^ m.length + beNat m := by
  have h (l : List Byte) (w : Nat) : l.foldl (fun v b => v * 256 + b.toNat) w = w * 256 ^ l.length + beNat l := by
    induction l generalizing w with
    | nil => simp [beNat]
    | cons b l ih =>
      rw [beNat, List.foldl_cons, List.foldl_cons, ih, ih (0 * 256 + b.toNat), List.length_cons, Nat.pow_succ]
      ring
  rw [beNat, List.foldl_append, h, ← beNat]

theorem toBE_succ (v n : Nat) : toBE v (n + 1) = toBE (v / 256) n ++ [BitVec.ofNat 8 v] := by
  rw [toBE, toLE, List.reverse_cons, toBE]

theorem beNat_toBE (v n : Nat) : beNat (toBE v n) = v % 256 ^ n := by
  induction n generalizing v with
  | zero => simp [toBE, toLE, beNat, Nat.mod_one]
  | succ n ih =>
    have h1 : beNat [BitVec.ofNat 8 v] = v % 256 := by simp [beNat]
    rw [toBE_succ, beNat_append, ih, h1, List.length_singleton, Nat.pow_one, Nat.pow_succ, Nat.mul_comm (256 ^ n), Nat.mod_mul]
    ring

theorem toBE_beNat (l : List Byte) : toBE (beNat l) l.length = l := by
  induction l using List.reverseRecOn with
  | nil => rfl
  | append_singleton l b ih =>
    have hb : beNat [b] = b.toNat := by simp [beNat]
    have h1 : (beNat l * 256 + b.toNat) / 256 = beNat l := by have := b.isLt; omega
    have h2 : BitVec.ofNat 8 (beNat l * 256 + b.toNat) = b := by
      apply BitVec.eq_of_toNat_eq
      rw [BitVec.toNat_ofNat]
      have := b.isLt
      omega
    rw [List.length_append, List.length_singleton, toBE_succ, beNat_append, List.length_singleton, Nat.pow_one, hb, h1, h2, ih]

/-! ### Checks are of their width (R162, R299) -/

theorem crc32_lt (bs : List Byte) : crc32 bs < 2 ^ 32 := by
  have hb (v : Nat) (b : Byte) (hv : v < 2 ^ 32) : crc32Byte v b.toNat < 2 ^ 32 := by
    refine List.foldlRecOn (motive := fun v => v < 2 ^ 32) _ _ (Nat.xor_lt_two_pow hv (b.isLt.trans (by decide))) fun w hw _ _ => ?_
    split
    · exact Nat.xor_lt_two_pow (by omega) (by decide)
    · omega
  exact Nat.xor_lt_two_pow (List.foldlRecOn (motive := fun v => v < 2 ^ 32) bs _ (by decide) fun v hv b _ => hb v b hv) (by decide)

theorem crc24Byte_lt {v b : Nat} (hv : v < 2 ^ 24) (h : b < 256) : crc24Byte v b < 2 ^ 24 := by
  refine List.foldlRecOn (motive := fun v => v < 2 ^ 24) _ _ (Nat.xor_lt_two_pow hv (by omega)) fun w _ _ _ => ?_
  split
  · exact Nat.xor_lt_two_pow (Nat.mod_lt _ (by decide)) (by decide)
  · exact Nat.mod_lt _ (by decide)

theorem crc24Words_lt (ws : List Nat) : crc24Words ws < 2 ^ 24 := by
  have hb (l : List Nat) (hl : ∀ b ∈ l, b < 256) (v : Nat) (hv : v < 2 ^ 24) : l.foldl crc24Byte v < 2 ^ 24 :=
    List.foldlRecOn (motive := fun v => v < 2 ^ 24) l _ hv fun w hw b hm => crc24Byte_lt hw (hl b hm)
  refine List.foldlRecOn (motive := fun v => v < 2 ^ 24) ws _ (by decide) fun v hv w _ => hb _ (fun b hm => ?_) v hv
  simp only [List.mem_cons, List.not_mem_nil, or_false] at hm
  rcases hm with rfl | rfl | rfl <;> exact Nat.mod_lt _ (by decide)

/-! ### 8b/10b (R312, R313) -/

/-- What a coder sends for the symbols of a lane frame a receiver at its running disparity reads. -/
def symReads (rd : Bool) (c : Sym) : Bool :=
  (symCode rd c).1 < 1024 && symOf rd (symCode rd c).1 == some c && rdOf rd (symCode rd c).1 == (symCode rd c).2

theorem symReads_data : ∀ rd : Bool, ∀ b : Nat, b < 256 → symReads rd (false, b) = true := by decide +kernel

theorem symReads_ends : ∀ rd : Bool, symReads rd k27x7 = true ∧ symReads rd k29x7 = true := by decide +kernel

/-- Bits that do not complete a symbol find nothing. -/
theorem feed_light_short (l : List Bool) (x : Rx) (r : List Bool) (h : x.cnt + l.length < 10) : x.feed false true true (l ++ r) =
    Rx.feed false true true { x with win := l.foldl (fun w b => (2 * w + b2n b) % 1024) x.win, cnt := x.cnt + l.length } r := by
  induction l generalizing x with
  | nil => rfl
  | cons b l ih =>
    rw [List.length_cons] at h
    have hb : x.bit false true true b = ({ x with win := (2 * x.win + b2n b) % 1024, cnt := x.cnt + 1 }, []) := by
      show Rx.lightLocked true x b = _
      exact if_pos (by omega)
    rw [List.cons_append, Rx.feed, hb]
    have := ih { x with win := (2 * x.win + b2n b) % 1024, cnt := x.cnt + 1 } (by simp only; omega)
    simp only [List.contains_nil, Bool.false_eq_true, if_false, List.nil_append]
    rw [this, List.foldl_cons, List.length_cons, show x.cnt + 1 + l.length = x.cnt + (l.length + 1) by omega]

theorem foldl_window (l : List Bool) (w : Nat) : l.foldl (fun w b => (2 * w + b2n b) % 1024) w % 1024 = (w * 2 ^ l.length + bitsNat l) % 1024 := by
  induction l generalizing w with
  | nil => simp [bitsNat]
  | cons b l ih =>
    have he : w * 2 ^ (b :: l).length + bitsNat (b :: l) = (2 * w + b2n b) * 2 ^ l.length + bitsNat l := by
      rw [bitsNat_cons, List.length_cons, Nat.pow_succ]
      ring
    rw [List.foldl_cons, ih, he, Nat.add_mod, Nat.mod_mul_mod, ← Nat.add_mod]

/-- The ten bits of a valid symbol, in lock and aligned. -/
theorem feed_light_symbol {x y : Rx} {v : Nat} {c : Sym} {es : List RxEv} (h0 : x.cnt = 0) (hv : v < 1024) (hs : symOf x.rd v = some c)
    (hy : ({ x with win := v, cnt := 0, rd := rdOf x.rd v }.judge false).symbol c = (y, es)) (hg : es.contains .gain = false) (hl : es.contains .loss = false)
    (r : List Bool) : (x.feed false true true (msbBits 10 v ++ r)).2 = es ++ (y.feed false true true r).2 := by
  obtain ⟨l, b, hbits, hlen⟩ : ∃ l b, msbBits 10 v = l ++ [b] ∧ l.length = 9 :=
    ⟨(msbBits 10 v).dropLast, _, (List.dropLast_append_getLast (by simp [msbBits])).symm, by rw [List.length_dropLast, length_msbBits]⟩
  have hn : bitsNat (l ++ [b]) = v := hbits ▸ (bitsNat_msbBits 10 v).trans (Nat.mod_eq_of_lt hv)
  have hw : (2 * l.foldl (fun w b => (2 * w + b2n b) % 1024) x.win + b2n b) % 1024 = v := by
    have h := foldl_window (l ++ [b]) x.win
    rw [List.foldl_append, hn, List.length_append, hlen] at h
    simp only [List.foldl_cons, List.foldl_nil, List.length_singleton] at h
    omega
  rw [hbits, List.append_assoc, feed_light_short l x _ (by omega), List.singleton_append, Rx.feed, h0, hlen]
  generalize l.foldl (fun w b => (2 * w + b2n b) % 1024) x.win = w at hw
  have hb : Rx.bit false true true { x with win := w, cnt := 0 + 9 } b = (y, es) := by
    show Rx.lightLocked true { x with win := w, cnt := 0 + 9 } b = _
    unfold Rx.lightLocked
    simp only [hw]
    rw [if_neg (by decide), hs]
    exact hy
  simp only [hb, hg, hl, Bool.false_eq_true, if_false]

theorem symReads_iff {rd : Bool} {c : Sym} (h : symReads rd c = true) :
    (symCode rd c).1 < 1024 ∧ symOf rd (symCode rd c).1 = some c ∧ rdOf rd (symCode rd c).1 = (symCode rd c).2 := by
  simpa [symReads, and_assoc] using h

theorem lightFrame_quiet (bs : List Byte) : (lightFrame bs).contains .gain = false ∧ (lightFrame bs).contains .loss = false := by
  unfold lightFrame
  split
  · exact ⟨rfl, rfl⟩
  · exact ⟨rfl, rfl⟩

/-- Bytes in a frame, and its end. -/
theorem feed_light_bytes (bs : List Byte) (x : Rx) {f : List Nat} (h0 : x.cnt = 0) (hf : x.frame = some f) :
    (x.feed false true true (lightCode x.rd (bs.map (fun b => (false, b.toNat)) ++ [k29x7])).1).2 =
      lightFrame (f.reverse.map (fun b => BitVec.ofNat 8 b) ++ bs) := by
  induction bs generalizing x f with
  | nil =>
    obtain ⟨hv, hs, -⟩ := symReads_iff (symReads_ends x.rd).2
    have hsym (y : Rx) (hy : y.frame = some f) : y.symbol k29x7 = ({ y with frame := none }, lightFrame (f.reverse.map fun b => BitVec.ofNat 8 b)) := by
      unfold Rx.symbol
      rw [hy]
      rfl
    obtain ⟨hg, hl⟩ := lightFrame_quiet (f.reverse.map fun b => BitVec.ofNat 8 b)
    rw [List.map_nil, List.nil_append, lightCode, lightCode, feed_light_symbol h0 hv hs (hsym _ hf) hg hl, Rx.feed, List.append_nil, List.append_nil]
  | cons b bs ih =>
    obtain ⟨hv, hs, hr⟩ := symReads_iff (symReads_data x.rd b.toNat b.isLt)
    have hsym (y : Rx) (hy : y.frame = some f) : y.symbol (false, b.toNat) = ({ y with frame := some (b.toNat :: f) }, []) := by
      unfold Rx.symbol
      rw [hy]
      rfl
    rw [List.map_cons, List.cons_append, lightCode, feed_light_symbol h0 hv hs (hsym _ hf) rfl rfl, List.nil_append, ← hr]
    refine (ih _ rfl rfl).trans (congrArg lightFrame ?_)
    simp

theorem lightFrame_laneBytes {bs : List Byte} (hl : bs.length = 16) (h0 : 0xF0 ≤ (bs.getD 0 0).toNat) : lightFrame (laneBytes bs) = [.frame bs] := by
  have ht : (laneBytes bs).take 16 = bs := by rw [laneBytes, ← hl, List.take_left]
  have hd : (laneBytes bs).drop 16 = toBE (crc32 bs) 4 := by rw [laneBytes, ← hl, List.drop_left]
  have hg : (laneBytes bs).getD 0 0 = bs.getD 0 0 := by
    rw [laneBytes, List.getD_eq_getElem?_getD, List.getD_eq_getElem?_getD, List.getElem?_append_left (by omega)]
  unfold lightFrame
  rw [ht, hd, hg, beNat_toBE, Nat.mod_eq_of_lt ((crc32_lt bs).trans_eq (by decide))]
  exact if_pos ⟨by rw [laneBytes, List.length_append, hl, length_toBE], h0, rfl⟩

theorem feed_light_frame {x : Rx} {bs : List Byte} (h0 : x.cnt = 0) (hl : bs.length = 16) (hb : 0xF0 ≤ (bs.getD 0 0).toNat) :
    (x.feed false true true (lightCode x.rd (frameSyms (laneBytes bs))).1).2 = [.frame bs] := by
  obtain ⟨hv, hs, hr⟩ := symReads_iff (symReads_ends x.rd).1
  have hsym (y : Rx) : y.symbol k27x7 = ({ y with frame := some [] }, []) := rfl
  rw [frameSyms, List.cons_append, lightCode, feed_light_symbol h0 hv hs (hsym _) rfl rfl, List.nil_append, ← hr]
  exact (feed_light_bytes (laneBytes bs) _ (f := []) rfl rfl).trans (lightFrame_laneBytes hl hb)

/-! ### Stuffed blocks (R316, R319) -/

/-- The run of equal bits after one more. -/
def runAfter (last : Bool) (run : Nat) (b : Bool) : Nat := if 0 < run ∧ b = last then run + 1 else 1

theorem stuff_cons (last : Bool) (run : Nat) (b : Bool) (r : List Bool) : (stuff last run (b :: r)).1 =
    if runAfter last run b = 40 then b :: (!b) :: (stuff (!b) 1 r).1 else b :: (stuff b (runAfter last run b) r).1 := by
  rw [stuff]
  exact apply_ite Prod.fst (runAfter last run b = 40) _ _

theorem runAfter_le {last b : Bool} {run : Nat} (h : run < 40) : runAfter last run b ≤ 40 := by
  unfold runAfter
  split <;> omega

/-- A receiver that has taken one more bit of a block. -/
def Rx.took (x : Rx) (b : Bool) : Rx := { x with run := runAfter x.last x.run b, last := b, win := 2 * x.win + b2n b, cnt := x.cnt + 1 }

theorem heavyBit_short {x : Rx} (hr : x.run < 40) (hc : x.cnt + 1 < 194) (b : Bool) : Rx.bit true true true x b = (x.took b, []) := by
  show x.heavyBit true b = _
  unfold Rx.heavyBit
  rw [if_neg (by omega)]
  exact if_pos hc

theorem heavyBit_last {x : Rx} (hr : x.run < 40) (hc : x.cnt + 1 = 194) (b : Bool) :
    Rx.bit true true true x b = (x.took b).block ((x.took b).win / 2 ^ 192) ((x.took b).win % 2 ^ 192) := by
  show x.heavyBit true b = _
  unfold Rx.heavyBit
  rw [if_neg (by omega)]
  exact if_neg (by simp only; omega)

/-- The inserted bit is dropped. -/
theorem heavyBit_inserted {x : Rx} (hr : x.run = 40) : Rx.bit true true true x (!x.last) = ({ x with last := !x.last, run := 1 }, []) := by
  show x.heavyBit true (!x.last) = _
  unfold Rx.heavyBit
  rw [if_pos hr]
  cases x.last <;> simp

/-- A receiver in lock takes the rest of a block as it stood before stuffing. -/
theorem feed_stuff {es : List RxEv} {bad : List Bool} {gen : Option Nat} {w : Nat} (hg : es.contains .gain = false) (hl : es.contains .loss = false)
    (hB : ∀ z : Rx, z.bad = bad → z.spoilt = false → z.gen = gen → z.win = w →
      ∃ y, z.block (z.win / 2 ^ 192) (z.win % 2 ^ 192) = (y, es) ∧ y.run = z.run ∧ y.last = z.last)
    (l : List Bool) : ∀ x : Rx, x.run < 40 → x.spoilt = false → x.bad = bad → x.gen = gen → x.cnt + l.length = 194 → l ≠ [] →
      x.win * 2 ^ l.length + bitsNat l = w → (x.feed true true true (stuff x.last x.run l).1).2 = es := by
  induction l with
  | nil => intro x _ _ _ _ _ h
           exact absurd rfl h
  | cons b r ih =>
    intro x hr hs hbad hgen hc _ hw
    have hw' : (x.took b).win * 2 ^ r.length + bitsNat r = w := by
      rw [← hw, bitsNat_cons, List.length_cons, Nat.pow_succ, Rx.took]
      ring
    rw [List.length_cons] at hc
    have hle : runAfter x.last x.run b ≤ 40 := runAfter_le hr
    rw [stuff_cons]
    by_cases hr0 : r = []
    · subst hr0
      obtain ⟨y, hy, hyr, hyl⟩ := hB (x.took b) hbad hs hgen (by simpa [bitsNat] using hw')
      have hbit : Rx.bit true true true x b = (y, es) := (heavyBit_last hr (by simpa using hc) b).trans hy
      split
      · next h40 =>
        have hins : Rx.bit true true true y (!b) = ({ y with last := !b, run := 1 }, []) := by
          have := heavyBit_inserted (hyr.trans h40)
          rwa [show y.last = b from hyl] at this
        simp only [Rx.feed, stuff, hbit, hg, hl, hins, Bool.false_eq_true, if_false, List.contains_nil, List.append_nil]
      · simp only [Rx.feed, stuff, hbit, List.append_nil]
    · have hlen : 0 < r.length := List.length_pos_iff.2 hr0
      have hbit := heavyBit_short hr (show x.cnt + 1 < 194 by omega) b
      split
      · next h40 =>
        have hins : Rx.bit true true true (x.took b) (!b) = ({ x.took b with last := !b, run := 1 }, []) := heavyBit_inserted (x := x.took b) h40
        simp only [Rx.feed, hbit, hins, List.contains_nil, Bool.false_eq_true, if_false, List.nil_append]
        exact ih { x.took b with last := !b, run := 1 } (show 1 < 40 by decide) hs hbad hgen (by rw [← hc]; simp only [Rx.took]; omega) hr0 hw'
      · next h40 =>
        simp only [Rx.feed, hbit, List.contains_nil, Bool.false_eq_true, if_false, List.nil_append]
        exact ih (x.took b) (Nat.lt_of_le_of_ne hle h40) hs hbad hgen (by rw [← hc]; simp only [Rx.took]; omega) hr0 hw'

/-! ### Scrambled payloads (R317, R318) -/

theorem scramble_scramble (l : List Bool) (g : Nat) : (scramble g (scramble g l).1).1 = l := by
  induction l generalizing g with
  | nil => rfl
  | cons b l ih =>
    simp only [scramble]
    rw [ih]
    refine congrArg (· :: l) ?_
    cases b <;> cases (genStep g).1 <;> rfl

theorem length_scramble (l : List Bool) (g : Nat) : (scramble g l).1.length = l.length := by
  induction l generalizing g with
  | nil => rfl
  | cons b l ih => simp only [scramble, List.length_cons, ih]

/-- The bits of words, most significant first. -/
def bitsOfWords (ws : List Nat) : List Bool := ws.flatMap (msbBits 24)

theorem bitsNat_bitsOfWords_cons (w : Nat) (ws : List Nat) (hw : w < 2 ^ 24) : bitsNat (bitsOfWords (w :: ws)) = w * 2 ^ (24 * ws.length) + bitsNat (bitsOfWords ws) := by
  have hl : (bitsOfWords ws).length = 24 * ws.length := by
    simp [bitsOfWords, List.length_flatMap, length_msbBits, Nat.mul_comm]
  rw [bitsOfWords, List.flatMap_cons, bitsNat_append, bitsNat_msbBits, Nat.mod_eq_of_lt hw, ← bitsOfWords, hl]

theorem wordBits_eq {ws : List Nat} (h : ws.length = 8) : wordBits ws = bitsOfWords ws := by
  match ws, h with
  | [a, b, c, d, e, f, g, i], _ => rfl

theorem length_wordBits (ws : List Nat) : (wordBits ws).length = 192 := by simp [wordBits, List.length_flatMap, length_msbBits]

theorem payWords_wordBits {ws : List Nat} (h : ws.length = 8) (hw : ∀ w ∈ ws, w < 2 ^ 24) : payWords (bitsNat (wordBits ws)) = ws := by
  rw [wordBits_eq h]
  match ws, h with
  | [a, b, c, d, e, f, g, i], _ =>
    simp only [List.mem_cons, List.not_mem_nil, or_false, forall_eq_or_imp, forall_eq] at hw
    obtain ⟨ha, hb, hc, hd, he, hf, hg, hi⟩ := hw
    rw [bitsNat_bitsOfWords_cons _ _ ha, bitsNat_bitsOfWords_cons _ _ hb, bitsNat_bitsOfWords_cons _ _ hc, bitsNat_bitsOfWords_cons _ _ hd,
      bitsNat_bitsOfWords_cons _ _ he, bitsNat_bitsOfWords_cons _ _ hf, bitsNat_bitsOfWords_cons _ _ hg, bitsNat_bitsOfWords_cons _ _ hi]
    simp only [payWords, List.range_succ, List.range_zero, List.nil_append, List.cons_append, List.map_cons, List.map_nil, List.length_cons, List.length_nil,
      bitsOfWords, List.flatMap_nil, bitsNat, List.foldl_nil, List.cons.injEq, and_true]
    refine ⟨?_, ?_, ?_, ?_, ?_, ?_, ?_, ?_⟩ <;> omega

theorem msbBits_bitsNat_of_length {l : List Bool} {n : Nat} (h : l.length = n) : msbBits n (bitsNat l) = l := by
  have := msbBits_bitsNat l 0
  rwa [Nat.zero_mul, Nat.zero_add, h] at this

theorem laneWords_lt (bs : List Byte) : ∀ w ∈ laneWords bs, w < 2 ^ 24 := by
  intro w hw
  rcases List.mem_append.1 hw with h | h
  · rcases List.mem_cons.1 h with rfl | h
    · decide
    · obtain ⟨i, -, rfl⟩ := List.mem_map.1 h
      exact (beNat_lt _).trans_eq (by simp)
  · rw [List.mem_singleton.1 h]
    exact crc24Words_lt _

theorem length_laneWords (bs : List Byte) : (laneWords bs).length = 8 := rfl

theorem toBE_beNat_three (a b c : Byte) : toBE (beNat [a, b, c]) 3 = [a, b, c] := toBE_beNat [a, b, c]

/-- A lane frame in a control block. -/
theorem ctrlBlock_laneWords {bs : List Byte} (h : bs.length = 16) : ctrlBlock (laneWords bs) = [.frame bs] := by
  have hf : ((((laneWords bs).drop 1).take 6).flatMap fun w => toBE w 3).take 16 = bs := by
    match bs, h with
    | [a, b, c, d, e, f, g, i, j, k, l, m, n, o, p, q], _ =>
      simp only [laneWords, List.range_succ, List.range_zero, List.nil_append, List.cons_append, List.map_cons, List.map_nil, List.drop_succ_cons, List.drop_zero,
        List.take_succ_cons, List.take_zero, List.flatMap_cons, List.flatMap_nil, toBE_beNat_three]
      rfl
  have h0 : (laneWords bs).getD 0 0 / 65536 = 2 := by
    simp only [laneWords, List.cons_append, List.getD_cons_zero]
  obtain ⟨ws, hws, hlen⟩ : ∃ ws, laneWords bs = ws ++ [crc24Words ws] ∧ ws.length = 7 := ⟨_, rfl, rfl⟩
  have h7 : (laneWords bs).getD 7 0 = crc24Words ((laneWords bs).take 7) := by
    rw [hws, ← hlen, List.take_left, List.getD_eq_getElem?_getD, List.getElem?_concat_length, Option.getD_some]
  unfold ctrlBlock
  rw [hf, h7]
  exact if_pos ⟨h0, rfl⟩

/-- A lane frame in a scrambled, stuffed block. -/
theorem feed_heavy_frame {x : Rx} {g : Nat} {bs : List Byte} (hc : x.cnt = 0) (hw : x.win = 0) (hs : x.spoilt = false) (hr : x.run < 40) (hg : x.gen = some g)
    (hb : x.badCount < 16) (hl : bs.length = 16) (ha : isAlign (payWords (bitsNat (scramble g (wordBits (laneWords bs))).1)) = false) :
    (x.feed true true true (stuff x.last x.run (blockBits true (scramble g (wordBits (laneWords bs))).1)).1).2 = [.frame bs] := by
  generalize hp : (scramble g (wordBits (laneWords bs))).1 = p at ha ⊢
  have hlen : p.length = 192 := by rw [← hp, length_scramble, length_wordBits]
  have hd : (scramble g (msbBits 192 (bitsNat p))).1 = wordBits (laneWords bs) := by
    rw [msbBits_bitsNat_of_length hlen, ← hp, scramble_scramble]
  have hpay : ctrlBlock (payWords (bitsNat (scramble g (msbBits 192 (bitsNat p))).1)) = [.frame bs] := by
    rw [hd, payWords_wordBits (length_laneWords bs) (laneWords_lt bs), ctrlBlock_laneWords hl]
  have hlt : bitsNat p < 2 ^ 192 := hlen ▸ bitsNat_lt p
  refine feed_stuff (bad := x.bad) (gen := some g) (w := 2 * 2 ^ 192 + bitsNat p) rfl rfl (fun z hzb hzs hzg hzw => ?_) (blockBits true p) x hr hs rfl hg
    (by simp [blockBits, hlen, hc]) (by simp [blockBits]) (by rw [hw, blockBits, bitsNat_cons, bitsNat_cons]; simp [b2n, hlen])
  have h1 : z.win / 2 ^ 192 = 2 := by rw [hzw]; omega
  have h2 : z.win % 2 ^ 192 = bitsNat p := by rw [hzw]; omega
  rw [h1, h2]
  have hbad : ({ z.judge false with win := 0, cnt := 0, spoilt := false } : Rx).badCount < 16 := by
    refine Nat.lt_of_le_of_lt ?_ hb
    show (((false :: z.bad).take 64).filter id).length ≤ (x.bad.filter id).length
    rw [List.take_succ_cons, List.filter_cons_of_neg (by decide), hzb]
    exact (((List.take_sublist 63 x.bad).filter id).length_le)
  unfold Rx.block
  extract_lets ok src y err ws seed
  have hy : ¬16 ≤ y.badCount := Nat.not_le.2 hbad
  rw [if_neg hy, if_neg (by rw [show isAlign ws = false from ha]; simp), hzg]
  simp only
  rw [if_neg (by rw [hzs]; decide), if_pos trivial, hpay]
  exact ⟨_, rfl, rfl, rfl⟩

end Sys2Proof.Machine
end

section
/-!
PROOFS. Training of a lane (R313, R320 to R327, R336).
-/

namespace Sys2Proof.Machine

variable {r s : Blk} {p : Nat → Prop}

/-! ### What a transmitter leaves of its lane -/

/-- `s` is `r` with something sent: of every lane only the transmitter is new. -/
structure Blk.TxOnly (r s : Blk) : Prop where
  lined : r.Lined s
  lane : ∀ m, ∃ x, s.lane m = { r.lane m with tx := x }

namespace Blk.TxOnly

theorem refl (r : Blk) : r.TxOnly r := ⟨.refl r, fun m => ⟨(r.lane m).tx, rfl⟩⟩

theorem trans {t : Blk} (h : r.TxOnly s) (g : s.TxOnly t) : r.TxOnly t := by
  refine ⟨h.lined.trans g.lined, fun m => ?_⟩
  obtain ⟨x, hx⟩ := h.lane m
  obtain ⟨y, hy⟩ := g.lane m
  exact ⟨y, by rw [hy, hx]⟩

theorem setTx (h : r.TxOnly s) {n : Nat} {x : Tx} : r.TxOnly (s.setTx n x) := by
  refine h.trans ⟨(Blk.Lined.refl s).setTx, fun m => ?_⟩
  by_cases hm : m = n
  · subst hm
    exact ⟨x, s.lane_setLane_same m _⟩
  · exact ⟨(s.lane m).tx, s.lane_setLane_ne _ hm⟩

theorem putLineBits (h : r.TxOnly s) {n : Nat} {ps : Int} {bs : List Bool} : r.TxOnly (s.putLineBits n ps bs) :=
  h.trans ⟨(Blk.Lined.refl s).putLineBits, fun m => ⟨(s.lane m).tx, rfl⟩⟩

theorem ite {c : Prop} [Decidable c] {t : Blk} (hs : r.TxOnly s) (ht : r.TxOnly t) : r.TxOnly (if c then s else t) := by
  split
  · exact hs
  · exact ht

theorem listSlot (h : r.TxOnly s) {n k : Nat} {ctrl : Bool} {ws : List Nat} : r.TxOnly (s.listSlot n k ctrl ws) := h.setTx.putLineBits

theorem putSlot (h : r.TxOnly s) {n k : Nat} {ctrl : Bool} {ws : List Nat} : r.TxOnly (s.putSlot n k ctrl ws) := (h.listSlot.ite h).listSlot

theorem tsDone (h : r.TxOnly s) {n : Nat} : r.TxOnly (s.tsDone n) := by
  unfold Blk.tsDone
  extract_lets
  split
  · exact h
  · exact h.setTx.ite h.setTx

theorem tsSend (h : r.TxOnly s) {n : Nat} : r.TxOnly (s.tsSend n) := by
  unfold Blk.tsSend
  extract_lets want s1 x k since
  have h1 : r.TxOnly s1 := h.tsDone
  split
  · exact h
  · clear_value want
    split
    · exact h1
    · exact ite h1.setTx.putSlot h1.setTx.putLineBits

theorem reg (h : r.TxOnly s) (a : Nat) : s.reg a = r.reg a := h.lined.reg a
theorem f (h : r.TxOnly s) (x : Fld) : s.f x = r.f x := Blk.f_of_reg (h.reg _)
theorem fb (h : r.TxOnly s) (x : Fld) : s.fb x = r.fb x := Blk.fb_of_reg (h.reg _)

end Blk.TxOnly

theorem Blk.txOnly_tsSend (s : Blk) (n : Nat) : s.TxOnly (s.tsSend n) := (Blk.TxOnly.refl s).tsSend

/-! ### Lock and the sweep (R313, R327) -/

/-- A lane in TRAIN gains lock. -/
theorem Blk.lockGained_train {n : Nat} (h1 : s.laneState n = 1) :
    s.lockGained n = (s.setF (LAN_STATUS_LOCK n) 1).setLane n { s.lane n with lockAt := s.now } := by
  unfold Blk.lockGained
  extract_lets a u
  have hu : u.laneState n = 1 := (Blk.f_put _).trans ((s.laneState_setF n 1 (by decide)).trans h1)
  rw [hu]
  rfl

theorem rxStretch_gain {n t : Nat} {line : List Bool} (hn : n < 44) (hh : s.held = []) (h1 : s.laneState n = 1) (ht : (s.lane n).target = none)
    (hs : s.fb (LAN_STATUS_RX_SLEEP n) = false) (hf : s.finds n line = [.gain]) :
    (rxStretch n t line s).fb (LAN_STATUS_LOCK n) = true ∧ (rxStretch n t line s).laneState n = 1 ∧ ((rxStretch n t line s).lane n).lockAt = max s.now t ∧
      s.Frame (rxStretch n t line s) (· = LAN_STATUS n) := by
  obtain ⟨x, hx⟩ := rxStretch_open (t := t) hn hh (Blk.rxOn_awake (by omega) (by omega) (by omega) ht hs) hf
  have hc : ((s.advance t).setLane n { s.lane n with rx := x }).laneState n = 1 := (Blk.f_put _).trans ((s.laneState_advance t hn).trans h1)
  rw [hx, Blk.rxEvent, Blk.lockGained_train hc]
  refine ⟨(Blk.fb_put _).trans (Blk.fb_setF_bit_same _ _ (by decide)), (Blk.f_put _).trans ((Blk.laneState_setF _ _ _ (by decide)).trans hc), ?_, ?_⟩
  · rw [Blk.lane_setLane_same]
    exact s.now_advance t
  · exact (((Blk.Frame.refl s (· = LAN_STATUS n)).advance.put).setF (x := LAN_STATUS_LOCK n) rfl).put

/-- The code of the sweep is the lowest of those with the highest figure of merit. -/
theorem bestCode_spec {foms : List Nat} (h : foms ≠ []) : bestCode foms < foms.length ∧ (∀ j, foms.getD j 0 ≤ foms.getD (bestCode foms) 0) ∧
    ∀ j, j < bestCode foms → foms.getD j 0 < foms.getD (bestCode foms) 0 := by
  have hmax (l : List Nat) : ∀ m, m ≤ l.foldl max m ∧ (∀ v ∈ l, v ≤ l.foldl max m) ∧ (l.foldl max m = m ∨ l.foldl max m ∈ l) := by
    induction l with
    | nil => intro m; exact ⟨le_refl m, fun v hv => absurd hv List.not_mem_nil, .inl rfl⟩
    | cons a l ih =>
      intro m
      obtain ⟨h1, h2, h3⟩ := ih (max m a)
      refine ⟨(le_max_left m a).trans h1, fun v hv => ?_, ?_⟩
      · rcases List.mem_cons.1 hv with rfl | hv
        · exact (le_max_right m v).trans h1
        · exact h2 v hv
      · rcases h3 with h3 | h3
        · rcases max_choice m a with hm | hm
          · exact .inl (h3.trans hm)
          · exact .inr (List.mem_cons.2 (.inl (h3.trans hm)))
        · exact .inr (List.mem_cons_of_mem _ h3)
  obtain ⟨-, hle, hin⟩ := hmax foms 0
  have hmem : foms.foldl max 0 ∈ foms := by
    rcases hin with h0 | hm
    · obtain ⟨a, l, rfl⟩ := List.exists_cons_of_ne_nil h
      have : a = 0 := by have := hle a (List.mem_cons_self ..); omega
      rw [h0, this]
      exact List.mem_cons_self ..
    · exact hm
  have hidx : bestCode foms = foms.findIdx fun f => f == foms.foldl max 0 := by
    have hi : foms.findIdx? (fun f => f == foms.foldl max 0) = some (foms.findIdx fun f => f == foms.foldl max 0) :=
      List.findIdx?_eq_some_of_exists ⟨_, hmem, beq_self_eq_true _⟩
    show (foms.findIdx? fun f => f == foms.foldl max 0).getD 0 = _
    rw [hi]
    rfl
  have hlt : bestCode foms < foms.length := hidx ▸ List.findIdx_lt_length_of_exists ⟨_, hmem, beq_self_eq_true _⟩
  have hget : foms.getD (bestCode foms) 0 = foms.foldl max 0 := by
    rw [List.getD_eq_getElem _ _ hlt]
    simp only [hidx]
    exact beq_iff_eq.1 (List.findIdx_getElem (p := fun f => f == foms.foldl max 0) (w := hidx ▸ hlt))
  have hall (j : Nat) : foms.getD j 0 ≤ foms.foldl max 0 := by
    by_cases hj : j < foms.length
    · rw [List.getD_eq_getElem _ _ hj]
      exact hle _ (List.getElem_mem hj)
    · rw [List.getD_eq_default _ _ (Nat.le_of_not_lt hj)]
      exact Nat.zero_le _
  refine ⟨hlt, fun j => hget ▸ hall j, fun j hj => ?_⟩
  rw [hget]
  refine Nat.lt_of_le_of_ne (hall j) fun he => ?_
  have hjl : j < foms.length := hj.trans hlt
  rw [List.getD_eq_getElem _ _ hjl] at he
  exact absurd (beq_iff_eq.2 he) (Bool.eq_false_iff.1 (List.not_of_lt_findIdx (hidx ▸ hj)))

theorem Blk.scanBegin_eq (s : Blk) (n : Nat) : ∃ x, s.scanBegin n = { s with scan := x } := by
  unfold Blk.scanBegin
  split
  · split
    · exact ⟨_, rfl⟩
    · exact ⟨s.scan, rfl⟩
  · exact ⟨s.scan, rfl⟩

/-- The end of a sweep of 128 µs. -/
theorem equaliserSweepDone_spec {n t : Nat} {ths : List (Int × Int)} (hn : n < 44) (h1 : s.laneState n = 1) (hL : s.fb (LAN_STATUS_LOCK n) = true)
    (hF : s.fb (LAN_EQ_FIXED n) = false) (hcam : isCam n = false) (hlen : ths.length = 32) (ht : (s.lane n).lockAt + 32000 ≤ max s.now t) :
    (equaliserSweepDone n t ths s).f (LAN_EQ_PEAK n) = bestCode (ths.map fomOf) ∧
      (equaliserSweepDone n t ths s).f (LAN_FOM_CURRENT n) = (ths.map fomOf).getD (bestCode (ths.map fomOf)) 0 ∧
      ((equaliserSweepDone n t ths s).lane n).rxOk = decide (s.f LAN_FOM_CFG_FOM_MIN ≤ (ths.map fomOf).getD (bestCode (ths.map fomOf)) 0) ∧
      (equaliserSweepDone n t ths s).laneState n = 1 ∧ s.Frame (equaliserSweepDone n t ths s) fun a => a = LAN_EQ n ∨ a = LAN_FOM n := by
  have hcode : bestCode (ths.map fomOf) < 32 := by
    have h := (bestCode_spec (foms := ths.map fomOf) (fun h => by have := congrArg List.length h; simp [hlen] at this)).1
    rwa [List.length_map, hlen] at h
  have hfom : (ths.map fomOf).getD (bestCode (ths.map fomOf)) 0 < 256 := by
    rw [List.getD_eq_getElem _ _ (by simpa [hlen] using hcode), List.getElem_map]
    exact fomOf_lt _
  unfold equaliserSweepDone
  extract_lets c fixed foms code fom c1 ok x c2
  have hcn : c.now = max s.now t := s.now_advance t
  have hcl : c.lane n = s.lane n := s.lane_advance t n
  have hcr (y : Fld) (hy : y.addr < 0x101003) : c.f y = s.f y ∧ c.fb y = s.fb y :=
    ⟨s.f_advance t (cntWord_low (by omega)), s.fb_advance t (cntWord_low (by omega))⟩
  have hcS (y : Fld) (hy : y.addr = LAN_STATUS n ∨ y.addr = LAN_EQ n) : c.f y = s.f y ∧ c.fb y = s.fb y :=
    hcr y (by rcases hy with h | h <;> rw [h] <;> simp only [LAN_STATUS, LAN_EQ] <;> omega)
  have hfx : fixed = false := ((hcS (LAN_EQ_FIXED n) (.inr rfl)).2).trans hF
  have hFc : s.Frame c (fun a => a = LAN_EQ n ∨ a = LAN_FOM n) := (Blk.Frame.refl s _).advance
  have hc1 : c.laneState n = 1 := ((hcS (LAN_STATUS_STATE n) (.inl rfl)).1).trans h1
  have hcL : c.fb (LAN_STATUS_LOCK n) = true := ((hcS (LAN_STATUS_LOCK n) (.inl rfl)).2).trans hL
  have hmin : c.f LAN_FOM_CFG_FOM_MIN = s.f LAN_FOM_CFG_FOM_MIN := (hcr LAN_FOM_CFG_FOM_MIN (by decide)).1
  clear_value c
  have hco : code = bestCode (ths.map fomOf) := by simp only [code, hfx, Bool.false_eq_true, if_false, foms]
  have hfo : fom = (ths.map fomOf).getD (bestCode (ths.map fomOf)) 0 := by simp only [fom, hco, foms]
  clear_value code fom
  have hPk : c1.f (LAN_EQ_PEAK n) = code := by
    refine (Blk.f_setF_ne _ _ _ _ (show 0 ≤ 7 by decide) (show 8 ≤ 12 by decide) (show 12 < 24 by decide) (.inl ?_)).trans ?_
    · simp only [LAN_EQ, LAN_FOM]; omega
    · rw [Blk.f_setF_same _ _ _ (show 8 ≤ 12 by decide) (show 12 < 24 by decide)]
      exact Nat.mod_eq_of_lt (show code < 2 ^ 5 by omega)
  have hFm : c1.f (LAN_FOM_CURRENT n) = fom := by
    rw [show c1 = (c.setF (LAN_EQ_PEAK n) code).setF (LAN_FOM_CURRENT n) fom from rfl, Blk.f_setF_same _ _ _ (show 0 ≤ 7 by decide) (show 7 < 24 by decide)]
    exact Nat.mod_eq_of_lt (show fom < 2 ^ 8 by omega)
  have hF1 : s.Frame c1 (fun a => a = LAN_EQ n ∨ a = LAN_FOM n) := (hFc.setF (x := LAN_EQ_PEAK n) (.inl rfl)).setF (x := LAN_FOM_CURRENT n) (.inr rfl)
  have hmin1 : c1.f LAN_FOM_CFG_FOM_MIN = s.f LAN_FOM_CFG_FOM_MIN :=
    hF1.1.f (x := LAN_FOM_CFG_FOM_MIN) (by decide) (by simp only [LAN_EQ, LAN_FOM, LAN_FOM_CFG]; omega)
  have h11 : c1.laneState n = 1 := (hF1.1.f (x := LAN_STATUS_STATE n) (lan_low hn (by simp only [LAN_STATUS]; omega))
    (by simp only [LAN_STATUS, LAN_EQ, LAN_FOM]; omega)).trans h1
  clear_value c1
  obtain ⟨y, hyk, hcy⟩ : ∃ y : Lane, y.rxOk = ok ∧ c2 = ((c1.setLane n y).scanBegin n).tsSend n := ⟨_, rfl, rfl⟩
  obtain ⟨z, hz⟩ := (c1.setLane n y).scanBegin_eq n
  have hc2 : c2 = Blk.tsSend { c1.setLane n y with scan := z } n := hcy.trans (congrArg (fun u : Blk => u.tsSend n) hz)
  have hS : Blk.TxOnly { c1.setLane n y with scan := z } c2 := hc2 ▸ Blk.txOnly_tsSend _ n
  clear_value c2
  have hok : (c2.lane n).rxOk = ok := by
    obtain ⟨tx, htx⟩ := hS.lane n
    rw [htx, show Blk.lane { c1.setLane n y with scan := z } n = y from c1.lane_setLane_same n y]
    exact hyk
  have hf (y : Fld) : c2.f y = c1.f y := (hS.f y).trans (Blk.f_put y)
  have hlock : ¬(c.laneState n ≠ 1 ∨ (!c.fb (LAN_STATUS_LOCK n)) = true ∨ c.now < (c.lane n).lockAt + if fixed = true then 1000 else 32000) := by
    rw [hc1, hcL, hcn, hcl, hfx, if_neg Bool.false_ne_true]
    simp only [Bool.not_true, Bool.false_eq_true, ne_eq, not_true_eq_false, false_or]
    omega
  rw [if_neg hlock, if_neg (by rw [hcam]; simp)]
  refine ⟨((hf _).trans hPk).trans hco, ((hf _).trans hFm).trans hfo, ?_, (hf _).trans h11, hF1.trans ((Blk.Frame.refl c1 _).put.lined hS.lined)⟩
  rw [hok, ← hfo, ← hmin1]

end Sys2Proof.Machine
end

section
/-!
PROOFS. Training frames (R321, R323).
-/

namespace Sys2Proof.Machine

variable {r s : Blk} {p : Nat → Prop}

/-! ### A TS1 or TS2 arrives (R321) -/

/-- The words that show what the partner offers. -/
def partnerWord (n a : Nat) : Prop := a = LAN_PARTNER n ∨ a = LAN_PARTNER n + 1

/-- `u` is `s` after the words of a training frame have been shown, before the training takes it. -/
structure Blk.Heard (s u : Blk) (n t : Nat) (bs : List Byte) : Prop where
  lane : ∃ x, u.lane n = { s.lane n with rx := x }
  scan : u.scan = s.scan
  now : u.now = max s.now t
  frame : s.Frame u (partnerWord n)
  events : s.evq <+: u.evq
  shown : u.f (LAN_PARTNER_RATE_MASK n) = (bs.getD 2 0).toNat ∧ u.f (LAN_PARTNER_ROLE n) = (bs.getD 6 0).toNat ∧
    u.f (LAN_PARTNER_LANE n) = (bs.getD 7 0).toNat % 4

namespace Blk.Heard

variable {u : Blk} {n t : Nat} {bs : List Byte}

theorem reg (h : s.Heard u n t bs) (hn : n < 44) {a : Nat} (ha : a = LAN_STATUS n ∨ a = LAN_TRAIN_LOG n ∨ a = LAN_EQ n) : u.reg a = s.reg a := by
  refine h.frame.1 a (lan_low hn ?_) ?_ <;> rcases ha with rfl | rfl | rfl <;>
    simp only [partnerWord, LAN_STATUS, LAN_TRAIN_LOG, LAN_EQ, LAN_PARTNER] <;> omega

theorem f (h : s.Heard u n t bs) (hn : n < 44) {x : Fld} (hx : x.addr = LAN_STATUS n ∨ x.addr = LAN_TRAIN_LOG n ∨ x.addr = LAN_EQ n) : u.f x = s.f x :=
  Blk.f_of_reg (h.reg hn hx)

theorem fb (h : s.Heard u n t bs) (hn : n < 44) {x : Fld} (hx : x.addr = LAN_STATUS n ∨ x.addr = LAN_TRAIN_LOG n ∨ x.addr = LAN_EQ n) : u.fb x = s.fb x :=
  Blk.fb_of_reg (h.reg hn hx)

theorem state (h : s.Heard u n t bs) (hn : n < 44) : u.laneState n = s.laneState n := h.f hn (x := LAN_STATUS_STATE n) (.inl rfl)
theorem rate (h : s.Heard u n t bs) (hn : n < 44) : u.laneRate n = s.laneRate n := h.f hn (x := LAN_STATUS_RATE n) (.inl rfl)
theorem lock (h : s.Heard u n t bs) (hn : n < 44) : u.fb (LAN_STATUS_LOCK n) = s.fb (LAN_STATUS_LOCK n) := h.fb hn (x := LAN_STATUS_LOCK n) (.inl rfl)

end Blk.Heard

theorem rxStretch_ts {n t : Nat} {line : List Bool} {bs : List Byte} (hn : n < 44) (hh : s.held = []) (h1 : s.laneState n = 1) (ht : (s.lane n).target = none)
    (hs : s.fb (LAN_STATUS_RX_SLEEP n) = false) (hf : s.finds n line = [.frame bs]) (hb : (bs.getD 0 0).toNat = 0xF0 ∨ (bs.getD 0 0).toNat = 0xF1) :
    ∃ u, s.Heard u n t bs ∧ rxStretch n t line s =
      u.laneTs n ((bs.getD 0 0).toNat == 0xF1) (bs.getD 1 0).toNat ((bs.getD 4 0).toNat % 8) := by
  obtain ⟨x, hx⟩ := rxStretch_open (t := t) hn hh (Blk.rxOn_awake (by omega) (by omega) (by omega) ht hs) hf
  have h2 := (bs.getD 2 0).isLt
  have h6 := (bs.getD 6 0).isLt
  generalize hv : (bs.getD 2 0).toNat * 65536 + (bs.getD 6 0).toNat * 256 + (bs.getD 7 0).toNat % 4 = v at *
  generalize hv' : ((bs.getD 8 0).toNat * 256 + (bs.getD 9 0).toNat) % 4096 = v'
  generalize hc : (s.advance t).setLane n { s.lane n with rx := x } = c at hx
  have hcF : s.Frame c (partnerWord n) := by
    rw [← hc]
    exact (Blk.Frame.refl s _).advance.put
  have hcl : c.lane n = { s.lane n with rx := x } := by rw [← hc, Blk.lane_setLane_same]
  have hcn : c.now = max s.now t ∧ c.scan = s.scan ∧ s.evq <+: c.evq := by
    rw [← hc]
    exact ⟨s.now_advance t, s.advance_scan t, s.evq_advance_prefix t⟩
  clear hc
  have hf (y : Fld) (ha : y.addr = LAN_PARTNER n) : ((c.wn (LAN_PARTNER n) v).wn (LAN_PARTNER n + 1) v').f y = bits v y.hi y.lo := by
    rw [Blk.f_wn_ne _ _ _ _ (by rw [ha]; omega), Blk.f, ha, Blk.rn_wn_same, Nat.mod_eq_of_lt (by omega)]
  refine ⟨(c.wn (LAN_PARTNER n) v).wn (LAN_PARTNER n + 1) v', ⟨⟨x, ?_⟩, ?_, ?_, (hcF.wn (.inl rfl)).wn (.inr rfl), ?_, ?_, ?_, ?_⟩, ?_⟩
  · rw [Blk.lane, Blk.wn_lanes, Blk.wn_lanes, ← Blk.lane, hcl]
  · rw [Blk.wn_scan, Blk.wn_scan, hcn.2.1]
  · rw [Blk.wn_now, Blk.wn_now, hcn.1]
  · rw [Blk.wn_evq, Blk.wn_evq]
    exact hcn.2.2
  · refine (hf _ rfl).trans ?_
    show v / 2 ^ 16 % 2 ^ 8 = _
    omega
  · refine (hf _ rfl).trans ?_
    show v / 2 ^ 8 % 2 ^ 8 = _
    omega
  · refine (hf _ rfl).trans ?_
    show v / 2 ^ 0 % 2 ^ 2 = _
    omega
  · rw [hx, Blk.rxEvent, Blk.laneFrameIn, ← hv, ← hv']
    rcases hb with hb | hb <;> simp only [hb]

/-- What a lane in TRAIN notes of a training frame. -/
def Lane.heard (x : Lane) (ts2 : Bool) (flags nx : Nat) : Lane :=
  { x with okRun := if bitOf flags 0 then x.okRun + 1 else 0,
           tsRun := if !ts2 then 0 else if x.tsNext = nx then x.tsRun + 1 else 1, tsNext := if ts2 then nx else x.tsNext }

theorem Blk.laneTs_train {n : Nat} {ts2 : Bool} {flags nx : Nat} (h1 : s.laneState n = 1) (hcam : isCam n = false) (ht : (s.lane n).target = none)
    (hL : s.fb (LAN_STATUS_LOCK n) = true) (hfall : (ts2 && (s.lane n).next.isNone && !(s.lane n).falling && decide (nx < s.laneRate n)) = false) :
    s.laneTs n ts2 flags nx = ((s.setLane n ((s.lane n).heard ts2 flags nx)).laneStep2 n).laneStep3 n := by
  unfold Blk.laneTs
  split
  · next h2 => exact absurd (h1.symm.trans h2) (by decide)
  · rw [if_neg (by rw [hcam, ht, hL]; decide)]
    exact if_neg (Bool.eq_false_iff.1 hfall)
  · next h => exact absurd h1 h

/-! ### Steps 2 and 3 (R323) -/

theorem Blk.self_mem_linkLanes (s : Blk) {n : Nat} (h : isWale n = true) : n ∈ s.linkLanes (s.linkOf n) := by
  have hn : 32 ≤ n ∧ n < 40 := by simpa [isWale] using h
  have hc : n = 32 ∨ n = 33 ∨ n = 34 ∨ n = 35 ∨ n = 36 ∨ n = 37 ∨ n = 38 ∨ n = 39 := by omega
  unfold Blk.linkOf Blk.linkLanes
  cases s.fb WAL_CFG_SPLIT <;> rcases hc with rfl | rfl | rfl | rfl | rfl | rfl | rfl | rfl <;> decide

/-- A lane that has not heard the condition often enough stays in step 1. -/
theorem Blk.laneStep2_waits {n : Nat} (h1 : s.laneState n = 1) (hok : (s.lane n).okRun < 8) : s.laneStep2 n = s := by
  unfold Blk.laneStep2
  extract_lets ms r others ok offered nx
  have hmem : n ∈ others := by
    simp only [others]
    split
    · next h => exact s.self_mem_linkLanes h
    · exact List.mem_singleton.2 rfl
  have hr : s.laneReady n = false := by
    unfold Blk.laneReady
    simp only [Bool.and_eq_false_iff, decide_eq_false_iff_not]
    exact .inr (by omega)
  have hk : ok = false := List.all_eq_false.2 ⟨n, hmem, by rw [Blk.laneUp, h1, hr, Bool.false_and]; decide⟩
  exact if_pos (by rw [hk]; rfl)

theorem Blk.laneStep3_waits {n : Nat} (h : (s.lane n).next = none ∨ (s.lane n).tsRun < 8) : s.laneStep3 n = s := by
  unfold Blk.laneStep3
  extract_lets x r log s1
  rcases hx : x.next with _ | nx
  · rfl
  · have ht : (s.lane n).tsRun < 8 := h.resolve_left (by rw [show (s.lane n).next = some nx from hx]; exact Option.some_ne_none nx)
    exact if_pos (.inr (.inr (.inr (.inl ht))))

theorem isWale_of_isHead {n : Nat} (h : isHead n = true) : isWale n = false := by
  simp only [isHead, isWale, decide_eq_true_eq, decide_eq_false_iff_not] at h ⊢
  omega

theorem isCam_of_isHead {n : Nat} (h : isHead n = true) : isCam n = false := by
  simp only [isHead, isCam, decide_eq_true_eq, decide_eq_false_iff_not] at h ⊢
  omega

theorem Blk.trainHeld_head {n : Nat} (h : isHead n = true) (hs : s.scan = none) : s.trainHeld n = false := by
  rw [Blk.trainHeld, isWale_of_isHead h, Blk.scanOn, hs]
  rfl

/-- The rate that step 2 chooses on a head lane: the lowest above the present one that both ends offer, or the present one. -/
def Blk.stepNext (s : Blk) (n : Nat) : Nat :=
  ((List.range 8).find? fun c => decide (s.laneRate n < c) && (bitOf (s.lane n).mask c && bitOf (s.f (LAN_PARTNER_RATE_MASK n)) c)).getD (s.laneRate n)

/-- A lane that is ready goes to step 2. -/
theorem Blk.laneStep2_head {n : Nat} (hh : isHead n = true) (hr : s.laneReady n = true) (hx : (s.lane n).next = none) (hs : s.scan = none) :
    s.laneStep2 n = (s.setLane n { s.lane n with next := some (s.stepNext n), nextAt := s.now }).tsSend n := by
  have hw := isWale_of_isHead hh
  unfold Blk.laneStep2
  extract_lets ms r others ok offered nx
  have hms : ms = [n] := by
    rw [show ms = s.mates n from rfl, Blk.mates, hw]
    rfl
  have hk : ok = true := by
    rw [show ok = others.all fun m => s.laneUp m || (s.laneReady m && s.laneRate m == r) from rfl, show others = [n] by simp only [others, hw]; rfl, List.all_cons,
      List.all_nil, hr, show (s.laneRate n == r) = true from beq_self_eq_true _]
    simp
  have hnx : nx = s.stepNext n := by
    simp only [nx, offered, hms, List.all_cons, List.all_nil, Bool.and_true]
    rfl
  clear_value nx ok ms
  rw [hk, hx, Blk.trainHeld_head hh hs, if_neg (by decide), hms, hnx]
  rfl

theorem Blk.stepNext_spec (s : Blk) (n : Nat) :
    ((s.laneRate n < s.stepNext n ∧ bitOf (s.lane n).mask (s.stepNext n) = true ∧ bitOf (s.f (LAN_PARTNER_RATE_MASK n)) (s.stepNext n) = true) ∨
      s.stepNext n = s.laneRate n) ∧
    ∀ d, s.laneRate n < d → d < 8 → (d < s.stepNext n ∨ s.stepNext n = s.laneRate n) →
      bitOf (s.lane n).mask d = false ∨ bitOf (s.f (LAN_PARTNER_RATE_MASK n)) d = false := by
  unfold Blk.stepNext
  generalize bitOf (s.lane n).mask = m
  generalize bitOf (s.f (LAN_PARTNER_RATE_MASK n)) = q
  generalize s.laneRate n = k
  have hno (d : Nat) (hd : (decide (k < d) && (m d && q d)) = false) (hk : k < d) : m d = false ∨ q d = false := by
    rw [decide_eq_true hk, Bool.true_and, Bool.and_eq_false_iff] at hd
    exact hd
  cases hc : (List.range 8).find? fun c => decide (k < c) && (m c && q c) with
  | none =>
    exact ⟨.inr rfl, fun d hk hd _ => hno d (Bool.eq_false_iff.2 (List.find?_eq_none.1 hc d (List.mem_range.2 hd))) hk⟩
  | some c =>
    obtain ⟨hp, as, bs, hl, hbefore⟩ := List.find?_eq_some_iff_append.1 hc
    simp only [Bool.and_eq_true, decide_eq_true_eq] at hp
    refine ⟨.inl hp, fun d hk hd hlt => hno d ?_ hk⟩
    have hdc : d < c := hlt.resolve_right (Nat.ne_of_gt hp.1)
    have hsort : (as ++ c :: bs).Pairwise (· < ·) := hl ▸ List.pairwise_lt_range
    have hmem : d ∈ as := by
      rcases List.mem_append.1 (hl ▸ List.mem_range.2 hd) with h | h
      · exact h
      · rcases List.mem_cons.1 h with rfl | h
        · exact absurd hdc (lt_irrefl d)
        · exact absurd ((List.pairwise_cons.1 (List.pairwise_append.1 hsort).2.1).1 d h) (Nat.not_lt.2 hdc.le)
    simpa only [Bool.not_eq_true'] using hbefore d hmem

/-- What a lane shows of a rate that has passed. -/
def Blk.ratePassed (s : Blk) (n : Nat) : Blk :=
  s.setF (LAN_TRAIN_LOG_PASSED n) (if bitOf (s.f (LAN_TRAIN_LOG_PASSED n)) (s.laneRate n) then s.f (LAN_TRAIN_LOG_PASSED n)
    else s.f (LAN_TRAIN_LOG_PASSED n) + 2 ^ s.laneRate n)

/-- Step 3 is complete. -/
theorem Blk.laneStep3_ends {n nx : Nat} (hx : (s.lane n).next = some nx) (h1 : s.laneState n = 1) (ht : (s.lane n).target = none) (hh : isHead n = true)
    (hs : s.scan = none) (h8 : 8 ≤ (s.lane n).tsRun) (hn : (s.lane n).tsNext = nx) (hf : 8 * laneFramePs (s.laneRate n) ≤ 4000 * (s.now - (s.lane n).nextAt)) :
    s.laneStep3 n = if nx = s.laneRate n then (s.ratePassed n).laneSettle n
      else (((s.ratePassed n).setLane n { s.lane n with good := s.laneRate n, target := some nx, stAt := (s.ratePassed n).now, rx := Rx.init }).setF
        (LAN_STATUS_LOCK n) 0).tsSend n := by
  unfold Blk.laneStep3
  extract_lets x r log u
  rw [show x.next = some nx from hx]
  dsimp only
  refine if_neg ?_
  rw [h1, show x.target = none from ht, Blk.trainHeld_head hh hs, show x.tsNext = nx from hn]
  simp only [ne_eq, not_true_eq_false, Option.isSome_none, Bool.false_eq_true, false_or]
  exact fun h => h.elim (fun g => absurd h8 (Nat.not_le.2 g)) fun g => absurd hf (Nat.not_le.2 g)

/-! ### Frames in step 1, the eighth with RX_OK, and the eighth TS2 -/

section
variable {n t : Nat} {line : List Bool} {bs : List Byte} (hn : n < 44) (hh : s.held = []) (h1 : s.laneState n = 1) (ht : (s.lane n).target = none)
  (hs : s.fb (LAN_STATUS_RX_SLEEP n) = false) (hL : s.fb (LAN_STATUS_LOCK n) = true) (hf : s.finds n line = [.frame bs])
include hn hh h1 ht hs hL hf

/-- A frame without RX_OK: what the partner offers is shown. -/
theorem rxStretch_ts_shown (hcam : isCam n = false) (hx : (s.lane n).next = none) (hok : bitOf (bs.getD 1 0).toNat 0 = false)
    (hb : (bs.getD 0 0).toNat = 0xF0 ∨ ((bs.getD 0 0).toNat = 0xF1 ∧ s.laneRate n ≤ (bs.getD 4 0).toNat % 8)) :
    (rxStretch n t line s).f (LAN_PARTNER_RATE_MASK n) = (bs.getD 2 0).toNat ∧ (rxStretch n t line s).f (LAN_PARTNER_ROLE n) = (bs.getD 6 0).toNat ∧
      (rxStretch n t line s).f (LAN_PARTNER_LANE n) = (bs.getD 7 0).toNat % 4 ∧ ((rxStretch n t line s).lane n).okRun = 0 ∧
      s.Frame (rxStretch n t line s) (partnerWord n) := by
  obtain ⟨u, hu, he⟩ := rxStretch_ts hn hh h1 ht hs hf (hb.imp_right And.left)
  obtain ⟨x, hl⟩ := hu.lane
  have hfall : (((bs.getD 0 0).toNat == 0xF1) && (u.lane n).next.isNone && !(u.lane n).falling && decide ((bs.getD 4 0).toNat % 8 < u.laneRate n)) = false := by
    rw [hu.rate hn]
    rcases hb with hb | ⟨-, hb⟩
    · rw [hb]; rfl
    · rw [decide_eq_false (Nat.not_lt.2 hb), Bool.and_false]
  rw [he, Blk.laneTs_train ((hu.state hn).trans h1) hcam (by rw [hl]; exact ht) ((hu.lock hn).trans hL) hfall]
  generalize hy : (u.lane n).heard ((bs.getD 0 0).toNat == 0xF1) (bs.getD 1 0).toNat ((bs.getD 4 0).toNat % 8) = y
  have hy0 : y.okRun = 0 := by rw [← hy, Lane.heard, hok]; rfl
  have hyn : y.next = none := by rw [← hy, hl]; exact hx
  have hlane : (u.setLane n y).lane n = y := u.lane_setLane_same n y
  have hst : (u.setLane n y).laneState n = 1 := (Blk.f_put _).trans ((hu.state hn).trans h1)
  rw [Blk.laneStep2_waits hst (by rw [hlane, hy0]; decide), Blk.laneStep3_waits (.inl (by rw [hlane, hyn]))]
  obtain ⟨hs1, hs2, hs3⟩ := hu.shown
  exact ⟨(Blk.f_put _).trans hs1, (Blk.f_put _).trans hs2, (Blk.f_put _).trans hs3, by rw [hlane, hy0], hu.frame.put⟩

/-- The eighth frame with RX_OK on a head lane that is ready but for that: step 2. -/
theorem rxStretch_ts_next (hhd : isHead n = true) (hx : (s.lane n).next = none) (hfl : (s.lane n).falling = false) (hrx : (s.lane n).rxOk = true)
    (h7 : 7 ≤ (s.lane n).okRun) (hsc : s.scan = none) (hb : (bs.getD 0 0).toNat = 0xF0) (hok : bitOf (bs.getD 1 0).toNat 0 = true) :
    (∃ c, ((rxStretch n t line s).lane n).next = some c ∧
      ((s.laneRate n < c ∧ bitOf (s.lane n).mask c = true ∧ bitOf (bs.getD 2 0).toNat c = true) ∨ c = s.laneRate n) ∧
      ∀ d, s.laneRate n < d → d < 8 → (d < c ∨ c = s.laneRate n) → bitOf (s.lane n).mask d = false ∨ bitOf (bs.getD 2 0).toNat d = false) ∧
      (rxStretch n t line s).laneState n = 1 ∧ s.Frame (rxStretch n t line s) (partnerWord n) := by
  obtain ⟨u, hu, he⟩ := rxStretch_ts (t := t) hn hh h1 ht hs hf (.inl hb)
  obtain ⟨x, hl⟩ := hu.lane
  rw [he, hb, Blk.laneTs_train ((hu.state hn).trans h1) (isCam_of_isHead hhd) (by rw [hl]; exact ht) ((hu.lock hn).trans hL) (by rfl)]
  generalize hy : (u.lane n).heard (0xF0 == 0xF1) (bs.getD 1 0).toNat ((bs.getD 4 0).toNat % 8) = y
  have hy0 : 8 ≤ y.okRun := by
    rw [← hy, Lane.heard, hok, hl]
    exact Nat.succ_le_succ h7
  have hyt : y.tsRun = 0 := by rw [← hy]; rfl
  have hyn : y.next = none ∧ y.mask = (s.lane n).mask ∧ y.target = none ∧ y.falling = false ∧ y.rxOk = true := by
    rw [← hy, hl]
    exact ⟨hx, rfl, ht, hfl, hrx⟩
  obtain ⟨hyn, hym, hyg, hyf, hyr⟩ := hyn
  generalize hv : u.setLane n y = v
  have hlane : v.lane n = y := by rw [← hv, Blk.lane_setLane_same]
  have hvf (z : Fld) : v.f z = u.f z := by rw [← hv]; exact Blk.f_put z
  have hvb (z : Fld) : v.fb z = u.fb z := by rw [← hv]; exact Blk.fb_put z
  have hvs : v.scan = none := by rw [← hv]; exact hu.scan.trans hsc
  have hvF : s.Frame v (partnerWord n) := by rw [← hv]; exact hu.frame.put
  clear hv
  have hv1 : v.laneState n = 1 := (hvf _).trans ((hu.state hn).trans h1)
  have hvr : v.laneRate n = s.laneRate n := (hvf _).trans (hu.rate hn)
  have hready : v.laneReady n = true := by
    unfold Blk.laneReady
    simp only [hlane, hv1, (hvb (LAN_STATUS_LOCK n)).trans ((hu.lock hn).trans hL), hyg, hyf, hyr, decide_eq_true hy0]
    rfl
  rw [Blk.laneStep2_head hhd hready (by rw [hlane, hyn]) hvs, hlane]
  obtain ⟨hc1, hc2⟩ := v.stepNext_spec n
  rw [hlane, hym, hvr, (hvf _).trans hu.shown.1] at hc1 hc2
  generalize v.stepNext n = c at hc1 hc2
  generalize hz : ({ y with next := some c, nextAt := v.now } : Lane) = z
  have hzn : z.next = some c ∧ z.tsRun = 0 := by rw [← hz]; exact ⟨rfl, hyt⟩
  have hS := (v.setLane n z).txOnly_tsSend n
  obtain ⟨tx, htx⟩ := hS.lane n
  rw [Blk.lane_setLane_same] at htx
  generalize (v.setLane n z).tsSend n = w at hS htx
  rw [Blk.laneStep3_waits (.inr (by rw [htx]; exact hzn.2.trans_lt (by decide)))]
  exact ⟨⟨c, by rw [htx]; exact hzn.1, hc1, hc2⟩, (hS.f _).trans ((Blk.f_put _).trans hv1), hvF.trans ((Blk.Frame.refl v _).put.lined hS.lined)⟩

end

/-- A head port whose lane is up: nothing shows of it but in its own status. -/
theorem Blk.portLaneUp_spec (s : Blk) (h : Nat) : s.Frame (s.portLaneUp h) (· = HLK_PORT_STATUS h) ∧ (s.portLaneUp h).evq = s.evq := by
  have hF : s.Frame (s.setF (HLK_PORT_STATUS_STATE h) 2) (· = HLK_PORT_STATUS h) := (Blk.Frame.refl s _).setF (x := HLK_PORT_STATUS_STATE h) rfl
  have he : (s.setF (HLK_PORT_STATUS_STATE h) 2).evq = s.evq := Blk.setF_evq _ _ _
  unfold Blk.portLaneUp
  split
  · extract_lets u
    have hu : s.Frame u (· = HLK_PORT_STATUS h) := hF
    have hue : u.evq = s.evq := he
    clear_value u
    split
    · have hv : s.Frame (u.sendIdent h) (· = HLK_PORT_STATUS h) := hu.put.trans (Blk.frame_sendFrame _ _ _ _ _ _)
      exact ⟨hv, (Blk.evq_sendFrame _ _ _ _ _ _).trans hue⟩
    · exact ⟨hu.put, hue⟩
  · exact ⟨.refl s _, rfl⟩

theorem Blk.laneState_scanLeft (s : Blk) {n : Nat} (m : Nat) (hn : n < 44) : (s.scanLeft m).laneState n = s.laneState n :=
  Blk.f_of_reg (s.reg_scanLeft m (by simp only [LAN_STATUS, LAN_EYE_STATUS]; omega) (lan_low hn (by simp only [LAN_STATUS]; omega)))

theorem Blk.laneRate_scanLeft (s : Blk) {n : Nat} (m : Nat) (hn : n < 44) : (s.scanLeft m).laneRate n = s.laneRate n :=
  Blk.f_of_reg (s.reg_scanLeft m (by simp only [LAN_STATUS, LAN_EYE_STATUS]; omega) (lan_low hn (by simp only [LAN_STATUS]; omega)))

/-- A head lane settles at the rate in use. -/
theorem Blk.laneSettle_head {n : Nat} (hh : isHead n = true) : (s.laneSettle n).laneState n = 2 ∧ s.Raised (s.laneSettle n) 0x901 n n (s.laneRate n) ∧
    s.Calm (s.laneSettle n) := by
  have hn : n < 32 := by simpa [isHead] using hh
  unfold Blk.laneSettle
  rw [if_neg (by rw [Blk.laneMin, isWale_of_isHead hh]; exact Nat.not_lt_zero _)]
  unfold Blk.laneGoUp
  extract_lets u x v w
  have hu0 : (s.setF (LAN_STATUS_STATE n) 2).laneState n = 2 := Blk.f_setF_same _ _ _ (show 0 ≤ 2 by decide) (show 2 < 24 by decide)
  have hur0 : (s.setF (LAN_STATUS_STATE n) 2).laneRate n = s.laneRate n :=
    Blk.f_setF_ne _ _ _ _ (show 0 ≤ 2 by decide) (show 21 ≤ 23 by decide) (show 23 < 24 by decide) (.inr (.inr (show 2 < 21 by decide)))
  have hS : ((s.setF (LAN_STATUS_STATE n) 2).scanLeft n).TxOnly u := Blk.txOnly_tsSend _ n
  have hu : u.laneState n = 2 := (hS.f _).trans ((Blk.laneState_scanLeft _ n (by omega)).trans hu0)
  have hur : u.laneRate n = s.laneRate n := (hS.f _).trans ((Blk.laneRate_scanLeft _ n (by omega)).trans hur0)
  have huF : s.Frame u (fun _ => True) := (((Blk.Frame.refl s _).setF trivial).scanLeft trivial).lined hS.lined
  have hue : u.evq = s.evq := hS.lined.evq.trans ((Blk.evq_scanLeft _ _).trans (Blk.setF_evq _ _ _))
  clear_value u
  have hv : v.laneState n = 2 ∧ v.laneRate n = s.laneRate n := ⟨(Blk.f_put _).trans hu, (Blk.f_put _).trans hur⟩
  have hvF : s.Frame v (fun _ => True) := huF.put
  have hve : v.evq = s.evq := hue
  clear_value v
  have hr24 : s.laneRate n < 2 ^ 24 := bits_lt_two_pow_24 _ (show 23 < 24 by decide)
  have hw : w.laneState n = 2 ∧ s.Raised w 0x901 n n (s.laneRate n) ∧ s.Frame w (fun _ => True) := by
    refine ⟨(Blk.f_put _).trans hv.1, ?_, hvF.raise⟩
    have := Blk.Raised.raise hve 0x901 (i := n) (d0 := n) (d1 := v.laneRate n + 8 * b2n false) (by omega) (by omega) (by rw [hv.2]; exact hr24)
    rw [hv.2] at this
    exact (show w = v.raise 0x901 n n (s.laneRate n + 8 * b2n false) by rw [← hv.2]) ▸ this
  clear_value w
  obtain ⟨hw1, hw2, hw3⟩ := hw
  rw [hh, if_pos rfl]
  obtain ⟨hF, he⟩ := w.portLaneUp_spec n
  refine ⟨(hF.1.f (x := LAN_STATUS_STATE n) (lan_low (n := n) (by omega) (by simp only [LAN_STATUS]; omega)) ?_).trans hw1, hw2.of_right (by rw [he]), ?_⟩
  · simp only [LAN_STATUS, HLK_PORT_STATUS]
    omega
  · exact (hw3.trans (hF.mono fun _ _ => trivial)).2

theorem Blk.laneStep2_of_next {n nx : Nat} (h : (s.lane n).next = some nx) : s.laneStep2 n = s := by
  unfold Blk.laneStep2
  extract_lets ms r others ok offered nx
  exact if_pos (by rw [h, Option.isSome_some, Bool.or_true, Bool.true_or])

theorem Blk.ratePassed_spec (s : Blk) {n : Nat} : bitOf ((s.ratePassed n).f (LAN_TRAIN_LOG_PASSED n)) (s.laneRate n) = true ∧
    s.OnlyRegs (s.ratePassed n) (· = LAN_TRAIN_LOG n) := by
  have hr : s.laneRate n < 8 := bits_lt _ _ _
  refine ⟨?_, (Blk.OnlyRegs.refl s _).setF (x := LAN_TRAIN_LOG_PASSED n) rfl⟩
  unfold Blk.ratePassed
  rw [Blk.f_setF_same _ _ _ (show 8 ≤ 15 by decide) (show 15 < 24 by decide)]
  generalize s.f (LAN_TRAIN_LOG_PASSED n) = m
  show bitOf ((if bitOf m (s.laneRate n) = true then m else m + 2 ^ s.laneRate n) % 2 ^ 8) (s.laneRate n) = true
  rw [bitOf_eq_testBit (_ % _), Nat.testBit_mod_two_pow, decide_eq_true hr, Bool.true_and]
  split
  · next hm => rw [← bitOf_eq_testBit, hm]
  · next hm =>
    rw [bitOf_eq_testBit, Bool.not_eq_true] at hm
    rw [Nat.add_comm, Nat.testBit_two_pow_add_eq, hm]
    rfl

section
variable {n t nx : Nat} {line : List Bool} {bs : List Byte} (hn : n < 44) (hh : s.held = []) (h1 : s.laneState n = 1) (ht : (s.lane n).target = none)
  (hs : s.fb (LAN_STATUS_RX_SLEEP n) = false) (hL : s.fb (LAN_STATUS_LOCK n) = true) (hf : s.finds n line = [.frame bs]) (hhd : isHead n = true)
  (hx : (s.lane n).next = some nx) (h7 : (s.lane n).tsRun = 7) (htn : (s.lane n).tsNext = nx) (hsc : s.scan = none) (hb : (bs.getD 0 0).toNat = 0xF1)
  (hb4 : (bs.getD 4 0).toNat % 8 = nx) (hp : 8 * laneFramePs (s.laneRate n) ≤ 4000 * (max s.now t - (s.lane n).nextAt))
include hn hh h1 ht hs hL hf hhd hx h7 htn hsc hb hb4 hp

/-- The eighth TS2 with NEXT completes step 3. -/
theorem rxStretch_ts2 : ∃ (v : Blk) (y : Lane), s.Frame v (partnerWord n) ∧ s.evq <+: v.evq ∧ v.laneRate n = s.laneRate n ∧ v.laneState n = 1 ∧
    rxStretch n t line s = if nx = s.laneRate n then (v.ratePassed n).laneSettle n
      else (((v.ratePassed n).setLane n { y with good := s.laneRate n, target := some nx, stAt := (v.ratePassed n).now, rx := Rx.init }).setF
        (LAN_STATUS_LOCK n) 0).tsSend n := by
  obtain ⟨u, hu, he⟩ := rxStretch_ts (t := t) hn hh h1 ht hs hf (.inr hb)
  obtain ⟨x, hl⟩ := hu.lane
  have hfall : (((bs.getD 0 0).toNat == 0xF1) && (u.lane n).next.isNone && !(u.lane n).falling && decide ((bs.getD 4 0).toNat % 8 < u.laneRate n)) = false := by
    rw [hl, show ({ s.lane n with rx := x } : Lane).next = some nx from hx, Option.isNone_some, Bool.and_false, Bool.false_and, Bool.false_and]
  rw [he, Blk.laneTs_train ((hu.state hn).trans h1) (isCam_of_isHead hhd) (by rw [hl]; exact ht) ((hu.lock hn).trans hL) hfall, hb, hb4]
  generalize hy : (u.lane n).heard (0xF1 == 0xF1) (bs.getD 1 0).toNat nx = y
  have hyn : y.next = some nx ∧ y.target = none ∧ y.tsNext = nx ∧ y.nextAt = (s.lane n).nextAt := by
    rw [← hy, hl]
    exact ⟨hx, ht, rfl, rfl⟩
  have hyt : 8 ≤ y.tsRun := by
    rw [← hy, hl]
    show 8 ≤ if (s.lane n).tsNext = nx then (s.lane n).tsRun + 1 else 1
    rw [if_pos htn, h7]
  obtain ⟨hyn, hyg, hyx, hya⟩ := hyn
  generalize hv : u.setLane n y = v
  have hlane : v.lane n = y := by rw [← hv, Blk.lane_setLane_same]
  have hvf (z : Fld) : v.f z = u.f z := by rw [← hv]; exact Blk.f_put z
  have hvs : v.scan = none := by rw [← hv]; exact hu.scan.trans hsc
  have hvF : s.Frame v (partnerWord n) := by rw [← hv]; exact hu.frame.put
  have hvn : v.now = max s.now t := by rw [← hv]; exact hu.now
  have hve : s.evq <+: v.evq := by rw [← hv]; exact hu.events
  clear hv
  have hv1 : v.laneState n = 1 := (hvf _).trans ((hu.state hn).trans h1)
  have hvr : v.laneRate n = s.laneRate n := (hvf _).trans (hu.rate hn)
  refine ⟨v, y, hvF, hve, hvr, hv1, ?_⟩
  rw [Blk.laneStep2_of_next (by rw [hlane, hyn]), Blk.laneStep3_ends (by rw [hlane, hyn]) hv1 (by rw [hlane, hyg]) hhd hvs (by rw [hlane]; exact hyt)
    (by rw [hlane, hyx]) (by rw [hvr, hlane, hya, hvn]; exact hp), hvr, hlane]

theorem rxStretch_ts2_settles (he : nx = s.laneRate n) : (rxStretch n t line s).laneState n = 2 ∧ s.Raised (rxStretch n t line s) 0x901 n n (s.laneRate n) ∧
    s.Calm (rxStretch n t line s) := by
  obtain ⟨v, y, hF, hq, hr, -, hx⟩ := rxStretch_ts2 hn hh h1 ht hs hL hf hhd hx h7 htn hsc hb hb4 hp
  rw [if_pos he] at hx
  have hO := (v.ratePassed_spec (n := n)).2
  have hrate : (v.ratePassed n).laneRate n = s.laneRate n :=
    (hO.regsBut.f (x := LAN_STATUS_RATE n) (lan_low hn (by simp only [LAN_STATUS]; omega)) (by simp only [LAN_STATUS, LAN_TRAIN_LOG]; omega)).trans hr
  obtain ⟨h2, hR, hC⟩ := (v.ratePassed n).laneSettle_head hhd
  rw [hx]
  refine ⟨h2, hrate ▸ hR.of_left ?_, hF.2.trans (hO.calm.trans hC)⟩
  rw [Blk.ratePassed, Blk.setF_evq]
  exact hq

theorem rxStretch_ts2_changes (he : nx ≠ s.laneRate n) : ((rxStretch n t line s).lane n).target = some nx ∧ ((rxStretch n t line s).lane n).good = s.laneRate n ∧
    (rxStretch n t line s).fb (LAN_STATUS_LOCK n) = false ∧ bitOf ((rxStretch n t line s).f (LAN_TRAIN_LOG_PASSED n)) (s.laneRate n) = true ∧
    s.Frame (rxStretch n t line s) fun a => a = LAN_PARTNER n ∨ a = LAN_PARTNER n + 1 ∨ a = LAN_TRAIN_LOG n ∨ a = LAN_STATUS n := by
  obtain ⟨v, y, hF, -, hr, -, hx⟩ := rxStretch_ts2 hn hh h1 ht hs hL hf hhd hx h7 htn hsc hb hb4 hp
  rw [if_neg he] at hx
  obtain ⟨hP, hO⟩ := v.ratePassed_spec (n := n)
  rw [hr] at hP
  generalize v.ratePassed n = w at hP hO hx
  generalize hz : ({ y with good := s.laneRate n, target := some nx, stAt := w.now, rx := Rx.init } : Lane) = z at hx
  have hzt : z.target = some nx ∧ z.good = s.laneRate n := by rw [← hz]; exact ⟨rfl, rfl⟩
  generalize hb : (w.setLane n z).setF (LAN_STATUS_LOCK n) 0 = b at hx
  have hbl : b.lane n = z := by rw [← hb, Blk.lane, Blk.setF_lanes, ← Blk.lane, Blk.lane_setLane_same]
  have hbL : b.fb (LAN_STATUS_LOCK n) = false := by rw [← hb]; exact Blk.fb_setF_bit_same _ _ (by decide)
  have hbP : b.f (LAN_TRAIN_LOG_PASSED n) = w.f (LAN_TRAIN_LOG_PASSED n) := by
    rw [← hb]
    exact (Blk.f_setF_ne _ _ _ _ (le_refl 12) (show 8 ≤ 15 by decide) (show 15 < 24 by decide)
      (.inl (by simp only [LAN_STATUS, LAN_TRAIN_LOG]; omega))).trans (Blk.f_put _)
  have hbF : w.Frame b fun a => a = LAN_PARTNER n ∨ a = LAN_PARTNER n + 1 ∨ a = LAN_TRAIN_LOG n ∨ a = LAN_STATUS n := by
    rw [← hb]
    exact (Blk.Frame.refl w _).put.setF (x := LAN_STATUS_LOCK n) (.inr (.inr (.inr rfl)))
  clear hb
  have hS := b.txOnly_tsSend n
  obtain ⟨tx, htx⟩ := hS.lane n
  rw [hx, htx, hbl]
  refine ⟨hzt.1, hzt.2, (hS.fb _).trans hbL, ?_, ?_⟩
  · rw [hS.f, hbP]
    exact hP
  · have h0 : s.Frame w fun a => a = LAN_PARTNER n ∨ a = LAN_PARTNER n + 1 ∨ a = LAN_TRAIN_LOG n ∨ a = LAN_STATUS n :=
      (hF.mono fun a ha => ha.elim .inl fun g => .inr (.inl g)).trans ⟨hO.regsBut.mono fun a ha => .inr (.inr (.inl ha)), hO.calm⟩
    exact (h0.trans hbF).lined hS.lined

end

end Sys2Proof.Machine
end

section
/-!
PROOFS. Rates and retries of a lane that trains (R319, R322, R323, R327).
-/

namespace Sys2Proof.Machine

variable {r s : Blk} {p : Nat → Prop}

/-! ### Step 1 at a rate (R323) -/

/-- The words that step 1 of a lane writes. -/
def stepWord (s : Blk) (n a : Nat) : Prop := a = LAN_STATUS n ∨ a = LAN_TRAIN_LOG n ∨ (s.fb (LAN_EQ_FIXED n) = true ∧ a = LAN_EQ n)

/-- `u` is `s` with lane `n` in step 1 at rate `k`. -/
structure Blk.Stepped (s u : Blk) (n k : Nat) : Prop where
  rate : u.laneRate n = k
  heavy : u.fb (LAN_STATUS_HEAVY n) = decide (5 ≤ k)
  lock : u.fb (LAN_STATUS_LOCK n) = false
  state : u.laneState n = s.laneState n
  tried : bitOf (u.f (LAN_TRAIN_LOG_TRIED n)) k = true
  target : (u.lane n).target = none
  peak : s.fb (LAN_EQ_FIXED n) = true → u.f (LAN_EQ_PEAK n) = s.f (LAN_EQ_FIXED_CODE n)
  frame : s.Frame u (stepWord s n)

namespace Blk.Stepped

variable {u v : Blk} {n k : Nat}

theorem put (h : s.Stepped u n k) (hr : ∀ a, v.reg a = u.reg a) (ht : (v.lane n).target = none) (hF : u.Frame v (stepWord s n)) : s.Stepped v n k :=
  ⟨(Blk.f_of_reg (hr _)).trans h.rate, (Blk.fb_of_reg (hr _)).trans h.heavy, (Blk.fb_of_reg (hr _)).trans h.lock, (Blk.f_of_reg (hr _)).trans h.state,
    by rw [Blk.f_of_reg (hr _)]; exact h.tried, ht, fun g => (Blk.f_of_reg (hr _)).trans (h.peak g), h.frame.trans hF⟩

theorem setLane (h : s.Stepped u n k) {x : Lane} (hx : x.target = none) : s.Stepped (u.setLane n x) n k :=
  h.put (fun a => Blk.reg_put a) (by rw [Blk.lane_setLane_same, hx]) (Blk.Frame.refl u _).put

theorem tsSend (h : s.Stepped u n k) : s.Stepped (u.tsSend n) n k := by
  have hS := u.txOnly_tsSend n
  obtain ⟨tx, htx⟩ := hS.lane n
  exact h.put hS.reg (by rw [htx]; exact h.target) ((Blk.Frame.refl u _).lined hS.lined)

end Blk.Stepped

theorem bitOf_tried {m k : Nat} (hk : k < 8) : bitOf (bits ((if bitOf m k then m else m + 2 ^ k) % 2 ^ 24) 7 0) k = true := by
  rw [bitOf_eq_testBit (bits _ _ _), testBit_bits, Nat.zero_add, Nat.testBit_mod_two_pow, decide_eq_true (show k < 7 - 0 + 1 by omega),
    decide_eq_true (by omega : k < 24), Bool.true_and, Bool.true_and]
  split
  · next h => rwa [← bitOf_eq_testBit]
  · next h =>
    rw [bitOf_eq_testBit, Bool.not_eq_true] at h
    rw [Nat.add_comm, Nat.testBit_two_pow_add_eq, h]
    rfl

theorem Blk.laneStep_spec {n k : Nat} (hk : k < 8) (hh : s.held = []) : s.Stepped (s.laneStep n k) n k := by
  unfold Blk.laneStep
  extract_lets t1 t2 log tried t3 start x tx
  have hS : s.OnlyRegs ((s.showRate n k).setF (LAN_STATUS_LOCK n) 0) (· = LAN_STATUS n) :=
    (((Blk.OnlyRegs.refl s (· = LAN_STATUS n)).setF (x := LAN_STATUS_RATE n) rfl).setF (x := LAN_STATUS_HEAVY n) rfl).setF (x := LAN_STATUS_LOCK n) rfl
  have he : t1 = (s.showRate n k).setF (LAN_STATUS_LOCK n) 0 := Blk.eqTake_of_held_nil (by rw [Blk.setF_held, Blk.showRate, Blk.setF_held, Blk.setF_held, hh]) n
  have hrate : t1.laneRate n = k := by
    rw [he]
    refine (Blk.f_setF_ne _ _ _ _ (le_refl 12) (show 21 ≤ 23 by decide) (show 23 < 24 by decide) (.inr (.inr (show 12 < 21 by decide)))).trans ?_
    refine (Blk.f_setF_ne _ _ _ _ (le_refl 20) (show 21 ≤ 23 by decide) (show 23 < 24 by decide) (.inr (.inr (show 20 < 21 by decide)))).trans ?_
    exact (Blk.f_setF_same _ _ _ (show 21 ≤ 23 by decide) (show 23 < 24 by decide)).trans (Nat.mod_eq_of_lt hk)
  have hheavy : t1.fb (LAN_STATUS_HEAVY n) = decide (5 ≤ k) := by
    rw [he]
    exact (Blk.fb_setF_bit _ _ _ (by decide)).trans (Blk.fb_setF_bit_same _ _ ⟨by decide, rfl⟩)
  have hlock : t1.fb (LAN_STATUS_LOCK n) = false := by
    rw [he]
    exact Blk.fb_setF_bit_same _ _ (by decide)
  have hstate : t1.laneState n = s.laneState n := by
    rw [he]
    refine (Blk.laneState_setF _ _ _ (by decide)).trans ((Blk.laneState_setF _ _ _ (by decide)).trans ?_)
    exact Blk.f_setF_ne _ _ _ _ (show 21 ≤ 23 by decide) (show 0 ≤ 2 by decide) (show 2 < 24 by decide) (.inr (.inl (show 2 < 21 by decide)))
  have hO1 : s.OnlyRegs t1 (· = LAN_STATUS n) := he ▸ hS
  have hEQ (x : Fld) (hx : x.addr = LAN_EQ n) : t1.reg x.addr = s.reg x.addr := by
    refine hO1.2 _ ?_
    rw [hx]
    simp only [LAN_EQ, LAN_STATUS]
    omega
  clear_value t1
  clear he hS
  have hfix : t1.fb (LAN_EQ_FIXED n) = s.fb (LAN_EQ_FIXED n) := Blk.fb_of_reg (hEQ (LAN_EQ_FIXED n) rfl)
  have hO2 : t1.OnlyRegs t2 (fun a => s.fb (LAN_EQ_FIXED n) = true ∧ a = LAN_EQ n) ∧
      (s.fb (LAN_EQ_FIXED n) = true → t2.f (LAN_EQ_PEAK n) = s.f (LAN_EQ_FIXED_CODE n)) := by
    by_cases hf : s.fb (LAN_EQ_FIXED n) = true
    · rw [show t2 = t1.setF (LAN_EQ_PEAK n) (t1.f (LAN_EQ_FIXED_CODE n)) from if_pos (hfix.trans hf)]
      refine ⟨(Blk.OnlyRegs.refl t1 _).setF (x := LAN_EQ_PEAK n) ⟨hf, rfl⟩, fun _ => ?_⟩
      rw [Blk.f_setF_same _ _ _ (show 8 ≤ 12 by decide) (show 12 < 24 by decide), Blk.f_of_reg (x := LAN_EQ_FIXED_CODE n) (hEQ (LAN_EQ_FIXED_CODE n) rfl)]
      exact Nat.mod_eq_of_lt (bits_lt _ 4 0)
    · rw [show t2 = t1 from if_neg (by rw [hfix]; exact hf)]
      exact ⟨.refl t1 _, fun g => absurd g hf⟩
  clear_value t2
  obtain ⟨hO2, hpeak⟩ := hO2
  have h2 (y : Fld) (hy : y.addr = LAN_STATUS n) : t2.reg y.addr = t1.reg y.addr := by
    refine hO2.2 _ ?_
    rw [hy]
    simp only [LAN_EQ, LAN_STATUS]
    omega
  have h3 (y : Fld) (hy : y.addr = LAN_STATUS n ∨ y.addr = LAN_EQ n) : t3.reg y.addr = t2.reg y.addr := by
    refine Blk.reg_wn_ne _ _ ?_
    rcases hy with hy | hy <;> rw [hy] <;> simp only [LAN_EQ, LAN_STATUS, LAN_TRAIN_LOG] <;> omega
  have h32 (y : Fld) (hy : y.addr = LAN_STATUS n) : t3.reg y.addr = t1.reg y.addr := (h3 y (.inl hy)).trans (h2 y hy)
  have hF3 : s.Frame t3 (stepWord s n) := by
    have hO := (hO1.regsBut.mono fun a ha => (Or.inl ha : stepWord s n a)).trans (hO2.regsBut.mono fun a ha => (.inr (.inr ha) : stepWord s n a))
    exact Blk.Frame.wn ⟨hO, hO1.calm.trans hO2.calm⟩ (.inr (.inl rfl))
  have htried : bitOf (t3.f (LAN_TRAIN_LOG_TRIED n)) k = true := by
    rw [Blk.f, show t3.rn (LAN_TRAIN_LOG_TRIED n).addr = tried % 2 ^ 24 from Blk.rn_wn_same _ _ _]
    exact bitOf_tried hk
  clear_value t3 start
  have hput (y : Lane) (hy : y.target = none) : s.Stepped (t3.setLane n y) n k :=
    { rate := (Blk.f_put _).trans ((Blk.f_of_reg (x := LAN_STATUS_RATE n) (h32 _ rfl)).trans hrate)
      heavy := (Blk.fb_put _).trans ((Blk.fb_of_reg (x := LAN_STATUS_HEAVY n) (h32 _ rfl)).trans hheavy)
      lock := (Blk.fb_put _).trans ((Blk.fb_of_reg (x := LAN_STATUS_LOCK n) (h32 _ rfl)).trans hlock)
      state := (Blk.f_put _).trans ((Blk.f_of_reg (x := LAN_STATUS_STATE n) (h32 _ rfl)).trans hstate)
      tried := (congrArg (bitOf · k) (Blk.f_put _)).trans htried
      target := by rw [Blk.lane_setLane_same, hy]
      peak := fun g => (Blk.f_put _).trans ((Blk.f_of_reg (x := LAN_EQ_PEAK n) (h3 _ (.inr rfl))).trans (hpeak g))
      frame := hF3.put }
  exact (hput _ rfl).tsSend

theorem Blk.Stepped.of_advance {u : Blk} {t n k : Nat} (hn : n < 44) (h : (s.advance t).Stepped u n k) : s.Stepped u n k := by
  have hr (a : Nat) (ha : a = LAN_STATUS n ∨ a = LAN_EQ n) : (s.advance t).reg a = s.reg a :=
    s.reg_advance t (lan_low hn (by rcases ha with rfl | rfl <;> simp only [LAN_STATUS, LAN_EQ] <;> omega))
  have hfix : (s.advance t).fb (LAN_EQ_FIXED n) = s.fb (LAN_EQ_FIXED n) := Blk.fb_of_reg (x := LAN_EQ_FIXED n) (hr _ (.inr rfl))
  obtain ⟨h1, h2, h3, h4, h5, h6, h7, h8⟩ := h
  refine ⟨h1, h2, h3, h4.trans (Blk.f_of_reg (x := LAN_STATUS_STATE n) (hr _ (.inl rfl))), h5, h6, fun g => ?_, ?_⟩
  · rw [h7 (hfix.trans g)]
    exact Blk.f_of_reg (x := LAN_EQ_FIXED_CODE n) (hr _ (.inr rfl))
  · refine (Blk.Frame.refl s _).advance.trans (h8.mono fun a ha => ?_)
    rwa [stepWord, hfix] at ha

theorem Lane.target_since (x : Lane) (a : Nat) : ({ x with since := a } : Lane).target = x.target := rfl

theorem Lane.target_falling (x : Lane) (k : Option Nat) (a : Nat) : ({ x with falling := true, next := k, nextAt := a } : Lane).target = x.target := rfl

/-- The transmit PLL is relocked: step 1 at the rate the lane changes to. -/
theorem rateStepRelock_spec {n t k : Nat} (hn : n < 44) (hk : k < 8) (hh : s.held = []) (hx : (s.lane n).target = some k) (h1 : s.laneState n = 1)
    (ht : (s.lane n).stAt + 250 ≤ max s.now t) : s.Stepped (rateStepRelock n t s) n k := by
  have hc : (s.advance t).laneState n = 1 := (s.laneState_advance t hn).trans h1
  have hl : (s.advance t).lane n = s.lane n := s.lane_advance t n
  have hnow : (s.advance t).now = max s.now t := s.now_advance t
  have hS : s.Stepped ((s.advance t).laneStep n k) n k := (Blk.laneStep_spec hk (by rw [s.advance_held t, hh])).of_advance hn
  unfold rateStepRelock
  generalize s.advance t = c at hc hl hnow hS
  dsimp only
  rw [hl, hx]
  dsimp only
  rw [if_neg (by rw [hc, hnow]; omega)]
  generalize c.laneStep n k = v at hS ⊢
  generalize hy : ({ v.lane n with since := min v.now ((s.lane n).stAt + 5250) } : Lane) = y
  have hyt : y.target = none := by rw [← hy, Lane.target_since, hS.target]
  split
  · refine ((hS.setLane hyt).setLane ?_).tsSend
    rw [Lane.target_falling, Blk.lane_setLane_same, hyt]
  · exact hS.setLane hyt

theorem Blk.scanLeft_of_none (h : s.scan = none) (n : Nat) : s.scanLeft n = s := by
  rw [Blk.scanLeft, h]

theorem Blk.trainHeld_of_none (h : s.scan = none) (n : Nat) : s.trainHeld n = false := by
  have hs (m : Nat) : s.scanOn m = false := by rw [Blk.scanOn, h]
  rw [Blk.trainHeld]
  split
  · exact List.any_eq_false.2 fun m _ => by rw [hs, Bool.and_false]; exact Bool.false_ne_true
  · exact hs n

/-- Training that fails. -/
theorem Blk.laneFail_spec {n : Nat} (hn : n < 44) (hs : s.scan = none) (h0 : s.laneRate n = 0) : (s.laneFail n false).laneState n = 4 ∧
    (s.laneFail n false).fb (LAN_STATUS_LOCK n) = false ∧ s.Raised (s.laneFail n false) 0x903 n n 0 ∧ s.Frame (s.laneFail n false) (· = LAN_STATUS n) := by
  unfold Blk.laneFail
  extract_lets u
  generalize hv : (s.setF (LAN_STATUS_STATE n) 4).setF (LAN_STATUS_LOCK n) 0 = v at u
  have hvs : v.scan = none := by rw [← hv, Blk.setF_scan, Blk.setF_scan, hs]
  have h4 : v.laneState n = 4 := by
    rw [← hv]
    exact (Blk.laneState_setF _ _ _ (by decide)).trans (Blk.f_setF_same _ _ _ (show 0 ≤ 2 by decide) (show 2 < 24 by decide))
  have hl : v.fb (LAN_STATUS_LOCK n) = false := by rw [← hv]; exact Blk.fb_setF_bit_same _ _ (by decide)
  have hr : v.laneRate n = 0 := by
    rw [← hv]
    refine (Blk.f_setF_ne _ _ _ _ (le_refl 12) (show 21 ≤ 23 by decide) (show 23 < 24 by decide) (.inr (.inr (show 12 < 21 by decide)))).trans ?_
    exact (Blk.f_setF_ne _ _ _ _ (show 0 ≤ 2 by decide) (show 21 ≤ 23 by decide) (show 23 < 24 by decide) (.inr (.inr (show 2 < 21 by decide)))).trans h0
  have he : v.evq = s.evq := by rw [← hv, Blk.setF_evq, Blk.setF_evq]
  have hF : s.Frame v (· = LAN_STATUS n) := by
    rw [← hv]
    exact ((Blk.Frame.refl s (· = LAN_STATUS n)).setF (x := LAN_STATUS_STATE n) rfl).setF (x := LAN_STATUS_LOCK n) rfl
  have hu : v.TxOnly u := by
    rw [show u = (v.scanLeft n).tsSend n by simp only [u, hv], Blk.scanLeft_of_none hvs]
    exact v.txOnly_tsSend n
  clear_value u
  generalize hy : ({ u.lane n with stAt := u.now } : Lane) = y
  have hur : u.laneRate n = 0 := (hu.f _).trans hr
  refine ⟨(Blk.f_put _).trans ((Blk.f_put _).trans ((hu.f _).trans h4)), (Blk.fb_put _).trans ((Blk.fb_put _).trans ((hu.fb _).trans hl)), ?_,
    Blk.Frame.raise ((hF.lined hu.lined).put)⟩
  rw [hur]
  exact Blk.Raised.raise (s := u.setLane n y) (hu.lined.evq.trans he) 0x903 (by omega) (by omega) (by decide)

theorem trainTimeout_spec {n t : Nat} (hn : n < 44) (h1 : s.laneState n = 1) (hs : s.scan = none) (hg : (s.lane n).target = none) (hx : (s.lane n).next = none)
    (h0 : s.laneRate n = 0) (ht : (s.lane n).since + 500000 ≤ max s.now t) : (trainTimeout n t s).laneState n = 4 ∧
    (trainTimeout n t s).fb (LAN_STATUS_LOCK n) = false ∧ s.Raised (trainTimeout n t s) 0x903 n n 0 ∧ s.Frame (trainTimeout n t s) (· = LAN_STATUS n) := by
  have hc : (s.advance t).laneState n = 1 := (s.laneState_advance t hn).trans h1
  have hl : (s.advance t).lane n = s.lane n := s.lane_advance t n
  have hnow : (s.advance t).now = max s.now t := s.now_advance t
  have hcs : (s.advance t).scan = none := (s.advance_scan t).trans hs
  have hcr : (s.advance t).laneRate n = 0 := (s.laneRate_advance t hn).trans h0
  obtain ⟨k4, kl, kr, kF⟩ := Blk.laneFail_spec hn hcs hcr
  have he : trainTimeout n t s = (s.advance t).laneFail n false := by
    unfold trainTimeout
    extract_lets c x
    have hno : ¬(c.laneState n ≠ 1 ∨ c.trainHeld n = true ∨ x.target.isSome = true ∨ x.next.isSome = true ∧ (!x.falling) = true ∨ c.now < x.since + 500000) := by
      rw [show c.laneState n = 1 from hc, Blk.trainHeld_of_none (show c.scan = none from hcs), show c.now = max s.now t from hnow,
        show x = s.lane n from hl, hg, hx]
      simp only [ne_eq, not_true_eq_false, Bool.false_eq_true, Option.isSome_none, false_and, false_or]
      omega
    rw [if_neg hno, if_pos (by rw [show c.laneRate n = 0 from hcr]; simp)]
  rw [he]
  exact ⟨k4, kl, kr.of_left (s.evq_advance_prefix t), (Blk.Frame.refl s _).advance.trans kF⟩

/-! ### Training anew (R322) -/

theorem Blk.laneTrain_spec {n : Nat} (hn : n < 44) (hh : s.held = []) (hen : s.laneEn n = true) (hup : s.laneState n ≠ 2) :
    (s.laneTrain n).laneState n = 1 ∧ (s.laneTrain n).fb (LAN_STATUS_LOCK n) = false ∧ (s.laneTrain n).laneRate n = (if isCam n then 2 else 0) ∧
      s.Frame (s.laneTrain n) fun a => a = LAN_STATUS n ∨ a = LAN_TRAIN_LOG n ∨ a = LAN_EYE_STATUS ∨ (s.fb (LAN_EQ_FIXED n) = true ∧ a = LAN_EQ n) := by
  have hnEQ : ¬(LAN_EQ n = LAN_STATUS n ∨ LAN_EQ n = LAN_TRAIN_LOG n ∨ LAN_EQ n = LAN_EYE_STATUS) := by
    simp only [LAN_EQ, LAN_STATUS, LAN_TRAIN_LOG, LAN_EYE_STATUS]
    omega
  generalize hp : (fun a => a = LAN_STATUS n ∨ a = LAN_TRAIN_LOG n ∨ a = LAN_EYE_STATUS) = p
  have hpS : p (LAN_STATUS n) := by rw [← hp]; exact .inl rfl
  have hpL : p (LAN_TRAIN_LOG n) := by rw [← hp]; exact .inr (.inl rfl)
  have hpE : p LAN_EYE_STATUS := by rw [← hp]; exact .inr (.inr rfl)
  have hpn : ¬p (LAN_EQ n) := by rw [← hp]; exact hnEQ
  unfold Blk.laneTrain
  extract_lets t1 t2 t3 t4 t5 x src src' t6
  have h1 : t1 = s := Blk.commit_of_held_nil hh _
  have h2 : t2 = s := by
    rw [show t2 = if t1.laneUp n then t1.setF (LAN_STATUS_DOWN n) 1 else t1 from rfl, h1]
    exact if_neg (by rw [Blk.laneUp, beq_iff_eq]; exact hup)
  have h3 : s.TxOnly t3 := by
    rw [show t3 = t2.tsDone n from rfl, h2]
    exact (Blk.TxOnly.refl s).tsDone
  have h3h : t3.held = [] := by
    obtain ⟨_, _, e⟩ := h3.lined
    rw [e]
    exact hh
  rw [h1, if_neg (by rw [hen]; decide)]
  clear_value t3
  have h4 : t4.laneState n = 1 :=
    (Blk.laneState_setF _ _ _ (by decide)).trans ((Blk.laneState_setF _ _ _ (by decide)).trans (Blk.f_setF_same _ _ _ (show 0 ≤ 2 by decide) (show 2 < 24 by decide)))
  have hF4 : s.Frame t4 p := ((((Blk.Frame.refl s p).lined h3.lined).setF (x := LAN_STATUS_STATE n) hpS).setF (x := LAN_STATUS_TX_SLEEP n) hpS).setF
    (x := LAN_STATUS_RX_SLEEP n) hpS
  have h4h : t4.held = [] := by
    rw [show t4 = ((t3.setF (LAN_STATUS_STATE n) 1).setF (LAN_STATUS_TX_SLEEP n) 0).setF (LAN_STATUS_RX_SLEEP n) 0 from rfl, Blk.setF_held, Blk.setF_held,
      Blk.setF_held, h3h]
  clear_value t4
  have h5 : t5.laneState n = 1 := (Blk.laneState_scanLeft _ n hn).trans ((Blk.f_wn_ne _ _ _ _ (by simp only [LAN_STATUS, LAN_TRAIN_LOG]; omega)).trans h4)
  have hF5 : s.Frame t5 p := (hF4.wn hpL).scanLeft hpE
  have h5h : t5.held = [] := by
    obtain ⟨_, _, _, _, e⟩ := ((Blk.Laned.refl (t4.wn (LAN_TRAIN_LOG n) 0)).scanLeft (n := n) (p := fun _ => True) trivial).rest
    rw [show t5 = (t4.wn (LAN_TRAIN_LOG n) 0).scanLeft n from rfl, e]
    show (t4.wn (LAN_TRAIN_LOG n) 0).held = []
    rw [Blk.wn_held, h4h]
  clear_value t5
  have hfix : t5.fb (LAN_EQ_FIXED n) = s.fb (LAN_EQ_FIXED n) := hF5.1.fb (x := LAN_EQ_FIXED n) (lan_low hn (by simp only [LAN_EQ]; omega)) hpn
  have h6 : t6.laneState n = 1 := (Blk.f_put _).trans h5
  have hF6 : s.Frame t6 p := hF5.put
  have h6h : t6.held = [] := h5h
  have hfix6 : t6.fb (LAN_EQ_FIXED n) = s.fb (LAN_EQ_FIXED n) := (Blk.fb_put _).trans hfix
  clear_value t6
  have hS : t6.Stepped (t6.laneStep n (if isCam n then 2 else 0)) n (if isCam n then 2 else 0) := Blk.laneStep_spec (by split <;> decide) h6h
  refine ⟨hS.state.trans h6, hS.lock, hS.rate, (hF6.mono fun a ha => ?_).trans (hS.frame.mono fun a ha => ?_)⟩
  · rw [← hp] at ha
    exact ha.imp_right fun g => g.imp_right .inl
  · rcases ha with g | g | ⟨g, h⟩
    · exact .inl g
    · exact .inr (.inl g)
    · exact .inr (.inr (.inr ⟨hfix6 ▸ g, h⟩))

theorem laneClearCounts_spec (s : Blk) {n : Nat} : (laneClearCounts n s).rn (LAN_CODE_ERR n) = 0 ∧ (laneClearCounts n s).rn (LAN_RECOVERS n) = 0 ∧
    (laneClearCounts n s).f (LAN_FOM_LOWEST n) = 0 ∧ s.Frame (laneClearCounts n s) fun a => a = LAN_CODE_ERR n ∨ a = LAN_RECOVERS n ∨ a = LAN_FOM n := by
  unfold laneClearCounts
  extract_lets u
  have hF : s.Frame u fun a => a = LAN_CODE_ERR n ∨ a = LAN_RECOVERS n ∨ a = LAN_FOM n :=
    (((Blk.Frame.refl s _).wn (.inl rfl)).wn (.inr (.inl rfl))).setF (x := LAN_FOM_LOWEST n) (.inr (.inr rfl))
  have h1 : u.rn (LAN_CODE_ERR n) = 0 := by
    rw [Blk.rn_setF_ne _ _ _ (by simp only [LAN_CODE_ERR, LAN_FOM]; omega), Blk.rn_wn_ne _ _ (by simp only [LAN_CODE_ERR, LAN_RECOVERS]; omega), Blk.rn_wn_same,
      Nat.zero_mod]
  have h2 : u.rn (LAN_RECOVERS n) = 0 := by
    rw [Blk.rn_setF_ne _ _ _ (by simp only [LAN_RECOVERS, LAN_FOM]; omega), Blk.rn_wn_same, Nat.zero_mod]
  have h3 : u.f (LAN_FOM_LOWEST n) = 0 := Blk.f_setF_same _ _ _ (show 8 ≤ 15 by decide) (show 15 < 24 by decide)
  clear_value u
  exact ⟨(Blk.rn_of_reg (Blk.reg_put _)).trans h1, (Blk.rn_of_reg (Blk.reg_put _)).trans h2, (Blk.f_put _).trans h3, hF.put⟩

/-! ### The obligation -/

theorem Blk.laneEn_advance (s : Blk) (t : Nat) {n : Nat} (hn : n < 44) : (s.advance t).laneEn n = s.laneEn n := by
  have hreg (x : Fld) (hx : x.addr < 0x101003) : (s.advance t).fb x = s.fb x := s.fb_advance t (cntWord_low (by omega))
  rw [Blk.laneEn, Blk.laneEn, hreg (HLK_PORT_CFG_EN n) (by simp only [HLK_PORT_CFG]; omega),
    hreg (INS_CAM_CFG_EN (n - 40)) (by simp only [INS_CAM_CFG]; omega), hreg (LAN_CFG_EN n) (by simp only [LAN_CFG]; omega)]

/-- What training anew from `s` comes to. -/
def Blk.Trained (s u : Blk) (n : Nat) : Prop :=
  u.laneState n = 1 ∧ u.fb (LAN_STATUS_LOCK n) = false ∧ u.laneRate n = (if isCam n then 2 else 0) ∧
    s.Frame u fun a => a = LAN_STATUS n ∨ a = LAN_TRAIN_LOG n ∨ a = LAN_EYE_STATUS ∨ (s.fb (LAN_EQ_FIXED n) = true ∧ a = LAN_EQ n)

theorem Blk.trained_advance {n t : Nat} (hn : n < 44) (hh : s.held = []) (hen : s.laneEn n = true) (hup : s.laneState n ≠ 2) :
    s.Trained ((s.advance t).laneTrain n) n := by
  obtain ⟨h1, hL, hr, hF⟩ := Blk.laneTrain_spec (s := s.advance t) hn ((s.advance_held t).trans hh) ((s.laneEn_advance t hn).trans hen)
    (by rw [s.laneState_advance t hn]; exact hup)
  rw [s.fb_advance t (x := LAN_EQ_FIXED n) (cntWord_low (by simp only [LAN_EQ]; omega))] at hF
  exact ⟨h1, hL, hr, (Blk.Frame.refl s _).advance.trans hF⟩

theorem laneFailedRetry_spec {n t : Nat} (hn : n < 44) (hh : s.held = []) (hen : s.laneEn n = true) (h4 : s.laneState n = 4)
    (ht : (s.lane n).stAt + 2500000 ≤ max s.now t) : s.Trained (laneFailedRetry n t s) n := by
  have hT : s.Trained ((s.advance t).laneTrain n) n := Blk.trained_advance hn hh hen (by omega)
  have hst : (s.advance t).laneState n = 4 := (s.laneState_advance t hn).trans h4
  rw [← s.lane_advance t n, ← s.now_advance t] at ht
  unfold laneFailedRetry
  generalize s.advance t = c at hT hst ht
  exact (if_pos (c := c.laneState n = 4 ∧ (c.lane n).stAt + 2500000 ≤ c.now) ⟨hst, ht⟩).symm ▸ hT

theorem recoverTimeout_spec {n t : Nat} (hn : n < 44) (hh : s.held = []) (hen : s.laneEn n = true) (h3 : s.laneState n = 3)
    (hL : s.fb (LAN_STATUS_LOCK n) = false) (hs : s.scanOn n = false) (ht : (s.lane n).stAt + 25000 ≤ max s.now t) : s.Trained (recoverTimeout n t s) n := by
  have hT : s.Trained ((s.advance t).laneTrain n) n := Blk.trained_advance hn hh hen (by omega)
  have hst : (s.advance t).laneState n = 3 := (s.laneState_advance t hn).trans h3
  have hLc : (s.advance t).fb (LAN_STATUS_LOCK n) = false :=
    (s.fb_advance t (x := LAN_STATUS_LOCK n) (cntWord_low (by simp only [LAN_STATUS]; omega))).trans hL
  have hsc : (s.advance t).scanOn n = false := by
    rw [← hs, Blk.scanOn, Blk.scanOn, s.advance_scan t]
  rw [← s.lane_advance t n, ← s.now_advance t] at ht
  unfold recoverTimeout
  generalize s.advance t = c at hT hst ht hLc hsc
  dsimp only
  rw [if_pos ⟨hst, by rw [hLc]; rfl, by rw [hsc]; rfl, ht⟩]
  exact hT

theorem Blk.laneAgain_spec {n : Nat} (hn : n < 44) (hh : s.held = []) (hen : s.laneEn n = true) (h0 : s.laneState n ≠ 0) (h2 : s.laneState n ≠ 2) :
    s.Trained (s.laneAgain n) n := by
  have hup : s.laneUp n = false := by
    rw [Blk.laneUp, beq_eq_false_iff_ne]
    exact h2
  have he : s.laneAgain n = s.laneTrain n := by
    unfold Blk.laneAgain Blk.laneRetrain
    rw [if_neg h0, hup]
    simp only [Bool.false_eq_true, ↓reduceIte]
  rw [he]
  exact Blk.laneTrain_spec hn hh hen h2

theorem feed_k28x5 : ∀ f : Bool, (Rx.init.feed false f false (lightCode false [k28x5, k28x5, k28x5, k28x5]).1).2 = [.gain] := by
  decide +kernel

/-- Settles O31: the line code returns what the coder sent, and each step of the training does to the lane's words what R321 to R323 say. -/
theorem laneTraining : Obligations.LaneTraining := by
  unfold Obligations.LaneTraining
  refine ⟨feed_k28x5, fun x bs h0 hl hb => feed_light_frame h0 hl hb,
    fun x g bs hc hw hs hr hg hb hl ha => feed_heavy_frame hc hw hs hr hg hb hl ha, fun s n t ha hh => ⟨?_, ?_, ?_, ?_, ?_, ?_, ?_⟩⟩
  · exact fun line h1 ht hf hs => .of_on (f := rxStretch n t line) rfl ha (rxStretch_gain n.isLt hh h1 ht hs hf)
  · intro ths h1 hL hF hcam hlen ht
    refine .of_on (f := equaliserSweepDone n t ths) rfl ha ?_
    obtain ⟨hP, hC, hR, h1', hFr⟩ := equaliserSweepDone_spec n.isLt h1 hL hF hcam hlen ht
    have hne : ths.map fomOf ≠ [] := fun h => by have := congrArg List.length h; simp [hlen] at this
    obtain ⟨hlt, hmax, hfirst⟩ := bestCode_spec hne
    rw [List.length_map, hlen] at hlt
    have hmap (j : Nat) : (ths.map fomOf).getD j 0 = fomOf (ths.getD j (0, 0)) := List.getD_map (d := (0, 0)) (f := fomOf) ..
    simp only [hmap] at hmax hfirst hC hR
    exact ⟨⟨_, hlt, hP, hC, fun j _ => hmax j, hfirst, hR⟩, h1', hFr⟩
  · intro line bs h1 hcam hL hs ht hf
    refine ⟨fun hx hok hb => ?_, fun hhd hx hfl hrx h7 hsc hb hok => ?_, fun nx hhd hx _ h7 htn hsc hb hb4 hp => ⟨fun he => ?_, fun he => ?_⟩⟩
    · exact .of_on (f := rxStretch n t line) rfl ha (rxStretch_ts_shown n.isLt hh h1 ht hs hL hf hcam hx hok hb)
    · exact .of_on (f := rxStretch n t line) rfl ha (rxStretch_ts_next n.isLt hh h1 ht hs hL hf hhd hx hfl hrx h7 hsc hb hok)
    · exact .of_on (f := rxStretch n t line) rfl ha (rxStretch_ts2_changes n.isLt hh h1 ht hs hL hf hhd hx h7 htn hsc hb hb4 hp he)
    · exact .of_on (f := rxStretch n t line) rfl ha (rxStretch_ts2_settles n.isLt hh h1 ht hs hL hf hhd hx h7 htn hsc hb hb4 hp he)
  · intro k hx hk h1 ht
    have hS := rateStepRelock_spec n.isLt hk hh hx h1 ht
    exact .of_on (f := rateStepRelock n t) rfl ha ⟨hS.rate, hS.heavy, hS.lock, hS.tried, hS.target, hS.peak, hS.frame⟩
  · exact fun h1 hs hg hx h0 ht => .of_on (f := trainTimeout n t) rfl ha (trainTimeout_spec n.isLt h1 hs hg hx h0 ht)
  · intro hen c hc
    rcases hc with ⟨h4, ht, rfl⟩ | ⟨h3, hL, hs, ht, rfl⟩ | ⟨h0, h2, rfl⟩
    · exact .of_on (f := laneFailedRetry n t) rfl ha (laneFailedRetry_spec n.isLt hh hen h4 ht)
    · exact .of_on (f := recoverTimeout n t) rfl ha (recoverTimeout_spec n.isLt hh hen h3 hL hs ht)
    · exact .of_on (f := fun b => b.laneAgain n) rfl ha (Blk.laneAgain_spec n.isLt hh hen h0 h2)
  · exact .of_on (f := laneClearCounts n) rfl ha (laneClearCounts_spec s.blk)

end Sys2Proof.Machine
end

section
/-!
PROOFS. What follows an encoder's edge, index or fault leaves every encoder as it is.
-/

namespace Sys2Proof.Machine

/-- `s` is `o` for the encoders: their words up to 0x0200ff, but for FAULT and FAULT_CAUSE of encoder `n`, their filters and references, and
what is held. Whatever follows an edge, an index or a fault of encoder `n` keeps this. -/
structure Blk.EncKept (o s : Blk) (n : Fin 8) : Prop where
  word : ∀ a, a < 0x020100 → a ≠ POS_STATUS n → s.reg a = o.reg a
  flag : ∀ i, 3 ≤ i → i < 24 → s.fb ⟨POS_STATUS n, i, i⟩ = o.fb ⟨POS_STATUS n, i, i⟩
  encs : s.encs = o.encs
  held : s.held = o.held

namespace Blk.EncKept

/-! In the proofs below `s1`, `s2`, … name the states that an operation passes through, in its own order, and `h1`, `h2`, … say that the encoders stand
in each. An address from 0x020100 on is written `c + 0x020100`, that of an indexed register `c + 0x020100 + b * i`: so a lemma finds by itself that
a register lies behind the encoders'. -/

variable {o s : Blk} {n : Fin 8}

theorem refl (o : Blk) (n : Fin 8) : o.EncKept o n := ⟨fun _ _ _ => rfl, fun _ _ _ => rfl, rfl, rfl⟩

theorem trans {t : Blk} (h : o.EncKept s n) (g : s.EncKept t n) : o.EncKept t n :=
  ⟨fun a ha hs => (g.word a ha hs).trans (h.word a ha hs), fun i hi hl => (g.flag i hi hl).trans (h.flag i hi hl), g.encs.trans h.encs, g.held.trans h.held⟩

theorem setReg (h : o.EncKept s n) {a : Nat} {w : Word} (ha : 0x020100 ≤ a) : o.EncKept (s.setReg a w) n := by
  have hne : POS_STATUS n ≠ a := (posStatus_lt ha).ne
  refine ⟨fun b hb hs => (Blk.reg_setReg_ne s w (by omega)).trans (h.word b hb hs), fun i hi hl => ?_, h.encs, h.held⟩
  rw [← h.flag i hi hl]
  unfold Blk.fb Blk.f Blk.rn
  rw [Blk.reg_setReg_ne s w hne]

theorem wn (h : o.EncKept s n) {c v : Nat} : o.EncKept (s.wn (c + 0x020100) v) n := h.setReg (Nat.le_add_left _ _)

theorem wn_indexed (h : o.EncKept s n) {c b i v : Nat} : o.EncKept (s.wn (c + 0x020100 + b * i) v) n := h.setReg (by omega)

theorem setF (h : o.EncKept s n) {c hi lo v : Nat} : o.EncKept (s.setF ⟨c + 0x020100, hi, lo⟩ v) n := h.wn

theorem setF_indexed (h : o.EncKept s n) {c b i hi lo v : Nat} : o.EncKept (s.setF ⟨c + 0x020100 + b * i, hi, lo⟩ v) n := h.wn_indexed

theorem ite {c : Prop} [Decidable c] {a b : Blk} (ha : o.EncKept a n) (hb : o.EncKept b n) : o.EncKept (if c then a else b) n := by
  split
  · exact ha
  · exact hb

theorem foldl {α : Type} {f : Blk → α → Blk} (hf : ∀ t x, o.EncKept t n → o.EncKept (f t x) n) (l : List α) (h : o.EncKept s n) :
    o.EncKept (l.foldl f s) n := List.foldlRecOn l f h fun t g x _ => hf t x g

theorem setVal_behind (h : o.EncKept s n) {a v k : Nat} (ha : 0x020100 ≤ a) : o.EncKept (s.setVal a v k) n := by
  induction k generalizing s a v with
  | zero => exact h
  | succ k ih => exact ih (h.setReg ha) (by omega)

theorem setVal (h : o.EncKept s n) {c v k : Nat} : o.EncKept (s.setVal (c + 0x020100) v k) n := h.setVal_behind (Nat.le_add_left _ _)

theorem setVal_indexed (h : o.EncKept s n) {c b i v k : Nat} : o.EncKept (s.setVal (c + 0x020100 + b * i) v k) n := h.setVal_behind (by omega)

/-- A new value for fields other than the registers, the encoders and the held values keeps them. -/
theorem put (h : o.EncKept s n) {now freeN mem evq out wires holding tim bcn lck scheds pevs trks cmp ports mbx cams ins sht axes twn
    dram lanes scan links wal time streams sto bst trm fuse sys acc} :
    o.EncKept ⟨now, freeN, s.regs, s.held, mem, evq, out, wires, holding, tim, bcn, s.encs, lck, scheds, pevs, trks, cmp, ports, mbx, cams, ins,
      sht, axes, twn, dram, lanes, scan, links, wal, time, streams, sto, bst, trm, fuse, sys, acc⟩ n := ⟨h.word, h.flag, h.encs, h.held⟩

theorem raise (h : o.EncKept s n) {c i d0 d1 : Nat} : o.EncKept (s.raise c i d0 d1) n := h.put

/-! Axes and the fetch tolerance -/

theorem setAxState (h : o.EncKept s n) {k v : Nat} : o.EncKept (s.setAxState k v) n := h.setF_indexed

theorem setActTarget (h : o.EncKept s n) {k : Nat} {x : Int} : o.EncKept (s.setActTarget k x) n := h.setVal_indexed

theorem axStop (h : o.EncKept s n) {k : Nat} {lim : Bool} : o.EncKept (s.axStop k lim) n :=
  (h.put.put : o.EncKept ((s.setAx k _).setAx k _) n).setActTarget.setAxState

theorem gearFault (h : o.EncKept s n) {m k : Nat} : o.EncKept (Blk.gearFault m s k) n := h.axStop.raise.ite h

theorem updateLat (h : o.EncKept s n) : o.EncKept s.updateLat n := by
  unfold Blk.updateLat
  extract_lets tols
  split
  · exact h.wn
  · exact h.wn

/-! Tracks and schedules -/

theorem putTrk (h : o.EncKept s n) {t : Nat} {x : Trk} : o.EncKept (s.putTrk t x) n :=
  (h.put : o.EncKept (s.setTrk t x) n).setF_indexed

theorem putSched (h : o.EncKept s n) {t : Nat} {l : List SchedEntry} : o.EncKept (s.putSched t l) n :=
  (h.put : o.EncKept (s.setSched t l) n).setF_indexed

theorem mapPages (h : o.EncKept s n) {t : Nat} {p : Page} {f : Page → Page} : o.EncKept (s.mapPages t p f) n := h.putTrk

theorem noteEmpty (h : o.EncKept s n) {t : Nat} : o.EncKept (s.noteEmpty t) n := h.putTrk.ite h

/-! Counters, image memory and rings -/

theorem countOne (h : o.EncKept s n) {src k i : Nat} : o.EncKept (Blk.countOne src k s i) n :=
  (h.setVal_indexed.ite h.setVal_indexed.setF.raise).ite h

theorem count (h : o.EncKept s n) {src k : Nat} : o.EncKept (s.count src k) n := h.ite (foldl (fun _ _ g => g.countOne) _ h)

theorem memWrites (h : o.EncKept s n) {a : Nat} {bs : List Byte} : o.EncKept (s.memWrites a bs) n := by
  induction bs generalizing s a with
  | nil => exact h
  | cons b r ih => exact ih h.put

theorem withDram (h : o.EncKept s n) {f : Service → Dram → Dram} : o.EncKept (s.withDram f) n := h.put

theorem request (h : o.EncKept s n) {c p cls bank : Nat} {write : Bool} : o.EncKept (s.request c p cls bank write) n := by
  unfold Blk.request
  extract_lets d1 s1 x s2 d2 s3 s4 s5
  have h1 : o.EncKept s1 n := h.put
  have h2 : o.EncKept s2 n := by
    unfold s2 x
    split
    · exact h1.setF.setF
    · exact h1.setF.setF
  have h3 : o.EncKept s3 n := h2.put.ite h1.setF
  have h5 : o.EncKept s5 n := h3.withDram.count.ite h3.withDram
  exact h5.withDram

theorem rowDisturb (h : o.EncKept s n) {p : Nat} {w : Nat × Nat × Nat × Nat} : o.EncKept (s.rowDisturb p w) n := by
  unfold Blk.rowDisturb
  extract_lets s1 k s2 s3
  have h1 : o.EncKept s1 n := ite (h.put : o.EncKept (s.throttle p w) n) h
  have h2 : o.EncKept s2.showThrot n := h1.withDram.setF
  exact h2.setF.count.raise

theorem activate (h : o.EncKept s n) {p a : Nat} : o.EncKept (s.activate p a) n := by
  unfold Blk.activate
  extract_lets th w key r cross t d s1
  have h1 : o.EncKept s1 n := h.put
  exact h.ite (h1.rowDisturb.ite h1)

theorem burst (h : o.EncKept s n) {p a : Nat} {write : Bool} : o.EncKept (Blk.burst p write s a) n :=
  h.raise.ite h.request.withDram.activate

theorem access (h : o.EncKept s n) {p a k : Nat} {write : Bool} : o.EncKept (s.access p a k write) n :=
  foldl (fun _ _ g => g.burst) _ h

theorem ringPut (h : o.EncKept s n) {r : Nat} {ws : List Nat} : o.EncKept (s.ringPut r ws) n :=
  (h.access.memWrites : o.EncKept (s.imgWrite _ _ _) n).wn_indexed

/-! The master's fault: releases, and tracks that are held or leave -/

theorem postRelease (h : o.EncKept s n) {t : Nat} : o.EncKept (s.postRelease t).1 n := by
  unfold Blk.postRelease
  extract_lets x
  split
  · exact h
  · split
    · exact h
    · split
      · split
        · exact h
        · exact h.mapPages.wn
      · exact h.ringPut.mapPages.noteEmpty

theorem postReleases (h : o.EncKept s n) {t k : Nat} : o.EncKept (s.postReleases t k) n := by
  induction k generalizing s with
  | zero => exact h
  | succ k ih => exact (ih h.postRelease).ite h.postRelease

theorem trackIdle (h : o.EncKept s n) {t : Nat} : o.EncKept (s.trackIdle t) n := by
  unfold Blk.trackIdle
  extract_lets x atEnd left y s1 s2 s3 s4 mark i s5
  have h1 : o.EncKept s1 n := h.putTrk
  have h2 : o.EncKept s2 n := h1.putSched
  have h3 : o.EncKept s3 n := h2.setF_indexed.setF_indexed
  have h4 : o.EncKept s4 n := h3.setF.ite h3
  have h5 : o.EncKept s5 n := h4.put
  exact h5.postReleases

theorem trackHold (h : o.EncKept s n) {t : Nat} : o.EncKept (s.trackHold t) n := by
  unfold Blk.trackHold
  extract_lets s1
  have h1 : o.EncKept s1 n := h.setF_indexed
  exact h.trackIdle.ite ((h1.setF.ite h1).ite h)

theorem masterFault (h : o.EncKept s n) : o.EncKept s.masterFault n := by
  unfold Blk.masterFault Blk.masterHold
  extract_lets fb p f s1 l s2
  have h1 : o.EncKept s1 n := h.setVal.setF
  have h2 : o.EncKept s2 n := h1.put
  exact h.ite (h2.raise.updateLat.ite (foldl (fun _ _ g => g.trackHold) _ h.setF))

/-! Self-test -/

theorem testUnit (h : o.EncKept s n) {u : Nat} : o.EncKept (s.testUnit u) n := h.setF.setF.put

theorem handStart (h : o.EncKept s n) {k : Nat} {toBye : Bool} : o.EncKept (s.handStart k toBye) n := by
  unfold Blk.handStart
  extract_lets b s1 s2
  have h1 : o.EncKept s1 n := h.put
  have h2 : o.EncKept s2 n := h1.setF
  exact h2.put

theorem bstGo (h : o.EncKept s n) : o.EncKept s.bstGo n := by
  unfold Blk.bstGo
  split
  · exact h
  · split
    · exact h
    · extract_lets s1 b s2
      have h1 : o.EncKept s1 n := h.put
      have h2 : o.EncKept s2 n := h1.put.ite h1
      exact h2.handStart.ite h2.testUnit

theorem restOver (h : o.EncKept s n) : o.EncKept s.restOver n := by
  unfold Blk.restOver
  extract_lets b s1 s2
  have h1 : o.EncKept s1 n := h.put
  have h2 : o.EncKept s2 n := h1.wn.ite h1
  exact h2.bstGo

theorem handDone (h : o.EncKept s n) : o.EncKept s.handDone n := by
  unfold Blk.handDone
  split
  · exact h
  · extract_lets line s1 b
    have he : o.EncKept s.handEnd n := h.setF.put
    have h1 : o.EncKept s1 n := he.setF.wn.count.raise
    have h2 : o.EncKept ({ s1 with bst := { b with handed := true } } : Blk) n := h1.put
    exact h2.testUnit.ite h1.restOver

/-! A fault of the encoder itself, and what closes a sample -/

/-- FAULT and FAULT_CAUSE. -/
theorem setF_fault (h : o.EncKept s n) {hi lo v : Nat} (hl : lo ≤ hi) (hh : hi < 3) : o.EncKept (s.setF ⟨POS_STATUS n, hi, lo⟩ v) n := by
  refine ⟨fun a ha hs => (Blk.reg_setF_ne _ _ _ hs).trans (h.word a ha hs), fun i hi3 hi24 => ?_, h.encs, h.held⟩
  rw [← h.flag i hi3 hi24, Blk.fb, Blk.fb, Blk.f_setF_ne _ _ _ _ hl (le_refl i) hi24 (.inr (.inr (show hi < i by omega)))]

theorem encFault (h : o.EncKept s n) {cause : Nat} : o.EncKept (s.encFault n cause) n := by
  unfold Blk.encFault
  extract_lets s1 s2 s3
  have h1 : o.EncKept s1 n := (h.setF_fault (le_refl 0) (by decide)).setF_fault (by decide) (by decide)
  have h2 : o.EncKept s2 n := h1.raise
  have h3 : o.EncKept s3 n := foldl (fun _ _ g => g.gearFault) _ h2
  exact h.ite (h3.masterFault.ite h3)

theorem moved (h : o.EncKept s n) : o.EncKept s.moved n := by
  unfold Blk.moved
  extract_lets p x s1
  have h1 : o.EncKept s1 n := h.put.ite h
  exact h1.put.ite h1

theorem passCheck (h : o.EncKept s n) : o.EncKept s.passCheck n := by
  unfold Blk.passCheck
  extract_lets s1
  have h1 : o.EncKept s1 n := h.setF.raise
  exact h1.trackHold.ite h

theorem settle (h : o.EncKept s n) (hh : o.held = []) : o.EncKept s.settle n := by
  have h1 : o.EncKept s.handAtIdle n := h.handDone.ite h
  have h2 : s.handAtIdle.idleCommit = s.handAtIdle := by
    rw [Blk.idleCommit, h1.held, hh]
    rfl
  rw [Blk.settle, h2]
  exact h1.bstGo.ite h

end Blk.EncKept

end Sys2Proof.Machine
end

section
/-!
PROOFS. Encoder samples (R48 to R52, R61): a level that holds for FILT_N samples, and the edge that it makes.
-/

namespace Sys2Proof.Machine

variable {r s : Blk} {p : Nat → Prop}

/-! ### The filters (R48, R49) -/

/-- A filter at rest takes a level that holds for its length: its output changes with the last of the samples it needs, if it changes. -/
theorem Filt.feed_settles {x : Filt} {len t k : Nat} {l : Bool} (h0 : x.run = 0) (h1 : 1 ≤ len) (hk : len ≤ k) :
    x.feed len t k l = (⟨l, 0⟩, if l = x.out then none else some (t + (len - 1))) := by
  unfold Filt.feed
  rw [if_neg (by omega), h0]
  split
  · next h => rw [h]
  · next h => rw [if_pos (by omega), Nat.sub_zero, Nat.add_sub_assoc h1]

/-- Encoder `e` with the levels on its pins, and its filters settled on them. -/
def Enc.shown (e : Enc) (a b z : Bool) : Enc := { e with a := ⟨a, 0⟩, b := ⟨b, 0⟩, z := ⟨z, 0⟩, pinA := a, pinB := b, pinZ := z }

theorem Enc.ab_shown (e : Enc) (a b z : Bool) : (e.shown a b z).ab = b2n a * 2 + b2n b := rfl

/-- What the filters of an encoder at rest make of levels that hold long enough, from sample `q` on. -/
def Enc.fed (e : Enc) (a b z : Bool) (q : Nat) : Fed :=
  ⟨(⟨a, 0⟩, if a = e.a.out then none else some q), (⟨b, 0⟩, if b = e.b.out then none else some q), (⟨z, 0⟩, if z = e.z.out then none else some q)⟩

theorem eraseDups_of_forall_eq {l : List Nat} {q : Nat} (hl : l ≠ []) (h : ∀ x ∈ l, x = q) : l.eraseDups = [q] := by
  cases l with
  | nil => exact absurd rfl hl
  | cons x l =>
    rw [List.forall_mem_cons] at h
    obtain ⟨rfl, h⟩ := h
    rw [List.eraseDups_cons, List.filter_eq_nil_iff.2 fun y hy => by simp [h y hy], List.eraseDups_nil]

theorem Enc.samples_fed {e : Enc} {a b z : Bool} (q : Nat) (h : a ≠ e.a.out ∨ b ≠ e.b.out ∨ z ≠ e.z.out) : (e.fed a b z q).samples = [q] := by
  have hmem (x : Nat) : x ∈ [(e.fed a b z q).a.2, (e.fed a b z q).b.2, (e.fed a b z q).z.2].filterMap id ↔
      x = q ∧ (a ≠ e.a.out ∨ b ≠ e.b.out ∨ z ≠ e.z.out) := by
    simp only [Enc.fed, List.mem_filterMap, List.mem_cons, List.not_mem_nil, or_false, id_eq]
    constructor
    · rintro ⟨y, hy, rfl⟩
      rcases hy with hy | hy | hy <;> split at hy <;> simp_all
    · rintro ⟨rfl, hd⟩
      refine ⟨some x, ?_, rfl⟩
      rcases hd with hd | hd | hd <;> simp [hd]
  unfold Fed.samples
  rw [eraseDups_of_forall_eq (List.ne_nil_of_mem ((hmem q).2 ⟨rfl, h⟩)) fun x hx => ((hmem x).1 hx).1]
  rfl

/-! ### One sample with edges -/

/-- `v` is `s` at the sample in which the filters of encoder `n` settle on the levels `a`, `b` and `z`, begun at `t`, before the edges act. -/
structure Blk.Settled (s v : Blk) (n t : Nat) (a b z : Bool) : Prop where
  enc : v.enc n = (s.enc n).shown a b z
  held : v.held = s.held
  now : v.now = max (max s.now t) (t + (s.filtN n - 1))
  frame : s.Frame v fun _ => False

/-- What the edges of a sample do: the count step, then the index. -/
def Blk.edgesAct (v : Blk) (n t : Nat) (e : Enc) : Blk :=
  let u := if (v.enc n).ab = e.ab then v else v.abChange n e.ab t
  (if (u.enc n).z.out = e.z.out then u else u.zChange n).gateCheck n

/-- What closes the command after the edges. -/
def Blk.edgesClose (v : Blk) : Blk :=
  let u := v.moved.passCheck.passCheck
  if u.running then u.updateLat else u

theorem Enc.ab_quiet_fed (e : Enc) (a b z : Bool) (q : Nat) : ((e.fed a b z q).quiet e).ab = e.ab := by
  have (x : Filt) (l : Bool) : (if (if l = x.out then none else some q).isNone then (⟨l, 0⟩ : Filt) else x).out = x.out := by
    split <;> simp_all
  unfold Enc.ab Fed.quiet Enc.fed
  simp only [this]

theorem Enc.z_quiet_fed (e : Enc) (a b z : Bool) (q : Nat) : ((e.fed a b z q).quiet e).z.out = e.z.out := by
  unfold Fed.quiet Enc.fed
  dsimp only
  split <;> simp_all

/-- The filters that change and those that do not come to the same. -/
theorem Enc.at_quiet_fed (e : Enc) (a b z : Bool) (q : Nat) :
    (e.fed a b z q).at q ((e.fed a b z q).quiet { e with pinA := a, pinB := b, pinZ := z }) = e.shown a b z := by
  have (x : Filt) (l : Bool) : (if (if l = x.out then none else some q) = some q then (⟨l, 0⟩ : Filt)
      else if (if l = x.out then none else some q).isNone then ⟨l, 0⟩ else x) = ⟨l, 0⟩ := by
    by_cases h : l = x.out <;> simp [h]
  unfold Fed.at Fed.quiet Enc.fed
  simp only [this, Enc.shown]

theorem Blk.filtN_of_regs {v : Blk} {n : Nat} (h : v.reg (POS_CFG n) = s.reg (POS_CFG n)) : v.filtN n = s.filtN n := by
  rw [Blk.filtN, Blk.f_of_reg (x := POS_CFG_FILT_N n) h, Blk.filtN]

/-- The sample in which the filters settle. -/
theorem encSample_eq {u : Blk} {e : Enc} {n t q : Nat} {a b z : Bool} (hn : n < 8) (hu : u.enc n = (e.fed a b z q).quiet { e with pinA := a, pinB := b, pinZ := z })
    (hq : q - (u.filtN n - 1) = t) : Blk.encSample n (e.fed a b z q) u q = (((u.advance q).setEnc n (e.shown a b z)).edgesAct n t e).moved.passCheck := by
  have he : (u.advance q).enc n = (e.fed a b z q).quiet { e with pinA := a, pinB := b, pinZ := z } := by
    rw [Blk.enc, u.advance_encs q]
    exact hu
  have hf : ((u.advance q).setEnc n (e.shown a b z)).filtN n = u.filtN n :=
    Blk.filtN_of_regs (u.reg_advance q (cntWord_low (by simp only [POS_CFG]; omega)))
  unfold Blk.encSample Blk.edgesAct
  dsimp only
  rw [he, Enc.at_quiet_fed, hf, hq, show ((e.fed a b z q).quiet { e with pinA := a, pinB := b, pinZ := z }).ab = e.ab from e.ab_quiet_fed a b z q,
    show ((e.fed a b z q).quiet { e with pinA := a, pinB := b, pinZ := z }).z.out = e.z.out from e.z_quiet_fed a b z q]

theorem encLevels_eq {n t k : Nat} {a b z : Bool} (hn : n < 8) (hen : s.fb (POS_CFG_EN n) = true) (hk : s.filtN n ≤ k) (ha : (s.enc n).a.run = 0)
    (hb : (s.enc n).b.run = 0) (hz : (s.enc n).z.run = 0) (hne : a ≠ (s.enc n).a.out ∨ b ≠ (s.enc n).b.out ∨ z ≠ (s.enc n).z.out) :
    ∃ v, s.Settled v n t a b z ∧ encLevels n t a b z k s = (v.edgesAct n t (s.enc n)).edgesClose := by
  have h1 : 1 ≤ s.filtN n := by
    unfold Blk.filtN atLeast1
    omega
  have hlow (x : Nat) (hx : x < 0x180002) (u : Blk) (q : Nat) : (u.advance q).reg x = u.reg x := u.reg_advance q (cntWord_low hx)
  unfold encLevels
  extract_lets x s1 e len f s2 s3
  have he : e = { s.enc n with pinA := a, pinB := b, pinZ := z } := Blk.enc_setEnc_same _ _ _
  have hf : f = (s.enc n).fed a b z (t + (s.filtN n - 1)) := by
    rw [show f = ⟨e.a.feed len t k a, e.b.feed len t k b, e.z.feed len t k z⟩ from rfl, he, show len = s.filtN n from rfl, Filt.feed_settles ha h1 hk,
      Filt.feed_settles hb h1 hk, Filt.feed_settles hz h1 hk, Enc.fed]
  have h2 : s2.enc n = ((s.enc n).fed a b z (t + (s.filtN n - 1))).quiet { s.enc n with pinA := a, pinB := b, pinZ := z } := by
    rw [← hf, ← he]
    exact Blk.enc_setEnc_same _ _ _
  have h2f : s2.filtN n = s.filtN n := Blk.filtN_of_regs (hlow _ (by simp only [POS_CFG]; omega) _ _)
  have h3 := encSample_eq (t := t) hn h2 (by rw [h2f]; omega)
  refine ⟨(s2.advance (t + (s.filtN n - 1))).setEnc n ((s.enc n).shown a b z), ⟨Blk.enc_setEnc_same _ _ _, ?_, ?_, ?_⟩, ?_⟩
  · exact ((s2.advance_held _).trans (s1.advance_held t))
  · exact (s2.now_advance _).trans (congrArg (max · _) (s1.now_advance t))
  · exact (Blk.Frame.refl s _).put.advance.put.advance.put
  · rw [if_neg (by rw [show s1.fb (POS_CFG_EN n) = s.fb (POS_CFG_EN n) from rfl, hen]; decide), Blk.edgesClose, ← h3,
      show s3 = (f.samples.foldl (Blk.encSample n f) s2).passCheck from rfl, hf, Enc.samples_fed _ hne]
    rfl

end Sys2Proof.Machine
end

section
/-!
PROOFS. The edges of an encoder (R50 to R56): the count step and the index.
-/

namespace Sys2Proof.Machine

variable {o r s : Blk} {p : Nat → Prop}

/-! ### What is kept, read off -/

namespace Blk.EncKept

variable {n : Fin 8}

theorem enc (h : o.EncKept s n) (m : Nat) : s.enc m = o.enc m := by rw [Blk.enc, h.encs, Blk.enc]

theorem fb (h : o.EncKept s n) {x : Fld} (hl : x.addr < 0x020100) (hx : x.addr ≠ POS_STATUS n) : s.fb x = o.fb x := Blk.fb_of_reg (h.word _ hl hx)

theorem rn (h : o.EncKept s n) {a : Nat} (hl : a < 0x020100) (hx : a ≠ POS_STATUS n) : s.rn a = o.rn a := Blk.rn_of_reg (h.word _ hl hx)

theorem val (h : o.EncKept s n) {a : Nat} (hl : a + 1 < 0x020100) (h0 : a ≠ POS_STATUS n) (h1 : a + 1 ≠ POS_STATUS n) : s.val a 2 = o.val a 2 := by
  refine Blk.val_of_reg fun i hi => ?_
  match i, hi with
  | 0, _ => exact h.word _ (by omega) h0
  | 1, _ => exact h.word _ hl h1

theorem edgesClose (h : o.EncKept s n) : o.EncKept s.edgesClose n := by
  unfold Blk.edgesClose
  extract_lets u
  have hu : o.EncKept u n := h.moved.passCheck.passCheck
  exact hu.updateLat.ite hu

end Blk.EncKept

/-- Outside the line clock and shuttle mode nothing follows the edges. -/
theorem Blk.edgesClose_at_rest (hr : s.running = false) (hs : s.shuttle = false) : s.edgesClose = s := by
  have hm : s.moved = s := by
    unfold Blk.moved
    simp [hr, hs]
  have hp : s.passCheck = s := by
    unfold Blk.passCheck
    simp [hs]
  unfold Blk.edgesClose
  dsimp only
  rw [hm, hp, hp, hr, if_neg Bool.false_ne_true]

/-! ### The history (R52) -/

/-- `s` with the history `l` of encoder `n`. -/
def Blk.withHist (s : Blk) (n : Nat) (l : List Bool) : Blk := s.setEnc n { s.enc n with hist := l }

theorem Blk.histAdd_kept (s : Blk) (n : Fin 8) (ill : Bool) : ∃ l, (s.withHist n l).EncKept (s.histAdd n ill) n := by
  unfold Blk.histAdd
  extract_lets w e h u lim
  exact ⟨h, (Blk.EncKept.refl u n).encFault.ite (.refl u n)⟩

/-- One transition alone is never too many: a LIMIT of 0 is off. -/
theorem Blk.histAdd_first {n : Nat} (hh : (s.enc n).hist = []) (ill : Bool) : ∃ l, s.histAdd n ill = s.withHist n l := by
  unfold Blk.histAdd
  extract_lets w e h u lim
  refine ⟨h, if_neg fun hlim => ?_⟩
  have hle : (h.filter id).length ≤ 1 := by
    rw [show h = [ill].take w by simp only [h, e, hh]]
    exact (List.length_filter_le _ _).trans (List.length_take_le' _ _)
  omega

/-! ### The count step (R50, R51, R61) -/

/-- The words that a legal edge of encoder `n` writes. -/
def edgeWord (n a : Nat) : Prop := a = POS_COUNT n ∨ a = POS_COUNT n + 1 ∨ a = POS_STATUS n ∨ a = POS_INTERVAL n

/-- `c` is `s` after an edge of encoder `n` has acted, before it joins the history. -/
structure Blk.Edged (s c : Blk) (n : Nat) (q : Nat → Prop) : Prop where
  z : (c.enc n).z = (s.enc n).z
  armed : (c.enc n).zArmed = (s.enc n).zArmed
  hist : (c.enc n).hist = (s.enc n).hist
  held : c.held = s.held
  now : c.now = s.now
  frame : s.Frame c q

theorem Blk.count_word (s : Blk) {a : Nat} (src k : Nat) (ha : a < 0x180002) : (s.count src k).reg a = s.reg a :=
  (Blk.RegsBut.refl s fun _ => False).count a (cntWord_low ha) id

/-- The edge of the master's encoder is counted. -/
def Blk.edgeCounted (s : Blk) (n : Nat) (rev : Bool) : Blk := if s.masterEnc = some n then s.count (if rev then 0x06 else 0x05) else s

theorem Blk.edgeCounted_spec (s : Blk) (n : Nat) (rev : Bool) : (s.edgeCounted n rev).encs = s.encs ∧ (s.edgeCounted n rev).held = s.held ∧
    (s.edgeCounted n rev).now = s.now ∧ s.Frame (s.edgeCounted n rev) fun _ => False := by
  unfold Blk.edgeCounted
  split
  · exact ⟨s.count_encs _ _, s.count_held _ _, s.count_now _ _, (Blk.Frame.refl s _).count⟩
  · exact ⟨rfl, rfl, rfl, .refl s _⟩

/-- Count, direction and interval of a legal edge of size `d`, stamped `t`. -/
def Blk.stepped (s : Blk) (n t : Nat) (d : Int) (ok : Bool) : Blk :=
  let u := (s.setSval (POS_COUNT n) 2 48 (s.encCount n + d)).setF (POS_STATUS_DIR n) (b2n (decide (d < 0)))
  match (s.enc n).edge with
  | some t0 => if ok then u.wn (POS_INTERVAL n) (satU24 (t - t0)) else u
  | none => u

theorem Blk.stepped_spec (s : Blk) (n t : Nat) (d : Int) (ok : Bool) : s.OnlyRegs (s.stepped n t d ok) (edgeWord n) ∧
    (s.stepped n t d ok).val (POS_COUNT n) 2 = wrapTo 48 (s.encCount n + d) ∧ (s.stepped n t d ok).fb (POS_STATUS_DIR n) = decide (d < 0) := by
  unfold Blk.stepped
  extract_lets u
  have hv : u.val (POS_COUNT n) 2 = wrapTo 48 (s.encCount n + d) :=
    (Blk.val_setF_ne _ _ _ _ _ (by simp only [POS_COUNT, POS_STATUS]; omega)).trans
      ((Blk.val_setVal_same 2 s _ _).trans (Nat.mod_eq_of_lt (wrapTo_lt 48 _)))
  have hd : u.fb (POS_STATUS_DIR n) = decide (d < 0) := by
    rw [Blk.fb_setF_same _ _ _ (le_refl 4) (show 4 < 24 by decide)]
    cases decide (d < 0) <;> rfl
  have hO : s.OnlyRegs u (edgeWord n) := (((Blk.OnlyRegs.refl s _).wn (.inl rfl)).wn (.inr (.inl rfl))).setF (x := POS_STATUS_DIR n) (.inr (.inr (.inl rfl)))
  clear_value u
  split
  · split
    · refine ⟨hO.wn (.inr (.inr (.inr rfl))), (Blk.val_wn_ne _ _ _ _ _ (by simp only [POS_COUNT, POS_INTERVAL]; omega)).trans hv, ?_⟩
      rw [Blk.fb_of_reg (x := POS_STATUS_DIR n) (Blk.reg_wn_ne _ _ (by simp only [POS_STATUS, POS_INTERVAL]; omega)), hd]
    · exact ⟨hO, hv, hd⟩
  · exact ⟨hO, hv, hd⟩

theorem Blk.legalEdge_eq (s : Blk) (n t : Nat) (d : Int) : ∃ ok, s.legalEdge n t d =
    (((s.stepped n t (if s.fb (POS_CFG_INVERT n) then -d else d) ok).setEnc n { s.enc n with edge := some t, valid := ok, drop := false }).edgeCounted n
      (decide ((if s.fb (POS_CFG_INVERT n) then -d else d) < 0))).histAdd n false := ⟨_, rfl⟩

theorem Blk.legalEdge_spec (s : Blk) {n : Nat} (hn : n < 8) (t : Nat) (d : Int) : ∃ c, s.legalEdge n t d = c.histAdd n false ∧ s.Edged c n (edgeWord n) ∧
    c.val (POS_COUNT n) 2 = wrapTo 48 (s.encCount n + if s.fb (POS_CFG_INVERT n) then -d else d) ∧
    c.fb (POS_STATUS_DIR n) = decide ((if s.fb (POS_CFG_INVERT n) then -d else d) < 0) ∧ (c.enc n).edge = some t := by
  obtain ⟨ok, he⟩ := s.legalEdge_eq n t d
  generalize hst : (if s.fb (POS_CFG_INVERT n) then -d else d) = step at he ⊢
  obtain ⟨hO, hv, hd⟩ := s.stepped_spec n t step ok
  generalize s.stepped n t step ok = u at he hO hv hd
  generalize hx : ({ s.enc n with edge := some t, valid := ok, drop := false } : Enc) = x at he
  have hux : (u.setEnc n x).enc n = x := Blk.enc_setEnc_same _ _ _
  have huh : (u.setEnc n x).held = s.held := by
    show u.held = s.held
    rw [hO.1]
  have hun : (u.setEnc n x).now = s.now := by
    show u.now = s.now
    rw [hO.1]
  have huv : (u.setEnc n x).val (POS_COUNT n) 2 = wrapTo 48 (s.encCount n + step) := (Blk.val_put _ _).trans hv
  have hud : (u.setEnc n x).fb (POS_STATUS_DIR n) = decide (step < 0) := (Blk.fb_put _).trans hd
  have huF : s.Frame (u.setEnc n x) (edgeWord n) := (show s.Frame u _ from ⟨hO.regsBut, hO.calm⟩).put
  generalize u.setEnc n x = w at he hux huh hun huv hud huF
  obtain ⟨ce, ch, cn, cF⟩ := w.edgeCounted_spec n (decide (step < 0))
  generalize w.edgeCounted n (decide (step < 0)) = c at he ce ch cn cF
  have hcx : c.enc n = x := by rw [Blk.enc, ce]; exact hux
  have hword (i : Nat) (hi : i < 0x180002) : c.reg i = w.reg i := cF.1 i (cntWord_low hi) id
  refine ⟨c, he, ⟨?_, ?_, ?_, ch.trans huh, cn.trans hun, huF.trans (cF.mono fun _ h => h.elim)⟩, ?_, ?_, ?_⟩
  · rw [hcx, ← hx]
  · rw [hcx, ← hx]
  · rw [hcx, ← hx]
  · exact (Blk.val_of_reg fun i hi => hword _ (by simp only [POS_COUNT]; omega)).trans huv
  · exact (Blk.fb_of_reg (x := POS_STATUS_DIR n) (hword _ (by simp only [POS_STATUS]; omega))).trans hud
  · rw [hcx, ← hx]

/-- The words that an illegal transition of encoder `n` writes. -/
def illegalWord (n a : Nat) : Prop := a = POS_STATUS n ∨ a = POS_ILL_COUNT n

theorem Blk.illegalEdge_spec (s : Blk) {n : Nat} (hn : n < 8) (i j : Nat) : ∃ c, s.illegalEdge n i j = c.histAdd n true ∧ s.Edged c n (illegalWord n) ∧
    c.fb (POS_STATUS_UNCERTAIN n) = true ∧ c.rn (POS_ILL_COUNT n) = min (s.rn (POS_ILL_COUNT n) + 1) u24max := by
  unfold Blk.illegalEdge
  extract_lets was s1 e s2 s3
  have hword (a : Nat) (ha : a < 0x180002) : s1.reg a = ((s.setF (POS_STATUS_UNCERTAIN n) 1).incSat (POS_ILL_COUNT n)).reg a := Blk.count_word _ _ _ ha
  have hO : s.OnlyRegs ((s.setF (POS_STATUS_UNCERTAIN n) 1).incSat (POS_ILL_COUNT n)) (illegalWord n) :=
    ((Blk.OnlyRegs.refl s _).setF (x := POS_STATUS_UNCERTAIN n) (.inl rfl)).wn (.inr rfl)
  have h1u : s1.fb (POS_STATUS_UNCERTAIN n) = true := by
    rw [Blk.fb_of_reg (x := POS_STATUS_UNCERTAIN n) (hword _ (by simp only [POS_STATUS]; omega)), Blk.fb, Blk.f_incSat_ne _ (by simp [POS_STATUS, POS_ILL_COUNT])]
    exact Blk.fb_setF_same s (POS_STATUS_UNCERTAIN n) 1 (le_refl 3) (show 3 < 24 by decide)
  have h1i : s1.rn (POS_ILL_COUNT n) = min (s.rn (POS_ILL_COUNT n) + 1) u24max := by
    rw [Blk.rn_of_reg (hword _ (by simp only [POS_ILL_COUNT]; omega)), Blk.rn_incSat_same, Blk.rn_setF_ne _ _ _ (by simp only [POS_ILL_COUNT, POS_STATUS]; omega)]
  have h1e : s1.encs = s.encs := by rw [show s1 = Blk.count _ 0x07 from rfl, Blk.count_encs, hO.1]
  have h1h : s1.held = s.held := by rw [show s1 = Blk.count _ 0x07 from rfl, Blk.count_held, hO.1]
  have h1n : s1.now = s.now := by rw [show s1 = Blk.count _ 0x07 from rfl, Blk.count_now, hO.1]
  have h1F : s.Frame s1 (illegalWord n) := (show s.Frame _ _ from ⟨hO.regsBut, hO.calm⟩).count
  clear_value s1
  have h1x : s1.enc n = s.enc n := by rw [Blk.enc, h1e, Blk.enc]
  have h2x : s2.enc n = { s1.enc n with drop := true } := Blk.enc_setEnc_same _ _ _
  have h2r (a : Nat) : s2.reg a = s1.reg a := Blk.reg_put a
  have h2 : s.Edged s2 n (illegalWord n) := by
    rw [h1x] at h2x
    exact ⟨by rw [h2x], by rw [h2x], by rw [h2x], h1h, h1n, h1F.put⟩
  clear_value s2
  refine ⟨s3, rfl, ?_⟩
  have hu : s2.fb (POS_STATUS_UNCERTAIN n) = true := (Blk.fb_of_reg (h2r _)).trans h1u
  have hi : s2.rn (POS_ILL_COUNT n) = min (s.rn (POS_ILL_COUNT n) + 1) u24max := (Blk.rn_of_reg (h2r _)).trans h1i
  unfold s3
  split
  · exact ⟨h2, hu, hi⟩
  · exact ⟨⟨h2.z, h2.armed, h2.hist, h2.held, h2.now, h2.frame.raise⟩, (Blk.fb_of_reg (Blk.reg_raise ..)).trans hu, (Blk.rn_of_reg (Blk.reg_raise ..)).trans hi⟩

/-! ### The index (R54 to R56) -/

/-- In `u` the capture of encoder `n` shows its count in `o`. -/
structure Blk.Capturing (o u : Blk) (n : Fin 8) : Prop where
  capture : u.val (POS_IDX_CAPTURE n) 2 = o.val (POS_COUNT n) 2
  config : u.reg (POS_IDX_CFG n) = o.reg (POS_IDX_CFG n)
  held : u.held = o.held

/-- … and IDX_SEEN is set. -/
def Blk.Captured (o u : Blk) (n : Fin 8) : Prop := o.Capturing u n ∧ u.fb (POS_STATUS_IDX_SEEN n) = true

namespace Blk.Capturing

variable {n : Fin 8} {u : Blk}

theorem of_regs (h : o.Capturing s n) (h0 : u.reg (POS_IDX_CAPTURE n) = s.reg (POS_IDX_CAPTURE n))
    (h1 : u.reg (POS_IDX_CAPTURE n + 1) = s.reg (POS_IDX_CAPTURE n + 1)) (hc : u.reg (POS_IDX_CFG n) = s.reg (POS_IDX_CFG n)) (hh : u.held = s.held) :
    o.Capturing u n := by
  refine ⟨(Blk.val_of_reg fun i hi => ?_).trans h.capture, hc.trans h.config, hh.trans h.held⟩
  match i, hi with
  | 0, _ => exact h0
  | 1, _ => exact h1

theorem setEnc (h : o.Capturing s n) {x : Enc} : o.Capturing (s.setEnc n x) n := h.of_regs rfl rfl rfl rfl

theorem kept (h : o.Capturing s n) (g : s.EncKept u n) : o.Capturing u n := by
  have hn := n.isLt
  exact h.of_regs (g.word _ (by simp only [POS_IDX_CAPTURE]; omega) (by simp only [POS_IDX_CAPTURE, POS_STATUS]; omega))
    (g.word _ (by simp only [POS_IDX_CAPTURE]; omega) (by simp only [POS_IDX_CAPTURE, POS_STATUS]; omega))
    (g.word _ (by simp only [POS_IDX_CFG]; omega) (by simp only [POS_IDX_CFG, POS_STATUS]; omega)) g.held

theorem wn (h : o.Capturing s n) {a v : Nat} (ha : a ≠ POS_IDX_CAPTURE n) (hb : a ≠ POS_IDX_CAPTURE n + 1) (hc : a ≠ POS_IDX_CFG n) :
    o.Capturing (s.wn a v) n := h.of_regs (Blk.reg_wn_ne _ _ ha.symm) (Blk.reg_wn_ne _ _ hb.symm) (Blk.reg_wn_ne _ _ hc.symm) (Blk.wn_held _ _ _)

/-- The reference is kept, and IDX_SEEN set. -/
theorem seen (h : o.Capturing s n) {x : Enc} : o.Captured ((s.setEnc n x).setF (POS_STATUS_IDX_SEEN n) 1) n := by
  refine ⟨h.setEnc.wn ?_ ?_ ?_, Blk.fb_setF_same _ _ _ (le_refl 6) (show 6 < 24 by decide)⟩
  · simp only [POS_STATUS, POS_IDX_CAPTURE]; omega
  · simp only [POS_STATUS, POS_IDX_CAPTURE]; omega
  · simp only [POS_STATUS, POS_IDX_CFG]; omega

/-- A deviation is shown, raised and counted. -/
theorem deviation (h : o.Capturing s n) {d : Int} {d1 : Nat} : o.Capturing (((s.setSval (POS_IDX_DEV n) 1 24 d).raise 0x121 n n d1).count 0x08) n := by
  have h1 : o.Capturing (s.setSval (POS_IDX_DEV n) 1 24 d) n := by
    refine h.wn ?_ ?_ ?_
    · simp only [POS_IDX_DEV, POS_IDX_CAPTURE]; omega
    · simp only [POS_IDX_DEV, POS_IDX_CAPTURE]; omega
    · simp only [POS_IDX_DEV, POS_IDX_CFG]; omega
  exact h1.kept (Blk.EncKept.refl _ n).raise.count

theorem corrected (h : o.Capturing s n) {x : Int} : o.Capturing (s.setSval (POS_COUNT n) 2 48 x) n := by
  refine Capturing.wn (h.wn ?_ ?_ ?_) ?_ ?_ ?_
  · simp only [POS_COUNT, POS_IDX_CAPTURE]; omega
  · simp only [POS_COUNT, POS_IDX_CAPTURE]; omega
  · simp only [POS_COUNT, POS_IDX_CFG]; omega
  · simp only [POS_COUNT, POS_IDX_CAPTURE]; omega
  · simp only [POS_COUNT, POS_IDX_CAPTURE]; omega
  · simp only [POS_COUNT, POS_IDX_CFG]; omega

end Blk.Capturing

namespace Blk.Captured

variable {n : Fin 8} {u : Blk}

theorem kept (h : o.Captured s n) (g : s.EncKept u n) : o.Captured u n := ⟨h.1.kept g, (g.flag 6 (by decide) (by decide)).trans h.2⟩

theorem setEnc (h : o.Captured s n) {x : Enc} : o.Captured (s.setEnc n x) n := ⟨h.1.setEnc, (Blk.fb_put _).trans h.2⟩

theorem encFault (h : o.Captured s n) {c : Nat} : o.Captured (s.encFault n c) n := h.kept (Blk.EncKept.refl s n).encFault

theorem ite {c : Prop} [Decidable c] (hs : o.Captured s n) (hu : o.Captured u n) : o.Captured (if c then s else u) n := by
  split
  · exact hs
  · exact hu

end Blk.Captured

/-- The capture is taken: the index is no longer armed. -/
theorem Blk.capturing_taken (s : Blk) (n : Fin 8) {x : Enc} : s.Capturing ((s.setSval (POS_IDX_CAPTURE n) 2 48 (s.encCount n)).setEnc n x) n := by
  have hw : wrapTo 48 (s.encCount n) = s.val (POS_COUNT n) 2 := by
    rw [Blk.encCount, Blk.sval, wrapTo_sext, Nat.mod_eq_of_lt (s.val_lt _ 2)]
  refine Blk.Capturing.setEnc ⟨?_, Blk.reg_setVal_ne 2 _ _ _ _ (.inl (by simp only [POS_IDX_CFG, POS_IDX_CAPTURE]; omega)), ?_⟩
  · rw [hw, Blk.val_setVal_same, Nat.mod_eq_of_lt (s.val_lt _ 2)]
  · rw [Blk.setVal_eq]

theorem Blk.indexCapture_spec (s : Blk) (n : Fin 8) : s.Captured (s.indexCapture n) n := by
  unfold Blk.indexCapture
  extract_lets e cap rev s1 s2 keep cpr lim s3 e3
  have hkeep {t : Blk} {x : Int} (ht : s.Capturing t n) : s.Captured (keep t x) n := ht.seen
  have h2 : s.Capturing s2 n := s.capturing_taken n
  clear_value s2 keep
  split
  · exact hkeep h2
  · extract_lets want d s4 corr s5 w s6 k e6 s7
    have h4 : s.Capturing s4 n := h2.deviation
    have h5 : s.Captured s5 n := hkeep h4.corrected
    have h6 : s.Captured s6 n := (Blk.Captured.ite (h5.kept (Blk.EncKept.refl _ n).put) h5).ite ((hkeep h4).encFault.ite (hkeep h4))
    have h7 : s.Captured s7 n := h6.setEnc
    have h3 : s.Captured s3 n := hkeep h2
    exact (hkeep h2).ite (h3.setEnc.ite (h7.encFault.ite h7))

end Sys2Proof.Machine
end

section
/-!
PROOFS. What an encoder's inputs do (O2).
-/

namespace Sys2Proof.Machine

variable {o r s : Blk} {p : Nat → Prop}

/-! ### CLEAR_FAULT (R58) -/

theorem posClear_spec (s : Blk) (n : Nat) : (posClear n s).f (POS_STATUS_FAULT n) = 0 ∧ (posClear n s).f (POS_STATUS_FAULT_CAUSE n) = 0 ∧
    (posClear n s).f (POS_STATUS_IDX_SEEN n) = 0 ∧ ((posClear n s).enc n).hist = [] ∧ ((posClear n s).enc n).mism = 0 ∧
    ((posClear n s).enc n).idxPrev = none ∧ (∀ m, m ≠ n → (posClear n s).enc m = s.enc m) ∧ s.Frame (posClear n s) (· = POS_STATUS n) := by
  unfold posClear
  extract_lets u
  have h1 : u.f (POS_STATUS_FAULT n) = 0 :=
    (Blk.f_setF_ne _ _ _ _ (by simp) (by simp) (by simp) (by simp)).trans
      ((Blk.f_setF_ne _ _ _ _ (by simp) (by simp) (by simp) (by simp)).trans (Blk.f_setF_same _ _ _ (by simp) (by simp)))
  have h2 : u.f (POS_STATUS_FAULT_CAUSE n) = 0 :=
    (Blk.f_setF_ne _ _ _ _ (by simp) (by simp) (by simp) (by simp)).trans (Blk.f_setF_same _ _ _ (by simp) (by simp))
  have h3 : u.f (POS_STATUS_IDX_SEEN n) = 0 := Blk.f_setF_same _ _ _ (by simp) (by simp)
  have hF : s.Frame u (· = POS_STATUS n) :=
    (((Blk.Frame.refl s (· = POS_STATUS n)).setF (x := POS_STATUS_FAULT n) rfl).setF (x := POS_STATUS_FAULT_CAUSE n) rfl).setF (x := POS_STATUS_IDX_SEEN n) rfl
  have he (m : Nat) : u.enc m = s.enc m := rfl
  clear_value u
  rw [Blk.enc_setEnc_same]
  exact ⟨(Blk.f_put _).trans h1, (Blk.f_put _).trans h2, (Blk.f_put _).trans h3, rfl, rfl, rfl,
    fun m hm => (Blk.enc_setEnc_ne _ _ hm).trans (he m), hF.put⟩

/-! ### Edges of A and B -/

theorem abStep_self (i : Nat) : abStep i i = none := by
  match i with
  | 0 | 1 | 2 | 3 => rfl
  | _ + 4 => rfl

/-- Both levels changed: an illegal transition. -/
theorem abStep_both (a b : Bool) : abStep (b2n (!a) * 2 + b2n (!b)) (b2n a * 2 + b2n b) = none := by
  cases a <;> cases b <;> rfl

theorem Blk.edgesAct_ab {v : Blk} {n t : Nat} {e : Enc} (hab : (v.enc n).ab ≠ e.ab) (hz : ((v.abChange n e.ab t).enc n).z.out = e.z.out)
    (hg : (v.abChange n e.ab t).fb (POS_IDX_CFG_GATED n) = false ∨ ((v.abChange n e.ab t).enc n).zArmed = false) :
    v.edgesAct n t e = v.abChange n e.ab t := by
  unfold Blk.edgesAct
  dsimp only
  rw [if_neg hab, if_pos hz]
  unfold Blk.gateCheck
  refine if_neg ?_
  rcases hg with h | h <;> simp [h]

theorem Blk.edgesAct_z {v : Blk} {n t : Nat} {e : Enc} (hab : (v.enc n).ab = e.ab) (hz : (v.enc n).z.out ≠ e.z.out) :
    v.edgesAct n t e = (v.zChange n).gateCheck n := by
  unfold Blk.edgesAct
  dsimp only
  rw [if_pos hab, if_neg hz]

section
variable {v c : Blk} {n : Fin 8} {t k : Nat} {x y z ill : Bool} {q : Nat → Prop}

theorem Blk.Settled.reg (hv : s.Settled v n t x y z) {a : Nat} (ha : a < 0x180002) : v.reg a = s.reg a := hv.frame.1 a (cntWord_low ha) id

theorem Blk.Settled.held_nil (hv : s.Settled v n t x y z) (hE : v.Edged c n q) (hh : s.held = []) : c.held = [] :=
  (hE.held.trans hv.held).trans hh

theorem Blk.Settled.edge_frame (hv : s.Settled v n t x y z) (hE : v.Edged c n q) : s.Frame c q := (hv.frame.mono fun _ h => h.elim).trans hE.frame

/-- An edge of A or B, which brings no index with it. -/
theorem Blk.Settled.edgesAct (hv : s.Settled v n t x y (s.enc n).z.out) (hne : (s.enc n).ab ≠ b2n x * 2 + b2n y)
    (hg : s.fb (POS_IDX_CFG_GATED n) = false ∨ (s.enc n).zArmed = false) (hE : v.Edged c n q) (hq : ¬q (POS_IDX_CFG n))
    (hc : v.abChange n (s.enc n).ab t = c.histAdd n ill) : v.edgesAct n t (s.enc n) = c.histAdd n ill := by
  have hn := n.isLt
  obtain ⟨l, hK⟩ := c.histAdd_kept n ill
  have henc : (c.histAdd n ill).enc n = { c.enc n with hist := l } := (hK.enc n).trans (Blk.enc_setEnc_same _ _ _)
  have hgate : (c.histAdd n ill).fb (POS_IDX_CFG_GATED n) = s.fb (POS_IDX_CFG_GATED n) :=
    (hK.fb (x := POS_IDX_CFG_GATED n) (by simp only [POS_IDX_CFG]; omega) (by simp only [POS_IDX_CFG, POS_STATUS]; omega)).trans
      ((Blk.fb_put _).trans ((hv.edge_frame hE).1.fb (x := POS_IDX_CFG_GATED n) (cntWord_low (by simp only [POS_IDX_CFG]; omega)) hq))
  rw [← hc] at henc hgate ⊢
  refine Blk.edgesAct_ab ?_ ?_ ?_
  · rw [hv.enc, Enc.ab_shown]
    exact hne.symm
  · rw [henc]
    show (c.enc n).z.out = _
    rw [hE.z, hv.enc, Enc.shown]
  · rw [hgate, henc]
    refine hg.imp_right fun h => ?_
    show (c.enc n).zArmed = false
    rw [hE.armed, hv.enc]
    exact h

/-- What the edge has made of the encoder stands once the command is over. -/
theorem Blk.Edged.closes (hh : c.held = []) : ∃ l, (c.withHist n l).EncKept (c.histAdd n ill).edgesClose.settle n := by
  obtain ⟨l, hK⟩ := c.histAdd_kept n ill
  exact ⟨l, hK.edgesClose.settle hh⟩

end

/-- Outside the line clock and shuttle mode, while a track is at work, nothing else follows what touches the encoders' words alone. -/
theorem Blk.Frame.closes_at_rest {c : Blk} {q : Nat → Prop} (hF : s.Frame c q) (hq : ∀ a, q a → a < 0x020100) (hr : s.running = false)
    (hs : s.shuttle = false) (hi : s.allIdle = false) : c.edgesClose.settle = c := by
  have hno (a : Nat) (ha : 0x020100 ≤ a) : ¬q a := fun h => absurd (hq a h) (by omega)
  have hr' : c.running = false := (hF.1.fb (x := LCK_STATUS_RUNNING) (by decide) (hno _ (by decide))).trans hr
  have hs' : c.shuttle = false := (hF.1.fb (x := SHT_CFG_EN) (by decide) (hno _ (by decide))).trans hs
  have hi' : c.allIdle = false := (hF.1.allIdle fun t _ => hno _ (by simp only [PGE_TRK_STATUS]; omega)).trans hi
  rw [Blk.edgesClose_at_rest hr' hs', Blk.settle_of_busy hi']

section
variable {n : Fin 8} {t k : Nat} {x y : Bool} (hen : s.fb (POS_CFG_EN n) = true) (hk : s.filtN n ≤ k) (ha : (s.enc n).a.run = 0)
  (hb : (s.enc n).b.run = 0) (hz : (s.enc n).z.run = 0) (hp : (s.enc n).z.out = (s.enc n).pinZ)
  (hg : s.fb (POS_IDX_CFG_GATED n) = false ∨ (s.enc n).zArmed = false)
include hen hk ha hb hz hp hg

/-- A legal step: the edge acts, joins the history, and the command closes. -/
theorem quadrature_legal {d : Int} (hd : abStep (s.enc n).ab (b2n x * 2 + b2n y) = some d) : ∃ c, s.Frame c (edgeWord n) ∧
    quadrature n t x y k s = (c.histAdd n false).edgesClose ∧ c.held = s.held ∧ c.now = max (max s.now t) (t + (s.filtN n - 1)) ∧
    (c.enc n).hist = (s.enc n).hist ∧ c.val (POS_COUNT n) 2 = wrapTo 48 (s.encCount n + if s.fb (POS_CFG_INVERT n) then -d else d) ∧
    c.fb (POS_STATUS_DIR n) = decide ((if s.fb (POS_CFG_INVERT n) then -d else d) < 0) ∧ (c.enc n).edge = some t := by
  have hn := n.isLt
  have hne : (s.enc n).ab ≠ b2n x * 2 + b2n y := fun h => by rw [← h, abStep_self] at hd; cases hd
  have hout : x ≠ (s.enc n).a.out ∨ y ≠ (s.enc n).b.out ∨ (s.enc n).pinZ ≠ (s.enc n).z.out := by
    by_contra h
    push Not at h
    exact hne (by rw [h.1, h.2.1]; rfl)
  obtain ⟨v, hv, he⟩ := encLevels_eq (t := t) hn hen hk ha hb hz hout
  rw [← hp] at hv
  obtain ⟨c, hc, hE, hval, hdir, hedge⟩ := v.legalEdge_spec hn t d
  have hab : v.abChange n (s.enc n).ab t = c.histAdd n false := by
    unfold Blk.abChange
    dsimp only
    rw [hv.enc, Enc.ab_shown, hd]
    exact hc
  have hcount : v.encCount n = s.encCount n := Blk.sval_of_reg fun i hi => hv.reg (by simp only [POS_COUNT]; omega)
  have hinv : v.fb (POS_CFG_INVERT n) = s.fb (POS_CFG_INVERT n) := Blk.fb_of_reg (hv.reg (by simp only [POS_CFG]; omega))
  rw [hcount, hinv] at hval
  rw [hinv] at hdir
  refine ⟨c, hv.edge_frame hE, ?_, hE.held.trans hv.held, hE.now.trans hv.now, ?_, hval, hdir, hedge⟩
  · rw [quadrature, he, hv.edgesAct hne hg hE (by simp only [edgeWord, POS_IDX_CFG, POS_COUNT, POS_STATUS, POS_INTERVAL]; omega) hab]
  · rw [hE.hist, hv.enc, Enc.shown]

/-- A transition of both levels. -/
theorem quadrature_illegal (hx : x ≠ (s.enc n).a.out) (hy : y ≠ (s.enc n).b.out) : ∃ c, s.Frame c (illegalWord n) ∧
    quadrature n t x y k s = (c.histAdd n true).edgesClose ∧ c.held = s.held ∧ c.now = max (max s.now t) (t + (s.filtN n - 1)) ∧
    (c.enc n).hist = (s.enc n).hist ∧ c.fb (POS_STATUS_UNCERTAIN n) = true ∧ c.rn (POS_ILL_COUNT n) = min (s.rn (POS_ILL_COUNT n) + 1) u24max := by
  have hn := n.isLt
  have hab0 : (s.enc n).ab = b2n (!x) * 2 + b2n (!y) := by
    rw [Bool.not_eq.2 hx, Bool.not_eq.2 hy]
    rfl
  have hne : (s.enc n).ab ≠ b2n x * 2 + b2n y := by
    rw [hab0]
    cases x <;> cases y <;> decide
  obtain ⟨v, hv, he⟩ := encLevels_eq (t := t) hn hen hk ha hb hz (.inl hx : x ≠ (s.enc n).a.out ∨ y ≠ (s.enc n).b.out ∨ (s.enc n).pinZ ≠ (s.enc n).z.out)
  rw [← hp] at hv
  obtain ⟨c, hc, hE, hu, hi⟩ := v.illegalEdge_spec hn (s.enc n).ab (v.enc n).ab
  have hab : v.abChange n (s.enc n).ab t = c.histAdd n true := by
    unfold Blk.abChange
    dsimp only
    rw [show abStep (s.enc n).ab (v.enc n).ab = none by rw [hv.enc, Enc.ab_shown, hab0, abStep_both]]
    exact hc
  rw [Blk.rn_of_reg (hv.reg (a := POS_ILL_COUNT n) (by simp only [POS_ILL_COUNT]; omega))] at hi
  refine ⟨c, hv.edge_frame hE, ?_, hE.held.trans hv.held, hE.now.trans hv.now, ?_, hu, hi⟩
  · rw [quadrature, he, hv.edgesAct hne hg hE (by simp only [illegalWord, POS_IDX_CFG, POS_ILL_COUNT, POS_STATUS]; omega) hab]
  · rw [hE.hist, hv.enc, Enc.shown]

end

/-! ### The index -/

/-- The first capture after enabling has no reference to be held against. -/
theorem Blk.indexCapture_first {n : Nat} (h : (s.enc n).idxPrev = none) : (s.indexCapture n).now = s.now ∧
    s.Frame (s.indexCapture n) fun a => a = POS_IDX_CAPTURE n ∨ a = POS_IDX_CAPTURE n + 1 ∨ a = POS_STATUS n := by
  unfold Blk.indexCapture
  extract_lets e cap rev s1 s2 keep
  have hF : s.Frame s1 fun a => a = POS_IDX_CAPTURE n ∨ a = POS_IDX_CAPTURE n + 1 ∨ a = POS_STATUS n :=
    (Blk.Frame.refl s _).setSval2 (.inl rfl) (.inr (.inl rfl))
  have hnow : s1.now = s.now := rfl
  have he : e.idxPrev = none := h
  rw [he]
  exact ⟨hnow, hF.put.put.setF (x := POS_STATUS_IDX_SEEN n) (.inr (.inr rfl))⟩

section
variable {n : Fin 8} {t k : Nat} {z : Bool} (hen : s.fb (POS_CFG_EN n) = true) (hk : s.filtN n ≤ k) (ha : (s.enc n).a.run = 0)
  (hb : (s.enc n).b.run = 0) (hz : (s.enc n).z.run = 0) (hout : (s.enc n).z.out = !z) (harm : (s.enc n).zArmed = true)
  (hpol : s.fb (POS_CFG_IDX_POL n) = z) (hg : s.fb (POS_IDX_CFG_GATED n) = false ∨ (s.enc n).ab = s.f (POS_IDX_CFG_GATE_AB n))
include hen hk ha hb hz hout harm hpol hg

/-- Z becomes active with A and B where they stand: the armed index captures. -/
theorem encLevels_index : ∃ v, s.Settled v n t (s.enc n).a.out (s.enc n).b.out z ∧
    encLevels n t (s.enc n).a.out (s.enc n).b.out z k s = (v.indexCapture n).edgesClose := by
  have hn := n.isLt
  have hzne : z ≠ (s.enc n).z.out := by
    rw [hout]
    cases z <;> decide
  obtain ⟨v, hv, he⟩ := encLevels_eq (t := t) (a := (s.enc n).a.out) (b := (s.enc n).b.out) hn hen hk ha hb hz (.inr (.inr hzne))
  refine ⟨v, hv, ?_⟩
  have hvp : v.fb (POS_CFG_IDX_POL n) = z := (Blk.fb_of_reg (hv.reg (by simp only [POS_CFG]; omega))).trans hpol
  have hcfg : v.reg (POS_IDX_CFG n) = s.reg (POS_IDX_CFG n) := hv.reg (by simp only [POS_IDX_CFG]; omega)
  have hvg : v.fb (POS_IDX_CFG_GATED n) = s.fb (POS_IDX_CFG_GATED n) := Blk.fb_of_reg hcfg
  have hvq : v.f (POS_IDX_CFG_GATE_AB n) = s.f (POS_IDX_CFG_GATE_AB n) := Blk.f_of_reg hcfg
  have hva : (v.enc n).zArmed = true := by rw [hv.enc]; exact harm
  have hvz : (v.enc n).z.out = z := by rw [hv.enc]; rfl
  have hvab : (v.enc n).ab = (s.enc n).ab := by rw [hv.enc]; rfl
  rw [he, Blk.edgesAct_z hvab (by rw [hvz]; exact hzne)]
  congr 1
  unfold Blk.zChange
  extract_lets e
  rw [if_neg (by rw [show e.z.out = z from hvz, hvp]; simp), show e.zArmed = true from hva, hvg]
  cases hgs : s.fb (POS_IDX_CFG_GATED n) with
  | false =>
    have hc : (v.indexCapture n).fb (POS_IDX_CFG_GATED n) = false :=
      (Blk.fb_of_reg (v.indexCapture_spec n).1.config).trans (hvg.trans hgs)
    rw [if_pos (show (true && !false) = true from rfl)]
    unfold Blk.gateCheck
    exact if_neg (by rw [hc]; simp)
  | true =>
    have hgate : (s.enc n).ab = s.f (POS_IDX_CFG_GATE_AB n) := hg.resolve_left (by rw [hgs]; decide)
    rw [if_neg (show ¬(true && !true) = true by decide)]
    unfold Blk.gateCheck
    exact if_pos (by rw [hvg, hgs, hva, hvz, hvp, hvab, hvq, hgate]; simp)

end

/-! ### The obligation -/

theorem exec_quadratureTransition (n : Fin 8) (t : Nat) (a b : Bool) (k : Nat) (s : State) :
    exec (.quadratureTransition n t a b k) s = s.on fun x => (quadrature n t a b k x).settle := rfl

theorem exec_indexCapture (n : Fin 8) (t : Nat) (a b z : Bool) (k : Nat) (s : State) :
    exec (.indexCapture n t a b z k) s = s.on fun x => (encLevels n t a b z k x).settle := rfl

theorem filtN_one {n : Nat} (h : s.f (POS_CFG_FILT_N n) ≤ 1) : s.filtN n = 1 := by
  unfold Blk.filtN atLeast1
  omega

theorem wrapTo_sext_succ (v : Nat) : wrapTo 48 (sext 48 v + 1) = (v + 1) % 2 ^ 48 := by
  unfold wrapTo sext
  split <;> omega

/-- Settles O2: the filters settle in one sample, whose edges act on the encoder alone, and whatever follows them leaves it as it is. -/
theorem encoderInputs : Obligations.EncoderInputs := by
  unfold Obligations.EncoderInputs
  intro s n hs
  have hn := n.isLt
  refine ⟨.of_on (f := posClear n) rfl hs (posClear_spec s.blk n), fun t k hen hk ha hb hz => ⟨fun x y hp hh hg => ⟨fun d hd => ?_, fun hx hy => ?_⟩,
    fun z hout harm hpol hh hg => ?_, fun hN hinv hgate hao hbo hhist hr hsh hi => ⟨fun hp => ⟨?_, ?_⟩, fun z hout harm hprev hpol => ?_⟩⟩⟩
  · refine .of_on (exec_quadratureTransition n t x y k s) hs ?_
    rw [Nat.mul_comm] at hd
    obtain ⟨c, -, he, hch, -, -, hval, hdir, hedge⟩ := quadrature_legal (t := t) hen hk ha hb hz hp hg hd
    obtain ⟨l, hK⟩ := Blk.Edged.closes (n := n) (ill := false) (hch.trans hh)
    rw [he]
    refine ⟨?_, ?_, ?_⟩
    · rw [Blk.encCount, Blk.sval, hK.val (by simp only [POS_COUNT]; omega) (by simp only [POS_COUNT, POS_STATUS]; omega)
        (by simp only [POS_COUNT, POS_STATUS]; omega)]
      exact congrArg (sext 48) hval
    · exact (hK.flag 4 (by decide) (by decide)).trans ((Blk.fb_put _).trans hdir)
    · rw [hK.enc]
      exact (congrArg Enc.edge (Blk.enc_setEnc_same _ _ _)).trans hedge
  · refine .of_on (exec_quadratureTransition n t x y k s) hs ?_
    obtain ⟨c, hF, he, hch, -, -, hu, hi⟩ := quadrature_illegal (t := t) hen hk ha hb hz hp hg hx hy
    obtain ⟨l, hK⟩ := Blk.Edged.closes (n := n) (ill := true) (hch.trans hh)
    rw [he]
    refine ⟨?_, ?_, ?_⟩
    · rw [Blk.encCount, Blk.sval, hK.val (by simp only [POS_COUNT]; omega) (by simp only [POS_COUNT, POS_STATUS]; omega)
        (by simp only [POS_COUNT, POS_STATUS]; omega)]
      exact congrArg (sext 48) (Blk.val_of_reg fun i hi => hF.1 _ (cntWord_low (by simp only [POS_COUNT]; omega))
        (by simp only [illegalWord, POS_COUNT, POS_ILL_COUNT, POS_STATUS]; omega))
    · exact (hK.flag 3 (by decide) (by decide)).trans ((Blk.fb_put _).trans hu)
    · exact (hK.rn (by simp only [POS_ILL_COUNT]; omega) (by simp only [POS_ILL_COUNT, POS_STATUS]; omega)).trans hi
  · refine .of_on (exec_indexCapture n t _ _ z k s) hs ?_
    obtain ⟨v, hv, he⟩ := encLevels_index (t := t) hen hk ha hb hz hout harm hpol hg
    have hC : v.Captured (v.indexCapture n) n := v.indexCapture_spec n
    obtain ⟨hcap, hseen⟩ := hC.kept ((Blk.EncKept.refl _ n).edgesClose.settle (hC.1.held.trans (hv.held.trans hh)))
    rw [he]
    exact ⟨hcap.capture.trans (Blk.val_of_reg fun i hi => hv.reg (by simp only [POS_COUNT]; omega)), hseen⟩
  · refine .of_on (exec_quadratureTransition n t true false k s) hs ?_
    have hd : abStep (s.blk.enc n).ab (b2n true * 2 + b2n false) = some 1 := by
      rw [Enc.ab, hao, hbo]
      rfl
    obtain ⟨c, hF, he, -, hnow, hch, hval, hdir, hedge⟩ := quadrature_legal (t := t) hen hk ha hb hz hp (.inl hgate) hd
    obtain ⟨l, hl⟩ := Blk.histAdd_first (hch.trans hhist) false
    have hFw : s.blk.Frame (c.withHist n l) (edgeWord n) := hF.put
    rw [he, hl, hFw.closes_at_rest (by simp only [edgeWord, POS_COUNT, POS_STATUS, POS_INTERVAL]; omega) hr hsh hi]
    rw [hinv, if_neg Bool.false_ne_true] at hval hdir
    rw [filtN_one hN] at hnow
    refine ⟨?_, (Blk.fb_put _).trans hdir, ?_, ?_, hFw⟩
    · exact (Blk.val_put _ _).trans (hval.trans (wrapTo_sext_succ _))
    · exact (congrArg Enc.edge (Blk.enc_setEnc_same _ _ _)).trans hedge
    · show c.now = _
      omega
  · refine .of_on (exec_quadratureTransition n t true true k s) hs ?_
    obtain ⟨c, hF, he, -, hnow, hch, hu, hill⟩ := quadrature_illegal (t := t) hen hk ha hb hz hp (.inl hgate) (x := true) (y := true)
      (by rw [hao]; decide) (by rw [hbo]; decide)
    obtain ⟨l, hl⟩ := Blk.histAdd_first (hch.trans hhist) true
    have hFw : s.blk.Frame (c.withHist n l) (illegalWord n) := hF.put
    rw [he, hl, hFw.closes_at_rest (by simp only [illegalWord, POS_ILL_COUNT, POS_STATUS]; omega) hr hsh hi]
    rw [filtN_one hN] at hnow
    refine ⟨?_, (Blk.fb_put _).trans hu, (Blk.rn_of_reg (Blk.reg_put _)).trans hill, ?_, hFw⟩
    · exact (Blk.val_put _ _).trans (Blk.val_of_reg fun i hi => hF.1 _ (cntWord_low (by simp only [POS_COUNT]; omega))
        (by simp only [illegalWord, POS_COUNT, POS_ILL_COUNT, POS_STATUS]; omega))
    · show c.now = _
      omega
  · refine .of_on (exec_indexCapture n t false false z k s) hs ?_
    obtain ⟨v, hv, he⟩ := encLevels_index (t := t) hen hk ha hb hz hout harm hpol (.inl hgate)
    obtain ⟨hcap, hseen⟩ := v.indexCapture_spec n
    obtain ⟨hnow, hF⟩ := Blk.indexCapture_first (s := v) (n := n) (by rw [hv.enc]; exact hprev)
    have hFs := (hv.frame.mono fun _ h => h.elim).trans hF
    rw [hao, hbo] at he
    rw [he, hFs.closes_at_rest (by simp only [POS_IDX_CAPTURE, POS_STATUS]; omega) hr hsh hi]
    refine ⟨hcap.capture.trans (Blk.val_of_reg fun i hi => hv.reg (by simp only [POS_COUNT]; omega)), hseen, ?_, hFs⟩
    rw [hnow, hv.now, filtN_one hN]
    omega

end Sys2Proof.Machine
end
